-- ==== Sys2Proof/Word.lean ====
section
/-! DEFINITION. The word types of the module: registers are 32 bits (R7), bit 0 is the least significant bit
(R5), a wide row or a vector flit is 64 bytes (R89, R182) with byte i at bits 8i+7 to 8i (R6). -/

namespace Sys2Proof

/-- A byte of any memory, message or record. -/
abbrev Byte := BitVec 8

/-- A register (R7) or a scalar processor word (R124). -/
abbrev Word := BitVec 32

/-- A wide row, a vector flit or an answer row: 64 bytes (R89, R182, R217). -/
abbrev Row := BitVec 512

/-- A command descriptor of a ring: 64 bytes (R564, R567). -/
abbrev Desc := BitVec 512

/-- An operation or block descriptor: 32 bytes (R103, R224). -/
abbrev OpDesc := BitVec 256

/-- A VZL flit: 256 bytes (R302). -/
abbrev Flit := BitVec 2048

/-- A weft frame: 16 bytes (R529). -/
abbrev Frame := BitVec 128

end Sys2Proof
end

