-- ==== Sys2Proof/Syntax.lean ====
section
/-! DEFINITION. The commands of the module: one constructor per row of spec/opcode_table.json, with the operands
that the row's rule gives it. A command that stands for an event at a part names the part; one that stands for a
message, a frame, a flit or a descriptor carries its bytes; one that stands for a write carries the value written. -/

namespace Sys2Proof

/-- A physical core of a die (R15). -/
structure CoreId where
  die : Fin 144
  pc : Fin 208
  deriving DecidableEq, Repr

/-- The index of a core among the 144 x 208 physical cores. -/
def CoreId.key (k : CoreId) : Nat := k.die.val * 208 + k.pc.val

/-- A flit of the vector or the scalar network, a scalar one in the low word, with the sideband bits that it got on a rim
link (R182, R219). -/
structure NetFlit where
  row : Row
  poison : Bool
  rej : Bool
  deriving DecidableEq, Repr

/-- What the five inputs of a router carry in one phase of a network: from north, east, south and west, and from its own core
(R171, R183). -/
structure Inputs where
  north : Option NetFlit
  east : Option NetFlit
  south : Option NetFlit
  west : Option NetFlit
  own : Option NetFlit
  deriving DecidableEq, Repr

/-- A voltage domain instance (R466). `dom` is the domain code of the table. -/
inductive DomInst where
  | die (d : Fin 144) (dom : Fin 3)
  | rim (panel : Fin 2) (dom : Fin 4)
  | stack (st : Fin 32) (dom : Fin 3)
  | port (p : Fin 64)
  | vaux
  | vbak
  deriving DecidableEq, Repr

/-- What a thermal sample measures (R494). -/
inductive ThermSrc where
  | die (d : Fin 144)
  | stack (st : Fin 32)
  | port (p : Fin 64)
  deriving DecidableEq, Repr

/-- The trigger of a live lane retraining (R319). -/
inductive RtTrigger where
  | temperature (now : Byte)
  | errors (lane : Fin 16)
  deriving DecidableEq, Repr

/-- An array of a core (R382). The scrubber of a wide bank is named by its bank (R392). -/
inductive ScrubArr where
  | wide (bank : Fin 16)
  | narrow
  | imem
  deriving DecidableEq, Repr

/-- Who requests a reset by no command and no watchdog (R33): host software by RST_REQ, the restart path, or Decnus after an
uncorrectable fault. -/
inductive ResetAgent where
  | host
  | restartPath
  | decnus
  deriving DecidableEq, Repr

/-- One step of the burn pattern (R483) with what it measured. -/
inductive BurnStep where
  | start
  | trim
  | stretchTiming (slow : List (Fin 144))
  | floorStep (notClean : List (Fin 144))
  | finish (idle : BitVec 16) (katFail : List CoreId)
  deriving DecidableEq, Repr

/-- A lane value that a hardware fault altered in a pass (the strike of R421's example). -/
structure Strike where
  row : Fin 512
  lane : Fin 32
  value : Word
  deriving DecidableEq, Repr

/-- What the FEC decoder of a lane found around a flit (R305): the symbols in error of the code words that passed since the lane's
flit before and carry no flit, and of those that it enters; `shared` when it begins in the code word in which that flit ended. -/
structure FecSeen where
  lane : Fin 16
  shared : Bool
  idle : List Nat
  errs : List Nat
  deriving DecidableEq, Repr

/-- RWRITE of R346, and the keep RWRITE of R442: `window` is bytes 6-7 whole. -/
structure RWriteMsg where
  src : BitVec 16
  dst : BitVec 16
  window : BitVec 16
  offset : BitVec 64
  sepoch : Word
  stag : Word
  round : BitVec 16
  hops : Byte
  data : List Byte
  deriving DecidableEq, Repr

/-- RREAD of R346, and the keep RREAD of R442. -/
structure RReadMsg where
  src : BitVec 16
  dst : BitVec 16
  window : BitVec 16
  offset : BitVec 64
  sepoch : Word
  stag : Word
  round : BitVec 16
  hops : Byte
  len8 : Byte
  rid : Word
  deriving DecidableEq, Repr

/-- RDATA of R346. -/
structure RDataMsg where
  src : BitVec 16
  dst : BitVec 16
  hops : Byte
  status : Byte
  rid : Word
  data : List Byte
  deriving DecidableEq, Repr

/-- An offset in one of the two BARs that hold memory (R562): the doorbells and the queue memory, or the aperture. -/
inductive BarAddr where
  | bar2 (off : BitVec 28)
  | bar4 (off : BitVec 36)
  deriving DecidableEq, Repr

/-- An access of 1 to 4,096 bytes lies within its BAR. -/
def BarAddr.within (a : BarAddr) (len : Nat) : Bool :=
  decide (1 ≤ len ∧ len ≤ 4096) &&
    match a with
    | .bar2 off => decide (off.toNat + len ≤ 2 ^ 28)
    | .bar4 off => decide (off.toNat + len ≤ 2 ^ 36)

/-- A GET_MEASUREMENTS request (R524): the index, and where a signature is asked for, the certificate slot and the nonce. -/
structure MeasRequest where
  index : Byte
  signed : Option (Byte × BitVec 256)
  deriving DecidableEq, Repr

/-- The commands, in the order of spec/opcode_table.json. -/
inductive Instr where
  -- start, resets, weft (R503, R528, R29 to R41, R529 to R533)
  | coldStart
  | startCoolantTimeout
  | watchdogExpiry
  | rstReqWarp (agent : ResetAgent := .host)
  | rstReqRim (agent : ResetAgent := .host)
  | rstReqModule (agent : ResetAgent := .host)
  | warpResetDone (katFail : List CoreId)
  | rimResetDone (bad : List (Fin 32 × Fin 20) := []) (katFail : List CoreId := [])
  | coreMarkedDead (k : CoreId)
  | weftRead (f : Frame)
  | weftWrite (f : Frame)
  | weftResponse (f : Frame)
  | weftEvent (f : Frame)
  | weftTelemetry (f : Frame)
  | weftBroadcast (f : Frame)
  | weftResendTimer (tag : BitVec 16)
  | weftRingBreak (ring : Fin 4) (die : Fin 144)
  | telemetrySample
  -- rounds (R47 to R88)
  | rndEnSet (v : Word)
  | markerEmit
  | roundMarker (port : Fin 64) (m : BitVec 192)
  | roundStart
  | delayedRoundStart
  | lateFault
  | missedMarker
  | stretchRequest (port : Option (Fin 64)) (m : BitVec 128)
  | rndSreqWrite (v : Word)
  -- scalar processor (R125)
  | add (k : CoreId) (d a b : Fin 32)
  | sub (k : CoreId) (d a b : Fin 32)
  | and (k : CoreId) (d a b : Fin 32)
  | or (k : CoreId) (d a b : Fin 32)
  | xor (k : CoreId) (d a b : Fin 32)
  | sll (k : CoreId) (d a b : Fin 32)
  | srl (k : CoreId) (d a b : Fin 32)
  | sra (k : CoreId) (d a b : Fin 32)
  | slt (k : CoreId) (d a b : Fin 32)
  | sltu (k : CoreId) (d a b : Fin 32)
  | mul (k : CoreId) (d a b : Fin 32)
  | mulhu (k : CoreId) (d a b : Fin 32)
  | addi (k : CoreId) (d a : Fin 32) (imm : BitVec 16)
  | andi (k : CoreId) (d a : Fin 32) (imm : BitVec 16)
  | ori (k : CoreId) (d a : Fin 32) (imm : BitVec 16)
  | xori (k : CoreId) (d a : Fin 32) (imm : BitVec 16)
  | slli (k : CoreId) (d a : Fin 32) (imm : BitVec 16)
  | srli (k : CoreId) (d a : Fin 32) (imm : BitVec 16)
  | srai (k : CoreId) (d a : Fin 32) (imm : BitVec 16)
  | lui (k : CoreId) (d : Fin 32) (imm : BitVec 16)
  | lb (k : CoreId) (d a : Fin 32) (imm : BitVec 16)
  | lbu (k : CoreId) (d a : Fin 32) (imm : BitVec 16)
  | lh (k : CoreId) (d a : Fin 32) (imm : BitVec 16)
  | lhu (k : CoreId) (d a : Fin 32) (imm : BitVec 16)
  | lw (k : CoreId) (d a : Fin 32) (imm : BitVec 16)
  | lp (k : CoreId) (d a : Fin 32) (imm : BitVec 16)
  | sb (k : CoreId) (d a : Fin 32) (imm : BitVec 16)
  | sh (k : CoreId) (d a : Fin 32) (imm : BitVec 16)
  | sw (k : CoreId) (d a : Fin 32) (imm : BitVec 16)
  | sp (k : CoreId) (d a : Fin 32) (imm : BitVec 16)
  | beq (k : CoreId) (d a : Fin 32) (imm : BitVec 16)
  | bne (k : CoreId) (d a : Fin 32) (imm : BitVec 16)
  | blt (k : CoreId) (d a : Fin 32) (imm : BitVec 16)
  | bge (k : CoreId) (d a : Fin 32) (imm : BitVec 16)
  | bltu (k : CoreId) (d a : Fin 32) (imm : BitVec 16)
  | bgeu (k : CoreId) (d a : Fin 32) (imm : BitVec 16)
  | jal (k : CoreId) (off : BitVec 26)
  | jalr (k : CoreId) (d a : Fin 32) (imm : BitVec 16)
  | issue (k : CoreId) (d a : Fin 32) (imm : BitVec 16)
  | issueResume (k : CoreId)
  | wait (k : CoreId) (d a : Fin 32) (imm : BitVec 16)
  | waitRelease (k : CoreId)
  | csrr (k : CoreId) (d a : Fin 32) (imm : BitVec 16)
  | csrw (k : CoreId) (d a : Fin 32) (imm : BitVec 16)
  | done (k : CoreId) (off : BitVec 26)
  | doneSignal (k : CoreId)
  | eret (k : CoreId) (off : BitVec 26)
  | illegalInstruction (k : CoreId) (w : Word)
  -- matrix engine and vector unit (R103 to R123, R244 to R258, R416 to R423)
  | wloadStart (k : CoreId)
  | wloadComplete (k : CoreId)
  | mpassStart (k : CoreId)
  | mpassComplete (k : CoreId) (strikes : List Strike)
  | recomputationComplete (k : CoreId) (strikes : List Strike) (katPass : Bool)
  | aoutStart (k : CoreId)
  | aoutComplete (k : CoreId)
  | aclrStart (k : CoreId)
  | aclrComplete (k : CoreId)
  | vopStart (k : CoreId)
  | vopComplete (k : CoreId)
  | trkClrAll (die : Fin 144) (v : Word)
  -- sections and fabric (R167 to R204)
  | switchReadyGather
  | sectionGo
  | outboundBurst (k : CoreId) (ch : Fin 16)
  | inboundFlit (k : CoreId) (scalar : Bool) (phase : Fin 4) (input : Fin 5) (flit : NetFlit) (others : Inputs)
  | flagExpire (k : CoreId) (b : Fin 64)
  -- edge memory (R205 to R221)
  | edgeReadRequest (st : Fin 32) (link : Fin 16) (phase : Fin 4) (flit : Row)
  | edgeWriteRequest (st : Fin 32) (link : Fin 16) (phase : Fin 4) (flit : Row)
  | transposedReadRequest (st : Fin 32) (link : Fin 16) (phase : Fin 4) (flit : Row)
  | writeDataRow (st : Fin 32) (link : Fin 16) (phase : Fin 4) (row : Row) (poison : Bool)
  | answerRowSend (st : Fin 32) (link : Fin 16) (phase : Fin 4)
  | writeReply (st : Fin 32) (link : Fin 16) (phase : Fin 4)
  | refreshCommand (st : Fin 32) (q : Fin 40)
  | splitSlotBoundary (st : Fin 32)
  | pcRetrainStart (st : Fin 32) (temp : Byte)
  | pcRetrainDone (st : Fin 32)
  | pcRetrainRetry (st : Fin 32)
  | retrainRewrite (st : Fin 32)
  -- stream engines (R222 to R235)
  | slistStart (k : CoreId) (se : Fin 2)
  | blockDescriptorFetch (k : CoreId) (se : Fin 2)
  | blockComplete (k : CoreId) (se : Fin 2)
  | streamInboundFlit (k : CoreId) (se : Fin 2) (row : Row) (poison rej : Bool)
  | tcopyStart (k : CoreId) (se : Fin 2)
  | tcopyComplete (k : CoreId) (se : Fin 2)
  | emcSplitWrite (v : Word)
  | emcRimphWrite (v : Word)
  -- training engines (R262 to R295)
  | updateList (q : Fin 16) (d : Desc)
  | updateJobEnd (u : Fin 32)
  | uuStop (v : Word)
  | digest (port : Fin 64) (m : BitVec 192)
  | digestTimeout
  -- optical ports (R296 to R329)
  | vzlFlit (port : Fin 64) (f : Flit) (fec : FecSeen)
  | replayTimeout (port : Fin 64)
  | idleFlitTimer (port : Fin 64)
  | laneFree (port : Fin 64) (lane : Fin 16)
  | lightDetect (port : Fin 64)
  | eqComplete (port : Fin 64) (failed : BitVec 16)
  | alignComplete (port : Fin 64) (swapped : Bool)
  | speedComplete (port : Fin 64) (failed : BitVec 16)
  | identity (port : Fin 64) (m : BitVec 256)
  | identityResend (port : Fin 64)
  | echoSend (port : Fin 64)
  | echo (port : Fin 64) (m : BitVec 128)
  | linkDown (port : Fin 64) (lost : BitVec 16)
  | retryTimerExpiry (port : Fin 64)
  | prtCfgEnWrite (port : Fin 64) (v : Word)
  | prtRtreq (port : Fin 64) (v : Word)
  | laneRetrainTrigger (port : Fin 64) (t : RtTrigger)
  | retrainRequest (port : Fin 64) (m : BitVec 64)
  | retrainGrant (port : Fin 64) (m : BitVec 64)
  | laneRetrainComplete (port : Fin 64) (ok : Bool)
  | retrainDone (port : Fin 64) (m : BitVec 64)
  -- remote access (R330 to R363)
  | remoteReadRequest (port : Fin 64) (link : Fin 16) (phase : Fin 4) (flit : Row)
  | remoteWriteRequest (port : Fin 64) (link : Fin 16) (phase : Fin 4) (flit : Row) (rows : List Row)
  | rwrite (port : Fin 64) (m : RWriteMsg)
  | rread (port : Fin 64) (m : RReadMsg)
  | rdata (port : Fin 64) (m : RDataMsg)
  | lnack (port : Fin 64) (m : BitVec 256)
  | fprobe (port : Fin 64) (m : BitVec 128)
  | fackSend (port : Fin 64) (src : BitVec 16)
  | fack (port : Fin 64) (m : BitVec 128)
  | systemFenceTimeout
  | rreadTimeout (port : Fin 64) (rid : Word)
  | lateWriteScan (port : Fin 64)
  | ptnSelWrite (v : Word)
  | winSelWrite (v : Word)
  | sysTwinWrite (v : Word)
  -- protection (R382 to R415)
  | scrubRead (k : CoreId) (arr : ScrubArr)
  | scrubWriteback (k : CoreId) (arr : ScrubArr)
  | edgeScrubRead (st : Fin 32)
  | edgeScrubRewrite (st : Fin 32)
  | dieLostMark (st : Fin 32) (d : Fin 20)
  | logclr (die : Fin 144) (v : Word)
  | emsLogselWrite (st : Fin 32) (v : Word)
  | emsLogClr (st : Fin 32) (v : Word)
  | chkRawWrite (die : Fin 144) (v : Word)
  | chkRawRead (die : Fin 144) (v : Word)
  | chkCheckedRead (die : Fin 144) (v : Word)
  | edgeRawSymbolWrite (v : Word)
  | edgeRawSymbolRead (v : Word)
  | edgeCheckedRead (v : Word)
  | mntSelWrite (v : Word)
  | tokenGranted (tok : Fin 528)
  | katRequest (die : Fin 144) (v : Word)
  | katComplete (die : Fin 144) (pass : Bool)
  -- lockstep (R427 to R438)
  | lockstepDigest (port : Fin 64) (round : Word) (dig : BitVec 64)
  | lockstepDigestMissing
  | lsCtrlClr (v : Word)
  -- seals and restores (R439 to R462)
  | keepRwrite (port : Fin 64) (m : RWriteMsg)
  | keepRread (port : Fin 64) (m : RReadMsg)
  | keepRdata (port : Fin 64) (m : RDataMsg)
  | sealSessionTimeout
  | sealEnergyTimeout
  -- power, clocks, cooling (R463 to R502)
  | feedLost (feedB : Bool)
  | feedTaken (feedB : Bool)
  | inputLoss
  | inputReturn
  | lastGaspWrite
  | bankExhausted
  | domainFault (i : DomInst)
  | domainFaultOff (i : DomInst)
  | powerSequenceStep (failed : List DomInst) (bad : List (Fin 32 × Fin 20) := [])
  | powerDownStep
  | powerSample (p : BitVec 16) (over5ms : Bool)
  | capUnmet (avg100 : BitVec 16)
  | droopTrip (die : Fin 144) (sensor : Fin 32)
  | stretchEnd (die : Fin 144) (cycles : Nat)
  | dieVcmd (die : Fin 144) (v : Word)
  | vcmdTakeEffect (die : Fin 144) (varr : Bool)
  | slewReached (die : Fin 144) (varr : Bool)
  | settledTimer (die : Fin 144) (varr : Bool)
  | thermalSample (src : ThermSrc) (temp : Byte)
  | coolantSample (inlet outlet : Byte) (flow : BitVec 16) (held1s : Bool)
  | vminSample (i : DomInst) (v : BitVec 11)
  | vminSelWrite (die : Fin 144) (v : Word)
  | vminClr (die : Fin 144) (v : Word)
  | pwrVminSelWrite (v : Word)
  | pwrVminClr (v : Word)
  | burnStep (b : BurnStep)
  | bankFull (energy : BitVec 16)
  | writeSequenceStart
  -- ledger, calendar, telemetry (R534 to R557)
  | ledgerRecordWrite
  | ledgerRecordCommitted
  | calSetHiWrite (v : Word)
  | calSecLoRead
  | telMselWrite (v : Word)
  -- cradle management (R550 to R553)
  | setEndpointId (eid : Byte)
  | getEndpointId
  | getMctpVersionSupport
  | getMessageTypeSupport
  | gettid
  | getpldmversion
  | getpldmtypes
  | getpldmcommands (typ : Byte)
  | getpdr (handle : Word)
  | getsensorreading (sensor : BitVec 16)
  | getstatesensorreadings (sensor : BitVec 16)
  | setstateeffecterstates (effecter : BitVec 16) (state : Byte)
  | seteventreceiver (eid : Byte)
  | pollforplatformeventmessage
  | getdatetime
  | setdatetime (sec : BitVec 48)
  | querydeviceidentifiers
  | getfirmwareparameters
  | requestupdate
  | passcomponenttable
  | updatecomponent (length : Word)
  | requestfirmwaredata (offset : Word) (data : List Byte)
  | activatefirmware
  | getstatus
  | cancelupdate
  -- attestation (R524) and DOE (R560)
  | getVersion
  | getCapabilities
  | negotiateAlgorithms (hash sign : Bool)
  | getDigests
  | getCertificate (slot : Byte) (offset length : BitVec 16)
  | challenge (slot : Byte) (nonce : BitVec 256)
  | getMeasurements (index : MeasRequest)
  | doeDiscovery (index : Byte)
  -- host link (R558 to R581)
  | functionLevelReset
  | perstAssert
  | perstRelease (gen width : BitVec 5) (flitMode : Bool)
  | apertureRead (off : BarAddr) (len : Nat)
  | apertureWrite (off : BarAddr) (data : List Byte)
  | cqTail (q : Fin 16) (v : Word)
  | cpHead (q : Fin 16) (v : Word)
  | ringEnable (q : Fin 16) (v : Word)
  | ringDisable (q : Fin 16) (v : Word)
  | ringConfigViolation (q : Fin 16) (off : BitVec 6) (v : Word)
  | commandFetch (q : Fin 16) (d : Option Desc)
  | completionWrite (q : Fin 16) (ok : Bool)
  | coalesceTimer (q : Fin 16)
  | hostIrqCauseWrite (v : Word)
  -- host commands (R573)
  | nop (q : Fin 16) (d : Desc)
  | sectionLoad (q : Fin 16) (d : Desc)
  | sectionStop (q : Fin 16) (d : Desc)
  | fenceModule (q : Fin 16) (d : Desc)
  | fenceSystem (q : Fin 16) (d : Desc)
  | windowOpen (q : Fin 16) (d : Desc)
  | windowClose (q : Fin 16) (d : Desc)
  | partnerAddForwarded (q : Fin 16) (d : Desc)
  | partnerRemove (q : Fin 16) (d : Desc)
  | partnerAssignId (q : Fin 16) (d : Desc)
  | partnerUnassign (q : Fin 16) (d : Desc)
  | roundSet (q : Fin 16) (d : Desc)
  | digestSet (q : Fin 16) (d : Desc)
  | seal (q : Fin 16) (d : Desc)
  | restore (q : Fin 16) (d : Desc)
  | restoreServe (q : Fin 16) (d : Desc)
  | restartHold (q : Fin 16) (d : Desc)
  | restartArm (q : Fin 16) (d : Desc)
  | resume (q : Fin 16) (d : Desc)
  | hostCopyToEdge (q : Fin 16) (d : Desc) (data : Option (List Byte))
  | hostCopyToHost (q : Fin 16) (d : Desc) (hostOk : Bool)
  | ckptExport (q : Fin 16) (d : Desc) (hostOk : Bool)
  | ckptImport (q : Fin 16) (d : Desc) (data : Option (List Byte))
  | ledgerReadRaw (q : Fin 16) (d : Desc) (hostOk : Bool)
  | ledgerReadCper (q : Fin 16) (d : Desc) (hostOk : Bool)
  | licenceInstall (q : Fin 16) (d : Desc) (data : Option (List Byte))
  | keyFuseProgram (q : Fin 16) (d : Desc) (data : Option (List Byte))
  | keyFuseRevoke (q : Fin 16) (d : Desc) (data : Option (List Byte))
  | fwUpdate (q : Fin 16) (d : Desc) (data : Option (List Byte))
  | maintWarpReset (q : Fin 16) (d : Desc)
  | maintRimReset (q : Fin 16) (d : Desc)
  | maintEdgeCheckerBegin (q : Fin 16) (d : Desc)
  | maintScratchpadCheckerBegin (q : Fin 16) (d : Desc)
  | maintEndActivity (q : Fin 16) (d : Desc)
  | powerOff (q : Fin 16) (d : Desc)
  -- registers (R584, R8) and the rest
  | rcFieldRead (off : BitVec 24) (be : BitVec 4)
  | registerWrite (off : BitVec 24) (be : BitVec 4) (v : Word)
  | writeSequenceEnd
  | calendarClockStop
  | i3cDynamicAddress (addr : BitVec 7)
  | gaugeEstimateUpdate (coul model : BitVec 16)
  deriving DecidableEq, Repr

end Sys2Proof
end

