-- ==== Sys2Proof/Config.lean ====
section
/-! DEFINITION. What the spec leaves open or names without giving its arithmetic: every constant here has no body, so
nothing proves a value of it. Log entries 4 and 6 say which rule leaves which of them open. -/

namespace Sys2Proof.Config

/-- The n-th free word drawn (log entry 4). -/
opaque free32 : Nat → BitVec 32

/-- The n-th free 64-bit value drawn. -/
opaque free64 : Nat → BitVec 64

/-- The n-th free number drawn: the split of a sparse group, bit by bit (R156). -/
opaque freeNat : Nat → Nat

/-- Which value within 1 ulp EXP2 returns for num * 2^exp away from the values that R153 fixes (R122). -/
opaque exp2 : Int → Int → BitVec 32

/-- Which value within 1 ulp LOG2 returns for an FP32 number away from the values that R153 fixes (R122). -/
opaque log2 : BitVec 32 → BitVec 32

/-- Which value within 1 ulp RCP returns for an FP32 number away from the values that R153 fixes (R122). -/
opaque rcp : BitVec 32 → BitVec 32

/-- Which value within 1 ulp RSQRT returns for an FP32 number away from the values that R153 fixes (R122). -/
opaque rsqrt : BitVec 32 → BitVec 32

/-- The ROM version, major in the high byte (R515, R526), and the digest of the mask ROM (R524). -/
opaque romVersion : BitVec 16
opaque romDigest : BitVec 384

/-- The licence key whose hash is fused (R520). -/
opaque licenceKey : List Byte

/-- The platform descriptor record at a handle (R550). -/
opaque pdr : Nat → List Byte

/-- The signature that the attestation key makes over a digest (R524). -/
opaque sign : BitVec 384 → List Byte

/-- The certificate chain of slot 0 (R524). -/
opaque certChain : List Byte

end Sys2Proof.Config
end

