-- ==== Sys2Proof/Machine/Flags.lean ====
section
/-! DEFINITION. How register fields change: saturating counts (R139, R165 and others) and write-one-to-clear bits
(R8). The module has no processor flags; these are its flag computations. -/

namespace Sys2Proof.Machine

/-- Add a number to a count that saturates at all ones. -/
def satAdd {w : Nat} (x : BitVec w) (n : Nat) : BitVec w :=
  if x.toNat + n < 2 ^ w then BitVec.ofNat w (x.toNat + n) else BitVec.allOnes w

/-- Add 1 to a count that saturates at all ones. -/
def satInc {w : Nat} (x : BitVec w) : BitVec w := satAdd x 1

/-- A write of `v` to write-one-to-clear bits (R8). -/
def w1c {w : Nat} (x v : BitVec w) : BitVec w := x &&& ~~~ v

/-- Set bit i. -/
def setBit {w : Nat} (x : BitVec w) (i : Nat) : BitVec w := x ||| BitVec.ofNat w (2 ^ i)

/-- Clear bit i. -/
def clrBit {w : Nat} (x : BitVec w) (i : Nat) : BitVec w := x &&& ~~~ BitVec.ofNat w (2 ^ i)

/-- The bits `lo` to `lo + len - 1`. -/
def fld {w : Nat} (x : BitVec w) (lo len : Nat) : BitVec len := x.extractLsb' lo len

/-- Bit i as a Bool. -/
def bit {w : Nat} (x : BitVec w) (i : Nat) : Bool := x.getLsbD i

/-- A flag as a bit. -/
def b1 (b : Bool) : BitVec 1 := BitVec.ofBool b

/-- Byte i (R6). -/
def byteAt {w : Nat} (x : BitVec w) (i : Nat) : Byte := x.extractLsb' (8 * i) 8

/-- Replace byte i. -/
def setByte {w : Nat} (x : BitVec w) (i : Nat) (b : Byte) : BitVec w :=
  (x &&& ~~~ BitVec.ofNat w (255 * 2 ^ (8 * i))) ||| BitVec.ofNat w (b.toNat * 2 ^ (8 * i))

/-- The number whose bytes, least significant first, are `bs` (R6). -/
def ofBytes : List Byte → Nat
  | [] => 0
  | b :: t => b.toNat + 256 * ofBytes t

/-- The n bytes of a number, least significant first (R6). -/
def toBytes : Nat → Nat → List Byte
  | 0, _ => []
  | n + 1, x => BitVec.ofNat 8 x :: toBytes n (x / 256)

/-- The bytes of a bit vector, least significant first. -/
def bytesOf {w : Nat} (x : BitVec w) : List Byte := toBytes (w / 8) x.toNat

/-- Bytes `off` to `off + n - 1` of a list of bytes as a number. -/
def numAt (bs : List Byte) (off n : Nat) : Nat := ofBytes ((bs.drop off).take n)

/-- Ceiling of a quotient. -/
def ceilDiv (a b : Nat) : Nat := (a + b - 1) / b

/-- A two's complement number in 32 bits. -/
def int32 (x : Int) : Word := BitVec.ofInt 32 x

end Sys2Proof.Machine
end

