-- ==== Sys2Proof/Machine/Base.lean ====
section
/-! DEFINITION. The data shapes that every block of the state is made of: sparse tables, byte memories, what leaves
the module, and the events of the fault ledger. -/

namespace Sys2Proof.Machine

/-- A sparse table: pairs of key and value with strictly rising keys, no value equal to the table's default. -/
abbrev Tbl (α : Type) := List (Nat × α)

/-- A byte memory: cells of strictly rising addresses; an address that is not listed reads 0. -/
abbrev Mem := List (Nat × Byte)

/-- A count that a read of its register clears. It is kept without the register's limit, at which the register shows it, so that a read in
the cycle of an update can leave the update alone (R584, R587). -/
abbrev Count := BitVec 64

/-- A count as a field of its register shows it: saturated. -/
def shown (n : Nat) (x : Count) : BitVec n := if x.toNat < 2 ^ n then x.setWidth n else BitVec.allOnes n

/-- An exact dyadic number num * 2^exp: a real value before it is rounded to a number format (R144). -/
structure Dy where
  num : Int
  exp : Int
  deriving DecidableEq, Repr

/-- An event for the fault ledger (R434, R536, R540): `round` is the round in force when it arose. -/
structure Event where
  cls : BitVec 16
  scope : Byte
  flags : Byte
  die : BitVec 16
  unit : BitVec 16
  loc : BitVec 64
  detail : List Byte
  round : BitVec 48
  deriving DecidableEq, Repr

/-- A record of the ledger flash (R536) at its place; `valid` says that COMMIT is programmed. -/
structure LedRec where
  seq : BitVec 64
  ev : Event
  sec : BitVec 48
  frac : BitVec 16
  lost : Bool
  epoch : Word
  id : BitVec 16
  block : Nat
  offset : Nat
  valid : Bool
  deriving DecidableEq, Repr

/-- A command that is owed a completion: its ring and its number in the order of acceptance (R566). -/
structure Owed where
  ring : Nat
  tok : Nat
  deriving DecidableEq, Repr

/-- A message of a VZL link, queued at a port (R302 to R306); `urgent` ones are the round messages. -/
inductive Msg where
  | marker (m : BitVec 192)
  /-- A copy of a marker that this module forwards, with the instant at which it arrived: LEAD counts from there until the
  copy leaves (R52). -/
  | relay (m : BitVec 192) (since : Nat)
  | stretch (m : BitVec 128)
  | digest (m : BitVec 192)
  | lockstep (round : Word) (dig : BitVec 64)
  | identity (m : BitVec 256)
  | echo (m : BitVec 128)
  /-- An echo of the partner that goes back, with the instant at which it arrived: its time here is subtracted (R314). -/
  | echoBack (m : BitVec 128) (since : Nat)
  | retrain (m : BitVec 64)
  | rwrite (m : RWriteMsg)
  | rread (m : RReadMsg)
  | rdata (m : RDataMsg)
  | lnack (m : BitVec 256)
  | fprobe (m : BitVec 128)
  | fack (m : BitVec 128)
  deriving DecidableEq, Repr

/-- A message that Decnus sends over MCTP or DOE (R550 to R553, R524, R560): its kind (0x00 MCTP control, 0x10 + t PLDM of
type t, 0x05 SPDM, 0x01 DOE), its command, its completion code and its data. -/
structure Reply where
  group : Byte
  command : Byte
  code : Byte
  data : List Byte
  deriving DecidableEq, Repr

/-- What left the module, the model's own record of its outputs. -/
inductive OutEv where
  /-- An MSI-X vector (R577, R578). -/
  | vector (v : BitVec 6)
  /-- A completion entry written to host memory (R568). -/
  | completion (ring index : Nat) (entry : BitVec 128)
  /-- Bytes written to host memory (R573). -/
  | hostWrite (addr : BitVec 64) (data : List Byte)
  /-- The data of a register read (R584). -/
  | readData (off : BitVec 24) (v : Word)
  /-- The data of an aperture read (R563); `ep` is the poisoned completion. -/
  | apertureData (data : List Byte) (ep : Bool)
  /-- A weft frame (R529). -/
  | weft (f : Frame)
  /-- A flit that a router sent on an output (R182). -/
  | routerFlit (core output phase : Nat) (scalar : Bool) (f : NetFlit)
  /-- A row that a stack (unit 0 to 31) or a port (unit 32 + port) sent on a rim link (R217, R343) with its sideband
  bits (R219). -/
  | rimRow (unit link phase : Nat) (row : Row) (poison rej : Bool)
  /-- A VZL flit that a lane of a port took (R305). -/
  | vzlFlit (port lane : Nat) (f : Flit)
  /-- A code word that a lane's FEC encoder filled (R305). -/
  | codeWord (port lane : Nat) (symbols : List (BitVec 10))
  /-- A marker, a retrain or an identity message that a port sent outside the message queue. -/
  | portMsg (port : Nat) (m : Msg)
  /-- A response of Decnus. -/
  | reply (r : Reply)
  /-- A PlatformEventMessage with a CPER record (R552). -/
  | platformEvent (data : List Byte)
  deriving DecidableEq, Repr

end Sys2Proof.Machine
end

