-- ==== Sys2Proof/Machine/CoreState.lean ====
section
/-! DEFINITION. The state of one physical core: its arrays, its scalar processor, its engines and its router
(03_core.md, 05_sections_and_fabric.md, 06_edge_memory_and_skeins.md, 07_sparsity.md, 12_stored_data_protection.md,
13_result_checking.md). -/

namespace Sys2Proof.Machine

/-- A queued operation descriptor and the PC of the ISSUE that queued it (R103, R135). -/
structure QDesc where
  d : OpDesc
  pc : Word
  deriving DecidableEq, Repr

/-- What the scalar processor is doing (R105, R127, R128). -/
inductive PMode where
  | idle
  | running
  | stallIssue (e : Fin 4) (q : QDesc)
  | waiting (e : Fin 4) (target : Word)
  | draining
  deriving DecidableEq, Repr

/-- The scalar processor (R124 to R132). -/
structure Proc where
  /-- G1 to G31; G0 reads zero (R125). -/
  g : Tbl Word
  pc : Word
  mode : PMode
  entry : Word
  tvec : Word
  epc : Word
  /-- The CAUSE CSR: bit 8 class, bits 7:0 cause. -/
  cause : BitVec 9
  faddr : Word
  scratch : Word
  /-- CORE_STAT.INEXC. -/
  inexc : Bool
  /-- A class U fault was taken: the core halts when its program ends (R132). -/
  uPending : Bool
  /-- CORE_STAT.HALTED. -/
  halted : Bool
  /-- The core counts as done in the current round (R63), and since when (R62). -/
  done : Bool
  doneAt : Nat
  /-- CORE_STAT.DONE: the core signalled done in the current round (R128, R133). -/
  signalled : Bool
  deriving DecidableEq, Repr

def Proc.reset : Proc :=
  { g := [], pc := 0, mode := .idle, entry := 0, tvec := 0, epc := 0, cause := 0, faddr := 0, scratch := 0,
    inexc := false, uPending := false, halted := false, done := false, doneAt := 0,
    signalled := false }

/-- The per-core registers (R134 to R139, R203, R260, R261, R412). -/
structure CoreRegs where
  fValid : Bool
  fClass : Bool
  fMulti : Bool
  fRound : BitVec 16
  fCause : Byte
  fAddr : Word
  fEpc : BitVec 14
  ssRows : BitVec 11
  ssBase : BitVec 15
  hazCount : Count
  hazEn : Bool
  hazValid : Bool
  hazSrc : Bool
  hazRow : BitVec 15
  scnt : BitVec 16
  ucnt : BitVec 16
  /-- CORE_RFAULT: TWINE, STAGE, OVERRUN. -/
  rfault : BitVec 3
  spDrop : Count
  spValid : Bool
  spKind : BitVec 3
  spPos : Byte
  spTag : BitVec 16
  ueCnt : Count
  ceCnt : Count
  deriving DecidableEq, Repr

def CoreRegs.reset : CoreRegs :=
  { fValid := false, fClass := false, fMulti := false, fRound := 0, fCause := 0, fAddr := 0, fEpc := 0, ssRows := 0,
    ssBase := 0, hazCount := 0, hazEn := false, hazValid := false, hazSrc := false, hazRow := 0, scnt := 0, ucnt := 0,
    rfault := 0, spDrop := 0, spValid := false, spKind := 0, spPos := 0, spTag := 0, ueCnt := 0, ceCnt := 0 }

/-- A weight tile as a WLOAD read it (R109 to R112, R244 to R253). -/
structure Tile where
  /-- The empty tile of R112. -/
  empty : Bool
  wfmt : BitVec 4
  sfmt : BitVec 2
  kind : BitVec 3
  cbase : BitVec 16
  span : Nat
  rows : List Row
  scales : List Byte
  metaRows : List Row
  deriving DecidableEq, Repr

def Tile.reset : Tile :=
  { empty := true, wfmt := 0, sfmt := 0, kind := 0, cbase := 0, span := 1, rows := [], scales := [], metaRows := [] }

/-- An accumulator row: 32 FP32 lanes (lane j at bits 32j+31 to 32j), checksum C, magnitude A, rounding count n and
whether a product of the row was infinite or NaN since its last clear (R117, R416 to R418). -/
structure AccRow where
  lanes : BitVec 1024
  c : Word
  a : Word
  n : BitVec 16
  bad : Bool
  deriving DecidableEq, Repr

def AccRow.reset : AccRow := { lanes := 0, c := 0, a := 0, n := 0, bad := false }

/-- The wide rows that an engine still has to read, and those that it has read (R98, R99). -/
structure Reads where
  left : List Nat
  got : List Row
  deriving DecidableEq, Repr

/-- A WLOAD in progress (R112, R255): its stored rows, its scale rows and its metadata rows. -/
structure Load where
  q : QDesc
  /-- The fabric cycle at which it ends, as far as it has read its rows. -/
  ends : Nat
  tile : Reads
  scales : Reads
  metas : Reads
  deriving DecidableEq, Repr

/-- A matrix pass in progress (R113 to R116, R419): its activation rows and its activation scale rows, and the fabric cycles of its
start and its end, as far as it has read its rows. -/
structure Pass where
  q : QDesc
  tile : Tile
  acts : Reads
  scales : Reads
  start : Nat
  ends : Nat
  deriving DecidableEq, Repr

/-- Bytes that wait for their slot, all in one wide row. -/
structure Piece where
  addr : Nat
  data : List Byte
  deriving DecidableEq, Repr

/-- An AOUT in progress (R118): the fabric cycle at which it ends, as far as it has written its rows, the pieces that it has still to
write, those of one wide row together, and what its conversions present to the tracker, with their saturation. -/
structure AoutRun where
  q : QDesc
  ends : Nat
  left : List (List Piece)
  seen : List (Word × Bool)
  deriving DecidableEq, Repr

/-- An ACLR in progress and the fabric cycle at which it ends (R119). -/
structure AclrRun where
  q : QDesc
  ends : Nat
  deriving DecidableEq, Repr

/-- A row that mismatched first: its exact lane sum (none when a lane or C is not finite) and its tolerance. -/
structure BadRow where
  row : Nat
  sum : Option Dy
  cks : Word
  tol : Dy
  n : BitVec 16
  deriving DecidableEq, Repr

/-- An arbitration in progress (R421 to R423). -/
structure Arb where
  x : Pass
  prior : List (Nat × AccRow)
  bad : List BadRow
  abandoned : List Pass
  /-- The fabric cycle from which the arbitration delay runs (R423). -/
  since : Nat
  deriving DecidableEq, Repr

/-- The matrix engine (R108 to R119). -/
structure Matrix where
  active : Tile
  shadow : Tile
  /-- The shadow tile holds a loaded tile that no swap has taken yet (R112). -/
  shadowFull : Bool
  loading : Option Load
  acc : Tbl AccRow
  /-- Passes in progress, oldest first. -/
  passes : List Pass
  aout : Option AoutRun
  /-- ACLRs in progress, oldest first: one does not wait for another (R119). -/
  aclr : List AclrRun
  arb : Option Arb
  /-- The known-answer test runs on this core (R424). -/
  kat : Bool
  deriving DecidableEq, Repr

def Matrix.reset : Matrix :=
  { active := .reset, shadow := .reset, shadowFull := false, loading := none, acc := [], passes := [], aout := none,
    aclr := [], arb := none, kat := false }

/-- A vector operation in progress (R120 to R123): the fabric cycle at which it ends, as far as it has made its accesses, the rows it
has still to read, those it has read, and once it has converted its results the pieces of them that it has still to write. -/
structure VopRun where
  q : QDesc
  ends : Nat
  left : List Nat
  got : List (Nat × Row)
  out : Option (List Piece)
  deriving DecidableEq, Repr

/-- A block in flight of a block list (R223 to R234). -/
structure Blk where
  no : Nat
  desc : OpDesc
  /-- The run that its answer rows have reached. -/
  run : Nat
  /-- The source bytes of that run taken so far. -/
  src : List Byte
  /-- Elements of that run converted so far. -/
  conv : Nat
  /-- The destination bytes of that run formed so far. -/
  dst : List Byte
  /-- Destination bytes of that run written so far. -/
  wrote : Nat
  /-- Rows of that run that the engine has read, where the source is local. -/
  read : Nat
  /-- The first turn whose N slot serves it (R606). -/
  turn : Nat
  /-- Its work is done; it completes when BLOCK_COMPLETE comes. -/
  ready : Bool
  deriving DecidableEq, Repr

/-- A block list in progress (R222, R223). -/
structure SList where
  q : QDesc
  next : Nat
  fetched : Nat
  blocks : Nat
  recs : Nat
  last : Bool
  inflight : List Blk
  deriving DecidableEq, Repr

/-- Rows or replies that a stream engine awaits, in the order of its requests: the block, or none for a block whose
stream has stopped (R231, R234). -/
structure Await where
  blk : Option Nat
  rows : Nat
  deriving DecidableEq, Repr

/-- A row, or a part of one, that waits for a W slot (R186, R606): the channel or the block that writes it, and the first turn
that serves it. `paced` marks a row of a conversion (R227). -/
structure WRow where
  by_ : Nat
  piece : Piece
  turn : Nat
  paced : Bool
  deriving DecidableEq, Repr

/-- A flit of a block that waits for the phase of its engine's outbound channel (R231): a request, with the rows or replies that
it asks for, or a data row of a write. -/
structure OutFlit where
  blk : Nat
  row : Row
  /-- Rows that the engine awaits once the request has left; a data row asks for none. -/
  asks : Nat
  deriving DecidableEq, Repr

/-- A TCOPY in progress and the fabric cycle at which it ends (R235). -/
structure TcopyRun where
  q : QDesc
  ends : Nat
  deriving DecidableEq, Repr

/-- A stream engine (R222 to R235). -/
structure Stream where
  list : Option SList
  tcopy : Option TcopyRun
  await : List Await
  /-- Flits that wait for their turn of its outbound channel, in the order of their blocks (R217, R231). -/
  out : List OutFlit
  /-- Rows that wait for their W slot (R606). -/
  wait : List WRow
  deriving DecidableEq, Repr

def Stream.reset : Stream := { list := none, tcopy := none, await := [], out := [], wait := [] }

/-- A flit on its way: the cycles that it still needs, the core, and the input of its router by which it comes, 0 to 3, or 4 + d
where it leaves that router for the rim in direction d (R184). -/
structure Flight where
  left : Nat
  core : Nat
  input : Nat
  scalar : Bool
  flit : NetFlit
  deriving DecidableEq, Repr

/-- The fabric clock, the wheels and the networks of the module (R96, R183). Every die completes the same fabric cycles (R476), so one
count stands for all. -/
structure Fabric where
  /-- The reference cycle of the last round start, from which the count of the round runs (R129). -/
  began : Nat
  /-- Fabric cycles of earlier rounds. -/
  past : Nat
  /-- Reference cycles of the round that stretches before the one that runs took (R476). -/
  lost : Nat
  /-- When the stretch that runs began, or what of it was counted last ended (R475, R476). -/
  since : Option Nat
  /-- The fabric cycles of the round that the wheels have been through. -/
  cycle : Nat
  /-- The flits on their way, oldest first. -/
  flights : List Flight
  deriving DecidableEq, Repr

def Fabric.reset : Fabric := { began := 0, past := 0, lost := 0, since := none, cycle := 0, flights := [] }

/-- A flit that an outbound timed channel sends in a turn and a phase (R185). -/
structure Send where
  turn : Nat
  phase : Nat
  scalar : Bool
  row : Row
  deriving DecidableEq, Repr

/-- The router tables and the state of the timed channels (R171 to R173, R185 to R187). -/
structure Router where
  xbarV : BitVec 320
  xbarS : BitVec 320
  chans : Tbl (BitVec 256)
  bufs : Tbl (BitVec 64)
  /-- Flits delivered to an inbound channel in this round (R186). -/
  inCnt : Tbl Nat
  /-- Words gathered of an inbound scalar row. -/
  inRow : Tbl Row
  /-- Flits sent by an outbound channel in this round (R185). -/
  outCnt : Tbl Nat
  /-- Flits that the outbound channels have still to send. -/
  sends : List Send
  /-- Inbound rows that wait for their W slot, in the order of their arrival (R187). -/
  wait : List WRow
  /-- The rows that the W slot of the current turn wrote, and whether a stream engine wrote them (R102). -/
  wrote : List (Nat × Bool)
  /-- The last turn in which an outbound channel read, and the banks that the channels took in it (R97). -/
  nTurn : Nat
  nBanks : List Nat
  deriving DecidableEq, Repr

def Router.reset : Router :=
  { xbarV := 0, xbarS := 0, chans := [], bufs := [], inCnt := [], inRow := [], outCnt := [], sends := [], wait := [],
    wrote := [], nTurn := 0, nBanks := [] }

/-- Filled flags, fill counts and the section round index at which a flag was set (R195 to R198). -/
structure Filled where
  flags : BitVec 64
  counts : Tbl Nat
  setAt : Tbl Nat
  deriving DecidableEq, Repr

def Filled.reset : Filled := { flags := 0, counts := [], setAt := [] }

/-- One physical core. -/
structure Core where
  /-- The narrow bank and the wide banks by local byte address (R89). -/
  sp : Mem
  /-- Writes to the narrow bank that wait for the slot of the DMA (R101). -/
  dma : List Piece
  /-- The instruction memory by byte address. -/
  imem : Mem
  /-- Nonzero syndromes of stored words (R383): narrow byte a at a, wide word at its address, instruction word w at
  0x10000000 + 4w. -/
  synd : Tbl Byte
  p : Proc
  r : CoreRegs
  /-- ECNT0 to ECNT3 (R105). -/
  ecnt : Tbl (BitVec 16)
  /-- The descriptor queues of engines 0 to 3 (R105). -/
  queues : Tbl (List QDesc)
  /-- Bit e: engine e stopped after a class U fault or a steward stop (R132, R398). -/
  stopped : BitVec 4
  mx : Matrix
  vop : Option VopRun
  se0 : Stream
  se1 : Stream
  rt : Router
  fl : Filled
  /-- The loaded image has a program: its IDLE flag is clear (R168). -/
  runs : Bool
  /-- The manifest copy of R180 left this core's image invalid. -/
  imgBad : Bool
  /-- The copy of R180 put this core's image into rows 22,528 to 23,551. -/
  imgHeld : Bool
  /-- The next scrub address of each array: banks 0 to 15, 16 narrow, 17 instruction memory (R392). -/
  scrubAt : Tbl Nat
  /-- The rows or words whose write-back waits, by array, oldest first (R392). -/
  scrubWb : Tbl (List Nat)
  /-- R421, R426: suspect and retired marks. -/
  suspect : Bool
  retired : Bool
  /-- The smallest finish margin since the last telemetry sample (R533). -/
  telMargin : Option Word
  deriving DecidableEq, Repr

def Core.reset : Core :=
  { sp := [], dma := [], imem := [], synd := [], p := .reset, r := .reset, ecnt := [], queues := [], stopped := 0, mx := .reset,
    vop := none, se0 := .reset, se1 := .reset, rt := .reset, fl := .reset, runs := false, imgBad := false, imgHeld := false,
    scrubAt := [], scrubWb := [], suspect := false, retired := false, telMargin := none }

end Sys2Proof.Machine
end

