-- ==== Sys2Proof/Machine/DieState.lean ====
section
/-! DEFINITION. The state of a die and its steward, of the sections, of the maintenance tokens and of the resets
(01_warp_and_weft.md, 04_number_formats.md, 05_sections_and_fabric.md, 12_stored_data_protection.md,
13_result_checking.md). -/

namespace Sys2Proof.Machine

/-- A scale tracker (R154). -/
structure Tracker where
  maxabs : Word
  nan : BitVec 16
  sat : BitVec 16
  deriving DecidableEq, Repr

def Tracker.reset : Tracker := { maxabs := 0, nan := 0, sat := 0 }

/-- An entry of a die's error log (R411). -/
structure LogEntry where
  ue : Bool
  array : BitVec 2
  suspect : Bool
  pc : Byte
  sub : Byte
  src : BitVec 3
  syn : Byte
  addr : Word
  count : BitVec 16
  col : BitVec 10
  round : Word
  deriving DecidableEq, Repr

/-- A column suspect awaiting the next warp reset (R400). -/
structure Suspect where
  pc : Byte
  sub : Byte
  col : BitVec 10
  deriving DecidableEq, Repr

/-- The trackers and their registers (R154, R155, R163 to R165). The updates of one reference cycle stand apart until it is past:
a latch and a clear go before them (R155). -/
structure Trackers where
  live : Tbl Tracker
  /-- The updates of the reference cycle `at_`. -/
  fresh : Tbl Tracker
  at_ : Nat
  snap : Tbl Tracker
  perRound : Bool
  round : Word
  deriving DecidableEq, Repr

def Trackers.reset : Trackers := { live := [], fresh := [], at_ := 0, snap := [], perRound := true, round := 0 }

/-- The section and router registers of a die (R200 to R203). -/
structure DieSec where
  cur : Word
  fault : Bool
  reason : BitVec 3
  lc : Byte
  ninv : Byte
  drop : Count
  idx : Word
  rteValid : Bool
  rteMulti : Bool
  rteKind : BitVec 2
  rteRound : BitVec 16
  rteLc : Byte
  detourDrop : Count
  deriving DecidableEq, Repr

def DieSec.reset : DieSec :=
  { cur := 0, fault := false, reason := 0, lc := 0, ninv := 0, drop := 0, idx := 0, rteValid := false,
    rteMulti := false, rteKind := 0, rteRound := 0, rteLc := 0, detourDrop := 0 }

/-- The protection registers, the checker test registers and the error log of a die (R409 to R411). -/
structure Prot where
  gap : BitVec 16
  scrub : Bool
  /-- PROT_EVT: RETIRE, SUSPECT, UE, CE. -/
  evt : BitVec 4
  ceCnt : Count
  ueCnt : Count
  logOvf : Count
  /-- The log: slot and entry, oldest entry first (R394). -/
  log : List (Nat × LogEntry)
  pend : List Suspect
  /-- Cores of suspects that did not fit in the pending list (R401). -/
  overflow : List Byte
  chkRefused : Bool
  chkArray : BitVec 2
  chkPc : Byte
  chkResult : BitVec 2
  chkAddr : Word
  chkData : BitVec 64
  chkCheck : Byte
  chkSyn : Byte
  deriving DecidableEq, Repr

def Prot.reset : Prot :=
  { gap := 0x400, scrub := true, evt := 0, ceCnt := 0, ueCnt := 0, logOvf := 0, log := [], pend := [], overflow := [],
    chkRefused := false, chkArray := 0, chkPc := 0, chkResult := 0, chkAddr := 0, chkData := 0, chkCheck := 0,
    chkSyn := 0 }

/-- The checksum lane registers (R436, R437). -/
structure Csl where
  busy : Bool
  refused : Bool
  result : BitVec 2
  kpc : Byte
  /-- CSL_EVT: KATFAIL, UNSTABLE, DATAFAULT, SUSPECT, TRANSIENT. -/
  evt : BitVec 5
  mismatch : Count
  corrected : Count
  skip : Count
  logValid : Bool
  logMulti : Bool
  verdict : BitVec 3
  logPc : Byte
  accRow : BitVec 9
  tag : BitVec 16
  round : BitVec 16
  diff : Word
  tol : Word
  deriving DecidableEq, Repr

def Csl.reset : Csl :=
  { busy := false, refused := false, result := 0, kpc := 0, evt := 0, mismatch := 0, corrected := 0, skip := 0,
    logValid := false, logMulti := false, verdict := 0, logPc := 0, accRow := 0, tag := 0, round := 0, diff := 0,
    tol := 0 }

/-- The weft side of a die steward: buffered events, counts of events that found the buffer full, the last executed
write and the telemetry shadows (R530, R532, R533). -/
structure Steward where
  evBuf : List Event
  evLost : Tbl (BitVec 16)
  lastTag : Option (BitVec 16)
  shCe : Word
  shUe : BitVec 16
  shStr : Word
  shTrips : BitVec 16
  /-- The steward answers (R25, R531). -/
  reachable : Bool
  deriving DecidableEq, Repr

def Steward.reset : Steward :=
  { evBuf := [], evLost := [], lastTag := none, shCe := 0, shUe := 0, shStr := 0, shTrips := 0, reachable := true }

/-- A compute die (R17 to R20, R42 to R46 and the blocks above). -/
structure Die where
  /-- DIE_SPARE0, DIE_SPARE1: 4 bits a column (R43). -/
  spare : BitVec 64
  /-- DIE_ABSENT0, DIE_ABSENT1 (R44). -/
  absent : BitVec 64
  /-- CORE_DEAD0 to CORE_DEAD6 (R46). -/
  dead : BitVec 208
  failed : Bool
  trk : Trackers
  sec : DieSec
  prot : Prot
  csl : Csl
  stw : Steward
  deriving DecidableEq, Repr

def Die.reset : Die :=
  { spare := 0xCCCCCCCCCCCCCCCC, absent := 0xFFFFFFFFFFFFFFFF, dead := 0, failed := false, trk := .reset, sec := .reset,
    prot := .reset, csl := .reset, stw := .reset }

/-- A queued section command (R177, R180, R199). -/
structure SecCmd where
  round : BitVec 48
  load : Bool
  section_ : Word
  man : Bool
  owed : Owed
  deriving DecidableEq, Repr

/-- The stage of a section switch (R177). -/
inductive SwStage where
  | check
  | load
  deriving DecidableEq, Repr

/-- The sections (R61, R177 to R181, R199). -/
structure Sections where
  /-- The running section and its first round. -/
  cur : Option (Word × BitVec 48)
  /-- The largest PLAN of its images (R61). -/
  plan : Word
  /-- A budget fault was raised at the start of the round in force: no program runs in it (R61). -/
  budget : Bool
  queue : List SecCmd
  /-- The switch in progress. -/
  switch : Option (SecCmd × SwStage)
  deriving DecidableEq, Repr

def Sections.reset : Sections := { cur := none, plan := 0, budget := false, queue := [], switch := none }

/-- A maintenance activity (R404 to R408): its code, what it is for, the tokens it needs and how many it holds. -/
structure Activity where
  handle : BitVec 16
  code : Byte
  /-- The stack, port or die, and the pseudo-channel, DRAM die, group or lane. -/
  subject : Nat
  part : Nat
  tokens : List Nat
  held : Nat
  owed : Option Owed
  deriving DecidableEq, Repr

/-- The maintenance tokens (R404 to R408, R415): the activities in the order of their requests. -/
structure Maint where
  acts : List Activity
  nextHandle : BitVec 16
  sel : BitVec 10
  tok : Word
  deriving DecidableEq, Repr

def Maint.reset : Maint := { acts := [], nextHandle := 1, sel := 0, tok := 0 }

/-- The module control block and the resets (R29 to R41). -/
structure Control where
  assigned : Bool
  id : BitVec 16
  /-- RST_STAT.SCOPE: the warp or rim reset in progress, 0 none. -/
  scope : BitVec 2
  /-- The cause and the round of the reset in progress (R35). -/
  cause : BitVec 4
  reqRound : BitVec 48
  /-- A module reset awaits its SUMMARY and its orderly power-down (R545, R471). -/
  modulePending : Bool
  /-- RST_CAUSE. -/
  lastCause : BitVec 4
  lastScope : BitVec 2
  warpCnt : BitVec 16
  rimCnt : BitVec 16
  /-- MAINT reset commands that await the end of the reset (R573). -/
  owed : List Owed
  deriving DecidableEq, Repr

def Control.reset : Control :=
  { assigned := false, id := 0, scope := 0, cause := 0, reqRound := 0, modulePending := false, lastCause := 0,
    lastScope := 0, warpCnt := 0, rimCnt := 0, owed := [] }

end Sys2Proof.Machine
end

