-- ==== Sys2Proof/Machine/EdgeState.lean ====
section
/-! DEFINITION. The state of edge memory: its contents, the controller, the 32 stacks and their requests
(06_edge_memory_and_skeins.md, 12_stored_data_protection.md). -/

namespace Sys2Proof.Machine

/-- The edge memory controller block and the contents of edge memory (R207, R236 to R238, R413). -/
structure Edge where
  /-- The data bytes by edge address (R207). -/
  mem : Mem
  /-- Check symbol j of code word cw, xored with the one that belongs to its data, at key 8 cw + j (R385). -/
  ck : Tbl Byte
  /-- Code words stored so that every later read finds them uncorrectable (R217): the check symbols that are not known, bit j for symbol
  32 + j. -/
  poison : Tbl Byte
  splitRead : BitVec 5
  splitWrite : BitVec 5
  splitRemote : BitVec 5
  rimph : BitVec 4
  rimphRej : Bool
  splitRej : Bool
  keepEn : Bool
  scrubPasses : BitVec 16
  scrubEn : Bool
  scrubHours : Byte
  /-- EMC_EVT: STACK_FAILED, DIE_LOST, UE, CE. -/
  evt : BitVec 4
  dieth : Byte
  chkRefused : Bool
  chkResult : BitVec 2
  chkPos : BitVec 6
  chkVal : Byte
  chkEa : BitVec 41
  deriving DecidableEq, Repr

def Edge.reset : Edge :=
  { mem := [], ck := [], poison := [], splitRead := 10, splitWrite := 4, splitRemote := 2, rimph := 7,
    rimphRej := false, splitRej := false, keepEn := false, scrubPasses := 0, scrubEn := true, scrubHours := 0x18,
    evt := 0, dieth := 0x10, chkRefused := false, chkResult := 0, chkPos := 0, chkVal := 0, chkEa := 0 }

/-- An entry of a stack's error log (R414). -/
structure EdgeLog where
  ue : Bool
  die : BitVec 5
  src : BitVec 4
  ea : BitVec 41
  count : BitVec 16
  pattern : Word
  deriving DecidableEq, Repr

/-- A row of an answer with its sideband bits (R219). -/
structure AnsRow where
  row : Row
  poison : Bool
  rej : Bool
  deriving DecidableEq, Repr

/-- A write request that awaits data rows (R217). -/
structure WReq where
  ea : Nat
  runlen : Nat
  nrun : Nat
  stride : Nat
  /-- The run and the byte of the run that the next row fills. -/
  run : Nat
  pos : Nat
  /-- Its status so far (R229): nonzero and `rejected` for a rejection, 0x01 for a poisoned row. -/
  status : Byte
  rejected : Bool
  /-- The link and phase of its reply. -/
  ret : Nat
  deriving DecidableEq, Repr

/-- Bursts that a request still has to perform, in the order of its units (R212, R213): its class (0 read, 1 write, 2 remote,
3 what remote users leave free), the runs left and the bytes of the first one performed, and the answer rows that its units
fill: for the buffer of a rim link and phase, or for the transpose store of one. -/
structure Work where
  cls : Nat
  runs : List (Nat × Nat)
  pos : Nat
  key : Option Nat
  square : Bool
  rows : List AnsRow
  deriving DecidableEq, Repr

/-- A transpose store (R218): the rows of a complete square that wait for room, and whether the store is taken. -/
structure Square where
  rows : List AnsRow
  taken : Bool
  deriving DecidableEq, Repr

def Square.reset : Square := { rows := [], taken := false }

/-- A stack (R205 to R221, R239 to R243, R414). -/
structure Stack where
  failed : Bool
  selfref : Bool
  trained : Bool
  dieLost : BitVec 20
  trainT : Byte
  maxT : Byte
  /-- The hottest die as last measured: EMS_TEMP shows it once it is sampled after a reset (R240). -/
  temp : Byte
  hot : Bool
  rdu : Count
  wru : Count
  rmu : Count
  rejCnt : Count
  rejLast : Byte
  rejEa : BitVec 41
  retDone : BitVec 16
  retAborted : Byte
  /-- The pseudo-channel in live retraining, 0x3F none. -/
  retQ : BitVec 6
  /-- The retrain log and the pseudo-channel that its units await (R221). -/
  retLog : List Nat
  retLogQ : BitVec 6
  /-- Its retraining was abandoned and waits for the retry timer. -/
  retRetry : Bool
  /-- Pseudo-channels trained in the sweep in progress; a sweep runs. -/
  retSet : BitVec 40
  retSweep : Bool
  ceCnt : Count
  ueCnt : Count
  logOvf : BitVec 15
  logIdx : BitVec 5
  /-- EMS_LOG0 to EMS_LOG3 as latched. -/
  latch : BitVec 128
  log : List (Nat × EdgeLog)
  /-- Distinct corrected code words by DRAM die since training (R389): die and code word. -/
  corr : List (Nat × Nat)
  /-- The next unit of the scrub engine and the code words that await a rewrite (R393). -/
  scrubAt : Nat
  scrubWb : List Nat
  /-- The split slot of the frame, and the bursts of it that each group has used (R210). -/
  slot : BitVec 4
  bursts : Tbl Nat
  /-- What waits for bursts, in the order of arrival (R212). -/
  work : List Work
  /-- The answer buffers, and what waits for room in them: the rows of rejected reads and the reply rows of writes, by
  4 link + phase (R217 to R219). -/
  answers : Tbl (List AnsRow)
  rejects : Tbl (List AnsRow)
  replies : Tbl (List AnsRow)
  /-- The transpose stores, by 4 link + phase (R218). -/
  squares : Tbl Square
  /-- Write requests that await rows, by 4 link + phase. -/
  writes : Tbl (List WReq)
  deriving DecidableEq, Repr

def Stack.reset : Stack :=
  { failed := false, selfref := false, trained := false, dieLost := 0, trainT := 0, maxT := 0, temp := 0, hot := false, rdu := 0,
    wru := 0, rmu := 0, rejCnt := 0, rejLast := 0, rejEa := 0, retDone := 0, retAborted := 0, retQ := 0x3F,
    retLog := [], retLogQ := 0x3F, retRetry := false, retSet := 0, retSweep := false, ceCnt := 0, ueCnt := 0,
    logOvf := 0, logIdx := 0, latch := 0, log := [], corr := [], scrubAt := 0, scrubWb := [], slot := 0, bursts := [], work := [],
    answers := [], rejects := [], replies := [], squares := [], writes := [] }

end Sys2Proof.Machine
end

