-- ==== Sys2Proof/Machine/HostState.lean ====
section
/-! DEFINITION. The state of the host link: the host block registers, the interrupts, the rings and the queue memory
(18_host_link_and_commands.md). -/

namespace Sys2Proof.Machine

/-- What becomes of an accepted command's completion. -/
inductive CompMode where
  /-- It is written (R568). -/
  | normal
  /-- The ring stopped after acceptance: it is not written, and INFLIGHT still counts the command (R566). -/
  | unwritten
  /-- A Function Level Reset or a module reset came: it is not written and not counted (R561, R572). -/
  | orphan
  deriving DecidableEq, Repr

/-- A command that was accepted and has not ended. -/
structure RunCmd where
  tok : Nat
  desc : Desc
  started : Bool
  mode : CompMode
  /-- The completion slot reserved for it, and the phase of that pass (R566, R568). -/
  slot : Nat
  phase : Bool
  /-- The command-set version of its ring when it was accepted: 1 or 2 (R569). -/
  ver : Nat
  deriving DecidableEq, Repr

/-- A command that ended; its completion entry has not been written. -/
structure Compl where
  cid : BitVec 16
  opc : Byte
  irq : Bool
  status : Byte
  detail : BitVec 64
  mode : CompMode
  slot : Nat
  phase : Bool
  deriving DecidableEq, Repr

/-- A ring pair (R564 to R568, R581). -/
structure Ring where
  cqBase : BitVec 64
  en : Bool
  loc : Bool
  ver : BitVec 2
  log2 : BitVec 5
  head : BitVec 16
  cpBase : BitVec 64
  vector : BitVec 6
  cpLog2 : BitVec 5
  coalCnt : Byte
  coalUs : Byte
  cpTail : BitVec 16
  /-- RING_STAT.STOPPED. -/
  stopped : Bool
  /-- The ring is stopped, until EN is cleared and set (R581). -/
  halted : Bool
  err : Byte
  /-- The CQ_TAIL doorbell. -/
  tailDb : BitVec 16
  /-- The CP_HEAD doorbell. -/
  headDb : BitVec 16
  phase : Bool
  /-- Completion slots reserved, or written and not returned by CP_HEAD (R565, R566). -/
  used : Nat
  /-- Commands accepted and not ended, in ring order. -/
  cmds : List RunCmd
  /-- Commands ended whose completion is not written yet, in order of their ends. -/
  fin : List Compl
  /-- Entries with IRQ set that await the coalesced vector (R577). -/
  coal : Nat
  deriving DecidableEq, Repr

def Ring.reset : Ring :=
  { cqBase := 0, en := false, loc := false, ver := 1, log2 := 4, head := 0, cpBase := 0, vector := 0, cpLog2 := 4,
    coalCnt := 0, coalUs := 0, cpTail := 0, stopped := false, halted := false, err := 0, tailDb := 0, headDb := 0, phase := true, used := 0,
    cmds := [], fin := [], coal := 0 }

/-- The host block (R558 to R581). -/
structure HostBlk where
  gen : BitVec 4
  width : BitVec 5
  flitMode : Bool
  /-- What the other end of the link supports, as it was told last: the generation, 0 where nothing was told; the width; flit mode. -/
  peerGen : BitVec 4
  peerWidth : BitVec 5
  peerFlit : Bool
  flrCnt : BitVec 16
  perst : Bool
  apsel : BitVec 5
  apPartial : Count
  apKeep : Count
  apNotServ : Count
  irqCause : BitVec 13
  irqMask : BitVec 13
  irqMap : Tbl (BitVec 6)
  /-- The words of the MSI-X table, 4 an entry (R582); word 3 of an entry holds its mask bit. -/
  msixTab : Tbl Word
  msixPend : BitVec 64
  rings : Tbl Ring
  /-- The next ring of the round robin (R566). -/
  turn : Nat
  /-- The number of commands accepted so far (R566). -/
  accepted : Nat
  /-- The 4 MiB of queue memory in BAR2 (R562). -/
  qmem : Mem
  deriving DecidableEq, Repr

def HostBlk.reset : HostBlk :=
  { gen := 0, width := 0, flitMode := false, peerGen := 0, peerWidth := 0, peerFlit := false, flrCnt := 0, perst := false, apsel := 0, apPartial := 0, apKeep := 0,
    apNotServ := 0, irqCause := 0, irqMask := 0x1FFC, irqMap := [], msixTab := [], msixPend := 0, rings := [],
    turn := 0, accepted := 0, qmem := [] }

/-- The highest generation and the widest width that both ends support (R558): 0 where they share none; generation 6.0 is in flit mode. -/
def sharedGen (gen : Nat) (flit : Bool) : Nat :=
  let n := min gen (if flit then 6 else 5)
  if n < 3 then 0 else n
def sharedWidth (width : Nat) : Nat := ([16, 8, 4, 2, 1].find? (fun w => decide (w ≤ width))).getD 0

/-- The link trains. -/
def trainLink (h : HostBlk) : HostBlk :=
  let g := sharedGen h.peerGen.toNat h.peerFlit
  let w := sharedWidth h.peerWidth.toNat
  let up := decide (g ≠ 0 ∧ w ≠ 0)
  { h with gen := if up then BitVec.ofNat 4 g else 0, width := if up then BitVec.ofNat 5 w else 0, flitMode := up && g == 6 }

end Sys2Proof.Machine
end

