-- ==== Sys2Proof/Machine/KeepState.lean ====
section
/-! DEFINITION. The state of the restart and keep block (14_restart_and_checkpoints.md). -/

namespace Sys2Proof.Machine

/-- A keep slot as the keeper's ledger has it (R446, R461). -/
structure Slot where
  valid : Bool
  opened : Bool
  id : BitVec 16
  serial : BitVec 64
  step : Word
  /-- Orders the commits, so that the newest valid one is known (R444). -/
  order : Nat
  deriving DecidableEq, Repr

def Slot.reset : Slot := { valid := false, opened := false, id := 0, serial := 0, step := 0, order := 0 }

/-- The stage of a seal as sealer (R445). -/
inductive SealStage where
  /-- Accepted; round q has not started. -/
  | armed
  /-- Quiesced; the answer to the first RREAD of the slot header is due. -/
  | opening
  /-- Header and extents are sent; the answer with KCRC is due. -/
  | checking
  /-- COMMIT is sent; the keeper's answer after its commit record is due. -/
  | committing
  /-- The sealer's own commit record is to be committed. -/
  | recording
  deriving DecidableEq, Repr

/-- A seal as sealer (R440, R444, R445). -/
structure Seal where
  round : BitVec 48
  /-- The twin's module ID, and the RID of the RREAD whose answer is due. -/
  peer : BitVec 16
  rid : Word
  manifest : Nat
  owed : Owed
  stage : SealStage
  /-- The header image (R440), 1,024 bytes and the extents after them. -/
  header : List Byte
  slot : Bool
  /-- The keeper refused the first slot that the seal asked for (DESIGN CHOICE, log entry 56). -/
  second : Bool
  deriving DecidableEq, Repr

/-- What a keep RREAD awaits before it is answered (R445): the open record, the rest of the extents, or the commit
record. -/
inductive AskKind where
  | opened
  | check
  | commit
  deriving DecidableEq, Repr

/-- A seal as keeper (R443 to R445). -/
structure Keeping where
  /-- The peer's module ID and epoch (R443). -/
  peer : BitVec 16
  epoch : Word
  slot : Bool
  /-- A keep message has arrived. -/
  started : Bool
  ask : Option (AskKind × RReadMsg)
  opened : Bool
  /-- Bytes of extent data received. -/
  got : Nat
  /-- The CRC of the extent data received, by stack (R440 KCRC). -/
  crcs : Tbl (BitVec 64)
  /-- The bytes of all extents, once the header has been read for the check (R445). -/
  need : Nat
  deriving DecidableEq, Repr

/-- A restore as target (R456). -/
structure Restore where
  keeper : BitVec 16
  epoch : Word
  step : Word
  id : BitVec 16
  owed : Owed
  /-- The staged header passed its checks. -/
  header : Bool
  /-- Extent bytes received (R456). -/
  got : Nat
  /-- The CRC of the extent data received, by stack (R456 STACKCRC). -/
  crcs : Tbl (BitVec 64)
  /-- What an import has not written yet: the extents that are left, and the bytes of the stream for them; none for a restore (R575). -/
  left : Option (List (Nat × Nat) × List Byte)
  deriving DecidableEq, Repr

/-- A restore as keeper (R456). -/
structure Serve where
  target : BitVec 16
  epoch : Word
  step : Word
  slot : Bool
  /-- The RID of the RREAD that confirms the header. -/
  rid : Word
  owed : Owed
  deriving DecidableEq, Repr

/-- A CKPT_EXPORT that runs (R574): the places that it has not copied, and the host address of the next. -/
structure Export where
  owed : Owed
  slot : Bool
  parts : List (Nat × Nat)
  host : Nat
  /-- The host takes the writes. -/
  taken : Bool
  deriving DecidableEq, Repr

/-- The restart and keep block (R439 to R462). -/
structure Keep where
  rsValid : Bool
  rsMulti : Bool
  rsClass : BitVec 16
  rsRound : Word
  faulted : Bool
  namedValid : Bool
  namedId : BitVec 16
  armed : Bool
  armGen : BitVec 16
  armMaster : BitVec 16
  armW : BitVec 24
  /-- The module holds from its next round start (R449). -/
  holdNext : Bool
  /-- A restore commanded since the arm has not ended with 0x00 (R454). -/
  armBad : Bool
  /-- RESTART_HOLD and RESUME commands that await the master's hold or its end (R450, R458). -/
  holdCmds : List Owed
  resumeCmds : List Owed
  slotA : Slot
  slotB : Slot
  /-- The next value of `Slot.order`. -/
  order : Nat
  sealing : Option Seal
  keeping : Option Keeping
  rest : Option Restore
  serve : Option Serve
  sealStatus : Byte
  sealStep : Word
  restStatus : Byte
  /-- Bytes of extent data moved by the seal or restore in progress (R462). -/
  moved : Nat
  /-- The staging buffer (R456). -/
  staging : Mem
  /-- The exports that run (R574). -/
  exports : List Export
  deriving DecidableEq, Repr

def Keep.reset : Keep :=
  { rsValid := false, rsMulti := false, rsClass := 0, rsRound := 0, faulted := false, namedValid := false, namedId := 0,
    armed := false, armGen := 0, armMaster := 0, armW := 0, holdNext := false, armBad := false, holdCmds := [],
    resumeCmds := [], slotA := .reset, slotB := .reset, order := 1, sealing := none, keeping := none, rest := none,
    serve := none, sealStatus := 0, sealStep := 0, restStatus := 0, moved := 0, staging := [], exports := [] }

end Sys2Proof.Machine
end

