-- ==== Sys2Proof/Machine/LedgerState.lean ====
section
/-! DEFINITION. The state of Decnus: the fault ledger and its event queue, the calendar clock, the weft, the
telemetry aggregator, the watchdog and the cradle endpoint (17_controller_and_ledger.md). -/

namespace Sys2Proof.Machine

/-- An entry of the repair map (R402, R539): sub-array 0xFF marks a core taken into a dead set, with pc 0xFF a failed
die. -/
structure Repair where
  die : Byte
  pc : Byte
  sub : Byte
  spare : Bool
  col : BitVec 10
  deriving DecidableEq, Repr

/-- The ledger flash and the event queue (R535 to R546). -/
structure Ledger where
  /-- The records of the flash, oldest first (R535). -/
  flash : List LedRec
  /-- BSEQ, 0 while it is erased, and erase count of each block that was used (R535). -/
  blocks : Tbl (BitVec 64 × Word)
  /-- WBLOCK: the block of the write point (R554). -/
  wblock : BitVec 12
  /-- The byte offset of the write point in its block. -/
  woff : Nat
  nextSeq : BitVec 64
  /-- SET of the newest repair map (R539). -/
  mapSet : BitVec 16
  /-- Protected and standing events queued, at most 64 (R543). -/
  protQ : List Event
  /-- Ordinary events queued, at most 4,032 (R543). -/
  ordQ : List Event
  /-- Protected and standing events that wait at their source (R543). -/
  waitQ : List Event
  /-- Suppression counters by class (R543, R544). -/
  supp : Tbl (BitVec 16)
  suppFirst : BitVec 48
  suppLast : BitVec 48
  /-- LED_SUPP (R554). -/
  ledSupp : Count
  /-- The record that the writer took and has not committed (R541). -/
  inFlight : Option LedRec
  /-- CARRY (R554). -/
  carry : Bool
  /-- A SUMMARY is the next record (R544). -/
  sumDue : Bool
  /-- A SUMMARY of R545 is owed before a module reset or a power-off. -/
  sumFinal : Bool
  /-- The record in flight is that SUMMARY. -/
  finalOut : Bool
  /-- The governing repair map (R401, R539). -/
  repair : List Repair
  deriving DecidableEq, Repr

def Ledger.reset : Ledger :=
  { flash := [], blocks := [], wblock := 0, woff := 256, nextSeq := 1, mapSet := 0, protQ := [], ordQ := [], waitQ := [],
    supp := [], suppFirst := 0, suppLast := 0, ledSupp := 0, inFlight := none, carry := false, sumDue := false,
    sumFinal := false, finalOut := false, repair := [] }

/-- The calendar clock (R547 to R549, R555). `base` counts 1/65,536 s at reference cycle `at`. -/
structure Calendar where
  base : Nat
  since : Nat
  running : Bool
  latchHi : Word
  setLo : Word
  lost : Bool
  /-- The clock stopped and VAUX has not come up since (R549). -/
  stopped : Bool
  /-- VBAK in mV, as it was measured last (R555). -/
  vbak : BitVec 12
  deriving DecidableEq, Repr

def Calendar.reset : Calendar :=
  { base := 0, since := 0, running := true, latchHi := 0, setLo := 0, lost := false, stopped := false, vbak := 3000 }

/-- A ring of the weft (R531, R556). -/
structure WeftRing where
  state : BitVec 2
  brk : Byte
  timeouts : Count
  deriving DecidableEq, Repr

def WeftRing.reset : WeftRing := { state := 0, brk := 0xFF, timeouts := 0 }

/-- A read or write that awaits its response (R530); `host` says that a host register access waits for it. -/
structure WeftReq where
  frame : Frame
  resends : Nat
  deriving DecidableEq, Repr

/-- The counts that a die sends with a sample: its shadows of PROT_CECNT, PROT_UECNT, DIE_STRCNT and DIE_DROOP.TRIPS (R533). -/
structure DieCounts where
  ce : Word
  ue : BitVec 16
  str : Word
  trips : BitVec 16
  deriving DecidableEq, Repr

/-- The weft, the telemetry aggregator and the watchdog (R528 to R534, R556, R557). -/
structure Weft where
  rings : Tbl WeftRing
  /-- Outstanding requests by TAG. -/
  reqs : Tbl WeftReq
  period : BitVec 16
  telSeq : Word
  msel : BitVec 15
  telMargin : Word
  minMargin : Word
  minCore : BitVec 15
  /-- The margins of the last sample by mlc; a core that is not listed was absent. -/
  sample : Tbl Word
  /-- The counts of the last sample by die. -/
  counts : Tbl DieCounts
  /-- WDT_STAT.EXPIRIES. -/
  expiries : BitVec 16
  deriving DecidableEq, Repr

def Weft.reset : Weft :=
  { rings := [], reqs := [], period := 10, telSeq := 0, msel := 0, telMargin := 0, minMargin := 0, minCore := 0,
    sample := [], counts := [], expiries := 0 }

/-- The stage of a firmware update (R553). -/
inductive UpdStage where
  | ready        -- RequestUpdate accepted
  | table        -- component table passed
  | transfer     -- data is being fetched
  | complete     -- data written and verified; awaits ActivateFirmware
  | failed       -- verification failed
  deriving DecidableEq, Repr

/-- A firmware update in progress (R553): `host` for one from the host link. -/
structure Upd where
  host : Bool
  stage : UpdStage
  slot : Bool
  length : Nat
  data : List Byte
  deriving DecidableEq, Repr

/-- The cradle endpoint (R550 to R553) and the attestation responder (R524). -/
structure Cradle where
  eid : Byte
  i3c : BitVec 7
  receiver : Option Byte
  /-- Undelivered events, newest last, at most 64 (R552). -/
  held : List LedRec
  upd : Option Upd
  /-- The negotiated stage of SPDM: 0 none, 1 version, 2 capabilities, 3 algorithms. -/
  spdm : BitVec 2
  deriving DecidableEq, Repr

def Cradle.reset : Cradle := { eid := 0, i3c := 0, receiver := none, held := [], upd := none, spdm := 0 }

end Sys2Proof.Machine
end

