-- ==== Sys2Proof/Machine/Fec.lean ====
section
/-! DEFINITION. The forward error correction of a lane: the RS(544,514) code over 10-bit symbols (R305). -/

namespace Sys2Proof.Machine

/-- A symbol of the lane's code, an element of GF(2¹⁰). PRESUMED, log entry 55: R305 takes the code from IEEE 802.3, whose field
polynomial is x¹⁰ + x³ + 1. -/
abbrev FecSym := BitVec 10

/-- A symbol times α. -/
def fecDouble (a : FecSym) : FecSym := if a.getLsbD 9 then (a <<< 1) ^^^ 0x009 else a <<< 1

/-- The product of two symbols, over the bits of the second. -/
def fecMul (a b : FecSym) : FecSym :=
  ((List.range 10).foldl (fun (r, x) i => (if b.getLsbD i then r ^^^ x else r, fecDouble x)) ((0 : FecSym), a)).1

/-- A polynomial in descending order times (x − r). -/
def fecTimesRoot (r : FecSym) (p : List FecSym) : List FecSym :=
  List.zipWith (fun a b => a ^^^ b) (p ++ [0]) (0 :: p.map (fecMul r))

/-- The generator (x − α⁰)(x − α¹) … (x − α²⁹) without its leading 1 (PRESUMED, log entry 55). -/
def fecGenerator : List FecSym :=
  ((List.range 30).foldl (fun (p, r) _ => (fecTimesRoot r p, fecDouble r)) (([1] : List FecSym), (1 : FecSym))).1.drop 1

/-- One symbol enters the remainder by the generator. -/
def fecStep (g r : List FecSym) (m : FecSym) : List FecSym :=
  let q := m ^^^ r.headD 0
  List.zipWith (fun a b => a ^^^ b) (r.drop 1 ++ [0]) (g.map (fecMul q))

/-- The thirty check symbols of a list of symbols. -/
def fecChecks (ms : List FecSym) : List FecSym := ms.foldl (fecStep fecGenerator) (List.replicate 30 0)

/-- The data symbols of a code word, and the bits they hold. -/
def fecData : Nat := 514
def fecBits : Nat := 10 * fecData

/-- The code word of 5,140 bits, the lowest first: its 514 symbols and their checks (R305). -/
def fecCodeWord (bits : Nat) : List FecSym :=
  let ms := (List.range fecData).map (fun i => BitVec.ofNat 10 (bits / 2 ^ (10 * i)))
  ms ++ fecChecks ms

/-- The part of a lane's stream that has not filled a code word: how many bits, and the bits, the first lowest. -/
structure LaneTx where
  count : Nat
  bits : Nat
  deriving DecidableEq, Repr

def LaneTx.empty : LaneTx := ⟨0, 0⟩

/-- A flit enters a lane's stream: the code word that it fills, if it fills one, and what is left (R305). A flit is shorter than a code
word, so it fills one at most. -/
def LaneTx.push (l : LaneTx) (f : Flit) : Option (List FecSym) × LaneTx :=
  let n := l.count + 2048
  let b := l.bits + f.toNat * 2 ^ l.count
  if n < fecBits then (none, ⟨n, b⟩) else (some (fecCodeWord b), ⟨n - fecBits, b / 2 ^ fecBits⟩)

end Sys2Proof.Machine
end

