-- ==== Sys2Proof/Machine/PortState.lean ====
section
/-! DEFINITION. The state of the 64 optical ports (09_optical_ports.md). -/

namespace Sys2Proof.Machine

/-- A sequenced flit of the replay buffer: its SEQ, its messages and how often it was resent (R307, R308). -/
structure SentFlit where
  seq : BitVec 12
  msgs : List Msg
  resends : Nat
  deriving DecidableEq, Repr

/-- The live retraining of a lane (R319 to R321). -/
inductive RtStage where
  /-- The port awaits the token of the lane group. -/
  | token
  /-- The request was sent; no grant has come. -/
  | requested
  /-- The lane retrains. -/
  | granted
  deriving DecidableEq, Repr

/-- A lane in line for live retraining; `walk` when the temperature trigger put it there (R319). -/
structure RtLane where
  lane : Nat
  walk : Bool
  deriving DecidableEq, Repr

/-- A port (R296 to R329). -/
structure Port where
  en : Bool
  genmax : BitVec 2
  livert : Bool
  /-- Gen-2 is offered in the link-up in progress (R299, R324). -/
  offer : Bool
  /-- PRT_STAT.STATE (R309). -/
  state : BitVec 4
  gen : BitVec 2
  swap : Bool
  rtLaneReg : BitVec 4
  partner : Bool
  resumed : Bool
  failed : BitVec 16
  active : BitVec 16
  lat : BitVec 16
  pser : BitVec 64
  pversion : Byte
  pport : BitVec 6
  passigned : Bool
  pid : BitVec 16
  pepoch : Word
  /-- PRT_PEVT. -/
  evt : Byte
  feccor : Count
  fecunc : Count
  /-- Bit l: the code word in which the last flit of lane l ended was uncorrectable (R305). -/
  fecLast : BitVec 16
  replay : Count
  crcErr : Count
  badmsg : Count
  dropq : Count
  lost : Count
  traint : Byte
  temp : Byte
  downCnt : BitVec 16
  cause : BitVec 4
  /-- The next SEQ to number and the SEQ expected (R307). -/
  txSeq : BitVec 12
  rxSeq : BitVec 12
  /-- ACK has been established: a sequenced flit was accepted since the numbers started (R302). -/
  ackv : Bool
  /-- A NAK is owed in the next flit; one was sent for the SEQ expected (R308). -/
  nakDue : Bool
  nakSent : Bool
  /-- Unacknowledged flits, oldest first (R307). -/
  buf : List SentFlit
  /-- The next flit of `buf` to resend, none when no replay runs. -/
  resend : Option Nat
  txq : List Msg
  urgent : List Msg
  mgmt : List Msg
  /-- An idle flit is due (R307). -/
  idleDue : Bool
  /-- The retry timer runs (R315). -/
  retry : Bool
  /-- The partner's identity came in this link-up, and the partner acknowledged ours (R312). -/
  identRx : Bool
  identAck : Bool
  peerGen2 : Bool
  echoSeq : Byte
  /-- The echo that is out: its sequence byte and its timestamp. -/
  echoOut : Option (Byte × Nat)
  /-- The last round trips in reference cycles, newest last, at most eight (R314). -/
  trips : List Nat
  /-- L that takes force at the next round start (R314). -/
  latNext : Option (BitVec 16)
  /-- Failed attempts at gen-2 in this link-up (R310). -/
  gen2Fails : Nat
  /-- Lanes that await live retraining, in order (R319). -/
  rtQueue : List RtLane
  /-- The port's own live retraining, and whether it belongs to a temperature walk. -/
  rt : Option (Nat × RtStage)
  rtOfWalk : Bool
  /-- The next lane waits for a round start (R319). -/
  rtHold : Bool
  /-- The lane of the partner's retraining that this port granted, and a request that waits. -/
  rtPeer : Option Nat
  rtPeerWait : Option Nat
  /-- Lanes that were in retraining at some time in the round in progress (R73). -/
  rtSeen : BitVec 16
  /-- What each lane's FEC encoder holds of a code word that is not full (R305). -/
  laneTx : Tbl LaneTx
  deriving DecidableEq, Repr

def Port.reset : Port :=
  { en := true, genmax := 2, livert := true, offer := false, state := 0, gen := 0, swap := false, rtLaneReg := 0, partner := false,
    resumed := false, failed := 0, active := 0, lat := 0, pser := 0, pversion := 0, pport := 0, passigned := false,
    pid := 0, pepoch := 0, evt := 0, feccor := 0, fecunc := 0, fecLast := 0, replay := 0, crcErr := 0, badmsg := 0, dropq := 0,
    lost := 0, traint := 0, temp := 0, downCnt := 0, cause := 0, txSeq := 0, rxSeq := 0, ackv := false,
    nakDue := false, nakSent := false, buf := [], resend := none, txq := [], urgent := [], mgmt := [],
    idleDue := false, retry := false, identRx := false, identAck := false, peerGen2 := false,
    echoSeq := 0, echoOut := none, trips := [], latNext := none, gen2Fails := 0, rtQueue := [],
    rt := none, rtOfWalk := false, rtHold := false, rtPeer := none, rtPeerWait := none, rtSeen := 0, laneTx := [] }

end Sys2Proof.Machine
end

