-- ==== Sys2Proof/Machine/PowerState.lean ====
section
/-! DEFINITION. The state of power, clocks and cooling, of the whole module and of each die
(15_power_clocks_cooling.md). -/

namespace Sys2Proof.Machine

/-- A minimum-voltage record (R481, R500). -/
structure VRec where
  vmin : BitVec 11
  setpt : BitVec 11
  round : Word
  sec : BitVec 48
  frac : BitVec 16
  deriving DecidableEq, Repr

/-- One domain of a die that takes commands (R477 to R480): the set point `from_` at time `since`, slewing to `goal`. -/
structure Slew where
  from_ : BitVec 10
  since : Nat
  /-- Where the set point goes: the target in force, or the adjusted floor above it (R479). -/
  goal : BitVec 10
  target : BitVec 10
  held : Option (BitVec 10)
  /-- When the last command took effect. -/
  last : Option Nat
  settled : Bool
  /-- The 5 µs of R480 run. -/
  settling : Bool
  deriving DecidableEq, Repr

/-- The reset set point and target of a domain: the default of R513 without an upsett image. -/
def Slew.reset : Slew :=
  { from_ := 320, since := 0, goal := 320, target := 320, held := none, last := none, settled := false,
    settling := false }

/-- The power state of a die (R475 to R486, R501, R502). -/
structure DiePower where
  on : Bool
  vlog : Slew
  varr : Slew
  floored : Bool
  rej : Bool
  reason : BitVec 2
  coal : Count
  calt : Byte
  slow : Bool
  floor : BitVec 10
  lasts : BitVec 5
  trips : Count
  strcnt : Count
  temp : Byte
  /-- The die stretches for its own sensors (R475). -/
  stretching : Bool
  /-- The records of VLOG, VARR and VLNK, and whether they record (R481). -/
  vrec : Tbl (Option VRec)
  sel : BitVec 4
  latch : BitVec 128
  /-- The second floor search of R484 runs; the last clean step of the search. -/
  again : Bool
  clean : Option (BitVec 10)
  searching : Bool
  deriving DecidableEq, Repr

def DiePower.reset : DiePower :=
  { on := false, vlog := .reset, varr := .reset, floored := false, rej := false, reason := 0, coal := 0, calt := 0,
    slow := false, floor := 0, lasts := 0, trips := 0, strcnt := 0, temp := 0, stretching := false, vrec := [],
    sel := 0, latch := 0, again := false, clean := none, searching := false }

/-- What a write sequence writes (R490). -/
inductive WKind where
  /-- The record that the ledger writer assembled (R537). -/
  | ledger
  /-- A licence, into an entry of the first store or of the second (R521). -/
  | licence (second : Option Nat) (data : List Byte) (owed : Owed)
  /-- A block of 64 KiB of an image, into a slot; `left` more follow (R553). -/
  | image (slot : Bool) (data : List Byte) (left : Nat) (owed : Option Owed)
  /-- A fuse write (R576). -/
  | fuse (request : List Byte) (owed : Owed)
  deriving DecidableEq, Repr

/-- A write sequence, its cost in 0.1 J, rounded up, and the reference cycle at which it started (R490). -/
structure WSeq where
  kind : WKind
  cost : Nat
  since : Nat := 0
  deriving DecidableEq, Repr

/-- What follows when a power-down ends. -/
inductive AfterDown where
  | stay                       -- emergency power-down, thermal trip, power-off command
  | restart                    -- a module reset: the start flow runs
  | again                      -- a module reset that found the module down: the start flow runs, and writes its record
  deriving DecidableEq, Repr

/-- The power block and the hold-up bank (R463 to R474, R487 to R500). -/
structure Power where
  inloss : Bool
  brake : Bool
  capstr : Bool
  seqFail : Bool
  thermOff : Bool
  feedA : Bool
  feedB : Bool
  feedAReg : Word
  feedBReg : Word
  inRnd : BitVec 16
  avg100 : BitVec 16
  peak : BitVec 16
  cap : BitVec 9
  eff : BitVec 9
  idle : BitVec 16
  /-- PWR_EVT. -/
  evt : BitVec 12
  full : Bool
  charging : Bool
  weak : Bool
  coul : BitVec 16
  model : BitVec 16
  fullcap : BitVec 16
  diffCnt : BitVec 16
  waits : Count
  diffOpen : Bool
  /-- A recalibration was deferred by a write sequence (R488): the energy measured. -/
  recal : Option (BitVec 16)
  /-- Sequences that wait for energy, oldest first, and those that run (R490). -/
  waiting : List WSeq
  running : List WSeq
  outlet : Byte
  inlet : Byte
  flow : BitVec 16
  coolOut : Bool
  /-- The measures above their warning limit now, so that a warning is raised once for each crossing (R494). -/
  warm : List ThermSrc
  /-- The last temperatures of the stacks and of the ports' optics, as the power block shows them (R498). -/
  stkTemp : Tbl Byte
  portTemp : Tbl Byte
  vrec : Tbl (Option VRec)
  selInst : BitVec 5
  selLoc : BitVec 2
  selDom : BitVec 4
  latch : BitVec 128
  /-- The next step of the power-up sequence (R469), none when it does not run. -/
  up : Option Nat
  /-- The next step of a power-down (R471) and what follows it. -/
  down : Option (Nat × AfterDown)
  /-- The power-off command that awaits the SUMMARY of R545. -/
  offOwed : Option Owed
  /-- The rim domains and the stacks and ports are powered. -/
  rimOn : Bool
  /-- VAUX is up (R491). -/
  vaux : Bool
  /-- An input loss was seen and its last-gasp record is not yet written (R491). -/
  gasp : Bool
  /-- Domain instances with a domain fault raised (R468). -/
  faults : List DomInst
  /-- Stacks of which a domain failed to come up, which stay off (R470). -/
  stkFail : List Nat
  /-- Ports whose VOPT failed to come up, which stay DARK (R470). -/
  voptFail : List Nat
  /-- Dies that are reported failed at the next map rebuild (R468, R470, R484). -/
  dieFail : List Nat
  /-- Sum and number of the power samples of the round in progress (R472). -/
  sum : Nat
  samples : Nat
  /-- The samples of the last 100 ms, newest first, at most 100,000 (R474, R495). -/
  recent : List (BitVec 16)
  /-- The next step of the burn pattern (R483), none when it does not run. -/
  burn : Option Nat
  deriving DecidableEq, Repr

def Power.reset : Power :=
  { inloss := false, brake := false, capstr := false, seqFail := false, thermOff := false, feedA := true,
    feedB := true, feedAReg := 0, feedBReg := 0, inRnd := 0, avg100 := 0, peak := 0, cap := 0x12C, eff := 0x12C,
    idle := 0, evt := 0, full := false, charging := false, weak := false, coul := 0, model := 0, fullcap := 0,
    diffCnt := 0, waits := 0, diffOpen := false, recal := none, waiting := [], running := [], outlet := 0, inlet := 0,
    flow := 0, coolOut := false, warm := [], stkTemp := [], portTemp := [], vrec := [], selInst := 0, selLoc := 0, selDom := 0, latch := 0,
    up := none, down := none, offOwed := none, rimOn := false, vaux := true, gasp := false, faults := [], stkFail := [], voptFail := [], dieFail := [], sum := 0,
    samples := 0, recent := [], burn := none }

end Sys2Proof.Machine
end

