-- ==== Sys2Proof/Machine/RemoteState.lean ====
section
/-! DEFINITION. The state of remote access: the partner table, the windows, remote reads, and fences
(10_remote_access_and_ordering.md). -/

namespace Sys2Proof.Machine

/-- A partner table entry (R330). `since` orders the entries by when they first held their ID (R334). -/
structure Ptn where
  serial : BitVec 64
  id : BitVec 16
  valid : Bool
  direct : Bool
  assigned : Bool
  lost : Bool
  conflict : Bool
  port : BitVec 6
  epoch : Word
  since : Nat
  deriving DecidableEq, Repr

def Ptn.reset : Ptn :=
  { serial := 0, id := 0, valid := false, direct := false, assigned := false, lost := false, conflict := false,
    port := 0, epoch := 0, since := 0 }

/-- A message of a remote read (R343, R345): where its bytes lie in its run, its RID and what came of it. -/
structure ReadMsg where
  run : Nat
  /-- The byte of the run at which it starts, and its length. -/
  pos : Nat
  len : Nat
  rid : Word
  /-- The round of its issue, none while it waits. -/
  issued : Option (BitVec 48)
  /-- The answer: none while it is due, its status and its data. -/
  answer : Option (Byte × List Byte)
  deriving DecidableEq, Repr

/-- A remote read of a core that a port performs (R345). -/
structure RemRead where
  port : Nat
  link : Nat
  phase : Nat
  target : BitVec 16
  window : BitVec 10
  offset : BitVec 64
  stride : Nat
  runlen : Nat
  nrun : Nat
  stag : Word
  /-- mlc of the requesting core. -/
  mlc : Nat
  msgs : List ReadMsg
  /-- Rows sent to the core. -/
  sent : Nat
  /-- The first failed row has carried its status. -/
  failed : Bool
  deriving DecidableEq, Repr

/-- A system fence that waits for FACKs (R356, R357): the paths (target, egress port) awaited. -/
structure Fence where
  round : BitVec 48
  awaited : List (BitVec 16 × BitVec 6)
  /-- Partners probed; a fence of none covers no RWRITE. -/
  probed : BitVec 13
  failed : Bool
  owed : List Owed
  deriving DecidableEq, Repr

/-- A partner or window change that takes effect at the next round start (R331, R340). -/
inductive Change where
  | window (index : BitVec 10) (entry : BitVec 256) (owed : Owed)
  | partner (desc : Desc) (owed : Owed)
  deriving DecidableEq, Repr

/-- The remote access block (R330 to R363). -/
structure Remote where
  ptn : Tbl Ptn
  /-- The next value of `since`. -/
  order : Nat
  /-- Ports whose partner awaits a free entry, in order of link-up (R333). -/
  waiting : List Nat
  changes : List Change
  win : Tbl (BitVec 256)
  ptnSel : BitVec 12
  ptnE : BitVec 128
  winSel : BitVec 10
  winE : BitVec 256
  sysfMode : BitVec 2
  sysfLast : BitVec 2
  sysfProbed : BitVec 13
  sysfRound : BitVec 16
  /-- RMT_EVT. -/
  evt : BitVec 9
  nackValid : Bool
  nackMulti : Bool
  nackCause : Byte
  nackSrc : BitVec 16
  nackTag : Word
  nackRound : BitVec 16
  rejCnt : Count
  rejLast : Byte
  /-- Paths written since the previous system fence (R356). -/
  written : List (BitVec 16 × BitVec 6)
  /-- Rounds that an LNACK named since then (R357). -/
  nacked : List (BitVec 16)
  fences : List Fence
  /-- FENCE_SYSTEM commands and their rounds (R356). -/
  named : List (BitVec 48 × Owed)
  /-- FENCE_MODULE commands (R355). -/
  modFences : List Owed
  /-- Rejections per source and path since its previous FPROBE (R356). -/
  rejects : List (BitVec 16 × BitVec 6 × BitVec 16)
  /-- FPROBEs that await FACK_SEND: source, path, FROUND and the rejections since the FPROBE before (R356). -/
  probes : List (BitVec 16 × BitVec 6 × Word × BitVec 16)
  reads : List RemRead
  nextRid : Word
  deriving DecidableEq, Repr

def Remote.reset : Remote :=
  { ptn := [], order := 1, waiting := [], changes := [], win := [], ptnSel := 0, ptnE := 0, winSel := 0, winE := 0,
    sysfMode := 0, sysfLast := 0, sysfProbed := 0, sysfRound := 0, evt := 0, nackValid := false, nackMulti := false,
    nackCause := 0, nackSrc := 0, nackTag := 0, nackRound := 0, rejCnt := 0, rejLast := 0, written := [], nacked := [],
    fences := [], named := [], modFences := [], rejects := [], probes := [], reads := [], nextRid := 0 }

end Sys2Proof.Machine
end

