-- ==== Sys2Proof/Machine/RoundState.lean ====
section
/-! DEFINITION. The state of the round unit (02_rounds.md, 11_systems_and_job_mapping.md). -/

namespace Sys2Proof.Machine

/-- A round that is scheduled or in force (R52 to R57): its number, its PERIOD and STRETCH, its start, its mode, and
whether it starts on an accepted marker (R82). -/
structure Round where
  num : BitVec 48
  period : BitVec 16
  stretch : BitVec 16
  start : Nat
  aligned : Bool
  instep : Bool
  deriving DecidableEq, Repr

/-- What the master fixed for the next marker (R52): its round and that round's start, how long before the start it leaves, in
ns, and its mode. Those of a first marker are taken when it leaves (R607). -/
structure NextMark where
  num : BitVec 48
  start : Nat
  lead : Nat
  aligned : Bool
  first : Bool
  deriving DecidableEq, Repr

/-- The counts of a round that R73 and R423 latch. -/
structure VarCnt where
  refresh : Word
  replay : Word
  retrain : Word
  stretch : Word
  arb : Word
  deriving DecidableEq, Repr

def VarCnt.reset : VarCnt := { refresh := 0, replay := 0, retrain := 0, stretch := 0, arb := 0 }

/-- The round unit (R47 to R88). -/
structure Rnd where
  aligned : Bool
  master : Bool
  en : Bool
  active : BitVec 16
  period : BitVec 16
  leadNs : BitVec 24
  marginLow : BitVec 10
  stretchMax : BitVec 16
  missGrace : BitVec 16
  lateLimit : BitVec 16
  stragCount : BitVec 4
  stragWindow : BitVec 16
  numReg : BitVec 48
  hold : Bool
  /-- The round at which the module began to hold (R450). -/
  heldAt : Nat
  missed : BitVec 2
  instep : Bool
  hops : Byte
  upport : BitVec 6
  leadRem : Word
  evt : Byte
  marginMin : Word
  marginCore : BitVec 15
  stragValid : Bool
  stragId : BitVec 16
  /-- RND_SREQ pending for the next round start, 0 none. -/
  sreq : BitVec 16
  /-- The latched counts, their round and the running counts of the round in progress (R73, R88). -/
  varLatch : VarCnt
  varRound : Word
  varRun : VarCnt
  /-- The round in force has ended and no start followed it: its counts, its margin latched (R62, R73). -/
  ended : Option VarCnt
  /-- The last accepted round number and master (R49, R51). -/
  lastAcc : Option (BitVec 48 × BitVec 16)
  /-- Rounds started after a miss whose marker has not come (R58). -/
  owed : List (BitVec 48)
  /-- The last forwarded pair (R608). -/
  lastFwd : Option (BitVec 48 × BitVec 16)
  /-- The round in force, none before the first. -/
  cur : Option Round
  /-- Rounds scheduled by accepted markers, oldest first. -/
  sched : List Round
  /-- Starts that a late core withholds, oldest first (R63). -/
  withheld : List Round
  /-- The master: the next marker. -/
  nextEmit : Option NextMark
  /-- Stretch gathered for the next unemitted round (R69). -/
  gathered : BitVec 16
  /-- The master stopped emitting after MASTER_CONFLICT (R51). -/
  conflict : Bool
  /-- By requesting module, the rounds to which its counted requests applied, newest first, at most 16 (R70). -/
  strag : Tbl (List (BitVec 48))
  /-- RND_MPORT in force and its register (R366, R377). -/
  mport : BitVec 64
  /-- ROUND_SET commands that await their round (R573). -/
  sets : List (BitVec 48 × Desc × Owed)
  mportReg : BitVec 64
  deriving DecidableEq, Repr

def Rnd.reset : Rnd :=
  { aligned := true, master := false, en := false, active := 0, period := 0x3E8, leadNs := 0xFA0, marginLow := 0x14,
    stretchMax := 0x10, missGrace := 0x3E8, lateLimit := 0xA, stragCount := 3, stragWindow := 0x3E8, numReg := 0,
    hold := false, heldAt := 0, missed := 0, instep := false, hops := 0, upport := 0, leadRem := 0, evt := 0, marginMin := 0,
    marginCore := 0, stragValid := false, stragId := 0, sreq := 0, varLatch := .reset, varRound := 0, varRun := .reset, ended := none,
    lastAcc := none, owed := [], lastFwd := none, cur := none, sched := [], withheld := [], nextEmit := none, gathered := 0,
    conflict := false, strag := [], mport := 0xFFFFFFFFFFFFFFFF, sets := [], mportReg := 0xFFFFFFFFFFFFFFFF }

end Sys2Proof.Machine
end

