-- ==== Sys2Proof/Machine/StartState.lean ====
section
/-! DEFINITION. The state of start-up: the start block, the fuses, the configuration flash and the measurements
(16_upsett_and_startup.md). -/

namespace Sys2Proof.Machine

/-- The start block with the fuses and the configuration flash (R503 to R527). -/
structure Start where
  /-- START_STAT.STATE. -/
  state : BitVec 4
  fail : Byte
  attempt0 : BitVec 2
  attempt1 : BitVec 2
  /-- The upsett lock (R503 step 12). -/
  locked : Bool
  slot : Bool
  altValid : Bool
  version : BitVec 4
  seq : BitVec 64
  svn : Byte
  rollfwd : Bool
  patches : BitVec 7
  /-- The patch slots of Decnus: ROMADDR and TARGET of each that is filled, at most 64; and the patch region of its SRAM (R515). -/
  patchSlots : List (BitVec 18 × BitVec 16)
  patchCode : List Byte
  features : BitVec 5
  licInvalid : Byte
  licValid : Byte
  startMs : Word
  /-- The instant t0 of R503, and the epoch that the start found in the ledger. -/
  t0 : Nat
  epoch0 : Word
  signer : BitVec 2
  /-- The fuses: the module serial, the anti-rollback counter, the image-key hashes and their bits (R516, R526). -/
  serial : BitVec 64
  fused : Byte
  revoked : BitVec 4
  programmed : BitVec 4
  ikey : Tbl (BitVec 384)
  /-- The excluded row of each die from its fuses, 4 bits a column (R18). -/
  knownGood : Tbl (BitVec 64)
  /-- The upsett slots: the bytes of the image in each, none where the slot is erased (R506). -/
  slot0 : Option (List Byte)
  slot1 : Option (List Byte)
  /-- The licence stores of both devices: entry and its 160 bytes (R506, R519). -/
  lic0 : Tbl (List Byte)
  lic1 : Tbl (List Byte)
  /-- Start and run set points of the image (R513, R514). -/
  vlogStart : BitVec 10
  varrStart : BitVec 10
  vlogRun : BitVec 10
  varrRun : BitVec 10
  dieRun : Tbl (BitVec 10 × BitVec 10)
  /-- The measurements of R524 as fixed at READY and at the last warp reset. -/
  meas : Tbl (BitVec 384)
  /-- A firmware update takes force at the next module reset: the slot that ActivateFirmware armed (R553). -/
  activate : Bool
  deriving DecidableEq, Repr

def Start.reset : Start :=
  { state := 0, fail := 0, attempt0 := 0, attempt1 := 0, locked := false, slot := false, altValid := false,
    version := 0, seq := 0, svn := 0, rollfwd := false, patches := 0, patchSlots := [], patchCode := [], features := 0, licInvalid := 0, licValid := 0,
    startMs := 0, t0 := 0, epoch0 := 0, signer := 0, serial := 0, fused := 0, revoked := 0, programmed := 0, ikey := [],
    knownGood := [], slot0 := none, slot1 := none, lic0 := [], lic1 := [], vlogStart := 320, varrStart := 320,
    vlogRun := 300, varrRun := 320, dieRun := [], meas := [], activate := false }

end Sys2Proof.Machine
end

