-- ==== Sys2Proof/Machine/SysState.lean ====
section
/-! DEFINITION. The state of the system block and of lockstep comparison (11_systems_and_job_mapping.md,
13_result_checking.md). -/

namespace Sys2Proof.Machine

/-- The system block (R369 to R381). `ok` and `mismatch` are what R369 last gave, kept to see their edges. -/
structure Sys where
  twinReq : BitVec 2
  twinMode : BitVec 2
  twinPend : Option (BitVec 2)
  ok : Bool
  mismatch : Bool
  weight : Byte
  total : BitVec 24
  /-- SYS_EVT: TWIN_LOST, TWIN_MISMATCH, MODE_DONE, TWIN_REJ. -/
  evt : BitVec 4
  deriving DecidableEq, Repr

def Sys.reset : Sys :=
  { twinReq := 0, twinMode := 0, twinPend := none, ok := false, mismatch := false, weight := 1, total := 1, evt := 0 }

/-- Lockstep comparison (R427 to R429, R438). -/
structure Lockstep where
  stop : Bool
  firstValid : Bool
  first : Word
  /-- LS_EVT: MISSING, DIVERGE. -/
  evt : BitVec 2
  own : BitVec 64
  twin : BitVec 64
  rows : Word
  rnd : Word
  /-- The digest and the row count of the round in progress. -/
  run : BitVec 64
  runRows : Word
  /-- Own digests that await the twin's, with the number of round starts since (R429). -/
  await : List (BitVec 48 × BitVec 64 × Nat)
  /-- Twin digests received for rounds that this module has not latched yet (R428). -/
  early : List (Word × BitVec 64)
  /-- Cores start no round until the next warp reset (R429). -/
  stopped : Bool
  deriving DecidableEq, Repr

def Lockstep.reset : Lockstep :=
  { stop := false, firstValid := false, first := 0, evt := 0, own := 0, twin := 0, rows := 0, rnd := 0, run := 0,
    runRows := 0, await := [], early := [], stopped := false }

end Sys2Proof.Machine
end

