-- ==== Sys2Proof/Machine/TrainState.lean ====
section
/-! DEFINITION. The state of the training engines: the strand generator registers, the update units and the digest
exchange (08_training_engines.md). -/

namespace Sys2Proof.Machine

/-- An update list that is armed for its round (R265); `queued` when it waits for a running list to end, which it does from its arm on or
from its round on (DESIGN CHOICE, log entry 32). -/
structure ArmedList where
  round : BitVec 48
  ea : Nat
  owed : Owed
  queued : Bool
  deriving DecidableEq, Repr

/-- An update list that runs (R266): where its jobs lie, the job in progress with its descriptor as read at its start,
and the status that the checks at the start gave it (R269). -/
structure RunList where
  owed : Owed
  njob : Nat
  jobs : Nat
  job : Nat
  desc : List Byte
  status : Byte
  deriving DecidableEq, Repr

/-- An update unit (R265 to R281, R295). -/
structure Unit_ where
  fault : Bool
  status : Byte
  job : BitVec 16
  elem : Count
  /-- The unit digest in progress and as latched (R280, R281). -/
  dig : BitVec 64
  digLat : BitVec 64
  /-- The arrival windows of the last list, base and length, and their counts (R267). -/
  win : List (Nat × Nat)
  arr : Tbl Word
  /-- A job with ENDSTEP completed since STR_STEP changed (R281). -/
  ended : Bool
  list : Option RunList
  /-- Lists armed or queued, oldest first. -/
  waiting : List ArmedList
  /-- UU_CTRL.STOP was written for the running list (R272). -/
  stop : Bool
  deriving DecidableEq, Repr

def Unit_.reset : Unit_ :=
  { fault := false, status := 0, job := 0, elem := 0, dig := 0, digLat := 0, win := [], arr := [], ended := false,
    list := none, waiting := [], stop := false }

/-- A digest that was received and is kept (R284). -/
structure PeerDigest where
  step : Word
  sender : BitVec 16
  value : BitVec 64
  deriving DecidableEq, Repr

/-- The module's own digest that awaits its decision (R284). -/
structure OwnDigest where
  step : Word
  value : BitVec 64
  rounds : Nat
  deriving DecidableEq, Repr

/-- A DIGEST_SET command that awaits the next round start (R573). -/
structure DigSet where
  en : Bool
  ivm1 : Byte
  timeout : BitVec 16
  ids : List (BitVec 16)
  owed : Owed
  deriving DecidableEq, Repr

/-- The training engine block (R262 to R295). -/
structure Train where
  seed : BitVec 64
  step : Word
  /-- The values latched at the last round start (R286). -/
  seedLat : BitVec 64
  stepLat : Word
  /-- Host software wrote STR_STEP since the last round start (R291). -/
  stepWritten : Bool
  /-- UU_EVT. -/
  evt : BitVec 6
  units : Tbl Unit_
  digEn : Bool
  digTimeout : BitVec 16
  digIvm1 : Byte
  outcome : BitVec 3
  agree : BitVec 7
  recv : BitVec 6
  digStep : Word
  digLast : BitVec 64
  badValid : Bool
  badId : BitVec 16
  /-- DIG_PEERn: VALID in bit 16, ID in bits 15 to 0. -/
  peers : Tbl (BitVec 17)
  kept : List PeerDigest
  /-- The own digests that await their decision, oldest first. -/
  own : List OwnDigest
  digSet : List DigSet
  deriving DecidableEq, Repr

def Train.reset : Train :=
  { seed := 0, step := 0, seedLat := 0, stepLat := 0, stepWritten := false, evt := 0, units := [], digEn := false,
    digTimeout := 0x10, digIvm1 := 0, outcome := 0, agree := 0, recv := 0, digStep := 0, digLast := 0,
    badValid := false, badId := 0, peers := [], kept := [], own := [], digSet := [] }

end Sys2Proof.Machine
end

