-- ==== Sys2Proof/Machine/State.lean ====
section
/-! DEFINITION. The whole state: the blocks of the module, and in front of them the queue of the commands that wait. -/

namespace Sys2Proof.Machine

/-- What updates of the module reached in the current reference cycle: what a host access of the same cycle goes by (R396, R482, R587). The
model's own field (DESIGN CHOICE, log entry 54). -/
structure Notes where
  /-- Bits of W1C fields that the module set, whatever they held: the offset of the register and the bit. -/
  raised : List (Nat × Nat)
  /-- Errors that reached the log of a die, and of a stack, oldest first. -/
  cores : List (Nat × LogEntry)
  edges : List (Nat × EdgeLog)
  /-- Minima of voltages that were sampled, by die (144 for the module) and domain. -/
  vmins : Tbl (Option VRec)
  deriving DecidableEq, Repr

def Notes.reset : Notes := { raised := [], cores := [], edges := [], vmins := [] }

/-- The module. -/
structure Mach where
  /-- Reference cycles since reset (R47; DESIGN CHOICE, log entry 2). -/
  now : Nat
  /-- How many free values were drawn: the model's own field (DESIGN CHOICE, log entry 4). -/
  free : Nat
  /-- What has left the module, oldest first (DESIGN CHOICE, log entry 5): the model's own field. -/
  out : List OutEv
  notes : Notes
  ctl : Control
  rnd : Rnd
  /-- The cores that differ from a core after reset, by die * 208 + pc. -/
  cores : Tbl Core
  dies : Tbl Die
  dpw : Tbl DiePower
  sec : Sections
  fab : Fabric
  edge : Edge
  stk : Tbl Stack
  trn : Train
  ports : Tbl Port
  /-- PRT_EPOCH: the epoch of R313. -/
  epoch : Word
  rmt : Remote
  sys : Sys
  ls : Lockstep
  keep : Keep
  mnt : Maint
  pwr : Power
  start : Start
  led : Ledger
  cal : Calendar
  weft : Weft
  cradle : Cradle
  host : HostBlk
  deriving DecidableEq, Repr

def Mach.reset : Mach :=
  { now := 0, free := 0, out := [], notes := .reset, ctl := .reset, rnd := .reset, cores := [], dies := [], dpw := [], sec := .reset,
    fab := .reset, edge := .reset, stk := [], trn := .reset, ports := [], epoch := 0, rmt := .reset, sys := .reset, ls := .reset,
    keep := .reset, mnt := .reset, pwr := .reset, start := .reset, led := .reset, cal := .reset, weft := .reset,
    cradle := .reset, host := .reset }

/-- The state of the block: the commands that wait, first in, first out, and the module. -/
structure State where
  pending : List Instr
  m : Mach
  /-- The module as it stood when the current reference cycle began, or after the last host access in it: what a host
  access in the same cycle as a module update goes by (R587). The model's own field (DESIGN CHOICE, log entry 54). -/
  start : Mach
  deriving DecidableEq, Repr

/-- Why a step faults. -/
inductive Fault where
  /-- Raised by a command whose list of operands has a length that no such command can have: a descriptor row list of
  the wrong length, a message whose data is not what its length byte says. No hardware event is modelled by it, so it is
  safe: a claim about it speaks of no run of the hardware. -/
  | illFormed
  deriving DecidableEq, Repr

/-- Why a step is refused. -/
inductive Refusal where
  /-- Raised by the dispatcher for a command that has no meaning yet. Safe: nothing is claimed of it. -/
  | notModelled (mnemonic : String)
  deriving DecidableEq, Repr

/-- The module when input power is applied, before the start flow runs (R503): every register at its reset value,
nothing in any memory, and no command waiting (DESIGN CHOICE, log entries 1 and 3). -/
def State.reset : State := { pending := [], m := .reset, start := .reset }

end Sys2Proof.Machine
end

