-- ==== Sys2Proof/Machine/Ops.lean ====
section
/-! DEFINITION. The named operations over tables, memories and the parts of the machine, and the operations that
every family shares: the event queue, the interrupt causes, the uncorrected fault. -/

namespace Sys2Proof.Machine

/-- The outcome of a command. -/
abbrev Res := Host.Outcome State Fault Refusal

/-- The module at the beginning of a reference cycle: no update of the cycle is noted. -/
def Mach.fresh (m : Mach) : Mach := { m with notes := .reset }

/-- The state with the module at `m`: a new reference cycle begins there when time has passed (R587). -/
def State.to (s : State) (m : Mach) : State :=
  if m.now = s.m.now then { s with m := m } else { s with m := m.fresh, start := m.fresh }

/-- A command that always has an effect: what it does to everything but the queue. -/
def run (f : Mach → Mach) (s : State) : Res := .next (s.to (f s.m))

/-- The state after a host access has left the module at `m` (R587; DESIGN CHOICE, log entry 54). -/
def State.accessed (s : State) (m : Mach) : State := { s with m := m.fresh, start := m.fresh }

/-- A host access: what it does by the module as it stood before the updates of the current cycle (R587). -/
def runHost (f : Mach → Mach → Mach) (s : State) : Res := .next (s.accessed (f s.start s.m))

/-- A command whose operand list may have a length that no such command can have. -/
def runIf (ok : Bool) (f : Mach → Mach) (s : State) : Res := if ok then run f s else .fault .illFormed

/-- The value at a key, the default where none is listed. -/
def tget {α : Type} (d : α) : Tbl α → Nat → α
  | [], _ => d
  | (k', v) :: t, k => if k' = k then v else tget d t k

/-- Remove a key. -/
def tdel {α : Type} : Tbl α → Nat → Tbl α
  | [], _ => []
  | (k', v) :: t, k => if k' = k then tdel t k else (k', v) :: tdel t k

/-- Insert a value before the first greater key. -/
def tins {α : Type} : Tbl α → Nat → α → Tbl α
  | [], k, v => [(k, v)]
  | (k', v') :: t, k, v => if k < k' then (k, v) :: (k', v') :: t else (k', v') :: tins t k v

/-- Put a value at its place in the order of keys. -/
def tput {α : Type} (t : Tbl α) (k : Nat) (v : α) : Tbl α := tins (tdel t k) k v

/-- Write a value; the default value is not listed. -/
def tset {α : Type} [DecidableEq α] (d : α) (t : Tbl α) (k : Nat) (v : α) : Tbl α :=
  if v = d then tdel t k else tput t k v

/-- Change the value at a key. -/
def tmod {α : Type} [DecidableEq α] (d : α) (t : Tbl α) (k : Nat) (f : α → α) : Tbl α :=
  tset d t k (f (tget d t k))

/-- The canonical form of a table: keys strictly rising, no default value listed. -/
def twf {α : Type} [DecidableEq α] (d : α) : Tbl α → Bool
  | [] => true
  | (k, v) :: t => decide (v ≠ d) && t.all (fun e => decide (k < e.1)) && twf d t

/-- Read a byte; an unlisted one reads 0. -/
def rd (m : Mem) (a : Nat) : Byte := tget 0 m a

/-- Write a byte. -/
def wr (m : Mem) (a : Nat) (b : Byte) : Mem := tset 0 m a b

/-- The canonical form of a memory. -/
def Memory.wf (m : Mem) : Bool := twf (0 : Byte) m

/-- n bytes from an address on. -/
def rdBytes (m : Mem) (a : Nat) : Nat → List Byte
  | 0 => []
  | n + 1 => rd m a :: rdBytes m (a + 1) n

/-- Write bytes from an address on. -/
def wrBytes (m : Mem) (a : Nat) : List Byte → Mem
  | [] => m
  | b :: t => wrBytes (wr m a b) (a + 1) t

/-- n bytes from an address on as a number, least significant first (R6). -/
def rdNum (m : Mem) (a n : Nat) : Nat := ofBytes (rdBytes m a n)

/-- Fold an operation over the numbers 0 to n - 1. -/
def iter {σ : Type} (n : Nat) (f : Nat → σ → σ) (s : σ) : σ := (List.range n).foldl (fun s i => f i s) s

/-- A nonzero table of entries. -/
def tblOf {n : Nat} (m : Nat) (f : Nat → BitVec n) : Tbl (BitVec n) :=
  (List.range m).filterMap (fun i => if f i = 0 then none else some (i, f i))

/-! ### Parts of the machine -/

def coreAt (s : Mach) (k : Nat) : Core := tget Core.reset s.cores k
def modCore (k : Nat) (f : Core → Core) (s : Mach) : Mach := { s with cores := tmod Core.reset s.cores k f }
def dieAt (s : Mach) (d : Nat) : Die := tget Die.reset s.dies d
def modDie (d : Nat) (f : Die → Die) (s : Mach) : Mach := { s with dies := tmod Die.reset s.dies d f }
def stkAt (s : Mach) (i : Nat) : Stack := tget Stack.reset s.stk i
def modStk (i : Nat) (f : Stack → Stack) (s : Mach) : Mach := { s with stk := tmod Stack.reset s.stk i f }
def ringAt (s : Mach) (q : Nat) : Ring := tget Ring.reset s.host.rings q
def modRing (q : Nat) (f : Ring → Ring) (s : Mach) : Mach :=
  { s with host := { s.host with rings := tmod Ring.reset s.host.rings q f } }
def dpwAt (s : Mach) (d : Nat) : DiePower := tget DiePower.reset s.dpw d
def modDpw (d : Nat) (f : DiePower → DiePower) (s : Mach) : Mach := { s with dpw := tmod DiePower.reset s.dpw d f }
def portAt (s : Mach) (p : Nat) : Port := tget Port.reset s.ports p
def modPort (p : Nat) (f : Port → Port) (s : Mach) : Mach := { s with ports := tmod Port.reset s.ports p f }
def unitAt (s : Mach) (u : Nat) : Unit_ := tget Unit_.reset s.trn.units u
def modUnit (u : Nat) (f : Unit_ → Unit_) (s : Mach) : Mach :=
  { s with trn := { s.trn with units := tmod Unit_.reset s.trn.units u f } }
def modTrn (f : Train → Train) (s : Mach) : Mach := { s with trn := f s.trn }
def modRmt (f : Remote → Remote) (s : Mach) : Mach := { s with rmt := f s.rmt }
def modSys (f : Sys → Sys) (s : Mach) : Mach := { s with sys := f s.sys }
def modLs (f : Lockstep → Lockstep) (s : Mach) : Mach := { s with ls := f s.ls }
def modPwr (f : Power → Power) (s : Mach) : Mach := { s with pwr := f s.pwr }
def modStart (f : Start → Start) (s : Mach) : Mach := { s with start := f s.start }
def modRnd (f : Rnd → Rnd) (s : Mach) : Mach := { s with rnd := f s.rnd }
def modEdge (f : Edge → Edge) (s : Mach) : Mach := { s with edge := f s.edge }
def modSec (f : Sections → Sections) (s : Mach) : Mach := { s with sec := f s.sec }
def modCtl (f : Control → Control) (s : Mach) : Mach := { s with ctl := f s.ctl }
def modKeep (f : Keep → Keep) (s : Mach) : Mach := { s with keep := f s.keep }
def modMnt (f : Maint → Maint) (s : Mach) : Mach := { s with mnt := f s.mnt }
def modLed (f : Ledger → Ledger) (s : Mach) : Mach := { s with led := f s.led }
def modCal (f : Calendar → Calendar) (s : Mach) : Mach := { s with cal := f s.cal }
def modWeft (f : Weft → Weft) (s : Mach) : Mach := { s with weft := f s.weft }
def modCradle (f : Cradle → Cradle) (s : Mach) : Mach := { s with cradle := f s.cradle }
def modHost (f : HostBlk → HostBlk) (s : Mach) : Mach := { s with host := f s.host }

/-- Something leaves the module. -/
def emit (e : OutEv) (s : Mach) : Mach := { s with out := s.out ++ [e] }

/-- The round number in force, 0 before the first (R536). -/
def roundNow (s : Mach) : BitVec 48 := match s.rnd.cur with | some r => r.num | none => 0

/-- The die of a core key and its physical core (R15). -/
def dieOf (k : Nat) : Nat := k / 208
def pcOf (k : Nat) : Nat := k % 208

/-! ### Interrupt causes (R577, R578) -/

/-- Send an MSI-X vector, or hold it pending while its entry is masked (R582). -/
def sendVector (v : BitVec 6) (s : Mach) : Mach :=
  if bit (tget (1 : Word) s.host.msixTab (4 * v.toNat + 3)) 0 then
    modHost (fun h => { h with msixPend := setBit h.msixPend v.toNat }) s
  else emit (.vector v) s

/-- The module sets bit b of the W1C register at an offset of BAR0 in this cycle (R587). -/
def noteRaise (a b : Nat) (s : Mach) : Mach := { s with notes := { s.notes with raised := (a, b) :: s.notes.raised } }

/-- The bits of a W1C register that the module has set in this cycle (R587). -/
def noted (s : Mach) (a : Nat) : Word := s.notes.raised.foldl (fun (m : Word) e => if e.1 = a then setBit m e.2 else m) 0

/-- The offset of a register in the steward window of a die (R583). -/
def dieReg (die off : Nat) : Nat := 0x400000 + 0x10000 * die + off

/-- The offset of a register of a core's block (R133). -/
def coreReg (k off : Nat) : Nat := dieReg (dieOf k) (0x1000 + 0x40 * pcOf k + off)

/-- Event cause c rises (R578). -/
def raiseIrq (c : Nat) (s0 : Mach) : Mach :=
  let s := noteRaise 0x10010 c s0
  if bit s.host.irqCause c then s
  else
    let s1 := modHost (fun h => { h with irqCause := setBit h.irqCause c }) s
    if bit s.host.irqMask c then s1 else sendVector (tget 0 s.host.irqMap c) s1

/-! ### The event queue (R540 to R544) -/

/-- Standing and protected classes (R540). -/
def isProtected (cls : Nat) : Bool :=
  [0x1, 0x2, 0x3, 0x4, 0x6, 0x7, 0x10, 0x11, 0x12, 0x50, 0x51, 0x52, 0x62, 0x63].contains cls

/-- Count an ordinary event that found its entries full (R543). -/
def suppress (cls : BitVec 16) (rnd : BitVec 48) (n : Nat) (l : Ledger) : Ledger :=
  { l with
    suppFirst := if l.supp.isEmpty then rnd else l.suppFirst
    suppLast := rnd
    supp := tmod 0 l.supp cls.toNat (fun c => satAdd c n)
    ledSupp := satAdd l.ledSupp n }

/-- An event reaches the queue (R541 to R543). -/
def queueEvent (e : Event) (l : Ledger) : Ledger :=
  if isProtected e.cls.toNat then
    if l.protQ.length < 64 then { l with protQ := l.protQ ++ [e] } else { l with waitQ := l.waitQ ++ [e] }
  else if l.ordQ.length < 4032 then { l with ordQ := l.ordQ ++ [e] }
  else suppress e.cls e.round 1 l

/-- An event of the module (R434, R540). -/
def mkEvent (s : Mach) (cls : Nat) (scope flags die unit loc : Nat) (detail : List Byte) : Event :=
  { cls := BitVec.ofNat 16 cls, scope := BitVec.ofNat 8 scope, flags := BitVec.ofNat 8 flags, die := BitVec.ofNat 16 die,
    unit := BitVec.ofNat 16 unit, loc := BitVec.ofNat 64 loc, detail := detail, round := roundNow s }

/-- Write an event of class `cls` that concerns the module as a whole. -/
def logModule (cls flags : Nat) (detail : List Byte) (s : Mach) : Mach :=
  modLed (queueEvent (mkEvent s cls 0 flags 0xFFFF 0xFFFF 0 detail)) s

/-- Write an event with its scope and place. -/
def logAt (cls scope flags die unit loc : Nat) (detail : List Byte) (s : Mach) : Mach :=
  modLed (queueEvent (mkEvent s cls scope flags die unit loc detail)) s

/-- An event arises at a die: the steward buffers up to 64, and counts the rest by class (R532). -/
def logDie (die cls scope flags unit loc : Nat) (detail : List Byte) (s : Mach) : Mach :=
  let e := mkEvent s cls scope flags die unit loc detail
  modDie die (fun d =>
    if d.stw.evBuf.length < 64 then { d with stw := { d.stw with evBuf := d.stw.evBuf ++ [e] } }
    else { d with stw := { d.stw with evLost := tmod 0 d.stw.evLost cls satInc } }) s

/-! ### The uncorrected fault (R449) -/

/-- An uncorrected fault of event class `cls`: RS_FAULT, the restart cause, and the hold from the next round start. -/
def uncorrected (cls : Nat) (s : Mach) : Mach :=
  raiseIrq 8 (noteRaise 0x10E004 (if s.keep.rsValid then 30 else 31) (modKeep (fun k =>
    if k.rsValid then { k with rsMulti := true, faulted := true, holdNext := true }
    else { k with rsValid := true, rsClass := BitVec.ofNat 16 cls, rsRound := (roundNow s).setWidth 32,
                  faulted := true, holdNext := true }) s))

/-! ### Completions (R566 to R568) -/

/-- A command ends with a status and its DETAIL; its completion entry awaits COMPLETION_WRITE. -/
def complete (o : Owed) (status : Nat) (detail : Nat) (s : Mach) : Mach :=
  modRing o.ring (fun r =>
    match r.cmds.find? (fun c => c.tok == o.tok) with
    | none => r
    | some c =>
      { r with
        cmds := r.cmds.filter (fun c => c.tok != o.tok)
        fin := r.fin ++ [{ cid := fld c.desc 16 16, opc := fld c.desc 0 8, irq := bit c.desc 8,
                           status := BitVec.ofNat 8 status, detail := BitVec.ofNat 64 detail, mode := c.mode, slot := c.slot, phase := c.phase }] }) s

/-- Complete a command that is owed a completion, if one is. -/
def completeOpt (o : Option Owed) (status detail : Nat) (s : Mach) : Mach :=
  match o with
  | some o => complete o status detail s
  | none => s

end Sys2Proof.Machine
end

