-- ==== Sys2Proof/Machine/Operands.lean ====
section
/-! DEFINITION. The operand forms: the element and scale formats, their conversions, the exact values behind them and
the strand generator (04_number_formats.md, 08_training_engines.md). -/

namespace Sys2Proof.Machine

/-- The exact value behind an encoding (R141): a NaN, an infinity, or (-1)^neg * mag * 2^exp. -/
inductive FVal where
  | nan
  | inf (neg : Bool)
  | fin (neg : Bool) (mag : Nat) (exp : Int)
  deriving DecidableEq, Repr

/-- A floating-point format (R140): exponent and mantissa width, bias, and its special encodings: 0 none, 1 the NaN of
FP8-E4M3, 2 those of IEEE 754. -/
structure Fmt where
  e : Nat
  m : Nat
  bias : Int
  special : Nat

/-- The floating-point format of a code of R107. -/
def fmtOf (code : Nat) : Fmt :=
  match code with
  | 0 => ⟨8, 23, 127, 2⟩
  | 1 => ⟨8, 7, 127, 2⟩
  | 2 => ⟨5, 10, 15, 2⟩
  | 3 => ⟨4, 3, 7, 1⟩
  | 4 => ⟨5, 2, 15, 2⟩
  | 5 => ⟨3, 2, 3, 0⟩
  | 6 => ⟨2, 3, 1, 0⟩
  | _ => ⟨2, 1, 1, 0⟩

/-- Bits of an element (R107). -/
def fmtBits (code : Nat) : Nat :=
  match code with
  | 0 => 32 | 1 => 16 | 2 => 16 | 3 => 8 | 4 => 8 | 5 => 6 | 6 => 6 | 7 => 4 | 8 => 8 | _ => 4

/-- Rate class (R107). -/
def fmtClass (code : Nat) : Nat :=
  match code with
  | 0 => 32 | 1 => 16 | 2 => 16 | 7 => 4 | 9 => 4 | _ => 8

/-- The format code is not reserved (R107). -/
def fmtOk (code : Nat) : Bool := decide (code ≤ 9)

/-- INT8 or INT4 (R142). -/
def fmtInt (code : Nat) : Bool := code == 8 || code == 9

/-- Kt of a rate class (R108). -/
def ktOf (cls : Nat) : Nat :=
  match cls with
  | 32 => 8 | 16 => 32 | 8 => 64 | _ => 128

/-- 2^(a) for a nonnegative integer. -/
def p2 (a : Int) : Nat := 2 ^ a.toNat

/-- The value of an encoding of a floating-point format (R140, R141). -/
def decodeFp (f : Fmt) (x : Nat) : FVal :=
  let neg := x / 2 ^ (f.e + f.m) % 2 == 1
  let ex := x / 2 ^ f.m % 2 ^ f.e
  let man := x % 2 ^ f.m
  if f.special == 2 && ex == 2 ^ f.e - 1 then (if man == 0 then .inf neg else .nan)
  else if f.special == 1 && ex == 2 ^ f.e - 1 && man == 2 ^ f.m - 1 then .nan
  else if ex == 0 then .fin neg man (1 - f.bias - (f.m : Int))
  else .fin neg (2 ^ f.m + man) ((ex : Int) - f.bias - (f.m : Int))

/-- The value of a two's complement integer of w bits (R142). -/
def decodeInt (w x : Nat) : FVal :=
  if x < 2 ^ (w - 1) then .fin false x 0 else .fin true (2 ^ w - x) 0

/-- The value of an element (R141, R142). -/
def decodeElem (code x : Nat) : FVal :=
  if fmtInt code then decodeInt (fmtBits code) x else decodeFp (fmtOf code) x

/-- The value of an FP32 number. -/
def f32 (w : Word) : FVal := decodeFp (fmtOf 0) w.toNat

/-- The value of a scale byte (R144): scale code 1 E8M0, 2 FP8-E4M3 with its sign ignored; code 0 no scale. -/
def decodeScale (code : Nat) (b : Byte) : FVal :=
  match code with
  | 0 => .fin false 1 0
  | 1 => if b.toNat == 255 then .nan else .fin false 1 ((b.toNat : Int) - 127)
  | _ => decodeFp (fmtOf 3) (b.toNat % 128)

/-! ### Exact arithmetic -/

def FVal.isNan : FVal → Bool
  | .nan => true
  | _ => false

def FVal.isInf (s : Bool) : FVal → Bool
  | .inf n => n == s
  | _ => false

def FVal.isFin : FVal → Bool
  | .fin .. => true
  | _ => false

def FVal.isZero : FVal → Bool
  | .fin _ 0 _ => true
  | _ => false

def FVal.neg? : FVal → Bool
  | .nan => false
  | .inf n => n
  | .fin n _ _ => n

def FVal.negate : FVal → FVal
  | .nan => .nan
  | .inf n => .inf (!n)
  | .fin n m e => .fin (!n) m e

def FVal.abs : FVal → FVal
  | .nan => .nan
  | .inf _ => .inf false
  | .fin _ m e => .fin false m e

/-- The exact number behind a finite value; 0 for the others. -/
def FVal.dy : FVal → Dy
  | .fin n m e => ⟨if n then -(m : Int) else (m : Int), e⟩
  | _ => ⟨0, 0⟩

/-- Exact sum. -/
def Dy.add (a b : Dy) : Dy :=
  let e := min a.exp b.exp
  ⟨a.num * (p2 (a.exp - e) : Int) + b.num * (p2 (b.exp - e) : Int), e⟩

def Dy.neg (a : Dy) : Dy := ⟨-a.num, a.exp⟩
def Dy.sub (a b : Dy) : Dy := a.add b.neg
def Dy.abs (a : Dy) : Dy := ⟨(a.num.natAbs : Int), a.exp⟩
def Dy.scale (k : Int) (s : Int) (a : Dy) : Dy := ⟨a.num * k, a.exp + s⟩
def Dy.mul (a b : Dy) : Dy := ⟨a.num * b.num, a.exp + b.exp⟩
def Dy.lt (a b : Dy) : Bool := decide ((a.sub b).num < 0)
def Dy.le (a b : Dy) : Bool := decide ((a.sub b).num ≤ 0)
def Dy.zero : Dy := ⟨0, 0⟩

/-- The value of an exact number; a zero has the sign given. -/
def Dy.toF (zneg : Bool) (a : Dy) : FVal :=
  if a.num = 0 then .fin zneg 0 a.exp else .fin (decide (a.num < 0)) a.num.natAbs a.exp

/-- The integer square root, bit by bit from bit i - 1 on. -/
def isqrt (n : Nat) : Nat → Nat → Nat
  | 0, r => r
  | i + 1, r => isqrt n i (if (r + 2 ^ i) * (r + 2 ^ i) ≤ n then r + 2 ^ i else r)

/-- Exact product (R145, R153): 0 times an infinity is NaN. -/
def FVal.mul (a b : FVal) : FVal :=
  match a, b with
  | .nan, _ => .nan
  | _, .nan => .nan
  | .inf s, .inf t => .inf (s != t)
  | .inf s, .fin t m _ => if m = 0 then .nan else .inf (s != t)
  | .fin s m _, .inf t => if m = 0 then .nan else .inf (s != t)
  | .fin s m e, .fin t n f => .fin (s != t) (m * n) (e + f)

/-- Exact sum with the sign that IEEE 754 gives a zero under round to nearest even. -/
def FVal.add (a b : FVal) : FVal :=
  match a, b with
  | .nan, _ => .nan
  | _, .nan => .nan
  | .inf s, .inf t => if s = t then .inf s else .nan
  | .inf s, .fin .. => .inf s
  | .fin .., .inf t => .inf t
  | .fin s m e, .fin t n f =>
    ((FVal.fin s m e).dy.add (FVal.fin t n f).dy).toF ((m == 0 && n == 0) && s && t)

/-- a < b for values that are not NaN, with -0 less than +0 (R153). -/
def FVal.less (a b : FVal) : Bool :=
  match a, b with
  | .nan, _ => false
  | _, .nan => false
  | .inf s, .inf t => s && !t
  | .inf s, .fin .. => s
  | .fin .., .inf t => !t
  | .fin s m e, .fin t n f =>
    if m = 0 ∧ n = 0 then s && !t else (FVal.fin s m e).dy.lt (FVal.fin t n f).dy

/-! ### Rounding (R148) -/

/-- Round mag * 2^exp to a multiple of 2^q: the count of quanta. Modes: 0 nearest even, 1 toward zero, 2 stochastic with
the random word r, 3 away from zero. -/
def roundAt (mode : Nat) (r : Word) (mag : Nat) (exp q : Int) : Nat :=
  if q ≤ exp then mag * p2 (exp - q)
  else
    let u := p2 (q - exp)
    let lo := mag / u
    let rem := mag % u
    let up :=
      match mode with
      | 0 => decide (u < 2 * rem) || (2 * rem == u && lo % 2 == 1)
      | 1 => false
      | 2 => decide (r.toNat / 256 < 2 ^ 24 * rem / u)
      | _ => rem != 0
    if up then lo + 1 else lo

/-- The quantum of a format at a magnitude: mantissa spacing of its binade, at least the subnormal spacing. -/
def quantum (f : Fmt) (mag : Nat) (exp : Int) : Int :=
  max (1 - f.bias - (f.m : Int)) ((Nat.log2 mag : Int) + exp - (f.m : Int))

/-- The largest finite magnitude of a format, as count and quantum (R140). -/
def maxFin (f : Fmt) : Nat × Int :=
  match f.special with
  | 2 => (2 ^ (f.m + 1) - 1, ((2 ^ f.e - 2 : Nat) : Int) - f.bias - (f.m : Int))
  | 1 => (2 ^ (f.m + 1) - 2, ((2 ^ f.e - 1 : Nat) : Int) - f.bias - (f.m : Int))
  | _ => (2 ^ (f.m + 1) - 1, ((2 ^ f.e - 1 : Nat) : Int) - f.bias - (f.m : Int))

/-- The encoding of n quanta of 2^q (R141). -/
def encodeFp (f : Fmt) (neg : Bool) (n : Nat) (q : Int) : Nat :=
  let s := if neg then 2 ^ (f.e + f.m) else 0
  if n = 0 then s
  else if (Nat.log2 n : Int) + q < 1 - f.bias then s + n * p2 (q - (1 - f.bias - (f.m : Int)))
  else s + ((Nat.log2 n : Int) + q + f.bias).toNat * 2 ^ f.m + (n * 2 ^ f.m / 2 ^ Nat.log2 n - 2 ^ f.m)

/-- The canonical NaN of a format, +0 where it has none (R150, R151). -/
def nanOf (code : Nat) : Nat :=
  match code with
  | 0 => 0x7FC00000 | 1 => 0x7FC0 | 2 => 0x7E00 | 3 => 0x7F | 4 => 0x7E | _ => 0

/-- The infinity of a format. -/
def infOf (f : Fmt) (neg : Bool) : Nat := (if neg then 2 ^ (f.e + f.m) else 0) + (2 ^ f.e - 1) * 2 ^ f.m

/-- Convert a value into a floating-point format (R148, R150): the encoding, and whether it overflowed. The rounded value decides
that: a nearest-even tie half a spacing above the largest magnitude whose even neighbour is that magnitude rounds to it and does
not overflow (DESIGN CHOICE, log entry 10: R150 can be read either way). -/
def convFp (code mode : Nat) (r : Word) (x : FVal) : Nat × Bool :=
  let f := fmtOf code
  let big (neg : Bool) := encodeFp f neg (maxFin f).1 (maxFin f).2
  match x with
  | .nan => (nanOf code, false)
  | .inf neg => if f.special == 2 then (infOf f neg, false) else (big neg, false)
  | .fin neg mag exp =>
    if mag = 0 then (encodeFp f neg 0 0, false)
    else
      let q := quantum f mag exp
      let n := roundAt mode r mag exp q
      if (Dy.mk ((maxFin f).1 : Int) (maxFin f).2).lt ⟨(n : Int), q⟩ then
        (if f.special == 2 && (mode == 0) then infOf f neg else big neg, true)
      else (encodeFp f neg n q, false)

/-- Convert a value into INT8 or INT4 (R148, R150). -/
def convInt (w mode : Nat) (r : Word) (x : FVal) : Nat × Bool :=
  let top := 2 ^ (w - 1) - 1
  match x with
  | .nan => (0, false)
  | .inf neg => (if neg then 2 ^ (w - 1) else top, false)
  | .fin neg mag exp =>
    let n := roundAt mode r mag exp 0
    if neg then (if top + 1 < n then (2 ^ (w - 1), true) else ((2 ^ w - n) % 2 ^ w, false))
    else (if top < n then (top, true) else (n, false))

/-- Convert a value into an element format (R147 to R150). -/
def convElem (code mode : Nat) (r : Word) (x : FVal) : Nat × Bool :=
  if fmtInt code then convInt (fmtBits code) mode r x else convFp code mode r x

/-- Round to FP32, nearest even. -/
def rne32 (x : FVal) : Word := BitVec.ofNat 32 (convFp 0 0 0 x).1

/-- Round a magnitude to FP32 toward +infinity; above the largest finite number it is +infinity (R154). -/
def up32 (x : FVal) : Word :=
  match x with
  | .nan => 0x7F800000
  | .inf _ => 0x7F800000
  | .fin _ mag exp =>
    if mag = 0 then 0
    else
      let q := quantum (fmtOf 0) mag exp
      let n := roundAt 3 0 mag exp q
      if (Dy.mk ((maxFin (fmtOf 0)).1 : Int) (maxFin (fmtOf 0)).2).lt ⟨(n : Int), q⟩ then 0x7F800000
      else BitVec.ofNat 32 (encodeFp (fmtOf 0) false n q)

/-- Round a nonnegative number to FP32 toward zero. -/
def down32 (x : Dy) : Word := BitVec.ofNat 32 (convFp 0 1 0 (x.toF false)).1

/-- The canonical NaN of FP32 (R151). -/
def nan32 : Word := 0x7FC00000

def fadd (a b : Word) : Word := rne32 ((f32 a).add (f32 b))
def fmax (a b : FVal) : FVal := if a.isNan || b.isNan then .nan else if a.less b then b else a
def fmin (a b : FVal) : FVal := if a.isNan || b.isNan then .nan else if b.less a then b else a

/-! ### Trackers (R154) -/

/-- A tracked conversion presents a value to a tracker: `ovf` as R150 defines it, `code` the destination format. -/
def track (code : Nat) (fromF32 : Bool) (x : FVal) (ovf : Bool) (t : Tracker) : Tracker :=
  match x with
  | .nan => { t with nan := satInc t.nan }
  | _ =>
    let mag := up32 x.abs
    let maxabs := if t.maxabs.toNat < mag.toNat then mag else t.maxabs
    let infSat := !x.isFin && (fmtInt code || (fmtOf code).special != 2)
    let sat := (ovf || infSat) && !(code == 0 && fromF32)
    { t with maxabs := maxabs, sat := if sat then satInc t.sat else t.sat }

/-! ### The strand generator (R285, R286) -/

/-- One mixing step (R285). -/
def strandStep (x : Word × Word × Word × Word) (k0 k1 : Word) : Word × Word × Word × Word :=
  let s := x.1 * 0x01001001#32
  let t := x.2.2.1 * 0x00100101#32
  (x.2.2.2 ^^^ s.rotateLeft 12 ^^^ k0, x.2.1 + t, x.2.1 ^^^ t.rotateLeft 20 ^^^ k1, x.2.2.2 + s)

/-- n mixing steps with the keys advancing. -/
def strandGo : Nat → Word × Word × Word × Word → Word → Word → Word × Word × Word × Word
  | 0, x, _, _ => x
  | n + 1, x, k0, k1 => strandGo n (strandStep x k0 k1) (k0 + 0x5B3C81D7#32) (k1 + 0xA4F12E69#32)

/-- The strand generator (R285). -/
def strand (x : Word × Word × Word × Word) (k0 k1 : Word) : Word × Word × Word × Word := strandGo 10 x k0 k1

/-- The random word of a stream tag, a position and a domain (R149, R286). -/
def draw (s : Mach) (tag pos : Word) (dom : Word) : Word :=
  (strand (pos, tag, s.trn.stepLat, dom) (s.trn.seedLat.setWidth 32) (fld s.trn.seedLat 32 32)).1

end Sys2Proof.Machine
end

