-- ==== Sys2Proof/Machine/CoreOps.lean ====
section
/-! DEFINITION. Operations on a core: its map, its arrays with their codes and logs, its buffers, its faults and its
done signal (01_warp_and_weft.md, 03_core.md, 05_sections_and_fabric.md, 12_stored_data_protection.md). -/

namespace Sys2Proof.Machine

/-! ### The core map (R17, R20, R42 to R45) -/

def spareRow (d : Die) (col : Nat) : Nat := (fld d.spare (4 * col) 4).toNat
def absentRow (d : Die) (col : Nat) : Nat := (fld d.absent (4 * col) 4).toNat

/-- The logical row that a physical row serves in a column (R17), none for the excluded row. -/
def logicalRow (s r : Nat) : Option Nat := if r < s then some r else if r = s then none else some (r - 1)

/-- The logical core that a physical core serves: none when excluded or absent. -/
def lcOf (d : Die) (pc : Nat) : Option Nat :=
  let col := pc % 16
  match logicalRow (spareRow d col) (pc / 16) with
  | none => none
  | some l => if d.failed || absentRow d col == l then none else some (l * 16 + col)

/-- The physical core that serves a logical core (R17), none for an absent one. -/
def pcOfLc (d : Die) (lc : Nat) : Option Nat :=
  let col := lc % 16
  let l := lc / 16
  if d.failed || absentRow d col == l then none
  else some ((if l < spareRow d col then l else l + 1) * 16 + col)

/-- Module logical core index (R15). -/
def mlcOf (s : Mach) (k : Nat) : Nat := dieOf k * 192 + (lcOf (dieAt s (dieOf k)) (pcOf k)).getD 0

/-- The core with a module logical core index. -/
def coreOfMlc (s : Mach) (mlc : Nat) : Option Nat :=
  if mlc < 27648 then (pcOfLc (dieAt s (mlc / 192)) (mlc % 192)).map (fun pc => mlc / 192 * 208 + pc) else none

/-- The core serves a logical position. -/
def present (s : Mach) (k : Nat) : Bool := (lcOf (dieAt s (dieOf k)) (pcOf k)).isSome

/-- The core is marked dead (R27). -/
def dead (s : Mach) (k : Nat) : Bool := bit (dieAt s (dieOf k)).dead (pcOf k)

/-- The number of present logical cores of a die (R42). -/
def presentCount (d : Die) : Nat := ((List.range 192).filter (fun lc => (pcOfLc d lc).isSome)).length

/-- The keys of every present core, in order of mlc. -/
def presentCores (s : Mach) : List Nat :=
  (List.range 27648).filterMap (fun m => coreOfMlc s m)

/-! ### Codes of the arrays (R382, R383) -/

/-- The number of set bits of a number below 256. -/
def weight (x : Nat) : Nat := ((List.range 8).filter (fun i => x.testBit i)).length

/-- The columns h(i): array 0 narrow, 1 wide, 2 instruction memory. -/
def columns (arr : Nat) : List Nat :=
  match arr with
  | 0 => (List.range 32).filter (fun x => weight x == 3) |>.take 8
  | 1 => ((List.range 256).filter (fun x => weight x == 3)) ++
         (((List.range 256).filter (fun x => weight x == 5)).take 8)
  | _ => ((List.range 128).filter (fun x => weight x == 3)).take 32

/-- The check bits of a word (R382). -/
def checkBits (arr data : Nat) : Nat :=
  ((columns arr).zipIdx).foldl (fun acc e => if data.testBit e.2 then acc ^^^ e.1 else acc) 0

/-- Data bits of a code word. -/
def wordBits (arr : Nat) : Nat := match arr with | 0 => 8 | 1 => 64 | _ => 32

/-- The outcome of a read (R383): the data, and for an error whether it is uncorrectable and its bit position. -/
def decodeWord (arr data syn : Nat) : Nat × Option (Bool × Nat) :=
  if syn = 0 then (data, none)
  else if weight syn = 1 then (data, some (false, wordBits arr + Nat.log2 syn))
  else
    match ((columns arr).zipIdx).find? (fun e => e.1 == syn) with
    | some e => (data ^^^ 2 ^ e.2, some (false, e.2))
    | none => (data, some (true, 0))

/-- An error found by a read. -/
structure ErrRec where
  arr : Nat
  addr : Nat
  syn : Nat
  ue : Bool
  pos : Nat

/-- The first byte address of the wide banks and of their end (R89). -/
def wideBase : Nat := 0x00100000
def wideEnd : Nat := 0x00270000
def inNarrow (a : Nat) : Bool := decide (a < 0x10000)
def inWide (a : Nat) : Bool := decide (wideBase ≤ a ∧ a < wideEnd)
def rowAddr (r : Nat) : Nat := wideBase + 64 * r
def rowIndex (a : Nat) : Nat := (a - wideBase) / 64

/-- The key of the syndrome of an instruction word. -/
def imemKey (w : Nat) : Nat := 0x10000000 + 4 * w

/-- Read one code word of an array (R382): the narrow byte at `a`, the wide word at `a`, instruction word `a / 4`. -/
def readWord (c : Core) (arr a : Nat) : Nat × List ErrRec :=
  let data := match arr with | 0 => rdNum c.sp a 1 | 1 => rdNum c.sp a 8 | _ => rdNum c.imem a 4
  let syn := (tget 0 c.synd (if arr = 2 then imemKey (a / 4) else a)).toNat
  match decodeWord arr data syn with
  | (v, none) => (v, [])
  | (v, some (ue, pos)) => (v, [⟨arr, a, syn, ue, pos⟩])

/-- Read n narrow bytes, as a number (R92). -/
def readNarrow (c : Core) (a : Nat) : Nat → Nat × List ErrRec
  | 0 => (0, [])
  | n + 1 =>
    let (v, e) := readWord c 0 a
    let (w, f) := readNarrow c (a + 1) n
    (v + 256 * w, e ++ f)

/-- Read n wide words, as a number. -/
def readWords (c : Core) (a : Nat) : Nat → Nat × List ErrRec
  | 0 => (0, [])
  | n + 1 =>
    let (v, e) := readWord c 1 a
    let (w, f) := readWords c (a + 8) n
    (v + 2 ^ 64 * w, e ++ f)

/-- Read the wide row at a 64-byte aligned address. -/
def readRow (c : Core) (a : Nat) : Row × List ErrRec :=
  let (v, e) := readWords c a 8
  (BitVec.ofNat 512 v, e)

def anyUe (es : List ErrRec) : Bool := es.any (fun e => e.ue)

/-- Remove the syndromes of n consecutive keys, `step` apart. -/
def clearSynd (t : Tbl Byte) (a step : Nat) : Nat → Tbl Byte
  | 0 => t
  | n + 1 => clearSynd (tdel t a) (a + step) step n

/-- The write-backs of a scrubber that a write of n bytes at `a` leaves: those of the rows or words that it does not touch
(R392). -/
def keepWb (a n i : Nat) (t : Tbl (List Nat)) : Tbl (List Nat) :=
  let sz := if i < 16 then 64 else if i = 16 then 8 else 4
  tmod [] t i (fun l => l.filter (fun b => decide (a + n ≤ b) || decide (b + sz ≤ a)))

/-- A write of n bytes of the scratchpad at `a` drops the scrub write-backs of what it touches (R392). -/
def dropWb (a n : Nat) (t : Tbl (List Nat)) : Tbl (List Nat) :=
  if t.isEmpty then t else (List.range 17).foldl (fun t i => keepWb a n i t) t

/-- Write bytes into the scratchpad with good check bits: narrow bytes, or whole wide words (R91, R92). -/
def writeSp (a : Nat) (bs : List Byte) (c : Core) : Core :=
  { c with
    sp := wrBytes c.sp a bs
    scrubWb := dropWb a bs.length c.scrubWb
    synd := if c.synd.isEmpty then c.synd
            else if inNarrow a then clearSynd c.synd a 1 bs.length else clearSynd c.synd a 8 (bs.length / 8) }

/-- Write an instruction word with good check bits. -/
def writeImem (w : Nat) (v : Word) (c : Core) : Core :=
  { c with scrubWb := keepWb (4 * w) 4 17 c.scrubWb, imem := wrBytes c.imem (4 * w) (toBytes 4 v.toNat), synd := tdel c.synd (imemKey w) }

/-! ### Pieces of wide rows, and the order of a slot (R97, R99, R101) -/

/-- Bytes from an address on, cut at the ends of wide rows. -/
def piecesOf : Nat → Nat → List Byte → List Piece
  | 0, _, _ => []
  | n + 1, a, bs =>
    let len := 64 - a % 64
    if bs.isEmpty then [] else { addr := a, data := bs.take len } :: piecesOf n (a + len) (bs.drop len)

/-- The pieces of n bytes at a wide address. -/
def pieces (a : Nat) (bs : List Byte) : List Piece := piecesOf (bs.length / 64 + 2) a bs

/-- Store pieces with good check bits. -/
def writePieces (ps : List Piece) (c : Core) : Core := ps.foldl (fun c p => writeSp p.addr p.data c) c

/-- The longest prefix of at most n rows that fall in banks of their own, none of them among `used` (R99). -/
def takeRows : List Nat → Nat → List Nat → List Nat
  | used, n + 1, r :: t => if used.contains (r % 16) then [] else r :: takeRows (r % 16 :: used) n t
  | _, _, _ => []

/-- The banks of rows. -/
def banksOf (rows : List Nat) : List Nat := rows.map (· % 16)

/-- The narrow-bank writes that wait for the slot of the DMA are made (R101). -/
def dmaSlot (c : Core) : Core := if c.dma.isEmpty then c else { writePieces c.dma c with dma := [] }

/-! ### Error logs (R394, R399, R400) -/

/-- Sub-array, row within it and column of a bit (R399). -/
def subOf (arr a : Nat) : Nat :=
  match arr with
  | 0 => 128 + a / 16384
  | 1 => 8 * (rowIndex a % 16) + rowIndex a / 16 / 184
  | _ => 132 + a / 4 / 2048

def subRow (arr a : Nat) : Nat :=
  match arr with
  | 0 => a % 16384 / 8
  | 1 => rowIndex a / 16 % 184
  | _ => a / 4 % 2048

def colOf (arr a pos : Nat) : Nat :=
  match arr with
  | 0 => a % 8 * 13 + pos
  | 1 => (a - wideBase) / 8 % 8 * 72 + pos
  | _ => pos

/-- The words of a log entry (R411). -/
def logWords (e : LogEntry) : BitVec 128 :=
  e.round ++ (e.count ++ (0 : BitVec 6) ++ e.col) ++ e.addr ++
    (b1 true ++ b1 e.ue ++ e.array ++ b1 e.suspect ++ e.pc ++ e.sub ++ e.src ++ e.syn)

/-- The lowest slot that no entry of a log of 32 uses. -/
def freeSlot {α : Type} (log : List (Nat × α)) : Option Nat :=
  (List.range 32).find? (fun i => !log.any (fun e => e.1 == i))

/-- Log an error of core pc (R394): the new log and whether an entry is new. -/
def logEntry (n : LogEntry) (p : Prot) : Prot × Bool :=
  match p.log.find? (fun e => e.2.pc == n.pc && e.2.array == n.array && e.2.addr == n.addr && e.2.col == n.col) with
  | some old =>
    ({ p with log := p.log.map (fun e =>
        if e.1 == old.1 then (e.1, { e.2 with count := satInc e.2.count, round := n.round }) else e) }, false)
  | none =>
    match freeSlot p.log with
    | some i => ({ p with log := p.log ++ [(i, n)] }, true)
    | none =>
      match p.log.find? (fun e => !e.2.suspect) with
      | some old => ({ p with log := p.log.filter (fun e => e.1 != old.1) ++ [(old.1, n)],
                              logOvf := satInc p.logOvf }, true)
      | none => ({ p with logOvf := satInc p.logOvf }, false)

/-- Spare columns of a die in use, and of one of its sub-arrays (R401, R539). -/
def spares (s : Mach) (die : Nat) : List Repair :=
  s.led.repair.filter (fun r => r.die.toNat == die && r.sub != 0xFF)

/-- The repair that gives a suspect the lowest free spare of its sub-array, where the spares `all` of its die are in use; none where
both of the sub-array or sixteen of the die are (R401, R539). -/
def freeSpareOf (die : Nat) (all : List Repair) (x : Suspect) : Option Repair :=
  let sub := all.filter (fun r => r.pc == x.pc && r.sub == x.sub)
  if 2 ≤ sub.length ∨ 16 ≤ all.length then none
  else some { die := BitVec.ofNat 8 die, pc := x.pc, sub := x.sub, spare := sub.any (fun r => !r.spare), col := x.col }

/-- The suspects of a list that find no spare when the list is handled in order. -/
def spareless (die : Nat) : List Repair → List Suspect → List Suspect
  | _, [] => []
  | all, x :: t =>
    match freeSpareOf die all x with
    | some r => spareless die (all ++ [r]) t
    | none => x :: spareless die all t

/-- A suspect of the pending list, or one that comes behind it, will find no spare at the next warp reset (R401). -/
def noSpare (s : Mach) (die : Nat) (x : Suspect) : Bool :=
  let pend := (dieAt s die).prot.pend
  (spareless die (spares s die) (if pend.contains x then pend else pend ++ [x])).contains x

/-- The die steward declares a column suspect (R400). -/
def columnSuspect (die : Nat) (x : Suspect) (s : Mach) : Mach :=
  let s1 := noteRaise (dieReg die 0x7004) 2 <| modDie die (fun d => { d with prot := { d.prot with
    log := d.prot.log.map (fun e =>
      if e.2.pc == x.pc && e.2.sub == x.sub && e.2.col == x.col && !e.2.ue then (e.1, { e.2 with suspect := true })
      else e)
    evt := setBit d.prot.evt 2 } }) s
  let p := (dieAt s die).prot
  if p.pend.contains x then s1
  else
    let retire := noSpare s die x || decide (32 ≤ p.pend.length)
    let s2 := (if retire then noteRaise (dieReg die 0x7004) 3 else id) <| modDie die (fun d => { d with prot := { d.prot with
      pend := if d.prot.pend.length < 32 then d.prot.pend ++ [x] else d.prot.pend
      overflow := if d.prot.pend.length < 32 then d.prot.overflow else d.prot.overflow ++ [x.pc]
      evt := if retire then setBit d.prot.evt 3 else d.prot.evt } }) s1
    let ent := (((dieAt s2 die).prot.log.filter (fun e =>
      e.2.pc == x.pc && e.2.sub == x.sub && e.2.col == x.col)).map (fun e => logWords e.2)).headD 0
    logDie die 0x24 3 4 x.pc.toNat 0 (bytesOf ent) s2

/-- An error of this cycle is noted, with the event that it raises (R396, R587). -/
def noteCore (die : Nat) (n : LogEntry) (s : Mach) : Mach :=
  let s1 := noteRaise (dieReg die 0x7004) (if n.ue then 1 else 0) s
  { s1 with notes := { s1.notes with cores := s1.notes.cores ++ [(die, n)] } }

/-- One error of a read by source `src` reaches the counts and the log (R394, R409, R412). -/
def logErr (k src : Nat) (e : ErrRec) (s : Mach) : Mach :=
  let die := dieOf k
  let n : LogEntry :=
    { ue := e.ue, array := BitVec.ofNat 2 e.arr, suspect := false, pc := BitVec.ofNat 8 (pcOf k),
      sub := BitVec.ofNat 8 (subOf e.arr e.addr), src := BitVec.ofNat 3 src, syn := BitVec.ofNat 8 e.syn,
      addr := BitVec.ofNat 32 e.addr, count := 1,
      col := if e.ue then 0x3FF else BitVec.ofNat 10 (colOf e.arr e.addr e.pos),
      round := (roundNow s).setWidth 32 }
  let s1 := modCore k (fun c => { c with r :=
    if e.ue then { c.r with ueCnt := satInc c.r.ueCnt } else { c.r with ceCnt := satInc c.r.ceCnt } }) s
  let s2 := noteCore die n <| modDie die (fun d => { d with
    prot :=
      let p := (logEntry n d.prot).1
      if e.ue then { p with ueCnt := satInc p.ueCnt, evt := setBit p.evt 1 }
      else { p with ceCnt := satInc p.ceCnt, evt := setBit p.evt 0 }
    stw := if e.ue then { d.stw with shUe := satInc d.stw.shUe } else { d.stw with shCe := satInc d.stw.shCe } }) s1
  let s3 := if (logEntry n (dieAt s1 die).prot).2 then
      logDie die 0x24 3 (if e.ue && src < 6 then 1 else 0) (pcOf k) e.addr (bytesOf (logWords n)) s2
    else s2
  let s4 := raiseIrq 10 s3
  if e.ue then s4
  else
    let same := (dieAt s4 die).prot.log.filter (fun x =>
      x.2.pc == n.pc && x.2.sub == n.sub && x.2.col == n.col && !x.2.ue)
    let rows := (same.map (fun x => subRow x.2.array.toNat x.2.addr.toNat)).eraseDups.length
    if decide (3 ≤ rows) || same.any (fun x => x.2.count.toNat == 16) then
      columnSuspect die { pc := n.pc, sub := n.sub, col := n.col } s4
    else s4

/-- Log the errors of a read. -/
def logErrs (k src : Nat) (es : List ErrRec) (s : Mach) : Mach := es.foldl (fun s e => logErr k src e s) s

/-! ### Time within the round (R47, R62, R129) -/

/-- The scheduled end of the round in force (R55). -/
def roundEnd (s : Mach) : Nat :=
  match s.rnd.cur with
  | some r => r.start + (r.period.toNat + r.stretch.toNat) * 1100
  | none => s.now

/-- The finish margin of a core that is done (R62). -/
def marginOf (s : Mach) (c : Core) : Int := (roundEnd s : Int) - (c.p.doneAt : Int)

/-- The scheduled end of the round in force has come. -/
def pastEnd (s : Mach) : Bool := s.rnd.cur.isSome && decide (roundEnd s ≤ s.now)

/-- Reference cycles of the round that stretches have taken: a fabric cycle that is stretched lasts two (R475). -/
def lostNow (s : Mach) : Nat := s.fab.lost + (match s.fab.since with | some t => (s.now - t + 1) / 2 | none => 0)

/-- Fabric cycles since the round start (R129, R476). -/
def cycleOf (s : Mach) : Nat := s.now - s.fab.began - lostNow s

/-- Fabric cycles in all: what the times of operations count in (R106). -/
def tick (s : Mach) : Nat := s.fab.past + cycleOf s

/-- The turn of the slot wheel that the clock is in (R96). -/
def turnNow (s : Mach) : Nat := cycleOf s / 4

/-- The fabric cycle at which the period that the clock is in ends (R96, R118, R123). -/
def periodEnd (s : Mach) : Nat := tick s + (16 - cycleOf s % 16)

/-- The next fabric cycle that begins a period, this one if it does (R106). -/
def nextPeriod (s : Mach) : Nat := tick s + (16 * ceilDiv (cycleOf s) 16 - cycleOf s)

/-! ### Done, halt, and the faults of a core (R128, R130 to R135) -/

/-- Keep the smaller of two two's complement margins. -/
def minMargin (a : Option Word) (b : Word) : Option Word :=
  match a with
  | none => some b
  | some x => if b.toInt < x.toInt then some b else some x

/-- The processor idles and counts as done from now on (R63); `sig` tells that it signals done (R128). It halts after a class
U fault (R132). -/
def endProgram (sig : Bool) (k : Nat) (s : Mach) : Mach :=
  modCore k (fun c => { c with p := { c.p with
    done := true, doneAt := if c.p.done then c.p.doneAt else s.now, signalled := c.p.signalled || sig
    mode := .idle, inexc := false, halted := c.p.halted || c.p.uPending } }) s

/-- The core signals done now (R128, R132). -/
def signalDone (k : Nat) (s : Mach) : Mach := endProgram true k s

/-- The processor stops without a handler, and the core is halted until the next warp reset (R132, R398): it counts as done
without signalling done (R63). -/
def haltCore (k : Nat) (s : Mach) : Mach :=
  endProgram false k (modCore k (fun c => { c with p := { c.p with uPending := true } }) s)

/-- Discard what a stream engine runs, with the rows and flits that it has formed; the rows due for the requests that it has sent
are absorbed (R132, R231, R234). -/
def Stream.stop (t : Stream) : Stream :=
  { list := none, tcopy := none, await := t.await.map (fun a => { a with blk := none }), out := [], wait := [] }

/-- Engine e stops and discards its queue (R132). -/
def stopEngine (e : Nat) (c : Core) : Core :=
  let c1 := { c with stopped := setBit c.stopped e, queues := tset [] c.queues e [] }
  match e with
  | 0 => { c1 with mx := { c1.mx with loading := none, passes := [], aout := none, aclr := [], arb := none } }
  | 1 => { c1 with vop := none }
  | 2 => { c1 with se0 := c1.se0.stop }
  | _ => { c1 with se1 := c1.se1.stop }

/-- The steward stop of R398, for a fault of event class `cls`. -/
def stewardStop (k cls : Nat) (s : Mach) : Mach :=
  uncorrected cls (haltCore k (modCore k (fun c =>
    stopEngine 0 (stopEngine 1 (stopEngine 2 (stopEngine 3 c)))) s))

/-- The CORE_FAULT word of a fault (R134). -/
def faultWord (u : Bool) (rnd : BitVec 48) (cause : Nat) : Word :=
  b1 true ++ b1 u ++ (0 : BitVec 6) ++ rnd.setWidth 16 ++ BitVec.ofNat 8 cause

/-- CORE_FAULT records a fault (R134, R135). -/
def recordFault (k : Nat) (u : Bool) (cause addr epc : Nat) (s : Mach) : Mach :=
  raiseIrq 10 <| noteRaise (coreReg k 0x04) (if (coreAt s k).r.fValid then 29 else 31) (modCore k (fun c => { c with r :=
    if c.r.fValid then { c.r with fMulti := true }
    else { c.r with fValid := true, fClass := u, fRound := (roundNow s).setWidth 16, fCause := BitVec.ofNat 8 cause,
                    fAddr := BitVec.ofNat 32 addr, fEpc := BitVec.ofNat 14 epc } }) s)

/-- The processor enters the handler (R131). -/
def enterHandler (k : Nat) (u : Bool) (cause addr epc : Nat) (s : Mach) : Mach :=
  modCore k (fun c => { c with p := { c.p with
    epc := BitVec.ofNat 32 epc
    cause := BitVec.ofNat 9 ((if u then 256 else 0) + cause)
    faddr := BitVec.ofNat 32 addr
    inexc := true
    uPending := c.p.uPending || u
    done := c.p.done && !u
    mode := .running
    pc := c.p.tvec &&& 0x3FFC } }) s

/-- The core runs a program now (R128). -/
def running (c : Core) : Bool := c.p.mode != .idle

/-- Report and record a class U fault: the first steps of R132, and all that cause 0x15 takes. -/
def reportU (k cause addr epc : Nat) (s : Mach) : Mach :=
  let s1 := recordFault k true cause addr epc
    (modCore k (fun c => { c with r := { c.r with ucnt := satInc c.r.ucnt } }) s)
  let det := toBytes 4 (faultWord true (roundNow s) cause).toNat ++ toBytes 4 addr ++ toBytes 4 (epc % 16384)
  uncorrected 0x20 (logDie (dieOf k) 0x20 3 1 (pcOf k) addr det s1)

/-- A class U fault (R132): `eng` is the engine it came from, if any. A handler that is enabled is entered from whatever the
processor does, the handler itself included; the processor of a core that has halted stays stopped, and a fault after the
round's scheduled end finds its handler stopped at once (DEDUCED, log entry 12). An arbitration of the core ends without a verdict
(R422). -/
def classU (k cause addr epc : Nat) (eng : Option Nat) (s : Mach) : Mach :=
  let s1 := reportU k cause addr epc s
  let s2 := modCore k (fun c =>
    let c1 := match eng with | some e => stopEngine e c | none => c
    { c1 with mx := { c1.mx with arb := none } }) s1
  let c := coreAt s2 k
  if bit c.p.tvec 0 && !c.p.halted && !pastEnd s2 then enterHandler k true cause addr epc s2
  else haltCore k s2

/-- A class S exception of the scalar processor (R131), at PC `pc`. In a handler it is the double fault 0x17, which records the
address of this second exception (R130, R135; DESIGN CHOICE, log entry 12). -/
def classS (k cause addr pc : Nat) (s : Mach) : Mach :=
  let c := coreAt s k
  if c.p.inexc then classU k 0x17 addr pc none s
  else if bit c.p.tvec 0 then
    let s1 := recordFault k false cause addr pc
      (modCore k (fun c => { c with r := { c.r with scnt := satInc c.r.scnt } }) s)
    let det := toBytes 4 cause ++ toBytes 4 addr ++ toBytes 4 pc
    enterHandler k false cause addr pc (logDie (dieOf k) 0x21 3 0 (pcOf k) addr det s1)
  else classU k cause addr pc none s

/-! ### Buffers and filled flags (R173, R195 to R198) -/

def bufProd (e : BitVec 64) : Nat := (fld e 32 3).toNat
def bufBase (e : BitVec 64) : Nat := (fld e 0 15).toNat
def bufRows (e : BitVec 64) : Nat := (fld e 16 15).toNat
def bufChan (e : BitVec 64) : Nat := (fld e 40 4).toNat
def bufExpire (e : BitVec 64) : Nat := (fld e 48 8).toNat

/-- The buffer that a wide row lies in. -/
def bufferOf (c : Core) (row : Nat) : Option (Nat × BitVec 64) :=
  c.rt.bufs.find? (fun e => bufProd e.2 != 0 && decide (bufBase e.2 ≤ row ∧ row < bufBase e.2 + bufRows e.2))

/-- A read of the row raises an underrun (R195). -/
def underrunAt (c : Core) (row : Nat) : Bool :=
  match bufferOf c row with
  | some (i, _) => !bit c.fl.flags i
  | none => false

/-- A write of a row by a producer: PROD and, for a channel, its number (R196). `idx` is the section round index. -/
def countedWrite (prod chan row idx : Nat) (c : Core) : Core :=
  match bufferOf c row with
  | none => c
  | some (i, e) =>
    if bufProd e == prod && (prod != 1 || bufChan e == chan) then
      let cnt := if bit c.fl.flags i then 1 else tget 0 c.fl.counts i + 1
      if bufRows e ≤ cnt then
        { c with fl := { flags := setBit c.fl.flags i, counts := tset 0 c.fl.counts i 0, setAt := tset 0 c.fl.setAt i idx } }
      else { c with fl := { c.fl with flags := clrBit c.fl.flags i, counts := tset 0 c.fl.counts i cnt } }
    else c

/-- The section round index of a core's die (R181). -/
def secIdx (s : Mach) (k : Nat) : Nat := (dieAt s (dieOf k)).sec.idx.toNat

/-! ### Wide reads of an engine (R195, R397) -/

/-- What an engine read: the rows, the errors, and the first row that underruns. -/
structure RowsRead where
  rows : List Row
  errs : List ErrRec
  under : Option Nat

/-- Read a list of wide rows. -/
def readRows (c : Core) : List Nat → RowsRead
  | [] => ⟨[], [], none⟩
  | r :: t =>
    if underrunAt c r then ⟨[], [], some r⟩
    else
      let x := readRow c (rowAddr r)
      if anyUe x.2 then ⟨[x.1], x.2, none⟩
      else
        let rest := readRows c t
        ⟨x.1 :: rest.rows, x.2 ++ rest.errs, rest.under⟩

/-- The rows that n bytes from a wide address on touch. -/
def rowsOf (a n : Nat) : List Nat :=
  if n = 0 then [] else (List.range ((a % 64 + n - 1) / 64 + 1)).map (fun i => rowIndex a + i)

/-- n bytes from a wide address on, out of the rows read from its first row on. -/
def bytesFrom (rows : List Row) (a n : Nat) : List Byte :=
  ((rows.flatMap (fun r => toBytes 64 r.toNat)).drop (a % 64)).take n

/-- An engine's read ended: log its errors (source `src`), and raise cause 0x13 or 0x12, or go on. -/
def afterRead (k eng src : Nat) (pc : Word) (x : RowsRead) (go : Mach → Mach) (s : Mach) : Mach :=
  let s1 := logErrs k src x.errs s
  match x.errs.find? (fun e => e.ue) with
  | some e => classU k 0x12 e.addr pc.toNat (some eng) s1
  | none =>
    match x.under with
    | some r => classU k 0x13 (rowAddr r) pc.toNat (some eng) s1
    | none => go s1

/-- The engine's counter counts a completed descriptor (R105). -/
def countDone (e : Nat) (c : Core) : Core := { c with ecnt := tmod 0 c.ecnt e (fun x => x + 1) }

/-- No engine is active while a section switch runs (R177). -/
def whenActive (f : Mach → Mach) (s : Mach) : Mach := if s.sec.switch.isSome then s else f s

/-- The head of an engine's queue when the engine runs. -/
def queueHead (c : Core) (e : Nat) : Option QDesc :=
  if bit c.stopped e then none else (tget [] c.queues e).head?

/-- The head leaves the queue (R105). -/
def popQueue (e : Nat) (c : Core) : Core := { c with queues := tmod [] c.queues e List.tail }

/-- All engine queues are empty and every issued descriptor has completed (R128). -/
def drained (c : Core) : Bool :=
  c.queues.isEmpty && c.mx.loading.isNone && c.mx.passes.isEmpty && c.mx.aout.isNone && c.mx.aclr.isEmpty &&
    c.mx.arb.isNone && c.vop.isNone && c.se0.list.isNone && c.se0.tcopy.isNone && c.se1.list.isNone &&
    c.se1.tcopy.isNone

end Sys2Proof.Machine
end

