-- ==== Sys2Proof/Machine/Access.lean ====
section
/-! DEFINITION. How a host access reaches a register: the map of BAR0, the resets that cover a block, and the weft to a
die (18_host_link_and_commands.md, 19_register_reference.md, R24, R25, R504, R531). -/

namespace Sys2Proof.Machine

/-- Zeros. -/
def z (n : Nat) : BitVec n := 0

/-! ### The map of BAR0 (R582) -/

/-- A block, with the offset in it. -/
inductive Place where
  | ctl (o : Nat)
  | start (o : Nat)
  | mgmt (o : Nat)
  | power (o : Nat)
  | round (o : Nat)
  | sys (o : Nat)
  | maint (o : Nat)
  | host (o : Nat)
  | emc (o : Nat)
  | trn (o : Nat)
  | port (o : Nat)
  | remote (o : Nat)
  | keep (o : Nat)
  | die (d o : Nat)
  | none_
  deriving DecidableEq, Repr

/-- Where an offset of BAR0 lies. -/
def placeOf (a : Nat) : Place :=
  if a < 0x1000 then .ctl a
  else if a < 0x2000 then .start (a - 0x1000)
  else if a < 0x3000 then .mgmt (a - 0x2000)
  else if a < 0x4000 then .power (a - 0x3000)
  else if a < 0x5000 then .round (a - 0x4000)
  else if a < 0x6000 then .sys (a - 0x5000)
  else if a < 0x7000 then .maint (a - 0x6000)
  else if a < 0x10000 then .none_
  else if a < 0x20000 then .host (a - 0x10000)
  else if a < 0x100000 then .none_
  else if a < 0x104000 then .emc (a - 0x100000)
  else if a < 0x108000 then .trn (a - 0x104000)
  else if a < 0x10C000 then .port (a - 0x108000)
  else if a < 0x10E000 then .remote (a - 0x10C000)
  else if a < 0x110000 then .keep (a - 0x10E000)
  else if a < 0x400000 then .none_
  else if a < 0xD00000 then .die ((a - 0x400000) / 0x10000) ((a - 0x400000) % 0x10000)
  else .none_

/-! ### The rings (R24, R531) -/

/-- The ring of a die, and its place in ring order. -/
def ringOf (d : Nat) : Nat := 2 * (d / 72) + (if d % 8 < 4 then 0 else 1)

/-- The steward answers: its die is powered and the ring reaches it. -/
def answers (s : Mach) (d : Nat) : Bool := (dieAt s d).stw.reachable && (dpwAt s d).on

/-- The steward answers an access at an offset of its window: in its power registers it answers while its die is off too, since it is
the steward that refuses a command to a die that is off (R477; DESIGN CHOICE, log entry 38). -/
def answersAt (s : Mach) (d o : Nat) : Bool :=
  (dieAt s d).stw.reachable && ((dpwAt s d).on || decide (0x9000 ≤ o ∧ o < 0x9034))

def weftRingAt (s : Mach) (r : Nat) : WeftRing := tget WeftRing.reset s.weft.rings r
def modWeftRing (r : Nat) (f : WeftRing → WeftRing) : Mach → Mach :=
  modWeft (fun w => { w with rings := tmod WeftRing.reset w.rings r f })

/-- WEFT_STATr (R556). -/
def weftStat (s : Mach) (r : Nat) : Word :=
  let x := weftRingAt s r
  x.state ++ z 6 ++ x.brk ++ shown 16 x.timeouts

/-- A WEFT record: 0 a timeout, 1 a ring that wraps, 2 one that goes down (DESIGN CHOICE, log entry 26). -/
def weftRecord (r d kind : Nat) (s : Mach) : Mach :=
  logModule 0x8 0 (toBytes 1 r ++ toBytes 1 d ++ toBytes 1 kind ++ bytesOf (weftStat s r)) s

/-- The weft timeout of R25 for a die. -/
def weftTimeout (d : Nat) (s : Mach) : Mach :=
  weftRecord (ringOf d) d 0 (modWeftRing (ringOf d) (fun r => { r with timeouts := satInc r.timeouts }) s)

/-! ### Host accesses (R25, R504, R584 to R586) -/

/-- The regions of a steward window that a warp reset covers (R583). -/
def warpCovers (o : Nat) : Bool :=
  decide (o < 0x5C) || decide (0x1000 ≤ o ∧ o < 0x4400) || decide (0x5000 ≤ o ∧ o < 0x6000) || decide (0x6000 ≤ o ∧ o < 0x601C) ||
    (decide (0x8000 ≤ o ∧ o < 0x8030) && o != 0x8010)

/-- A reset that runs, or a module reset that was requested, covers the register. -/
def covered (s : Mach) (a : Nat) : Bool :=
  match placeOf a with
  | .none_ => false
  | .die _ o => s.ctl.modulePending || (s.ctl.scope != 0 && warpCovers o)
  | .mgmt o => s.ctl.modulePending && !decide (0x20 ≤ o ∧ o < 0x34)
  | .round _ | .emc _ | .trn _ | .port _ | .remote _ | .keep _ => s.ctl.modulePending || s.ctl.scope == 2
  | _ => s.ctl.modulePending

/-- No host access arrives: the module has no power or the link is down. -/
def noLink (s : Mach) : Bool := s.start.state == 0 || s.host.perst

/-- Only the module control and start blocks are served before READY (R504). -/
def notServed (s : Mach) (a : Nat) : Bool := s.start.state != 7 && decide (0x2000 ≤ a)

/-- A host access reaches its register, or it is discarded; a die that does not answer makes it a weft timeout. -/
def hostAccess (a : Nat) (f : Mach → Mach) (s : Mach) : Mach :=
  if noLink s || notServed s a || covered s a then s
  else
    match placeOf a with
    | .die d o => if answersAt s d o then f s else weftTimeout d s
    | _ => f s

/-- A host access to a register whose effect does not look at the updates of the cycle. -/
def runAccess (a : Nat) (f : Mach → Mach) : State → Res := runHost (fun _ => hostAccess a f)

/-! ### Selection registers (R587) -/

/-- The latched copy behind the selection register at `a`, taken from another module. -/
def latchFrom (a : Nat) (old s : Mach) : Mach :=
  match placeOf a with
  | .mgmt 0x68 => modWeft (fun w => { w with telMargin := old.weft.telMargin }) s
  | .power 0x40 => modPwr (fun p => { p with latch := old.pwr.latch }) s
  | .maint 0 => modMnt (fun m => { m with tok := old.mnt.tok }) s
  | .emc o =>
    if 0x100 ≤ o ∧ o < 0x900 ∧ (o - 0x100) % 0x40 = 0x2C then
      modStk ((o - 0x100) / 0x40) (fun k => { k with latch := (stkAt old ((o - 0x100) / 0x40)).latch }) s
    else s
  | .remote 0x04 => modRmt (fun r => { r with ptnE := old.rmt.ptnE }) s
  | .remote 0x20 => modRmt (fun r => { r with winE := old.rmt.winE }) s
  | .die d 0x9020 => modDpw d (fun x => { x with latch := (dpwAt old d).latch }) s
  | _ => s

/-- A write of a selection register: the latched copy holds the entry as it stood before the cycle's updates (R587). -/
def runSelect (a : Nat) (f : Mach → Mach) : State → Res :=
  runHost (fun s0 => hostAccess a (fun s => latchFrom a (f s0) (f s)))

end Sys2Proof.Machine
end

