-- ==== Sys2Proof/Machine/DescOps.lean ====
section
/-! DEFINITION. The operation descriptors and the checks that ISSUE makes of them (R103, R104, R107 to R120, R222,
R235, R245, R246). -/

namespace Sys2Proof.Machine

/-- Bytes `off` to `off + n - 1` of a descriptor as a number (R6). -/
def dB {w : Nat} (d : BitVec w) (off n : Nat) : Nat := (d.extractLsb' (8 * off) (8 * n)).toNat

/-- Every byte from `off` to `off + n - 1` is zero: a reserved field (R104). -/
def dZero {w : Nat} (d : BitVec w) (off n : Nat) : Bool := dB d off n == 0

/-- The bytes lie inside the wide banks (R104). -/
def wideRange (a n : Nat) : Bool := decide (wideBase ≤ a ∧ a + n ≤ wideEnd)

/-- Elements of a block of a scale code (R107). -/
def scaleBlock (sc : Nat) : Nat := match sc with | 1 => 32 | _ => 16

/-- Scale bytes of one row or column (R110). -/
def scaleBytes (sc kt : Nat) : Nat := if sc = 0 then 0 else max 1 (kt / scaleBlock sc)

/-- A scale code fits a format (R107, R110). -/
def scaleOk (sc fmt : Nat) : Bool := decide (sc ≤ 2) && (sc == 0 || decide (fmtBits fmt ≤ 8))

/-- The column factor G of a tile (R244). -/
def colFactor (kind span : Nat) : Nat :=
  match kind with
  | 0 => 1 | 1 => 2 | 2 => 4 | 3 => 4 | _ => span

/-- Metadata rows of a tile (R249 to R252). -/
def metaRowCount (kind kt : Nat) : Nat :=
  match kind with
  | 0 => 0 | 1 => kt / 8 | 2 => kt / 8 | 3 => 1 | _ => ceilDiv kt 64 + kt

/-- WLOAD (R111, R245, R246). -/
def wloadOk (d : OpDesc) : Bool :=
  let wfmt := dB d 12 1
  let sfmt := dB d 13 1
  let kind := dB d 14 1
  let span := dB d 22 1
  let kt := ktOf (fmtClass wfmt)
  let g := colFactor kind span
  dZero d 1 1 && fmtOk wfmt && scaleOk sfmt wfmt && decide (kind ≤ 4) && dZero d 15 1 && dZero d 24 8 &&
    (if kind == 4 then decide (1 ≤ span ∧ span ≤ 16) && dZero d 23 1 else dZero d 20 4) &&
    dB d 4 4 % 64 == 0 && wideRange (dB d 4 4) 2048 &&
    (sfmt == 0 || wideRange (dB d 8 4) (32 * g * scaleBytes sfmt kt)) &&
    (kind == 0 || (dB d 16 4 % 64 == 0 && wideRange (dB d 16 4) (64 * metaRowCount kind kt)))

/-- MPASS (R113). -/
def mpassOk (d : OpDesc) : Bool :=
  let afmt := dB d 12 1
  let asfmt := dB d 13 1
  let m := dB d 14 2
  let stride := dB d 18 2
  decide (dB d 1 1 < 16) && fmtOk afmt && scaleOk asfmt afmt && decide (1 ≤ m ∧ m ≤ 512) &&
    decide (dB d 16 2 + m ≤ 512) && decide (1 ≤ stride ∧ stride ≤ 23551) && dZero d 20 12 &&
    dB d 4 4 % 64 == 0 && wideRange (dB d 4 4) ((m - 1) * stride * 64 + 64) &&
    (asfmt == 0 || wideRange (dB d 8 4) (m * scaleBytes asfmt (ktOf (fmtClass afmt))))

/-- AOUT (R117). -/
def aoutOk (d : OpDesc) : Bool :=
  let ofmt := dB d 8 1
  let m := dB d 12 2
  let stride := dB d 16 4
  let w := 4 * fmtBits ofmt
  decide (dB d 1 1 < 4) && fmtOk ofmt && decide (dB d 9 1 ≤ 2) && dZero d 11 1 && decide (1 ≤ m ∧ m ≤ 512) &&
    decide (dB d 14 2 + m ≤ 512) && stride % 8 == 0 && decide (w ≤ stride) && dZero d 24 8 &&
    dB d 4 4 % 8 == 0 && wideRange (dB d 4 4) ((m - 1) * stride + w)

/-- ACLR (R119). -/
def aclrOk (d : OpDesc) : Bool :=
  let m := dB d 12 2
  dZero d 1 1 && dZero d 4 8 && dZero d 16 16 && decide (1 ≤ m ∧ m ≤ 512) && decide (dB d 14 2 + m ≤ 512)

/-- A function takes an operand B (R121). -/
def takesB (func : Nat) : Bool := [0, 1, 2, 3, 4, 5, 6, 0xD].contains func

/-- K is plus or minus a normal power of two (R152). -/
def powerOfTwo (k : Word) : Bool :=
  let e := (fld k 23 8).toNat
  decide (fld k 0 23 = 0) && decide (1 ≤ e ∧ e ≤ 254)

/-- VOP (R120, R121, R152). -/
def vopOk (d : OpDesc) : Bool :=
  let func := dB d 4 1
  let g := dB d 20 2
  let fa := dB d 22 1 % 16
  let fb := dB d 22 1 / 16
  let fd := dB d 23 1
  let useB := takesB func && !bit d 8
  let red := func == 0xF || func == 0x10
  let wd := if red then 8 * ceilDiv g 2 else g * 4 * fmtBits fd
  decide (dB d 1 1 < 4) && decide (func ≤ 0x10) && dZero d 5 3 && decide (1 ≤ g) && fmtOk fa &&
    (!useB || fmtOk fb) && fmtOk fd && (!red || fd == 0) && decide (dB d 24 1 ≤ 2) && dZero d 26 2 &&
    (func != 0xE || powerOfTwo (fld d 224 32)) &&
    dB d 8 4 % 64 == 0 && wideRange (dB d 8 4) (g * 4 * fmtBits fa) &&
    (!useB || (dB d 12 4 % 64 == 0 && wideRange (dB d 12 4) (g * 4 * fmtBits fb))) &&
    dB d 16 4 % 64 == 0 && wideRange (dB d 16 4) wd

/-- SLIST (R222). -/
def slistOk (d : OpDesc) : Bool :=
  dZero d 1 1 && dB d 4 4 % 32 == 0 && decide (dB d 4 4 < 0x10000) && dB d 12 2 % 16 == 0 &&
    decide (dB d 14 2 ≤ 1024) && decide (dB d 12 2 + 16 * dB d 14 2 ≤ 0x10000) && decide (1 ≤ dB d 16 2) &&
    dZero d 18 14

/-- TCOPY (R235). -/
def tcopyOk (d : OpDesc) : Bool :=
  let n := dB d 10 2
  dZero d 1 1 && dB d 4 4 % 64 == 0 && dZero d 9 1 && decide (1 ≤ n ∧ n ≤ 256) && decide (dB d 8 1 + n ≤ 256) &&
    dZero d 12 20 && wideRange (dB d 4 4) (8 * n)

/-- The descriptor passes the checks of R104 for an engine. -/
def descOk (eng : Nat) (d : OpDesc) : Bool :=
  match eng, dB d 0 1 with
  | 0, 0x10 => wloadOk d
  | 0, 0x11 => mpassOk d
  | 0, 0x12 => aoutOk d
  | 0, 0x13 => aclrOk d
  | 1, 0x20 => vopOk d
  | 2, 0x40 => slistOk d
  | 2, 0x41 => tcopyOk d
  | 3, 0x40 => slistOk d
  | 3, 0x41 => tcopyOk d
  | _, _ => false

end Sys2Proof.Machine
end

