-- ==== Sys2Proof/Machine/Rim.lean ====
section
/-! DEFINITION. Where stacks and ports attach to the wafer, and the rim links (01_warp_and_weft.md, 06_edge_memory_and_skeins.md,
09_optical_ports.md: R16, R184, R215, R301). -/

namespace Sys2Proof.Machine

/-! ### The grid (R15, R193) -/

def panelOf (k : Nat) : Nat := dieOf k / 72
def dieRow (k : Nat) : Nat := dieOf k % 72 / 8
def dieCol (k : Nat) : Nat := dieOf k % 8
def coreCol (k : Nat) : Nat := pcOf k % 16

/-- The logical row of a core, 12 where it serves none. -/
def coreLRow (s : Mach) (k : Nat) : Nat := match lcOf (dieAt s (dieOf k)) (pcOf k) with | some l => l / 16 | none => 12

/-- The core at a grid position (R15). -/
def gridCore (s : Mach) (x y : Nat) : Option Nat :=
  let die := x / 128 * 72 + y / 12 * 8 + x % 128 / 16
  (pcOfLc (dieAt s die) (y % 12 * 16 + x % 16)).map (fun pc => die * 208 + pc)

/-- The direction of an edge router's output that faces the rim: 0 north, 1 east, 2 south, 3 west (R184). -/
def facesRim (s : Mach) (k dir : Nat) : Bool :=
  let l := coreLRow s k
  match dir with
  | 0 => dieRow k == 0 && l == 0
  | 2 => dieRow k == 8 && l == 11
  | 3 => panelOf k == 0 && dieCol k == 0 && coreCol k == 0
  | 1 => panelOf k == 1 && dieCol k == 7 && coreCol k == 15
  | _ => false

/-- The output faces the seam (R193). -/
def facesSeam (k dir : Nat) : Bool :=
  match dir with
  | 1 => panelOf k == 0 && dieCol k == 7 && coreCol k == 15
  | 3 => panelOf k == 1 && dieCol k == 0 && coreCol k == 0
  | _ => false

/-! ### Attachment (R16) -/

/-- A side of a panel's rim. -/
inductive Side where
  | north
  | outer
  | south
  deriving DecidableEq, Repr

/-- The die at a row and a column in panel 0 coordinates of a panel: panel 1 mirrors the columns (R16). -/
def rimDie (panel row col : Nat) : Nat := 72 * panel + 8 * row + (if panel = 0 then col else 7 - col)

/-- The side of stack j of a panel, and its attachment die (R16). -/
def stackSide (j : Nat) : Side := if j < 4 then .north else if j < 12 then .outer else .south
def stackDie (st : Nat) : Nat :=
  let j := st % 16
  match stackSide j with
  | .north => rimDie (st / 16) 0 (2 * j)
  | .outer => rimDie (st / 16) (j - 3) 0
  | .south => rimDie (st / 16) 8 (2 * (j - 12) + 1)

/-- The side of port k of a panel, and its attachment die (R16). -/
def portSide (k : Nat) : Side := if k < 8 then .north else if k < 24 then .outer else .south
def portDie (p : Nat) : Nat :=
  let k := p % 32
  match portSide k with
  | .north => rimDie (p / 32) 0 k
  | .outer => rimDie (p / 32) ((k - 8) / 2 + 1) 0
  | .south => rimDie (p / 32) 8 (k - 24)

/-- The stack of a rim side of a die. -/
def stackAt (die : Nat) (side : Side) : Option Nat :=
  (List.range 32).find? (fun st => stackSide (st % 16) == side && stackDie st == die)

/-- A stack attaches at the rim side of a port. -/
def portHasStack (p : Nat) : Bool := (stackAt (portDie p) (portSide (p % 32))).isSome

/-! ### Rim links (R215, R301) -/

/-- The core whose router has a rim link: link i of a north or south side is core column i, of an outer side logical row i. -/
def rimCore (s : Mach) (die : Nat) (side : Side) (link : Nat) : Option Nat :=
  let lc := match side with
    | .north => if link < 16 then some link else none
    | .south => if link < 16 then some (176 + link) else none
    | .outer => if link < 12 then some (16 * link + (if die < 72 then 0 else 15)) else none
  (lc.bind (pcOfLc (dieAt s die))).map (fun pc => die * 208 + pc)

/-- The rim link carries flits: its router's core is present and not dead (R215). -/
def linkLive (s : Mach) (die : Nat) (side : Side) (link : Nat) : Bool :=
  match rimCore s die side link with | some k => !dead s k | none => false

/-- A rim link and phase belong to a stack (R215). -/
def stackOwns (s : Mach) (st link phase : Nat) : Bool :=
  bit s.edge.rimph phase && (rimCore s (stackDie st) (stackSide (st % 16)) link).isSome

/-- The stack can send and receive on a rim link and phase (R215). -/
def stackLink (s : Mach) (st link phase : Nat) : Bool :=
  bit s.edge.rimph phase && linkLive s (stackDie st) (stackSide (st % 16)) link

/-- A rim link and phase belong to a port (R301). -/
def linkOwned (s : Mach) (p link phase : Nat) : Bool :=
  let k := p % 32
  (!portHasStack p || !bit s.edge.rimph phase) &&
    (if 8 ≤ k ∧ k < 24 then (if k % 2 = 0 then decide (link < 6) else decide (6 ≤ link ∧ link < 12)) else decide (link < 16))

/-- The port can send and receive on a rim link and phase (R215, R301). -/
def portLink (s : Mach) (p link phase : Nat) : Bool :=
  linkOwned s p link phase && linkLive s (portDie p) (portSide (p % 32)) link

/-- The side of the rim, if any, where a rim link leaves a router in a direction, with the link's index (R184, R215). -/
def rimLinkOf (s : Mach) (k dir : Nat) : Option (Side × Nat) :=
  if !facesRim s k dir then none
  else
    match dir with
    | 0 => some (.north, coreCol k)
    | 2 => some (.south, coreCol k)
    | _ => if dieRow k = 0 then none else some (.outer, coreLRow s k)

/-- What a router's output toward the rim joins in a phase: stack 0 to 31, or port p as 32 + p (R215, R301). -/
def rimUnit (s : Mach) (k dir phase : Nat) : Option Nat :=
  match rimLinkOf s k dir with
  | none => none
  | some (side, link) =>
    match stackAt (dieOf k) side with
    | some st =>
      if bit s.edge.rimph phase then some st
      else ((List.range 64).find? (fun p => portSide (p % 32) == side && portDie p == dieOf k && linkOwned s p link phase)).map (32 + ·)
    | none => ((List.range 64).find? (fun p => portSide (p % 32) == side && portDie p == dieOf k && linkOwned s p link phase)).map (32 + ·)

/-! ### Rows of the rim (R184, R215, R217) -/

/-- The section's routes are live (R177). -/
def routesLive (s : Mach) : Bool := s.sec.cur.isSome && s.sec.switch.isNone

/-- Cycles between an edge router and its rim attachment (R184). -/
def rimCycles : Nat := 3

/-- The input of an edge router that a rim side faces (R184). -/
def sideInput (die : Nat) : Side → Nat
  | .north => 0
  | .south => 2
  | .outer => if die < 72 then 3 else 1

/-- Cycles until a rim link has the next of its turns of a phase free, its hop included: one flit leaves in each (R184, R215, R217). -/
def rimWait (s : Mach) (k dir phase : Nat) : Nat :=
  let c := max (cycleOf s) s.fab.cycle
  let first := (phase + 4 - c % 4) % 4 + rimCycles
  let busy (n : Nat) := s.fab.flights.any (fun f => f.left == n && f.core == k && f.input == dir && !f.scalar)
  first + 4 * (((List.range (s.fab.flights.length + 1)).find? (fun j => !busy (first + 4 * j))).getD 0)

/-- A unit of the rim sends a row on a link in a phase: it leaves in the next turn of the link that is free, and reaches the edge router a
hop later, where no crossbar takes it while the section's routes are not live (R177, R184, R217). -/
def rimSend (unit die : Nat) (side : Side) (link phase : Nat) (f : NetFlit) (s : Mach) : Mach :=
  let s1 := emit (.rimRow unit link phase f.row f.poison f.rej) s
  match rimCore s die side link with
  | none => s1
  | some k =>
    if !routesLive s then s1
    else
      let dir := sideInput die side
      { s1 with fab := { s1.fab with flights := s1.fab.flights ++
        [{ left := rimWait s k dir phase, core := k, input := dir, scalar := false, flit := f }] } }

end Sys2Proof.Machine
end

