-- ==== Sys2Proof/Machine/Tokens.lean ====
section
/-! DEFINITION. The maintenance tokens: requesting, taking, releasing, and what an activity does once it holds all its
tokens (R404 to R408, R415). -/

namespace Sys2Proof.Machine

/-- Token indices (R404). -/
def tokDie (die : Nat) : Nat := die
def tokGroup (st g : Nat) : Nat := 144 + 4 * st + g
def tokLane (port fiber : Nat) : Nat := 272 + 4 * port + fiber

/-- The activity that holds a token. -/
def holderOf (acts : List Activity) (t : Nat) : Option Activity :=
  acts.find? (fun a => (a.tokens.take a.held).contains t)

/-- The activity waits for the token, or will try it next. -/
def Activity.next (a : Activity) : Option Nat := (a.tokens.drop a.held).head?

/-- The activity holds every token it needs. -/
def Activity.ready (a : Activity) : Bool := decide (a.tokens.length ≤ a.held)

/-- The activities that wait for a token, in the order of their requests. -/
def waiters (acts : List Activity) (t : Nat) : List Activity := acts.filter (fun a => a.next == some t)

/-- The token is free for an activity that asks for it now. -/
def tokenFree (acts : List Activity) (t : Nat) : Bool := (holderOf acts t).isNone && (waiters acts t).isEmpty

/-- Take tokens in ascending index while they are free (R405). -/
def takeTokens (acts : List Activity) : Nat → Activity → Activity
  | 0, a => a
  | n + 1, a =>
    match a.next with
    | none => a
    | some t => if tokenFree acts t then takeTokens acts n { a with held := a.held + 1 } else a

/-- A retrain message of type 0x35, 0x36 or 0x37 that names a lane (R303, R320). -/
def retrainMsg (typ lane : Nat) : Msg := .retrain (BitVec.ofNat 64 (typ + 256 * lane))

/-- An activity ends and releases its tokens (R405). -/
def endActivity (h : BitVec 16) (s : Mach) : Mach :=
  modMnt (fun m => { m with acts := m.acts.filter (fun a => a.handle != h) }) s

/-! ### Code groups (R386, R389) -/

/-- Group and position of a pseudo-channel. -/
def pcGroup (q : Nat) : Nat := (if q / 2 < 10 then 0 else 2) + q % 2
def pcPos (q : Nat) : Nat := q / 2 % 10
def dieAtPos (g p : Nat) : Nat := p + (if g < 2 then 0 else 10)

/-- The lost die of a group, as a position (R389). -/
def lostPos (st : Stack) (g : Nat) : Option Nat :=
  (List.range 10).find? (fun p => bit st.dieLost (dieAtPos g p))

/-- A group of the stack has a lost die. -/
def groupDeg (st : Stack) (g : Nat) : Bool := (lostPos st g).isSome

/-- What an activity that holds all its tokens does (R406). A pseudo-channel whose group has lost a die meanwhile is skipped
(R391). -/
def proceed (a : Activity) (s : Mach) : Mach :=
  match a.code.toNat with
  | 1 => if groupDeg (stkAt s a.subject) (pcGroup a.part) then endActivity a.handle s else modStk a.subject (fun st => { st with retQ := BitVec.ofNat 6 a.part, retLog := [], retLogQ := BitVec.ofNat 6 a.part }) s
  | 4 => modPort a.subject (fun p =>
      { p with mgmt := p.mgmt ++ [retrainMsg 0x35 a.part], rt := some (a.part, .requested) }) s
  | _ => completeOpt a.owed 0 a.handle.toNat s

/-- Request an activity of a code on a subject and a part (R405, R406). -/
def reqActivity (code subject part : Nat) (tokens : List Nat) (owed : Option Owed) (s : Mach) : Mach :=
  let a0 : Activity := { handle := s.mnt.nextHandle, code := BitVec.ofNat 8 code, subject := subject, part := part,
                         tokens := tokens, held := 0, owed := owed }
  let a := takeTokens s.mnt.acts tokens.length a0
  let s1 := modMnt (fun m => { m with acts := m.acts ++ [a], nextHandle := m.nextHandle + 1 }) s
  if a.ready then proceed a s1 else s1

/-- The activity of a code on a subject and a part. -/
def findActivity (s : Mach) (code subject part : Nat) : Option Activity :=
  s.mnt.acts.find? (fun a => a.code.toNat == code && a.subject == subject && a.part == part)

/-- A free token passes to its next waiter (R405); the waiter takes further tokens while they are free, and asks for
the next one behind those that wait for it. -/
def tokenGranted (t : Nat) (s : Mach) : Mach :=
  match holderOf s.mnt.acts t, waiters s.mnt.acts t with
  | none, a :: _ =>
    let rest := s.mnt.acts.filter (fun b => b.handle != a.handle)
    let a1 := takeTokens rest a.tokens.length { a with held := a.held + 1 }
    let s1 := modMnt (fun m => { m with acts := rest ++ [a1] }) s
    if a1.ready then proceed a1 s1 else s1
  | _, _ => s

def execTokenGranted (tok : Fin 528) (s : State) : Res := run (tokenGranted tok.val) s

/-- MNT_TOK for a token (R415). -/
def tokWord (s : Mach) (t : Nat) : Word :=
  let h := holderOf s.mnt.acts t
  b1 h.isSome ++ (0 : BitVec 7) ++ BitVec.ofNat 8 (min 255 (waiters s.mnt.acts t).length) ++ (0 : BitVec 8) ++
    (match h with | some a => a.code | none => 0)

/-- A write of MNT_SEL (R415). -/
def mntSel (v : Word) (s : Mach) : Mach :=
  modMnt (fun m => { m with sel := fld v 0 10, tok := tokWord s (fld v 0 10).toNat }) s

def execMntSelWrite (v : Word) (s : State) : Res := runSelect 0x6000 (mntSel v) s

/-- The record of an activity that a reset ends (R408, R540). -/
def activityRecord (a : Activity) : Mach → Mach :=
  logModule 0x61 0 (toBytes 1 a.code.toNat ++ toBytes 2 (a.tokens.headD 0))

/-- A module reset or a cold start ends every activity: their records are the first of the start (R408). -/
def abandonActivities (l : List Activity) (s : Mach) : Mach := l.foldl (fun s a => activityRecord a s) s

/-- A reset ends the activities that hold or await a token of a class, each with a record (R408). -/
def endActivities (hit : Nat → Bool) (s : Mach) : Mach :=
  let (gone, keep) := s.mnt.acts.partition (fun a => a.tokens.any hit)
  let s1 := modMnt (fun m => { m with acts := keep }) s
  gone.foldl (fun s a => activityRecord a (completeOpt a.owed 0x10 0 s)) s1

end Sys2Proof.Machine
end

