-- ==== Sys2Proof/Machine/EdgeOps.lean ====
section
/-! DEFINITION. Operations on edge memory: the Reed-Solomon code, reads with their log, and writes
(06_edge_memory_and_skeins.md, 12_stored_data_protection.md). -/

namespace Sys2Proof.Machine

/-! ### GF(2^8) and the code (R385 to R387) -/

/-- The product in GF(2^8) with the polynomial 0x11D. -/
def gmul (a b : Nat) : Nat :=
  ((List.range 8).foldl (fun (st : Nat × Nat) i =>
    (if b.testBit i then st.1 ^^^ st.2 else st.1, if 128 ≤ st.2 then (2 * st.2) ^^^ 0x11D else 2 * st.2)) (0, a)).1

/-- a to the power n. -/
def gpow (a : Nat) : Nat → Nat
  | 0 => 1
  | n + 1 => gmul a (gpow a n)

def alpha (n : Nat) : Nat := gpow 2 (n % 255)
def ginv (a : Nat) : Nat := gpow a 254

/-- The product of polynomials (x + r) over a list of r, highest coefficient first. -/
def rootPoly (rs : List Nat) : List Nat :=
  rs.foldl (fun p r => List.zipWith (· ^^^ ·) (p ++ [0]) (0 :: p.map (gmul r))) [1]

/-- The generator without its leading 1 (R385). -/
def rsGen : List Nat := (rootPoly ((List.range 8).map alpha)).tail

/-- The check symbols of 32 data symbols (R385). -/
def rsCheck (data : List Nat) : List Nat :=
  data.foldl (fun rem d =>
    let fb := d ^^^ rem.headD 0
    List.zipWith (fun r g => r ^^^ gmul fb g) (rem.tail ++ [0]) rsGen) (List.replicate 8 0)

/-- The syndromes of a word whose data symbols are those of a code word and whose check symbols differ from its own
by `diff`. -/
def rsSynd (diff : List Nat) : List Nat :=
  (List.range 8).map (fun i => (diff.zipIdx).foldl (fun acc e => acc ^^^ gmul e.1 (alpha (i * (7 - e.2)))) 0)

/-- The locator of symbol b of position p. -/
def locator (p b : Nat) : Nat := alpha (39 - (4 * p + b))

/-- The error values at the four symbols of position p that explain the syndromes, if they do (R387). -/
def rsSolve (p : Nat) (synd : List Nat) : Option (List Nat) :=
  let xs := (List.range 4).map (locator p)
  let v := (List.range 4).map (fun b =>
    let others := (xs.zipIdx).filterMap (fun e => if e.2 = b then none else some e.1)
    let poly := (rootPoly others).reverse
    let den := others.foldl (fun acc x => gmul acc (xs.getD b 0 ^^^ x)) 1
    gmul (ginv den) ((poly.zip synd).foldl (fun acc e => acc ^^^ gmul e.1 e.2) 0))
  let ok := (synd.zipIdx).all (fun e =>
    e.1 == ((v.zip xs).foldl (fun acc q => acc ^^^ gmul q.1 (gpow q.2 e.2)) 0))
  if ok then some v else none

/-! ### Where a code word lies (R206, R207, R386) -/

def stackOf (ea : Nat) : Nat := ea / 2 ^ 36
def groupOf (ea : Nat) : Nat := ea / 256 % 4
/-- The unit of an edge address within its stack. -/
def unitOf (ea : Nat) : Nat := ea % 2 ^ 36 / 256
/-- Units that a run touches (R213). -/
def unitCount (ea n : Nat) : Nat := if n = 0 then 0 else (ea + n - 1) / 256 - ea / 256 + 1
/-- The keep region (R209). -/
def inKeep (ea n : Nat) : Bool := decide (0xC00000000 < ea % 2 ^ 36 + n)

/-- The position that a read takes as erased (R221, R389). -/
def erasure (st : Stack) (ea : Nat) : Option Nat :=
  let g := groupOf ea
  match lostPos st g with
  | some p => some p
  | none =>
    if st.retQ ≠ 0x3F ∧ pcGroup st.retQ.toNat = g then some (pcPos st.retQ.toNat)
    else if pcGroup st.retLogQ.toNat = g ∧ st.retLogQ ≠ 0x3F ∧ st.retLog.contains (unitOf ea) then
      some (pcPos st.retLogQ.toNat)
    else none

/-- What a read of a code word finds. -/
inductive CwErr where
  | clean
  /-- Corrected at a position with a pattern; `silent` at an erased position (R389). -/
  | corrected (pos : Nat) (pattern : Word) (silent : Bool)
  | ue
  deriving DecidableEq, Repr

/-- The stored difference of the check symbols. -/
def ckDiff (s : Mach) (cw : Nat) : List Nat := (List.range 8).map (fun j => (tget 0 s.edge.ck (8 * cw + j)).toNat)

/-- Xor a pattern into the four symbols of a position, where they are data. -/
def patch (data : List Byte) (p : Nat) (v : List Nat) : List Byte :=
  (data.zipIdx).map (fun e => if e.2 / 4 = p then e.1 ^^^ BitVec.ofNat 8 (v.getD (e.2 % 4) 0) else e.1)

/-- Decode code word `cw` (R387, R389, R221). -/
def edgeDecode (s : Mach) (cw : Nat) : List Byte × CwErr :=
  let data := rdBytes s.edge.mem (32 * cw) 32
  if tget 0 s.edge.poison cw ≠ 0 then (data, .ue)
  else
    let diff := ckDiff s cw
    if diff.all (· == 0) then (data, .clean)
    else
      let synd := rsSynd diff
      let fix (p : Nat) (silent : Bool) (v : List Nat) :=
        (patch data p v, CwErr.corrected p (BitVec.ofNat 32 (ofBytes (v.map (BitVec.ofNat 8)))) silent)
      match erasure (stkAt s (stackOf (32 * cw))) (32 * cw) with
      | some p => match rsSolve p synd with | some v => fix p true v | none => (data, .ue)
      | none =>
        match (List.range 10).findSome? (fun p => (rsSolve p synd).map (fun v => (p, v))) with
        | some (p, v) => fix p false v
        | none => (data, .ue)

/-! ### Events and logs (R395, R413, R414) -/

/-- EMC_EVT bit b is raised (R413, R578). -/
def emcEvt (b : Nat) (s : Mach) : Mach := raiseIrq 11 (noteRaise 0x100014 b (modEdge (fun e => { e with evt := setBit e.evt b }) s))

/-- EMS_LOG0 to EMS_LOG3 of an entry, EMS_LOG0 in bits 31 to 0 (R414). -/
def edgeLogWords (e : EdgeLog) : BitVec 128 :=
  e.pattern ++ (e.count ++ (0 : BitVec 7) ++ fld e.ea 32 9) ++ fld e.ea 0 32 ++
    (b1 true ++ b1 e.ue ++ (0 : BitVec 5) ++ e.die ++ e.src ++ (0 : BitVec 16))

/-- Log an error of a stack (R395): the stack, and whether the entry is new. -/
def edgeLogEntry (n : EdgeLog) (st : Stack) : Stack × Bool :=
  match st.log.find? (fun e => e.2.ea == n.ea && e.2.die == n.die) with
  | some old => ({ st with log := st.log.map (fun e =>
      if e.1 == old.1 then (e.1, { e.2 with count := satInc e.2.count }) else e) }, false)
  | none =>
    match freeSlot st.log with
    | some i => ({ st with log := st.log ++ [(i, n)] }, true)
    | none => ({ st with log := st.log.tail ++ [((st.log.headD (0, n)).1, n)], logOvf := satInc st.logOvf }, true)

/-- The threshold of R389. -/
def lostThreshold (s : Mach) : Nat := max 1 s.edge.dieth.toNat

/-- Request the marking of a DRAM die (R389, R406). -/
def reqDieLost (st d : Nat) (s : Mach) : Mach :=
  let g := if d < 10 then 0 else 2
  if bit (stkAt s st).dieLost d || (findActivity s 3 st d).isSome then s
  else reqActivity 3 st d [tokGroup st g, tokGroup st (g + 1)] none s

/-- The error of a read by source `src` (R414) reaches the counts, the log and the ledger. -/
def edgeNote (src cw : Nat) (err : CwErr) (s : Mach) : Mach :=
  let st := stackOf (32 * cw)
  let note (n : EdgeLog) (s : Mach) : Mach :=
    let x := edgeLogEntry n (stkAt s st)
    let s1 := modStk st (fun k => (edgeLogEntry n k).1) { s with notes := { s.notes with edges := s.notes.edges ++ [(st, n)] } }
    if x.2 then
      logAt 0x25 4 (if n.ue && [0, 1, 2, 5].contains src then 1 else 0) 0xFFFF st (32 * cw)
        (bytesOf (edgeLogWords n)) s1
    else s1
  match err with
  | .clean => s
  | .corrected _ _ true => s
  | .corrected p pat false =>
    let d := dieAtPos (groupOf (32 * cw)) p
    let s1 := note { ue := false, die := BitVec.ofNat 5 d, src := BitVec.ofNat 4 src, ea := BitVec.ofNat 41 (32 * cw),
                     count := 1, pattern := pat }
      (emcEvt 0 (modStk st (fun k => { k with
        ceCnt := satInc k.ceCnt
        corr := if k.corr.contains (d, cw) then k.corr else k.corr ++ [(d, cw)] }) s))
    if lostThreshold s ≤ ((stkAt s1 st).corr.filter (fun e => e.1 == d)).length then reqDieLost st d s1 else s1
  | .ue =>
    note { ue := true, die := 0x1F, src := BitVec.ofNat 4 src, ea := BitVec.ofNat 41 (32 * cw), count := 1,
           pattern := 0 }
      (emcEvt 1 (modStk st (fun k => { k with ueCnt := satInc k.ueCnt }) s))

/-! ### Reads and writes -/

/-- Read n code words from `cw` on: each one's data and whether it is uncorrectable. -/
def readCws (src cw : Nat) : Nat → Mach → List (List Byte × Bool) × Mach
  | 0, s => ([], s)
  | n + 1, s =>
    let x := edgeDecode s cw
    let r := readCws src (cw + 1) n (edgeNote src cw x.2 s)
    ((x.1, x.2 == .ue) :: r.1, r.2)

/-- Read n bytes from an edge address on: the bytes, each with whether its code word is uncorrectable. -/
def readEdge (src ea n : Nat) (s : Mach) : List (Byte × Bool) × Mach :=
  let k := if n = 0 then 0 else (ea + n - 1) / 32 - ea / 32 + 1
  let r := readCws src (ea / 32) k s
  (((r.1.flatMap (fun x => x.1.map (fun b => (b, x.2)))).drop (ea % 32)).take n, r.2)

/-- The first uncorrectable code word of a read from `ea`, as its edge address. -/
def firstUe (ea : Nat) (bs : List (Byte × Bool)) : Option Nat :=
  ((bs.zipIdx).find? (fun e => e.1.2)).map (fun e => (ea + e.2) / 32 * 32)

/-- Store the 40 symbols of a code word as given. -/
def storeSymbols (cw : Nat) (sym : List Byte) (e : Edge) : Edge :=
  let data := sym.take 32
  let chk := rsCheck (data.map BitVec.toNat)
  { e with
    mem := wrBytes e.mem (32 * cw) data
    ck := (List.range 8).foldl (fun t j =>
      tset 0 t (8 * cw + j) (sym.getD (32 + j) 0 ^^^ BitVec.ofNat 8 (chk.getD j 0))) e.ck }

/-- The 40 symbols of a code word as stored. -/
def symbols (s : Mach) (cw : Nat) : List Byte :=
  let data := rdBytes s.edge.mem (32 * cw) 32
  data ++ List.zipWith (fun c d => BitVec.ofNat 8 (c ^^^ d)) (rsCheck (data.map BitVec.toNat)) (ckDiff s cw)

/-- The 40 symbols of the code word of some data. -/
def encodeCw (data : List Byte) : List Byte := data ++ (rsCheck (data.map BitVec.toNat)).map (BitVec.ofNat 8)

/-- Store a good code word. -/
def storeCw (cw : Nat) (data : List Byte) (e : Edge) : Edge :=
  { e with
    mem := wrBytes e.mem (32 * cw) data
    ck := if e.ck.isEmpty then e.ck else (List.range 8).foldl (fun t j => tdel t (8 * cw + j)) e.ck
    poison := tdel e.poison cw }

/-- Retraining of a pseudo-channel is abandoned because its log is full (R221). -/
def abandonRetrain (st : Nat) (s : Mach) : Mach :=
  let q := (stkAt s st).retQ
  let s1 := modStk st (fun k => { k with retQ := 0x3F, retAborted := satInc k.retAborted, retRetry := true }) s
  match findActivity s1 1 st q.toNat with
  | some a => endActivity a.handle s1
  | none => s1

/-- Count the code words that arrive in the windows of an update list (R267). -/
def countArrivals (cw : Nat) (s : Mach) : Mach :=
  let u := stackOf (32 * cw)
  let un := unitAt s u
  if un.win.isEmpty then s
  else modUnit u (fun un => { un with arr := (un.win.zipIdx).foldl (fun t w =>
    if decide (w.1.1 ≤ 32 * cw ∧ 32 * cw < w.1.1 + w.1.2) then tmod 0 t w.2 satInc else t) un.arr }) s

/-- A write of a code word drops its pending scrub rewrite (R393). -/
def dropEdgeWb (cw : Nat) (s : Mach) : Mach :=
  let st := stackOf (32 * cw)
  if (stkAt s st).scrubWb.contains cw then modStk st (fun k => { k with scrubWb := k.scrubWb.filter (· != cw) }) s else s

/-- A write of one code word arrives at its stack (R214, R217, R221, R267, R393). -/
def writeCw (cw : Nat) (data : List Byte) (poison : Bool) (s : Mach) : Mach :=
  let st := stackOf (32 * cw)
  let k := stkAt s st
  let u := unitOf (32 * cw)
  let inGroup := k.retQ != 0x3F && pcGroup k.retQ.toNat == groupOf (32 * cw)
  let s0 := dropEdgeWb cw s
  let log := if k.retLog.contains u then k.retLog else k.retLog ++ [u]
  let s2 :=
    if inGroup then
      let p := pcPos k.retQ.toNat
      let old := symbols s0 cw
      let new := ((encodeCw data).zip old |>.zipIdx).map (fun e => if e.2 / 4 = p then e.1.2 else e.1.1)
      let s1 := modStk st (fun k => { k with retLog := log })
        (modEdge (fun e => { storeSymbols cw new e with poison := tdel e.poison cw }) s0)
      if 4096 ≤ log.length then abandonRetrain st s1 else s1
    else modEdge (storeCw cw data) s0
  countArrivals cw (if poison then modEdge (fun e => { e with poison := tset 0 e.poison cw 0xFF }) s2 else s2)

/-- Write whole code words from an edge address on. -/
def writeCws (cw : Nat) : List Byte → Nat → Mach → Mach
  | _, 0, s => s
  | bs, n + 1, s => writeCws (cw + 1) (bs.drop 32) n (writeCw cw (bs.take 32) false s)

/-- Write bytes, a whole number of code words, at a 32-byte aligned edge address. -/
def writeEdge (ea : Nat) (bs : List Byte) (s : Mach) : Mach := writeCws (ea / 32) bs (bs.length / 32) s

/-! ### The bandwidth split (R210 to R213, R218) -/

/-- The class that owns a split slot (R210): 0 read, 1 write, 2 remote. -/
def slotClass (e : Edge) (slot : Nat) : Nat :=
  if slot < e.splitRead.toNat then 0 else if slot < e.splitRead.toNat + e.splitWrite.toNat then 1 else 2

/-- Rows of an answer that a buffer holds (R218). -/
def bufRoom : Nat := 64

/-- A unit of the class is counted as served (R241). -/
def countUnit (cls : Nat) (k : Stack) : Stack :=
  match cls with
  | 0 => { k with rdu := satInc k.rdu }
  | 1 => { k with wru := satInc k.wru }
  | _ => { k with rmu := satInc k.rmu }

/-- The unit that a piece of work performs next: its address and its bytes (R213). -/
def Work.unit (w : Work) : Option (Nat × Nat) :=
  match w.runs with
  | (a, n) :: _ => some (a + w.pos, min (n - w.pos) (256 - (a + w.pos) % 256))
  | [] => none

/-- Rows of a run of n bytes that bytes `pos` to `pos + b - 1` complete (R217): each run begins a new row. -/
def rowsDone (n pos b : Nat) : Nat := (if n ≤ pos + b then ceilDiv n 64 else (pos + b) / 64) - pos / 64

/-- Rows that the next unit of a piece of work fills. -/
def Work.fills (w : Work) : Nat :=
  match w.runs, w.unit with
  | (_, n) :: _, some (_, b) => rowsDone n w.pos b
  | _, _ => 0

/-- The work left after its next unit. -/
def Work.next (w : Work) : Work :=
  match w.runs, w.unit with
  | (_, n) :: t, some (_, b) => if n ≤ w.pos + b then { w with runs := t, pos := 0 } else { w with pos := w.pos + b }
  | _, _ => w

/-- A transposed read has performed a unit. -/
def Work.begun (w : Work) : Bool := w.pos != 0 || decide (w.runs.length < w.rows.length)

/-- The next unit of a piece of work can be performed: its group has a burst left in the slot (R212), and its rows have room, or
its transpose store is free (R218). -/
def Work.can (w : Work) (k : Stack) : Bool :=
  match w.unit with
  | none => false
  | some (a, _) =>
    decide (tget 0 k.bursts (groupOf a) < 16) &&
      (match w.key with
       | none => true
       | some key =>
         if w.square then w.begun || !(tget Square.reset k.squares key).taken
         else decide ((tget [] k.answers key).length + w.fills ≤ bufRoom))

/-- Rows enter an answer buffer as far as there is room: those left, and the stack. -/
def enterRows (key : Nat) (rows : List AnsRow) (k : Stack) : List AnsRow × Stack :=
  let n := bufRoom - (tget [] k.answers key).length
  (rows.drop n, if rows.isEmpty then k else { k with answers := tmod [] k.answers key (fun l => l ++ rows.take n) })

/-- Rows of rejected reads and of complete squares enter the buffer as room frees; a transpose store is free again when its last
row has entered (R218). -/
def drainKey (key : Nat) (k : Stack) : Stack :=
  let x := enterRows key (tget [] k.rejects key) k
  let k1 := { x.2 with rejects := tset [] x.2.rejects key x.1 }
  let q := tget Square.reset k1.squares key
  let y := enterRows key q.rows k1
  let q1 : Square := if q.rows.isEmpty then q else if y.1.isEmpty then .reset else { q with rows := y.1 }
  { y.2 with squares := tset Square.reset y.2.squares key q1 }

/-- What the rows of a performed unit become: rows of the buffer, or of the square once it is complete. -/
def deliverRows (w : Work) (k : Stack) : Stack :=
  match w.key with
  | none => k
  | some key =>
    if w.square then
      let q : Square := { rows := if w.next.runs.isEmpty then w.rows else [], taken := true }
      drainKey key { k with squares := tset Square.reset k.squares key q }
    else { k with answers := tmod [] k.answers key (fun l => l ++ w.rows.take w.fills) }

/-- The unit of a piece of work is performed. -/
def performUnit (w : Work) (k : Stack) : Stack :=
  match w.unit with
  | none => k
  | some (a, _) => countUnit w.cls (deliverRows w { k with bursts := tmod 0 k.bursts (groupOf a) (fun n => n + 1) })

/-- The oldest work of a class performs a unit, if it can: the new work list comes with it (R212). -/
def serveFirst (cls : Nat) (k : Stack) : Option Stack :=
  match k.work.find? (fun w => w.cls == cls) with
  | none => none
  | some w =>
    if !w.can k then none
    else
      let w1 := { w.next with rows := if w.square then w.rows else w.rows.drop w.fills }
      let i := k.work.findIdx (fun w => w.cls == cls)
      some (performUnit w { k with work := if w1.runs.isEmpty then k.work.eraseIdx i else k.work.set i w1 })

/-- One unit is performed for the class that owns the slot; the scrub engine and rewrites take what remote users leave. -/
def serveOne (e : Edge) (k : Stack) : Option Stack :=
  let cls := slotClass e k.slot.toNat
  if cls = 2 then (serveFirst 2 k).or (serveFirst 3 k) else serveFirst cls k

/-- What the slot in progress performs: at most 16 bursts of each of the four groups (R210). -/
def serveSlot (e : Edge) : Nat → Stack → Stack
  | 0, k => k
  | n + 1, k => match serveOne e k with | some k1 => serveSlot e n k1 | none => k

/-- A stack performs what its slot in progress allows. -/
def serveStack (st : Nat) (s : Mach) : Mach := modStk st (serveSlot s.edge 64) s

/-- Work arrives at a stack. -/
def addWork (st : Nat) (w : Work) (s : Mach) : Mach :=
  let w1 := { w with runs := w.runs.filter (fun r => r.2 != 0) }
  if w1.runs.isEmpty then s else serveStack st (modStk st (fun k => { k with work := k.work ++ [w1] }) s)

/-- A user of a class takes the bursts of n bytes from an address on, at its stack (R212, R213). -/
def useUnits (cls ea n : Nat) (s : Mach) : Mach :=
  addWork (stackOf ea) { cls := cls, runs := [(ea, n)], pos := 0, key := none, square := false, rows := [] } s

/-- The same for a range that may reach into the next stack. -/
def useSpan (cls ea n : Nat) (s : Mach) : Mach :=
  let a := min n (2 ^ 36 - ea % 2 ^ 36)
  useUnits cls (ea + a) (n - a) (useUnits cls ea a s)

/-- Seal and restore traffic reads n bytes, in the remote class (R212). -/
def sealRead (ea n : Nat) (s : Mach) : List (Byte × Bool) × Mach :=
  let x := readEdge 6 ea n s
  (x.1, useUnits 2 ea n x.2)

/-- A slot begins (R210), or with a new frame slot 0 (R211). -/
def beginSlot (slot : BitVec 4) (st : Nat) (s : Mach) : Mach :=
  serveStack st (modStk st (fun k => { k with slot := slot, bursts := [] }) s)

/-- The stack serves no request (R219, R239). -/
def stackOut (s : Mach) (st : Nat) : Bool := (stkAt s st).failed || (stkAt s st).selfref

end Sys2Proof.Machine
end

