-- ==== Sys2Proof/Machine/Edge.lean ====
section
/-! DEFINITION. The commands at the stacks: requests and their answers, refresh, split slots, live retraining, the
edge scrub engine, lost dies, logs, the edge checker and the writes of EMC_SPLIT and EMC_RIMPH
(06_edge_memory_and_skeins.md, 12_stored_data_protection.md). -/

namespace Sys2Proof.Machine

/-! ### Request flits (R216, R217, R219) -/

def rqKind (f : Row) : Nat := dB f 0 1
def rqElem (f : Row) : Nat := dB f 1 1
def rqRetLink (f : Row) : Nat := dB f 2 1 % 16
def rqRetPhase (f : Row) : Nat := dB f 2 1 / 16 % 4
def rqEa (f : Row) : Nat := dB f 8 8 % 2 ^ 41
def rqRunlen (f : Row) : Nat := dB f 16 4
def rqNrun (f : Row) : Nat := dB f 20 2
def rqStride (f : Row) : Nat := dB f 24 4

/-- The key of a link and a phase. -/
def lpKey (link phase : Nat) : Nat := 4 * link + phase

/-- Rows of one run (R217). -/
def rowsPerRun (n : Nat) : Nat := ceilDiv n 64

/-- The runs of a request: address and length. -/
def runsOf (f : Row) : List (Nat × Nat) := (List.range (rqNrun f)).map (fun r => (rqEa f + r * rqStride f, rqRunlen f))

/-- The status with which the stack rejects runs, 0 when it admits them (R219): of several that hold the lowest (DESIGN CHOICE, log
entry 15). -/
def rejectStatus (s : Mach) (st : Nat) (f : Row) (runs : List (Nat × Nat)) : Nat :=
  if stackOf (rqEa f) ≠ st then 2
  else if s.edge.keepEn && runs.any (fun r => inKeep r.1 r.2) then 3
  else if stackOut s st then 4
  else 0

/-- A rejection is counted (R241, R242). -/
def countReject (st status ea : Nat) (s : Mach) : Mach :=
  modStk st (fun k => { k with rejCnt := satInc k.rejCnt, rejLast := BitVec.ofNat 8 status, rejEa := BitVec.ofNat 41 ea }) s

/-- The rows of a rejected read go to the buffer of a link and phase at once, ahead of rows of earlier reads whose units are still to be
performed (R218, R219; DESIGN CHOICE, log entry 15). -/
def pushReject (st key : Nat) (rows : List AnsRow) (s : Mach) : Mach :=
  modStk st (fun k => drainKey key { k with rejects := tmod [] k.rejects key (fun l => l ++ rows) }) s

/-- A reply row waits for room in the buffer of a link and phase (R218). -/
def pushReply (st key : Nat) (row : AnsRow) (s : Mach) : Mach :=
  modStk st (fun k => { k with replies := tmod [] k.replies key (fun l => l ++ [row]) }) s

/-- The rows of a rejected read (R219). -/
def rejectRows (status n : Nat) : List AnsRow :=
  (List.range n).map (fun i => ⟨if i = 0 then BitVec.ofNat 512 status else 0, true, true⟩)

/-- Pack bytes of one run into answer rows (R217, R219). -/
def packRows (bs : List (Byte × Bool)) : List AnsRow :=
  (List.range (rowsPerRun bs.length)).map (fun i =>
    let part := (bs.drop (64 * i)).take 64
    ⟨BitVec.ofNat 512 (ofBytes (part.map (·.1))), part.any (·.2), false⟩)

/-- Read runs from a stack, one after another. -/
def readRuns (src : Nat) : List (Nat × Nat) → Mach → List (List (Byte × Bool)) × Mach
  | [], s => ([], s)
  | r :: t, s =>
    let x := readEdge src r.1 r.2 s
    let y := readRuns src t x.2
    (x.1 :: y.1, y.2)

/-- A read request arrives: what it reads is settled now (R214), and its rows come as its units are performed (R212, R218). -/
def edgeRead (st link phase : Nat) (f : Row) (s : Mach) : Mach :=
  if rqKind f ≠ 1 ∨ !stackLink s st link phase then s
  else
    let runs := runsOf f
    let key := lpKey (rqRetLink f) (rqRetPhase f)
    let status := rejectStatus s st f runs
    if status ≠ 0 then
      pushReject st key (rejectRows status (rowsPerRun (rqRunlen f) * rqNrun f)) (countReject st status (rqEa f) s)
    else
      let x := readRuns 0 runs s
      addWork st { cls := 0, runs := runs, pos := 0, key := some key, square := false, rows := x.1.flatMap packRows } x.2

def execEdgeReadRequest (st : Fin 32) (link : Fin 16) (phase : Fin 4) (flit : Row) (s : State) : Res :=
  run (edgeRead st.val link.val phase.val flit) s

/-- A write request awaits its data rows on the link and phase of its arrival (R217). -/
def edgeWrite (st link phase : Nat) (f : Row) (s : Mach) : Mach :=
  if rqKind f ≠ 2 ∨ !stackLink s st link phase then s
  else
    let status := rejectStatus s st f (runsOf f)
    let s1 := if status ≠ 0 then countReject st status (rqEa f) s else s
    modStk st (fun k => { k with writes := tmod [] k.writes (lpKey link phase) (fun l => l ++
      [{ ea := rqEa f, runlen := rqRunlen f, nrun := rqNrun f, stride := rqStride f, run := 0, pos := 0,
         status := BitVec.ofNat 8 status, rejected := status != 0, ret := lpKey (rqRetLink f) (rqRetPhase f) }]) }) s1

def execEdgeWriteRequest (st : Fin 32) (link : Fin 16) (phase : Fin 4) (flit : Row) (s : State) : Res :=
  run (edgeWrite st.val link.val phase.val flit) s

/-- Row i of the transposed square: element i of every source row (R228). -/
def transposeRow (width : Nat) (src : List (List (Byte × Bool))) (i : Nat) : AnsRow :=
  let elem (r : List (Byte × Bool)) := ofBytes (r.map (·.1)) / 2 ^ (width * i) % 2 ^ width
  let bad (r : List (Byte × Bool)) := ((r.drop (width * i / 8)).headD (0, false)).2
  ⟨BitVec.ofNat 512 ((src.zipIdx).foldl (fun acc e => acc + elem e.1 * 2 ^ (width * e.2)) 0), src.any bad, false⟩

/-- A transposed read arrives: its square is gathered in the transpose store of its answer's link and phase (R218, R228). -/
def transposedRead (st link phase : Nat) (f : Row) (s : Mach) : Mach :=
  if rqKind f ≠ 3 ∨ !stackLink s st link phase then s
  else
    let width := fmtBits (rqElem f)
    let n := 512 / width
    let runs := (List.range n).map (fun r => (rqEa f + r * rqStride f, 64))
    let key := lpKey (rqRetLink f) (rqRetPhase f)
    let status := rejectStatus s st f runs
    if status ≠ 0 then pushReject st key (rejectRows status n) (countReject st status (rqEa f) s)
    else
      let x := readRuns 0 runs s
      addWork st { cls := 0, runs := runs, pos := 0, key := some key, square := true,
                   rows := (List.range n).map (transposeRow width x.1) } x.2

def execTransposedReadRequest (st : Fin 32) (link : Fin 16) (phase : Fin 4) (flit : Row) (s : State) : Res :=
  run (transposedRead st.val link.val phase.val flit) s

/-- The reply row of a write (R217, R219). -/
def replyRow (w : WReq) : AnsRow :=
  ⟨BitVec.ofNat 512 w.status.toNat, w.status != 0, w.rejected⟩

/-- Write the code words of one data row (R217). -/
def writeRow (ea : Nat) (bs : List Byte) (poison : Bool) (s : Mach) : Mach :=
  iter (bs.length / 32) (fun i s => writeCw (ea / 32 + i) ((bs.drop (32 * i)).take 32) poison s) s

/-- What of a run from `a` to `z` forms whole units once its bytes before `x` are there: each unit as soon as its last row is (R212, R213). -/
def wholeUnits (a z x : Nat) : Nat := if z ≤ x then z else max a (x / 256 * 256)

/-- The next row on a link and phase is the next row of the oldest write there (R217); a unit arrives with its last row (R212). -/
def writeDataRow (st link phase : Nat) (row : Row) (poison : Bool) (s : Mach) : Mach :=
  let key := lpKey link phase
  match if stackLink s st link phase then tget [] (stkAt s st).writes key else [] with
  | [] => s
  | w :: rest =>
    let n := min 64 (w.runlen - w.pos)
    let ea := w.ea + w.run * w.stride + w.pos
    let s1 := if w.rejected then s else writeRow ea ((toBytes 64 row.toNat).take n) poison s
    let w1 := { w with
      status := if poison && !w.rejected then 1 else w.status
      run := if w.runlen ≤ w.pos + n then w.run + 1 else w.run
      pos := if w.runlen ≤ w.pos + n then 0 else w.pos + n }
    let put (l : List WReq) (s : Mach) := modStk st (fun k => { k with writes := tset [] k.writes key l }) s
    let a := w.ea + w.run * w.stride
    let u0 := wholeUnits a (a + w.runlen) ea
    let u1 := wholeUnits a (a + w.runlen) (ea + n)
    let s2 := if w.rejected then s1
      else addWork st { cls := 1, runs := [(u0, u1 - u0)], pos := 0, key := none, square := false, rows := [] } s1
    if w.nrun ≤ w1.run then pushReply st w.ret (replyRow w1) (put rest s2) else put (w1 :: rest) s2

def execWriteDataRow (st : Fin 32) (link : Fin 16) (phase : Fin 4) (row : Row) (poison : Bool) (s : State) : Res :=
  run (writeDataRow st.val link.val phase.val row poison) s

/-- A row leaves the buffer of a link and phase; what waits for its room follows, and units are performed (R217, R218). -/
def leaveBuffer (st link phase : Nat) (r : AnsRow) (rest : List AnsRow) (s : Mach) : Mach :=
  let key := lpKey link phase
  rimSend st (stackDie st) (stackSide (st % 16)) link phase ⟨r.row, r.poison, r.rej⟩
    (serveStack st (modStk st (fun k => drainKey key { k with answers := tset [] k.answers key rest }) s))

/-- The next row of an answer buffer leaves on its rim link (R217, R218). -/
def answerSend (st link phase : Nat) (s : Mach) : Mach :=
  match if stackLink s st link phase then tget [] (stkAt s st).answers (lpKey link phase) else [] with
  | [] => s
  | r :: rest => leaveBuffer st link phase r rest s

/-- A reply row takes its room in the buffer; it leaves at once when it is alone there, and behind the others when it is not
(R217, R218). -/
def replySend (st link phase : Nat) (s : Mach) : Mach :=
  let key := lpKey link phase
  let buf := tget [] (stkAt s st).answers key
  match if stackLink s st link phase && decide (buf.length < bufRoom) then tget [] (stkAt s st).replies key else [] with
  | [] => s
  | r :: rest =>
    let s1 := modStk st (fun k => { k with replies := tset [] k.replies key rest }) s
    if buf.isEmpty then leaveBuffer st link phase r [] s1
    else modStk st (fun k => { k with answers := tset [] k.answers key (buf ++ [r]) }) s1

def execAnswerRowSend (st : Fin 32) (link : Fin 16) (phase : Fin 4) (s : State) : Res :=
  run (answerSend st.val link.val phase.val) s
def execWriteReply (st : Fin 32) (link : Fin 16) (phase : Fin 4) (s : State) : Res :=
  run (replySend st.val link.val phase.val) s

/-! ### Refresh and the split (R210, R220, R236, R237) -/

/-- A refresh command is issued and counted (R220). -/
def refresh (st : Nat) (s : Mach) : Mach :=
  if stackOut s st then s
  else modRnd (fun r => { r with varRun := { r.varRun with refresh := satInc r.varRun.refresh } }) s

def execRefreshCommand (st : Fin 32) (_q : Fin 40) (s : State) : Res := run (refresh st.val) s

/-- A split slot ends, and the next one's class takes the bursts (R210). -/
def splitSlot (st : Nat) (s : Mach) : Mach := beginSlot ((stkAt s st).slot + 1) st s

def execSplitSlotBoundary (st : Fin 32) (s : State) : Res := run (splitSlot st.val) s

/-- A write of EMC_SPLIT (R236). -/
def emcSplit (v : Word) (s : Mach) : Mach :=
  let rd_ := fld v 0 5
  let wr_ := fld v 5 5
  let rm_ := fld v 10 5
  if s.start.locked then s
  else if rd_ = 0 ∨ wr_ = 0 ∨ rm_ = 0 ∨ rd_.toNat + wr_.toNat + rm_.toNat ≠ 16 then
    modEdge (fun e => { e with splitRej := true }) s
  else modEdge (fun e => { e with splitRead := rd_, splitWrite := wr_, splitRemote := rm_ }) s

def execEmcSplitWrite (v : Word) (s : State) : Res := runAccess 0x100000 (emcSplit v) s

/-- A write of EMC_RIMPH (R237). -/
def emcRimph (v : Word) (s : Mach) : Mach :=
  if s.start.locked then s
  else if fld v 0 4 = 0 then modEdge (fun e => { e with rimphRej := true }) s
  else modEdge (fun e => { e with rimph := fld v 0 4 }) s

def execEmcRimphWrite (v : Word) (s : State) : Res := runAccess 0x100004 (emcRimph v) s

/-! ### Live retraining (R221, R391) -/

/-- The pseudo-channels that a sweep still has to train; those of a degraded group count as trained (R391). -/
def untrained (st : Stack) : List Nat :=
  (List.range 40).filter (fun q => !bit st.retSet q && !groupDeg st (pcGroup q))

def tempDiff (a b : Byte) : Nat := (a.toInt - b.toInt).natAbs

/-- The hottest die of a stack has a temperature now (R220, R240). -/
def setStackTemp (st : Nat) (temp : Byte) (s : Mach) : Mach :=
  modStk st (fun k => { k with maxT := temp, temp := temp, hot := decide (85 < temp.toInt) }) s

/-- Nothing of a retraining is under way at the stack. -/
def retrainIdle (s : Mach) (st : Nat) : Bool :=
  let k := stkAt s st
  k.retQ == 0x3F && !k.retRetry && k.retLog.isEmpty && !s.mnt.acts.any (fun a => a.code == 1 && a.subject == st)

/-- A sweep that has trained every pseudo-channel ends: the training temperature is the current one (R221). -/
def sweepEnd (st : Nat) (s : Mach) : Mach :=
  let k := stkAt s st
  if k.retSweep && (untrained k).isEmpty then
    modStk st (fun k => { k with retSweep := false, retSet := 0, trainT := k.temp }) s
  else s

def pcRetrainStart (st : Nat) (temp : Byte) (s : Mach) : Mach :=
  let s1 := setStackTemp st temp s
  let k := stkAt s1 st
  if !k.trained || stackOut s1 st || !(k.retSweep || decide (12 < tempDiff temp k.trainT)) || !retrainIdle s1 st then s1
  else
    let s2 := modStk st (fun k => { k with retSweep := true }) s1
    match untrained k with
    | [] => sweepEnd st s2
    | q :: _ => reqActivity 1 st q [tokGroup st (pcGroup q)] none s2

def execPcRetrainStart (st : Fin 32) (temp : Byte) (s : State) : Res := run (pcRetrainStart st.val temp) s

def pcRetrainDone (st : Nat) (s : Mach) : Mach :=
  let k := stkAt s st
  if k.retQ = 0x3F then s
  else
    let s1 := modStk st (fun k => { k with retDone := satInc k.retDone, retSet := setBit k.retSet k.retQ.toNat,
                                           retQ := 0x3F }) s
    let s2 := match findActivity s1 1 st k.retQ.toNat with | some a => endActivity a.handle s1 | none => s1
    sweepEnd st s2

def execPcRetrainDone (st : Fin 32) (s : State) : Res := run (pcRetrainDone st.val) s

def pcRetrainRetry (st : Nat) (s : Mach) : Mach :=
  let k := stkAt s st
  if k.retRetry && k.retLog.isEmpty && k.retLogQ != 0x3F then
    let s1 := modStk st (fun k => { k with retRetry := false }) s
    if groupDeg k (pcGroup k.retLogQ.toNat) then sweepEnd st s1
    else reqActivity 1 st k.retLogQ.toNat [tokGroup st (pcGroup k.retLogQ.toNat)] none s1
  else s

def execPcRetrainRetry (st : Fin 32) (s : State) : Res := run (pcRetrainRetry st.val) s

/-- Write a decoded code word back whole, as a remote-class write (R212, R267); an uncorrectable one stays as found. -/
def rewriteCw (cw : Nat) (s : Mach) : Mach :=
  match edgeDecode s cw with
  | (_, .ue) => s
  | (d, _) => countArrivals cw (modEdge (storeCw cw d) s)

/-- The symbols of a logged unit on the retrained pseudo-channel are rewritten (R221). -/
def retrainRewrite (st : Nat) (s : Mach) : Mach :=
  let k := stkAt s st
  match k.retLog with
  | [] => s
  | u :: rest =>
    if k.retQ ≠ 0x3F then s
    else
      let cw0 := st * 2 ^ 31 + u * 8
      useUnits 3 (32 * cw0) 256 (modStk st (fun k => { k with retLog := rest }) (iter 8 (fun i s => rewriteCw (cw0 + i) s) s))

def execRetrainRewrite (st : Fin 32) (s : State) : Res := run (retrainRewrite st.val) s

/-! ### The scrub engine (R393, R407) -/

/-- The scrub engine reads 256 bytes; every code word that it corrects, at the position of a lost die too, is rewritten (R389, R393). -/
def edgeScrubRead (st : Nat) (s : Mach) : Mach :=
  let k := stkAt s st
  let g := k.scrubAt % 4
  if !s.edge.scrubEn || stackOut s st || (holderOf s.mnt.acts (tokGroup st g)).isSome then s
  else
    let cw0 := st * 2 ^ 31 + k.scrubAt * 8
    let bad := (List.range 8).filterMap (fun i =>
      match (edgeDecode s (cw0 + i)).2 with | .corrected _ _ _ => some (cw0 + i) | _ => none)
    let s1 := useUnits 3 (32 * cw0) 256 (readCws 4 cw0 8 s).2
    let s2 := modStk st (fun k => { k with scrubAt := (k.scrubAt + 1) % 2 ^ 28, scrubWb := k.scrubWb ++ bad }) s1
    if k.scrubAt + 1 = 2 ^ 28 then modEdge (fun e => { e with scrubPasses := satInc e.scrubPasses }) s2 else s2

def execEdgeScrubRead (st : Fin 32) (s : State) : Res := run (edgeScrubRead st.val) s

/-- The oldest corrected code word is rewritten, unless its group's token is held or the stack is not scrubbed (R393, R407). -/
def edgeScrubRewrite (st : Nat) (s : Mach) : Mach :=
  match (stkAt s st).scrubWb with
  | [] => s
  | cw :: rest =>
    if stackOut s st || (holderOf s.mnt.acts (tokGroup st (groupOf (32 * cw)))).isSome then s
    else useUnits 3 (32 * cw) 32 (rewriteCw cw (modStk st (fun k => { k with scrubWb := rest }) s))

def execEdgeScrubRewrite (st : Fin 32) (s : State) : Res := run (edgeScrubRewrite st.val) s

/-! ### Lost dies (R389, R390) -/

/-- DETAIL of a DIE_LOST record (R540). -/
def dieLostDetail (st : Nat) (k : Stack) : List Byte :=
  toBytes 1 st ++ toBytes 3 k.dieLost.toNat ++ toBytes 1 (if k.failed then 1 else 0)

/-- Mark a DRAM die lost, or the stack failed when a group of the die has a lost die already. -/
def markLost (st d : Nat) (s : Mach) : Mach :=
  let k := stkAt s st
  let other := groupDeg k (if d < 10 then 0 else 2)
  let s1 := modStk st (fun k => { k with dieLost := setBit k.dieLost d, failed := k.failed || other,
                                         corr := k.corr.filter (fun e => e.1 != d) }) s
  let s2 := emcEvt (if other then 3 else 2)
    (logAt 0x12 4 (if other then 1 else 0) 0xFFFF st 0 (dieLostDetail st (stkAt s1 st)) s1)
  if other then uncorrected 0x12 s2 else s2

def dieLostMark (st d : Nat) (s : Mach) : Mach :=
  match findActivity s 3 st d with
  | some a => if a.ready && !bit (stkAt s st).dieLost d then markLost st d (endActivity a.handle s) else s
  | none => s

def execDieLostMark (st : Fin 32) (d : Fin 20) (s : State) : Res := run (dieLostMark st.val d.val) s

/-! ### Logs and the checker (R396, R403, R413, R414) -/

/-- EMS_LOG0 to EMS_LOG3 of a log index. -/
def edgeLatch (k : Stack) (i : Nat) : BitVec 128 :=
  match k.log.find? (fun e => e.1 == i) with | some e => edgeLogWords e.2 | none => 0

/-- The log of a stack after a clear: the errors of this cycle reach it behind the clear (R396). -/
def clearedEdge (s : Mach) (st : Nat) (k : Stack) : List (Nat × EdgeLog) :=
  ((s.notes.edges.filter (fun e => e.1 == st)).foldl (fun q e => (edgeLogEntry e.2 q).1) { k with log := [] }).log

/-- A write of EMS_LOGSEL: CLR clears first, then the entry is latched. -/
def emsLogsel (st : Nat) (v : Word) (s : Mach) : Mach :=
  modStk st (fun k =>
    let k1 := if bit v 31 then { k with log := clearedEdge s st k } else k
    { k1 with logIdx := fld v 0 5, latch := edgeLatch k1 (fld v 0 5).toNat }) s

def execEmsLogselWrite (st : Fin 32) (v : Word) (s : State) : Res :=
  runSelect (0x10012C + 0x40 * st.val) (emsLogsel st.val v) s
def execEmsLogClr (st : Fin 32) (v : Word) (s : State) : Res :=
  runSelect (0x10012C + 0x40 * st.val) (emsLogsel st.val (v ||| 0x80000000)) s

/-- The fields that a write of EMC_CHK_CTRL writes beside its operation. -/
def chkFields (v : Word) (e : Edge) : Edge :=
  { e with chkRefused := e.chkRefused && !bit v 30, chkPos := fld v 22 6, chkVal := fld v 8 8 }

def refuseEdge (e : Edge) : Edge := { e with chkRefused := true }

/-- A write of EMC_CHK_CTRL with an operation (R403, R413): `op` acts on code word cw and symbol k. -/
def edgeChk (v : Word) (op : Nat → Nat → Mach → Mach) (s : Mach) : Mach :=
  let ea := s.edge.chkEa.toNat
  let k := (fld v 22 6).toNat
  if 39 < k ∨ ea % 32 ≠ 0 ∨ (stkAt s (stackOf ea)).failed ∨ (s.edge.keepEn && inKeep ea 32) then modEdge refuseEdge s
  else
    let s1 := modEdge (chkFields v) s
    match holderOf s.mnt.acts (tokGroup (stackOf ea) (groupOf ea)) with
    | some a =>
      if a.code = 2 then useUnits 2 ea 32 (op (ea / 32) k s1) else modEdge refuseEdge s1
    | none => modEdge refuseEdge s1

/-- A raw write of a check symbol makes it known; a poisoned code word reads as an ordinary one again once all eight are (R217, R403;
DESIGN CHOICE, log entry 15). -/
def known (cw k : Nat) (e : Edge) : Edge :=
  if k < 32 then e else { e with poison := tset 0 e.poison cw (clrBit (tget 0 e.poison cw) (k - 32)) }

def edgeRawWrite (v : Word) : Mach → Mach :=
  edgeChk v (fun cw k s =>
    modEdge (fun e => known cw k (storeSymbols cw ((symbols s cw).set k (fld v 8 8)) e)) (dropEdgeWb cw s))

def edgeRawRead (v : Word) : Mach → Mach :=
  edgeChk v (fun cw k s =>
    if 32 ≤ k ∧ bit (tget 0 s.edge.poison cw) (k - 32) then
      modEdge (fun e => { e with chkVal := fld (Config.free32 s.free) 0 8 }) { s with free := s.free + 1 }
    else modEdge (fun e => { e with chkVal := (symbols s cw).getD k 0 }) s)

def edgeCheckedRead (v : Word) : Mach → Mach :=
  edgeChk v (fun cw _ s =>
    let err := (edgeDecode s cw).2
    edgeNote 7 cw err (modEdge (fun e => { e with
      chkResult := match err with | .clean => 0 | .corrected _ _ _ => 1 | .ue => 2 }) s))

def execEdgeRawSymbolWrite (v : Word) (s : State) : Res := runAccess 0x100020 (edgeRawWrite v) s
def execEdgeRawSymbolRead (v : Word) (s : State) : Res := runAccess 0x100020 (edgeRawRead v) s
def execEdgeCheckedRead (v : Word) (s : State) : Res := runAccess 0x100020 (edgeCheckedRead v) s

end Sys2Proof.Machine
end

