-- ==== Sys2Proof/Machine/Crc.lean ====
section
/-! DEFINITION. The two checksums (R170, R280) and the round digest of lockstep comparison (R427). -/

namespace Sys2Proof.Machine

/-- One bit of CRC-32C in reflected form (R170). -/
def crc32Bit (c : Word) : Word := if bit c 0 then (c >>> 1) ^^^ 0x82F63B78 else c >>> 1

/-- One byte of CRC-32C. -/
def crc32Byte (c : Word) (b : Byte) : Word := (List.range 8).foldl (fun c _ => crc32Bit c) (c ^^^ b.setWidth 32)

/-- CRC-32C of bytes (R170). -/
def crc32c (bs : List Byte) : Word := ~~~ (bs.foldl crc32Byte 0xFFFFFFFF)

/-- One bit of CRC-64 (R280). -/
def crc64Bit (c : BitVec 64) : BitVec 64 := if bit c 63 then (c <<< 1) ^^^ 0x42F0E1EBA9EA3693 else c <<< 1

/-- One byte of CRC-64. -/
def crc64Byte (c : BitVec 64) (b : Byte) : BitVec 64 :=
  (List.range 8).foldl (fun c _ => crc64Bit c) (c ^^^ (b.setWidth 64 <<< 56))

/-- CRC-64 going on from a value (R280). -/
def crc64From (c : BitVec 64) (bs : List Byte) : BitVec 64 := bs.foldl crc64Byte c

/-- CRC-64 of bytes (R280). -/
def crc64 (bs : List Byte) : BitVec 64 := crc64From 0 bs

/-- The conditions of R427 hold: LOCKSTEP is in force and SYS_TWIN_STAT.OK is 1. -/
def comparing (s : Mach) : Bool := s.sys.twinMode == 2 && s.sys.ok

/-- A row leaves the wafer on a rim link: it enters the round digest (R427). -/
def foldDigest (f : Row) (poison : Bool) (s : Mach) : Mach :=
  if comparing s then
    modLs (fun l => { l with run := l.run + crc64 (toBytes 64 f.toNat ++ [if poison then 1 else 0]), runRows := satInc l.runRows }) s
  else s

end Sys2Proof.Machine
end

