-- ==== Sys2Proof/Machine/TileOps.lean ====
section
/-! DEFINITION. Weight tiles, accumulation and the checksum lane (R107 to R119, R144, R145, R156 to R160, R244 to R258,
R416 to R418). -/

namespace Sys2Proof.Machine

/-- Element i of a packed row (R143). -/
def elemAt (fmt : Nat) (row : Row) (i : Nat) : FVal :=
  decodeElem fmt (row.extractLsb' (fmtBits fmt * i) (fmtBits fmt)).toNat

/-- The scale of element k in a group of scale bytes (R110, R246). -/
def scaleAt (sc kt : Nat) (bytes : List Byte) (unit k : Nat) : FVal :=
  if sc = 0 then .fin false 1 0
  else
    let nb := scaleBytes sc kt
    decodeScale sc ((bytes.drop (unit * nb + (if scaleBlock sc ≤ kt then k / scaleBlock sc else 0))).headD 0)

/-- Bit string of metadata rows (R143). -/
def metaBits (t : Tile) (off n : Nat) : Nat :=
  ((t.metaRows.drop (off / 512)).headD 0 |>.extractLsb' (off % 512) n).toNat

/-- Kt of a tile's own rate class (R108, R244). -/
def tileKt (t : Tile) : Nat := ktOf (fmtClass t.wfmt.toNat)

/-- The column factor of a tile. -/
def tileG (t : Tile) : Nat := if t.empty then 1 else colFactor t.kind.toNat t.span

/-- A kept weight: its K position, its logical column and its element (R248 to R253). -/
structure Kept where
  k : Nat
  col : Nat
  row : Nat
  elem : Nat

/-- The mask of a B8 block row (R251). -/
def b8Mask (t : Tile) (g : Nat) : Nat := metaBits t (16 * g) 16

/-- The kept column groups of a B8 block row, ascending (R251). -/
def b8Groups (t : Tile) (g : Nat) : List Nat := (List.range 16).filter (fun h => (b8Mask t g).testBit h)

/-- The used slots of K position k of a U16 tile (R252). -/
def u16Count (t : Tile) (k : Nat) : Nat := metaBits t (8 * k) 8

/-- The column index of a slot of a U16 tile (R252). -/
def u16Index (t : Tile) (k j : Nat) : Nat := metaBits t (512 * (ceilDiv (tileKt t) 64 + k) + 16 * j) 16

/-- Kept weights at K position k, in the order of R257. -/
def keptAt (t : Tile) (k : Nat) : List Kept :=
  let kt := tileKt t
  match t.kind.toNat with
  | 0 => (List.range 32).map (fun n => ⟨k, n, n, k⟩)
  | 1 => (List.range 64).flatMap (fun c =>
      (List.range 2).filterMap (fun i =>
        let j := 2 * (k / 4) + i
        if metaBits t (c * kt + 2 * j) 2 = k % 4 then some ⟨k, c, c % 32, c / 32 * (kt / 2) + j⟩ else none))
  | 2 => (List.range 128).filterMap (fun c =>
      let j := k / 4
      if metaBits t (c * (kt / 2) + 2 * j) 2 = k % 4 then some ⟨k, c, c % 32, c / 32 * (kt / 4) + j⟩ else none)
  | 3 => ((b8Groups t (k / 8)).zipIdx).flatMap (fun p =>
      (List.range 8).map (fun r => ⟨k, 8 * p.1 + r, 8 * p.2 + r, k⟩))
  | _ => (List.range (min 32 (u16Count t k))).filterMap (fun j =>
      let u := u16Index t k j
      if t.cbase.toNat ≤ u ∧ u - t.cbase.toNat < 32 * t.span then some ⟨k, u - t.cbase.toNat, j, k⟩ else none)

/-- The scaled value of a kept weight in a pass whose Kt is `kt` (R145, R246). A dense tile takes its scales by the
pass's Kt (R110); a sparse tile goes by its own Kt, in a pass of a wider rate class too (DESIGN CHOICE, log entry 13). -/
def weightVal (t : Tile) (kt : Nat) (w : Kept) : FVal :=
  (elemAt t.wfmt.toNat ((t.rows.drop w.row).headD 0) w.elem).mul
    (scaleAt t.sfmt.toNat (if t.kind = 0 then kt else tileKt t) t.scales w.col w.k)

/-- The kept weights of logical column c over the K positions of a pass, each with its K position: of a tile whose own Kt is smaller
than the pass's, only its own K positions. An empty tile holds +0 in every weight (R112): its products are formed exactly like any
others, -0 and NaN among them, and the checksum column adds nothing (DESIGN CHOICE, log entry 13). -/
def columnWeights (t : Tile) (kt c : Nat) : List (Nat × FVal) :=
  if t.empty then (List.range kt).map (fun k => (k, .fin false 0 0))
  else (List.range (min kt (tileKt t))).flatMap (fun k =>
    ((keptAt t k).filter (fun w => w.col == c)).map (fun w => (k, weightVal t kt w)))

/-- The dropped slots of a U16 tile (R253). -/
def droppedSlots (t : Tile) : Nat :=
  if t.kind.toNat = 4 then
    (List.range (tileKt t)).foldl (fun acc k => acc + (u16Count t k - (keptAt t k).length)) 0
  else 0

/-- The first metadata check that fails (R249, R251, R252, R254): its kind, its position and the metadata row. -/
def metaFault (t : Tile) : Option (Nat × Nat × Nat) :=
  let kt := tileKt t
  match t.kind.toNat with
  | 1 => (List.range (64 * (kt / 4))).findSome? (fun i =>
      let c := i / (kt / 4)
      let g := i % (kt / 4)
      if metaBits t (c * kt + 4 * g + 2) 2 ≤ metaBits t (c * kt + 4 * g) 2 then
        some (1, g, (c * kt + 4 * g) / 512) else none)
  | 3 => (List.range (kt / 8)).findSome? (fun g => if 4 < (b8Groups t g).length then some (2, g, 0) else none)
  | 4 => (List.range kt).findSome? (fun k => if 32 < u16Count t k then some (3, k, k / 64) else none)
  | _ => none

/-! ### Accumulation (R156 to R160) -/

/-- The special result of R158 over a list of values, if there is one. -/
def special (ps : List FVal) : Option Word :=
  if ps.any FVal.isNan then some nan32
  else if ps.any (FVal.isInf false) then (if ps.any (FVal.isInf true) then some nan32 else some 0x7F800000)
  else if ps.any (FVal.isInf true) then some 0xFF800000
  else none

/-- The exact sum of finite values. -/
def exactSum (ps : List FVal) : Dy := ps.foldl (fun a p => a.add p.dy) Dy.zero

/-- The exact sum of magnitudes. -/
def exactAbs (ps : List FVal) : Dy := ps.foldl (fun a p => a.add p.dy.abs) Dy.zero

/-- A free result within R157 when the sum of magnitudes is 2^127 or more (R158), else the rounded one: `n` roundings,
`cand` the free word drawn. -/
def boundedFree (n : Nat) (exact mags : Dy) (cand rounded : Word) : Word :=
  if mags.lt ⟨1, 127⟩ then rounded
  else
    let k : Int := (2 ^ 24 - n : Nat)
    let ok :=
      match f32 cand with
      | .nan => cand == nan32
      | .inf _ => true
      | v => (((v.dy.sub exact).abs).scale k 0).le ((mags.scale (n : Int) 0).add ⟨k * (n : Int), -150⟩)
    if ok then cand else rounded

/-- The values that one rounding adds, rounded (R156, R158). -/
def sumRound (ps : List FVal) : Word := (special ps).getD (rne32 ((exactSum ps).toF false))

/-- An exact zero sum in fast mode has a free sign (R158). -/
def freeZero (draw : Nat) (last : List FVal) (w : Word) : Word :=
  if fld w 0 31 = 0 ∧ (exactSum last).num = 0 then (if bit (Config.free32 draw) 0 then 0x80000000 else 0) else w

/-- Fast mode, one group (R156): a0 plus the products in at most two sub-groups, each with one rounding. `split` tells
which products go first; free draws start at `d`. -/
def fastAdd (sparse : Bool) (d : Nat) (a0 : Word) (ps : List FVal) : Word :=
  match special (f32 a0 :: ps) with
  | some w => w
  | none =>
    let exact := exactSum (f32 a0 :: ps)
    let mags := exactAbs (f32 a0 :: ps)
    let mask := Config.freeNat d
    let g1 := (ps.zipIdx).filterMap (fun e => if mask.testBit e.2 then some e.1 else none)
    let g2 := (ps.zipIdx).filterMap (fun e => if mask.testBit e.2 then none else some e.1)
    let last := if sparse && !g1.isEmpty && !g2.isEmpty then f32 (sumRound (f32 a0 :: g1)) :: g2 else f32 a0 :: ps
    freeZero d last (boundedFree (if sparse then 2 else 1) exact mags (Config.free32 d) (sumRound last))

/-- Strict mode, one group: one rounding per product in order, or one rounding of the exact integer sum (R159). -/
def strictAdd (isInt : Bool) (a0 : Word) (ps : List FVal) : Word :=
  match special (f32 a0 :: ps) with
  | some w => w
  | none =>
    if isInt then rne32 ((f32 a0).add ((exactSum ps).toF false))
    else ps.foldl (fun acc p => rne32 ((f32 acc).add p)) a0

/-- One group of an accumulator element in either mode. -/
def groupAdd (strict isInt sparse : Bool) (d : Nat) (a0 : Word) (ps : List FVal) : Word :=
  if strict then strictAdd isInt a0 ps else fastAdd (sparse && !isInt) d a0 ps

/-! ### The checksum weights (R416) -/

/-- c(k, j): the sum of the scaled weights at k in accumulator row set j; integer formats keep it exact. -/
def cWeight (t : Tile) (kt k j : Nat) : FVal :=
  if t.empty then .fin false 0 0
  else
    let ws := ((keptAt t k).filter (fun w => w.col / 32 == j)).map (weightVal t kt)
    match special ws with
    | some w => f32 w
    | none =>
      let x := (exactSum ws).toF false
      if fmtInt t.wfmt.toNat then x else f32 (rne32 x)

/-- m(k, j): the sum of their magnitudes, rounded toward +infinity; integer formats keep it exact. -/
def mWeight (t : Tile) (kt k j : Nat) : FVal :=
  if t.empty then .fin false 0 0
  else
    let ws := ((keptAt t k).filter (fun w => w.col / 32 == j)).map (fun w => (weightVal t kt w).abs)
    match special ws with
    | some w => f32 w
    | none =>
      let x := (exactSum ws).toF false
      if fmtInt t.wfmt.toNat then x else f32 (up32 x)

/-! ### Passes -/

/-- Kt of a pass: the rate class of the wider format (R108). -/
def passKt (p : Pass) : Nat :=
  ktOf (max (fmtClass (dB p.q.d 12 1)) (if p.tile.empty then 0 else fmtClass p.tile.wfmt.toNat))

/-- The activation scale bytes of a pass (R110). -/
def passScales (p : Pass) : List Byte :=
  bytesFrom p.scales.got (dB p.q.d 8 4) (dB p.q.d 14 2 * scaleBytes (dB p.q.d 13 1) (passKt p))

/-- The scaled activation element k of row i (R110, R145). -/
def actVal (p : Pass) (i k : Nat) : FVal :=
  (elemAt (dB p.q.d 12 1) ((p.acts.got.drop i).headD 0) k).mul
    (scaleAt (dB p.q.d 13 1) (passKt p) (passScales p) i k)

/-- The lane j of a row of accumulators. -/
def lane (r : AccRow) (j : Nat) : Word := r.lanes.extractLsb' (32 * j) 32

/-- Thirty-two lanes as one value. -/
def packLanes (f : Nat → Word) : BitVec 1024 :=
  BitVec.ofNat 1024 ((List.range 32).foldl (fun acc j => acc + (f j).toNat * 2 ^ (32 * j)) 0)

/-- The pass adds activation row i into row set j: the new accumulator row. `d` is the first free draw. -/
def passRow (p : Pass) (d i j : Nat) (old : AccRow) : AccRow :=
  let fl := dB p.q.d 1 1
  let strict := fl.testBit 0
  let acc := fl.testBit 2
  let isInt := fmtInt (dB p.q.d 12 1)
  let sparse := !p.tile.empty && p.tile.kind != 0
  let kt := passKt p
  let prods (c : Nat) := (columnWeights p.tile kt c).map (fun w => (actVal p i w.1).mul w.2)
  let lanes := packLanes (fun n => groupAdd strict isInt sparse (d + n)
    (if acc then lane old n else 0x80000000) (prods (32 * j + n)))
  let ck := (List.range (if p.tile.empty then 0 else min kt (tileKt p.tile)))
  let cp := ck.map (fun k => (actVal p i k).mul (cWeight p.tile kt k j))
  let mp := ck.map (fun k => (actVal p i k).abs.mul (mWeight p.tile kt k j))
  let a0 := if acc then old.a else 0
  { lanes := lanes
    c := fastAdd false (d + 32) (if acc then old.c else 0x80000000) cp
    a := if a0 = 0x7F800000 || mp.any (fun x => !x.isFin) then 0x7F800000 else up32 ((exactSum (f32 a0 :: mp)).toF false)
    n := satAdd (if acc then old.n else 0)
      (if isInt then 1 else if strict then kt else if sparse then 2 else 1)
    bad := (acc && old.bad) || (List.range 32).any (fun n => (prods (32 * j + n)).any (fun x => !x.isFin)) }

/-- The accumulator rows that a pass writes, each with its activation row and row set (R244). -/
def passRows (p : Pass) : List (Nat × Nat × Nat) :=
  let m := dB p.q.d 14 2
  (List.range (tileG p.tile * m)).map (fun x => (dB p.q.d 16 2 + x, x % m, x / m))

/-- The results of a pass enter the accumulators. -/
def applyPass (p : Pass) (d : Nat) (acc : Tbl AccRow) : Tbl AccRow :=
  (passRows p).foldl (fun t e =>
    tset AccRow.reset t e.1 (passRow p (d + 33 * (e.1 % 512)) e.2.1 e.2.2 (tget AccRow.reset acc e.1))) acc

/-- The free draws of a pass. -/
def passDraws : Nat := 33 * 512

/-! ### The comparison (R418) -/

/-- S: the exact sum of the lanes, none when a lane is not finite. -/
def laneSum (r : AccRow) : Option Dy :=
  let vs := (List.range 32).map (fun j => f32 (lane r j))
  if vs.all FVal.isFin then some (exactSum vs) else none

/-- T (R418). -/
def tolerance (r : AccRow) : Dy :=
  let n : Nat := r.n.toNat
  (((f32 r.a).dy).scale ((2 * n + n / 64 + 4 : Nat) : Int) (-24)).add ⟨(n : Int), -144⟩

/-- The row is not compared (R418). -/
def skipRow (r : AccRow) : Bool := r.a == 0x7F800000 || r.bad

/-- The row mismatches (R418). -/
def mismatch (r : AccRow) : Bool :=
  match laneSum r with
  | none => true
  | some s => if (f32 r.c).isFin then (tolerance r).lt (s.sub (f32 r.c).dy).abs else true

/-- Whether a recomputed row agrees with what mismatched first (R421). -/
def agrees (b : BadRow) (r : AccRow) : Bool :=
  match b.sum, laneSum r with
  | some x, some y => (x.sub y).abs.le b.tol
  | _, _ => false

/-! ### The known-answer test (R424) -/

/-- A number below 256 as BF16. -/
def bf16Word (n : Nat) : Nat := (rne32 (.fin false n 0)).toNat / 2 ^ 16

/-- A row of 32 BF16 elements. -/
def bf16Row (f : Nat → Nat) : Row := BitVec.ofNat 512 ((List.range 32).foldl (fun acc k => acc + bf16Word (f k) * 2 ^ (16 * k)) 0)

/-- The fixed BF16 tile: w(k, n) = n + 1. -/
def katTile : Tile :=
  { Tile.reset with empty := false, wfmt := 1, rows := (List.range 32).map (fun n => bf16Row (fun _ => n + 1)) }

/-- The pass of the fixed activation row over it: a(k) = k + 1. -/
def katRun : Pass :=
  { q := ⟨BitVec.ofNat 256 (0x11 + 2 ^ 96 + 2 ^ 112), 0⟩, tile := katTile, acts := ⟨[], [bf16Row (fun k => k + 1)]⟩, scales := ⟨[], []⟩
    start := 0, ends := 0 }

/-- The accumulator row that the test makes, with these lanes and +0 in the others. -/
def katRow (lanes : List Word) : AccRow :=
  { passRow katRun 0 0 0 AccRow.reset with lanes := packLanes (fun j => lanes.getD j 0) }

/-- What the test finds in a healthy core: the weights, C, A and n, and the three cases of the comparator, S = C, S = C + 2T in the exact
sum of three lanes, and a NaN lane. -/
def knownAnswer : Bool :=
  let r := katRow [0x48882000]
  (List.range 32).all (fun k => rne32 (cWeight katTile 32 k 0) == 0x44040000 && rne32 (mWeight katTile 32 k 0) == 0x44040000) &&
    r.c == 0x48882000 && r.a == 0x48882000 && r.n == 1 && !mismatch r &&
    mismatch (katRow [0x48882000, rne32 (.fin false (2 * 278784 * 6) (-24)), rne32 (.fin false 1 (-143))]) && mismatch (katRow [nan32])

end Sys2Proof.Machine
end

