-- ==== Sys2Proof/Machine/Matrix.lean ====
section
/-! DEFINITION. The matrix engine's commands: WLOAD, MPASS, AOUT and ACLR start and complete, and the arbitration
(R105, R106, R112 to R119, R244 to R258, R416 to R423). -/

namespace Sys2Proof.Machine

def modMx (f : Matrix → Matrix) (c : Core) : Core := { c with mx := f c.mx }

def dOpc (q : QDesc) : Nat := dB q.d 0 1
def dTag (q : QDesc) : BitVec 16 := BitVec.ofNat 16 (dB q.d 2 2)

/-- The head of the matrix queue is this opcode, and no arbitration suspends the queue (R421). -/
def mxHead (c : Core) (opc : Nat) : Option QDesc :=
  if c.mx.arb.isSome then none
  else match queueHead c 0 with
    | some q => if dOpc q = opc then some q else none
    | none => none

/-- A sparse format fault (R247, R254): CORE_SPFAULT and cause 0x14. -/
def sparseFault (k : Nat) (q : QDesc) (kind pos addr : Nat) (s : Mach) : Mach :=
  classU k 0x14 addr q.pc.toNat (some 0) (modCore k (fun c => { c with r :=
    if c.r.spValid then c.r
    else { c.r with spValid := true, spKind := BitVec.ofNat 3 kind, spPos := BitVec.ofNat 8 pos, spTag := dTag q } }) s)

/-! ### The rows of an operation (R98, R109, R110, R114, R254, R255) -/

/-- Nothing read yet of these rows. -/
def Reads.of (rows : List Nat) : Reads := { left := rows, got := [] }

/-- The first `rows.length` rows that were left are read. -/
def Reads.take (rows : List Row) (r : Reads) : Reads := { left := r.left.drop rows.length, got := r.got ++ rows }

/-- A WLOAD with the rows that it reads: its 32 stored rows, its scale rows and its metadata rows. It ends 16 cycles after its start, or
with the period in which it reads its last row (R112, R255). -/
def newLoad (q : QDesc) (now : Nat) : Load :=
  let kind := dB q.d 14 1
  let sfmt := dB q.d 13 1
  let kt := ktOf (fmtClass (dB q.d 12 1))
  let srows := if sfmt = 0 then [] else rowsOf (dB q.d 8 4) (32 * colFactor kind (dB q.d 22 1) * scaleBytes sfmt kt)
  let m := if kind = 0 then 0 else metaRowCount kind kt
  { q := q
    ends := now + 16
    tile := .of ((List.range 32).map (fun i => rowIndex (dB q.d 4 4) + i))
    scales := .of srows
    metas := .of ((List.range m).map (fun i => rowIndex (dB q.d 16 4) + i)) }

/-- The tile that a WLOAD holds, as far as its rows are read. -/
def loadedTile (l : Load) : Tile :=
  let d := l.q.d
  let ns := 32 * colFactor (dB d 14 1) (dB d 22 1) * scaleBytes (dB d 13 1) (ktOf (fmtClass (dB d 12 1)))
  { empty := false, wfmt := BitVec.ofNat 4 (dB d 12 1), sfmt := BitVec.ofNat 2 (dB d 13 1),
    kind := BitVec.ofNat 3 (dB d 14 1), cbase := BitVec.ofNat 16 (dB d 20 2), span := dB d 22 1,
    rows := l.tile.got, scales := bytesFrom l.scales.got (dB d 8 4) ns, metaRows := l.metas.got }

/-- The activation rows of a pass (R114). -/
def actRows (q : QDesc) : List Nat :=
  (List.range (dB q.d 14 2)).map (fun i => rowIndex (dB q.d 4 4) + i * dB q.d 18 2)

/-- Activation rows that one M turn serves at most in which the pass reads (R115, R256): b, q and the r of a B8 tile. -/
def rowsPerTurn (p : Pass) : Nat :=
  let n := min (16 / Nat.gcd (dB p.q.d 18 2) 16) (if (dB p.q.d 1 1).testBit 0 then 4 else 16)
  if !p.tile.empty && p.tile.kind == 3 then max 1 (3 * n / 4) else n

/-- Periods that one turn's activation rows occupy the engine (R256). -/
def passPeriods (t : Tile) : Nat := if !t.empty && t.kind == 4 then 5 else 1

/-- A pass has read nothing. -/
def Pass.afresh (now : Nat) (p : Pass) : Pass :=
  let ns := dB p.q.d 14 2 * scaleBytes (dB p.q.d 13 1) (passKt p)
  { p with
    acts := .of (actRows p.q)
    scales := .of (if dB p.q.d 13 1 = 0 then [] else rowsOf (dB p.q.d 8 4) ns)
    start := now
    ends := now + 16 * passPeriods p.tile * ceilDiv (dB p.q.d 14 2) (rowsPerTurn p) + 40 }

/-- A pass that starts now (R115). -/
def newPass (q : QDesc) (tile : Tile) (now : Nat) : Pass :=
  Pass.afresh now { q := q, tile := tile, acts := .of [], scales := .of [], start := now, ends := now }

/-- The fabric cycle at which the pass lets the next one start (R115). -/
def Pass.free (p : Pass) : Nat := p.ends - 40

/-- The metadata check that fails in the rows read so far (R254). -/
def loadFault (l : Load) : Option (Nat × Nat × Nat) :=
  (metaFault (loadedTile l)).filter (fun x => decide (x.2.2 < l.metas.got.length))

/-- Rows of a WLOAD or a pass are read (R195, R397). -/
def mxRead (k : Nat) (pc : Word) (rows : List Nat) (go : List Row → Mach → Mach) (s : Mach) : Mach :=
  let x := readRows (coreAt s k) rows
  afterRead k 0 2 pc x (go x.rows) s

/-- A WLOAD reads metadata rows and checks them (R254): of rows behind a failing check nothing is read. -/
def metaRead (k : Nat) (l : Load) (rows : List Nat) (go : List Row → Mach → Mach) (s : Mach) : Mach :=
  let x := readRows (coreAt s k) rows
  let clean := if anyUe x.errs then x.rows.dropLast else x.rows
  match loadFault { l with metas := l.metas.take clean } with
  | some (kd, pos, row) =>
    sparseFault k l.q kd pos (dB l.q.d 16 4 + 64 * row)
      (logErrs k 2 (readRows (coreAt s k) (rows.take (row + 1 - l.metas.got.length))).errs s)
  | none => afterRead k 0 2 l.q.pc x (go x.rows) s

/-! ### WLOAD (R111, R112) -/

def wloadStart (k : Nat) (s : Mach) : Mach :=
  let c := coreAt s k
  match mxHead c 0x10 with
  | some q =>
    if c.mx.shadowFull || c.mx.loading.isSome then s
    else modCore k (fun c => modMx (fun m => { m with loading := some (newLoad q (tick s)) }) (popQueue 0 c)) s
  | none => s

/-- The load fills the shadow tile. -/
def loadDone (k : Nat) (l : Load) (s : Mach) : Mach :=
  let t := loadedTile l
  modCore k (fun c => countDone 0 { c with
    mx := { c.mx with loading := none, shadow := t, shadowFull := true }
    r := { c.r with spDrop := satAdd c.r.spDrop (droppedSlots t) } }) s

/-- A WLOAD has read all its rows. -/
def Load.allRead (l : Load) : Bool := l.tile.left.isEmpty && l.scales.left.isEmpty && l.metas.left.isEmpty

/-- A WLOAD completes, once its rows are read. -/
def wloadComplete (k : Nat) (s : Mach) : Mach :=
  match (coreAt s k).mx.loading with
  | none => s
  | some l => if l.allRead then loadDone k l s else s

/-! ### MPASS (R113 to R116, R247, R419) -/

def isChk (p : Pass) : Bool := (dB p.q.d 1 1).testBit 3

/-- The accumulator rows of an AOUT or an ACLR. -/
def accRange (q : QDesc) : Nat × Nat := (dB q.d 14 2, dB q.d 14 2 + dB q.d 12 2)

/-- The pass writes no accumulator row that the AOUT reads (R118). -/
def clearOfAout (p : Pass) (a : Option AoutRun) : Bool :=
  match a with
  | none => true
  | some a =>
    let lo := dB p.q.d 16 2
    let hi := lo + tileG p.tile * dB p.q.d 14 2
    decide (hi ≤ (accRange a.q).1 ∨ (accRange a.q).2 ≤ lo)

/-- One turn in which a W write and an M read touch the row (R102). -/
def hazard (src : Bool) (row : Nat) (c : Core) : Core :=
  if c.r.hazEn then
    { c with r := { c.r with
      hazCount := satInc c.r.hazCount
      hazValid := true
      hazSrc := if c.r.hazValid then c.r.hazSrc else src
      hazRow := if c.r.hazValid then c.r.hazRow else BitVec.ofNat 15 row } }
  else c

/-- An MPASS starts when the engine is free for it, or fails a check of R247; where it fails both, the accumulator range is the check
that it fails (DESIGN CHOICE, log entry 13). -/
def mpassStart (k : Nat) (s : Mach) : Mach :=
  let c := coreAt s k
  match mxHead c 0x11 with
  | none => s
  | some q =>
    let swap := (dB q.d 1 1).testBit 1
    let tile := if swap then (if c.mx.shadowFull then c.mx.shadow else Tile.reset) else c.mx.active
    let p := newPass q tile (tick s)
    let held := (c.mx.passes.filter isChk).length
    if !c.mx.aclr.isEmpty || (swap && c.mx.loading.isSome) || !clearOfAout p c.mx.aout ||
        (isChk p && decide (2 ≤ held)) then s
    else if 512 < dB q.d 16 2 + tileG tile * dB q.d 14 2 then sparseFault k q 4 0 0 s
    else if !tile.empty && fmtInt tile.wfmt.toNat != fmtInt (dB q.d 12 1) then sparseFault k q 5 0 0 s
    else modCore k (fun c =>
      let m := if swap then { c.mx with active := tile, shadow := .reset, shadowFull := false } else c.mx
      { popQueue 0 c with mx := { m with passes := m.passes ++ [p] } }) s

/-- A pass has read all its rows. -/
def Pass.allRead (p : Pass) : Bool := p.acts.left.isEmpty && p.scales.left.isEmpty

/-- A hardware fault alters lane values of a pass's result. -/
def applyStrikes (st : List Strike) (acc : Tbl AccRow) : Tbl AccRow :=
  st.foldl (fun t x => tmod AccRow.reset t x.row.val (fun r =>
    { r with lanes := packLanes (fun j => if j = x.lane.val then x.value else lane r j) })) acc

/-- The comparison of R418: rows not compared, and rows that mismatch. -/
def compareRows (p : Pass) (acc : Tbl AccRow) : Nat × List BadRow :=
  let rows := (passRows p).map (fun e => (e.1, tget AccRow.reset acc e.1))
  ((rows.filter (fun e => skipRow e.2)).length,
   (rows.filter (fun e => !skipRow e.2 && mismatch e.2)).map (fun e =>
     ⟨e.1, laneSum e.2, e.2.c, tolerance e.2, e.2.n⟩))

/-- The rows of a pass as they stand. -/
def priorRows (p : Pass) (acc : Tbl AccRow) : List (Nat × AccRow) :=
  (passRows p).map (fun e => (e.1, tget AccRow.reset acc e.1))

def restoreRows (l : List (Nat × AccRow)) (acc : Tbl AccRow) : Tbl AccRow :=
  l.foldl (fun t e => tset AccRow.reset t e.1 e.2) acc

def addSkip (k n : Nat) (s : Mach) : Mach :=
  if n = 0 then s else modDie (dieOf k) (fun d => { d with csl := { d.csl with skip := satAdd d.csl.skip n } }) s

def drawFree (n : Nat) (s : Mach) : Mach := { s with free := s.free + n }

/-- The oldest pass completes, once its rows are read; a mismatch of a checked one begins an arbitration (R115, R418, R421). -/
def mpassComplete (k : Nat) (st : List Strike) (s : Mach) : Mach :=
  let c := coreAt s k
  if c.mx.arb.isSome then s
  else
  match c.mx.passes with
  | [] => s
  | p :: rest =>
    if !p.allRead then s
    else
      let acc := applyStrikes st (applyPass p s.free c.mx.acc)
      let s1 := drawFree passDraws s
      let done := modCore k (fun c => countDone 0 { c with mx := { c.mx with acc := acc, passes := rest } })
      if !isChk p then done s1
      else
        let (skips, bad) := compareRows p acc
        let s2 := addSkip k skips s1
        if bad.isEmpty then done s2
        else
          let since := match rest with | a :: _ => a.start | [] => tick s
          modCore k (fun c => { c with mx := { c.mx with
            passes := []
            arb := some ⟨p.afresh (nextPeriod s), priorRows p c.mx.acc, bad, rest, since⟩ } }) s2

/-! ### Arbitration (R421 to R423, R435 to R437) -/

/-- |S - C| of a row as FP32, rounded up; +infinity where a lane or C is not finite. -/
def diffWord (b : BadRow) : Word :=
  match b.sum with
  | some x => if (f32 b.cks).isFin then up32 (((x.sub (f32 b.cks).dy).abs).toF false) else 0x7F800000
  | none => 0x7F800000

/-- A verdict reaches CSL_CNT, CSL_EVT, CSL_LOG and the ledger (R421, R435, R437). -/
def verdict (k : Nat) (a : Arb) (code : Nat) (evts : BitVec 5) (s : Mach) : Mach :=
  let b := a.bad.headD ⟨0, none, 0, ⟨0, 0⟩, 0⟩
  let s0 := (List.range 5).foldl (fun s b => if bit evts b then noteRaise (dieReg (dieOf k) 0x8004) b s else s)
    (noteRaise (dieReg (dieOf k) 0x8020) (if (dieAt s (dieOf k)).csl.logValid then 30 else 31) s)
  let s1 := modDie (dieOf k) (fun d => { d with csl :=
    let l := { d.csl with
      mismatch := satInc d.csl.mismatch
      corrected := if code = 1 then satInc d.csl.corrected else d.csl.corrected
      evt := d.csl.evt ||| evts }
    if l.logValid then { l with logMulti := true }
    else { l with logValid := true, verdict := BitVec.ofNat 3 code, logPc := BitVec.ofNat 8 (pcOf k),
                  accRow := BitVec.ofNat 9 b.row, tag := dTag a.x.q, round := (roundNow s).setWidth 16,
                  diff := diffWord b, tol := down32 b.tol } }) s0
  let det := toBytes 1 code ++ toBytes 2 b.row ++ toBytes 2 (dTag a.x.q).toNat ++ toBytes 2 b.n.toNat ++ [0] ++
    toBytes 4 (diffWord b).toNat ++ toBytes 4 (down32 b.tol).toNat
  raiseIrq 10 (logDie (dieOf k) 0x26 3 (if code = 1 then 0 else 5) (pcOf k) 0 det s1)

/-- Add an arbitration delay to RND_VAR_ARB (R423): to the restart of the oldest abandoned pass, or to the verdict. -/
def addArb (n : Nat) (s : Mach) : Mach :=
  modRnd (fun r => { r with varRun := { r.varRun with arb := satAdd r.varRun.arb n } }) s

/-- Passes one behind the other from an instant on, with nothing read (R115). -/
def afreshFrom : Nat → List Pass → List Pass
  | _, [] => []
  | now, p :: t => p.afresh now :: afreshFrom (p.afresh now).free t

/-- Abandoned passes run again from their start at the next boundary of a period, with their activation rows read afresh (R421). -/
def restartPasses (k : Nat) (ps : List Pass) (s : Mach) : Mach :=
  modCore k (modMx (fun m => { m with passes := m.passes ++ afreshFrom (nextPeriod s) ps })) s

/-- The recomputation of an arbitration completes, once its rows are read, with the verdict of R421; `katPass` says whether the core's
checker is healthy, so that it finds what R424 gives. -/
def recomputationComplete (k : Nat) (st : List Strike) (katPass : Bool) (s : Mach) : Mach :=
  let c := coreAt s k
  match c.mx.arb with
  | none => s
  | some a =>
    let x := a.x
    if !x.allRead then s
    else
      let acc := applyStrikes st (applyPass x s.free (restoreRows a.prior c.mx.acc))
      let s1 := drawFree passDraws s
      let (skips, bad) := compareRows x acc
      let s2 := addSkip k skips (modCore k (modMx (fun m => { m with acc := acc })) s1)
      if bad.isEmpty then
        let ends := if a.abandoned.isEmpty then tick s else nextPeriod s
        let s3 := addArb (ends - a.since) (verdict k a 1 1 s2)
        restartPasses k a.abandoned (modCore k (fun c => countDone 0 (modMx (fun m => { m with arb := none }) c)) s3)
      else
        let same := a.bad.all (fun b => agrees b (tget AccRow.reset acc b.row))
        if same && !(katPass && knownAnswer) then
          stewardStop k 0x26 (modCore k (fun c => { c with suspect := true }) (verdict k a 2 0x12 s2))
        else if same then
          stewardStop k 0x26 (modCore k (fun c => { c with retired := true }) (verdict k a 3 0x04 s2))
        else stewardStop k 0x26 (modCore k (fun c => { c with retired := true }) (verdict k a 4 0x08 s2))

/-! ### AOUT and ACLR (R117 to R119) -/

/-- A pass or an AOUT runs. -/
def mxBusy (c : Core) : Bool := !c.mx.passes.isEmpty || c.mx.aout.isSome

/-- Two trackers as one. -/
def Tracker.merge (a b : Tracker) : Tracker :=
  { maxabs := if a.maxabs.toNat < b.maxabs.toNat then b.maxabs else a.maxabs
    nan := satAdd a.nan b.nan.toNat, sat := satAdd a.sat b.sat.toNat }

/-- The updates of an earlier reference cycle join the trackers. -/
def Trackers.settle (now : Nat) (x : Trackers) : Trackers :=
  if x.at_ = now then x
  else { x with live := x.fresh.foldl (fun l e => tmod Tracker.reset l e.1 (fun t => t.merge e.2)) x.live, fresh := [], at_ := now }

/-- Update tracker t of a die with the values that a conversion presents (R154). -/
def trackAll (die t code : Nat) (xs : List (FVal × Bool)) (s : Mach) : Mach :=
  modDie die (fun d =>
    let x := d.trk.settle s.now
    { d with trk := { x with
      fresh := tmod Tracker.reset x.fresh t (fun tr => xs.foldl (fun tr x => track code true x.1 x.2 tr) tr) } }) s

/-- Pack converted elements of `bits` bits each (R143). -/
def packElems (bits : Nat) (xs : List Nat) : List Byte :=
  toBytes (xs.length * bits / 8) ((xs.zipIdx).foldl (fun acc e => acc + e.1 * 2 ^ (bits * e.2)) 0)

/-- Pieces of one wide row that follow each other are one access (R118). -/
def byRow : List Piece → List (List Piece)
  | [] => []
  | p :: t =>
    match byRow t with
    | (x :: g) :: r => if rowIndex p.addr = rowIndex x.addr then (p :: x :: g) :: r else [p] :: (x :: g) :: r
    | l => [p] :: l

/-- What an AOUT writes and what it presents to its tracker (R117, R118). -/
def newAout (q : QDesc) (s : Mach) (acc : Tbl AccRow) : AoutRun :=
  let code := dB q.d 8 1
  let conv (i j : Nat) : Word × Nat × Bool :=
    let w := lane (tget AccRow.reset acc (dB q.d 14 2 + i)) j
    let e := convElem code (dB q.d 9 1) (draw s (BitVec.ofNat 32 (dB q.d 20 4)) (BitVec.ofNat 32 (32 * i + j)) 0) (f32 w)
    (w, e.1, e.2)
  let vals := (List.range (dB q.d 12 2)).map (fun i => (List.range 32).map (conv i))
  let left := byRow ((vals.zipIdx).flatMap (fun e =>
    pieces (dB q.d 4 4 + e.2 * dB q.d 16 4) (packElems (fmtBits code) (e.1.map (fun v => v.2.1)))))
  { q := q
    ends := tick s + 16 * ceilDiv left.length 16 + 24
    left := left
    seen := (vals.flatMap id).map (fun v => (v.1, v.2.2)) }

def aoutStart (k : Nat) (s : Mach) : Mach :=
  let c := coreAt s k
  match mxHead c 0x12 with
  | some q =>
    if mxBusy c || !c.mx.aclr.isEmpty then s
    else modCore k (fun c => modMx (fun m => { m with aout := some (newAout q s m.acc) }) (popQueue 0 c)) s
  | none => s

/-- An AOUT completes, once its last row is written. -/
def aoutComplete (k : Nat) (s : Mach) : Mach :=
  match (coreAt s k).mx.aout with
  | none => s
  | some a =>
    if !a.left.isEmpty then s
    else
    let d := a.q.d
    let s1 := modCore k (fun c =>
      countDone 0 { c with mx := { c.mx with
        aout := none
        acc := if (dB d 1 1).testBit 0 then iter (dB d 12 2) (fun i t => tdel t (dB d 14 2 + i)) c.mx.acc else c.mx.acc } }) s
    if (dB d 1 1).testBit 1 then trackAll (dieOf k) (dB d 10 1) (dB d 8 1) (a.seen.map (fun v => (f32 v.1, v.2))) s1 else s1

def aclrStart (k : Nat) (s : Mach) : Mach :=
  let c := coreAt s k
  match mxHead c 0x13 with
  | some q =>
    if mxBusy c then s
    else modCore k (fun c => modMx (fun m => { m with
      aclr := m.aclr ++ [⟨q, tick s + 16 * ceilDiv (dB q.d 12 2) 128⟩] }) (popQueue 0 c)) s
  | none => s

/-- The ACLR that ends first, the older of two that end together. -/
def nextAclr (l : List AclrRun) : Option AclrRun :=
  l.foldl (fun b x => match b with | some y => if x.ends < y.ends then some x else some y | none => some x) none

def aclrComplete (k : Nat) (s : Mach) : Mach :=
  match nextAclr (coreAt s k).mx.aclr with
  | none => s
  | some a =>
    modCore k (fun c => countDone 0 (modMx (fun m => { m with
      aclr := m.aclr.erase a, acc := iter (dB a.q.d 12 2) (fun i t => tdel t (dB a.q.d 14 2 + i)) m.acc }) c)) s

end Sys2Proof.Machine
end

