-- ==== Sys2Proof/Machine/Fabric.lean ====
section
/-! DEFINITION. The routers: crossbar switching, twining, detours, timed channels and filled flags
(05_sections_and_fabric.md). -/

namespace Sys2Proof.Machine

/-! ### Neighbours (R15, R17, R27) -/

/-- The logical neighbour of a core inside its die or in the next die of its panel, or across the seam. -/
def neighbour (s : Mach) (k dir : Nat) : Option Nat :=
  let p := panelOf k
  let gx := p * 128 + dieCol k * 16 + coreCol k
  let gy := dieRow k * 12 + coreLRow s k
  match dir with
  | 0 => if gy = 0 then none else gridCore s gx (gy - 1)
  | 1 => if gx = 255 then none else gridCore s (gx + 1) gy
  | 2 => if gy = 107 then none else gridCore s gx (gy + 1)
  | 3 => if gx = 0 then none else gridCore s (gx - 1) gy
  | _ => none

/-- The link in a direction leads to a dead core (R27, R194). -/
def deadLink (s : Mach) (k dir : Nat) : Bool := match neighbour s k dir with | some n => dead s n | none => false

/-! ### Crossbar entries (R171) -/

/-- The crossbar entry of an output in a phase. -/
def xbarEntry (c : Core) (scalar : Bool) (output phase : Nat) : BitVec 16 :=
  (if scalar then c.rt.xbarS else c.rt.xbarV).extractLsb' (16 * (output * 4 + phase)) 16

def xSrc1 (e : BitVec 16) : Nat := (fld e 0 3).toNat
def xSrc2 (e : BitVec 16) : Nat := (fld e 3 3).toNat
def xAdd (e : BitVec 16) : Bool := bit e 6
def xChan (e : BitVec 16) : Nat := (fld e 8 4).toNat

/-- The FP32 sum of two vector flits, element by element (R190). -/
def twine (a b : Row) : Row :=
  BitVec.ofNat 512 ((List.range 16).foldl (fun acc i =>
    acc + (fadd (fld a (32 * i) 32) (fld b (32 * i) 32)).toNat * 2 ^ (32 * i)) 0)

/-! ### Router faults (R188, R203) -/

/-- A router fault: kind 1 OVERRUN, 2 STAGE, 3 TWINE. -/
def routerFault (k kind : Nat) (s : Mach) : Mach :=
  let lc := (lcOf (dieAt s (dieOf k)) (pcOf k)).getD 0
  let s0 := noteRaise (dieReg (dieOf k) 0x6014) (if (dieAt s (dieOf k)).sec.rteValid then 30 else 31) (noteRaise (coreReg k 0x30) (kind - 1) s)
  let s1 := modCore k (fun c => { c with r := { c.r with rfault := setBit c.r.rfault (kind - 1) } }) s0
  let s2 := modDie (dieOf k) (fun d => { d with sec :=
    if d.sec.rteValid then { d.sec with rteMulti := true }
    else { d.sec with rteValid := true, rteKind := BitVec.ofNat 2 kind, rteRound := (roundNow s).setWidth 16,
                      rteLc := BitVec.ofNat 8 lc } }) s1
  let w : Word := b1 true ++ b1 false ++ (0 : BitVec 4) ++ BitVec.ofNat 2 kind ++ (roundNow s).setWidth 16 ++
    BitVec.ofNat 8 lc
  uncorrected 0x22 (logDie (dieOf k) 0x22 3 1 (pcOf k) 0 (bytesOf w) s2)

/-! ### Timed channels (R172, R185, R186) -/

def chMode (e : BitVec 256) : Nat := (fld e 0 3).toNat
def chScalar (e : BitVec 256) : Bool := bit e 3
def chPhase (e : BitVec 256) : Nat := (fld e 4 2).toNat
def chAltr (e : BitVec 256) : Bool := bit e 6
def chBase (e : BitVec 256) : Nat := (fld e 16 15).toNat
def chCount (e : BitVec 256) : Nat := dB e 4 2
def chStride (e : BitVec 256) : Nat := dB e 6 2
def chAltoff (e : BitVec 256) : Nat := dB e 8 2
def chReps (e : BitVec 256) : Nat := dB e 10 2
def chF (e : BitVec 256) : Nat := if chScalar e then 16 else 1

/-- Row kk of burst j (R185). -/
def chRow (e : BitVec 256) (idx j kk : Nat) : Nat :=
  let h := if chAltr e then (j + idx) % 2 else j % 2
  chBase e + h * chAltoff e + kk * chStride e

/-- The row lies in the section store (R93, R136). -/
def inStore (c : Core) (row : Nat) : Bool :=
  decide (c.r.ssBase.toNat ≤ row ∧ row < c.r.ssBase.toNat + c.r.ssRows.toNat)

/-- An ownership violation at a core (R94). No instruction caused it: CORE_EPC takes 0 (R135; DESIGN CHOICE, log entry 12). -/
def ownership (k addr : Nat) (s : Mach) : Mach := reportU k 0x15 addr 0 s

/-- A whole inbound row waits for a W slot of the turn after (R186, R187), unless it would be the 33rd to wait. -/
def routerWrite (k ch row : Nat) (data : Row) (s : Mach) : Mach :=
  let c := coreAt s k
  if inStore c row then ownership k (rowAddr row) s
  else if 32 ≤ c.rt.wait.length then routerFault k 2 s
  else modCore k (fun c => { c with rt := { c.rt with wait := c.rt.wait ++
    [{ by_ := ch, piece := ⟨rowAddr row, toBytes 64 data.toNat⟩, turn := turnNow s + 1, paced := false }] } }) s

/-- A flit reaches an inbound timed channel (R186). -/
def deliver (k ch : Nat) (scalar : Bool) (f : Row) (s : Mach) : Mach :=
  let e := tget 0 (coreAt s k).rt.chans ch
  let n := tget 0 (coreAt s k).rt.inCnt ch
  if chF e * chCount e * chReps e ≤ n then routerFault k 1 s
  else
    let s1 := modCore k (fun c => { c with rt := { c.rt with inCnt := tset 0 c.rt.inCnt ch (n + 1) } }) s
    let row := chRow e (secIdx s k) (n / (chF e * chCount e)) (n / chF e % chCount e)
    if scalar then
      let w := n % 16
      let g := (if w = 0 then 0 else tget 0 (coreAt s k).rt.inRow ch)
      let g1 : Row := (g &&& ~~~ BitVec.ofNat 512 ((2 ^ 32 - 1) * 2 ^ (32 * w))) |||
        BitVec.ofNat 512 ((fld f 0 32).toNat * 2 ^ (32 * w))
      if w = 15 then routerWrite k ch row g1 (modCore k (fun c => { c with rt := { c.rt with inRow := tdel c.rt.inRow ch } }) s1)
      else modCore k (fun c => { c with rt := { c.rt with inRow := tset 0 c.rt.inRow ch g1 } }) s1
    else routerWrite k ch row f s1

/-- The input of a router (R171): 0 north, 1 east, 2 south, 3 west, 4 its own core. -/
def inputAt (x : Inputs) (i : Nat) : Option NetFlit :=
  match i with | 0 => x.north | 1 => x.east | 2 => x.south | 3 => x.west | 4 => x.own | _ => none

def noInputs : Inputs := { north := none, east := none, south := none, west := none, own := none }

/-- Two flits added (R190). The sum keeps every sideband bit that one of them has (DESIGN CHOICE, log entry 53). -/
def twineFlits (a b : NetFlit) : NetFlit := { row := twine a.row b.row, poison := a.poison || b.poison, rej := a.rej || b.rej }

/-- The flit of a source that a crossbar entry names. -/
def sourceFlit (x : Inputs) (src : Nat) : Option NetFlit := if src = 0 then none else inputAt x (src - 1)

/-- What an output carries in a phase (R183, R190, R191, R194): the flit, and whether a TWINE fault is raised. -/
def switched (s : Mach) (k : Nat) (e : BitVec 16) (x : Inputs) : Option NetFlit × Bool :=
  if xAdd e then
    let g1 := if deadLink s k (xSrc1 e - 1) then none else sourceFlit x (xSrc1 e)
    let g2 := if deadLink s k (xSrc2 e - 1) then none else sourceFlit x (xSrc2 e)
    match g1, g2 with
    | some a, some b => (some (twineFlits a b), false)
    | none, none => (none, false)
    | _, _ => (none, true)
  else (sourceFlit x (xSrc1 e), false)

/-- Count flits discarded at a switch (R177, R202). -/
def dropFlits (k n : Nat) (s : Mach) : Mach :=
  modDie (dieOf k) (fun d => { d with sec := { d.sec with drop := satAdd d.sec.drop n } }) s

/-! ### Hops (R184, R194) -/

/-- Cycles from a router to the next one in a direction (R184). -/
def hopCycles (k dir n : Nat) : Nat :=
  if facesSeam k dir then 4
  else if dieOf k ≠ dieOf n then 2
  else if 1 < (pcOf k / 16 - pcOf n / 16) + (pcOf n / 16 - pcOf k / 16) then 2
  else 1

/-- A flit leaves a router for the rim, and reaches the attachment a hop later (R184). -/
def toRim (k dir : Nat) (scalar : Bool) (f : NetFlit) (s : Mach) : Mach :=
  { s with fab := { s.fab with flights := s.fab.flights ++
    [{ left := rimCycles, core := k, input := 4 + dir, scalar := scalar, flit := f }] } }

/-- A flit leaves for a router. -/
def launch (n dir cycles : Nat) (scalar : Bool) (f : NetFlit) (s : Mach) : Mach :=
  { s with fab := { s.fab with flights := s.fab.flights ++
    [{ left := cycles, core := n, input := (dir + 2) % 4, scalar := scalar, flit := f }] } }

/-- The flit is lost on a horizontal detour of half width (R194). -/
def detourLost (s : Mach) (k output phase : Nat) : Bool :=
  (output == 1 || output == 3) && deadLink s k output && phase % 2 == 1

/-- A flit leaves a router by an output that is not its own core's (R184, R194, R27): to the rim, to the next router, or past a
dead one, a turn later than through it; behind a dead core that has no router beyond it the flit is lost. -/
def sendOn (k output phase : Nat) (scalar : Bool) (f : NetFlit) (s : Mach) : Mach :=
  if facesRim s k output then
    toRim k output scalar f (if scalar then s else foldDigest f.row f.poison s)
  else
    match neighbour s k output with
    | none => s
    | some n =>
      if !dead s n then launch n output (hopCycles k output n) scalar f s
      else if detourLost s k output phase then
        modDie (dieOf k) (fun d => { d with sec := { d.sec with detourDrop := satInc d.sec.detourDrop } }) s
      else
        match neighbour s n output with
        | none => s
        | some m => if dead s m then s else launch m output (hopCycles k output n + hopCycles n output m + 4) scalar f s

/-! ### Outbound timed channels (R185, R187) -/

def chStart (e : BitVec 256) : Nat := dB e 12 4 % 2 ^ 25
def chGap (e : BitVec 256) : Nat := dB e 16 4 % 2 ^ 25

/-- The turn of row r of the round of a channel (R185). -/
def burstTurn (e : BitVec 256) (r : Nat) : Nat := chStart e + r / chCount e * chGap e + chF e * (r % chCount e)

/-- The turn in whose N slot the channel reads its next row: its own, or the next one after it whose bank no channel has taken
(R97, R99). -/
def readTurn (k ch : Nat) (s : Mach) : Nat :=
  let c := coreAt s k
  let e := tget 0 c.rt.chans ch
  let r := tget 0 c.rt.outCnt ch
  let t := max (max (burstTurn e r) (turnNow s)) c.rt.nTurn
  if t = c.rt.nTurn ∧ c.rt.nBanks.contains (chRow e (secIdx s k) (r / chCount e) (r % chCount e) % 16) then t + 1 else t

/-- The flits of a row of a channel, and the turns and the phase in which they leave (R185). -/
def rowSends (e : BitVec 256) (t : Nat) (v : Row) : List Send :=
  if chScalar e then
    (List.range 16).map (fun i => { turn := t + i + 1, phase := chPhase e, scalar := true, row := (fld v (32 * i) 32).setWidth 512 })
  else [{ turn := t + 1, phase := chPhase e, scalar := false, row := v }]

/-- An outbound timed channel has a row left to read in this round (R185). -/
def burstDue (k ch : Nat) (s : Mach) : Bool :=
  let c := coreAt s k
  let e := tget 0 c.rt.chans ch
  routesLive s && present s k && !dead s k && chMode e == 2 && decide (tget 0 c.rt.outCnt ch < chCount e * chReps e)

/-- The turn of an outbound timed channel's row is there: the row is read, and its flits will leave in their turns. A row of the
section store gives no data (R93, R94). An underrun sends no flit, and since no instruction caused it CORE_EPC and EPC take the
processor's current PC (R135, R195; DESIGN CHOICE, log entry 12). -/
def outboundBurst (k ch : Nat) (s : Mach) : Mach :=
  let c := coreAt s k
  let e := tget 0 c.rt.chans ch
  let r := tget 0 c.rt.outCnt ch
  if !burstDue k ch s then s
  else
    let row := chRow e (secIdx s k) (r / chCount e) (r % chCount e)
    let t := readTurn k ch s
    let s1 := modCore k (fun c => { c with rt := { c.rt with
      outCnt := tset 0 c.rt.outCnt ch (r + 1)
      nTurn := t
      nBanks := row % 16 :: (if c.rt.nTurn = t then c.rt.nBanks else []) } }) s
    if inStore c row then s1
    else if underrunAt c row then classU k 0x13 (rowAddr row) c.p.pc.toNat none s1
    else
      let (v, es) := readRow c (rowAddr row)
      let s2 := logErrs k 5 es s1
      if anyUe es then stewardStop k 0x24 s2
      else modCore k (fun c => { c with rt := { c.rt with sends := c.rt.sends ++ rowSends e t v } }) s2

/-- The EXPIRE count of a filled flag has run out (R198). -/
def flagExpire (k b : Nat) (s : Mach) : Mach :=
  let c := coreAt s k
  let x := bufExpire (tget 0 c.rt.bufs b)
  if bit c.fl.flags b && decide (x ≠ 0) && decide (tget 0 c.fl.setAt b + x ≤ secIdx s k) then
    modCore k (fun c => { c with fl := { c.fl with flags := clrBit c.fl.flags b } }) s
  else s

def execFlagExpire (id : CoreId) (b : Fin 64) (s : State) : Res := run (flagExpire id.key b.val) s

end Sys2Proof.Machine
end

