-- ==== Sys2Proof/Machine/Stream.lean ====
section
/-! DEFINITION. The stream engines: block lists, their blocks and records, and tracker copies, and the routers' switching
of a flit into a core (06_edge_memory_and_skeins.md, 05_sections_and_fabric.md). -/

namespace Sys2Proof.Machine

/-! ### Block descriptors (R224, R227) -/

/-- The block copies by bytes or converts by elements: source and destination width in bits. -/
def bkConv (d : OpDesc) : Bool := bit d 187
def bkSfmt (d : OpDesc) : Nat := dB d 22 1 / 16
def bkDfmt (d : OpDesc) : Nat := dB d 22 1 % 16
def bkSw (d : OpDesc) : Nat := if bkConv d then fmtBits (bkSfmt d) else 8
def bkDw (d : OpDesc) : Nat := if bkConv d then fmtBits (bkDfmt d) else 8
def bkLen (d : OpDesc) : Nat := dB d 16 3 % 2 ^ 22
def bkRnd (d : OpDesc) : Nat := dB d 16 3 / 2 ^ 22
def bkRuns (d : OpDesc) : Nat := dB d 20 2
def bkSrcBytes (d : OpDesc) : Nat := bkLen d * bkSw d / 8
def bkDstBytes (d : OpDesc) : Nat := bkLen d * bkDw d / 8
def bkSpace (d : OpDesc) (off : Nat) : Nat := dB d off 8 / 2 ^ 62
def bkAddr (d : OpDesc) (off : Nat) : Nat := dB d off 8 % 2 ^ 62
def bkSs (d : OpDesc) : Nat := dB d 24 4
def bkDs (d : OpDesc) : Nat := dB d 28 4
def bkLast (d : OpDesc) : Bool := bit d 191
def bkOrd (d : OpDesc) : Bool := bit d 190
def bkAct (d : OpDesc) : Nat := (fld d 188 2).toNat
def bkTr (d : OpDesc) : Bool := bit d 186
def bkTrk (d : OpDesc) : Bool := bit d 185

/-- The last byte of the last run, plus 1. -/
def bkEnd (a stride n runs : Nat) : Nat := a + (runs - 1) * stride + n

/-- One side of a block (R91, R208, R225, R229, R342); `wr_` says that it is the destination. -/
def bkSideOk (space a stride n runs : Nat) (wr_ : Bool) : Bool :=
  match space with
  | 0 => decide (a < 2 ^ 32) && wideRange a n && wideRange (a + (runs - 1) * stride) n &&
      (!wr_ || (a % 8 == 0 && n % 8 == 0 && stride % 8 == 0))
  | 1 =>
    let al := if wr_ then 32 else 8
    decide (bkEnd a stride n runs ≤ 2 ^ 41) && a % al == 0 && n % al == 0 && stride % al == 0 &&
      decide (n ≤ 4194296) && decide (stackOf a = stackOf (bkEnd a stride n runs - 1))
  | 2 => n % 8 == 0
  | _ => false

/-- A transposed read (R228). -/
def bkTransOk (d : OpDesc) : Bool :=
  let w := fmtBits (bkSfmt d)
  let n := 512 / w
  let a := bkAddr d 0
  bkSpace d 0 == 1 && bkSpace d 8 == 0 && bkConv d && decide (w ≠ 6) && bkLen d == n && bkRuns d == n && a % 64 == 0 &&
    bkSs d % 64 == 0 && decide (bkEnd a (bkSs d) 64 n ≤ 2 ^ 41) &&
    decide (stackOf a = stackOf (bkEnd a (bkSs d) 64 n - 1))

/-- The checks of R229. -/
def blockOk (d : OpDesc) : Bool :=
  let pair := (bkSpace d 0, bkSpace d 8)
  !bit d 184 && decide (bkAct d ≤ 1) && decide (bkRnd d ≤ 2) && decide (1 ≤ bkLen d) &&
    [(0, 0), (0, 1), (0, 2), (1, 0), (2, 0)].contains pair &&
    (if bkConv d then
      fmtOk (bkSfmt d) && fmtOk (bkDfmt d) && fmtInt (bkSfmt d) == fmtInt (bkDfmt d) &&
        bkLen d * bkSw d % 8 == 0 && bkLen d * bkDw d % 8 == 0
    else dB d 22 1 == 0 && bkRnd d == 0 && !bkTrk d && !bkTr d) &&
    (if bkTr d then bkTransOk d
     else bkSideOk (bkSpace d 0) (bkAddr d 0) (bkSs d) (bkSrcBytes d) (bkRuns d) false) &&
    bkSideOk (bkSpace d 8) (bkAddr d 8) (bkDs d) (bkDstBytes d) (bkRuns d) true

/-! ### The parts of a stream engine -/

def seAt (c : Core) (e : Nat) : Stream := if e = 0 then c.se0 else c.se1
def modSe (e : Nat) (f : Stream → Stream) (c : Core) : Core :=
  if e = 0 then { c with se0 := f c.se0 } else { c with se1 := f c.se1 }
def modList (e : Nat) (f : SList → SList) : Core → Core := modSe e (fun t => { t with list := t.list.map f })
def modBlk (e no : Nat) (f : Blk → Blk) : Core → Core :=
  modList e (fun l => { l with inflight := l.inflight.map (fun b => if b.no == no then f b else b) })

/-- The lowest-numbered channel of a mode (R231). -/
def chanOfMode (c : Core) (mode : Nat) : Option (Nat × BitVec 256) := c.rt.chans.find? (fun e => chMode e.2 == mode)

/-- A flit takes its place behind those of its block and of earlier blocks: the data rows of a write follow its request (R217,
R342). -/
def outInsert (x : OutFlit) : List OutFlit → List OutFlit
  | [] => [x]
  | y :: t => if x.blk < y.blk then x :: y :: t else y :: outInsert x t

/-- A flit of a block waits for its turn of the engine's outbound stream channel; without one it goes nowhere (R231). -/
def seSend (e : Nat) (x : OutFlit) (c : Core) : Core :=
  if (chanOfMode c (5 + e)).isSome then modSe e (fun t => { t with out := outInsert x t.out }) c else c

/-- The flit that an engine's outbound channel sends next: none while an earlier write has rows to form that come before it. -/
def outNext (t : Stream) : Option OutFlit :=
  match t.out with
  | [] => none
  | x :: _ =>
    let forming (b : Blk) := decide (b.no < x.blk) && bkSpace b.desc 8 != 0 && decide (b.run < bkRuns b.desc) && bkSpace b.desc 0 == 0
    if t.list.any (fun l => l.inflight.any forming) then none else some x

/-- That flit has left; a request's rows and replies are awaited from now on (R231). -/
def outSent (t : Stream) : Stream :=
  match t.out with
  | [] => t
  | x :: r => { t with out := r, await := if x.asks = 0 then t.await else t.await ++ [⟨some x.blk, x.asks⟩] }

/-- Write a completion record (R232), in the next slot of the DMA (R101). -/
def seRecord (k e b status : Nat) (s : Mach) : Mach :=
  match (seAt (coreAt s k) e).list with
  | none => s
  | some l =>
    let slots := dB l.q.d 14 2
    if slots = 0 then s
    else
      let rec_ := toBytes 2 (dB l.q.d 2 2) ++ toBytes 2 b ++ toBytes 1 status ++ toBytes 1 e ++ [0, 0] ++
        toBytes 4 (roundNow s).toNat ++ toBytes 4 (cycleOf s)
      modCore k (fun c => modList e (fun l => { l with recs := l.recs + 1 })
        { c with dma := c.dma ++ [⟨dB l.q.d 12 2 + 16 * (l.recs % slots), rec_⟩] }) s

/-- A block ends with a status other than 0x00: the stream stops (R234). -/
def seStop (k e b status : Nat) (s : Mach) : Mach :=
  match (seAt (coreAt s k) e).list with
  | none => s
  | some l => classU k 0x16 0 l.q.pc.toNat (some (2 + e)) (seRecord k e b status s)

/-! ### Conversion and writes (R226, R227, R231) -/

/-- Element i of the bytes of a run. -/
def runElem (d : OpDesc) (src : List Byte) (i : Nat) : Nat :=
  if bkSw d = 8 then (src.getD i 0).toNat
  else numAt src (i * bkSw d / 8) ((i * bkSw d % 8 + bkSw d + 7) / 8) / 2 ^ (i * bkSw d % 8) % 2 ^ bkSw d

/-- Destination bytes of elements `from_` to `to_ - 1` of run r, with what their conversions present to a tracker. -/
def runConvert (s : Mach) (tag : Word) (d : OpDesc) (r : Nat) (src : List Byte) (from_ to_ : Nat) :
    List Byte × List (FVal × Bool) :=
  let es := (List.range (to_ - from_)).map (fun i => from_ + i)
  if bkConv d then
    let cs := es.map (fun i =>
      let x := decodeElem (bkSfmt d) (runElem d src i)
      let w := if bkRnd d = 2 then draw s tag (BitVec.ofNat 32 (r * bkLen d + i)) 0 else 0
      (convElem (bkDfmt d) (bkRnd d) w x, x))
    (packElems (bkDw d) (cs.map (fun c => c.1.1)), cs.map (fun c => (c.2, c.1.2)))
  else (es.map (fun i => src.getD i 0), [])

/-- The conversions of a block reach its tracker. -/
def seTrack (k : Nat) (d : OpDesc) (xs : List (FVal × Bool)) (s : Mach) : Mach :=
  if bkTrk d && !xs.isEmpty then trackAll (dieOf k) (dB d 19 1) (bkDfmt d) xs s else s

/-- Elements of a run that its source bytes give so far: whole destination bytes only. -/
def readyElems (d : OpDesc) (n : Nat) : Nat :=
  let e := min (bkLen d) (n * 8 / bkSw d)
  if e = bkLen d then e else e / 4 * 4

/-- Destination bytes of a run from `wrote` on become pending, row by row, while whole rows of it are formed or the run is whole
(R606): in a local destination they wait for W slots of the turns after `turn`, else they are flits that leave 64 bytes each. -/
def sePend (e : Nat) (d : OpDesc) (no base total turn : Nat) : Nat → Nat → List Byte → Core → Nat × Core
  | 0, wrote, _, c => (wrote, c)
  | n + 1, wrote, dst, c =>
    let here := bkSpace d 8 == 0
    let stop := min total (wrote + (if here then 64 - (base + wrote) % 64 else 64))
    if wrote < total ∧ stop ≤ dst.length then
      let bs := (dst.drop wrote).take (stop - wrote)
      sePend e d no base total turn n stop dst
        (if here then modSe e (fun t => { t with wait := t.wait ++ [⟨no, ⟨base + wrote, bs⟩, turn + 1, bkConv d⟩] }) c
         else seSend e ⟨no, BitVec.ofNat 512 (ofBytes bs), 0⟩ c)
    else (wrote, c)

/-- Rows that a run of n bytes at an address touches, at most. -/
def pieceFuel (n : Nat) : Nat := n / 64 + 2

/-- Source bytes of the run in progress of a block reach the engine: they are converted as far as whole elements are there, and
what they form becomes pending. -/
def seTake (k e : Nat) (tag : Word) (b : Blk) (bs : List Byte) (s : Mach) : Mach :=
  let d := b.desc
  let src := b.src ++ bs
  let to_ := readyElems d src.length
  let x := runConvert s tag d b.run src b.conv to_
  let dst := b.dst ++ x.1
  let total := bkDstBytes d
  modCore k (fun c =>
    let y := sePend e d b.no (bkAddr d 8 + b.run * bkDs d) total (turnNow s) (pieceFuel total) b.wrote dst c
    modBlk e b.no (fun b =>
      if bkSrcBytes d ≤ src.length then
        { b with run := b.run + 1, src := [], conv := 0, dst := [], wrote := 0, read := 0,
                 ready := b.ready || (bkSpace d 8 == 0 && decide (bkRuns d ≤ b.run + 1)) }
      else { b with src := src, conv := to_, dst := dst, wrote := y.1, read := b.read + 1 }) y.2) (seTrack k d x.2 s)

/-! ### Local sources and destinations (R97, R99, R195, R225, R397, R606) -/

/-- The wide rows of the run in progress of a block with a local source that it has still to read. -/
def blkRows (b : Blk) : List Nat :=
  if bkSpace b.desc 0 = 0 ∧ b.run < bkRuns b.desc then
    (rowsOf (bkAddr b.desc 0 + b.run * bkSs b.desc) (bkSrcBytes b.desc)).drop b.read
  else []

/-- The block whose row an engine reads next. -/
def readingBlk (c : Core) (e : Nat) : Option (SList × Blk) :=
  (seAt c e).list.bind (fun l => (l.inflight.find? (fun b => !(blkRows b).isEmpty)).map (fun b => (l, b)))

/-- An engine reads one row of a block (R225): an underrun stops it, an uncorrectable word stops the core (R397). -/
def seRead (k e : Nat) (l : SList) (b : Blk) (row : Nat) (s : Mach) : Mach :=
  let c := coreAt s k
  if underrunAt c row then classU k 0x13 (rowAddr row) l.q.pc.toNat (some (2 + e)) s
  else
    let (v, es) := readRow c (rowAddr row)
    let s1 := logErrs k 4 es s
    if anyUe es then stewardStop k 0x24 s1
    else
      let lo := if b.read = 0 then (bkAddr b.desc 0 + b.run * bkSs b.desc) % 64 else 0
      seTake k e (fld l.q.d 64 32 + BitVec.ofNat 32 b.no) b
        (((toBytes 64 v.toNat).drop lo).take (bkSrcBytes b.desc - b.src.length)) s1

/-- The N slot of a turn serves an engine: at most n rows in banks of their own that `used` does not name, and one of a
conversion (R99, R227). The banks taken come back. -/
def seReads (k e turn : Nat) : Nat → List Nat → Mach → List Nat × Mach
  | 0, used, s => (used, s)
  | n + 1, used, s =>
    match readingBlk (coreAt s k) e with
    | none => (used, s)
    | some (l, b) =>
      match blkRows b with
      | [] => (used, s)
      | row :: _ =>
        if turn < b.turn ∨ used.contains (row % 16) then (used, s)
        else
          let s1 := seRead k e l b row s
          if bkConv b.desc then (row % 16 :: used, s1) else seReads k e turn n (row % 16 :: used) s1

/-- A waiting row is written: a counted write of its producer (R196). The scratchpad of a dead core takes no write (R27). -/
def storeRow (k prod : Nat) (w : WRow) (s : Mach) : Mach :=
  if dead s k then s
  else modCore k (fun c =>
    countedWrite prod w.by_ (rowIndex w.piece.addr) (secIdx s k) (writeSp w.piece.addr w.piece.data c)) s

/-- Waiting rows are written in their order. -/
def storeRows (k prod : Nat) (ws : List WRow) (s : Mach) : Mach := ws.foldl (fun s w => storeRow k prod w s) s

/-! ### Starting a list and its blocks (R223, R216, R342) -/

/-- The engine runs nothing. -/
def seIdle (c : Core) (e : Nat) : Bool := (seAt c e).list.isNone && (seAt c e).tcopy.isNone

/-- A stream may start: the module does not hold (R59). The blocks of a list that
started before go on, so that the programs that run can finish their round (DEDUCED, log entry 39). -/
def mayStream (s : Mach) : Bool := !s.rnd.hold

def slistStart (k e : Nat) (s : Mach) : Mach :=
  let c := coreAt s k
  match queueHead c (2 + e) with
  | some q =>
    if mayStream s && seIdle c e && dB q.d 0 1 == 0x40 then
      modCore k (fun c => modSe e (fun t => { t with list := some (SList.mk q (dB q.d 4 4) 0 0 0 false []) })
        (popQueue (2 + e) c)) s
    else s
  | none => s

def execSlistStart (id : CoreId) (se : Fin 2) (s : State) : Res := run (whenActive (slistStart id.key se.val)) s

/-- A request flit: KIND, ELEM, RET, STAG, address, run length, runs, mlc, stride (R216, R342). -/
def requestFlit (kind elem ret : Nat) (tag : Word) (a n runs mlc stride : Nat) : Row :=
  BitVec.ofNat 512 (ofBytes (toBytes 1 kind ++ toBytes 1 elem ++ toBytes 1 ret ++ [0] ++ toBytes 4 tag.toNat ++
    toBytes 8 a ++ toBytes 4 n ++ toBytes 2 runs ++ toBytes 2 mlc ++ toBytes 4 stride))

/-- RETS (for a stack) or RETP (for a port) of the engine's inbound channel (R172). -/
def retField (c : Core) (e : Nat) (remote : Bool) : Nat :=
  match chanOfMode c (3 + e) with | some (_, x) => dB x (if remote then 3 else 2) 1 | none => 0

/-- The request flit of a block that reaches edge memory or a remote window, and the rows that it awaits (R216, R342). -/
def blkRequest (c : Core) (e mlc : Nat) (tag : Word) (d : OpDesc) : Option (Row × Nat) :=
  let rows := ceilDiv (bkSrcBytes d) 64 * bkRuns d
  match bkSpace d 0, bkSpace d 8 with
  | 0, 0 => none
  | 0, 1 => some (requestFlit 2 0 (retField c e false) tag (bkAddr d 8) (bkDstBytes d) (bkRuns d) mlc (bkDs d), 1)
  | 0, _ => some (requestFlit 0x12 0 (retField c e true) tag (dB d 8 8) (bkDstBytes d) (bkRuns d) mlc (bkDs d), 1)
  | 1, _ =>
    if bkTr d then some (requestFlit 3 (bkSfmt d) (retField c e false) tag (bkAddr d 0) 64 (bkRuns d) mlc (bkSs d), bkRuns d)
    else some (requestFlit 1 0 (retField c e false) tag (bkAddr d 0) (bkSrcBytes d) (bkRuns d) mlc (bkSs d), rows)
  | _, _ => some (requestFlit 0x11 0 (retField c e true) tag (dB d 0 8) (bkSrcBytes d) (bkRuns d) mlc (bkSs d), rows)

/-- A block that passed its checks starts (R225, R606). -/
def startBlock (k e : Nat) (l : SList) (d : OpDesc) (s : Mach) : Mach :=
  let no := l.blocks
  let b : Blk := { no := no, desc := d, run := 0, src := [], conv := 0, dst := [], wrote := 0, read := 0,
                   turn := turnNow s + 1, ready := false }
  modCore k (fun c =>
    let c1 := modList e (fun l => { l with blocks := no + 1, last := bkLast d, inflight := l.inflight ++ [b] }) c
    match blkRequest c e (mlcOf s k) (fld l.q.d 64 32 + BitVec.ofNat 32 no) d with
    | some (f, n) => seSend e ⟨no, f, n⟩ c1
    | none => c1) s

/-- The engine has sent the last RREAD of a block that reads a window, as far as the rows that it still awaits and the requests
that its port holds tell (R353). -/
def readsSent (s : Mach) (k e : Nat) (l : SList) (b : Blk) : Bool :=
  let tag := fld l.q.d 64 32 + BitVec.ofNat 32 b.no
  match s.rmt.reads.find? (fun r => r.stag == tag && r.mlc == mlcOf s k) with
  | some r => r.msgs.all (fun m => m.issued.isSome)
  | none => (seAt (coreAt s k) e).await.any (fun a => a.blk == some b.no &&
      decide (a.rows < ceilDiv (bkSrcBytes b.desc) 64 * bkRuns b.desc))

/-- An ORD block that reaches a window waits until every earlier block of its list that reaches one has sent its last message: a
read its last RREAD, and a write whose reply has come its last RWRITE (R344, R353; DEDUCED, log entry 31). -/
def ordWaits (s : Mach) (k e : Nat) (l : SList) (d : OpDesc) : Bool :=
  bkOrd d && (bkSpace d 0 == 2 || bkSpace d 8 == 2) &&
    l.inflight.any (fun b => (bkSpace b.desc 0 == 2 && !readsSent s k e l b) || (bkSpace b.desc 8 == 2 && !b.ready))

/-- An engine fetches its next block descriptor. Where no block is at fault, a link or a list that ends wrongly among them, the record of
the error names the number that the next block would have (R232, R233; DESIGN CHOICE, log entry 31). -/
def blockFetch (k e : Nat) (s : Mach) : Mach :=
  let c := coreAt s k
  match (seAt c e).list with
  | none => s
  | some l =>
    if l.last || decide (4 ≤ l.inflight.length) then s
    else if dB l.q.d 16 2 ≤ l.fetched then seStop k e l.blocks 6 s
    else if 0x10000 < l.next + 32 then seStop k e l.blocks 5 s
    else
      let x := readNarrow (dmaSlot c) l.next 32
      let s1 := logErrs k 4 x.2 (modCore k dmaSlot s)
      let d : OpDesc := BitVec.ofNat 256 x.1
      let adv (nx : Nat) := modCore k (modList e (fun l => { l with fetched := l.fetched + 1, next := nx })) s1
      if anyUe x.2 then seStop k e l.blocks 7 (adv l.next)
      else if bkRuns d = 0 then
        if x.1 < 2 ^ 16 ∧ x.1 % 32 = 0 then adv x.1 else seStop k e l.blocks 5 (adv l.next)
      else if blockOk d then (if ordWaits s k e l d then s else startBlock k e l d (adv (l.next + 32)))
      else seStop k e l.blocks 5 (adv l.next)

def execBlockDescriptorFetch (id : CoreId) (se : Fin 2) (s : State) : Res := run (whenActive (blockFetch id.key se.val)) s

/-! ### Rows and replies (R231, R219, R234) -/

/-- Bytes of the run that the next answer row of a block carries. -/
def rowTake (b : Blk) : Nat := min 64 (bkSrcBytes b.desc - b.src.length)

/-- A flit reaches the engine from its inbound stream channel. -/
def seRow (k e : Nat) (row : Row) (poison rej : Bool) (s : Mach) : Mach :=
  let c := coreAt s k
  let t := seAt c e
  match t.await with
  | [] => routerFault k 1 s
  | a :: rest =>
    let s1 := modCore k (modSe e (fun t => { t with await :=
      if a.rows ≤ 1 then rest else { a with rows := a.rows - 1 } :: rest })) s
    match a.blk, t.list with
    | some no, some l =>
      match l.inflight.find? (fun b => b.no == no) with
      | none => s1
      | some b =>
        if rej then seStop k e no (dB row 0 1) s1
        else if poison then seStop k e no 1 s1
        else if bkSpace b.desc 0 = 0 then modCore k (modBlk e no (fun b => { b with ready := true })) s1
        else seTake k e (fld l.q.d 64 32 + BitVec.ofNat 32 no) b ((toBytes 64 row.toNat).take (rowTake b)) s1
    | _, _ => s1

/-- A flit comes to an inbound stream channel; while a section switch runs it is discarded and counted (R177). -/
def streamFlit (k e : Nat) (row : Row) (poison rej : Bool) (s : Mach) : Mach :=
  if s.sec.switch.isSome then dropFlits k 1 s else seRow k e row poison rej s

def execStreamInboundFlit (id : CoreId) (se : Fin 2) (row : Row) (poison rej : Bool) (s : State) : Res :=
  run (streamFlit id.key se.val row poison rej) s

/-! ### Completion (R223, R230, R232) -/

/-- The block that completes next: the first whose work is done and whose ORD allows it. -/
def nextDone (l : SList) : Option Blk :=
  match l.inflight with
  | [] => none
  | b :: t => if b.ready then some b else t.find? (fun x => x.ready && !bkOrd x.desc)

/-- A block completes; with the last one the SLIST does. -/
def endBlock (k e : Nat) (b : Blk) (s : Mach) : Mach :=
  let s1 := if bkAct b.desc = 1 then seRecord k e b.no 0 s else s
  modCore k (fun c =>
    let c1 := modList e (fun l => { l with inflight := l.inflight.filter (fun x => x.no != b.no) }) c
    match (seAt c1 e).list with
    | some l => if l.last && l.inflight.isEmpty then countDone (2 + e) (modSe e (fun t => { t with list := none }) c1) else c1
    | none => c1) s1

/-- The engine's slots have still to serve rows of the block that completes next: it has rows to write, or, where no block is done,
a block with a local source and a local destination has rows to read (R230, R606). -/
def blockBusy (e : Nat) (c : Core) : Bool :=
  let t := seAt c e
  match t.list with
  | none => false
  | some l =>
    match nextDone l with
    | some b => t.wait.any (fun w => w.by_ == b.no)
    | none => l.inflight.any (fun b => bkSpace b.desc 0 == 0 && bkSpace b.desc 8 == 0)

/-- The block that completes next does, once its last row is written (R230). -/
def blockComplete (k e : Nat) (s : Mach) : Mach :=
  let c := coreAt s k
  match (seAt c e).list.bind nextDone with
  | none => s
  | some b => if blockBusy e c then s else endBlock k e b s

/-! ### TCOPY (R235) -/

/-- The eight bytes of a tracker (R235). -/
def trackerBytes (t : Tracker) : List Byte := bytesOf t.maxabs ++ bytesOf t.nan ++ bytesOf t.sat

def tcopyStart (k e : Nat) (s : Mach) : Mach :=
  let c := coreAt s k
  match queueHead c (2 + e) with
  | some q =>
    if mayStream s && seIdle c e && dB q.d 0 1 == 0x41 then
      let snap := (dieAt s (dieOf k)).trk.snap
      let bs := (List.range (dB q.d 10 2)).flatMap (fun t => trackerBytes (tget Tracker.reset snap (dB q.d 8 1 + t)))
      modCore k (fun c => modSe e (fun t => { t with
        tcopy := some ⟨q, tick s + 16 * ceilDiv (ceilDiv (dB q.d 10 2) 8) 16 + 16⟩
        wait := t.wait ++ (pieces (dB q.d 4 4) bs).map (fun p => ⟨0, p, turnNow s + 1, false⟩) }) (popQueue (2 + e) c)) s
    else s
  | none => s

def execTcopyStart (id : CoreId) (se : Fin 2) (s : State) : Res := run (whenActive (tcopyStart id.key se.val)) s

/-- A TCOPY completes, once its last row is written. -/
def tcopyComplete (k e : Nat) (s : Mach) : Mach :=
  let t := seAt (coreAt s k) e
  match t.tcopy with
  | none => s
  | some _ => if t.wait.isEmpty then modCore k (fun c => countDone (2 + e) (modSe e (fun t => { t with tcopy := none }) c)) s else s

/-! ### A flit at a router (R183, R190 to R194) -/

/-- The local output hands a flit to an inbound channel (R186, R231). -/
def localOut (k : Nat) (scalar : Bool) (e : BitVec 16) (f : NetFlit) (s : Mach) : Mach :=
  let ch := xChan e
  match chMode (tget 0 (coreAt s k).rt.chans ch) with
  | 1 => deliver k ch scalar f.row s
  | 3 => if (chanOfMode (coreAt s k) 3).map (·.1) = some ch then seRow k 0 f.row f.poison f.rej s else s
  | 4 => if (chanOfMode (coreAt s k) 4).map (·.1) = some ch then seRow k 1 f.row f.poison f.rej s else s
  | _ => s

/-- An output of a router carries what its crossbar entry chooses from the inputs (R183). -/
def switchOut (k : Nat) (scalar : Bool) (phase output : Nat) (x : Inputs) (s : Mach) : Mach :=
  let e := xbarEntry (coreAt s k) scalar output phase
  let o := switched s k e x
  let s1 := if o.2 then routerFault k 3 s else s
  match o.1 with
  | none => s1
  | some f => if output = 4 then localOut k scalar e f s1 else sendOn k output phase scalar f s1

/-- A router switches what its inputs carry in a phase to all its outputs (R183). -/
def switchAll (k : Nat) (scalar : Bool) (phase : Nat) (x : Inputs) (s : Mach) : Mach :=
  iter 5 (fun o s => switchOut k scalar phase o x s) s

end Sys2Proof.Machine
end

