-- ==== Sys2Proof/Machine/CmdOps.lean ====
section
/-! DEFINITION. How a host command starts: its descriptor, the order of its ring, its header, and the round that it
names (18_host_link_and_commands.md). -/

namespace Sys2Proof.Machine

/-- Field of a command descriptor: n bytes from byte `off`. -/
def cB (d : Desc) (off n : Nat) : Nat := (d.extractLsb' (8 * off) (8 * n)).toNat

/-- CQ_CFG.VER: 2 for version 2, otherwise 1 (R581). -/
def ringVer (r : Ring) : Nat := if r.ver = 2 then 2 else 1

/-- The command that starts next on a ring, if its descriptor is `d` (R566): commands start in ring order, and one with
BARRIER set only after every earlier one has ended. -/
def cmdFind (s : Mach) (q : Nat) (d : Desc) : Option RunCmd :=
  let r := ringAt s q
  match r.cmds.find? (fun c => !c.started) with
  | some c => if c.desc = d ∧ (bit d 9 → (r.cmds.head?.map (·.tok)) = some c.tok) then some c else none
  | none => none

/-- FLAGS and the reserved header bytes are valid (R567). -/
def headerOk (d : Desc) : Bool := decide (cB d 1 1 < 4) && cB d 4 4 == 0

/-- Every body byte outside the named ranges is zero (R567). -/
def bodyOk (d : Desc) (named : List (Nat × Nat)) : Bool :=
  (List.range 56).all (fun i => named.any (fun r => decide (r.1 ≤ 8 + i ∧ 8 + i < r.1 + r.2)) || cB d (8 + i) 1 == 0)

/-- A command starts: its checks of R567, R571 and then what it does. -/
def startCmd (q : Nat) (d : Desc) (mine : Bool) (named : List (Nat × Nat)) (go : Owed → Mach → Mach) (s : Mach) : Mach :=
  match cmdFind s q d with
  | none => s
  | some c =>
    if !mine then s
    else
      let o : Owed := ⟨q, c.tok⟩
      let s1 := modRing q (fun r => { r with cmds := r.cmds.map (fun x =>
        if x.tok == c.tok then { x with started := true } else x) }) s
      if !(headerOk d && bodyOk d named) then complete o 0x02 0 s1
      else if s.start.state ≠ 7 then complete o 0x03 0 s1
      else go o s1

/-- The version of a command: that of its ring when it was accepted (R561, R569). -/
def cmdVer (s : Mach) (o : Owed) : Nat :=
  match (ringAt s o.ring).cmds.find? (fun c => c.tok == o.tok) with | some c => c.ver | none => 1

/-- What awaits an instant is kept in the order of acceptance across the rings (R566). -/
def insertBy {α : Type} (tok : α → Nat) (x : α) : List α → List α
  | [] => [x]
  | a :: t => if tok x < tok a then x :: a :: t else a :: insertBy tok x t

/-- A ROUND field of 6 bytes of a command of a version (R569): none when its reserved bytes are nonzero in version 1. -/
def cmdRound (s : Mach) (ver : Nat) (d : Desc) (off : Nat) : Option (BitVec 48) :=
  if ver = 2 then some (BitVec.ofNat 48 (cB d off 6))
  else if cB d (off + 4) 2 ≠ 0 then none
  else
    let now := (roundNow s).toNat
    let base := now / 2 ^ 32 * 2 ^ 32 + cB d off 4
    some (BitVec.ofNat 48 (if base < now then base + 2 ^ 32 else base))

/-- The round has started at the module. -/
def roundStarted (s : Mach) (m : BitVec 48) : Bool :=
  match s.rnd.cur with | some r => decide (m.toNat ≤ r.num.toNat) | none => false

/-- Changes take effect at once: RND_CTRL.EN is 0 or the module holds (R451, R570). -/
def atOnce (s : Mach) : Bool := !s.rnd.en || s.rnd.hold

/-! ### Keep slots (R446, R540) -/

def slotOf (k : Keep) (b : Bool) : Slot := if b then k.slotB else k.slotA
def setSlot (b : Bool) (x : Slot) (k : Keep) : Keep := if b then { k with slotB := x } else { k with slotA := x }

/-- DETAIL of a SLOT record (R540): kind 0 open, 1 commit, 2 revoke. -/
def slotDetail (kind : Nat) (slot : Bool) (step : Word) (id : BitVec 16) (serial : BitVec 64) : List Byte :=
  toBytes 1 kind ++ toBytes 1 (if slot then 1 else 0) ++ bytesOf step ++ bytesOf id ++ bytesOf serial

/-- A SLOT record is written. -/
def slotEvent (kind : Nat) (slot : Bool) (step : Word) (id : BitVec 16) (serial : BitVec 64) : Mach → Mach :=
  logModule 0x50 0 (slotDetail kind slot step id serial)

/-- A valid slot becomes invalid for good: a revoke record follows its commit record (R371, R446, R454). -/
def revokeSlot (b : Bool) (s : Mach) : Mach :=
  let x := slotOf s.keep b
  if x.valid then slotEvent 2 b x.step x.id x.serial (modKeep (setSlot b { x with valid := false }) s) else s

/-! ### Holding (R59, R450) -/

/-- RND_EVT bit b rises (R84, R578). -/
def rndEvt (b : Nat) (s : Mach) : Mach := raiseIrq 3 (noteRaise 0x4028 b (modRnd (fun r => { r with evt := setBit r.evt b }) s))

/-- RND_STRAG_ID (R86). -/
def stragWord (r : Rnd) : Word := (0 : BitVec 15) ++ b1 r.stragValid ++ r.stragId

/-- A ROUND record (R540). -/
def roundRecord (flags : Nat) (s : Mach) : Mach :=
  let r := s.rnd
  logModule 0x30 flags (toBytes 4 r.evt.toNat ++ bytesOf r.marginMin ++ toBytes 4 r.marginCore.toNat ++
    bytesOf (stragWord r)) s

/-! ### The end of a round (R62, R132) -/

/-- A core that takes no part: marked dead (R63), or on a die without power (R468). -/
def coreOff (s : Mach) (k : Nat) : Bool := dead s k || !(dpwAt s (dieOf k)).on

/-- The core holds back the round start (R63): it runs a program, and it has not signalled done. -/
def lateCore (s : Mach) (k : Nat) : Bool :=
  let c := coreAt s k
  running c && !c.p.done && !c.p.halted && present s k && !coreOff s k

/-- The smallest finish margin of the round in force, and the lowest mlc that has it (R62): none when no core took part. A core that
still runs when the round ends without a start behind it has a margin of 0 (DESIGN CHOICE, log entry 39). -/
def smallest (s : Mach) : Option (Int × Nat) :=
  (presentCores s).foldl (fun best k =>
    let c := coreAt s k
    let m := if c.p.done then marginOf s c else 0
    if !c.p.done && !lateCore s k then best
    else
      match best with
      | some b => if m < b.1 then some (m, mlcOf s k) else best
      | none => some (m, mlcOf s k)) none

/-- The stewards record the margins of the round, for the next telemetry sample (R62, R533). -/
def noteMargins (s : Mach) : Mach :=
  (presentCores s).foldl (fun t k => modCore k (fun c =>
    if c.p.done then { c with telMargin := minMargin c.telMargin (int32 (marginOf s c)) } else c) t) s

/-- RND_MARGIN and RND_MARGIN_CORE are latched (R62, R85): the lateness of a late round, or else the smallest margin, which is
the whole round where no core took part. -/
def latchMargin (late : Option Nat) (s : Mach) : Mach :=
  let whole : Int := match s.rnd.cur with | some r => ((r.period.toNat + r.stretch.toNat) * 1100 : Nat) | none => 0
  let least := (smallest s).getD (whole, 0)
  let margin : Int := match late with | some n => -(n : Int) | none => least.1
  noteMargins (modRnd (fun r => { r with marginMin := int32 margin, marginCore := BitVec.ofNat 15 least.2 }) s)

/-- Handlers that still run after a class U fault stop at the round's scheduled end, with a margin of 0 (R132). -/
def stopHandlers (s : Mach) : Mach :=
  ((s.cores.map (·.1)).filter (fun k => running (coreAt s k) && (coreAt s k).p.uPending && !(coreAt s k).p.done)).foldl
    (fun s k => modCore k (fun c => { c with p := { c.p with doneAt := roundEnd s } }) (endProgram false k s)) s

/-- The count of the module grows by n: every die is matched (R476). -/
def addStretch (n : Nat) (s : Mach) : Mach :=
  if n = 0 then s
  else modRnd (fun r => { r with varRun := { r.varRun with stretch := satAdd r.varRun.stretch (144 * n) } })
    (iter 144 (fun d s =>
      modDie d (fun x => { x with stw := { x.stw with shStr := satAdd x.stw.shStr n } })
        (modDpw d (fun x => { x with strcnt := satAdd x.strcnt n }) s)) s)

/-- Some die stretches (R475): the module does (R476). -/
def stretching (s : Mach) : Bool := s.dpw.any (fun e => e.2.stretching)

/-- What has passed of the stretch that runs is counted, half of its reference cycles (R73, R475, R476; DEDUCED, log entry 38); it is over
once no die stretches. Two dies that stretch at once are counted once. -/
def settleStretch (s : Mach) : Mach :=
  match s.fab.since with
  | none => s
  | some t =>
    let n := (s.now - t) / 2
    let s1 := addStretch n s
    { s1 with fab := { s1.fab with lost := s1.fab.lost + n, since := if stretching s then some (t + 2 * n) else none } }

/-- The stretch of the module begins with that of its first die. -/
def beginStretch (s : Mach) : Mach :=
  if s.fab.since.isNone && stretching s then { s with fab := { s.fab with since := some s.now } } else s

/-- The margin and the counts of the round in force are final, though no start has followed (R62, R73). -/
def endCounts (late : Option Nat) (s : Mach) : Mach :=
  modRnd (fun r => { r with ended := some r.varRun, varRun := .reset }) (latchMargin late s)

/-- What the clock brings about at the scheduled end of the round in force: handlers stop, and where no start follows, because
the module holds or EN is 0, the round's margin and counts are final (R62, R73). -/
def roundEnds (s : Mach) : Mach :=
  if !pastEnd s then s
  else
    let s1 := stopHandlers s
    if (s1.rnd.hold || !s1.rnd.en) && s1.rnd.ended.isNone then endCounts none (settleStretch s1)
    else s1

/-- The module enters hold: no round starts any more; the RESTART_HOLD commands that await it end (R59, R450). -/
def enterHold (s : Mach) : Mach :=
  if s.rnd.hold then s
  else
    let first := ((((s.rnd.withheld ++ s.rnd.sched).head?).map (fun r => r.num.toNat)).or
      (s.rnd.nextEmit.map (fun n => n.num.toNat))).getD ((roundNow s).toNat + 1)
    let cmds := s.keep.holdCmds
    let s1 := modKeep (fun k => { k with holdNext := false, holdCmds := [] })
      (modRnd (fun r => { r with hold := true, heldAt := first, sched := [], withheld := [], nextEmit := none }) s)
    roundEnds (cmds.foldl (fun s o => complete o 0x00 first s) (roundRecord 0 (rndEvt 5 s1)))

end Sys2Proof.Machine
end

