-- ==== Sys2Proof/Machine/Vector.lean ====
section
/-! DEFINITION. The vector unit (R120 to R123, R147 to R154) and TRK_CTRL.CLR_ALL (R155, R163). -/

namespace Sys2Proof.Machine

/-- The bytes of one operand of a VOP: 32 elements of its format a group (R120). -/
def operandBytes (fmt g : Nat) : Nat := g * 4 * fmtBits fmt

/-- Element i of group g of an operand. -/
def operandElem (fmt : Nat) (bs : List Byte) (g i : Nat) : FVal :=
  decodeElem fmt (numAt bs (g * 4 * fmtBits fmt) (4 * fmtBits fmt) / 2 ^ (fmtBits fmt * i) % 2 ^ fmtBits fmt)

/-- An exact number with an odd numerator. -/
def normDy (d : Dy) : Dy :=
  if d.num = 0 then ⟨0, 0⟩
  else
    let p := Nat.gcd d.num.natAbs (2 ^ Nat.log2 d.num.natAbs)
    ⟨d.num / (p : Int), d.exp + (Nat.log2 p : Int)⟩

/-- 2^k as FP32, for k from -149 to 127. -/
def pow2Word (k : Int) : Word := rne32 (.fin false 1 k)

/-- R122: a value within 1 ulp of the exact FP32 result `w`, which `pick` selects: `w` itself or a neighbour of it (log entry 6).
An infinity is returned as it is, and no finite result becomes one. -/
def nearUlp (w pick : Word) : Word :=
  let mag := (fld w 0 31 : BitVec 31).toNat
  if 0x7F800000 ≤ mag then w
  else
    let m := match pick.toNat % 3 with | 0 => mag | 1 => mag - 1 | _ => min (mag + 1) 0x7F7FFFFF
    b1 (bit w 31) ++ BitVec.ofNat 31 m

/-- The integer part of an exact number times 2^p. -/
def Dy.floorAt (p : Nat) (d : Dy) : Int :=
  if 0 ≤ d.exp + p then d.num * (p2 (d.exp + p) : Int) else d.num / (p2 (-(d.exp + p)) : Int)

/-- 2 to the power of an exact number below 128, as FP32: the integer part by the exponent, the fraction by the series of
e^(f ln 2) in 96 bits; a result above the FP32 maximum is +∞ (R153). -/
def exp2Near (t : Dy) : Word :=
  if Dy.lt t ⟨-200, 0⟩ then 0
  else
    let x := t.floorAt 96
    let z := (x % 2 ^ 96).toNat * 54916777467707473351141471128 / 2 ^ 96
    let y : Nat := (List.range 30).reverse.foldl (fun acc k => 2 ^ 96 + z * acc / ((k + 1) * 2 ^ 96)) (2 ^ 96)
    if x / 2 ^ 96 = 127 ∧ (2 ^ 24 - 1) * 2 ^ 73 < y then 0x7F800000 else rne32 (Dy.toF false ⟨(y : Int), x / 2 ^ 96 - 96⟩)

/-- The binary logarithm of m * 2^e, as FP32: the bits of the fraction come from repeated squaring in 128 bits. -/
def log2Near (m : Nat) (e : Int) : Word :=
  let g := Nat.log2 m
  let x := (List.range 100).foldl (fun (a : Nat × Nat) _ =>
    let q := a.1 * a.1 / 2 ^ 128
    if 2 ^ 129 ≤ q then (q / 2, 2 * a.2 + 1) else (q, 2 * a.2)) (m * 2 ^ 128 / 2 ^ g, 0)
  rne32 (Dy.toF false ⟨(e + (g : Int)) * 2 ^ 100 + (x.2 : Int), -100⟩)

/-- The reciprocal of a number m * 2^e as FP32. -/
def rcpNear (n : Bool) (m : Nat) (e : Int) : Word :=
  rne32 (.fin n (2 * (2 ^ 80 / m) + (if 2 ^ 80 % m = 0 then 0 else 1)) (-e - 81))

/-- The reciprocal square root of a positive m * 2^e as FP32. -/
def rsqrtNear (m : Nat) (e : Int) : Word :=
  let a : Nat × Int := if e % 2 = 0 then (m, e) else (2 * m, e - 1)
  let q := 2 ^ 160 / a.1
  let r := isqrt q 82 0
  rne32 (.fin false (2 * r + (if r * r = q ∧ 2 ^ 160 % a.1 = 0 then 0 else 1)) (-(a.2 / 2) - 81))

/-- EXP2 (R122, R153). -/
def exp2Of (t : FVal) : FVal :=
  match t with
  | .nan => .nan
  | .inf true => .fin false 0 0
  | .inf false => .inf false
  | .fin n m e =>
    let d := normDy (FVal.fin n m e).dy
    if Dy.le ⟨128, 0⟩ d then .inf false
    else if 0 ≤ d.exp ∧ -149 ≤ d.num * (p2 d.exp : Int) then f32 (pow2Word (d.num * (p2 d.exp : Int)))
    else f32 (nearUlp (exp2Near d) (Config.exp2 d.num d.exp))

/-- LOG2 (R122, R153). -/
def log2Of (x : FVal) : FVal :=
  match x with
  | .nan => .nan
  | .inf true => .nan
  | .inf false => .inf false
  | .fin n m e =>
    if m = 0 then .inf true
    else if n then .nan
    else
      let d := normDy ⟨(m : Int), e⟩
      if d.num = 1 then Dy.toF false ⟨d.exp, 0⟩ else f32 (nearUlp (log2Near m e) (Config.log2 (rne32 x)))

/-- RCP (R122, R153). -/
def rcpOf (x : FVal) : FVal :=
  match x with
  | .nan => .nan
  | .inf n => .fin n 0 0
  | .fin n m e =>
    if m = 0 then .inf n
    else
      let d := normDy ⟨(m : Int), e⟩
      if d.num = 1 ∧ -149 ≤ -d.exp ∧ -d.exp ≤ 127 then .fin n 1 (-d.exp) else f32 (nearUlp (rcpNear n m e) (Config.rcp (rne32 x)))

/-- RSQRT (R122, R153). -/
def rsqrtOf (x : FVal) : FVal :=
  match x with
  | .nan => .nan
  | .inf n => if n then .nan else .fin false 0 0
  | .fin n m e =>
    if m = 0 then .inf n
    else if n then .nan
    else
      let d := normDy ⟨(m : Int), e⟩
      if d.num = 1 ∧ d.exp % 2 = 0 then .fin false 1 (-(d.exp / 2)) else f32 (nearUlp (rsqrtNear m e) (Config.rsqrt (rne32 x)))

/-- The value of an element-wise function before its conversion to FMTD (R121): CVT stays exact, every other result is
an FP32 number. -/
def vfunc (func : Nat) (a b k : FVal) : FVal :=
  match func with
  | 0x0 => f32 (rne32 (a.add b))
  | 0x1 => f32 (rne32 (a.add b.negate))
  | 0x2 => f32 (rne32 (a.mul b))
  | 0x3 => f32 (rne32 ((a.mul b).add k))
  | 0x4 => f32 (rne32 ((a.mul k).add b))
  | 0x5 => fmax a b
  | 0x6 => fmin a b
  | 0x7 => a.abs
  | 0x8 => a.negate
  | 0x9 => exp2Of (a.mul k)
  | 0xA => log2Of a
  | 0xB => rcpOf a
  | 0xC => rsqrtOf a
  | 0xD => if b.less a && !(a.isZero && b.isZero) then .fin false 1 0 else .fin false 0 0
  | _ => a.mul k

/-- One level of the fixed tree of RSUM (R122). -/
def sumPairs : List Word → List Word
  | a :: b :: t => fadd a b :: sumPairs t
  | l => l

/-- RSUM: five levels over 32 elements (R122). -/
def rsum (xs : List FVal) : Word :=
  (sumPairs (sumPairs (sumPairs (sumPairs (sumPairs (xs.map rne32)))))).headD 0

/-- RMAX (R121, R153). -/
def rmax (xs : List FVal) : FVal :=
  match xs with
  | [] => .nan
  | x :: t => t.foldl fmax x

/-- Cycles of a function for each group (R121). -/
def funcCost (func : Nat) : Nat := if 9 ≤ func ∧ func ≤ 12 then 2 else 1

/-- The VOP reads operand B from memory (R120). -/
def vopUsesB (d : OpDesc) : Bool := takesB (dB d 4 1) && !bit d 8

/-- Bytes of the memory operands of a VOP. -/
def vopBytesA (d : OpDesc) : Nat := operandBytes (dB d 22 1 % 16) (dB d 20 2)
def vopBytesB (d : OpDesc) : Nat := if vopUsesB d then operandBytes (dB d 22 1 / 16) (dB d 20 2) else 0

/-- Each distinct wide row that a VOP reads, those of A first (R123). -/
def vopRows (d : OpDesc) : List Nat :=
  let ra := rowsOf (dB d 8 4) (vopBytesA d)
  ra ++ (rowsOf (dB d 12 4) (vopBytesB d)).filter (fun r => !ra.contains r)

/-- RSUM and RMAX. -/
def vopReduces (d : OpDesc) : Bool := dB d 4 1 == 0xF || dB d 4 1 == 0x10

/-- Bytes that a VOP writes (R120, R122). -/
def vopBytesD (d : OpDesc) : Nat :=
  let g := dB d 20 2
  if vopReduces d then 8 * ceilDiv g 2 else operandBytes (dB d 23 1) g

/-- The fabric cycle at which a VOP completes whose rows find their banks free (R123). -/
def vopEnds (d : OpDesc) (now : Nat) : Nat :=
  now + max (dB d 20 2 * funcCost (dB d 4 1)) (16 * ceilDiv ((vopRows d).length + (rowsOf (dB d 16 4) (vopBytesD d)).length) 48) + 12

def vopStart (k : Nat) (s : Mach) : Mach :=
  let c := coreAt s k
  match queueHead c 1 with
  | none => s
  | some q =>
    if c.vop.isSome then s
    else modCore k (fun c =>
      { popQueue 1 c with vop := some { q := q, ends := vopEnds q.d (tick s), left := vopRows q.d, got := [], out := none } }) s

/-- The bytes of an operand among the rows read. -/
def vopOperand (v : VopRun) (a n : Nat) : List Byte :=
  bytesFrom ((rowsOf a n).map (fun r => ((v.got.find? (fun e => e.1 == r)).map (·.2)).getD 0)) a n

/-- The results of a VOP before their conversion, in the order of their elements (R121, R122). -/
def vopResults (v : VopRun) : List FVal :=
  let d := v.q.d
  let func := dB d 4 1
  let g := dB d 20 2
  let xa := vopOperand v (dB d 8 4) (vopBytesA d)
  let xb := vopOperand v (dB d 12 4) (vopBytesB d)
  let kv := f32 (fld d 224 32)
  let aElem (gi i : Nat) := operandElem (dB d 22 1 % 16) xa gi i
  let bElem (gi i : Nat) := if vopUsesB d then operandElem (dB d 22 1 / 16) xb gi i else kv
  if vopReduces d then (List.range g).map (fun gi =>
    let es := (List.range 32).map (aElem gi)
    if func == 0xF then f32 (rsum es) else rmax es)
  else (List.range (32 * g)).map (fun e => vfunc func (aElem (e / 32) (e % 32)) (bElem (e / 32) (e % 32)) kv)

/-- The rows are read: the results are converted, presented to the tracker, and wait to be written (R120, R122, R154). -/
def vopConvert (k : Nat) (v : VopRun) (s : Mach) : VopRun × Mach :=
  let d := v.q.d
  let code := dB d 23 1
  let xs := vopResults v
  let cs := (xs.zipIdx).map (fun e =>
    convElem code (dB d 24 1) (draw s (BitVec.ofNat 32 (dB d 2 2)) (BitVec.ofNat 32 e.2) 0) e.1)
  let ws := cs.map (fun e => e.1)
  let bytes := packElems (fmtBits code) (if vopReduces d && dB d 20 2 % 2 == 1 then ws ++ [0] else ws)
  ({ v with out := some (pieces (dB d 16 4) bytes) },
   if bit d 9 then trackAll (dieOf k) (dB d 25 1) code ((xs.zip cs).map (fun e => (e.1, e.2.2))) s else s)

/-- The vector unit reads rows of its operands, and converts once the last is read. Every read of a VOP comes before its first
write (DESIGN CHOICE, log entry 53). -/
def vopRead (k : Nat) (v : VopRun) (rows : List Nat) (go : VopRun → Mach → Mach) (s : Mach) : Mach :=
  let x := readRows (coreAt s k) rows
  afterRead k 1 3 v.q.pc x (fun s =>
    let v1 := { v with left := v.left.drop rows.length, got := v.got ++ rows.zip x.rows }
    if v1.left.isEmpty && v1.out.isNone then
      let r := vopConvert k v1 s
      go r.1 r.2
    else go v1 s) s

/-- A VOP has made all its accesses. -/
def VopRun.allDone (v : VopRun) : Bool := v.left.isEmpty && v.out == some []

/-- A VOP completes, once its last row is written. -/
def vopComplete (k : Nat) (s : Mach) : Mach :=
  match (coreAt s k).vop with
  | none => s
  | some v => if v.allDone then modCore k (fun c => countDone 1 { c with vop := none }) s else s

/-- A write of TRK_CTRL (R163): CLR_ALL clears the live trackers, of which the updates of this reference cycle are not yet part (R155). -/
def trkCtrl (now : Nat) (v : Word) (d : Die) : Die :=
  let x := d.trk.settle now
  { d with trk := { x with perRound := bit v 0, live := if bit v 1 then [] else x.live } }

def execTrkClrAll (die : Fin 144) (v : Word) (s : State) : Res :=
  runAccess (0x405000 + 0x10000 * die.val) (fun m => modDie die.val (trkCtrl m.now v) m) s

end Sys2Proof.Machine
end

