-- ==== Sys2Proof/Machine/Wheel.lean ====
section
/-! DEFINITION. The slot wheel and the fabric as time passes, and the clock; then the commands of the engines and the routers,
which happen at their place in the wheel (03_core.md, 05_sections_and_fabric.md: R96 to R106, R112 to R123, R183 to R187,
R194). -/

namespace Sys2Proof.Machine

/-! ### The W slot (R96, R97, R99, R100, R187, R196) -/

/-- The waiting rows that one W slot takes from a user, in their order: in banks of their own that `used` does not name, of their
turn, and one of a conversion (R99, R227, R606). -/
def takeWaiting (turn : Nat) : List Nat → Nat → List WRow → List WRow
  | used, n + 1, w :: t =>
    if turn < w.turn ∨ used.contains (rowIndex w.piece.addr % 16) then []
    else w :: (if w.paced then [] else takeWaiting turn (rowIndex w.piece.addr % 16 :: used) n t)
  | _, _, _ => []

/-- The rows of pieces that wait. -/
def waitRows (ws : List WRow) : List Nat := ws.map (fun w => rowIndex w.piece.addr)

/-- The W slot of a turn at a core: the router first, then the stream engines, SE0 before SE1 (DESIGN CHOICE, log entry 53). -/
def wSlot (k turn : Nat) (s : Mach) : Mach :=
  let c := coreAt s k
  let r := takeWaiting turn [] 16 c.rt.wait
  let a := takeWaiting turn (banksOf (waitRows r)) 16 c.se0.wait
  let b := takeWaiting turn (banksOf (waitRows r ++ waitRows a)) 16 c.se1.wait
  let s1 := modCore k (fun c => { c with
    rt := { c.rt with
      wait := c.rt.wait.drop r.length
      wrote := (waitRows r).map (fun x => (x, false)) ++ (waitRows (a ++ b)).map (fun x => (x, true)) }
    se0 := { c.se0 with wait := c.se0.wait.drop a.length }
    se1 := { c.se1 with wait := c.se1.wait.drop b.length } }) s
  storeRows k 3 b (storeRows k 2 a (storeRows k 1 r s1))

/-! ### The M slot (R96, R98, R99, R102, R115, R254, R255) -/

/-- The hazard monitor looks at the rows that an M slot reads (R102). Of several pairs of one turn the first in the order of the slot's
reads is logged (DESIGN CHOICE, log entry 53). -/
def watch (rows : List Nat) (c : Core) : Core :=
  match rows.findSome? (fun r => c.rt.wrote.find? (fun e => e.1 == r)) with
  | some e => hazard e.2 e.1 c
  | none => c

/-- The monitor looks, and what it sets is noted (R587). -/
def watchRows (k : Nat) (rows : List Nat) (s : Mach) : Mach :=
  let c := coreAt s k
  let s1 := if c.r.hazEn && rows.any (fun r => c.rt.wrote.any (fun e => e.1 == r)) then noteRaise (coreReg k 0x20) 31 s else s
  modCore k (watch rows) s1

/-- Change the first element that a test picks. -/
def modFirst {α : Type} (p : α → Bool) (f : α → α) : List α → List α
  | [] => []
  | x :: t => if p x then f x :: t else x :: modFirst p f t

/-- The passes whose rows the engine reads: the one that is recomputed, or else those in progress. -/
def readingPasses (m : Matrix) : List Pass := match m.arb with | some a => [a.x] | none => m.passes

/-- Change the first of these passes that a test picks. -/
def modPass (p : Pass → Bool) (f : Pass → Pass) (m : Matrix) : Matrix :=
  match m.arb with
  | some a => { m with arb := some { a with x := if p a.x then f a.x else a.x } }
  | none => { m with passes := modFirst p f m.passes }

/-- The rows of an M slot are read, and enter the engine. -/
def mServe (k : Nat) (pc : Word) (rows : List Nat) (put : List Row → Matrix → Matrix) (s : Mach) : Mach :=
  if rows.isEmpty then s else mxRead k pc rows (fun xs => modCore k (modMx (put xs))) s

/-- A WLOAD that reads rows in a period ends no earlier than the period does (R112, R255). -/
def readLoad (ends : Nat) (f : Load → Load) (m : Matrix) : Matrix :=
  { m with loading := m.loading.map (fun l => f { l with ends := max l.ends ends }) }

/-- A pass that reads rows in a period ends no earlier than 40 cycles after it, with the periods that the tile makes it occupy (R115,
R256). -/
def Pass.until (ends : Nat) (p : Pass) : Pass := { p with ends := max p.ends (ends + 40) }

/-- The turn of activation rows: those of the oldest pass that has some left, from its start on in the turns in which it reads
(R256). -/
def mActs (k : Nat) (s : Mach) : Mach :=
  match (readingPasses (coreAt s k).mx).find? (fun p => !p.acts.left.isEmpty) with
  | none => s
  | some p =>
    let rows := takeRows [] (rowsPerTurn p) p.acts.left
    let ends := periodEnd s + 16 * (passPeriods p.tile - 1)
    if tick s < p.start ∨ (tick s - p.start) / 16 % passPeriods p.tile ≠ 0 then s
    else mServe k p.q.pc rows
      (fun xs => modPass (fun p => !p.acts.left.isEmpty) (fun p => { p.until ends with acts := p.acts.take xs }))
      (watchRows k rows s)

/-- The turns of weight-tile rows. -/
def mTile (k : Nat) (s : Mach) : Mach :=
  match (coreAt s k).mx.loading with
  | none => s
  | some l =>
    let rows := takeRows [] 16 l.tile.left
    mServe k l.q.pc rows (fun xs => readLoad (periodEnd s) (fun l => { l with tile := l.tile.take xs })) (watchRows k rows s)

/-- The fourth turn: weight scales, then activation scales, then metadata, which a WLOAD reads once it has its scales. -/
def mScales (k : Nat) (s : Mach) : Mach :=
  let l := (coreAt s k).mx.loading
  let ws := (l.map (fun l => takeRows [] 16 l.scales.left)).getD []
  let p := ((readingPasses (coreAt s k).mx).find? (fun p => !p.scales.left.isEmpty)).filter (fun p => decide (p.start ≤ tick s))
  let ps := (p.map (fun p => takeRows (banksOf ws) 16 p.scales.left)).getD []
  let ms := (l.map (fun l => if l.scales.left.isEmpty then takeRows (banksOf ps) 16 l.metas.left else [])).getD []
  let s1 := mServe k ((l.map (·.q.pc)).getD 0) ws
    (fun xs => readLoad (periodEnd s) (fun l => { l with scales := l.scales.take xs }))
    (watchRows k (ws ++ ps ++ ms) s)
  let s2 := mServe k ((p.map (·.q.pc)).getD 0) ps
    (modPass (fun p => !p.scales.left.isEmpty) ∘ fun xs p => { p.until (periodEnd s) with scales := p.scales.take xs }) s1
  match (coreAt s2 k).mx.loading with
  | none => s2
  | some l =>
    if ms.isEmpty then s2
    else metaRead k l ms (fun xs => modCore k (modMx (readLoad (periodEnd s) (fun l => { l with metas := l.metas.take xs })))) s2

def mSlot (k turn : Nat) (s : Mach) : Mach :=
  if bit (coreAt s k).stopped 0 then s
  else match turn % 4 with | 0 => mActs k s | 3 => mScales k s | _ => mTile k s

/-! ### The V slot (R96, R98, R99, R118, R123) -/

/-- The longest prefix of pieces in banks of their own that `used` does not name, at most n of them. -/
def takePieces (used : List Nat) (n : Nat) (ps : List Piece) : List Piece :=
  ps.take (takeRows used n (ps.map (fun p => rowIndex p.addr))).length

/-- A turn of the vector unit: rows that it reads, then rows that it writes. The VOP ends no earlier than 12 cycles after the period of
its last access (R123). -/
def vVector (k : Nat) (s : Mach) : Mach :=
  match (coreAt s k).vop with
  | none => s
  | some v0 =>
    let rows := takeRows [] 16 v0.left
    if v0.allDone then s
    else
      vopRead k v0 rows (fun v s =>
        let out := takePieces (banksOf rows) (16 - rows.length) (v.out.getD [])
        modCore k (fun c => { writePieces out c with vop := some { v with
          ends := max v.ends (periodEnd s + 12), out := v.out.map (fun l => l.drop out.length) } }) s) s

/-- The turn of the matrix result write-back: the AOUT ends no earlier than 24 cycles after the period of its last write (R118). -/
def vBack (k : Nat) (s : Mach) : Mach :=
  match (coreAt s k).mx.aout with
  | none => s
  | some a =>
    let n := (takeRows [] 16 (a.left.map (fun g => rowIndex ((g.head?.map (·.addr)).getD 0)))).length
    if n = 0 then s
    else modCore k (fun c => modMx (fun m => { m with aout := some { a with left := a.left.drop n, ends := max a.ends (periodEnd s + 24) } })
      (writePieces ((a.left.take n).flatMap id) c)) s

def vSlot (k turn : Nat) (s : Mach) : Mach :=
  let c := coreAt s k
  if turn % 4 = 3 then (if bit c.stopped 0 then s else vBack k s) else if bit c.stopped 1 then s else vVector k s

/-! ### The N slot (R96, R97, R99, R606) -/

/-- The N slot of a turn: the banks that the outbound channels took are taken, then SE0 reads, then SE1 (DESIGN CHOICE, log
entry 53). -/
def nSlot (k turn : Nat) (s : Mach) : Mach :=
  let c := coreAt s k
  let used := if c.rt.nTurn = turn then c.rt.nBanks else []
  let r := if bit c.stopped 2 then (used, s) else seReads k 0 turn 16 used s
  if bit (coreAt r.2 k).stopped 3 then r.2 else (seReads k 1 turn 16 r.1 r.2).2

/-! ### The networks (R183 to R186, R231) -/

/-- The flit that a core's own side gives to its router in a cycle: of an outbound timed channel, or on the vector network of a
stream engine. -/
def ownFlit (c : Core) (scalar : Bool) (cycle : Nat) : Option NetFlit :=
  match c.rt.sends.find? (fun x => x.scalar == scalar && x.phase == cycle % 4 && decide (x.turn ≤ cycle / 4)) with
  | some x => some ⟨x.row, false, false⟩
  | none =>
    if scalar then none
    else ([0, 1].findSome? (fun e => match chanOfMode c (5 + e) with
      | some (_, x) => if chPhase x = cycle % 4 then outNext (seAt c e) else none
      | none => none)).map (fun x => ⟨x.row, false, false⟩)

/-- That flit has left. -/
def ownSent (scalar : Bool) (cycle : Nat) (c : Core) : Core :=
  let due (x : Send) := x.scalar == scalar && x.phase == cycle % 4 && decide (x.turn ≤ cycle / 4)
  if c.rt.sends.any due then { c with rt := { c.rt with sends := c.rt.sends.eraseP due } }
  else if scalar then c
  else
    match [0, 1].find? (fun e => match chanOfMode c (5 + e) with
      | some (_, x) => chPhase x = cycle % 4 && (outNext (seAt c e)).isSome
      | none => false) with
    | some e => modSe e outSent c
    | none => c

/-- The flit that reaches an input of a router now. -/
def flightFlit (s : Mach) (k : Nat) (scalar : Bool) (i : Nat) : Option NetFlit :=
  (s.fab.flights.find? (fun f => f.left == 0 && f.core == k && f.scalar == scalar && f.input == i)).map (·.flit)

/-- What the inputs of a router carry now (R183, R184). -/
def inputsNow (s : Mach) (k : Nat) (scalar : Bool) : Inputs :=
  let at_ := flightFlit s k scalar
  { north := at_ 0, east := at_ 1, south := at_ 2, west := at_ 3, own := ownFlit (coreAt s k) scalar (cycleOf s) }

def inputsNone (x : Inputs) : Bool :=
  x.north.isNone && x.east.isNone && x.south.isNone && x.west.isNone && x.own.isNone

/-- A flight has come to a router. -/
def Flight.arrived (f : Flight) : Bool := f.left == 0 && decide (f.input < 4)

/-- A router has taken what its inputs carried. -/
def tookInputs (k : Nat) (scalar : Bool) (s : Mach) : Mach :=
  modCore k (ownSent scalar (cycleOf s))
    { s with fab := { s.fab with flights := s.fab.flights.filter (fun f => !(f.arrived && f.core == k && f.scalar == scalar)) } }

/-- The router of a core switches what has come to it on a network (R183); a router of an absent or dead core carries nothing
(R27, R194). -/
def routeNow (k : Nat) (scalar : Bool) (s : Mach) : Mach :=
  let x := inputsNow s k scalar
  if inputsNone x then s
  else if present s k && !dead s k then switchAll k scalar (cycleOf s % 4) x (tookInputs k scalar s)
  else tookInputs k scalar s

/-- A core has no flit to send. -/
def sendsNone (c : Core) : Bool := c.rt.sends.isEmpty && c.se0.out.isEmpty && c.se1.out.isEmpty

/-- The routers that may have something to switch, in the order in which the flits that reach them set out. Of several router faults of
one cycle on a die this order, the vector network before the scalar one and the outputs from 0 to 4 decide which is the first that
RTE_FAULT keeps (DESIGN CHOICE, log entry 53). -/
def routersNow (s : Mach) : List Nat :=
  (s.fab.flights.filterMap (fun f => if f.arrived then some f.core else none) ++
    s.cores.filterMap (fun e => if sendsNone e.2 then none else some e.1)).eraseDups

/-- A flight has crossed the hop to the rim. -/
def Flight.out (f : Flight) : Bool := f.left == 0 && decide (4 ≤ f.input)

/-- The phase of the link that a flit took which a rim attachment receives now (R184). -/
def rimPhase (cycle : Nat) : Nat := (cycle + 4 - rimCycles) % 4

/-- The flits that have crossed the hop to the rim reach its attachments (R184). -/
def reachRim (s : Mach) : Mach :=
  (s.fab.flights.filter Flight.out).foldl (fun s f => emit (.routerFlit f.core (f.input - 4) (rimPhase (cycleOf s)) f.scalar f.flit) s)
    { s with fab := { s.fab with flights := s.fab.flights.filter (fun f => !f.out) } }

/-- Both networks switch in a cycle, and every flit on its way comes nearer. At a router the vector network goes first: of a vector row
and a scalar row that are whole in one cycle, the vector row has come first (DESIGN CHOICE, log entry 53). -/
def fabricCycle (s : Mach) : Mach :=
  if !routesLive s then s
  else
    let s1 := (routersNow s).foldl (fun s k => routeNow k true (routeNow k false s)) (reachRim s)
    { s1 with fab := { s1.fab with flights := s1.fab.flights.map (fun f => { f with left := f.left - 1 }) } }

/-! ### The clock -/

/-- No access of the matrix engine or the vector unit waits for a slot. -/
def enginesQuiet (c : Core) : Bool :=
  (bit c.stopped 0 || (c.mx.loading.all Load.allRead && (readingPasses c.mx).all Pass.allRead &&
    c.mx.aout.all (fun a => a.left.isEmpty))) &&
  (bit c.stopped 1 || c.vop.all VopRun.allDone)

/-- No access of a stream engine waits for a slot. -/
def streamsQuiet (c : Core) : Bool :=
  c.se0.wait.isEmpty && c.se1.wait.isEmpty && (bit c.stopped 2 || (readingBlk c 0).isNone) &&
    (bit c.stopped 3 || (readingBlk c 1).isNone)

/-- The wheel of a core has nothing to do. -/
def coreQuiet (c : Core) : Bool :=
  c.dma.isEmpty && c.rt.wait.isEmpty && c.rt.wrote.isEmpty && enginesQuiet c && streamsQuiet c

/-- The wheels and the networks have nothing to do: a section switch runs, or nothing waits. -/
def wheelQuiet (s : Mach) : Bool :=
  s.sec.switch.isSome || (s.cores.all (fun e => coreQuiet e.2) &&
    (!routesLive s || (s.fab.flights.isEmpty && s.cores.all (fun e => sendsNone e.2))))

/-- The slot of a fabric cycle at a core (R96, R101). -/
def coreCycle (k cycle : Nat) (s : Mach) : Mach :=
  if coreQuiet (coreAt s k) then s
  else
    let s1 := if cycle % 2 = 1 && !dead s k then modCore k dmaSlot s else s
    match cycle % 4 with
    | 0 => wSlot k (cycle / 4) s1
    | 1 => mSlot k (cycle / 4) s1
    | 2 => vSlot k (cycle / 4) s1
    | _ => nSlot k (cycle / 4) s1

/-- A fabric cycle of the wheels and the networks (R96, R183); in the second reference cycle of one that is stretched they have been
through it (R475). -/
def wheelCycle (s : Mach) : Mach :=
  let c := cycleOf s
  if wheelQuiet s || decide (c < s.fab.cycle) then s
  else fabricCycle ((s.cores.map (·.1)).foldl (fun s k => coreCycle k c s) { s with fab := { s.fab with cycle := c + 1 } })

/-- One reference cycle passes (R47). -/
def passCycle (s : Mach) : Mach :=
  let s1 := wheelCycle s
  roundEnds { s1 with now := s1.now + 1 }

/-- n reference cycles pass. -/
def passCycles : Nat → Mach → Mach
  | 0, s => s
  | n + 1, s => if wheelQuiet s then roundEnds { s with now := s.now + (n + 1) } else passCycles n (passCycle s)

/-- Time passes while something waits for its slots, n reference cycles at most, and not once the wheels have nothing to do. -/
def passWhile (busy : Mach → Bool) : Nat → Mach → Mach
  | 0, s => s
  | n + 1, s => if busy s && !wheelQuiet s then passWhile busy n (passCycle s) else s

/-- Something waits until the wheel has served it: no wait of one lasts as long as the bound. -/
def awaitSlots (busy : Mach → Bool) (s : Mach) : Mach := passWhile busy (2 ^ 32) s

/-- Time has passed to an instant at least. -/
def notBefore (t : Nat) (s : Mach) : Mach := passCycles (t - s.now) s

/-- Reference cycles to the beginning of the n-th fabric cycle from now (R475). -/
def refCycles (n : Nat) (s : Mach) : Nat :=
  match s.fab.since with
  | some t => 2 * n - (s.now - t) % 2
  | none => n

/-- Time has passed to a fabric cycle of the round at least. -/
def toCycle (c : Nat) (s : Mach) : Mach := notBefore (s.now + refCycles (c - cycleOf s) s) s

/-- Time has passed to a fabric cycle at least, counted as operations count it. -/
def toTick (c : Nat) (s : Mach) : Mach := notBefore (s.now + refCycles (c - tick s) s) s

/-- Time has passed to a boundary of a period (R106). -/
def toPeriod (s : Mach) : Mach := toTick (nextPeriod s) s

/-! ### The commands of the matrix engine and the vector unit (R106, R112, R115, R118, R119, R123) -/

def execWloadStart (id : CoreId) (s : State) : Res := run (whenActive (fun m => wloadStart id.key (toPeriod m))) s

/-- The WLOAD in progress has rows to read, and the fabric cycle at which it ends. -/
def loadBusy (k : Nat) (s : Mach) : Bool := (coreAt s k).mx.loading.any (fun l => !l.allRead)
def loadEnds (k : Nat) (s : Mach) : Nat := ((coreAt s k).mx.loading.map (·.ends)).getD 0

/-- An operation has been served, and its time is over. -/
def served (busy : Nat → Mach → Bool) (ends : Nat → Mach → Nat) (k : Nat) (s : Mach) : Mach :=
  let m := awaitSlots (busy k) s
  toTick (ends k m) m

def execWloadComplete (id : CoreId) (s : State) : Res :=
  run (whenActive (fun m => wloadComplete id.key (served loadBusy loadEnds id.key m))) s

/-- The last pass in progress has rows to read, and the fabric cycle at which it lets the next one start. -/
def lastBusy (k : Nat) (s : Mach) : Bool := (coreAt s k).mx.passes.getLast?.any (fun p => !p.allRead)
def lastFree (k : Nat) (s : Mach) : Nat := ((coreAt s k).mx.passes.getLast?.map Pass.free).getD 0

def execMpassStart (id : CoreId) (s : State) : Res :=
  run (whenActive (fun m => mpassStart id.key (toPeriod (served lastBusy lastFree id.key m)))) s

/-- The oldest pass in progress has rows to read, and the fabric cycle at which it ends. -/
def passBusy (k : Nat) (s : Mach) : Bool := (coreAt s k).mx.passes.head?.any (fun p => !p.allRead)
def passEnds (k : Nat) (s : Mach) : Nat := ((coreAt s k).mx.passes.head?.map (·.ends)).getD 0

def execMpassComplete (id : CoreId) (st : List Strike) (s : State) : Res :=
  run (whenActive (fun m => mpassComplete id.key st (served passBusy passEnds id.key m))) s

/-- The pass that is recomputed has rows to read, and the fabric cycle at which it ends. -/
def againBusy (k : Nat) (s : Mach) : Bool := (coreAt s k).mx.arb.any (fun a => !a.x.allRead)
def againEnds (k : Nat) (s : Mach) : Nat := ((coreAt s k).mx.arb.map (·.x.ends)).getD 0

def execRecomputationComplete (id : CoreId) (st : List Strike) (katPass : Bool) (s : State) : Res :=
  run (whenActive (fun m => recomputationComplete id.key st katPass (served againBusy againEnds id.key m))) s

def execAoutStart (id : CoreId) (s : State) : Res := run (whenActive (fun m => aoutStart id.key (toPeriod m))) s

/-- The AOUT in progress has rows to write, and the fabric cycle at which it ends. -/
def aoutBusy (k : Nat) (s : Mach) : Bool := (coreAt s k).mx.aout.any (fun a => !a.left.isEmpty)
def aoutEnds (k : Nat) (s : Mach) : Nat := ((coreAt s k).mx.aout.map (·.ends)).getD 0

def execAoutComplete (id : CoreId) (s : State) : Res :=
  run (whenActive (fun m => aoutComplete id.key (served aoutBusy aoutEnds id.key m))) s

def execAclrStart (id : CoreId) (s : State) : Res := run (whenActive (fun m => aclrStart id.key (toPeriod m))) s

def execAclrComplete (id : CoreId) (s : State) : Res :=
  run (whenActive (fun m => aclrComplete id.key (toTick (((nextAclr (coreAt m id.key).mx.aclr).map (·.ends)).getD 0) m))) s

def execVopStart (id : CoreId) (s : State) : Res := run (whenActive (fun m => vopStart id.key (toPeriod m))) s

/-- The VOP in progress has rows to read or to write, and the fabric cycle at which it ends. -/
def vopBusy (k : Nat) (s : Mach) : Bool := (coreAt s k).vop.any (fun v => !v.allDone)
def vopEnd (k : Nat) (s : Mach) : Nat := ((coreAt s k).vop.map (·.ends)).getD 0

def execVopComplete (id : CoreId) (s : State) : Res :=
  run (whenActive (fun m => vopComplete id.key (served vopBusy vopEnd id.key m))) s

/-! ### The commands of the stream engines (R230, R235, R606) -/

/-- The block that completes next does, once the slots have served it. -/
def execBlockComplete (id : CoreId) (se : Fin 2) (s : State) : Res :=
  run (whenActive (fun m => blockComplete id.key se.val
    (awaitSlots (fun m => blockBusy se.val (coreAt m id.key)) m))) s

/-- The TCOPY of an engine has rows to write, and the fabric cycle at which it ends. -/
def tcopyBusy (e k : Nat) (s : Mach) : Bool :=
  (seAt (coreAt s k) e).tcopy.isSome && !(seAt (coreAt s k) e).wait.isEmpty
def tcopyEnds (e k : Nat) (s : Mach) : Nat := ((seAt (coreAt s k) e).tcopy.map (·.ends)).getD 0

def execTcopyComplete (id : CoreId) (se : Fin 2) (s : State) : Res :=
  run (whenActive (fun m => tcopyComplete id.key se.val (served (tcopyBusy se.val) (tcopyEnds se.val) id.key m))) s

/-! ### The commands of the routers (R185, R186, R198) -/

/-- An outbound timed channel reads in the N slot of its turn. -/
def execOutboundBurst (id : CoreId) (ch : Fin 16) (s : State) : Res :=
  run (fun m => if burstDue id.key ch.val m then
    outboundBurst id.key ch.val (toCycle (4 * readTurn id.key ch.val m + 3) m) else m) s

/-- Inputs given, with what has come to the others of the router by itself. -/
def inputsOr (x y : Inputs) : Inputs :=
  { north := x.north <|> y.north, east := x.east <|> y.east, south := x.south <|> y.south, west := x.west <|> y.west,
    own := x.own <|> y.own }

/-- How many inputs carry a flit. -/
def inputCount (x : Inputs) : Nat := ((List.range 5).filter (fun i => (inputAt x i).isSome)).length

/-- A flit at an input of a router, beside the others. -/
def withFlit (i : Nat) (f : NetFlit) (x : Inputs) : Inputs :=
  match i with
  | 0 => { x with north := some f }
  | 1 => { x with east := some f }
  | 2 => { x with south := some f }
  | 3 => { x with west := some f }
  | _ => { x with own := some f }

/-- The next fabric cycle of a phase that the wheels have not been through (R184). -/
def nextOfPhase (phase : Nat) (s : Mach) : Nat :=
  let c := max (cycleOf s) s.fab.cycle
  c + (phase + 4 - c % 4) % 4

/-- Flits come to inputs of a router in the next cycle of a phase: it switches them, together with those that are there by themselves
(R183, R184). While a section switch runs they are discarded and counted (R177). -/
def inboundFlit (k : Nat) (scalar : Bool) (phase : Nat) (x : Inputs) (s0 : Mach) : Mach :=
  if !present s0 k || dead s0 k then s0
  else if s0.sec.switch.isSome then dropFlits k (inputCount x) s0
  else
    let s := toCycle (nextOfPhase phase s0) s0
    if !routesLive s then s
    else switchAll k scalar phase (inputsOr x (inputsNow s k scalar)) (tookInputs k scalar s)

def execInboundFlit (id : CoreId) (scalar : Bool) (phase : Fin 4) (input : Fin 5) (f : NetFlit) (others : Inputs) (s : State) : Res :=
  run (inboundFlit id.key scalar phase.val (withFlit input.val f others)) s

end Sys2Proof.Machine
end

