-- ==== Sys2Proof/Machine/Sections.lean ====
section
/-! DEFINITION. Section images, the section switch and the section commands (05_sections_and_fabric.md,
18_host_link_and_commands.md). -/

namespace Sys2Proof.Machine

/-! ### The image (R167 to R175) -/

/-- The map fingerprint of a die (R169). -/
def mapFp (d : Die) : Word := crc32c (bytesOf d.spare ++ bytesOf d.absent)

/-- A section image as read from the section store. -/
abbrev Image := List Byte

def imN (im : Image) (off n : Nat) : Nat := numAt im off n
def imZero (im : Image) (off n : Nat) : Bool := numAt im off n == 0
def imIdle (im : Image) : Bool := imN im 24 1 % 2 == 1
def imXbar (im : Image) (scalar : Bool) : BitVec 320 := BitVec.ofNat 320 (imN im (if scalar then 0x68 else 0x40) 40)
def imChan (im : Image) (i : Nat) : BitVec 256 := BitVec.ofNat 256 (imN im (0xC0 + 32 * i) 32)
def imBuf (im : Image) (i : Nat) : BitVec 64 := BitVec.ofNat 64 (imN im (0x2C0 + 8 * i) 8)
def imPre (im : Image) (i : Nat) : Nat × Nat × Nat :=
  (imN im (0x4C0 + 8 * i) 2, imN im (0x4C2 + 8 * i) 2, imN im (0x4C4 + 8 * i) 4)

/-- The header fields (R168). Two checks more count among the fields outside their range, with REASON 5: instruction words that
reach beyond IMGLEN, and padding behind them that is not zero (R167; DESIGN CHOICE, log entry 30). -/
def headOk (im : Image) : Bool :=
  let iw := imN im 16 2
  decide (iw ≤ 4096) && (!imIdle im || iw == 0) &&
    (imIdle im || (imN im 18 2 % 4 == 0 && decide (imN im 18 2 < 4 * iw))) &&
    decide (imN im 20 2 ≤ 23551) && decide (imN im 22 2 ≤ 1024) && decide (imN im 20 2 + imN im 22 2 ≤ 23552) &&
    decide (imN im 24 1 ≤ 1) && imZero im 25 7 && imZero im 36 24 && imZero im 0x90 48 &&
    decide (0x500 + 4 * iw ≤ imN im 32 4) && imZero im (0x500 + 4 * iw) ((64 - 4 * iw % 64) % 64)

/-- A channel entry (R172, R175). -/
def chanOk (e : BitVec 256) : Bool :=
  let m := chMode e
  let lastRow (h : Nat) := chBase e + h * chAltoff e + (chCount e - 1) * chStride e
  !bit e 7 && dZero e 1 1 && decide (m ≤ 6) &&
    (match m with
     | 0 => !bit e 31 && decide (dB e 12 4 < 2 ^ 25) && decide (dB e 16 4 < 2 ^ 25) && dZero e 20 12
     | 1 | 2 =>
       !bit e 31 && decide (1 ≤ chCount e ∧ chCount e ≤ 23552) && decide (chStride e ≤ 23551) && decide (1 ≤ chReps e) &&
         decide (dB e 12 4 < 2 ^ 25) && decide (dB e 16 4 < 2 ^ 25) && dZero e 20 12 &&
         decide (lastRow 0 ≤ 23551) && (!(chAltr e || decide (2 ≤ chReps e)) || decide (lastRow 1 ≤ 23551))
     | 3 | 4 => !chScalar e && decide (dB e 2 1 < 64) && decide (dB e 3 1 < 64) && dZero e 4 28
     | _ => !chScalar e && dZero e 2 30)

/-- A buffer entry (R173). -/
def bufOk (e : BitVec 64) : Bool :=
  fld e 57 7 == 0 && fld e 44 4 == 0 && fld e 35 5 == 0 && !bit e 31 && !bit e 15 && decide (bufProd e ≤ 3) &&
    (bufProd e == 0 || (decide (1 ≤ bufRows e ∧ bufRows e ≤ 23552) && decide (bufBase e + bufRows e ≤ 23552)))

/-- Two ranges of rows share a row. -/
def rangesMeet (a n b m : Nat) : Bool := decide (0 < n ∧ 0 < m ∧ a < b + m ∧ b < a + n)

/-- Buffers against each other and against the new section store (R175). -/
def bufsOk (im : Image) : Bool :=
  let bs := ((List.range 64).map (imBuf im)).filter (fun e => bufProd e != 0)
  ((bs.zipIdx).all (fun x => (bs.zipIdx).all (fun y =>
    x.2 == y.2 || !rangesMeet (bufBase x.1) (bufRows x.1) (bufBase y.1) (bufRows y.1)))) &&
    bs.all (fun e => !rangesMeet (bufBase e) (bufRows e) (imN im 20 2) (imN im 22 2))

/-- The narrow preload table (R174, R175). -/
def preOk (im : Image) : Bool :=
  (List.range 8).all (fun i =>
    let (a, n, o) := imPre im i
    n == 0 || (a % 8 == 0 && n % 8 == 0 && o % 64 == 0 && decide (a + n ≤ 0x10000) && decide (o + n ≤ imN im 32 4)))

/-- A crossbar entry of output `o` in phase `p` (R171, R175, R193, R184). A local entry with SRC1 none carries nothing, and its
CHAN is not checked (DESIGN CHOICE, log entry 30). -/
def xbarOk (s : Mach) (k : Nat) (im : Image) (scalar : Bool) (o p : Nat) : Bool :=
  let e := (imXbar im scalar).extractLsb' (16 * (o * 4 + p)) 16
  let ch := imChan im (xChan e)
  let rim (x : Nat) := scalar && decide (x < 4) && facesRim s k x
  fld e 12 4 == 0 && !bit e 7 && decide (xSrc1 e ≤ 5) && decide (xSrc2 e ≤ 5) && (xAdd e || xSrc2 e == 0) &&
    !(scalar && xAdd e) && (o == 4 || xChan e == 0) &&
    (xSrc1 e == 0 || o != 4 || ([1, 3, 4].contains (chMode ch) && chScalar ch == scalar)) &&
    !(xSrc1 e != 0 && !scalar && decide (o < 4) && facesSeam k o && p % 2 == 1) &&
    !(xSrc1 e != 0 && rim o) && !(xSrc1 e != 0 && rim (xSrc1 e - 1)) && !(xSrc2 e != 0 && rim (xSrc2 e - 1))

def xbarsOk (s : Mach) (k : Nat) (im : Image) : Bool :=
  [false, true].all (fun n => (List.range 5).all (fun o => (List.range 4).all (fun p => xbarOk s k im n o p)))

/-- No two outbound channels of one network share a PHASE (R175). -/
def phasesOk (im : Image) : Bool :=
  let out := ((List.range 16).map (imChan im)).filter (fun e => [2, 5, 6].contains (chMode e))
  (out.zipIdx).all (fun x => (out.zipIdx).all (fun y =>
    x.2 == y.2 || chScalar x.1 != chScalar y.1 || chPhase x.1 != chPhase y.1))

/-- REASON of the first check of R175 that fails, 0 when the image is valid. `lim` is the size of the store. -/
def imageReason (s : Mach) (k section_ lim : Nat) (im : Image) : Nat :=
  let n := imN im 32 4
  if imN im 0 4 ≠ 0x5A534543 then 1
  else if n % 64 ≠ 0 ∨ n < 1280 ∨ 65536 < n ∨ lim < n then 4
  else if (crc32c (((im.take n).take 60) ++ toBytes 4 0 ++ (im.take n).drop 64)).toNat ≠ imN im 60 4 then 1
  else if imN im 4 4 ≠ section_ then 2
  else if imN im 8 4 ≠ (mapFp (dieAt s (dieOf k))).toNat then 3
  else if headOk im && ((List.range 16).all (fun i => chanOk (imChan im i))) &&
      ((List.range 64).all (fun i => bufOk (imBuf im i))) && bufsOk im && preOk im && phasesOk im && xbarsOk s k im then 0
  else 5

/-- The section store of a load: first row and rows (R136, R180). -/
def storeOf (man : Bool) (c : Core) : Nat × Nat := if man then (22528, 1024) else (c.r.ssBase.toNat, c.r.ssRows.toNat)

/-- The image of a core, and whether a code word of it is uncorrectable. -/
def readImage (man : Bool) (c : Core) : Image × Bool × List ErrRec :=
  let (b, n) := storeOf man c
  let x := readWords c (rowAddr b) (8 * n)
  (toBytes (64 * n) x.1, anyUe x.2, x.2)

/-- REASON of a core's image (R175, R397). -/
def coreReason (s : Mach) (cmd : SecCmd) (k : Nat) : Nat :=
  let c := coreAt s k
  if cmd.man && c.imgBad then 1
  else
    let (im, ue, _) := readImage cmd.man c
    if ue then 1 else imageReason s k cmd.section_.toNat (64 * (storeOf cmd.man c).2) im

/-! ### The switch (R177 to R181) -/

/-- A core holds the image of a switch: it reads its store, and what the read finds is logged. -/
def logImage (man : Bool) (k : Nat) (s : Mach) : Mach := logErrs k 5 (readImage man (coreAt s k)).2.2 s

/-- Every core does the same. -/
def allCores (f : Nat → Core → Core) (s : Mach) : Mach := (presentCores s).foldl (fun s k => modCore k (f k) s) s

/-- The narrow preload of an image (R174). -/
def preload (im : Image) (c : Core) : Core :=
  (List.range 8).foldl (fun c i =>
    let (a, n, o) := imPre im i
    if n = 0 then c else writeSp a ((im.drop o).take n) c) c

/-- The instruction memory: the words of the image, then zeros (R177). -/
def loadImem (im : Image) (c : Core) : Core :=
  let n := 4 * imN im 16 2
  { c with imem := wrBytes [] 0 ((im.drop 0x500).take n)
           scrubWb := tdel c.scrubWb 17
           synd := c.synd.filter (fun e => decide (e.1 < 0x10000000)) }

/-- LOAD at a core, and its filled flags after it (R177); a core that is not live takes no preload (R27). The stream engines of a core
that no fault halted run again: only a restart arm had stopped them (R454; DESIGN CHOICE, log entry 30). -/
def loadCore (man live : Bool) (c : Core) : Core :=
  let im := (readImage man c).1
  let bufs := tblOf 64 (imBuf im)
  let c1 := if live then preload im (loadImem im c) else loadImem im c
  { c1 with
    rt := { Router.reset with xbarV := imXbar im false, xbarS := imXbar im true, chans := tblOf 16 (imChan im), bufs := bufs }
    r := { c1.r with ssBase := BitVec.ofNat 15 (imN im 20 2), ssRows := BitVec.ofNat 11 (imN im 22 2) }
    p := { c1.p with entry := BitVec.ofNat 32 (imN im 18 2), g := [], tvec := 0, epc := 0, scratch := 0 }
    fl := { flags := bufs.foldl (fun m e => if bufProd e.2 ≠ 0 ∧ bit e.2 56 then setBit m e.1 else m) 0
            counts := [], setAt := [] }
    runs := !imIdle im
    stopped := if c1.p.halted then c1.stopped else c1.stopped &&& 3
    imgHeld := false }

/-- PLAN of a core's image. -/
def planOf (man : Bool) (c : Core) : Nat := imN (readImage man c).1 12 4

/-- SEC_STAT of a die after a gather (R201). -/
def secStat (bad : List (Nat × Nat)) (d : DieSec) : DieSec :=
  { d with
    fault := !bad.isEmpty
    ninv := BitVec.ofNat 8 bad.length
    lc := match bad with | b :: _ => BitVec.ofNat 8 b.1 | [] => 0
    reason := match bad with | b :: _ => BitVec.ofNat 3 b.2 | [] => 0 }

/-- SEC_STAT as a word (R201). -/
def secStatWord (d : DieSec) : Word :=
  b1 d.fault ++ (0 : BitVec 4) ++ d.reason ++ d.lc ++ (0 : BitVec 8) ++ d.ninv

/-- SEC_CUR of every die. -/
def setSecCur (v : Word) (idx : Word) (s : Mach) : Mach :=
  iter 144 (fun d s => modDie d (fun x => { x with sec := { x.sec with cur := v, idx := idx } }) s) s

/-- The flits on their way are discarded. -/
def noFlights (s : Mach) : Mach := { s with fab := { s.fab with flights := [] } }

/-- No section runs from now on, and no route is live. -/
def endSection (s : Mach) : Mach := noFlights (setSecCur 0 0 (modSec (fun x => { x with cur := none, plan := 0 }) s))

/-- The flits whose rows wait in a router for their W slot, and those of rows that it gathers (R186, R187). -/
def routerHeld (c : Core) : Nat :=
  (c.rt.wait.map (fun w => chF (tget 0 c.rt.chans w.by_))).sum + (c.rt.inRow.map (fun e => tget 0 c.rt.inCnt e.1 % 16)).sum

/-- A router discards what it holds (R177). -/
def dropHeld (k : Nat) (s : Mach) : Mach :=
  if routerHeld (coreAt s k) = 0 then s
  else dropFlits k (routerHeld (coreAt s k)) (modCore k (fun c => { c with rt := { c.rt with wait := [], inRow := [] } }) s)

/-- A switch begins: the flits still on their way are discarded and counted, each at the die of the router that it was to reach, and
those that the routers hold (R177, R202; the die is a DESIGN CHOICE, log entry 53). -/
def dropFlights (s : Mach) : Mach :=
  (s.cores.map (·.1)).foldl (fun s k => dropHeld k s) (s.fab.flights.foldl (fun s f => dropFlits f.core 1 s)
    (noFlights (iter 144 (fun d s => modDie d (fun x => { x with sec := { x.sec with drop := 0 } }) s) s)))

/-- The cores that run a program of the section, and those that do not, at a round start or at GO (R62, R128, R177). -/
def startPrograms (s : Mach) : Mach :=
  let start := match s.rnd.cur with | some r => r.start | none => s.now
  allCores (fun k c =>
    if s.sec.cur.isSome && c.runs && !c.p.halted && !coreOff s k && !s.ls.stopped && !s.sec.budget then
      { c with p := { c.p with mode := .running, pc := c.p.entry, done := false, signalled := false, inexc := false, cause := 0 } }
    else { c with p := { c.p with mode := .idle, done := true, doneAt := start, signalled := false, cause := 0 } }) s

/-- A switch is abandoned (R178). -/
def abortSwitch (cmd : SecCmd) (status : Nat) (s : Mach) : Mach :=
  let s1 := endSection (modSec (fun x => { x with switch := none }) s)
  let s2 := allCores (fun _ c => { c with imgHeld := false, imgBad := false }) (startPrograms s1)
  let det := (((List.range 144).find? (fun d => (dieAt s2 d).sec.fault)).map
    (fun d => bytesOf (secStatWord (dieAt s2 d).sec))).getD (toBytes 4 0)
  uncorrected 0x23 (logModule 0x23 1 (det ++ [0]) (complete cmd.owed status cmd.round.toNat s2))

def switchReadyGather (s : Mach) : Mach :=
  match s.sec.switch with
  | some (cmd, .check) =>
    let ks := presentCores s
    let rs := (ks.map (fun k => (k, coreReason s cmd k))).filter (fun e => e.2 != 0)
    let s1 := ks.foldl (fun s k => logImage cmd.man k s) s
    let s2 := iter 144 (fun d s =>
      let bad := (rs.filter (fun e => dieOf e.1 == d)).map (fun e => ((lcOf (dieAt s d) (pcOf e.1)).getD 0, e.2))
      modDie d (fun x => { x with sec := secStat bad x.sec }) s) s1
    if rs.isEmpty then
      let plan := ks.foldl (fun m k => max m (planOf cmd.man (coreAt s2 k))) 0
      modSec (fun x => { x with switch := some (cmd, .load), plan := BitVec.ofNat 32 plan })
        (allCores (fun k c => loadCore cmd.man (!dead s2 k) c) s2)
    else abortSwitch cmd (if rs.any (fun e => e.2 == 3) then 0x05 else 0x06) s2
  | _ => s

/-- READY is gathered at cycle 1,024 of the round (R177). -/
def execSwitchReadyGather (s : State) : Res :=
  run (fun m => switchReadyGather (if m.sec.switch.isSome then toCycle 1024 m else m)) s

/-- The rows of an outbound channel whose turn came while no channel was active (R177, R185). -/
def passedRows (e : BitVec 256) : Nat :=
  if chMode e = 2 then ((List.range (min 1024 (chCount e * chReps e))).takeWhile (fun r => decide (burstTurn e r < 1024))).length else 0

/-- They are neither read nor sent. -/
def skipPassed (c : Core) : Core :=
  { c with rt := { c.rt with outCnt := c.rt.chans.foldl (fun t e => tset 0 t e.1 (passedRows e.2)) [] } }

def sectionGo (s : Mach) : Mach :=
  match s.sec.switch with
  | some (cmd, .load) =>
    let s1 := modSec (fun x => { x with switch := none, cur := some (cmd.section_, cmd.round) })
      { s with cores := s.cores.map (fun e => (e.1, skipPassed e.2)) }
    complete cmd.owed 0x00 cmd.round.toNat (startPrograms (setSecCur cmd.section_ 0 s1))
  | _ => s

/-- Programs start at cycle 4,096 of the round (R177). -/
def execSectionGo (s : State) : Res := run (fun m => sectionGo (if m.sec.switch.isSome then toCycle 4096 m else m)) s

/-- A seal quiesces, so no section may begin (R445). -/
def sealQuiet (s : Mach) : Bool := match s.keep.sealing with | some x => x.stage != .armed | none => false

/-- The section that switches ends its command (R572). -/
def endSwitch (s : Mach) : Mach :=
  match s.sec.switch with
  | some (c, _) => complete c.owed 0x10 c.round.toNat (modSec (fun x => { x with switch := none }) s)
  | none => s

/-- A section command at its place in the order of rounds (R199). -/
def secInsert (c : SecCmd) : List SecCmd → List SecCmd
  | [] => [c]
  | d :: t => if c.round.toNat < d.round.toNat then c :: d :: t else d :: secInsert c t

/-- What a section command does at the start of round m (R177, R180, R199). Where the rounds jump and several come into force
at once, a load that finds the switch of an earlier one is refused, and a stop ends it (DESIGN CHOICE, log entry 49). -/
def applySecCmd (m : BitVec 48) (c : SecCmd) (s : Mach) : Mach :=
  if !c.load then complete c.owed 0x00 0 (endSwitch (endSection s))
  else if sealQuiet s || s.sec.switch.isSome || s.sec.cur.isSome == c.man then complete c.owed 0x03 (if c.load then m.toNat else 0) s
  else
    dropFlights (modSec (fun x => { x with switch := some ({ c with round := m }, .check) }) s)

def sectionBoundary (m : BitVec 48) (s : Mach) : Mach :=
  let (now, later) := s.sec.queue.partition (fun c => decide (c.round.toNat ≤ m.toNat))
  let s1 := iter 144 (fun d s => modDie d (fun x => { x with sec :=
    if s.sec.cur.isSome then { x.sec with idx := satInc x.sec.idx } else x.sec }) s)
    (modSec (fun x => { x with queue := later }) s)
  (now.foldr secInsert []).foldl (fun s c => applySecCmd m c s) s1

/-- Queued section commands that end with a status (R572). -/
def endSecCmds (loadOnly : Bool) (s : Mach) : Mach :=
  let (gone, keep_) := s.sec.queue.partition (fun c => c.load || !loadOnly)
  let s1 := modSec (fun x => { x with queue := keep_ }) s
  gone.foldl (fun s c => complete c.owed 0x10 (if c.load then c.round.toNat else 0) s) s1

/-! ### The commands (R573, R180, R199) -/

/-- A section command names a round that has started, or one that an earlier command names (R199). -/
def secRoundStatus (s : Mach) (m : BitVec 48) : Nat :=
  if roundStarted s m then 4 else if s.sec.queue.any (fun c => c.round == m) then 3 else 0

/-- The manifest (R180): its status and its die entries (IMG_BASE). It is not read from the keep region (R209; the status is a
DESIGN CHOICE, log entry 50). -/
def readManifest (ea section_ : Nat) (s : Mach) : Nat × List Nat × Mach :=
  let x := readEdge 3 ea (64 + 144 * 16) s
  let bs := x.1.map (·.1)
  let base (d : Nat) := numAt bs (64 + 16 * d) 8
  let okHead := numAt bs 0 4 == 0x5A534D46 && numAt bs 4 4 == section_ && numAt bs 8 56 == 0
  let okDie := (List.range 144).all (fun d =>
    decide (base d < 2 ^ 41) && base d % 65536 == 0 && numAt bs (64 + 16 * d + 12) 4 == 0)
  let okMap := (List.range 144).all (fun d => numAt bs (64 + 16 * d + 8) 4 == (mapFp (dieAt s d)).toNat)
  let st := if stackOut s (stackOf ea) || x.1.any (·.2) then 0x0F
            else if !(okHead && okDie) then 0x02 else if !okMap then 0x05 else 0
  if s.edge.keepEn && inKeep ea (64 + 144 * 16) then (0x02, [], s) else (st, (List.range 144).map base, x.2)

/-- SE0 of a core copies its image (R180); the scratchpad of a dead core takes no write (R27). -/
def copyImage (bases : List Nat) (k : Nat) (s : Mach) : Mach :=
  let lc := (lcOf (dieAt s (dieOf k)) (pcOf k)).getD 0
  let ea := bases.getD (dieOf k) 0 + lc * 65536
  let st := stackOf ea
  if stackOut s st || (s.edge.keepEn && inKeep ea 65536) then
    countReject st (if stackOut s st then 4 else 3) ea (modCore k (fun c => { c with imgBad := true, imgHeld := true }) s)
  else
    let x := readEdge 0 ea 65536 s
    let bad := x.1.any (·.2)
    modCore k (fun c =>
      let c1 := if bad || dead s k then c else writeSp (rowAddr 22528) (x.1.map (·.1)) c
      { c1 with imgBad := bad, imgHeld := true }) (useUnits 0 ea 65536 x.2)

def sectionLoad (q : Nat) (d : Desc) (s : Mach) : Mach :=
  startCmd q d (cB d 0 1 == 0x10) [(8, 11), (24, 8)] (fun o s =>
    let man := bit d 144
    let ea := cB d 24 8
    match cmdRound s (cmdVer s o) d 12 with
    | none => complete o 0x02 0 s
    | some m =>
      let st := secRoundStatus s m
      if 1 < cB d 18 1 ∨ (man ∧ (2 ^ 41 ≤ ea ∨ ea % 64 ≠ 0)) then complete o 0x02 m.toNat s
      else if st ≠ 0 then complete o st m.toNat s
      else if man && s.sec.cur.isSome then complete o 0x03 m.toNat s
      else
        let cmd : SecCmd := { round := m, load := true, section_ := BitVec.ofNat 32 (cB d 8 4), man := man, owed := o }
        let put := modSec (fun x => { x with queue := x.queue ++ [cmd] })
        if man then
          let (st, bases, s1) := readManifest ea (cB d 8 4) s
          if st ≠ 0 then complete o st m.toNat s1
          else put ((presentCores s1).foldl (fun s k => copyImage bases k s) s1)
        else put s) s

def execSectionLoad (q : Fin 16) (d : Desc) (s : State) : Res := run (sectionLoad q.val d) s

def sectionStop (q : Nat) (d : Desc) (s : Mach) : Mach :=
  startCmd q d (cB d 0 1 == 0x11) [(12, 6)] (fun o s =>
    match cmdRound s (cmdVer s o) d 12 with
    | none => complete o 0x02 0 s
    | some m =>
      let st := secRoundStatus s m
      if st ≠ 0 then complete o st 0 s
      else modSec (fun x => { x with queue := x.queue ++
        [{ round := m, load := false, section_ := 0, man := false, owed := o }] }) s) s

def execSectionStop (q : Fin 16) (d : Desc) (s : State) : Res := run (sectionStop q.val d) s

end Sys2Proof.Machine
end

