-- ==== Sys2Proof/Machine/Links.lean ====
section
/-! DEFINITION. Messages on the links: their bytes, the queues of a port, the partner table and the port switch
(09_optical_ports.md, 10_remote_access_and_ordering.md, 11_systems_and_job_mapping.md). -/

namespace Sys2Proof.Machine

/-! ### The bytes of a message (R303, R346) -/

/-- The bytes of an RWRITE (type 0x40) or the header of an RREAD (0x41). -/
def rwHead (typ len8 : Nat) (src dst win : BitVec 16) (off : BitVec 64) (sepoch stag : Word) (rnd : BitVec 16) (hops : Byte) :
    List Byte :=
  toBytes 1 typ ++ toBytes 1 len8 ++ bytesOf src ++ bytesOf dst ++ bytesOf win ++ bytesOf off ++ bytesOf sepoch ++
    bytesOf stag ++ bytesOf rnd ++ [hops]

/-- The bytes of a message. The lockstep digest travels outside the message formats (R428). -/
def msgBytes : Msg → List Byte
  | .marker m => bytesOf m
  | .relay m _ => bytesOf m
  | .stretch m => bytesOf m
  | .digest m => bytesOf m
  | .lockstep r d => bytesOf r ++ bytesOf d
  | .identity m => bytesOf m
  | .echo m => bytesOf m
  | .echoBack m _ => bytesOf m
  | .retrain m => bytesOf m
  | .rwrite m =>
    rwHead 0x40 (m.data.length / 8) m.src m.dst m.window m.offset m.sepoch m.stag m.round m.hops ++ toBytes 5 0 ++ m.data
  | .rread m =>
    rwHead 0x41 m.len8.toNat m.src m.dst m.window m.offset m.sepoch m.stag m.round m.hops ++ [0] ++ bytesOf m.rid
  | .rdata m =>
    toBytes 1 0x42 ++ toBytes 1 (m.data.length / 8) ++ bytesOf m.src ++ bytesOf m.dst ++ [m.hops] ++ [m.status] ++
      bytesOf m.rid ++ toBytes 4 0 ++ m.data
  | .lnack m => bytesOf m
  | .fprobe m => bytesOf m
  | .fack m => bytesOf m

/-- A message as it leaves at the instant `now`: a forwarded marker of the aligned mode has lost from its LEAD the time that it
waited here, in whole ns (R52; DESIGN CHOICE, log entry 2); the time stamp of a returned echo is later by the time that it spent
here (R314). -/
def departing (now : Nat) : Msg → Msg
  | .relay m since =>
    if bit m 8 then .marker ((m &&& ~~~ (0xFFFFFFFF#192 <<< 128)) |||
      ((fld m 128 32 - BitVec.ofNat 32 ((now - since) * 10 / 11) : Word).setWidth 192 <<< 128))
    else .marker m
  | .echoBack m since =>
    .echo ((m &&& 0xFFFFFFFFFFFFFFFF) ||| ((fld m 64 64 + BitVec.ofNat 64 (now - since)).setWidth 128 <<< 64))
  | m => m

/-- Flits that messages fill when each goes into the first flit with room behind the one before it (R302, R303). -/
def flitsFor (ms : List Msg) : Nat :=
  (ms.foldl (fun (st : Nat × Nat) m =>
    let n := (msgBytes m).length
    if st.1 = 0 ∨ 244 < st.2 + n then (st.1 + 1, n) else (st.1, st.2 + n)) (0, 0)).1

/-! ### Events of a port (R327, R540) -/

/-- PRT_PEVT bit b rises (R327, R578). -/
def portEvt (p b : Nat) (s : Mach) : Mach := raiseIrq 5 (noteRaise (0x108120 + 0x40 * p) b (modPort p (fun x => { x with evt := setBit x.evt b }) s))

/-- A PORT record (R540). -/
def portRecord (p flags : Nat) (s : Mach) : Mach :=
  let x := portAt s p
  logAt 0x40 5 flags 0xFFFF p 0 (toBytes 4 p ++ toBytes 4 x.evt.toNat ++ bytesOf x.pser ++ bytesOf x.pepoch ++
    toBytes 2 x.cause.toNat ++ bytesOf x.downCnt) s

/-- The port carries traffic (R309). -/
def portActive (s : Mach) (p : Nat) : Bool := (portAt s p).state == 6

/-- The active ports. -/
def activePorts (s : Mach) : List Nat := (List.range 64).filter (portActive s)

/-- PORTS64 or the port is not one that R3 keeps dark. -/
def portLicensed (s : Mach) (p : Nat) : Bool :=
  bit s.start.features 0 || !(decide (14 ≤ p ∧ p ≤ 29) || decide (46 ≤ p ∧ p ≤ 61))

/-- A dark port: unlicensed, without its VOPT, or with EN clear (R3, R309, R324, R470). -/
def darkPort (s : Mach) (p : Nat) : Bool :=
  decide (64 ≤ p) || !portLicensed s p || !(portAt s p).en || s.pwr.voptFail.contains p

/-! ### Queues (R306, R318) -/

/-- A sequenced message is queued at a port, or dropped when the queue holds 1,024 flits. -/
def sendSeq (p : Nat) (m : Msg) (s : Mach) : Mach :=
  if 1024 < flitsFor ((portAt s p).txq ++ [m]) then
    uncorrected 0x40 (portEvt p 0 (modPort p (fun x => { x with dropq := satInc x.dropq }) s))
  else modPort p (fun x => { x with txq := x.txq ++ [m] }) s

/-- A marker or stretch request is given to a port. -/
def sendUrgent (p : Nat) (m : Msg) (s : Mach) : Mach := modPort p (fun x => { x with urgent := x.urgent ++ [m] }) s

/-- A link management message is given to a port. -/
def sendMgmt (p : Nat) (m : Msg) (s : Mach) : Mach := modPort p (fun x => { x with mgmt := x.mgmt ++ [m] }) s

/-! ### The partner table (R330 to R334, R373) -/

def twinPort (p : Nat) : Bool := p == 30 || p == 31 || p == 62 || p == 63

/-- KEEP or LOCKSTEP is in force (R370). -/
def twinHeld (s : Mach) : Bool := s.sys.twinMode == 1 || s.sys.twinMode == 2

/-- PTN_CNT.LIMIT (R330, R359). -/
def ptnLimit (s : Mach) : Nat := if bit s.start.features 4 then 4096 else 1024

/-- Valid entries. -/
def ptnUsed (s : Mach) : Nat := (s.rmt.ptn.filter (fun e => e.2.valid)).length

/-- The entry of a serial. -/
def ptnOfSerial (s : Mach) (ser : BitVec 64) : Option (Nat × Ptn) := s.rmt.ptn.find? (fun e => e.2.valid && e.2.serial == ser)

/-- The lowest free index within the limit. -/
def ptnFree (s : Mach) : Option Nat := (List.range (ptnLimit s)).find? (fun i => !(tget Ptn.reset s.rmt.ptn i).valid)

/-- The egress port of an entry (R334, R373). -/
def egress (s : Mach) (e : Ptn) : Option Nat :=
  let p := e.port.toNat
  if twinHeld s && twinPort p then
    if e.direct then (List.range 64).find? (fun x => !twinPort x && (portAt s x).partner && (portAt s x).pser == e.serial)
    else none
  else if e.direct || (portAt s p).partner then some p
  else none

/-- The entry could be routable but for CONFLICT (R334). -/
def ptnEligible (s : Mach) (e : Ptn) : Bool := e.valid && e.assigned && !e.lost && (egress s e).isSome

/-- Precedence between entries that share an ID (R334). -/
def ptnBefore (a b : Ptn) : Bool := (a.direct && !b.direct) || (a.direct == b.direct && decide (a.since < b.since))

/-- RMT_EVT bit b rises (R362, R578). -/
def rmtEvt (b : Nat) (s : Mach) : Mach := raiseIrq 6 (noteRaise 0x10C060 b (modRmt (fun r => { r with evt := setBit r.evt b }) s))

/-- CONFLICT of an entry (R334): it loses on precedence; one that carries the mark and could not be routable otherwise keeps it while
another routable entry holds its ID. -/
def ptnConflict (s : Mach) (e : Ptn) : Bool :=
  let rivals := s.rmt.ptn.filter (fun f => ptnEligible s f.2 && f.2.id == e.id)
  if ptnEligible s e then rivals.any (fun f => ptnBefore f.2 e) else e.valid && e.conflict && !rivals.isEmpty

/-- CONFLICT of every entry is settled anew (R334, R362). -/
def settlePtn (s : Mach) : Mach :=
  let fresh := s.rmt.ptn.any (fun e => ptnConflict s e.2 && !e.2.conflict)
  let changed := s.rmt.ptn.any (fun e => ptnConflict s e.2 != e.2.conflict)
  let s1 := modRmt (fun r => { r with ptn := r.ptn.map (fun e => (e.1, { e.2 with conflict := ptnConflict s e.2 })) }) s
  let s2 := if changed then rmtEvt 0 s1 else s1
  if fresh then rmtEvt 1 s2 else s2

/-- Write a partner entry. -/
def putPtn (i : Nat) (e : Ptn) (s : Mach) : Mach :=
  settlePtn (modRmt (fun r => { r with ptn := tset Ptn.reset r.ptn i e }) s)

/-- The routable entry for an ID. -/
def routeOf (s : Mach) (id : BitVec 16) : Option Ptn :=
  (s.rmt.ptn.find? (fun e => ptnEligible s e.2 && !e.2.conflict && e.2.id == id)).map (·.2)

/-- The egress port toward an ID. -/
def routePort (s : Mach) (id : BitVec 16) : Option Nat := (routeOf s id).bind (egress s)

/-! ### The port switch (R335) -/

def lnackSrc (m : BitVec 256) : BitVec 16 := fld m 16 16
def lnackDst (m : BitVec 256) : BitVec 16 := fld m 32 16

/-- The source of a remote-access message. -/
def msgSrc : Msg → BitVec 16
  | .rwrite m => m.src
  | .rread m => m.src
  | .rdata m => m.src
  | .lnack m => lnackSrc m
  | .fprobe m => fld m 16 16
  | .fack m => fld m 16 16
  | _ => 0

/-- The target of a remote-access message. -/
def msgDst : Msg → BitVec 16
  | .rwrite m => m.dst
  | .rread m => m.dst
  | .rdata m => m.dst
  | .lnack m => lnackDst m
  | .fprobe m => fld m 32 16
  | .fack m => fld m 32 16
  | _ => 0

/-- HOPS. -/
def msgHops : Msg → Byte
  | .rwrite m => m.hops
  | .rread m => m.hops
  | .rdata m => m.hops
  | .lnack m => fld m 176 8
  | .fprobe m => fld m 48 8
  | .fack m => fld m 48 8
  | _ => 0

/-- One hop more (R335). -/
def msgHop : Msg → Msg
  | .rwrite m => .rwrite { m with hops := m.hops + 1 }
  | .rread m => .rread { m with hops := m.hops + 1 }
  | .rdata m => .rdata { m with hops := m.hops + 1 }
  | .lnack m => .lnack (setByte m 22 (fld m 176 8 + 1))
  | .fprobe m => .fprobe (setByte m 6 (fld m 48 8 + 1))
  | .fack m => .fack (setByte m 6 (fld m 48 8 + 1))
  | m => m

/-- A remote-access message that is no keep message (R442). -/
def plainAccess : Msg → Bool
  | .rwrite m => !bit m.window 15
  | .rread m => !bit m.window 15
  | .rdata m => !bit m.status 7
  | .lnack _ => true
  | .fprobe _ => true
  | .fack _ => true
  | _ => false

/-- The module's own ID. -/
def ownId (s : Mach) : BitVec 16 := s.ctl.id

/-- The message is delivered to this module (R335). -/
def isOwn (s : Mach) (m : Msg) : Bool := s.ctl.assigned && msgDst m == s.ctl.id

/-- A REMOTE record (R540). -/
def remoteRecord (flags : Nat) (s : Mach) : Mach :=
  let r := s.rmt
  let info : Word := b1 r.nackValid ++ b1 r.nackMulti ++ (0 : BitVec 6) ++ r.nackCause ++ r.nackSrc
  logModule 0x41 flags (toBytes 4 r.evt.toNat ++ bytesOf info ++ bytesOf r.nackTag ++ toBytes 4 r.nackRound.toNat) s

/-- NO_ROUTE (R335). -/
def noRoute (s : Mach) : Mach := uncorrected 0x41 (remoteRecord 1 (rmtEvt 3 s))

/-- An LNACK for a write (R346). -/
def mkLnack (cause : Nat) (src dst win : BitVec 16) (off : BitVec 64) (stag : Word) (rnd : BitVec 16) : Msg :=
  .lnack (BitVec.ofNat 256 (ofBytes (toBytes 1 0x43 ++ toBytes 1 cause ++ bytesOf src ++ bytesOf dst ++ bytesOf win ++
    bytesOf off ++ bytesOf stag ++ bytesOf rnd ++ toBytes 10 0)))

/-- The answer of the port switch to a message that it discards. -/
def discardAnswer (s : Mach) : Msg → Option Msg
  | .rwrite m => some (mkLnack 9 (ownId s) m.src m.window m.offset m.stag m.round)
  | .rread m => some (.rdata { src := ownId s, dst := m.src, hops := 0, status := 9, rid := m.rid, data := [] })
  | _ => none

/-- A message leaves on the egress port of its target's entry; false when none is routable. -/
def forwardMsg (m : Msg) (s : Mach) : Bool × Mach :=
  if msgHops m = 255 then (false, s)
  else
    match routePort s (msgDst m) with
    | some p => (true, sendSeq p (msgHop m) s)
    | none => (false, s)

/-- The port switch discards a message that it cannot route (R335). -/
def discardMsg (m : Msg) (s : Mach) : Mach :=
  let s1 := noRoute s
  match discardAnswer s1 m with
  | some a => (forwardMsg a s1).2
  | none => s1

/-- The port switch forwards a message, or discards it (R335). -/
def switchMsg (m : Msg) (s : Mach) : Mach :=
  let (ok, s1) := forwardMsg m s
  if ok then s1 else discardMsg m s1

/-- A message that waits at a port which may not carry it any more goes out on its target's egress port, or is discarded. -/
def rerouteMsg (m : Msg) (s : Mach) : Mach :=
  match routePort s (msgDst m) with
  | some p => sendSeq p m s
  | none => discardMsg m s

end Sys2Proof.Machine
end

