-- ==== Sys2Proof/Machine/Train.lean ====
section
/-! DEFINITION. The training engines: reduce-writes, update lists and their jobs, and the weight digests
(08_training_engines.md). -/

namespace Sys2Proof.Machine

/-! ### FP32 operations (R274) -/

def fneg (a : Word) : Word := a ^^^ 0x80000000
def fmul (a b : Word) : Word := rne32 ((f32 a).mul (f32 b))
def fsub (a b : Word) : Word := rne32 ((f32 a).add (f32 b).negate)

/-- a * b + c with one rounding. -/
def ffma (a b c : Word) : Word := rne32 (((f32 a).mul (f32 b)).add (f32 c))

/-- A quotient with a sticky bit below 40 bits of it. -/
def fdivF (a b : FVal) : FVal :=
  match a, b with
  | .nan, _ => .nan
  | _, .nan => .nan
  | .inf _, .inf _ => .nan
  | .inf s, .fin t _ _ => .inf (s != t)
  | .fin s _ _, .inf t => .fin (s != t) 0 0
  | .fin s m e, .fin t n f =>
    if n = 0 then (if m = 0 then .nan else .inf (s != t))
    else
      let x := m * 2 ^ 64
      .fin (s != t) (2 * (x / n) + (if x % n = 0 then 0 else 1)) (e - f - 65)

def fdiv (a b : Word) : Word := rne32 (fdivF (f32 a) (f32 b))

/-- A square root with a sticky bit below 40 bits of it. -/
def fsqrtF (a : FVal) : FVal :=
  match a with
  | .nan => .nan
  | .inf n => if n then .nan else .inf false
  | .fin neg m e =>
    if m = 0 then .fin neg 0 0
    else if neg then .nan
    else
      let (m1, e1) := if e % 2 = 0 then (m, e) else (2 * m, e - 1)
      let x := m1 * 2 ^ 80
      let r := isqrt x 60 0
      .fin false (2 * r + (if r * r = x then 0 else 1)) (e1 / 2 - 41)

def fsqrt (a : Word) : Word := rne32 (fsqrtF (f32 a))

/-- sign(x) of R276. -/
def fsign (a : Word) : Word :=
  let x := f32 a
  if x.isNan then nan32 else if x.isZero then 0 else if x.neg? then 0xBF800000 else 0x3F800000

/-! ### Reduce-writes (R262, R348) -/

/-- Eight FP32 sums of two code words. -/
def addCw (old new : List Byte) : List Byte :=
  (List.range 8).flatMap (fun i => bytesOf (fadd (BitVec.ofNat 32 (numAt old (4 * i) 4)) (BitVec.ofNat 32 (numAt new (4 * i) 4))))

/-- Add code words at an edge address; the number that met an uncorrectable stored code word. -/
def reduceWrite (ea : Nat) (bs : List Byte) (s : Mach) : Nat × Mach :=
  (List.range (bs.length / 32)).foldl (fun (st : Nat × Mach) i =>
    let cw := ea / 32 + i
    let x := edgeDecode st.2 cw
    let s1 := edgeNote 5 cw x.2 st.2
    if x.2 == .ue then (st.1 + 1, s1) else (st.1, writeCw cw (addCw x.1 ((bs.drop (32 * i)).take 32)) false s1)) (0, s)

/-! ### Job descriptors (R268, R269) -/

abbrev Job := List Byte

def jbN (j : Job) (off n : Nat) : Nat := numAt j off n
def jbF (j : Job) (i : Nat) : Word := BitVec.ofNat 32 (numAt j (64 + 4 * i) 4)
def jbOpt (j : Job) : Nat := jbN j 0 1
def jbFlag (j : Job) (b : Nat) : Bool := (jbN j 1 1).testBit b
def jbNorm (j : Job) : Bool := jbFlag j 0
def jbNarrow (j : Job) : Bool := jbFlag j 3
def jbFmt (j : Job) : Nat := jbN j 2 1 % 16
def jbRnd (j : Job) : Nat := jbN j 2 1 / 16 % 4
def jbCount (j : Job) : Nat := jbN j 4 4
def jbW (j : Job) : Nat := jbN j 8 8
def jbM (j : Job) : Nat := jbN j 16 8
def jbV (j : Job) : Nat := jbN j 24 8
def jbG (j : Job) : Nat := jbN j 32 8
def jbNarrowEa (j : Job) : Nat := jbN j 40 8
def jbRec (j : Job) : Nat := jbN j 48 8
def jbUsesM (j : Job) : Bool := jbOpt j != 1
def jbUsesV (j : Job) : Bool := [3, 4, 5].contains (jbOpt j)
def jbWidth (j : Job) : Nat := fmtBits (jbFmt j) / 8

/-- The hyperparameters that an optimizer uses, by their place in the list LR, B1, OMB1, B2, OMB2, EPS, WD, GSCALE,
TRUST, STAG, P1, P2. -/
def jbUsed (j : Job) : List Nat :=
  match jbOpt j with
  | 1 => [0, 6, 7]
  | 2 => [0, 1, 6, 7]
  | 5 => [0, 1, 2, 3, 4, 5, 6, 7, 8, 10, 11]
  | 6 => [0, 1, 2, 3, 4, 6, 7]
  | _ => [0, 1, 2, 3, 4, 5, 6, 7, 10, 11]

/-- A range lies in a stack and outside a keep region in force. -/
def inUnit (s : Mach) (u ea n : Nat) : Bool :=
  ea % 32 == 0 && decide (stackOf ea = u) && decide (stackOf (ea + n - 1) = u) && !(s.edge.keepEn && inKeep ea n)

/-- The checks of R269. Code 0 of NFMT is reserved and no nonzero code, so it fails only a job that converts (DESIGN CHOICE, log
entry 32). -/
def jobOk (s : Mach) (u : Nat) (j : Job) : Bool :=
  let n := jbCount j
  decide (1 ≤ jbOpt j ∧ jbOpt j ≤ 6) && decide (jbN j 1 1 < 32) && decide (jbN j 2 1 < 64) &&
    decide (n ≠ 0 ∧ n % 32 = 0) && jbN j 57 3 == 0 && jbN j 112 16 == 0 && jbN j 56 1 / 4 % 32 == 0 &&
    [0, 1, 3, 4].contains (jbFmt j) && decide (jbRnd j ≤ 2) && (jbFmt j != 1 || jbN j 3 1 == 127) &&
    (!jbNarrow j || (jbFmt j != 0 && inUnit s u (jbNarrowEa j) (n * jbWidth j))) &&
    inUnit s u (jbW j) (4 * n) && inUnit s u (jbG j) (4 * n) && (!jbUsesM j || inUnit s u (jbM j) (4 * n)) &&
    (!jbUsesV j || inUnit s u (jbV j) (4 * n)) && inUnit s u (jbRec j) 32 &&
    (jbUsed j).all (fun i => (f32 (jbF j i)).isFin)

/-! ### The optimizers (R275 to R278) -/

/-- The scalars of R275. -/
structure Scal where
  p1 : Word
  p2 : Word
  bc1 : Word
  alpha : Word
  rb2 : Word
  nlwd : Word
  lrt : Word

def scal (j : Job) : Scal :=
  let p1 := fmul (jbF j 10) (jbF j 1)
  let p2 := fmul (jbF j 11) (jbF j 3)
  let bc1 := fsub 0x3F800000 p1
  { p1 := p1, p2 := p2, bc1 := bc1, alpha := fdiv (jbF j 0) bc1, rb2 := fsqrt (fsub 0x3F800000 p2),
    nlwd := fneg (fmul (jbF j 0) (jbF j 6)), lrt := fmul (jbF j 0) (jbF j 8) }

/-- W, M, V and u of an element. -/
structure Elem where
  w : Word
  m : Word
  v : Word
  u : Word

/-- s of the Adam family. -/
def adamS (j : Job) (c : Scal) (v : Word) : Word := fadd (fdiv (fsqrt v) c.rb2) (jbF j 5)

/-- The sequence of an optimizer on one element (R276). -/
def optStep (j : Job) (c : Scal) (w m v gin : Word) : Elem :=
  let lr := jbF j 0
  let b1_ := jbF j 1
  let wd := jbF j 6
  let g0 := fmul gin (jbF j 7)
  let gw := if (f32 wd).isZero then g0 else ffma wd w g0
  let m1 (g : Word) := ffma b1_ m (fmul (jbF j 2) g)
  let v1 (g : Word) := ffma (jbF j 3) v (fmul (jbF j 4) (fmul g g))
  match jbOpt j with
  | 1 => { w := ffma (fneg lr) gw w, m := m, v := v, u := gw }
  | 2 =>
    let mm := ffma b1_ m gw
    let d := if jbFlag j 1 then ffma b1_ mm gw else mm
    { w := ffma (fneg lr) d w, m := mm, v := v, u := d }
  | 3 =>
    let u := fdiv (m1 gw) (adamS j c (v1 gw))
    { w := ffma (fneg c.alpha) u w, m := m1 gw, v := v1 gw, u := u }
  | 4 =>
    let u := fdiv (m1 g0) (adamS j c (v1 g0))
    { w := ffma (fneg c.alpha) u (ffma c.nlwd w w), m := m1 g0, v := v1 g0, u := u }
  | 5 =>
    let u := ffma wd w (fdiv (fdiv (m1 g0) (adamS j c (v1 g0))) c.bc1)
    { w := ffma (fneg c.lrt) u w, m := m1 g0, v := v1 g0, u := u }
  | _ =>
    let u := fsign (ffma b1_ m (fmul (jbF j 2) g0))
    { w := ffma (fneg lr) u (ffma c.nlwd w w), m := ffma (jbF j 3) m (fmul (jbF j 4) g0), v := v, u := u }

/-! ### Running a job (R270, R271, R277) -/

/-- What a job has done so far: its sums, its narrow conversions, the narrow bytes not yet written, its status, its elements and
the unit digest with the master weights that it wrote. -/
structure JobRun where
  wsq : Word
  usq : Word
  gsq : Word
  trk : Tracker
  narrow : List Byte
  status : Nat
  n : Nat
  dig : BitVec 64

/-- The narrow copy of an element (R277): n = w * 2^(127 - NSCALE), rounded once. -/
def narrowOf (s : Mach) (j : Job) (i : Nat) (w : Word) : FVal × (Nat × Bool) :=
  let x := (f32 w).mul (.fin false 1 (127 - (jbN j 3 1 : Int)))
  let r := if jbRnd j = 2 then draw s (BitVec.ofNat 32 (jbN j 100 4)) (BitVec.ofNat 32 i) 1 else 0
  (x, convElem (jbFmt j) (jbRnd j) r x)

def wordsOf (bs : List Byte) : List Word := (List.range 8).map (fun i => BitVec.ofNat 32 (numAt bs (4 * i) 4))
def bytesOfWords (ws : List Word) : List Byte := ws.flatMap bytesOf

/-- Read the code word of elements 8g to 8g + 7 of an array, if it is used. -/
def readGroup (use : Bool) (ea g : Nat) (s : Mach) : List Word × Bool × Mach :=
  if use then
    let x := readCws 1 (ea / 32 + g) 1 s
    (wordsOf ((x.1.headD ([], false)).1), (x.1.headD ([], false)).2, x.2)
  else (List.replicate 8 0, false, s)

/-- Write the narrow bytes that fill whole code words; `flush` writes the rest, which a failed job leaves, into the code word
that holds it. An uncorrectable code word stays as found (R397; DESIGN CHOICE, log entry 32). -/
def writeNarrow (j : Job) (done : Nat) (flush : Bool) (r : JobRun) (s : Mach) : JobRun × Mach :=
  let at_ := jbNarrowEa j + done * jbWidth j - r.narrow.length
  let k := r.narrow.length / 32
  let s1 := iter k (fun i s => writeCw (at_ / 32 + i) ((r.narrow.drop (32 * i)).take 32) false s) s
  let rest := r.narrow.drop (32 * k)
  if flush && !rest.isEmpty then
    let cw := at_ / 32 + k
    let x := readCws 1 cw 1 s1
    let old := x.1.headD ([], true)
    ({ r with narrow := [] }, if old.2 then x.2 else writeCw cw (rest ++ old.1.drop rest.length) false x.2)
  else ({ r with narrow := rest }, s1)

/-- Elements 8g to 8g + 7 of a job, which share their code words. -/
def jobGroup (j : Job) (c : Scal) (g : Nat) (st : JobRun × Mach) : JobRun × Mach :=
  let (r, s) := st
  if r.status ≠ 0 then st
  else
    let (gs, ue1, s1) := readGroup true (jbG j) g s
    let (ws, ue2, s2) := readGroup true (jbW j) g s1
    let (ms, ue3, s3) := readGroup (jbUsesM j) (jbM j) g s2
    let (vs, ue4, s4) := readGroup (jbUsesV j) (jbV j) g s3
    if ue1 || ue2 || ue3 || ue4 then ({ r with status := 1 }, s4)
    else
      let es := (List.range 8).map (fun i => optStep j c (ws.getD i 0) (ms.getD i 0) (vs.getD i 0) (gs.getD i 0))
      if jbNorm j then
        let acc (z : Word) (xs : List Word) := xs.foldl (fun a x => ffma x x a) z
        ({ r with wsq := acc r.wsq ws, usq := acc r.usq (es.map (·.u)), gsq := acc r.gsq gs, n := r.n + 8 }, s4)
      else
        let cw (ea : Nat) := ea / 32 + g
        let dig := if jbFlag j 4 then crc64From r.dig (bytesOfWords (es.map (·.w))) else r.dig
        let s5 := writeCw (cw (jbW j)) (bytesOfWords (es.map (·.w))) false s4
        let s6 := if jbUsesM j then writeCw (cw (jbM j)) (bytesOfWords (es.map (·.m))) false s5 else s5
        let s7 := if jbUsesV j then writeCw (cw (jbV j)) (bytesOfWords (es.map (·.v))) false s6 else s6
        if jbNarrow j then
          let ns := (es.zipIdx).map (fun e => narrowOf s j (8 * g + e.2) e.1.w)
          let r1 := { r with
            n := r.n + 8
            dig := dig
            trk := ns.foldl (fun t x => track (jbFmt j) true x.1 x.2.2 t) r.trk
            narrow := r.narrow ++ ns.flatMap (fun x => toBytes (jbWidth j) x.2.1) }
          writeNarrow j r1.n false r1 s7
        else ({ r with n := r.n + 8, dig := dig }, s7)

def JobRun.start (status : Nat) (dig : BitVec 64) : JobRun :=
  { wsq := 0, usq := 0, gsq := 0, trk := .reset, narrow := [], status := status, n := 0, dig := dig }

/-- Run every element of a job; the unit digest takes in the master weights that it writes (R280). -/
def jobRun (j : Job) (status : Nat) (dig : BitVec 64) (s : Mach) : JobRun × Mach :=
  let (r, s1) := iter (jbCount j / 8) (jobGroup j (scal j)) (JobRun.start status dig, s)
  writeNarrow j r.n true r s1

/-- The job record (R271). -/
def jobRecord (s : Mach) (r : JobRun) : List Byte :=
  bytesOf r.wsq ++ bytesOf r.usq ++ bytesOf r.gsq ++ bytesOf r.trk.maxabs ++ bytesOf r.trk.sat ++ bytesOf r.trk.nan ++
    toBytes 1 r.status ++ toBytes 3 0 ++ toBytes 4 (roundNow s).toNat ++ toBytes 4 r.n

/-- The units that a job's arrays take of the read and write classes, where n elements are done and `nr` were read: those of the group
at which it failed among them, and the code word that the rest of a narrow copy joins (R241, R273). -/
def jobUnits (j : Job) (nr n : Nat) (s : Mach) : Mach :=
  let arrays := [(true, jbG j), (true, jbW j), (jbUsesM j, jbM j), (jbUsesV j, jbV j)]
  let take (cls k : Nat) (l : List (Bool × Nat)) (s : Mach) : Mach :=
    l.foldl (fun s e => if e.1 then useUnits cls e.2 (4 * k) s else s) s
  let s1 := take 0 nr arrays s
  if jbNorm j then s1
  else
    let s2 := take 1 n (arrays.drop 1) s1
    let m := n * jbWidth j
    let s3 := if jbNarrow j && m % 32 != 0 then useUnits 0 (jbNarrowEa j + m / 32 * 32) 32 s2 else s2
    if jbNarrow j then useUnits 1 (jbNarrowEa j) m s3 else s3

/-- The unit writes in its stack, in the write class (R273). -/
def unitWrite (ea : Nat) (bs : List Byte) (s : Mach) : Mach := useUnits 1 ea bs.length (writeEdge ea bs s)

/-- The unit reads its stack, in the read class (R273). -/
def unitRead (ea n : Nat) (s : Mach) : List (Byte × Bool) × Mach :=
  let x := readEdge 1 ea n s
  (x.1, useUnits 0 ea n x.2)

/-! ### Lists (R265 to R267, R272) -/

/-- UU_EVT or DIG event b of UU_EVT rises (R292, R578). -/
def trnEvt (b : Nat) (s : Mach) : Mach := raiseIrq 4 (noteRaise 0x104014 b (modTrn (fun t => { t with evt := setBit t.evt b }) s))

/-- The status that a job has before it touches an element (R269, R271). -/
def jobCheck (s : Mach) (u : Nat) (j : Job) : Nat :=
  if stackOut s u then 4
  else if !jobOk s u j then 2
  else if (jbN j 56 1).testBit 7 ∧ (tget 0 (unitAt s u).arr (jbN j 56 1 % 4)).toNat < jbN j 60 4 then 3
  else 0

/-- Job `n` of a list starts: its descriptor is read and checked (R269). -/
def startJob (u : Nat) (l : RunList) (n : Nat) (s : Mach) : Mach :=
  let x := unitRead (l.jobs + 128 * n) 128 s
  let bs := x.1.map (·.1)
  let ue := x.1.any (·.2)
  let st := if ue then 1 else jobCheck x.2 u bs
  modUnit u (fun y => { y with job := BitVec.ofNat 16 n, list := some { l with
    job := n, desc := if ue then [] else bs, status := BitVec.ofNat 8 st } }) x.2

/-- The header of a list (R266). -/
def listOk (s : Mach) (u : Nat) (h : List Byte) : Bool :=
  let jobs := numAt h 8 8
  let win (k : Nat) := (numAt h (16 + 16 * k) 8, numAt h (24 + 16 * k) 8)
  numAt h 0 4 == 0x5A554C53 && decide (1 ≤ numAt h 4 2) && numAt h 6 2 == 0 && numAt h 80 48 == 0 && jobs % 128 == 0 &&
    inUnit s u jobs (128 * numAt h 4 2) &&
    (List.range 4).all (fun k => decide ((win k).1 < 2 ^ 41) && (win k).1 % 32 == 0 && (win k).2 % 32 == 0)


/-- A list ends: its command completes (R573). -/
def endList (u status : Nat) (s : Mach) : Mach :=
  match (unitAt s u).list with
  | none => s
  | some l =>
    complete l.owed 0x00 (status + 65536 * l.job)
      (modUnit u (fun x => { x with list := none, stop := false, status := BitVec.ofNat 8 status }) s)


/-- An update fault (R272). -/
def uuFault (u : Nat) (rec_ : List Byte) (s : Mach) : Mach :=
  uncorrected 0x32 (logAt 0x32 4 1 0xFFFF u 0 (toBytes 1 u ++ rec_)
    (trnEvt 1 (noteRaise (0x104400 + 0x20 * u) 30 (modUnit u (fun x => { x with fault := true }) s))))

/-- A list starts (R265, R267). A header in the keep region fails as a job's array there does (R209, R269). -/
def startList (u : Nat) (a : ArmedList) (s : Mach) : Mach :=
  let kept := s.edge.keepEn && inKeep a.ea 128
  let x := if kept || stackOut s u then ([], s) else unitRead a.ea 128 s
  let h := x.1.map (·.1)
  let st := if stackOut s u then 4 else if x.1.any (·.2) then 1 else if kept || !listOk s u h then 2 else 0
  let l : RunList := { owed := a.owed, njob := numAt h 4 2, jobs := numAt h 8 8, job := 0, desc := [], status := 0 }
  let s1 := modUnit u (fun y => { y with
    list := some l, stop := false, arr := [], job := 0
    win := (List.range 4).map (fun k => (numAt h (16 + 16 * k) 8, numAt h (24 + 16 * k) 8)) }) x.2
  if st ≠ 0 then
    uuFault u (jobRecord s (JobRun.start st 0)) (endList u st (modUnit u (fun y => { y with win := [] }) s1))
  else startJob u l 0 s1

/-- An idle unit starts the first list that is queued and whose round has started, and behind one that ends at once the next. A list that
was queued by an arm and whose named round has not started when the running list ends waits for its round (R265; DESIGN CHOICE, log
entry 32). -/
def nextLists (u : Nat) : Nat → Mach → Mach
  | 0, s => s
  | n + 1, s =>
    let x := unitAt s u
    if x.list.isSome then s
    else
      match x.waiting.find? (fun a => a.queued && roundStarted s a.round) with
      | some a => nextLists u n (startList u a (modUnit u (fun y => { y with waiting := y.waiting.erase a }) s))
      | none => modUnit u (fun y => { y with waiting := y.waiting.map (fun a => { a with queued := false }) }) s

def nextList (u : Nat) (s : Mach) : Mach := nextLists u ((unitAt s u).waiting.length + 1) s

/-- Round m starts at a unit (R265): its lists that name the round start, or are queued behind a list that runs. No list starts
late: one whose round was skipped is dropped with the status of a late command (DESIGN CHOICE, log entry 32). -/
def roundLists (m : BitVec 48) (u : Nat) (s : Mach) : Mach :=
  let late (a : ArmedList) : Bool := !a.queued && decide (a.round.toNat < m.toNat)
  let s1 := modUnit u (fun y => { y with waiting := (y.waiting.filter (fun a => !late a)).map (fun a =>
    { a with queued := a.queued || a.round == m }) }) s
  nextList u (((unitAt s u).waiting.filter late).foldl (fun s a => complete a.owed 0x04 0 s) s1)

/-- The lists of every unit at a round start. -/
def startLists (m : BitVec 48) (s : Mach) : Mach := iter 32 (roundLists m) s

/-- Every list ends without a record, and those queued are dropped (R454). -/
def dropLists (s : Mach) : Mach :=
  iter 32 (fun u s =>
    let x := unitAt s u
    let s1 := match x.list with | some l => complete l.owed 0x10 (x.status.toNat + 65536 * l.job) s | none => s
    x.waiting.foldl (fun s a => complete a.owed 0x10 0 s)
      (modUnit u (fun y => { y with list := none, waiting := [], stop := false }) s1)) s

def updateJobEnd (u : Nat) (s : Mach) : Mach :=
  match (unitAt s u).list with
  | none => s
  | some l =>
    let j := l.desc
    let dig := (unitAt s u).dig
    let (r, s1) := if j.isEmpty then (JobRun.start 1 dig, s) else jobRun j (if stackOut s u then 4 else l.status.toNat) dig s
    let rec_ := jobRecord s r
    let touched := !j.isEmpty && (r.status == 0 || r.status == 1)
    let s2 := if touched then jobUnits j (if r.status = 1 then r.n + 8 else r.n) r.n s1 else s1
    let s3 := if !j.isEmpty && inUnit s u (jbRec j) 32 && !stackOut s u then unitWrite (jbRec j) rec_ s2 else s2
    let c := scal j
    let s4 := if r.status = 0 ∧ !jbNorm j ∧ jbUsesV j then
        unitWrite (l.jobs + 128 * l.job + 96) ((j.drop 96).take 8 ++ bytesOf c.p1 ++ bytesOf c.p2 ++ j.drop 112) s3
      else s3
    let s5 := modUnit u (fun x => { x with
      status := BitVec.ofNat 8 r.status
      dig := r.dig
      elem := if j.isEmpty || jbNorm j then x.elem else satAdd x.elem r.n
      ended := x.ended || (r.status == 0 && jbFlag j 2) }) s4
    if r.status ≠ 0 then nextList u (endList u r.status (uuFault u rec_ s5))
    else if (unitAt s u).stop || decide (l.njob ≤ l.job + 1) then nextList u (endList u 0 s5)
    else startJob u l (l.job + 1) s5

def execUpdateJobEnd (u : Fin 32) (s : State) : Res := run (updateJobEnd u.val) s

/-- A write of UU_CTRL (R272, R292). -/
def uuStop (v : Word) (s : Mach) : Mach :=
  iter 32 (fun u s => if bit v u && (unitAt s u).list.isSome then modUnit u (fun x => { x with stop := true }) s else s) s

def execUuStop (v : Word) (s : State) : Res := runAccess 0x104010 (uuStop v) s

/-- UPDATE_LIST arms a list; one that is armed while another runs is queued, if none is (R265). -/
def updateList (q : Nat) (d : Desc) (s : Mach) : Mach :=
  startCmd q d (cB d 0 1 == 0x12) [(8, 6), (16, 8)] (fun o s =>
    let ea := cB d 16 8
    let u := stackOf ea
    match cmdRound s (cmdVer s o) d 8 with
    | none => complete o 0x02 0 s
    | some m =>
      let x := unitAt s u
      if 2 ^ 41 ≤ ea ∨ ea % 32 ≠ 0 ∨ stackOf (ea + 127) ≠ u then complete o 0x02 0 s
      else if roundStarted s m then complete o 0x04 0 s
      else if x.list.isSome && x.waiting.any (·.queued) then complete o 0x09 0 s
      else modUnit u (fun x => { x with waiting := insertBy (fun w => w.owed.tok) ⟨m, ea, o, x.list.isSome⟩ x.waiting }) s) s

def execUpdateList (q : Fin 16) (d : Desc) (s : State) : Res := run (updateList q.val d) s

/-! ### The weight digests (R281 to R284) -/

/-- The peers of the digest group (R282). -/
def digPeers (s : Mach) : List (BitVec 16) :=
  (s.trn.peers.filter (fun e => bit e.2 16 && fld e.2 0 16 != s.ctl.id)).map (fun e => fld e.2 0 16)

/-- The exchange interval, and the first exchange step at or after a step. -/
def digInterval (s : Mach) : Nat := s.trn.digIvm1.toNat + 1
def nextExchange (s : Mach) (step : Nat) : Nat := step + (digInterval s - 1 - step % digInterval s)

/-- DIG_STAT (R293). -/
def digStat (t : Train) : Word := t.outcome ++ t.agree ++ t.recv ++ (0 : BitVec 16)

/-- A DIGEST record (R540). -/
def digRecord (flags : Nat) (step : Word) (s : Mach) : Mach :=
  logModule 0x31 flags (bytesOf (digStat s.trn) ++ bytesOf step ++
    toBytes 4 ((if s.trn.badValid then 65536 else 0) + s.trn.badId.toNat)) s

/-- RS_NAMED names a failed module, the first one until it is cleared (R449, R460). -/
def nameFailed (id : BitVec 16) (s : Mach) : Mach :=
  noteRaise 0x10E00C 16 <| modKeep (fun k => { k with namedValid := true, namedId := if k.namedValid then k.namedId else id }) s

/-- The decision for the own digest (R284). -/
def digDecide (o : OwnDigest) (s : Mach) : Mach :=
  let peers := digPeers s
  let n := peers.length + 1
  let got := s.trn.kept.filter (fun d => d.step == o.step && peers.contains d.sender)
  let a := 1 + (got.filter (fun d => d.value == o.value)).length
  let bad := got.find? (fun d => d.value != o.value)
  let other := got.any (fun d => d.value != o.value &&
    decide (n < 2 * (got.filter (fun e => e.value == d.value)).length))
  let out : Nat := if n < 2 * a then (if bad.isSome then 2 else 1) else if other then 3 else 4
  let s1 := modTrn (fun t => { t with
    outcome := BitVec.ofNat 3 out, agree := BitVec.ofNat 7 a, recv := BitVec.ofNat 6 got.length
    digStep := o.step, digLast := o.value, own := t.own.filter (· != o)
    kept := t.kept.filter (fun d => d.step != o.step) }) s
  let s2 := if got.length < peers.length then trnEvt 2 s1 else s1
  match out with
  | 1 => s2
  | 2 =>
    let id := (bad.map (·.sender)).getD 0
    digRecord 0 o.step (trnEvt 3 (noteRaise 0x104034 16 (modTrn (fun t => { t with badValid := true, badId := id }) s2)))
  | 3 => uncorrected 0x31 (digRecord 3 o.step (nameFailed s.ctl.id (trnEvt 4 s2)))
  | _ => enterHold (digRecord 2 o.step (trnEvt 5 s2))

/-- The module decides a step as soon as it holds every peer's digest of it. -/
def digTry (s : Mach) : Mach :=
  s.trn.own.foldl (fun s o =>
    if (digPeers s).all (fun p => s.trn.kept.any (fun d => d.step == o.step && d.sender == p)) then digDecide o s else s) s

/-- A digest message (R283). -/
def digMsg (step : Word) (v : BitVec 64) (sender : BitVec 16) : BitVec 192 :=
  BitVec.ofNat 192 (ofBytes (toBytes 4 0x33 ++ bytesOf step ++ bytesOf v ++ bytesOf sender ++ toBytes 6 0))

/-- A digest leaves toward a module over the partner table (R283); one that has no route is dropped. -/
def sendDigest (dst : BitVec 16) (m : BitVec 192) (s : Mach) : Mach :=
  match routePort s dst with
  | some p => sendSeq p (.digest m) s
  | none => s

def digestArrive (m : BitVec 192) (s : Mach) : Mach :=
  let step := fld m 32 32
  let sender := fld m 128 16
  let base := match s.trn.own.head? with | some o => o.step.toNat | none => nextExchange s s.trn.step.toNat
  let want := step.toNat == base % 2 ^ 32 || step.toNat == (base + digInterval s) % 2 ^ 32
  let dup := s.trn.kept.any (fun d => d.step == step && d.sender == sender)
  if want && !dup && (digPeers s).contains sender then
    digTry (modTrn (fun t => { t with kept := t.kept ++ [⟨step, sender, fld m 64 64⟩] }) s)
  else digRecord 0 step s

def execDigest (_port : Fin 64) (m : BitVec 192) (s : State) : Res := run (digestArrive m) s

/-- A digest comes off a link (R283): the message names no target, so which module it is for is a free value (log entry 32).
Where it is for another one, it is forwarded with one hop more. -/
def digestMsg (m : BitVec 192) (s : Mach) : Mach :=
  let dst : BitVec 16 := fld (Config.free32 s.free) 0 16
  let s1 : Mach := { s with free := s.free + 1 }
  if s.ctl.assigned && dst == s.ctl.id then digestArrive m s1
  else if fld m 16 8 = 255 then s1
  else sendDigest dst (setByte m 2 (fld m 16 8 + 1)) s1

/-- The wait for peers ends (R284): TIMEOUT rounds have started since an own digest was formed. -/
def digestTimeout (s : Mach) : Mach :=
  s.trn.own.foldl (fun s o => if max 1 s.trn.digTimeout.toNat ≤ o.rounds then digDecide o s else s) s

def execDigestTimeout (s : State) : Res := run digestTimeout s

/-- The module digest is formed when every unit has ended the step (R281, R282). -/
def formDigest (s : Mach) : Mach :=
  if (List.range 32).all (fun u => (unitAt s u).ended) then
    let step := s.trn.step
    let v := crc64 ((List.range 32).flatMap (fun u => bytesOf (unitAt s u).dig))
    let s1 := iter 32 (fun u s => modUnit u (fun x => { x with digLat := x.dig, dig := 0, ended := false }) s) s
    let s2 := trnEvt 0 (modTrn (fun t => { t with step := if t.stepWritten then t.step else t.step + 1 }) s1)
    if s.trn.digEn && step.toNat % digInterval s == digInterval s - 1 then
      let s3 := (digPeers s2).foldl (fun s p => sendDigest p (digMsg step v s.ctl.id) s) s2
      digTry (modTrn (fun t => { t with own := t.own ++ [⟨step, v, 0⟩] }) s3)
    else s2
  else s

/-- The seed and the step that the draws of the round use (R286). -/
def latchStrand (s : Mach) : Mach :=
  modTrn (fun t => { t with seedLat := t.seed, stepLat := t.step, stepWritten := false }) s

/-- Another round has started since the own digest was formed. -/
def ageDigest (s : Mach) : Mach := modTrn (fun t => { t with own := t.own.map (fun o => { o with rounds := o.rounds + 1 }) }) s

/-- STR_STEP is written (R281, R291): after a change, only jobs that complete from now on count for the step. -/
def setStep (v : Word) (s : Mach) : Mach :=
  let s1 := if v = s.trn.step then s else iter 32 (fun u s => modUnit u (fun x => { x with ended := false }) s) s
  modTrn (fun t => { t with step := v, stepWritten := true }) s1

/-- DIGEST_SET takes effect (R573). -/
def applyDigSet (d : DigSet) (s : Mach) : Mach :=
  complete d.owed 0x00 0 (modTrn (fun t => { t with
    digEn := d.en, digIvm1 := d.ivm1, digTimeout := d.timeout
    peers := tblOf 63 (fun i => if i < d.ids.length then (1 : BitVec 1) ++ d.ids.getD i 0
                                else fld (tget 0 t.peers i) 0 16 |>.setWidth 17) }) s)

def digestSet (q : Nat) (d : Desc) (s : Mach) : Mach :=
  startCmd q d (cB d 0 1 == 0x39) [(8, 5), (16, 8)] (fun o s =>
    let n := cB d 12 1
    let ea := cB d 16 8
    if cmdVer s o ≠ 2 then complete o 0x01 0 s
    else if 1 < cB d 8 1 ∨ 63 < n ∨ 2 ^ 41 < ea + 2 * n ∨ (n ≠ 0 ∧ s.edge.keepEn ∧ inKeep ea (2 * n)) then complete o 0x02 0 s
    else
      let x := readEdge 3 ea (2 * n) s
      if x.1.any (·.2) || (stackOut s (stackOf ea) && n != 0) then complete o 0x0F 0 x.2
      else
        let e : DigSet :=
          { en := bit d 64, ivm1 := BitVec.ofNat 8 (cB d 9 1), timeout := BitVec.ofNat 16 (cB d 10 2)
            ids := (List.range n).map (fun i => BitVec.ofNat 16 (numAt (x.1.map (·.1)) (2 * i) 2)), owed := o }
        modTrn (fun t => { t with digSet := insertBy (fun e => e.owed.tok) e t.digSet }) x.2) s

def execDigestSet (q : Fin 16) (d : Desc) (s : State) : Res := run (digestSet q.val d) s

/-- DIGEST_SET commands take effect at a round start. -/
def applyDigSets (s : Mach) : Mach :=
  s.trn.digSet.foldl (fun s d => applyDigSet d s) (modTrn (fun t => { t with digSet := [] }) s)

end Sys2Proof.Machine
end

