-- ==== Sys2Proof/WellFormed.lean ====
section
/-! DEFINITION. Which terms of Instr are commands: lists of bytes, rows and marks have the lengths that the command's
rule gives them. Every other operand is bounded by its type. -/

namespace Sys2Proof

/-- A remote write carries 1 to 24 words of 8 bytes (R346). -/
def RWriteMsg.wf (m : RWriteMsg) : Bool := m.data.length % 8 == 0 && decide (8 ≤ m.data.length ∧ m.data.length ≤ 192)

/-- A remote read asks for 1 to 24 words (R346). -/
def RReadMsg.wf (m : RReadMsg) : Bool := decide (1 ≤ m.len8.toNat ∧ m.len8.toNat ≤ 24)

/-- An answer carries whole words, and none when its status is nonzero (R346). -/
def RDataMsg.wf (m : RDataMsg) : Bool :=
  if m.status = 0 then m.data.length % 8 == 0 && decide (8 ≤ m.data.length ∧ m.data.length ≤ 192)
  else m.data.isEmpty

/-- An answer to a keep read: bit 7 of STATUS marks it, the rest is the cause code (R442). -/
def RDataMsg.keepWf (m : RDataMsg) : Bool := RDataMsg.wf { m with status := m.status &&& 0x7F }

/-- LEN or LENGTH of a command descriptor: n bytes from byte `off`. -/
def descNum (d : Desc) (off n : Nat) : Nat := (d.extractLsb' (8 * off) (8 * n)).toNat

/-- The data that a command read from host memory, if the read succeeded, has the length that it asked for. -/
def hostData (n : Nat) (data : Option (List Byte)) : Bool :=
  match data with
  | some l => l.length == n
  | none => true

/-- The data of a remote write flit: a row for every 64 bytes or part of them of each run (R217, R342). -/
def rowCount (flit : Row) : Nat :=
  let runlen := (flit.extractLsb' 128 32).toNat
  (runlen + 63) / 64 * (flit.extractLsb' 160 16).toNat

/-- A code word carries 640 bytes of payload, two flits and a half, so a flit lies in one code word or two (R302, R305). -/
def FecSeen.wf (f : FecSeen) : Bool :=
  let n := (if f.shared then 1 else 0) + f.errs.length
  decide (1 ≤ n ∧ n ≤ 2)

/-- A command is well formed. -/
def Instr.wf : Instr → Bool
  | .vzlFlit _ _ fec => fec.wf
  | .rwrite _ m => m.wf
  | .rread _ m => m.wf
  | .rdata _ m => m.wf
  | .keepRwrite _ m => m.wf
  | .keepRread _ m => m.wf
  | .keepRdata _ m => m.keepWf
  | .remoteWriteRequest _ _ _ flit rows => rows.length == rowCount flit
  | .apertureRead off len => off.within len
  | .apertureWrite off data => off.within data.length
  | .hostCopyToEdge _ d data => hostData (descNum d 32 4) data
  | .ckptImport _ d data => hostData (descNum d 24 8) data
  | .licenceInstall _ _ data => hostData 160 data
  | .keyFuseProgram _ _ data => hostData 256 data
  | .keyFuseRevoke _ _ data => hostData 256 data
  | .fwUpdate _ d data => hostData (descNum d 24 4) data
  | _ => true

end Sys2Proof
end

