-- ==== Sys2Proof/Machine/Remote.lean ====
section
/-! DEFINITION. Remote access: remote blocks at a port, the messages and the target checks, system fences, the partner
and window commands, and the twin mode (10_remote_access_and_ordering.md, 11_systems_and_job_mapping.md). -/

namespace Sys2Proof.Machine

/-! ### Paths (R335, R367, R368) -/

/-- The port's partner is the routable partner with an ID (R367), and the port carries remote-access messages (R373). -/
def directTo (s : Mach) (p : Nat) (id : BitVec 16) : Bool :=
  let x := portAt s p
  x.partner && x.pid == id && !(twinHeld s && twinPort p) &&
    (match routeOf s id with | some e => e.serial == x.pser | none => false)

/-- A message that port p forms leaves on p or goes to the port switch; the egress port of its path. -/
def sendFrom (p : Nat) (m : Msg) (s : Mach) : Mach := if directTo s p (msgDst m) then sendSeq p m s else switchMsg m s
def pathOf (s : Mach) (p : Nat) (id : BitVec 16) : Nat := if directTo s p id then p else (routePort s id).getD p

/-- The module discards remote-access messages until the hold ends (R454). -/
def deaf (s : Mach) : Bool := s.keep.armed && s.rnd.hold

/-! ### Splitting runs (R343) -/

/-- The messages of a run from offset `off`: byte of the run and length. -/
def splitRun (off len : Nat) : Nat → Nat → List (Nat × Nat)
  | 0, _ => []
  | n + 1, pos =>
    if len ≤ pos then []
    else
      let stop := min len (((off + pos) / 64 + 3) * 64 - off)
      (pos, stop - pos) :: splitRun off len n stop

/-- The messages of a block: run, byte of the run, length and remote address. -/
def splitBlock (ra stride runlen nrun : Nat) : List (Nat × Nat × Nat × Nat) :=
  (List.range nrun).flatMap (fun r =>
    let a := ra + r * stride
    (splitRun (a % 2 ^ 36) runlen (runlen / 128 + 2) 0).map (fun m => (r, m.1, m.2, a + m.1)))

def raTarget (a : Nat) : BitVec 16 := BitVec.ofNat 16 (a / 2 ^ 46)
def raWindow (a : Nat) : Nat := a / 2 ^ 36 % 1024
def raOffset (a : Nat) : Nat := a % 2 ^ 36

/-- Cause with which a port refuses a block at once, 0 when it takes it (R343, R373). -/
def refuseBlock (s : Mach) (p : Nat) (f : Row) : Nat :=
  if !s.ctl.assigned then 1
  else if raTarget (dB f 8 8 % 2 ^ 62) = s.ctl.id ∨ (twinHeld s ∧ twinPort p) then 9 else 0

/-- A port sends a row on a rim link in a phase (R343 to R345): where the phase is a stack's, or the link's core is absent or dead, it
carries nothing (R215, R301). -/
def portRow (p ret : Nat) (row : Row) (poison rej : Bool) (s : Mach) : Mach :=
  if portLink s p (ret % 16) (ret / 16 % 4) then
    rimSend (32 + p) (portDie p) (portSide (p % 32)) (ret % 16) (ret / 16 % 4) ⟨row, poison, rej⟩ s
  else s

/-! ### Remote reads (R343, R345) -/

/-- Messages of port p that are issued and not answered. -/
def openReads (s : Mach) (p : Nat) : Nat :=
  (s.rmt.reads.filter (fun r => r.port == p)).foldl (fun n r =>
    n + (r.msgs.filter (fun m => m.issued.isSome && m.answer.isNone)).length) 0

/-- The RREAD of a message. -/
def mkRread (s : Mach) (r : RemRead) (m : ReadMsg) (a : Nat) (rid : Word) : Msg :=
  .rread { src := s.ctl.id, dst := raTarget a, window := BitVec.ofNat 16 (raWindow a), offset := BitVec.ofNat 64 (raOffset a),
           sepoch := s.epoch, stag := r.stag, round := (roundNow s).setWidth 16, hops := 0,
           len8 := BitVec.ofNat 8 (m.len / 8), rid := rid }

/-- The remote address of run 0 of a read. -/
def readAddr (r : RemRead) : Nat := r.target.toNat * 2 ^ 46 + r.window.toNat * 2 ^ 36 + r.offset.toNat

/-- Issue the first message of port p that waits; `i` is the place of its read. -/
def issueNext (p : Nat) (s : Mach) : Mach :=
  match (s.rmt.reads.zipIdx).find? (fun e => e.1.port == p && e.1.msgs.any (fun m => m.issued.isNone)) with
  | none => s
  | some (r, i) =>
    match (r.msgs.zipIdx).find? (fun e => e.1.issued.isNone) with
    | none => s
    | some (m, j) =>
      let rid := s.rmt.nextRid
      let m1 := { m with rid := rid, issued := some (roundNow s) }
      let s1 := modRmt (fun x => { x with nextRid := rid + 1, reads := x.reads.set i { r with msgs := r.msgs.set j m1 } }) s
      sendFrom p (mkRread s r m (readAddr r + m.run * r.stride + m.pos) rid) s1

/-- A port holds at most 256 unanswered reads (R345). -/
def issueReads (p : Nat) (s : Mach) : Mach := iter (256 - openReads s p) (fun _ s => issueNext p s) s

/-- Row i of a read is ready: every message that covers it is answered; its bytes and whether an answer failed. -/
def remRow (r : RemRead) (i : Nat) : Option (List Byte × Bool) :=
  let per := rowsPerRun r.runlen
  let run_ := i / per
  let lo := 64 * (i % per)
  let hi := min r.runlen (lo + 64)
  let cover := r.msgs.filter (fun m => m.run == run_ && decide (m.pos < hi ∧ lo < m.pos + m.len))
  if cover.all (fun m => m.answer.isSome) then
    let fail := cover.any (fun m => match m.answer with | some a => a.1 != 0 | none => false)
    let bytes := (List.range (hi - lo)).map (fun b =>
      match cover.find? (fun m => decide (m.pos ≤ lo + b ∧ lo + b < m.pos + m.len)) with
      | some m => match m.answer with | some a => a.2.getD (lo + b - m.pos) 0 | none => 0
      | none => 0)
    some (bytes, fail)
  else none

/-- Rows of a read leave in order while they are ready (R345). -/
def sendRows : Nat → RemRead → Mach → RemRead × Mach
  | 0, r, s => (r, s)
  | n + 1, r, s =>
    if rowsPerRun r.runlen * r.nrun ≤ r.sent then (r, s)
    else
      match remRow r r.sent with
      | none => (r, s)
      | some (bs, fail) =>
        let row : Row := if fail then (if r.failed then 0 else 8) else BitVec.ofNat 512 (ofBytes bs)
        sendRows n { r with sent := r.sent + 1, failed := r.failed || fail }
          (portRow r.port (r.link + 16 * r.phase) row fail fail s)

/-- Every read of the module sends what is ready; finished reads leave. -/
def flushReads (s : Mach) : Mach :=
  let x := s.rmt.reads.foldl (fun (st : List RemRead × Mach) r =>
    let y := sendRows (rowsPerRun r.runlen * r.nrun) r st.2
    (if y.1.sent < rowsPerRun r.runlen * r.nrun then st.1 ++ [y.1] else st.1, y.2)) ([], s)
  modRmt (fun r => { r with reads := x.1 }) x.2

def remoteRead (p : Nat) (f : Row) (s : Mach) : Mach :=
  if dB f 0 1 ≠ 0x11 then s
  else
    let ret := dB f 2 1
    if refuseBlock s p f ≠ 0 then
      iter (rowsPerRun (rqRunlen f) * rqNrun f) (fun i s => portRow p ret (if i = 0 then 8 else 0) true true s) s
    else
      let ra := dB f 8 8 % 2 ^ 62
      let ms := (splitBlock ra (rqStride f) (rqRunlen f) (rqNrun f)).map (fun m =>
        ({ run := m.1, pos := m.2.1, len := m.2.2.1, rid := 0, issued := none, answer := none } : ReadMsg))
      let r : RemRead :=
        { port := p, link := ret % 16, phase := ret / 16 % 4, target := raTarget ra, window := BitVec.ofNat 10 (raWindow ra),
          offset := BitVec.ofNat 64 (raOffset ra), stride := rqStride f, runlen := rqRunlen f, nrun := rqNrun f,
          stag := BitVec.ofNat 32 (dB f 4 4), mlc := dB f 22 2, msgs := ms, sent := 0, failed := false }
      issueReads p (modRmt (fun x => { x with reads := x.reads ++ [r] }) s)

/-- The flit comes on a rim link and phase of the port (R215, R301). -/
def execRemoteReadRequest (port : Fin 64) (link : Fin 16) (phase : Fin 4) (flit : Row) (s : State) : Res :=
  run (fun m => if portLink m port.val link.val phase.val then remoteRead port.val flit m else m) s

/-- An answer, or its absence, reaches the message with an identifier (R345). -/
def answerRead (rid : Word) (status : Byte) (data : List Byte) (ok : ReadMsg → Bool) (s : Mach) : Mach :=
  match s.rmt.reads.find? (fun r => r.msgs.any (fun m => m.rid == rid && m.issued.isSome && m.answer.isNone && ok m)) with
  | none => s
  | some r =>
    let s1 := modRmt (fun x => { x with reads := x.reads.map (fun y =>
      if y == r then { y with msgs := y.msgs.map (fun m =>
        if m.rid == rid && m.issued.isSome && m.answer.isNone then { m with answer := some (status, data) } else m) } else y) }) s
    issueReads r.port (flushReads s1)

def rreadTimeout (rid : Word) (s : Mach) : Mach :=
  answerRead rid 8 [] (fun m => match m.issued with
    | some r => decide (r.toNat + 2 ≤ (roundNow s).toNat) | none => false) s

def execRreadTimeout (_port : Fin 64) (rid : Word) (s : State) : Res := run (rreadTimeout rid) s

/-! ### Remote writes (R343, R344) -/

/-- A path that has been written since the previous system fence (R356). -/
def notePath (id : BitVec 16) (p : Nat) (s : Mach) : Mach :=
  modRmt (fun r =>
    if r.written.contains (id, BitVec.ofNat 6 p) then r else { r with written := r.written ++ [(id, BitVec.ofNat 6 p)] }) s

def remoteWrite (p : Nat) (f : Row) (rows : List Row) (s : Mach) : Mach :=
  if dB f 0 1 ≠ 0x12 then s
  else
    let ret := dB f 2 1
    if refuseBlock s p f ≠ 0 then portRow p ret 8 true true s
    else
      let per := rowsPerRun (rqRunlen f)
      let runBytes (r : Nat) := ((rows.drop (r * per)).take per).flatMap (fun x => toBytes 64 x.toNat)
      let s1 := (splitBlock (dB f 8 8 % 2 ^ 62) (rqStride f) (rqRunlen f) (rqNrun f)).foldl (fun s m =>
        let a := m.2.2.2
        let dst := raTarget a
        let w : RWriteMsg :=
          { src := s.ctl.id, dst := dst, window := BitVec.ofNat 16 (raWindow a), offset := BitVec.ofNat 64 (raOffset a),
            sepoch := s.epoch, stag := BitVec.ofNat 32 (dB f 4 4), round := (roundNow s).setWidth 16, hops := 0,
            data := ((runBytes m.1).drop m.2.1).take m.2.2.1 }
        sendFrom p (.rwrite w) (notePath dst (pathOf s p dst) s)) s
      portRow p ret 0 false false s1

def execRemoteWriteRequest (port : Fin 64) (link : Fin 16) (phase : Fin 4) (flit : Row) (rows : List Row) (s : State) : Res :=
  runIf (Instr.wf (.remoteWriteRequest port link phase flit rows)) 
    (fun m => if portLink m port.val link.val phase.val then remoteWrite port.val flit rows m else m) s

/-! ### Windows (R337 to R341) -/

def wnValid (w : BitVec 256) : Bool := bit w 0
def wnCores (w : BitVec 256) : Bool := bit w 1
def wnPr (w : BitVec 256) : Bool := bit w 2
def wnPw (w : BitVec 256) : Bool := bit w 3
def wnPa (w : BitVec 256) : Bool := bit w 4
def wnVoid (w : BitVec 256) : Bool := bit w 5
def wnPartner (w : BitVec 256) : BitVec 16 := fld w 16 16
def wnEpoch (w : BitVec 256) : Word := fld w 32 32
def wnBase (w : BitVec 256) : Nat := dB w 8 8
def wnGw (w : BitVec 256) : Nat := dB w 12 2
def wnGh (w : BitVec 256) : Nat := dB w 14 2
def wnRow (w : BitVec 256) : Nat := dB w 16 2
def wnRows (w : BitVec 256) : Nat := dB w 18 2
def wnPort (w : BitVec 256) : Nat := dB w 20 1
def wnLink (w : BitVec 256) : Nat := dB w 21 1
/-- Bytes of a window. -/
def wnSize (w : BitVec 256) : Nat := if wnCores w then wnGw w * wnGh w * wnRows w * 64 else dB w 16 8

/-- The module takes a window open (R338); without an assigned ID it takes none (R37). -/
def windowOk (s : Mach) (w : BitVec 256) : Bool :=
  s.ctl.assigned && fld w 6 2 == 0 && dZero w 1 1 && dZero w 24 8 && wnPartner w != s.ctl.id && !(wnPw w && wnPa w) &&
    (wnPr w || wnPw w || wnPa w) &&
    (if wnCores w then
      let gx := dB w 8 2
      let gy := dB w 10 2
      !wnPr w && !wnPa w && decide (1 ≤ wnGw w ∧ 1 ≤ wnGh w ∧ gx + wnGw w ≤ 256 ∧ gy + wnGh w ≤ 108) &&
        decide (1 ≤ wnRows w ∧ wnRow w + wnRows w ≤ 23552) && decide (wnSize w ≤ 2 ^ 36) && dZero w 22 2 &&
        decide (wnLink w < 64) && !darkPort s (wnPort w) && linkOwned s (wnPort w) (wnLink w % 16) (wnLink w / 16)
    else
      let b := wnBase w
      let n := wnSize w
      decide (b < 2 ^ 41) && b % 4096 == 0 && n % 4096 == 0 && decide (1 ≤ n ∧ n ≤ 2 ^ 36) &&
        decide (stackOf (b + n - 1) = stackOf b) && !(s.edge.keepEn && inKeep b n))

/-- The core and the row of an offset of a core window (R339). -/
def windowRow (s : Mach) (w : BitVec 256) (off : Nat) : Option Nat × Nat :=
  let k := off / (wnRows w * 64)
  (gridCore s (dB w 8 2 + k % wnGw w) (dB w 10 2 + k / wnGw w), wnRow w + off % (wnRows w * 64) / 64)

/-- Windows that name a lost partner, or that enter a keep region, become VOID (R341, R371). -/
def voidWindows (hit : BitVec 256 → Bool) (s : Mach) : Mach :=
  modRmt (fun r => { r with win := r.win.map (fun e => if wnValid e.2 && hit e.2 then (e.1, setBit e.2 5) else e) }) s

/-! ### Target checks (R347 to R350) -/

/-- The posting age is late (R349). -/
def isLate (s : Mach) (rnd : BitVec 16) : Bool :=
  let age := ((roundNow s).setWidth 16 - rnd).toNat
  decide (2 ≤ age ∧ age ≤ 32767)

/-- Cause of the first check that fails at the port switch, 0 when all pass. -/
def targetCause (s : Mach) (write : Bool) (src win rnd : BitVec 16) (off : BitVec 64) (sepoch : Word) (n : Nat) : Nat :=
  let w := tget 0 s.rmt.win (win.toNat % 1024)
  let o := off.toNat
  if isLate s rnd then 8
  else if !s.ctl.assigned then 1
  else if !wnValid w then 2
  else if wnVoid w || src != wnPartner w || sepoch != wnEpoch w then 3
  else if (!write && !wnPr w) || (write && !wnPw w && !wnPa w) then 4
  else if wnSize w < o + n || (write && (if wnCores w then o % 64 != 0 || n % 64 != 0 else o % 32 != 0 || n % 32 != 0)) ||
      (!write && o % 8 != 0) then 5
  else if (!wnCores w && stackOut s (stackOf (wnBase w))) || (wnCores w && (s.ctl.scope != 0 || !routesLive s)) then 7
  else 0

/-- The source of an RWRITE on a path has a rejection more (R356). -/
def countSrc (src : BitVec 16) (p : Nat) (l : List (BitVec 16 × BitVec 6 × BitVec 16)) : List (BitVec 16 × BitVec 6 × BitVec 16) :=
  if l.any (fun e => e.1 == src && e.2.1.toNat == p) then
    l.map (fun e => if e.1 == src && e.2.1.toNat == p then (e.1, e.2.1, satInc e.2.2) else e)
  else l ++ [(src, BitVec.ofNat 6 p, 1)]

/-- RMT_REJ counts a rejection (R363). -/
def countRej (cause : Nat) (s : Mach) : Mach :=
  modRmt (fun r => { r with rejCnt := satInc r.rejCnt, rejLast := BitVec.ofNat 8 cause }) s

/-- POST_LATE (R349). -/
def postLate (s : Mach) : Mach := uncorrected 0x41 (rmtEvt 4 s)

/-- An RWRITE is rejected (R350). -/
def rejectWrite (p cause : Nat) (m : RWriteMsg) (s : Mach) : Mach :=
  let s1 := countRej cause (if cause = 8 then postLate s else s)
  let s2 := modRmt (fun r => { r with rejects := countSrc m.src p r.rejects }) (rmtEvt 5 s1)
  switchMsg (mkLnack cause (ownId s) m.src m.window m.offset m.stag m.round) (uncorrected 0x41 (remoteRecord 1 s2))

/-- A forwarder rejects a write that has become late on its way (R349, R350). -/
def rejectTransit (m : RWriteMsg) (s : Mach) : Mach :=
  switchMsg (mkLnack 8 (ownId s) m.src m.window m.offset m.stag m.round)
    (uncorrected 0x41 (remoteRecord 1 (rmtEvt 5 (countRej 8 (postLate s)))))

/-- The first row of a core window that lies in the section store of its core, which discards the write and reports it (R94). -/
def windowHit (s : Mach) (w : BitVec 256) (off n : Nat) : Option (Nat × Nat) :=
  (List.range (n / 64)).findSome? (fun i =>
    let (k, row) := windowRow s w (off + 64 * i)
    k.bind (fun k => if inStore (coreAt s k) row then some (k, row) else none))

/-- Rows of a core window go into the wafer (R348). -/
def windowRows (w : BitVec 256) (data : List Byte) (s : Mach) : Mach :=
  iter (data.length / 64) (fun i s =>
    portRow (wnPort w) (wnLink w) (BitVec.ofNat 512 (ofBytes ((data.drop (64 * i)).take 64))) false false s) s

/-- An admitted RWRITE is performed: the cause with which performing it fails, 0 if it does not. -/
def performWrite (m : RWriteMsg) (s : Mach) : Nat × Mach :=
  let w := tget 0 s.rmt.win (m.window.toNat % 1024)
  let o := m.offset.toNat
  if wnCores w then
    match windowHit s w o m.data.length with
    | some (k, row) => (0x0A, ownership k (rowAddr row) s)
    | none => (0, windowRows w m.data s)
  else
    let ea := wnBase w + o
    let n := m.data.length
    if wnPa w then
      let x := reduceWrite ea m.data s
      (if 0 < x.1 then 6 else 0, useUnits 2 ea n (useUnits 2 ea n x.2))
    else (0, useUnits 2 ea n (writeEdge ea m.data s))

/-- An RWRITE of a port that is for this module (R347, R348, R350). -/
def takeWrite (p : Nat) (m : RWriteMsg) (s : Mach) : Mach :=
  let c := targetCause s true m.src m.window m.round m.offset m.sepoch m.data.length
  if c ≠ 0 then rejectWrite p c m s
  else
    let x := performWrite m s
    if x.1 ≠ 0 then rejectWrite p x.1 m x.2 else x.2

/-- An RREAD that is for this module (R347, R348); an uncorrectable code word is an uncorrected fault (R397). -/
def takeRead (m : RReadMsg) (s : Mach) : Mach :=
  let n := 8 * m.len8.toNat
  let c := targetCause s false m.src m.window m.round m.offset m.sepoch n
  let ans (st : Nat) (data : List Byte) : Msg :=
    .rdata { src := ownId s, dst := m.src, hops := 0, status := BitVec.ofNat 8 st, rid := m.rid, data := data }
  if c ≠ 0 then switchMsg (ans c []) (countRej c s)
  else
    let ea := wnBase (tget 0 s.rmt.win (m.window.toNat % 1024)) + m.offset.toNat
    let x := readEdge 2 ea n s
    let s1 := useUnits 2 ea n x.2
    if x.1.any (·.2) then switchMsg (ans 6 []) (countRej 6 (uncorrected 0x25 s1)) else switchMsg (ans 0 (x.1.map (·.1))) s1

/-- A remote-access message arrives at a port: this module's, or transit (R335). -/
def arriveMsg (p : Nat) (m : Msg) (own : Mach → Mach) (s : Mach) : Mach :=
  if deaf s || !portActive s p then s else if isOwn s m then own s else switchMsg m s

def rwriteArrive (p : Nat) (m : RWriteMsg) (s : Mach) : Mach :=
  if deaf s || !portActive s p then s
  else if isOwn s (.rwrite m) then takeWrite p m s
  else if isLate s m.round then rejectTransit m s
  else switchMsg (.rwrite m) s
def rreadArrive (p : Nat) (m : RReadMsg) : Mach → Mach := arriveMsg p (.rread m) (takeRead m)
def rdataArrive (p : Nat) (m : RDataMsg) : Mach → Mach :=
  arriveMsg p (.rdata m) (answerRead m.rid m.status m.data (fun _ => true))

def execRwrite (port : Fin 64) (m : RWriteMsg) (s : State) : Res := runIf m.wf (rwriteArrive port.val m) s
def execRread (port : Fin 64) (m : RReadMsg) (s : State) : Res := runIf m.wf (rreadArrive port.val m) s
def execRdata (port : Fin 64) (m : RDataMsg) (s : State) : Res := runIf m.wf (rdataArrive port.val m) s

/-! ### Late nacks (R351) -/

/-- Engine e of a core runs the block whose messages carry a stream tag. -/
def blockWithTag (c : Core) (e : Nat) (tag : Word) : Option Nat :=
  ((seAt c e).list.bind (fun l => l.inflight.find? (fun b =>
    bkSpace b.desc 8 == 2 && fld l.q.d 64 32 + BitVec.ofNat 32 b.no == tag))).map (·.no)

/-- The blocks of a stream tag stop with status 0x08. -/
def stopTagged (tag : Word) (s : Mach) : Mach :=
  (s.cores.map (·.1)).foldl (fun s k => [0, 1].foldl (fun s e =>
    match blockWithTag (coreAt s k) e tag with | some no => seStop k e no 8 s | none => s) s) s

/-- A 16-bit round number lies at or before a round. -/
def upTo (r : BitVec 16) (m : BitVec 48) : Bool := decide ((m.setWidth 16 - r).toNat < 32768)

/-- SYSF_STAT (R361). -/
def sysfStat (r : Remote) : Word := b1 (!r.fences.isEmpty) ++ r.sysfLast ++ r.sysfProbed ++ r.sysfRound

/-- A fence ends: 1 no error, 2 error, 3 timeout (R357). -/
def endFence (f : Fence) (last : Nat) (s : Mach) : Mach :=
  let s1 := modRmt (fun r => { r with
    sysfLast := BitVec.ofNat 2 last, sysfRound := f.round.setWidth 16, sysfProbed := f.probed
    fences := r.fences.filter (fun g => g != f)
    nacked := r.nacked.filter (fun n => !upTo n f.round) }) s
  let s2 := if last = 1 then s1 else uncorrected 0x41 (remoteRecord 1 (rmtEvt 7 s1))
  f.owed.foldl (fun s o => complete o (match last with | 1 => 0x00 | 2 => 0x0A | _ => 0x0B) (sysfStat s2.rmt).toNat s) s2

/-- A fence ends as soon as it is decided (R357): one that covers no RWRITE without error, one that an FACK or an LNACK failed with
error, another when its FACKs have all arrived. -/
def tryFence (f : Fence) (s : Mach) : Mach :=
  if f.probed = 0 then endFence f 1 s
  else if f.failed || s.rmt.nacked.any (fun n => upTo n f.round) then endFence f 2 s
  else if f.awaited.isEmpty then endFence f 1 s
  else s

def takeLnack (m : BitVec 256) (s : Mach) : Mach :=
  let rnd := fld m 160 16
  let s1 := noteRaise 0x10C064 (if s.rmt.nackValid then 30 else 31) <| modRmt (fun r =>
    let r1 : Remote := { r with nacked := r.nacked ++ [rnd] }
    if r.nackValid then { r1 with nackMulti := true }
    else { r1 with nackValid := true, nackCause := fld m 8 8, nackSrc := lnackSrc m, nackTag := fld m 128 32, nackRound := rnd }) s
  let s2 := stopTagged (fld m 128 32) (uncorrected 0x41 (remoteRecord 1 (rmtEvt 6 s1)))
  s2.rmt.fences.foldl (fun s f => tryFence f s) s2

def lnackArrive (p : Nat) (m : BitVec 256) : Mach → Mach := arriveMsg p (.lnack m) (takeLnack m)

def execLnack (port : Fin 64) (m : BitVec 256) (s : State) : Res := run (lnackArrive port.val m) s

/-! ### System fences (R356, R357) -/

/-- The system fence of round m starts (R356): an FPROBE on every path written. -/
def startFence (m : BitVec 48) (owed : List Owed) (s : Mach) : Mach :=
  let paths := s.rmt.written
  let f : Fence := { round := m, awaited := paths, probed := BitVec.ofNat 13 ((paths.map (·.1)).eraseDups).length, failed := false,
                     owed := owed }
  let s1 := modRmt (fun r => { r with written := [], fences := r.fences ++ [f] }) s
  let probe (id : BitVec 16) : Msg := .fprobe (BitVec.ofNat 128 (ofBytes (toBytes 2 0x44 ++ bytesOf s.ctl.id ++ bytesOf id ++
    toBytes 2 0 ++ toBytes 4 m.toNat ++ toBytes 4 0)))
  tryFence f (paths.foldl (fun s e => sendFrom e.2.toNat (probe e.1) s) s1)

/-- System fences are off (R361). -/
def fencesOff (s : Mach) : Bool := s.rmt.sysfMode == 0 || s.rmt.sysfMode == 3

/-- The fences that fall due when the round after `prev` starts (R356). With fences off no fence runs, and a command that named one
is refused (DESIGN CHOICE, log entry 52). -/
def roundFences (prev : BitVec 48) (s : Mach) : Mach :=
  let (due, rest) := s.rmt.named.partition (fun e => decide (e.1.toNat ≤ prev.toNat))
  let s1 := modRmt (fun r => { r with named := rest }) s
  if fencesOff s then due.foldl (fun s e => complete e.2 0x03 0 s) s1
  else if s.rmt.sysfMode = 1 ∨ !due.isEmpty then startFence prev (due.map (·.2)) s1
  else s1

def systemFenceTimeout (s : Mach) : Mach :=
  match s.rmt.fences.find? (fun f => decide (f.round.toNat + 2 ≤ (roundNow s).toNat)) with
  | some f => endFence f 3 s
  | none => s

def execSystemFenceTimeout (s : State) : Res := run systemFenceTimeout s

/-- An FPROBE is owed an FACK once the writes before it are done (R356); they are done when they arrive, so it takes the rejections
counted so far. -/
def takeProbe (p : Nat) (m : BitVec 128) : Mach → Mach :=
  modRmt (fun r =>
    let src : BitVec 16 := fld m 16 16
    let hit (x : BitVec 16 × BitVec 6 × BitVec 16) : Bool := x.1 == src && x.2.1.toNat == p
    { r with
      probes := r.probes ++ [(src, BitVec.ofNat 6 p, fld m 64 32, ((r.rejects.find? hit).map (fun x => x.2.2)).getD 0)]
      rejects := r.rejects.filter (fun x => !hit x) })

def fprobeArrive (p : Nat) (m : BitVec 128) : Mach → Mach := arriveMsg p (.fprobe m) (takeProbe p m)

def execFprobe (port : Fin 64) (m : BitVec 128) (s : State) : Res := run (fprobeArrive port.val m) s

def fackSend (p : Nat) (src : BitVec 16) (s : Mach) : Mach :=
  match s.rmt.probes.find? (fun e => e.1 == src && e.2.1.toNat == p) with
  | none => s
  | some e =>
    let n := e.2.2.2.toNat
    let s1 := modRmt (fun r => { r with probes := r.probes.erase e }) s
    sendFrom p (.fack (BitVec.ofNat 128 (ofBytes (toBytes 1 0x45 ++ toBytes 1 (if n = 0 then 0 else 1) ++ bytesOf s.ctl.id ++
      bytesOf src ++ toBytes 2 0 ++ bytesOf e.2.2.1 ++ toBytes 2 n ++ toBytes 2 0)))) s1

def execFackSend (port : Fin 64) (src : BitVec 16) (s : State) : Res := run (fackSend port.val src) s

/-- An FACK answers its path of the fence that it names (R357, R368). -/
def takeFack (p : Nat) (m : BitVec 128) (s : Mach) : Mach :=
  let src := fld m 16 16
  match s.rmt.fences.find? (fun f => f.round.setWidth 32 == fld m 64 32 && f.awaited.any (fun a => a.1 == src)) with
  | none => s
  | some f =>
    let key := if f.awaited.contains (src, BitVec.ofNat 6 p) then (src, BitVec.ofNat 6 p)
               else (f.awaited.find? (fun a => a.1 == src)).getD (src, 0)
    let f1 := { f with awaited := f.awaited.erase key, failed := f.failed || fld m 8 8 != 0 }
    tryFence f1 (modRmt (fun r => { r with fences := r.fences.map (fun g => if g == f then f1 else g) }) s)

def fackArrive (p : Nat) (m : BitVec 128) : Mach → Mach := arriveMsg p (.fack m) (takeFack p m)

def execFack (port : Fin 64) (m : BitVec 128) (s : State) : Res := run (fackArrive port.val m) s

/-! ### Late writes in a queue (R349) -/

/-- One late write is discarded and answered. -/
def dropLate (m : RWriteMsg) (s : Mach) : Mach :=
  let a := mkLnack 8 (ownId s) m.src m.window m.offset m.stag m.round
  let s1 := postLate s
  if isOwn s1 a then (match a with | .lnack x => takeLnack x s1 | _ => s1) else (forwardMsg a s1).2

/-- A port examines the writes that it holds: a late one of its queue is discarded, one of its replay buffer still goes out. -/
def lateWriteScan (p : Nat) (s : Mach) : Mach :=
  let late (m : Msg) : Option RWriteMsg := match m with | .rwrite w => if isLate s w.round && !bit w.window 15 then some w else none | _ => none
  let x := portAt s p
  let s1 := (x.txq.filterMap late).foldl (fun s m => dropLate m s)
    (modPort p (fun y => { y with txq := y.txq.filter (fun m => (late m).isNone) }) s)
  (x.buf.flatMap (fun f => f.msgs.filterMap late)).foldl (fun s _ => postLate s) s1

def execLateWriteScan (port : Fin 64) (s : State) : Res := run (lateWriteScan port.val) s

/-! ### The twin (R369 to R373) -/

def twinUp (s : Mach) : List Nat := [30, 31, 62, 63].filter (fun p => (portAt s p).partner)

/-- SYS_EVT bit b rises (R381, R578). -/
def sysEvt (b : Nat) (s : Mach) : Mach := raiseIrq 7 (noteRaise 0x5018 b (modSys (fun x => { x with evt := setBit x.evt b }) s))

/-- SYS_TWIN_STAT.OK and MISMATCH follow the twin ports' partners (R369, R378, R381). -/
def updateTwin (s : Mach) : Mach :=
  let sers := (twinUp s).map (fun p => (portAt s p).pser)
  let mis := sers.any (fun a => sers.any (fun b => a != b))
  let ok := !sers.isEmpty && !mis
  let s1 := modSys (fun x => { x with ok := ok, mismatch := mis }) s
  let s2 := if mis && !s.sys.mismatch then sysEvt 2 s1 else s1
  if s.sys.ok && !ok && twinHeld s then sysEvt 3 s2 else s2

/-- What the twin ports carry in the mode in force (R370), of the messages that a queue holds. -/
def twinCarries (s : Mach) (m : Msg) : Bool :=
  match s.sys.twinMode.toNat with
  | 1 => (match m with | .digest _ => false | .lockstep _ _ => false | _ => !plainAccess m)
  | 2 => (match m with | .lockstep _ _ => true | _ => false)
  | _ => true

/-- The queues of the twin ports lose what those ports no longer carry: remote-access messages take their new egress, the rest is
dropped (DESIGN CHOICE, log entry 52). -/
def clearTwinPorts (s : Mach) : Mach :=
  if !twinHeld s then s
  else
    [30, 31, 62, 63].foldl (fun s p =>
      let out := (portAt s p).txq.filter (fun m => !twinCarries s m)
      (out.filter plainAccess).foldl (fun s m => rerouteMsg m s)
        (modPort p (fun x => { x with txq := x.txq.filter (twinCarries s), urgent := [] }) s)) s

/-- A twin mode change takes effect (R371). -/
def applyTwin (m : BitVec 2) (s : Mach) : Mach :=
  let keepChange := (m == 1) != (s.sys.twinMode == 1)
  let s1 := modEdge (fun e => { e with keepEn := m == 1 }) (modSys (fun x => { x with twinMode := m, twinPend := none }) s)
  let s2 := if keepChange then revokeSlot true (revokeSlot false s1) else s1
  let s3 := if m == 1 then voidWindows (fun w => !wnCores w && inKeep (wnBase w) (wnSize w)) s2 else s2
  clearTwinPorts (settlePtn (sysEvt 1 s3))

/-- A write of SYS_TWIN (R371). -/
def sysTwin (v : Word) (s : Mach) : Mach :=
  let m := fld v 0 2
  let lic := if m = 1 then bit s.start.features 2 else if m = 2 then bit s.start.features 3 else true
  let running := s.sec.cur.isSome || s.sec.switch.isSome
  let busy := s.keep.sealing.isSome || s.keep.keeping.isSome || s.keep.rest.isSome || s.keep.serve.isSome
  if m = 3 ∨ !lic ∨ (m ≠ 0 ∧ !s.sys.ok) ∨ running ∨ busy then sysEvt 0 s
  else
    let s1 := modSys (fun x => { x with twinReq := m }) s
    if atOnce s then applyTwin m s1 else modSys (fun x => { x with twinPend := some m }) s1

def execSysTwinWrite (v : Word) (s : State) : Res := runAccess 0x5000 (sysTwin v) s

/-! ### Partners (R331 to R333) -/

/-- The identity message of a port (R312). -/
def identityOf (s : Mach) (p : Nat) : Msg :=
  let x := portAt s p
  let gen2 := x.offer
  .identity (BitVec.ofNat 256 (ofBytes (toBytes 1 0x30 ++ toBytes 1 2 ++
    toBytes 1 ((if gen2 then 1 else 0) + (if s.ctl.assigned then 2 else 0) + (if x.identRx then 4 else 0)) ++ toBytes 1 p ++
    bytesOf s.start.serial ++ bytesOf s.ctl.id ++ toBytes 2 0 ++ bytesOf s.epoch ++ toBytes 12 0)))

/-- Every active port resends its identity (R312, R573). -/
def resendIdentity (s : Mach) : Mach := (activePorts s).foldl (fun s p => sendMgmt p (identityOf s p) s) s

/-- An entry takes a new value; PTN_CHANGE rises if that changes it (R362). -/
def changePtn (i : Nat) (e : Ptn) (s : Mach) : Mach :=
  let old := tget Ptn.reset s.rmt.ptn i
  let s1 := putPtn i e s
  if { e with since := old.since, conflict := old.conflict } = old then s1 else rmtEvt 0 s1

/-- An entry with an ID that its partner presents: it holds the ID from now on, or from when it took it, and its CONFLICT goes with the
ID (R334). -/
def withId (s : Mach) (id : BitVec 16) (assigned : Bool) (e : Ptn) : Ptn :=
  { e with id := id, assigned := assigned, conflict := e.conflict && e.id == id, since := if e.valid && e.direct && e.id == id then e.since else s.rmt.order }

/-- The direct entry of a serial. -/
def directOf (s : Mach) (ser : BitVec 64) : Option (Nat × Ptn) :=
  s.rmt.ptn.find? (fun e => e.2.valid && e.2.direct && e.2.serial == ser)

/-- An identity that is presented again updates ID and ASSIGNED of its entry, if it has one (R331). -/
def resentEntry (p : Nat) (s : Mach) : Mach :=
  let x := portAt s p
  match directOf s x.pser with
  | some (i, e) => changePtn i (withId s x.pid x.passigned e) (modRmt (fun r => { r with order := r.order + 1 }) s)
  | none => s

/-- The direct entry of a port's new partner (R331, R333). -/
def directEntry (p : Nat) (s : Mach) : Mach :=
  let x := portAt s p
  let mk (i : Nat) (old : Ptn) : Mach :=
    changePtn i { withId s x.pid x.passigned old with
      serial := x.pser, valid := true, direct := true, lost := false, port := BitVec.ofNat 6 p, epoch := x.pepoch }
      (modRmt (fun r => { r with order := r.order + 1, waiting := r.waiting.filter (· != p) }) s)
  match directOf s x.pser with
  | some (i, old) => mk i old
  | none =>
    match ptnOfSerial s x.pser with
    | some (i, old) => mk i old
    | none =>
      match ptnFree s with
      | some i => mk i Ptn.reset
      | none =>
        portRecord p 0 (rmtEvt 8 (modRmt (fun r => { r with waiting := r.waiting.filter (· != p) ++ [p] }) s))

/-- Waiting partners take the entries that are free, at a round start (R333). -/
def enterWaiting (s : Mach) : Mach :=
  s.rmt.waiting.foldl (fun s p => if (ptnFree s).isSome && (portAt s p).partner then directEntry p s else s) s

/-- The straggler history of a module that leaves the partner table is cleared (R71); an unassigned one has no ID of its own. -/
def clearStrag (e : Ptn) (s : Mach) : Mach :=
  if e.assigned then modRnd (fun r => { r with strag := tdel r.strag e.id.toNat }) s else s

/-- The partner of a port is lost (R315, R316, R332, R341). -/
def partnerLoss (p : Nat) (s : Mach) : Mach :=
  let x := portAt s p
  if !x.partner then s
  else
    let s1 := voidWindows (fun w => wnPartner w == x.pid && wnEpoch w == x.pepoch)
      (portEvt p 7 (modPort p (fun x => { x with partner := false }) s))
    match directOf s1 x.pser with
    | none => settlePtn (updateTwin (portRecord p 0 (modRmt (fun r => { r with waiting := r.waiting.filter (· != p) }) s1)))
    | some (i, e) =>
      let s3 := updateTwin (clearStrag e (changePtn i { e with lost := true } s1))
      if e.assigned then uncorrected 0x40 (portRecord p 1 (rmtEvt 2 s3)) else portRecord p 0 s3

/-- The forwarded entry of a serial. -/
def forwardedOf (s : Mach) (ser : BitVec 64) : Option (Nat × Ptn) :=
  s.rmt.ptn.find? (fun e => e.2.valid && !e.2.direct && e.2.serial == ser)

def pcSerial (d : Desc) : BitVec 64 := BitVec.ofNat 64 (cB d 16 8)
def pcId (d : Desc) : BitVec 16 := BitVec.ofNat 16 (cB d 10 2)

/-- Status with which a partner change is refused, 0 when it is taken (R331). -/
def partnerStatus (s : Mach) (d : Desc) : Nat :=
  match cB d 8 1 with
  | 1 =>
    if 64 ≤ cB d 12 1 then 0x02
    else if darkPort s (cB d 12 1) || pcSerial d == s.start.serial then 0x08
    else if (forwardedOf s (pcSerial d)).isNone && (ptnFree s).isNone then 0x07
    else 0
  | 2 => if pcSerial d == s.start.serial then 0x08 else 0
  | 3 => 0
  | 4 => 0
  | _ => 0x02

/-- A partner change takes effect (R331, R573). -/
def applyPartner (d : Desc) (o : Owed) (s : Mach) : Mach :=
  let st := partnerStatus s d
  if st ≠ 0 then complete o st 0 s
  else complete o 0x00 0 (
    match cB d 8 1 with
    | 1 =>
      let old := forwardedOf s (pcSerial d)
      match (match old with | some (i, _) => some i | none => ptnFree s) with
      | none => s
      | some i =>
        let since := match old with | some (_, e) => if e.id == pcId d then e.since else s.rmt.order | none => s.rmt.order
        let marked := match old with | some (_, e) => e.conflict && e.id == pcId d | none => false
        changePtn i { serial := pcSerial d, id := pcId d, valid := true, direct := false, assigned := true, lost := false,
                      conflict := marked, port := BitVec.ofNat 6 (cB d 12 1), epoch := BitVec.ofNat 32 (cB d 24 4),
                      since := since } (modRmt (fun r => { r with order := r.order + 1 }) s)
    | 2 =>
      match (match forwardedOf s (pcSerial d) with | some x => some x | none => ptnOfSerial s (pcSerial d)) with
      | some (i, e) => rmtEvt 0 (putPtn i Ptn.reset (clearStrag e s))
      | none => s
    | 3 => resendIdentity (modCtl (fun c => { c with assigned := true, id := pcId d }) s)
    | _ => resendIdentity (modCtl (fun c => { c with assigned := false }) s))

/-- The command that a pending change belongs to. -/
def Change.owed : Change → Owed
  | .window _ _ o => o
  | .partner _ o => o

/-- A PARTNER command; `mine` says that its ACTION is the row's. -/
def partnerCmd (mine : Nat → Bool) (q : Nat) (d : Desc) (s : Mach) : Mach :=
  startCmd q d (cB d 0 1 == 0x30 && mine (cB d 8 1)) [(8, 1), (10, 3), (16, 12)] (fun o s =>
    let st := partnerStatus s d
    if st ≠ 0 then complete o st 0 s
    else if atOnce s then applyPartner d o s
    else modRmt (fun r => { r with changes := insertBy (fun c => c.owed.tok) (.partner d o) r.changes }) s) s

def execPartnerAddForwarded (q : Fin 16) (d : Desc) (s : State) : Res :=
  run (partnerCmd (fun a => !decide (2 ≤ a ∧ a ≤ 4)) q.val d) s
def execPartnerRemove (q : Fin 16) (d : Desc) (s : State) : Res := run (partnerCmd (· == 2) q.val d) s
def execPartnerAssignId (q : Fin 16) (d : Desc) (s : State) : Res := run (partnerCmd (· == 3) q.val d) s
def execPartnerUnassign (q : Fin 16) (d : Desc) (s : State) : Res := run (partnerCmd (· == 4) q.val d) s

/-- A window command (R338, R340). -/
def windowCmd (open_ : Bool) (q : Nat) (d : Desc) (s : Mach) : Mach :=
  startCmd q d (cB d 0 1 == (if open_ then 0x28 else 0x29)) (if open_ then [(8, 2), (32, 32)] else [(8, 2)]) (fun o s =>
    let i := cB d 8 2
    let w : BitVec 256 := if open_ then BitVec.ofNat 256 (cB d 32 32) else 0
    if 1024 ≤ i ∨ (open_ ∧ !wnValid w) then complete o 0x02 0 s
    else if open_ && !windowOk s w then complete o 0x08 0 s
    else if atOnce s then complete o 0x00 0 (modRmt (fun r => { r with win := tset 0 r.win i w }) s)
    else modRmt (fun r => { r with changes := insertBy (fun c => c.owed.tok) (.window (BitVec.ofNat 10 i) w o) r.changes }) s) s

def execWindowOpen (q : Fin 16) (d : Desc) (s : State) : Res := run (windowCmd true q.val d) s
def execWindowClose (q : Fin 16) (d : Desc) (s : State) : Res := run (windowCmd false q.val d) s

/-- One pending change takes effect. -/
def applyChange (s : Mach) : Change → Mach
  | .window i w o => complete o 0x00 0 (modRmt (fun r => { r with win := tset 0 r.win i.toNat w }) s)
  | .partner d o => applyPartner d o s

/-- The changes that await a round start take effect, in their order (R331, R340, R371, R366). -/
def applyChanges (s : Mach) : Mach :=
  let s1 := s.rmt.changes.foldl applyChange (modRmt (fun r => { r with changes := [] }) s)
  let s2 := match s1.sys.twinPend with | some m => applyTwin m s1 | none => s1
  enterWaiting (modRnd (fun r => { r with mport := r.mportReg }) s2)

/-! ### Selections and the fence commands (R355, R356, R359) -/

/-- The PORT of an entry: a direct one of a twin port shows its non-twin port in KEEP and LOCKSTEP, where there is one (R373). -/
def shownPort (s : Mach) (e : Ptn) : Ptn :=
  match egress s e with
  | some p => { e with port := BitVec.ofNat 6 p }
  | none => e

/-- The bytes of a partner entry (R330). -/
def ptnWord (e : Ptn) : BitVec 128 :=
  e.epoch ++ ((0 : BitVec 2) ++ e.port) ++
    ((0 : BitVec 3) ++ b1 e.conflict ++ b1 e.lost ++ b1 e.assigned ++ b1 e.direct ++ b1 e.valid) ++ e.id ++ e.serial

def ptnSel (v : Word) (s : Mach) : Mach :=
  modRmt (fun r => { r with ptnSel := fld v 0 12, ptnE := ptnWord (shownPort s (tget Ptn.reset r.ptn (fld v 0 12).toNat)) }) s
def winSel (v : Word) (s : Mach) : Mach :=
  modRmt (fun r => { r with winSel := fld v 0 10, winE := tget 0 r.win (fld v 0 10).toNat }) s

def execPtnSelWrite (v : Word) (s : State) : Res := runSelect 0x10C004 (ptnSel v) s
def execWinSelWrite (v : Word) (s : State) : Res := runSelect 0x10C020 (winSel v) s

def fenceModule (q : Nat) (d : Desc) (s : Mach) : Mach :=
  startCmd q d (cB d 0 1 == 0x20) [] (fun o => modRmt (fun r => { r with modFences := r.modFences ++ [o] })) s

def execFenceModule (q : Fin 16) (d : Desc) (s : State) : Res := run (fenceModule q.val d) s

/-- The module fences end at a round start (R355). -/
def endModFences (s : Mach) : Mach :=
  s.rmt.modFences.foldl (fun s o => complete o 0x00 0 s) (modRmt (fun r => { r with modFences := [] }) s)

def fenceSystem (q : Nat) (d : Desc) (s : Mach) : Mach :=
  startCmd q d (cB d 0 1 == 0x21) [(8, 6)] (fun o s =>
    match cmdRound s (cmdVer s o) d 8 with
    | none => complete o 0x02 0 s
    | some m =>
      if fencesOff s then complete o 0x03 0 s
      else if roundStarted s (m + 1) then complete o 0x04 0 s
      else modRmt (fun r => { r with named := r.named ++ [(m, o)] }) s) s

def execFenceSystem (q : Fin 16) (d : Desc) (s : State) : Res := run (fenceSystem q.val d) s

end Sys2Proof.Machine
end

