-- ==== Sys2Proof/Machine/Lockstep.lean ====
section
/-! DEFINITION. Lockstep comparison of twins (13_result_checking.md). -/

namespace Sys2Proof.Machine

/-- LS_EVT bit b rises (R429, R438). -/
def lsEvt (b : Nat) (s : Mach) : Mach := raiseIrq 7 (noteRaise 0x5048 b (modLs (fun l => { l with evt := setBit l.evt b }) s))

/-- The twins' digests of a round are compared (R429): what the first copy was, and what follows from it. -/
def lsCompare (m : BitVec 48) (own twin : BitVec 64) (s : Mach) : Mach :=
  let s1 := modLs (fun l => { l with twin := twin }) s
  if own = twin then s1
  else
    let s2 := lsEvt 0 (modLs (fun l =>
      { l with
        first := if l.firstValid then l.first else m.setWidth 32
        firstValid := true
        stopped := l.stopped || l.stop }) s1)
    logAt 0x27 6 0 0xFFFF 0xFFFF 0 (toBytes 6 m.toNat ++ toBytes 2 0 ++ bytesOf own ++ bytesOf twin) s2

/-- An own digest awaits the twin's copy, and is not yet too old for it (R429). -/
def lsOpen (r : Word) (e : BitVec 48 × BitVec 64 × Nat) : Bool := e.1.setWidth 32 == r && decide (e.2.2 < 2)

/-- A round number of 32 bits is the round in force or a later one. -/
def lsAhead (s : Mach) (r : Word) : Bool := decide ((r - (roundNow s).setWidth 32).toNat < 2 ^ 31)

/-- A copy of the twin's digest (R428): the first one for a round is kept, the others are discarded. -/
def lockstepDigest (p : Nat) (r : Word) (dig : BitVec 64) (s : Mach) : Mach :=
  if !comparing s || !twinPort p || !portActive s p then s
  else
    match s.ls.await.find? (lsOpen r) with
    | some e => lsCompare e.1 e.2.1 dig (modLs (fun l => { l with await := l.await.filter (· != e) }) s)
    | none =>
      if lsAhead s r && !s.ls.early.any (fun e => e.1 == r) then modLs (fun l => { l with early := l.early ++ [(r, dig)] }) s
      else s

def execLockstepDigest (port : Fin 64) (round : Word) (dig : BitVec 64) (s : State) : Res :=
  run (lockstepDigest port.val round dig) s

/-- A twin digest has not arrived by the second round start after its round (R429). -/
def lockstepMissing (s : Mach) : Mach :=
  if s.ls.await.any (fun e => decide (2 ≤ e.2.2)) then
    lsEvt 1 (modLs (fun l => { l with await := l.await.filter (fun e => decide (e.2.2 < 2)) }) s)
  else s

def execLockstepDigestMissing (s : State) : Res := run lockstepMissing s

/-- The digest of the round just ended is latched, sent to the twin, and compared with a copy that came early; rounds
that wait grow older (R427 to R429). -/
def lockstepBoundary (prev : BitVec 48) (s : Mach) : Mach :=
  let s0 := modLs (fun l => { l with await := l.await.map (fun e => (e.1, e.2.1, e.2.2 + 1)) }) s
  if comparing s then
    let own := s.ls.run
    let r : Word := prev.setWidth 32
    let s1 := modLs (fun l => { l with own := own, rows := l.runRows, rnd := r, run := 0, runRows := 0 }) s0
    let s2 := ([30, 31, 62, 63].filter (portActive s)).foldl (fun s p => emit (.portMsg p (.lockstep r own)) s) s1
    let s3 := modLs (fun l => { l with early := l.early.filter (fun e => e.1 != r) }) s2
    match s.ls.early.find? (fun e => e.1 == r) with
    | some e => lsCompare prev own e.2 s3
    | none => modLs (fun l => { l with await := l.await ++ [(prev, own, 1)] }) s3
  else modLs (fun l => { l with run := 0, runRows := 0, early := [] }) s0

/-- A write of LS_CTRL (R438). -/
def lsCtrl (v : Word) (s : Mach) : Mach :=
  modLs (fun l => { l with stop := bit v 0, firstValid := l.firstValid && !bit v 1 }) s

/-- LS_CTRL is written with CLR, and STOP as the word has it. -/
def execLsCtrlClr (v : Word) (s : State) : Res := runAccess 0x5040 (lsCtrl (v ||| 2)) s

end Sys2Proof.Machine
end

