-- ==== Sys2Proof/Machine/Keep.lean ====
section
/-! DEFINITION. Keep slots, sealing, restoring, and the keep messages (14_restart_and_checkpoints.md,
18_host_link_and_commands.md). -/

namespace Sys2Proof.Machine

/-! ### Slots and their records (R439, R446, R461; the codes and the layout of DETAIL: DESIGN CHOICE, log entry 21) -/

/-- The edge address of an offset in a slot area (R439). -/
def slotEa (slot : Bool) (stack off : Nat) : Nat := stack * 2 ^ 36 + 0xC00000000 + (if slot then 0x200000000 else 0) + off

/-- The slot that a seal writes: not the one with the newest valid commit (R444). -/
def targetSlot (k : Keep) : Bool :=
  k.slotA.valid && (!k.slotB.valid || decide (k.slotB.order < k.slotA.order))

/-- What a committed SLOT record of the keeper makes of its slot (R446). -/
def slotApply (k : Keep) (d : List Byte) : Keep :=
  let b := numAt d 1 1 == 1
  let x := slotOf k b
  match numAt d 0 1 with
  | 0 => setSlot b { x with valid := false, opened := true } k
  | 1 => { setSlot b { valid := true, opened := false, id := BitVec.ofNat 16 (numAt d 6 2), serial := BitVec.ofNat 64 (numAt d 8 8),
                       step := BitVec.ofNat 32 (numAt d 2 4), order := k.order } k with order := k.order + 1 }
  | _ => setSlot b { x with valid := false } k

/-- What a record of the ledger makes of its slot; one of an epoch that is not `live` leaves it invalid, since a start from then on lost
the keep region (R32, R313). -/
def slotLoad (live : Word → Bool) (k : Keep) (r : LedRec) : Keep :=
  let b := numAt r.ev.detail 1 1 == 1
  let k1 := slotApply k r.ev.detail
  if live r.epoch then k1 else setSlot b { slotOf k1 b with valid := false } k1

/-- The slots as the ledger gives them (R461): the records of other modules' shards, oldest first. -/
def slotsOf (live : Word → Bool) (l : Ledger) (serial : BitVec 64) (k : Keep) : Keep :=
  (l.flash.filter (fun r => r.valid && r.ev.cls == 0x50 && numAt r.ev.detail 8 8 != serial.toNat)).foldl (slotLoad live)
    { k with slotA := .reset, slotB := .reset }

/-- A rim reset loads the slots: what stood since the last start stays valid (R32, R461). -/
def loadSlots (s : Mach) : Mach :=
  modKeep (slotsOf (fun e => decide (s.start.epoch0.toNat < e.toNat)) s.led s.start.serial) s

/-! ### Keep messages (R442, R443) -/

/-- Bytes 6 and 7 of a keep message. -/
def keepWin (dir slot : Bool) (stack : Nat) : BitVec 16 :=
  b1 true ++ b1 dir ++ (0 : BitVec 8) ++ b1 slot ++ BitVec.ofNat 5 stack

def kmDir (w : BitVec 16) : Bool := bit w 14
def kmSlot (w : BitVec 16) : Bool := bit w 5
def kmStack (w : BitVec 16) : Nat := (fld w 0 5).toNat

/-- The module ID of the twin, while SYS_TWIN_STAT.OK is 1. -/
def twinId (s : Mach) : Option (BitVec 16) :=
  if s.sys.ok then ((twinUp s).head?).map (fun p => (portAt s p).pid) else none

/-- The port of the partner table toward an ID for keep messages (R335), which R373 does not restrict. In LOCKSTEP the twin ports carry
no such data (R370). -/
def keepRoute (s : Mach) (id : BitVec 16) : Option Nat :=
  (s.rmt.ptn.find? (fun e => e.2.valid && e.2.assigned && !e.2.lost && !e.2.conflict && e.2.id == id &&
    (e.2.direct || (portAt s e.2.port.toNat).partner))).bind (fun e =>
      if s.sys.twinMode = 2 then egress s e.2 else some e.2.port.toNat)

/-- The port to a keep peer (R443): between twins by stack, otherwise by the partner table. -/
def keepPort (s : Mach) (id : BitVec 16) (stack : Nat) : Option Nat :=
  if twinId s = some id ∧ s.sys.twinMode ≠ 2 then
    let l := [30, 31, 62, 63]
    (l.drop (stack % 4) ++ l.take (stack % 4)).find? (fun p => (portAt s p).partner)
  else keepRoute s id

/-- A keep message of this module is queued; the module forms messages no faster than the port takes them. -/
def keepSend (id : BitVec 16) (stack : Nat) (m : Msg) (s : Mach) : Mach :=
  match keepPort s id stack with
  | some p => modPort p (fun x => { x with txq := x.txq ++ [m] }) s
  | none => s

/-- Bytes cut into messages of at most 192 bytes: offset and data (R442). -/
def cutBytes : Nat → Nat → List Byte → List (Nat × List Byte)
  | 0, _, _ => []
  | n + 1, off, bs => if bs.isEmpty then [] else (off, bs.take 192) :: cutBytes n (off + 192) (bs.drop 192)

/-- Bytes go to an offset of a peer's slot or work memory. -/
def keepWrite (id : BitVec 16) (dir slot : Bool) (stack off : Nat) (bs : List Byte) (s : Mach) : Mach :=
  (cutBytes (bs.length / 192 + 1) off bs).foldl (fun s c =>
    let m : RWriteMsg :=
      { src := s.ctl.id, dst := id, window := keepWin dir slot stack, offset := BitVec.ofNat 64 c.1, sepoch := s.epoch,
        stag := 0, round := (roundNow s).setWidth 16, hops := 0, data := c.2 }
    keepSend id stack (.rwrite m) s) s

/-- A keep RREAD of a slot header; its RID is the next one. -/
def keepRead (id : BitVec 16) (slot : Bool) (s : Mach) : Mach :=
  let m : RReadMsg :=
    { src := s.ctl.id, dst := id, window := keepWin false slot 0, offset := 0, sepoch := s.epoch, stag := 0,
      round := (roundNow s).setWidth 16, hops := 0, len8 := 24, rid := s.rmt.nextRid }
  keepSend id 0 (.rread m) (modRmt (fun r => { r with nextRid := r.nextRid + 1 }) s)

/-- An answer to a keep RREAD: bit 7 of STATUS marks it (R442). -/
def keepAnswer (m : RReadMsg) (status : Nat) (data : List Byte) (s : Mach) : Mach :=
  let a : RDataMsg :=
    { src := s.ctl.id, dst := m.src, hops := 0, status := BitVec.ofNat 8 (128 + status), rid := m.rid, data := data }
  keepSend m.src (kmStack m.window) (.rdata a) s

/-- A keep message in transit follows the partner table, also to the twin of the module that forwards it (R335, R443). -/
def keepTransit (m : Msg) (s : Mach) : Mach :=
  if msgHops m = 255 then noRoute s
  else match keepRoute s (msgDst m) with | some p => sendSeq p (msgHop m) s | none => noRoute s

/-! ### The slot header and the manifest (R440, R441) -/

/-- The extents of a header or manifest: address and length. -/
def extents (n : Nat) (bs : List Byte) : List (Nat × Nat) :=
  (List.range n).map (fun i => (numAt bs (16 * i) 8, numAt bs (16 * i + 8) 8))

/-- The extents of a slot header. -/
def headExtents (h : List Byte) : List (Nat × Nat) := extents (min 1024 (numAt h 28 2)) (h.drop 1024)

def extBytes (es : List (Nat × Nat)) : Nat := es.foldl (fun n e => n + e.2) 0

/-- The extents are such as R441 allows. -/
def extentsOk (es : List (Nat × Nat)) : Bool :=
  es.all (fun e => decide (e.1 < 2 ^ 41) && e.1 % 32 == 0 && e.2 != 0 && e.2 % 32 == 0 &&
    decide (stackOf (e.1 + e.2 - 1) = stackOf e.1) && !inKeep e.1 e.2) &&
  (es.zipIdx).all (fun x => (es.zipIdx).all (fun y =>
    decide (y.2 ≤ x.2) || decide (x.1.1 + x.1.2 ≤ y.1.1) || decide (y.1.1 + y.1.2 ≤ x.1.1))) &&
  (List.range 32).all (fun st =>
    decide (extBytes (es.filter (fun e => stackOf e.1 == st)) + (if st = 0 then 65536 else 0) ≤ 2 ^ 33))

/-- The manifest header of R441. -/
def manifestOk (bs : List Byte) : Bool :=
  numAt bs 0 4 == 0x5A534C4D && decide (1 ≤ numAt bs 4 2 ∧ numAt bs 4 2 ≤ 1024) && numAt bs 6 58 == 0

/-- Data of a stack's extents go on in the checksum of that stack (R440). -/
def addCrc (st : Nat) (bs : List Byte) (t : Tbl (BitVec 64)) : Tbl (BitVec 64) := tmod 0 t st (fun c => crc64From c bs)

/-- STACKCRC from the checksums of the stacks, and the checksum over it (R440). -/
def stackCrcs (t : Tbl (BitVec 64)) : List Byte := (List.range 32).flatMap (fun st => bytesOf (tget 0 t st))
def crcOfCrcs (t : Tbl (BitVec 64)) : BitVec 64 := crc64 (stackCrcs t)

/-- The bytes of a read, none where a code word of it is uncorrectable (R397). -/
def goodBytes (bs : List (Byte × Bool)) : Option (List Byte) := if bs.any (·.2) then none else some (bs.map (·.1))

/-- Replace bytes of a list from an offset on. -/
def splice (bs : List Byte) (off : Nat) (new : List Byte) : List Byte := bs.take off ++ new ++ bs.drop (off + new.length)

/-! ### The end of a session (R447, R448, R462) -/

/-- KP_SEAL and KP_REST (R462). -/
def kpSeal (k : Keep) : Word := b1 k.sealing.isSome ++ (0 : BitVec 15) ++ k.sealStatus ++ (0 : BitVec 8)
def kpRest (k : Keep) : Word := b1 k.rest.isSome ++ (0 : BitVec 15) ++ k.restStatus ++ (0 : BitVec 8)

/-- The completion status of a seal, restore, import or export that ended with a code (R571, R572). -/
def keepStatus (st : Nat) : Nat := if st = 0 then 0x00 else if st = 8 then 0x10 else 0x0C

/-- A SEAL_END record (R540), for a seal that ended with a code; a failed one is an uncorrected fault (R447). -/
def sealRecord (st : Nat) (step : Word) (s : Mach) : Mach :=
  let failed := st != 0 && st != 8
  let s1 := logModule 0x51 (if failed then 1 else 0) (bytesOf (BitVec.ofNat 32 (256 * st)) ++ bytesOf step) s
  if failed then uncorrected 0x51 s1 else s1

/-- The seal as sealer ends. -/
def endSeal (st : Nat) (s : Mach) : Mach :=
  match s.keep.sealing with
  | none => s
  | some x =>
    let step : Word := if x.header.isEmpty then s.keep.sealStep else BitVec.ofNat 32 (numAt x.header 4 4)
    let s1 := modKeep (fun k => { k with sealing := none, sealStatus := BitVec.ofNat 8 st, sealStep := step }) s
    raiseIrq 8 (complete x.owed (keepStatus st) (st + 2 ^ 32 * step.toNat) (sealRecord st step s1))

/-- The session as keeper ends without a commit. -/
def endKeeping (st : Nat) (s : Mach) : Mach :=
  match s.keep.keeping with
  | none => s
  | some _ => sealRecord st 0 (modKeep (fun k => { k with keeping := none }) s)

/-- A RESTORE_END record (R540). -/
def restRecord (step : Word) (keeper : BitVec 16) (s : Mach) : Mach :=
  logModule 0x52 0 (bytesOf (kpRest s.keep) ++ bytesOf step ++ bytesOf keeper) s

/-- A restore, or an import, ends with a code (R456, R454). -/
def endRestore (st : Nat) (s : Mach) : Mach :=
  match s.keep.rest with
  | none => s
  | some x =>
    let s1 := modKeep (fun k => { k with
      rest := none, restStatus := BitVec.ofNat 8 st, armBad := k.armBad || st != 0, staging := [] }) s
    raiseIrq 8 (complete x.owed (keepStatus st) st (restRecord x.step x.keeper s1))

/-- A restore as keeper ends. -/
def endServe (st : Nat) (s : Mach) : Mach :=
  match s.keep.serve with
  | none => s
  | some x => raiseIrq 8 (complete x.owed (keepStatus st) st (modKeep (fun k => { k with serve := none }) s))

/-- The exports of a slot stop (R574: the seal always wins), or all at a reset (R572). -/
def stopExports (hit : Export → Bool) (s : Mach) : Mach :=
  (s.keep.exports.filter hit).foldl (fun s x => complete x.owed 0x10 0 s)
    (modKeep (fun k => { k with exports := k.exports.filter (fun x => !hit x) }) s)

/-- A seal or restore is in progress (R444). -/
def keepBusy (k : Keep) : Bool := k.sealing.isSome || k.keeping.isSome || k.rest.isSome || k.serve.isSome

/-! ### Sealing (R444, R445) -/

/-- An update unit is BUSY or QUEUED. -/
def unitsBusy (s : Mach) : Bool := (List.range 32).any (fun u => (unitAt s u).list.isSome || (unitAt s u).waiting.any (·.queued))

def sealCmd (q : Nat) (d : Desc) (s : Mach) : Mach :=
  startCmd q d (cB d 0 1 == 0x40) [(8, 6), (16, 8)] (fun o s =>
    match cmdRound s (cmdVer s o) d 8 with
    | none => complete o 0x02 0 s
    | some m =>
      if 2 ^ 41 ≤ cB d 16 8 then complete o 0x02 0 s
      else
        match twinId s with
        | some id =>
          if s.sys.twinMode ≠ 1 ∨ keepBusy s.keep ∨ unitsBusy s ∨ roundStarted s m then
            complete o 0x0C (1 + 2 ^ 32 * s.keep.sealStep.toNat) (modKeep (fun k => { k with sealStatus := 1 }) s)
          else
            let e := (((twinUp s).head?).map (fun p => (portAt s p).pepoch)).getD 0
            modKeep (fun k => { k with
              moved := 0
              sealing := some { round := m, peer := id, rid := 0, manifest := cB d 16 8, owed := o, stage := .armed, header := [],
                                slot := targetSlot k, second := false }
              keeping := some { peer := id, epoch := e, slot := targetSlot k, started := false, ask := none, opened := false,
                                got := 0, crcs := [], need := 0 } }) s
        | none => complete o 0x0C (1 + 2 ^ 32 * s.keep.sealStep.toNat) (modKeep (fun k => { k with sealStatus := 1 }) s)) s

def execSeal (q : Fin 16) (d : Desc) (s : State) : Res := run (sealCmd q.val d) s

/-- The sealer sends its next RREAD and waits for the answer. -/
def sealAsk (st : SealStage) (h : List Byte) (s : Mach) : Mach :=
  match s.keep.sealing with
  | none => s
  | some x =>
    keepRead x.peer x.slot (modKeep (fun k => { k with
      sealing := some { x with stage := st, header := h, rid := s.rmt.nextRid } }) s)

/-- The digest of the last completed step (R281, R440). -/
def stepDigest (s : Mach) : BitVec 64 := crc64 ((List.range 32).flatMap (fun u => bytesOf (unitAt s u).digLat))

/-- The header image at quiesce (R440), without COMMIT, SCRC, KCRC and STACKCRC. It is shown without the zero bytes
behind the extents. -/
def headerImage (s : Mach) (q : BitVec 48) (es : List Byte) (n : Nat) : List Byte :=
  toBytes 4 0x5A4B5350 ++ bytesOf s.trn.step ++ bytesOf q ++ bytesOf s.ctl.id ++ bytesOf s.start.serial ++ bytesOf s.epoch ++
    toBytes 2 n ++ toBytes 2 0 ++ bytesOf s.trn.seed ++ bytesOf (stepDigest s) ++ toBytes 976 0 ++ es

/-- The bytes of a slot header, and the header that fills them: zero where it has no field (R439, R440). -/
def headBytes : Nat := 65536
def wholeHeader (h : List Byte) : List Byte := h ++ List.replicate (headBytes - h.length) 0

/-- Round m starts: a seal armed for it quiesces (R445). -/
def sealBoundary (m : BitVec 48) (s : Mach) : Mach :=
  match s.keep.sealing with
  | none => s
  | some x =>
    if x.stage ≠ .armed ∨ m.toNat < x.round.toNat then s
    else
      let s1 := endSection s
      if s.sys.twinMode ≠ 1 ∨ twinId s ≠ some x.peer then endSeal 6 s1
      else
        let h := sealRead x.manifest 64 s1
        let n := numAt (h.1.map (·.1)) 4 2
        let ok := manifestOk (h.1.map (·.1)) && decide (x.manifest + 64 + 16 * n ≤ 2 ^ 41)
        if h.1.any (·.2) || stackOut s1 (stackOf x.manifest) then endSeal 4 h.2
        else if !ok then endSeal 2 h.2
        else
          let e := sealRead (x.manifest + 64) (16 * n) h.2
          if e.1.any (·.2) then endSeal 4 e.2
          else if !extentsOk (extents n (e.1.map (·.1))) then endSeal 2 e.2
          else sealAsk .opening (headerImage s x.round (e.1.map (·.1)) n) e.2

/-- One extent is read and sent to an offset of the peer's slot, and enters the checksum of its stack; none when a code word is
uncorrectable. -/
def sendExtent (x : Seal) (base : Nat) (e : Nat × Nat) (t : Tbl (BitVec 64)) (s : Mach) : Option (Tbl (BitVec 64)) × Mach :=
  let r := sealRead e.1 e.2 s
  match if stackOut s (stackOf e.1) then none else goodBytes r.1 with
  | none => (none, r.2)
  | some bs =>
    (some (addCrc (stackOf e.1) bs t),
     modKeep (fun k => { k with moved := k.moved + e.2 }) (keepWrite x.peer false x.slot (stackOf e.1) base bs r.2))

/-- The extents of a stack, one after the other from an offset of the slot on (R439). -/
def sendStack (x : Seal) : List (Nat × Nat) → Nat → Tbl (BitVec 64) → Mach → Option (Tbl (BitVec 64)) × Mach
  | [], _, t, s => (some t, s)
  | e :: es, base, t, s =>
    match sendExtent x base e t s with
    | (some t1, s1) => sendStack x es (base + e.2) t1 s1
    | (none, s1) => (none, s1)

/-- Where the extents of a stack begin in its slot area (R439). -/
def extentBase (st : Nat) : Nat := if st = 0 then headBytes else 0

/-- The extents of every stack, stack 0 first, and the checksums of what was sent. -/
def sendStacks (x : Seal) (es : List (Nat × Nat)) (s : Mach) : Option (Tbl (BitVec 64)) × Mach :=
  (List.range 32).foldl (fun a st =>
    match a.1 with
    | some t => sendStack x (es.filter (fun e => stackOf e.1 == st)) (extentBase st) t a.2
    | none => a) (some [], s)

/-- The open record stands: the header and every extent go out, then the checksums, and the header is read back (R440, R445). -/
def sealSendAll (x : Seal) (s : Mach) : Mach :=
  let r := sendStacks x (headExtents x.header) (keepWrite x.peer false x.slot 0 0 (wholeHeader x.header) s)
  match r.1 with
  | some t =>
    let h := splice (splice x.header 48 (bytesOf (crcOfCrcs t))) 64 (stackCrcs t)
    sealAsk .checking h (keepWrite x.peer false x.slot 0 32 ((h.drop 32).take 288) r.2)
  | none => endSeal 4 r.2

/-- The sealer asks for the other slot: the keeper writes the one that its own commits leave (R444), which the sealer learns by asking
(DESIGN CHOICE, log entry 56). -/
def askOther (x : Seal) (s : Mach) : Mach :=
  let y := { x with slot := !x.slot, second := true, rid := s.rmt.nextRid }
  keepRead y.peer y.slot (modKeep (fun k => { k with sealing := some y }) s)

/-- The keeper's answer advances the seal (R445). -/
def sealAdvance (x : Seal) (status : Nat) (data : List Byte) (s : Mach) : Mach :=
  if status = 3 ∧ x.stage = .opening ∧ !x.second then askOther x s
  else if status ≠ 0 then endSeal 3 s
  else
    match x.stage with
    | .opening => sealSendAll x s
    | .checking =>
      if numAt data 56 8 ≠ numAt x.header 48 8 then endSeal 5 s
      else
        let h := splice x.header 30 [1]
        sealAsk .committing h (keepWrite x.peer false x.slot 0 0 (h.take 32) s)
    | .committing =>
      slotEvent 1 x.slot (BitVec.ofNat 32 (numAt x.header 4 4)) s.ctl.id s.start.serial
        (modKeep (fun k => { k with sealing := some { x with stage := .recording } }) s)
    | _ => s

/-! ### Keeping (R443 to R446) -/

/-- The header of a slot, read as the code gives it, with what the reading of it leaves; none where a code word of it is uncorrectable
(R387, R397). -/
def slotHeader (slot : Bool) (s : Mach) : Option (List Byte) × Mach :=
  let r := sealRead (slotEa slot 0 0) headBytes s
  (goodBytes r.1, r.2)

def modKeeping (f : Keeping → Keeping) : Mach → Mach := modKeep (fun k => { k with keeping := k.keeping.map f })

/-- The keeper answers a RREAD with the bytes of its slot. -/
def answerSlot (g : Keeping) (m : RReadMsg) (s : Mach) : Mach :=
  let x := sealRead (slotEa g.slot (kmStack m.window) m.offset.toNat) (8 * m.len8.toNat) s
  match goodBytes x.1 with
  | none => keepAnswer m 6 [] x.2
  | some bs => keepAnswer m 0 bs x.2

/-- The keeper writes KCRC into the header of the slot; false where the code word of it is uncorrectable and stays as found (R397, R440). -/
def writeKcrc (g : Keeping) (s : Mach) : Bool × Mach :=
  let ea := slotEa g.slot 0 32
  let x := sealRead ea 32 s
  match goodBytes x.1 with
  | none => (false, x.2)
  | some bs => (true, useUnits 2 ea 32 (writeEdge ea (splice bs 24 (bytesOf (crcOfCrcs g.crcs))) x.2))

/-- The check of the data: KCRC goes into the header, and the answer goes out once everything has arrived. -/
def answerCheck (s : Mach) : Mach :=
  match s.keep.keeping with
  | some g =>
    match g.ask with
    | some (.check, m) =>
      if g.need ≤ g.got then
        let r := writeKcrc g (modKeeping (fun g => { g with ask := none }) s)
        if r.1 then answerSlot g m r.2 else keepAnswer m 6 [] r.2
      else s
    | _ => s
  | none => s

/-- A RREAD of the sealer reaches the keeper: what must stand before its answer (R445). -/
def keeperRead (g : Keeping) (m : RReadMsg) (s : Mach) : Mach :=
  let ask (k : AskKind) (need : Nat) := modKeeping (fun g => { g with started := true, ask := some (k, m), need := need })
  if !g.opened then
    let x := slotOf s.keep g.slot
    slotEvent 0 g.slot s.trn.step x.id x.serial (ask .opened 0 s)
  else
    match slotHeader g.slot s with
    | (none, s1) => keepAnswer m 6 [] (modKeeping (fun g => { g with started := true }) s1)
    | (some h, s1) =>
      if (numAt h 30 1) % 2 = 1 then
        slotEvent 1 g.slot (BitVec.ofNat 32 (numAt h 4 4)) (BitVec.ofNat 16 (numAt h 14 2)) (BitVec.ofNat 64 (numAt h 16 8))
          (ask .commit 0 s1)
      else answerCheck (ask .check (extBytes (headExtents h)) s1)

/-- Cause with which a keep write is refused by its place, 0 when it is taken. -/
def keepWriteCause (s : Mach) (m : RWriteMsg) (lim : Nat) : Nat :=
  if m.offset.toNat % 32 ≠ 0 ∨ m.data.length % 32 ≠ 0 ∨ lim < m.offset.toNat + m.data.length then 5
  else if stackOut s (kmStack m.window) then 7 else 0

/-- A write of the sealer reaches the keeper. -/
def keeperWrite (g : Keeping) (m : RWriteMsg) (s : Mach) : Mach :=
  let st := kmStack m.window
  let ext := st ≠ 0 ∨ headBytes ≤ m.offset.toNat
  let s1 := modKeeping (fun g => if ext then { g with
      started := true, got := g.got + m.data.length, crcs := addCrc st m.data g.crcs }
    else { g with started := true }) s
  answerCheck (useUnits 2 (slotEa g.slot st m.offset.toNat) m.data.length
    (writeEdge (slotEa g.slot st m.offset.toNat) m.data s1))

/-- A SLOT record is committed: the slot's state, the answer that awaited it, and the end of a seal (R445, R446). -/
def slotRecorded (d : List Byte) (s : Mach) : Mach :=
  if numAt d 8 8 = s.start.serial.toNat then
    match s.keep.sealing with
    | some x => if x.stage = .recording then endSeal 0 s else s
    | none => s
  else
    let s1 := raiseIrq 8 (modKeep (fun k => slotApply k d) s)
    let s1 := if numAt d 0 1 = 0 then stopExports (fun x => x.slot == (numAt d 1 1 == 1)) s1 else s1
    match s1.keep.keeping with
    | some g =>
      match g.ask, numAt d 0 1 with
      | some (.opened, m), 0 => answerSlot g m (modKeeping (fun g => { g with opened := true, ask := none }) s1)
      | some (.commit, m), 1 => answerSlot g m (modKeep (fun k => { k with keeping := none }) s1)
      | _, _ => s1
    | none => s1

/-! ### Restoring (R456) -/

/-- A seal runs, as sealer or as keeper. -/
def sealBusy (k : Keep) : Bool := k.sealing.isSome || k.keeping.isSome

/-- A restore as target begins. A module may serve another meanwhile, so that twins restore each other (R456). -/
def restoreCmd (q : Nat) (d : Desc) (s : Mach) : Mach :=
  startCmd q d (cB d 0 1 == 0x41) [(8, 12)] (fun o s =>
    if sealBusy s.keep || s.keep.rest.isSome then complete o 0x0C 1 (modKeep (fun k => { k with armBad := true, restStatus := 1 }) s)
    else modKeep (fun k => { k with
      moved := if k.serve.isSome then k.moved else 0, staging := []
      rest := some { keeper := BitVec.ofNat 16 (cB d 8 2), id := BitVec.ofNat 16 (cB d 10 2), epoch := BitVec.ofNat 32 (cB d 12 4),
                     step := BitVec.ofNat 32 (cB d 16 4), owed := o, header := false, got := 0, crcs := [], left := none } }) s) s

def execRestore (q : Fin 16) (d : Desc) (s : State) : Res := run (restoreCmd q.val d) s

/-- The staged header. -/
def staged (s : Mach) : List Byte := rdBytes s.keep.staging 0 headBytes

/-- MAGIC and COMMIT of a header. -/
def headOpen (h : List Byte) : Bool := numAt h 0 4 == 0x5A4B5350 && numAt h 30 1 % 2 == 1

/-- The extents are written: the checksums of the data that were written, by stack in the order of their arrival, decide (R456). -/
def restoreFinish (h : List Byte) (t : Tbl (BitVec 64)) (s : Mach) : Mach :=
  if (h.drop 64).take 256 = stackCrcs t ∧ numAt h 48 8 = (crcOfCrcs t).toNat then
    endRestore 0 (setStep (BitVec.ofNat 32 (numAt h 4 4))
      (modTrn (fun t => { t with seed := BitVec.ofNat 64 (numAt h 32 8) }) s))
  else endRestore 5 s

/-- A keep write reaches the restore target. -/
def targetWrite (x : Restore) (m : RWriteMsg) (s : Mach) : Nat × Mach :=
  let st := kmStack m.window
  if kmDir m.window then
    let ea := st * 2 ^ 36 + m.offset.toNat
    let h := staged s
    if !x.header || !(headExtents h).any (fun e => decide (e.1 ≤ ea ∧ ea + m.data.length ≤ e.1 + e.2)) then (3, s)
    else if keepWriteCause s m (2 ^ 36) ≠ 0 then (keepWriteCause s m (2 ^ 36), s)
    else
      let y := { x with got := x.got + m.data.length, crcs := addCrc st m.data x.crcs }
      let s1 := modKeep (fun k => { k with moved := k.moved + m.data.length, rest := some y })
        (useUnits 2 ea m.data.length (writeEdge ea m.data s))
      (0, if extBytes (headExtents h) ≤ y.got then restoreFinish h y.crcs s1 else s1)
  else if st ≠ 0 ∨ headBytes < m.offset.toNat + m.data.length then (5, s)
  else (0, modKeep (fun k => { k with staging := wrBytes k.staging m.offset.toNat m.data }) s)

/-- The keeper's RREAD reaches the target: the staged header is checked (R456). A keeper serves in KEEP alone; a twin in another
mode ends the restore (R372, R448). -/
def targetRead (x : Restore) (m : RReadMsg) (s : Mach) : Mach :=
  let h := staged s
  if twinId s = some x.keeper ∧ s.sys.twinMode ≠ 1 then endRestore 3 (keepAnswer m 3 [] s)
  else if !headOpen h then endRestore 9 (keepAnswer m 3 [] s)
  else if numAt h 14 2 ≠ x.id.toNat then endRestore 0xA (keepAnswer m 3 [] s)
  else keepAnswer m 0 ((h.drop m.offset.toNat).take (8 * m.len8.toNat)) (modKeep (fun k => { k with
    rest := some { x with header := true } }) s)

/-- A restore as keeper begins (R456). -/
def serveCmd (q : Nat) (d : Desc) (s : Mach) : Mach :=
  startCmd q d (cB d 0 1 == 0x42) [(8, 2), (12, 8)] (fun o s =>
    let step : Word := BitVec.ofNat 32 (cB d 16 4)
    let id : BitVec 16 := BitVec.ofNat 16 (cB d 8 2)
    let hit (b : Bool) := (slotOf s.keep b).valid && (slotOf s.keep b).step == step
    if sealBusy s.keep || s.keep.serve.isSome then complete o 0x0C 1 s
    else if !(hit false || hit true) then complete o 0x0C 9 s
    else if (keepPort s id 0).isNone then complete o 0x0C 6 s
    else
      let slot := !hit false
      let x : Serve := { target := id, epoch := BitVec.ofNat 32 (cB d 12 4), step := step, slot := slot, rid := s.rmt.nextRid,
                         owed := o }
      let s1 := modKeep (fun k => { k with serve := some x, moved := if k.rest.isSome then k.moved else 0 }) s
      match if stackOut s 0 then (none, s1) else slotHeader slot s1 with
      | (none, s2) => endServe 4 s2
      | (some h, s2) => keepRead id slot (keepWrite id false slot 0 0 h s2)) s

def execRestoreServe (q : Fin 16) (d : Desc) (s : State) : Res := run (serveCmd q.val d) s

/-- Each extent of a slot with where its data lie in the slot (R439): extent, edge address in the slot. -/
def slotPlaces (slot : Bool) (es : List (Nat × Nat)) : List ((Nat × Nat) × Nat) :=
  (List.range 32).flatMap (fun st =>
    ((es.filter (fun e => stackOf e.1 == st)).foldl (fun (a : List ((Nat × Nat) × Nat) × Nat) e =>
      (a.1 ++ [(e, slotEa slot st a.2)], a.2 + e.2)) ([], extentBase st)).1)

/-- The extents of a slot go to the target one after the other; false when a code word is uncorrectable (R456). -/
def serveExtents (x : Serve) : List ((Nat × Nat) × Nat) → Mach → Bool × Mach
  | [], s => (true, s)
  | e :: es, s =>
    let y := sealRead e.2 e.1.2 s
    match if stackOut s (stackOf e.2) then none else goodBytes y.1 with
    | none => (false, y.2)
    | some bs => serveExtents x es (modKeep (fun k => { k with moved := k.moved + e.1.2 })
        (keepWrite x.target true x.slot (stackOf e.1.1) (e.1.1 % 2 ^ 36) bs y.2))

/-- The target confirmed the header: the extents follow (R456). -/
def serveAdvance (x : Serve) (status : Nat) (s : Mach) : Mach :=
  if status ≠ 0 then endServe 3 s
  else
    match slotHeader x.slot s with
    | (none, s1) => endServe 4 s1
    | (some h, s1) =>
      let r := serveExtents x (slotPlaces x.slot (headExtents h)) s1
      endServe (if r.1 then 0 else 4) r.2

/-! ### Arrival (R443) -/

/-- A peer's session admits the message. -/
def keepPeer (s : Mach) (src : BitVec 16) (sepoch : Word) (w : BitVec 16) : Option (Keeping ⊕ Restore) :=
  if fld w 6 8 ≠ 0 then none
  else
    match s.keep.keeping with
    | some g => if g.peer = src ∧ g.epoch = sepoch ∧ !kmDir w then some (.inl g) else none
    | none =>
      match s.keep.rest with
      | some x => if x.keeper = src ∧ x.epoch = sepoch ∧ x.left = none then some (.inr x) else none
      | none => none

/-- A keep message arrives: this module's, or transit. -/
def keepArrive (p : Nat) (m : Msg) (own : Mach → Mach) (s : Mach) : Mach :=
  if !portActive s p then s else if isOwn s m then own s else keepTransit m s

def keepTakeWrite (p : Nat) (m : RWriteMsg) (s : Mach) : Mach :=
  match keepPeer s m.src m.sepoch m.window with
  | some (.inl g) =>
    let c := if !g.opened || kmSlot m.window != g.slot then 3 else keepWriteCause s m (2 ^ 33)
    if c ≠ 0 then rejectWrite p c m s else keeperWrite g m s
  | some (.inr x) =>
    let r := targetWrite x m s
    if r.1 ≠ 0 then rejectWrite p r.1 m r.2 else r.2
  | none => rejectWrite p 3 m s

def keepTakeRead (m : RReadMsg) (s : Mach) : Mach :=
  let refuse := keepAnswer m 3 [] (countRej 3 s)
  match keepPeer s m.src m.sepoch m.window with
  | some (.inl g) => if g.ask.isSome || kmSlot m.window != g.slot then refuse else keeperRead g m s
  | some (.inr x) => if kmDir m.window then refuse else targetRead x m s
  | none => refuse

def keepTakeData (m : RDataMsg) (s : Mach) : Mach :=
  let status := m.status.toNat % 128
  match s.keep.sealing, s.keep.serve with
  | some x, _ => if x.peer = m.src ∧ x.rid = m.rid ∧ x.stage ≠ .armed then sealAdvance x status m.data s else s
  | none, some x => if x.target = m.src ∧ x.rid = m.rid then serveAdvance x status s else s
  | _, _ => s

def keepRwriteArrive (p : Nat) (m : RWriteMsg) : Mach → Mach := keepArrive p (.rwrite m) (keepTakeWrite p m)
def keepRreadArrive (p : Nat) (m : RReadMsg) : Mach → Mach := keepArrive p (.rread m) (keepTakeRead m)
def keepRdataArrive (p : Nat) (m : RDataMsg) : Mach → Mach := keepArrive p (.rdata m) (keepTakeData m)

def execKeepRwrite (port : Fin 64) (m : RWriteMsg) (s : State) : Res := runIf m.wf (keepRwriteArrive port.val m) s
def execKeepRread (port : Fin 64) (m : RReadMsg) (s : State) : Res := runIf m.wf (keepRreadArrive port.val m) s
def execKeepRdata (port : Fin 64) (m : RDataMsg) (s : State) : Res := runIf m.keepWf (keepRdataArrive port.val m) s

/-! ### Time-outs and losses (R447) -/

/-- A seal has left the stage in which it waits for its round, and has not reached its own record. -/
def sealWaits (s : Mach) : Bool :=
  match s.keep.sealing with | some x => x.stage != .armed && x.stage != .recording | none => false

/-- A seal, as sealer, has not reached its round yet. -/
def sealArmed (s : Mach) : Bool := match s.keep.sealing with | some x => x.stage == .armed | none => false

/-- 10 ms pass without a message from the peer: every session that awaits one ends with 0x03. -/
def sealSessionTimeout (s : Mach) : Mach :=
  if sealArmed s then s
  else
    let s1 := if sealWaits s then endSeal 3 s else s
    let s2 := match s1.keep.keeping with | some _ => endKeeping 3 s1 | none => s1
    endServe 3 (endRestore 3 s2)

def execSealSessionTimeout (s : State) : Res := run sealSessionTimeout s

/-- The ledger drops the open and commit records that are not committed: no marker of them stands (R447). -/
def dropSlotEvents (l : Ledger) : Ledger :=
  let hit (e : Event) := e.cls == 0x50 && numAt e.detail 0 1 != 2
  { l with
    protQ := l.protQ.filter (fun e => !hit e)
    waitQ := l.waitQ.filter (fun e => !hit e)
    inFlight := l.inFlight.filter (fun r => !hit r.ev) }

/-- The records of a seal that ends are not written (R447). -/
def dropSlotWrites (s : Mach) : Mach :=
  let s1 := if s.led.inFlight.any (fun r => r.ev.cls == 0x50 && numAt r.ev.detail 0 1 != 2) then
      modPwr (fun p => { p with waiting := p.waiting.filter (fun w => w.kind != .ledger) }) s else s
  modLed dropSlotEvents s1

/-- An energy check waits more than 1 s. -/
def sealEnergyTimeout (s : Mach) : Mach :=
  let slotWaits := match s.keep.keeping with
    | some g => (match g.ask with | some (.opened, _) => true | some (.commit, _) => true | _ => false)
    | none => false
  let recording := match s.keep.sealing with | some x => x.stage == .recording | none => false
  if slotWaits || recording then
    let s1 := dropSlotWrites s
    let s2 := if recording then endSeal 7 s1 else s1
    if slotWaits then endKeeping 7 s2 else s2
  else s

def execSealEnergyTimeout (s : State) : Res := run sealEnergyTimeout s

/-- The partner of port p is lost: a session whose peer it cuts off ends with 0x06. -/
def keepLoss (p : Nat) (s : Mach) : Mach :=
  let hit (id : BitVec 16) := (twinPort p && (portAt s p).pid == id) || (keepPort s id 0).isNone
  let s1 := match s.keep.sealing with | some x => if x.stage ≠ SealStage.armed ∧ hit x.peer then endSeal 6 s else s | none => s
  let s2 := match s1.keep.rest with | some x => if hit x.keeper then endRestore 6 s1 else s1 | none => s1
  match s2.keep.serve with | some x => if hit x.target then endServe 6 s2 else s2 | none => s2

/-- Seals and restores end by a reset or an arm (R447, R454). -/
def endSessions (s : Mach) : Mach :=
  endServe 8 (endRestore 8 (modKeep (fun k => { k with keeping := none }) (dropSlotWrites (endSeal 8 s))))

/-! ### Export and import (R574, R575) -/

/-- The export stream of a slot: what is read at each place of it, in order. -/
def exportPlaces (slot : Bool) (h : List Byte) : List (Nat × Nat) :=
  (slotEa slot 0 0, 65536) :: (slotPlaces slot (headExtents h)).map (fun e => (e.2, e.1.2))

/-- The parts of places that bytes `a` to `b - 1` of their stream cover. -/
def streamCut (a b : Nat) : List (Nat × Nat) → Nat → List (Nat × Nat)
  | [], _ => []
  | (ea, n) :: t, pos =>
    let lo := max a pos
    let hi := min b (pos + n)
    (if lo < hi then [(ea + (lo - pos), hi - lo)] else []) ++ streamCut a b t (pos + n)

/-- An export begins: the slot is checked, and its header read for the places of the stream. -/
def ckptExport (q : Nat) (d : Desc) (hostOk : Bool) (s : Mach) : Mach :=
  startCmd q d (cB d 0 1 == 0x51) [(8, 1), (12, 28)] (fun o s =>
    let slot := cB d 8 1 % 2 == 1
    let start := cB d 24 8
    let len := cB d 32 8
    let x := slotOf s.keep slot
    if 1 < cB d 8 1 ∨ cB d 16 8 % 64 ≠ 0 ∨ start % 32 ≠ 0 ∨ len % 32 ≠ 0 then complete o 0x02 0 s
    else if !x.valid || x.step.toNat != cB d 12 4 then complete o 0x0C 9 s
    else
      match if stackOut s 0 then (none, s) else slotHeader slot s with
      | (none, s1) => complete o 0x0C 4 s1
      | (some h, s1) =>
        if headBytes + extBytes (headExtents h) < start + len then complete o 0x02 0 s1
        else modKeep (fun k => { k with exports := k.exports ++
          [⟨o, slot, streamCut start (start + len) (exportPlaces slot h) 0, cB d 16 8, hostOk⟩] }) s1) s

def execCkptExport (q : Fin 16) (d : Desc) (hostOk : Bool) (s : State) : Res := run (ckptExport q.val d hostOk) s

/-- An export copies its next part; with none left it completes (R574). -/
def exportNext (x : Export) (s : Mach) : Option Export × Mach :=
  match x.parts with
  | [] => (none, complete x.owed 0x00 0 s)
  | (ea, n) :: rest =>
    let r := sealRead ea n s
    match if stackOut s (stackOf ea) then none else goodBytes r.1 with
    | none => (none, complete x.owed 0x0C 4 r.2)
    | some bs =>
      if x.taken then
        (some { x with parts := rest, host := x.host + n }, emit (.hostWrite (BitVec.ofNat 64 x.host) bs) r.2)
      else (none, complete x.owed 0x0E 0 r.2)

/-- Every export goes on by one part. -/
def exportsCycle (s : Mach) : Mach :=
  s.keep.exports.foldl (fun s x =>
    let r := exportNext x s
    modKeep (fun k => { k with exports := k.exports ++ r.1.toList }) r.2) (modKeep (fun k => { k with exports := [] }) s)

/-- An import writes its next extent, and with none left its checksums decide (R575). -/
def importCycle (s : Mach) : Mach :=
  match s.keep.rest with
  | none => s
  | some x =>
    match x.left with
    | none => s
    | some ([], _) => restoreFinish (staged s) x.crcs s
    | some (e :: es, bs) =>
      if stackOut s (stackOf e.1) then endRestore 4 s
      else
        modKeep (fun k => { k with
          moved := k.moved + e.2
          rest := some { x with got := x.got + e.2, crcs := addCrc (stackOf e.1) (bs.take e.2) x.crcs, left := some (es, bs.drop e.2) } })
          (useUnits 2 e.1 e.2 (writeEdge e.1 (bs.take e.2) s))

/-- The copies between host memory and edge memory go on by one part (R574, R575): how much of them a reference cycle carries is the
model's choice (DESIGN CHOICE, log entry 37). -/
def copyCycle (s : Mach) : Mach := importCycle (exportsCycle s)

/-- The extents of a header in the order of its stream: stack 0 first (R574). -/
def streamOrder (es : List (Nat × Nat)) : List (Nat × Nat) :=
  (List.range 32).flatMap (fun st => es.filter (fun e => stackOf e.1 == st))

/-- An import begins: its header goes into the staging buffer and is checked (R575). -/
def ckptImport (q : Nat) (d : Desc) (data : Option (List Byte)) (s : Mach) : Mach :=
  startCmd q d (cB d 0 1 == 0x52) [(16, 16)] (fun o s =>
    if cB d 24 8 < headBytes ∨ cB d 16 8 % 64 ≠ 0 then complete o 0x02 0 s
    else if s.sec.cur.isSome then complete o 0x03 0 (modKeep (fun k => { k with armBad := true }) s)
    else if sealBusy s.keep || s.keep.rest.isSome then
      complete o 0x0C 1 (modKeep (fun k => { k with armBad := true, restStatus := 1 }) s)
    else
      match data with
      | none => complete o 0x0E 0 (modKeep (fun k => { k with armBad := true }) s)
      | some bs =>
        let h := bs.take headBytes
        let es := headExtents h
        let x : Restore := { keeper := 0, epoch := 0, step := BitVec.ofNat 32 (numAt h 4 4), id := 0, owed := o, header := true,
                             got := 0, crcs := [], left := some (streamOrder es, bs.drop headBytes) }
        let s1 := modKeep (fun k => { k with
          rest := some x, moved := if k.serve.isSome then k.moved else 0, staging := wrBytes [] 0 h }) s
        if !headOpen h then endRestore 9 s1
        else if !extentsOk es then endRestore 2 s1
        else if bs.length ≠ headBytes + extBytes es then endRestore 5 s1
        else s1) s

def execCkptImport (q : Fin 16) (d : Desc) (data : Option (List Byte)) (s : State) : Res :=
  runIf (hostData (descNum d 24 8) data) (ckptImport q.val d data) s

end Sys2Proof.Machine
end

