-- ==== Sys2Proof/Machine/Power.lean ====
section
/-! DEFINITION. Power, clocks and cooling: feeds, domains, the cap and the brake, clock stretching, voltage commands,
minimum-voltage records, the bank gauge, and the thermal limits (15_power_clocks_cooling.md). -/

namespace Sys2Proof.Machine

/-! ### Registers and records (R495 to R497, R540) -/

/-- PWR_STAT (R495). -/
def pwrStat (p : Power) : Word :=
  b1 p.inloss ++ b1 p.brake ++ b1 p.capstr ++ b1 p.seqFail ++ b1 p.thermOff ++ b1 false ++ b1 p.feedB ++ b1 p.feedA ++
    (0 : BitVec 24)

/-- AVAIL: the lower estimate governs (R488). -/
def bankAvail (p : Power) : Nat := min p.coul.toNat p.model.toNat

/-- HUB_STAT (R497). -/
def hubStat (p : Power) : Word :=
  b1 p.full ++ b1 p.charging ++ b1 (!p.waiting.isEmpty) ++ b1 p.weak ++ (0 : BitVec 12) ++ BitVec.ofNat 16 (bankAvail p)

/-- PWR_EVT bit b rises (R496, R578). -/
def pwrEvt (b : Nat) (s : Mach) : Mach := raiseIrq 9 (noteRaise 0x301C b (modPwr (fun p => { p with evt := setBit p.evt b }) s))

/-- A POWER record (R540). -/
def powerRecord (flags : Nat) (s : Mach) : Mach :=
  logModule 0x60 flags (toBytes 4 s.pwr.evt.toNat ++ bytesOf (pwrStat s.pwr) ++ bytesOf (hubStat s.pwr)) s

/-- PWR_EVT bit b rises with a record; an uncorrected fault when `unc` (R449). -/
def powerEvent (b : Nat) (unc : Bool) (s : Mach) : Mach :=
  let s1 := powerRecord (if unc then 1 else 0) (pwrEvt b s)
  if unc then uncorrected 0x60 s1 else s1

/-! ### Power-down (R471) -/

/-- A die loses its power, and with it everything that it holds. -/
def dieOff (d : Nat) (s : Mach) : Mach :=
  settleStretch (modDpw d (fun x => { x with on := false, stretching := false })
    { s with cores := s.cores.filter (fun e => dieOf e.1 != d) })

/-- The emergency power-down: every die at once, then the rim domains in the order of the orderly one. A start that an orderly power-down
was to lead to still follows it (R494). -/
def emergencyDown (s : Mach) : Mach :=
  let s1 := settleStretch (iter 144 (fun d s => modDpw d (fun x => { x with on := false, stretching := false }) s) { s with cores := [] })
  modPwr (fun p => { p with up := none, burn := none, down := some (match p.down with | some (n, a) => (max n 18, a) | none => (18, .stay)) }) s1

/-! ### Feeds (R463 to R465) -/

def feedLost (b : Bool) (s : Mach) : Mach :=
  if (if b then s.pwr.feedB else s.pwr.feedA) then
    powerEvent 0 false (modPwr (fun p => if b then { p with feedB := false } else { p with feedA := false }) s)
  else s

def execFeedLost (feedB : Bool) (s : State) : Res := run (feedLost feedB) s

def feedTaken (b : Bool) (s : Mach) : Mach :=
  if (if b then s.pwr.feedB else s.pwr.feedA) then s
  else pwrEvt 1 (modPwr (fun p => if b then { p with feedB := true } else { p with feedA := true }) s)

def execFeedTaken (feedB : Bool) (s : State) : Res := run (feedTaken feedB) s

/-- Both feeds are lost. -/
def inputLoss (s : Mach) : Mach :=
  if s.pwr.inloss || !s.pwr.vaux then s
  else
    emergencyDown (pwrEvt 2 (modPwr (fun p =>
      { p with inloss := true, feedA := false, feedB := false, gasp := true, full := false, charging := false }) s))

def execInputLoss (s : State) : Res := run inputLoss s

/-- AVAIL falls below 2 J after the last-gasp record: VAUX goes off, and the bank is exhausted (R491). -/
def bankExhausted (s : Mach) : Mach :=
  if s.pwr.inloss && !s.pwr.gasp && s.pwr.running.isEmpty && decide (bankAvail s.pwr < 20) then
    modStart (fun x => { x with state := 0 }) (modPwr (fun p => { p with vaux := false, rimOn := false, down := none }) s)
  else s

def execBankExhausted (s : State) : Res := run bankExhausted s

/-! ### Domain faults (R468) -/

/-- A domain fault is raised, also one of a domain that was at fault before. -/
def domainFault (i : DomInst) (s : Mach) : Mach :=
  powerEvent 8 true (modPwr (fun p => { p with faults := if p.faults.contains i then p.faults else p.faults ++ [i] }) s)

def execDomainFault (i : DomInst) (s : State) : Res := run (domainFault i) s

def domainFaultOff (i : DomInst) (s : Mach) : Mach :=
  if !s.pwr.faults.contains i then s
  else
    match i with
    | .die d _ => modPwr (fun p => { p with dieFail := if p.dieFail.contains d.val then p.dieFail else p.dieFail ++ [d.val] })
        (dieOff d.val s)
    | .vaux => s
    | .vbak => s
    | _ => emergencyDown s

def execDomainFaultOff (i : DomInst) (s : State) : Res := run (domainFaultOff i) s

/-! ### Cap and brake (R472 to R474, R493) -/

/-- PWR_CAP.CAP as it acts (R495). -/
def capActs (c : Nat) : Nat := if c < 0x64 then 0x64 else if 0x12C < c then 0x12C else c

/-- EFF (R493), rounded down to 100 W. -/
def effCap (p : Power) : Nat :=
  let cap := capActs p.cap.toNat
  let e := if p.flow.toNat < 600 then cap * p.flow.toNat / 600 else cap
  e - 20 * (p.inlet.toInt - 45).toNat

def setEff (p : Power) : Power := { p with eff := BitVec.ofNat 9 (effCap p) }

/-- The brake is applied (R474): every die stretches. -/
def brakeOn (s : Mach) : Mach :=
  beginStretch (iter 144 (fun d s => modDpw d (fun x => { x with stretching := x.on }) s)
    (powerEvent 3 true (modPwr (fun p => { p with brake := true }) s)))

/-- The feeds are measured with each sample; what they measure is the input's, and free (log entry 4). -/
def feedSample (s : Mach) : Mach :=
  { modPwr (fun x => { x with feedAReg := Config.free32 s.free, feedBReg := Config.free32 (s.free + 1) }) s with free := s.free + 2 }

/-- The average of samples, rounded down. -/
def average (l : List (BitVec 16)) : BitVec 16 := BitVec.ofNat 16 (l.foldl (fun n x => n + x.toNat) 0 / max 1 l.length)

/-- A sample of the input power: the brake, the round's average and the average of 100 ms, or of all samples while there are fewer (R472,
R474, R495). -/
def powerSample (p : BitVec 16) (over5ms : Bool) (s0 : Mach) : Mach :=
  let s := feedSample s0
  let s1 := modPwr (fun x =>
    { x with
      peak := if x.peak.toNat < p.toNat then p else x.peak
      sum := x.sum + p.toNat
      samples := x.samples + 1
      recent := (p :: x.recent).take 100000
      avg100 := average ((p :: x.recent).take 100000) }) s
  let r := s1.pwr.recent.take 1000
  if 3600 < p.toNat ∨ over5ms then (if s1.pwr.brake then s1 else brakeOn s1)
  else if s1.pwr.brake ∧ r.length = 1000 ∧ r.foldl (fun n x => n + x.toNat) 0 ≤ 2700 * 1000 then
    modPwr (fun x => { x with brake := false }) s1
  else s1

def execPowerSample (p : BitVec 16) (over5ms : Bool) (s : State) : Res := run (powerSample p over5ms) s

def capUnmet (avg : BitVec 16) (s : Mach) : Mach :=
  let s1 := modPwr (fun p => { p with avg100 := avg }) s
  if s.pwr.eff.toNat * 1020 < avg.toNat * 100 then powerEvent 4 false s1 else s1

def execCapUnmet (avg100 : BitVec 16) (s : State) : Res := run (capUnmet avg100) s

/-- The average of the round just ended, and the stretch that the cap asks for (R472); `t` is its length in µs. -/
def capBoundary (t : Nat) (s : Mach) : Mach :=
  let p := s.pwr
  let pm := if p.samples = 0 then 0 else p.sum / p.samples
  let c := 10 * p.eff.toNat
  let x : Nat := if p.sum ≤ c * p.samples then 0
                 else if c ≤ p.idle.toNat then 65535
                 else min 65535 (ceilDiv (t * (p.sum - c * p.samples)) (p.samples * (c - p.idle.toNat)))
  modRnd (fun r => { r with sreq := if r.sreq.toNat < x then BitVec.ofNat 16 x else r.sreq })
    (modPwr (fun q => { q with inRnd := BitVec.ofNat 16 pm, sum := 0, samples := 0, capstr := decide (0 < x) }) s)

/-! ### Clock stretching (R475, R476) -/

def droopTrip (d : Nat) (sensor : BitVec 5) (s : Mach) : Mach :=
  if !(dpwAt s d).on then s
  else
    modDie d (fun x => { x with stw := { x.stw with shTrips := satInc x.stw.shTrips } })
      (beginStretch (modDpw d (fun x => { x with stretching := true, trips := satInc x.trips, lasts := sensor }) s))

def execDroopTrip (die : Fin 144) (sensor : Fin 32) (s : State) : Res := run (droopTrip die.val (BitVec.ofNat 5 sensor.val)) s

/-- When a stretch has lasted n stretched cycles from its beginning, or from the round start that divided it, in whole ones. -/
def stretchUntil (n : Nat) (s : Mach) : Nat :=
  match s.fab.since with
  | some t => t + 2 * max n ((s.now - t + 1) / 2)
  | none => s.now

/-- The die returns to normal; under the brake it does not (R476). The command says how many stretched cycles of the module had passed
then (DESIGN CHOICE, log entry 38). -/
def stretchEnd (d n : Nat) (s : Mach) : Mach :=
  if !(dpwAt s d).stretching || s.pwr.brake then s
  else settleStretch (modDpw d (fun x => { x with stretching := false }) (notBefore (stretchUntil n s) s))

def execStretchEnd (die : Fin 144) (cycles : Nat) (s : State) : Res := run (stretchEnd die.val cycles) s

/-! ### Voltage commands (R467, R477 to R480, R486) -/

/-- Cycles from one set point to another: 2.5 mV a µs. -/
def slewTime (a b : Nat) : Nat := 1100 * ((a - b) + (b - a))

/-- Where a slew has come to. -/
def slewAt (now : Nat) (x : Slew) : Nat :=
  let n := (now - x.since) / 1100
  let a := x.from_.toNat
  let g := x.goal.toNat
  if a ≤ g then min g (a + n) else max g (a - n)

/-- The set points of a die at a time; VLOG waits at VARR (R467). -/
def varrAt (x : DiePower) (t : Nat) : Nat := slewAt t x.varr
def vlogAt (x : DiePower) (t : Nat) : Nat := min (slewAt t x.vlog) (varrAt x t)

/-- The set points of a die now. -/
def varrSet (s : Mach) (d : Nat) : Nat := varrAt (dpwAt s d) s.now
def vlogSet (s : Mach) (d : Nat) : Nat := vlogAt (dpwAt s d) s.now

/-- The adjusted floor (R486), as a code of 2.5 mV: 0.5 mV for each °C, rounded up. -/
def adjFloor (x : DiePower) : Nat := min 340 (x.floor.toNat + ceilDiv (x.calt.toInt - x.temp.toInt).toNat 5)

def modSlew (varr : Bool) (f : Slew → Slew) (x : DiePower) : DiePower :=
  if varr then { x with varr := f x.varr } else { x with vlog := f x.vlog }
def slewOf (varr : Bool) (x : DiePower) : Slew := if varr then x.varr else x.vlog

/-- A command is refused (R477). -/
def refuseVcmd (d reason : Nat) : Mach → Mach := modDpw d (fun x => { x with rej := true, reason := BitVec.ofNat 2 reason })

/-- Where a VARR set point goes: to the target in force, but a fall stops where VLOG goes, so that VARR never carries VLOG below its
adjusted floor (R467, R479; DESIGN CHOICE, log entry 38). -/
def varrGoal (x : DiePower) (now : Nat) : Nat :=
  let t := x.varr.target.toNat
  let v := varrAt x now
  if t < v then max t (min v x.vlog.goal.toNat) else t

/-- The slew of VARR follows where it goes. -/
def reVarr (now : Nat) (x : DiePower) : DiePower :=
  if varrGoal x now = x.varr.goal.toNat then x
  else { x with varr := { x.varr with
    from_ := BitVec.ofNat 10 (varrAt x now), since := now, goal := BitVec.ofNat 10 (varrGoal x now) } }

/-- The VLOG set point goes to the target in force or the adjusted floor (R479). -/
def reVlog (now : Nat) (x : DiePower) : DiePower :=
  let g := max x.vlog.target.toNat (adjFloor x)
  if g = x.vlog.goal.toNat then x
  else reVarr now { x with
    floored := decide (x.vlog.target.toNat < adjFloor x)
    vlog := { x.vlog with from_ := BitVec.ofNat 10 (vlogAt x now), since := now, goal := BitVec.ofNat 10 g } }

def refloor (d : Nat) (s : Mach) : Mach := modDpw d (reVlog s.now) s

/-- A command takes effect at a time, or is refused by its check (R478). -/
def vcmdAt (now : Nat) (varr : Bool) (t : BitVec 10) (x : DiePower) : DiePower :=
  if (!varr && decide (x.varr.target.toNat < t.toNat)) || (varr && decide (t.toNat < x.vlog.target.toNat)) then
    { x with rej := true, reason := 2 }
  else
    let z : Slew := { slewOf varr x with
      from_ := BitVec.ofNat 10 (if varr then varrAt x now else vlogAt x now), since := now, target := t, last := some now,
      settled := false, settling := false }
    if varr then
      let y := { x with varr := z }
      { y with varr := { z with goal := BitVec.ofNat 10 (varrGoal y now) } }
    else
      let g := max t.toNat (adjFloor x)
      reVarr now { x with vlog := { z with goal := BitVec.ofNat 10 g }, floored := decide (t.toNat < g) }

def vcmdEffect (d : Nat) (varr : Bool) (t : BitVec 10) (s : Mach) : Mach := modDpw d (vcmdAt s.now varr t) s

/-- 50 µs, from one command of a domain to the next that takes effect (R477). -/
def vcmdGap : Nat := 55000

/-- A held command whose 50 µs are over took effect then (R477). -/
def heldEffect (now : Nat) (varr : Bool) (x : DiePower) : DiePower :=
  let z := slewOf varr x
  match z.held, z.last with
  | some t, some l =>
    if l + vcmdGap ≤ now then vcmdAt (l + vcmdGap) varr t (modSlew varr (fun z => { z with held := none }) x) else x
  | _, _ => x

/-- A command of a domain arrives at its steward (R477). -/
def takeVcmd (now : Nat) (varr : Bool) (t : BitVec 10) (x0 : DiePower) : DiePower :=
  let x := heldEffect now varr x0
  let z := slewOf varr x
  if (match z.last with | some l => decide (l + vcmdGap ≤ now) | none => true) then vcmdAt now varr t x
  else
    let y := modSlew varr (fun z => { z with held := some t, settled := false }) x
    if z.held.isSome then { y with coal := satInc y.coal } else y

/-- A write of DIE_VCMD (R477, R501). -/
def dieVcmd (d : Nat) (v : Word) (s : Mach) : Mach :=
  let varr := bit v 12
  let t := fld v 0 10
  if t.toNat < (if varr then 280 else 240) ∨ 340 < t.toNat then refuseVcmd d 1 s
  else if !(dpwAt s d).on then refuseVcmd d 3 s
  else modDpw d (takeVcmd s.now varr t) s

def execDieVcmd (die : Fin 144) (v : Word) (s : State) : Res :=
  runAccess (0x409000 + 0x10000 * die.val) (dieVcmd die.val v) s

/-- The held command takes effect 50 µs after the last one did. -/
def vcmdTakeEffect (d : Nat) (varr : Bool) (s : Mach) : Mach :=
  let z := slewOf varr (dpwAt s d)
  match z.held, z.last with
  | some _, some l =>
    let s1 := notBefore (l + vcmdGap) s
    modDpw d (heldEffect s1.now varr) s1
  | _, _ => s

def execVcmdTakeEffect (die : Fin 144) (varr : Bool) (s : State) : Res := run (vcmdTakeEffect die.val varr) s

/-- When a slew passes a set point on its way to it. -/
def slewPast (z : Slew) (v : BitVec 10) : Nat := z.since + slewTime z.from_.toNat v.toNat

/-- When the set point of a domain reaches its goal: VLOG waits where VARR is still on its way up to that goal (R467). -/
def slewEnd (x : DiePower) (varr : Bool) : Nat :=
  if varr then slewPast x.varr x.varr.goal
  else if x.varr.from_.toNat < x.vlog.goal.toNat then max (slewPast x.vlog x.vlog.goal) (slewPast x.varr x.vlog.goal)
  else slewPast x.vlog x.vlog.goal

/-- The set point reaches the target in force (R480). -/
def slewReached (d : Nat) (varr : Bool) (s : Mach) : Mach :=
  let z := slewOf varr (dpwAt s d)
  if z.settled || z.goal != z.target then s
  else modDpw d (modSlew varr (fun z => { z with settling := true })) (notBefore (slewEnd (dpwAt s d) varr) s)

def execSlewReached (die : Fin 144) (varr : Bool) (s : State) : Res := run (slewReached die.val varr) s

/-- 5 µs have passed with no command held. -/
def settledTimer (d : Nat) (varr : Bool) (s : Mach) : Mach :=
  let z := slewOf varr (dpwAt s d)
  if z.settling && z.held.isNone then
    modDpw d (modSlew varr (fun z => { z with settled := true, settling := false }))
      (notBefore (slewEnd (dpwAt s d) varr + 5500) s)
  else s

def execSettledTimer (die : Fin 144) (varr : Bool) (s : State) : Res := run (settledTimer die.val varr) s

/-! ### Temperatures and coolant (R492 to R494) -/

/-- The warning and trip limits of a measure. -/
def thermLimits : ThermSrc → Int × Int
  | .die _ => (95, 105)
  | .stack _ => (90, 100)
  | .port _ => (70, 80)

/-- A thermal trip. -/
def thermTrip (s : Mach) : Mach :=
  if s.pwr.thermOff then s
  else emergencyDown (powerEvent 7 true (modPwr (fun p => { p with thermOff := true }) s))

/-- Where a temperature is kept; the power block keeps its own of the stacks and the ports (R498). -/
def storeTemp (src : ThermSrc) (temp : Byte) (s : Mach) : Mach :=
  match src with
  | .die d => refloor d.val (modDpw d.val (fun x => { x with temp := temp }) s)
  | .stack st => setStackTemp st.val temp (modPwr (fun p => { p with stkTemp := tset 0 p.stkTemp st.val temp }) s)
  | .port p => modPort p.val (fun x => { x with temp := temp }) (modPwr (fun q => { q with portTemp := tset 0 q.portTemp p.val temp }) s)

def thermalSample (src : ThermSrc) (temp : Byte) (s : Mach) : Mach :=
  let s1 := storeTemp src temp s
  let (w, t) := thermLimits src
  let hot := s.pwr.warm.contains src
  if w ≤ temp.toInt then
    let s2 := if hot then s1 else powerEvent 6 false (modPwr (fun p => { p with warm := p.warm ++ [src] }) s1)
    if t ≤ temp.toInt then thermTrip s2 else s2
  else modPwr (fun p => { p with warm := p.warm.filter (· != src) }) s1

def execThermalSample (src : ThermSrc) (temp : Byte) (s : State) : Res := run (thermalSample src temp) s

/-- The coolant is within R492. -/
def coolOk (p : Power) : Bool := decide (20 ≤ p.inlet.toInt ∧ p.inlet.toInt ≤ 45) && decide (600 ≤ p.flow.toNat)

def coolantSample (inlet outlet : Byte) (flow : BitVec 16) (held : Bool) (s : Mach) : Mach :=
  let s1 := modPwr (fun p => setEff { p with inlet := inlet, outlet := outlet, flow := flow }) s
  let out := !coolOk s1.pwr
  let s2 := modPwr (fun p => { p with coolOut := out }) (if out then pwrEvt 5 s1 else s1)
  if held ∧ (48 < inlet.toInt ∨ flow.toNat < 300) then thermTrip s2 else s2

def execCoolantSample (inlet outlet : Byte) (flow : BitVec 16) (held1s : Bool) (s : State) : Res :=
  run (coolantSample inlet outlet flow held1s) s

/-! ### The calendar clock (R547) -/

/-- The calendar time in 1/65,536 s. -/
def calNow (s : Mach) : Nat :=
  if s.cal.running then s.cal.base + (s.now - s.cal.since) * 65536 / 1100000000 else s.cal.base

def calSec (s : Mach) : BitVec 48 := BitVec.ofNat 48 (calNow s / 65536)
def calFrac (s : Mach) : BitVec 16 := BitVec.ofNat 16 (calNow s)

/-! ### Minimum-voltage records (R481, R482, R499, R500, R502) -/

/-- The place of a record of the rims and the board; `none` for a die's domain. -/
def vmKey : DomInst → Option Nat
  | .die _ _ => none
  | .rim p d => some (4 * p.val + d.val)
  | .stack st d => some (8 + 3 * st.val + d.val)
  | .port p => some (104 + p.val)
  | .vaux => some 168
  | .vbak => some 169

/-- The set point of a domain now (R466), in 2.5 mV; VBAK has none, and its full voltage stands for it (DESIGN CHOICE, log entry 22). -/
def vmSet (s : Mach) : DomInst → Nat
  | .die d dom => match dom.val with | 0 => vlogSet s d.val | 1 => varrSet s d.val | _ => 320
  | .rim _ dom => match dom.val with | 0 => 300 | 1 => 320 | 2 => 320 | _ => 300
  | .stack _ dom => match dom.val with | 0 => 420 | 1 => 280 | _ => 720
  | .port _ => 720
  | .vaux => 1320
  | .vbak => 1200

/-- The step of the power-up sequence that ramps a domain (R469): 0 to 6 the rims, the stacks and the ports, then VARR, VLNK and
VLOG of dies 8k to 8k + 7 for k = 0 to 17; none for the domains that are up before. -/
def rampStep : DomInst → Option Nat
  | .rim _ d => some (match d.val with | 0 => 0 | 1 => 1 | 2 => 1 | _ => 2)
  | .stack _ d => some (match d.val with | 0 => 4 | 1 => 5 | _ => 3)
  | .port _ => some 6
  | .die d dom => some (7 + 3 * (d.val / 8) + (match dom.val with | 0 => 2 | 1 => 0 | _ => 1))
  | _ => none

/-- The step of a power-down after which a domain of the rims is off (R471). -/
def downStep : DomInst → Nat
  | .rim _ d => match d.val with | 0 => 24 | 1 => 23 | 2 => 23 | _ => 22
  | .stack _ d => match d.val with | 0 => 20 | 1 => 19 | _ => 21
  | .port _ => 18
  | _ => 24

/-- The domain is not one that the sequence leaves off (R469, R470). -/
def rampsUp (s : Mach) : DomInst → Bool
  | .die d _ => !s.pwr.dieFail.contains d.val
  | .stack st _ => !s.pwr.stkFail.contains st.val
  | .port p => portLicensed s p.val && !s.pwr.voptFail.contains p.val
  | _ => true

/-- The domain has reached regulation since it was powered up and is not off again, so its record is kept (R481). -/
def recording (s : Mach) (i : DomInst) : Bool :=
  match rampStep i with
  | none => s.pwr.vaux || i == .vbak
  | some n =>
    match i with
    | .die d _ => (match s.pwr.up with | some k => decide (n < k) && rampsUp s i | none => (dpwAt s d.val).on)
    | _ =>
      rampsUp s i &&
        (match s.pwr.up, s.pwr.down with
         | some k, _ => decide (n < k)
         | none, some (k, _) => decide (k ≤ downStep i) && s.pwr.rimOn
         | none, none => s.pwr.rimOn)

/-- A record after a sample. -/
def vmTake (s : Mach) (i : DomInst) (v : BitVec 11) (o : Option VRec) : Option VRec :=
  if (match o with | some r => decide (v.toNat < r.vmin.toNat) | none => true) then
    some { vmin := v, setpt := BitVec.ofNat 11 (vmSet s i), round := (roundNow s).setWidth 32, sec := calSec s, frac := calFrac s }
  else o

/-- The record of a domain of a die, and of the rims and the board, among those of this cycle. -/
def vmNote (die key : Nat) : Nat := 256 * die + key
def boardNote (key : Nat) : Nat := vmNote 144 key

/-- A sample of this cycle is noted: a clear of the same cycle keeps it (R482). -/
def noteVmin (key : Nat) (f : Option VRec → Option VRec) (s : Mach) : Mach :=
  { s with notes := { s.notes with vmins := tmod none s.notes.vmins key f } }

def vminSample (i : DomInst) (v : BitVec 11) (s : Mach) : Mach :=
  if !recording s i then s
  else match i with
  | .die d dom => noteVmin (vmNote d.val dom.val) (vmTake s i v)
      (modDpw d.val (fun x => { x with vrec := tmod none x.vrec dom.val (vmTake s i v) }) s)
  | _ => match vmKey i with
    | some k => noteVmin (boardNote k) (vmTake s i v) (modPwr (fun p => { p with vrec := tmod none p.vrec k (vmTake s i v) })
        (if i = .vbak then modCal (fun c => { c with vbak := BitVec.ofNat 12 (min 4095 (v.toNat * 5 / 2)) }) s else s))
    | none => s

def execVminSample (i : DomInst) (v : BitVec 11) (s : State) : Res := run (vminSample i v) s

/-- VMIN_W0 to VMIN_W3, W0 in bits 31 to 0 (R500). -/
def vmWords (o : Option VRec) : BitVec 128 :=
  match o with
  | none => 0
  | some r => (fld r.sec 32 16 ++ r.frac) ++ fld r.sec 0 32 ++ r.round ++ (b1 true ++ (0 : BitVec 9) ++ r.setpt ++ r.vmin)

/-- The records after a clear of one: what was sampled in this cycle comes behind it (R482). -/
def clearVmin (s : Mach) (note key : Nat) (rs : Tbl (Option VRec)) : Tbl (Option VRec) := tset none rs key (tget none s.notes.vmins note)

/-- A write of VMIN_SEL: a clear, then the latch (R502). -/
def vminSel (d : Nat) (v : Word) (s : Mach) : Mach :=
  modDpw d (fun x =>
    let k := (fld v 0 4).toNat
    let rs := if bit v 31 then clearVmin s (vmNote d k) k x.vrec else x.vrec
    { x with sel := fld v 0 4, vrec := rs, latch := if k < 3 then vmWords (tget none rs k) else 0 }) s

def execVminSelWrite (die : Fin 144) (v : Word) (s : State) : Res :=
  runSelect (0x409020 + 0x10000 * die.val) (vminSel die.val v) s
def execVminClr (die : Fin 144) (v : Word) (s : State) : Res :=
  runSelect (0x409020 + 0x10000 * die.val) (vminSel die.val (v ||| 0x80000000)) s

/-- The record that PWR_VMIN_SEL names (R499). -/
def pwrVmKey (v : Word) : Option Nat :=
  let inst := (fld v 8 5).toNat
  let loc := (fld v 4 2).toNat
  let dom := (fld v 0 4).toNat
  if loc ≤ 1 then
    if dom < 4 then (if inst = 0 then some (4 * loc + dom) else none)
    else if dom < 7 then (if inst < 16 then some (8 + 3 * (16 * loc + inst) + (dom - 4)) else none)
    else if dom = 7 then some (104 + 32 * loc + inst)
    else none
  else if loc = 2 ∧ inst = 0 then (if dom = 8 then some 168 else if dom = 9 then some 169 else none)
  else none

/-- A write of PWR_VMIN_SEL: a clear, then the latch. -/
def pwrVminSel (v : Word) (s : Mach) : Mach :=
  modPwr (fun p =>
    let k := pwrVmKey v
    let rs := match k with | some k => if bit v 31 then clearVmin s (boardNote k) k p.vrec else p.vrec | none => p.vrec
    { p with
      selInst := fld v 8 5, selLoc := fld v 4 2, selDom := fld v 0 4, vrec := rs
      latch := match k with | some k => vmWords (tget none rs k) | none => 0 }) s

def execPwrVminSelWrite (v : Word) (s : State) : Res := runSelect 0x3040 (pwrVminSel v) s
def execPwrVminClr (v : Word) (s : State) : Res := runSelect 0x3040 (pwrVminSel (v ||| 0x80000000)) s

/-- The domain code and the instance of a record of the rims and the board, for its ledger record. -/
def vmPlace (k : Nat) : List Byte :=
  if k < 8 then [BitVec.ofNat 8 (k % 4), BitVec.ofNat 8 (k / 4)]
  else if k < 104 then [BitVec.ofNat 8 (4 + (k - 8) % 3), BitVec.ofNat 8 ((k - 8) / 3)]
  else if k < 168 then [7, BitVec.ofNat 8 (k - 104)]
  else [BitVec.ofNat 8 (k - 160), 0]

/-- The records are copied to the fault ledger, one record for each (R481, R540). -/
def logVmin (s : Mach) : Mach :=
  let s1 := s.dpw.foldl (fun s e => e.2.vrec.foldl (fun s r =>
    logAt 0x13 2 0 e.1 0xFFFF 0 ([BitVec.ofNat 8 r.1, BitVec.ofNat 8 e.1] ++ bytesOf (vmWords r.2)) s) s) s
  s.pwr.vrec.foldl (fun s r => logModule 0x13 0 (vmPlace r.1 ++ bytesOf (vmWords r.2)) s) s1

/-! ### The bank gauge (R487, R488) -/

/-- The gauge recalibrates at a full charge. -/
def recalibrate (e : BitVec 16) (s : Mach) : Mach :=
  let weak := decide (e.toNat < 3000)
  let s1 := modPwr (fun p => { p with coul := e, model := e, fullcap := e, weak := weak, recal := none, diffOpen := false }) s
  if weak then pwrEvt 11 s1 else s1

/-- An estimate changes. -/
def gaugeUpdate (coul model : BitVec 16) (s : Mach) : Mach :=
  let diff := (coul.toNat - model.toNat) + (model.toNat - coul.toNat)
  let s1 := modPwr (fun p => { p with coul := coul, model := model }) s
  if 150 < diff then
    if s.pwr.diffOpen then s1
    else powerEvent 10 false (modPwr (fun p => { p with diffOpen := true, diffCnt := satInc p.diffCnt }) s1)
  else if diff ≤ 100 then modPwr (fun p => { p with diffOpen := false }) s1
  else s1

def execGaugeEstimateUpdate (coul model : BitVec 16) (s : State) : Res := run (gaugeUpdate coul model) s

/-- The record of a new epoch is not committed yet (R313). -/
def epochPending (s : Mach) : Bool :=
  (s.led.protQ ++ s.led.waitQ).any (fun e => e.cls == 0x2) || (match s.led.inFlight with | some r => r.ev.cls == 0x2 | none => false)

/-- Decnus adds 1 to the epoch: the record that commits it is queued (R313, R503 step 6). -/
def raiseEpoch (s : Mach) : Mach := logModule 0x2 0 (bytesOf (s.epoch + 1)) s

/-- The bank is full: it recalibrates, later if a write sequence runs; a cold start goes on to step 6. -/
def bankFull (e : BitVec 16) (s : Mach) : Mach :=
  let s1 := modPwr (fun p => { p with full := true, charging := false }) s
  let s2 := if s.pwr.running.isEmpty then recalibrate e s1 else modPwr (fun p => { p with recal := some e }) s1
  if s.start.state = 2 ∧ !epochPending s then raiseEpoch s2 else s2

def execBankFull (energy : BitVec 16) (s : State) : Res := run (bankFull energy) s

end Sys2Proof.Machine
end

