-- ==== Sys2Proof/Machine/Ledger.lean ====
section
/-! DEFINITION. The fault ledger: write sequences, the ring of the flash, the writer, the CPER presentation, the
last-gasp record; and the calendar clock (15_power_clocks_cooling.md, 17_controller_and_ledger.md,
13_result_checking.md). -/

namespace Sys2Proof.Machine

/-! ### The ring of the flash (R535, R537, R538) -/

/-- Bytes of a record (R536). -/
def recLen (detail : List Byte) : Nat := 256 * ceilDiv (64 + detail.length) 256

/-- Bytes of the record of an event: the last-gasp record has 512 (R546). -/
def evLen (e : Event) : Nat := if e.cls = 0x5 then 512 else recLen e.detail

def blockAt (l : Ledger) (b : Nat) : BitVec 64 × Word := tget (0, 0) l.blocks b

/-- The largest BSEQ. -/
def lastBseq (l : Ledger) : Nat := l.blocks.foldl (fun n e => max n e.2.1.toNat) 0

/-- The block of the write point has its header. -/
def headBlock (l : Ledger) : Ledger :=
  let b := l.wblock.toNat
  if (blockAt l b).1 = 0 then
    { l with blocks := tset (0, 0) l.blocks b (BitVec.ofNat 64 (lastBseq l + 1), (blockAt l b).2) }
  else l

/-- The page that a block begins with (R535). -/
def headPage (l : Ledger) (b : Nat) : List Byte :=
  toBytes 4 0x5A4C424B ++ bytesOf (blockAt l b).1 ++ bytesOf (blockAt l b).2 ++ List.replicate 240 0xFF

/-- The write point enters the next block. -/
def enterBlock (l : Ledger) : Ledger := headBlock { headBlock l with wblock := l.wblock + 1, woff := 256 }

/-- A record of n bytes goes at the start of the next block. -/
def leavesBlock (l : Ledger) (n : Nat) : Bool := decide (65536 < l.woff + n + 512)

/-- The blocks in use, oldest first. -/
def usedBlocks (l : Ledger) : Nat := (l.blocks.filter (fun e => e.2.1 != 0)).length
def oldestBlock (l : Ledger) : Option Nat :=
  (l.blocks.foldl (fun (o : Option (Nat × Nat)) (e : Nat × (BitVec 64 × Word)) =>
    if e.2.1 = 0 then o
    else match o with
      | some (_, q) => if e.2.1.toNat < q then some (e.1, e.2.1.toNat) else o
      | none => some (e.1, e.2.1.toNat)) none).map (·.1)

/-- What makes two records of one standing kind (R538): class, and stack or slot; records of the module's own seals
govern nothing (R446). -/
def standKey (serial : BitVec 64) (r : LedRec) : Option (Nat × Nat) :=
  match r.ev.cls.toNat with
  | 0x2 => some (0x2, 0)
  | 0x10 => some (0x10, 0)
  | 0x12 => some (0x12, numAt r.ev.detail 0 1)
  | 0x50 => if numAt r.ev.detail 8 8 = serial.toNat then none else some (0x50, numAt r.ev.detail 1 1)
  | _ => none

/-- The valid records. -/
def validRecs (l : Ledger) : List LedRec := l.flash.filter (·.valid)

/-- PART, NPART and SET of a repair map record (R539). -/
def mapPart (r : LedRec) : Nat × Nat × Nat := (numAt r.ev.detail 0 1, numAt r.ev.detail 1 1, numAt r.ev.detail 2 2)

/-- The set of the newest complete repair map. -/
def governingSet (l : Ledger) : Option Nat :=
  let ms := (validRecs l).filter (fun r => r.ev.cls == 0x11)
  (ms.reverse.find? (fun r => (List.range (mapPart r).2.1).all (fun p =>
    ms.any (fun q => (mapPart q).1 == p && (mapPart q).2 == (mapPart r).2)))).map (fun r => (mapPart r).2.2)

/-- The record governs its standing kind. -/
def governs (serial : BitVec 64) (l : Ledger) (r : LedRec) : Bool :=
  if r.ev.cls = 0x11 then governingSet l == some (mapPart r).2.2
  else
    match standKey serial r with
    | none => false
    | some k => ((validRecs l).reverse.find? (fun q => standKey serial q == some k)).map (·.seq) == some r.seq

/-- A record goes at the write point, with the next SEQ. -/
def placeRec (r : LedRec) (l : Ledger) : Ledger :=
  let n := evLen r.ev
  let l1 := if leavesBlock l n then enterBlock l else headBlock l
  { l1 with
    flash := l1.flash ++ [{ r with seq := l1.nextSeq, block := l1.wblock.toNat, offset := l1.woff }]
    nextSeq := l1.nextSeq + 1
    woff := l1.woff + n }

/-- A block is erased. -/
def eraseBlock (b : Nat) (l : Ledger) : Ledger :=
  { l with
    flash := l.flash.filter (fun r => r.block != b)
    blocks := tset (0, 0) l.blocks b (0, (blockAt l b).2 + 1) }

/-- Three erased blocks lie ahead again: pages copied and blocks erased, with the ledger after it. -/
def reclaim (serial : BitVec 64) : Nat → Ledger × Nat × Nat → Ledger × Nat × Nat
  | 0, x => x
  | n + 1, (l, pages, erases) =>
    if usedBlocks l ≤ 4093 then (l, pages, erases)
    else
      match oldestBlock l with
      | none => (l, pages, erases)
      | some b =>
        let cs := l.flash.filter (fun r => r.block == b && r.valid && governs serial l r)
        let l1 := cs.foldl (fun l r => placeRec r l) l
        reclaim serial n (eraseBlock b l1, pages + cs.foldl (fun k r => k + evLen r.ev / 256 + 1) 0, erases + 1)

/-- The write point goes on until a record of n bytes has its place: the copies of a block that is entered may fill it (R535, R538). -/
def makeRoom (serial : BitVec 64) (n : Nat) : Nat → Ledger × Nat × Nat → Ledger × Nat × Nat
  | 0, x => x
  | k + 1, x => if leavesBlock x.1 n then makeRoom serial n k (reclaim serial 8 (enterBlock x.1, x.2)) else x

/-- The ledger with the write point where a record of n bytes goes, and the pages and erases that this costs. -/
def planWrite (serial : BitVec 64) (n : Nat) (l : Ledger) : Ledger × Nat × Nat :=
  makeRoom serial n 8 (reclaim serial 8 (headBlock l, 0, 0))

/-- The copies of standing records that a plan wrote. -/
def copiesOf (l l1 : Ledger) : List LedRec := l1.flash.filter (fun r => r.valid && !l.flash.contains r)

/-! ### The CPER presentation (R433, R434; the places of its fields: PRESUMED, log entry 23) -/

/-- The vendor section. -/
def cperSection (serial : BitVec 64) (r : LedRec) : List Byte :=
  toBytes 2 1 ++ toBytes 2 (64 + r.ev.detail.length) ++ bytesOf r.ev.cls ++ bytesOf r.ev.scope ++ bytesOf r.ev.flags ++
    bytesOf serial ++ bytesOf r.id ++ toBytes 2 0 ++ bytesOf r.epoch ++ bytesOf r.ev.round ++ toBytes 2 0 ++ bytesOf r.frac ++
    bytesOf r.sec ++ bytesOf r.ev.die ++ bytesOf r.ev.unit ++ bytesOf r.ev.loc ++ toBytes 4 r.seq.toNat ++ toBytes 8 0 ++
    r.ev.detail

/-- The error that a STORE_ERROR or EDGE_ERROR record holds is an uncorrectable one: UE of the log entry in its DETAIL (R394, R395). -/
def storeUe (r : LedRec) : Bool := bit (r.ev.detail.getD 3 0) 6

/-- Severity (R433): fatal for a failed stack or die, recoverable for an uncorrected fault, corrected for a corrected or
transient event, informational otherwise. Corrected are an error of stored data that was corrected, a transient verdict and an exception
that its handler takes (DESIGN CHOICE, log entry 24). -/
def cperSeverity (r : LedRec) : Nat :=
  let c := r.ev.cls.toNat
  if c = 0x12 then 1
  else if bit r.ev.flags 0 then 0
  else if c = 0x21 ∨ c = 0x26 then 2
  else if (c = 0x24 ∨ c = 0x25) ∧ !storeUe r then 2
  else 3

/-- Year, month and day of a day count since 2020-01-01. -/
def civil (days : Nat) : Nat × Nat × Nat :=
  let z := days + 737730
  let era := z / 146097
  let doe := z % 146097
  let yoe := (doe - doe / 1460 + doe / 36524 - doe / 146096) / 365
  let doy := doe - (365 * yoe + yoe / 4 - yoe / 100)
  let mp := (5 * doy + 2) / 153
  let m := if mp < 10 then mp + 3 else mp - 9
  (yoe + era * 400 + (if m ≤ 2 then 1 else 0), m, doy - (153 * mp + 2) / 5 + 1)

def bcd (n : Nat) : Byte := BitVec.ofNat 8 (n / 10 % 10 * 16 + n % 10)

/-- The CPER timestamp with the precise flag. -/
def cperTime (sec : Nat) : List Byte :=
  let (y, m, d) := civil (sec / 86400)
  [bcd (sec % 60), bcd (sec / 60 % 60), bcd (sec / 3600 % 24), 1, bcd d, bcd m, bcd (y % 100), bcd (y / 100)]

/-- The GUID 8C2A5F14-3B7E-4D19-A6C0-52E9F1B7000n. -/
def cperGuid (n : Nat) : List Byte :=
  [0x14, 0x5F, 0x2A, 0x8C, 0x7E, 0x3B, 0x19, 0x4D, 0xA6, 0xC0, 0x52, 0xE9, 0xF1, 0xB7, 0x00, BitVec.ofNat 8 n]

/-- One record as a CPER with one section. -/
def cper (serial : BitVec 64) (r : LedRec) : List Byte :=
  let sect := cperSection serial r
  let sev := toBytes 4 (cperSeverity r)
  let plat := bytesOf serial ++ [0x53, 0x45, 0x50, 0x54, 0x5A, 0x57, 0x39, 0x36]
  [0x43, 0x50, 0x45, 0x52] ++ toBytes 2 0x0101 ++ toBytes 4 0xFFFFFFFF ++ toBytes 2 1 ++ sev ++ toBytes 4 3 ++
    toBytes 4 (200 + sect.length) ++ cperTime r.sec.toNat ++ plat ++ toBytes 16 0 ++ cperGuid 1 ++ cperGuid 1 ++
    bytesOf r.seq ++ toBytes 4 0 ++ toBytes 8 0 ++ toBytes 12 0 ++
    (toBytes 4 200 ++ toBytes 4 sect.length ++ toBytes 2 0x0100 ++ toBytes 1 3 ++ toBytes 1 0 ++ toBytes 4 0 ++ cperGuid 2 ++
      plat ++ sev ++ [0x5A, 0x57, 0x2D, 0x39, 0x36] ++ toBytes 15 0) ++ sect

/-! ### A committed record: its event and its interrupt (R552, R578) -/

/-- The event of a record goes to its receiver, or is held (R552). -/
def sendCper (r : LedRec) (s : Mach) : Mach :=
  match s.cradle.receiver with
  | some _ => emit (.platformEvent (cper s.start.serial r)) s
  | none => modCradle (fun c => { c with held := (c.held ++ [r]).drop (c.held.length + 1 - 64) }) s

/-- A record is committed: its event goes out, and cause LEDGER rises (R552, R578). -/
def announce (r : LedRec) (s : Mach) : Mach := raiseIrq 12 (sendCper r s)

/-! ### Write sequences (R490, R491) -/

/-- The cost of a sequence in 0.1 J, rounded up. -/
def seqCost (pages erases : Nat) : Nat := ceilDiv (75 * (20 + 4 * pages + 5000 * erases)) 1000

/-- What a sequence that started has spent: 60 W with the margin of R490, in 0.1 J, rounded down (DESIGN CHOICE, log entry 25: the spec does
not say how the cost is spent in time). -/
def spent (now : Nat) (w : WSeq) : Nat := 750 * (now - w.since) / 1100000000

/-- The cost not yet spent of sequences in progress (R490). -/
def owedEnergy (s : Mach) : Nat := s.pwr.running.foldl (fun n w => n + (w.cost - spent s.now w)) 0

/-- A sequence of a cost may start (R490, R491). -/
def mayStart (s : Mach) (cost : Nat) : Bool :=
  s.pwr.vaux && !s.pwr.inloss && decide (50 + owedEnergy s + cost ≤ bankAvail s.pwr)

/-- What a sequence does to the ledger when it starts: the plan of its record is carried out at the write point as it now stands, its COMMIT
erased; the copies of standing records are committed (R538). -/
def seqBegins (w : WSeq) (s : Mach) : Mach :=
  match w.kind, s.led.inFlight with
  | .ledger, some r0 =>
    let n := evLen r0.ev
    let p := planWrite s.start.serial n s.led
    let r : LedRec := { r0 with seq := p.1.nextSeq, block := p.1.wblock.toNat, offset := p.1.woff }
    (copiesOf s.led p.1).foldl (fun s c => announce c s) (modLed (fun _ => { p.1 with
      carry := decide (0 < p.2.1), inFlight := some r, flash := p.1.flash ++ [r], nextSeq := r.seq + 1, woff := p.1.woff + n }) s)
  | _, _ => s

/-- A sequence starts. -/
def startSeq (w : WSeq) (s : Mach) : Mach :=
  seqBegins w (modPwr (fun p => { p with running := p.running ++ [{ w with since := s.now }] }) s)

/-- A sequence is asked for: it starts, or waits for energy. -/
def requestSeq (w : WSeq) (s : Mach) : Mach :=
  if s.pwr.waiting.isEmpty && mayStart s w.cost then startSeq w s
  else pwrEvt 9 (modPwr (fun p => { p with waiting := p.waiting ++ [w], waits := satInc p.waits }) s)

/-- AVAIL covers the oldest waiting sequence. -/
def writeSequenceStart (s : Mach) : Mach :=
  match s.pwr.waiting with
  | w :: rest => if mayStart s w.cost then startSeq w (modPwr (fun p => { p with waiting := rest }) s) else s
  | [] => s

def execWriteSequenceStart (s : State) : Res := run writeSequenceStart s

/-! ### The writer (R541 to R545) -/

/-- Pairs of class and count in ascending class. -/
def suppPairs (t : Tbl (BitVec 16)) : List Byte := t.flatMap (fun e => toBytes 2 e.1 ++ bytesOf e.2)

/-- A SUMMARY from a ledger's counters (R544). -/
def summaryEvent (s : Mach) (l : Ledger) : Event :=
  mkEvent s 0x6 0 8 0xFFFF 0xFFFF 0 (bytesOf l.suppFirst ++ bytesOf l.suppLast ++
    toBytes 4 (l.supp.foldl (fun n e => n + e.2.toNat) 0) ++ suppPairs l.supp)

/-- The ledger with its counters cleared. -/
def clearSupp (l : Ledger) : Ledger := { l with supp := [], suppFirst := 0, suppLast := 0, sumDue := false }

/-- An event still queued is counted as a suppressed one; the rounds of the first and the last are the lowest and the highest of all those
counted (R545). -/
def countQueued (l : Ledger) (e : Event) : Ledger :=
  { l with
    suppFirst := if l.supp.isEmpty ∨ e.round < l.suppFirst then e.round else l.suppFirst
    suppLast := if l.supp.isEmpty ∨ l.suppLast < e.round then e.round else l.suppLast
    supp := tmod 0 l.supp e.cls.toNat satInc }

/-- The ordinary events queued are counted with the suppressed ones (R545). -/
def foldOrd (l : Ledger) : Ledger := { l.ordQ.foldl countQueued l with ordQ := [] }

/-- The next event of the writer (R542), and the ledger without it. -/
def takeEvent (s : Mach) : Option (Event × Ledger) :=
  let l := s.led
  if l.sumDue then some (summaryEvent s l, clearSupp l)
  else
    match l.protQ with
    | e :: rest => some (e, { l with protQ := rest ++ l.waitQ.take 1, waitQ := l.waitQ.drop 1 })
    | [] =>
      if l.sumFinal then
        let l1 := foldOrd l
        some (summaryEvent s l1, { clearSupp l1 with sumFinal := false, finalOut := true })
      else
        match l.ordQ with
        | e :: rest => some (e, { l with ordQ := rest })
        | [] => none

/-- The record of an event, assembled now at a place (R536). -/
def makeRec (s : Mach) (e : Event) (l : Ledger) : LedRec :=
  { seq := l.nextSeq, ev := e, sec := calSec s, frac := calFrac s, lost := s.cal.lost, epoch := s.epoch
    id := if s.ctl.assigned then s.ctl.id else 0xFFFF, block := l.wblock.toNat, offset := l.woff, valid := false }

/-- The writer takes an event, assembles its record, and asks for its write sequence. -/
def recordWrite (s : Mach) : Mach :=
  if s.led.inFlight.isSome || s.pwr.running.any (fun w => w.kind == .ledger) || s.pwr.inloss || !s.pwr.vaux then s
  else
    match takeEvent s with
    | none => s
    | some (e, l) =>
      let n := evLen e
      let p := planWrite s.start.serial n l
      requestSeq { kind := .ledger, cost := seqCost (n / 256 + 1 + p.2.1) p.2.2 }
        { s with led := { l with inFlight := some (makeRec s e p.1) } }

def execLedgerRecordWrite (s : State) : Res := run recordWrite s

/-! ### A committed record (R544 to R546, R552) -/

/-- A module reset ends every command, and no completion is written (R572). -/
def endCommands (s : Mach) : Mach := s.host.rings.foldl (fun s e => modRing e.1 (fun r => { r with cmds := [], fin := [] }) s) s

/-- The orderly power-down begins: the minimum-voltage records go to the ledger first (R471). -/
def beginDown (after : AfterDown) (s : Mach) : Mach :=
  let s1 := modPwr (fun p => { p with up := none, burn := none, down := some (0, after) }) (logVmin s)
  if after = .restart then endCommands s1 else s1

/-- The SUMMARY of R545 stands: what awaited it begins. -/
def afterFinal (s : Mach) : Mach :=
  let s1 := completeOpt s.pwr.offOwed 0x00 0 (modPwr (fun p => { p with offOwed := none }) s)
  beginDown (if s.ctl.modulePending then .restart else .stay) s1

/-- The new epoch stands (R313); a start goes on to step 7 (R503), unless the input is lost or a module reset awaits (R465, R505). -/
def epochCommitted (r : LedRec) (s : Mach) : Mach :=
  let s1 : Mach := { s with epoch := BitVec.ofNat 32 (numAt r.ev.detail 0 4) }
  if s.start.state = 2 ∧ !s.pwr.inloss ∧ !s.ctl.modulePending then modPwr (fun p => { p with up := some 0 }) (modStart (fun x => { x with state := 3 }) s1) else s1

/-- A record is committed. -/
def committed (r : LedRec) (s0 : Mach) : Mach :=
  let s := if r.ev.cls = 0x2 then epochCommitted r s0 else s0
  let s1 := announce r s
  let s2 := if r.ev.cls = 0x50 then slotRecorded r.ev.detail s1 else s1
  if r.ev.cls ≠ 0x6 ∧ !s2.led.supp.isEmpty then modLed (fun l => { l with sumDue := true }) s2 else s2

/-- COMMIT of the record in flight is programmed. -/
def recordCommitted (s : Mach) : Mach :=
  match s.led.inFlight with
  | none => s
  | some r =>
    if !s.pwr.running.any (fun w => w.kind == .ledger) then s
    else
      let r1 := { r with valid := true }
      let final := s.led.finalOut
      let s1 := committed r1 (modLed (fun l => { l with
        inFlight := none, carry := false, finalOut := false
        flash := l.flash.map (fun q => if q.seq == r.seq && q.block == r.block && q.offset == r.offset then r1 else q) }) s)
      if final then afterFinal s1 else s1

def execLedgerRecordCommitted (s : State) : Res := run recordCommitted s

/-- Pairs of class and count, the rest beyond the hundredth in the last (R546). -/
def gaspPairs (t : Tbl (BitVec 16)) : List Byte :=
  if t.length ≤ 100 then suppPairs t
  else suppPairs (t.take 99) ++ toBytes 2 0xFFFF ++
    toBytes 2 (min 65535 ((t.drop 99).foldl (fun n e => n + e.2.toNat) 0))

/-- RS_FAULT (R459). -/
def rsFault (k : Keep) : Word := b1 k.rsValid ++ b1 k.rsMulti ++ (0 : BitVec 14) ++ k.rsClass

/-- DETAIL of the last-gasp record (R546). -/
def gaspDetail (s : Mach) : List Byte :=
  let l := s.led
  let all := (l.protQ ++ l.waitQ ++ l.ordQ).foldl (fun t e => tmod (0 : BitVec 16) t e.cls.toNat satInc) l.supp
  bytesOf (pwrStat s.pwr) ++ bytesOf s.pwr.feedAReg ++ bytesOf s.pwr.feedBReg ++ bytesOf (s.pwr.inRnd ++ s.pwr.avg100) ++
    bytesOf (s.pwr.coul ++ s.pwr.model) ++ bytesOf (rsFault s.keep) ++ bytesOf s.keep.rsRound ++ toBytes 2 l.protQ.length ++
    toBytes 2 l.ordQ.length ++ bytesOf l.ledSupp ++ gaspPairs all

/-- The last-gasp record is written from the reserve, once no write is in progress (R491, R546); the write point keeps 512 erased bytes
before it, so it goes on to the next block where fewer are left. -/
def lastGasp (s : Mach) : Mach :=
  if s.pwr.inloss && s.pwr.gasp && s.pwr.running.isEmpty then
    let r := { makeRec s (mkEvent s 0x5 0 0 0xFFFF 0xFFFF 0 (gaspDetail s)) (headBlock s.led) with valid := true }
    announce r (modLed (fun l =>
      let l1 := headBlock l
      let l2 := { l1 with flash := l1.flash ++ [r], nextSeq := l1.nextSeq + 1, woff := l1.woff + 512 }
      if 65536 < l2.woff + 512 then enterBlock l2 else l2)
      (modPwr (fun p => { p with gasp := false }) s))
  else s

def execLastGaspWrite (s : State) : Res := run lastGasp s

/-! ### The repair map (R402, R539) -/

/-- The 8 bytes of an entry (R402). -/
def repairBytes (r : Repair) : List Byte :=
  bytesOf r.die ++ bytesOf r.pc ++ bytesOf r.sub ++ toBytes 1 (if r.spare then 1 else 0) ++ toBytes 2 r.col.toNat ++ toBytes 2 0

/-- The entries of a list of bytes. -/
def repairOf (n : Nat) (bs : List Byte) : List Repair :=
  (List.range n).map (fun i =>
    { die := BitVec.ofNat 8 (numAt bs (8 * i) 1), pc := BitVec.ofNat 8 (numAt bs (8 * i + 1) 1),
      sub := BitVec.ofNat 8 (numAt bs (8 * i + 2) 1), spare := numAt bs (8 * i + 3) 1 % 2 == 1,
      col := BitVec.ofNat 10 (numAt bs (8 * i + 4) 2) })

/-- The map is written: as many records as its entries need, all of one new SET. -/
def logRepair (s0 : Mach) : Mach :=
  let s := modLed (fun l => { l with mapSet := l.mapSet + 1 }) s0
  let es := s.led.repair
  let parts := max 1 (ceilDiv es.length 503)
  iter parts (fun p s =>
    let part := (es.drop (503 * p)).take 503
    logModule 0x11 0 (toBytes 1 p ++ toBytes 1 parts ++ bytesOf s.led.mapSet ++ toBytes 2 part.length ++ toBytes 2 0 ++
      part.flatMap repairBytes) s) s

/-- SET of the newest repair map record. -/
def newestSet (l : Ledger) : BitVec 16 :=
  match ((validRecs l).filter (fun r => r.ev.cls == 0x11)).getLast? with
  | some r => BitVec.ofNat 16 (mapPart r).2.2
  | none => 0

/-- The governing map as the flash holds it, each part from its newest record. -/
def readRepair (l : Ledger) : List Repair :=
  match governingSet l with
  | none => []
  | some set =>
    let ms := (validRecs l).filter (fun r => r.ev.cls == 0x11 && (mapPart r).2.2 == set)
    (List.range 16).flatMap (fun p =>
      match ms.reverse.find? (fun r => (mapPart r).1 == p) with
      | some r => repairOf (numAt r.ev.detail 4 2) (r.ev.detail.drop 8)
      | none => [])

/-! ### The calendar clock (R548, R549, R555) -/

/-- The clock is stepped: the fraction and LOST are cleared, and a CLOCK_SET record is written. -/
def calSet (sec : BitVec 48) (s : Mach) : Mach :=
  let det := bytesOf (calSec s) ++ bytesOf (calFrac s) ++ bytesOf sec ++ toBytes 2 0
  logModule 0x7 0 det (modCal (fun c => { c with base := sec.toNat * 65536, since := s.now, running := true, lost := false }) s)

/-- A write of CAL_SET_HI. -/
def calSetHi (v : Word) (s : Mach) : Mach := if fld v 24 8 = 0xC5 then calSet (fld v 0 16 ++ s.cal.setLo) s else s

def execCalSetHiWrite (v : Word) (s : State) : Res := runAccess 0x202C (calSetHi v) s

/-- A read of CAL_SEC_LO latches the upper seconds and the fraction. -/
def calRead (s : Mach) : Mach := modCal (fun c => { c with latchHi := calFrac s ++ fld (calSec s) 32 16 }) s


/-- VBAK falls below 2.2 V while VAUX is down: the clock stops; how far it fell is free (log entry 4). -/
def clockStop (s : Mach) : Mach :=
  if s.pwr.vaux then s
  else
    let v := BitVec.ofNat 12 ((Config.free32 s.free).toNat % 2200)
    { modCal (fun c => { c with base := calNow s, since := s.now, running := false, stopped := true, vbak := v }) s with free := s.free + 1 }

def execCalendarClockStop (s : State) : Res := run clockStop s

/-- VAUX comes up: a clock that stopped goes on from the newest valid record (R549). -/
def clockStart (s : Mach) : Mach :=
  if s.cal.stopped then
    let sec := (((validRecs s.led).getLast?).map (fun r => r.sec.toNat + 1)).getD 0
    modCal (fun c => { c with base := sec * 65536, since := s.now, running := true, lost := true, stopped := false }) s
  else s

end Sys2Proof.Machine
end

