-- ==== Sys2Proof/Machine/PortOps.lean ====
section
/-! DEFINITION. What a port does at a round start: the latency that takes force, and the next lane of a live retraining
(09_optical_ports.md). -/

namespace Sys2Proof.Machine

/-- The number of set bits of a lane mask. -/
def laneCount (m : BitVec 16) : Nat := ((List.range 16).filter (fun l => bit m l)).length

/-- A lane is in retraining at this end or for the partner (R321). -/
def laneBusy (x : Port) (l : Nat) : Bool := x.rt == some (l, .granted) || x.rtPeer == some l

/-- The lanes of a port in retraining. -/
def lanesRetraining (x : Port) : Nat := ((List.range 16).filter (laneBusy x)).length

/-- A lane of a port enters retraining in the round in progress: it counts once in it (R73, R321). -/
def countRetrain (p lane : Nat) (s : Mach) : Mach :=
  if bit (portAt s p).rtSeen lane then s
  else modRnd (fun r => { r with varRun := { r.varRun with retrain := satInc r.varRun.retrain } })
    (modPort p (fun x => { x with rtSeen := setBit x.rtSeen lane }) s)

/-- A round begins: the lanes in retraining now were in it in this round (R73). -/
def Port.newRound (x : Port) : Port :=
  { x with rtSeen := (List.range 16).foldl (fun m l => if laneBusy x l then setBit m l else m) 0 }

/-- A temperature walk is over when none of its lanes is left: the training temperature is now the optics temperature (R319). -/
def endWalk (x : Port) : Port := if x.rtQueue.any (fun l => l.walk && bit x.active l.lane) then x else { x with traint := x.temp }

/-- The next lane of a port asks for the token of its lane group (R319, R320); one that carries no traffic is passed
over. -/
def startLane (p : Nat) (s : Mach) : Mach :=
  let x := portAt s p
  if x.state ≠ 6 ∨ x.rt.isSome ∨ x.rtHold then s
  else
    let q := x.rtQueue.dropWhile (fun l => !bit x.active l.lane)
    let x1 := if x.rtQueue.any (·.walk) then endWalk x else x
    match q with
    | [] => modPort p (fun _ => { x1 with rtQueue := [] }) s
    | l :: rest =>
      reqActivity 4 p l.lane [tokLane p (l.lane / 4)] none
        (modPort p (fun _ => { x1 with rtQueue := rest, rt := some (l.lane, .token), rtOfWalk := l.walk }) s)

/-- A lane is put in line for retraining, unless it is already. -/
def queueLane (p lane : Nat) (s : Mach) : Mach :=
  startLane p (modPort p (fun x =>
    if x.rtQueue.any (fun l => l.lane == lane) || (x.rt.map (·.1)) == some lane then x
    else { x with rtQueue := x.rtQueue ++ [⟨lane, false⟩] }) s)

/-- A temperature walk runs. -/
def walking (x : Port) : Bool := x.rtQueue.any (·.walk) || (x.rt.isSome && x.rtOfWalk)

/-- Lanes 0 to 15 are put in line, in order (R319). -/
def queueWalk (p : Nat) (s : Mach) : Mach :=
  startLane p (modPort p (fun x => { x with rtQueue := x.rtQueue ++ (List.range 16).map (fun l => ⟨l, true⟩) }) s)

/-- A new L takes force when it differs by more than 2 ns (R314). -/
def takeLat (x : Port) : Port :=
  match x.latNext with
  | some l =>
    { x with latNext := none, lat := if 2 < (l.toNat - x.lat.toNat) + (x.lat.toNat - l.toNat) then l else x.lat }
  | none => x

/-- The ports at a round start. -/
def portsBoundary (s : Mach) : Mach :=
  (s.ports.map (·.1)).foldl (fun s p => startLane p (modPort p (fun x => { takeLat x with rtHold := false }) s)) s

end Sys2Proof.Machine
end

