-- ==== Sys2Proof/Machine/Rounds.lean ====
section
/-! DEFINITION. Rounds: markers, round starts, late rounds, stretch requests, the round unit registers, and the restart
commands (02_rounds.md, 11_systems_and_job_mapping.md, 14_restart_and_checkpoints.md). -/

namespace Sys2Proof.Machine

/-! ### Markers (R48, R364) -/

/-- Nanoseconds as reference cycles (R47), rounded down to whole ones (DESIGN CHOICE, log entry 2). -/
def nsCycles (ns : Nat) : Nat := ns * 11 / 10

def mkAligned (m : BitVec 192) : Bool := bit m 8
def mkHold (m : BitVec 192) : Bool := bit m 9
def mkHops (m : BitVec 192) : Byte := fld m 16 8
def mkRound (m : BitVec 192) : BitVec 48 := fld m 32 48
def mkPeriod (m : BitVec 192) : BitVec 16 := fld m 80 16
def mkStretch (m : BitVec 192) : BitVec 16 := fld m 96 16
def mkMaster (m : BitVec 192) : BitVec 16 := fld m 112 16
def mkLead (m : BitVec 192) : Word := fld m 128 32

/-- A marker. -/
def marker (aligned hold : Bool) (hops : Byte) (round : BitVec 48) (period stretch master : BitVec 16) (lead : Word) : BitVec 192 :=
  BitVec.ofNat 192 (ofBytes ([0x31] ++ toBytes 1 ((if aligned then 1 else 0) + (if hold then 2 else 0)) ++ [hops] ++ toBytes 1 0 ++
    bytesOf round ++ bytesOf period ++ bytesOf stretch ++ bytesOf master ++ bytesOf lead ++ toBytes 4 0))

/-- The port carries markers and stretch requests (R364); a twin port does not in KEEP and LOCKSTEP (R370). -/
def markerPort (s : Mach) (p : Nat) : Bool := portActive s p && bit s.rnd.mport p && !(twinHeld s && twinPort p)

/-- A copy goes out on every other marker port (R49, R608); it leaves with a LEAD from which its wait is taken (R52). -/
def forwardMarker (p : Nat) (m : BitVec 192) (rem : Int) (s : Mach) : Mach :=
  if mkHops m = 255 then s
  else
    let c := marker (mkAligned m) (mkHold m) (mkHops m + 1) (mkRound m) (mkPeriod m) (mkStretch m) (mkMaster m)
      (if mkAligned m then int32 rem else 0)
    let s1 := ((List.range 64).filter (fun q => q != p && markerPort s q)).foldl (fun s q => sendUrgent q (.relay c s.now) s) s
    modRnd (fun r => { r with lastFwd := some (mkRound m, mkMaster m) }) s1

/-- What is left of LEAD after the link that the copy arrived on (R52). -/
def leadLeft (s : Mach) (p : Nat) (m : BitVec 192) : Int := (mkLead m).toInt - ((portAt s p).lat.toNat : Int)

/-- The sequence of markers is broken, or a second master is heard (R51): the event, its record, and hold. -/
def markerFault (b : Nat) (s : Mach) : Mach := enterHold (roundRecord 0 (rndEvt b s))

/-- What every accepted copy leaves behind (R49, R82, R83). -/
def noteCopy (p : Nat) (m : BitVec 192) (s : Mach) : Mach :=
  modRnd (fun r => { r with
    leadRem := if mkAligned m then int32 (leadLeft s p m) else 0, hops := mkHops m, upport := BitVec.ofNat 6 p, missed := 0 }) s

/-- The next round is accepted (R49, R52, R54). -/
def acceptMarker (p : Nat) (m : BitVec 192) (s : Mach) : Mach :=
  let rem := leadLeft s p m
  let s1 := modRnd (fun r => { r with lastAcc := some (mkRound m, mkMaster m) }) (noteCopy p m s)
  let s2 := forwardMarker p m rem s1
  if mkHold m then enterHold s2
  else
    let short := mkAligned m && decide (rem ≤ 0)
    let x : Round :=
      { num := mkRound m, period := mkPeriod m, stretch := mkStretch m
        start := if mkAligned m then s.now + nsCycles rem.toNat else s.now
        aligned := mkAligned m, instep := true }
    modRnd (fun r => { r with sched := r.sched ++ [x] }) (if short then rndEvt 0 s2 else s2)

/-- A copy for a round that started after a miss (R58): that round takes its mode, PERIOD and STRETCH from it (R55). The copy
raises no LEAD_SHORT, though its start is past (DESIGN CHOICE, log entry 39). -/
def lateCopy (p : Nat) (m : BitVec 192) (s : Mach) : Mach :=
  let fix (x : Round) : Round := if x.num = mkRound m then 
    { x with period := mkPeriod m, stretch := mkStretch m, aligned := mkAligned m } else x
  let s1 := modRnd (fun r => { r with
    owed := r.owed.filter (· != mkRound m), cur := r.cur.map fix, sched := r.sched.map fix, withheld := r.withheld.map fix
    active := match r.cur with | some x => (fix x).period | none => r.active }) (noteCopy p m s)
  let s2 := forwardMarker p m (leadLeft s p m) s1
  if mkHold m then enterHold s2 else s2

/-- A held or disabled module forwards markers (R608). -/
def passMarker (p : Nat) (m : BitVec 192) (s : Mach) : Mach :=
  if mkHops m = 255 ∨ s.rnd.lastFwd = some (mkRound m, mkMaster m) then s
  else modRnd (fun r => { r with upport := BitVec.ofNat 6 p }) (forwardMarker p m (leadLeft s p m) s)

/-- The copy ends the hold of an armed module (R454). -/
def endsHold (s : Mach) (m : BitVec 192) : Bool :=
  s.rnd.hold && s.rnd.en && s.keep.armed && mkMaster m == s.keep.armMaster && !mkHold m && !s.keep.armBad && s.keep.rest.isNone

def roundMarker (p : Nat) (m : BitVec 192) (s : Mach) : Mach :=
  let r := s.rnd
  if !markerPort s p then s
  else if r.master then markerFault 7 (modRnd (fun r => { r with conflict := true }) s)
  else if endsHold s m then
    acceptMarker p m (modKeep (fun k => { k with armed := false })
      (modRnd (fun r => { r with hold := false, owed := [] }) s))
  else if r.hold || !r.en then passMarker p m s
  else
    match r.lastAcc with
    | none => acceptMarker p m s
    | some (last, ms) =>
      if mkMaster m ≠ ms then markerFault 6 s
      else if r.owed.contains (mkRound m) then lateCopy p m s
      else if mkRound m = last ∨ r.lastFwd = some (mkRound m, mkMaster m) then s
      else if mkRound m = last + 1 then acceptMarker p m s
      else markerFault 6 s

def execRoundMarker (port : Fin 64) (m : BitVec 192) (s : State) : Res := run (roundMarker port.val m) s

/-! ### The master (R52, R55, R69, R607) -/

/-- The master's PERIOD (R76). -/
def masterPeriod (r : Rnd) : Nat := max 16 r.period.toNat

/-- LEAD_EFF for a period, 0 in wavefront mode (R52, R54). -/
def leadEff (r : Rnd) (period : Nat) : Nat := if r.aligned then min r.leadNs.toNat (period * 500) else 0

/-- The marker of round `n` that opens a run of rounds: its mode, its lead and its start are settled when it leaves. -/
def firstMark (n : BitVec 48) : NextMark := { num := n, start := 0, lead := 0, aligned := false, first := true }

/-- What is fixed for the marker that leaves next; of a first marker, by the settings of this instant (R607). -/
def settleMark (s : Mach) (n : NextMark) : NextMark :=
  if n.first then
    let lead := leadEff s.rnd (masterPeriod s.rnd)
    { n with start := s.now + nsCycles lead, lead := lead, aligned := s.rnd.aligned }
  else n

/-- The STRETCH of the next marker (R69), 0 in a first one (R607). -/
def markStretch (r : Rnd) (n : NextMark) : BitVec 16 :=
  if n.first then 0 else if r.stretchMax.toNat < r.gathered.toNat then r.stretchMax else r.gathered

/-- The master emits its next marker. INSTEP, which the spec defines by an accepted marker, is 1 for a round that the master
emitted (DESIGN CHOICE, log entry 39). -/
def markerEmit (s : Mach) : Mach :=
  match s.rnd.nextEmit with
  | none => s
  | some n0 =>
    if !s.rnd.master || !s.rnd.en || s.rnd.hold || s.rnd.conflict then s
    else
      let r := s.rnd
      let n := settleMark s n0
      let period := BitVec.ofNat 16 (masterPeriod r)
      let stretch := markStretch r n
      let hold := !s.keep.holdCmds.isEmpty
      let m := marker n.aligned hold 0 n.num period stretch s.ctl.id (BitVec.ofNat 32 n.lead)
      let s0 := notBefore (n.start - nsCycles n.lead) s
      let s1 := ((List.range 64).filter (markerPort s)).foldl (fun s q => sendUrgent q (.marker m) s) s0
      let s2 := modRnd (fun r => { r with lastAcc := some (n.num, s.ctl.id), gathered := 0 }) s1
      if hold then
        enterHold (s.keep.holdCmds.foldl (fun s o => complete o 0x00 n.num.toNat s)
          (modKeep (fun k => { k with holdCmds := [] }) s2))
      else
        let x : Round := { num := n.num, period := period, stretch := stretch, start := n.start, aligned := n.aligned, instep := true }
        modRnd (fun r => { r with
          sched := r.sched ++ [x]
          nextEmit := some { num := n.num + 1, start := n.start + (period.toNat + stretch.toNat) * 1100
                             lead := leadEff r period.toNat, aligned := r.aligned, first := false } }) s2

def execMarkerEmit (s : State) : Res := run markerEmit s

/-! ### Stretch requests (R66 to R71) -/

/-- A stretch request. -/
def stretchMsg (cause : Nat) (hops : Byte) (round : BitVec 48) (amount requester : BitVec 16) : BitVec 128 :=
  BitVec.ofNat 128 (ofBytes ([0x32] ++ toBytes 1 cause ++ [hops] ++ toBytes 1 0 ++ bytesOf round ++ bytesOf amount ++
    bytesOf requester ++ toBytes 2 0))

/-- A counted request for round m joins a history (R70): the history, newest first, and whether it makes a straggler. -/
def noteRequest (h : List (BitVec 48)) (m : BitVec 48) (count window : Nat) : List (BitVec 48) × Bool :=
  if h.head? = some m then (h, false)
  else
    let h1 := (m :: h).take 16
    (h1, decide (count ≠ 0 ∧ count < h1.length) && decide ((m - h1.getD count 0).toNat < max 1 window))

/-- A straggler is declared (R71). -/
def straggler (id : BitVec 16) (s : Mach) : Mach :=
  nameFailed id (roundRecord 2 (modRnd (fun r => { r with stragValid := true, stragId := id }) (rndEvt 4 s)))

/-- The master takes a request (R69, R70). -/
def takeStretch (m : BitVec 128) (s : Mach) : Mach :=
  match s.rnd.nextEmit with
  | none => s
  | some n =>
    let amount := fld m 80 16
    let id := fld m 96 16
    let s1 := modRnd (fun r => { r with gathered := if r.gathered.toNat < amount.toNat then amount else r.gathered }) s
    if fld m 8 2 = 0 then s1
    else
      let x := noteRequest (tget [] s.rnd.strag id.toNat) n.num s.rnd.stragCount.toNat s.rnd.stragWindow.toNat
      let s2 := modRnd (fun r => { r with strag := tset [] r.strag id.toNat x.1 }) s1
      if x.2 then straggler id s2 else s2

/-- A request leaves on the upstream port, once there is one (R68). -/
def sendUpstream (m : BitVec 128) (s : Mach) : Mach :=
  if (s.rnd.lastAcc.isSome || s.rnd.lastFwd.isSome) && markerPort s s.rnd.upport.toNat then
    sendUrgent s.rnd.upport.toNat (.stretch m) s
  else s

def stretchRequest (port : Option Nat) (m : BitVec 128) (s : Mach) : Mach :=
  if s.rnd.hold || !(match port with | some p => markerPort s p | none => true) then s
  else if s.rnd.master then takeStretch m s
  else sendUpstream (setByte m 2 (fld m 16 8 + 1)) s

def execStretchRequest (port : Option (Fin 64)) (m : BitVec 128) (s : State) : Res := run (stretchRequest (port.map Fin.val) m) s

/-- The request that the round just ended gives rise to (R66): its CAUSE and AMOUNT, no request when CAUSE is 0. -/
def stretchOf (r : Rnd) (prev : Round) (margin : Int) (late : Bool) : Nat × Nat :=
  let whole := (prev.period.toNat + prev.stretch.toNat) * 1100
  let deficit : Int := (min 1000 r.marginLow.toNat * whole : Nat) - 1000 * margin
  let need := ceilDiv deficit.toNat 1100000
  ((if 0 < deficit then 1 else 0) + (if late then 2 else 0) + (if r.sreq ≠ 0 then 4 else 0),
   min 65535 (max 1 (max need r.sreq.toNat)))

def sendStretch (prev : Round) (margin : Int) (late : Bool) (s : Mach) : Mach :=
  let x := stretchOf s.rnd prev margin late
  let s1 := modRnd (fun r => { r with sreq := 0 }) s
  if x.1 = 0 then s1
  else
    let m := stretchMsg x.1 0 prev.num (BitVec.ofNat 16 x.2) s.ctl.id
    rndEvt 1 (if s.rnd.master then takeStretch m s1 else sendUpstream m s1)

/-! ### A round starts (R52, R57, R61 to R66) -/

/-- Some core holds back the round start. -/
def anyLate (s : Mach) : Bool := s.ctl.scope == 0 && (s.cores.map (·.1)).any (lateCore s)

/-- Every die latches its trackers, and clears them where PER_ROUND is 1; the updates of this reference cycle count toward the new
round (R155, R164). -/
def latchTrackers (prev : BitVec 48) (s : Mach) : Mach :=
  iter 144 (fun d t => modDie d (fun x =>
    let y := x.trk.settle s.now
    { x with trk := { y with snap := y.live, round := prev.setWidth 32, live := if y.perRound then [] else y.live } }) t) s

/-- The counts of a new round: a lane that is in retraining now was in it in this round (R73). -/
def newCounts (s : Mach) : VarCnt := { VarCnt.reset with retrain := BitVec.ofNat 32 ((s.ports.map (fun e => lanesRetraining e.2)).sum) }

/-- The ports begin a round. -/
def portsNew (s : Mach) : Mach := { s with ports := s.ports.map (fun e => (e.1, e.2.newRound)) }

/-- What a round start latches of the round just ended (R62, R66, R73, R155, R427, R472). -/
def closeRound (prev : Round) (late : Option Nat) (s0 : Mach) : Mach :=
  let s := settleStretch s0
  let s1 := if s.rnd.ended.isSome then s else latchMargin late s
  let s2 := sendStretch prev s1.rnd.marginMin.toInt late.isSome (capBoundary (prev.period.toNat + prev.stretch.toNat) s1)
  let s3 := modRnd (fun r => { r with
    varLatch := r.ended.getD r.varRun, varRound := prev.num.setWidth 32, varRun := newCounts s2, ended := none }) s2
  latchTrackers prev.num (portsNew s3)

/-- The first round start, with no round just ended: nothing is latched, TRK_ROUND and the tracker snapshots among the rest
(DESIGN CHOICE, log entry 39); the counts and the average of the input power begin, and a software request that was written before is
not sent (R66, R73, R472). -/
def firstRound (s : Mach) : Mach :=
  portsNew (modRnd (fun r => { r with varRun := newCounts s, sreq := 0 })
    (modPwr (fun p => { p with sum := 0, samples := 0 }) (settleStretch s)))

/-- Round-unit registers that ROUND_SET may write (R75 to R81, R377): those with an RW field. -/
def roundRw (off : Nat) : Bool := [0x000, 0x004, 0x008, 0x00C, 0x010, 0x014, 0x018, 0x01C, 0x058, 0x05C].contains off

/-- A write of RND_CTRL (R75, R51, R607). -/
def rndCtrl (v : Word) (s : Mach) : Mach :=
  let rise := bit v 0 && !s.rnd.en
  let s1 := modRnd (fun r => { r with aligned := bit v 2, master := bit v 1, en := bit v 0 }) s
  if rise then
    modRnd (fun r => { r with
      lastAcc := none, owed := [], missed := 0, gathered := 0, conflict := false
      nextEmit := if r.master && !r.hold then some (firstMark r.numReg) else none }) s1
  else if bit v 0 then s1
  else modRnd (fun r => { r with sched := [], withheld := [], nextEmit := none }) s1

def execRndEnSet (v : Word) (s : State) : Res := runAccess 0x4000 (rndCtrl (v ||| 1)) s

/-- A write of RND_SREQ (R87). -/
def rndSreq (v : Word) : Mach → Mach := modRnd (fun r => { r with sreq := if r.sreq.toNat < (fld v 0 16).toNat then fld v 0 16 else r.sreq })

def execRndSreqWrite (v : Word) (s : State) : Res := runAccess 0x4038 (rndSreq v) s

/-- A write of RND_MPORT_LO or RND_MPORT_HI (R366, R377, R451, R570). -/
def rndMport (hi : Bool) (v : Word) (s : Mach) : Mach :=
  modRnd (fun r =>
    let m : BitVec 64 := if hi then v ++ fld r.mportReg 0 32 else fld r.mportReg 32 32 ++ v
    { r with mportReg := m, mport := if !r.en || r.hold then m else r.mport }) s

/-- A write of a register of the round unit block (R75 to R87, R377). -/
def rndWrite (off : Nat) (v : Word) (s : Mach) : Mach :=
  let numOk := s.rnd.master && !s.rnd.en
  match off with
  | 0x000 => rndCtrl v s
  | 0x004 => modRnd (fun r => { r with period := fld v 0 16 }) s
  | 0x008 => modRnd (fun r => { r with leadNs := fld v 0 24 }) s
  | 0x00C => modRnd (fun r => { r with stretchMax := fld v 0 16, marginLow := fld v 16 10 }) s
  | 0x010 => modRnd (fun r => { r with lateLimit := fld v 0 16, missGrace := fld v 16 16 }) s
  | 0x014 => modRnd (fun r => { r with stragWindow := fld v 0 16, stragCount := fld v 16 4 }) s
  | 0x018 => if numOk then modRnd (fun r => { r with numReg := fld r.numReg 32 16 ++ v }) s else s
  | 0x01C => if numOk then modRnd (fun r => { r with numReg := fld v 0 16 ++ fld r.numReg 0 32 }) s else s
  | 0x028 => modRnd (fun r => { r with evt := w1c r.evt (fld v 0 8) }) s
  | 0x038 => rndSreq v s
  | 0x058 => rndMport false v s
  | 0x05C => rndMport true v s
  | _ => s

/-- The pairs of a ROUND_SET (R573). -/
def setPairs (d : Desc) : List (Nat × Word) :=
  (List.range (cB d 14 1)).map (fun i => (cB d (16 + 8 * i) 4, BitVec.ofNat 32 (cB d (20 + 8 * i) 4)))

def roundSet (q : Nat) (d : Desc) (s : Mach) : Mach :=
  startCmd q d (cB d 0 1 == 0x38) [(8, 7), (16, 8 * min 6 (cB d 14 1))] (fun o s =>
    match cmdRound s (cmdVer s o) d 8 with
    | none => complete o 0x02 0 s
    | some m =>
      if cB d 14 1 < 1 ∨ 6 < cB d 14 1 ∨ !(setPairs d).all (fun x => roundRw x.1) then complete o 0x02 0 s
      else if roundStarted s m then complete o 0x04 0 s
      else modRnd (fun r => { r with sets := insertBy (fun e => e.2.2.tok) (m, d, o) r.sets }) s) s

def execRoundSet (q : Fin 16) (d : Desc) (s : State) : Res := run (roundSet q.val d) s

/-- The ROUND_SETs that round m brings into force. -/
def applySets (m : BitVec 48) (s : Mach) : Mach :=
  let (due, later) := s.rnd.sets.partition (fun e => decide (e.1.toNat ≤ m.toNat))
  due.foldl (fun s e => complete e.2.2 0x00 0 ((setPairs e.2.1).foldl (fun s x => rndWrite x.1 x.2 s) s))
    (modRnd (fun r => { r with sets := later }) s)

/-- The turns count from 0 again: a row that waits is served from the first one on (R96, R606). -/
def WRow.next (w : WRow) : WRow := { w with turn := 0 }

/-- The same for what a stream engine has waiting. -/
def Stream.boundary (t : Stream) : Stream :=
  { t with wait := t.wait.map WRow.next
           list := t.list.map (fun l => { l with inflight := l.inflight.map (fun b => { b with turn := 0 }) }) }

/-- The routers and the timed channels begin a round (R185, R186, R189). -/
def channelsBoundary (dead_ : Bool) (c0 : Core) : Core :=
  let c := if dead_ then c0 else dmaSlot c0
  { c with
    ecnt := []
    rt := { c.rt with inCnt := [], inRow := [], outCnt := [], sends := [], wait := c.rt.wait.map WRow.next, wrote := [],
                      nTurn := 0, nBanks := [] }
    se0 := c.se0.boundary
    se1 := c.se1.boundary }

/-- Filled flags whose EXPIRE count has run out (R198). -/
def expireFlags (s : Mach) : Mach :=
  (s.cores.map (·.1)).foldl (fun s k =>
    ((coreAt s k).rt.bufs.map (·.1)).foldl (fun s b => flagExpire k b s) s) s

/-- The budget check of a section that runs or starts (R61). -/
def budgetCheck (period : Nat) (s : Mach) : Mach :=
  let much := decide (period * 1034 < s.sec.plan.toNat)
  let s1 := modSec (fun x => { x with budget := much && (s.sec.cur.isSome || s.sec.switch.isSome) }) s
  if s1.sec.budget then
    let det := (((List.range 144).find? (fun d => (dieAt s d).sec.fault)).map
      (fun d => bytesOf (secStatWord (dieAt s d).sec))).getD (toBytes 4 0)
    uncorrected 0x23 (logModule 0x23 1 (det ++ [1]) s1)
  else s1

/-- PLAN of the images of a switch that begins (R61): the largest of those that pass their checks. -/
def switchPlan (s : Mach) : Nat :=
  match s.sec.switch with
  | some (cmd, .check) =>
    (presentCores s).foldl (fun n k => if coreReason s cmd k = 0 then max n (planOf cmd.man (coreAt s k)) else n) 0
  | _ => 0

/-- Programs start, unless a section switch runs: then every core waits for its GO (R177). -/
def beginPrograms (s : Mach) : Mach :=
  if s.ls.stopped then s
  else if s.sec.switch.isSome then
    allCores (fun _ c => { c with p := { c.p with mode := .idle, done := false, signalled := false, cause := 0 } }) s
  else startPrograms s

/-- The RESUME commands end at the first round after the hold (R458, R573). -/
def endResumes (m : BitVec 48) (s : Mach) : Mach :=
  s.keep.resumeCmds.foldl (fun s o => complete o 0x00 m.toNat s) (modKeep (fun k => { k with resumeCmds := [] }) s)

/-- The fabric cycles count from 0 again (R129). -/
def Fabric.newRound (now cycles : Nat) (f : Fabric) : Fabric :=
  { f with began := now, past := f.past + cycles, lost := 0, since := f.since.map (fun _ => now), cycle := 0 }

/-- What a round start does at the cores: a section command comes into force, flags expire, and the channels begin their round (R105,
R177, R185, R198). The cores of a module that a digest stopped start no round and keep their state (R429). -/
def coresBoundary (m : BitVec 48) (s : Mach) : Mach :=
  if s.ls.stopped then s
  else
    let s1 := sectionBoundary m s
    expireFlags (allCores (fun k c => channelsBoundary (dead s1 k) c) s1)

/-- What a round start brings into force (R105, R128, R177, R180, R211, R265, R331, R340, R356, R366, R371, R445). -/
def openRound (r : Round) (s : Mach) : Mach :=
  let prev := roundNow s
  let s1 := modRnd (fun x => { x with cur := some r, active := r.period, numReg := r.num, instep := r.instep })
    { s with fab := s.fab.newRound s.now (cycleOf s) }
  let s2 := applySets r.num (applyDigSets (applyChanges s1))
  let s3 := endModFences (if s.rnd.cur.isSome then roundFences prev s2 else s2)
  let s4 := iter 32 (beginSlot 0) s3
  let s6 := coresBoundary r.num (sealBoundary r.num (portsBoundary s4))
  let s7 := modSec (fun x => { x with plan := if x.switch.isSome then BitVec.ofNat 32 (max x.plan.toNat (switchPlan s6)) else x.plan }) s6
  endResumes r.num (startLists r.num (beginPrograms (budgetCheck r.period.toNat s7)))

/-- A round starts at the module; `late` is its lateness in cycles (R63). It does not where the digest that is formed now has no
majority, so that the module holds (R281, R284). -/
def beginRound (r : Round) (late : Option Nat) (s : Mach) : Mach :=
  match s.rnd.cur with
  | none => openRound r (latchStrand (firstRound s))
  | some prev =>
    let s1 := formDigest (ageDigest s)
    if s1.rnd.hold then s1 else openRound r (latchStrand (lockstepBoundary prev.num (closeRound prev late s1)))

/-- LATE_LIMIT in cycles. -/
def lateCycles (s : Mach) : Nat := s.rnd.lateLimit.toNat * 1100

/-- Every core stops in place (R64). -/
def stopCores (s : Mach) : Mach :=
  { s with cores := s.cores.map (fun e => (e.1, { e.2 with stopped := 0xF, p := { e.2.p with mode := .idle } })) }

/-- The margin that the late round records is the lateness, with its sign turned (R63, R85). -/
def latchLate (s : Mach) : Mach :=
  match s.rnd.withheld with
  | r :: _ => if s.rnd.ended.isSome then s else endCounts (some (s.now - r.start)) (settleStretch s)
  | [] => s

/-- The late fault (R64). The start that is withheld never comes: the module holds (R449). -/
def lateFaultNow (s : Mach) : Mach := enterHold (stopCores (uncorrected 0x30 (roundRecord 1 (rndEvt 3 (latchLate s)))))

/-- A round is due: it starts, or it waits for a late core or for a round before it (R63). -/
def dueRound (r : Round) (s : Mach) : Mach :=
  if !s.rnd.withheld.isEmpty || anyLate s then
    let s1 := rndEvt 2 (modRnd (fun x => { x with withheld := x.withheld ++ [r] }) s)
    if s.rnd.lateLimit = 0 then lateFaultNow s1 else s1
  else beginRound r none s

def roundStart (s : Mach) : Mach :=
  match s.rnd.sched with
  | [] => s
  | r :: rest =>
    if !s.rnd.en then s
    else
      let s1 := stopHandlers (notBefore r.start s)
      if s1.keep.holdNext then enterHold s1 else dueRound r (modRnd (fun x => { x with sched := rest }) s1)

def execRoundStart (s : State) : Res := run roundStart s

/-- The last late core is done: the withheld round starts, unless its lateness has reached the limit. -/
def delayedRoundStart (s : Mach) : Mach :=
  match s.rnd.withheld with
  | [] => s
  | r :: rest =>
    if lateCycles s ≤ s.now - r.start then lateFaultNow s
    else if anyLate s then s
    else if s.keep.holdNext then enterHold s
    else beginRound r (some (s.now - r.start)) (modRnd (fun x => { x with withheld := rest }) s)

def execDelayedRoundStart (s : State) : Res := run delayedRoundStart s

def lateFault (s : Mach) : Mach :=
  match s.rnd.withheld with
  | [] => s
  | r :: _ => lateFaultNow (notBefore (r.start + lateCycles s) s)

def execLateFault (s : State) : Res := run lateFault s

/-- The latest round that has started or is withheld (R57). -/
def latestRound (r : Rnd) : Option Round := match r.withheld.getLast? with | some x => some x | none => r.cur

/-- The deadline for the marker of the next round passes (R57, R59). -/
def missedMarker (s : Mach) : Mach :=
  match latestRound s.rnd with
  | none => s
  | some x =>
    if s.rnd.master || !s.rnd.en || s.rnd.hold || !s.rnd.sched.isEmpty then s
    else
      let deadline := x.start + (x.period.toNat + x.stretch.toNat) * 1100 + (if x.aligned then 0 else nsCycles s.rnd.missGrace.toNat)
      let s1 := modRnd (fun r => { r with missed := r.missed + 1 }) (stopHandlers (notBefore deadline s))
      if s.rnd.missed.toNat < 2 then
        let next : Round := { x with num := x.num + 1, stretch := 0, start := deadline, instep := false }
        let s2 := modRnd (fun r => { r with
          lastAcc := r.lastAcc.map (fun a => (next.num, a.2)), owed := r.owed ++ [next.num] }) s1
        if s2.keep.holdNext then enterHold s2 else dueRound next s2
      else enterHold s1

def execMissedMarker (s : State) : Res := run missedMarker s

/-! ### The restart commands (R450, R452 to R454, R458) -/

def restartHold (q : Nat) (d : Desc) (s : Mach) : Mach :=
  startCmd q d (cB d 0 1 == 0x48) [] (fun o s =>
    if !s.rnd.master || !s.rnd.en then complete o 0x03 0 s
    else if s.rnd.hold then complete o 0x00 s.rnd.heldAt s
    else modKeep (fun k => { k with holdCmds := k.holdCmds ++ [o] }) s) s

def execRestartHold (q : Fin 16) (d : Desc) (s : State) : Res := run (restartHold q.val d) s

/-- An entry of a census record: ID and WEIGHT. -/
def censusEntry (es : List Byte) (i : Nat) : Nat × Nat := (numAt es (4 * i) 2, numAt es (4 * i + 2) 1)

/-- The entries of a record. -/
def censusList (n : Nat) (es : List Byte) : List (Nat × Nat) := (List.range n).map (censusEntry es)

/-- The record is laid out as R452 says. -/
def censusForm (h es : List Byte) : Bool :=
  let n := numAt h 10 2
  numAt h 0 4 == 0x5A43454E && decide (1 ≤ n ∧ n ≤ 16384) && numAt h 15 1 == 0 && numAt h 19 1 == 0 && numAt h 24 40 == 0 &&
    (List.range n).all (fun i => numAt es (4 * i + 3) 1 == 0) &&
    ((censusList n es).zip ((censusList n es).drop 1)).all (fun e => decide (e.1.1 < e.2.1))

/-- The module may be armed with the record (R453). -/
def censusOk (s : Mach) (h es : List Byte) : Bool :=
  let l := censusList (numAt h 10 2) es
  let w := numAt h 16 3
  let master : BitVec 16 := BitVec.ofNat 16 (numAt h 8 2)
  s.rnd.hold && censusForm h es && numAt h 12 3 == s.sys.total.toNat && s.ctl.assigned &&
    l.contains (s.ctl.id.toNat, s.sys.weight.toNat) && (l.map (·.2)).sum == w && decide (numAt h 12 3 < 2 * w) &&
    (master == s.ctl.id || (routeOf s master).isSome)

/-- The ports and the port switch drop the messages that they hold (R454). A flit of a replay buffer keeps its number. -/
def dropAccess (s : Mach) : Mach :=
  let keep (l : List Msg) := l.filter (fun m => !plainAccess m)
  modRmt (fun r => { r with reads := [], probes := [] })
    { s with ports := s.ports.map (fun e => (e.1, { e.2 with
        txq := keep e.2.txq, buf := e.2.buf.map (fun f => { f with msgs := keep f.msgs }) })) }

/-- A slot above the record's step is revoked (R454). -/
def revokeAbove (b : Bool) (step : Nat) (s : Mach) : Mach :=
  if step < (slotOf s.keep b).step.toNat then revokeSlot b s else s

/-- The arm takes effect (R454): the section ends, with the switch to one that is under way and its programs, and the stream engines
stop. A fault raised from now on holds the module from its next round start (R449). -/
def armModule (h : List Byte) (s : Mach) : Mach :=
  let s0 := (s.cores.map (·.1)).foldl (fun s k => if running (coreAt s k) then endProgram false k s else s) (endSection (endSwitch s))
  let s1 := allCores (fun _ c => stopEngine 2 (stopEngine 3 c)) s0
  let s2 := dropAccess (dropLists (endSecCmds true (endSessions s1)))
  let s3 := modRnd (fun r => { r with strag := [] }) (modTrn (fun t => { t with kept := [] }) s2)
  let s4 := revokeAbove true (numAt h 20 4) (revokeAbove false (numAt h 20 4) s3)
  modKeep (fun k => { k with
    faulted := false, holdNext := false, armed := true, armBad := false, armGen := BitVec.ofNat 16 (numAt h 4 2)
    armMaster := BitVec.ofNat 16 (numAt h 8 2), armW := BitVec.ofNat 24 (numAt h 16 3) }) s4

def restartArm (q : Nat) (d : Desc) (s : Mach) : Mach :=
  startCmd q d (cB d 0 1 == 0x49) [(16, 8)] (fun o s =>
    let ea := cB d 16 8
    if 2 ^ 41 ≤ ea then complete o 0x02 0 s
    else if s.edge.keepEn && inKeep ea 64 then complete o 0x11 0 s
    else
      let x := readEdge 6 ea 64 s
      let h := x.1.map (·.1)
      let n := if s.edge.keepEn && inKeep ea (64 + 4 * min 16384 (numAt h 10 2)) then 0 else 4 * min 16384 (numAt h 10 2)
      let y := readEdge 6 (ea + 64) n x.2
      if x.1.any (·.2) || y.1.any (·.2) || stackOut s (stackOf ea) then complete o 0x11 0 y.2
      else if !censusOk y.2 h (y.1.map (·.1)) then complete o 0x11 0 y.2
      else complete o 0x00 0 (armModule h y.2)) s

def execRestartArm (q : Fin 16) (d : Desc) (s : State) : Res := run (restartArm q.val d) s

/-- The round after the last that the master emitted, or the one in RND_NUM before the first (R458). -/
def resumeRound (r : Rnd) : BitVec 48 := match r.lastAcc with | some a => a.1 + 1 | none => r.numReg

def resumeCmd (q : Nat) (d : Desc) (s : Mach) : Mach :=
  startCmd q d (cB d 0 1 == 0x4A) [] (fun o s =>
    if !s.rnd.master || !s.rnd.en || !s.rnd.hold || !s.keep.armed then complete o 0x03 0 s
    else
      let s1 := modKeep (fun k => { k with armed := false, resumeCmds := k.resumeCmds ++ [o] }) s
      modRnd (fun r => { r with
        hold := false, conflict := false, gathered := 0, nextEmit := some (firstMark (resumeRound r)) }) s1) s

def execResume (q : Fin 16) (d : Desc) (s : State) : Res := run (resumeCmd q.val d) s

end Sys2Proof.Machine
end

