-- ==== Sys2Proof/Machine/Ports.lean ====
section
/-! DEFINITION. The optical ports: training and identity, latency, live retraining, flits, replay and the dispatch of
messages (09_optical_ports.md). -/

namespace Sys2Proof.Machine

/-! ### Link-up and link-down (R309, R310, R317) -/

/-- The state of a port whose laser may be on (R309). -/
def litState (s : Mach) (p : Nat) : BitVec 4 := if darkPort s p then 0 else if (portAt s p).retry then 7 else 1

/-- A port leaves DARK, or goes to it. -/
def lightPort (p : Nat) (s : Mach) : Mach := modPort p (fun x => { x with state := litState s p }) s

/-- The live retraining of a port is over; its tokens are released (R405). -/
def endLanes (p : Nat) (s : Mach) : Mach :=
  let hs := (s.mnt.acts.filter (fun a => a.code == 4 && a.subject == p)).map (·.handle)
  hs.foldl (fun s h => endActivity h s)
    (modPort p (fun x => { x with rt := none, rtQueue := [], rtOfWalk := false, rtHold := false, rtPeer := none, rtPeerWait := none }) s)

/-- The link carries nothing any more; its cause is that of R329. -/
def dropLink (p cause : Nat) (s : Mach) : Mach :=
  modPort p (fun x => { x with
    cause := BitVec.ofNat 4 cause, state := if x.retry then 7 else 1, gen := 0, active := 0
    mgmt := [], urgent := [], nakDue := false, nakSent := false, idleDue := false, resend := none, echoOut := none })
    (endLanes p s)

/-- The link goes down (R310, R317). -/
def linkDown (p cause : Nat) (s : Mach) : Mach :=
  portEvt p 4 (dropLink p cause (modPort p (fun x => { x with downCnt := satInc x.downCnt, retry := true }) s))

/-- Lanes are excluded; the link goes down when fewer than 12 are left (R310). -/
def excludeLanes (p : Nat) (l : BitVec 16) (s : Mach) : Mach :=
  if l &&& ~~~ (portAt s p).failed = 0 then s
  else
    let s1 := portRecord p 0 (portEvt p 3 (modPort p (fun x => { x with failed := x.failed ||| l, active := x.active &&& ~~~ l }) s))
    if laneCount (portAt s1 p).failed ≤ 4 then s1 else linkDown p 1 s1

def lightDetect (p : Nat) (s : Mach) : Mach :=
  let x := portAt s p
  if darkPort s p ∨ (x.state ≠ 1 ∧ x.state ≠ 7) then s
  else modPort p (fun x => { x with
    state := 2, failed := 0, active := 0, gen := 0, identRx := false, identAck := false, trips := [], latNext := none
    gen2Fails := 0, offer := bit s.start.features 1 && x.genmax == 2 }) s

def execLightDetect (port : Fin 64) (s : State) : Res := run (lightDetect port.val) s

def eqComplete (p : Nat) (failed : BitVec 16) (s : Mach) : Mach :=
  if (portAt s p).state ≠ 2 then s
  else excludeLanes p failed (modPort p (fun x => { x with state := 3, gen := 1, active := 0xFFFF &&& ~~~ x.failed, traint := x.temp }) s)

def execEqComplete (port : Fin 64) (failed : BitVec 16) (s : State) : Res := run (eqComplete port.val failed) s

/-- The link is up in a generation. -/
def goActive (p g : Nat) : Mach → Mach :=
  modPort p (fun x => { x with state := 6, gen := BitVec.ofNat 2 g, resend := if x.buf.isEmpty then none else some 0 })

def alignComplete (p : Nat) (swapped : Bool) (s : Mach) : Mach :=
  let x := portAt s p
  if x.state ≠ 3 then s
  else
    let s1 := modPort p (fun x => { x with swap := swapped, fecLast := 0, laneTx := [] }) s
    if 2 ≤ x.gen2Fails then goActive p 1 s1 else sendMgmt p (identityOf s p) (modPort p (fun x => { x with state := 4 }) s1)

def execAlignComplete (port : Fin 64) (swapped : Bool) (s : State) : Res := run (alignComplete port.val swapped) s

def speedComplete (p : Nat) (failed : BitVec 16) (s : Mach) : Mach :=
  let x := portAt s p
  if x.state ≠ 5 then s
  else if 12 ≤ laneCount (~~~ (x.failed ||| failed)) then goActive p 2 (excludeLanes p failed s)
  else if 1 ≤ x.gen2Fails then modPort p (fun x => { x with state := 2, gen2Fails := 2 }) s
  else modPort p (fun x => { x with gen2Fails := 1 }) s

def execSpeedComplete (port : Fin 64) (failed : BitVec 16) (s : State) : Res := run (speedComplete port.val failed) s

def linkLost (p : Nat) (lost : BitVec 16) (s : Mach) : Mach :=
  let x := portAt s p
  if x.state.toNat < 2 ∨ 6 < x.state.toNat ∨ 12 ≤ laneCount (x.active &&& ~~~ lost) then s else linkDown p 1 s

def execLinkDown (port : Fin 64) (lost : BitVec 16) (s : State) : Res := run (linkLost port.val lost) s

def retryExpiry (p : Nat) (s : Mach) : Mach :=
  let x := portAt s p
  if !x.retry || x.state == 6 then s
  else keepLoss p (partnerLoss p (modPort p (fun x => { x with retry := false, state := if x.state = 7 then 1 else x.state }) s))

def execRetryTimerExpiry (port : Fin 64) (s : State) : Res := run (retryExpiry port.val) s

/-! ### Latency (R314) -/

/-- Insert into a rising list. -/
def insertUp (x : Nat) : List Nat → List Nat
  | [] => [x]
  | y :: t => if x ≤ y then x :: y :: t else y :: insertUp x t

/-- L in ns from eight round trips in cycles: half their median, to the nearest ns. -/
def latOf (trips : List Nat) : Nat :=
  let l := trips.foldl (fun a x => insertUp x a) []
  (20 * (l.getD 3 0 + l.getD 4 0) + 44) / 88

/-- An echo message. -/
def echoMsg (seq : Byte) (stamp : Nat) : BitVec 128 :=
  BitVec.ofNat 128 (ofBytes ([0x34] ++ [seq] ++ toBytes 6 0 ++ toBytes 8 stamp))

def echoSend (p : Nat) (s : Mach) : Mach :=
  let x := portAt s p
  if x.state ≠ 4 ∧ x.state ≠ 6 then s
  else
    let seq := x.echoSeq + 1
    sendMgmt p (.echo (echoMsg seq s.now)) (modPort p (fun x => { x with echoSeq := seq, echoOut := some (seq, s.now) }) s)

def execEchoSend (port : Fin 64) (s : State) : Res := run (echoSend port.val) s

/-- IDENT ends: identity is acknowledged and eight echoes have measured L (R310, R311). The L of a link-up takes force as every
new L does; a port without one takes its first at once (R314, R326; DESIGN CHOICE, log entry 51). -/
def tryUp (p : Nat) (s : Mach) : Mach :=
  let x := portAt s p
  if x.state ≠ 4 ∨ !x.identRx ∨ !x.identAck ∨ x.trips.length < 8 then s
  else
    let l := latOf x.trips
    if 700 < l then portRecord p 0 (linkDown p 4 s)
    else
      let s1 := modPort p (fun x =>
        if x.lat = 0 then { x with lat := BitVec.ofNat 16 l } else { x with latNext := some (BitVec.ofNat 16 l) }) s
      if x.peerGen2 && x.offer then modPort p (fun x => { x with state := 5 }) s1 else goActive p 1 s1

/-- An echo arrives: the port's own comes back, or the partner's is returned. -/
def echoArrive (p : Nat) (m : BitVec 128) (s : Mach) : Mach :=
  let x := portAt s p
  let stamp := (fld m 64 64).toNat
  if x.state ≠ 4 ∧ x.state ≠ 6 then s
  else if x.echoOut.any (fun e => e.1 == fld m 8 8 && decide (e.2 ≤ stamp ∧ stamp ≤ s.now)) then
    let s1 := modPort p (fun x =>
      let t := ((s.now - stamp) :: x.trips.reverse).take 8 |>.reverse
      { x with echoOut := none, trips := t
               latNext := if x.state = 6 ∧ t.length = 8 then some (BitVec.ofNat 16 (latOf t)) else x.latNext }) s
    tryUp p s1
  else sendMgmt p (.echoBack m s.now) s

def execEcho (port : Fin 64) (m : BitVec 128) (s : State) : Res := run (echoArrive port.val m) s

/-! ### Identity (R312, R315) -/

def idVersion (m : BitVec 256) : Byte := fld m 8 8
def idFlag (m : BitVec 256) (b : Nat) : Bool := bit m (16 + b)
def idSerial (m : BitVec 256) : BitVec 64 := fld m 32 64
def idEpoch (m : BitVec 256) : Word := fld m 128 32

/-- What the port keeps of its partner's identity (R326). -/
def noteIdentity (m : BitVec 256) (x : Port) : Port :=
  { x with
    pser := idSerial m, pversion := idVersion m, pport := fld m 24 6, passigned := idFlag m 1, pid := fld m 96 16
    pepoch := idEpoch m, peerGen2 := idFlag m 0 }

/-- A new partner (R315). -/
def newPartner (p : Nat) (m : BitVec 256) (s : Mach) : Mach :=
  settlePtn (updateTwin (directEntry p (portEvt p 6 (modPort p (fun x => noteIdentity m { x with
    txSeq := 0, rxSeq := 0, ackv := false, lost := satAdd x.lost (x.buf.length + flitsFor x.txq), buf := [], txq := []
    resend := none, partner := true, resumed := false, retry := false }) s))))

/-- The first identity of a link-up decides whose link it is. -/
def takePartner (p : Nat) (m : BitVec 256) (s : Mach) : Mach :=
  let x := portAt s p
  if x.retry && x.partner then
    if idSerial m = x.pser ∧ idEpoch m = x.pepoch then
      updateTwin (resentEntry p (portEvt p 5 (modPort p (fun x => noteIdentity m { x with resumed := true, retry := false }) s)))
    else newPartner p m (keepLoss p (partnerLoss p s))
  else newPartner p m s

def identityArrive (p : Nat) (m : BitVec 256) (s : Mach) : Mach :=
  let x := portAt s p
  if x.state = 4 then
    if idSerial m = s.start.serial then portRecord p 0 (dropLink p 5 s)
    else
      let s1 := if x.identRx then s
                else
                  let s2 := modPort p (fun x => { x with identRx := true }) (takePartner p m s)
                  sendMgmt p (identityOf s2 p) s2
      tryUp p (modPort p (fun x => { x with identAck := x.identAck || idFlag m 2, peerGen2 := idFlag m 0 }) s1)
  else if x.state = 6 ∧ idSerial m = x.pser then resentEntry p (modPort p (noteIdentity m) s)
  else s

def execIdentity (port : Fin 64) (m : BitVec 256) (s : State) : Res := run (identityArrive port.val m) s

def identityResend (p : Nat) (s : Mach) : Mach :=
  let x := portAt s p
  if x.state = 4 ∧ !x.identAck then sendMgmt p (identityOf s p) s else s

def execIdentityResend (port : Fin 64) (s : State) : Res := run (identityResend port.val) s

/-! ### PRT_CFG and live retraining (R319 to R321, R324) -/

/-- A write of PRT_CFG. -/
def prtCfg (p : Nat) (v : Word) (s : Mach) : Mach :=
  if !portLicensed s p then s
  else
    let x := portAt s p
    let s1 := modPort p (fun x => { x with en := bit v 0, genmax := fld v 1 2, livert := bit v 3 }) s
    let s2 :=
      if x.en == bit v 0 then s1
      else if bit v 0 then lightPort p s1
      else modPort p (fun x => { x with state := 0 }) (if 2 ≤ x.state.toNat ∧ x.state.toNat ≤ 6 then linkDown p 3 s1 else s1)
    if bit v 11 && portActive s2 p then queueLane p (fld v 12 4).toNat s2 else s2

def execPrtCfgEnWrite (port : Fin 64) (v : Word) (s : State) : Res :=
  runAccess (0x108100 + 0x40 * port.val) (prtCfg port.val v) s
def execPrtRtreq (port : Fin 64) (v : Word) (s : State) : Res :=
  runAccess (0x108100 + 0x40 * port.val) (prtCfg port.val (v ||| 0x800)) s

def retrainTrigger (p : Nat) (t : RtTrigger) (s : Mach) : Mach :=
  let s1 := match t with | .temperature now => modPort p (fun x => { x with temp := now }) s | .errors _ => s
  let x := portAt s1 p
  if !x.livert || x.state != 6 then s1
  else
    match t with
    | .temperature now =>
      if 12 < (now.toInt - x.traint.toInt).natAbs ∧ !walking x then queueWalk p s1 else s1
    | .errors lane => queueLane p lane.val s1

def execLaneRetrainTrigger (port : Fin 64) (t : RtTrigger) (s : State) : Res := run (retrainTrigger port.val t) s

/-- The lane that a retrain message names. -/
def rtLane (m : BitVec 64) : Nat := (fld m 8 4).toNat

/-- The partner's lane is granted (R320, R321). -/
def grantLane (p lane : Nat) (s : Mach) : Mach :=
  countRetrain p lane (sendMgmt p (retrainMsg 0x36 lane) (modPort p (fun x => { x with
    rtPeer := some lane, rtPeerWait := none, rtLaneReg := BitVec.ofNat 4 lane }) s))

def retrainRequest (p : Nat) (m : BitVec 64) (s : Mach) : Mach :=
  let x := portAt s p
  if x.state ≠ 6 then s
  else
    let mine := match x.rt with
      | some (_, .granted) => true
      | some (_, .requested) => decide (x.pser.toNat < s.start.serial.toNat)
      | _ => false
    if mine then modPort p (fun x => { x with rtPeerWait := some (rtLane m) }) s else grantLane p (rtLane m) s

def execRetrainRequest (port : Fin 64) (m : BitVec 64) (s : State) : Res := run (retrainRequest port.val m) s

def retrainGrant (p : Nat) (m : BitVec 64) (s : Mach) : Mach :=
  if (portAt s p).rt = some (rtLane m, .requested) then
    countRetrain p (rtLane m) (modPort p (fun x => { x with rt := some (rtLane m, .granted), rtLaneReg := fld m 8 4 }) s)
  else s

def execRetrainGrant (port : Fin 64) (m : BitVec 64) (s : State) : Res := run (retrainGrant port.val m) s

/-- A lane of the port is done: the walk may end, and a request that waits is granted. -/
def laneDone (p lane : Nat) (s : Mach) : Mach :=
  let s1 := match findActivity s 4 p lane with | some a => endActivity a.handle s | none => s
  let s2 := portEvt p 2 (modPort p (fun x =>
    { (if x.rtOfWalk then endWalk x else x) with rt := none, rtOfWalk := false, rtHold := true }) s1)
  match (portAt s2 p).rtPeerWait with | some l => grantLane p l s2 | none => s2

/-- The partner's lane is done (R321, R327). -/
def peerDone (p : Nat) (s : Mach) : Mach := portEvt p 2 (modPort p (fun x => { x with rtPeer := none }) s)

/-- A lane's equalization ends. A lane that fails is excluded at each end; of one that succeeds, the end that asked for it tells the
other (R321). -/
def laneComplete (p : Nat) (ok : Bool) (s : Mach) : Mach :=
  match (portAt s p).rt, (portAt s p).rtPeer with
  | some (l, .granted), _ =>
    if ok then laneDone p l (sendMgmt p (retrainMsg 0x37 l) s) else excludeLanes p (BitVec.ofNat 16 (2 ^ l)) (laneDone p l s)
  | _, some l => if ok then s else excludeLanes p (BitVec.ofNat 16 (2 ^ l)) (peerDone p s)
  | _, none => s

def execLaneRetrainComplete (port : Fin 64) (ok : Bool) (s : State) : Res := run (laneComplete port.val ok) s

def retrainDone (p : Nat) (m : BitVec 64) (s : Mach) : Mach := if (portAt s p).rtPeer = some (rtLane m) then peerDone p s else s

def execRetrainDone (port : Fin 64) (m : BitVec 64) (s : State) : Res := run (retrainDone port.val m) s

/-! ### Sending (R302, R303, R306 to R308) -/

/-- A flit of a kind with its messages (R302). -/
def mkFlit (x : Port) (kind seq : Nat) (ms : List Msg) : Flit :=
  let body := ms.flatMap msgBytes
  let ak := (if x.nakDue then 0x8000 else 0) + (if x.ackv then 0x4000 else 0) + (if x.ackv then (x.rxSeq - 1).toNat else 0)
  let bs := toBytes 2 (kind * 4096 + seq) ++ toBytes 2 ak ++ toBytes 4 0 ++ body ++ toBytes (244 - body.length) 0
  BitVec.ofNat 2048 (ofBytes (bs ++ bytesOf (crc32c bs)))

/-- The messages from the front of a list that fit in a payload of n bytes, and the rest. -/
def packMsgs : Nat → List Msg → List Msg × List Msg
  | _, [] => ([], [])
  | n, m :: t =>
    let k := (msgBytes m).length
    if n < k then ([], m :: t)
    else
      let r := packMsgs (n - k) t
      (m :: r.1, r.2)

/-- A lane takes a flit whole: it enters the lane's own code word stream (R305). -/
def laneTakes (p lane : Nat) (f : Flit) (s : Mach) : Mach :=
  let t := (tget LaneTx.empty (portAt s p).laneTx lane).push f
  let s1 := emit (.vzlFlit p lane f) (modPort p (fun x => { x with laneTx := tset LaneTx.empty x.laneTx lane t.2 }) s)
  match t.1 with
  | some w => emit (.codeWord p lane w) s1
  | none => s1

/-- A flit leaves on a lane; it carries the ACK, and the NAK that was owed. -/
def sendFlit (p lane kind seq : Nat) (ms : List Msg) (s : Mach) : Mach :=
  laneTakes p lane (mkFlit (portAt s p) kind seq ms) (modPort p (fun x => { x with nakDue := false, idleDue := false }) s)

/-- The next flit of the replay leaves (R308). -/
def sendReplay (p lane i : Nat) (f : SentFlit) (s : Mach) : Mach :=
  let s1 := sendFlit p lane 1 f.seq.toNat f.msgs (modPort p (fun x => { x with
    buf := x.buf.set i { f with resends := f.resends + 1 }, replay := satInc x.replay
    resend := if i + 1 < x.buf.length then some (i + 1) else none }) s)
  let s2 := modRnd (fun r => { r with varRun := { r.varRun with replay := satInc r.varRun.replay } }) s1
  if 16 ≤ f.resends + 1 then linkDown p 2 s2 else s2

/-- A new sequenced flit leaves. -/
def sendNew (p lane : Nat) (s : Mach) : Mach :=
  let x := portAt s p
  let (ms, rest) := packMsgs 244 x.txq
  sendFlit p lane 1 x.txSeq.toNat ms (modPort p (fun x => { x with
    txq := rest, txSeq := x.txSeq + 1, buf := x.buf ++ [{ seq := x.txSeq, msgs := ms, resends := 0 }] }) s)

/-- A free lane takes the next flit in the order of R306. -/
def laneFree (p lane : Nat) (s : Mach) : Mach :=
  let x := portAt s p
  if (x.state ≠ 6 ∧ x.state ≠ 4) ∨ !bit x.active lane ∨ laneBusy x lane then s
  else if x.state = 6 ∧ !x.urgent.isEmpty then
    let (ms, rest) := packMsgs 244 x.urgent
    sendFlit p lane 2 0 (ms.map (departing s.now)) (modPort p (fun x => { x with urgent := rest }) s)
  else
    match (if x.state = 6 then x.resend.bind (fun i => (x.buf[i]?).map (fun f => (i, f))) else none) with
    | some (i, f) => sendReplay p lane i f s
    | none =>
      if !x.mgmt.isEmpty then
        let (ms, rest) := packMsgs 244 x.mgmt
        sendFlit p lane 3 0 (ms.map (departing s.now)) (modPort p (fun x => { x with mgmt := rest }) s)
      else if x.state = 6 ∧ !x.txq.isEmpty ∧ x.buf.length < 2048 then sendNew p lane s
      else if x.idleDue || x.nakDue then sendFlit p lane 0 0 [] s
      else s

def execLaneFree (port : Fin 64) (lane : Fin 16) (s : State) : Res := run (laneFree port.val lane.val) s

def idleFlitTimer (p : Nat) (s : Mach) : Mach :=
  if portActive s p then modPort p (fun x => { x with idleDue := true }) s else s

def execIdleFlitTimer (port : Fin 64) (s : State) : Res := run (idleFlitTimer port.val) s

/-- Every unacknowledged flit is sent again, from the oldest (R308). -/
def startReplay (x : Port) : Port := { x with resend := if x.buf.isEmpty then none else some 0 }

def replayTimeout (p : Nat) (s : Mach) : Mach := if portActive s p then modPort p startReplay s else s

def execReplayTimeout (port : Fin 64) (s : State) : Res := run (replayTimeout port.val) s

/-! ### Receiving (R303 to R308) -/

/-- Length of the message at the front of a payload, none for a reserved TYPE or one that does not fit. -/
def msgLength (bs : List Byte) : Option Nat :=
  let len8 := numAt bs 1 1
  let n : Option Nat := match numAt bs 0 1 with
    | 0x30 => some 32
    | 0x31 => some 24
    | 0x32 => some 16
    | 0x33 => some 24
    | 0x34 => some 16
    | 0x35 => some 8
    | 0x36 => some 8
    | 0x37 => some 8
    | 0x40 => if 1 ≤ len8 ∧ len8 ≤ 24 then some (32 + 8 * len8) else none
    | 0x41 => if 1 ≤ len8 ∧ len8 ≤ 24 then some 32 else none
    | 0x42 => if len8 ≤ 24 then some (16 + 8 * len8) else none
    | 0x43 => some 32
    | 0x44 => some 16
    | 0x45 => some 16
    | _ => none
  n.filter (fun k => decide (k ≤ bs.length))

/-- The flit kind that a message type may travel in (R303). -/
def msgKind (typ : Nat) : Nat :=
  if typ = 0x31 ∨ typ = 0x32 then 2 else if typ = 0x33 ∨ 0x40 ≤ typ then 1 else 3

/-- A bad message (R304). -/
def badMsg (p : Nat) (s : Mach) : Mach :=
  uncorrected 0x40 (portEvt p 1 (modPort p (fun x => { x with badmsg := satInc x.badmsg }) s))

def bvOf (w : Nat) (bs : List Byte) : BitVec w := BitVec.ofNat w (ofBytes (bs.take (w / 8)))

def rwriteOf (bs : List Byte) : RWriteMsg :=
  { src := BitVec.ofNat 16 (numAt bs 2 2), dst := BitVec.ofNat 16 (numAt bs 4 2), window := BitVec.ofNat 16 (numAt bs 6 2)
    offset := BitVec.ofNat 64 (numAt bs 8 8), sepoch := BitVec.ofNat 32 (numAt bs 16 4), stag := BitVec.ofNat 32 (numAt bs 20 4)
    round := BitVec.ofNat 16 (numAt bs 24 2), hops := bs.getD 26 0, data := bs.drop 32 }

def rreadOf (bs : List Byte) : RReadMsg :=
  { src := BitVec.ofNat 16 (numAt bs 2 2), dst := BitVec.ofNat 16 (numAt bs 4 2), window := BitVec.ofNat 16 (numAt bs 6 2)
    offset := BitVec.ofNat 64 (numAt bs 8 8), sepoch := BitVec.ofNat 32 (numAt bs 16 4), stag := BitVec.ofNat 32 (numAt bs 20 4)
    round := BitVec.ofNat 16 (numAt bs 24 2), hops := bs.getD 26 0, len8 := bs.getD 1 0, rid := BitVec.ofNat 32 (numAt bs 28 4) }

def rdataOf (bs : List Byte) : RDataMsg :=
  { src := BitVec.ofNat 16 (numAt bs 2 2), dst := BitVec.ofNat 16 (numAt bs 4 2), hops := bs.getD 6 0, status := bs.getD 7 0
    rid := BitVec.ofNat 32 (numAt bs 8 4), data := bs.drop 16 }

/-- The message of a number of bytes arrives at its handler. -/
def dispatch (p : Nat) (bs : List Byte) (s : Mach) : Mach :=
  match numAt bs 0 1 with
  | 0x30 => identityArrive p (bvOf 256 bs) s
  | 0x31 => roundMarker p (bvOf 192 bs) s
  | 0x32 => stretchRequest (some p) (bvOf 128 bs) s
  | 0x33 => digestMsg (bvOf 192 bs) s
  | 0x34 => echoArrive p (bvOf 128 bs) s
  | 0x35 => retrainRequest p (bvOf 64 bs) s
  | 0x36 => retrainGrant p (bvOf 64 bs) s
  | 0x37 => retrainDone p (bvOf 64 bs) s
  | 0x40 => let m := rwriteOf bs; if bit m.window 15 then keepRwriteArrive p m s else rwriteArrive p m s
  | 0x41 => let m := rreadOf bs; if bit m.window 15 then keepRreadArrive p m s else rreadArrive p m s
  | 0x42 => let m := rdataOf bs; if bit m.status 7 then keepRdataArrive p m s else rdataArrive p m s
  | 0x43 => lnackArrive p (bvOf 256 bs) s
  | 0x44 => fprobeArrive p (bvOf 128 bs) s
  | 0x45 => fackArrive p (bvOf 128 bs) s
  | _ => s

/-- The messages of a payload, one after the other; a bad one ends it. -/
def takePayload (p kind : Nat) : Nat → List Byte → Mach → Mach
  | 0, _, s => s
  | n + 1, bs, s =>
    if numAt bs 0 1 = 0 then s
    else
      match msgLength bs with
      | none => badMsg p s
      | some k =>
        if msgKind (numAt bs 0 1) = kind then takePayload p kind n (bs.drop k) (dispatch p (bs.take k) s) else badMsg p s

/-- A NAK is owed, once for the SEQ expected (R308). -/
def oweNak (x : Port) : Port := if x.nakSent then x else { x with nakDue := true, nakSent := true }

/-- An ACK covers flits, and a NAK starts a replay (R307, R308). -/
def takeAck (ak : BitVec 16) (x : Port) : Port :=
  let acked : List SentFlit := if bit ak 14 && x.buf.any (fun f => f.seq == fld ak 0 12)
    then x.buf.takeWhile (fun f => f.seq != fld ak 0 12) ++ (x.buf.filter (fun f => f.seq == fld ak 0 12)).take 1 else []
  let x1 := { x with buf := x.buf.drop acked.length
                     resend := x.resend.bind (fun i => if i - acked.length < x.buf.length - acked.length then some (i - acked.length) else none) }
  if bit ak 15 then startReplay x1 else x1

/-- Symbols in error that a code word of RS(544,514) corrects (R305). -/
def fecLimit : Nat := 15

/-- The FEC counts of the code words that a flit enters (R305, R328), and whether one that carries it is uncorrectable. -/
def takeFec (f : FecSeen) (x : Port) : Bool × Port :=
  let l := f.lane.val
  let lost (n : Nat) : Bool := decide (fecLimit < n)
  let all := f.idle ++ f.errs
  let last := ((f.errs.getLast?).map lost).getD (bit x.fecLast l)
  ((f.shared && bit x.fecLast l) || f.errs.any lost,
   { x with
     fecunc := satAdd x.fecunc (all.filter lost).length
     feccor := satAdd x.feccor (all.filter (fun n => !lost n)).sum
     fecLast := if last then setBit x.fecLast l else clrBit x.fecLast l })

def vzlFlit (p : Nat) (f : Flit) (fec : FecSeen) (s0 : Mach) : Mach :=
  let x := portAt s0 p
  let bs := toBytes 256 f.toNat
  let t := takeFec fec x
  let s := modPort p (fun _ => t.2) s0
  if x.state ≠ 4 ∧ x.state ≠ 6 then s0
  else if t.1 then modPort p oweNak s
  else if (crc32c (bs.take 252)).toNat ≠ numAt bs 252 4 then modPort p (fun x => oweNak { x with crcErr := satInc x.crcErr }) s
  else
    let ks : BitVec 16 := BitVec.ofNat 16 (numAt bs 0 2)
    let body := (bs.drop 8).take 244
    let s1 := modPort p (takeAck (BitVec.ofNat 16 (numAt bs 2 2))) s
    match (fld ks 12 4).toNat with
    | 0 => takePayload p 0 31 body s1
    | 1 =>
      if x.state ≠ 6 then s1
      else if fld ks 0 12 = x.rxSeq then
        takePayload p 1 31 body (modPort p (fun x => { x with rxSeq := x.rxSeq + 1, ackv := true, nakSent := false }) s1)
      else modPort p oweNak s1
    | 2 => if x.state ≠ 6 then s1 else takePayload p 2 31 body s1
    | 3 => takePayload p 3 31 body s1
    | _ => badMsg p (modPort p oweNak s)

def execVzlFlit (port : Fin 64) (f : Flit) (fec : FecSeen) (s : State) : Res := run (vzlFlit port.val f fec) s

end Sys2Proof.Machine
end

