-- ==== Sys2Proof/Machine/P384.lean ====
section
/-! DEFINITION. The verification of ECDSA signatures over the curve P-384 (R510, R511, R520, R576); the curve is that of FIPS 186-4, and the
public key is the two coordinates of its point (PRESUMED, log entry 6). -/

namespace Sys2Proof.Machine

/-- The prime of the field, and the order of the group. -/
def p384 : Nat := 2 ^ 384 - 2 ^ 128 - 2 ^ 96 + 2 ^ 32 - 1
def n384 : Nat := 0xFFFFFFFFFFFFFFFFFFFFFFFFFFFFFFFFFFFFFFFFFFFFFFFFC7634D81F4372DDF581A0DB248B0A77AECEC196ACCC52973

/-- The constant of the curve y² = x³ - 3x + b, and the base point. -/
def b384 : Nat := 0xB3312FA7E23EE7E4988E056BE3F82D19181D9C6EFE8141120314088F5013875AC656398D8A2ED19D2A85C8EDD3EC2AEF
def gx384 : Nat := 0xAA87CA22BE8B05378EB1C71EF320AD746E1D3B628BA79B9859F741E082542A385502F25DBF55296C3A545E3872760AB7
def gy384 : Nat := 0x3617DE4A96262C6F5D9E98BF9292DC29F8F41DBD289A147CE9DA3113B5F0B8C00A60B1CE1D7E819D7A431D7C90EA0E5F

/-- Arithmetic modulo a number, on numbers below it. -/
def addMod (p a b : Nat) : Nat := (a + b) % p
def subMod (p a b : Nat) : Nat := (a + (p - b)) % p
def mulMod (p a b : Nat) : Nat := a * b % p

/-- The bits of an exponent or a factor, the most significant of 384 first. -/
def bits384 (k : Nat) : List Bool := (List.range 384).reverse.map (fun i => k.testBit i)

/-- A power modulo p. -/
def powMod (p a k : Nat) : Nat := (bits384 k).foldl (fun r b => if b then mulMod p (mulMod p r r) a else mulMod p r r) 1

/-- The inverse modulo a prime. -/
def invMod (p a : Nat) : Nat := powMod p a (p - 2)

/-- A point of the curve: x / z² and y / z³, the point at infinity where z is 0. -/
structure Point where
  x : Nat
  y : Nat
  z : Nat
  deriving DecidableEq, Repr

def Point.infinity : Point := ⟨1, 1, 0⟩
def Point.base : Point := ⟨gx384, gy384, 1⟩

/-- Twice a point. -/
def Point.double (q : Point) : Point :=
  let m := mulMod p384
  let d := m q.z q.z
  let g := m q.y q.y
  let b := m q.x g
  let a := m 3 (m (subMod p384 q.x d) (addMod p384 q.x d))
  let x := subMod p384 (m a a) (m 8 b)
  let t := addMod p384 q.y q.z
  ⟨x, subMod p384 (m a (subMod p384 (m 4 b) x)) (m 8 (m g g)), subMod p384 (subMod p384 (m t t) g) d⟩

/-- The sum of two points. -/
def Point.add (q r : Point) : Point :=
  let m := mulMod p384
  if q.z = 0 then r
  else if r.z = 0 then q
  else
    let qz := m q.z q.z
    let rz := m r.z r.z
    let u := m q.x rz
    let v := m q.y (m rz r.z)
    let h := subMod p384 (m r.x qz) u
    let w := subMod p384 (m r.y (m qz q.z)) v
    if h = 0 then (if w = 0 then q.double else .infinity)
    else
      let hh := m h h
      let hc := m h hh
      let x := subMod p384 (subMod p384 (m w w) hc) (m 2 (m u hh))
      ⟨x, subMod p384 (m w (subMod p384 (m u hh) x)) (m v hc), m h (m q.z r.z)⟩

/-- k times a point. -/
def Point.times (k : Nat) (q : Point) : Point :=
  (bits384 k).foldl (fun r b => if b then (r.double).add q else r.double) .infinity

/-- The first coordinate of a point that is not at infinity. -/
def Point.affineX (q : Point) : Nat := mulMod p384 q.x (invMod p384 (mulMod p384 q.z q.z))

/-- The point lies on the curve, with coordinates of the field. -/
def onCurve (x y : Nat) : Bool :=
  decide (x < p384 ∧ y < p384) &&
    mulMod p384 y y == addMod p384 (subMod p384 (mulMod p384 x (mulMod p384 x x)) (mulMod p384 3 x)) b384

/-- A number of 48 bytes, the most significant first (R510). -/
def beNum (bs : List Byte) : Nat := ofBytes (bs.take 48).reverse

/-- A signature over a digest verifies under a public key: PUBKEY is x then y, SIG is r then s (R510). -/
@[irreducible] def ecdsaOk (pubkey : List Byte) (digest : BitVec 384) (sig : List Byte) : Bool :=
  let x := beNum pubkey
  let y := beNum (pubkey.drop 48)
  let r := beNum sig
  let s := beNum (sig.drop 48)
  if decide (1 ≤ r ∧ r < n384 ∧ 1 ≤ s ∧ s < n384) && onCurve x y then
    let w := invMod n384 s
    let q := (Point.base.times (mulMod n384 (beNum (bytesOf digest)) w)).add ((⟨x, y, 1⟩ : Point).times (mulMod n384 r w))
    q.z != 0 && q.affineX % n384 == r
  else false

end Sys2Proof.Machine
end

