-- ==== Sys2Proof/Machine/RegMap.lean ====
section
/-! DEFINITION. Which offsets of BAR0 name a register, and which bits of each have an access of RW, RWS or RWL
(19_register_reference.md, R512). -/

namespace Sys2Proof.Machine

/-- The first of some tables of offset and mask that lists an offset. -/
def inRow (rows : List (Nat × Nat)) (o : Nat) : Option Nat := (rows.find? (fun e => e.1 == o)).map (·.2)

def ctlRw : List (Nat × Nat) := [0x00, 0x04, 0x10, 0x14, 0x18, 0x1C].map (fun o => (o, 0))

def startRw : List (Nat × Nat) := (List.range 8).map (fun i => (4 * i, 0))

def mgmtRw : List (Nat × Nat) :=
  [(0x28, 0xFFFFFFFF), (0x60, 0xFFFF), (0x68, 0x7FFF)] ++
    ([0x00, 0x04, 0x08, 0x0C, 0x10, 0x20, 0x24, 0x2C, 0x30, 0x40, 0x44, 0x48, 0x4C, 0x64, 0x6C, 0x70, 0x74, 0x80].map (fun o => (o, 0)))

def powerRw : List (Nat × Nat) :=
  [(0x14, 0x1FF), (0x40, 0x1F3F)] ++
    ([0x00, 0x04, 0x08, 0x0C, 0x10, 0x18, 0x1C, 0x20, 0x24, 0x28, 0x2C, 0x30, 0x34, 0x38, 0x44, 0x48, 0x4C, 0x50].map (fun o => (o, 0)))

def roundBlkRw : List (Nat × Nat) :=
  [(0x00, 0x7), (0x04, 0xFFFF), (0x08, 0xFFFFFF), (0x0C, 0x03FFFFFF), (0x10, 0xFFFFFFFF), (0x14, 0x000FFFFF), (0x18, 0xFFFFFFFF),
    (0x1C, 0xFFFF), (0x58, 0xFFFFFFFF), (0x5C, 0xFFFFFFFF)] ++
    ([0x20, 0x24, 0x28, 0x2C, 0x30, 0x34, 0x38, 0x40, 0x44, 0x48, 0x4C, 0x50, 0x60].map (fun o => (o, 0)))

def sysRw : List (Nat × Nat) :=
  [(0x00, 0x3), (0x10, 0xFF), (0x14, 0xFFFFFF), (0x40, 0x1)] ++
    ([0x04, 0x08, 0x0C, 0x18, 0x44, 0x48, 0x4C, 0x50, 0x54, 0x58, 0x5C, 0x60, 0x64].map (fun o => (o, 0)))

def maintRw : List (Nat × Nat) := [(0x00, 0x3FF), (0x04, 0)]

def ringRw : List (Nat × Nat) :=
  [(0x00, 0xFFFFFFC0), (0x04, 0xFFFFFFFF), (0x08, 0xF000001F), (0x0C, 0), (0x10, 0xFFFFFFC0), (0x14, 0xFFFFFFFF),
    (0x18, 0xFC1FFFFF), (0x1C, 0), (0x20, 0)]

def hostRw (o : Nat) : Option Nat :=
  if 0x40 ≤ o ∧ o < 0x80 ∧ o % 4 = 0 then some 0x3F
  else if 0x100 ≤ o ∧ o < 0x500 then inRow ringRw ((o - 0x100) % 0x40)
  else inRow [(0x00, 0), (0x04, 0x1F), (0x08, 0), (0x10, 0), (0x14, 0x1FFF)] o

def emcRw (o : Nat) : Option Nat :=
  if 0x100 ≤ o ∧ o < 0x900 ∧ o % 4 = 0 then some (if (o - 0x100) % 0x40 = 0x2C then 0x1F else 0)
  else inRow [(0x00, 0x7FFF), (0x04, 0xF), (0x08, 0), (0x0C, 0), (0x10, 0x1FF), (0x14, 0), (0x18, 0xFF), (0x20, 0x0FC0FF00),
    (0x24, 0xFFFFFFFF), (0x28, 0x1FF)] o

def trnRw (o : Nat) : Option Nat :=
  if 0x100 ≤ o ∧ o < 0x1FC ∧ o % 4 = 0 then some 0x1FFFF
  else if 0x400 ≤ o ∧ o < 0x800 ∧ o % 4 = 0 then some 0
  else inRow [(0x00, 0xFFFFFFFF), (0x04, 0xFFFFFFFF), (0x08, 0xFFFFFFFF), (0x10, 0), (0x14, 0), (0x20, 0x80FFFFFF), (0x24, 0),
    (0x28, 0), (0x2C, 0), (0x30, 0), (0x34, 0)] o

def prtRw (o : Nat) : Option Nat :=
  if 0x100 ≤ o ∧ o < 0x1100 ∧ o % 4 = 0 then some (if (o - 0x100) % 0x40 = 0 then 0xF else 0)
  else if o ≤ 0x10 ∧ o % 4 = 0 then some 0
  else none

def rmtRw (o : Nat) : Option Nat :=
  if 0x24 ≤ o ∧ o < 0x44 ∧ o % 4 = 0 then some 0
  else inRow [(0x00, 0), (0x04, 0xFFF), (0x08, 0), (0x0C, 0), (0x10, 0), (0x14, 0), (0x20, 0x3FF), (0x50, 0x3), (0x54, 0), (0x60, 0),
    (0x64, 0), (0x68, 0), (0x6C, 0), (0x70, 0)] o

def keepRw (o : Nat) : Option Nat :=
  inRow ([0x00, 0x04, 0x08, 0x0C, 0x10, 0x14, 0x20, 0x24, 0x28, 0x2C, 0x30, 0x34, 0x38, 0x3C].map (fun o => (o, 0))) o

def dieRw (o : Nat) : Option Nat :=
  if o % 4 ≠ 0 then none
  else if o < 0x1000 then
    (if o = 0 ∨ (0x10 ≤ o ∧ o < 0x20) ∨ (0x20 ≤ o ∧ o < 0x38) ∨ (0x40 ≤ o ∧ o < 0x5C) then some 0 else none)
  else if o < 0x4400 then some (if (o - 0x1000) % 0x40 = 0x1C then 1 else 0)
  else if 0x5800 ≤ o ∧ o < 0x6000 then some 0
  else if 0x6000 ≤ o ∧ o < 0x601C then some 0
  else if 0x7100 ≤ o ∧ o < 0x7300 then some 0
  else inRow ([(0x5000, 1), (0x7000, 0xFFFF0001), (0x7020, 0x3FF00000), (0x7024, 0xFFFFFFFF), (0x7028, 0xFFFFFFFF),
      (0x702C, 0xFFFFFFFF), (0x7030, 0xFF), (0x8000, 0xFF00), (0x9020, 0xF)] ++
    ([0x5004, 0x7004, 0x7008, 0x700C, 0x7010, 0x7014, 0x7034, 0x8004, 0x8008, 0x800C, 0x8010, 0x8020, 0x8024, 0x8028, 0x802C, 0x9000,
      0x9004, 0x9008, 0x900C, 0x9010, 0x9014, 0x9018, 0x901C, 0x9024, 0x9028, 0x902C, 0x9030].map (fun o => (o, 0)))) o

/-- The RW, RWS and RWL bits of the register at an offset of BAR0; none where no register has it. -/
def rwMask (a : Nat) : Option Nat :=
  if a < 0x1000 then inRow ctlRw a
  else if a < 0x2000 then inRow startRw (a - 0x1000)
  else if a < 0x3000 then inRow mgmtRw (a - 0x2000)
  else if a < 0x4000 then inRow powerRw (a - 0x3000)
  else if a < 0x5000 then inRow roundBlkRw (a - 0x4000)
  else if a < 0x6000 then inRow sysRw (a - 0x5000)
  else if a < 0x7000 then inRow maintRw (a - 0x6000)
  else if 0x10000 ≤ a ∧ a < 0x20000 then hostRw (a - 0x10000)
  else if 0x100000 ≤ a ∧ a < 0x104000 then emcRw (a - 0x100000)
  else if 0x104000 ≤ a ∧ a < 0x108000 then trnRw (a - 0x104000)
  else if 0x108000 ≤ a ∧ a < 0x10C000 then prtRw (a - 0x108000)
  else if 0x10C000 ≤ a ∧ a < 0x10E000 then rmtRw (a - 0x10C000)
  else if 0x10E000 ≤ a ∧ a < 0x110000 then keepRw (a - 0x10E000)
  else if 0x400000 ≤ a ∧ a < 0xD00000 then dieRw ((a - 0x400000) % 0x10000)
  else none

/-- The bits of a register that a write of 1 clears (R584). -/
def w1cMask (a : Nat) : Word :=
  let pick (rows : List (Nat × Word)) (o : Nat) : Word := ((rows.find? (fun e => e.1 == o)).map (·.2)).getD 0
  if 0x10100 ≤ a ∧ a < 0x10500 then pick [(0x20, 0x80000000)] ((a - 0x10100) % 0x40)
  else if 0x104400 ≤ a ∧ a < 0x104800 then pick [(0x00, 0x40000000)] ((a - 0x104400) % 0x20)
  else if 0x108100 ≤ a ∧ a < 0x109100 then pick [(0x20, 0xFF)] ((a - 0x108100) % 0x40)
  else if 0x400000 ≤ a then
    (let o := (a - 0x400000) % 0x10000
     if 0x1000 ≤ o ∧ o < 0x4400 then
       pick [(0x04, 0xA0000000), (0x20, 0x80000000), (0x30, 0x7), (0x38, 0x80000000)] ((o - 0x1000) % 0x40)
     else pick [(0x6008, 0x80000000), (0x6014, 0xC0000000), (0x7004, 0xF), (0x7020, 0x40000000), (0x8000, 0x40000000), (0x8004, 0x1F),
       (0x8020, 0xC0000000), (0x900C, 0x80000000)] o)
  else pick [(0x301C, 0xFFF), (0x4028, 0xFF), (0x5018, 0xF), (0x5048, 0x3), (0x10010, 0x1FFF), (0x100008, 0x3), (0x100014, 0xF),
    (0x100020, 0x40000000), (0x104014, 0x3F), (0x104034, 0x10000), (0x10C060, 0x1FF), (0x10C064, 0xC0000000), (0x10E004, 0xC0000000),
    (0x10E00C, 0x10000)] a

/-- The bits of a register that a read clears (R584). -/
def rcMask (a : Nat) : Word :=
  let pick (rows : List (Nat × Word)) (o : Nat) : Word := ((rows.find? (fun e => e.1 == o)).map (·.2)).getD 0
  let all : Word := 0xFFFFFFFF
  if 0x2040 ≤ a ∧ a < 0x2050 then 0xFFFF
  else if 0x100100 ≤ a ∧ a < 0x100900 then
    pick [(0x08, all), (0x0C, all), (0x10, all), (0x14, 0xFFFF0000), (0x24, all), (0x28, 0xFFFF)] ((a - 0x100100) % 0x40)
  else if 0x104400 ≤ a ∧ a < 0x104800 then pick [(0x04, all)] ((a - 0x104400) % 0x20)
  else if 0x108100 ≤ a ∧ a < 0x109100 then
    pick [(0x24, all), (0x28, all), (0x2C, all), (0x30, all), (0x34, all)] ((a - 0x108100) % 0x40)
  else if 0x400000 ≤ a then
    (let o := (a - 0x400000) % 0x10000
     if 0x1000 ≤ o ∧ o < 0x4400 then pick [(0x1C, 0xFFFF0000), (0x34, all), (0x3C, all)] ((o - 0x1000) % 0x40)
     else pick [(0x600C, all), (0x6018, all), (0x7008, all), (0x700C, 0xFFFF), (0x7010, all), (0x8008, all), (0x800C, all),
       (0x900C, 0xFFFF), (0x9014, 0xFFFF), (0x9018, all)] o)
  else pick [(0x2010, all), (0x3010, 0xFFFF), (0x302C, 0xFFFF), (0x10008, all), (0x10C070, 0xFFFF0000)] a

end Sys2Proof.Machine
end

