-- ==== Sys2Proof/Machine/Sha384.lean ====
section
/-! DEFINITION. SHA-384, which the rules on images, licences, key requests and measurements name (R507, R510, R524, R576); its steps and
constants are those of its standard, FIPS 180-4 (PRESUMED, log entry 6). -/

namespace Sys2Proof.Machine

/-- The round constants: the fractions of the cube roots of the first 80 primes. -/
def shaK0 : List (BitVec 64) :=
  [0x428A2F98D728AE22, 0x7137449123EF65CD, 0xB5C0FBCFEC4D3B2F, 0xE9B5DBA58189DBBC,
    0x3956C25BF348B538, 0x59F111F1B605D019, 0x923F82A4AF194F9B, 0xAB1C5ED5DA6D8118,
    0xD807AA98A3030242, 0x12835B0145706FBE, 0x243185BE4EE4B28C, 0x550C7DC3D5FFB4E2,
    0x72BE5D74F27B896F, 0x80DEB1FE3B1696B1, 0x9BDC06A725C71235, 0xC19BF174CF692694,
    0xE49B69C19EF14AD2, 0xEFBE4786384F25E3, 0x0FC19DC68B8CD5B5, 0x240CA1CC77AC9C65,
    0x2DE92C6F592B0275, 0x4A7484AA6EA6E483, 0x5CB0A9DCBD41FBD4, 0x76F988DA831153B5,
    0x983E5152EE66DFAB, 0xA831C66D2DB43210, 0xB00327C898FB213F, 0xBF597FC7BEEF0EE4,
    0xC6E00BF33DA88FC2, 0xD5A79147930AA725, 0x06CA6351E003826F, 0x142929670A0E6E70,
    0x27B70A8546D22FFC, 0x2E1B21385C26C926, 0x4D2C6DFC5AC42AED, 0x53380D139D95B3DF,
    0x650A73548BAF63DE, 0x766A0ABB3C77B2A8, 0x81C2C92E47EDAEE6, 0x92722C851482353B]

/-- The round constants, from the 41st on. -/
def shaK1 : List (BitVec 64) :=
  [0xA2BFE8A14CF10364, 0xA81A664BBC423001, 0xC24B8B70D0F89791, 0xC76C51A30654BE30,
    0xD192E819D6EF5218, 0xD69906245565A910, 0xF40E35855771202A, 0x106AA07032BBD1B8,
    0x19A4C116B8D2D0C8, 0x1E376C085141AB53, 0x2748774CDF8EEB99, 0x34B0BCB5E19B48A8,
    0x391C0CB3C5C95A63, 0x4ED8AA4AE3418ACB, 0x5B9CCA4F7763E373, 0x682E6FF3D6B2B8A3,
    0x748F82EE5DEFB2FC, 0x78A5636F43172F60, 0x84C87814A1F0AB72, 0x8CC702081A6439EC,
    0x90BEFFFA23631E28, 0xA4506CEBDE82BDE9, 0xBEF9A3F7B2C67915, 0xC67178F2E372532B,
    0xCA273ECEEA26619C, 0xD186B8C721C0C207, 0xEADA7DD6CDE0EB1E, 0xF57D4F7FEE6ED178,
    0x06F067AA72176FBA, 0x0A637DC5A2C898A6, 0x113F9804BEF90DAE, 0x1B710B35131C471B,
    0x28DB77F523047D84, 0x32CAAB7B40C72493, 0x3C9EBE0A15C9BEBC, 0x431D67C49C100D4C,
    0x4CC5D4BECB3E42B6, 0x597F299CFC657E2A, 0x5FCB6FAB3AD6FAEC, 0x6C44198C4A475817]

/-- The initial hash value: the fractions of the square roots of the ninth to the sixteenth prime. -/
def shaInit : List (BitVec 64) :=
  [0xCBBB9D5DC1059ED8, 0x629A292A367CD507, 0x9159015A3070DD17, 0x152FECD8F70E5939,
    0x67332667FFC00B31, 0x8EB44A8768581511, 0xDB0C2E0D64F98FA7, 0x47B5481DBEFA4FA4]

/-- The eight words of a hash value. -/
structure Sha where
  a : BitVec 64
  b : BitVec 64
  c : BitVec 64
  d : BitVec 64
  e : BitVec 64
  f : BitVec 64
  g : BitVec 64
  h : BitVec 64
  deriving DecidableEq, Repr

def Sha.start : Sha :=
  let v (i : Nat) := shaInit.getD i 0
  ⟨v 0, v 1, v 2, v 3, v 4, v 5, v 6, v 7⟩

/-- A word from eight bytes, the most significant first. -/
def beWord (bs : List Byte) : BitVec 64 := BitVec.ofNat 64 (ofBytes (bs.take 8).reverse)

/-- The sixteen words of a block of 128 bytes, the last first. -/
def shaWords (bs : List Byte) : List (BitVec 64) := ((List.range 16).map (fun i => beWord (bs.drop (8 * i)))).reverse

/-- The next word of the message schedule stands before those that it follows from. -/
def shaExtend (ws : List (BitVec 64)) : List (BitVec 64) :=
  let x := ws.getD 1 0
  let y := ws.getD 14 0
  (((x.rotateRight 19 ^^^ x.rotateRight 61 ^^^ x >>> 6) + ws.getD 6 0 + (y.rotateRight 1 ^^^ y.rotateRight 8 ^^^ y >>> 7) + ws.getD 15 0) :: ws)

/-- The 80 words of the message schedule of a block. -/
def shaSchedule (bs : List Byte) : List (BitVec 64) := ((List.range 64).foldl (fun ws _ => shaExtend ws) (shaWords bs)).reverse

/-- One round. -/
def shaRound (s : Sha) (kw : BitVec 64 × BitVec 64) : Sha :=
  let t1 := s.h + (s.e.rotateRight 14 ^^^ s.e.rotateRight 18 ^^^ s.e.rotateRight 41) + (s.e &&& s.f ^^^ ~~~s.e &&& s.g) + kw.1 + kw.2
  let t2 := (s.a.rotateRight 28 ^^^ s.a.rotateRight 34 ^^^ s.a.rotateRight 39) + (s.a &&& s.b ^^^ s.a &&& s.c ^^^ s.b &&& s.c)
  ⟨t1 + t2, s.a, s.b, s.c, s.d + t1, s.e, s.f, s.g⟩

/-- The hash value after a block. -/
def shaBlock (s : Sha) (bs : List Byte) : Sha :=
  let t := ((shaK0 ++ shaK1).zip (shaSchedule bs)).foldl shaRound s
  ⟨s.a + t.a, s.b + t.b, s.c + t.c, s.d + t.d, s.e + t.e, s.f + t.f, s.g + t.g, s.h + t.h⟩

/-- The hash value after n blocks. -/
def shaBlocks : Nat → Sha → List Byte → Sha
  | 0, s, _ => s
  | n + 1, s, bs => shaBlocks n (shaBlock s bs) (bs.drop 128)

/-- A message with its padding: a bit 1, bits 0, and the length in bits in 16 bytes. -/
def shaPad (bs : List Byte) : List Byte :=
  bs ++ 0x80 :: (List.replicate ((239 - bs.length % 128) % 128) 0 ++ (toBytes 16 (8 * bs.length)).reverse)

/-- The bytes of a word, the most significant first. -/
def beBytes (w : BitVec 64) : List Byte := (bytesOf w).reverse

/-- The 48 bytes of a digest, in the order in which the hash produces them. -/
def shaBytes (bs : List Byte) : List Byte :=
  let m := shaPad bs
  let s := shaBlocks (m.length / 128) .start m
  [s.a, s.b, s.c, s.d, s.e, s.f].flatMap beBytes

/-- SHA-384: byte i of the digest stands in bits 8i + 7 to 8i (R510). -/
@[irreducible] def sha384 (bs : List Byte) : BitVec 384 := BitVec.ofNat 384 (ofBytes (shaBytes bs))

end Sys2Proof.Machine
end

