-- ==== Sys2Proof/Machine/Images.lean ====
section
/-! DEFINITION. The upsett image, its slots, the licences and the key requests: what is valid and what it holds
(16_upsett_and_startup.md, R576). -/

namespace Sys2Proof.Machine

/-- A slice of some bytes. -/
def slice (bs : List Byte) (off n : Nat) : List Byte := (bs.drop off).take n

def zeros (bs : List Byte) (off n : Nat) : Bool := (slice bs off n).all (· == 0)

/-! ### Keys (R511, R526) -/

/-- The image key whose hash a public key has: programmed, and not revoked. -/
def keyOf (x : Start) (pub : List Byte) : Option Nat :=
  (List.range 4).find? (fun i => bit x.programmed i && !bit x.revoked i && tget 0 x.ikey i == sha384 pub)

/-! ### The image (R507 to R515) -/

/-- An upsett image as it lies in its slot. -/
abbrev Upsett := List Byte

def upLen (u : Upsett) : Nat := numAt u 20 4
def upVersion (u : Upsett) : Nat := numAt u 4 2
def upSeq (u : Upsett) : Nat := numAt u 8 8
def upSvn (u : Upsett) : Nat := numAt u 16 1
def upPub (u : Upsett) : List Byte := slice u 44 96
/-- The bytes that the signature covers. -/
def upBody (u : Upsett) : List Byte := u.take (upLen u - 96)

/-- A section: type, offset and length (R508). -/
structure Sect where
  type : Nat
  off : Nat
  len : Nat
  deriving DecidableEq, Repr

def sections (u : Upsett) : List Sect :=
  (List.range (numAt u 6 2)).map (fun i => ⟨numAt u (256 + 16 * i) 2, numAt u (260 + 16 * i) 4, numAt u (264 + 16 * i) 4⟩)

/-- The bytes of a section. -/
def sectBytes (u : Upsett) (x : Sect) : List Byte := slice u x.off x.len

/-- The sections of a type, in directory order. -/
def sectsOf (u : Upsett) (t : Nat) : List (List Byte) := ((sections u).filter (fun x => x.type == t)).map (sectBytes u)

/-- MAGIC and VERSION (R517). -/
def upMagic (u : Upsett) : Bool := numAt u 0 4 == 0x5A555053 && (upVersion u == 1 || upVersion u == 2)

/-- The header (R507). -/
def headerValid (u : Upsett) : Bool :=
  let n := upLen u
  upMagic u && decide (1 ≤ numAt u 6 2 ∧ numAt u 6 2 ≤ 64) && decide (upSvn u ≤ 64) && decide (numAt u 17 1 < 2) && zeros u 18 2 &&
    n % 16 == 0 && decide (624 ≤ n ∧ n ≤ 0x4000000) && decide (n ≤ u.length) && numAt u 24 2 == 0x0096 && decide (numAt u 26 1 ≤ 2) &&
    zeros u 27 1 && zeros u 140 116

/-- The directory (R508, R509). -/
def directoryValid (u : Upsett) : Bool :=
  let xs := sections u
  let one (t : Nat) := decide ((xs.filter (fun x => x.type == t)).length ≤ 1)
  (List.range (numAt u 6 2)).all (fun i => zeros u (258 + 16 * i) 2 && zeros u (268 + 16 * i) 4) &&
    xs.all (fun x => (if upVersion u = 1 then [1, 2, 3] else [1, 2, 3, 4, 5]).contains x.type && x.off % 16 == 0 &&
      decide (256 + 16 * xs.length ≤ x.off ∧ x.off + x.len ≤ upLen u - 96)) &&
    (xs.zipIdx).all (fun a => (xs.zipIdx).all (fun b => a.2 == b.2 ||
      !decide (0 < a.1.len ∧ 0 < b.1.len ∧ a.1.off < b.1.off + b.1.len ∧ b.1.off < a.1.off + a.1.len))) &&
    one 2 && one 4 && one 5

/-- The entries of a SETTINGS section: offset, mask and value (R512). -/
def settings (bs : List Byte) : List (Nat × Nat × Nat) :=
  (List.range (bs.length / 12)).map (fun i => (numAt bs (12 * i) 4, numAt bs (12 * i + 4) 4, numAt bs (12 * i + 8) 4))

def settingsValid (bs : List Byte) : Bool :=
  bs.length % 12 == 0 && (settings bs).all (fun e =>
    match rwMask e.1 with
    | some m => e.2.1 &&& m == e.2.1 && e.2.2 &&& e.2.1 == e.2.2
    | none => false)

def vlogOk (v : Nat) : Bool := decide (240 ≤ v ∧ v ≤ 340)
def varrOk (v : Nat) : Bool := decide (280 ≤ v ∧ v ≤ 340)

/-- A VOLTAGE section (R513): VLOG_START, VLOG_RUN, VARR_START, VARR_RUN. -/
def voltageValid (bs : List Byte) : Bool :=
  let v (i : Nat) := numAt bs (2 * i) 2
  bs.length == 16 && vlogOk (v 0) && vlogOk (v 1) && varrOk (v 2) && varrOk (v 3) && decide (v 0 ≤ v 2 ∧ v 1 ≤ v 3) && zeros bs 8 8

/-- The entries of a DIEVOLT section: die, VLOG_RUN, VARR_RUN (R514). -/
def dieVolts (bs : List Byte) : List (Nat × Nat × Nat) :=
  (List.range (bs.length / 8)).map (fun i => (numAt bs (8 * i) 1, numAt bs (8 * i + 2) 2, numAt bs (8 * i + 4) 2))

def dieVoltValid (bs : List Byte) : Bool :=
  let es := dieVolts bs
  bs.length % 8 == 0 && (List.range es.length).all (fun i => zeros bs (8 * i + 1) 1 && zeros bs (8 * i + 6) 2) &&
    es.all (fun e => decide (e.1 < 144) && vlogOk e.2.1 && varrOk e.2.2 && decide (e.2.1 ≤ e.2.2)) &&
    decide (es.map (·.1)).Nodup

/-- A PATCHES section (R515). -/
def patchesValid (bs : List Byte) : Bool :=
  let n := numAt bs 4 2
  let code := numAt bs 8 4
  let rom (i : Nat) := numAt bs (16 + 8 * i) 4
  decide (16 ≤ bs.length) && decide (1 ≤ n ∧ n ≤ 64) && decide (code ≤ 65536) && zeros bs 6 2 && zeros bs 12 4 &&
    bs.length == 16 + 8 * n + code &&
    (List.range n).all (fun i => rom i % 4 == 0 && decide (rom i < 0x40000) && numAt bs (20 + 8 * i) 4 % 4 == 0 &&
      decide (numAt bs (20 + 8 * i) 4 < code)) &&
    decide ((List.range n).map rom).Nodup

/-- Every section meets its own rules, and no two PATCHES serve one ROM version (R509). -/
def sectionsValid (u : Upsett) : Bool :=
  (sectsOf u 1).all settingsValid && (sectsOf u 2).all voltageValid && (sectsOf u 3).all patchesValid &&
    decide ((sectsOf u 3).map (fun b => numAt b 0 4)).Nodup && (sectsOf u 4).all dieVoltValid &&
    (sectsOf u 5).all (fun b => decide (b.length ≤ 65536))

/-- The signer of an image that is valid (R511). -/
def imageSigner (x : Start) (u : Upsett) : Option Nat :=
  if headerValid u && directoryValid u && sectionsValid u && decide (x.fused.toNat ≤ upSvn u) &&
      ecdsaOk (upPub u) (sha384 (upBody u)) (slice u (upLen u - 96) 96) then keyOf x (upPub u)
  else none

/-- The PATCHES section that serves this ROM (R515). -/
def ownPatches (u : Upsett) : Option (List Byte) :=
  (sectsOf u 3).find? (fun b => numAt b 0 4 == (fld Config.romVersion 8 8).toNat * 65536 + (fld Config.romVersion 0 8).toNat)

/-- The entries of a PATCHES section as the patch slots hold them, and its code. -/
def patchEntries (b : List Byte) : List (BitVec 18 × BitVec 16) :=
  (List.range (numAt b 4 2)).map (fun i => (BitVec.ofNat 18 (numAt b (16 + 8 * i) 4), BitVec.ofNat 16 (numAt b (20 + 8 * i) 4)))
def patchText (b : List Byte) : List Byte := slice b (16 + 8 * numAt b 4 2) (numAt b 8 4)

/-- Where Decnus takes an instruction from: its ROM, or the patch region of its SRAM. -/
inductive CodeAt where
  | rom (addr : BitVec 18)
  | patch (offset : BitVec 16)
  deriving DecidableEq, Repr

/-- A fetch at an address of the ROM executes the code at TARGET where a slot holds that address (R515). -/
def romFetch (x : Start) (a : BitVec 18) : CodeAt :=
  match x.patchSlots.find? (fun e => e.1 == a) with
  | some e => .patch e.2
  | none => .rom a

/-! ### Slots (R517, R518) -/

def slotImage (x : Start) (i : Bool) : Option Upsett := if i then x.slot1 else x.slot0
def attempts (x : Start) (i : Bool) : BitVec 2 := if i then x.attempt1 else x.attempt0

/-- The candidates in the order in which they are tried. -/
def candidates (x : Start) : List (Bool × Upsett) :=
  let cs := [false, true].filterMap (fun i => (slotImage x i).map (fun u => (i, u)))
  let cs := match cs with
    | [a, b] => if upSeq a.2 < upSeq b.2 then [b, a] else [a, b]
    | l => l
  cs.filter (fun c => upMagic c.2 && attempts x c.1 != 2)

/-- The slot, the image and the signer that the start uses. -/
def chooseImage (x : Start) : Option (Bool × Upsett × Nat) :=
  (candidates x).findSome? (fun c => (imageSigner x c.2).map (fun k => (c.1, c.2, k)))

/-- The other slot holds a valid image. -/
def altIsValid (x : Start) (i : Bool) : Bool :=
  match slotImage x (!i) with | some u => (imageSigner x u).isSome | none => false

/-! ### Licences (R519, R520) -/

def licId (l : List Byte) : Nat := numAt l 20 4
def licFeatures (l : List Byte) : BitVec 5 := BitVec.ofNat 5 (numAt l 16 4)

def licenceValid (x : Start) (l : List Byte) : Bool :=
  numAt l 0 4 == 0x5A4C4943 && numAt l 4 2 == 1 && zeros l 6 2 && numAt l 8 8 == x.serial.toNat && decide (numAt l 16 4 < 32) &&
    zeros l 30 2 && zeros l 32 32 && ecdsaOk Config.licenceKey (sha384 (l.take 64)) (slice l 64 96)

/-- Every stored licence, the store of CF0 first. -/
def storedLicences (x : Start) : List (List Byte) := (x.lic0 ++ x.lic1).map (·.2)

/-- A licence takes its place in ascending LICID; a second copy is dropped. -/
def insertLic (l : List Byte) : List (List Byte) → List (List Byte)
  | [] => [l]
  | a :: t => if a = l then a :: t else if licId l < licId a then l :: a :: t else a :: insertLic l t

/-- Every valid stored licence, one copy each, in ascending LICID. -/
def validLicences (x : Start) : List (List Byte) :=
  ((storedLicences x).filter (licenceValid x)).foldr insertLic []

/-- The features of all valid stored licences. -/
def storedFeatures (x : Start) : BitVec 5 := (validLicences x).foldl (fun f l => f ||| licFeatures l) 0

/-- The lowest entry that is empty in both stores (R521). -/
def emptyEntry (x : Start) : Option Nat :=
  (List.range 256).find? (fun i => !x.lic0.any (fun e => e.1 == i) && !x.lic1.any (fun e => e.1 == i))

/-! ### Key requests (R576) -/

def keyAction (r : List Byte) : Nat := numAt r 12 1
def keyIndex (r : List Byte) : Nat := numAt r 13 1

/-- The module accepts a key request. -/
def keyRequestOk (x : Start) (r : List Byte) : Bool :=
  let i := keyIndex r
  let left := (List.range 4).filter (fun k => bit x.programmed k && !bit x.revoked k && k != i)
  match keyOf x (slice r 64 96) with
  | none => false
  | some signer =>
    numAt r 0 4 == 0x5A4B4655 && numAt r 4 8 == x.serial.toNat && zeros r 14 2 &&
      ecdsaOk (slice r 64 96) (sha384 (r.take 160)) (slice r 160 96) &&
      (match keyAction r with
       | 1 => decide (1 ≤ i ∧ i ≤ 3) && !bit x.programmed i
       | 2 => decide (i ≤ 3) && i != signer && !left.isEmpty
       | _ => false)

end Sys2Proof.Machine
end

