-- ==== Sys2Proof/Machine/Flash.lean ====
section
/-! DEFINITION. Writes of the configuration flash and of the fuses: licences, key requests and image updates, and the
end of a write sequence (16_upsett_and_startup.md, R490, R553, R576). -/

namespace Sys2Proof.Machine

/-! ### What a sequence writes -/

/-- A LICENCE record (R540): bit 0 installed, bit 1 invalid. -/
def licRecord (l : List Byte) (flags : Nat) : Mach → Mach :=
  logModule 0x62 0 (toBytes 4 (licId l) ++ toBytes 4 (numAt l 16 4) ++ toBytes 1 flags)

/-- VALID counts the licences that are stored and valid (R527). -/
def countLicences (x : Start) : Start := { x with licValid := BitVec.ofNat 8 (min 255 (validLicences x).length) }

/-- A licence goes into an entry of the first store, and then of the second (R521). -/
def storeFirst (i : Nat) (l : List Byte) : Mach → Mach := modStart (fun x => countLicences { x with lic0 := tput x.lic0 i l })
def storeSecond (i : Nat) (l : List Byte) (s : Mach) : Mach :=
  licRecord l 1 (modStart (fun x => countLicences { x with lic1 := tput x.lic1 i l }) s)

/-- The sequence that writes a licence into a store: one page and its end (R490, R521). -/
def licenceSeq (second : Option Nat) (l : List Byte) (o : Owed) : WSeq := { kind := .licence second l o, cost := seqCost 1 0 }

/-- The first copy of a licence stands: the second is asked for. -/
def licenceStored (l : List Byte) (o : Owed) (s : Mach) : Mach :=
  match emptyEntry s.start with
  | none => complete o 0x0D 0 s
  | some i => requestSeq (licenceSeq (some i) l o) (storeFirst i l s)

/-- The image in a slot is valid (R511). -/
def slotValid (s : Mach) (slot : Bool) : Bool :=
  match slotImage s.start slot with | some u => (imageSigner s.start u).isSome | none => false

/-- An image goes into the slot that is not in use; its FW_UPDATE record says whether it is valid (R550, R553). -/
def storeImage (slot : Bool) (u : List Byte) (s : Mach) : Mach :=
  let s1 := modStart (fun x => if slot then { x with slot1 := some u } else { x with slot0 := some u }) s
  let ok := slotValid s1 slot
  logModule 0x63 0 (toBytes 1 (if slot then 1 else 0) ++ toBytes 8 (upSeq u) ++ toBytes 1 (if ok then 0 else 1))
    (modStart (fun x => { x with altValid := ok }) s1)

/-- The fuses of an accepted key request are blown (R576). -/
def blowFuse (r : List Byte) (s : Mach) : Mach :=
  let i := keyIndex r
  if keyAction r = 1 then
    modStart (fun x => { x with programmed := setBit x.programmed i, ikey := tset 0 x.ikey i (BitVec.ofNat 384 (numAt r 16 48)) }) s
  else modStart (fun x => { x with revoked := setBit x.revoked i }) s

/-- VerifyComplete and ApplyComplete, which the module sends (R550, R553). -/
def sayUpdate (command code : Nat) : Mach → Mach :=
  emit (.reply { group := 0x15, command := BitVec.ofNat 8 command, code := BitVec.ofNat 8 code, data := [] })

/-- The bytes of an erase block, which a write sequence of an image fills (R490, R535). -/
def eraseBytes : Nat := 65536

/-- The blocks of an image, and the block that a sequence with `left` more behind it writes. -/
def imageBlocks (u : List Byte) : Nat := ceilDiv u.length eraseBytes
def blockStart (u : List Byte) (left : Nat) : Nat := eraseBytes * (imageBlocks u - 1 - left)

/-- The sequence of one block: its erase, and its pages (R490, R553; DESIGN CHOICE, log entry 25: an image is written block by block). -/
def imageSeq (slot : Bool) (u : List Byte) (left : Nat) (o : Option Owed) : WSeq :=
  { kind := .image slot u left o, cost := seqCost (min 256 (ceilDiv (u.length - blockStart u left) 256)) 1 }

/-- A block of an image is written: the slot holds the new bytes up to its end and the old ones behind it, and the next block is asked for;
an update that was cancelled goes no further. -/
def imageBlock (slot : Bool) (u : List Byte) (left : Nat) (o : Option Owed) (s : Mach) : Mach :=
  let n := blockStart u left
  let mix (old : Option (List Byte)) : Option (List Byte) := some (u.take n ++ (old.getD []).drop n)
  let s1 := modStart (fun x => if slot then { x with slot1 := mix x.slot1 } else { x with slot0 := mix x.slot0 }) s
  let s2 := modStart (fun x => { x with altValid := slotValid s1 slot }) s1
  if s.cradle.upd.isSome then requestSeq (imageSeq slot u left o) s2 else s2

/-- The last block of an image is written (R550, R553). -/
def imageStored (slot : Bool) (u : List Byte) (o : Option Owed) (s : Mach) : Mach :=
  let s1 := storeImage slot u s
  let ok := slotValid s1 slot
  match o with
  | some o => complete o (if ok then 0x00 else 0x0D) 0 (modCradle (fun c => { c with upd := none }) s1)
  | none =>
    let s2 := sayUpdate 0x17 (if ok then 0 else 1)
      (modCradle (fun c => { c with upd := c.upd.map (fun x => { x with stage := if ok then .complete else .failed }) }) s1)
    if ok then sayUpdate 0x18 0 s2 else s2

/-- What a sequence leaves when it ends. -/
def seqResult (k : WKind) (s : Mach) : Mach :=
  match k with
  | .ledger => s
  | .licence none l o => licenceStored l o s
  | .licence (some i) l o => complete o 0x00 0 (storeSecond i l s)
  | .fuse r o => complete o 0x00 0 (blowFuse r s)
  | .image slot u 0 o => imageStored slot u o s
  | .image slot u (n + 1) o => imageBlock slot u n o s

/-- R537: the sequence of a record ends with COMMIT erased, so its read-back has failed: the record stays where it is, and it
is written again at the next page, in a sequence of its own and under the next SEQ (DESIGN CHOICE, log entry 46). -/
def writeAgain (r : LedRec) (s : Mach) : Mach :=
  let n := evLen r.ev
  let p := planWrite s.start.serial n s.led
  let r1 : LedRec := { r with seq := p.1.nextSeq, block := p.1.wblock.toNat, offset := p.1.woff }
  requestSeq { kind := .ledger, cost := seqCost (n / 256 + 1 + p.2.1) p.2.2 } (modLed (fun l => { l with inFlight := some r1 }) s)

/-- A step of the start fails (R523). -/
def startFail (code : Nat) (state : BitVec 4) (s : Mach) : Mach :=
  raiseIrq 1 (logModule 0x4 0 (toBytes 1 code) (modStart (fun x => { x with fail := BitVec.ofNat 8 code, state := state }) s))

/-- The record of a new epoch was written again and failed again in step 6 of a start: it cannot be written (R523; DESIGN CHOICE, log
entry 46). -/
def epochLost (r : LedRec) (s : Mach) : Bool :=
  s.start.state == 2 && r.ev.cls == 0x2 && s.led.flash.any (fun q => !q.valid && q.seq != r.seq && q.ev == r.ev)

/-- The start ends without its epoch: ports stay DARK, and the domains go off in order (R523). -/
def epochFail (s : Mach) : Mach :=
  beginDown .stay (startFail 3 9 (modLed (fun l => { l with inFlight := none }) s))

/-- What a sequence that ended leaves: its result, or, for a record that is not committed, the record written again. -/
def seqEnded (w : WSeq) (s : Mach) : Mach :=
  match w.kind, s.led.inFlight with
  | .ledger, some r => if epochLost r s then epochFail s else writeAgain r s
  | k, _ => seqResult k s

/-- A running sequence ends: the oldest whose work is done, or else the one of the record that is not committed; a deferred
recalibration follows the last one (R488). -/
def writeSequenceEnd (s : Mach) : Mach :=
  match (s.pwr.running.find? (fun w => w.kind != .ledger || s.led.inFlight.isNone)).or s.pwr.running.head? with
  | none => s
  | some w =>
    let s1 := seqEnded w (modPwr (fun p => { p with running := p.running.erase w }) s)
    match s1.pwr.running, s1.pwr.recal with
    | [], some e => recalibrate e s1
    | _, _ => s1

def execWriteSequenceEnd (s : State) : Res := run writeSequenceEnd s

/-! ### The commands (R573) -/

def licenceInstall (q : Nat) (d : Desc) (data : Option (List Byte)) : Mach → Mach :=
  startCmd q d (cB d 0 1 == 0x59) [(16, 8)] (fun o s =>
    if cB d 16 8 % 64 ≠ 0 then complete o 0x02 0 s
    else
      match data with
      | none => complete o 0x0E 0 s
      | some l =>
        if !licenceValid s.start l || (storedLicences s.start).any (fun x => licId x == licId l) || (emptyEntry s.start).isNone then
          complete o 0x0D 0 s
        else requestSeq (licenceSeq none l o) s)

def execLicenceInstall (q : Fin 16) (d : Desc) (data : Option (List Byte)) (s : State) : Res :=
  runIf (hostData 160 data) (licenceInstall q.val d data) s

/-- KEY_FUSE, for the requests that `mine` selects. -/
def keyFuse (q : Nat) (d : Desc) (data : Option (List Byte)) (mine : Bool) : Mach → Mach :=
  startCmd q d (cB d 0 1 == 0x5A && mine) [(16, 8)] (fun o s =>
    if cB d 16 8 % 64 ≠ 0 then complete o 0x02 0 s
    else
      match data with
      | none => complete o 0x0E 0 s
      | some r =>
        if !keyRequestOk s.start r then complete o 0x0D 0 s
        else requestSeq { kind := .fuse r o, cost := seqCost 1 0 } s)

/-- The request asks to revoke a key. -/
def asksRevoke (data : Option (List Byte)) : Bool := match data with | some r => keyAction r == 2 | none => false

def execKeyFuseProgram (q : Fin 16) (d : Desc) (data : Option (List Byte)) (s : State) : Res :=
  runIf (hostData 256 data) (keyFuse q.val d data (!asksRevoke data)) s

def execKeyFuseRevoke (q : Fin 16) (d : Desc) (data : Option (List Byte)) (s : State) : Res :=
  runIf (hostData 256 data) (keyFuse q.val d data (asksRevoke data)) s

/-- The first sequence of an image for the slot that is not in use. -/
def firstBlock (s : Mach) (u : List Byte) (o : Option Owed) : WSeq := imageSeq (!s.start.slot) u (imageBlocks u - 1) o

def fwUpdate (q : Nat) (d : Desc) (data : Option (List Byte)) : Mach → Mach :=
  startCmd q d (cB d 0 1 == 0x5B) [(16, 12)] (fun o s =>
    let n := cB d 24 4
    if cB d 16 8 % 64 ≠ 0 ∨ n = 0 ∨ 0x4000000 < n then complete o 0x02 0 s
    else if s.cradle.upd.isSome then complete o 0x09 0 s
    else
      match data with
      | none => complete o 0x0E 0 s
      | some u =>
        requestSeq (firstBlock s u (some o)) (modCradle (fun c => { c with
          upd := some { host := true, stage := .transfer, slot := !s.start.slot, length := n, data := [] } }) s))

def execFwUpdate (q : Fin 16) (d : Desc) (data : Option (List Byte)) (s : State) : Res :=
  runIf (hostData (descNum d 24 4) data) (fwUpdate q.val d data) s

end Sys2Proof.Machine
end

