-- ==== Sys2Proof/Machine/Maps.lean ====
section
/-! DEFINITION. The core maps: the dead sets, the column suspects and the rebuild of R20 (01_warp_and_weft.md,
12_stored_data_protection.md, 13_result_checking.md, R522, R539). -/

namespace Sys2Proof.Machine

/-! ### The rebuild (R20) -/

/-- Column `col` after a rebuild: its excluded row and the logical rows that are absent. `sp` and `ab` are its rows before
(15 none, 14 all), and `dead` says which physical cores are in the dead set. -/
def rebuildColumn (dead : Nat → Bool) (sp ab col : Nat) : Nat × List Nat :=
  let kept := if ab = 15 then [] else [ab]
  let serves (r : Nat) := match logicalRow sp r with | some l => l != ab && ab != 14 | none => false
  match (List.range 13).filter (fun r => dead (16 * r + col) && serves r) with
  | [] => (sp, kept)
  | r :: rest =>
    if sp = 12 ∧ !dead (192 + col) then (r, kept ++ rest.filterMap (logicalRow r))
    else (sp, kept ++ (r :: rest).filterMap (logicalRow sp))

/-- Four bits a column (R43, R44). -/
def nibbles (f : Nat → Nat) : BitVec 64 := BitVec.ofNat 64 ((List.range 16).foldl (fun n c => n + f c % 16 * 16 ^ c) 0)

/-- A die's map after a rebuild; a column with two absent rows makes it failed. -/
def rebuildDie (dead : Nat → Bool) (fail : Bool) (d : Die) : Die :=
  let cols := (List.range 16).map (fun c => rebuildColumn dead (spareRow d c) (absentRow d c) c)
  let failed := d.failed || fail || cols.any (fun x => decide (2 ≤ x.2.length))
  { d with
    spare := nibbles (fun c => (cols.getD c (12, [])).1)
    absent := if failed then 0xEEEEEEEEEEEEEEEE else nibbles (fun c => (cols.getD c (12, [])).2.headD 15)
    failed := failed }

/-- A physical core of a die that the repair map records as dead (R539). -/
def mapDead (l : Ledger) (die pc : Nat) : Bool := l.repair.any (fun r => r.die.toNat == die && r.sub == 0xFF && r.pc.toNat == pc)

/-- The repair map records the die as failed. -/
def mapFailed (l : Ledger) (die : Nat) : Bool := mapDead l die 0xFF

/-- The entries of a die after a rebuild (R539). -/
def dieEntries (s : Mach) (die : Nat) : List Repair :=
  let d := dieAt s die
  let old := s.led.repair.filter (fun r => r.die.toNat == die)
  let entry (pc : Byte) : Repair := { die := BitVec.ofNat 8 die, pc := pc, sub := 0xFF, spare := false, col := 0 }
  if d.failed then [entry 0xFF]
  else old ++ ((List.range 208).filter (fun pc => bit d.dead pc && !mapDead s.led die pc)).map (fun pc => entry (BitVec.ofNat 8 pc))

/-- A die has something to rebuild: a core marked dead, a failure, or a dead core of the repair map. -/
def needsRebuild (s : Mach) (die : Nat) : Bool :=
  (dieAt s die).dead != 0 || s.pwr.dieFail.contains die || s.led.repair.any (fun r => r.die.toNat == die && r.sub == 0xFF)

/-- The map of one die is rebuilt. -/
def rebuildMap (die : Nat) (s : Mach) : Mach :=
  if !needsRebuild s die then s
  else
    let d0 := (dieAt s die).dead
    modDie die (rebuildDie (fun pc => bit d0 pc || mapDead s.led die pc) (s.pwr.dieFail.contains die || mapFailed s.led die)) s

/-! ### Suspects (R401, R426) -/

def markDead (k : Nat) (s : Mach) : Mach := modDie (dieOf k) (fun d => { d with dead := setBit d.dead (pcOf k) }) s

/-- A pending suspect takes the lowest free spare of its sub-array, or its core is marked dead. -/
def useSpare (die : Nat) (x : Suspect) (s : Mach) : Mach :=
  match freeSpareOf die (spares s die) x with
  | none => markDead (die * 208 + x.pc.toNat) s
  | some r => modLed (fun l => { l with repair := l.repair ++ [r] }) s

/-- The pending list of a die is handled and cleared. -/
def applySuspects (die : Nat) (s : Mach) : Mach :=
  let p := (dieAt s die).prot
  if p.pend.isEmpty && p.overflow.isEmpty then s
  else
    let s1 := p.pend.foldl (fun s x => useSpare die x s) s
    let s2 := p.overflow.foldl (fun s pc => markDead (die * 208 + pc.toNat) s) s1
    modDie die (fun d => { d with prot := { d.prot with pend := [], overflow := [] } }) s2

/-! ### All dies -/

/-- DIE_SPARE0, DIE_SPARE1, DIE_ABSENT0 and DIE_ABSENT1 of dies 0 to 143. -/
def mapBytes (s : Mach) : List Byte :=
  (List.range 144).flatMap (fun d => bytesOf (dieAt s d).spare ++ bytesOf (dieAt s d).absent)

/-- Measurement 8 (R524). -/
def measureMap (s : Mach) : Mach := modStart (fun x => { x with meas := tset 0 x.meas 8 (sha384 (mapBytes s)) }) s

/-- The rebuild of every die: the cores that failed their known-answer test and those that a verdict retired join the dead
sets, suspects take their spares, and the maps and the repair map go to the ledger. -/
def rebuildAll (katFail : List Nat) (s : Mach) : Mach :=
  let retired := (s.cores.filter (fun e => e.2.retired)).map (·.1)
  let s1 := (katFail ++ retired).foldl (fun s k => markDead k s) s
  let s2 := iter 144 rebuildMap (iter 144 applySuspects s1)
  let s3 := modLed (fun l => { l with repair := (List.range 144).flatMap (dieEntries s2) }) s2
  let s4 := iter 144 (fun d s => modDie d (fun x => { x with dead := 0 }) s) s3
  measureMap (logModule 0x10 0 (mapBytes s4) (logRepair (modPwr (fun p => { p with dieFail := [] }) s4)))

end Sys2Proof.Machine
end

