-- ==== Sys2Proof/Machine/Protect.lean ====
section
/-! DEFINITION. Protection of a die's arrays: scrubbing, the error log, the checker test and the known-answer test
(12_stored_data_protection.md, 13_result_checking.md). -/

namespace Sys2Proof.Machine

/-! ### Scrubbing (R392, R407) -/

/-- The scrubber's number of an array: 0 to 15 the wide banks, 16 narrow, 17 instruction memory. -/
def scrubIdx : ScrubArr → Nat
  | .wide b => b.val
  | .narrow => 16
  | .imem => 17

/-- Reads of a full pass of a scrubber. -/
def scrubCount (i : Nat) : Nat := if i < 16 then 1472 else if i = 16 then 8192 else 4096

/-- The array code, the address, the code word size and the number of code words of a scrub read. -/
def scrubPlace (i n : Nat) : Nat × Nat × Nat × Nat :=
  if i < 16 then (1, rowAddr (16 * n + i), 8, 8) else if i = 16 then (0, 8 * n, 1, 8) else (2, 4 * n, 4, 1)

/-- The die's maintenance token is held. -/
def dieTokenHeld (s : Mach) (die : Nat) : Bool := (holderOf s.mnt.acts (tokDie die)).isSome

def scrubRead (k i : Nat) (s : Mach) : Mach :=
  let c := coreAt s k
  if !present s k || !(dieAt s (dieOf k)).prot.scrub || dieTokenHeld s (dieOf k) then s
  else
    let n := tget 0 c.scrubAt i
    let (arr, a, sz, cnt) := scrubPlace i n
    let es := (List.range cnt).flatMap (fun j => (readWord c arr (a + sz * j)).2)
    logErrs k 6 es (modCore k (fun c => { c with
      scrubAt := tset 0 c.scrubAt i ((n + 1) % scrubCount i)
      scrubWb := if es.any (fun e => !e.ue) then tmod [] c.scrubWb i (fun l => l.filter (· != a) ++ [a]) else c.scrubWb }) s)

def execScrubRead (id : CoreId) (arr : ScrubArr) (s : State) : Res := run (scrubRead id.key (scrubIdx arr)) s

/-- Write a correctable code word back corrected. -/
def fixWord (arr : Nat) (c : Core) (a : Nat) : Core :=
  match readWord c arr a with
  | (v, [e]) =>
    if e.ue then c
    else if arr = 2 then { c with imem := wrBytes c.imem a (toBytes 4 v), synd := tdel c.synd (imemKey (a / 4)) }
    else { c with sp := wrBytes c.sp a (toBytes (if arr = 0 then 1 else 8) v), synd := tdel c.synd a }
  | _ => c

/-- The oldest corrected row or word of an array is written back, unless the die's token is held (R407); the scratchpad of a dead
core takes no write (R27). -/
def scrubWriteback (k i : Nat) (s : Mach) : Mach :=
  match tget [] (coreAt s k).scrubWb i with
  | [] => s
  | a :: rest =>
    if dieTokenHeld s (dieOf k) then s
    else
      let (arr, _, sz, cnt) := scrubPlace i 0
      modCore k (fun c =>
        let c1 := if dead s k && i < 17 then c else (List.range cnt).foldl (fun c j => fixWord arr c (a + sz * j)) c
        { c1 with scrubWb := tset [] c1.scrubWb i rest }) s

def execScrubWriteback (id : CoreId) (arr : ScrubArr) (s : State) : Res :=
  run (scrubWriteback id.key (scrubIdx arr)) s

/-! ### The log and PROT_CTRL (R396, R409) -/

/-- The log of a die after a clear: the errors of this cycle reach it behind the clear (R396). -/
def clearedLog (s : Mach) (die : Nat) (p : Prot) : List (Nat × LogEntry) :=
  ((s.notes.cores.filter (fun e => e.1 == die)).foldl (fun q e => (logEntry e.2 q).1) { p with log := [] }).log

/-- A write of PROT_CTRL: LOGCLR clears the log. -/
def protCtrl (die : Nat) (v : Word) (s : Mach) : Mach :=
  modDie die (fun d => { d with prot := { d.prot with
    gap := fld v 16 16, scrub := bit v 0, log := if bit v 1 then clearedLog s die d.prot else d.prot.log } }) s

def execLogclr (die : Fin 144) (v : Word) (s : State) : Res :=
  runAccess (0x407000 + 0x10000 * die.val) (protCtrl die.val (v ||| 2)) s

/-! ### The checker test (R403, R410) -/

def modProt (die : Nat) (f : Prot → Prot) (s : Mach) : Mach := modDie die (fun d => { d with prot := f d.prot }) s

/-- The code word of an array at a local address: its aligned address, none where the array has none. -/
def chkWord (arr a : Nat) : Option Nat :=
  match arr with
  | 0 => if inNarrow a then some a else none
  | 1 => if inWide a then some (a / 8 * 8) else none
  | 2 => if a < 0x4000 then some (a / 4 * 4) else none
  | _ => none

/-- A write of CHK_CTRL with an operation: `op` acts on core key, array and code word address. -/
def coreChk (die : Nat) (v : Word) (op : Nat → Nat → Nat → Mach → Mach) (s : Mach) : Mach :=
  let s1 := modProt die (fun p => { p with chkRefused := p.chkRefused && !bit v 30, chkArray := fld v 28 2, chkPc := fld v 20 8 }) s
  let refuse := modProt die (fun p => { p with chkRefused := true }) s1
  let arr := (fld v 28 2).toNat
  let pc := (fld v 20 8).toNat
  match holderOf s.mnt.acts (tokDie die), chkWord arr (dieAt s die).prot.chkAddr.toNat with
  | some a, some w =>
    if a.code = 5 ∧ (dieAt s die).sec.cur = 0 ∧ pc < 208 then op (die * 208 + pc) arr w s1 else refuse
  | _, _ => refuse

/-- The key of a code word's syndrome. -/
def syndKey (arr w : Nat) : Nat := if arr = 2 then imemKey (w / 4) else w

def chkRawWrite (die : Nat) (v : Word) : Mach → Mach :=
  coreChk die v (fun k arr w s =>
    let p := (dieAt s die).prot
    let data := p.chkData.toNat % 2 ^ wordBits arr
    let width := match arr with | 0 => 5 | 1 => 8 | _ => 7
    let syn := (p.chkCheck.toNat % 2 ^ width) ^^^ checkBits arr data
    if dead s k && arr < 2 then s
    else modCore k (fun c =>
      let c1 := if arr = 2 then { c with imem := wrBytes c.imem w (toBytes 4 data), scrubWb := keepWb w 4 17 c.scrubWb }
                else { c with sp := wrBytes c.sp w (toBytes (if arr = 0 then 1 else 8) data)
                              scrubWb := dropWb w (if arr = 0 then 1 else 8) c.scrubWb }
      { c1 with synd := tset 0 c1.synd (syndKey arr w) (BitVec.ofNat 8 syn) }) s)

def rawData (c : Core) (arr w : Nat) : Nat :=
  match arr with | 0 => rdNum c.sp w 1 | 1 => rdNum c.sp w 8 | _ => rdNum c.imem w 4

def chkRawRead (die : Nat) (v : Word) : Mach → Mach :=
  coreChk die v (fun k arr w s =>
    let c := coreAt s k
    let data := rawData c arr w
    let syn := tget 0 c.synd (syndKey arr w)
    modProt die (fun p => { p with chkData := BitVec.ofNat 64 data, chkSyn := syn,
                                   chkCheck := BitVec.ofNat 8 (checkBits arr data) ^^^ syn }) s)

def chkCheckedRead (die : Nat) (v : Word) : Mach → Mach :=
  coreChk die v (fun k arr w s =>
    let x := readWord (coreAt s k) arr w
    let res : BitVec 2 := match x.2 with | [] => 0 | e :: _ => if e.ue then 2 else 1
    logErrs k 7 x.2 (modProt die (fun p => { p with chkData := BitVec.ofNat 64 x.1, chkResult := res }) s))

def execChkRawWrite (die : Fin 144) (v : Word) (s : State) : Res :=
  runAccess (0x407020 + 0x10000 * die.val) (chkRawWrite die.val v) s
def execChkRawRead (die : Fin 144) (v : Word) (s : State) : Res :=
  runAccess (0x407020 + 0x10000 * die.val) (chkRawRead die.val v) s
def execChkCheckedRead (die : Fin 144) (v : Word) (s : State) : Res :=
  runAccess (0x407020 + 0x10000 * die.val) (chkCheckedRead die.val v) s

/-! ### The known-answer test on request (R425, R436) -/

def modCsl (die : Nat) (f : Csl → Csl) (s : Mach) : Mach := modDie die (fun d => { d with csl := f d.csl }) s

/-- A write of CSL_CTRL (R436): KAT asks for the test of core KPC. -/
def cslCtrl (die : Nat) (v : Word) (s : Mach) : Mach :=
  let s1 := modCsl die (fun l => { l with refused := l.refused && !bit v 30, kpc := fld v 8 8 }) s
  if !bit v 0 then s1
  else if (dieAt s die).sec.cur ≠ 0 ∨ (dieAt s die).csl.busy ∨ 208 ≤ (fld v 8 8).toNat then
    modCsl die (fun l => { l with refused := true }) s1
  else
    modCore (die * 208 + (fld v 8 8).toNat) (fun c => { c with mx := { c.mx with kat := true } })
      (modCsl die (fun l => { l with busy := true }) s1)

def execKatRequest (die : Fin 144) (v : Word) (s : State) : Res :=
  runAccess (0x408000 + 0x10000 * die.val) (cslCtrl die.val (v ||| 1)) s

/-- The test ends; `ok` says whether the core's checker is healthy, so that it finds what R424 gives. -/
def katComplete (die : Nat) (ok : Bool) (s : Mach) : Mach :=
  let l := (dieAt s die).csl
  let pass := ok && knownAnswer
  if !l.busy then s
  else
    let s1 := modCsl die (fun l => { l with busy := false, result := if pass then 1 else 2,
                                            evt := if pass then l.evt else setBit l.evt 4 })
      (modCore (die * 208 + l.kpc.toNat) (fun c => { c with mx := { c.mx with kat := false } }) s)
    if pass then s1 else raiseIrq 10 (noteRaise (dieReg die 0x8004) 4 s1)

def execKatComplete (die : Fin 144) (pass : Bool) (s : State) : Res := run (katComplete die.val pass) s

end Sys2Proof.Machine
end

