-- ==== Sys2Proof/Machine/Rings.lean ====
section
/-! DEFINITION. The host link: its resets, the aperture, the command and completion rings, and the interrupt registers
(18_host_link_and_commands.md, 20_physical_interface.md). -/

namespace Sys2Proof.Machine

/-! ### Rings (R564 to R566, R581) -/

/-- Entries of a ring: 2^LOG2, where values outside 4 to 16 act as 4. -/
def ringSize (log2 : BitVec 5) : Nat := 2 ^ (if 4 ≤ log2.toNat ∧ log2.toNat ≤ 16 then log2.toNat else 4)

/-- RING_STAT.INFLIGHT: commands accepted whose completion is still to be written. -/
def inflight (r : Ring) : Nat :=
  (r.cmds.filter (fun c => c.mode != .orphan)).length + (r.fin.filter (fun c => c.mode == .normal)).length

/-- A completion that will not be written any more. -/
def CompMode.lose : CompMode → CompMode
  | .normal => .unwritten
  | m => m

/-- A ring stops (R566): what it has accepted runs on, unwritten. -/
def stopRing (q : Nat) (err : Nat) (s : Mach) : Mach :=
  raiseIrq 2 (modRing q (fun r => { r with
    stopped := true, halted := true, err := BitVec.ofNat 8 err
    cmds := r.cmds.map (fun c => { c with mode := c.mode.lose })
    fin := r.fin.map (fun c => { c with mode := c.mode.lose }) }) s)

/-- A write of a ring's registers other than CQ_CFG (R564): only while EN is 0. The entries already written keep awaiting their vector
(R577). -/
def ringWrite (q : Nat) (f : Ring → Ring) (s : Mach) : Mach :=
  if (ringAt s q).en then stopRing q 4 s else modRing q f s

/-- A write of CQ_CFG (R564). -/
def cqCfg (q : Nat) (v : Word) (s : Mach) : Mach :=
  let r := ringAt s q
  let same := r.loc == bit v 30 && r.ver == fld v 28 2 && r.log2 == fld v 0 5
  if r.en then
    if !bit v 31 && same then modRing q (fun r => { r with en := false }) s else stopRing q 4 s
  else if !bit v 31 then modRing q (fun r => { r with loc := bit v 30, ver := fld v 28 2, log2 := fld v 0 5 }) s
  else if inflight r ≠ 0 then s
  else modRing q (fun r => { r with
    en := true, loc := bit v 30, ver := fld v 28 2, log2 := fld v 0 5, head := 0, cpTail := 0, phase := true
    stopped := false, halted := false, err := 0, tailDb := 0, headDb := 0, used := 0, fin := [] }) s

def execRingEnable (q : Fin 16) (v : Word) (s : State) : Res :=
  runAccess (0x10108 + 0x40 * q.val) (cqCfg q.val (v ||| 0x80000000)) s
def execRingDisable (q : Fin 16) (v : Word) (s : State) : Res :=
  runAccess (0x10108 + 0x40 * q.val) (cqCfg q.val (v &&& 0x7FFFFFFF)) s

/-- A write of a register of ring q, at its offset in the ring's block (R581). -/
def ringReg (q off : Nat) (v : Word) (s : Mach) : Mach :=
  match off with
  | 0x00 => ringWrite q (fun r => { r with cqBase := fld r.cqBase 32 32 ++ (v &&& 0xFFFFFFC0) }) s
  | 0x04 => ringWrite q (fun r => { r with cqBase := v ++ fld r.cqBase 0 32 }) s
  | 0x08 => cqCfg q v s
  | 0x10 => ringWrite q (fun r => { r with cpBase := fld r.cpBase 32 32 ++ (v &&& 0xFFFFFFC0) }) s
  | 0x14 => ringWrite q (fun r => { r with cpBase := v ++ fld r.cpBase 0 32 }) s
  | 0x18 => ringWrite q (fun r => { r with vector := fld v 26 6, cpLog2 := fld v 16 5, coalCnt := fld v 8 8, coalUs := fld v 0 8 }) s
  | 0x20 => ringWrite q (fun r => { r with stopped := r.stopped && !bit v 31 }) s
  | 0x0C | 0x1C => ringWrite q (fun r => r) s
  | _ => s

def execRingConfigViolation (q : Fin 16) (off : BitVec 6) (v : Word) (s : State) : Res :=
  runAccess (0x10100 + 0x40 * q.val) (ringReg q.val off.toNat v) s

/-- A doorbell (R565); a ring that is disabled or stopped takes none. -/
def cqTail (q : Nat) (v : Word) (s : Mach) : Mach :=
  let r := ringAt s q
  if !r.en || r.halted then s
  else if ringSize r.log2 ≤ (fld v 0 16).toNat then stopRing q 1 s
  else modRing q (fun r => { r with tailDb := fld v 0 16 }) s

def cpHead (q : Nat) (v : Word) (s : Mach) : Mach :=
  let r := ringAt s q
  let n := ringSize r.cpLog2
  let i := (fld v 0 16).toNat
  if !r.en || r.halted then s
  else if n ≤ i then stopRing q 1 s
  else modRing q (fun r => { r with headDb := fld v 0 16, used := r.used - (i + n - r.headDb.toNat) % n }) s

def execCqTail (q : Fin 16) (v : Word) (s : State) : Res := run (cqTail q.val v) s
def execCpHead (q : Fin 16) (v : Word) (s : State) : Res := run (cpHead q.val v) s

/-- Version 1 has the opcode; version 2 adds three (R569, R573). -/
def knownOpc (ver opc : Nat) : Bool :=
  [0x00, 0x10, 0x11, 0x12, 0x20, 0x21, 0x28, 0x29, 0x30, 0x38, 0x40, 0x41, 0x42, 0x48, 0x49, 0x4A, 0x50, 0x51, 0x58, 0x59,
    0x5B, 0x60, 0x61].contains opc || (ver == 2 && [0x39, 0x52, 0x5A].contains opc)

/-- A ring whose next descriptor can be fetched. -/
def ringReady (r : Ring) : Bool :=
  r.en && !r.halted && r.tailDb != r.head && decide (r.used < ringSize r.cpLog2)

/-- The ring whose turn it is. -/
def ringTurn (s : Mach) : Option Nat :=
  ((List.range 16).map (fun i => (s.host.turn + i) % 16)).find? (fun q => ringReady (ringAt s q))

/-- The place in queue memory of the next descriptor of a ring with LOC 1. -/
def qmemAt (r : Ring) : Option Nat :=
  let a := r.cqBase.toNat + 64 * r.head.toNat
  if 0x1000000 ≤ a ∧ a + 64 ≤ 0x1400000 then some (a - 0x1000000) else none

/-- The next command of a ring that has not started has an opcode that its version lacks and is due: it ends (R566, R571). -/
def endUnknown (q : Nat) (s : Mach) : Mach :=
  match (ringAt s q).cmds.find? (fun c => !c.started) with
  | some c =>
    if !knownOpc c.ver (cB c.desc 0 1) && (!bit c.desc 9 || ((ringAt s q).cmds.head?.map (·.tok)) == some c.tok) then
      complete ⟨q, c.tok⟩ 0x01 0 s
    else s
  | none => s

/-- Every such command of a ring that is due ends, one after the other. -/
def settleUnknown (q : Nat) (s : Mach) : Mach := iter (ringAt s q).cmds.length (fun _ s => endUnknown q s) s

/-- A descriptor is accepted (R566). -/
def acceptCmd (q : Nat) (d : Desc) (s : Mach) : Mach :=
  let r := ringAt s q
  let n := ringSize r.cpLog2
  let c : RunCmd := { tok := s.host.accepted, desc := d, started := false, mode := .normal, slot := r.cpTail.toNat, phase := r.phase, ver := ringVer r }
  let wrap := decide (r.cpTail.toNat + 1 = n)
  let s1 := modRing q (fun r => { r with
    head := BitVec.ofNat 16 ((r.head.toNat + 1) % ringSize r.log2), used := r.used + 1
    cpTail := BitVec.ofNat 16 (if wrap then 0 else r.cpTail.toNat + 1), phase := if wrap then !r.phase else r.phase
    cmds := r.cmds ++ [c] }) s
  settleUnknown q (modHost (fun h => { h with turn := (q + 1) % 16, accepted := h.accepted + 1 }) s1)

/-- The power goes down for a module reset, which ended the commands (R572). -/
def restarting (s : Mach) : Bool := match s.pwr.down with | some (_, .restart) => true | some (_, .again) => true | _ => false

/-- A descriptor is fetched from host memory, or from queue memory, where the host has put it. -/
def commandFetch (q : Nat) (d : Option Desc) (s : Mach) : Mach :=
  let r := ringAt s q
  if s.start.state ≠ 7 ∨ s.host.perst ∨ restarting s ∨ ringTurn s ≠ some q then s
  else if r.loc then
    match qmemAt r, d with
    | none, _ => stopRing q 2 s
    | some a, some d => acceptCmd q d (modHost (fun h => { h with qmem := wrBytes h.qmem a (bytesOf d) }) s)
    | some a, none => acceptCmd q (BitVec.ofNat 512 (rdNum s.host.qmem a 64)) s
  else
    match d with
    | none => stopRing q 2 s
    | some d => acceptCmd q d s

def execCommandFetch (q : Fin 16) (d : Option Desc) (s : State) : Res := run (commandFetch q.val d) s

/-! ### Completions (R568, R577) -/

/-- The bytes of a completion entry. -/
def entryBytes (q : Nat) (head : BitVec 16) (c : Compl) : BitVec 128 :=
  BitVec.ofNat 128 (ofBytes (bytesOf c.cid ++ bytesOf c.opc ++ bytesOf c.status ++ bytesOf head ++ toBytes 1 q ++
    toBytes 1 (if c.phase then 1 else 0) ++ bytesOf c.detail))

/-- An entry with IRQ set: the vector, at once or coalesced. -/
def ringIrq (q : Nat) (s : Mach) : Mach :=
  let r := ringAt s q
  if r.coalCnt = 0 then sendVector r.vector s
  else if r.coalCnt.toNat ≤ r.coal + 1 then sendVector r.vector (modRing q (fun r => { r with coal := 0 }) s)
  else modRing q (fun r => { r with coal := r.coal + 1 }) s

/-- The next completion of a ring goes to its slot; what a completion lets end ends first. -/
def completionWrite (q : Nat) (ok : Bool) (s0 : Mach) : Mach :=
  let s := settleUnknown q s0
  let r := ringAt s q
  match r.fin.filter (fun c => c.mode == .normal) with
  | [] => modRing q (fun r => { r with fin := [] }) s
  | c :: rest =>
    let s1 := modRing q (fun r => { r with fin := rest }) s
    if !ok then stopRing q 3 s1
    else
      let s2 := emit (.completion q c.slot (entryBytes q r.head c)) s1
      if c.irq then ringIrq q s2 else s2

def execCompletionWrite (q : Fin 16) (ok : Bool) (s : State) : Res := run (completionWrite q.val ok) s

/-- COALUS µs have passed since the first entry that awaits the vector. -/
def coalesceTimer (q : Nat) (s : Mach) : Mach :=
  if (ringAt s q).coal = 0 then s else sendVector (ringAt s q).vector (modRing q (fun r => { r with coal := 0 }) s)

def execCoalesceTimer (q : Fin 16) (s : State) : Res := run (coalesceTimer q.val) s

/-! ### Interrupt causes (R578) -/

/-- A source register of a cause still holds a set bit. -/
def irqHolds (s : Mach) (c : Nat) : Bool :=
  match c with
  | 1 => s.start.fail != 0
  | 2 => s.host.rings.any (fun e => e.2.stopped)
  | 3 => s.rnd.evt != 0
  | 4 => s.trn.evt != 0
  | 5 => s.ports.any (fun e => e.2.evt != 0)
  | 6 => s.rmt.evt != 0
  | 7 => s.sys.evt != 0 || s.ls.evt != 0
  | 8 => s.keep.faulted || s.keep.rsValid || s.keep.rsMulti || s.keep.namedValid
  | 9 => s.pwr.evt != 0
  | 10 => s.dies.any (fun e => e.2.prot.evt != 0 || e.2.csl.evt != 0) || s.cores.any (fun e => e.2.r.fValid)
  | 11 => s.edge.evt != 0
  | _ => false

/-- A write of HOST_IRQ_CAUSE. -/
def irqCauseWrite (v : Word) (s : Mach) : Mach :=
  let s1 := modHost (fun h => { h with irqCause := w1c h.irqCause (fld v 0 13) }) s
  iter 13 (fun c s => if bit v c && irqHolds s c then raiseIrq c s else s) s1

def execHostIrqCauseWrite (v : Word) (s : State) : Res := 
  runHost (fun s0 => hostAccess 0x10010 (fun s =>
    irqCauseWrite (v &&& ~~~ ((s.host.irqCause &&& ~~~ s0.host.irqCause).setWidth 32 ||| noted s 0x10010)) s)) s

/-! ### Resets of the host block (R561, R598) -/

/-- The host block as a Function Level Reset leaves it; commands run on and are not written. -/
def hostReset (s : Mach) : Mach :=
  modHost (fun h => { HostBlk.reset with
    gen := h.gen, width := h.width, flitMode := h.flitMode, peerGen := h.peerGen, peerWidth := h.peerWidth, peerFlit := h.peerFlit
    flrCnt := h.flrCnt, perst := h.perst, accepted := h.accepted, qmem := h.qmem
    rings := h.rings.filterMap (fun e =>
      if e.2.cmds.isEmpty then none
      else some (e.1, { Ring.reset with cmds := e.2.cmds.map (fun c => { c with mode := .orphan }) })) }) s

def functionLevelReset (s : Mach) : Mach :=
  modHost (fun h => { h with flrCnt := satInc h.flrCnt }) (hostReset s)

def execFunctionLevelReset (s : State) : Res := run functionLevelReset s

/-- PERST# is asserted: the link goes down, and from READY on the host block is reset. -/
def perstAssert (s : Mach) : Mach :=
  let s1 := modHost (fun h => { h with perst := true, gen := 0, width := 0, flitMode := false }) s
  if s.start.state.toNat < 7 then s1 else hostReset s1

def execPerstAssert (s : State) : Res := run perstAssert s

/-- The link trains again, with what the other end supports (R558). -/
def perstRelease (gen width : BitVec 5) (flitMode : Bool) (s : Mach) : Mach :=
  if !s.host.perst then s
  else modHost (fun h => trainLink { h with perst := false, peerGen := fld gen 0 4, peerWidth := width, peerFlit := flitMode }) s

def execPerstRelease (gen width : BitVec 5) (flitMode : Bool) (s : State) : Res := run (perstRelease gen width flitMode) s

/-- What the PCI Express function says of itself (R558). -/
structure Function_ where
  vendor : BitVec 16
  device : BitVec 16
  classCode : BitVec 24
  revision : Byte
  payload : Nat
  readRequest : Nat
  vectors : Nat
  aer : Bool
  flr : Bool
  tags10 : Bool
  doe : Bool
  deriving DecidableEq, Repr

/-- The one physical function; its revision is MOD_REV.HWREV (R36). -/
def hostFunction : Function_ :=
  { vendor := 0x1FD7, device := 0x0096, classCode := 0x120000, revision := 0x02, payload := 512, readRequest := 4096
    vectors := 64, aer := true, flr := true, tags10 := true, doe := true }

/-! ### BAR2 (R562) -/

/-- A byte of BAR2: a doorbell, which is WO and reads as zero; queue memory; or nothing. -/
def bar2Byte (s : Mach) (a : Nat) : Byte :=
  if a < 0x10000 then 0 else if 0x1000000 ≤ a ∧ a < 0x1400000 then rd s.host.qmem (a - 0x1000000) else 0xFF

/-- No access of BAR2 is served: the link is down, or the module is not READY (R504). -/
def bar2Shut (s : Mach) : Bool := noLink s || s.start.state != 7

def bar2Read (off len : Nat) (s : Mach) : Mach :=
  if noLink s then s
  else if bar2Shut s then emit (.apertureData (List.replicate len 0xFF) false) s
  else emit (.apertureData ((List.range len).map (fun i => bar2Byte s (off + i))) false) s

/-- A write of BAR2: a whole doorbell, or bytes of queue memory; what falls elsewhere is discarded. -/
def bar2Write (off : Nat) (data : List Byte) (s : Mach) : Mach :=
  if bar2Shut s then s
  else if off < 0x10000 then
    if data.length = 4 ∧ off % 0x1000 = 0 then cqTail (off / 0x1000) (BitVec.ofNat 32 (ofBytes data)) s
    else if data.length = 4 ∧ off % 0x1000 = 4 then cpHead (off / 0x1000) (BitVec.ofNat 32 (ofBytes data)) s
    else s
  else modHost (fun h => { h with qmem := (data.zipIdx).foldl (fun m e =>
    if 0x1000000 ≤ off + e.2 ∧ off + e.2 < 0x1400000 then wr m (off + e.2 - 0x1000000) e.1 else m) h.qmem }) s

/-! ### The aperture (R562, R563) -/

/-- The edge address of an aperture offset. -/
def apEa (s : Mach) (off : BitVec 36) : Nat := s.host.apsel.toNat * 2 ^ 36 + off.toNat

def apertureRead (off : BitVec 36) (len : Nat) (s : Mach) : Mach :=
  let ones := List.replicate len (0xFF : Byte)
  let st := s.host.apsel.toNat
  if s.start.state ≠ 7 then emit (.apertureData ones false) s
  else if stackOut s st then emit (.apertureData ones true) (modHost (fun h => { h with apNotServ := satInc h.apNotServ }) s)
  else if s.edge.keepEn && inKeep (apEa s off) len then
    emit (.apertureData ones false) (modHost (fun h => { h with apKeep := satInc h.apKeep }) s)
  else
    let x := readEdge 3 (apEa s off) len s
    let s1 := useUnits 2 (apEa s off) len x.2
    if x.1.any (·.2) then emit (.apertureData ones true) s1 else emit (.apertureData (x.1.map (·.1)) false) s1

/-- A host read of BAR4, or of BAR2 in the same form: the table has no row of its own for it (DESIGN CHOICE, log entry 20). -/
def memRead (a : BarAddr) (len : Nat) : Mach → Mach :=
  match a with
  | .bar2 off => bar2Read off.toNat len
  | .bar4 off => apertureRead off len

def execApertureRead (a : BarAddr) (len : Nat) (s : State) : Res := runIf (a.within len) (memRead a len) s

def apertureWrite (off : BitVec 36) (data : List Byte) (s : Mach) : Mach :=
  let st := s.host.apsel.toNat
  if s.start.state ≠ 7 then s
  else if stackOut s st then modHost (fun h => { h with apNotServ := satInc h.apNotServ }) s
  else if s.edge.keepEn && inKeep (apEa s off) data.length then modHost (fun h => { h with apKeep := satInc h.apKeep }) s
  else if off.toNat % 32 ≠ 0 ∨ data.length % 32 ≠ 0 then modHost (fun h => { h with apPartial := satInc h.apPartial }) s
  else useUnits 2 (apEa s off) data.length (writeEdge (apEa s off) data s)

def memWrite (a : BarAddr) (data : List Byte) : Mach → Mach :=
  match a with
  | .bar2 off => bar2Write off.toNat data
  | .bar4 off => apertureWrite off data

def execApertureWrite (a : BarAddr) (data : List Byte) (s : State) : Res :=
  runIf (a.within data.length) (memWrite a data) s

/-! ### Commands that act at once (R573) -/

def nop (q : Nat) (d : Desc) : Mach → Mach := startCmd q d (cB d 0 1 == 0x00) [] (fun o s => complete o 0x00 0 s)

def execNop (q : Fin 16) (d : Desc) (s : State) : Res := run (nop q.val d) s

/-- The checks of HOST_COPY: its addresses, its length, and that it keeps out of the keep region. -/
def copyOk (s : Mach) (d : Desc) : Bool :=
  let ea := cB d 24 8
  let n := cB d 32 4
  decide (cB d 8 1 ≤ 1) && cB d 16 8 % 64 == 0 && ea % 32 == 0 && n % 32 == 0 && decide (1 ≤ n) &&
    decide (ea + n ≤ 2 ^ 41) && !(s.edge.keepEn && inKeep ea n)

/-- The first address of a range that lies in a stack that serves nothing. -/
def firstOut (s : Mach) (ea n : Nat) : Option Nat :=
  if stackOut s (stackOf ea) then some ea
  else if stackOf (ea + n - 1) ≠ stackOf ea ∧ stackOut s (stackOf (ea + n - 1)) then some (stackOf (ea + n - 1) * 2 ^ 36)
  else none

def copyToEdge (q : Nat) (d : Desc) (data : Option (List Byte)) : Mach → Mach :=
  startCmd q d (cB d 0 1 == 0x50 && cB d 8 1 == 0) [(8, 1), (16, 20)] (fun o s =>
    if !copyOk s d then complete o 0x02 0 s
    else
      match firstOut s (cB d 24 8) (cB d 32 4), data with
      | some a, _ => complete o 0x0F a s
      | none, none => complete o 0x0E 0 s
      | none, some bs => complete o 0x00 0 (useSpan 2 (cB d 24 8) bs.length (writeEdge (cB d 24 8) bs s)))

def execHostCopyToEdge (q : Fin 16) (d : Desc) (data : Option (List Byte)) (s : State) : Res :=
  runIf (hostData (descNum d 32 4) data) (copyToEdge q.val d data) s

/-- A DIR above 1 fails its field check here. -/
def copyToHost (q : Nat) (d : Desc) (hostOk : Bool) : Mach → Mach :=
  startCmd q d (cB d 0 1 == 0x50 && cB d 8 1 != 0) [(8, 1), (16, 20)] (fun o s =>
    let ea := cB d 24 8
    if !copyOk s d then complete o 0x02 0 s
    else
      let out := firstOut s ea (cB d 32 4)
      let n := match out with | some a => a - ea | none => cB d 32 4
      let x := readEdge 3 ea n s
      let s1 := useSpan 2 ea n x.2
      match (firstUe ea x.1).or out with
      | some a => complete o 0x0F a s1
      | none =>
        if !hostOk then complete o 0x0E 0 s1
        else complete o 0x00 0 (emit (.hostWrite (BitVec.ofNat 64 (cB d 16 8)) (x.1.map (·.1))) s1))

def execHostCopyToHost (q : Fin 16) (d : Desc) (hostOk : Bool) (s : State) : Res := run (copyToHost q.val d hostOk) s

end Sys2Proof.Machine
end

