-- ==== Sys2Proof/Machine/Regs.lean ====
section
/-! DEFINITION. The registers of BAR0: what a read of each returns, and what it clears (19_register_reference.md and the
register tables of every chapter). Offsets are relative to the block of R582, or to the steward window of R583. -/

namespace Sys2Proof.Machine

/-- The low and the high word of a 64-bit value. -/
def loW (x : BitVec 64) : Word := fld x 0 32
def hiW (x : BitVec 64) : Word := fld x 32 32

/-- Word i of a longer value. -/
def wordAt {w : Nat} (x : BitVec w) (i : Nat) : Word := fld x (32 * i) 32

/-! ### Management domain -/

/-- The module control block (R36 to R41). -/
def ctlRead (s : Mach) (off : Nat) : Word :=
  let c := s.ctl
  match off with
  | 0x00 => 0x00960200
  | 0x04 => z 15 ++ b1 c.assigned ++ c.id
  | 0x14 => z 29 ++ b1 (c.scope != 0) ++ c.scope
  | 0x18 => z 20 ++ c.lastCause ++ z 6 ++ c.lastScope
  | 0x1C => c.warpCnt ++ c.rimCnt
  | _ => 0

/-- The start block (R525 to R527). -/
def startRead (s : Mach) (off : Nat) : Word :=
  let x := s.start
  match off with
  | 0x00 => x.state ++ z 4 ++ x.fail ++ z 4 ++ x.attempt1 ++ x.attempt0 ++ z 7 ++ b1 x.locked
  | 0x04 => b1 x.slot ++ b1 x.altValid ++ z 10 ++ x.version ++ fld x.seq 0 16
  | 0x08 => z 16 ++ x.fused ++ x.svn
  | 0x0C => Config.romVersion ++ z 9 ++ x.patches
  | 0x10 => z 19 ++ storedFeatures x ++ z 3 ++ x.features
  | 0x14 => z 16 ++ x.licInvalid ++ x.licValid
  | 0x18 => x.startMs
  | 0x1C => z 22 ++ x.signer ++ x.revoked ++ x.programmed
  | _ => 0

/-- LED_STAT, LED_NEW and LED_OLD (R554): the newest committed and the oldest remaining record. -/
def ledNew (l : Ledger) : Word := (((validRecs l).getLast?).map (fun r => fld r.seq 0 32)).getD 0
def ledOld (l : Ledger) : Word := (((validRecs l).head?).map (fun r => fld r.seq 0 32)).getD 0

/-- The management block (R554 to R557). -/
def mgmtRead (s : Mach) (off : Nat) : Word :=
  let l := s.led
  let w := s.weft
  match off with
  | 0x00 => b1 (!s.pwr.running.isEmpty) ++ b1 l.carry ++ z 18 ++ l.wblock
  | 0x04 => ledNew l
  | 0x08 => ledOld l
  | 0x0C => z 9 ++ BitVec.ofNat 7 l.protQ.length ++ z 3 ++ BitVec.ofNat 13 l.ordQ.length
  | 0x10 => shown 32 l.ledSupp
  | 0x20 => fld (calSec s) 0 32
  | 0x24 => s.cal.latchHi
  | 0x28 => s.cal.setLo
  | 0x30 => b1 s.cal.lost ++ z 19 ++ s.cal.vbak
  | 0x60 => z 16 ++ w.period
  | 0x64 => w.telSeq
  | 0x68 => z 17 ++ w.msel
  | 0x6C => w.telMargin
  | 0x70 => w.minMargin
  | 0x74 => z 17 ++ w.minCore
  | 0x80 => w.expiries ++ z 16
  | _ =>
    if 0x40 ≤ off ∧ off < 0x50 ∧ off % 4 = 0 then
      let r := tget WeftRing.reset w.rings ((off - 0x40) / 4)
      r.state ++ z 6 ++ r.brk ++ shown 16 r.timeouts
    else 0

/-- The number and the temperature of the hottest die, the lowest number of those that share it. -/
def hottestDie (s : Mach) : Nat × Byte :=
  (List.range 144).foldl (fun (b : Nat × Byte) d => if b.2.toInt < (dpwAt s d).temp.toInt then (d, (dpwAt s d).temp) else b)
    (0, (dpwAt s 0).temp)

/-- THM_MAX (R498). -/
def thmMax (s : Mach) : Word :=
  let hottest (n : Nat) (t : Tbl Byte) : Byte :=
    (List.range n).foldl (fun (b : Byte) i => if b.toInt < (tget 0 t i).toInt then tget 0 t i else b) (tget 0 t 0)
  let st := hottest 32 s.pwr.stkTemp
  let op := hottest 64 s.pwr.portTemp
  st ++ op ++ BitVec.ofNat 8 (hottestDie s).1 ++ (hottestDie s).2

/-- The power block (R495 to R500). -/
def powerRead (s : Mach) (off : Nat) : Word :=
  let p := s.pwr
  match off with
  | 0x00 => pwrStat p
  | 0x04 => p.feedAReg
  | 0x08 => p.feedBReg
  | 0x0C => p.inRnd ++ p.avg100
  | 0x10 => z 16 ++ p.peak
  | 0x14 => z 7 ++ p.eff ++ z 7 ++ p.cap
  | 0x18 => z 16 ++ p.idle
  | 0x1C => z 20 ++ p.evt
  | 0x20 => hubStat p
  | 0x24 => p.coul ++ p.model
  | 0x28 => p.fullcap ++ (0x0032 : BitVec 16)
  | 0x2C => p.diffCnt ++ shown 16 p.waits
  | 0x30 => z 8 ++ p.outlet ++ p.inlet ++ z 8
  | 0x34 => z 16 ++ p.flow
  | 0x38 => thmMax s
  | 0x40 => z 19 ++ p.selInst ++ z 2 ++ p.selLoc ++ p.selDom
  | 0x44 => wordAt p.latch 0
  | 0x48 => wordAt p.latch 1
  | 0x4C => wordAt p.latch 2
  | 0x50 => wordAt p.latch 3
  | _ => 0

/-- RND_NUM (R81): the round in force, or the first to be emitted. -/
def rndNum (s : Mach) : BitVec 48 := s.rnd.numReg

/-- The round unit (R75 to R88, R377, R438). -/
def roundRead (s : Mach) (off : Nat) : Word :=
  let r := s.rnd
  match off with
  | 0x00 => z 29 ++ b1 r.aligned ++ b1 r.master ++ b1 r.en
  | 0x04 => r.active ++ r.period
  | 0x08 => z 8 ++ r.leadNs
  | 0x0C => z 6 ++ r.marginLow ++ r.stretchMax
  | 0x10 => r.missGrace ++ r.lateLimit
  | 0x14 => z 12 ++ r.stragCount ++ r.stragWindow
  | 0x18 => fld (rndNum s) 0 32
  | 0x1C => z 16 ++ fld (rndNum s) 32 16
  | 0x20 => b1 r.hold ++ r.missed ++ b1 r.instep ++ r.hops ++ r.upport ++ z 14
  | 0x24 => r.leadRem
  | 0x28 => z 24 ++ r.evt
  | 0x2C => r.marginMin
  | 0x30 => z 17 ++ r.marginCore
  | 0x34 => stragWord r
  | 0x40 => r.varLatch.refresh
  | 0x44 => r.varLatch.replay
  | 0x48 => r.varLatch.retrain
  | 0x4C => r.varLatch.stretch
  | 0x50 => r.varRound
  | 0x58 => loW r.mportReg
  | 0x5C => hiW r.mportReg
  | 0x60 => r.varLatch.arb
  | _ => 0

/-- SYS_TWIN_SER (R379). -/
def twinSerial (s : Mach) : BitVec 64 := (((twinUp s).head?).map (fun p => (portAt s p).pser)).getD 0

/-- The system block (R378 to R381, R438). -/
def sysRead (s : Mach) (off : Nat) : Word :=
  let x := s.sys
  let l := s.ls
  let up (p : Nat) := b1 (portAt s p).partner
  match off with
  | 0x00 => z 30 ++ x.twinReq
  | 0x04 => b1 x.ok ++ x.twinMode ++ z 24 ++ b1 x.mismatch ++ up 63 ++ up 62 ++ up 31 ++ up 30
  | 0x08 => loW (twinSerial s)
  | 0x0C => hiW (twinSerial s)
  | 0x10 => z 24 ++ x.weight
  | 0x14 => z 8 ++ x.total
  | 0x18 => z 28 ++ x.evt
  | 0x40 => z 31 ++ b1 l.stop
  | 0x44 => b1 (comparing s) ++ b1 l.firstValid ++ z 30
  | 0x48 => z 30 ++ l.evt
  | 0x4C => l.first
  | 0x50 => loW l.own
  | 0x54 => hiW l.own
  | 0x58 => loW l.twin
  | 0x5C => hiW l.twin
  | 0x60 => l.rows
  | 0x64 => l.rnd
  | _ => 0

/-- A ring's registers (R581). -/
def ringRead (r : Ring) (off : Nat) : Word :=
  match off with
  | 0x00 => loW r.cqBase
  | 0x04 => hiW r.cqBase
  | 0x08 => b1 r.en ++ b1 r.loc ++ r.ver ++ z 23 ++ r.log2
  | 0x0C => z 16 ++ r.head
  | 0x10 => loW r.cpBase
  | 0x14 => hiW r.cpBase
  | 0x18 => r.vector ++ z 5 ++ r.cpLog2 ++ r.coalCnt ++ r.coalUs
  | 0x1C => z 16 ++ r.cpTail
  | 0x20 => b1 r.stopped ++ z 7 ++ r.err ++ BitVec.ofNat 16 (min 65535 (inflight r))
  | _ => 0

/-- The host block, with the MSI-X table and the pending-bit array (R579 to R582). -/
def hostRead (s : Mach) (off : Nat) : Word :=
  let h := s.host
  if 0x40 ≤ off ∧ off < 0x80 then (if off % 4 = 0 then z 26 ++ tget 0 h.irqMap ((off - 0x40) / 4) else 0)
  else if 0x100 ≤ off ∧ off < 0x500 then ringRead (ringAt s ((off - 0x100) / 0x40)) ((off - 0x100) % 0x40)
  else if 0x2000 ≤ off ∧ off < 0x2400 then
    (if off % 4 = 0 then tget (if off % 16 = 12 then 1 else 0) h.msixTab ((off - 0x2000) / 4) else 0)
  else
    match off with
    | 0x00 => h.gen ++ h.width ++ b1 h.flitMode ++ z 6 ++ h.flrCnt
    | 0x04 => z 27 ++ h.apsel
    | 0x08 => shown 16 h.apPartial ++ shown 8 h.apKeep ++ shown 8 h.apNotServ
    | 0x10 => z 19 ++ h.irqCause
    | 0x14 => z 19 ++ h.irqMask
    | 0x3000 => loW h.msixPend
    | 0x3004 => hiW h.msixPend
    | _ => 0

/-! ### Rim domain -/

/-- A stack's registers (R239 to R243, R414). -/
def emsRead (k : Stack) (off : Nat) : Word :=
  let deg (g : Nat) := b1 (lostPos k g).isSome
  match off with
  | 0x00 => b1 k.failed ++ b1 k.selfref ++ b1 (k.trained && !k.failed) ++ b1 (k.retQ != 0x3F) ++ deg 3 ++ deg 2 ++ deg 1 ++ deg 0 ++ z 4 ++ k.dieLost
  | 0x04 => z 8 ++ k.trainT ++ k.maxT ++ z 7 ++ b1 k.hot
  | 0x08 => shown 32 k.rdu
  | 0x0C => shown 32 k.wru
  | 0x10 => shown 32 k.rmu
  | 0x14 => shown 16 k.rejCnt ++ z 8 ++ k.rejLast
  | 0x18 => fld k.rejEa 0 32
  | 0x1C => z 23 ++ fld k.rejEa 32 9
  | 0x20 => k.retDone ++ k.retAborted ++ z 2 ++ k.retQ
  | 0x24 => shown 32 k.ceCnt
  | 0x28 => z 16 ++ shown 16 k.ueCnt
  | 0x2C => z 1 ++ k.logOvf ++ z 11 ++ k.logIdx
  | 0x30 => wordAt k.latch 0
  | 0x34 => wordAt k.latch 1
  | 0x38 => wordAt k.latch 2
  | 0x3C => wordAt k.latch 3
  | _ => 0

/-- The edge memory controller block (R236 to R243, R413, R414). -/
def emcRead (s : Mach) (off : Nat) : Word :=
  let e := s.edge
  if 0x100 ≤ off ∧ off < 0x900 then emsRead (stkAt s ((off - 0x100) / 0x40)) ((off - 0x100) % 0x40)
  else
    match off with
    | 0x00 => z 17 ++ e.splitRemote ++ e.splitWrite ++ e.splitRead
    | 0x04 => z 28 ++ e.rimph
    | 0x08 => z 29 ++ b1 s.start.locked ++ b1 e.rimphRej ++ b1 e.splitRej
    | 0x0C => z 31 ++ b1 e.keepEn
    | 0x10 => e.scrubPasses ++ z 7 ++ b1 e.scrubEn ++ e.scrubHours
    | 0x14 => z 28 ++ e.evt
    | 0x18 => z 24 ++ e.dieth
    | 0x20 => z 1 ++ b1 e.chkRefused ++ e.chkResult ++ e.chkPos ++ z 6 ++ e.chkVal ++ z 8
    | 0x24 => fld e.chkEa 0 32
    | 0x28 => z 23 ++ fld e.chkEa 32 9
    | _ => 0

/-- A unit's registers (R295). -/
def uuRead (u : Unit_) (off : Nat) : Word :=
  match off with
  | 0x00 => b1 u.list.isSome ++ b1 u.fault ++ b1 (u.list.isSome && u.waiting.any (·.queued)) ++ z 5 ++ u.status ++ u.job
  | 0x04 => shown 32 u.elem
  | 0x08 => loW u.digLat
  | 0x0C => hiW u.digLat
  | 0x10 => tget 0 u.arr 0
  | 0x14 => tget 0 u.arr 1
  | 0x18 => tget 0 u.arr 2
  | 0x1C => tget 0 u.arr 3
  | _ => 0

/-- The training engine block (R291 to R295). -/
def trnRead (s : Mach) (off : Nat) : Word :=
  let t := s.trn
  if 0x400 ≤ off ∧ off < 0x800 then uuRead (unitAt s ((off - 0x400) / 0x20)) ((off - 0x400) % 0x20)
  else if 0x100 ≤ off ∧ off < 0x1FC then (if off % 4 = 0 then z 15 ++ tget 0 t.peers ((off - 0x100) / 4) else 0)
  else
    match off with
    | 0x00 => loW t.seed
    | 0x04 => hiW t.seed
    | 0x08 => t.step
    | 0x14 => z 26 ++ t.evt
    | 0x20 => b1 t.digEn ++ z 7 ++ t.digTimeout ++ t.digIvm1
    | 0x24 => digStat t
    | 0x28 => t.digStep
    | 0x2C => loW t.digLast
    | 0x30 => hiW t.digLast
    | 0x34 => z 15 ++ b1 t.badValid ++ t.badId
    | _ => 0

/-- A port's registers (R324 to R329). -/
def portRead (s : Mach) (p off : Nat) : Word :=
  let x := portAt s p
  let n := laneCount x.active
  let up := decide (x.state = 6)
  match off with
  | 0x00 => z 28 ++ b1 x.livert ++ x.genmax ++ b1 (x.en && portLicensed s p)
  | 0x04 => x.state ++ x.gen ++ BitVec.ofNat 5 n ++ b1 (up && decide (n < 16)) ++ b1 x.swap ++ b1 (decide (lanesRetraining x ≠ 0)) ++
      x.rtLaneReg ++ b1 x.partner ++ b1 x.resumed ++ z 12
  | 0x08 => x.failed ++ x.active
  | 0x0C => z 16 ++ x.lat
  | 0x10 => loW x.pser
  | 0x14 => hiW x.pser
  | 0x18 => x.pversion ++ x.pport ++ z 1 ++ b1 x.passigned ++ x.pid
  | 0x1C => x.pepoch
  | 0x20 => z 24 ++ x.evt
  | 0x24 => shown 32 x.feccor
  | 0x28 => shown 32 x.fecunc
  | 0x2C => shown 32 x.replay
  | 0x30 => shown 16 x.crcErr ++ shown 16 x.badmsg
  | 0x34 => shown 16 x.dropq ++ shown 16 x.lost
  | 0x38 => z 8 ++ x.traint ++ x.temp ++ z 8
  | 0x3C => x.downCnt ++ z 12 ++ x.cause
  | _ => 0

/-- PRT_EVTSUMw (R323). -/
def evtSum (s : Mach) (w : Nat) : Word :=
  (List.range 32).foldl (fun (m : Word) i => if (portAt s (32 * w + i)).evt = 0 then m else setBit m i) 0

/-- The port block. -/
def prtRead (s : Mach) (off : Nat) : Word :=
  if 0x100 ≤ off ∧ off < 0x1100 then portRead s ((off - 0x100) / 0x40) ((off - 0x100) % 0x40)
  else
    match off with
    | 0x00 => s.epoch
    | 0x04 => loW s.start.serial
    | 0x08 => hiW s.start.serial
    | 0x0C => evtSum s 0
    | 0x10 => evtSum s 1
    | _ => 0

/-- The remote access block (R359 to R363). -/
def rmtRead (s : Mach) (off : Nat) : Word :=
  let r := s.rmt
  match off with
  | 0x00 => z 3 ++ BitVec.ofNat 13 (ptnLimit s) ++ z 3 ++ BitVec.ofNat 13 (ptnUsed s)
  | 0x04 => z 20 ++ r.ptnSel
  | 0x08 => wordAt r.ptnE 0
  | 0x0C => wordAt r.ptnE 1
  | 0x10 => wordAt r.ptnE 2
  | 0x14 => wordAt r.ptnE 3
  | 0x20 => z 22 ++ r.winSel
  | 0x50 => z 30 ++ r.sysfMode
  | 0x54 => sysfStat r
  | 0x60 => z 23 ++ r.evt
  | 0x64 => b1 r.nackValid ++ b1 r.nackMulti ++ z 6 ++ r.nackCause ++ r.nackSrc
  | 0x68 => r.nackTag
  | 0x6C => z 16 ++ r.nackRound
  | 0x70 => shown 16 r.rejCnt ++ z 8 ++ r.rejLast
  | _ => if 0x24 ≤ off ∧ off < 0x44 ∧ off % 4 = 0 then wordAt r.winE ((off - 0x24) / 4) else 0

/-- KP_SLOTx (R461). -/
def slotWord (x : Slot) : Word := b1 x.valid ++ b1 x.opened ++ z 14 ++ x.id

/-- The restart and keep block (R459 to R462). -/
def keepRegRead (s : Mach) (off : Nat) : Word :=
  let k := s.keep
  match off with
  | 0x00 => b1 k.faulted ++ b1 k.armed ++ b1 k.sealing.isSome ++ b1 k.keeping.isSome ++ b1 k.rest.isSome ++ b1 k.serve.isSome ++ z 26
  | 0x04 => rsFault k
  | 0x08 => k.rsRound
  | 0x0C => z 15 ++ b1 k.namedValid ++ k.namedId
  | 0x10 => k.armGen ++ k.armMaster
  | 0x14 => z 8 ++ k.armW
  | 0x20 => slotWord k.slotA
  | 0x24 => k.slotA.step
  | 0x28 => slotWord k.slotB
  | 0x2C => k.slotB.step
  | 0x30 => kpSeal k
  | 0x34 => k.sealStep
  | 0x38 => kpRest k
  | 0x3C => BitVec.ofNat 32 (k.moved / 2 ^ 20)
  | _ => 0

/-! ### Steward windows (R583) -/

/-- DIE_STAT.STATE (R20, R42). -/
def dieState (d : Die) : BitVec 2 :=
  if d.failed then 2 else if d.absent = 0xFFFFFFFFFFFFFFFF then 0 else 1

/-- CORE_PRESENTw (R45). -/
def presentWord (d : Die) (w : Nat) : Word :=
  (List.range 32).foldl (fun (m : Word) i => if (pcOfLc d (32 * w + i)).isSome then setBit m i else m) 0

/-- The core map (R42 to R46). -/
def mapRead (s : Mach) (die off : Nat) : Word :=
  let d := dieAt s die
  match off with
  | 0x00 => z 21 ++ b1 (d.dead != 0) ++ dieState d ++ BitVec.ofNat 8 (presentCount d)
  | 0x10 => loW d.spare
  | 0x14 => hiW d.spare
  | 0x18 => loW d.absent
  | 0x1C => hiW d.absent
  | _ =>
    if 0x20 ≤ off ∧ off < 0x38 ∧ off % 4 = 0 then presentWord d ((off - 0x20) / 4)
    else if 0x40 ≤ off ∧ off < 0x5C ∧ off % 4 = 0 then wordAt d.dead ((off - 0x40) / 4)
    else 0

/-- A per-core block (R133 to R139, R203, R204, R260, R261, R412). -/
def coreRead (s : Mach) (k off : Nat) : Word :=
  let c := coreAt s k
  let r := c.r
  match off with
  | 0x00 => z 24 ++ b1 (dead s k) ++ b1 c.p.halted ++ b1 c.p.inexc ++ b1 c.p.signalled ++ b1 (running c) ++ b1 (present s k) ++ z 2
  | 0x04 => b1 r.fValid ++ b1 r.fClass ++ b1 r.fMulti ++ z 5 ++ r.fRound ++ r.fCause
  | 0x08 => r.fAddr
  | 0x0C => z 18 ++ r.fEpc
  | 0x10 => z 5 ++ r.ssRows ++ z 1 ++ r.ssBase
  | 0x14 => tget 0 c.ecnt 1 ++ tget 0 c.ecnt 0
  | 0x18 => tget 0 c.ecnt 3 ++ tget 0 c.ecnt 2
  | 0x1C => shown 16 r.hazCount ++ z 15 ++ b1 r.hazEn
  | 0x20 => b1 r.hazValid ++ z 14 ++ b1 r.hazSrc ++ z 1 ++ r.hazRow
  | 0x24 => r.scnt ++ r.ucnt
  | 0x28 => fld c.fl.flags 0 32
  | 0x2C => fld c.fl.flags 32 32
  | 0x30 => z 29 ++ r.rfault
  | 0x34 => shown 32 r.spDrop
  | 0x38 => b1 r.spValid ++ z 4 ++ r.spKind ++ r.spPos ++ r.spTag
  | 0x3C => shown 16 r.ueCnt ++ shown 16 r.ceCnt
  | _ => 0

/-- The scale trackers (R163 to R165). -/
def trkRead (d : Die) (off : Nat) : Word :=
  if off = 0 then z 31 ++ b1 d.trk.perRound
  else if off = 4 then d.trk.round
  else if 0x800 ≤ off ∧ off % 4 = 0 then
    let t := tget Tracker.reset d.trk.snap ((off - 0x800) / 8)
    if off % 8 = 0 then t.maxabs else t.sat ++ t.nan
  else 0

/-- The section and router registers (R200 to R203). -/
def dieSecRead (d : Die) (off : Nat) : Word :=
  let x := d.sec
  match off with
  | 0x00 => x.cur
  | 0x04 => mapFp d
  | 0x08 => secStatWord x
  | 0x0C => shown 32 x.drop
  | 0x10 => x.idx
  | 0x14 => b1 x.rteValid ++ b1 x.rteMulti ++ z 4 ++ x.rteKind ++ x.rteRound ++ x.rteLc
  | 0x18 => shown 32 x.detourDrop
  | _ => 0

/-- Cores of a die that the next warp reset retires for want of a spare column (R401). -/
def retireCount (s : Mach) (die : Nat) : Nat :=
  let p := (dieAt s die).prot
  ((p.overflow ++ (p.pend.filter (fun x => noSpare s die x)).map (·.pc)).eraseDups).length

/-- The protection registers (R409 to R411). -/
def protRead (s : Mach) (die off : Nat) : Word :=
  let p := (dieAt s die).prot
  match off with
  | 0x00 => p.gap ++ z 15 ++ b1 p.scrub
  | 0x04 => z 28 ++ p.evt
  | 0x08 => shown 32 p.ceCnt
  | 0x0C => z 16 ++ shown 16 p.ueCnt
  | 0x10 => shown 32 p.logOvf
  | 0x14 => BitVec.ofNat 16 (spares s die).length ++ BitVec.ofNat 8 p.pend.length ++ BitVec.ofNat 8 (min 255 (retireCount s die))
  | 0x20 => z 1 ++ b1 p.chkRefused ++ p.chkArray ++ p.chkPc ++ p.chkResult ++ z 18
  | 0x24 => p.chkAddr
  | 0x28 => loW p.chkData
  | 0x2C => hiW p.chkData
  | 0x30 => z 24 ++ p.chkCheck
  | 0x34 => z 24 ++ p.chkSyn
  | _ =>
    if 0x100 ≤ off ∧ off < 0x300 ∧ off % 4 = 0 then
      match p.log.find? (fun e => e.1 == (off - 0x100) / 16) with
      | some e => wordAt (logWords e.2) ((off - 0x100) / 4 % 4)
      | none => 0
    else 0

/-- Marked cores of a die. -/
def marked (s : Mach) (die : Nat) (f : Core → Bool) : Nat := (s.cores.filter (fun e => dieOf e.1 == die && f e.2)).length

/-- The checksum lane registers (R436, R437). -/
def cslRead (s : Mach) (die off : Nat) : Word :=
  let l := (dieAt s die).csl
  match off with
  | 0x00 => b1 l.busy ++ b1 l.refused ++ l.result ++ z 12 ++ l.kpc ++ z 8
  | 0x04 => z 27 ++ l.evt
  | 0x08 => shown 16 l.mismatch ++ shown 16 l.corrected
  | 0x0C => shown 32 l.skip
  | 0x10 => z 16 ++ BitVec.ofNat 8 (marked s die (·.suspect)) ++ BitVec.ofNat 8 (marked s die (·.retired))
  | 0x20 => b1 l.logValid ++ b1 l.logMulti ++ l.verdict ++ l.logPc ++ z 10 ++ l.accRow
  | 0x24 => l.tag ++ l.round
  | 0x28 => l.diff
  | 0x2C => l.tol
  | _ => 0

/-- DIE_VLOG and DIE_VARR (R501). -/
def slewWord (set : Nat) (x : Slew) (floored : Bool) : Word :=
  b1 x.settled ++ b1 x.held.isSome ++ b1 floored ++ z 3 ++ BitVec.ofNat 10 set ++ z 6 ++ x.target

/-- The die power registers (R501, R502). -/
def dpwRead (s : Mach) (die off : Nat) : Word :=
  let x := dpwAt s die
  match off with
  | 0x04 => slewWord (vlogSet s die) x.vlog x.floored
  | 0x08 => slewWord (varrSet s die) x.varr false
  | 0x0C => b1 x.rej ++ x.reason ++ z 13 ++ shown 16 x.coal
  | 0x10 => x.calt ++ z 13 ++ b1 x.slow ++ x.floor
  | 0x14 => z 11 ++ x.lasts ++ shown 16 x.trips
  | 0x18 => shown 32 x.strcnt
  | 0x1C => z 16 ++ x.temp ++ z 8
  | 0x20 => z 28 ++ x.sel
  | 0x24 => wordAt x.latch 0
  | 0x28 => wordAt x.latch 1
  | 0x2C => wordAt x.latch 2
  | 0x30 => wordAt x.latch 3
  | _ => 0

/-- A steward window. -/
def dieRead (s : Mach) (die off : Nat) : Word :=
  if off < 0x1000 then mapRead s die off
  else if off < 0x4400 then coreRead s (die * 208 + (off - 0x1000) / 0x40) ((off - 0x1000) % 0x40)
  else if 0x5000 ≤ off ∧ off < 0x6000 then trkRead (dieAt s die) (off - 0x5000)
  else if 0x6000 ≤ off ∧ off < 0x7000 then dieSecRead (dieAt s die) (off - 0x6000)
  else if 0x7000 ≤ off ∧ off < 0x8000 then protRead s die (off - 0x7000)
  else if 0x8000 ≤ off ∧ off < 0x9000 then cslRead s die (off - 0x8000)
  else if 0x9000 ≤ off ∧ off < 0xA000 then dpwRead s die (off - 0x9000)
  else 0

/-! ### Reads -/

/-- What a register holds; an offset that names no register reads 0 (R585). -/
def regRead (s : Mach) (a : Nat) : Word :=
  match placeOf a with
  | .ctl o => ctlRead s o
  | .start o => startRead s o
  | .mgmt o => mgmtRead s o
  | .power o => powerRead s o
  | .round o => roundRead s o
  | .sys o => sysRead s o
  | .maint o => if o = 0 then z 22 ++ s.mnt.sel else if o = 4 then s.mnt.tok else 0
  | .host o => hostRead s o
  | .emc o => emcRead s o
  | .trn o => trnRead s o
  | .port o => prtRead s o
  | .remote o => rmtRead s o
  | .keep o => keepRegRead s o
  | .die d o => dieRead s d o
  | .none_ => 0

/-! ### What a read clears (R584) -/

/-- The bytes of a field of which a read returns all: `be` enables bytes, the field is bytes lo to lo + n - 1. -/
def allBytes (be : BitVec 4) (lo n : Nat) : Bool := (List.range n).all (fun i => bit be (lo + i))

/-- Clear x when a read returns every byte of it: it then holds what the cycle's updates added to `x0` alone (R587). -/
def clr {w : Nat} (be : BitVec 4) (lo n : Nat) (x0 x : BitVec w) : BitVec w :=
  if allBytes be lo n then (if x0.toNat ≤ x.toNat then x - x0 else 0) else x

/-- What a read returns: of an RC field the value before the cycle's updates (R587). -/
def seenRead (s0 s : Mach) (a : Nat) : Word := (regRead s a &&& ~~~ rcMask a) ||| (regRead s0 a &&& rcMask a)

/-- The bits of W1C fields that the module has set in this cycle, those that were set before it too: a write of 1 leaves them set (R587). -/
def freshBits (s0 s : Mach) (a : Nat) : Word :=
  ((regRead s a &&& ~~~ regRead s0 a) ||| noted s a) &&& w1cMask a

def emsClear (be : BitVec 4) (off : Nat) (k0 k : Stack) : Stack :=
  match off with
  | 0x08 => { k with rdu := clr be 0 4 k0.rdu k.rdu }
  | 0x0C => { k with wru := clr be 0 4 k0.wru k.wru }
  | 0x10 => { k with rmu := clr be 0 4 k0.rmu k.rmu }
  | 0x14 => { k with rejCnt := clr be 2 2 k0.rejCnt k.rejCnt }
  | 0x24 => { k with ceCnt := clr be 0 4 k0.ceCnt k.ceCnt }
  | 0x28 => { k with ueCnt := clr be 0 2 k0.ueCnt k.ueCnt }
  | _ => k

def portClear (be : BitVec 4) (off : Nat) (x0 x : Port) : Port :=
  match off with
  | 0x24 => { x with feccor := clr be 0 4 x0.feccor x.feccor }
  | 0x28 => { x with fecunc := clr be 0 4 x0.fecunc x.fecunc }
  | 0x2C => { x with replay := clr be 0 4 x0.replay x.replay }
  | 0x30 => { x with crcErr := clr be 2 2 x0.crcErr x.crcErr, badmsg := clr be 0 2 x0.badmsg x.badmsg }
  | 0x34 => { x with dropq := clr be 2 2 x0.dropq x.dropq, lost := clr be 0 2 x0.lost x.lost }
  | _ => x

def coreClear (be : BitVec 4) (off : Nat) (r0 r : CoreRegs) : CoreRegs :=
  match off with
  | 0x1C => { r with hazCount := clr be 2 2 r0.hazCount r.hazCount }
  | 0x34 => { r with spDrop := clr be 0 4 r0.spDrop r.spDrop }
  | 0x3C => { r with ueCnt := clr be 2 2 r0.ueCnt r.ueCnt, ceCnt := clr be 0 2 r0.ceCnt r.ceCnt }
  | _ => r

def dieClear (be : BitVec 4) (d off : Nat) (s0 s : Mach) : Mach :=
  if 0x1000 ≤ off ∧ off < 0x4400 then
    modCore (d * 208 + (off - 0x1000) / 0x40) (fun c => { c with r := coreClear be ((off - 0x1000) % 0x40) (coreAt s0 (d * 208 + (off - 0x1000) / 0x40)).r c.r }) s
  else
    match off with
    | 0x600C => modDie d (fun x => { x with sec := { x.sec with drop := clr be 0 4 (dieAt s0 d).sec.drop x.sec.drop } }) s
    | 0x6018 => modDie d (fun x => { x with sec := { x.sec with detourDrop := clr be 0 4 (dieAt s0 d).sec.detourDrop x.sec.detourDrop } }) s
    | 0x7008 => modProt d (fun p => { p with ceCnt := clr be 0 4 (dieAt s0 d).prot.ceCnt p.ceCnt }) s
    | 0x700C => modProt d (fun p => { p with ueCnt := clr be 0 2 (dieAt s0 d).prot.ueCnt p.ueCnt }) s
    | 0x7010 => modProt d (fun p => { p with logOvf := clr be 0 4 (dieAt s0 d).prot.logOvf p.logOvf }) s
    | 0x8008 => modCsl d (fun l => { l with
        mismatch := clr be 2 2 (dieAt s0 d).csl.mismatch l.mismatch
        corrected := clr be 0 2 (dieAt s0 d).csl.corrected l.corrected }) s
    | 0x800C => modCsl d (fun l => { l with skip := clr be 0 4 (dieAt s0 d).csl.skip l.skip }) s
    | 0x900C => modDpw d (fun x => { x with coal := clr be 0 2 (dpwAt s0 d).coal x.coal }) s
    | 0x9014 => modDpw d (fun x => { x with trips := clr be 0 2 (dpwAt s0 d).trips x.trips }) s
    | 0x9018 => modDpw d (fun x => { x with strcnt := clr be 0 4 (dpwAt s0 d).strcnt x.strcnt }) s
    | _ => s

/-- The effect of a read of a register with some of its bytes enabled. -/
def readClears (be : BitVec 4) (a : Nat) (s0 s : Mach) : Mach :=
  match placeOf a with
  | .mgmt o =>
    if o = 0x10 then modLed (fun l => { l with ledSupp := clr be 0 4 s0.led.ledSupp l.ledSupp }) s
    else if o = 0x20 then (if be = 0 then s else calRead s)
    else if 0x40 ≤ o ∧ o < 0x50 ∧ o % 4 = 0 then
      modWeftRing ((o - 0x40) / 4) (fun r => { r with
        timeouts := clr be 0 2 (weftRingAt s0 ((o - 0x40) / 4)).timeouts r.timeouts }) s
    else s
  | .power o =>
    if o = 0x10 then modPwr (fun p => { p with peak := if allBytes be 0 2 ∧ p.peak = s0.pwr.peak then 0 else p.peak }) s
    else if o = 0x2C then modPwr (fun p => { p with waits := clr be 0 2 s0.pwr.waits p.waits }) s
    else s
  | .host o =>
    if o = 0x08 then modHost (fun h => { h with
      apPartial := clr be 2 2 s0.host.apPartial h.apPartial
      apKeep := clr be 1 1 s0.host.apKeep h.apKeep
      apNotServ := clr be 0 1 s0.host.apNotServ h.apNotServ }) s
    else s
  | .emc o => if 0x100 ≤ o ∧ o < 0x900 then modStk ((o - 0x100) / 0x40) (emsClear be ((o - 0x100) % 0x40) (stkAt s0 ((o - 0x100) / 0x40))) s else s
  | .trn o =>
    if 0x400 ≤ o ∧ o < 0x800 ∧ (o - 0x400) % 0x20 = 4 then 
      modUnit ((o - 0x400) / 0x20) (fun u => { u with elem := clr be 0 4 (unitAt s0 ((o - 0x400) / 0x20)).elem u.elem }) s
    else s
  | .port o => if 0x100 ≤ o ∧ o < 0x1100 then modPort ((o - 0x100) / 0x40) (portClear be ((o - 0x100) % 0x40) (portAt s0 ((o - 0x100) / 0x40))) s else s
  | .remote o => if o = 0x70 then modRmt (fun r => { r with rejCnt := clr be 2 2 s0.rmt.rejCnt r.rejCnt }) s else s
  | .die d o => dieClear be d o s0 s
  | _ => s

end Sys2Proof.Machine
end

