-- ==== Sys2Proof/Machine/RegWrite.lean ====
section
/-! DEFINITION. What a write of each register of BAR0 does, RST_REQ apart (19_register_reference.md and the register
tables of every chapter). -/

namespace Sys2Proof.Machine

/-! ### Management domain -/

/-- A write of TEL_MSEL latches a margin of the last sample (R557). -/
def telMsel (v : Word) (s : Mach) : Mach :=
  let mlc := (fld v 0 15).toNat
  modWeft (fun w => { w with
    msel := fld v 0 15
    telMargin := match w.sample.find? (fun e => e.1 == mlc) with | some e => e.2 | none => 0x80000000 }) s

def execTelMselWrite (v : Word) (s : State) : Res := runSelect 0x2068 (telMsel v) s

def mgmtWrite (off : Nat) (v : Word) (s : Mach) : Mach :=
  match off with
  | 0x28 => modCal (fun c => { c with setLo := v }) s
  | 0x2C => calSetHi v s
  | 0x60 => modWeft (fun w => { w with period := fld v 0 16 }) s
  | 0x68 => telMsel v s
  | _ => s

def powerWrite (off : Nat) (v : Word) (s : Mach) : Mach :=
  match off with
  | 0x14 => modPwr (fun p => setEff { p with cap := fld v 0 9 }) s
  | 0x1C => modPwr (fun p => { p with evt := w1c p.evt (fld v 0 12) }) s
  | 0x40 => pwrVminSel v s
  | _ => s

def sysWrite (off : Nat) (v : Word) (s : Mach) : Mach :=
  match off with
  | 0x00 => sysTwin v s
  | 0x10 => modSys (fun x => { x with weight := fld v 0 8 }) s
  | 0x14 => modSys (fun x => { x with total := fld v 0 24 }) s
  | 0x18 => modSys (fun x => { x with evt := w1c x.evt (fld v 0 4) }) s
  | 0x40 => lsCtrl v s
  | 0x48 => modLs (fun l => { l with evt := w1c l.evt (fld v 0 2) }) s
  | _ => s

/-- The default of a word of the MSI-X table: an entry starts masked (R582). -/
def msixDefault (i : Nat) : Word := if i % 4 = 3 then 1 else 0

/-- A word of the MSI-X table; a vector that is pending leaves when its entry is unmasked. -/
def msixWrite (i : Nat) (v : Word) (s : Mach) : Mach :=
  let s1 := modHost (fun h => { h with msixTab := if v = msixDefault i then tdel h.msixTab i else tput h.msixTab i v }) s
  if i % 4 = 3 ∧ !bit v 0 ∧ bit s.host.msixPend (i / 4) then
    emit (.vector (BitVec.ofNat 6 (i / 4))) (modHost (fun h => { h with msixPend := clrBit h.msixPend (i / 4) }) s1)
  else s1

def hostBlkWrite (off : Nat) (v : Word) (s : Mach) : Mach :=
  if 0x40 ≤ off ∧ off < 0x80 ∧ off % 4 = 0 then
    modHost (fun h => { h with irqMap := tset 0 h.irqMap ((off - 0x40) / 4) (fld v 0 6) }) s
  else if 0x100 ≤ off ∧ off < 0x500 then ringReg ((off - 0x100) / 0x40) ((off - 0x100) % 0x40) v s
  else if 0x2000 ≤ off ∧ off < 0x2400 ∧ off % 4 = 0 then msixWrite ((off - 0x2000) / 4) v s
  else
    match off with
    | 0x04 => modHost (fun h => { h with apsel := fld v 0 5 }) s
    | 0x10 => irqCauseWrite v s
    | 0x14 => modHost (fun h => { h with irqMask := fld v 0 13 }) s
    | _ => s

/-! ### Rim domain -/

/-- A write of EMC_CHK_CTRL (R403, R413). -/
def edgeChkWrite (v : Word) (s : Mach) : Mach :=
  match (fld v 0 2).toNat with
  | 0 => modEdge (chkFields v) s
  | 1 => edgeRawWrite v s
  | 2 => edgeRawRead v s
  | _ => edgeCheckedRead v s

def emcWrite (off : Nat) (v : Word) (s : Mach) : Mach :=
  if 0x100 ≤ off ∧ off < 0x900 then
    (if (off - 0x100) % 0x40 = 0x2C then emsLogsel ((off - 0x100) / 0x40) v s else s)
  else
    match off with
    | 0x00 => emcSplit v s
    | 0x04 => emcRimph v s
    | 0x08 => modEdge (fun e => { e with rimphRej := e.rimphRej && !bit v 1, splitRej := e.splitRej && !bit v 0 }) s
    | 0x10 => modEdge (fun e => { e with scrubEn := bit v 8, scrubHours := fld v 0 8 }) s
    | 0x14 => modEdge (fun e => { e with evt := w1c e.evt (fld v 0 4) }) s
    | 0x18 => modEdge (fun e => { e with dieth := fld v 0 8 }) s
    | 0x20 => edgeChkWrite v s
    | 0x24 => modEdge (fun e => { e with chkEa := fld e.chkEa 32 9 ++ v }) s
    | 0x28 => modEdge (fun e => { e with chkEa := fld v 0 9 ++ fld e.chkEa 0 32 }) s
    | _ => s

def trnWrite (off : Nat) (v : Word) (s : Mach) : Mach :=
  if 0x400 ≤ off ∧ off < 0x800 then
    (if (off - 0x400) % 0x20 = 0 then modUnit ((off - 0x400) / 0x20) (fun u => { u with fault := u.fault && !bit v 30 }) s else s)
  else if 0x100 ≤ off ∧ off < 0x1FC ∧ off % 4 = 0 then
    modTrn (fun t => { t with peers := tset 0 t.peers ((off - 0x100) / 4) (fld v 0 17) }) s
  else
    match off with
    | 0x00 => modTrn (fun t => { t with seed := hiW t.seed ++ v }) s
    | 0x04 => modTrn (fun t => { t with seed := v ++ loW t.seed }) s
    | 0x08 => setStep v s
    | 0x10 => uuStop v s
    | 0x14 => modTrn (fun t => { t with evt := w1c t.evt (fld v 0 6) }) s
    | 0x20 => modTrn (fun t => { t with digEn := bit v 31, digTimeout := fld v 8 16, digIvm1 := fld v 0 8 }) s
    | 0x34 => modTrn (fun t => { t with badValid := t.badValid && !bit v 16 }) s
    | _ => s

def prtWrite (off : Nat) (v : Word) (s : Mach) : Mach :=
  if 0x100 ≤ off ∧ off < 0x1100 then
    match (off - 0x100) % 0x40 with
    | 0x00 => prtCfg ((off - 0x100) / 0x40) v s
    | 0x20 => modPort ((off - 0x100) / 0x40) (fun x => { x with evt := w1c x.evt (fld v 0 8) }) s
    | _ => s
  else s

def rmtWrite (off : Nat) (v : Word) (s : Mach) : Mach :=
  match off with
  | 0x04 => ptnSel v s
  | 0x20 => winSel v s
  | 0x50 => modRmt (fun r => { r with sysfMode := fld v 0 2 }) s
  | 0x60 => modRmt (fun r => { r with evt := w1c r.evt (fld v 0 9) }) s
  | 0x64 => modRmt (fun r =>
      let r := { r with nackMulti := r.nackMulti && !bit v 30 }
      if bit v 31 then { r with nackValid := false, nackCause := 0, nackSrc := 0, nackTag := 0, nackRound := 0 } else r) s
  | _ => s

def keepRegWrite (off : Nat) (v : Word) (s : Mach) : Mach :=
  match off with
  | 0x04 => modKeep (fun k => { k with rsValid := k.rsValid && !bit v 31, rsMulti := k.rsMulti && !bit v 30 }) s
  | 0x0C => modKeep (fun k => { k with namedValid := k.namedValid && !bit v 16 }) s
  | _ => s

/-! ### Steward windows -/

/-- A write of a per-core register; a written VALID clears the whole record (R134, R261). -/
def coreRegsWrite (off : Nat) (v : Word) (r : CoreRegs) : CoreRegs :=
  match off with
  | 0x04 =>
    let r := { r with fMulti := r.fMulti && !bit v 29 }
    if bit v 31 then { r with fValid := false, fClass := false, fRound := 0, fCause := 0, fAddr := 0, fEpc := 0 } else r
  | 0x1C => { r with hazEn := bit v 0 }
  | 0x20 => { r with hazValid := r.hazValid && !bit v 31 }
  | 0x30 => { r with rfault := w1c r.rfault (fld v 0 3) }
  | 0x38 => if bit v 31 then { r with spValid := false, spKind := 0, spPos := 0, spTag := 0 } else r
  | _ => r

/-- A write of CHK_CTRL (R403, R410). -/
def chkCtrl (d : Nat) (v : Word) (s : Mach) : Mach :=
  match (fld v 0 2).toNat with
  | 0 => modProt d (fun p => { p with chkRefused := p.chkRefused && !bit v 30, chkArray := fld v 28 2, chkPc := fld v 20 8 }) s
  | 1 => chkRawWrite d v s
  | 2 => chkRawRead d v s
  | _ => chkCheckedRead d v s

def dieWrite (d off : Nat) (v : Word) (s : Mach) : Mach :=
  if 0x1000 ≤ off ∧ off < 0x4400 then
    modCore (d * 208 + (off - 0x1000) / 0x40) (fun c => { c with r := coreRegsWrite ((off - 0x1000) % 0x40) v c.r }) s
  else
    match off with
    | 0x5000 => modDie d (trkCtrl s.now v) s
    | 0x6008 => modDie d (fun x => { x with sec := { x.sec with fault := x.sec.fault && !bit v 31 } }) s
    | 0x6014 => modDie d (fun x => { x with sec := { x.sec with
        rteValid := x.sec.rteValid && !bit v 31, rteMulti := x.sec.rteMulti && !bit v 30 } }) s
    | 0x7000 => protCtrl d v s
    | 0x7004 => modProt d (fun p => { p with evt := w1c p.evt (fld v 0 4) }) s
    | 0x7020 => chkCtrl d v s
    | 0x7024 => modProt d (fun p => { p with chkAddr := v }) s
    | 0x7028 => modProt d (fun p => { p with chkData := hiW p.chkData ++ v }) s
    | 0x702C => modProt d (fun p => { p with chkData := v ++ loW p.chkData }) s
    | 0x7030 => modProt d (fun p => { p with chkCheck := fld v 0 8 }) s
    | 0x8000 => cslCtrl d v s
    | 0x8004 => modCsl d (fun l => { l with evt := w1c l.evt (fld v 0 5) }) s
    | 0x8020 => modCsl d (fun l =>
        let l := { l with logMulti := l.logMulti && !bit v 30 }
        if bit v 31 then { l with logValid := false, verdict := 0, logPc := 0, accRow := 0, tag := 0, round := 0, diff := 0, tol := 0 }
        else l) s
    | 0x9000 => dieVcmd d v s
    | 0x900C => modDpw d (fun x => { x with rej := x.rej && !bit v 31 }) s
    | 0x9020 => vminSel d v s
    | _ => s

/-- A write of a register, RST_REQ apart; a write of an offset that names none is discarded (R585). -/
def regWrite (a : Nat) (v : Word) (s : Mach) : Mach :=
  match placeOf a with
  | .mgmt o => mgmtWrite o v s
  | .power o => powerWrite o v s
  | .round o => rndWrite o v s
  | .sys o => sysWrite o v s
  | .maint o => if o = 0 then mntSel v s else s
  | .host o => hostBlkWrite o v s
  | .emc o => emcWrite o v s
  | .trn o => trnWrite o v s
  | .port o => prtWrite o v s
  | .remote o => rmtWrite o v s
  | .keep o => keepRegWrite o v s
  | .die d o => dieWrite d o v s
  | _ => s

/-- A host's write of a register, by the module as it stood before the cycle's updates: a bit that the module has set
stays set, and the latched copy behind a selection register is the entry as it stood (R587). -/
def hostWrite (a : Nat) (v : Word) (s0 s : Mach) : Mach :=
  latchFrom a (regWrite a v s0) (regWrite a (v &&& ~~~ freshBits s0 s a) s)

/-- An entry of a SETTINGS section: the bits of its mask are set, the other RW bits stay (R512). -/
def applySetting (e : Nat × Nat × Nat) (s : Mach) : Mach :=
  let m := (rwMask e.1).getD 0
  regWrite e.1 (BitVec.ofNat 32 (((regRead s e.1).toNat &&& m &&& (0xFFFFFFFF ^^^ e.2.1)) ||| e.2.2)) s

end Sys2Proof.Machine
end

