-- ==== Sys2Proof/Machine/Start.lean ====
section
/-! DEFINITION. The start flow, the power sequence, power-down and the burn pattern (15_power_clocks_cooling.md,
16_upsett_and_startup.md). -/

namespace Sys2Proof.Machine

/-! ### What a start begins with (R29, R503) -/

/-- The record in flight whose sequence runs: it still gets its COMMIT (R490). -/
def finishing (s : Mach) : Option LedRec := if s.pwr.running.any (fun w => w.kind == .ledger) then s.led.inFlight else none

/-- The ledger as the scan of step 4 finds it. -/
def scanLedger (s : Mach) : Ledger :=
  let l := s.led
  let flash := match finishing s with
    | some r => l.flash.map (fun q => if q.seq == r.seq then { q with valid := true } else q)
    | none => l.flash
  let l1 := { Ledger.reset with flash := flash, blocks := l.blocks, wblock := l.wblock, woff := l.woff, nextSeq := l.nextSeq }
  { l1 with mapSet := newestSet l1 }

/-- The event of a record that is committed while the module restarts is held (R552). -/
def heldEvents (s : Mach) : List LedRec := ((finishing s).map (fun r => { r with valid := true })).toList

/-! ### The rings of the weft at a restart (R531) -/

/-- The start finds the ring whole. Nothing in the spec says what mends a broken one, so for it this is free (log entry 4). -/
def foundWhole (s : Mach) (r : Nat) : Bool := (weftRingAt s r).state == 0 || bit (Config.free32 (s.free + 1 + r)) 0

/-- The rings that stay broken, and the dies that they do not reach. -/
def ringsKept (s : Mach) : Tbl WeftRing :=
  s.weft.rings.filterMap (fun e => if foundWhole s e.1 then none else some (e.1, { e.2 with timeouts := 0 }))
def diesKept (s : Mach) : Tbl Die :=
  s.dies.filterMap (fun e => if e.2.stw.reachable || foundWhole s (ringOf e.1) then none
    else some (e.1, { Die.reset with stw := { Die.reset.stw with reachable := false } }))
def ringBroken (s : Mach) : Bool := s.weft.rings.any (fun e => e.2.state != 0)

/-- The newest epoch that the ledger holds (R313). -/
def ledgerEpoch (l : Ledger) : Word :=
  match ((validRecs l).filter (fun r => r.ev.cls == 0x2)).getLast? with
  | some r => BitVec.ofNat 32 (numAt r.ev.detail 0 4)
  | none => 0

/-- The DRAM dies of a stack that the ledger records as lost, and whether the stack failed by them (R389, R390). -/
def ledgerLost (l : Ledger) (st : Nat) : BitVec 20 × Bool :=
  match ((validRecs l).filter (fun r => r.ev.cls == 0x12 && numAt r.ev.detail 0 1 == st)).getLast? with
  | some r => (BitVec.ofNat 20 (numAt r.ev.detail 1 3), numAt r.ev.detail 4 1 % 2 == 1)
  | none => (0, false)

/-- Sequences on the configuration flash and the fuses that run always finish (R490), and a recalibration that they deferred follows
(R488). -/
def finishSeqs (s : Mach) : Mach :=
  let s1 := s.pwr.running.foldl (fun s w => seqResult w.kind s) s
  match s.pwr.recal with
  | some e => recalibrate e s1
  | none => s1

/-- The feeds that are taken at a start: those that were taken since the input was lost, and both where the block was told of none (R495;
DESIGN CHOICE, log entry 38). -/
def feedsIn (p : Power) : Bool × Bool := if p.feedA || p.feedB then (p.feedA, p.feedB) else (true, true)

/-- The bank charges: its input is present and it is not full (R487). -/
def bankCharges (cold : Bool) (p : Power) : Bool := cold || (p.charging && !p.full)

/-- The host link after a restart (R29, R558): it trains again, unless PERST# is asserted, with what the other end supports; where nothing
was told of that yet, it is free (log entry 4). -/
def retrained (s : Mach) : HostBlk :=
  let h := s.host
  let kept := { HostBlk.reset with peerGen := h.peerGen, peerWidth := h.peerWidth, peerFlit := h.peerFlit, perst := h.perst }
  if h.perst then kept
  else if h.peerGen = 0 then
    let v := Config.free32 s.free
    trainLink { kept with peerGen := 3 + (fld v 0 2).setWidth 4, peerWidth := (1 : BitVec 5) <<< ((fld v 8 8).toNat % 5), peerFlit := bit v 31 }
  else trainLink kept

/-- The free values that a restart draws: the other end of the host link, and the rings that were broken. -/
def drawn (s : Mach) : Nat := if ringBroken s || (!s.host.perst && s.host.peerGen == 0) then 5 else 0

/-- Everything takes its reset value but what no reset touches: the calendar, the fuses, the two flashes, the gauge, the
state of the feeds and of the host link's wires; a module reset also keeps the ATTEMPT and watchdog counts. -/
def restartMach (cold : Bool) (s0 : Mach) : Mach :=
  let s := finishSeqs s0
  let x := s.start
  let p := s.pwr
  { Mach.reset with
    now := s.now
    free := s.free + drawn s
    out := s.out
    dies := diesKept s
    cal := s.cal
    led := scanLedger s
    epoch := ledgerEpoch (scanLedger s)
    cradle := { Cradle.reset with held := heldEvents s }
    weft := { Weft.reset with rings := ringsKept s, expiries := if cold then 0 else s.weft.expiries }
    keep := slotsOf (fun _ => false) (scanLedger s) x.serial .reset
    pwr := { Power.reset with
      feedA := (feedsIn p).1, feedB := (feedsIn p).2, coul := p.coul, model := p.model, fullcap := p.fullcap
      charging := bankCharges cold p, coolOut := p.coolOut }
    host := retrained s
    start := { Start.reset with
      attempt0 := if cold then 0 else x.attempt0, attempt1 := if cold then 0 else x.attempt1, t0 := s.now
      epoch0 := ledgerEpoch (scanLedger s)
      serial := x.serial, fused := x.fused, revoked := x.revoked, programmed := x.programmed, ikey := x.ikey
      knownGood := x.knownGood, slot0 := x.slot0, slot1 := x.slot1, lic0 := x.lic0, lic1 := x.lic1 } }

/-- The record of a reset (R35, R540). -/
def resetEvent (scope : Nat) (cause : BitVec 4) (absorbed : Bool) (round : BitVec 48) (s : Mach) : Mach :=
  let e := mkEvent s 0x3 0 0 0xFFFF 0xFFFF 0 (toBytes 1 scope ++ toBytes 1 cause.toNat ++ toBytes 1 (if absorbed then 1 else 0))
  modLed (queueEvent { e with round := round }) s

/-! ### Steps 1 to 6 -/

/-- Step 2: the image is in use. -/
def useImage (slot : Bool) (u : Upsett) (key : Nat) (s : Mach) : Mach :=
  let volt := (sectsOf u 2).head?
  let v (i : Nat) (d : Nat) : BitVec 10 := BitVec.ofNat 10 (match volt with | some b => numAt b (2 * i) 2 | none => d)
  modStart (fun x =>
    { x with
      slot := slot, version := BitVec.ofNat 4 (upVersion u), seq := BitVec.ofNat 64 (upSeq u), svn := BitVec.ofNat 8 (upSvn u)
      rollfwd := numAt u 17 1 == 1, signer := BitVec.ofNat 2 key, altValid := altIsValid x slot
      patches := BitVec.ofNat 7 (((ownPatches u).map (fun b => numAt b 4 2)).getD 0)
      patchSlots := ((ownPatches u).map patchEntries).getD [], patchCode := ((ownPatches u).map patchText).getD []
      attempt0 := if slot then x.attempt0 else satInc x.attempt0, attempt1 := if slot then satInc x.attempt1 else x.attempt1
      vlogStart := v 0 320, vlogRun := v 1 300, varrStart := v 2 320, varrRun := v 3 320
      dieRun := (((sectsOf u 4).head?).map (fun b => (dieVolts b).foldl (fun t e =>
        tput t e.1 (BitVec.ofNat 10 e.2.1, BitVec.ofNat 10 e.2.2)) [])).getD [] }) s

/-- Step 3: the features in force; a licence that is not valid is counted and recorded (R520). -/
def useLicences (s : Mach) : Mach :=
  let bad := (storedLicences s.start).filter (fun l => !licenceValid s.start l)
  bad.foldl (fun s l => licRecord l 2 s) (modStart (fun x =>
    { x with
      features := storedFeatures x, licInvalid := BitVec.ofNat 8 (min 255 bad.length)
      licValid := BitVec.ofNat 8 (min 255 (validLicences x).length) }) s)

/-- Steps 1 to 4, and at a module reset step 6 as well; a cold start waits in step 5 until the bank is full. -/
def beginStart (cold : Bool) (cause : BitVec 4) (record : Bool) (s : Mach) : Mach :=
  let round := s.ctl.reqRound
  let s1 := modCtl (fun c => { c with lastCause := cause, lastScope := if cold then 0 else 3 }) (restartMach cold s)
  let s1 := abandonActivities s.mnt.acts s1
  let s2 := if record then resetEvent (if cold then 0 else 3) cause false (if cold then 0 else round) s1 else s1
  match chooseImage s2.start with
  | none => startFail 1 8 s2
  | some (slot, u, key) =>
    let s3 := useLicences (useImage slot u key s2)
    let s4 := modStart (fun x => { x with state := 2 }) (modLed (fun l => { l with repair := readRepair l }) s3)
    if cold && !s4.pwr.full then s4 else raiseEpoch s4

/-- Input power is applied, or returns after the bank was exhausted. -/
def coldStart (s : Mach) : Mach :=
  if s.start.state ≠ 0 then s else beginStart true 0 true (clockStart (modPwr (fun p => { p with vaux := true, inloss := false }) s))

def execColdStart (s : State) : Res := run coldStart s

/-! ### Step 7: the power sequence (R469, R470) -/

/-- Step n of the sequence ramps the domain. -/
def rampsNow (n : Nat) (i : DomInst) : Bool := rampStep i == some n

/-- A failure that does not end the start: its record has no FAIL code (R523). -/
def startNote : Mach → Mach := logModule 0x4 0 [0]

/-- A ramp failed (R470). -/
def rampFail (s : Mach) (i : DomInst) : Mach :=
  match i with
  | .die d _ => startNote (modPwr (fun p => { p with dieFail := if p.dieFail.contains d.val then p.dieFail else p.dieFail ++ [d.val] }) s)
  | .stack st _ => startNote (modStk st.val (fun k => { k with failed := true })
      (modPwr (fun p => { p with stkFail := if p.stkFail.contains st.val then p.stkFail else p.stkFail ++ [st.val] }) s))
  | .port p => modPwr (fun x => { x with voptFail := if x.voptFail.contains p.val then x.voptFail else x.voptFail ++ [p.val] }) s
  | _ => s

/-- A domain of a die at its set point. -/
def atRest (now : Nat) (v : BitVec 10) : Slew :=
  { from_ := v, since := now, goal := v, target := v, held := none, last := none, settled := true, settling := false }

/-- VLOG of a group of dies is up. -/
def dieGroupOn (k : Nat) (s : Mach) : Mach :=
  iter 8 (fun i s =>
    let d := 8 * k + i
    if s.pwr.dieFail.contains d then s
    else modDpw d (fun x => { x with
      on := true, vlog := atRest s.now s.start.vlogStart, varr := atRest s.now s.start.varrStart }) s) s

/-- Step 8: a stack is trained, with the dies that the ledger marks lost. -/
def trainStack (st : Nat) (s : Mach) : Mach :=
  let lost := ledgerLost s.led st
  modStk st (fun k =>
    let failed := k.failed || lost.2
    { k with dieLost := k.dieLost ||| lost.1, failed := failed, selfref := false, trained := !failed, trainT := k.temp
             corr := [] }) s

/-- Training finds a DRAM die failing, so it is marked lost (R389); no other activity runs beside a training. -/
def trainFinds (e : Nat × Nat) (s : Mach) : Mach := if bit (stkAt s e.1).dieLost e.2 then s else markLost e.1 e.2 s

/-- Every stack is trained, with the dies that it finds failing, and the licensed ports leave DARK (R503 step 8). -/
def trainAll (bad : List (Nat × Nat)) (s : Mach) : Mach :=
  iter 64 lightPort (bad.foldl (fun s e => trainFinds e s) (iter 32 trainStack s))

/-- The time from one step of the sequence to the next, in reference cycles (R469). -/
def rampTime (n : Nat) : Nat :=
  if n < 6 then 1100000 else if n = 6 then 2200000 else if n % 3 = 0 then 1540000 else 330000

def powerSequenceStep (failed : List DomInst) (dies : List (Nat × Nat)) (s : Mach) : Mach :=
  match s.pwr.up with
  | none => s
  | some n =>
    let bad := failed.filter (rampsNow n)
    if n < 3 ∧ bad ≠ [] then
      startFail 2 9 (modPwr (fun p => { p with up := none, seqFail := true, down := some (if n = 2 then 22 else if n = 1 then 23 else 24, .stay) }) s)
    else
      let s1 := bad.foldl rampFail s
      let s2 := if n = 2 then modPwr (fun p => { p with rimOn := true }) s1
        else if 7 ≤ n ∧ n % 3 = 0 ∧ n < 61 then dieGroupOn ((n - 7) / 3) s1 else s1
      if n < 61 then { modPwr (fun p => { p with up := some (n + 1) }) s2 with now := s2.now + rampTime n }
      else iter dies.length (fun _ s => startNote s) <| trainAll dies (modStart (fun x => { x with state := 5 }) (modPwr (fun p => { p with up := none, burn := some 0 }) s2))

def execPowerSequenceStep (failed : List DomInst) (s : State) (bad : List (Fin 32 × Fin 20) := []) : Res :=
  run (powerSequenceStep failed (bad.map (fun e => (e.1.val, e.2.val)))) s

/-! ### Step 9: the burn pattern (R483, R484) -/

/-- The coolant stays outside its limits for 60 s. -/
def startCoolantTimeout (s : Mach) : Mach :=
  if s.start.state = 5 ∧ s.pwr.burn = some 0 ∧ !coolOk s.pwr then beginDown .stay (startFail 4 9 s) else s

def execStartCoolantTimeout (s : State) : Res := run startCoolantTimeout s

/-- Dies whose floor search runs. -/
def searchingDies (s : Mach) : List Nat := (List.range 144).filter (fun d => (dpwAt s d).searching)

/-- The search of a die ends at its last clean step (R483). -/
def endSearch (c : BitVec 10) (x : DiePower) : DiePower :=
  { x with searching := false, floor := BitVec.ofNat 10 (max 240 (c.toNat + (if x.slow then 20 else 10))), calt := x.temp }

/-- A step of a die's floor search, clean or not; the second search begins at 0.85 V, with VARR there too (R467, R484). -/
def floorDie (notClean : List Nat) (d : Nat) (s : Mach) : Mach :=
  let x := dpwAt s d
  let v := x.vlog.from_
  if !x.searching then s
  else if notClean.contains d then
    match x.clean with
    | some c => refloor d (modDpw d (endSearch c) s)
    | none =>
      if x.again then
        startNote (modPwr (fun p => { p with dieFail := if p.dieFail.contains d then p.dieFail else p.dieFail ++ [d] })
          (modDpw d (fun x => { x with searching := false }) s))
      else modDpw d (fun x => { x with again := true, vlog := atRest s.now 340, varr := atRest s.now 340 }) s
  else if v.toNat ≤ 240 then refloor d (modDpw d (fun x => endSearch v { x with clean := some v }) s)
  else modDpw d (fun x => { x with clean := some v, vlog := atRest s.now (v - 1) }) s

/-- The set points go to their run values, VLOG to its adjusted floor at least (R483). -/
def runPoints (d : Nat) (s : Mach) : Mach :=
  let x := dpwAt s d
  if !x.on then s
  else
    let (vl, va) := match s.start.dieRun.find? (fun e => e.1 == d) with | some e => e.2 | none => (s.start.vlogRun, s.start.varrRun)
    let lo := max vl.toNat (adjFloor x)
    modDpw d (fun x => { x with
      vlog := { atRest s.now (BitVec.ofNat 10 (vlogAt x s.now)) with goal := BitVec.ofNat 10 lo, target := vl, settled := false }
      varr := { atRest s.now (BitVec.ofNat 10 (varrAt x s.now)) with goal := va, target := va, settled := false }
      floored := decide (vl.toNat < lo) }) s

/-- Time passes. -/
def pass (ms : Nat) (s : Mach) : Mach := { s with now := s.now + ms * 1100000 }

/-! ### Steps 10 to 12 -/

/-- The map of every die before its rebuild: the excluded rows of its fuses (R522). -/
def fuseMaps (s : Mach) : Mach :=
  iter 144 (fun d s => modDie d (fun x => { x with
    spare := match s.start.knownGood.find? (fun e => e.1 == d) with | some e => e.2 | none => 0xCCCCCCCCCCCCCCCC
    absent := 0xFFFFFFFFFFFFFFFF, dead := 0, failed := false }) s) s

/-- The measurements that READY fixes (R524). -/
def fixMeasures (s : Mach) : Mach :=
  let x := s.start
  let u := (slotImage x x.slot).getD []
  let put (i : Nat) (v : BitVec 384) (t : Tbl (BitVec 384)) := tset 0 t i v
  let t1 := put 1 Config.romDigest (put 2 (sha384 ((ownPatches u).getD [])) (put 3 (sha384 (upBody u)) x.meas))
  let t2 := put 4 (sha384 (upPub u)) (put 5 (sha384 (toBytes 4 x.features.toNat ++ (validLicences x).flatten)) t1)
  let t3 := put 6 (sha384 (bytesOf x.fused ++ toBytes 1 x.programmed.toNat ++ toBytes 1 x.revoked.toNat ++ toBytes 5 0)) t2
  modStart (fun x => { x with meas := put 7 (sha384 ((sectsOf u 5).head?.getD [])) t3 }) s

/-- Step 12: the lock, the anti-rollback counter, the START record, and the record of a host link that has not trained (R523; DESIGN CHOICE,
log entry 46). -/
def ready (s : Mach) : Mach :=
  let s1 := fixMeasures (modStart (fun x => { x with
    locked := true, state := 7, attempt0 := 0, attempt1 := 0, startMs := BitVec.ofNat 32 ((s.now - x.t0) / 1100000)
    fused := if x.rollfwd ∧ x.fused.toNat < x.svn.toNat then x.svn else x.fused }) s)
  let s1 := if noLink s1 then startNote s1 else s1
  raiseIrq 0 (logModule 0x1 0 (bytesOf (startRead s1 4) ++ bytesOf (startRead s1 8) ++ bytesOf (startRead s1 0x10) ++
    bytesOf (startRead s1 0x18)) s1)

/-- Step 11: the settings of the image, section after section. -/
def applySettings (s : Mach) : Mach :=
  let u := (slotImage s.start s.start.slot).getD []
  ((sectsOf u 1).flatMap settings).foldl (fun s e => applySetting e s) s

def burnStep (b : BurnStep) (s : Mach) : Mach :=
  if s.start.state ≠ 5 then s
  else
    match b, s.pwr.burn with
    | .start, some 0 => if coolOk s.pwr then modPwr (fun p => { p with burn := some 1 }) s else s
    | .trim, some 1 => pass 2000 (modPwr (fun p => { p with burn := some 2 }) s)
    | .stretchTiming slow, some 2 =>
      let s1 := slow.foldl (fun s d => modDpw d.val (fun x => { x with slow := true }) s) (pass 1000 s)
      modPwr (fun p => { p with burn := some 3 })
        (iter 144 (fun d s => modDpw d (fun x => { x with searching := x.on, again := false, clean := none }) s) (pass 100 s1))
    | .floorStep bad, some 3 => iter 144 (floorDie (bad.map (·.val))) (pass 20 s)
    | .finish idle katFail, some 3 =>
      if !(searchingDies s).isEmpty then s
      else
        let s1 := iter 144 runPoints (modPwr (fun p => { p with burn := none, idle := idle }) (pass 300 s))
        ready (applySettings (rebuildAll (katFail.map CoreId.key) (fuseMaps (modStart (fun x => { x with state := 6 }) s1))))
    | _, _ => s

def execBurnStep (b : BurnStep) (s : State) : Res := run (burnStep b) s

/-! ### Power-down (R471) -/

/-- The module is cool enough to leave THERM_OFF (R494). -/
def coolEnough (s : Mach) : Bool :=
  coolOk s.pwr && (List.range 144).all (fun d => decide ((dpwAt s d).temp.toInt < 60)) &&
    s.pwr.stkTemp.all (fun e => decide (e.2.toInt < 60)) && s.pwr.portTemp.all (fun e => decide (e.2.toInt < 60))

/-- THERM_OFF keeps the module down (R494). -/
def hotOff (s : Mach) : Bool := s.pwr.thermOff && !coolEnough s

/-- The start flow of a module reset waits: for its domains to be off, for the module to be cool, or for its input (R465, R494). -/
def startWaits (s : Mach) : Bool := s.pwr.inloss || hotOff s

/-- Input returns while VAUX is up: the start flow begins again, after a thermal trip once the module is cool, and after a power-down that
still runs (R465, R494). -/
def startAgain (cause : BitVec 4) (s : Mach) : Mach :=
  if startWaits s || s.pwr.down.isSome then
    modPwr (fun p => { p with down := some ((p.down.map (·.1)).getD 24, .again) })
      (modCtl (fun c => { c with modulePending := true, cause := cause }) (endCommands s))
  else beginStart false cause true s

/-- A port whose power goes off: its link is gone, and its partner is lost at the other end (R31). -/
def portOff (p : Nat) (s : Mach) : Mach := modPort p (fun x => { x with state := 0, gen := 0, active := 0, urgent := [], mgmt := [] }) s

/-- The stacks lose their power, and with it their contents (R29). -/
def stacksOff (s : Mach) : Mach :=
  iter 32 (fun i s => modStk i (fun k => { k with
      trained := false, answers := [], rejects := [], replies := [], squares := [], writes := [], work := [] }) s)
    (modEdge (fun e => { e with mem := [], ck := [], poison := [] }) s)

/-- The records of minimum voltages still wait for the ledger. -/
def vminQueued (l : Ledger) : Bool :=
  l.ordQ.any (fun e => e.cls == 0x13) || (match l.inFlight with | some r => r.ev.cls == 0x13 | none => false)

def powerDownStep (s : Mach) : Mach :=
  match s.pwr.down with
  | none => s
  | some (n, after) =>
    let next (s : Mach) := modPwr (fun p => { p with down := some (n + 1, after) }) s
    if n = 0 ∧ vminQueued s.led then s
    else if n < 18 then next (iter 8 (fun i s => dieOff (8 * (17 - n) + i) s) s)
    else if n = 18 then next (iter 64 portOff s)
    else if n = 21 then next (stacksOff s)
    else if n < 24 then next s
    else
      match after with
      | .stay => modPwr (fun p => { p with down := none, rimOn := false }) s
      | .restart => if startWaits s then s else beginStart false s.ctl.cause (s.ctl.cause == 5) s
      | .again => if startWaits s then s else beginStart false s.ctl.cause true s

def execPowerDownStep (s : State) : Res := run powerDownStep s

end Sys2Proof.Machine
end

