-- ==== Sys2Proof/Machine/Resets.lean ====
section
/-! DEFINITION. The resets, who requests them, and the maintenance commands (01_warp_and_weft.md, R34, R390, R408, R426,
R528, R545, R572, R573). -/

namespace Sys2Proof.Machine

/-! ### The warp reset (R29, R30) -/

/-- A core in a warp reset: only what a verdict has said of it is kept, for the rebuild at the end (R426). -/
def coldCore (c : Core) : Core := { Core.reset with suspect := c.suspect, retired := c.retired }

def coldCores (s : Mach) : Mach :=
  { s with cores := s.cores.filterMap (fun e => if coldCore e.2 = Core.reset then none else some (e.1, coldCore e.2)) }

/-- The registers of the steward windows that a warp reset covers (R583). -/
def coldDie (d : Die) : Die := { d with trk := .reset, sec := .reset, csl := .reset }

/-- What core-side users of the stacks and of the ports were served (R30). -/
def dropCoreSide (s : Mach) : Mach :=
  modRmt (fun r => { r with reads := [] })
    (iter 32 (fun i s => modStk i (fun k => { k with
      answers := [], rejects := [], replies := [], squares := [], writes := [], work := k.work.filter (fun w => w.key.isNone) }) s) s)

/-- Commands that were accepted and have not started, of opcodes that a reset reaches, end with it too (R572). -/
def endWaiting (mine : Desc → Bool) (s : Mach) : Mach :=
  iter 16 (fun q s => ((ringAt s q).cmds.filter (fun c => !c.started && mine c.desc)).foldl
    (fun s c => complete ⟨q, c.tok⟩ 0x10 0 s) s) s

/-- The section commands; and the commands that touch edge memory, a port, the partner or window tables, or a seal or restore. -/
def isSection (d : Desc) : Bool := [0x10, 0x11].contains (cB d 0 1)
def touchesRim (d : Desc) : Bool :=
  [0x12, 0x20, 0x21, 0x28, 0x29, 0x30, 0x39, 0x40, 0x41, 0x42, 0x49, 0x50, 0x51, 0x52].contains (cB d 0 1) ||
    (cB d 0 1 == 0x60 && cB d 8 1 == 0x10)

/-- Every core, router, engine and tracker is in reset. -/
def coldWarp (s : Mach) : Mach :=
  let s1 := endActivities (fun t => decide (t < 144)) (endWaiting isSection (endSecCmds false (endSwitch (endSection s))))
  let s2 := iter 144 (fun d s => modDie d coldDie s) (coldCores s1)
  modLs (fun l => { l with stopped := false }) (modSec (fun x => { x with budget := false }) (dropCoreSide s2))

/-- The scope and cause of the reset that runs from now on (R35, R40). -/
def resetCause (scope : BitVec 2) (cause : BitVec 4) : Mach → Mach :=
  modCtl (fun c => { c with lastCause := cause, lastScope := scope })

def warpBegin (cause : BitVec 4) (s : Mach) : Mach :=
  modCtl (fun c => { c with scope := 1 }) (resetCause 1 cause (coldWarp (logVmin s)))

/-- The MAINT commands that await the end of the reset (R573). -/
def endOwed (s : Mach) : Mach :=
  s.ctl.owed.foldl (fun s o => complete o 0x00 0 s) (modCtl (fun c => { c with owed := [], scope := 0 }) s)

/-- The known-answer tests have run; the maps are rebuilt, and every array holds zero (R384, R425). -/
def warpEnd (katFail : List Nat) (s : Mach) : Mach := { rebuildAll katFail s with cores := [] }

def warpResetDone (katFail : List Nat) (s : Mach) : Mach :=
  if s.ctl.scope ≠ 1 then s
  else endOwed (modCtl (fun c => { c with warpCnt := satInc c.warpCnt }) (warpEnd katFail s))

def execWarpResetDone (katFail : List CoreId) (s : State) : Res := run (warpResetDone (katFail.map CoreId.key)) s

/-! ### The rim reset (R29, R31, R313, R572) -/

/-- A change that touches the partner or window tables, against one of MOD_ID alone. -/
def touchesTables : Change → Bool
  | .window _ _ _ => true
  | .partner d _ => decide (cB d 8 1 ≠ 3 ∧ cB d 8 1 ≠ 4)

/-- Every command that touches edge memory, a port, the tables, or a seal or restore ends (R572). -/
def endRimCmds (s : Mach) : Mach :=
  let owed := (s.rmt.changes.filter touchesTables).map Change.owed ++ s.rmt.fences.flatMap (·.owed) ++ s.rmt.named.map (·.2) ++
    s.trn.digSet.map (·.owed)
  endWaiting touchesRim <| owed.foldl (fun s o => complete o 0x10 0 s) (stopExports (fun _ => true) (endSessions (dropLists s)))

/-- A stack in self-refresh, without its controller's registers; what it has lost stays lost (R29, R390). -/
def coldStack (k : Stack) : Stack :=
  { Stack.reset with selfref := true, failed := k.failed, dieLost := k.dieLost, temp := k.temp }

/-- The blocks of the rim at their reset values (R582). -/
def coldRim (s : Mach) : Mach :=
  let k := s.keep
  iter 32 (fun i s => modStk i coldStack s)
    { s with
      rnd := { Rnd.reset with sets := s.rnd.sets }
      edge := { Edge.reset with mem := s.edge.mem, ck := s.edge.ck, poison := s.edge.poison, keepEn := s.sys.twinMode == 1 }
      trn := .reset
      ports := []
      rmt := { Remote.reset with modFences := s.rmt.modFences, changes := s.rmt.changes.filter (fun c => !touchesTables c) }
      keep := { Keep.reset with holdCmds := k.holdCmds, resumeCmds := k.resumeCmds } }

def rimBegin (cause : BitVec 4) (s : Mach) : Mach :=
  let s1 := coldWarp (if s.ctl.scope = 1 then s else logVmin s)
  let s2 := endActivities (fun t => decide (144 ≤ t)) (endRimCmds s1)
  raiseEpoch (modCtl (fun c => { c with scope := 2 }) (resetCause 2 cause (updateTwin (loadSlots (coldRim s2)))))

/-- The rim is ready again: the epoch stands, the stacks are trained, and the maps are rebuilt. `bad` names the DRAM dies that
training finds failing, by stack, and `katFail` the cores that failed their known-answer tests (R29, R425). -/
def rimResetDone (bad : List (Nat × Nat)) (katFail : List Nat) (s : Mach) : Mach :=
  if s.ctl.scope ≠ 2 ∨ epochPending s then s
  else endOwed (modCtl (fun c => { c with rimCnt := satInc c.rimCnt }) (trainAll bad (warpEnd katFail s)))

def execRimResetDone (s : State) (bad : List (Fin 32 × Fin 20) := []) (katFail : List CoreId := []) : Res :=
  run (rimResetDone (bad.map (fun e => (e.1.val, e.2.val))) (katFail.map CoreId.key)) s

/-! ### Requests (R33, R34, R505) -/

/-- The scope of the reset that runs, 0 none; a start counts as a module reset. -/
def resetRuns (s : Mach) : Nat := if s.ctl.modulePending ∨ s.start.state ≠ 7 then 3 else min 2 s.ctl.scope.toNat

/-- The commands of the update lists end without a completion (R572). -/
def forgetLists (s : Mach) : Mach :=
  let mine (o : Owed) : Bool := s.trn.units.any (fun e => (match e.2.list with | some l => l.owed == o | none => false) ||
    e.2.waiting.any (fun w => w.owed == o))
  iter 16 (fun q s => modRing q (fun r => { r with cmds := r.cmds.map (fun c => if mine ⟨q, c.tok⟩ then { c with mode := .orphan } else c) }) s) s

/-- A module reset is accepted. It stops a narrower one, a start that runs, the update lists (R272) and what a keeper has not committed
(R447). -/
def moduleAccept (cause : BitVec 4) (s : Mach) : Mach :=
  dropLists <| forgetLists <| modPwr (fun p => { p with up := none, burn := none }) <| modKeep (fun k => { k with keeping := none }) <| dropSlotWrites <| (modCtl (fun c => { c with scope := 0, modulePending := true, cause := cause, reqRound := roundNow s }) s)

/-- The SUMMARY of R545 comes first. -/
def owedSummary (s : Mach) : Mach := modLed (fun l => { l with sumFinal := true }) s

/-- A request of a scope is absorbed into the reset that runs (R34); a module reset begins a start that runs again (R505). -/
def absorbs (scope : Nat) (s : Mach) : Bool := if scope = 3 then s.ctl.modulePending else decide (scope ≤ resetRuns s)

/-- A request of a scope (1 warp, 2 rim, 3 module), with its record (R34, R35). Without input power there is nothing to reset. -/
def requestReset (scope : Nat) (cause : BitVec 4) (owed : Option Owed) (s : Mach) : Mach :=
  if s.start.state = 0 then s
  else
    let absorbed := absorbs scope s
    let s1 := resetEvent scope cause absorbed (roundNow s) (modCtl (fun c => { c with owed := c.owed ++ owed.toList }) s)
    if absorbed then s1
    else if scope = 1 then warpBegin cause s1
    else if scope = 2 then rimBegin cause s1
    else owedSummary (moduleAccept cause s1)

/-- The cause of a request (R33, R40), none where the agent may not request the scope. -/
def agentCause (scope : Nat) (by_ : ResetAgent) : Option (BitVec 4) :=
  match by_, scope with
  | .host, _ => some 1
  | .restartPath, 1 => some 4
  | .decnus, 1 => some 6
  | .decnus, 2 => some 7
  | _, _ => none

/-- A request by a write of RST_REQ, which a narrower reset that runs does not cover (R34, R586), by the restart path, or by Decnus after a
fault of a die or of the rim (R33). A request from any other source has no effect. -/
def agentRequest (scope : Nat) (by_ : ResetAgent) (s : Mach) : Mach :=
  match agentCause scope by_ with
  | none => s
  | some c => if by_ = .host && (noLink s || covered s 0x10) then s else requestReset scope c none s

def execRstReqWarp (s : State) (by_ : ResetAgent := .host) : Res := run (agentRequest 1 by_) s
def execRstReqRim (s : State) (by_ : ResetAgent := .host) : Res := run (agentRequest 2 by_) s
def execRstReqModule (s : State) (by_ : ResetAgent := .host) : Res := run (agentRequest 3 by_) s

/-- A write of RST_REQ (R38). -/
def rstReq (v : Word) (s : Mach) : Mach :=
  if covered s 0x10 ∨ fld v 24 8 ≠ 0xA5 ∨ fld v 0 2 = 0 then s else requestReset (fld v 0 2).toNat 1 none s

/-- The event queue is lost (R528). -/
def loseQueue (l : Ledger) : Ledger :=
  { l with protQ := [], ordQ := [], waitQ := [], supp := [], suppFirst := 0, suppLast := 0, sumDue := false, sumFinal := false }

/-- 2 s without service: a module reset that waits for no SUMMARY; the start that follows writes its record. -/
def watchdogExpiry (s0 : Mach) : Mach :=
  let s := if s0.start.state = 0 then s0 else modWeft (fun w => { w with expiries := satInc w.expiries }) s0
  if s.start.state = 0 ∨ s.ctl.modulePending then requestReset 3 5 none s
  else beginDown .restart (modLed loseQueue (moduleAccept 5 s))

def execWatchdogExpiry (s : State) : Res := run watchdogExpiry s

/-- Input returns while VAUX is up (R465). -/
def inputReturn (s : Mach) : Mach :=
  if !s.pwr.inloss || !s.pwr.vaux then s
  else startAgain 0 (modCtl (fun c => { c with reqRound := roundNow s })
    (modPwr (fun p => { p with inloss := false, charging := true }) s))

def execInputReturn (s : State) : Res := run inputReturn s

/-! ### A core is marked dead (R27, R28, R194) -/

/-- The registers of a CORE_FAULT record (R540). -/
def coreFaultDetail (s : Mach) (k : Nat) : List Byte :=
  bytesOf (coreRead s k 0x04) ++ bytesOf (coreRead s k 0x08) ++ bytesOf (coreRead s k 0x0C)

/-- The steward marks the core, whose scratchpad takes no write any more (R27); a core marked during a job is an uncorrected fault. -/
def coreMarkedDead (k : Nat) (s : Mach) : Mach :=
  if dead s k || !(dpwAt s (dieOf k)).on then s
  else
    let job := s.sec.cur.isSome || s.sec.switch.isSome
    let s1 := endProgram false k (modCore k (fun c =>
      { stopEngine 0 (stopEngine 1 (stopEngine 2 (stopEngine 3 c))) with dma := [], rt := { c.rt with wait := [] } }) (markDead k s))
    let s2 := logDie (dieOf k) 0x20 3 (if job then 1 else 0) (pcOf k) 0 (coreFaultDetail s k) s1
    if job then uncorrected 0x20 s2 else s2

def execCoreMarkedDead (k : CoreId) (s : State) : Res := run (coreMarkedDead k.key) s

/-! ### MAINT and POWER_OFF (R405, R406, R545, R573) -/

/-- ACTION of MAINT. -/
def maintAction (d : Desc) : Nat := cB d 8 1

def maintCmd (mine : Nat → Bool) (go : Owed → Mach → Mach) (q : Nat) (d : Desc) : Mach → Mach :=
  startCmd q d (cB d 0 1 == 0x60 && mine (maintAction d)) [(8, 1), (10, 6)] go

/-- An ACTION that names nothing fails its field check here. -/
def maintWarpReset (q : Nat) (d : Desc) : Mach → Mach :=
  maintCmd (fun a => !([0x02, 0x10, 0x11, 0x1F].contains a))
    (fun o s => if maintAction d = 1 then requestReset 1 2 (some o) s else complete o 0x02 0 s) q d

def maintRimReset (q : Nat) (d : Desc) : Mach → Mach := maintCmd (· == 0x02) (fun o s => requestReset 2 2 (some o) s) q d

/-- An activity of the code runs or waits. -/
def maintBusy (s : Mach) (code : Byte) : Bool := s.mnt.acts.any (fun a => a.code == code)

def maintEdgeCheckerBegin (q : Nat) (d : Desc) : Mach → Mach :=
  maintCmd (· == 0x10) (fun o s =>
    if 31 < cB d 10 1 ∨ 3 < cB d 11 1 then complete o 0x02 0 s
    else if maintBusy s 2 then complete o 0x09 0 s
    else reqActivity 2 (cB d 10 1) (cB d 11 1) [tokGroup (cB d 10 1) (cB d 11 1)] (some o) s) q d

def maintScratchpadCheckerBegin (q : Nat) (d : Desc) : Mach → Mach :=
  maintCmd (· == 0x11) (fun o s =>
    if 143 < cB d 12 2 then complete o 0x02 0 s
    else if maintBusy s 5 then complete o 0x09 0 s
    else reqActivity 5 (cB d 12 2) 0 [tokDie (cB d 12 2)] (some o) s) q d

/-- Only what MAINT began can be ended by it. -/
def maintEndActivity (q : Nat) (d : Desc) : Mach → Mach :=
  maintCmd (· == 0x1F) (fun o s =>
    let h := BitVec.ofNat 16 (cB d 14 2)
    if s.mnt.acts.any (fun a => a.handle == h && (a.code == 2 || a.code == 5)) then complete o 0x00 h.toNat (endActivity h s)
    else complete o 0x02 0 s) q d

def execMaintWarpReset (q : Fin 16) (d : Desc) (s : State) : Res := run (maintWarpReset q.val d) s
def execMaintRimReset (q : Fin 16) (d : Desc) (s : State) : Res := run (maintRimReset q.val d) s
def execMaintEdgeCheckerBegin (q : Fin 16) (d : Desc) (s : State) : Res := run (maintEdgeCheckerBegin q.val d) s
def execMaintScratchpadCheckerBegin (q : Fin 16) (d : Desc) (s : State) : Res := run (maintScratchpadCheckerBegin q.val d) s
def execMaintEndActivity (q : Fin 16) (d : Desc) (s : State) : Res := run (maintEndActivity q.val d) s

/-- The completion is written after the SUMMARY, before the power goes down; a second command is refused meanwhile. -/
def powerOff (q : Nat) (d : Desc) : Mach → Mach :=
  startCmd q d (cB d 0 1 == 0x61) [] (fun o s =>
    if s.pwr.offOwed.isSome || s.pwr.down.isSome then complete o 0x03 0 s
    else owedSummary (modPwr (fun p => { p with offOwed := some o }) s))

def execPowerOff (q : Fin 16) (d : Desc) (s : State) : Res := run (powerOff q.val d) s

end Sys2Proof.Machine
end

