-- ==== Sys2Proof/Machine/Weft.lean ====
section
/-! DEFINITION. The weft: host accesses to registers, the frames of the rings, and telemetry (17_controller_and_ledger.md,
19_register_reference.md, R25, R504). -/

namespace Sys2Proof.Machine

/-! ### Breaks of a ring (R531) -/

/-- A ring breaks after die `d` in ring order. A second break cuts off the dies between the two. -/
def weftRingBreak (r d : Nat) (s : Mach) : Mach :=
  let x := weftRingAt s r
  if ringOf d ≠ r then s
  else if x.state = 0 then
    weftRecord r d 1 (modWeftRing r (fun x => { x with state := 1, brk := BitVec.ofNat 8 d }) s)
  else if x.brk.toNat = d then s
  else
    let lo := min x.brk.toNat d
    let hi := max x.brk.toNat d
    let s1 := modWeftRing r (fun x => { x with state := 2 }) s
    let s2 := iter 144 (fun i s => if ringOf i = r ∧ lo < i ∧ i ≤ hi then
      modDie i (fun x => { x with stw := { x.stw with reachable := false } }) s else s) s1
    if x.state = 1 then weftRecord r d 2 s2 else s2

def execWeftRingBreak (ring : Fin 4) (die : Fin 144) (s : State) : Res := run (weftRingBreak ring.val die.val) s

/-! ### Host accesses (R25, R504, R584 to R586) -/

/-- The enabled bytes of a word. -/
def enabled (be : BitVec 4) (v : Word) : Word :=
  BitVec.ofNat 32 (ofBytes ((List.range 4).map (fun i => if bit be i then byteAt v i else 0)))

/-- A read of the register at an offset, with some of its bytes enabled. -/
def readReg (a : Nat) (be : BitVec 4) (s0 s : Mach) : Mach :=
  let answer (v : Word) : Mach → Mach := emit (.readData (BitVec.ofNat 24 a) (enabled be v))
  if noLink s then s
  else if notServed s a || covered s a then answer 0xFFFFFFFF s
  else
    match placeOf a with
    | .die d o => if answersAt s d o then readClears be a s0 (answer (seenRead s0 s a) s) else weftTimeout d (answer 0xFFFFFFFF s)
    | _ => readClears be a s0 (answer (seenRead s0 s a) s)

/-- The register that an offset lies in. -/
def regOffset (off : BitVec 24) : Nat := off.toNat / 4 * 4

def execRcFieldRead (off : BitVec 24) (be : BitVec 4) (s : State) : Res := runHost (readReg (regOffset off) be) s

/-- A read of all of CAL_SEC_LO, which latches the upper seconds and the fraction (R555). -/
def execCalSecLoRead (s : State) : Res := runHost (readReg 0x2020 0xF) s

/-- A write of the register at an offset: all four bytes or none. -/
def writeReg (a : Nat) (be : BitVec 4) (v : Word) (s0 s : Mach) : Mach :=
  if noLink s ∨ be ≠ 0xF then s
  else if a = 0x10 then rstReq v s
  else hostAccess a (hostWrite a v s0) s

def execRegisterWrite (off : BitVec 24) (be : BitVec 4) (v : Word) (s : State) : Res := runHost (writeReg (regOffset off) be v) s

/-! ### Frames (R529, R530) -/

/-- CRC-16 (R529). -/
def crc16Bit (c : BitVec 16) : BitVec 16 := if bit c 15 then (c <<< 1) ^^^ 0x1021 else c <<< 1
def crc16Byte (c : BitVec 16) (b : Byte) : BitVec 16 := (List.range 8).foldl (fun c _ => crc16Bit c) (c ^^^ (b.setWidth 16 <<< 8))
def crc16 (bs : List Byte) : BitVec 16 := bs.foldl crc16Byte 0xFFFF

def frType (f : Frame) : Nat := (fld f 0 8).toNat
def frDie (f : Frame) : Nat := (fld f 8 8).toNat
def frTag (f : Frame) : BitVec 16 := fld f 16 16
def frAddr (f : Frame) : Nat := (fld f 32 32).toNat
def frData (f : Frame) : Word := fld f 64 32
def frStatus (f : Frame) : BitVec 16 := fld f 96 16

/-- DIE of a panel supervisor (R529). -/
def supervisor : Nat := 0xFF

/-- A frame of a type whose CRC holds. -/
def frOk (f : Frame) (typ : Nat) : Bool := frType f == typ && crc16 ((bytesOf f).take 14) == fld f 112 16

/-- A frame with its CRC. -/
def mkFrame (typ die : Nat) (tag : BitVec 16) (addr : Nat) (data : Word) (status : Nat) : Frame :=
  let bs := toBytes 1 typ ++ toBytes 1 die ++ bytesOf tag ++ toBytes 4 addr ++ bytesOf data ++ toBytes 2 status
  BitVec.ofNat 128 (ofBytes (bs ++ bytesOf (crc16 bs)))

/-- The offset in BAR0 of an offset in a steward window. -/
def winAddr (d o : Nat) : Nat := 0x400000 + 0x10000 * d + o

/-- STATUS of a response to an access: no such register, refused because a reset covers it, or done. -/
def frameStatus (s : Mach) (d o : Nat) : Nat :=
  if 0x10000 ≤ o ∨ (rwMask (winAddr d o)).isNone then 1 else if covered s (winAddr d o) then 2 else 0

/-- The requester awaits a response to the frame that it sent: the one that arrived, or, where its CRC fails, the same frame with the CRC
that holds (DESIGN CHOICE, log entry 26). -/
def awaitResponse (f : Frame) (s : Mach) : Mach :=
  let sent := mkFrame (frType f) (frDie f) (frTag f) (frAddr f) (frData f) (frStatus f).toNat
  modWeft (fun w => { w with reqs := if w.reqs.any (fun e => e.1 == (frTag f).toNat) then w.reqs
                                      else tput w.reqs (frTag f).toNat { frame := sent, resends := 0 } }) s

/-- A response leaves a die, or a supervisor. -/
def respond (f : Frame) (data : Word) (status : Nat) : Mach → Mach :=
  emit (.weft (mkFrame 3 (frDie f) (frTag f) (frAddr f) data status))

/-- The oldest buffered event of a die reaches Decnus, with the counts of those that found the buffer full, which go to the suppression
counters of their classes and not to LED_SUPP (R532, R544). -/
def dieEvent (d : Nat) (s : Mach) : Mach :=
  match (dieAt s d).stw.evBuf with
  | [] => s
  | e :: rest =>
    let lost := (dieAt s d).stw.evLost
    let s1 := modDie d (fun x => { x with stw := { x.stw with evBuf := rest, evLost := [] } }) s
    modLed (fun l0 =>
      let l := queueEvent e l0
      { lost.foldl (fun l c => suppress (BitVec.ofNat 16 c.1) e.round c.2.toNat l) l with ledSupp := l.ledSupp }) s1

/-- Every event that the stewards of a ring hold: they go before reads, writes and telemetry on that ring (R532). -/
def ringEvents (r : Nat) (s : Mach) : Mach :=
  iter 144 (fun d s => if ringOf d = r ∧ answers s d then iter (dieAt s d).stw.evBuf.length (fun _ => dieEvent d) s else s) s

/-- A read or write frame goes its way (R529, R530): a supervisor has no register (DESIGN CHOICE, log entry 26), a frame whose CRC fails is
discarded, and a die that answers gets it behind the events of its ring. -/
def carryRequest (f : Frame) (typ : Nat) (serve : Mach → Mach) (s : Mach) : Mach :=
  if frType f ≠ typ then s
  else
    let s1 := awaitResponse f s
    if !frOk f typ then s1
    else if frDie f = supervisor then respond f 0 1 s1
    else if 144 ≤ frDie f ∨ !answersAt s (frDie f) (frAddr f) then s1
    else serve (ringEvents (ringOf (frDie f)) s1)

def weftRead (f : Frame) (s0 s : Mach) : Mach :=
  carryRequest f 1 (fun s1 =>
    let a := winAddr (frDie f) (frAddr f)
    let st := frameStatus s (frDie f) (frAddr f)
    if st = 0 then readClears 0xF a s0 (respond f (seenRead s0 s a) 0 s1) else respond f 0 st s1) s

def execWeftRead (f : Frame) (s : State) : Res := runHost (weftRead f) s

/-- A write is executed unless it is the one that was executed last, which is answered again. -/
def weftWrite (f : Frame) (s0 s : Mach) : Mach :=
  let d := frDie f
  carryRequest f 2 (fun s1 =>
    let st := frameStatus s d (frAddr f)
    if (dieAt s d).stw.lastTag = some (frTag f) then respond f 0 0 s1
    else if st = 0 then
      hostWrite (winAddr d (frAddr f)) (frData f) s0
        (modDie d (fun x => { x with stw := { x.stw with lastTag := some (frTag f) } }) (respond f 0 0 s1))
    else respond f 0 st s1) s

def execWeftWrite (f : Frame) (s : State) : Res := runHost (weftWrite f) s

/-- The read of a request ends with a value; one of a supervisor is no host access. -/
def readEnds (f : Frame) (v : Word) (s : Mach) : Mach :=
  if frType f = 1 ∧ frDie f < 144 then emit (.readData (BitVec.ofNat 24 (winAddr (frDie f) (frAddr f))) v) s else s

/-- The response reaches the requester: a read ends with its data. -/
def weftResponse (f : Frame) (s : Mach) : Mach :=
  match s.weft.reqs.find? (fun e => e.1 == (frTag f).toNat) with
  | none => s
  | some (k, r) =>
    if !frOk f 3 then s
    else readEnds r.frame (if frStatus f = 2 then 0xFFFFFFFF else frData f) (modWeft (fun w => { w with reqs := tdel w.reqs k }) s)

def execWeftResponse (f : Frame) (s : State) : Res := run (weftResponse f) s

/-- 6 µs without a response: up to three resends, then the timeout of R25. -/
def weftResendTimer (tag : Nat) (s : Mach) : Mach :=
  match s.weft.reqs.find? (fun e => e.1 == tag) with
  | none => s
  | some (_, r) =>
    if r.resends < 3 then
      emit (.weft r.frame) (modWeft (fun w => { w with reqs := tput w.reqs tag { r with resends := r.resends + 1 } }) s)
    else
      let s1 := modWeft (fun w => { w with reqs := tdel w.reqs tag }) s
      readEnds r.frame 0xFFFFFFFF (if frDie r.frame < 144 then weftTimeout (frDie r.frame) s1 else s1)

def execWeftResendTimer (tag : BitVec 16) (s : State) : Res := run (weftResendTimer tag.toNat) s

/-- An event frame: the oldest buffered event of a die, if the frame has its class; or an event of a supervisor, whose event word is its
DETAIL (DESIGN CHOICE, log entry 26). -/
def weftEvent (f : Frame) (s : Mach) : Mach :=
  let d := frDie f
  if !frOk f 4 then s
  else if d = supervisor then logModule (fld f 32 16).toNat 0 (bytesOf (frData f)) s
  else if 144 ≤ d ∨ !answers s d then s
  else
    match (dieAt s d).stw.evBuf with
    | [] => s
    | e :: _ => if e.cls ≠ fld f 32 16 then s else dieEvent d s

def execWeftEvent (f : Frame) (s : State) : Res := run (weftEvent f) s

/-- A command frame reaches every die: each that answers writes DATA at ADDR of its window (DESIGN CHOICE, log entry 26). -/
def weftBroadcast (f : Frame) (s0 s : Mach) : Mach :=
  if !frOk f 6 then s
  else iter 144 (fun d s =>
    if answersAt s d (frAddr f) ∧ frameStatus s d (frAddr f) = 0 then hostWrite (winAddr d (frAddr f)) (frData f) s0 s else s) s

def execWeftBroadcast (f : Frame) (s : State) : Res := runHost (weftBroadcast f) s

/-! ### Telemetry (R533) -/

/-- The smallest margin of a sample and its core, the lowest mlc among equals. -/
def smallestOf (t : Tbl Word) : Option (Nat × Word) :=
  t.foldl (fun b e => match b with | none => some e | some x => if e.2.toInt < x.2.toInt then some e else b) none

/-- The aggregator holds a sample, and TEL_MINMARG and TEL_MINCORE go by it. -/
def withSample (t : Tbl Word) (w : Weft) : Weft :=
  { w with
    sample := t
    minMargin := match smallestOf t with | some x => x.2 | none => w.minMargin
    minCore := match smallestOf t with | some x => BitVec.ofNat 15 x.1 | none => w.minCore }

/-- A telemetry frame that names a present core's block carries its margin to the aggregator, behind the events of its ring (DESIGN CHOICE,
log entry 26). -/
def weftTelemetry (f : Frame) (s : Mach) : Mach :=
  let d := frDie f
  let o := frAddr f
  let k := d * 208 + (o - 0x1000) / 0x40
  if !frOk f 5 ∨ 144 ≤ d ∨ !answers s d ∨ o < 0x1000 ∨ 0x4400 ≤ o ∨ !present s k then s
  else modWeft (fun w => withSample (tput w.sample (mlcOf s k) (frData f)) w) (ringEvents (ringOf d) s)

def execWeftTelemetry (f : Frame) (s : State) : Res := run (weftTelemetry f) s

/-- The margin that a core sends: its smallest since the last sample; where no round ended since then the spec names none,
and it is free (log entry 4). -/
def sampleOf (s : Mach) (k : Nat) : Word :=
  match (coreAt s k).telMargin with
  | some m => m
  | none => Config.free32 (s.free + mlcOf s k)

/-- The shadow counts that the dies send (R533). -/
def sentCounts (s : Mach) : Tbl DieCounts :=
  (List.range 144).filterMap (fun d =>
    let x := (dieAt s d).stw
    if answers s d then some (d, { ce := x.shCe, ue := x.shUe, str := x.shStr, trips := x.shTrips }) else none)

/-- A sample: the events of every ring go first; then each steward sends its margins and counts, and resets its own copies. -/
def telemetrySample (s0 : Mach) : Mach :=
  if s0.start.state ≠ 7 then s0
  else
    let s := iter 4 ringEvents s0
    let t : Tbl Word := ((presentCores s).filter (fun k => answers s (dieOf k))).foldl (fun t k => tput t (mlcOf s k) (sampleOf s k)) []
    let s1 : Mach := { s with free := s.free + 27648, cores := s.cores.filterMap (fun e =>
      let c := if answers s (dieOf e.1) then { e.2 with telMargin := none } else e.2
      if c = Core.reset then none else some (e.1, c)) }
    let s2 := iter 144 (fun d s => if answers s d then
      modDie d (fun x => { x with stw := { x.stw with shCe := 0, shUe := 0, shStr := 0, shTrips := 0 } }) s else s) s1
    modWeft (fun w => withSample t { w with telSeq := w.telSeq + 1, counts := sentCounts s }) s2

def execTelemetrySample (s : State) : Res := run telemetrySample s

end Sys2Proof.Machine
end

