-- ==== Sys2Proof/Machine/Cradle.lean ====
section
/-! DEFINITION. Cradle management and attestation: MCTP control, PLDM, SPDM and DOE discovery (17_controller_and_ledger.md,
R524, R560, R599). The numbers of commands, codes and sensors, and the order of the data, are those of log entry 27 (PRESUMED). -/

namespace Sys2Proof.Machine

/-- An answer of a kind to a command. -/
def reply (group command code : Nat) (data : List Byte) : Mach → Mach :=
  emit (.reply { group := BitVec.ofNat 8 group, command := BitVec.ofNat 8 command, code := BitVec.ofNat 8 code, data := data })

/-- The bus is served whenever VAUX is up. -/
def onBus (f : Mach → Mach) (s : Mach) : Mach := if s.start.state = 0 ∨ !s.pwr.vaux then s else f s

def mctp (command : Nat) (data : List Byte) : Mach → Mach := reply 0x00 command 0 data
def pldm (typ command code : Nat) (data : List Byte) : Mach → Mach := reply (0x10 + typ) command code data

/-! ### I3C and MCTP control (R550, R599) -/

def execI3cDynamicAddress (addr : BitVec 7) (s : State) : Res := run (onBus (modCradle (fun c => { c with i3c := addr }))) s

def execSetEndpointId (eid : Byte) (s : State) : Res :=
  run (onBus (fun s => mctp 1 (bytesOf eid) (modCradle (fun c => { c with eid := eid }) s))) s

def execGetEndpointId (s : State) : Res := run (onBus (fun s => mctp 2 (bytesOf s.cradle.eid) s)) s

def execGetMctpVersionSupport (s : State) : Res := run (onBus (mctp 4 [1, 0x00, 0xFF, 0xF3, 0xF1])) s

/-- PLDM and SPDM. -/
def execGetMessageTypeSupport (s : State) : Res := run (onBus (mctp 5 [2, 0x01, 0x05])) s

/-! ### PLDM types 0 and 3 -/

def execGettid (s : State) : Res := run (onBus (fun s => pldm 0 2 0 (bytesOf s.cradle.eid) s)) s

def execGetpldmversion (s : State) : Res := run (onBus (pldm 0 3 0 [0x00, 0xF0, 0xF0, 0xF1])) s

/-- Types 0, 2, 3 and 5. -/
def execGetpldmtypes (s : State) : Res := run (onBus (pldm 0 4 0 (toBytes 8 0x2D))) s

/-- The commands of a type that the module answers. -/
def pldmCommands (typ : Nat) : List Nat :=
  match typ with
  | 0 => [0x02, 0x03, 0x04, 0x05]
  | 2 => [0x04, 0x0A, 0x0B, 0x11, 0x21, 0x39, 0x51]
  | 3 => [0x0C, 0x0D]
  | 5 => [0x01, 0x02, 0x10, 0x13, 0x14, 0x15, 0x16, 0x17, 0x18, 0x1A, 0x1B, 0x1D]
  | _ => []

def getPldmCommands (typ : Nat) : Mach → Mach :=
  if pldmCommands typ = [] then pldm 0 5 0x83 []
  else pldm 0 5 0 (toBytes 32 ((pldmCommands typ).foldl (fun n c => n + 2 ^ c) 0))

def execGetpldmcommands (typ : Byte) (s : State) : Res := run (onBus (getPldmCommands typ.toNat)) s

/-- Second, minute, hour, day, month and year. -/
def dateTime (sec : Nat) : List Byte :=
  let (y, m, d) := civil (sec / 86400)
  [bcd (sec % 60), bcd (sec / 60 % 60), bcd (sec / 3600 % 24), bcd d, bcd m, bcd (y % 100), bcd (y / 100)]

def execGetdatetime (s : State) : Res := run (onBus (fun s => pldm 3 0x0C 0 (dateTime (calSec s).toNat) s)) s

def execSetdatetime (sec : BitVec 48) (s : State) : Res := run (onBus (fun s => pldm 3 0x0D 0 [] (calSet sec s))) s

/-! ### PLDM type 2 (R551, R552) -/

def getPdr (handle : Nat) : Mach → Mach :=
  if Config.pdr handle = [] then pldm 2 0x51 0x82 [] else pldm 2 0x51 0 (Config.pdr handle)

def execGetpdr (handle : Word) (s : State) : Res := run (onBus (getPdr handle.toNat)) s

/-- The numeric sensors, numbered in the order of R551. -/
def sensor (s : Mach) (i : Nat) : Option (List Byte) :=
  let p := s.pwr
  match i with
  | 1 => some (bytesOf (fld p.feedAReg 0 16))
  | 2 => some (bytesOf (fld p.feedAReg 16 16))
  | 3 => some (bytesOf (fld p.feedBReg 0 16))
  | 4 => some (bytesOf (fld p.feedBReg 16 16))
  | 5 => some (bytesOf p.avg100)
  | 6 => some (bytesOf p.inlet)
  | 7 => some (bytesOf p.outlet)
  | 8 => some (bytesOf p.flow)
  | 9 => some (bytesOf (fld (thmMax s) 0 8))
  | 10 => some (bytesOf (fld (thmMax s) 24 8))
  | 11 => some (bytesOf (fld (thmMax s) 16 8))
  | 12 => some (toBytes 2 (bankAvail p))
  | 13 => some (bytesOf s.weft.minMargin)
  | _ => none

/-- The state sensors: START_STAT.STATE, PWR_STAT and RS_STAT.FAULTED. -/
def stateSensor (s : Mach) (i : Nat) : Option (List Byte) :=
  match i with
  | 14 => some (toBytes 1 s.start.state.toNat)
  | 15 => some (bytesOf (pwrStat s.pwr))
  | 16 => some (toBytes 1 (if s.keep.faulted then 1 else 0))
  | _ => none

/-- An answer with the data of a sensor, or the code of an invalid one. -/
def sensorReply (command : Nat) (x : Option (List Byte)) : Mach → Mach :=
  match x with
  | some bs => pldm 2 command 0 bs
  | none => pldm 2 command 0x80 []

def execGetsensorreading (i : BitVec 16) (s : State) : Res := run (onBus (fun s => sensorReply 0x11 (sensor s i.toNat) s)) s

def execGetstatesensorreadings (i : BitVec 16) (s : State) : Res :=
  run (onBus (fun s => sensorReply 0x21 (stateSensor s i.toNat) s)) s

/-- The effecter: state 1 is a module reset, state 2 an orderly power-off (R33, R471, R545). -/
def setEffecter (effecter state : Nat) (s : Mach) : Mach :=
  if effecter ≠ 17 then pldm 2 0x39 0x80 [] s
  else if state = 1 then requestReset 3 3 none (pldm 2 0x39 0 [] s)
  else if state = 2 then pldm 2 0x39 0 [] (if s.pwr.down.isSome then s else owedSummary s)
  else pldm 2 0x39 0x81 [] s

def execSetstateeffecterstates (effecter : BitVec 16) (state : Byte) (s : State) : Res :=
  run (onBus (setEffecter effecter.toNat state.toNat)) s

/-- Endpoint 0 names no receiver. -/
def execSeteventreceiver (eid : Byte) (s : State) : Res :=
  run (onBus (fun s => pldm 2 0x04 0 [] (modCradle (fun c => { c with receiver := if eid = 0 then none else some eid }) s))) s

/-- The oldest held event, if one is held. -/
def pollEvent (s : Mach) : Mach :=
  match s.cradle.held with
  | [] => pldm 2 0x0B 0 [] s
  | r :: rest => pldm 2 0x0B 0 (cper s.start.serial r) (modCradle (fun c => { c with held := rest }) s)

def execPollforplatformeventmessage (s : State) : Res := run (onBus pollEvent) s

/-! ### PLDM type 5: firmware update (R553) -/

/-- The descriptor "SPTK-ZW96" with PART and HWREV. -/
def execQuerydeviceidentifiers (s : State) : Res :=
  run (onBus (pldm 5 1 0 ([0x53, 0x50, 0x54, 0x4B, 0x2D, 0x5A, 0x57, 0x39, 0x36] ++ toBytes 2 0x0096 ++ toBytes 1 0x02))) s

/-- The image in use, its SEQ, and whether an update is armed. -/
def execGetfirmwareparameters (s : State) : Res :=
  run (onBus (fun s => pldm 5 2 0 (toBytes 1 (if s.start.slot then 1 else 0) ++ bytesOf s.start.seq ++
    toBytes 1 (if s.start.activate then 1 else 0)) s)) s

def modUpd (f : Upd → Upd) : Mach → Mach := modCradle (fun c => { c with upd := c.upd.map f })

def requestUpdate (s : Mach) : Mach :=
  if s.cradle.upd.isSome then pldm 5 0x10 0x81 [] s
  else pldm 5 0x10 0 [] (modCradle (fun c => { c with
    upd := some { host := false, stage := .ready, slot := !s.start.slot, length := 0, data := [] } }) s)

def execRequestupdate (s : State) : Res := run (onBus requestUpdate) s

/-- A command of an update over PLDM: refused outside update mode, and in a stage that does not take it. -/
def updCmd (command : Nat) (ok : UpdStage → Bool) (go : Upd → Mach → Mach) (s : Mach) : Mach :=
  match s.cradle.upd with
  | none => pldm 5 command 0x80 [] s
  | some x => if x.host then pldm 5 command 0x80 [] s else if ok x.stage then go x s else pldm 5 command 0x84 [] s

def execPasscomponenttable (s : State) : Res :=
  run (onBus (updCmd 0x13 (· == .ready) (fun _ s => pldm 5 0x13 0 [] (modUpd (fun x => { x with stage := .table }) s)))) s

/-- The module asks for the data from an offset on. -/
def askData (off : Nat) : Mach → Mach := pldm 5 0x15 0 (toBytes 4 off)

def updateComponent (n : Nat) : Mach → Mach :=
  updCmd 0x14 (· == .table) (fun _ s =>
    if n = 0 ∨ 0x4000000 < n then pldm 5 0x14 0x83 [] s
    else askData 0 (pldm 5 0x14 0 [] (modUpd (fun x => { x with stage := .transfer, length := n, data := [] }) s)))

def execUpdatecomponent (length : Word) (s : State) : Res := run (onBus (updateComponent length.toNat)) s

/-- Data arrives in order; when all of it has come, it is written to the slot and verified. -/
def firmwareData (off : Nat) (data : List Byte) (s : Mach) : Mach :=
  match s.cradle.upd with
  | none => s
  | some x =>
    let got := x.data.length
    if x.host ∨ x.stage ≠ .transfer ∨ off ≠ got ∨ data = [] ∨ x.length < got + data.length then s
    else
      let s1 := modUpd (fun x => { x with data := x.data ++ data }) s
      if got + data.length < x.length then askData (got + data.length) s1
      else requestSeq (firstBlock s1 (x.data ++ data) none) (pldm 5 0x16 0 [] s1)

def execRequestfirmwaredata (off : Word) (data : List Byte) (s : State) : Res := run (onBus (firmwareData off.toNat data)) s

/-- The new image is chosen at the next module reset under R517. -/
def execActivatefirmware (s : State) : Res :=
  run (onBus (updCmd 0x1A (· == .complete) (fun _ s =>
    pldm 5 0x1A 0 [] (modStart (fun x => { x with activate := true }) (modCradle (fun c => { c with upd := none }) s))))) s

/-- IDLE, LEARN COMPONENTS, READY XFER, DOWNLOAD, VERIFY. -/
def updState (u : Option Upd) : Nat :=
  match u with
  | none => 0
  | some x => match x.stage with | .ready => 1 | .table => 2 | .transfer => 3 | .complete => 2 | .failed => 4

def execGetstatus (s : State) : Res := run (onBus (fun s => pldm 5 0x1B 0 (toBytes 1 (updState s.cradle.upd)) s)) s

/-- The update ends; a write of its image that still waits for energy never starts. -/
def cancelUpdate : Mach → Mach :=
  updCmd 0x1D (fun _ => true) (fun x s =>
    let s1 := modPwr (fun p => { p with waiting := p.waiting.filter (fun w =>
      match w.kind with | .image _ _ _ none => false | _ => true) }) (modCradle (fun c => { c with upd := none }) s)
    pldm 5 0x1D 0 [] (logModule 0x63 0 (toBytes 1 (if x.slot then 1 else 0) ++ toBytes 8 (upSeq x.data) ++ toBytes 1 2) s1))

def execCancelupdate (s : State) : Res := run (onBus cancelUpdate) s

/-! ### SPDM (R524) -/

def spdm (code err : Nat) (data : List Byte) : Mach → Mach := reply 0x05 code err data

/-- The responder answers from READY on, and in recovery; a request that comes before its turn is an error. -/
def spdmCmd (stage : Nat) (go : Mach → Mach) (s : Mach) : Mach :=
  if s.start.state ≠ 7 ∧ s.start.state ≠ 8 then s
  else if s.cradle.spdm.toNat < stage then spdm 0x7F 4 [] s
  else go s

def setSpdm (n : Nat) : Mach → Mach := modCradle (fun c => { c with spdm := BitVec.ofNat 2 n })

def execGetVersion (s : State) : Res := run (onBus (spdmCmd 0 (fun s => spdm 0x04 0 [0x13] (setSpdm 1 s)))) s

/-- Certificates, challenges and signed measurements; no sessions. -/
def execGetCapabilities (s : State) : Res := run (onBus (spdmCmd 1 (fun s => spdm 0x61 0 (toBytes 4 0x16) (setSpdm 2 s)))) s

/-- SHA-384 and ECDSA P-384, where the requester offers them. -/
def execNegotiateAlgorithms (hash sign : Bool) (s : State) : Res :=
  run (onBus (spdmCmd 2 (fun s =>
    if hash && sign then spdm 0x63 0 (toBytes 4 0x80 ++ toBytes 4 0x02) (setSpdm 3 s) else spdm 0x7F 1 [] s))) s

def chainDigest : List Byte := bytesOf (sha384 Config.certChain)

def execGetDigests (s : State) : Res := run (onBus (spdmCmd 3 (spdm 0x01 0 ([1] ++ chainDigest)))) s

def getCertificate (slot off n : Nat) : Mach → Mach :=
  if slot ≠ 0 ∨ Config.certChain.length < off then spdm 0x7F 1 [] else spdm 0x02 0 (slice Config.certChain off n)

def execGetCertificate (slot : Byte) (offset length : BitVec 16) (s : State) : Res :=
  run (onBus (spdmCmd 3 (getCertificate slot.toNat offset.toNat length.toNat))) s

def challenge (slot : Nat) (nonce : BitVec 256) : Mach → Mach :=
  if slot ≠ 0 then spdm 0x7F 1 []
  else spdm 0x03 0 (chainDigest ++ bytesOf nonce ++ Config.sign (sha384 (chainDigest ++ bytesOf nonce)))

def execChallenge (slot : Byte) (nonce : BitVec 256) (s : State) : Res := run (onBus (spdmCmd 3 (challenge slot.toNat nonce))) s

/-- The DMTF value type of a measurement. -/
def measType (i : Nat) : Nat := match i with | 1 => 0 | 2 => 1 | 3 => 3 | 4 => 3 | 7 => 4 | _ => 2

/-- A measurement: its index, its type and its digest. In recovery nothing was fixed at READY, and 1 and 6 are formed. -/
def measBlock (s : Mach) (i : Nat) : List Byte :=
  let t := if s.start.state = 8 then (fixMeasures s).start.meas else s.start.meas
  toBytes 1 i ++ toBytes 1 (measType i) ++ bytesOf (tget 0 t i)

/-- The indices that are served. -/
def measIndices (s : Mach) : List Nat := if s.start.state = 8 then [1, 6] else [1, 2, 3, 4, 5, 6, 7, 8]

/-- What the measurements of an index are: index 0 asks for their number, 0xFF for all of them. -/
def measData (i : Nat) (s : Mach) : Option (List Byte) :=
  if i = 0 then some (toBytes 1 (measIndices s).length)
  else if i = 0xFF then some ((measIndices s).flatMap (measBlock s))
  else if (measIndices s).contains i then some (measBlock s i)
  else none

/-- The measurements of a request, with a signature over them and the nonce where one is asked for; only certificate slot 0 signs. -/
def getMeasurements (r : MeasRequest) (s : Mach) : Mach :=
  match measData r.index.toNat s, r.signed with
  | none, _ => spdm 0x7F 1 [] s
  | some x, none => spdm 0x60 0 x s
  | some x, some (slot, nonce) =>
    if slot ≠ 0 then spdm 0x7F 1 [] s
    else spdm 0x60 0 (x ++ bytesOf nonce ++ Config.sign (sha384 (x ++ bytesOf nonce))) s

def execGetMeasurements (r : MeasRequest) (s : State) : Res := run (onBus (spdmCmd 3 (getMeasurements r))) s

/-! ### DOE (R560) -/

/-- The objects of the mailbox: DOE Discovery and CMA/SPDM. -/
def doeDiscovery (i : Nat) (s : Mach) : Mach :=
  if noLink s then s
  else reply 0x01 0 0 (match i with | 0 => [0x01, 0x00, 0x00, 0x01] | 1 => [0x01, 0x00, 0x01, 0x00] | _ => [0xFF, 0xFF, 0x00, 0x00]) s

def execDoeDiscovery (i : Byte) (s : State) : Res := run (doeDiscovery i.toNat) s

end Sys2Proof.Machine
end

