-- ==== Sys2Proof/Machine/LedgerRead.lean ====
section
/-! DEFINITION. The LEDGER_READ command (R433, R536, R573). -/

namespace Sys2Proof.Machine

/-- Bytes 4 to LEN - 1 of a record with the given CRC field (R536). -/
def recTail (r : LedRec) (crc : Word) : List Byte :=
  let n := evLen r.ev
  let body := toBytes 2 n ++ bytesOf r.ev.cls ++ bytesOf r.seq ++ bytesOf r.frac ++ bytesOf r.sec ++ bytesOf r.ev.round ++
    toBytes 1 (if r.lost then 1 else 0) ++ toBytes 1 0 ++ bytesOf r.epoch ++ bytesOf r.id ++ bytesOf r.ev.scope ++
    bytesOf r.ev.flags ++ bytesOf r.ev.die ++ bytesOf r.ev.unit ++ bytesOf r.ev.loc ++ toBytes 2 r.ev.detail.length ++
    toBytes 6 0 ++ bytesOf crc ++ r.ev.detail
  body ++ List.replicate (n - 4 - body.length) 0

/-- A committed record as the flash holds it. -/
def recBytes (r : LedRec) : List Byte := toBytes 4 0x5A434D54 ++ recTail r (crc32c (recTail r 0))

/-- The records that fit in n bytes, as bytes, with their number and the SEQ that follows. -/
def fitRecs (next : BitVec 64) : List (BitVec 64 × List Byte) → Nat → List Byte × Nat × BitVec 64
  | [], _ => ([], 0, next)
  | (q, bs) :: rest, n =>
    if n < bs.length then ([], 0, q)
    else
      let x := fitRecs next rest (n - bs.length)
      (bs ++ x.1, x.2.1 + 1, x.2.2)

/-- LEDGER_READ of the formats that `mine` selects. -/
def ledgerRead (q : Nat) (d : Desc) (mine : Bool) (ok : Nat → Bool) (form : Mach → LedRec → List Byte) (hostOk : Bool) (s : Mach) :
    Mach :=
  startCmd q d (cB d 0 1 == 0x58 && mine) [(8, 1), (16, 20)] (fun o s =>
    if !ok (cmdVer s o) || cB d 24 8 % 64 != 0 then complete o 0x02 0 s
    else
      let rs := (validRecs s.led).filter (fun r => decide (cB d 16 8 ≤ r.seq.toNat))
      let x := fitRecs s.led.nextSeq (rs.map (fun r => (r.seq, form s r))) (cB d 32 4)
      if !hostOk ∧ x.1 ≠ [] then complete o 0x0E 0 s
      else
        let s1 := if x.1.isEmpty then s else emit (.hostWrite (BitVec.ofNat 64 (cB d 24 8)) x.1) s
        complete o 0x00 (x.2.1 % 65536 + 65536 * (x.2.2.toNat % 2 ^ 48)) s1) s

/-- A FORMAT above 1 fails its field check here. -/
def execLedgerReadRaw (q : Fin 16) (d : Desc) (hostOk : Bool) (s : State) : Res :=
  run (ledgerRead q.val d (cB d 8 1 != 1) (fun _ => cB d 8 1 == 0) (fun _ => recBytes) hostOk) s

/-- Version 1 has no CPER format (R569). -/
def execLedgerReadCper (q : Fin 16) (d : Desc) (hostOk : Bool) (s : State) : Res :=
  run (ledgerRead q.val d (cB d 8 1 == 1) (fun ver => ver == 2) (fun s r => cper s.start.serial r) hostOk) s

end Sys2Proof.Machine
end

