-- ==== Sys2Proof/Machine/Scalar.lean ====
section
/-! DEFINITION. The scalar processor's instructions (R124 to R132) and ISSUE, WAIT, DONE and their releases. A scalar
command occurs when the core's processor runs and the word at its PC encodes it; the word is fetched through the checker first
(R397). -/

namespace Sys2Proof.Machine

/-- Read a G register; G0 reads zero (R125). -/
def greg (c : Core) (d : Nat) : Word := if d = 0 then 0 else tget 0 c.p.g d

/-- Write a G register; a write to G0 is discarded (R125). -/
def setG (d : Nat) (v : Word) (c : Core) : Core :=
  if d = 0 then c else { c with p := { c.p with g := tset 0 c.p.g d v } }

def sext16 (imm : BitVec 16) : Word := imm.signExtend 32
def zext16 (imm : BitVec 16) : Word := imm.setWidth 32

/-- The next instruction is at an exact address; outside the instruction memory the fetch exception is taken, with the
PC of the instruction that formed the address (R126). -/
def goto (k : Nat) (pc : Word) (t : Int) (s : Mach) : Mach :=
  if 0 ≤ t ∧ t < 0x4000 then modCore k (fun c => { c with p := { c.p with pc := BitVec.ofInt 32 t } }) s
  else classS k 0x04 (BitVec.ofInt 32 t).toNat pc.toNat s

/-- The address after an instruction. -/
def nextPc (pc : Word) : Int := (pc.toNat : Int) + 4

/-! ### Encodings (R124, R125) -/

/-- The three formats. -/
def encA (d a b : Fin 32) (fn : Nat) : Word :=
  (0 : BitVec 6) ++ BitVec.ofNat 5 d.val ++ BitVec.ofNat 5 a.val ++ BitVec.ofNat 5 b.val ++ BitVec.ofNat 11 fn
def encI (op : Nat) (d a : Fin 32) (imm : BitVec 16) : Word := BitVec.ofNat 6 op ++ BitVec.ofNat 5 d.val ++ BitVec.ofNat 5 a.val ++ imm
def encJ (op : Nat) (off : BitVec 26) : Word := BitVec.ofNat 6 op ++ off

/-- The word that the processor of a core fetches, and what its checker finds (R397). The word that holds the byte at PC is fetched also
where ERET has left PC between two words (DESIGN CHOICE, log entry 12). -/
def fetch (c : Core) : Nat × List ErrRec := readWord c 2 (c.p.pc.toNat / 4 * 4)

/-- An instruction of core k whose word is one that `is` accepts: it occurs when the processor runs and fetches such a word; an
uncorrectable fetch raises cause 0x11 in its place, with the PC as its address (R135; DESIGN CHOICE, log entry 12). The effect is
given the core as fetched and the instruction's PC. -/
def instr (k : Nat) (is : Word → Bool) (f : Core → Word → Mach → Mach) (s : Mach) : Mach :=
  let c := coreAt s k
  if c.p.mode = .running then
    let x := fetch c
    if anyUe x.2 then classU k 0x11 c.p.pc.toNat c.p.pc.toNat none (logErrs k 1 x.2 s)
    else if is (BitVec.ofNat 32 x.1) then f c c.p.pc (logErrs k 1 x.2 s)
    else s
  else s

/-- The slot of a scalar access to the narrow bank is the even cycle from now on: in an odd cycle the DMA writes before it, in
an even one after it (R101). -/
def scalarSlot (k : Nat) (s : Mach) : Mach :=
  if cycleOf s % 2 = 1 then modCore k dmaSlot s else s

/-- An instruction that writes D and goes on. -/
def aluStep (id : CoreId) (is : Word → Bool) (d : Fin 32) (v : Core → Word) : Mach → Mach :=
  instr id.key is (fun c pc s => goto id.key pc (nextPc pc) (modCore id.key (setG d.val (v c)) s))

/-- A three-register instruction. -/
def aluA (id : CoreId) (fn : Nat) (d a b : Fin 32) (f : Word → Word → Word) : Mach → Mach :=
  aluStep id (· == encA d a b fn) d (fun c => f (greg c a.val) (greg c b.val))

/-- A register and immediate instruction. -/
def aluI (id : CoreId) (op : Nat) (d a : Fin 32) (imm : BitVec 16) (f : Word → Word) : Mach → Mach :=
  aluStep id (· == encI op d a imm) d (fun c => f (greg c a.val))

def execAdd (id : CoreId) (d a b : Fin 32) (s : State) : Res := run (aluA id 0x000 d a b (fun x y => x + y)) s
def execSub (id : CoreId) (d a b : Fin 32) (s : State) : Res := run (aluA id 0x001 d a b (fun x y => x - y)) s
def execAnd (id : CoreId) (d a b : Fin 32) (s : State) : Res := run (aluA id 0x002 d a b (fun x y => x &&& y)) s
def execOr (id : CoreId) (d a b : Fin 32) (s : State) : Res := run (aluA id 0x003 d a b (fun x y => x ||| y)) s
def execXor (id : CoreId) (d a b : Fin 32) (s : State) : Res := run (aluA id 0x004 d a b (fun x y => x ^^^ y)) s
def execSll (id : CoreId) (d a b : Fin 32) (s : State) : Res :=
  run (aluA id 0x005 d a b (fun x y => x <<< (y.toNat % 32))) s
def execSrl (id : CoreId) (d a b : Fin 32) (s : State) : Res :=
  run (aluA id 0x006 d a b (fun x y => x >>> (y.toNat % 32))) s
def execSra (id : CoreId) (d a b : Fin 32) (s : State) : Res :=
  run (aluA id 0x007 d a b (fun x y => x.sshiftRight (y.toNat % 32))) s
def execSlt (id : CoreId) (d a b : Fin 32) (s : State) : Res :=
  run (aluA id 0x008 d a b (fun x y => if x.slt y then 1 else 0)) s
def execSltu (id : CoreId) (d a b : Fin 32) (s : State) : Res :=
  run (aluA id 0x009 d a b (fun x y => if x.ult y then 1 else 0)) s
def execMul (id : CoreId) (d a b : Fin 32) (s : State) : Res := run (aluA id 0x00A d a b (fun x y => x * y)) s
def execMulhu (id : CoreId) (d a b : Fin 32) (s : State) : Res :=
  run (aluA id 0x00B d a b (fun x y => BitVec.ofNat 32 (x.toNat * y.toNat / 2 ^ 32))) s

def execAddi (id : CoreId) (d a : Fin 32) (imm : BitVec 16) (s : State) : Res :=
  run (aluI id 0x01 d a imm (fun x => x + sext16 imm)) s
def execAndi (id : CoreId) (d a : Fin 32) (imm : BitVec 16) (s : State) : Res :=
  run (aluI id 0x02 d a imm (fun x => x &&& zext16 imm)) s
def execOri (id : CoreId) (d a : Fin 32) (imm : BitVec 16) (s : State) : Res :=
  run (aluI id 0x03 d a imm (fun x => x ||| zext16 imm)) s
def execXori (id : CoreId) (d a : Fin 32) (imm : BitVec 16) (s : State) : Res :=
  run (aluI id 0x04 d a imm (fun x => x ^^^ zext16 imm)) s
def execSlli (id : CoreId) (d a : Fin 32) (imm : BitVec 16) (s : State) : Res :=
  run (aluI id 0x06 d a imm (fun x => x <<< (imm.toNat % 32))) s
def execSrli (id : CoreId) (d a : Fin 32) (imm : BitVec 16) (s : State) : Res :=
  run (aluI id 0x07 d a imm (fun x => x >>> (imm.toNat % 32))) s
def execSrai (id : CoreId) (d a : Fin 32) (imm : BitVec 16) (s : State) : Res :=
  run (aluI id 0x08 d a imm (fun x => x.sshiftRight (imm.toNat % 32))) s
def execLui (id : CoreId) (d : Fin 32) (imm : BitVec 16) (s : State) : Res :=
  run (aluStep id (fun w => w &&& 0xFFE0FFFF == encI 0x09 d 0 imm) d (fun _ => zext16 imm <<< 16)) s

/-! ### Loads and stores (R92, R125, R126) -/

/-- The address of a load, a store or a descriptor. -/
def effAddr (c : Core) (a : Fin 32) (imm : BitVec 16) : Nat := (greg c a.val + sext16 imm).toNat

/-- The checks of a scalar access of n bytes: misaligned, then outside the narrow bank (R126). -/
def access (k n addr : Nat) (pc : Word) (go : Mach → Mach) (s : Mach) : Mach :=
  if addr % n ≠ 0 then classS k 0x02 addr pc.toNat s
  else if 0x10000 ≤ addr then classS k 0x03 addr pc.toNat s
  else go s

/-- A load of n bytes: `put` writes the destination; an uncorrectable byte is a data fault and leaves it (R130, R132). -/
def loadStep (id : CoreId) (op n : Nat) (d a : Fin 32) (imm : BitVec 16) (put : Nat → Core → Core) : Mach → Mach :=
  instr id.key (· == encI op d a imm) (fun c pc s =>
    let addr := effAddr c a imm
    access id.key n addr pc (fun s0 =>
      let s := scalarSlot id.key s0
      let x := readNarrow (coreAt s id.key) addr n
      let s1 := logErrs id.key 0 x.2 s
      if anyUe x.2 then classU id.key 0x10 addr pc.toNat none s1
      else goto id.key pc (nextPc pc) (modCore id.key (put x.1) s1)) s)

/-- A store of n bytes. -/
def storeStep (id : CoreId) (op n : Nat) (d a : Fin 32) (imm : BitVec 16) (v : Core → Nat) : Mach → Mach :=
  instr id.key (· == encI op d a imm) (fun c pc s =>
    let addr := effAddr c a imm
    access id.key n addr pc (fun s =>
      goto id.key pc (nextPc pc) (modCore id.key (writeSp addr (toBytes n (v c))) (scalarSlot id.key s))) s)

def execLb (id : CoreId) (d a : Fin 32) (imm : BitVec 16) (s : State) : Res :=
  run (loadStep id 0x10 1 d a imm (fun v => setG d.val ((BitVec.ofNat 8 v).signExtend 32))) s
def execLbu (id : CoreId) (d a : Fin 32) (imm : BitVec 16) (s : State) : Res :=
  run (loadStep id 0x11 1 d a imm (fun v => setG d.val (BitVec.ofNat 32 v))) s
def execLh (id : CoreId) (d a : Fin 32) (imm : BitVec 16) (s : State) : Res :=
  run (loadStep id 0x12 2 d a imm (fun v => setG d.val ((BitVec.ofNat 16 v).signExtend 32))) s
def execLhu (id : CoreId) (d a : Fin 32) (imm : BitVec 16) (s : State) : Res :=
  run (loadStep id 0x13 2 d a imm (fun v => setG d.val (BitVec.ofNat 32 v))) s
def execLw (id : CoreId) (d a : Fin 32) (imm : BitVec 16) (s : State) : Res :=
  run (loadStep id 0x14 4 d a imm (fun v => setG d.val (BitVec.ofNat 32 v))) s

/-- An instruction of a register pair: an odd D is illegal (R126). -/
def pairStep (id : CoreId) (op : Nat) (d a : Fin 32) (imm : BitVec 16) (f : Mach → Mach) (s : Mach) : Mach :=
  if d.val % 2 = 0 then f s else instr id.key (· == encI op d a imm) (fun _ pc s => classS id.key 0x01 0 pc.toNat s) s

def execLp (id : CoreId) (d a : Fin 32) (imm : BitVec 16) (s : State) : Res :=
  run (pairStep id 0x15 d a imm (loadStep id 0x15 8 d a imm (fun v c =>
    setG (d.val + 1) (BitVec.ofNat 32 (v / 2 ^ 32)) (setG d.val (BitVec.ofNat 32 v) c)))) s
def execSb (id : CoreId) (d a : Fin 32) (imm : BitVec 16) (s : State) : Res :=
  run (storeStep id 0x18 1 d a imm (fun c => (greg c d.val).toNat)) s
def execSh (id : CoreId) (d a : Fin 32) (imm : BitVec 16) (s : State) : Res :=
  run (storeStep id 0x19 2 d a imm (fun c => (greg c d.val).toNat)) s
def execSw (id : CoreId) (d a : Fin 32) (imm : BitVec 16) (s : State) : Res :=
  run (storeStep id 0x1A 4 d a imm (fun c => (greg c d.val).toNat)) s
def execSp (id : CoreId) (d a : Fin 32) (imm : BitVec 16) (s : State) : Res :=
  run (pairStep id 0x1B d a imm (storeStep id 0x1B 8 d a imm (fun c =>
    (greg c d.val).toNat + 2 ^ 32 * (greg c (d.val + 1)).toNat))) s

/-! ### Branches and jumps (R125, R126) -/

/-- A branch: D compared with A. -/
def branchStep (id : CoreId) (op : Nat) (d a : Fin 32) (imm : BitVec 16) (cond : Word → Word → Bool) : Mach → Mach :=
  instr id.key (· == encI op d a imm) (fun c pc s =>
    goto id.key pc (if cond (greg c d.val) (greg c a.val) then nextPc pc + imm.toInt * 4 else nextPc pc) s)

def execBeq (id : CoreId) (d a : Fin 32) (imm : BitVec 16) (s : State) : Res :=
  run (branchStep id 0x20 d a imm (fun x y => x == y)) s
def execBne (id : CoreId) (d a : Fin 32) (imm : BitVec 16) (s : State) : Res :=
  run (branchStep id 0x21 d a imm (fun x y => x != y)) s
def execBlt (id : CoreId) (d a : Fin 32) (imm : BitVec 16) (s : State) : Res :=
  run (branchStep id 0x22 d a imm (fun x y => x.slt y)) s
def execBge (id : CoreId) (d a : Fin 32) (imm : BitVec 16) (s : State) : Res :=
  run (branchStep id 0x23 d a imm (fun x y => !x.slt y)) s
def execBltu (id : CoreId) (d a : Fin 32) (imm : BitVec 16) (s : State) : Res :=
  run (branchStep id 0x24 d a imm (fun x y => x.ult y)) s
def execBgeu (id : CoreId) (d a : Fin 32) (imm : BitVec 16) (s : State) : Res :=
  run (branchStep id 0x25 d a imm (fun x y => !x.ult y)) s

def execJal (id : CoreId) (off : BitVec 26) (s : State) : Res :=
  run (instr id.key (· == encJ 0x28 off) (fun _ pc s =>
    goto id.key pc (nextPc pc + off.toInt * 4) (modCore id.key (setG 31 (pc + 4)) s))) s

def execJalr (id : CoreId) (d a : Fin 32) (imm : BitVec 16) (s : State) : Res :=
  run (instr id.key (· == encI 0x29 d a imm) (fun c pc s =>
    let t := ((greg c a.val).toNat : Int) + imm.toInt
    goto id.key pc (t - t % 4) (modCore id.key (setG d.val (pc + 4)) s))) s

/-! ### ISSUE and WAIT (R104, R105, R127) -/

/-- Queue a descriptor to engine e; a stopped engine discards it (R105, R132). -/
def enqueue (e : Nat) (q : QDesc) (c : Core) : Core :=
  if bit c.stopped e then c else { c with queues := tmod [] c.queues e (fun l => l ++ [q]) }

def execIssue (id : CoreId) (d a : Fin 32) (imm : BitVec 16) (s : State) : Res :=
  run (instr id.key (· == encI 0x30 d a imm) (fun c pc s =>
    if 4 ≤ d.val then classS id.key 0x01 0 pc.toNat s
    else
      let addr := effAddr c a imm
      if addr % 32 ≠ 0 ∨ 0x10000 ≤ addr then classS id.key 0x05 addr pc.toNat s
      else
        let s0 := scalarSlot id.key s
        let x := readNarrow (coreAt s0 id.key) addr 32
        let s1 := logErrs id.key 0 x.2 s0
        if anyUe x.2 then classU id.key 0x10 addr pc.toNat none s1
        else
          let q : QDesc := ⟨BitVec.ofNat 256 x.1, pc⟩
          if !descOk d.val q.d then classS id.key 0x05 addr pc.toNat s1
          else if (tget [] c.queues d.val).length < 8 then
            goto id.key pc (nextPc pc) (modCore id.key (enqueue d.val q) s1)
          else modCore id.key (fun c => { c with p := { c.p with mode := .stallIssue (Fin.ofNat 4 d.val) q } }) s1)) s

def execIssueResume (id : CoreId) (s : State) : Res :=
  run (fun s =>
    match (coreAt s id.key).p.mode with
    | .stallIssue e q =>
      if (tget [] (coreAt s id.key).queues e.val).length < 8 then
        goto id.key q.pc (nextPc q.pc) (modCore id.key (fun c =>
          enqueue e.val q { c with p := { c.p with mode := .running } }) s)
      else s
    | _ => s) s

/-- The counter of an engine has reached A (R127). -/
def reached (c : Core) (e : Nat) (a : Word) : Bool :=
  decide ((tget 0 c.ecnt e - a.setWidth 16).toNat < 32768)

def execWait (id : CoreId) (d a : Fin 32) (imm : BitVec 16) (s : State) : Res :=
  run (instr id.key (· == encI 0x31 d a imm) (fun c pc s =>
    if imm ≠ 0 then classS id.key 0x01 0 pc.toNat s
    else if reached c (d.val % 4) (greg c a.val) then goto id.key pc (nextPc pc) s
    else modCore id.key (fun c => { c with p := { c.p with
      mode := .waiting (Fin.ofNat 4 (d.val % 4)) (greg c a.val) } }) s)) s

def execWaitRelease (id : CoreId) (s : State) : Res :=
  run (fun s =>
    let c := coreAt s id.key
    match c.p.mode with
    | .waiting e t =>
      if reached c e.val t then
        goto id.key c.p.pc (nextPc c.p.pc) (modCore id.key (fun c => { c with p := { c.p with mode := .running } }) s)
      else s
    | _ => s) s

/-! ### CSRs (R129) -/

/-- Occupancy of the four queues, four bits each (R129). -/
def equeue (c : Core) : Nat :=
  (List.range 4).foldl (fun acc e => acc + (tget [] c.queues e).length * 16 ^ e) 0

/-- The value of a CSR, none where the table has none (R129). -/
def csrRead (s : Mach) (k n : Nat) : Option Word :=
  let c := coreAt s k
  match n with
  | 0x000 => some (BitVec.ofNat 32 (cycleOf s))
  | 0x001 => some ((roundNow s).setWidth 32)
  | 0x002 => some (BitVec.ofNat 32 (mlcOf s k))
  | 0x003 => some c.p.entry
  | 0x004 => some c.p.tvec
  | 0x005 => some c.p.epc
  | 0x006 => some (c.p.cause.setWidth 32)
  | 0x007 => some c.p.faddr
  | 0x008 => some c.p.scratch
  | 0x010 => some ((tget 0 c.ecnt 0).setWidth 32)
  | 0x011 => some ((tget 0 c.ecnt 1).setWidth 32)
  | 0x012 => some ((tget 0 c.ecnt 2).setWidth 32)
  | 0x013 => some ((tget 0 c.ecnt 3).setWidth 32)
  | 0x014 => some (BitVec.ofNat 32 (equeue c))
  | _ => none

/-- Write a CSR that is not read-only (R129); reserved bits of TVEC are discarded (R9). -/
def csrWrite (n : Nat) (v : Word) (c : Core) : Option Core :=
  match n with
  | 0x004 => some { c with p := { c.p with tvec := v &&& 0x3FFD } }
  | 0x005 => some { c with p := { c.p with epc := v } }
  | 0x008 => some { c with p := { c.p with scratch := v } }
  | _ => none

def execCsrr (id : CoreId) (d a : Fin 32) (imm : BitVec 16) (s : State) : Res :=
  run (instr id.key (· == encI 0x32 d a imm) (fun _ pc s =>
    match csrRead s id.key (imm.toNat % 4096) with
    | some v => goto id.key pc (nextPc pc) (modCore id.key (setG d.val v) s)
    | none => classS id.key 0x01 0 pc.toNat s)) s

def execCsrw (id : CoreId) (d a : Fin 32) (imm : BitVec 16) (s : State) : Res :=
  run (instr id.key (· == encI 0x33 d a imm) (fun c pc s =>
    match csrWrite (imm.toNat % 4096) (greg c a.val) (coreAt s id.key) with
    | some c' => goto id.key pc (nextPc pc) (modCore id.key (fun _ => c') s)
    | none => classS id.key 0x01 0 pc.toNat s)) s

/-! ### DONE, ERET, illegal encodings (R125, R126, R128, R131) -/

def execDone (id : CoreId) (off : BitVec 26) (s : State) : Res :=
  run (instr id.key (· == encJ 0x34 off) (fun _ pc s =>
    if off ≠ 0 then classS id.key 0x01 0 pc.toNat s
    else modCore id.key (fun c => { c with p := { c.p with mode := .draining } }) s)) s

def execDoneSignal (id : CoreId) (s : State) : Res :=
  run (fun s =>
    let c := coreAt s id.key
    if c.p.mode = .draining ∧ drained c then signalDone id.key s else s) s

/-- ERET leaves the handler before its target is fetched: an EPC outside the instruction memory is a class S exception with
cause 0x04, and not a double fault (R126, R130; DESIGN CHOICE, log entry 12). PC takes EPC as it stands, its low two bits included
(R131; DESIGN CHOICE, log entry 12). -/
def execEret (id : CoreId) (off : BitVec 26) (s : State) : Res :=
  run (instr id.key (· == encJ 0x35 off) (fun c pc s =>
    if off ≠ 0 then classS id.key 0x01 0 pc.toNat s
    else goto id.key pc (c.p.epc.toNat : Int)
      (modCore id.key (fun c => { c with p := { c.p with inexc := false } }) s))) s

/-- The encoding is listed in R125. -/
def listed (w : Word) : Bool :=
  let op := (fld w 26 6).toNat
  if op = 0 then decide ((fld w 0 11).toNat ≤ 0xB)
  else [1, 2, 3, 4, 6, 7, 8, 9, 0x10, 0x11, 0x12, 0x13, 0x14, 0x15, 0x18, 0x19, 0x1A, 0x1B, 0x20, 0x21, 0x22, 0x23,
    0x24, 0x25, 0x28, 0x29, 0x30, 0x31, 0x32, 0x33, 0x34, 0x35].contains op

def execIllegalInstruction (id : CoreId) (w : Word) (s : State) : Res :=
  run (fun s => if listed w then s else instr id.key (· == w) (fun _ pc s => classS id.key 0x01 0 pc.toNat s) s) s

end Sys2Proof.Machine
end

