-- ==== Sys2Proof/Machine/Dispatch.lean ====
section
/-! DEFINITION. One arm per command: the call of its meaning. -/

namespace Sys2Proof.Machine

def exec (i : Instr) (s : State) : Host.Outcome State Fault Refusal :=
  match i with
  | .coldStart => Sys2Proof.Machine.execColdStart s
  | .startCoolantTimeout => Sys2Proof.Machine.execStartCoolantTimeout s
  | .watchdogExpiry => Sys2Proof.Machine.execWatchdogExpiry s
  | .rstReqWarp agent => Sys2Proof.Machine.execRstReqWarp s agent
  | .rstReqRim agent => Sys2Proof.Machine.execRstReqRim s agent
  | .rstReqModule agent => Sys2Proof.Machine.execRstReqModule s agent
  | .warpResetDone katFail => Sys2Proof.Machine.execWarpResetDone katFail s
  | .rimResetDone bad katFail => Sys2Proof.Machine.execRimResetDone s bad katFail
  | .coreMarkedDead k => Sys2Proof.Machine.execCoreMarkedDead k s
  | .weftRead f => Sys2Proof.Machine.execWeftRead f s
  | .weftWrite f => Sys2Proof.Machine.execWeftWrite f s
  | .weftResponse f => Sys2Proof.Machine.execWeftResponse f s
  | .weftEvent f => Sys2Proof.Machine.execWeftEvent f s
  | .weftTelemetry f => Sys2Proof.Machine.execWeftTelemetry f s
  | .weftBroadcast f => Sys2Proof.Machine.execWeftBroadcast f s
  | .weftResendTimer tag => Sys2Proof.Machine.execWeftResendTimer tag s
  | .weftRingBreak ring die => Sys2Proof.Machine.execWeftRingBreak ring die s
  | .telemetrySample => Sys2Proof.Machine.execTelemetrySample s
  | .rndEnSet v => Sys2Proof.Machine.execRndEnSet v s
  | .markerEmit => Sys2Proof.Machine.execMarkerEmit s
  | .roundMarker port m => Sys2Proof.Machine.execRoundMarker port m s
  | .roundStart => Sys2Proof.Machine.execRoundStart s
  | .delayedRoundStart => Sys2Proof.Machine.execDelayedRoundStart s
  | .lateFault => Sys2Proof.Machine.execLateFault s
  | .missedMarker => Sys2Proof.Machine.execMissedMarker s
  | .stretchRequest port m => Sys2Proof.Machine.execStretchRequest port m s
  | .rndSreqWrite v => Sys2Proof.Machine.execRndSreqWrite v s
  | .add k d a b => Sys2Proof.Machine.execAdd k d a b s
  | .sub k d a b => Sys2Proof.Machine.execSub k d a b s
  | .and k d a b => Sys2Proof.Machine.execAnd k d a b s
  | .or k d a b => Sys2Proof.Machine.execOr k d a b s
  | .xor k d a b => Sys2Proof.Machine.execXor k d a b s
  | .sll k d a b => Sys2Proof.Machine.execSll k d a b s
  | .srl k d a b => Sys2Proof.Machine.execSrl k d a b s
  | .sra k d a b => Sys2Proof.Machine.execSra k d a b s
  | .slt k d a b => Sys2Proof.Machine.execSlt k d a b s
  | .sltu k d a b => Sys2Proof.Machine.execSltu k d a b s
  | .mul k d a b => Sys2Proof.Machine.execMul k d a b s
  | .mulhu k d a b => Sys2Proof.Machine.execMulhu k d a b s
  | .addi k d a imm => Sys2Proof.Machine.execAddi k d a imm s
  | .andi k d a imm => Sys2Proof.Machine.execAndi k d a imm s
  | .ori k d a imm => Sys2Proof.Machine.execOri k d a imm s
  | .xori k d a imm => Sys2Proof.Machine.execXori k d a imm s
  | .slli k d a imm => Sys2Proof.Machine.execSlli k d a imm s
  | .srli k d a imm => Sys2Proof.Machine.execSrli k d a imm s
  | .srai k d a imm => Sys2Proof.Machine.execSrai k d a imm s
  | .lui k d imm => Sys2Proof.Machine.execLui k d imm s
  | .lb k d a imm => Sys2Proof.Machine.execLb k d a imm s
  | .lbu k d a imm => Sys2Proof.Machine.execLbu k d a imm s
  | .lh k d a imm => Sys2Proof.Machine.execLh k d a imm s
  | .lhu k d a imm => Sys2Proof.Machine.execLhu k d a imm s
  | .lw k d a imm => Sys2Proof.Machine.execLw k d a imm s
  | .lp k d a imm => Sys2Proof.Machine.execLp k d a imm s
  | .sb k d a imm => Sys2Proof.Machine.execSb k d a imm s
  | .sh k d a imm => Sys2Proof.Machine.execSh k d a imm s
  | .sw k d a imm => Sys2Proof.Machine.execSw k d a imm s
  | .sp k d a imm => Sys2Proof.Machine.execSp k d a imm s
  | .beq k d a imm => Sys2Proof.Machine.execBeq k d a imm s
  | .bne k d a imm => Sys2Proof.Machine.execBne k d a imm s
  | .blt k d a imm => Sys2Proof.Machine.execBlt k d a imm s
  | .bge k d a imm => Sys2Proof.Machine.execBge k d a imm s
  | .bltu k d a imm => Sys2Proof.Machine.execBltu k d a imm s
  | .bgeu k d a imm => Sys2Proof.Machine.execBgeu k d a imm s
  | .jal k off => Sys2Proof.Machine.execJal k off s
  | .jalr k d a imm => Sys2Proof.Machine.execJalr k d a imm s
  | .issue k d a imm => Sys2Proof.Machine.execIssue k d a imm s
  | .issueResume k => Sys2Proof.Machine.execIssueResume k s
  | .wait k d a imm => Sys2Proof.Machine.execWait k d a imm s
  | .waitRelease k => Sys2Proof.Machine.execWaitRelease k s
  | .csrr k d a imm => Sys2Proof.Machine.execCsrr k d a imm s
  | .csrw k d a imm => Sys2Proof.Machine.execCsrw k d a imm s
  | .done k off => Sys2Proof.Machine.execDone k off s
  | .doneSignal k => Sys2Proof.Machine.execDoneSignal k s
  | .eret k off => Sys2Proof.Machine.execEret k off s
  | .illegalInstruction k w => Sys2Proof.Machine.execIllegalInstruction k w s
  | .wloadStart k => Sys2Proof.Machine.execWloadStart k s
  | .wloadComplete k => Sys2Proof.Machine.execWloadComplete k s
  | .mpassStart k => Sys2Proof.Machine.execMpassStart k s
  | .mpassComplete k strikes => Sys2Proof.Machine.execMpassComplete k strikes s
  | .recomputationComplete k strikes katPass => Sys2Proof.Machine.execRecomputationComplete k strikes katPass s
  | .aoutStart k => Sys2Proof.Machine.execAoutStart k s
  | .aoutComplete k => Sys2Proof.Machine.execAoutComplete k s
  | .aclrStart k => Sys2Proof.Machine.execAclrStart k s
  | .aclrComplete k => Sys2Proof.Machine.execAclrComplete k s
  | .vopStart k => Sys2Proof.Machine.execVopStart k s
  | .vopComplete k => Sys2Proof.Machine.execVopComplete k s
  | .trkClrAll die v => Sys2Proof.Machine.execTrkClrAll die v s
  | .switchReadyGather => Sys2Proof.Machine.execSwitchReadyGather s
  | .sectionGo => Sys2Proof.Machine.execSectionGo s
  | .outboundBurst k ch => Sys2Proof.Machine.execOutboundBurst k ch s
  | .inboundFlit k scalar phase input flit others => Sys2Proof.Machine.execInboundFlit k scalar phase input flit others s
  | .flagExpire k b => Sys2Proof.Machine.execFlagExpire k b s
  | .edgeReadRequest st link phase flit => Sys2Proof.Machine.execEdgeReadRequest st link phase flit s
  | .edgeWriteRequest st link phase flit => Sys2Proof.Machine.execEdgeWriteRequest st link phase flit s
  | .transposedReadRequest st link phase flit => Sys2Proof.Machine.execTransposedReadRequest st link phase flit s
  | .writeDataRow st link phase row poison => Sys2Proof.Machine.execWriteDataRow st link phase row poison s
  | .answerRowSend st link phase => Sys2Proof.Machine.execAnswerRowSend st link phase s
  | .writeReply st link phase => Sys2Proof.Machine.execWriteReply st link phase s
  | .refreshCommand st q => Sys2Proof.Machine.execRefreshCommand st q s
  | .splitSlotBoundary st => Sys2Proof.Machine.execSplitSlotBoundary st s
  | .pcRetrainStart st temp => Sys2Proof.Machine.execPcRetrainStart st temp s
  | .pcRetrainDone st => Sys2Proof.Machine.execPcRetrainDone st s
  | .pcRetrainRetry st => Sys2Proof.Machine.execPcRetrainRetry st s
  | .retrainRewrite st => Sys2Proof.Machine.execRetrainRewrite st s
  | .slistStart k se => Sys2Proof.Machine.execSlistStart k se s
  | .blockDescriptorFetch k se => Sys2Proof.Machine.execBlockDescriptorFetch k se s
  | .blockComplete k se => Sys2Proof.Machine.execBlockComplete k se s
  | .streamInboundFlit k se row poison rej => Sys2Proof.Machine.execStreamInboundFlit k se row poison rej s
  | .tcopyStart k se => Sys2Proof.Machine.execTcopyStart k se s
  | .tcopyComplete k se => Sys2Proof.Machine.execTcopyComplete k se s
  | .emcSplitWrite v => Sys2Proof.Machine.execEmcSplitWrite v s
  | .emcRimphWrite v => Sys2Proof.Machine.execEmcRimphWrite v s
  | .updateList q d => Sys2Proof.Machine.execUpdateList q d s
  | .updateJobEnd u => Sys2Proof.Machine.execUpdateJobEnd u s
  | .uuStop v => Sys2Proof.Machine.execUuStop v s
  | .digest port m => Sys2Proof.Machine.execDigest port m s
  | .digestTimeout => Sys2Proof.Machine.execDigestTimeout s
  | .vzlFlit port f fec => Sys2Proof.Machine.execVzlFlit port f fec s
  | .replayTimeout port => Sys2Proof.Machine.execReplayTimeout port s
  | .idleFlitTimer port => Sys2Proof.Machine.execIdleFlitTimer port s
  | .laneFree port lane => Sys2Proof.Machine.execLaneFree port lane s
  | .lightDetect port => Sys2Proof.Machine.execLightDetect port s
  | .eqComplete port failed => Sys2Proof.Machine.execEqComplete port failed s
  | .alignComplete port swapped => Sys2Proof.Machine.execAlignComplete port swapped s
  | .speedComplete port failed => Sys2Proof.Machine.execSpeedComplete port failed s
  | .identity port m => Sys2Proof.Machine.execIdentity port m s
  | .identityResend port => Sys2Proof.Machine.execIdentityResend port s
  | .echoSend port => Sys2Proof.Machine.execEchoSend port s
  | .echo port m => Sys2Proof.Machine.execEcho port m s
  | .linkDown port lost => Sys2Proof.Machine.execLinkDown port lost s
  | .retryTimerExpiry port => Sys2Proof.Machine.execRetryTimerExpiry port s
  | .prtCfgEnWrite port v => Sys2Proof.Machine.execPrtCfgEnWrite port v s
  | .prtRtreq port v => Sys2Proof.Machine.execPrtRtreq port v s
  | .laneRetrainTrigger port t => Sys2Proof.Machine.execLaneRetrainTrigger port t s
  | .retrainRequest port m => Sys2Proof.Machine.execRetrainRequest port m s
  | .retrainGrant port m => Sys2Proof.Machine.execRetrainGrant port m s
  | .laneRetrainComplete port ok => Sys2Proof.Machine.execLaneRetrainComplete port ok s
  | .retrainDone port m => Sys2Proof.Machine.execRetrainDone port m s
  | .remoteReadRequest port link phase flit => Sys2Proof.Machine.execRemoteReadRequest port link phase flit s
  | .remoteWriteRequest port link phase flit rows => Sys2Proof.Machine.execRemoteWriteRequest port link phase flit rows s
  | .rwrite port m => Sys2Proof.Machine.execRwrite port m s
  | .rread port m => Sys2Proof.Machine.execRread port m s
  | .rdata port m => Sys2Proof.Machine.execRdata port m s
  | .lnack port m => Sys2Proof.Machine.execLnack port m s
  | .fprobe port m => Sys2Proof.Machine.execFprobe port m s
  | .fackSend port src => Sys2Proof.Machine.execFackSend port src s
  | .fack port m => Sys2Proof.Machine.execFack port m s
  | .systemFenceTimeout => Sys2Proof.Machine.execSystemFenceTimeout s
  | .rreadTimeout port rid => Sys2Proof.Machine.execRreadTimeout port rid s
  | .lateWriteScan port => Sys2Proof.Machine.execLateWriteScan port s
  | .ptnSelWrite v => Sys2Proof.Machine.execPtnSelWrite v s
  | .winSelWrite v => Sys2Proof.Machine.execWinSelWrite v s
  | .sysTwinWrite v => Sys2Proof.Machine.execSysTwinWrite v s
  | .scrubRead k arr => Sys2Proof.Machine.execScrubRead k arr s
  | .scrubWriteback k arr => Sys2Proof.Machine.execScrubWriteback k arr s
  | .edgeScrubRead st => Sys2Proof.Machine.execEdgeScrubRead st s
  | .edgeScrubRewrite st => Sys2Proof.Machine.execEdgeScrubRewrite st s
  | .dieLostMark st d => Sys2Proof.Machine.execDieLostMark st d s
  | .logclr die v => Sys2Proof.Machine.execLogclr die v s
  | .emsLogselWrite st v => Sys2Proof.Machine.execEmsLogselWrite st v s
  | .emsLogClr st v => Sys2Proof.Machine.execEmsLogClr st v s
  | .chkRawWrite die v => Sys2Proof.Machine.execChkRawWrite die v s
  | .chkRawRead die v => Sys2Proof.Machine.execChkRawRead die v s
  | .chkCheckedRead die v => Sys2Proof.Machine.execChkCheckedRead die v s
  | .edgeRawSymbolWrite v => Sys2Proof.Machine.execEdgeRawSymbolWrite v s
  | .edgeRawSymbolRead v => Sys2Proof.Machine.execEdgeRawSymbolRead v s
  | .edgeCheckedRead v => Sys2Proof.Machine.execEdgeCheckedRead v s
  | .mntSelWrite v => Sys2Proof.Machine.execMntSelWrite v s
  | .tokenGranted tok => Sys2Proof.Machine.execTokenGranted tok s
  | .katRequest die v => Sys2Proof.Machine.execKatRequest die v s
  | .katComplete die pass => Sys2Proof.Machine.execKatComplete die pass s
  | .lockstepDigest port round dig => Sys2Proof.Machine.execLockstepDigest port round dig s
  | .lockstepDigestMissing => Sys2Proof.Machine.execLockstepDigestMissing s
  | .lsCtrlClr v => Sys2Proof.Machine.execLsCtrlClr v s
  | .keepRwrite port m => Sys2Proof.Machine.execKeepRwrite port m s
  | .keepRread port m => Sys2Proof.Machine.execKeepRread port m s
  | .keepRdata port m => Sys2Proof.Machine.execKeepRdata port m s
  | .sealSessionTimeout => Sys2Proof.Machine.execSealSessionTimeout s
  | .sealEnergyTimeout => Sys2Proof.Machine.execSealEnergyTimeout s
  | .feedLost feedB => Sys2Proof.Machine.execFeedLost feedB s
  | .feedTaken feedB => Sys2Proof.Machine.execFeedTaken feedB s
  | .inputLoss => Sys2Proof.Machine.execInputLoss s
  | .inputReturn => Sys2Proof.Machine.execInputReturn s
  | .lastGaspWrite => Sys2Proof.Machine.execLastGaspWrite s
  | .bankExhausted => Sys2Proof.Machine.execBankExhausted s
  | .domainFault inst => Sys2Proof.Machine.execDomainFault inst s
  | .domainFaultOff inst => Sys2Proof.Machine.execDomainFaultOff inst s
  | .powerSequenceStep failed bad => Sys2Proof.Machine.execPowerSequenceStep failed s bad
  | .powerDownStep => Sys2Proof.Machine.execPowerDownStep s
  | .powerSample p over5ms => Sys2Proof.Machine.execPowerSample p over5ms s
  | .capUnmet avg100 => Sys2Proof.Machine.execCapUnmet avg100 s
  | .droopTrip die sensor => Sys2Proof.Machine.execDroopTrip die sensor s
  | .stretchEnd die cycles => Sys2Proof.Machine.execStretchEnd die cycles s
  | .dieVcmd die v => Sys2Proof.Machine.execDieVcmd die v s
  | .vcmdTakeEffect die varr => Sys2Proof.Machine.execVcmdTakeEffect die varr s
  | .slewReached die varr => Sys2Proof.Machine.execSlewReached die varr s
  | .settledTimer die varr => Sys2Proof.Machine.execSettledTimer die varr s
  | .thermalSample src temp => Sys2Proof.Machine.execThermalSample src temp s
  | .coolantSample inlet outlet flow held1s => Sys2Proof.Machine.execCoolantSample inlet outlet flow held1s s
  | .vminSample inst v => Sys2Proof.Machine.execVminSample inst v s
  | .vminSelWrite die v => Sys2Proof.Machine.execVminSelWrite die v s
  | .vminClr die v => Sys2Proof.Machine.execVminClr die v s
  | .pwrVminSelWrite v => Sys2Proof.Machine.execPwrVminSelWrite v s
  | .pwrVminClr v => Sys2Proof.Machine.execPwrVminClr v s
  | .burnStep b => Sys2Proof.Machine.execBurnStep b s
  | .bankFull energy => Sys2Proof.Machine.execBankFull energy s
  | .writeSequenceStart => Sys2Proof.Machine.execWriteSequenceStart s
  | .ledgerRecordWrite => Sys2Proof.Machine.execLedgerRecordWrite s
  | .ledgerRecordCommitted => Sys2Proof.Machine.execLedgerRecordCommitted s
  | .calSetHiWrite v => Sys2Proof.Machine.execCalSetHiWrite v s
  | .calSecLoRead => Sys2Proof.Machine.execCalSecLoRead s
  | .telMselWrite v => Sys2Proof.Machine.execTelMselWrite v s
  | .setEndpointId eid => Sys2Proof.Machine.execSetEndpointId eid s
  | .getEndpointId => Sys2Proof.Machine.execGetEndpointId s
  | .getMctpVersionSupport => Sys2Proof.Machine.execGetMctpVersionSupport s
  | .getMessageTypeSupport => Sys2Proof.Machine.execGetMessageTypeSupport s
  | .gettid => Sys2Proof.Machine.execGettid s
  | .getpldmversion => Sys2Proof.Machine.execGetpldmversion s
  | .getpldmtypes => Sys2Proof.Machine.execGetpldmtypes s
  | .getpldmcommands typ => Sys2Proof.Machine.execGetpldmcommands typ s
  | .getpdr handle => Sys2Proof.Machine.execGetpdr handle s
  | .getsensorreading sensor => Sys2Proof.Machine.execGetsensorreading sensor s
  | .getstatesensorreadings sensor => Sys2Proof.Machine.execGetstatesensorreadings sensor s
  | .setstateeffecterstates effecter state => Sys2Proof.Machine.execSetstateeffecterstates effecter state s
  | .seteventreceiver eid => Sys2Proof.Machine.execSeteventreceiver eid s
  | .pollforplatformeventmessage => Sys2Proof.Machine.execPollforplatformeventmessage s
  | .getdatetime => Sys2Proof.Machine.execGetdatetime s
  | .setdatetime sec => Sys2Proof.Machine.execSetdatetime sec s
  | .querydeviceidentifiers => Sys2Proof.Machine.execQuerydeviceidentifiers s
  | .getfirmwareparameters => Sys2Proof.Machine.execGetfirmwareparameters s
  | .requestupdate => Sys2Proof.Machine.execRequestupdate s
  | .passcomponenttable => Sys2Proof.Machine.execPasscomponenttable s
  | .updatecomponent length => Sys2Proof.Machine.execUpdatecomponent length s
  | .requestfirmwaredata offset data => Sys2Proof.Machine.execRequestfirmwaredata offset data s
  | .activatefirmware => Sys2Proof.Machine.execActivatefirmware s
  | .getstatus => Sys2Proof.Machine.execGetstatus s
  | .cancelupdate => Sys2Proof.Machine.execCancelupdate s
  | .getVersion => Sys2Proof.Machine.execGetVersion s
  | .getCapabilities => Sys2Proof.Machine.execGetCapabilities s
  | .negotiateAlgorithms hash sign => Sys2Proof.Machine.execNegotiateAlgorithms hash sign s
  | .getDigests => Sys2Proof.Machine.execGetDigests s
  | .getCertificate slot offset length => Sys2Proof.Machine.execGetCertificate slot offset length s
  | .challenge slot nonce => Sys2Proof.Machine.execChallenge slot nonce s
  | .getMeasurements index => Sys2Proof.Machine.execGetMeasurements index s
  | .doeDiscovery index => Sys2Proof.Machine.execDoeDiscovery index s
  | .functionLevelReset => Sys2Proof.Machine.execFunctionLevelReset s
  | .perstAssert => Sys2Proof.Machine.execPerstAssert s
  | .perstRelease gen width flitMode => Sys2Proof.Machine.execPerstRelease gen width flitMode s
  | .apertureRead off len => Sys2Proof.Machine.execApertureRead off len s
  | .apertureWrite off data => Sys2Proof.Machine.execApertureWrite off data s
  | .cqTail q v => Sys2Proof.Machine.execCqTail q v s
  | .cpHead q v => Sys2Proof.Machine.execCpHead q v s
  | .ringEnable q v => Sys2Proof.Machine.execRingEnable q v s
  | .ringDisable q v => Sys2Proof.Machine.execRingDisable q v s
  | .ringConfigViolation q off v => Sys2Proof.Machine.execRingConfigViolation q off v s
  | .commandFetch q d => Sys2Proof.Machine.execCommandFetch q d s
  | .completionWrite q ok => Sys2Proof.Machine.execCompletionWrite q ok s
  | .coalesceTimer q => Sys2Proof.Machine.execCoalesceTimer q s
  | .hostIrqCauseWrite v => Sys2Proof.Machine.execHostIrqCauseWrite v s
  | .nop q d => Sys2Proof.Machine.execNop q d s
  | .sectionLoad q d => Sys2Proof.Machine.execSectionLoad q d s
  | .sectionStop q d => Sys2Proof.Machine.execSectionStop q d s
  | .fenceModule q d => Sys2Proof.Machine.execFenceModule q d s
  | .fenceSystem q d => Sys2Proof.Machine.execFenceSystem q d s
  | .windowOpen q d => Sys2Proof.Machine.execWindowOpen q d s
  | .windowClose q d => Sys2Proof.Machine.execWindowClose q d s
  | .partnerAddForwarded q d => Sys2Proof.Machine.execPartnerAddForwarded q d s
  | .partnerRemove q d => Sys2Proof.Machine.execPartnerRemove q d s
  | .partnerAssignId q d => Sys2Proof.Machine.execPartnerAssignId q d s
  | .partnerUnassign q d => Sys2Proof.Machine.execPartnerUnassign q d s
  | .roundSet q d => Sys2Proof.Machine.execRoundSet q d s
  | .digestSet q d => Sys2Proof.Machine.execDigestSet q d s
  | .seal q d => Sys2Proof.Machine.execSeal q d s
  | .restore q d => Sys2Proof.Machine.execRestore q d s
  | .restoreServe q d => Sys2Proof.Machine.execRestoreServe q d s
  | .restartHold q d => Sys2Proof.Machine.execRestartHold q d s
  | .restartArm q d => Sys2Proof.Machine.execRestartArm q d s
  | .resume q d => Sys2Proof.Machine.execResume q d s
  | .hostCopyToEdge q d data => Sys2Proof.Machine.execHostCopyToEdge q d data s
  | .hostCopyToHost q d hostOk => Sys2Proof.Machine.execHostCopyToHost q d hostOk s
  | .ckptExport q d hostOk => Sys2Proof.Machine.execCkptExport q d hostOk s
  | .ckptImport q d data => Sys2Proof.Machine.execCkptImport q d data s
  | .ledgerReadRaw q d hostOk => Sys2Proof.Machine.execLedgerReadRaw q d hostOk s
  | .ledgerReadCper q d hostOk => Sys2Proof.Machine.execLedgerReadCper q d hostOk s
  | .licenceInstall q d data => Sys2Proof.Machine.execLicenceInstall q d data s
  | .keyFuseProgram q d data => Sys2Proof.Machine.execKeyFuseProgram q d data s
  | .keyFuseRevoke q d data => Sys2Proof.Machine.execKeyFuseRevoke q d data s
  | .fwUpdate q d data => Sys2Proof.Machine.execFwUpdate q d data s
  | .maintWarpReset q d => Sys2Proof.Machine.execMaintWarpReset q d s
  | .maintRimReset q d => Sys2Proof.Machine.execMaintRimReset q d s
  | .maintEdgeCheckerBegin q d => Sys2Proof.Machine.execMaintEdgeCheckerBegin q d s
  | .maintScratchpadCheckerBegin q d => Sys2Proof.Machine.execMaintScratchpadCheckerBegin q d s
  | .maintEndActivity q d => Sys2Proof.Machine.execMaintEndActivity q d s
  | .powerOff q d => Sys2Proof.Machine.execPowerOff q d s
  | .rcFieldRead off be => Sys2Proof.Machine.execRcFieldRead off be s
  | .registerWrite off be v => Sys2Proof.Machine.execRegisterWrite off be v s
  | .writeSequenceEnd => Sys2Proof.Machine.execWriteSequenceEnd s
  | .calendarClockStop => Sys2Proof.Machine.execCalendarClockStop s
  | .i3cDynamicAddress addr => Sys2Proof.Machine.execI3cDynamicAddress addr s
  | .gaugeEstimateUpdate coul model => Sys2Proof.Machine.execGaugeEstimateUpdate coul model s

end Sys2Proof.Machine
end

