-- ==== Sys2Proof/Machine/Step.lean ====
section
/-! DEFINITION. One step of the block: the command at the front of the queue, or one idle reference cycle. -/

namespace Sys2Proof.Machine

/-- The state with a command put at the front of the queue. -/
def State.push (c : Instr) (s : State) : State := { s with pending := c :: s.pending }

/-- One reference cycle passes with no command, with what the clock itself brings about (R47; DESIGN CHOICE, log entry 2), and the copies
of the checkpoints go on by one part (DESIGN CHOICE, log entry 37). -/
def State.tick (s : State) : State := s.to (copyCycle (passCycle s.m))

/-- Take the command at the front of the queue and run it with the rest of the queue; with an empty queue the block
idles for one reference cycle. -/
def step (s : State) : Host.Outcome State Fault Refusal :=
  match s.pending with
  | [] => .next s.tick
  | c :: rest => exec c { s with pending := rest }

/-- The command that a table word spells, put at the front of the queue; no row of the table has bits. -/
def State.withFetchWord (s : State) (nbits w : Nat) : State :=
  match Sys2Proof.decodeTableWord nbits w with
  | some c => s.push c
  | none => s

end Sys2Proof.Machine
end

