-- ==== Sys2Proof/Safety.lean ====
section
/-! DEFINITION. What a safe run is: no step of it faults or is refused. -/

namespace Sys2Proof.Safety

open Sys2Proof.Machine

/-- The step at a state goes on. -/
def Goes (s : State) : Prop := ∃ t, step s = .next t

/-- Every one of the next n steps goes on. -/
def Runs : Nat → State → Prop
  | 0, _ => True
  | n + 1, s => ∃ t, step s = .next t ∧ Runs n t

end Sys2Proof.Safety
end

