-- ==== Sys2Proof/Certificates/Slice0/Obligations.lean ====
section
/-! DEFINITION. The statements about the model. Every one is a Prop of its own; nothing is proved here. A statement of the
form `exec c s = .next (after f s)` says that the command is answered with a next state, that the queue is what it was,
and that exactly what `f` changes of the module has changed: it is the command's result and its frame at once. -/

namespace Sys2Proof.Spec

open Sys2Proof.Machine

/-- The state whose module `f` changed: if no time has passed, the cycle is the one that it was (R587). -/
def after (f : Mach → Mach) (s : State) : State := s.to (f s.m)

/-- The state after a host access that changed the module as `f` says: the next access of the host goes by what it left (R587). -/
def accessed (f : Mach → Mach) (s : State) : State := s.accessed (f s.m)

/-! ### The scalar processor -/

/-- The instruction word at the PC of core k. -/
def codeAt (s : Mach) (k : CoreId) : Word :=
  BitVec.ofNat 32 (rdNum (coreAt s k.key).imem ((coreAt s k.key).p.pc.toNat / 4 * 4) 4)

/-- The processor of core k runs, and the instruction word at its PC is w and holds no error (R124, R125, R397). -/
def Fetches (s : Mach) (k : CoreId) (w : Word) : Prop :=
  (coreAt s k.key).p.mode = .running ∧ tget 0 (coreAt s k.key).synd (imemKey ((coreAt s k.key).p.pc.toNat / 4)) = 0 ∧ codeAt s k = w

/-- The three formats of R124: OP, D, A, B or IMM16 or OFF26, and FN. -/
def formA (d a b : Fin 32) (fn : Nat) : Word :=
  (0 : BitVec 6) ++ BitVec.ofNat 5 d.val ++ BitVec.ofNat 5 a.val ++ BitVec.ofNat 5 b.val ++ BitVec.ofNat 11 fn
def formI (op : Nat) (d a : Fin 32) (imm : BitVec 16) : Word := BitVec.ofNat 6 op ++ BitVec.ofNat 5 d.val ++ BitVec.ofNat 5 a.val ++ imm
def formJ (op : Nat) (off : BitVec 26) : Word := BitVec.ofNat 6 op ++ off

/-- The instruction after the one at the PC lies in the instruction memory (R126). -/
def Follows (s : Mach) (k : CoreId) : Prop := (coreAt s k.key).p.pc.toNat + 4 < 0x4000

/-- Core k changes as `f` says and its PC advances by 4. -/
def onward (k : CoreId) (f : Core → Core) : Mach → Mach :=
  modCore k.key (fun c => { f c with p := { (f c).p with pc := c.p.pc + 4 } })

/-- D takes the value `v`, where G0 takes nothing (R125). -/
def puts (d : Fin 32) (v : Word) (c : Core) : Core :=
  if d = 0 then c else { c with p := { c.p with g := tset 0 c.p.g d.val v } }

/-- What a register reads: G0 reads zero (R125). -/
def gval (s : Mach) (k : CoreId) (a : Fin 32) : Word := if a = 0 then 0 else tget 0 (coreAt s k.key).p.g a.val

/-- The address A + IMM of a load, a store or a descriptor. -/
def addrOf (s : Mach) (k : CoreId) (a : Fin 32) (imm : BitVec 16) : Nat := (gval s k a + imm.signExtend 32).toNat

/-- An aligned scalar access of n bytes within the narrow bank (R92, R126). -/
def Aligned (s : Mach) (k : CoreId) (a : Fin 32) (imm : BitVec 16) (n : Nat) : Prop :=
  addrOf s k a imm % n = 0 ∧ addrOf s k a imm < 0x10000

/-- The module in the scalar processor's next slot of the narrow bank of core k (R101): that is now in an even cycle; in an odd one
the writes that wait for the slot of the DMA are made first. -/
def slotted (k : CoreId) (s : Mach) : Mach :=
  if cycleOf s % 2 = 0 then s else modCore k.key (fun c => { writePieces c.dma c with dma := [] }) s

/-- n narrow bytes from an address on hold no error (R382). -/
def Clean (s : Mach) (k : CoreId) (addr n : Nat) : Prop := ∀ i, i < n → tget 0 (coreAt s k.key).synd (addr + i) = 0

end Sys2Proof.Spec

open Sys2Proof Sys2Proof.Machine Sys2Proof.Spec

namespace Sys2Proof.Spec

open Sys2Proof.Machine

/-- A host access of the register at `a` is served (R25, R504, R586): the module is READY, its link is up, no reset covers
the register, and the die that holds it answers. -/
def Served (s : Mach) (a : Nat) : Prop :=
  s.start.state = 7 ∧ s.host.perst = false ∧ covered s a = false ∧ ∀ d o, placeOf a = .die d o → answersAt s d o = true

/-- The command `c` of opcode `opc` starts (R566, R567, R571): it is the next of ring q, its header and its unnamed
body bytes are valid, and the module is READY. -/
def Starts (s : Mach) (q : Nat) (d : Desc) (c : RunCmd) (opc : Nat) (named : List (Nat × Nat)) : Prop :=
  cmdFind s q d = some c ∧ cB d 0 1 = opc ∧ headerOk d = true ∧ bodyOk d named = true ∧ s.start.state = 7

/-- The version of the command set that a command was accepted with (R561, R569). -/
def verOf (s : Mach) (q : Nat) (c : RunCmd) : Nat := cmdVer s ⟨q, c.tok⟩

/-- The command has started. -/
def started (q : Nat) (c : RunCmd) : Mach → Mach :=
  modRing q (fun r => { r with cmds := r.cmds.map (fun x => if x.tok == c.tok then { x with started := true } else x) })

/-- The command ended at once, with a status and its DETAIL. -/
def ended (q : Nat) (c : RunCmd) (status detail : Nat) (s : Mach) : Mach :=
  complete ⟨q, c.tok⟩ status detail (started q c s)

end Sys2Proof.Spec

/-- R125: each register instruction writes D with its result, advances the PC by 4 and changes nothing else. G0 reads
zero and a write to it is discarded. The queue and everything outside the core stay as they were. The word at the PC
encodes the instruction; a word that does not is not executed as it. -/
def Obligations.ScalarArithmeticWritesOnlyD : Prop :=
  ∀ (k : CoreId) (d a b : Fin 32) (imm : BitVec 16) (s : State), Follows s.m k →
    let x := gval s.m k a
    let y := gval s.m k b
    let i := imm.signExtend 32
    let u := imm.setWidth 32
    (Fetches s.m k (formA d a b 0x000) →
      exec (.add k d a b) s = .next (after (onward k (puts d (x + y))) s)) ∧
    (Fetches s.m k (formA d a b 0x001) →
      exec (.sub k d a b) s = .next (after (onward k (puts d (x - y))) s)) ∧
    (Fetches s.m k (formA d a b 0x002) →
      exec (.and k d a b) s = .next (after (onward k (puts d (x &&& y))) s)) ∧
    (Fetches s.m k (formA d a b 0x003) →
      exec (.or k d a b) s = .next (after (onward k (puts d (x ||| y))) s)) ∧
    (Fetches s.m k (formA d a b 0x004) →
      exec (.xor k d a b) s = .next (after (onward k (puts d (x ^^^ y))) s)) ∧
    (Fetches s.m k (formA d a b 0x005) →
      exec (.sll k d a b) s = .next (after (onward k (puts d (x <<< (y.toNat % 32)))) s)) ∧
    (Fetches s.m k (formA d a b 0x006) →
      exec (.srl k d a b) s = .next (after (onward k (puts d (x >>> (y.toNat % 32)))) s)) ∧
    (Fetches s.m k (formA d a b 0x007) →
      exec (.sra k d a b) s = .next (after (onward k (puts d (x.sshiftRight (y.toNat % 32)))) s)) ∧
    (Fetches s.m k (formA d a b 0x008) →
      exec (.slt k d a b) s = .next (after (onward k (puts d (if x.toInt < y.toInt then 1 else 0))) s)) ∧
    (Fetches s.m k (formA d a b 0x009) →
      exec (.sltu k d a b) s = .next (after (onward k (puts d (if x.toNat < y.toNat then 1 else 0))) s)) ∧
    (Fetches s.m k (formA d a b 0x00A) →
      exec (.mul k d a b) s = .next (after (onward k (puts d (x * y))) s)) ∧
    (Fetches s.m k (formA d a b 0x00B) →
      exec (.mulhu k d a b) s = .next (after (onward k (puts d (BitVec.ofNat 32 (x.toNat * y.toNat / 2 ^ 32)))) s)) ∧
    (Fetches s.m k (formI 0x01 d a imm) →
      exec (.addi k d a imm) s = .next (after (onward k (puts d (x + i))) s)) ∧
    (Fetches s.m k (formI 0x02 d a imm) →
      exec (.andi k d a imm) s = .next (after (onward k (puts d (x &&& u))) s)) ∧
    (Fetches s.m k (formI 0x03 d a imm) →
      exec (.ori k d a imm) s = .next (after (onward k (puts d (x ||| u))) s)) ∧
    (Fetches s.m k (formI 0x04 d a imm) →
      exec (.xori k d a imm) s = .next (after (onward k (puts d (x ^^^ u))) s)) ∧
    (Fetches s.m k (formI 0x06 d a imm) →
      exec (.slli k d a imm) s = .next (after (onward k (puts d (x <<< (imm.toNat % 32)))) s)) ∧
    (Fetches s.m k (formI 0x07 d a imm) →
      exec (.srli k d a imm) s = .next (after (onward k (puts d (x >>> (imm.toNat % 32)))) s)) ∧
    (Fetches s.m k (formI 0x08 d a imm) →
      exec (.srai k d a imm) s = .next (after (onward k (puts d (x.sshiftRight (imm.toNat % 32)))) s)) ∧
    (Fetches s.m k (formI 0x09 d a imm) →
      exec (.lui k d imm) s = .next (after (onward k (puts d (BitVec.ofNat 32 (imm.toNat * 65536)))) s)) ∧
    (codeAt s.m k ≠ formA d a b 0x000 → tget 0 (coreAt s.m k.key).synd (imemKey ((coreAt s.m k.key).p.pc.toNat / 4)) = 0 →
      exec (.add k d a b) s = .next s)

/-- R92, R125: a load takes the bytes of the narrow bank from A + IMM on, least significant first, sign- or zero-extended
into D; LP loads D and D + 1. It reads in the scalar slot: in an even cycle it sees none of the DMA writes that wait for their
slot, in an odd one it sees them made (R101). Nothing else but D and the PC changes. -/
def Obligations.LoadsReadTheNarrowBank : Prop :=
  ∀ (k : CoreId) (d a : Fin 32) (imm : BitVec 16) (s : State), Follows s.m k →
    let addr := addrOf s.m k a imm
    let m := slotted k s.m
    let num := rdNum (coreAt m k.key).sp addr
    let loaded (f : Core → Core) : State := after (fun m => onward k f (slotted k m)) s
    let code (op : Nat) : Prop := Fetches s.m k (formI op d a imm)
    (Aligned s.m k a imm 1 → Clean m k addr 1 →
      (code 0x10 → exec (.lb k d a imm) s = .next (loaded (puts d ((BitVec.ofNat 8 (num 1)).signExtend 32)))) ∧
      (code 0x11 → exec (.lbu k d a imm) s = .next (loaded (puts d (BitVec.ofNat 32 (num 1)))))) ∧
    (Aligned s.m k a imm 2 → Clean m k addr 2 →
      (code 0x12 → exec (.lh k d a imm) s = .next (loaded (puts d ((BitVec.ofNat 16 (num 2)).signExtend 32)))) ∧
      (code 0x13 → exec (.lhu k d a imm) s = .next (loaded (puts d (BitVec.ofNat 32 (num 2)))))) ∧
    (Aligned s.m k a imm 4 → Clean m k addr 4 →
      (code 0x14 → exec (.lw k d a imm) s = .next (loaded (puts d (BitVec.ofNat 32 (num 4)))))) ∧
    (Aligned s.m k a imm 8 → Clean m k addr 8 → d.val % 2 = 0 →
      (code 0x15 → exec (.lp k d a imm) s = .next (loaded (fun c =>
        puts (d + 1) (BitVec.ofNat 32 (num 8 / 2 ^ 32)) (puts d (BitVec.ofNat 32 (num 8)) c)))))

/-- R92, R125: a store writes the low bytes of D at A + IMM, least significant first; SP stores D and D + 1. Every
register keeps its value; every byte of the scratchpad outside the stored ones reads as it does in the scalar slot (R101);
nothing outside the core changes. -/
def Obligations.StoresWriteExactlyTheirBytes : Prop :=
  ∀ (k : CoreId) (d a : Fin 32) (imm : BitVec 16) (s : State), Follows s.m k →
    let addr := addrOf s.m k a imm
    let code (op : Nat) : Prop := Fetches s.m k (formI op d a imm)
    let lo := (gval s.m k d).toNat
    let hi := (gval s.m k (d + 1)).toNat
    let stored (t : State) (n v : Nat) : Prop :=
      t.pending = s.pending ∧ (∃ f, t.m = modCore k.key f s.m) ∧
      (coreAt t.m k.key).p = { (coreAt s.m k.key).p with pc := (coreAt s.m k.key).p.pc + 4 } ∧
      rdBytes (coreAt t.m k.key).sp addr n = toBytes n v ∧
      ∀ x, (x < addr ∨ addr + n ≤ x) → rd (coreAt t.m k.key).sp x = rd (coreAt (slotted k s.m) k.key).sp x
    (Aligned s.m k a imm 1 → code 0x18 → ∃ t, exec (.sb k d a imm) s = .next t ∧ stored t 1 lo) ∧
    (Aligned s.m k a imm 2 → code 0x19 → ∃ t, exec (.sh k d a imm) s = .next t ∧ stored t 2 lo) ∧
    (Aligned s.m k a imm 4 → code 0x1A → ∃ t, exec (.sw k d a imm) s = .next t ∧ stored t 4 lo) ∧
    (Aligned s.m k a imm 8 → d.val % 2 = 0 → code 0x1B → ∃ t, exec (.sp k d a imm) s = .next t ∧ stored t 8 (lo + 2 ^ 32 * hi))

/-- R125: a branch compares D with A and goes to PC + 4 + 4 IMM or to PC + 4; JAL and JALR write the address of the next
instruction into G31 or D and go to PC + 4 + 4 OFF or to A + IMM with its two low bits clear. Only the PC and the link
register change. The targets lie in the instruction memory. -/
def Sys2Proof.Spec.BranchesAndJumpsSetThePc : Prop :=
  ∀ (k : CoreId) (d a : Fin 32) (imm : BitVec 16) (off : BitVec 26) (s : State),
    let pc := (coreAt s.m k.key).p.pc
    let x := gval s.m k d
    let y := gval s.m k a
    let inside (t : Int) : Prop := 0 ≤ t ∧ t < 0x4000
    let goes (t : Int) (f : Core → Core) : Mach → Mach :=
      modCore k.key (fun c => { f c with p := { (f c).p with pc := BitVec.ofInt 32 t } })
    let taken (b : Bool) : Int := if b then pc.toNat + 4 + 4 * imm.toInt else pc.toNat + 4
    let code (op : Nat) : Prop := Fetches s.m k (formI op d a imm)
    (inside (taken true) → inside (taken false) →
      (code 0x20 → exec (.beq k d a imm) s = .next (after (goes (taken (decide (x = y))) id) s)) ∧
      (code 0x21 → exec (.bne k d a imm) s = .next (after (goes (taken (decide (x ≠ y))) id) s)) ∧
      (code 0x22 → exec (.blt k d a imm) s = .next (after (goes (taken (decide (x.toInt < y.toInt))) id) s)) ∧
      (code 0x23 → exec (.bge k d a imm) s = .next (after (goes (taken (decide (y.toInt ≤ x.toInt))) id) s)) ∧
      (code 0x24 → exec (.bltu k d a imm) s = .next (after (goes (taken (decide (x.toNat < y.toNat))) id) s)) ∧
      (code 0x25 → exec (.bgeu k d a imm) s = .next (after (goes (taken (decide (y.toNat ≤ x.toNat))) id) s))) ∧
    (inside (pc.toNat + 4 + 4 * off.toInt) → Fetches s.m k (formJ 0x28 off) →
      exec (.jal k off) s = .next (after (goes (pc.toNat + 4 + 4 * off.toInt) (puts 31 (pc + 4))) s)) ∧
    (let t : Int := y.toNat + imm.toInt
     inside (t - t % 4) → code 0x29 → exec (.jalr k d a imm) s = .next (after (goes (t - t % 4) (puts d (pc + 4))) s))

/-- R105, R125 to R129: ISSUE queues a valid descriptor when its queue has room and stalls otherwise, and the stalled one
is queued when room comes; WAIT goes on when the counter has reached A and waits otherwise; the CSR instructions move a
CSR; DONE drains and then signals; ERET returns to EPC and clears INEXC. -/
def Sys2Proof.Spec.ScalarControlInstructions : Prop :=
  ∀ (k : CoreId) (d a : Fin 32) (imm : BitVec 16) (s : State),
    let c := coreAt s.m k.key
    let addr := addrOf s.m k a imm
    let m := slotted k s.m
    let q : QDesc := ⟨BitVec.ofNat 256 (rdNum (coreAt m k.key).sp addr 32), c.p.pc⟩
    let room (e : Nat) : Prop := (tget [] c.queues e).length < 8
    let queued (e : Nat) (q : QDesc) (c : Core) : Core :=
      if bit c.stopped e then c else { c with queues := tset [] c.queues e (tget [] c.queues e ++ [q]) }
    let code (op : Nat) : Prop := Fetches s.m k (formI op d a imm)
    (code 0x30 → Follows s.m k → d.val < 4 → addr % 32 = 0 → addr < 0x10000 → Clean m k addr 32 →
      descOk d.val q.d = true →
      (room d.val → exec (.issue k d a imm) s = .next (after (fun m => onward k (queued d.val q) (slotted k m)) s)) ∧
      (¬ room d.val → exec (.issue k d a imm) s =
        .next (after (fun m => modCore k.key (fun c => { c with p := { c.p with
          mode := .stallIssue (Fin.ofNat 4 d.val) q } }) (slotted k m)) s))) ∧
    (∀ e x, c.p.mode = .stallIssue e x → room e.val → x.pc.toNat + 4 < 0x4000 →
      exec (.issueResume k) s = .next (after (modCore k.key (fun c =>
        { queued e.val x c with p := { c.p with mode := .running, pc := x.pc + 4 } })) s)) ∧
    (code 0x31 → Follows s.m k → imm = 0 →
      (reached c (d.val % 4) (gval s.m k a) = true → exec (.wait k d a imm) s = .next (after (onward k id) s)) ∧
      (reached c (d.val % 4) (gval s.m k a) = false → exec (.wait k d a imm) s =
        .next (after (modCore k.key (fun c => { c with p := { c.p with
          mode := .waiting (Fin.ofNat 4 (d.val % 4)) (gval s.m k a) } })) s))) ∧
    (∀ e t, c.p.mode = .waiting e t → reached c e.val t = true → Follows s.m k →
      exec (.waitRelease k) s = .next (after (modCore k.key (fun c =>
        { c with p := { c.p with mode := .running, pc := c.p.pc + 4 } })) s)) ∧
    (∀ v, code 0x32 → Follows s.m k → csrRead s.m k.key (imm.toNat % 4096) = some v →
      exec (.csrr k d a imm) s = .next (after (onward k (puts d v)) s)) ∧
    (Follows s.m k →
      (Fetches s.m k (formI 0x33 d a 4) → exec (.csrw k d a 4) s = .next (after (onward k (fun c =>
        { c with p := { c.p with tvec := gval s.m k a &&& 0x3FFD } })) s)) ∧
      (Fetches s.m k (formI 0x33 d a 5) → exec (.csrw k d a 5) s = .next (after (onward k (fun c =>
        { c with p := { c.p with epc := gval s.m k a } })) s)) ∧
      (Fetches s.m k (formI 0x33 d a 8) → exec (.csrw k d a 8) s = .next (after (onward k (fun c =>
        { c with p := { c.p with scratch := gval s.m k a } })) s))) ∧
    (Fetches s.m k (formJ 0x34 0) → exec (.done k 0) s =
      .next (after (modCore k.key (fun c => { c with p := { c.p with mode := .draining } })) s)) ∧
    (c.p.mode = .draining → drained c = true → c.p.done = false →
      exec (.doneSignal k) s = .next (after (modCore k.key (fun c =>
        { c with p := { c.p with done := true, doneAt := s.m.now, signalled := true, mode := .idle, inexc := false,
                                 halted := c.p.halted || c.p.uPending } })) s)) ∧
    (Fetches s.m k (formJ 0x35 0) → c.p.epc.toNat < 0x4000 →
      exec (.eret k 0) s = .next (after (modCore k.key (fun c =>
        { c with p := { c.p with inexc := false, pc := c.p.epc } })) s))

/-- R125: a branch compares D with A and goes to PC + 4 + 4 IMM or to PC + 4; JAL and JALR write the address of the next
instruction into G31 or D and go to PC + 4 + 4 OFF or to A + IMM with its two low bits clear. Only the PC and the link
register change. The targets lie in the instruction memory. ISSUE queues a valid descriptor when its queue has room
and stalls otherwise, and the stalled one is queued when room comes; WAIT goes on when the counter has reached A and
waits otherwise; the CSR instructions move a CSR; DONE drains and then signals; ERET returns to EPC and clears INEXC. -/
def Obligations.ScalarControlFlow : Prop :=
  Sys2Proof.Spec.BranchesAndJumpsSetThePc ∧
  Sys2Proof.Spec.ScalarControlInstructions

namespace Sys2Proof.Spec

open Sys2Proof.Machine

/-- Core k took a class S exception into its handler (R131): EPC, CAUSE and FADDR are saved, INEXC is set, the PC is the
handler's, SCNT counts it; the other registers, the memories, the engines and every other core are as they were. -/
def Handled (s : State) (k : CoreId) (cause addr : Nat) (t : State) : Prop :=
  let c := coreAt s.m k.key
  t.pending = s.pending ∧
  (coreAt t.m k.key).p = { c.p with
    epc := c.p.pc, cause := BitVec.ofNat 9 cause, faddr := BitVec.ofNat 32 addr, inexc := true, mode := .running,
    pc := c.p.tvec &&& 0x3FFC } ∧
  (coreAt t.m k.key).r.scnt = satInc c.r.scnt ∧ (coreAt t.m k.key).r.ucnt = c.r.ucnt ∧
  (coreAt t.m k.key).sp = c.sp ∧ (coreAt t.m k.key).imem = c.imem ∧ (coreAt t.m k.key).queues = c.queues ∧
  (coreAt t.m k.key).mx = c.mx ∧ (∀ j, j ≠ k.key → coreAt t.m j = coreAt s.m j) ∧
  t.m.edge = s.m.edge ∧ t.m.keep = s.m.keep ∧ t.m.rnd = s.m.rnd ∧ t.m.led = s.m.led

/-- CORE_FAULT after a fault (R134, R135): the first one is recorded, a later one sets MULTI. -/
def Recorded (s : State) (k : CoreId) (u : Bool) (cause addr pc : Nat) (t : State) : Prop :=
  let r := (coreAt s.m k.key).r
  let r' := (coreAt t.m k.key).r
  r'.fValid = true ∧
  (r.fValid = false → r'.fClass = u ∧ r'.fCause = BitVec.ofNat 8 cause ∧ r'.fAddr = BitVec.ofNat 32 addr ∧
    r'.fEpc = BitVec.ofNat 14 pc ∧ r'.fRound = (roundNow s.m).setWidth 16 ∧ r'.fMulti = r.fMulti) ∧
  (r.fValid = true → r'.fMulti = true ∧ r'.fCause = r.fCause ∧ r'.fAddr = r.fAddr ∧ r'.fEpc = r.fEpc)

/-- A handler is enabled and not active (R129, R131). -/
def HasHandler (s : Mach) (k : CoreId) : Prop :=
  bit (coreAt s k.key).p.tvec 0 = true ∧ (coreAt s k.key).p.inexc = false

end Sys2Proof.Spec

/-- R126, R131: with a handler enabled, an encoding that R125 does not list, a misaligned load, a load outside the narrow
bank, an LP of an odd register, a DONE or ERET whose offset is not 0, a WAIT whose IMM16 is not 0, a write of a read-only
CSR and an ISSUE of a misaligned descriptor enter the handler with their cause, and CORE_FAULT records them. -/
def Sys2Proof.Spec.ClassSExceptionsEnterTheHandler : Prop :=
  ∀ (k : CoreId) (d a : Fin 32) (imm : BitVec 16) (off : BitVec 26) (w : Word) (s : State),
    HasHandler s.m k →
    let pc := (coreAt s.m k.key).p.pc.toNat
    let addr := addrOf s.m k a imm
    let traps (i : Instr) (w : Word) (cause addr : Nat) : Prop :=
      Fetches s.m k w → ∃ t, exec i s = .next t ∧ Handled s k cause addr t ∧ Recorded s k false cause addr pc t
    (listed w = false → traps (.illegalInstruction k w) w 0x01 0) ∧
    (addr % 4 ≠ 0 → traps (.lw k d a imm) (formI 0x14 d a imm) 0x02 addr ∧
      traps (.sw k d a imm) (formI 0x1A d a imm) 0x02 addr) ∧
    (addr % 4 = 0 → 0x10000 ≤ addr → traps (.lw k d a imm) (formI 0x14 d a imm) 0x03 addr ∧
      traps (.sw k d a imm) (formI 0x1A d a imm) 0x03 addr) ∧
    (d.val % 2 = 1 → traps (.lp k d a imm) (formI 0x15 d a imm) 0x01 0 ∧ traps (.sp k d a imm) (formI 0x1B d a imm) 0x01 0) ∧
    (off ≠ 0 → traps (.done k off) (formJ 0x34 off) 0x01 0 ∧ traps (.eret k off) (formJ 0x35 off) 0x01 0) ∧
    (imm ≠ 0 → traps (.wait k d a imm) (formI 0x31 d a imm) 0x01 0) ∧
    (0x4000 ≤ (coreAt s.m k.key).p.epc.toNat → Fetches s.m k (formJ 0x35 0) → ∃ t, exec (.eret k 0) s = .next t ∧
      (coreAt t.m k.key).p.pc = (coreAt s.m k.key).p.tvec &&& 0x3FFC ∧ (coreAt t.m k.key).p.cause = 0x04 ∧
      (coreAt t.m k.key).p.epc = (coreAt s.m k.key).p.pc) ∧
    (traps (.csrw k d a 0) (formI 0x33 d a 0) 0x01 0 ∧ traps (.csrr k d a 9) (formI 0x32 d a 9) 0x01 0) ∧
    (d.val < 4 → addr % 32 ≠ 0 → traps (.issue k d a imm) (formI 0x30 d a imm) 0x05 addr)

/-- R131, R132: an illegal instruction with no handler enabled is a class U fault: UCNT counts it, CORE_FAULT records it
with CLASS 1, the core counts as done without signalling done and is halted, the module has an uncorrected fault (R449),
and no other core changes. -/
def Sys2Proof.Spec.ClassUFaultHaltsTheCore : Prop :=
  ∀ (k : CoreId) (w : Word) (s : State), Fetches s.m k w → listed w = false →
    bit (coreAt s.m k.key).p.tvec 0 = false → (coreAt s.m k.key).p.inexc = false →
    ∃ t, exec (.illegalInstruction k w) s = .next t ∧
      (coreAt t.m k.key).p.mode = .idle ∧ (coreAt t.m k.key).p.halted = true ∧ (coreAt t.m k.key).p.done = true ∧
      (coreAt t.m k.key).p.signalled = (coreAt s.m k.key).p.signalled ∧
      (coreAt t.m k.key).r.ucnt = satInc (coreAt s.m k.key).r.ucnt ∧
      (coreAt t.m k.key).r.scnt = (coreAt s.m k.key).r.scnt ∧
      (coreAt t.m k.key).p.g = (coreAt s.m k.key).p.g ∧ (coreAt t.m k.key).sp = (coreAt s.m k.key).sp ∧
      Recorded s k true 0x01 0 (coreAt s.m k.key).p.pc.toNat t ∧
      t.m.keep.faulted = true ∧ t.m.keep.rsValid = true ∧
      (s.m.keep.rsValid = false → t.m.keep.rsClass = 0x20 ∧ t.m.keep.rsRound = (roundNow s.m).setWidth 32) ∧
      (∀ j, j ≠ k.key → coreAt t.m j = coreAt s.m j) ∧ t.m.edge = s.m.edge

/-- R126, R131: with a handler enabled, an encoding that R125 does not list, a misaligned load, a load outside the narrow
bank, an LP of an odd register, a DONE or ERET whose offset is not 0, a WAIT whose IMM16 is not 0, a write of a read-
only CSR and an ISSUE of a misaligned descriptor enter the handler with their cause, and CORE_FAULT records them. An
illegal instruction with no handler enabled is a class U fault: UCNT counts it, CORE_FAULT records it with CLASS 1,
the core counts as done without signalling done and is halted, the module has an uncorrected fault (R449), and no
other core changes.
Readings and choices of the model's own in it: log entry 12. -/
def Obligations.CoreExceptions : Prop :=
  Sys2Proof.Spec.ClassSExceptionsEnterTheHandler ∧
  Sys2Proof.Spec.ClassUFaultHaltsTheCore

namespace Sys2Proof.Spec

open Sys2Proof.Machine

/-- Engine e of core k runs, and the descriptor at the head of its queue is q (R105). -/
def AtHead (s : Mach) (k : CoreId) (e opc : Nat) (q : QDesc) : Prop :=
  bit (coreAt s k.key).stopped e = false ∧ (tget [] (coreAt s k.key).queues e).head? = some q ∧ dB q.d 0 1 = opc

/-- The head of queue e leaves it. -/
def popped (e : Nat) (c : Core) : Core := { c with queues := tset [] c.queues e (tget [] c.queues e).tail }

/-- The counter of engine e counts one completed descriptor (R105). -/
def counted (e : Nat) (c : Core) : Core := { c with ecnt := tset 0 c.ecnt e (tget 0 c.ecnt e + 1) }

/-- The matrix engine's state changes. -/
def mxTo (f : Matrix → Matrix) (c : Core) : Core := { c with mx := f c.mx }

/-- Rows that an engine read without an error and without an underrun (R195, R397). -/
def GoodRead (x : RowsRead) : Prop := x.errs = [] ∧ x.under = none

/-- The engines of the module run and the clock is at a boundary of a period (R96, R106, R177). -/
def OnPeriod (s : Mach) : Prop := s.sec.switch = none ∧ cycleOf s % 16 = 0

/-- The engines of the module run, and the fabric cycle at which an operation ends has come (R106, R177). -/
def MayEnd (s : Mach) (ends : Nat) : Prop := s.sec.switch = none ∧ ends ≤ tick s

/-- The tile that an MPASS works with: the tile in force, or with SWAP the shadow tile, the empty one if none is loaded (R112). -/
def tileOf (c : Core) (q : QDesc) : Tile :=
  if bit q.d 9 then (if c.mx.shadowFull then c.mx.shadow else Tile.reset) else c.mx.active

/-- The first of the rows that were left to read are read. -/
def readOn (r : Reads) (rows : List Row) : Reads := ⟨r.left.drop rows.length, r.got ++ rows⟩

/-- The accumulator rows of an AOUT or an ACLR become empty where `clear` says so, and no other row changes (R117, R119). -/
def ClearedRows (q : QDesc) (clear : Prop) (old new : Tbl AccRow) : Prop :=
  ∀ i, (clear ∧ dB q.d 14 2 ≤ i ∧ i < dB q.d 14 2 + dB q.d 12 2 → tget AccRow.reset new i = AccRow.reset) ∧
    (¬ (clear ∧ dB q.d 14 2 ≤ i ∧ i < dB q.d 14 2 + dB q.d 12 2) → tget AccRow.reset new i = tget AccRow.reset old i)

end Sys2Proof.Spec

/-- R105, R106, R112, R113, R115, R117, R119, R120, R123: at a boundary of a period an engine takes the descriptor at the head of
its queue when what it needs is free: WLOAD the shadow tile, MPASS with SWAP the shadow tile, with CHK one of two checkers, and any MPASS
rows that a running AOUT does not read, AOUT and ACLR the accumulators, VOP
the vector unit; an ACLR waits for no other ACLR. Every row that it reads is still to be read. The descriptor leaves the queue and
nothing else of the module changes. A pass over a tile that is dense ends 16 cycles per turn of its activation rows and 40 cycles
after it started.
Readings and choices of the model's own in it: log entries 7 and 13. -/
def Obligations.EnginesTakeTheHeadOfTheirQueue : Prop :=
  ∀ (k : CoreId) (q : QDesc) (s : State), OnPeriod s.m →
    let c := coreAt s.m k.key
    let now := tick s.m
    (AtHead s.m k 0 0x10 q → c.mx.arb = none → c.mx.shadowFull = false → c.mx.loading = none →
      exec (.wloadStart k) s =
        .next (after (modCore k.key (fun c => mxTo (fun m => { m with loading := some (newLoad q now) }) (popped 0 c))) s)) ∧
    (let p := newPass q (tileOf c q) now
     AtHead s.m k 0 0x11 q → c.mx.arb = none → c.mx.aclr = [] → clearOfAout p c.mx.aout = true →
      (bit q.d 9 = true → c.mx.loading = none) → (bit q.d 11 = true → (c.mx.passes.filter isChk).length < 2) →
      (∀ l, c.mx.passes.getLast? = some l → l.allRead = true ∧ l.ends ≤ now + 40) → dB q.d 16 2 + tileG p.tile * dB q.d 14 2 ≤ 512 →
      (p.tile.empty = true ∨ fmtInt p.tile.wfmt.toNat = fmtInt (dB q.d 12 1)) →
      exec (.mpassStart k) s = .next (after (modCore k.key (fun c => mxTo (fun m =>
        let m1 := if bit q.d 9 then { m with active := p.tile, shadow := .reset, shadowFull := false } else m
        { m1 with passes := m.passes ++ [p] }) (popped 0 c))) s) ∧
      p.acts = ⟨(List.range (dB q.d 14 2)).map (fun i => rowIndex (dB q.d 4 4) + i * dB q.d 18 2), []⟩ ∧ p.start = now ∧
      (p.tile.kind ≠ 3 → p.tile.kind ≠ 4 → p.ends = now +
        16 * ceilDiv (dB q.d 14 2) (min (16 / Nat.gcd (dB q.d 18 2) 16) (if bit q.d 8 then 4 else 16)) + 40)) ∧
    (AtHead s.m k 0 0x12 q → c.mx.arb = none → c.mx.passes = [] → c.mx.aout = none → c.mx.aclr = [] →
      exec (.aoutStart k) s = .next (after (modCore k.key (fun c => mxTo (fun m =>
        { m with aout := some (newAout q s.m m.acc) }) (popped 0 c))) s)) ∧
    (AtHead s.m k 0 0x13 q → c.mx.arb = none → c.mx.passes = [] → c.mx.aout = none →
      exec (.aclrStart k) s = .next (after (modCore k.key (fun c => mxTo (fun m =>
        { m with aclr := m.aclr ++ [⟨q, now + 16 * ceilDiv (dB q.d 12 2) 128⟩] }) (popped 0 c))) s)) ∧
    (AtHead s.m k 1 0x20 q → c.vop = none →
      exec (.vopStart k) s = .next (after (modCore k.key (fun c =>
        { popped 1 c with vop := some ⟨q, vopEnds q.d now, vopRows q.d, [], none⟩ })) s))

/-- R105, R111, R112, R119, R421: a WLOAD that has read its rows fills the shadow tile with them; an ACLR clears its
accumulator rows and no other; an MPASS that has read its rows puts its results into the accumulators, one with CHK where its rows
agree with their checksums, and counts the rows that it does not compare; where a row mismatches, the passes are abandoned and a
recomputation of the first is due from the next period on; a recomputation without a mismatch
ends the arbitration as a transient and counts it as corrected. Each that completes counts in ECNT0, and no other core changes. -/
def Sys2Proof.Spec.MatrixEngineCompletions : Prop :=
  ∀ (k : CoreId) (s : State),
    let c := coreAt s.m k.key
    (∀ (l : Load) (t : Tile),
      let d := l.q.d
      c.mx.loading = some l → MayEnd s.m l.ends → l.allRead = true →
      t = { empty := false, wfmt := BitVec.ofNat 4 (dB d 12 1), sfmt := BitVec.ofNat 2 (dB d 13 1),
            kind := BitVec.ofNat 3 (dB d 14 1), cbase := BitVec.ofNat 16 (dB d 20 2), span := dB d 22 1,
            rows := l.tile.got,
            scales := bytesFrom l.scales.got (dB d 8 4)
              (32 * colFactor (dB d 14 1) (dB d 22 1) * scaleBytes (dB d 13 1) (ktOf (fmtClass (dB d 12 1)))),
            metaRows := l.metas.got } →
      exec (.wloadComplete k) s = .next (after (modCore k.key (fun c => counted 0 { c with
        mx := { c.mx with loading := none, shadow := t, shadowFull := true }
        r := { c.r with spDrop := satAdd c.r.spDrop (droppedSlots t) } })) s)) ∧
    (∀ (a : AclrRun), nextAclr c.mx.aclr = some a → MayEnd s.m a.ends →
      ∃ t, exec (.aclrComplete k) s = .next t ∧
        t = after (modCore k.key (fun c => counted 0 (mxTo (fun m =>
            { m with aclr := m.aclr.erase a, acc := (coreAt t.m k.key).mx.acc }) c))) s ∧
          ClearedRows a.q True c.mx.acc (coreAt t.m k.key).mx.acc) ∧
    (∀ p rest, c.mx.passes = p :: rest → c.mx.arb = none → MayEnd s.m p.ends → p.allRead = true → bit p.q.d 11 = false →
      exec (.mpassComplete k []) s = .next (after (fun m => { (modCore k.key (fun c => counted 0 (mxTo (fun m =>
        { m with acc := applyPass p s.m.free m.acc, passes := rest }) c)) m) with free := m.free + passDraws }) s)) ∧
    (∀ p rest n,
      let acc := applyPass p s.m.free c.mx.acc
      c.mx.passes = p :: rest → c.mx.arb = none → MayEnd s.m p.ends → p.allRead = true → bit p.q.d 11 = true →
      compareRows p acc = (n, []) →
      ∃ t, exec (.mpassComplete k []) s = .next t ∧ (coreAt t.m k.key).mx = { c.mx with acc := acc, passes := rest } ∧
        (coreAt t.m k.key).ecnt = tset 0 c.ecnt 0 (tget 0 c.ecnt 0 + 1) ∧
        (dieAt t.m (dieOf k.key)).csl.skip = satAdd (dieAt s.m (dieOf k.key)).csl.skip n ∧
        (∀ j, j ≠ k.key → coreAt t.m j = coreAt s.m j)) ∧
    (∀ p rest n b bs, c.mx.passes = p :: rest → c.mx.arb = none → MayEnd s.m p.ends → p.allRead = true → bit p.q.d 11 = true →
      compareRows p (applyPass p s.m.free c.mx.acc) = (n, b :: bs) →
      ∃ t, exec (.mpassComplete k []) s = .next t ∧ (coreAt t.m k.key).mx = { c.mx with
          passes := []
          arb := some ⟨p.afresh (nextPeriod s.m), priorRows p c.mx.acc, b :: bs, rest,
            ((rest.head?).map (·.start)).getD (tick s.m)⟩ } ∧
        (coreAt t.m k.key).ecnt = c.ecnt ∧
        (dieAt t.m (dieOf k.key)).csl.skip = satAdd (dieAt s.m (dieOf k.key)).csl.skip n ∧
        (∀ j, j ≠ k.key → coreAt t.m j = coreAt s.m j)) ∧
    (∀ a,
      let acc := applyPass a.x s.m.free (restoreRows a.prior c.mx.acc)
      c.mx.arb = some a → a.abandoned = [] → MayEnd s.m a.x.ends → a.x.allRead = true → compareRows a.x acc = (0, []) →
      ∃ t, exec (.recomputationComplete k [] true) s = .next t ∧
        (coreAt t.m k.key).mx = { c.mx with acc := acc, arb := none } ∧
        (coreAt t.m k.key).ecnt = tset 0 c.ecnt 0 (tget 0 c.ecnt 0 + 1) ∧
        (dieAt t.m (dieOf k.key)).csl.corrected = satInc (dieAt s.m (dieOf k.key)).csl.corrected ∧
        (dieAt t.m (dieOf k.key)).csl.mismatch = satInc (dieAt s.m (dieOf k.key)).csl.mismatch ∧
        t.m.rnd.varRun.arb = satAdd s.m.rnd.varRun.arb (tick s.m - a.since) ∧
        (∀ j, j ≠ k.key → coreAt t.m j = coreAt s.m j))

/-- R99, R117, R118, R120, R121, R123, R143: what an AOUT that starts has to write are its accumulator rows, each converted with its
rounding and laid at DADDR + i x DSTRIDE, and the bytes outside stay as they are; a write-back turn writes the first of the wide rows
that are left, as far as they fall in banks of their own. A turn of the vector unit reads the first rows of the operands that are left, in
the same way; once it has read the last it forms one converted result for each element at DADDR, a reduction one for each group, with a
zero after an odd number, and writes the first of them. An operation that has made its accesses empties its engine and counts; an AOUT
with CLR clears its accumulator rows. Of the rest of the module only a tracker changes, with TRK.
Readings and choices of the model's own in it: log entry 13. -/
def Obligations.ResultsAreStoredConverted : Prop :=
  ∀ (k : CoreId) (s : State),
    let c := coreAt s.m k.key
    let bitsAt (code : Nat) := 4 * fmtBits code
    (∀ (q : QDesc) (acc : Tbl AccRow), aoutOk q.d = true →
      let code := dB q.d 8 1
      let elem (i j : Nat) : Nat :=
        (convElem code (dB q.d 9 1) (draw s.m (BitVec.ofNat 32 (dB q.d 20 4)) (BitVec.ofNat 32 (32 * i + j)) 0)
          (f32 (lane (tget AccRow.reset acc (dB q.d 14 2 + i)) j))).1
      let place (i : Nat) := dB q.d 4 4 + i * dB q.d 16 4
      let left := (newAout q s.m acc).left
      let w := writePieces (left.flatMap id) c
      (∀ g ∈ left, g ≠ [] ∧ ∀ p ∈ g, ∀ p2 ∈ g, rowIndex p.addr = rowIndex p2.addr) ∧
      (∀ i, i < dB q.d 12 2 → rdBytes w.sp (place i) (bitsAt code) = packElems (fmtBits code) ((List.range 32).map (elem i))) ∧
      (∀ x, (∀ i, i < dB q.d 12 2 → x < place i ∨ place i + bitsAt code ≤ x) → rd w.sp x = rd c.sp x)) ∧
    (∀ (a : AoutRun) (turn : Nat), c.mx.aout = some a → turn % 4 = 3 → bit c.stopped 0 = false → a.left ≠ [] →
      let n := (takeRows [] 16 (a.left.map (fun g => rowIndex ((g.head?.map (·.addr)).getD 0)))).length
      vSlot k.key turn s.m = modCore k.key (fun c => mxTo (fun m => { m with aout := some { a with
        left := a.left.drop n, ends := max a.ends (periodEnd s.m + 24) } }) (writePieces ((a.left.take n).flatMap id) c)) s.m) ∧
    (∀ (a : AoutRun), c.mx.aout = some a → a.left = [] → MayEnd s.m a.ends →
      ∃ t acc, exec (.aoutComplete k) s = .next t ∧ ClearedRows a.q (bit a.q.d 8 = true) c.mx.acc acc ∧
        { t.m with dies := s.m.dies } =
          (after (modCore k.key (fun c => counted 0 (mxTo (fun m => { m with aout := none, acc := acc }) c))) s).m ∧
        (bit a.q.d 9 = false → t.m.dies = s.m.dies) ∧ t.pending = s.pending) ∧
    (∀ (v : VopRun) (turn : Nat),
      let rows := takeRows [] 16 v.left
      let x := readRows c rows
      let w : VopRun := { v with left := v.left.drop rows.length, got := v.got ++ rows.zip x.rows }
      c.vop = some v → v.out = none → turn % 4 ≠ 3 → bit c.stopped 1 = false → GoodRead x →
      (w.left ≠ [] → vSlot k.key turn s.m = modCore k.key (fun c => { c with vop := some { w with
        ends := max v.ends (periodEnd s.m + 12) } }) s.m) ∧
      (w.left = [] → vopOk v.q.d = true →
        let q := v.q
        let func := dB q.d 4 1
        let code := dB q.d 23 1
        let g := dB q.d 20 2
        let kv := f32 (fld q.d 224 32)
        let memB := takesB func && !bit q.d 8
        let xa := vopOperand w (dB q.d 8 4) (operandBytes (dB q.d 22 1 % 16) g)
        let xb := vopOperand w (dB q.d 12 4) (operandBytes (dB q.d 22 1 / 16) g)
        let a (e : Nat) := operandElem (dB q.d 22 1 % 16) xa (e / 32) (e % 32)
        let b (e : Nat) := if memB then operandElem (dB q.d 22 1 / 16) xb (e / 32) (e % 32) else kv
        let reduces := 0x0F ≤ func
        let group (e : Nat) := (List.range 32).map (fun i => a (32 * e + i))
        let result (e : Nat) : FVal :=
          if func = 0x0F then f32 (rsum (group e)) else if func = 0x10 then rmax (group e) else vfunc func (a e) (b e) kv
        let elem (e : Nat) : Nat := (convElem code (dB q.d 24 1)
          (draw s.m (BitVec.ofNat 32 (dB q.d 2 2)) (BitVec.ofNat 32 e) 0) (result e)).1
        let ps := pieces (dB q.d 16 4) (packElems (fmtBits code)
          (if reduces then (List.range g).map elem ++ (if g % 2 = 1 then [0] else []) else (List.range (32 * g)).map elem))
        let out := takePieces (banksOf rows) (16 - rows.length) ps
        let t := vSlot k.key turn s.m
        { t with dies := s.m.dies } = modCore k.key (fun c => { writePieces out c with vop := some { w with
          ends := max v.ends (periodEnd s.m + 12), out := some (ps.drop out.length) } }) s.m ∧
        (bit q.d 9 = false → t.dies = s.m.dies))) ∧
    (∀ (v : VopRun) (ps : List Piece) (turn : Nat), c.vop = some v → v.left = [] → v.out = some ps → ps ≠ [] → turn % 4 ≠ 3 →
      bit c.stopped 1 = false →
      let out := takePieces [] 16 ps
      vSlot k.key turn s.m = modCore k.key (fun c => { writePieces out c with vop := some { v with
        ends := max v.ends (periodEnd s.m + 12), out := some (ps.drop out.length) } }) s.m) ∧
    (∀ (v : VopRun), c.vop = some v → v.left = [] → v.out = some [] → MayEnd s.m v.ends →
      exec (.vopComplete k) s = .next (after (modCore k.key (fun c => counted 1 { c with vop := none })) s))

/-- R159: in strict mode a floating-point accumulator element takes its products in ascending K order, one rounding to
FP32 for each, when none of them is infinite or NaN. -/
def Sys2Proof.Spec.StrictModeRoundsEachProduct : Prop :=
  ∀ (a0 : Word) (ps : List FVal), (f32 a0).isFin = true → (∀ p ∈ ps, p.isFin = true) →
    strictAdd false a0 ps = ps.foldl (fun acc p => rne32 ((f32 acc).add p)) a0 ∧
    strictAdd true a0 ps = rne32 ((f32 a0).add ((exactSum ps).toF false))

/-- R105, R111, R112, R119, R421: a WLOAD that has read its rows fills the shadow tile with them; an ACLR clears its
accumulator rows and no other; an MPASS that has read its rows puts its results into the accumulators, one with CHK
where its rows agree with their checksums, and counts the rows that it does not compare; where a row mismatches, the
passes are abandoned and a recomputation of the first is due from the next period on; a recomputation without a
mismatch ends the arbitration as a transient and counts it as corrected. Each that completes counts in ECNT0, and no
other core changes. In strict mode a floating-point accumulator element takes its products in ascending K order, one
rounding to FP32 for each, when none of them is infinite or NaN.
Readings and choices of the model's own in it: log entry 13. -/
def Obligations.MatrixEngineArithmetic : Prop :=
  Sys2Proof.Spec.MatrixEngineCompletions ∧
  Sys2Proof.Spec.StrictModeRoundsEachProduct

namespace Sys2Proof.Spec

open Sys2Proof.Machine

/-- Cycle n of the round is past, or it comes before the round's scheduled end (R55, R177). -/
def ReachesCycle (s : Mach) (n : Nat) : Prop := n ≤ cycleOf s ∨ s.now + refCycles (n - cycleOf s) s < roundEnd s

/-- The section's routes are live, and the core has a router (R27, R177). -/
def Live (s : Mach) (k : CoreId) : Prop := routesLive s = true ∧ present s k.key = true ∧ dead s k.key = false

end Sys2Proof.Spec

/-- R177, R178, R181, R201: when every core's image is valid, the gather at cycle 1,024 of the round moves the switch to its load
and clears FAULT of every die; when one is not, the switch is abandoned, no section runs and the module has an uncorrected fault;
GO at cycle 4,096 puts the section into force with section round 0 on every die. Edge memory stays as it was. -/
def Sys2Proof.Spec.SectionSwitchChecksThenGoes : Prop :=
  ∀ (cmd : SecCmd) (s : State),
    let at_ (n : Nat) (t : State) : Prop := t.pending = s.pending ∧ t.m.now = s.m.now + refCycles (n - cycleOf s.m) s.m ∧ t.m.edge = s.m.edge
    (s.m.sec.switch = some (cmd, .check) → ReachesCycle s.m 1024 → (∀ k ∈ presentCores s.m, coreReason s.m cmd k = 0) →
      ∃ t, exec .switchReadyGather s = .next t ∧ at_ 1024 t ∧ t.m.sec.switch = some (cmd, .load) ∧
        t.m.sec.cur = s.m.sec.cur ∧ t.m.keep.faulted = s.m.keep.faulted ∧
        ∀ d, d < 144 → (dieAt t.m d).sec.fault = false) ∧
    (s.m.sec.switch = some (cmd, .check) → ReachesCycle s.m 1024 → (∃ k ∈ presentCores s.m, coreReason s.m cmd k ≠ 0) →
      ∃ t, exec .switchReadyGather s = .next t ∧ at_ 1024 t ∧ t.m.sec.switch = none ∧ t.m.sec.cur = none ∧
        t.m.keep.faulted = true) ∧
    (s.m.sec.switch = some (cmd, .load) → ReachesCycle s.m 4096 →
      ∃ t, exec .sectionGo s = .next t ∧ at_ 4096 t ∧ t.m.sec.switch = none ∧
        t.m.sec.cur = some (cmd.section_, cmd.round) ∧
        ∀ d, d < 144 → (dieAt t.m d).sec.cur = cmd.section_ ∧ (dieAt t.m d).sec.idx = 0)

/-- R128, R177: at a round start or at GO every present core that takes part begins at its ENTRY with its exception state
cleared, and every other one idles and counts as done. -/
def Sys2Proof.Spec.CoresBeginAtEntry : Prop :=
  ∀ (s : Mach) (k : Nat), k ∈ presentCores s →
    let c := coreAt s k
    (s.sec.cur.isSome = true ∧ c.runs = true ∧ c.p.halted = false ∧ coreOff s k = false ∧ s.ls.stopped = false ∧
        s.sec.budget = false →
      coreAt (startPrograms s) k =
        { c with p := { c.p with
          mode := .running, pc := c.p.entry, done := false, signalled := false, inexc := false, cause := 0 } }) ∧
    (s.sec.cur.isSome = false ∨ c.runs = false ∨ c.p.halted = true ∨ coreOff s k = true →
      (coreAt (startPrograms s) k).p.mode = .idle ∧ (coreAt (startPrograms s) k).p.done = true ∧
      (coreAt (startPrograms s) k).p.signalled = false ∧ (coreAt (startPrograms s) k).p.cause = 0)

/-- R93, R94, R172, R183 to R186, R190, R191, R194, R198, R202: an outbound channel reads its next row in the N slot of its turn,
and the row's flits wait for their turns and phase; of a row of the section store it sends nothing. In a cycle of the phase in which
flits come, a router takes all that its inputs carry and sends what its crossbar entry chooses to the next router, which it reaches
a hop later, or past a dead one a turn later still, or to the rim, whose hop takes 3 cycles, and the
module's digest of the rim takes it in; on a horizontal
detour it is lost in phases 1 and 3 and counted; with ADD it adds two flits, and raises TWINE where one is missing; the local
output hands a flit to its inbound channel, whose row then waits for the W slot of the next turn. A row that a unit of the rim
sends leaves in the link's next turn of its phase and reaches the edge router three cycles later while routes are live. While a switch
runs flits are discarded and counted. A filled flag whose EXPIRE has run out is cleared. Nothing else of the module changes.
Readings and choices of the model's own in it: log entries 11 and 53. -/
def Obligations.RoutersAndChannelsMoveFlits : Prop :=
  ∀ (k : CoreId) (ch : Fin 16) (b : Fin 64) (phase : Fin 4) (output : Fin 5) (scalar : Bool) (input : Fin 5)
    (flit : NetFlit) (others : Inputs) (s : State),
    let c := coreAt s.m k.key
    let e := tget 0 c.rt.chans ch.val
    let n := tget 0 c.rt.outCnt ch.val
    let row := chRow e (secIdx s.m k.key) (n / chCount e) (n % chCount e)
    let turn := readTurn k.key ch.val s.m
    let burst (v : Row) : List Send :=
      if chScalar e then (List.range 16).map (fun i => ⟨turn + i + 1, chPhase e, true, (fld v (32 * i) 32).setWidth 512⟩)
      else [⟨turn + 1, chPhase e, false, v⟩]
    let read (more : List Send) : State := after (modCore k.key (fun c => { c with rt := { c.rt with
      outCnt := tset 0 c.rt.outCnt ch.val (n + 1), nTurn := turn, sends := c.rt.sends ++ more,
      nBanks := row % 16 :: (if c.rt.nTurn = turn then c.rt.nBanks else []) } })) s
    let ins := inputsOr (withFlit input.val flit others) (inputsNow s.m k.key scalar)
    let cmd : Instr := .inboundFlit k scalar phase input flit others
    let x := xbarEntry c scalar output.val phase.val
    let source (i : Nat) : Option NetFlit := if i = 0 then none else inputAt ins (i - 1)
    let only : Prop := ∀ o, o < 5 → o ≠ output.val → xSrc1 (xbarEntry c scalar o phase.val) = 0 ∧
      xAdd (xbarEntry c scalar o phase.val) = false
    let flies (to_ cycles : Nat) (f : NetFlit) : Mach → Mach := fun m => { m with fab := { m.fab with flights := m.fab.flights ++
      [⟨cycles, to_, (output.val + 2) % 4, scalar, f⟩] } }
    let took : Mach → Mach := tookInputs k.key scalar
    let live := Live s.m k
    let routes := live ∧ cycleOf s.m % 4 = phase.val ∧ s.m.fab.cycle ≤ cycleOf s.m ∧ only
    (live → chMode e = 2 → n < chCount e * chReps e → 4 * turn + 3 ≤ cycleOf s.m →
      (inStore c row = false → underrunAt c row = false → (readRow c (rowAddr row)).2 = [] →
        exec (.outboundBurst k ch) s = .next (read (burst (readRow c (rowAddr row)).1))) ∧
      (inStore c row = true → exec (.outboundBurst k ch) s = .next (read []))) ∧
    (∀ f m, routes → output.val ≠ 4 → facesRim s.m k.key output.val = false → neighbour s.m k.key output.val = some m →
      dead s.m m = false →
      (xAdd x = false → source (xSrc1 x) = some f → exec cmd s =
        .next (after (flies m (hopCycles k.key output.val m) f ∘ took) s)) ∧
      (∀ g, xAdd x = true → deadLink s.m k.key (xSrc1 x - 1) = false → deadLink s.m k.key (xSrc2 x - 1) = false →
        source (xSrc1 x) = some f → source (xSrc2 x) = some g → exec cmd s =
          .next (after (flies m (hopCycles k.key output.val m) ⟨twine f.row g.row, f.poison || g.poison, f.rej || g.rej⟩ ∘ took) s))) ∧
    (∀ f m, routes → output.val ≠ 4 → facesRim s.m k.key output.val = false → neighbour s.m k.key output.val = some m →
      dead s.m m = true → xAdd x = false → source (xSrc1 x) = some f →
      (∀ m2, ¬ ((output.val = 1 ∨ output.val = 3) ∧ phase.val % 2 = 1) → neighbour s.m m output.val = some m2 →
        dead s.m m2 = false → exec cmd s =
          .next (after (flies m2 (hopCycles k.key output.val m + hopCycles m output.val m2 + 4) f ∘ took) s)) ∧
      ((output.val = 1 ∨ output.val = 3) → phase.val % 2 = 1 → exec cmd s =
        .next (after (modDie (dieOf k.key) (fun d =>
          { d with sec := { d.sec with detourDrop := satInc d.sec.detourDrop } }) ∘ took) s))) ∧
    (routes → output.val ≠ 4 → xAdd x = true → deadLink s.m k.key (xSrc1 x - 1) = false → deadLink s.m k.key (xSrc2 x - 1) = false →
      (source (xSrc1 x)).isSome ≠ (source (xSrc2 x)).isSome →
      ∃ t, exec cmd s = .next t ∧ (coreAt t.m k.key).r.rfault = setBit c.r.rfault 2 ∧
        t.m.keep.faulted = true ∧ t.m.fab = (took s.m).fab) ∧
    (∀ f : NetFlit,
      let i := xChan x
      let y := tget 0 c.rt.chans i
      let got := tget 0 c.rt.inCnt i
      let here := chRow y (secIdx s.m k.key) (got / chCount y) (got % chCount y)
      routes → output.val = 4 → xAdd x = false → source (xSrc1 x) = some f → scalar = false → chMode y = 1 → chScalar y = false →
      got < chCount y * chReps y → inStore c here = false → c.rt.wait.length < 32 →
      exec cmd s = .next (after (modCore k.key (fun c => { c with rt := { c.rt with
        inCnt := tset 0 c.rt.inCnt i (got + 1)
        wait := c.rt.wait ++ [⟨i, ⟨rowAddr here, toBytes 64 f.row.toNat⟩, turnNow s.m + 1, false⟩] } }) ∘ took) s)) ∧
    (∀ f : NetFlit, routes → output.val ≠ 4 → facesRim s.m k.key output.val = true → xAdd x = false → source (xSrc1 x) = some f →
      scalar = false → exec cmd s = .next (after ((fun m => { m with fab := { m.fab with flights := m.fab.flights ++
        [⟨3, k.key, 4 + output.val, scalar, f⟩] } }) ∘ foldDigest f.row f.poison ∘ took) s)) ∧
    (present s.m k.key = true → dead s.m k.key = false → s.m.sec.switch.isSome = true →
      exec cmd s = .next (after (modDie (dieOf k.key) (fun d =>
        { d with sec := { d.sec with drop := satAdd d.sec.drop (inputCount (withFlit input.val flit others)) } })) s)) ∧
    (∀ (unit die link ph key : Nat) (side : Side) (f : NetFlit), rimCore s.m die side link = some key →
      let sent := emit (.rimRow unit link ph f.row f.poison f.rej) s.m
      (routesLive s.m = false → rimSend unit die side link ph f s.m = sent) ∧
      (routesLive s.m = true → s.m.fab.flights = [] → s.m.fab.cycle ≤ cycleOf s.m →
        rimSend unit die side link ph f s.m = { sent with fab := { sent.fab with
          flights := [⟨(ph + 4 - cycleOf s.m % 4) % 4 + 3, key, sideInput die side, false, f⟩] } })) ∧
    (bit c.fl.flags b.val = true → bufExpire (tget 0 c.rt.bufs b.val) ≠ 0 →
      tget 0 c.fl.setAt b.val + bufExpire (tget 0 c.rt.bufs b.val) ≤ secIdx s.m k.key →
      exec (.flagExpire k b) s = .next (after (modCore k.key (fun c =>
        { c with fl := { c.fl with flags := clrBit c.fl.flags b.val } })) s))

/-- R177, R178, R181, R201: when every core's image is valid, the gather at cycle 1,024 of the round moves the switch to
its load and clears FAULT of every die; when one is not, the switch is abandoned, no section runs and the module has
an uncorrected fault; GO at cycle 4,096 puts the section into force with section round 0 on every die. Edge memory
stays as it was. At a round start or at GO every present core that takes part begins at its ENTRY with its exception
state cleared, and every other one idles and counts as done.
Readings and choices of the model's own in it: log entry 30. -/
def Obligations.SectionsAreLoadedAndBegin : Prop :=
  Sys2Proof.Spec.SectionSwitchChecksThenGoes ∧
  Sys2Proof.Spec.CoresBeginAtEntry

/-- R59, R101, R222 to R225, R228, R230 to R232, R235, R606: while the module does not hold, an SLIST and a TCOPY start from the
head of their queue; a descriptor with RUNS 0 moves the list to its link; a local block waits for the N slots of the next turns,
and a read of edge memory queues its request for the phase of its channel, whose answer rows the engine awaits once the request has
left; a reply without POISON and REJ makes a write block
ready; a row of a stopped block is absorbed; a block without a record that completes leaves the list; the rows of its trackers' snapshot
wait for W slots, which store them at their place, and a TCOPY whose rows are written completes at its end. Narrow-bank writes that wait are made before a descriptor is read.
Readings and choices of the model's own in it: log entries 31 and 48. -/
def Obligations.StreamEnginesRunBlockLists : Prop :=
  ∀ (k : CoreId) (e : Fin 2) (q : QDesc) (l : SList) (s : State), s.m.sec.switch = none →
    let c := coreAt s.m k.key
    let st := seAt c e.val
    let dma (c : Core) : Core := { writePieces c.dma c with dma := [] }
    let x := readNarrow (dma c) l.next 32
    let d : OpDesc := BitVec.ofNat 256 x.1
    let fetches := st.list = some l ∧ l.last = false ∧ l.inflight.length < 4 ∧ l.fetched < dB l.q.d 16 2 ∧
      l.next + 32 ≤ 0x10000 ∧ x.2 = []
    let b : Blk := { no := l.blocks, desc := d, run := 0, src := [], conv := 0, dst := [], wrote := 0, read := 0,
                     turn := turnNow s.m + 1, ready := false }
    let l2 : SList := { l with fetched := l.fetched + 1, next := l.next + 32, blocks := l.blocks + 1, last := bkLast d,
                               inflight := l.inflight ++ [b] }
    let readied (no : Nat) : SList :=
      { l with inflight := l.inflight.map (fun y => if y.no == no then { y with ready := true } else y) }
    (s.m.rnd.hold = false → AtHead s.m k (2 + e.val) 0x40 q → st.list = none → st.tcopy = none →
      exec (.slistStart k e) s = .next (after (modCore k.key (fun c => modSe e.val (fun t =>
        { t with list := some ⟨q, dB q.d 4 4, 0, 0, 0, false, []⟩ }) (popped (2 + e.val) c))) s)) ∧
    (s.m.rnd.hold = false → AtHead s.m k (2 + e.val) 0x41 q → st.list = none → st.tcopy = none →
      let snap := (dieAt s.m (dieOf k.key)).trk.snap
      let bs := (List.range (dB q.d 10 2)).flatMap (fun i => trackerBytes (tget Tracker.reset snap (dB q.d 8 1 + i)))
      exec (.tcopyStart k e) s = .next (after (modCore k.key (fun c => modSe e.val (fun t => { t with
        tcopy := some ⟨q, tick s.m + 16 * ceilDiv (ceilDiv (dB q.d 10 2) 8) 16 + 16⟩
        wait := t.wait ++ (pieces (dB q.d 4 4) bs).map (fun p => ⟨0, p, turnNow s.m + 1, false⟩) })
          (popped (2 + e.val) c))) s)) ∧
    (s.m.rnd.hold = true →
      exec (.slistStart k e) s = .next s ∧ exec (.tcopyStart k e) s = .next s) ∧
    (fetches → bkRuns d = 0 → x.1 < 2 ^ 16 → x.1 % 32 = 0 →
      exec (.blockDescriptorFetch k e) s = .next (after (modCore k.key (fun c => modSe e.val (fun t =>
        { t with list := some { l with fetched := l.fetched + 1, next := x.1 } }) (dma c))) s)) ∧
    (fetches → bkRuns d ≠ 0 → blockOk d = true → bkSpace d 0 = 0 → bkSpace d 8 = 0 →
      exec (.blockDescriptorFetch k e) s = .next (after (modCore k.key (fun c => modSe e.val (fun t =>
        { t with list := some l2 }) (dma c))) s)) ∧
    (∀ ch w, fetches → (∀ y ∈ st.out, y.blk ≤ l.blocks) → bkRuns d ≠ 0 → blockOk d = true → bkSpace d 0 = 1 → bkSpace d 8 = 0 → bkTr d = false →
      chanOfMode c (5 + e.val) = some (ch, w) →
      exec (.blockDescriptorFetch k e) s = .next (after (modCore k.key (fun c => modSe e.val (fun t => { t with
        list := some l2
        out := t.out ++ [⟨l.blocks, requestFlit 1 0 (retField c e.val false) (fld l.q.d 64 32 + BitVec.ofNat 32 l.blocks)
          (bkAddr d 0) (bkSrcBytes d) (bkRuns d) (mlcOf s.m k.key) (bkSs d), ceilDiv (bkSrcBytes d) 64 * bkRuns d⟩] }) (dma c))) s)) ∧
    (∀ (o : OutFlit) (rest : List OutFlit), st.out = o :: rest →
      outSent st = { st with out := rest, await := st.await ++ (if o.asks = 0 then [] else [⟨some o.blk, o.asks⟩]) }) ∧
    (∀ (r : Row) (rest : List Await) (bk : Blk), st.list = some l → st.await = ⟨some bk.no, 1⟩ :: rest →
      l.inflight.find? (fun y => y.no == bk.no) = some bk → bkSpace bk.desc 0 = 0 →
      exec (.streamInboundFlit k e r false false) s = .next (after (modCore k.key (modSe e.val (fun t =>
        { t with await := rest, list := some (readied bk.no) }))) s)) ∧
    (∀ (r : Row) (poison rej : Bool) (rest : List Await), st.await = ⟨none, 1⟩ :: rest →
      exec (.streamInboundFlit k e r poison rej) s =
        .next (after (modCore k.key (modSe e.val (fun t => { t with await := rest }))) s)) ∧
    (∀ bk : Blk, st.list = some l → nextDone l = some bk → st.wait = [] → bkAct bk.desc = 0 → l.last = false →
      exec (.blockComplete k e) s = .next (after (modCore k.key (modSe e.val (fun t =>
        { t with list := some { l with inflight := l.inflight.filter (fun y => y.no != bk.no) } }))) s)) ∧
    (∀ bk : Blk, st.list = some l → nextDone l = some bk → st.wait = [] → bkAct bk.desc = 0 → l.last = true → l.inflight = [bk] →
      exec (.blockComplete k e) s = .next (after (modCore k.key (fun c => counted (2 + e.val)
        (modSe e.val (fun t => { t with list := none }) c))) s)) ∧
    (∀ r : TcopyRun, st.tcopy = some r → st.wait = [] → r.ends ≤ tick s.m →
      exec (.tcopyComplete k e) s = .next (after (modCore k.key (fun c => counted (2 + e.val)
        (modSe e.val (fun t => { t with tcopy := none }) c))) s)) ∧
    (∀ (bs : List Byte) (w : Core), tcopyOk q.d = true → bs.length = 8 * dB q.d 10 2 → w = writePieces (pieces (dB q.d 4 4) bs) c →
      rdBytes w.sp (dB q.d 4 4) (8 * dB q.d 10 2) = bs ∧
      ∀ a, (a < dB q.d 4 4 ∨ dB q.d 4 4 + 8 * dB q.d 10 2 ≤ a) → rd w.sp a = rd c.sp a)

/-- R96, R225, R231, R606: the answer row of a read block that copies bytes, for a run of at most 64 bytes in one wide row, waits
with those bytes for a W slot of the next turn on; nothing of the scratchpad changes before that. -/
def Sys2Proof.Spec.AnswerRowsReachTheirDestination : Prop :=
  ∀ (k : CoreId) (e : Fin 2) (l : SList) (b : Blk) (r : Row) (rest : List Await) (s : State),
    let c := coreAt s.m k.key
    let st := seAt c e.val
    let n := bkSrcBytes b.desc
    let base := bkAddr b.desc 8 + b.run * bkDs b.desc
    st.list = some l → st.await = ⟨some b.no, 1⟩ :: rest → l.inflight.find? (fun y => y.no == b.no) = some b →
    bkSpace b.desc 0 = 1 → bkSpace b.desc 8 = 0 → bkConv b.desc = false → bkTrk b.desc = false → 1 ≤ n → base % 64 + n ≤ 64 →
    b.src = [] → b.conv = 0 → b.dst = [] → b.wrote = 0 → s.m.sec.switch = none →
    ∃ t, exec (.streamInboundFlit k e r false false) s = .next t ∧ t.pending = s.pending ∧
      (∃ f, t.m = modCore k.key f s.m) ∧ (seAt (coreAt t.m k.key) e.val).await = rest ∧
      (seAt (coreAt t.m k.key) e.val).wait =
        st.wait ++ [⟨b.no, ⟨base, (toBytes 64 r.toNat).take n⟩, turnNow s.m + 1, false⟩] ∧
      (coreAt t.m k.key).sp = c.sp ∧ (coreAt t.m k.key).p = c.p

/-- R93, R96 to R99, R186, R187, R196, R227, R606: what the W slot of a turn does at a core: the rows of the router that wait are
written first, and of each user the longest prefix of at most 16 rows in banks of their own that no earlier user has taken; a row
that is not yet of its turn, and every row behind it, waits. Every row taken is written, and no other user's row moves. -/
def Sys2Proof.Spec.TheWSlotServesPrefixes : Prop :=
  ∀ (k : CoreId) (turn : Nat) (s : Mach), dead s k.key = false →
    let c := coreAt s k.key
    let r := takeWaiting turn [] 16 c.rt.wait
    let t := coreAt (wSlot k.key turn s) k.key
    r <+: c.rt.wait ∧ r.length ≤ 16 ∧ (r.map (fun w => rowIndex w.piece.addr % 16)).Nodup ∧ (∀ w ∈ r, w.turn ≤ turn) ∧
    t.rt.wait = c.rt.wait.drop r.length ∧
    (∃ a b, a ++ t.se0.wait = c.se0.wait ∧ b ++ t.se1.wait = c.se1.wait ∧ a.length ≤ 16 ∧ b.length ≤ 16 ∧
      ((r ++ a ++ b).map (fun w => rowIndex w.piece.addr % 16)).Nodup ∧
      t.rt.wrote = r.map (fun w => (rowIndex w.piece.addr, false)) ++ (a ++ b).map (fun w => (rowIndex w.piece.addr, true)) ∧
      t.sp = (writePieces ((r ++ a ++ b).map (fun w => w.piece)) c).sp) ∧
    t.p = c.p ∧ (∀ j, j ≠ k.key → coreAt (wSlot k.key turn s) j = coreAt s j)

/-- R96, R98, R100: in an M slot the turn of the round says whose rows are read: activation rows in turn 0 of a period, rows of the
weight tile in turns 1 and 2, scales and metadata in turn 3, of each operation the first rows that are left as far as they fall in
banks of their own, and the operation ends no earlier than that period does, a pass 40 cycles later; an M slot writes no byte of the
scratchpad, and the V slot's write-back of an AOUT is in turn 3 of a period only. -/
def Sys2Proof.Spec.MAndVSlotsAreAllotted : Prop :=
  ∀ (k : CoreId) (turn : Nat) (s : Mach),
    let c := coreAt s k.key
    let m := coreAt (mSlot k.key turn s) k.key
    let v := coreAt (vSlot k.key turn s) k.key
    (coreAt (mSlot k.key turn s) k.key).sp = c.sp ∧
    (turn % 4 ≠ 0 → bit m.stopped 0 = false → m.mx.passes.map (fun p => p.acts) = c.mx.passes.map (fun p => p.acts)) ∧
    (turn % 4 ≠ 1 → turn % 4 ≠ 2 → bit m.stopped 0 = false →
      m.mx.loading.map (fun l => l.tile) = c.mx.loading.map (fun l => l.tile)) ∧
    (turn % 4 ≠ 3 → bit m.stopped 0 = false →
      m.mx.loading.map (fun l => (l.scales, l.metas)) = c.mx.loading.map (fun l => (l.scales, l.metas)) ∧
      m.mx.passes.map (fun p => p.scales) = c.mx.passes.map (fun p => p.scales)) ∧
    (turn % 4 ≠ 3 → bit c.stopped 1 = true ∨ bit v.stopped 1 = false → v.mx = c.mx) ∧ (turn % 4 = 3 → v.vop = c.vop) ∧
    (∀ l : Load,
      let x := readRows c (takeRows [] 16 l.tile.left)
      turn % 4 = 1 ∨ turn % 4 = 2 → bit c.stopped 0 = false → c.mx.loading = some l → l.tile.left ≠ [] → GoodRead x →
      m.mx.loading = some { l with tile := readOn l.tile x.rows, ends := max l.ends (periodEnd s) }) ∧
    (∀ p rest,
      let x := readRows c (takeRows [] (rowsPerTurn p) p.acts.left)
      turn % 4 = 0 → bit c.stopped 0 = false → c.mx.arb = none → c.mx.passes = p :: rest → p.acts.left ≠ [] → p.start ≤ tick s →
      (tick s - p.start) / 16 % passPeriods p.tile = 0 → 0 < rowsPerTurn p → GoodRead x →
      m.mx.passes = { p with
        acts := readOn p.acts x.rows
        ends := max p.ends (periodEnd s + 16 * (passPeriods p.tile - 1) + 40) } :: rest)

/-- R101: the narrow bank serves the scalar processor in even cycles and the DMA in odd ones: a write that waits for the DMA is
made in the next odd cycle, so that a load in the even cycle of the same turn returns the old data. -/
def Sys2Proof.Spec.TheNarrowBankHasTwoSlots : Prop :=
  ∀ (k : CoreId) (cycle : Nat) (s : Mach),
    let c := coreAt s k.key
    let t := coreAt (coreCycle k.key cycle s) k.key
    (cycle % 2 = 0 → t.dma = c.dma ∧ ∀ a, a < 0x10000 → (∀ w ∈ c.rt.wait ++ c.se0.wait ++ c.se1.wait, 0x10000 ≤ w.piece.addr) →
      c.vop = none → c.mx.aout = none → rd t.sp a = rd c.sp a) ∧
    (cycle % 2 = 1 → c.dma ≠ [] → dead s k.key = false → t.dma = []) ∧
    (cycle % 2 = 1 → dead s k.key = true → t.sp = c.sp)

/-- R96, R225, R231, R606: the answer row of a read block that copies bytes, for a run of at most 64 bytes in one wide
row, waits with those bytes for a W slot of the next turn on; nothing of the scratchpad changes before that. What the
W slot of a turn does at a core: the rows of the router that wait are written first, and of each user the longest
prefix of at most 16 rows in banks of their own that no earlier user has taken; a row that is not yet of its turn, and
every row behind it, waits. Every row taken is written, and no other user's row moves. In an M slot the turn of the
round says whose rows are read: activation rows in turn 0 of a period, rows of the weight tile in turns 1 and 2,
scales and metadata in turn 3, of each operation the first rows that are left as far as they fall in banks of their
own, and the operation ends no earlier than that period does, a pass 40 cycles later; an M slot writes no byte of the
scratchpad, and the V slot's write-back of an AOUT is in turn 3 of a period only. The narrow bank serves the scalar
processor in even cycles and the DMA in odd ones: a write that waits for the DMA is made in the next odd cycle, so
that a load in the even cycle of the same turn returns the old data.
Readings and choices of the model's own in it: log entries 11 and 53. -/
def Obligations.TheWheelServesItsUsers : Prop :=
  Sys2Proof.Spec.AnswerRowsReachTheirDestination ∧
  Sys2Proof.Spec.TheWSlotServesPrefixes ∧
  Sys2Proof.Spec.MAndVSlotsAreAllotted ∧
  Sys2Proof.Spec.TheNarrowBankHasTwoSlots

namespace Sys2Proof.Spec

open Sys2Proof.Machine

/-- Code word cw is stored without an error (R385, R387). -/
def GoodCw (s : Mach) (cw : Nat) : Prop :=
  tget 0 s.edge.poison cw = 0 ∧ ∀ j, j < 8 → tget 0 s.edge.ck (8 * cw + j) = 0

/-- The stack that owns the address serves requests, and the runs keep out of the keep region (R209, R219, R239). -/
def Admitted (s : Mach) (st : Fin 32) (f : Row) : Prop :=
  stackOf (rqEa f) = st.val ∧ (stkAt s st.val).failed = false ∧ (stkAt s st.val).selfref = false ∧
    (s.edge.keepEn = true → ∀ r ∈ runsOf f, inKeep r.1 r.2 = false)

/-- No live retraining, no scrub rewrite and no watched window interferes with the writes of a stack (R221, R267, R393). -/
def Undisturbed (s : Mach) (st : Nat) : Prop :=
  (stkAt s st).retQ = 0x3F ∧ (stkAt s st).scrubWb = [] ∧ (unitAt s st).win = []

/-- A group's token is free: nobody holds it or waits for it (R404, R405). -/
def FreeToken (s : Mach) (t : Nat) : Prop := ∀ a ∈ s.mnt.acts, t ∉ a.tokens

end Sys2Proof.Spec

namespace Sys2Proof.Spec

open Sys2Proof.Machine

/-- No work waits at the stack, and class `cls` owns its split slot with a burst left of the group of an address (R210, R212). -/
def Unhurried (s : Mach) (st cls ea : Nat) : Prop :=
  (stkAt s st).work = [] ∧ slotClass s.edge (stkAt s st).slot.toNat = cls ∧ tget 0 (stkAt s st).bursts (groupOf ea) < 16

/-- Nothing waits for room in the buffer of a link and phase (R218). -/
def NoneWait (k : Stack) (key : Nat) : Prop := tget [] k.rejects key = [] ∧ (tget Square.reset k.squares key).rows = []

end Sys2Proof.Spec

/-- R210, R212, R215, R216, R217, R219, R228, R241: a read request that comes in a phase of the stack and that it admits becomes
work of the read class, with the packed bytes of its runs for its link and phase; a transposed read, with the rows of the
transposed square; where the read class owns the slot and a burst and room are left, a short read is answered at once and
counted. Of a request that the stack rejects the rows, whose first carries the status, enter the buffer, and it is counted. Edge
memory does not change.
Readings and choices of the model's own in it: log entries 15 and 48. -/
def Obligations.StackReadsQueueTheirAnswers : Prop :=
  ∀ (st : Fin 32) (link : Fin 16) (phase : Fin 4) (f : Row) (s : State), stackLink s.m st.val link.val phase.val = true →
    let key := 4 * rqRetLink f + rqRetPhase f
    let k := stkAt s.m st.val
    let data (r : Nat × Nat) : List (Byte × Bool) := (rdBytes s.m.edge.mem r.1 r.2).map (fun b => (b, false))
    let good (runs : List (Nat × Nat)) : Prop :=
      ∀ r ∈ runs, ∀ cw, r.1 / 32 ≤ cw → 32 * cw < r.1 + r.2 → GoodCw s.m cw
    let work (runs : List (Nat × Nat)) (square : Bool) (rows : List AnsRow) : Work := ⟨0, runs, 0, some key, square, rows⟩
    (rqKind f = 1 → Admitted s.m st f → good (runsOf f) →
      exec (.edgeReadRequest st link phase f) s = .next (after (addWork st.val
        (work (runsOf f) false ((runsOf f).flatMap (fun r => packRows (data r))))) s)) ∧
    (rqKind f = 1 → Admitted s.m st f → good (runsOf f) → rqNrun f = 1 → 0 < rqRunlen f → rqRunlen f ≤ 64 →
      rqEa f % 256 + rqRunlen f ≤ 256 → Unhurried s.m st.val 0 (rqEa f) → (tget [] k.answers key).length < 64 →
      ∃ t, exec (.edgeReadRequest st link phase f) s = .next t ∧ t.pending = s.pending ∧
        tget [] (stkAt t.m st.val).answers key = tget [] k.answers key ++ packRows (data (rqEa f, rqRunlen f)) ∧
        (stkAt t.m st.val).rdu = satInc k.rdu ∧ (stkAt t.m st.val).work = [] ∧ t.m.edge = s.m.edge) ∧
    (let n := 512 / fmtBits (rqElem f)
     let runs := (List.range n).map (fun i => (rqEa f + i * rqStride f, 64))
     rqKind f = 3 → stackOf (rqEa f) = st.val → k.failed = false → k.selfref = false → s.m.edge.keepEn = false → good runs →
      exec (.transposedReadRequest st link phase f) s = .next (after (addWork st.val
        (work runs true ((List.range n).map (transposeRow (fmtBits (rqElem f)) (runs.map data))))) s)) ∧
    (let rows := rejectRows 4 (ceilDiv (rqRunlen f) 64 * rqNrun f)
     rqKind f = 1 → stackOf (rqEa f) = st.val → s.m.edge.keepEn = false → k.failed = true → NoneWait k key →
      (tget [] k.answers key).length + rows.length ≤ 64 →
      ∃ t, exec (.edgeReadRequest st link phase f) s = .next t ∧ t.pending = s.pending ∧
        tget [] (stkAt t.m st.val).answers key = tget [] k.answers key ++ rows ∧
        (stkAt t.m st.val).rejCnt = satInc k.rejCnt ∧ (stkAt t.m st.val).rejLast = 4 ∧
        (stkAt t.m st.val).rejEa = BitVec.ofNat 41 (rqEa f) ∧ t.m.edge = s.m.edge)

/-- R215, R217: a write request that comes in a phase of the stack and that it admits awaits its rows; a data row of the oldest write
on its link and phase is stored at its place, the bytes outside it read as before, and the last row queues the reply. -/
def Sys2Proof.Spec.StackWritesStoreTheirRows : Prop :=
  ∀ (st : Fin 32) (link : Fin 16) (phase : Fin 4) (f row : Row) (s : State), stackLink s.m st.val link.val phase.val = true →
    let key := 4 * link.val + phase.val
    (rqKind f = 2 → Admitted s.m st f →
      exec (.edgeWriteRequest st link phase f) s = .next (after (modStk st.val (fun k =>
        { k with writes := tset [] k.writes key (tget [] k.writes key ++
          [{ ea := rqEa f, runlen := rqRunlen f, nrun := rqNrun f, stride := rqStride f, run := 0, pos := 0,
             status := 0, rejected := false, ret := 4 * rqRetLink f + rqRetPhase f }]) })) s)) ∧
    (∀ (w : WReq) (rest : List WReq),
      let n := min 64 (w.runlen - w.pos)
      let ea := w.ea + w.run * w.stride + w.pos
      tget [] (stkAt s.m st.val).writes key = w :: rest → w.rejected = false → Undisturbed s.m (stackOf ea) →
      stackOf ea = stackOf (ea + n - 1) → ea % 32 = 0 → n % 32 = 0 → 0 < n →
      ∃ t, exec (.writeDataRow st link phase row false) s = .next t ∧ t.pending = s.pending ∧
        rdBytes t.m.edge.mem ea n = (toBytes 64 row.toNat).take n ∧
        (∀ a, (a < ea ∨ ea + n ≤ a) → rd t.m.edge.mem a = rd s.m.edge.mem a) ∧
        (w.pos + n < w.runlen → w.run < w.nrun →
          tget [] (stkAt t.m st.val).writes key = { w with pos := w.pos + n } :: rest) ∧
        (w.runlen ≤ w.pos + n → w.nrun ≤ w.run + 1 → tget [] (stkAt t.m st.val).writes key = rest ∧
          (stkAt t.m st.val).replies = tset [] (stkAt s.m st.val).replies w.ret
            (tget [] (stkAt s.m st.val).replies w.ret ++ [⟨BitVec.ofNat 512 w.status.toNat, w.status != 0, false⟩])) ∧
        t.m.cores = s.m.cores)

/-- R210, R217, R218, R220: rows of an answer buffer leave in order; a reply leaves at once where its buffer is empty, and takes its
room behind the rows that are there otherwise; a refresh is counted in the round in progress; the split frame moves to its next
slot, in which no work is performed but that of the class that owns it. -/
def Sys2Proof.Spec.StackQueuesDrainInOrder : Prop :=
  ∀ (st : Fin 32) (link : Fin 16) (phase : Fin 4) (q : Fin 40) (r : AnsRow) (rest : List AnsRow) (s : State),
    let key := 4 * link.val + phase.val
    let k := stkAt s.m st.val
    let buf := tget [] k.answers key
    let sent (t : State) : Prop := t.pending = s.pending ∧ t.m.edge = s.m.edge ∧
      t.m.out = s.m.out ++ [.rimRow st.val link.val phase.val r.row r.poison r.rej]
    let c := slotClass s.m.edge (k.slot + 1).toNat
    (stackLink s.m st.val link.val phase.val = true → buf = r :: rest → k.work = [] → NoneWait k key →
      ∃ t, exec (.answerRowSend st link phase) s = .next t ∧ sent t ∧ tget [] (stkAt t.m st.val).answers key = rest ∧
        ∀ j, j ≠ key → tget [] (stkAt t.m st.val).answers j = tget [] k.answers j) ∧
    (stackLink s.m st.val link.val phase.val = true → tget [] k.replies key = r :: rest → buf = [] → k.work = [] → NoneWait k key →
      ∃ t, exec (.writeReply st link phase) s = .next t ∧ sent t ∧ tget [] (stkAt t.m st.val).replies key = rest ∧
        tget [] (stkAt t.m st.val).answers key = []) ∧
    (stackLink s.m st.val link.val phase.val = true → tget [] k.replies key = r :: rest → buf ≠ [] → buf.length < 64 →
      ∃ t, exec (.writeReply st link phase) s = .next t ∧ t.pending = s.pending ∧ t.m.edge = s.m.edge ∧ t.m.out = s.m.out ∧
        tget [] (stkAt t.m st.val).replies key = rest ∧ tget [] (stkAt t.m st.val).answers key = buf ++ [r]) ∧
    (k.failed = false → k.selfref = false →
      exec (.refreshCommand st q) s = .next (after (modRnd (fun r =>
        { r with varRun := { r.varRun with refresh := satInc r.varRun.refresh } })) s)) ∧
    ((∀ w ∈ k.work, w.cls ≠ c ∧ (c = 2 → w.cls ≠ 3)) →
      exec (.splitSlotBoundary st) s = .next (after (modStk st.val (fun k => { k with slot := k.slot + 1, bursts := [] })) s))

/-- R221, R391, R406: a trained stack whose temperature moved by more than 12 degrees asks for the group token of its
first untrained pseudo-channel and, when the token is free, retrains it; the end of the retraining frees the token and
counts it; an abandoned one asks again; a logged unit is rewritten and leaves the log. -/
def Sys2Proof.Spec.LiveRetrainingOfStacks : Prop :=
  ∀ (st : Fin 32) (temp : Byte) (s : State),
    let k := stkAt s.m st.val
    (∀ q qs, k.trained = true → k.failed = false → k.selfref = false → 12 < tempDiff temp k.trainT →
      retrainIdle s.m st.val = true → untrained k = q :: qs → q < 40 → FreeToken s.m (144 + 4 * st.val + pcGroup q) →
      ∃ t, exec (.pcRetrainStart st temp) s = .next t ∧ t.pending = s.pending ∧
        stkAt t.m st.val = { k with maxT := temp, temp := temp, hot := decide (85 < temp.toInt), retSweep := true,
                                    retQ := BitVec.ofNat 6 q, retLog := [], retLogQ := BitVec.ofNat 6 q } ∧
        t.m.mnt.acts = s.m.mnt.acts ++ [{ handle := s.m.mnt.nextHandle, code := 1, subject := st.val, part := q,
                                          tokens := [144 + 4 * st.val + pcGroup q], held := 1, owed := none }] ∧
        t.m.edge = s.m.edge ∧ t.m.cores = s.m.cores) ∧
    (∀ a, k.retQ ≠ 0x3F → findActivity s.m 1 st.val k.retQ.toNat = some a →
      ∃ t, exec (.pcRetrainDone st) s = .next t ∧ t.pending = s.pending ∧ (stkAt t.m st.val).retQ = 0x3F ∧
        (stkAt t.m st.val).retDone = satInc k.retDone ∧
        t.m.mnt.acts = s.m.mnt.acts.filter (fun b => b.handle != a.handle) ∧ t.m.edge = s.m.edge) ∧
    (k.retRetry = true → k.retLog = [] → k.retLogQ.toNat < 40 → groupDeg k (pcGroup k.retLogQ.toNat) = false →
      FreeToken s.m (144 + 4 * st.val + pcGroup k.retLogQ.toNat) →
      ∃ t, exec (.pcRetrainRetry st) s = .next t ∧ t.pending = s.pending ∧ (stkAt t.m st.val).retRetry = false ∧
        (stkAt t.m st.val).retQ = k.retLogQ ∧ t.m.edge = s.m.edge) ∧
    (∀ u us, k.retLog = u :: us → k.retQ = 0x3F → (∀ i, i < 8 → GoodCw s.m (st.val * 2 ^ 31 + u * 8 + i)) →
      ∃ t, exec (.retrainRewrite st) s = .next t ∧ t.pending = s.pending ∧ (stkAt t.m st.val).retLog = us ∧
        (Unhurried s.m st.val 2 (32 * (st.val * 2 ^ 31 + u * 8)) → (stkAt t.m st.val).rmu = satInc k.rmu) ∧ ∀ a, rd t.m.edge.mem a = rd s.m.edge.mem a)

/-- R389, R390, R393, R406: the scrub engine reads its next unit and moves on; a rewrite stores the corrected code word;
a DRAM die is marked lost once its activity holds its tokens, and a second lost die of its group fails the stack. -/
def Sys2Proof.Spec.EdgeScrubAndLostDies : Prop :=
  ∀ (st : Fin 32) (d : Fin 20) (s : State),
    let k := stkAt s.m st.val
    (s.m.edge.scrubEn = true → k.failed = false → k.selfref = false → FreeToken s.m (144 + 4 * st.val + k.scrubAt % 4) →
      k.scrubAt + 1 < 2 ^ 28 → (∀ i, i < 8 → GoodCw s.m (st.val * 2 ^ 31 + k.scrubAt * 8 + i)) →
      ∃ t, exec (.edgeScrubRead st) s = .next t ∧ t.pending = s.pending ∧ t.m.edge = s.m.edge ∧
        (stkAt t.m st.val).scrubAt = k.scrubAt + 1 ∧ (stkAt t.m st.val).scrubWb = k.scrubWb ∧
        (Unhurried s.m st.val 2 (32 * (st.val * 2 ^ 31 + k.scrubAt * 8)) → (stkAt t.m st.val).rmu = satInc k.rmu)) ∧
    (∀ cw rest data p pat si, k.scrubWb = cw :: rest → stackOf (32 * cw) = st.val → k.failed = false → k.selfref = false →
      FreeToken s.m (144 + 4 * st.val + groupOf (32 * cw)) →
      edgeDecode s.m cw = (data, .corrected p pat si) → data.length = 32 →
      ∃ t, exec (.edgeScrubRewrite st) s = .next t ∧ t.pending = s.pending ∧ (stkAt t.m st.val).scrubWb = rest ∧
        rdBytes t.m.edge.mem (32 * cw) 32 = data ∧ GoodCw t.m cw ∧
        ∀ a, (a < 32 * cw ∨ 32 * cw + 32 ≤ a) → rd t.m.edge.mem a = rd s.m.edge.mem a) ∧
    (∀ a, findActivity s.m 3 st.val d.val = some a → a.ready = true → bit k.dieLost d.val = false →
      ∃ t, exec (.dieLostMark st d) s = .next t ∧ t.pending = s.pending ∧
        bit (stkAt t.m st.val).dieLost d.val = true ∧
        t.m.mnt.acts = s.m.mnt.acts.filter (fun b => b.handle != a.handle) ∧
        (stkAt t.m st.val).failed = (k.failed || groupDeg k (if d.val < 10 then 0 else 2)) ∧
        (groupDeg k (if d.val < 10 then 0 else 2) = true → t.m.keep.faulted = true) ∧ t.m.edge.mem = s.m.edge.mem)

/-- R215, R217: a write request that comes in a phase of the stack and that it admits awaits its rows; a data row of the
oldest write on its link and phase is stored at its place, the bytes outside it read as before, and the last row
queues the reply. Rows of an answer buffer leave in order; a reply leaves at once where its buffer is empty, and takes
its room behind the rows that are there otherwise; a refresh is counted in the round in progress; the split frame
moves to its next slot, in which no work is performed but that of the class that owns it.
Readings and choices of the model's own in it: log entry 15. -/
def Obligations.StackWritesAndReplies : Prop :=
  Sys2Proof.Spec.StackWritesStoreTheirRows ∧
  Sys2Proof.Spec.StackQueuesDrainInOrder

/-- R221, R391, R406: a trained stack whose temperature moved by more than 12 degrees asks for the group token of its
first untrained pseudo-channel and, when the token is free, retrains it; the end of the retraining frees the token and
counts it; an abandoned one asks again; a logged unit is rewritten and leaves the log. The scrub engine reads its next
unit and moves on; a rewrite stores the corrected code word; a DRAM die is marked lost once its activity holds its
tokens, and a second lost die of its group fails the stack.
Readings and choices of the model's own in it: log entries 35 and 36. -/
def Obligations.EdgeMemoryUpkeep : Prop :=
  Sys2Proof.Spec.LiveRetrainingOfStacks ∧
  Sys2Proof.Spec.EdgeScrubAndLostDies

/-- R265, R271, R272, R292, R573: an UPDATE_LIST is armed for its round at the unit of its stack, in the order of acceptance, and is queued if a list
runs there, of which one may be; it completes later; a
job that ends without an error counts its elements, and the last job of a list, or one after STOP, ends the list with
status 0 and completes its command; a NORM job leaves its record at REC; STOP marks exactly the named units that run. -/
def Sys2Proof.Spec.UpdateListsRunTheirJobs : Prop :=
  ∀ s : State,
    (∀ (q : Fin 16) (d : Desc) (c : RunCmd) (m : BitVec 48),
      let ea := cB d 16 8
      Starts s.m q.val d c 0x12 [(8, 6), (16, 8)] → cmdRound s.m (verOf s.m q.val c) d 8 = some m → roundStarted s.m m = false →
      ea < 2 ^ 41 → ea % 32 = 0 → stackOf (ea + 127) = stackOf ea →
      ((unitAt s.m (stackOf ea)).list = none ∨ ∀ w ∈ (unitAt s.m (stackOf ea)).waiting, w.queued = false) →
      exec (.updateList q d) s = .next (after (fun x =>
        modUnit (stackOf ea) (fun u => { u with
          waiting := insertBy (fun w => w.owed.tok) ⟨m, ea, ⟨q.val, c.tok⟩, (unitAt s.m (stackOf ea)).list.isSome⟩ u.waiting })
            (started q.val c x)) s)) ∧
    (∀ (u : Fin 32) (l : RunList),
      let j := l.desc
      let x := jobRun j 0 (unitAt s.m u.val).dig s.m
      (unitAt s.m u.val).list = some l → j ≠ [] → l.status = 0 → stackOut s.m u.val = false → x.1.status = 0 →
      (unitAt s.m u.val).stop = true ∨ l.njob ≤ l.job + 1 → (unitAt s.m u.val).waiting = [] →
      ∃ t, exec (.updateJobEnd u) s = .next t ∧ t.pending = s.pending ∧ (unitAt t.m u.val).list = none ∧
        (unitAt t.m u.val).status = 0 ∧
        (unitAt t.m u.val).elem =
          (if jbNorm j then (unitAt s.m u.val).elem else satAdd (unitAt s.m u.val).elem x.1.n) ∧
        ringAt t.m l.owed.ring = ringAt (complete l.owed 0 (65536 * l.job) s.m) l.owed.ring ∧
        t.m.cores = s.m.cores ∧ t.m.rnd = s.m.rnd ∧
        (jbNorm j = true → inUnit s.m u.val (jbRec j) 32 = true → (stkAt s.m u.val).retQ = 0x3F →
          rdBytes t.m.edge.mem (jbRec j) 32 = jobRecord s.m x.1)) ∧
    (∀ v : Word, Served s.m 0x104010 →
      ∃ t, exec (.uuStop v) s = .next t ∧ t = accessed (modTrn (fun x => { x with units := t.m.trn.units })) s ∧
        ∀ u, unitAt t.m u =
          let x := unitAt s.m u
          { x with stop := x.stop || (decide (u < 32) && bit v u && x.list.isSome) })

/-- R281 to R284, R293: a digest of the exchange step that is due, the first of its sender, is kept; when the wait ends
with every peer's digest and all equal to the own one the outcome is 1 and nothing is raised; when a majority of the
group holds one other digest the module names itself, raises the uncorrected fault and the outcome is 3. -/
def Sys2Proof.Spec.WeightDigestsAreExchanged : Prop :=
  ∀ s : State,
    (∀ (p : Fin 64) (m : BitVec 192),
      let step := fld m 32 32
      let sender := fld m 128 16
      let base := nextExchange s.m s.m.trn.step.toNat
      s.m.trn.own = [] → sender ∈ digPeers s.m →
      step.toNat = base % 2 ^ 32 ∨ step.toNat = (base + digInterval s.m) % 2 ^ 32 →
      (∀ x ∈ s.m.trn.kept, ¬ (x.step = step ∧ x.sender = sender)) →
      exec (.digest p m) s =
        .next (after (modTrn (fun t => { t with kept := t.kept ++ [⟨step, sender, fld m 64 64⟩] })) s)) ∧
    (∀ o : OwnDigest,
      let peers := digPeers s.m
      let got := s.m.trn.kept.filter (fun x => x.step == o.step && peers.contains x.sender)
      s.m.trn.own = [o] → 1 ≤ o.rounds → s.m.trn.digTimeout.toNat ≤ o.rounds →
      (got.length = peers.length → (∀ x ∈ got, x.value = o.value) →
        exec .digestTimeout s = .next (after (modTrn (fun t => { t with
          outcome := 1, agree := BitVec.ofNat 7 (peers.length + 1), recv := BitVec.ofNat 6 peers.length
          digStep := o.step, digLast := o.value, own := []
          kept := t.kept.filter (fun x => x.step != o.step) })) s)) ∧
      (∀ v, v ≠ o.value → v ∈ got.map (·.value) →
        peers.length + 1 < 2 * (got.filter (fun x => x.value == v)).length →
        2 * (1 + (got.filter (fun x => x.value == o.value)).length) ≤ peers.length + 1 →
        ∃ t, exec .digestTimeout s = .next t ∧ t.pending = s.pending ∧ t.m.trn.outcome = 3 ∧ t.m.trn.own = [] ∧
          bit t.m.trn.evt 4 = true ∧ t.m.keep.faulted = true ∧ t.m.keep.holdNext = true ∧ t.m.keep.namedValid = true ∧
          (s.m.keep.namedValid = false → t.m.keep.namedId = s.m.ctl.id)))

/-- R265, R271, R272, R292, R573: an UPDATE_LIST is armed for its round at the unit of its stack, in the order of
acceptance, and is queued if a list runs there, of which one may be; it completes later; a job that ends without an
error counts its elements, and the last job of a list, or one after STOP, ends the list with status 0 and completes
its command; a NORM job leaves its record at REC; STOP marks exactly the named units that run. A digest of the
exchange step that is due, the first of its sender, is kept; when the wait ends with every peer's digest and all equal
to the own one the outcome is 1 and nothing is raised; when a majority of the group holds one other digest the module
names itself, raises the uncorrected fault and the outcome is 3.
Readings and choices of the model's own in it: log entries 32 and 40. -/
def Obligations.UpdateListsAndWeightDigests : Prop :=
  Sys2Proof.Spec.UpdateListsRunTheirJobs ∧
  Sys2Proof.Spec.WeightDigestsAreExchanged

/-- R309, R310, R311, R314, R315, R317, R324: a dark port that sees light trains; equalization gives its lanes and
generation 1, alignment leads to identity, a second speed training to generation 2; the identity of a new partner, the
echoes, the loss of lanes, the expiry of the retry timer and EN change the port as the rules say.
Readings and choices of the model's own in it: log entry 33. -/
def Obligations.LinksComeUpAndGoDown : Prop :=
  ∀ (pf : Fin 64) (s : State),
    let p := pf.val
    let x := portAt s.m p
    (darkPort s.m p = false → x.state = 1 ∨ x.state = 7 →
      exec (.lightDetect pf) s = .next (after (modPort p (fun x => { x with
        state := 2, failed := 0, active := 0, gen := 0, identRx := false, identAck := false, trips := []
        latNext := none, gen2Fails := 0, offer := bit s.m.start.features 1 && x.genmax == 2 })) s)) ∧
    (∀ l : BitVec 16, x.state = 2 → laneCount (x.failed ||| l) ≤ 4 →
      ∃ t, exec (.eqComplete pf l) s = .next t ∧ t.pending = s.pending ∧ (portAt t.m p).state = 3 ∧
        (portAt t.m p).gen = 1 ∧ (portAt t.m p).failed = x.failed ||| l ∧
        (portAt t.m p).active = ~~~ (x.failed ||| l) ∧ (portAt t.m p).traint = x.temp ∧
        ∀ j, j ≠ p → portAt t.m j = portAt s.m j) ∧
    (∀ sw, x.state = 3 → x.gen2Fails < 2 →
      exec (.alignComplete pf sw) s = .next (after (fun m => modPort p (fun x => { x with
        state := 4, swap := sw, fecLast := 0, laneTx := [], mgmt := x.mgmt ++ [identityOf m p] }) m) s)) ∧
    (∀ sw, x.state = 3 → 2 ≤ x.gen2Fails →
      exec (.alignComplete pf sw) s = .next (after (modPort p (fun x => { x with
        state := 6, gen := 1, swap := sw, fecLast := 0, laneTx := [], resend := if x.buf.isEmpty then none else some 0 })) s)) ∧
    (∀ l : BitVec 16, x.state = 5 → 12 ≤ laneCount (~~~ (x.failed ||| l)) →
      ∃ t, exec (.speedComplete pf l) s = .next t ∧ t.pending = s.pending ∧ (portAt t.m p).state = 6 ∧
        (portAt t.m p).gen = 2 ∧ (portAt t.m p).failed = x.failed ||| l ∧ (portAt t.m p).buf = x.buf ∧
        (portAt t.m p).resend = (if x.buf.isEmpty then none else some 0)) ∧
    (∀ l : BitVec 16, x.state = 5 → laneCount (~~~ (x.failed ||| l)) < 12 → x.gen2Fails = 0 →
      exec (.speedComplete pf l) s = .next (after (modPort p (fun x => { x with gen2Fails := 1 })) s)) ∧
    (∀ l : BitVec 16, x.state = 5 → laneCount (~~~ (x.failed ||| l)) < 12 → 1 ≤ x.gen2Fails →
      exec (.speedComplete pf l) s = .next (after (modPort p (fun x => { x with state := 2, gen2Fails := 2 })) s)) ∧
    (∀ m : BitVec 256, x.state = 4 → idSerial m ≠ s.m.start.serial → x.identRx = false → x.partner = false →
      x.trips.length < 8 → (ptnFree s.m).isSome →
      ∃ t, exec (.identity pf m) s = .next t ∧ t.pending = s.pending ∧
        (let y := portAt t.m p
         y.state = 4 ∧ y.identRx = true ∧ y.partner = true ∧ y.pser = idSerial m ∧ y.pid = fld m 96 16 ∧
         y.pepoch = idEpoch m ∧ y.txSeq = 0 ∧ y.rxSeq = 0 ∧ y.ackv = false ∧ y.buf = [] ∧ y.txq = [] ∧
         bit y.evt 6 = true ∧
         ∃ i, (tget Ptn.reset t.m.rmt.ptn i).serial = idSerial m ∧ (tget Ptn.reset t.m.rmt.ptn i).valid = true ∧
           (tget Ptn.reset t.m.rmt.ptn i).direct = true ∧ (tget Ptn.reset t.m.rmt.ptn i).port = BitVec.ofNat 6 p)) ∧
    (x.state = 4 → x.identAck = false →
      exec (.identityResend pf) s = .next (after (fun m => modPort p (fun x => { x with
        mgmt := x.mgmt ++ [identityOf m p] }) m) s)) ∧
    (x.state = 4 ∨ x.state = 6 →
      exec (.echoSend pf) s = .next (after (fun m => modPort p (fun x => { x with
        echoSeq := x.echoSeq + 1, echoOut := some (x.echoSeq + 1, m.now)
        mgmt := x.mgmt ++ [.echo (echoMsg (x.echoSeq + 1) m.now)] }) m) s)) ∧
    (∀ (m : BitVec 128) (t0 : Nat), x.state = 6 → x.echoOut = some (fld m 8 8, t0) → t0 ≤ (fld m 64 64).toNat →
      (fld m 64 64).toNat ≤ s.m.now → x.trips.length = 7 →
      let ts := x.trips ++ [s.m.now - (fld m 64 64).toNat]
      exec (.echo pf m) s = .next (after (modPort p (fun x => { x with
        echoOut := none, trips := ts, latNext := some (BitVec.ofNat 16 (latOf ts)) })) s)) ∧
    (∀ m : BitVec 128, x.state = 6 → x.echoOut = none →
      exec (.echo pf m) s = .next (after (fun k => modPort p (fun x => { x with mgmt := x.mgmt ++ [.echoBack m k.now] }) k) s)) ∧
    (∀ l : BitVec 16, 2 ≤ x.state.toNat → x.state.toNat ≤ 6 → laneCount (x.active &&& ~~~ l) < 12 →
      ∃ t, exec (.linkDown pf l) s = .next t ∧ t.pending = s.pending ∧
        (let y := portAt t.m p
         y.state = 7 ∧ y.cause = 1 ∧ y.active = 0 ∧ y.gen = 0 ∧ y.retry = true ∧ y.downCnt = satInc x.downCnt ∧
         y.buf = x.buf ∧ y.txq = x.txq ∧ y.partner = x.partner ∧ bit y.evt 4 = true)) ∧
    (x.retry = true → x.state = 7 → x.partner = false → s.m.keep.sealing = none → s.m.keep.rest = none →
      s.m.keep.serve = none →
      exec (.retryTimerExpiry pf) s =
        .next (after (modPort p (fun x => { x with retry := false, state := 1 })) s)) ∧
    (∀ v : Word, Served s.m (0x108100 + 0x40 * p) → portLicensed s.m p = true → bit v 11 = false →
      (x.en = bit v 0 → exec (.prtCfgEnWrite pf v) s =
        .next (accessed (modPort p (fun x => { x with genmax := fld v 1 2, livert := bit v 3 })) s)) ∧
      (x.en = false → bit v 0 = true → s.m.pwr.voptFail.contains p = false → exec (.prtCfgEnWrite pf v) s =
        .next (accessed (modPort p (fun x => { x with
          en := true, genmax := fld v 1 2, livert := bit v 3, state := if x.retry then 7 else 1 })) s)) ∧
      (x.en = true → bit v 0 = false → x.state = 6 →
        ∃ t, exec (.prtCfgEnWrite pf v) s = .next t ∧ t.pending = s.pending ∧ (portAt t.m p).en = false ∧
          (portAt t.m p).state = 0 ∧ (portAt t.m p).cause = 3 ∧ bit (portAt t.m p).evt 4 = true))

/-- R302 to R308: a free lane of an active port takes the messages that wait, markers and stretch requests first, then
a replay, then link management, then new sequenced flits, which stay in the replay buffer until they are acknowledged;
each lane's flits fill code words of 514 symbols of its own; a flit of which a code word holds more than 15 symbols in error is discarded and a NAK is owed; an idle flit that carries a message is a bad message; one of a reserved KIND is a bad
message whose ACK does not count; a good sequenced flit with the SEQ expected has its message dispatched and advances SEQ; an ACK
releases every flit up to its SEQ; a timeout starts a replay from the oldest flit.
Readings and choices of the model's own in it: log entry 33. -/
def Obligations.FlitsCarryTheMessages : Prop :=
  (∀ (x : Port) (a b : List SentFlit) (f : SentFlit), x.buf = a ++ f :: b → x.resend = none →
    (∀ g ∈ a, g.seq ≠ f.seq) →
    takeAck (0x4000 ||| f.seq.setWidth 16) x = { x with buf := b }) ∧
  (∀ (x : Port) (ln : Fin 16) (n : Nat), n ≤ 15 → bit x.fecLast ln.val = false →
    takeFec ⟨ln, false, [], [n]⟩ x = (false, { x with feccor := satAdd x.feccor n })) ∧
  (∀ (x : Port) (ln : Fin 16) (n : Nat), 15 < n →
    takeFec ⟨ln, false, [], [n]⟩ x = (true, { x with fecunc := satInc x.fecunc, fecLast := setBit x.fecLast ln.val })) ∧
  (∀ (p ln : Nat) (f : Flit) (m : Mach),
    let l := tget LaneTx.empty (portAt m p).laneTx ln
    let n := l.count + 2048
    let bits := l.bits + f.toNat * 2 ^ l.count
    let held (y : LaneTx) := emit (.vzlFlit p ln f) (modPort p (fun x => { x with laneTx := tset LaneTx.empty x.laneTx ln y }) m)
    (n < 5140 → laneTakes p ln f m = held ⟨n, bits⟩) ∧
    (5140 ≤ n → laneTakes p ln f m = emit (.codeWord p ln (fecCodeWord bits)) (held ⟨n - 5140, bits / 2 ^ 5140⟩))) ∧
  (∀ (bits : Nat) (i : Nat), i < 514 → (fecCodeWord bits)[i]? = some (BitVec.ofNat 10 (bits / 2 ^ (10 * i)))) ∧
  ∀ (pf : Fin 64) (s : State),
    let p := pf.val
    let x := portAt s.m p
    let bare (x : Port) : Port := { x with nakDue := false, idleDue := false }
    x.state = 6 →
    (∀ ln : Fin 16, bit x.active ln.val = true → laneBusy x ln.val = false →
      (x.urgent ≠ [] →
        let k := packMsgs 244 x.urgent
        exec (.laneFree pf ln) s = .next (after (fun m => laneTakes p ln.val (mkFlit x 2 0 (k.1.map (departing m.now)))
          (modPort p (fun x => bare { x with urgent := k.2 }) m)) s)) ∧
      (x.urgent = [] → ∀ i f, x.resend = some i → x.buf[i]? = some f → f.resends + 1 < 16 →
        exec (.laneFree pf ln) s = .next (after (fun m =>
          modRnd (fun r => { r with varRun := { r.varRun with replay := satInc r.varRun.replay } })
            (laneTakes p ln.val (mkFlit x 1 f.seq.toNat f.msgs) (modPort p (fun x => bare { x with
              buf := x.buf.set i { f with resends := f.resends + 1 }, replay := satInc x.replay
              resend := if i + 1 < x.buf.length then some (i + 1) else none }) m))) s)) ∧
      (x.urgent = [] → x.resend = none → x.mgmt ≠ [] →
        let k := packMsgs 244 x.mgmt
        exec (.laneFree pf ln) s = .next (after (fun m => laneTakes p ln.val (mkFlit x 3 0 (k.1.map (departing m.now)))
          (modPort p (fun x => bare { x with mgmt := k.2 }) m)) s)) ∧
      (x.urgent = [] → x.resend = none → x.mgmt = [] → x.txq ≠ [] → x.buf.length < 2048 →
        let k := packMsgs 244 x.txq
        exec (.laneFree pf ln) s = .next (after (fun m => laneTakes p ln.val (mkFlit x 1 x.txSeq.toNat k.1)
          (modPort p (fun x => bare { x with
            txq := k.2, txSeq := x.txSeq + 1, buf := x.buf ++ [⟨x.txSeq, k.1, 0⟩] }) m)) s))) ∧
    (∀ (f : Flit) (fec : FecSeen),
      let bs := toBytes 256 f.toNat
      let ks : BitVec 16 := BitVec.ofNat 16 (numAt bs 0 2)
      let ak : BitVec 16 := BitVec.ofNat 16 (numAt bs 2 2)
      let body := (bs.drop 8).take 244
      let seen (x : Port) : Port := (takeFec fec x).2
      ((takeFec fec x).1 = true →
        exec (.vzlFlit pf f fec) s = .next (after (modPort p (fun x => oweNak (seen x))) s)) ∧
      ((takeFec fec x).1 = false → (crc32c (bs.take 252)).toNat = numAt bs 252 4 →
      (fld ks 12 4 = 0 → numAt body 0 1 = 0 → exec (.vzlFlit pf f fec) s = .next (after (modPort p (fun x => takeAck ak (seen x))) s)) ∧
      (fld ks 12 4 = 0 → numAt body 0 1 ≠ 0 →
        exec (.vzlFlit pf f fec) s = .next (after (fun m => badMsg p (modPort p (fun x => takeAck ak (seen x)) m)) s)) ∧
      (4 ≤ (fld ks 12 4).toNat →
        exec (.vzlFlit pf f fec) s = .next (after (fun m => badMsg p (modPort p (fun x => oweNak (seen x)) m)) s)) ∧
      (∀ n, fld ks 12 4 = 1 → fld ks 0 12 = x.rxSeq → numAt body 0 1 ≠ 0 → msgLength body = some n →
        msgKind (numAt body 0 1) = 1 → numAt (body.drop n) 0 1 = 0 →
        exec (.vzlFlit pf f fec) s = .next (after (fun m => dispatch p (body.take n)
          (modPort p (fun x => { takeAck ak (seen x) with rxSeq := x.rxSeq + 1, ackv := true, nakSent := false })
            m)) s)))) ∧
    (exec (.idleFlitTimer pf) s = .next (after (modPort p (fun x => { x with idleDue := true })) s)) ∧
    (x.buf ≠ [] → exec (.replayTimeout pf) s = .next (after (modPort p (fun x => { x with resend := some 0 })) s))

/-- R319 to R321, R324: RTREQ, and a trigger of a lane's errors, take the token of the lane group when it is free and
send the request; a request from the partner is granted at once when this end retrains nothing; a grant starts the
retraining; a lane counts once in a round; a lane that is done sends the done message, releases its token and waits for the next round start; the
partner's done message ends its retraining; a lane that fails is excluded at the granting end too. A temperature within 12 degrees of the training's starts nothing.
Readings and choices of the model's own in it: log entries 33 and 36. -/
def Obligations.LanesRetrainLive : Prop :=
  ∀ (pf : Fin 64) (ln : Fin 16) (s : State),
    let p := pf.val
    let x := portAt s.m p
    let tok := tokLane p (ln.val / 4)
    let idle := x.state = 6 ∧ x.rt = none ∧ x.rtHold = false ∧ x.rtQueue = [] ∧ bit x.active ln.val = true ∧
      tokenFree s.m.mnt.acts tok = true
    let asked (t : State) := t.pending = s.pending ∧ (portAt t.m p).rt = some (ln.val, .requested) ∧
      (portAt t.m p).mgmt = x.mgmt ++ [retrainMsg 0x35 ln.val] ∧ (portAt t.m p).rtQueue = [] ∧
      (∃ a, holderOf t.m.mnt.acts tok = some a ∧ a.code = 4) ∧ ∀ j, j ≠ p → portAt t.m j = portAt s.m j
    (∀ v : Word, Served s.m (0x108100 + 0x40 * p) → portLicensed s.m p = true → x.en = bit v 0 → (fld v 12 4).toNat = ln.val →
      idle → ∃ t, exec (.prtRtreq pf v) s = .next t ∧ asked t) ∧
    (x.livert = true → idle → ∃ t, exec (.laneRetrainTrigger pf (.errors ln)) s = .next t ∧ asked t) ∧
    (∀ c : Byte, (c.toInt - x.traint.toInt).natAbs ≤ 12 →
      exec (.laneRetrainTrigger pf (.temperature c)) s = .next (after (modPort p (fun x => { x with temp := c })) s)) ∧
    (∀ (l : Nat) (m : Mach),
      (bit (portAt m p).rtSeen l = true → countRetrain p l m = m) ∧
      (bit (portAt m p).rtSeen l = false → countRetrain p l m =
        modRnd (fun r => { r with varRun := { r.varRun with retrain := satInc r.varRun.retrain } })
          (modPort p (fun x => { x with rtSeen := setBit x.rtSeen l }) m))) ∧
    (∀ m : BitVec 64, x.state = 6 → x.rt = none →
      exec (.retrainRequest pf m) s = .next (after (fun k => countRetrain p (rtLane m) (modPort p (fun x => { x with
        rtPeer := some (rtLane m), rtPeerWait := none, rtLaneReg := fld m 8 4, mgmt := x.mgmt ++ [retrainMsg 0x36 (rtLane m)] }) k)) s)) ∧
    (∀ m : BitVec 64, x.rt = some (rtLane m, .requested) →
      exec (.retrainGrant pf m) s = .next (after (fun k => countRetrain p (rtLane m) (modPort p (fun x => { x with
        rt := some (rtLane m, .granted), rtLaneReg := fld m 8 4 }) k)) s)) ∧
    (∀ a, x.rt = some (ln.val, .granted) → x.rtPeerWait = none → findActivity s.m 4 p ln.val = some a →
      ∃ t, exec (.laneRetrainComplete pf true) s = .next t ∧ t.pending = s.pending ∧ (portAt t.m p).rt = none ∧
        (portAt t.m p).rtHold = true ∧ (portAt t.m p).mgmt = x.mgmt ++ [retrainMsg 0x37 ln.val] ∧
        bit (portAt t.m p).evt 2 = true ∧ t.m.mnt.acts = s.m.mnt.acts.filter (fun b => b.handle != a.handle)) ∧
    (∀ m : BitVec 64, x.rtPeer = some (rtLane m) →
      exec (.retrainDone pf m) s = .next (after (fun k => raiseIrq 5 (noteRaise (0x108120 + 0x40 * p) 2 (modPort p (fun x => { x with
        rtPeer := none, evt := setBit x.evt 2 }) k))) s)) ∧
    (x.rt = none → x.rtPeer = some ln.val → bit x.failed ln.val = false →
      ∃ t, exec (.laneRetrainComplete pf false) s = .next t ∧ t.pending = s.pending ∧ (portAt t.m p).rtPeer = none ∧
        bit (portAt t.m p).failed ln.val = true)

namespace Sys2Proof.Spec

open Sys2Proof.Machine

/-- A remote-access message of a port is this module's (R335): its port is active, the module discards nothing, has an
ID, and the message names it. -/
def Mine (s : Mach) (p : Nat) (dst : BitVec 16) : Prop :=
  portActive s p = true ∧ deaf s = false ∧ s.ctl.assigned = true ∧ dst = s.ctl.id

/-- A window that admits its partner's access of n bytes at an offset (R347, R349). -/
def Opens (s : Mach) (w : BitVec 256) (src rnd : BitVec 16) (off : BitVec 64) (sepoch : Word) (n : Nat) : Prop :=
  isLate s rnd = false ∧ wnValid w = true ∧ wnVoid w = false ∧ wnCores w = false ∧ src = wnPartner w ∧
    sepoch = wnEpoch w ∧ off.toNat + n ≤ wnSize w ∧ stackOut s (stackOf (wnBase w)) = false

/-- Port p sends a sequenced message on its own link: its partner is the target, and its queue has room (R318, R367). -/
def Reaches (s : Mach) (p : Nat) (m : Msg) : Prop :=
  directTo s p (msgDst m) = true ∧ flitsFor ((portAt s p).txq ++ [m]) ≤ 1024

/-- A message joins a port's sequenced queue. -/
def queued (p : Nat) (m : Msg) : Mach → Mach := modPort p (fun x => { x with txq := x.txq ++ [m] })

/-- Port p sends a row on a rim link in a phase (R215, R301, R343 to R345). -/
def rowOut (p link phase : Nat) (row : Row) (poison rej : Bool) : Mach → Mach :=
  rimSend (32 + p) (portDie p) (portSide (p % 32)) link phase ⟨row, poison, rej⟩

/-- The code words of n bytes at an edge address read clean (R387). -/
def CleanEdge (s : Mach) (ea n : Nat) : Prop := ∀ cw, ea / 32 ≤ cw → cw ≤ (ea + n - 1) / 32 → (edgeDecode s cw).2 = .clean

end Sys2Proof.Spec

/-- R215, R217, R301, R343 to R345, R348, R356: a remote block of one message that comes on a link and phase of the port leaves as
RREAD or RWRITE on its own link, and a write is answered on the rim link at once; a flit that comes on another link is not taken; an RWRITE for this module that its window admits stores exactly its data; an RREAD
is answered with the bytes of the window; an answer that completes a row sends the row to the core; a read without an
answer by the second round start ends with cause 8.
Readings and choices of the model's own in it: log entries 15, 34 and 48. -/
def Obligations.RemoteAccessReachesItsWindow : Prop :=
  ∀ (pf : Fin 64) (s : State),
    let p := pf.val
    (∀ (ln : Fin 16) (ph : Fin 4) (f : Row),
      let ra := dB f 8 8 % 2 ^ 62
      let n := rqRunlen f
      let rid := s.m.rmt.nextRid
      let msg : Msg := .rread { src := s.m.ctl.id, dst := raTarget ra, window := BitVec.ofNat 16 (raWindow ra)
                                offset := BitVec.ofNat 64 (raOffset ra), sepoch := s.m.epoch
                                stag := BitVec.ofNat 32 (dB f 4 4), round := (roundNow s.m).setWidth 16, hops := 0
                                len8 := BitVec.ofNat 8 (n / 8), rid := rid }
      portLink s.m p ln.val ph.val = true → dB f 0 1 = 0x11 → refuseBlock s.m p f = 0 → rqNrun f = 1 → 1 ≤ n → n ≤ 128 → s.m.rmt.reads = [] →
      Reaches s.m p msg →
      ∃ t, exec (.remoteReadRequest pf ln ph f) s = .next t ∧ ∃ r : RemRead, t.m.rmt.reads = [r] ∧
        t = after (fun m => queued p msg (modRmt (fun x => { x with nextRid := rid + 1, reads := [r] }) m)) s ∧
        r.port = p ∧ r.link = dB f 2 1 % 16 ∧ r.phase = dB f 2 1 / 16 % 4 ∧ r.runlen = n ∧ r.nrun = 1 ∧ r.sent = 0 ∧
        r.failed = false ∧ r.mlc = dB f 22 2 ∧ r.msgs = [⟨0, 0, n, rid, some (roundNow s.m), none⟩]) ∧
    (∀ (ln : Fin 16) (ph : Fin 4) (f row : Row),
      let ra := dB f 8 8 % 2 ^ 62
      let msg : Msg := .rwrite { src := s.m.ctl.id, dst := raTarget ra, window := BitVec.ofNat 16 (raWindow ra)
                                 offset := BitVec.ofNat 64 (raOffset ra), sepoch := s.m.epoch
                                 stag := BitVec.ofNat 32 (dB f 4 4), round := (roundNow s.m).setWidth 16, hops := 0
                                 data := toBytes 64 row.toNat }
      portLink s.m p ln.val ph.val = true → portLink s.m p (dB f 2 1 % 16) (dB f 2 1 / 16 % 4) = true →
      dB f 0 1 = 0x12 → refuseBlock s.m p f = 0 → rqNrun f = 1 → rqRunlen f = 64 → Reaches s.m p msg →
      exec (.remoteWriteRequest pf ln ph f [row]) s = .next (after (fun m =>
        rowOut p (dB f 2 1 % 16) (dB f 2 1 / 16 % 4) 0 false false
          (queued p msg (modRmt (fun r => { r with
            written := if r.written.contains (raTarget ra, BitVec.ofNat 6 p) then r.written
                       else r.written ++ [(raTarget ra, BitVec.ofNat 6 p)] }) m))) s)) ∧
    (∀ (ln : Fin 16) (ph : Fin 4) (f row : Row), portLink s.m p ln.val ph.val = false → rowCount f = 1 →
      exec (.remoteReadRequest pf ln ph f) s = .next s ∧ exec (.remoteWriteRequest pf ln ph f [row]) s = .next s) ∧
    (∀ m : RWriteMsg,
      let w := tget 0 s.m.rmt.win (m.window.toNat % 1024)
      let ea := wnBase w + m.offset.toNat
      m.wf = true → Mine s.m p m.dst → Opens s.m w m.src m.round m.offset m.sepoch m.data.length → wnPw w = true →
      wnPa w = false → m.offset.toNat % 32 = 0 → m.data.length % 32 = 0 → ea % 32 = 0 →
      (stkAt s.m (stackOf ea)).retQ = 0x3F → stackOf (ea + m.data.length - 1) = stackOf ea →
      ∃ t, exec (.rwrite pf m) s = .next t ∧ t.pending = s.pending ∧
        rdBytes t.m.edge.mem ea m.data.length = m.data ∧
        (∀ a, (a < ea ∨ ea + m.data.length ≤ a) → rd t.m.edge.mem a = rd s.m.edge.mem a) ∧
        (Unhurried s.m (stackOf ea) 2 ea → ea % 256 + m.data.length ≤ 256 →
          (stkAt t.m (stackOf ea)).rmu = satInc (stkAt s.m (stackOf ea)).rmu) ∧
        t.m.rmt = s.m.rmt ∧ t.m.ports = s.m.ports ∧ t.m.cores = s.m.cores) ∧
    (∀ (m : RReadMsg) (e : Nat),
      let w := tget 0 s.m.rmt.win (m.window.toNat % 1024)
      let ea := wnBase w + m.offset.toNat
      let n := 8 * m.len8.toNat
      let ans (h : Byte) : Msg :=
        .rdata { src := s.m.ctl.id, dst := m.src, hops := h, status := 0, rid := m.rid, data := rdBytes s.m.edge.mem ea n }
      m.wf = true → Mine s.m p m.dst → Opens s.m w m.src m.round m.offset m.sepoch n → wnPr w = true →
      m.offset.toNat % 8 = 0 → CleanEdge s.m ea n → routePort s.m m.src = some e →
      flitsFor ((portAt s.m e).txq ++ [ans 1]) ≤ 1024 →
      exec (.rread pf m) s = .next (after (fun x =>
        queued e (ans 1) (useUnits 2 ea n x)) s)) ∧
    (∀ (m : RDataMsg) (r : RemRead) (q : ReadMsg),
      m.wf = true → Mine s.m p m.dst → m.status = 0 → s.m.rmt.reads = [r] → r.msgs = [q] → q.run = 0 → q.pos = 0 →
      q.len = r.runlen → q.rid = m.rid → q.issued.isSome → q.answer = none → r.nrun = 1 → 1 ≤ r.runlen → r.runlen ≤ 64 →
      r.sent = 0 → r.failed = false → r.link < 16 → r.phase < 4 → portLink s.m r.port r.link r.phase = true →
      m.data.length = r.runlen →
      exec (.rdata pf m) s = .next (after (fun x => modRmt (fun y => { y with reads := [] })
        (rowOut r.port r.link r.phase (BitVec.ofNat 512 (ofBytes m.data)) false false x)) s)) ∧
    (∀ (rid : Word) (r : RemRead) (q : ReadMsg) (i : BitVec 48),
      s.m.rmt.reads = [r] → r.msgs = [q] → q.run = 0 → q.pos = 0 → q.len = r.runlen → q.rid = rid → q.issued = some i →
      i.toNat + 2 ≤ (roundNow s.m).toNat → q.answer = none → r.nrun = 1 → 1 ≤ r.runlen → r.runlen ≤ 64 → r.sent = 0 →
      r.failed = false → r.link < 16 → r.phase < 4 → portLink s.m r.port r.link r.phase = true →
      exec (.rreadTimeout pf rid) s = .next (after (fun x => modRmt (fun y => { y with reads := [] })
        (rowOut r.port r.link r.phase 8 true true x)) s))

/-- R349, R351, R356, R357, R359, R371: an LNACK is recorded, marks RMT_EVT and is an uncorrected fault; an FPROBE is
owed an FACK with the rejections counted since the last one, which clears the count; the FACK of the last path ends the
fence without an error, and one that reports an error ends it at once; a fence open at the second round start ends as a timeout;
late writes leave the queue, and one in the replay buffer is reported; PTN_SEL and WIN_SEL latch the selected entries, with a
direct entry of a twin port at its other port; SYS_TWIN waits for the next round start, or takes force at once, and in KEEP and
LOCKSTEP leaves no remote-access message at a twin port.
Readings and choices of the model's own in it: log entries 34 and 40. -/
def Obligations.FencesNacksAndSelections : Prop :=
  ∀ (pf : Fin 64) (s : State),
    let p := pf.val
    (∀ m : BitVec 256, Mine s.m p (lnackDst m) → s.m.rmt.nackValid = false →
      ∃ t, exec (.lnack pf m) s = .next t ∧ t.pending = s.pending ∧ t.m.rmt.nackValid = true ∧
        t.m.rmt.nackCause = fld m 8 8 ∧ t.m.rmt.nackSrc = lnackSrc m ∧ t.m.rmt.nackTag = fld m 128 32 ∧
        t.m.rmt.nackRound = fld m 160 16 ∧ bit t.m.rmt.evt 6 = true ∧ t.m.keep.faulted = true) ∧
    (∀ m : BitVec 128, Mine s.m p (fld m 32 16) →
      let src : BitVec 16 := fld m 16 16
      (∀ n, s.m.rmt.rejects = [(src, BitVec.ofNat 6 p, n)] →
        exec (.fprobe pf m) s = .next (after (modRmt (fun r => { r with
          probes := r.probes ++ [(src, BitVec.ofNat 6 p, fld m 64 32, n)], rejects := [] })) s)) ∧
      ((∀ x ∈ s.m.rmt.rejects, x.1 ≠ src) →
        exec (.fprobe pf m) s = .next (after (modRmt (fun r => { r with
          probes := r.probes ++ [(src, BitVec.ofNat 6 p, fld m 64 32, 0)] })) s))) ∧
    (∀ (src n : BitVec 16) (rnd : Word),
      let rej : Byte := if n = 0 then 0 else 1
      let msg : Msg := .fack (BitVec.ofNat 128 (ofBytes (toBytes 1 0x45 ++ [rej] ++ bytesOf s.m.ctl.id ++ bytesOf src ++
        toBytes 2 0 ++ bytesOf rnd ++ bytesOf n ++ toBytes 2 0)))
      s.m.rmt.probes = [(src, BitVec.ofNat 6 p, rnd, n)] → Reaches s.m p msg →
      exec (.fackSend pf src) s = .next (after (fun x => queued p msg
        (modRmt (fun r => { r with probes := [] }) x)) s)) ∧
    (∀ (m : BitVec 128) (f : Fence), Mine s.m p (fld m 32 16) → s.m.rmt.fences = [f] →
      f.awaited = [(fld m 16 16, BitVec.ofNat 6 p)] → f.round.setWidth 32 = fld m 64 32 → f.failed = false →
      f.owed = [] → fld m 8 8 = 0 → (∀ n ∈ s.m.rmt.nacked, upTo n f.round = false) →
      exec (.fack pf m) s = .next (after (modRmt (fun r => { r with
        fences := [], sysfLast := 1, sysfRound := f.round.setWidth 16, sysfProbed := f.probed })) s)) ∧
    (∀ (m : BitVec 128) (f : Fence), Mine s.m p (fld m 32 16) → s.m.rmt.fences = [f] → f.probed ≠ 0 →
      (fld m 16 16, BitVec.ofNat 6 p) ∈ f.awaited → f.round.setWidth 32 = fld m 64 32 → fld m 8 8 ≠ 0 →
      ∃ t, exec (.fack pf m) s = .next t ∧ t.pending = s.pending ∧ t.m.rmt.fences = [] ∧ t.m.rmt.sysfLast = 2 ∧
        t.m.rmt.sysfRound = f.round.setWidth 16 ∧ bit t.m.rmt.evt 7 = true ∧ t.m.keep.faulted = true) ∧
    (∀ f : Fence, s.m.rmt.fences = [f] → f.round.toNat + 2 ≤ (roundNow s.m).toNat →
      ∃ t, exec .systemFenceTimeout s = .next t ∧ t.pending = s.pending ∧ t.m.rmt.fences = [] ∧ t.m.rmt.sysfLast = 3 ∧
        t.m.rmt.sysfRound = f.round.setWidth 16 ∧ bit t.m.rmt.evt 7 = true ∧ t.m.keep.faulted = true) ∧
    (∀ w : RWriteMsg, (.rwrite w ∈ (portAt s.m p).txq ∨ ∃ f ∈ (portAt s.m p).buf, .rwrite w ∈ f.msgs) → isLate s.m w.round = true → bit w.window 15 = false →
      ∃ t, exec (.lateWriteScan pf) s = .next t ∧ t.pending = s.pending ∧ bit t.m.rmt.evt 4 = true ∧
        t.m.keep.faulted = true ∧
        ∀ v : RWriteMsg, .rwrite v ∈ (portAt t.m p).txq → isLate s.m v.round = true → bit v.window 15 = true) ∧
    (∀ v : Word,
      (Served s.m 0x10C004 → exec (.ptnSelWrite v) s = .next (accessed (modRmt (fun r => { r with
        ptnSel := fld v 0 12
        ptnE := ptnWord (shownPort s.start (tget Ptn.reset s.start.rmt.ptn (fld v 0 12).toNat)) })) s)) ∧
      (Served s.m 0x10C020 → exec (.winSelWrite v) s = .next (accessed (modRmt (fun r => { r with
        winSel := fld v 0 10, winE := tget 0 s.start.rmt.win (fld v 0 10).toNat })) s)) ∧
      (let m := fld v 0 2
       Served s.m 0x5000 → m ≠ 3 → (m = 1 → bit s.m.start.features 2 = true) →
       (m = 2 → bit s.m.start.features 3 = true) → (m ≠ 0 → s.m.sys.ok = true) → s.m.sec.cur = none →
       s.m.sec.switch = none → s.m.keep.sealing = none → s.m.keep.keeping = none → s.m.keep.rest = none →
       s.m.keep.serve = none →
       (atOnce s.m = false → exec (.sysTwinWrite v) s =
         .next (accessed (modSys (fun x => { x with twinReq := m, twinPend := some m })) s)) ∧
       (atOnce s.m = true → ∃ t, exec (.sysTwinWrite v) s = .next t ∧ t.pending = s.pending ∧
         t.m.sys.twinReq = m ∧ t.m.sys.twinMode = m ∧ t.m.sys.twinPend = none ∧ bit t.m.sys.evt 1 = true ∧
         t.m.edge.keepEn = (m == 1) ∧
         (m ≠ 0 → ∀ q ∈ [30, 31, 62, 63], ∀ x ∈ (portAt t.m q).txq, plainAccess x = false))))

namespace Sys2Proof.Spec

open Sys2Proof.Machine

/-- The checker test of a die may act (R403, R410): its token is held for the test, no section is loaded, the core exists
and the address lies in the array. The code word is at `w` of array `arr`, core `k`. -/
def CheckerOn (s : Mach) (die : Fin 144) (v : Word) (k arr w : Nat) : Prop :=
  Served s (0x407020 + 0x10000 * die.val) ∧
    (∃ a, holderOf s.mnt.acts (tokDie die.val) = some a ∧ a.code = 5) ∧ (dieAt s die.val).sec.cur = 0 ∧
    (fld v 20 8).toNat < 208 ∧ k = die.val * 208 + (fld v 20 8).toNat ∧ arr = (fld v 28 2).toNat ∧
    chkWord arr (dieAt s die.val).prot.chkAddr.toNat = some w

/-- The fields of CHK_CTRL that every operation writes. -/
def chkFieldsOf (v : Word) (p : Prot) : Prot :=
  { p with chkRefused := p.chkRefused && !bit v 30, chkArray := fld v 28 2, chkPc := fld v 20 8 }

/-- The checker of edge memory may act (R403, R413): the token of the group is held for it, and the code word and the
symbol exist. -/
def EdgeCheckerOn (s : Mach) (v : Word) (cw : Nat) : Prop :=
  Served s 0x100020 ∧ s.edge.chkEa.toNat = 32 * cw ∧ (fld v 22 6).toNat < 40 ∧
    (stkAt s (stackOf (32 * cw))).failed = false ∧ (s.edge.keepEn && inKeep (32 * cw) 32) = false ∧
    ∃ a, holderOf s.mnt.acts (tokGroup (stackOf (32 * cw)) (groupOf (32 * cw))) = some a ∧ a.code = 2

end Sys2Proof.Spec

/-- R392, R396, R403, R409, R410: a scrub read of words without an error advances its scrubber and nothing else; a
write-back, which waits while the die's token is held, leaves every correctable word it holds corrected and without a syndrome;
LOGCLR clears the die's log, in which an error of the same cycle stays; the
checker test stores the given data and check bits in one code word, reads them raw, and reads through the decoder.
Readings and choices of the model's own in it: log entries 35 and 36. -/
def Obligations.DieArraysAreScrubbedAndTested : Prop :=
  ∀ s : State,
    (∀ (k : CoreId) (arr : ScrubArr),
      let i := scrubIdx arr
      let c := coreAt s.m k.key
      let n := tget 0 c.scrubAt i
      let x := scrubPlace i n
      present s.m k.key = true → (dieAt s.m (dieOf k.key)).prot.scrub = true → dieTokenHeld s.m (dieOf k.key) = false →
      (∀ j, j < x.2.2.2 → tget 0 c.synd (syndKey x.1 (x.2.1 + x.2.2.1 * j)) = 0) →
      exec (.scrubRead k arr) s = .next (after (modCore k.key (fun c =>
        { c with scrubAt := tset 0 c.scrubAt i ((n + 1) % scrubCount i) })) s)) ∧
    (∀ (k : CoreId) (arr : ScrubArr) (a : Nat) (rest : List Nat),
      let i := scrubIdx arr
      let c := coreAt s.m k.key
      let x := scrubPlace i 0
      tget [] c.scrubWb i = a :: rest →
      (dieTokenHeld s.m (dieOf k.key) = true → exec (.scrubWriteback k arr) s = .next s) ∧
      (dieTokenHeld s.m (dieOf k.key) = false → dead s.m k.key = false →
      ∃ t, exec (.scrubWriteback k arr) s = .next t ∧ t.pending = s.pending ∧ (∃ f, t.m = modCore k.key f s.m) ∧
        tget [] (coreAt t.m k.key).scrubWb i = rest ∧
        ∀ j, j < x.2.2.2 → ∀ v e, readWord c x.1 (a + x.2.2.1 * j) = (v, [e]) → e.ue = false →
          readWord (coreAt t.m k.key) x.1 (a + x.2.2.1 * j) = (v, []))) ∧
    (∀ (die : Fin 144) (v : Word), Served s.m (0x407000 + 0x10000 * die.val) →
      let cleared (l : List (Nat × LogEntry)) : State := accessed (modDie die.val (fun d => { d with prot := { d.prot with
        gap := fld v 16 16, scrub := bit v 0, log := l } })) s
      ((∀ e ∈ s.m.notes.cores, e.1 ≠ die.val) → exec (.logclr die v) s = .next (cleared [])) ∧
      (∀ n, s.m.notes.cores = [(die.val, n)] → exec (.logclr die v) s = .next (cleared [(0, n)]))) ∧
    (∀ (die : Fin 144) (v : Word) (k arr w : Nat), CheckerOn s.m die v k arr w →
      let p := (dieAt s.m die.val).prot
      let c := coreAt s.m k
      (let data := p.chkData.toNat % 2 ^ wordBits arr
       let width := if arr = 0 then 5 else if arr = 1 then 8 else 7
       dead s.m k = false ∨ arr = 2 → ∃ t, exec (.chkRawWrite die v) s = .next t ∧ t.pending = s.pending ∧
         (dieAt t.m die.val).prot = chkFieldsOf v p ∧ rawData (coreAt t.m k) arr w = data ∧
         (tget 0 (coreAt t.m k).synd (syndKey arr w)).toNat =
           (p.chkCheck.toNat % 2 ^ width) ^^^ checkBits arr data ∧
         (∀ x, x ≠ syndKey arr w → tget 0 (coreAt t.m k).synd x = tget 0 c.synd x) ∧
         (coreAt t.m k).p = c.p ∧ ∀ j, j ≠ k → coreAt t.m j = coreAt s.m j) ∧
      (dead s.m k = true → arr < 2 → exec (.chkRawWrite die v) s =
        .next (accessed (modDie die.val (fun d => { d with prot := chkFieldsOf v d.prot })) s)) ∧
      (exec (.chkRawRead die v) s = .next (accessed (modDie die.val (fun d => { d with prot :=
        { chkFieldsOf v d.prot with
          chkData := BitVec.ofNat 64 (rawData c arr w), chkSyn := tget 0 c.synd (syndKey arr w)
          chkCheck := BitVec.ofNat 8 (checkBits arr (rawData c arr w)) ^^^ tget 0 c.synd (syndKey arr w) } })) s)) ∧
      (tget 0 c.synd (syndKey arr w) = 0 →
        exec (.chkCheckedRead die v) s = .next (accessed (modDie die.val (fun d => { d with prot :=
          { chkFieldsOf v d.prot with chkData := BitVec.ofNat 64 (rawData c arr w), chkResult := 0 } })) s)))

/-- R396, R403, R404, R405, R413 to R415, R425, R436: EMS_LOGSEL latches an entry, and its CLR empties the log first, but for an error
of the same cycle; the
checker of edge memory replaces one symbol of one code word, reads one, and decodes one, and a check symbol that a poisoned write
left open is known again once it is written; MNT_SEL latches a token's word;
a free token passes to its first waiter, whose command completes when it holds all it needs; a known-answer test on
request marks the core, and its end gives the result.
Readings and choices of the model's own in it: log entry 36. -/
def Obligations.EdgeChecksTokensAndKnownAnswers : Prop :=
  ∀ s : State,
    (∀ (st : Fin 32) (v : Word), Served s.m (0x10012C + 0x40 * st.val) →
      (bit v 31 = false → exec (.emsLogselWrite st v) s = .next (accessed (modStk st.val (fun k => { k with
        logIdx := fld v 0 5, latch := edgeLatch (stkAt s.start st.val) (fld v 0 5).toNat })) s)) ∧
      ((∀ e ∈ s.start.notes.edges, e.1 ≠ st.val) →
        let cleared (l : List (Nat × EdgeLog)) : State := accessed (modStk st.val (fun k => { k with
          log := l, logIdx := fld v 0 5, latch := 0 })) s
        ((∀ e ∈ s.m.notes.edges, e.1 ≠ st.val) → exec (.emsLogClr st v) s = .next (cleared [])) ∧
        (∀ n, s.m.notes.edges = [(st.val, n)] → exec (.emsLogClr st v) s = .next (cleared [(0, n)])))) ∧
    (∀ (v : Word) (cw : Nat), EdgeCheckerOn s.m v cw →
      let i := (fld v 22 6).toNat
      let set (val : Byte) (e : Edge) : Edge :=
        { e with chkRefused := e.chkRefused && !bit v 30, chkPos := fld v 22 6, chkVal := val }
      (∃ t, exec (.edgeRawSymbolWrite v) s = .next t ∧ t.pending = s.pending ∧
        symbols t.m cw = (symbols s.m cw).set i (fld v 8 8) ∧
        tget 0 t.m.edge.poison cw =
          (if i < 32 then tget 0 s.m.edge.poison cw else clrBit (tget 0 s.m.edge.poison cw) (i - 32)) ∧
        (∀ a, (a < 32 * cw ∨ 32 * cw + 32 ≤ a) → rd t.m.edge.mem a = rd s.m.edge.mem a) ∧ t.m.cores = s.m.cores) ∧
      (i < 32 ∨ bit (tget 0 s.m.edge.poison cw) (i - 32) = false →
        exec (.edgeRawSymbolRead v) s = .next (accessed (fun m => useUnits 2 (32 * cw) 32
          (modEdge (set ((symbols s.m cw).getD i 0)) m)) s)) ∧
      ((edgeDecode s.m cw).2 = .clean →
        exec (.edgeCheckedRead v) s = .next (accessed (fun m => useUnits 2 (32 * cw) 32
          (modEdge (fun e => { set (fld v 8 8) e with chkResult := 0 }) m)) s))) ∧
    (∀ v : Word, Served s.m 0x6000 → exec (.mntSelWrite v) s = .next (accessed (modMnt (fun m => { m with
        sel := fld v 0 10, tok := tokWord s.start (fld v 0 10).toNat })) s)) ∧
    (∀ (tok : Fin 528) (a : Activity) (rest : List Activity), holderOf s.m.mnt.acts tok.val = none →
      waiters s.m.mnt.acts tok.val = a :: rest → a.tokens.length = a.held + 1 → a.code ≠ 1 → a.code ≠ 4 →
      exec (.tokenGranted tok) s = .next (after (fun m => completeOpt a.owed 0 a.handle.toNat
        (modMnt (fun x => { x with
          acts := x.acts.filter (fun b => b.handle != a.handle) ++ [{ a with held := a.held + 1 }] }) m)) s)) ∧
    (∀ (die : Fin 144) (v : Word), Served s.m (0x408000 + 0x10000 * die.val) → (dieAt s.m die.val).sec.cur = 0 →
      (dieAt s.m die.val).csl.busy = false → (fld v 8 8).toNat < 208 →
      exec (.katRequest die v) s = .next (accessed (fun m =>
        modCore (die.val * 208 + (fld v 8 8).toNat) (fun c => { c with mx := { c.mx with kat := true } })
          (modDie die.val (fun d => { d with csl := { d.csl with
            refused := d.csl.refused && !bit v 30, kpc := fld v 8 8, busy := true } }) m)) s)) ∧
    (∀ die : Fin 144, (dieAt s.m die.val).csl.busy = true →
      let l := (dieAt s.m die.val).csl
      exec (.katComplete die true) s = .next (after (fun m =>
        modDie die.val (fun d => { d with csl := { d.csl with busy := false, result := 1 } })
          (modCore (die.val * 208 + l.kpc.toNat) (fun c => { c with mx := { c.mx with kat := false } }) m)) s) ∧
      ∃ t, exec (.katComplete die false) s = .next t ∧ t.pending = s.pending ∧
        (dieAt t.m die.val).csl = { l with busy := false, result := 2, evt := setBit l.evt 4 } ∧
        bit t.m.host.irqCause 10 = true)

/-- R428, R429, R438: the twin's digest of a round that awaits it is compared; equal digests only end the wait, different
ones raise DIVERGE, name the first round and stop the cores when STOP is set; a digest that comes early is kept; one
that has not come by the second round start raises MISSING; LS_CTRL.CLR clears the first divergence.
Readings and choices of the model's own in it: log entry 40. -/
def Obligations.TwinsAreComparedInLockstep : Prop :=
  ∀ s : State,
    (∀ (pf : Fin 64) (r : Word) (dig : BitVec 64),
      comparing s.m = true → twinPort pf.val = true → portActive s.m pf.val = true →
      (∀ m own n, s.m.ls.await = [(m, own, n)] → m.setWidth 32 = r → n < 2 →
        (own = dig → exec (.lockstepDigest pf r dig) s =
          .next (after (modLs (fun l => { l with twin := dig, await := [] })) s)) ∧
        (own ≠ dig → ∃ t, exec (.lockstepDigest pf r dig) s = .next t ∧ t.pending = s.pending ∧
          t.m.ls = { s.m.ls with
            twin := dig, await := [], evt := setBit s.m.ls.evt 0, firstValid := true
            first := if s.m.ls.firstValid then s.m.ls.first else m.setWidth 32
            stopped := s.m.ls.stopped || s.m.ls.stop })) ∧
      (s.m.ls.await = [] → s.m.ls.early = [] → lsAhead s.m r = true →
        exec (.lockstepDigest pf r dig) s = .next (after (modLs (fun l => { l with early := [(r, dig)] })) s))) ∧
    ((∃ e ∈ s.m.ls.await, 2 ≤ e.2.2) →
      ∃ t, exec .lockstepDigestMissing s = .next t ∧ t.pending = s.pending ∧
        t.m.ls = { s.m.ls with
          await := s.m.ls.await.filter (fun e => decide (e.2.2 < 2)), evt := setBit s.m.ls.evt 1 }) ∧
    (∀ v : Word, Served s.m 0x5040 →
      exec (.lsCtrlClr v) s = .next (accessed (modLs (fun l => { l with stop := bit v 0, firstValid := false })) s))

namespace Sys2Proof.Spec

open Sys2Proof.Machine

/-- A keep message is this module's: its port is active and it names the module (R335, R443). -/
def KeepMine (s : Mach) (p : Nat) (dst : BitVec 16) : Prop :=
  portActive s p = true ∧ s.ctl.assigned = true ∧ dst = s.ctl.id

/-- The keeper's session takes a message of its sealer (R442, R443). -/
def Keeps (s : Mach) (g : Keeping) (src : BitVec 16) (sepoch : Word) (w : BitVec 16) : Prop :=
  s.keep.keeping = some g ∧ g.peer = src ∧ g.epoch = sepoch ∧ fld w 6 8 = 0 ∧ kmDir w = false ∧ kmSlot w = g.slot

/-- No seal and no restore is in progress (R444). -/
def KeepIdle (s : Mach) : Prop :=
  s.keep.sealing = none ∧ s.keep.keeping = none ∧ s.keep.rest = none ∧ s.keep.serve = none

end Sys2Proof.Spec

/-- R439, R442 to R447: a keep write of the sealer to the keeper's slot stores its data in the slot area of its stack, counts the extent
bytes and takes them into the stack's checksum; the sealer's first read of the header is held until the open record is in the
ledger; a sealer whose first slot the keeper refuses asks for the other one; the keeper's answer after
its commit record makes the sealer write its own.
Readings and choices of the model's own in it: log entry 37. -/
def Obligations.KeepMessagesDriveTheSeal : Prop :=
  ∀ (pf : Fin 64) (s : State),
    let p := pf.val
    (∀ (m : RWriteMsg) (g : Keeping),
      let st := kmStack m.window
      let ea := slotEa g.slot st m.offset.toNat
      let n := m.data.length
      m.wf = true → KeepMine s.m p m.dst → Keeps s.m g m.src m.sepoch m.window → g.opened = true → g.ask = none →
      m.offset.toNat % 32 = 0 → n % 32 = 0 → m.offset.toNat + n ≤ 2 ^ 33 → stackOut s.m st = false →
      (stkAt s.m st).retQ = 0x3F →
      ∃ t, exec (.keepRwrite pf m) s = .next t ∧ t.pending = s.pending ∧ rdBytes t.m.edge.mem ea n = m.data ∧
        (∀ a, (a < ea ∨ ea + n ≤ a) → rd t.m.edge.mem a = rd s.m.edge.mem a) ∧
        t.m.keep = { s.m.keep with keeping := some (if st ≠ 0 ∨ 65536 ≤ m.offset.toNat then
            { g with started := true, got := g.got + n, crcs := addCrc st m.data g.crcs }
          else { g with started := true }) } ∧ t.m.rmt = s.m.rmt) ∧
    (∀ (m : RReadMsg) (g : Keeping),
      m.wf = true → KeepMine s.m p m.dst → Keeps s.m g m.src m.sepoch m.window → g.opened = false → g.ask = none →
      exec (.keepRread pf m) s = .next (after (fun x =>
        slotEvent 0 g.slot x.trn.step (slotOf x.keep g.slot).id (slotOf x.keep g.slot).serial
          (modKeep (fun k => { k with keeping := some { g with started := true, ask := some (.opened, m), need := 0 } }) x)) s)) ∧
    (∀ (m : RDataMsg) (x : Seal), m.keepWf = true → KeepMine s.m p m.dst → s.m.keep.sealing = some x → x.peer = m.src →
      x.rid = m.rid → x.stage = .opening → x.second = false → m.status.toNat % 128 = 3 →
      ∃ t, exec (.keepRdata pf m) s = .next t ∧ t.pending = s.pending ∧ t.m.rmt.nextRid = s.m.rmt.nextRid + 1 ∧
        t.m.keep = { s.m.keep with
          sealing := some { x with slot := !x.slot, second := true, rid := s.m.rmt.nextRid } }) ∧
    (∀ (m : RDataMsg) (x : Seal),
      m.keepWf = true → KeepMine s.m p m.dst → s.m.keep.sealing = some x → x.peer = m.src → x.rid = m.rid →
      x.stage = .committing → m.status.toNat % 128 = 0 →
      exec (.keepRdata pf m) s = .next (after (fun y =>
        slotEvent 1 x.slot (BitVec.ofNat 32 (numAt x.header 4 4)) y.ctl.id y.start.serial
          (modKeep (fun k => { k with sealing := some { x with stage := .recording } }) y)) s))

/-- R447: when 10 ms pass without a message of the peer, a keeper's session ends, an uncorrected fault; so does a seal that
waits for its keeper, with 0x03, and a restore ends with 0x03. A slot's record that waits more than 1 s for energy ends its seal
with 0x07, an uncorrected fault, and no such record stays in the queue.
Readings and choices of the model's own in it: log entry 37. -/
def Obligations.SealsAndRestoresTimeOut : Prop :=
  ∀ s : State,
    (∀ g : Keeping, s.m.keep.sealing = none → s.m.keep.keeping = some g → s.m.keep.rest = none →
      s.m.keep.serve = none →
      ∃ t, exec .sealSessionTimeout s = .next t ∧ t.pending = s.pending ∧ t.m.keep.keeping = none ∧
        t.m.keep.faulted = true ∧ t.m.keep.holdNext = true ∧ t.m.keep.slotA = s.m.keep.slotA ∧
        t.m.keep.slotB = s.m.keep.slotB ∧ t.m.edge = s.m.edge) ∧
    (∀ x : Seal, s.m.keep.sealing = some x → x.stage ≠ .armed → x.stage ≠ .recording → s.m.keep.keeping = none →
      ∃ t, exec .sealSessionTimeout s = .next t ∧ t.pending = s.pending ∧ t.m.keep.sealing = none ∧
        t.m.keep.sealStatus = 3 ∧ t.m.keep.faulted = true ∧ t.m.edge = s.m.edge ∧ t.m.cores = s.m.cores) ∧
    (∀ x : Restore, s.m.keep.sealing = none → s.m.keep.keeping = none → s.m.keep.rest = some x →
      ∃ t, exec .sealSessionTimeout s = .next t ∧ t.pending = s.pending ∧ t.m.keep.rest = none ∧
        t.m.keep.restStatus = 3 ∧ t.m.keep.armBad = true ∧ t.m.edge = s.m.edge ∧ t.m.cores = s.m.cores) ∧
    (∀ x : Seal, s.m.keep.sealing = some x → x.stage = .recording → s.m.keep.keeping = none →
      ∃ t, exec .sealEnergyTimeout s = .next t ∧ t.pending = s.pending ∧ t.m.keep.sealing = none ∧
        t.m.keep.sealStatus = 7 ∧ t.m.keep.faulted = true ∧
        ((ringAt t.m x.owed.ring).cmds =
          (ringAt s.m x.owed.ring).cmds.filter (fun c => c.tok != x.owed.tok)) ∧
        (∀ e ∈ t.m.led.protQ, e.cls = 0x50 → numAt e.detail 0 1 = 2))

/-- R444, R456: SEAL arms a seal for its round with the twin as peer and the slot that does not hold the
newest commit; RESTORE opens the session of the target, RESTORE_SERVE that of the keeper of a valid slot; a module may do both at
once. -/
def Sys2Proof.Spec.SealsAndRestoresAreOpened : Prop :=
  ∀ (q : Fin 16) (d : Desc) (c : RunCmd) (s : State),
    let o : Owed := ⟨q.val, c.tok⟩
    (∀ (m : BitVec 48) (id : BitVec 16), Starts s.m q.val d c 0x40 [(8, 6), (16, 8)] →
      cmdRound s.m (verOf s.m q.val c) d 8 = some m → cB d 16 8 < 2 ^ 41 → twinId s.m = some id → s.m.sys.twinMode = 1 →
      KeepIdle s.m → unitsBusy s.m = false → roundStarted s.m m = false →
      ∃ e : Word, exec (.seal q d) s = .next (after (fun x => modKeep (fun k => { k with
          moved := 0
          sealing := some { round := m, peer := id, rid := 0, manifest := cB d 16 8, owed := o, stage := .armed
                            header := [], slot := targetSlot k, second := false }
          keeping := some { peer := id, epoch := e, slot := targetSlot k, started := false, ask := none
                            opened := false, got := 0, crcs := [], need := 0 } }) (started q.val c x)) s) ∧
        ∃ p, (twinUp s.m).head? = some p ∧ e = (portAt s.m p).pepoch) ∧
    (Starts s.m q.val d c 0x41 [(8, 12)] → s.m.keep.sealing = none → s.m.keep.keeping = none → s.m.keep.rest = none →
      exec (.restore q d) s = .next (after (fun x => modKeep (fun k => { k with
        moved := if k.serve.isSome then k.moved else 0, staging := []
        rest := some { keeper := BitVec.ofNat 16 (cB d 8 2), id := BitVec.ofNat 16 (cB d 10 2)
                       epoch := BitVec.ofNat 32 (cB d 12 4), step := BitVec.ofNat 32 (cB d 16 4), owed := o
                       header := false, got := 0, crcs := [], left := none } }) (started q.val c x)) s)) ∧
    (Starts s.m q.val d c 0x42 [(8, 2), (12, 8)] → s.m.keep.sealing = none → s.m.keep.keeping = none → s.m.keep.serve = none →
      s.m.keep.slotA.valid = true → s.m.keep.slotA.step = BitVec.ofNat 32 (cB d 16 4) →
      (keepPort s.m (BitVec.ofNat 16 (cB d 8 2)) 0).isSome →
      CleanEdge s.m (slotEa false 0 0) 65536 → stackOut s.m 0 = false →
      let x : Serve := { target := BitVec.ofNat 16 (cB d 8 2), epoch := BitVec.ofNat 32 (cB d 12 4)
                         step := BitVec.ofNat 32 (cB d 16 4), slot := false, rid := s.m.rmt.nextRid, owed := o }
      ∃ t, exec (.restoreServe q d) s = .next t ∧ t.pending = s.pending ∧
        t.m.keep = { s.m.keep with moved := if s.m.keep.rest.isSome then s.m.keep.moved else 0, serve := some x } ∧
        t.m.rmt.nextRid = s.m.rmt.nextRid + 1 ∧ t.m.edge = s.m.edge)

/-- R440, R454, R574, R575: an export takes the places of its part of the stream from the header of a valid slot; each reference cycle
in which the block idles it writes the data of the next place to the host, and once none is left it completes. An import of a header
that passes its checks begins as a restore; each such cycle it writes its next extent, and once none is left and the checksums of the
data agree with the header's it takes the seed and the step and completes (one place or extent a cycle is the model's choice, log
entry 37). -/
def Sys2Proof.Spec.CheckpointsAreCopiedInParts : Prop :=
  ∀ (q : Fin 16) (d : Desc) (c : RunCmd) (s : State),
    let o : Owed := ⟨q.val, c.tok⟩
    (let slot := cB d 8 1 == 1
     let a := cB d 24 8
     let n := cB d 32 8
     let h := rdBytes s.m.edge.mem (slotEa slot 0 0) 65536
     let x : Export := { owed := o, slot := slot, parts := streamCut a (a + n) (exportPlaces slot h) 0, host := cB d 16 8, taken := true }
     Starts s.m q.val d c 0x51 [(8, 1), (12, 28)] → cB d 8 1 ≤ 1 → cB d 16 8 % 64 = 0 → a % 32 = 0 → n % 32 = 0 →
      (slotOf s.m.keep slot).valid = true → (slotOf s.m.keep slot).step.toNat = cB d 12 4 → stackOut s.m 0 = false →
      CleanEdge s.m (slotEa slot 0 0) 65536 → a + n ≤ 65536 + extBytes (headExtents h) →
      ∃ t, exec (.ckptExport q d true) s = .next t ∧ t.pending = s.pending ∧
        t.m.keep = { s.m.keep with exports := s.m.keep.exports ++ [x] } ∧
        ringAt t.m q.val = ringAt (started q.val c s.m) q.val ∧ t.m.edge = s.m.edge) ∧
    (∀ (x : Export) (ea n : Nat) (rest : List (Nat × Nat)), s.m.keep.exports = [x] → s.m.keep.rest = none →
      x.parts = (ea, n) :: rest → x.taken = true → CleanEdge s.m ea n → stackOut s.m (stackOf ea) = false →
      (copyCycle s.m).out = s.m.out ++ [.hostWrite (BitVec.ofNat 64 x.host) (rdBytes s.m.edge.mem ea n)] ∧
      (copyCycle s.m).keep = { s.m.keep with exports := [{ x with parts := rest, host := x.host + n }] } ∧
      (copyCycle s.m).edge = s.m.edge) ∧
    (∀ x : Export, s.m.keep.exports = [x] → s.m.keep.rest = none → x.parts = [] →
      copyCycle s.m = complete x.owed 0x00 0 (modKeep (fun k => { k with exports := [] }) s.m)) ∧
    (∀ bs : List Byte,
      let h := bs.take 65536
      let es := headExtents h
      let x : Restore := { keeper := 0, epoch := 0, step := BitVec.ofNat 32 (numAt h 4 4), id := 0, owed := o, header := true, got := 0
                           crcs := [], left := some (streamOrder es, bs.drop 65536) }
      Starts s.m q.val d c 0x52 [(16, 16)] → bs.length = cB d 24 8 → cB d 16 8 % 64 = 0 → s.m.sec.cur = none →
      s.m.keep.sealing = none → s.m.keep.keeping = none → s.m.keep.rest = none → headOpen h = true → extentsOk es = true →
      bs.length = 65536 + extBytes es →
      exec (.ckptImport q d (some bs)) s = .next (after (fun m => modKeep (fun k => { k with
        rest := some x, moved := if k.serve.isSome then k.moved else 0, staging := wrBytes [] 0 h }) (started q.val c m)) s)) ∧
    (∀ (x : Restore) (e : Nat × Nat) (es : List (Nat × Nat)) (bs : List Byte), s.m.keep.exports = [] → s.m.keep.rest = some x →
      x.left = some (e :: es, bs) → stackOut s.m (stackOf e.1) = false → e.1 % 32 = 0 → e.2 % 32 = 0 → e.2 ≤ bs.length →
      stackOf (e.1 + e.2 - 1) = stackOf e.1 → (stkAt s.m (stackOf e.1)).retQ = 0x3F →
      let t := copyCycle s.m
      rdBytes t.edge.mem e.1 e.2 = bs.take e.2 ∧
      (∀ a, (a < e.1 ∨ e.1 + e.2 ≤ a) → rd t.edge.mem a = rd s.m.edge.mem a) ∧
      t.keep = { s.m.keep with moved := s.m.keep.moved + e.2, rest := some { x with
        got := x.got + e.2, crcs := addCrc (stackOf e.1) (bs.take e.2) x.crcs, left := some (es, bs.drop e.2) } }) ∧
    (∀ (x : Restore) (bs : List Byte),
      let h := rdBytes s.m.keep.staging 0 65536
      let t := copyCycle s.m
      s.m.keep.exports = [] → s.m.keep.rest = some x → x.left = some ([], bs) → (h.drop 64).take 256 = stackCrcs x.crcs →
      numAt h 48 8 = (crc64 (stackCrcs x.crcs)).toNat →
      t.edge = s.m.edge ∧ t.trn.seed = BitVec.ofNat 64 (numAt h 32 8) ∧ t.trn.step = BitVec.ofNat 32 (numAt h 4 4) ∧
      t.keep.rest = none ∧ t.keep.restStatus = 0 ∧
      ringAt t x.owed.ring = ringAt (complete x.owed 0x00 0 s.m) x.owed.ring)

/-- R444, R456: SEAL arms a seal for its round with the twin as peer and the slot that does not hold the newest commit;
RESTORE opens the session of the target, RESTORE_SERVE that of the keeper of a valid slot; a module may do both at
once. An export takes the places of its part of the stream from the header of a valid slot; each reference cycle in
which the block idles it writes the data of the next place to the host, and once none is left it completes. An import
of a header that passes its checks begins as a restore; each such cycle it writes its next extent, and once none is
left and the checksums of the data agree with the header's it takes the seed and the step and completes (one place or
extent a cycle is the model's choice, log entry 37).
Readings and choices of the model's own in it: log entries 37 and 56. -/
def Obligations.SealAndRestoreCommands : Prop :=
  Sys2Proof.Spec.SealsAndRestoresAreOpened ∧
  Sys2Proof.Spec.CheckpointsAreCopiedInParts

namespace Sys2Proof.Spec

open Sys2Proof.Machine

/-- Every die is without power, and no core holds anything (R471). -/
def DiesOff (s : Mach) : Prop := s.cores = [] ∧ ∀ d, d < 144 → (dpwAt s d).on = false ∧ (dpwAt s d).stretching = false

/-- The stretched cycles of the module that are not counted yet (R475, R476). -/
def uncounted (s : Mach) : Nat := match s.fab.since with | some t => (s.now - t) / 2 | none => 0

/-- A power-down of the dies at once: from where a power-down that runs has come to, with what was to follow it (R471). -/
def downNow (p : Power) : Option (Nat × AfterDown) := some ((p.down.map (fun x => (max x.1 18, x.2))).getD (18, .stay))

end Sys2Proof.Spec

/-- R463 to R465, R468, R487, R488, R490, R491, R494, R496, R546: a feed that is lost or taken, the loss of both and their
return, which starts a module that tripped only once it is cool, the last-gasp record, the exhausted bank, a domain fault and its power-off, a full bank, an estimate and a write
sequence that waits for energy change exactly what their rules name.
Readings and choices of the model's own in it: log entry 38. -/
def Obligations.FeedsDomainsAndTheBank : Prop :=
  ∀ s : State,
    let p := s.m.pwr
    (∀ b : Bool, (if b then p.feedB else p.feedA) = true →
      ∃ t, exec (.feedLost b) s = .next t ∧ t.pending = s.pending ∧
        t.m.pwr = { p with feedA := p.feedA && b, feedB := p.feedB && !b, evt := setBit p.evt 0 } ∧
        t.m.keep = s.m.keep ∧ t.m.dpw = s.m.dpw) ∧
    (∀ b : Bool, (if b then p.feedB else p.feedA) = false →
      ∃ t, exec (.feedTaken b) s = .next t ∧ t.pending = s.pending ∧
        t.m.pwr = { p with feedA := p.feedA || !b, feedB := p.feedB || b, evt := setBit p.evt 1 } ∧ t.m.led = s.m.led) ∧
    (p.inloss = false → p.vaux = true →
      ∃ t, exec .inputLoss s = .next t ∧ t.pending = s.pending ∧ DiesOff t.m ∧
        t.m.pwr = { p with
          inloss := true, feedA := false, feedB := false, gasp := true, full := false, charging := false
          evt := setBit p.evt 2, up := none, burn := none, down := downNow p }) ∧
    (p.inloss = true → p.vaux = true → hotOff s.m = true ∨ p.down.isSome = true →
      ∃ t, exec .inputReturn s = .next t ∧ t.pending = s.pending ∧ t.m.pwr.inloss = false ∧ t.m.pwr.thermOff = p.thermOff ∧
        t.m.pwr.down = some ((p.down.map (·.1)).getD 24, .again) ∧ t.m.ctl.cause = 0 ∧ t.m.ctl.modulePending = true ∧
        t.m.dpw = s.m.dpw) ∧
    (p.inloss = true → p.vaux = true → hotOff s.m = false → p.down = none →
      ∃ t, exec .inputReturn s = .next t ∧ t.pending = s.pending ∧ t.m.pwr.inloss = false ∧ t.m.pwr.feedA = (p.feedA || !p.feedB) ∧
        t.m.pwr.feedB = (p.feedB || !p.feedA) ∧ t.m.pwr.charging = !p.full ∧ (t.m.start.state = 2 ∨ t.m.start.state = 8) ∧
        t.m.start.t0 = s.m.now ∧ t.m.cores = [] ∧ t.m.edge.mem = [] ∧ t.m.cal = s.m.cal) ∧
    (p.inloss = true → p.gasp = true → p.running = [] →
      ∃ t r, exec .lastGaspWrite s = .next t ∧ t.pending = s.pending ∧ t.m.pwr = { p with gasp := false } ∧
        t.m.led.flash = s.m.led.flash ++ [r] ∧ r.valid = true ∧ r.ev.cls = 0x5 ∧ r.seq = s.m.led.nextSeq ∧
        r.ev.detail = gaspDetail s.m ∧ t.m.led.nextSeq = s.m.led.nextSeq + 1 ∧ bit t.m.host.irqCause 12 = true) ∧
    (p.inloss = true → p.gasp = false → p.running = [] → bankAvail p < 20 →
      exec .bankExhausted s = .next (after (fun m => modStart (fun x => { x with state := 0 })
        (modPwr (fun p => { p with vaux := false, rimOn := false, down := none }) m)) s)) ∧
    (∀ e : BitVec 16, p.running = [] → s.m.start.state ≠ 2 → 3000 ≤ e.toNat →
      exec (.bankFull e) s = .next (after (modPwr (fun p => { p with
        full := true, charging := false, coul := e, model := e, fullcap := e, weak := false, recal := none
        diffOpen := false })) s)) ∧
    (∀ e : BitVec 16, p.running ≠ [] → s.m.start.state ≠ 2 →
      exec (.bankFull e) s = .next (after (modPwr (fun p => { p with
        full := true, charging := false, recal := some e })) s)) ∧
    (∀ a b : BitVec 16, a.toNat ≤ b.toNat + 100 → b.toNat ≤ a.toNat + 100 →
      exec (.gaugeEstimateUpdate a b) s = .next (after (modPwr (fun p => { p with
        coul := a, model := b, diffOpen := false })) s)) ∧
    (∀ a b : BitVec 16, a.toNat + 150 < b.toNat ∨ b.toNat + 150 < a.toNat → p.diffOpen = false →
      ∃ t, exec (.gaugeEstimateUpdate a b) s = .next t ∧ t.pending = s.pending ∧
        t.m.pwr = { p with
          coul := a, model := b, diffOpen := true, diffCnt := satInc p.diffCnt, evt := setBit p.evt 10 }) ∧
    (∀ w rest, p.waiting = w :: rest → w.kind ≠ .ledger → mayStart s.m w.cost = true →
      exec .writeSequenceStart s = .next (after (modPwr (fun p => { p with
        waiting := rest, running := p.running ++ [{ w with since := s.m.now }] })) s)) ∧
    (∀ i : DomInst,
      ∃ t, exec (.domainFault i) s = .next t ∧ t.pending = s.pending ∧
        t.m.pwr = { p with faults := if i ∈ p.faults then p.faults else p.faults ++ [i], evt := setBit p.evt 8 } ∧ t.m.keep.faulted = true ∧
        t.m.keep.holdNext = true ∧ t.m.dpw = s.m.dpw) ∧
    (∀ (d : Fin 144) (dom : Fin 3), .die d dom ∈ p.faults →
      ∃ t, exec (.domainFaultOff (.die d dom)) s = .next t ∧ t.pending = s.pending ∧ d.val ∈ t.m.pwr.dieFail ∧
        (dpwAt t.m d.val).on = false ∧ (∀ e ∈ t.m.cores, dieOf e.1 ≠ d.val) ∧
        ∀ j, j < 144 → j ≠ d.val → dpwAt t.m j = { dpwAt s.m j with strcnt := satAdd (dpwAt s.m j).strcnt (uncounted s.m) })

/-- R467, R472 to R480, R486: a power sample below the brake's limit is only counted, one above it applies the brake to
every die, and a full window at or below 27 kW releases it; a droop stretches its die, the end of a stretch adds to
every die and to the module the cycles that are not counted yet, and no stretch ends under the brake; a voltage command that passes its
checks takes effect at once, one that comes within 50 us is held and takes effect then, and one to a die that is off is refused; a VARR
set point that falls stops where VLOG goes (log entry 38); a set point that is reached settles after 5 us.
Readings and choices of the model's own in it: log entry 38. -/
def Obligations.CapBrakeStretchAndVoltages : Prop :=
  ∀ s : State,
    let p := s.m.pwr
    let took (w : BitVec 16) (x : Power) : Power := { x with
      feedAReg := Config.free32 s.m.free, feedBReg := Config.free32 (s.m.free + 1)
      peak := if x.peak.toNat < w.toNat then w else x.peak, sum := x.sum + w.toNat, samples := x.samples + 1
      recent := (w :: x.recent).take 100000, avg100 := average ((w :: x.recent).take 100000) }
    (∀ w : BitVec 16, w.toNat ≤ 3600 → p.brake = false →
      exec (.powerSample w false) s = .next (after (fun m => { modPwr (took w) m with free := m.free + 2 }) s)) ∧
    (∀ w : BitVec 16, 3600 < w.toNat → p.brake = false →
      ∃ t, exec (.powerSample w false) s = .next t ∧ t.pending = s.pending ∧
        t.m.pwr = { took w p with brake := true, evt := setBit p.evt 3 } ∧ t.m.keep.faulted = true ∧
        ∀ d, d < 144 → (dpwAt t.m d).stretching = (dpwAt s.m d).on) ∧
    (∀ w : BitVec 16, w.toNat ≤ 3600 → p.brake = true → 999 ≤ p.recent.length →
      ((w :: p.recent).take 1000).foldl (fun n x => n + x.toNat) 0 ≤ 2700000 →
      exec (.powerSample w false) s =
        .next (after (fun m => { modPwr (fun x => { took w x with brake := false }) m with free := m.free + 2 }) s)) ∧
    (∀ a : BitVec 16, a.toNat * 100 ≤ p.eff.toNat * 1020 →
      exec (.capUnmet a) s = .next (after (modPwr (fun x => { x with avg100 := a })) s)) ∧
    (∀ a : BitVec 16, p.eff.toNat * 1020 < a.toNat * 100 →
      ∃ t, exec (.capUnmet a) s = .next t ∧ t.pending = s.pending ∧
        t.m.pwr = { p with avg100 := a, evt := setBit p.evt 4 } ∧ t.m.keep = s.m.keep) ∧
    (∀ (d : Fin 144) (i : Fin 32), (dpwAt s.m d.val).on = true →
      exec (.droopTrip d i) s = .next (after (fun m =>
        { modDie d.val (fun x => { x with stw := { x.stw with shTrips := satInc x.stw.shTrips } })
            (modDpw d.val (fun x => { x with stretching := true, trips := satInc x.trips, lasts := BitVec.ofNat 5 i.val }) m) with
          fab := { m.fab with since := some (m.fab.since.getD m.now) } }) s)) ∧
    (∀ (d : Fin 144) (n : Nat), (dpwAt s.m d.val).stretching = true → p.brake = true → exec (.stretchEnd d n) s = .next s) ∧
    (∀ (d : Fin 144) (n t0 : Nat), (dpwAt s.m d.val).stretching = true → p.brake = false → s.m.fab.since = some t0 →
      let m := notBefore (t0 + 2 * max n ((s.m.now - t0 + 1) / 2)) s.m
      ∃ t, exec (.stretchEnd d n) s = .next t ∧ t.pending = s.pending ∧ t.m.now = t0 + 2 * max n ((s.m.now - t0 + 1) / 2) ∧
        (dpwAt t.m d.val).stretching = false ∧ (∀ e, e ≠ d.val → (dpwAt t.m e).stretching = (dpwAt s.m e).stretching) ∧
        (∀ e, e < 144 → (dpwAt t.m e).strcnt = satAdd (dpwAt m e).strcnt (uncounted m)) ∧
        t.m.rnd.varRun.stretch = satAdd m.rnd.varRun.stretch (144 * uncounted m) ∧ t.m.fab.lost = m.fab.lost + uncounted m ∧
        uncounted t.m = 0 ∧ (t.m.fab.since.isSome → ∃ e ∈ t.m.dpw, e.2.stretching = true)) ∧
    (∀ (d : Fin 144) (v : Word),
      let x := dpwAt s.m d.val
      let c := fld v 0 10
      let free (z : Slew) := z.held = none ∧ (z.last = none ∨ ∃ l, z.last = some l ∧ l + 55000 ≤ s.m.now)
      let v0 := varrSet s.m d.val
      let moved (z : Slew) (a g : Nat) : Slew :=
        { z with from_ := BitVec.ofNat 10 a, since := s.m.now, goal := BitVec.ofNat 10 g, target := c
                 last := some s.m.now, settled := false, settling := false }
      Served s.m (0x409000 + 0x10000 * d.val) →
      (bit v 12 = true → 280 ≤ c.toNat → c.toNat ≤ 340 → x.on = true → free x.varr → x.vlog.target.toNat ≤ c.toNat →
        exec (.dieVcmd d v) s = .next (accessed (modDpw d.val (fun x => { x with
          varr := moved x.varr v0 (if c.toNat < v0 then max c.toNat (min v0 x.vlog.goal.toNat) else c.toNat) })) s)) ∧
      (bit v 12 = false → 240 ≤ c.toNat → c.toNat ≤ 340 → x.on = true → free x.vlog → c.toNat ≤ x.varr.target.toNat →
        exec (.dieVcmd d v) s = .next (accessed (modDpw d.val (fun x => reVarr s.m.now { x with
          vlog := moved x.vlog (vlogSet s.m d.val) (max c.toNat (adjFloor x))
          floored := decide (c.toNat < max c.toNat (adjFloor x)) })) s)) ∧
      (280 ≤ c.toNat → c.toNat ≤ 340 → x.on = false →
        exec (.dieVcmd d v) s = .next (accessed (modDpw d.val (fun x => { x with rej := true, reason := 3 })) s)) ∧
      (∀ l, bit v 12 = true → 280 ≤ c.toNat → c.toNat ≤ 340 → x.on = true → x.varr.last = some l →
        s.m.now < l + 55000 →
        exec (.dieVcmd d v) s = .next (accessed (modDpw d.val (fun x => { x with
          varr := { x.varr with held := some c, settled := false }
          coal := if x.varr.held.isSome then satInc x.coal else x.coal })) s)) ∧
      (340 < c.toNat → exec (.dieVcmd d v) s =
        .next (accessed (modDpw d.val (fun x => { x with rej := true, reason := 1 })) s))) ∧
    (∀ (d : Fin 144) (c : BitVec 10) (l : Nat),
      let m := notBefore (l + 55000) s.m
      let v0 := slewAt (l + 55000) (dpwAt m d.val).varr
      (dpwAt m d.val).varr.held = some c → (dpwAt s.m d.val).varr.held = some c → (dpwAt m d.val).varr.last = some l →
      (dpwAt s.m d.val).varr.last = some l → (dpwAt m d.val).vlog.target.toNat ≤ c.toNat →
      exec (.vcmdTakeEffect d true) s = .next (after (fun _ => modDpw d.val (fun x => { x with varr :=
        { from_ := BitVec.ofNat 10 v0, since := l + 55000
          goal := BitVec.ofNat 10 (if c.toNat < v0 then max c.toNat (min v0 x.vlog.goal.toNat) else c.toNat), target := c, held := none
          last := some (l + 55000), settled := false, settling := false } }) m) s)) ∧
    (∀ (x : DiePower) (t : Nat),
      let v := varrAt x t
      (reVarr t x).varr.goal.toNat = (if x.varr.target.toNat < v then max x.varr.target.toNat (min v x.vlog.goal.toNat)
        else x.varr.target.toNat) ∧
      { reVarr t x with varr := x.varr } = x ∧ varrAt (reVarr t x) t = v) ∧
    (∀ d : Fin 144,
      let z := (dpwAt s.m d.val).varr
      z.settled = false → z.goal = z.target →
      exec (.slewReached d true) s = .next (after (fun m => modDpw d.val (fun x => { x with
        varr := { x.varr with settling := true } })
          (notBefore (z.since + slewTime z.from_.toNat z.goal.toNat) m)) s)) ∧
    (∀ d : Fin 144, (dpwAt s.m d.val).varr.settling = true → (dpwAt s.m d.val).varr.held = none →
      let z := (dpwAt s.m d.val).varr
      exec (.settledTimer d true) s = .next (after (fun m => modDpw d.val (fun x => { x with
        varr := { x.varr with settled := true, settling := false } })
          (notBefore (z.since + slewTime z.from_.toNat z.goal.toNat + 5500) m)) s))

/-- R481, R492 to R494, R499, R500, R502: a temperature below its warning is stored and ends the warning; one at the trip
limit powers every die down and is an uncorrected fault; a coolant sample sets EFF and tells whether the coolant is
within its limits; a sample below the minimum so far replaces the record of its domain; VMIN_SEL latches the record, and
CLR clears it first, but for what was sampled in the same cycle; a domain that is not in regulation yet records nothing (log entry 38).
Readings and choices of the model's own in it: log entries 22 and 38. -/
def Obligations.ThermalLimitsAndVoltageRecords : Prop :=
  ∀ s : State,
    let p := s.m.pwr
    (∀ (i : Fin 64) (c : Byte), c.toInt < 70 →
      exec (.thermalSample (.port i) c) s = .next (after (fun m =>
        modPwr (fun x => { x with warm := x.warm.filter (· != .port i), portTemp := tset 0 x.portTemp i.val c })
          (modPort i.val (fun x => { x with temp := c }) m)) s)) ∧
    (∀ (i : Fin 32) (c : Byte), 90 ≤ c.toInt → c.toInt < 100 → .stack i ∉ p.warm →
      ∃ t, exec (.thermalSample (.stack i) c) s = .next t ∧ t.pending = s.pending ∧ (stkAt t.m i.val).maxT = c ∧
        t.m.pwr = { p with warm := p.warm ++ [.stack i], evt := setBit p.evt 6, stkTemp := tset 0 p.stkTemp i.val c } ∧ t.m.keep = s.m.keep) ∧
    (∀ (d : Fin 144) (c : Byte), 105 ≤ c.toInt → p.thermOff = false →
      ∃ t, exec (.thermalSample (.die d) c) s = .next t ∧ t.pending = s.pending ∧ DiesOff t.m ∧
        (dpwAt t.m d.val).temp = c ∧ t.m.pwr.thermOff = true ∧ bit t.m.pwr.evt 7 = true ∧
        t.m.pwr.down = downNow p ∧ t.m.keep.faulted = true) ∧
    (∀ (i o : Byte) (f : BitVec 16), 20 ≤ i.toInt → i.toInt ≤ 45 → 600 ≤ f.toNat →
      exec (.coolantSample i o f false) s = .next (after (modPwr (fun x => { x with
        inlet := i, outlet := o, flow := f, coolOut := false, eff := BitVec.ofNat 9 (capActs x.cap.toNat) })) s)) ∧
    (∀ (i o : Byte) (f : BitVec 16), i.toInt < 20 ∨ 45 < i.toInt ∨ f.toNat < 600 →
      ∃ t, exec (.coolantSample i o f false) s = .next t ∧ t.pending = s.pending ∧ t.m.pwr.coolOut = true ∧
        bit t.m.pwr.evt 5 = true ∧ t.m.pwr.thermOff = p.thermOff ∧ t.m.dpw = s.m.dpw) ∧
    (∀ (d : Fin 144) (dom : Fin 3) (v : BitVec 11),
      let old := tget none (dpwAt s.m d.val).vrec dom.val
      let new : VRec := { vmin := v, setpt := BitVec.ofNat 11 (vmSet s.m (.die d dom))
                          round := (roundNow s.m).setWidth 32, sec := calSec s.m, frac := calFrac s.m }
      recording s.m (.die d dom) = true → (∀ r, old = some r → v.toNat < r.vmin.toNat) →
      exec (.vminSample (.die d dom) v) s = .next (after (fun m => noteVmin (vmNote d.val dom.val) (vmTake m (.die d dom) v)
        (modDpw d.val (fun x => { x with vrec := tset none x.vrec dom.val (some new) }) m)) s)) ∧
    (∀ (i : DomInst) (v : BitVec 11), recording s.m i = false → exec (.vminSample i v) s = .next s) ∧
    (∀ (d : Fin 144) (dom : Fin 3) (v : BitVec 11) (r : VRec),
      tget none (dpwAt s.m d.val).vrec dom.val = some r → r.vmin.toNat ≤ v.toNat →
      ∃ t, exec (.vminSample (.die d dom) v) s = .next t ∧
        ∀ k, tget none (dpwAt t.m d.val).vrec k = tget none (dpwAt s.m d.val).vrec k) ∧
    (∀ (d : Fin 144) (v : Word), Served s.m (0x409020 + 0x10000 * d.val) → (fld v 0 4).toNat < 3 →
      (bit v 31 = false → exec (.vminSelWrite d v) s = .next (accessed (modDpw d.val (fun x => { x with
        sel := fld v 0 4, latch := vmWords (tget none (dpwAt s.start d.val).vrec (fld v 0 4).toNat) })) s)) ∧
      exec (.vminClr d v) s = .next (accessed (modDpw d.val (fun x => { x with
        sel := fld v 0 4
        vrec := tset none x.vrec (fld v 0 4).toNat (tget none s.m.notes.vmins (vmNote d.val (fld v 0 4).toNat))
        latch := vmWords (tget none s.start.notes.vmins (vmNote d.val (fld v 0 4).toNat)) })) s)) ∧
    (∀ (v : Word) (k : Nat), Served s.m 0x3040 → pwrVmKey v = some k →
      (bit v 31 = false → exec (.pwrVminSelWrite v) s = .next (accessed (modPwr (fun x => { x with
        selInst := fld v 8 5, selLoc := fld v 4 2, selDom := fld v 0 4, latch := vmWords (tget none s.start.pwr.vrec k) })) s)) ∧
      exec (.pwrVminClr v) s = .next (accessed (modPwr (fun x => { x with
        selInst := fld v 8 5, selLoc := fld v 4 2, selDom := fld v 0 4, vrec := tset none x.vrec k (tget none s.m.notes.vmins (boardNote k))
        latch := vmWords (tget none s.start.notes.vmins (boardNote k)) })) s))

/-! ### The fault ledger, the calendar, and host accesses to registers -/

namespace Sys2Proof.Spec

open Sys2Proof.Machine

/-- The writer can take an event (R541, R490): no record is in flight, the module has power, and three erased blocks lie ahead of
that of the write point (R538). -/
def WriterIdle (s : Mach) : Prop :=
  s.led.inFlight = none ∧ s.led.sumDue = false ∧ (∀ w ∈ s.pwr.running, w.kind ≠ .ledger) ∧ s.pwr.inloss = false ∧
    s.pwr.vaux = true ∧ (blockAt s.led s.led.wblock.toNat).1 ≠ 0 ∧ usedBlocks s.led ≤ 4092

/-- The writer can take an event, and the record of n bytes fits in the block of the write point (R535). -/
def WriterFree (s : Mach) (n : Nat) : Prop := WriterIdle s ∧ s.led.woff + n + 512 ≤ 65536

/-- The record of an event at the write point (R536), COMMIT not yet programmed. -/
def recordAt (s : Mach) (e : Event) : LedRec :=
  { seq := s.led.nextSeq, ev := e, sec := calSec s, frac := calFrac s, lost := s.cal.lost, epoch := s.epoch
    id := if s.ctl.assigned then s.ctl.id else 0xFFFF, block := s.led.wblock.toNat, offset := s.led.woff, valid := false }

/-- The write sequence of a record of n bytes: its pages, and COMMIT. -/
def recordSeq (n : Nat) : WSeq := { kind := .ledger, cost := seqCost (n / 256 + 1) 0 }

/-- The event `e` leaves the queue as `l` and its record is written at the write point. -/
def recordGoes (e : Event) (l : Ledger) (s : Mach) : Mach :=
  let n := evLen e
  { s with
    led := { l with
      inFlight := some (recordAt s e), carry := false, flash := s.led.flash ++ [recordAt s e]
      nextSeq := s.led.nextSeq + 1, woff := s.led.woff + n }
    pwr := { s.pwr with running := s.pwr.running ++ [{ recordSeq n with since := s.now }] } }

end Sys2Proof.Spec

/-- Rules R541 to R544 and R490: a SUMMARY that is due comes first; the writer then takes the oldest protected event, then the oldest ordinary one; an event that
waited at its source moves into the protected entry that became free; where AVAIL covers the write sequence of its record,
the record lies at the write point with the next SEQ, and where it does not, the sequence waits; a record that would leave fewer than 512
bytes of its block begins the next one.
An ordinary event that finds its entries full is counted, and a protected one waits at its source. -/
def Obligations.TheWriterTakesTheOldestEvent : Prop :=
  (∀ (s : State) (e : Event) (rest : List Event), s.m.led.protQ = e :: rest → WriterFree s.m (evLen e) →
    s.m.pwr.waiting = [] → 50 + owedEnergy s.m + (recordSeq (evLen e)).cost ≤ bankAvail s.m.pwr →
    exec .ledgerRecordWrite s = .next (after (recordGoes e { s.m.led with
      protQ := rest ++ s.m.led.waitQ.take 1, waitQ := s.m.led.waitQ.drop 1 }) s)) ∧
  (∀ (s : State) (e : Event) (rest : List Event), s.m.led.protQ = [] → s.m.led.sumFinal = false → s.m.led.ordQ = e :: rest →
    WriterFree s.m (evLen e) → s.m.pwr.waiting = [] →
    50 + owedEnergy s.m + (recordSeq (evLen e)).cost ≤ bankAvail s.m.pwr →
    exec .ledgerRecordWrite s = .next (after (recordGoes e { s.m.led with ordQ := rest }) s)) ∧
  (∀ (s : State) (e : Event) (rest : List Event), s.m.led.protQ = e :: rest → WriterFree s.m (evLen e) →
    bankAvail s.m.pwr < 50 + owedEnergy s.m + (recordSeq (evLen e)).cost →
    ∃ t, exec .ledgerRecordWrite s = .next t ∧ t.pending = s.pending ∧ t.m.led.flash = s.m.led.flash ∧
      t.m.led.inFlight = some (recordAt s.m e) ∧ t.m.pwr.running = s.m.pwr.running ∧
      t.m.pwr.waiting = s.m.pwr.waiting ++ [recordSeq (evLen e)] ∧ t.m.pwr.waits = satInc s.m.pwr.waits) ∧
  (∀ (s : State) (e : Event) (rest : List Event) (x : Word), s.m.led.protQ = e :: rest → WriterIdle s.m → s.m.pwr.waiting = [] →
    65536 < s.m.led.woff + evLen e + 512 → evLen e ≤ 64768 → blockAt s.m.led (s.m.led.wblock + 1).toNat = (0, x) →
    50 + owedEnergy s.m + (recordSeq (evLen e)).cost ≤ bankAvail s.m.pwr →
    ∃ t r, exec .ledgerRecordWrite s = .next t ∧ t.pending = s.pending ∧ t.m.led.inFlight = some r ∧ r.ev = e ∧
      r.seq = s.m.led.nextSeq ∧ r.block = (s.m.led.wblock + 1).toNat ∧ r.offset = 256 ∧ t.m.led.flash = s.m.led.flash ++ [r] ∧
      t.m.led.wblock = s.m.led.wblock + 1 ∧ t.m.led.woff = 256 + evLen e ∧
      blockAt t.m.led (s.m.led.wblock + 1).toNat = (BitVec.ofNat 64 (lastBseq s.m.led + 1), x)) ∧
  (∀ (s : State), s.m.led.sumDue = true → s.m.led.inFlight = none → (∀ w ∈ s.m.pwr.running, w.kind ≠ .ledger) → s.m.pwr.inloss = false →
    s.m.pwr.vaux = true → ∃ t r, exec .ledgerRecordWrite s = .next t ∧ t.pending = s.pending ∧ t.m.led.inFlight = some r ∧
      r.ev.cls = 0x6 ∧ bit r.ev.flags 3 = true ∧ t.m.led.protQ = s.m.led.protQ ∧ t.m.led.ordQ = s.m.led.ordQ ∧ t.m.led.supp = [] ∧
      t.m.led.sumDue = false) ∧
  (∀ (s : State), s.m.led.inFlight ≠ none → exec .ledgerRecordWrite s = .next s) ∧
  (∀ (e : Event) (l : Ledger), isProtected e.cls.toNat = true → l.protQ.length < 64 →
    queueEvent e l = { l with protQ := l.protQ ++ [e] }) ∧
  (∀ (e : Event) (l : Ledger), isProtected e.cls.toNat = true → 64 ≤ l.protQ.length →
    queueEvent e l = { l with waitQ := l.waitQ ++ [e] }) ∧
  (∀ (e : Event) (l : Ledger), isProtected e.cls.toNat = false → l.ordQ.length < 4032 →
    queueEvent e l = { l with ordQ := l.ordQ ++ [e] }) ∧
  (∀ (e : Event) (l : Ledger), isProtected e.cls.toNat = false → 4032 ≤ l.ordQ.length →
    (queueEvent e l).ordQ = l.ordQ ∧ (queueEvent e l).protQ = l.protQ ∧ (queueEvent e l).ledSupp = satInc l.ledSupp ∧
      tget 0 (queueEvent e l).supp e.cls.toNat = satInc (tget 0 l.supp e.cls.toNat))

/-- Rules R536, R544, R552 and R578: COMMIT makes the record valid, its event is held for the receiver or sent to it, and cause LEDGER rises; after a
record other than a SUMMARY a SUMMARY is due where events were suppressed. The record of a new epoch puts the epoch in force,
and a start goes on with its power sequence (R313, R503), but not without input or with a module reset pending (R465, R505). -/
def Sys2Proof.Spec.ACommittedRecordIsValid : Prop :=
  (∀ (s : State) (r : LedRec), s.m.led.inFlight = some r → (∃ w ∈ s.m.pwr.running, w.kind = .ledger) →
    s.m.led.finalOut = false → r.ev.cls ≠ 0x2 → r.ev.cls ≠ 0x50 → s.m.cradle.receiver = none →
    ∃ t, exec .ledgerRecordCommitted s = .next t ∧ t.pending = s.pending ∧ t.m.led.inFlight = none ∧
      t.m.led.flash = s.m.led.flash.map (fun q =>
        if q.seq = r.seq ∧ q.block = r.block ∧ q.offset = r.offset then { r with valid := true } else q) ∧
      t.m.led.sumDue = (s.m.led.sumDue || (decide (r.ev.cls ≠ 0x6) && !s.m.led.supp.isEmpty)) ∧
      t.m.cradle.held = (s.m.cradle.held ++ [{ r with valid := true }]).drop (s.m.cradle.held.length + 1 - 64) ∧
      t.m.epoch = s.m.epoch ∧ t.m.pwr = s.m.pwr ∧ t.m.start = s.m.start ∧ bit t.m.host.irqCause 12 = true ∧
      (bit s.m.host.irqCause 12 = true ∨ bit s.m.host.irqMask 12 = true → t.m.out = s.m.out)) ∧
  (∀ (s : State) (r : LedRec) (x : Byte), s.m.led.inFlight = some r → (∃ w ∈ s.m.pwr.running, w.kind = .ledger) →
    s.m.led.finalOut = false → r.ev.cls ≠ 0x2 → r.ev.cls ≠ 0x50 → s.m.cradle.receiver = some x →
    ∃ t, exec .ledgerRecordCommitted s = .next t ∧ t.pending = s.pending ∧ t.m.cradle = s.m.cradle ∧
      ∃ vs, t.m.out = s.m.out ++ [.platformEvent (cper s.m.start.serial { r with valid := true })] ++ vs ∧
        (∀ x ∈ vs, ∃ v, x = .vector v) ∧ (bit s.m.host.irqCause 12 = true ∨ bit s.m.host.irqMask 12 = true → vs = [])) ∧
  (∀ (s : State) (r : LedRec), s.m.led.inFlight = some r → (∃ w ∈ s.m.pwr.running, w.kind = .ledger) →
    s.m.led.finalOut = false → r.ev.cls = 0x2 →
    ∃ t, exec .ledgerRecordCommitted s = .next t ∧ t.pending = s.pending ∧
      t.m.epoch = BitVec.ofNat 32 (numAt r.ev.detail 0 4) ∧
      (s.m.start.state = 2 → s.m.pwr.inloss = false → s.m.ctl.modulePending = false → t.m.start.state = 3 ∧ t.m.pwr.up = some 0) ∧
      (s.m.start.state ≠ 2 ∨ s.m.pwr.inloss = true ∨ s.m.ctl.modulePending = true →
        t.m.start.state = s.m.start.state ∧ t.m.pwr.up = s.m.pwr.up))

/-- Rules R490, R537 and R576: a write sequence that ends leaves the running ones; a record whose COMMIT is not programmed
by then is to be written again; the blown fuses of an accepted key request make
its key programmed or revoked, and the command ends with status 0x00; a licence goes into the first store and then, with a sequence of
its own, into the second (R521); a record of a new epoch that fails twice ends the start (R523; log entry 46). -/
def Sys2Proof.Spec.WriteSequencesEndWithTheirResult : Prop :=
  (∀ (s : State) (w : WSeq) (rest : List WSeq), s.m.pwr.running = w :: rest → w.kind = .ledger → s.m.led.inFlight = none →
    (rest ≠ [] ∨ s.m.pwr.recal = none) →
    exec .writeSequenceEnd s = .next (after (fun m => { m with pwr := { m.pwr with running := rest } }) s)) ∧
  (∀ (s : State) (w : WSeq) (r : LedRec), s.m.pwr.running = [w] → w.kind = .ledger → s.m.led.inFlight = some r →
    s.m.pwr.waiting ≠ [] → s.m.pwr.recal = none → epochLost r s.m = false →
    let n := evLen r.ev
    let p := planWrite s.m.start.serial n s.m.led
    ∃ t, exec .writeSequenceEnd s = .next t ∧ t.pending = s.pending ∧ t.m.pwr.running = [] ∧
      t.m.led = { s.m.led with
        inFlight := some { r with seq := p.1.nextSeq, block := p.1.wblock.toNat, offset := p.1.woff } } ∧
      t.m.pwr.waiting = s.m.pwr.waiting ++ [⟨.ledger, seqCost (n / 256 + 1 + p.2.1) p.2.2, 0⟩]) ∧
  (∀ (s : State) (w : WSeq) (r : LedRec), s.m.pwr.running = [w] → w.kind = .ledger → s.m.led.inFlight = some r →
    s.m.pwr.recal = none → s.m.start.state = 2 → r.ev.cls = 0x2 →
    (∃ q ∈ s.m.led.flash, q.valid = false ∧ q.seq ≠ r.seq ∧ q.ev = r.ev) →
    ∃ t, exec .writeSequenceEnd s = .next t ∧ t.pending = s.pending ∧ t.m.start.state = 9 ∧ t.m.start.fail = 3 ∧
      t.m.led.inFlight = none ∧ t.m.pwr.running = [] ∧ t.m.pwr.up = none ∧ t.m.pwr.down = some (0, .stay) ∧ t.m.ports = s.m.ports) ∧
  (∀ (s : State) (w : WSeq) (r : List Byte) (o : Owed), s.m.pwr.running = [w] → w.kind = .fuse r o → s.m.pwr.recal = none →
    keyAction r = 1 →
    exec .writeSequenceEnd s = .next (after (fun m => complete o 0x00 0 { m with
      pwr := { m.pwr with running := [] }
      start := { m.start with
        programmed := setBit m.start.programmed (keyIndex r)
        ikey := tset 0 m.start.ikey (keyIndex r) (BitVec.ofNat 384 (numAt r 16 48)) } }) s)) ∧
  (∀ (s : State) (w : WSeq) (r : List Byte) (o : Owed), s.m.pwr.running = [w] → w.kind = .fuse r o → s.m.pwr.recal = none →
    keyAction r = 2 →
    exec .writeSequenceEnd s = .next (after (fun m => complete o 0x00 0 { m with
      pwr := { m.pwr with running := [] }
      start := { m.start with revoked := setBit m.start.revoked (keyIndex r) } }) s)) ∧
  (∀ (s : State) (w : WSeq) (l : List Byte) (o : Owed) (i : Nat), s.m.pwr.running = [w] → w.kind = .licence none l o →
    s.m.pwr.recal = none → emptyEntry s.m.start = some i →
    let x : Start := { s.m.start with lic0 := tput s.m.start.lic0 i l }
    let w2 : WSeq := { kind := .licence (some i) l o, cost := seqCost 1 0 }
    ∃ t, exec .writeSequenceEnd s = .next t ∧ t.pending = s.pending ∧ t.m.led = s.m.led ∧
      t.m.start = { x with licValid := BitVec.ofNat 8 (min 255 (validLicences x).length) } ∧
      (s.m.pwr.waiting ≠ [] → t.m.pwr.running = [] ∧ t.m.pwr.waiting = s.m.pwr.waiting ++ [w2]) ∧
      (s.m.pwr.waiting = [] → s.m.pwr.vaux = true → s.m.pwr.inloss = false → 50 + w2.cost ≤ bankAvail s.m.pwr →
        t.m.pwr.running = [{ w2 with since := s.m.now }] ∧ t.m.pwr.waiting = [])) ∧
  (∀ (s : State) (w : WSeq) (l : List Byte) (o : Owed) (i : Nat), s.m.pwr.running = [w] → w.kind = .licence (some i) l o →
    s.m.pwr.recal = none →
    let x : Start := { s.m.start with lic1 := tput s.m.start.lic1 i l }
    ∃ t, exec .writeSequenceEnd s = .next t ∧ t.pending = s.pending ∧ t.m.pwr.running = [] ∧
      t.m.start = { x with licValid := BitVec.ofNat 8 (min 255 (validLicences x).length) } ∧
      t.m.host = (complete o 0x00 0 s.m).host)

/-- Rules R547 to R549 and R555: a write of CAL_SET_HI whose top byte is 0xC5 steps the clock, clears the fraction and LOST
and writes a CLOCK_SET record; another top byte steps nothing; a read of CAL_SEC_LO latches the upper seconds and the
fraction; the clock stops with its battery while VAUX is down, and VBAK then reads a voltage below 2.2 V, which is free (log entry 4). -/
def Sys2Proof.Spec.TheCalendarIsSetReadAndStopped : Prop :=
  (∀ (s : State) (v : Word), Served s.m 0x202C → fld v 24 8 = (0xC5 : BitVec 8) →
    ∃ t, exec (.calSetHiWrite v) s = .next t ∧ t.pending = s.pending ∧
      t.m.cal = { s.m.cal with
        base := (fld v 0 16 ++ s.m.cal.setLo).toNat * 65536, since := s.m.now, running := true, lost := false } ∧
      calFrac t.m = 0 ∧ calSec t.m = fld v 0 16 ++ s.m.cal.setLo ∧
      t.m.led = queueEvent (mkEvent s.m 0x7 0 0 0xFFFF 0xFFFF 0 (bytesOf (calSec s.m) ++ bytesOf (calFrac s.m) ++
        bytesOf (fld v 0 16 ++ s.m.cal.setLo : BitVec 48) ++ [0, 0])) s.m.led) ∧
  (∀ (s : State) (v : Word), Served s.m 0x202C → fld v 24 8 ≠ (0xC5 : BitVec 8) → exec (.calSetHiWrite v) s = .next (accessed (fun m => m) s)) ∧
  (∀ (s : State), Served s.m 0x2020 →
    exec .calSecLoRead s = .next (accessed (fun m => { m with
      out := m.out ++ [.readData 0x2020 (fld (calSec m) 0 32)]
      cal := { m.cal with latchHi := calFrac m ++ fld (calSec m) 32 16 } }) s)) ∧
  (∀ (s : State), s.m.pwr.vaux = false →
    exec .calendarClockStop s = .next (after (fun m => { m with
      cal := { m.cal with
        base := calNow m, since := m.now, running := false, stopped := true, vbak := BitVec.ofNat 12 ((Config.free32 m.free).toNat % 2200) }
      free := m.free + 1 }) s))

/-- Rules R25, R504, R584 to R587: a read of a served register returns what it holds, an RC field what it held before the updates
of the current cycle, and clears an RC field of which the read returns all, to what those updates added; a bit of a W1C field that
the module has set in the cycle stays set when a 1 is written to it; a cycle begins where time passes, and by log entry 54 where
a host access ends; before READY only the module control block and the start block are served: reads elsewhere and of the aperture return ones, writes
are discarded, and no command is fetched; a write of all four bytes has its
register's effect, and a write of fewer has none.
Readings and choices of the model's own in it: log entries 14 and 54. -/
def Obligations.ReadsAndWritesReachTheRegisters : Prop :=
  (∀ (s : State) (off : BitVec 24) (be : BitVec 4), Served s.m (off.toNat / 4 * 4) →
    exec (.rcFieldRead off be) s = .next (accessed (fun m => readClears be (off.toNat / 4 * 4) s.start { m with
      out := m.out ++ [.readData (BitVec.ofNat 24 (off.toNat / 4 * 4)) (enabled be (seenRead s.start m (off.toNat / 4 * 4)))] }) s)) ∧
  (∀ (s : State) (off : BitVec 24), off.toNat / 4 * 4 = 0x2010 → Served s.m 0x2010 →
    exec (.rcFieldRead off 0xF) s = .next (accessed (fun m => { m with
      out := m.out ++ [.readData 0x2010 (shown 32 s.start.led.ledSupp)]
      led := { m.led with ledSupp :=
        if s.start.led.ledSupp.toNat ≤ m.led.ledSupp.toNat then m.led.ledSupp - s.start.led.ledSupp else 0 } }) s)) ∧
  (∀ (s : State) (off : BitVec 24) (be : BitVec 4), off.toNat / 4 * 4 = 0x2010 → Served s.m 0x2010 → be ≠ 0xF →
    exec (.rcFieldRead off be) s = .next (accessed (fun m => { m with
      out := m.out ++ [.readData 0x2010 (enabled be (shown 32 s.start.led.ledSupp))] }) s)) ∧
  (∀ (s : State), s.m.start.state ≠ 0 → s.m.start.state ≠ 7 → s.m.host.perst = false →
    (∀ off : BitVec 24, 0x2000 ≤ off.toNat / 4 * 4 →
      exec (.rcFieldRead off 0xF) s = .next (accessed (fun m => { m with
        out := m.out ++ [.readData (BitVec.ofNat 24 (off.toNat / 4 * 4)) 0xFFFFFFFF] }) s) ∧
      ∀ v, exec (.registerWrite off 0xF v) s = .next (accessed (fun m => m) s)) ∧
    (∀ off : BitVec 24, off.toNat / 4 * 4 < 0x2000 → s.m.ctl.modulePending = false →
      exec (.rcFieldRead off 0xF) s = .next (accessed (fun m => { m with
        out := m.out ++ [.readData (BitVec.ofNat 24 (off.toNat / 4 * 4)) (regRead m (off.toNat / 4 * 4))] }) s)) ∧
    (∀ (off : BitVec 36) (len : Nat), 1 ≤ len → len ≤ 4096 → off.toNat + len ≤ 2 ^ 36 →
      exec (.apertureRead (.bar4 off) len) s = .next (after (fun m => { m with
        out := m.out ++ [.apertureData (List.replicate len 0xFF) false] }) s)) ∧
    (∀ (off : BitVec 28) (len : Nat), 1 ≤ len → len ≤ 4096 → off.toNat + len ≤ 2 ^ 28 →
      exec (.apertureRead (.bar2 off) len) s = .next (after (fun m => { m with
        out := m.out ++ [.apertureData (List.replicate len 0xFF) false] }) s)) ∧
    (∀ (q : Fin 16) (d : Option Desc), exec (.commandFetch q d) s = .next s)) ∧
  (∀ (s : State) (off : BitVec 24) (v : Word), Served s.m (off.toNat / 4 * 4) → off.toNat / 4 * 4 ≠ 0x10 →
    exec (.registerWrite off 0xF v) s = .next (accessed (hostWrite (off.toNat / 4 * 4) v s.start) s)) ∧
  (∀ (s : State) (off : BitVec 24) (be : BitVec 4) (v : Word), be ≠ 0xF →
    exec (.registerWrite off be v) s = .next (accessed (fun m => m) s)) ∧
  (∀ (s : State) (off : BitVec 24) (v : Word), off.toNat / 4 * 4 = 0x301C → Served s.m 0x301C →
    ∃ t, exec (.registerWrite off 0xF v) s = .next t ∧ t.pending = s.pending ∧ t.m.pwr = { s.m.pwr with evt := t.m.pwr.evt } ∧
      ∀ b, b < 12 → bit t.m.pwr.evt b = (bit s.m.pwr.evt b &&
        !(bit v b && bit s.start.pwr.evt b && !s.m.notes.raised.contains (0x301C, b)))) ∧
  (∀ (s : State) (m : Mach), (m.now = s.m.now → (s.to m).start = s.start ∧ (s.to m).m = m) ∧
    (m.now ≠ s.m.now → (s.to m).start = m.fresh ∧ (s.to m).m = m.fresh) ∧ (s.accessed m).start = m.fresh ∧ (s.accessed m).m = m.fresh ∧
    { m.fresh with notes := m.notes } = m ∧ m.fresh.notes.raised = []) ∧
  (∀ (s : State) (off : BitVec 24) (v : Word), off.toNat / 4 * 4 = 0x10014 → Served s.m 0x10014 →
    exec (.registerWrite off 0xF v) s = .next (accessed (fun m => { m with host := { m.host with irqMask := fld v 0 13 } }) s))

/-- Rules R164, R236, R237 and R557: a write of TEL_MSEL latches the margin of its core in the last sample, 0x80000000 where
the core was absent; CLR_ALL clears the trackers of a die, but not the updates of its reference cycle; EMC_SPLIT and EMC_RIMPH take a legal value before the lock, refuse
an illegal one, and take none after it. -/
def Sys2Proof.Spec.RegisterWritesWithAnEffectOfTheirOwn : Prop :=
  (∀ (s : State) (v : Word), Served s.m 0x2068 →
    exec (.telMselWrite v) s = .next (accessed (fun m => { m with weft := { m.weft with
      msel := fld v 0 15
      telMargin := ((s.start.weft.sample.find? (fun e => e.1 == (fld v 0 15 : BitVec 15).toNat)).map (·.2)).getD 0x80000000 } }) s)) ∧
  (∀ (s : State) (d : Fin 144) (v : Word), Served s.m (0x405000 + 0x10000 * d.val) →
    exec (.trkClrAll d v) s = .next (accessed (modDie d.val (fun x => { x with trk := { x.trk.settle s.m.now with
      perRound := bit v 0, live := if bit v 1 then [] else (x.trk.settle s.m.now).live } })) s)) ∧
  (∀ (s : State) (v : Word), Served s.m 0x100000 → s.m.start.locked = true → exec (.emcSplitWrite v) s = .next (accessed (fun m => m) s)) ∧
  (∀ (s : State) (v : Word) (a b c : BitVec 5), Served s.m 0x100000 → s.m.start.locked = false → fld v 0 5 = a → fld v 5 5 = b →
    fld v 10 5 = c → a ≠ 0 → b ≠ 0 → c ≠ 0 → a.toNat + b.toNat + c.toNat = 16 →
    exec (.emcSplitWrite v) s = .next (accessed (fun m => { m with edge := { m.edge with
      splitRead := a, splitWrite := b, splitRemote := c } }) s)) ∧
  (∀ (s : State) (v : Word) (a b c : BitVec 5), Served s.m 0x100000 → s.m.start.locked = false → fld v 0 5 = a → fld v 5 5 = b →
    fld v 10 5 = c → (a = 0 ∨ b = 0 ∨ c = 0 ∨ a.toNat + b.toNat + c.toNat ≠ 16) →
    exec (.emcSplitWrite v) s = .next (accessed (fun m => { m with edge := { m.edge with splitRej := true } }) s)) ∧
  (∀ (s : State) (v : Word), Served s.m 0x100004 → s.m.start.locked = true → exec (.emcRimphWrite v) s = .next (accessed (fun m => m) s)) ∧
  (∀ (s : State) (v : Word), Served s.m 0x100004 → s.m.start.locked = false → fld v 0 4 ≠ (0 : BitVec 4) →
    exec (.emcRimphWrite v) s = .next (accessed (fun m => { m with edge := { m.edge with rimph := fld v 0 4 } }) s)) ∧
  (∀ (s : State) (v : Word), Served s.m 0x100004 → s.m.start.locked = false → fld v 0 4 = (0 : BitVec 4) →
    exec (.emcRimphWrite v) s = .next (accessed (fun m => { m with edge := { m.edge with rimphRej := true } }) s))

/-- Rules R536, R544, R552 and R578: COMMIT makes the record valid, its event is held for the receiver or sent to it, and
cause LEDGER rises; after a record other than a SUMMARY a SUMMARY is due where events were suppressed. The record of a
new epoch puts the epoch in force, and a start goes on with its power sequence (R313, R503), but not without input or
with a module reset pending (R465, R505). A write sequence that ends leaves the running ones; a record whose COMMIT is
not programmed by then is to be written again; the blown fuses of an accepted key request make its key programmed or
revoked, and the command ends with status 0x00; a licence goes into the first store and then, with a sequence of its
own, into the second (R521); a record of a new epoch that fails twice ends the start (R523; log entry 46).
Readings and choices of the model's own in it: log entry 19. -/
def Obligations.LedgerAndFlashWritesEnd : Prop :=
  Sys2Proof.Spec.ACommittedRecordIsValid ∧
  Sys2Proof.Spec.WriteSequencesEndWithTheirResult

/-- Rules R547 to R549 and R555: a write of CAL_SET_HI whose top byte is 0xC5 steps the clock, clears the fraction and
LOST and writes a CLOCK_SET record; another top byte steps nothing; a read of CAL_SEC_LO latches the upper seconds and
the fraction; the clock stops with its battery while VAUX is down, and VBAK then reads a voltage below 2.2 V, which is
free (log entry 4). A write of TEL_MSEL latches the margin of its core in the last sample, 0x80000000 where the core
was absent; CLR_ALL clears the trackers of a die, but not the updates of its reference cycle; EMC_SPLIT and EMC_RIMPH
take a legal value before the lock, refuse an illegal one, and take none after it.
Readings and choices of the model's own in it: log entries 14 and 42. -/
def Obligations.TheCalendarAndRegisterEffects : Prop :=
  Sys2Proof.Spec.TheCalendarIsSetReadAndStopped ∧
  Sys2Proof.Spec.RegisterWritesWithAnEffectOfTheirOwn

/-! ### Cradle management and attestation -/

namespace Sys2Proof.Spec

open Sys2Proof.Machine

/-- Decnus answers on the cradle bus: it has power, and the module has left its unpowered state. -/
def OnBus (s : Mach) : Prop := s.start.state ≠ 0 ∧ s.pwr.vaux = true

/-- An answer leaves: its kind (0x00 MCTP, 0x10 + t PLDM type t, 0x05 SPDM, 0x01 DOE), its command, its code and its data. -/
def tells (group command code : Byte) (data : List Byte) (s : Mach) : Mach :=
  { s with out := s.out ++ [.reply { group := group, command := command, code := code, data := data }] }

/-- A firmware update over PLDM is at a stage. -/
def Updating (s : Mach) (x : Upd) (stage : UpdStage) : Prop := s.cradle.upd = some x ∧ x.host = false ∧ x.stage = stage

/-- The responder answers a request of a stage of its negotiation (R524). -/
def SpdmAt (s : Mach) (n : Nat) : Prop :=
  OnBus s ∧ (s.start.state = 7 ∨ s.start.state = 8) ∧ n ≤ s.cradle.spdm.toNat

end Sys2Proof.Spec

/-- Rules R548, R550, R560 and R599: the endpoint takes its addresses and answers the discovery commands and the clock
commands whenever it is on the bus. The numbers of commands and codes are the model's (log entry 27). -/
def Sys2Proof.Spec.TheEndpointAnswersDiscoveryAndTime : Prop :=
  ∀ (s : State), OnBus s.m →
    (∀ a, exec (.i3cDynamicAddress a) s = .next (after (fun m => { m with cradle := { m.cradle with i3c := a } }) s)) ∧
    (∀ e, exec (.setEndpointId e) s = .next (after (fun m =>
      tells 0x00 1 0 (bytesOf e) { m with cradle := { m.cradle with eid := e } }) s)) ∧
    exec .getEndpointId s = .next (after (fun m => tells 0x00 2 0 (bytesOf m.cradle.eid) m) s) ∧
    exec .getMctpVersionSupport s = .next (after (tells 0x00 4 0 [1, 0x00, 0xFF, 0xF3, 0xF1]) s) ∧
    exec .getMessageTypeSupport s = .next (after (tells 0x00 5 0 [2, 0x01, 0x05]) s) ∧
    exec .gettid s = .next (after (fun m => tells 0x10 2 0 (bytesOf m.cradle.eid) m) s) ∧
    exec .getpldmversion s = .next (after (tells 0x10 3 0 [0x00, 0xF0, 0xF0, 0xF1]) s) ∧
    exec .getpldmtypes s = .next (after (tells 0x10 4 0 [0x2D, 0, 0, 0, 0, 0, 0, 0]) s) ∧
    (∀ t : Byte, t ≠ 0 → t ≠ 2 → t ≠ 3 → t ≠ 5 → exec (.getpldmcommands t) s = .next (after (tells 0x10 5 0x83 []) s)) ∧
    exec (.getpldmcommands 0) s = .next (after (tells 0x10 5 0 (0x3C :: List.replicate 31 0)) s) ∧
    exec (.getpldmcommands 3) s = .next (after (tells 0x10 5 0 (0x00 :: 0x30 :: List.replicate 30 0)) s) ∧
    exec .getdatetime s = .next (after (fun m => tells 0x13 0x0C 0 (dateTime (calSec m).toNat) m) s) ∧
    (∀ sec, ∃ t, exec (.setdatetime sec) s = .next t ∧ t.pending = s.pending ∧ calSec t.m = sec ∧ calFrac t.m = 0 ∧
      t.m.cal.lost = false ∧ t.m.out = (tells 0x13 0x0D 0 [] s.m).out ∧ t.m.host = s.m.host ∧ t.m.cradle = s.m.cradle)

/-- Rule R560: the DOE mailbox carries the DOE Discovery object and the CMA/SPDM object, and answers while the link is up. -/
def Sys2Proof.Spec.TheMailboxListsItsObjects : Prop :=
  ∀ (s : State), s.m.start.state ≠ 0 → s.m.host.perst = false →
    exec (.doeDiscovery 0) s = .next (after (tells 0x01 0 0 [0x01, 0x00, 0x00, 0x01]) s) ∧
    exec (.doeDiscovery 1) s = .next (after (tells 0x01 0 0 [0x01, 0x00, 0x01, 0x00]) s) ∧
    (∀ i : Byte, 1 < i.toNat → exec (.doeDiscovery i) s = .next (after (tells 0x01 0 0 [0xFF, 0xFF, 0x00, 0x00]) s))

/-- Rules R33, R471, R551 and R552: the sensors read what they are named for; the effecter asks for a module reset or for a
power-off; the receiver is named, and held events are polled oldest first. -/
def Obligations.SensorsEffecterAndEvents : Prop :=
  ∀ (s : State), OnBus s.m →
    (∀ h : Word, Config.pdr h.toNat ≠ [] → exec (.getpdr h) s = .next (after (tells 0x12 0x51 0 (Config.pdr h.toNat)) s)) ∧
    (∀ h : Word, Config.pdr h.toNat = [] → exec (.getpdr h) s = .next (after (tells 0x12 0x51 0x82 []) s)) ∧
    exec (.getsensorreading 1) s = .next (after (fun m => tells 0x12 0x11 0 (bytesOf (fld m.pwr.feedAReg 0 16 : BitVec 16)) m) s) ∧
    exec (.getsensorreading 6) s = .next (after (fun m => tells 0x12 0x11 0 (bytesOf m.pwr.inlet) m) s) ∧
    exec (.getsensorreading 8) s = .next (after (fun m => tells 0x12 0x11 0 (bytesOf m.pwr.flow) m) s) ∧
    exec (.getsensorreading 12) s = .next (after (fun m => tells 0x12 0x11 0 (toBytes 2 (bankAvail m.pwr)) m) s) ∧
    exec (.getsensorreading 13) s = .next (after (fun m => tells 0x12 0x11 0 (bytesOf m.weft.minMargin) m) s) ∧
    (∀ i : BitVec 16, i = 0 ∨ 13 < i.toNat → exec (.getsensorreading i) s = .next (after (tells 0x12 0x11 0x80 []) s)) ∧
    exec (.getstatesensorreadings 14) s = .next (after (fun m => tells 0x12 0x21 0 [m.start.state.setWidth 8] m) s) ∧
    exec (.getstatesensorreadings 15) s = .next (after (fun m => tells 0x12 0x21 0 (bytesOf (pwrStat m.pwr)) m) s) ∧
    exec (.getstatesensorreadings 16) s = .next (after (fun m => tells 0x12 0x21 0 [if m.keep.faulted then 1 else 0] m) s) ∧
    (∀ i : BitVec 16, i.toNat < 14 ∨ 16 < i.toNat → exec (.getstatesensorreadings i) s = .next (after (tells 0x12 0x21 0x80 []) s)) ∧
    (s.m.start.state = 7 → s.m.ctl.modulePending = false → ∃ t, exec (.setstateeffecterstates 17 1) s = .next t ∧
      t.pending = s.pending ∧ t.m.ctl.modulePending = true ∧ t.m.ctl.cause = 3 ∧ t.m.ctl.scope = 0 ∧ t.m.led.sumFinal = true ∧
      t.m.out = (tells 0x12 0x39 0 [] s.m).out) ∧
    (s.m.pwr.down = none → exec (.setstateeffecterstates 17 2) s = .next (after (fun m =>
      tells 0x12 0x39 0 [] { m with led := { m.led with sumFinal := true } }) s)) ∧
    (s.m.pwr.down ≠ none → exec (.setstateeffecterstates 17 2) s = .next (after (tells 0x12 0x39 0 []) s)) ∧
    (∀ x, x ≠ 1 → x ≠ 2 →
      exec (.setstateeffecterstates 17 x) s = .next (after (tells 0x12 0x39 0x81 []) s)) ∧
    (∀ e x, e ≠ 17 → exec (.setstateeffecterstates e x) s = .next (after (tells 0x12 0x39 0x80 []) s)) ∧
    (∀ e : Byte, exec (.seteventreceiver e) s = .next (after (fun m => tells 0x12 0x04 0 []
      { m with cradle := { m.cradle with receiver := if e = 0 then none else some e } }) s)) ∧
    (s.m.cradle.held = [] → exec .pollforplatformeventmessage s = .next (after (tells 0x12 0x0B 0 []) s)) ∧
    (∀ r rest, s.m.cradle.held = r :: rest → exec .pollforplatformeventmessage s = .next (after (fun m =>
      tells 0x12 0x0B 0 (cper m.start.serial r) { m with cradle := { m.cradle with held := rest } }) s))

/-- Rule R553: an update over PLDM goes through its stages, one at a time, into the slot not in use; its data arrives in order
and is written in write sequences; a cancelled update leaves its FW_UPDATE record. -/
def Obligations.FirmwareUpdatesGoThroughTheirStages : Prop :=
  ∀ (s : State), OnBus s.m →
    exec .querydeviceidentifiers s = .next (after (tells 0x15 1 0
      [0x53, 0x50, 0x54, 0x4B, 0x2D, 0x5A, 0x57, 0x39, 0x36, 0x96, 0x00, 0x02]) s) ∧
    exec .getfirmwareparameters s = .next (after (fun m => tells 0x15 2 0 ([if m.start.slot then 1 else 0] ++
      bytesOf m.start.seq ++ [if m.start.activate then 1 else 0]) m) s) ∧
    (s.m.cradle.upd = none → exec .requestupdate s = .next (after (fun m => tells 0x15 0x10 0 [] { m with
      cradle := { m.cradle with upd := some { host := false, stage := .ready, slot := !m.start.slot, length := 0, data := [] } } }) s)) ∧
    (s.m.cradle.upd ≠ none → exec .requestupdate s = .next (after (tells 0x15 0x10 0x81 []) s)) ∧
    (∀ x, Updating s.m x .ready → exec .passcomponenttable s = .next (after (fun m => tells 0x15 0x13 0 [] { m with
      cradle := { m.cradle with upd := some { x with stage := .table } } }) s)) ∧
    (s.m.cradle.upd = none → exec .passcomponenttable s = .next (after (tells 0x15 0x13 0x80 []) s)) ∧
    (∀ x (n : Word), Updating s.m x .table → n ≠ 0 → n.toNat ≤ 0x4000000 →
      exec (.updatecomponent n) s = .next (after (fun m => tells 0x15 0x15 0 [0, 0, 0, 0] (tells 0x15 0x14 0 [] { m with
        cradle := { m.cradle with upd := some { x with stage := .transfer, length := n.toNat, data := [] } } })) s)) ∧
    (∀ x (off : Word) (data : List Byte), Updating s.m x .transfer → off.toNat = x.data.length → data ≠ [] →
      x.data.length + data.length < x.length →
      exec (.requestfirmwaredata off data) s = .next (after (fun m =>
        tells 0x15 0x15 0 (toBytes 4 (x.data.length + data.length)) { m with
          cradle := { m.cradle with upd := some { x with data := x.data ++ data } } }) s)) ∧
    (∀ x (off : Word) (data : List Byte), Updating s.m x .transfer → off.toNat = x.data.length → data ≠ [] →
      x.data.length + data.length = x.length → s.m.pwr.waiting = [] →
      let n := x.data.length + data.length
      let w : WSeq := { kind := .image (!s.m.start.slot) (x.data ++ data) (ceilDiv n 65536 - 1) none
                        cost := seqCost (min 256 (ceilDiv n 256)) 1 }
      mayStart s.m w.cost = true →
      exec (.requestfirmwaredata off data) s = .next (after (fun m => tells 0x15 0x16 0 [] { m with
        cradle := { m.cradle with upd := some { x with data := x.data ++ data } }
        pwr := { m.pwr with running := m.pwr.running ++ [{ w with since := m.now }] } }) s)) ∧
    (∀ x, Updating s.m x .complete → exec .activatefirmware s = .next (after (fun m => tells 0x15 0x1A 0 [] { m with
      start := { m.start with activate := true }, cradle := { m.cradle with upd := none } }) s)) ∧
    (∀ x, Updating s.m x .failed → exec .activatefirmware s = .next (after (tells 0x15 0x1A 0x84 []) s)) ∧
    exec .getstatus s = .next (after (fun m => tells 0x15 0x1B 0 [BitVec.ofNat 8 (updState m.cradle.upd)] m) s) ∧
    (∀ x, s.m.cradle.upd = some x → x.host = false → ∃ t, exec .cancelupdate s = .next t ∧ t.pending = s.pending ∧
      t.m.cradle.upd = none ∧ t.m.led = queueEvent (mkEvent s.m 0x63 0 0 0xFFFF 0xFFFF 0
        ([if x.slot then 1 else 0] ++ toBytes 8 (upSeq x.data) ++ [2])) s.m.led ∧
      t.m.out = (tells 0x15 0x1D 0 [] s.m).out ∧ t.m.start = s.m.start ∧ t.m.pwr.running = s.m.pwr.running)

/-- Rule R524: the SPDM responder answers from READY on and in recovery, version, capabilities and algorithms first; it offers
SHA-384 and ECDSA P-384, serves the certificate chain of slot 0, signs challenges, and serves measurements 1 to 8, in recovery
1 and 6 alone, signed with a nonce where a signature is asked for. The layout of its answers is the model's (log entry 27). -/
def Obligations.TheSpdmResponderAttests : Prop :=
  (∀ (s : State), SpdmAt s.m 0 →
    exec .getVersion s = .next (after (fun m => tells 0x05 0x04 0 [0x13] { m with cradle := { m.cradle with spdm := 1 } }) s)) ∧
  (∀ (s : State), SpdmAt s.m 1 →
    exec .getCapabilities s = .next (after (fun m => tells 0x05 0x61 0 [0x16, 0, 0, 0] { m with cradle := { m.cradle with spdm := 2 } })
      s)) ∧
  (∀ (s : State), SpdmAt s.m 2 →
    exec (.negotiateAlgorithms true true) s = .next (after (fun m => tells 0x05 0x63 0 [0x80, 0, 0, 0, 2, 0, 0, 0]
      { m with cradle := { m.cradle with spdm := 3 } }) s) ∧
    ∀ h g, (h && g) = false → exec (.negotiateAlgorithms h g) s = .next (after (tells 0x05 0x7F 1 []) s)) ∧
  (∀ (s : State), SpdmAt s.m 3 →
    exec .getDigests s = .next (after (tells 0x05 0x01 0 (1 :: bytesOf (sha384 Config.certChain))) s) ∧
    (∀ off n : BitVec 16, off.toNat ≤ Config.certChain.length → exec (.getCertificate 0 off n) s =
      .next (after (tells 0x05 0x02 0 ((Config.certChain.drop off.toNat).take n.toNat)) s)) ∧
    (∀ (slot : Byte) (off n : BitVec 16), slot ≠ 0 → exec (.getCertificate slot off n) s = .next (after (tells 0x05 0x7F 1 []) s)) ∧
    (∀ nonce, exec (.challenge 0 nonce) s = .next (after (tells 0x05 0x03 0 (bytesOf (sha384 Config.certChain) ++ bytesOf nonce ++
      Config.sign (sha384 (bytesOf (sha384 Config.certChain) ++ bytesOf nonce)))) s)) ∧
    (∀ (slot : Byte) nonce, slot ≠ 0 → exec (.challenge slot nonce) s = .next (after (tells 0x05 0x7F 1 []) s)) ∧
    (s.m.start.state = 7 → exec (.getMeasurements ⟨0, none⟩) s = .next (after (tells 0x05 0x60 0 [8]) s)) ∧
    (s.m.start.state = 8 → exec (.getMeasurements ⟨0, none⟩) s = .next (after (tells 0x05 0x60 0 [2]) s)) ∧
    (∀ i : Byte, s.m.start.state = 7 → 1 ≤ i.toNat → i.toNat ≤ 8 → exec (.getMeasurements ⟨i, none⟩) s =
      .next (after (fun m => tells 0x05 0x60 0 ([i, BitVec.ofNat 8 (measType i.toNat)] ++ bytesOf (tget 0 m.start.meas i.toNat)) m) s)) ∧
    (s.m.start.state = 8 → exec (.getMeasurements ⟨1, none⟩) s = .next (after (tells 0x05 0x60 0 ([1, 0] ++ bytesOf Config.romDigest)) s)) ∧
    (s.m.start.state = 7 → exec (.getMeasurements ⟨0xFF, none⟩) s = .next (after (fun m => tells 0x05 0x60 0
      ([1, 2, 3, 4, 5, 6, 7, 8].flatMap (fun i => [BitVec.ofNat 8 i, BitVec.ofNat 8 (measType i)] ++ bytesOf (tget 0 m.start.meas i))) m)
      s)) ∧
    (∀ (i : Byte) (nonce : BitVec 256) (x : List Byte), measData i.toNat s.m = some x →
      exec (.getMeasurements ⟨i, some (0, nonce)⟩) s =
        .next (after (tells 0x05 0x60 0 (x ++ bytesOf nonce ++ Config.sign (sha384 (x ++ bytesOf nonce)))) s)) ∧
    (∀ (i slot : Byte) (nonce : BitVec 256), slot ≠ 0 →
      exec (.getMeasurements ⟨i, some (slot, nonce)⟩) s = .next (after (tells 0x05 0x7F 1 []) s)) ∧
    (∀ i : Byte, s.m.start.state = 8 → i ≠ 0 → i ≠ 1 → i ≠ 6 → i ≠ 0xFF → exec (.getMeasurements ⟨i, none⟩) s =
      .next (after (tells 0x05 0x7F 1 []) s))) ∧
  (∀ (s : State), OnBus s.m → (s.m.start.state = 7 ∨ s.m.start.state = 8) → s.m.cradle.spdm.toNat < 3 →
    exec .getDigests s = .next (after (tells 0x05 0x7F 4 []) s)) ∧
  (∀ (s : State), s.m.start.state ≠ 7 → s.m.start.state ≠ 8 → exec .getVersion s = .next s)

/-- Rules R548, R550, R560 and R599: the endpoint takes its addresses and answers the discovery commands and the clock
commands whenever it is on the bus. The numbers of commands and codes are the model's (log entry 27). The DOE mailbox
carries the DOE Discovery object and the CMA/SPDM object, and answers while the link is up. -/
def Obligations.TheCradleEndpointAnswers : Prop :=
  Sys2Proof.Spec.TheEndpointAnswersDiscoveryAndTime ∧
  Sys2Proof.Spec.TheMailboxListsItsObjects

/-! ### The host link: its resets, the aperture, the rings and the interrupt causes -/

namespace Sys2Proof.Spec

open Sys2Proof.Machine

/-- Everything but the host block is what it was. -/
def OnlyHost (s t : State) : Prop := t.pending = s.pending ∧ t.m = { s.m with host := t.m.host }

/-- A ring after the host block was reset: disabled, its registers at their reset values; what it had accepted runs on, and
no completion of it is written (R561). -/
def RingGone (r : Ring) : Prop := r = { Ring.reset with cmds := r.cmds } ∧ ∀ c ∈ r.cmds, c.mode = .orphan

/-- The host block has taken the reset values of its registers (R561, R579 to R582). -/
def HostCleared (h : HostBlk) : Prop :=
  h.apsel = 0 ∧ h.apPartial = 0 ∧ h.apKeep = 0 ∧ h.apNotServ = 0 ∧ h.irqCause = 0 ∧ h.irqMask = 0x1FFC ∧ h.irqMap = [] ∧
    h.msixTab = [] ∧ h.msixPend = 0 ∧ h.turn = 0 ∧ ∀ e ∈ h.rings, RingGone e.2

/-- Ring q has stopped with an error code (R564 to R566, R581): what it has accepted runs on, unwritten; cause RING rises. -/
def ringHalts (q : Nat) (err : Byte) (m : Mach) : Mach :=
  raiseIrq 2 (modRing q (fun r => { r with
    stopped := true, halted := true, err := err
    cmds := r.cmds.map (fun c => { c with mode := if c.mode = .normal then .unwritten else c.mode })
    fin := r.fin.map (fun c => { c with mode := if c.mode = .normal then .unwritten else c.mode }) }) m)

/-- Ring q is enabled and has not stopped. -/
def RingOn (s : Mach) (q : Nat) : Prop := (ringAt s q).en = true ∧ (ringAt s q).halted = false

/-- An access of the aperture that is served (R563): the module is READY, the stack serves, and the range is no keep region. -/
def ApServed (s : Mach) (off : BitVec 36) (len : Nat) : Prop :=
  s.start.state = 7 ∧ stackOut s s.host.apsel.toNat = false ∧
    (s.edge.keepEn = true → (apEa s off) % 2 ^ 36 + len ≤ 0xC00000000)

/-- The rise of cause c is noted for the cycle (R587). -/
def causeNoted (c : Nat) (m : Mach) : Mach := { m with notes := { m.notes with raised := (0x10010, c) :: m.notes.raised } }

/-- The descriptor `d` is accepted by ring q (R565, R566): its slot of the ring is consumed, a completion slot reserved, and the turn passed
on; commands of an opcode that their version lacks end when they are due. -/
def accepts (q : Nat) (d : Desc) (m : Mach) : Mach :=
  let r := ringAt m q
  let last := r.cpTail.toNat + 1 = ringSize r.cpLog2
  let c : RunCmd := { tok := m.host.accepted, desc := d, started := false, mode := .normal, slot := r.cpTail.toNat, phase := r.phase
                      ver := ringVer r }
  let m1 := modRing q (fun r => { r with
    head := BitVec.ofNat 16 ((r.head.toNat + 1) % ringSize r.log2), used := r.used + 1
    cpTail := if last then 0 else r.cpTail + 1, phase := if last then !r.phase else r.phase, cmds := r.cmds ++ [c] }) m
  settleUnknown q { m1 with host := { m1.host with turn := (q + 1) % 16, accepted := m1.host.accepted + 1 } }

/-- The next descriptor of ring q can be fetched (R566). -/
def Fetchable (s : Mach) (q : Nat) : Prop :=
  s.start.state = 7 ∧ s.host.perst = false ∧ restarting s = false ∧ ringTurn s = some q

/-- An access lies in BAR4, or in BAR2 of a module that serves it (R504, R562). -/
def InBar4 (off : BitVec 36) (len : Nat) : Prop := 1 ≤ len ∧ len ≤ 4096 ∧ off.toNat + len ≤ 2 ^ 36
def InBar2 (s : Mach) (off : BitVec 28) (len : Nat) : Prop :=
  1 ≤ len ∧ len ≤ 4096 ∧ off.toNat + len ≤ 2 ^ 28 ∧ s.start.state = 7 ∧ s.host.perst = false

end Sys2Proof.Spec

/-- Rules R558, R561 and R598: a Function Level Reset takes the host block to its reset values, is counted, and touches
nothing else; PERST# takes the link down, and from READY on the host block with it; its release trains the link again, at
the highest generation, the widest width and the mode that both ends support. -/
def Obligations.TheHostBlockIsReset : Prop :=
  (∀ (s : State), ∃ t, exec .functionLevelReset s = .next t ∧ OnlyHost s t ∧ HostCleared t.m.host ∧
    t.m.host.flrCnt = satInc s.m.host.flrCnt ∧ t.m.host.gen = s.m.host.gen ∧ t.m.host.width = s.m.host.width ∧
    t.m.host.qmem = s.m.host.qmem) ∧
  (∀ (s : State), 7 ≤ s.m.start.state.toNat → ∃ t, exec .perstAssert s = .next t ∧ OnlyHost s t ∧ HostCleared t.m.host ∧
    t.m.host.perst = true ∧ t.m.host.gen = 0 ∧ t.m.host.width = 0 ∧ t.m.host.flrCnt = s.m.host.flrCnt) ∧
  (∀ (s : State), s.m.start.state.toNat < 7 → exec .perstAssert s = .next (after (fun m => { m with host := { m.host with
    perst := true, gen := 0, width := 0, flitMode := false } }) s)) ∧
  (∀ (s : State) (g w : BitVec 5) (f : Bool), s.m.host.perst = true →
    let n := min (fld g 0 4 : BitVec 4).toNat (if f then 6 else 5)
    let k := ([16, 8, 4, 2, 1].find? (fun i => decide (i ≤ w.toNat))).getD 0
    (3 ≤ n → k ≠ 0 → exec (.perstRelease g w f) s = .next (after (fun m => { m with host := { m.host with
      perst := false, peerGen := fld g 0 4, peerWidth := w, peerFlit := f, gen := BitVec.ofNat 4 n, width := BitVec.ofNat 5 k
      flitMode := decide (n = 6) } }) s)) ∧
    (n < 3 ∨ k = 0 → exec (.perstRelease g w f) s = .next (after (fun m => { m with host := { m.host with
      perst := false, peerGen := fld g 0 4, peerWidth := w, peerFlit := f, gen := 0, width := 0, flitMode := false } }) s)))

/-- Rules R562 and R563: a served read of the aperture returns the bytes of edge memory; one that is not served returns ones,
poisoned where its stack does not serve, and is counted; a served write of whole 32-byte units stores its bytes and nothing
else, and a write of a part of a unit stores none and is counted. In BAR2 the doorbells read as zero and are rung by a
write of four bytes, queue memory reads and stores its bytes, and all else reads ones and takes no write. -/
def Obligations.TheApertureReachesEdgeMemory : Prop :=
  (∀ (s : State) (off : BitVec 36) (len : Nat), InBar4 off len → ApServed s.m off len →
    (∀ cw, apEa s.m off / 32 ≤ cw → 32 * cw < apEa s.m off + len → GoodCw s.m cw) →
    exec (.apertureRead (.bar4 off) len) s = .next (after (fun m => useUnits 2 (apEa m off) len
      { m with out := m.out ++ [.apertureData (rdBytes m.edge.mem (apEa m off) len) false] }) s)) ∧
  (∀ (s : State) (off : BitVec 36) (len : Nat), InBar4 off len → s.m.start.state ≠ 7 →
    exec (.apertureRead (.bar4 off) len) s = .next (after (fun m => { m with
      out := m.out ++ [.apertureData (List.replicate len 0xFF) false] }) s)) ∧
  (∀ (s : State) (off : BitVec 36) (len : Nat), InBar4 off len → s.m.start.state = 7 →
    stackOut s.m s.m.host.apsel.toNat = true →
    exec (.apertureRead (.bar4 off) len) s = .next (after (fun m => { m with
      out := m.out ++ [.apertureData (List.replicate len 0xFF) true]
      host := { m.host with apNotServ := satInc m.host.apNotServ } }) s)) ∧
  (∀ (s : State) (off : BitVec 36) (data : List Byte), InBar4 off data.length → ApServed s.m off data.length →
    off.toNat % 32 = 0 → data.length % 32 = 0 → Undisturbed s.m s.m.host.apsel.toNat →
    ∃ t, exec (.apertureWrite (.bar4 off) data) s = .next t ∧ t.pending = s.pending ∧
      (∀ i, i < data.length → rd t.m.edge.mem (apEa s.m off + i) = data.getD i 0) ∧
      (∀ a, a < apEa s.m off ∨ apEa s.m off + data.length ≤ a → rd t.m.edge.mem a = rd s.m.edge.mem a) ∧
      (Unhurried s.m s.m.host.apsel.toNat 2 (apEa s.m off) → apEa s.m off % 256 + data.length ≤ 256 →
        (stkAt t.m s.m.host.apsel.toNat).rmu = satInc (stkAt s.m s.m.host.apsel.toNat).rmu) ∧
      t.m.host = s.m.host ∧ t.m.out = s.m.out) ∧
  (∀ (s : State) (off : BitVec 36) (data : List Byte), InBar4 off data.length → ApServed s.m off data.length →
    off.toNat % 32 ≠ 0 ∨ data.length % 32 ≠ 0 →
    exec (.apertureWrite (.bar4 off) data) s = .next (after (fun m => { m with
      host := { m.host with apPartial := satInc m.host.apPartial } }) s)) ∧
  (∀ (s : State) (off : BitVec 28) (len : Nat), InBar2 s.m off len →
    let byte (i : Nat) : Byte :=
      if off.toNat + i < 0x10000 then 0
      else if 0x1000000 ≤ off.toNat + i ∧ off.toNat + i < 0x1400000 then rd s.m.host.qmem (off.toNat + i - 0x1000000) else 0xFF
    exec (.apertureRead (.bar2 off) len) s = .next (after (fun m => { m with
      out := m.out ++ [.apertureData ((List.range len).map byte) false] }) s)) ∧
  (∀ (s : State) (off : BitVec 28) (data : List Byte), InBar2 s.m off data.length → 0x1000000 ≤ off.toNat →
    off.toNat + data.length ≤ 0x1400000 →
    ∃ t, exec (.apertureWrite (.bar2 off) data) s = .next t ∧ OnlyHost s t ∧ t.m.host = { s.m.host with qmem := t.m.host.qmem } ∧
      (∀ i, i < data.length → rd t.m.host.qmem (off.toNat - 0x1000000 + i) = data.getD i 0) ∧
      (∀ a, a < off.toNat - 0x1000000 ∨ off.toNat - 0x1000000 + data.length ≤ a → rd t.m.host.qmem a = rd s.m.host.qmem a)) ∧
  (∀ (s : State) (off : BitVec 28) (data : List Byte), InBar2 s.m off data.length →
    (0x10000 ≤ off.toNat ∧ off.toNat + data.length ≤ 0x1000000) ∨ 0x1400000 ≤ off.toNat →
    exec (.apertureWrite (.bar2 off) data) s = .next s) ∧
  (∀ (s : State) (q : Fin 16) (v : Word), s.m.start.state = 7 → s.m.host.perst = false →
    exec (.apertureWrite (.bar2 (BitVec.ofNat 28 (0x1000 * q.val))) (bytesOf v)) s = exec (.cqTail q v) s ∧
    exec (.apertureWrite (.bar2 (BitVec.ofNat 28 (0x1000 * q.val + 4))) (bytesOf v)) s = exec (.cpHead q v) s)

/-- Rules R564, R565 and R581: a ring is enabled only when no completion of it is due, and starts from slot 0 with phase 1; it
is disabled by clearing EN alone; any other write of its registers while EN is 1 stops it with code 4; a doorbell moves
the ring or, out of range, stops it with code 1. -/
def Sys2Proof.Spec.RingsAreConfiguredAndRung : Prop :=
  (∀ (s : State) (q : Fin 16) (v : Word), Served s.m (0x10108 + 0x40 * q.val) → (ringAt s.m q.val).en = false →
    inflight (ringAt s.m q.val) = 0 →
    exec (.ringEnable q v) s = .next (accessed (modRing q.val (fun r => { r with
      en := true, loc := bit v 30, ver := fld v 28 2, log2 := fld v 0 5, head := 0, cpTail := 0, phase := true, stopped := false
      halted := false, err := 0, tailDb := 0, headDb := 0, used := 0, fin := [] })) s)) ∧
  (∀ (s : State) (q : Fin 16) (v : Word), Served s.m (0x10108 + 0x40 * q.val) → (ringAt s.m q.val).en = true →
    bit v 30 = (ringAt s.m q.val).loc → fld v 28 2 = (ringAt s.m q.val).ver → fld v 0 5 = (ringAt s.m q.val).log2 →
    exec (.ringDisable q v) s = .next (accessed (modRing q.val (fun r => { r with en := false })) s)) ∧
  (∀ (s : State) (q : Fin 16) (off : BitVec 6) (v : Word), Served s.m (0x10100 + 0x40 * q.val) →
    (ringAt s.m q.val).en = true → off ∈ ([0x00, 0x04, 0x0C, 0x10, 0x14, 0x18, 0x1C, 0x20] : List (BitVec 6)) →
    exec (.ringConfigViolation q off v) s = .next (accessed (ringHalts q.val 4) s)) ∧
  (∀ (s : State) (q : Fin 16) (v : Word), Served s.m (0x10100 + 0x40 * q.val) → (ringAt s.m q.val).en = false →
    exec (.ringConfigViolation q 0x04 v) s = .next (accessed (modRing q.val (fun r => { r with
      cqBase := v ++ fld r.cqBase 0 32 })) s)) ∧
  (∀ (s : State) (q : Fin 16) (v : Word), RingOn s.m q.val → (fld v 0 16 : BitVec 16).toNat < ringSize (ringAt s.m q.val).log2 →
    exec (.cqTail q v) s = .next (after (modRing q.val (fun r => { r with tailDb := fld v 0 16 })) s)) ∧
  (∀ (s : State) (q : Fin 16) (v : Word), RingOn s.m q.val → ringSize (ringAt s.m q.val).log2 ≤ (fld v 0 16 : BitVec 16).toNat →
    exec (.cqTail q v) s = .next (after (ringHalts q.val 1) s)) ∧
  (∀ (s : State) (q : Fin 16) (v : Word), RingOn s.m q.val → (fld v 0 16 : BitVec 16).toNat < ringSize (ringAt s.m q.val).cpLog2 →
    exec (.cpHead q v) s = .next (after (modRing q.val (fun r => { r with
      headDb := fld v 0 16
      used := r.used - ((fld v 0 16 : BitVec 16).toNat + ringSize r.cpLog2 - r.headDb.toNat) % ringSize r.cpLog2 })) s)) ∧
  (∀ (s : State) (q : Fin 16) (v : Word), RingOn s.m q.val → ringSize (ringAt s.m q.val).cpLog2 ≤ (fld v 0 16 : BitVec 16).toNat →
    exec (.cpHead q v) s = .next (after (ringHalts q.val 1) s))

/-- Rules R564 to R566 and R569: the next descriptor of the ring whose turn it is is accepted, with a completion slot reserved
and the turn passed on; a failed fetch stops the ring with code 2; an opcode that the ring's version does not have ends
with status 0x01, at once, or with BARRIER set once the commands before it have ended. -/
def Sys2Proof.Spec.DescriptorsAreFetchedInTurn : Prop :=
  (∀ (s : State) (q : Fin 16) (d : Desc), Fetchable s.m q.val → (ringAt s.m q.val).loc = false →
    exec (.commandFetch q (some d)) s = .next (after (accepts q.val d) s)) ∧
  (∀ (s : State) (q : Fin 16), Fetchable s.m q.val → (ringAt s.m q.val).loc = false →
    exec (.commandFetch q none) s = .next (after (ringHalts q.val 2) s)) ∧
  (∀ (s : State) (q : Fin 16), Fetchable s.m q.val → (ringAt s.m q.val).loc = true →
    let a := (ringAt s.m q.val).cqBase.toNat + 64 * (ringAt s.m q.val).head.toNat
    (0x1000000 ≤ a → a + 64 ≤ 0x1400000 → exec (.commandFetch q none) s =
      .next (after (accepts q.val (BitVec.ofNat 512 (rdNum s.m.host.qmem (a - 0x1000000) 64))) s)) ∧
    (a < 0x1000000 ∨ 0x1400000 < a + 64 → ∀ d, exec (.commandFetch q d) s = .next (after (ringHalts q.val 2) s))) ∧
  (∀ (s : Mach) (q : Nat), (∀ c ∈ (ringAt s q).cmds, c.started = false → knownOpc c.ver (cB c.desc 0 1) = true) →
    settleUnknown q s = s) ∧
  (∀ (s : State) (q : Fin 16) (d : Desc), Fetchable s.m q.val → (ringAt s.m q.val).loc = false → (ringAt s.m q.val).cmds = [] →
    knownOpc (ringVer (ringAt s.m q.val)) (cB d 0 1) = false →
    ∃ t, exec (.commandFetch q (some d)) s = .next t ∧ t.pending = s.pending ∧ (ringAt t.m q.val).cmds = [] ∧
      let e : Compl :=
        { cid := fld d 16 16, opc := fld d 0 8, irq := bit d 8, status := 0x01, detail := 0, mode := .normal
          slot := (ringAt s.m q.val).cpTail.toNat, phase := (ringAt s.m q.val).phase }
      (ringAt t.m q.val).fin = (ringAt s.m q.val).fin ++ [e]) ∧
  (∀ (s : State) (q : Fin 16) (d : Desc) (c : RunCmd), Fetchable s.m q.val → (ringAt s.m q.val).loc = false →
    (ringAt s.m q.val).cmds = [c] → c.started = true → c.tok ≠ s.m.host.accepted → bit d 9 = true →
    knownOpc (ringVer (ringAt s.m q.val)) (cB d 0 1) = false →
    ∃ t x, exec (.commandFetch q (some d)) s = .next t ∧ t.pending = s.pending ∧ (ringAt t.m q.val).cmds = [c, x] ∧ x.desc = d ∧
      (ringAt t.m q.val).fin = (ringAt s.m q.val).fin) ∧
  (∀ (s : State) (q : Fin 16) (d : Option Desc), ringTurn s.m ≠ some q.val → exec (.commandFetch q d) s = .next s)

/-- Rules R566, R568 and R577: the completion of a command is written to its slot as 16 bytes, with the interrupt it asks for
at once where CNT is 0; entries with IRQ set gather until their count or their time is reached; a failed write stops the ring
with code 3.
Readings and choices of the model's own in it: log entry 20. -/
def Obligations.CompletionsAreWrittenToTheirSlots : Prop :=
  (∀ (s : State) (q : Fin 16) (c : Compl) (rest : List Compl), (ringAt (settleUnknown q.val s.m) q.val).fin = c :: rest →
    (∀ x ∈ c :: rest, x.mode = .normal) → c.irq = false →
    exec (.completionWrite q true) s = .next (after (fun m0 =>
      let m := settleUnknown q.val m0
      let m1 := modRing q.val (fun r => { r with fin := rest }) m
      { m1 with out := m1.out ++ [.completion q.val c.slot (entryBytes q.val (ringAt m q.val).head c)] }) s)) ∧
  (∀ (s : State) (q : Fin 16) (c : Compl) (rest : List Compl), (ringAt (settleUnknown q.val s.m) q.val).fin = c :: rest →
    (∀ x ∈ c :: rest, x.mode = .normal) → c.irq = true → (ringAt s.m q.val).coalCnt = 0 →
    exec (.completionWrite q true) s = .next (after (fun m0 =>
      let m := settleUnknown q.val m0
      let m1 := modRing q.val (fun r => { r with fin := rest }) m
      sendVector (ringAt m q.val).vector
        { m1 with out := m1.out ++ [.completion q.val c.slot (entryBytes q.val (ringAt m q.val).head c)] }) s)) ∧
  (∀ (s : State) (q : Fin 16) (c : Compl) (rest : List Compl), (ringAt (settleUnknown q.val s.m) q.val).fin = c :: rest →
    (∀ x ∈ c :: rest, x.mode = .normal) →
    exec (.completionWrite q false) s = .next (after (fun m =>
      ringHalts q.val 3 (modRing q.val (fun r => { r with fin := rest }) (settleUnknown q.val m))) s)) ∧
  (∀ (s : State) (q : Fin 16), (ringAt s.m q.val).coal ≠ 0 →
    exec (.coalesceTimer q) s = .next (after (fun m => sendVector (ringAt m q.val).vector
      (modRing q.val (fun r => { r with coal := 0 }) m)) s)) ∧
  (∀ (q : Nat) (head : BitVec 16) (c : Compl), fld (entryBytes q head c) 0 16 = c.cid ∧ fld (entryBytes q head c) 16 8 = c.opc ∧
    fld (entryBytes q head c) 24 8 = c.status ∧ fld (entryBytes q head c) 32 16 = head ∧
    fld (entryBytes q head c) 56 8 = (if c.phase then (1 : Byte) else 0) ∧ fld (entryBytes q head c) 64 64 = c.detail)

/-- Rules R577, R578 and R582: a cause that rises sets its bit and, unless masked, sends the vector mapped to it, which stays
pending while its MSI-X entry is masked; a cause that is set already does nothing; a write of ones clears the causes whose
sources hold no bit, and the others rise again; one that rose in the same cycle stays (R587).
Readings and choices of the model's own in it: log entries 41 and 47. -/
def Obligations.CausesRiseAndAreCleared : Prop :=
  (∀ (s : Mach) (c : Nat), bit s.host.irqCause c = true → raiseIrq c s = causeNoted c s) ∧
  (∀ (s : Mach) (c : Nat), c < 13 → bit s.host.irqCause c = false → bit s.host.irqMask c = true →
    raiseIrq c s = { causeNoted c s with host := { s.host with irqCause := setBit s.host.irqCause c } }) ∧
  (∀ (s : Mach) (c : Nat), c < 13 → bit s.host.irqCause c = false → bit s.host.irqMask c = false →
    bit (tget (1 : Word) s.host.msixTab (4 * (tget 0 s.host.irqMap c).toNat + 3)) 0 = false →
    raiseIrq c s = { causeNoted c s with
      host := { s.host with irqCause := setBit s.host.irqCause c }, out := s.out ++ [.vector (tget 0 s.host.irqMap c)] }) ∧
  (∀ (s : Mach) (c : Nat), c < 13 → bit s.host.irqCause c = false → bit s.host.irqMask c = false →
    bit (tget (1 : Word) s.host.msixTab (4 * (tget 0 s.host.irqMap c).toNat + 3)) 0 = true →
    raiseIrq c s = { causeNoted c s with host := { s.host with
      irqCause := setBit s.host.irqCause c, msixPend := setBit s.host.msixPend (tget 0 s.host.irqMap c).toNat } }) ∧
  (∀ (s : State) (v : Word), Served s.m 0x10010 → (∀ c, c < 13 → bit v c = true → irqHolds s.m c = false) →
    exec (.hostIrqCauseWrite v) s = .next (accessed (fun m => { m with host := { m.host with
      irqCause := m.host.irqCause &&& ~~~ 
        (fld v 0 13 &&& ~~~ ((m.host.irqCause &&& ~~~ s.start.host.irqCause) ||| fld (noted m 0x10010) 0 13)) } }) s)) ∧
  (∀ (s : State) (v : Word) (c : Nat), Served s.m 0x10010 → c < 13 → bit v c = true → irqHolds s.m c = true →
    bit s.m.host.irqCause c = true ∨ (0x10010, c) ∉ s.m.notes.raised →
    ∃ t, exec (.hostIrqCauseWrite v) s = .next t ∧ t.pending = s.pending ∧ bit t.m.host.irqCause c = true)

/-- Rules R564, R565 and R581: a ring is enabled only when no completion of it is due, and starts from slot 0 with phase
1; it is disabled by clearing EN alone; any other write of its registers while EN is 1 stops it with code 4; a
doorbell moves the ring or, out of range, stops it with code 1. The next descriptor of the ring whose turn it is is
accepted, with a completion slot reserved and the turn passed on; a failed fetch stops the ring with code 2; an opcode
that the ring's version does not have ends with status 0x01, at once, or with BARRIER set once the commands before it
have ended.
Readings and choices of the model's own in it: log entries 20 and 28. -/
def Obligations.RingsAndTheirDescriptors : Prop :=
  Sys2Proof.Spec.RingsAreConfiguredAndRung ∧
  Sys2Proof.Spec.DescriptorsAreFetchedInTurn

/-! ### The host commands -/

namespace Sys2Proof.Spec

open Sys2Proof.Machine

/-- The ROUND field at a byte of the descriptor names round m, which has not started (R569). -/
def NamesRound (s : Mach) (q : Nat) (c : RunCmd) (d : Desc) (off : Nat) (m : BitVec 48) : Prop :=
  cmdRound s (verOf s q c) d off = some m ∧ roundStarted s m = false

/-- What the command is owed. -/
def owedTo (q : Nat) (c : RunCmd) : Owed := ⟨q, c.tok⟩

/-- The command has started and awaits something; `f` records what. -/
def awaits (q : Nat) (c : RunCmd) (f : Mach → Mach) (m : Mach) : Mach := f (started q c m)

/-- n bytes of edge memory from `ea` on are good. -/
def GoodRange (s : Mach) (ea n : Nat) : Prop := ∀ cw, ea / 32 ≤ cw → 32 * cw < ea + n → GoodCw s cw

/-- The rings are those of the command's end. -/
def EndedWith (q : Nat) (c : RunCmd) (status detail : Nat) (s t : State) : Prop :=
  t.pending = s.pending ∧ t.m.host.rings = (ended q c status detail s.m).host.rings

/-- The records of the flash from a SEQ on. -/
def recordsFrom (l : Ledger) (seq : Nat) : List LedRec := (validRecs l).filter (fun r => decide (seq ≤ r.seq.toNat))

/-- A range of edge memory lies in stacks that serve, and nothing else is under way there. -/
def ServedRange (s : Mach) (ea n : Nat) : Prop :=
  ∀ st, st = stackOf ea ∨ st = stackOf (ea + n - 1) → stackOut s st = false

/-- A write sequence may start now (R490). -/
def SeqStarts (s : Mach) (cost : Nat) : Prop := s.pwr.waiting = [] ∧ mayStart s cost = true

end Sys2Proof.Spec

/-- Rules R180, R199, R331, R340, R355, R356, R450 and R573: the commands that name a round, or that take effect at the next
round start, wait for it with what they ask for: a section's load and stop, the fences, a window's change and a partner's
while the module runs in rounds, ROUND_SET, DIGEST_SET and RESTART_HOLD.
Readings and choices of the model's own in it: log entry 28. -/
def Obligations.CommandsWaitForTheirRound : Prop :=
  ∀ (s : State) (q : Fin 16) (d : Desc) (c : RunCmd),
    (∀ m, Starts s.m q.val d c 0x10 [(8, 11), (24, 8)] → NamesRound s.m q.val c d 12 m → cB d 18 1 = 0 →
      (∀ x ∈ s.m.sec.queue, x.round ≠ m) →
      exec (.sectionLoad q d) s = .next (after (awaits q.val c (modSec (fun x => { x with queue := x.queue ++
        [{ round := m, load := true, section_ := BitVec.ofNat 32 (cB d 8 4), man := false, owed := owedTo q.val c }] }))) s)) ∧
    (∀ m, Starts s.m q.val d c 0x11 [(12, 6)] → NamesRound s.m q.val c d 12 m → (∀ x ∈ s.m.sec.queue, x.round ≠ m) →
      exec (.sectionStop q d) s = .next (after (awaits q.val c (modSec (fun x => { x with queue := x.queue ++
        [{ round := m, load := false, section_ := 0, man := false, owed := owedTo q.val c }] }))) s)) ∧
    (∀ m, Starts s.m q.val d c 0x10 [(8, 11), (24, 8)] → cmdRound s.m (verOf s.m q.val c) d 12 = some m → roundStarted s.m m = true → cB d 18 1 = 0 →
      exec (.sectionLoad q d) s = .next (after (ended q.val c 0x04 m.toNat) s)) ∧
    (Starts s.m q.val d c 0x20 [] →
      exec (.fenceModule q d) s = .next (after (awaits q.val c (modRmt (fun r => { r with
        modFences := r.modFences ++ [owedTo q.val c] }))) s)) ∧
    (∀ m, Starts s.m q.val d c 0x21 [(8, 6)] → cmdRound s.m (verOf s.m q.val c) d 8 = some m → roundStarted s.m (m + 1) = false →
      s.m.rmt.sysfMode = 1 ∨ s.m.rmt.sysfMode = 2 →
      exec (.fenceSystem q d) s = .next (after (awaits q.val c (modRmt (fun r => { r with
        named := r.named ++ [(m, owedTo q.val c)] }))) s)) ∧
    (Starts s.m q.val d c 0x28 [(8, 2), (32, 32)] → cB d 8 2 < 1024 → wnValid (BitVec.ofNat 256 (cB d 32 32)) = true →
      windowOk s.m (BitVec.ofNat 256 (cB d 32 32)) = true → s.m.rnd.en = true → s.m.rnd.hold = false →
      exec (.windowOpen q d) s = .next (after (awaits q.val c (modRmt (fun r => { r with
        changes := insertBy (fun c => c.owed.tok) (.window (BitVec.ofNat 10 (cB d 8 2)) (BitVec.ofNat 256 (cB d 32 32)) (owedTo q.val c)) r.changes }))) s)) ∧
    (Starts s.m q.val d c 0x29 [(8, 2)] → cB d 8 2 < 1024 → s.m.rnd.en = true → s.m.rnd.hold = false →
      exec (.windowClose q d) s = .next (after (awaits q.val c (modRmt (fun r => { r with
        changes := insertBy (fun c => c.owed.tok) (.window (BitVec.ofNat 10 (cB d 8 2)) 0 (owedTo q.val c)) r.changes }))) s)) ∧
    (Starts s.m q.val d c 0x30 [(8, 1), (10, 3), (16, 12)] → cB d 8 1 = 3 → s.m.rnd.en = true → s.m.rnd.hold = false →
      exec (.partnerAssignId q d) s = .next (after (awaits q.val c (modRmt (fun r => { r with
        changes := insertBy (fun c => c.owed.tok) (.partner d (owedTo q.val c)) r.changes }))) s)) ∧
    (∀ m, Starts s.m q.val d c 0x38 [(8, 7), (16, 8 * min 6 (cB d 14 1))] → NamesRound s.m q.val c d 8 m → 1 ≤ cB d 14 1 → cB d 14 1 ≤ 6 →
      (∀ x ∈ setPairs d, roundRw x.1 = true) →
      exec (.roundSet q d) s = .next (after (awaits q.val c (modRnd (fun r => { r with
        sets := insertBy (fun e => e.2.2.tok) (m, d, owedTo q.val c) r.sets }))) s)) ∧
    (Starts s.m q.val d c 0x39 [(8, 5), (16, 8)] → verOf s.m q.val c = 2 → cB d 8 1 ≤ 1 → cB d 12 1 ≤ 63 →
      cB d 16 8 + 2 * cB d 12 1 ≤ 2 ^ 41 → (s.m.edge.keepEn && inKeep (cB d 16 8) (2 * cB d 12 1)) = false → GoodRange s.m (cB d 16 8) (2 * cB d 12 1) → stackOut s.m (stackOf (cB d 16 8)) = false →
      exec (.digestSet q d) s = .next (after (awaits q.val c (fun m =>
        let x : DigSet :=
          { en := bit d 64, ivm1 := BitVec.ofNat 8 (cB d 9 1), timeout := BitVec.ofNat 16 (cB d 10 2), owed := owedTo q.val c
            ids := (List.range (cB d 12 1)).map (fun i =>
              BitVec.ofNat 16 (numAt (rdBytes m.edge.mem (cB d 16 8) (2 * cB d 12 1)) (2 * i) 2)) }
        modTrn (fun t => { t with digSet := insertBy (fun x => x.owed.tok) x t.digSet }) m)) s)) ∧
    (∀ m, Starts s.m q.val d c 0x39 [(8, 5), (16, 8)] → verOf s.m q.val c = 1 → m = ended q.val c 0x01 0 s.m →
      exec (.digestSet q d) s = .next (after (fun _ => m) s)) ∧
    (Starts s.m q.val d c 0x48 [] → s.m.rnd.master = true → s.m.rnd.en = true → s.m.rnd.hold = false →
      exec (.restartHold q d) s = .next (after (awaits q.val c (modKeep (fun k => { k with
        holdCmds := k.holdCmds ++ [owedTo q.val c] }))) s))

/-- Rules R331, R338, R450 to R458, R567, R571 and R573: NOP ends with 0x00; a command whose header or body names a reserved
value ends with 0x02, and one before READY with 0x03; while the module does not run in rounds, windows and partners change
at once; a RESTART_HOLD in hold ends at once; a census that stands arms the module, and RESUME lets the armed master go on.
Readings and choices of the model's own in it: log entries 7 and 28. -/
def Obligations.CommandsActAtOnceOutsideRounds : Prop :=
  ∀ (s : State) (q : Fin 16) (d : Desc) (c : RunCmd),
    (Starts s.m q.val d c 0x00 [] → exec (.nop q d) s = .next (after (ended q.val c 0x00 0) s)) ∧
    (cmdFind s.m q.val d = some c → cB d 0 1 = 0x00 → headerOk d = false ∨ bodyOk d [] = false →
      exec (.nop q d) s = .next (after (ended q.val c 0x02 0) s)) ∧
    (cmdFind s.m q.val d = some c → cB d 0 1 = 0x00 → headerOk d = true → bodyOk d [] = true → s.m.start.state ≠ 7 →
      exec (.nop q d) s = .next (after (ended q.val c 0x03 0) s)) ∧
    (Starts s.m q.val d c 0x28 [(8, 2), (32, 32)] → cB d 8 2 < 1024 → wnValid (BitVec.ofNat 256 (cB d 32 32)) = true →
      windowOk s.m (BitVec.ofNat 256 (cB d 32 32)) = true → atOnce s.m = true →
      ∃ t, exec (.windowOpen q d) s = .next t ∧ EndedWith q.val c 0x00 0 s t ∧
        t.m.rmt = { s.m.rmt with win := tset 0 s.m.rmt.win (cB d 8 2) (BitVec.ofNat 256 (cB d 32 32)) }) ∧
    (Starts s.m q.val d c 0x29 [(8, 2)] → cB d 8 2 < 1024 → atOnce s.m = true →
      ∃ t, exec (.windowClose q d) s = .next t ∧ EndedWith q.val c 0x00 0 s t ∧ tget 0 t.m.rmt.win (cB d 8 2) = 0 ∧
        ∀ i, i ≠ cB d 8 2 → tget 0 t.m.rmt.win i = tget 0 s.m.rmt.win i) ∧
    (∀ i, Starts s.m q.val d c 0x30 [(8, 1), (10, 3), (16, 12)] → atOnce s.m = true → cB d 8 1 = 1 → cB d 12 1 < 64 →
      darkPort s.m (cB d 12 1) = false → pcSerial d ≠ s.m.start.serial → forwardedOf s.m (pcSerial d) = none → ptnFree s.m = some i →
      ∃ t, exec (.partnerAddForwarded q d) s = .next t ∧ EndedWith q.val c 0x00 0 s t ∧
        { tget Ptn.reset t.m.rmt.ptn i with conflict := false } = ({ serial := pcSerial d, id := BitVec.ofNat 16 (cB d 10 2), valid := true
                                                                     direct := false, assigned := true, lost := false
                                                                     conflict := false, port := BitVec.ofNat 6 (cB d 12 1)
                                                                     epoch := BitVec.ofNat 32 (cB d 24 4), since := s.m.rmt.order } : Ptn)) ∧
    (∀ i e, Starts s.m q.val d c 0x30 [(8, 1), (10, 3), (16, 12)] → atOnce s.m = true → cB d 8 1 = 2 →
      pcSerial d ≠ s.m.start.serial → forwardedOf s.m (pcSerial d) = some (i, e) →
      ∃ t, exec (.partnerRemove q d) s = .next t ∧ EndedWith q.val c 0x00 0 s t ∧ tget Ptn.reset t.m.rmt.ptn i = Ptn.reset) ∧
    (Starts s.m q.val d c 0x30 [(8, 1), (10, 3), (16, 12)] → atOnce s.m = true → cB d 8 1 = 3 →
      ∃ t, exec (.partnerAssignId q d) s = .next t ∧ EndedWith q.val c 0x00 0 s t ∧
        t.m.ctl = { s.m.ctl with assigned := true, id := BitVec.ofNat 16 (cB d 10 2) } ∧ t.m.rmt = s.m.rmt) ∧
    (Starts s.m q.val d c 0x30 [(8, 1), (10, 3), (16, 12)] → atOnce s.m = true → cB d 8 1 = 4 →
      ∃ t, exec (.partnerUnassign q d) s = .next t ∧ EndedWith q.val c 0x00 0 s t ∧
        t.m.ctl = { s.m.ctl with assigned := false } ∧ t.m.rmt = s.m.rmt) ∧
    (Starts s.m q.val d c 0x48 [] → s.m.rnd.master = true → s.m.rnd.en = true → s.m.rnd.hold = true →
      exec (.restartHold q d) s = .next (after (ended q.val c 0x00 s.m.rnd.heldAt) s)) ∧
    (∀ ea h es, ea = cB d 16 8 → h = rdBytes s.m.edge.mem ea 64 → es = rdBytes s.m.edge.mem (ea + 64) (4 * min 16384 (numAt h 10 2)) →
      Starts s.m q.val d c 0x49 [(16, 8)] → ea < 2 ^ 41 →
      (s.m.edge.keepEn && inKeep ea (64 + 4 * min 16384 (numAt h 10 2))) = false → GoodRange s.m ea (64 + 4 * min 16384 (numAt h 10 2)) →
      stackOut s.m (stackOf ea) = false → censusOk s.m h es = true →
      ∃ t, exec (.restartArm q d) s = .next t ∧ t.pending = s.pending ∧ t.m.keep.armed = true ∧ t.m.keep.faulted = false ∧
        t.m.keep.armGen = BitVec.ofNat 16 (numAt h 4 2) ∧ t.m.keep.armMaster = BitVec.ofNat 16 (numAt h 8 2) ∧
        t.m.keep.armW = BitVec.ofNat 24 (numAt h 16 3) ∧ t.m.sec.cur = none ∧ t.m.sec.switch = none ∧
        t.m.keep.holdNext = false ∧ t.m.rnd.strag = [] ∧ t.m.rnd.hold = s.m.rnd.hold) ∧
    (Starts s.m q.val d c 0x4A [] → s.m.rnd.master = true → s.m.rnd.en = true → s.m.rnd.hold = true → s.m.keep.armed = true →
      exec (.resume q d) s = .next (after (awaits q.val c (fun m => { m with
        keep := { m.keep with armed := false, resumeCmds := m.keep.resumeCmds ++ [owedTo q.val c] }
        rnd := { m.rnd with hold := false, conflict := false, gathered := 0, nextEmit := some (firstMark (resumeRound m.rnd)) } })) s))

/-- Rules R433, R536, R563 and R573: HOST_COPY moves whole 32-byte units between host memory and edge memory; LEDGER_READ
writes the records from a SEQ on that fit, as they lie in the flash or as CPERs, and names their number and the SEQ that
follows. -/
def Obligations.HostCopiesAndLedgerReads : Prop :=
  ∀ (s : State) (q : Fin 16) (d : Desc) (c : RunCmd),
    (∀ bs : List Byte, Starts s.m q.val d c 0x50 [(8, 1), (16, 20)] → cB d 8 1 = 0 → copyOk s.m d = true → bs.length = cB d 32 4 →
      ServedRange s.m (cB d 24 8) bs.length → (∀ st, st = stackOf (cB d 24 8) ∨ st = stackOf (cB d 24 8 + bs.length - 1) → Undisturbed s.m st) →
      ∃ t, exec (.hostCopyToEdge q d (some bs)) s = .next t ∧ EndedWith q.val c 0x00 0 s t ∧
        (∀ i, i < bs.length → rd t.m.edge.mem (cB d 24 8 + i) = bs.getD i 0) ∧
        (∀ a, a < cB d 24 8 ∨ cB d 24 8 + bs.length ≤ a → rd t.m.edge.mem a = rd s.m.edge.mem a)) ∧
    (Starts s.m q.val d c 0x50 [(8, 1), (16, 20)] → cB d 8 1 = 1 → copyOk s.m d = true → ServedRange s.m (cB d 24 8) (cB d 32 4) →
      GoodRange s.m (cB d 24 8) (cB d 32 4) →
      ∃ t, exec (.hostCopyToHost q d true) s = .next t ∧ EndedWith q.val c 0x00 0 s t ∧ t.m.edge = s.m.edge ∧
        t.m.out = s.m.out ++ [.hostWrite (BitVec.ofNat 64 (cB d 16 8)) (rdBytes s.m.edge.mem (cB d 24 8) (cB d 32 4))]) ∧
    (Starts s.m q.val d c 0x50 [(8, 1), (16, 20)] → cB d 8 1 = 1 → copyOk s.m d = false →
      exec (.hostCopyToHost q d true) s = .next (after (ended q.val c 0x02 0) s)) ∧
    (∀ rs bs, rs = recordsFrom s.m.led (cB d 16 8) → bs = rs.flatMap recBytes → Starts s.m q.val d c 0x58 [(8, 1), (16, 20)] →
      cB d 8 1 = 0 → cB d 24 8 % 64 = 0 → rs ≠ [] → bs.length ≤ cB d 32 4 →
      exec (.ledgerReadRaw q d true) s = .next (after (fun m =>
        ended q.val c 0x00 (rs.length % 65536 + 65536 * (m.led.nextSeq.toNat % 2 ^ 48))
          { m with out := m.out ++ [.hostWrite (BitVec.ofNat 64 (cB d 24 8)) bs] }) s)) ∧
    (Starts s.m q.val d c 0x58 [(8, 1), (16, 20)] → cB d 8 1 = 0 → cB d 24 8 % 64 = 0 → recordsFrom s.m.led (cB d 16 8) = [] →
      exec (.ledgerReadRaw q d true) s = .next (after (fun m => ended q.val c 0x00 (65536 * (m.led.nextSeq.toNat % 2 ^ 48)) m) s)) ∧
    (∀ rs bs, rs = recordsFrom s.m.led (cB d 16 8) → bs = rs.flatMap (cper s.m.start.serial) →
      Starts s.m q.val d c 0x58 [(8, 1), (16, 20)] → verOf s.m q.val c = 2 → cB d 8 1 = 1 → cB d 24 8 % 64 = 0 → rs ≠ [] →
      bs.length ≤ cB d 32 4 →
      exec (.ledgerReadCper q d true) s = .next (after (fun m =>
        ended q.val c 0x00 (rs.length % 65536 + 65536 * (m.led.nextSeq.toNat % 2 ^ 48))
          { m with out := m.out ++ [.hostWrite (BitVec.ofNat 64 (cB d 24 8)) bs] }) s)) ∧
    (Starts s.m q.val d c 0x58 [(8, 1), (16, 20)] → verOf s.m q.val c ≠ 2 → cB d 8 1 = 1 →
      exec (.ledgerReadCper q d true) s = .next (after (ended q.val c 0x02 0) s))

/-- Rules R405, R406, R490, R521, R545, R553, R573 and R576: a licence, a key request and an image that are accepted become write
sequences; one that is not valid ends with 0x0D; the resets and activities of MAINT begin; POWER_OFF waits for its SUMMARY.
Readings and choices of the model's own in it: log entries 25 and 29. -/
def Obligations.FlashMaintenanceAndPowerCommands : Prop :=
  ∀ (s : State) (q : Fin 16) (d : Desc) (c : RunCmd),
    let running (w : WSeq) (m : Mach) : Mach := { m with pwr := { m.pwr with running := m.pwr.running ++ [{ w with since := m.now }] } }
    (∀ l : List Byte, Starts s.m q.val d c 0x59 [(16, 8)] → cB d 16 8 % 64 = 0 → l.length = 160 → licenceValid s.m.start l = true →
      (∀ x ∈ storedLicences s.m.start, licId x ≠ licId l) → emptyEntry s.m.start ≠ none → SeqStarts s.m (seqCost 1 0) →
      exec (.licenceInstall q d (some l)) s =
        .next (after (awaits q.val c (running { kind := .licence none l (owedTo q.val c), cost := seqCost 1 0 })) s)) ∧
    (∀ l : List Byte, Starts s.m q.val d c 0x59 [(16, 8)] → cB d 16 8 % 64 = 0 → l.length = 160 → licenceValid s.m.start l = false →
      exec (.licenceInstall q d (some l)) s = .next (after (ended q.val c 0x0D 0) s)) ∧
    (∀ r : List Byte, Starts s.m q.val d c 0x5A [(16, 8)] → cB d 16 8 % 64 = 0 → r.length = 256 → keyRequestOk s.m.start r = true →
      SeqStarts s.m (seqCost 1 0) →
      (keyAction r = 1 → exec (.keyFuseProgram q d (some r)) s =
        .next (after (awaits q.val c (running { kind := .fuse r (owedTo q.val c), cost := seqCost 1 0 })) s)) ∧
      (keyAction r = 2 → exec (.keyFuseRevoke q d (some r)) s =
        .next (after (awaits q.val c (running { kind := .fuse r (owedTo q.val c), cost := seqCost 1 0 })) s))) ∧
    (∀ u : List Byte, Starts s.m q.val d c 0x5B [(16, 12)] → cB d 16 8 % 64 = 0 → u.length = cB d 24 4 → 1 ≤ u.length →
      u.length ≤ 0x4000000 → s.m.cradle.upd = none → SeqStarts s.m (seqCost (min 256 (ceilDiv u.length 256)) 1) →
      exec (.fwUpdate q d (some u)) s = .next (after (awaits q.val c (fun m => running
        { kind := .image (!m.start.slot) u (ceilDiv u.length 65536 - 1) (some (owedTo q.val c)), cost := seqCost (min 256 (ceilDiv u.length 256)) 1 }
        { m with cradle := { m.cradle with
            upd := some { host := true, stage := .transfer, slot := !m.start.slot, length := u.length, data := [] } } })) s)) ∧
    (∀ u : List Byte, Starts s.m q.val d c 0x5B [(16, 12)] → cB d 16 8 % 64 = 0 → u.length = cB d 24 4 → 1 ≤ u.length →
      u.length ≤ 0x4000000 → s.m.cradle.upd ≠ none → exec (.fwUpdate q d (some u)) s = .next (after (ended q.val c 0x09 0) s)) ∧
    (Starts s.m q.val d c 0x60 [(8, 1), (10, 6)] → cB d 8 1 = 1 → s.m.ctl.modulePending = false → s.m.ctl.scope = 0 →
      ∃ t, exec (.maintWarpReset q d) s = .next t ∧ t.pending = s.pending ∧ t.m.ctl = { s.m.ctl with
        scope := 1, lastScope := 1, lastCause := 2, owed := s.m.ctl.owed ++ [owedTo q.val c] } ∧
        (∀ k, coreAt t.m k = { Core.reset with suspect := (coreAt t.m k).suspect, retired := (coreAt t.m k).retired }) ∧ t.m.edge = s.m.edge ∧ t.m.ports = s.m.ports) ∧
    (Starts s.m q.val d c 0x60 [(8, 1), (10, 6)] → cB d 8 1 = 2 → s.m.ctl.modulePending = false → s.m.ctl.scope.toNat ≤ 1 →
      ∃ t, exec (.maintRimReset q d) s = .next t ∧ t.pending = s.pending ∧ t.m.ctl = { s.m.ctl with
        scope := 2, lastScope := 2, lastCause := 2, owed := s.m.ctl.owed ++ [owedTo q.val c] } ∧
        t.m.edge.mem = s.m.edge.mem ∧ t.m.ports = [] ∧ t.m.rmt.ptn = [] ∧ t.m.rmt.win = []) ∧
    (∀ a, a.code = 2 → a.subject = cB d 10 1 → a.part = cB d 11 1 → a.handle = s.m.mnt.nextHandle →
      a.tokens = [tokGroup (cB d 10 1) (cB d 11 1)] → a.held = 1 → a.owed = some (owedTo q.val c) →
      Starts s.m q.val d c 0x60 [(8, 1), (10, 6)] → cB d 8 1 = 0x10 → cB d 10 1 ≤ 31 → cB d 11 1 ≤ 3 →
      (∀ x ∈ s.m.mnt.acts, x.code ≠ 2) → FreeToken s.m (tokGroup (cB d 10 1) (cB d 11 1)) →
      exec (.maintEdgeCheckerBegin q d) s = .next (after (fun m => ended q.val c 0x00 s.m.mnt.nextHandle.toNat { m with
        mnt := { m.mnt with acts := m.mnt.acts ++ [a], nextHandle := m.mnt.nextHandle + 1 } }) s)) ∧
    (∀ a, a.code = 5 → a.subject = cB d 12 2 → a.part = 0 → a.handle = s.m.mnt.nextHandle → a.tokens = [cB d 12 2] → a.held = 1 →
      a.owed = some (owedTo q.val c) →
      Starts s.m q.val d c 0x60 [(8, 1), (10, 6)] → cB d 8 1 = 0x11 → cB d 12 2 ≤ 143 → (∀ x ∈ s.m.mnt.acts, x.code ≠ 5) →
      FreeToken s.m (cB d 12 2) →
      exec (.maintScratchpadCheckerBegin q d) s = .next (after (fun m => ended q.val c 0x00 s.m.mnt.nextHandle.toNat { m with
        mnt := { m.mnt with acts := m.mnt.acts ++ [a], nextHandle := m.mnt.nextHandle + 1 } }) s)) ∧
    (∀ h : BitVec 16, Starts s.m q.val d c 0x60 [(8, 1), (10, 6)] → cB d 8 1 = 0x1F → h = BitVec.ofNat 16 (cB d 14 2) →
      (∃ a ∈ s.m.mnt.acts, a.handle = h ∧ (a.code = 2 ∨ a.code = 5)) →
      exec (.maintEndActivity q d) s = .next (after (fun m => ended q.val c 0x00 h.toNat { m with
        mnt := { m.mnt with acts := m.mnt.acts.filter (fun a => a.handle != h) } }) s)) ∧
    (Starts s.m q.val d c 0x61 [] → s.m.pwr.offOwed = none → s.m.pwr.down = none →
      exec (.powerOff q d) s = .next (after (awaits q.val c (fun m => { m with
        pwr := { m.pwr with offOwed := some (owedTo q.val c) }, led := { m.led with sumFinal := true } })) s))

/-! ### Resets, starts and power-downs, and the weft -/

namespace Sys2Proof.Spec

open Sys2Proof.Machine

/-- A write of RST_REQ reaches the module (R34): it has power, and its link is up. -/
def LinkUp (s : Mach) : Prop := s.start.state ≠ 0 ∧ s.host.perst = false

/-- The module is READY and no module reset is pending. -/
def InService (s : Mach) : Prop := s.start.state = 7 ∧ s.ctl.modulePending = false

/-- A die's event: class 0x20 for core pc, uncorrected during a job (R540). -/
def DeadEvent (e : Event) (pc : Nat) (job : Bool) : Prop :=
  e.cls = 0x20 ∧ e.scope = 3 ∧ e.flags = (if job then 1 else 0) ∧ e.unit = BitVec.ofNat 16 pc

/-- A section runs or switches. -/
def jobRuns (s : Mach) : Bool := s.sec.cur.isSome || s.sec.switch.isSome

/-- The answer of a die to an access frame (R529, R530). -/
def answerTo (f : Frame) (data : Word) (status : Nat) : OutEv :=
  .weft (mkFrame 3 (frDie f) (frTag f) (frAddr f) data status)

/-- The stewards of a ring hold no event, where they answer (R532). -/
def EventsGone (s t : Mach) (r : Nat) : Prop := ∀ d, d < 144 → ringOf d = r → answers s d = true → (dieAt t d).stw.evBuf = []

/-- Of every die only what its steward buffers has changed. -/
def DiesKept (s t : Mach) : Prop := t.cores = s.cores ∧ ∀ d, { dieAt t d with stw := (dieAt s d).stw } = dieAt s d

end Sys2Proof.Spec

/-- Rules R29 to R31, R33 to R35, R38, R40, R272, R389 and R528: a request of a wider scope than what runs begins its reset with
the cause of the agent that made it, and one of the same or a narrower scope is absorbed; a warp reset takes every core to its reset state and leaves edge memory, a rim reset
takes the rim's blocks and tables with it and leaves edge memory too; a module reset stops every update list and waits for its SUMMARY; the watchdog waits
for nothing; a reset that ends is counted and ends the commands that await it; a DRAM die that training finds failing is lost. -/
def Sys2Proof.Spec.ResetsOfEachScope : Prop :=
  (∀ (s : State) (a : ResetAgent) (c : BitVec 4), (a = .host → LinkUp s.m) → InService s.m → s.m.ctl.scope = 0 →
    (a, c) ∈ [(ResetAgent.host, (1 : BitVec 4)), (.restartPath, 4), (.decnus, 6)] →
    ∃ t, exec (.rstReqWarp a) s = .next t ∧ t.pending = s.pending ∧
    t.m.ctl = { s.m.ctl with scope := 1, lastScope := 1, lastCause := c } ∧ t.m.sec.cur = none ∧
    (∀ k, coreAt t.m k = { Core.reset with suspect := (coreAt t.m k).suspect, retired := (coreAt t.m k).retired }) ∧
    t.m.edge = s.m.edge ∧ t.m.ports = s.m.ports ∧ t.m.start = s.m.start) ∧
  (∀ (s : State), LinkUp s.m → InService s.m → s.m.ctl.scope ≠ 0 → ∃ t, exec (.rstReqWarp .host) s = .next t ∧ t.pending = s.pending ∧
    t.m = { s.m with led := t.m.led }) ∧
  (∀ (s : State) (a : ResetAgent) (c : BitVec 4), (a = .host → LinkUp s.m) → InService s.m → s.m.ctl.scope.toNat ≤ 1 →
    (a, c) ∈ [(ResetAgent.host, (1 : BitVec 4)), (.decnus, 7)] →
    ∃ t, exec (.rstReqRim a) s = .next t ∧ t.pending = s.pending ∧
    t.m.ctl = { s.m.ctl with scope := 2, lastScope := 2, lastCause := c } ∧ t.m.edge.mem = s.m.edge.mem ∧ t.m.ports = [] ∧
    t.m.rmt.ptn = [] ∧ t.m.rmt.win = [] ∧ t.m.start = s.m.start) ∧
  (∀ (s : State), LinkUp s.m → InService s.m → ∃ t, exec (.rstReqModule .host) s = .next t ∧ t.pending = s.pending ∧
    t.m.ctl = { s.m.ctl with scope := 0, modulePending := true, cause := 1, reqRound := roundNow s.m } ∧ t.m.led.sumFinal = true ∧
    t.m.cores = s.m.cores ∧ t.m.edge = s.m.edge ∧
    ∀ u, u < 32 → (unitAt t.m u).list = none ∧ (unitAt t.m u).waiting = []) ∧
  (∀ (s : State) (a : ResetAgent), a ≠ .host → exec (.rstReqModule a) s = .next s) ∧
  (∀ (s : State), InService s.m → ∃ t, exec .watchdogExpiry s = .next t ∧ t.pending = s.pending ∧
    t.m.ctl = { s.m.ctl with scope := 0, modulePending := true, cause := 5, reqRound := roundNow s.m } ∧
    t.m.weft.expiries = satInc s.m.weft.expiries ∧ t.m.pwr.down = some (0, .restart) ∧ t.m.led.protQ = [] ∧ t.m.led.waitQ = [] ∧
    (∀ q, (ringAt t.m q).cmds = [] ∧ (ringAt t.m q).fin = [])) ∧
  (∀ (s : State) (ks : List CoreId), s.m.ctl.scope = 1 → ∃ t, exec (.warpResetDone ks) s = .next t ∧ t.pending = s.pending ∧
    t.m.ctl = { s.m.ctl with scope := 0, owed := [], warpCnt := satInc s.m.ctl.warpCnt } ∧
    (∀ k a, rd (coreAt t.m k).sp a = 0 ∧ rd (coreAt t.m k).imem a = 0 ∧ tget 0 (coreAt t.m k).synd a = 0) ∧
    t.m.edge = s.m.edge ∧ ∀ d, d < 144 → (dieAt t.m d).dead = 0) ∧
  (∀ (s : State) (bad : List (Fin 32 × Fin 20)) (ks : List CoreId), s.m.ctl.scope = 2 → epochPending s.m = false →
    ∃ t, exec (.rimResetDone bad ks) s = .next t ∧ t.pending = s.pending ∧
    t.m.ctl = { s.m.ctl with scope := 0, owed := [], rimCnt := satInc s.m.ctl.rimCnt } ∧ t.m.cores = [] ∧
    (∀ e ∈ bad, bit (stkAt t.m e.1.val).dieLost e.2.val = true) ∧
    ∀ st, st < 32 → (stkAt t.m st).selfref = false ∧
      ((∀ e ∈ bad, e.1.val ≠ st) → (stkAt t.m st).trained = !(stkAt t.m st).failed))

/-- Rules R27, R28, R194 and R449: a core that the steward marks dead is in the dead set of its die at once, its processor is
done, its engines are stopped, and nothing more is written to its scratchpad; its event waits at the die, and during a job it is an uncorrected fault. -/
def Sys2Proof.Spec.ADeadCoreIsSetAside : Prop :=
  ∀ (s : State) (k : CoreId), dead s.m k.key = false →
    (dpwAt s.m (dieOf k.key)).on = true → (dieAt s.m (dieOf k.key)).stw.evBuf.length < 64 →
    ∃ t, exec (.coreMarkedDead k) s = .next t ∧ t.pending = s.pending ∧ bit (dieAt t.m (dieOf k.key)).dead (pcOf k.key) = true ∧
      (coreAt t.m k.key).p.done = true ∧ (coreAt t.m k.key).p.mode = .idle ∧ (coreAt t.m k.key).stopped = 0xF ∧
      (coreAt t.m k.key).dma = [] ∧ (coreAt t.m k.key).rt.wait = [] ∧
      (∃ e, (dieAt t.m (dieOf k.key)).stw.evBuf = (dieAt s.m (dieOf k.key)).stw.evBuf ++ [e] ∧
        DeadEvent e (pcOf k.key) (jobRuns s.m)) ∧
      t.m.keep.faulted = (s.m.keep.faulted || jobRuns s.m) ∧
      (∀ d, d ≠ dieOf k.key → dieAt t.m d = dieAt s.m d) ∧ (∀ j, j ≠ k.key → coreAt t.m j = coreAt s.m j)

/-- Rules R503 to R518 and R523: a cold start chooses its image, loads its patches and waits for the bank, or finds no image and goes into recovery.
Readings and choices of the model's own in it: log entries 19 and 25. -/
def Obligations.AColdStartChoosesItsImage : Prop :=
  (∀ (s : State) (slot : Bool) (u : List Byte) (key : Nat), s.m.start.state = 0 → s.m.pwr.running = [] →
    chooseImage { s.m.start with attempt0 := 0, attempt1 := 0 } = some (slot, u, key) →
    ∃ t, exec .coldStart s = .next t ∧ t.pending = s.pending ∧ t.m.start.state = 2 ∧ t.m.start.slot = slot ∧
      t.m.start.seq = BitVec.ofNat 64 (upSeq u) ∧ t.m.start.svn = BitVec.ofNat 8 (upSvn u) ∧ t.m.start.signer = BitVec.ofNat 2 key ∧
      t.m.start.locked = false ∧ t.m.ctl.lastScope = 0 ∧ t.m.ctl.lastCause = 0 ∧ t.m.cores = [] ∧ t.m.edge.mem = [] ∧
      t.m.host.rings = [] ∧ t.m.led.flash = (scanLedger s.m).flash ∧
      t.m.start.patchSlots = ((ownPatches u).map patchEntries).getD [] ∧ t.m.start.patchCode = ((ownPatches u).map patchText).getD []) ∧
  (∀ (s : State), s.m.start.state = 0 → s.m.pwr.running = [] → chooseImage { s.m.start with attempt0 := 0, attempt1 := 0 } = none →
    ∃ t, exec .coldStart s = .next t ∧ t.pending = s.pending ∧ t.m.start.state = 8 ∧ t.m.start.fail = 1) ∧
  (∀ (s : State), s.m.start.state = 5 → s.m.pwr.burn = some 0 → coolOk s.m.pwr = false →
    ∃ t, exec .startCoolantTimeout s = .next t ∧ t.pending = s.pending ∧ t.m.start.state = 9 ∧ t.m.start.fail = 4 ∧
      t.m.pwr.down = some (0, .stay) ∧ t.m.pwr.burn = none)

/-- Rules R469 to R471, R483, R484 and R503: the power sequence ramps its domains in order and the power-down goes back; the
burn pattern waits for the coolant, trims, times, and searches the floor of every die a step at a time; its end makes the
module READY and locked.
Readings and choices of the model's own in it: log entries 19 and 38. -/
def Obligations.PowerSequencesAndTheBurnPattern : Prop :=
  (∀ (s : State) (n : Nat) (bad : List (Fin 32 × Fin 20)), s.m.pwr.up = some n → n < 61 → n ≠ 2 → (n < 7 ∨ n % 3 ≠ 0) →
    exec (.powerSequenceStep [] bad) s = .next (after (fun m => { m with
      pwr := { m.pwr with up := some (n + 1) }, now := m.now + rampTime n }) s)) ∧
  (∀ (s : State) (bad : List (Fin 32 × Fin 20)), s.m.pwr.up = some 2 →
    exec (.powerSequenceStep [] bad) s = .next (after (fun m => { m with
      pwr := { m.pwr with up := some 3, rimOn := true }, now := m.now + rampTime 2 }) s)) ∧
  (∀ (s : State) (n : Nat) (bad : List (Fin 32 × Fin 20)), s.m.pwr.up = some n → 7 ≤ n → n < 61 → n % 3 = 0 →
    s.m.pwr.dieFail = [] → ∃ t, exec (.powerSequenceStep [] bad) s = .next t ∧ t.pending = s.pending ∧ t.m.pwr.up = some (n + 1) ∧
      ∀ i, i < 8 → (dpwAt t.m (8 * ((n - 7) / 3) + i)).on = true) ∧
  (∀ (s : State) (bad : List (Fin 32 × Fin 20)), s.m.pwr.up = some 61 →
    ∃ t, exec (.powerSequenceStep [] bad) s = .next t ∧ t.pending = s.pending ∧
    t.m.start.state = 5 ∧ t.m.pwr.up = none ∧ t.m.pwr.burn = some 0 ∧
    (∀ e ∈ bad, bit (stkAt t.m e.1.val).dieLost e.2.val = true) ∧
    ∀ st, st < 32 → (∀ e ∈ bad, e.1.val ≠ st) → (stkAt t.m st).trained = !(stkAt t.m st).failed) ∧
  (∀ (s : State) (n : Nat) (out : List DomInst) (bad : List (Fin 32 × Fin 20)), s.m.pwr.up = some n → n < 3 →
    out.filter (rampsNow n) ≠ [] →
    ∃ t, exec (.powerSequenceStep out bad) s = .next t ∧ t.pending = s.pending ∧ t.m.start.state = 9 ∧ t.m.start.fail = 2 ∧
      t.m.pwr.up = none ∧ t.m.pwr.seqFail = true) ∧
  (∀ (s : State) (n : Nat) (a : AfterDown), s.m.pwr.down = some (n, a) → n < 18 → vminQueued s.m.led = false →
    ∃ t, exec .powerDownStep s = .next t ∧ t.pending = s.pending ∧ t.m.pwr.down = some (n + 1, a) ∧
      (∀ i, i < 8 → (dpwAt t.m (8 * (17 - n) + i)).on = false) ∧ ∀ e ∈ t.m.cores, dieOf e.1 / 8 ≠ 17 - n) ∧
  (∀ (s : State) (a : AfterDown), s.m.pwr.down = some (0, a) → vminQueued s.m.led = true → exec .powerDownStep s = .next s) ∧
  (∀ (s : State) (a : AfterDown), s.m.pwr.down = some (21, a) → ∃ t, exec .powerDownStep s = .next t ∧ t.pending = s.pending ∧
    t.m.pwr.down = some (22, a) ∧ t.m.edge.mem = []) ∧
  (∀ (s : State) (n : Nat), s.m.pwr.down = some (n, .stay) → 24 ≤ n →
    exec .powerDownStep s = .next (after (fun m => { m with pwr := { m.pwr with down := none, rimOn := false } }) s)) ∧
  (∀ (s : State), s.m.start.state = 5 → s.m.pwr.burn = some 0 → coolOk s.m.pwr = true →
    exec (.burnStep .start) s = .next (after (fun m => { m with pwr := { m.pwr with burn := some 1 } }) s)) ∧
  (∀ (s : State), s.m.start.state = 5 → s.m.pwr.burn = some 1 →
    exec (.burnStep .trim) s = .next (after (fun m => { m with
      pwr := { m.pwr with burn := some 2 }, now := m.now + 2000 * 1100000 }) s)) ∧
  (∀ (s : State) (slow : List (Fin 144)), s.m.start.state = 5 → s.m.pwr.burn = some 2 →
    ∃ t, exec (.burnStep (.stretchTiming slow)) s = .next t ∧ t.pending = s.pending ∧ t.m.pwr.burn = some 3 ∧
      (∀ d ∈ slow, (dpwAt t.m d.val).slow = true) ∧ ∀ d, d < 144 → (dpwAt t.m d).searching = (dpwAt s.m d).on) ∧
  (∀ (s : State) (bad : List (Fin 144)) (d : Fin 144), s.m.start.state = 5 → s.m.pwr.burn = some 3 → (dpwAt s.m d.val).searching = true →
    (d ∉ bad → 240 < (dpwAt s.m d.val).vlog.from_.toNat → ∃ t, exec (.burnStep (.floorStep bad)) s = .next t ∧ t.pending = s.pending ∧
      (dpwAt t.m d.val).clean = some (dpwAt s.m d.val).vlog.from_ ∧
      (dpwAt t.m d.val).vlog.from_ = (dpwAt s.m d.val).vlog.from_ - 1) ∧
    (∀ c, d ∈ bad → (dpwAt s.m d.val).clean = some c → ∃ t, exec (.burnStep (.floorStep bad)) s = .next t ∧ t.pending = s.pending ∧
      (dpwAt t.m d.val).searching = false ∧
      (dpwAt t.m d.val).floor = BitVec.ofNat 10 (max 240 (c.toNat + (if (dpwAt s.m d.val).slow then 20 else 10)))) ∧
    (d ∈ bad → (dpwAt s.m d.val).clean = none → (dpwAt s.m d.val).again = false → ∃ t, exec (.burnStep (.floorStep bad)) s = .next t ∧
      t.pending = s.pending ∧ (dpwAt t.m d.val).again = true ∧ (dpwAt t.m d.val).vlog.from_ = 340 ∧ (dpwAt t.m d.val).varr.from_ = 340)) ∧
  (∀ (s : State) (idle : BitVec 16) (ks : List CoreId), s.m.start.state = 5 → s.m.pwr.burn = some 3 → searchingDies s.m = [] →
    ∃ t, exec (.burnStep (.finish idle ks)) s = .next t ∧ t.pending = s.pending ∧ t.m.start.state = 7 ∧ t.m.start.locked = true ∧
      t.m.start.attempt0 = 0 ∧ t.m.start.attempt1 = 0)

/-- Rules R24, R25, R529 to R533: a read or write frame to a die that answers has its register's effect once and is answered;
a write that is refused is not the last one executed; a supervisor has no register; the events of a ring go before its accesses and its
samples; a response ends its request; a request, also one whose CRC fails, is sent again up to three times and then times out; the oldest buffered event of a die
reaches the queue of Decnus; a broadcast reaches every die that answers. The numbers of statuses and the content of broadcast
and telemetry frames are the model's (log entry 26). -/
def Obligations.TheWeftCarriesAccessesAndEvents : Prop :=
  (∀ (s : State) (f : Frame), frOk f 1 = true → frDie f < 144 → answersAt s.m (frDie f) (frAddr f) = true →
    frameStatus s.m (frDie f) (frAddr f) = 0 →
    ∃ t, exec (.weftRead f) s = .next t ∧ t.pending = s.pending ∧
      t.m.out = s.m.out ++ [answerTo f (seenRead s.start s.m (winAddr (frDie f) (frAddr f))) 0] ∧
      (∃ r ∈ t.m.weft.reqs, r.1 = (frTag f).toNat) ∧ EventsGone s.m t.m (ringOf (frDie f)) ∧ t.m.edge = s.m.edge ∧ t.m.rnd = s.m.rnd) ∧
  (∀ (s : State) (f : Frame), frOk f 1 = true → frDie f < 144 → answers s.m (frDie f) = true → 0x10000 ≤ frAddr f →
    ∃ t, exec (.weftRead f) s = .next t ∧ t.pending = s.pending ∧ t.m.out = s.m.out ++ [answerTo f 0 1] ∧ DiesKept s.m t.m) ∧
  (∀ (s : State) (f : Frame), frOk f 1 = true ∨ frOk f 2 = true → frDie f = 0xFF →
    ∃ t, exec (if frType f = 1 then .weftRead f else .weftWrite f) s = .next t ∧ t.pending = s.pending ∧
      t.m.out = s.m.out ++ [answerTo f 0 1] ∧ (∃ r ∈ t.m.weft.reqs, r.1 = (frTag f).toNat) ∧ t.m.dies = s.m.dies ∧ t.m.cores = s.m.cores) ∧
  (∀ (s : State) (f : Frame), frType f = 1 → frOk f 1 = false →
    ∃ t, exec (.weftRead f) s = .next t ∧ t.pending = s.pending ∧ t.m.out = s.m.out ∧
      (∃ r ∈ t.m.weft.reqs, r.1 = (frTag f).toNat) ∧ t.m.dies = s.m.dies ∧ t.m.cores = s.m.cores) ∧
  (∀ (s : State) (f : Frame), frOk f 2 = true → frDie f < 144 → answers s.m (frDie f) = true → frameStatus s.m (frDie f) (frAddr f) = 0 →
    frAddr f = 0x5000 → (dieAt s.m (frDie f)).stw.lastTag ≠ some (frTag f) →
    ∃ t, exec (.weftWrite f) s = .next t ∧ t.pending = s.pending ∧ t.m.out = s.m.out ++ [answerTo f 0 0] ∧
      (dieAt t.m (frDie f)).stw.lastTag = some (frTag f) ∧ (dieAt t.m (frDie f)).trk.perRound = bit (frData f) 0 ∧
      (bit (frData f) 1 = true → (dieAt t.m (frDie f)).trk.live = [])) ∧
  (∀ (s : State) (f : Frame), frOk f 2 = true → frDie f < 144 → answersAt s.m (frDie f) (frAddr f) = true →
    frameStatus s.m (frDie f) (frAddr f) ≠ 0 → (dieAt s.m (frDie f)).stw.lastTag ≠ some (frTag f) →
    ∃ t, exec (.weftWrite f) s = .next t ∧ t.pending = s.pending ∧
      t.m.out = s.m.out ++ [answerTo f 0 (frameStatus s.m (frDie f) (frAddr f))] ∧ DiesKept s.m t.m ∧
      (dieAt t.m (frDie f)).stw.lastTag = (dieAt s.m (frDie f)).stw.lastTag) ∧
  (∀ (s : State) (f : Frame), frOk f 2 = true → frDie f < 144 → answersAt s.m (frDie f) (frAddr f) = true →
    (dieAt s.m (frDie f)).stw.lastTag = some (frTag f) →
    ∃ t, exec (.weftWrite f) s = .next t ∧ t.pending = s.pending ∧ t.m.out = s.m.out ++ [answerTo f 0 0] ∧ DiesKept s.m t.m) ∧
  (∀ (s : State) (f : Frame) (r : WeftReq), frOk f 3 = true →
    s.m.weft.reqs.find? (fun e => e.1 == (frTag f).toNat) = some ((frTag f).toNat, r) → frType r.frame = 1 → frDie r.frame < 144 →
    frStatus f ≠ 2 →
    exec (.weftResponse f) s = .next (after (fun m => { m with
      weft := { m.weft with reqs := tdel m.weft.reqs (frTag f).toNat }
      out := m.out ++ [.readData (BitVec.ofNat 24 (winAddr (frDie r.frame) (frAddr r.frame))) (frData f)] }) s)) ∧
  (∀ (s : State) (tag : BitVec 16) (r : WeftReq), s.m.weft.reqs.find? (fun e => e.1 == tag.toNat) = some (tag.toNat, r) → r.resends < 3 →
    exec (.weftResendTimer tag) s = .next (after (fun m => { m with
      weft := { m.weft with reqs := tput m.weft.reqs tag.toNat { r with resends := r.resends + 1 } }
      out := m.out ++ [.weft r.frame] }) s)) ∧
  (∀ (s : State) (tag : BitVec 16) (r : WeftReq), s.m.weft.reqs.find? (fun e => e.1 == tag.toNat) = some (tag.toNat, r) → 3 ≤ r.resends →
    frType r.frame = 1 → frDie r.frame < 144 → ∃ t, exec (.weftResendTimer tag) s = .next t ∧ t.pending = s.pending ∧
      t.m.weft.reqs = tdel s.m.weft.reqs tag.toNat ∧
      (weftRingAt t.m (ringOf (frDie r.frame))).timeouts = satInc (weftRingAt s.m (ringOf (frDie r.frame))).timeouts ∧
      t.m.out = s.m.out ++ [.readData (BitVec.ofNat 24 (winAddr (frDie r.frame) (frAddr r.frame))) 0xFFFFFFFF]) ∧
  (∀ (s : State) (f : Frame) (e : Event) (rest : List Event), frOk f 4 = true → frDie f < 144 → answers s.m (frDie f) = true →
    (dieAt s.m (frDie f)).stw.evBuf = e :: rest → e.cls = fld f 32 16 →
    ∃ t, exec (.weftEvent f) s = .next t ∧ t.pending = s.pending ∧ (dieAt t.m (frDie f)).stw.evBuf = rest ∧
      (dieAt t.m (frDie f)).stw.evLost = [] ∧ t.m.led.ledSupp = (queueEvent e s.m.led).ledSupp ∧
      ((dieAt s.m (frDie f)).stw.evLost = [] → t.m.led = queueEvent e s.m.led)) ∧
  (∀ (s : State) (f : Frame), frOk f 4 = true → frDie f = 0xFF →
    ∃ t, exec (.weftEvent f) s = .next t ∧ t.pending = s.pending ∧ t.m.dies = s.m.dies ∧
      t.m.led = queueEvent (mkEvent s.m (fld f 32 16 : BitVec 16).toNat 0 0 0xFFFF 0xFFFF 0 (bytesOf (frData f))) s.m.led) ∧
  (∀ (s : State) (f : Frame), frOk f 6 = true → frAddr f = 0x5000 → s.m.ctl.modulePending = false → s.m.ctl.scope = 0 →
    ∃ t, exec (.weftBroadcast f) s = .next t ∧ t.pending = s.pending ∧
      ∀ d, d < 144 → dieAt t.m d = if answers s.m d then trkCtrl s.m.now (frData f) (dieAt s.m d) else dieAt s.m d) ∧
  (∀ (s : State) (f : Frame), frOk f 5 = true → frDie f < 144 → answers s.m (frDie f) = true → 0x1000 ≤ frAddr f → frAddr f < 0x4400 →
    present s.m (frDie f * 208 + (frAddr f - 0x1000) / 0x40) = true →
    ∃ t, exec (.weftTelemetry f) s = .next t ∧ t.pending = s.pending ∧ EventsGone s.m t.m (ringOf (frDie f)) ∧
      t.m.weft.sample = tput s.m.weft.sample (mlcOf s.m (frDie f * 208 + (frAddr f - 0x1000) / 0x40)) (frData f) ∧
      (∃ e ∈ t.m.weft.sample, e.2 = t.m.weft.minMargin) ∧ ∀ e ∈ t.m.weft.sample, t.m.weft.minMargin.toInt ≤ e.2.toInt) ∧
  (∀ (s : State) (r : Fin 4) (d : Fin 144), ringOf d.val = r.val → (weftRingAt s.m r.val).state = 0 →
    ∃ t, exec (.weftRingBreak r d) s = .next t ∧ t.pending = s.pending ∧ (weftRingAt t.m r.val).state = 1 ∧
      (weftRingAt t.m r.val).brk = BitVec.ofNat 8 d.val ∧ t.m.dies = s.m.dies) ∧
  (∀ (s : State), s.m.start.state = 7 → ∃ t, exec .telemetrySample s = .next t ∧ t.pending = s.pending ∧
    t.m.weft.telSeq = s.m.weft.telSeq + 1 ∧ (∀ e ∈ t.m.cores, answers s.m (dieOf e.1) = true → e.2.telMargin = none) ∧
    (∀ d, d < 144 → answers s.m d = true → (dieAt t.m d).stw.shCe = 0 ∧ (dieAt t.m d).stw.shUe = 0 ∧
      (dieAt t.m d).stw.evBuf = [] ∧
      (d, ({ ce := (dieAt s.m d).stw.shCe, ue := (dieAt s.m d).stw.shUe, str := (dieAt s.m d).stw.shStr
             trips := (dieAt s.m d).stw.shTrips } : DieCounts)) ∈ t.m.weft.counts) ∧
    (∀ e ∈ t.m.weft.sample, t.m.weft.minMargin.toInt ≤ e.2.toInt) ∧
    (t.m.weft.sample ≠ [] → (t.m.weft.minCore.toNat, t.m.weft.minMargin) ∈ t.m.weft.sample))

/-- Rules R29 to R31, R33 to R35, R38, R40, R272, R389 and R528: a request of a wider scope than what runs begins its
reset with the cause of the agent that made it, and one of the same or a narrower scope is absorbed; a warp reset
takes every core to its reset state and leaves edge memory, a rim reset takes the rim's blocks and tables with it and
leaves edge memory too; a module reset stops every update list and waits for its SUMMARY; the watchdog waits for
nothing; a reset that ends is counted and ends the commands that await it; a DRAM die that training finds failing is
lost. A core that the steward marks dead is in the dead set of its die at once, its processor is done, its engines are
stopped, and nothing more is written to its scratchpad; its event waits at the die, and during a job it is an
uncorrected fault.
Readings and choices of the model's own in it: log entries 16, 17 and 18. -/
def Obligations.ResetsAndDeadCores : Prop :=
  Sys2Proof.Spec.ResetsOfEachScope ∧
  Sys2Proof.Spec.ADeadCoreIsSetAside

/-! ### Rounds -/

namespace Sys2Proof.Spec

open Sys2Proof.Machine

/-- The module runs in rounds under another master: it is enabled, in no hold, and knows the last marker. -/
def Follows_ (s : Mach) (last : BitVec 48) (master : BitVec 16) : Prop :=
  s.rnd.en = true ∧ s.rnd.hold = false ∧ s.rnd.master = false ∧ s.rnd.lastAcc = some (last, master) ∧ s.rnd.owed = []

/-- The module is the master and emits markers. -/
def Masters (s : Mach) : Prop := s.rnd.master = true ∧ s.rnd.en = true ∧ s.rnd.hold = false ∧ s.rnd.conflict = false

/-- The round that a marker brings, as the module schedules it (R52, R54). -/
def roundOf (s : Mach) (p : Nat) (m : BitVec 192) : Round :=
  { num := mkRound m, period := mkPeriod m, stretch := mkStretch m
    start := if mkAligned m then s.now + nsCycles ((mkLead m).toInt - ((portAt s p).lat.toNat : Int)).toNat else s.now
    aligned := mkAligned m, instep := true }

/-- No core holds back a round start, no hold awaits one, and no ROUND_SET is due (R63, R449, R573). -/
def Ready (s : Mach) : Prop := s.rnd.withheld = [] ∧ anyLate s = false ∧ s.keep.holdNext = false ∧ s.rnd.sets = []

/-- Time has passed to the end of a round at least, and handlers that still run are stopped (R132). -/
def ended_ (t : Nat) (s : Mach) : Mach := stopHandlers (notBefore t s)

/-- The digest that the start of a round forms, if it forms one, has a majority (R281, R284). -/
def OpensRound (s : Mach) : Prop := s.rnd.cur = none ∨ (formDigest (ageDigest s)).rnd.hold = false

/-- The round that starts at a deadline that no marker met (R57). -/
def unmarked (x : Round) : Round :=
  { x with num := x.num + 1, stretch := 0, start := x.start + (x.period.toNat + x.stretch.toNat) * 1100, instep := false }

/-- What a late copy changes of the round that it is of (R55, R58). -/
def marked (m : BitVec 192) (x : Round) : Round :=
  if x.num = mkRound m then { x with period := mkPeriod m, stretch := mkStretch m, aligned := mkAligned m } else x

end Sys2Proof.Spec

/-- Rules R47 to R60, R66 to R71, R75, R87 and R607: the next marker of the master in step schedules its round and goes out on the
other marker ports with its HOPS raised; a copy is discarded; a late copy settles the round that started without it; a gap or a
second master is an event and a hold; the master emits its next marker, the first by the settings of that instant, and plans the
one after it; three missed markers end in a hold; a stretch request is gathered by the master, and passed upstream by the others.
Readings and choices of the model's own in it: log entry 39. -/
def Obligations.MarkersMoveTheRounds : Prop :=
  (∀ (s : State) (p : Fin 64) (m : BitVec 192) (last : BitVec 48), markerPort s.m p.val = true → Follows_ s.m last (mkMaster m) →
    mkRound m = last + 1 → s.m.rnd.lastFwd ≠ some (mkRound m, mkMaster m) → mkHold m = false → mkHops m ≠ 255 →
    (mkAligned m = true → 0 < (mkLead m).toInt - ((portAt s.m p.val).lat.toNat : Int)) →
    ∃ t, exec (.roundMarker p m) s = .next t ∧ t.pending = s.pending ∧ t.m.rnd.lastAcc = some (mkRound m, mkMaster m) ∧
      t.m.rnd.sched = s.m.rnd.sched ++ [roundOf s.m p.val m] ∧ t.m.rnd.missed = 0 ∧ t.m.rnd.hops = mkHops m ∧
      t.m.rnd.upport = BitVec.ofNat 6 p.val ∧ t.m.rnd.evt = s.m.rnd.evt ∧
      (∀ r : Fin 64, r ≠ p → markerPort s.m r.val = true → ∃ c, (portAt t.m r.val).urgent = (portAt s.m r.val).urgent ++ [.relay c s.m.now] ∧
        (mkRound c = mkRound m ∧ mkMaster c = mkMaster m ∧ mkHops c = mkHops m + 1 ∧ mkPeriod c = mkPeriod m ∧ mkStretch c = mkStretch m)) ∧
      (portAt t.m p.val).urgent = (portAt s.m p.val).urgent) ∧
  (∀ (s : State) (p : Fin 64) (m : BitVec 192), s.m.rnd.en = true → s.m.rnd.hold = false → s.m.rnd.master = false →
    s.m.rnd.lastAcc = some (mkRound m, mkMaster m) → mkRound m ∉ s.m.rnd.owed → exec (.roundMarker p m) s = .next s) ∧
  (∀ (s : State) (p : Fin 64) (m : BitVec 192) (last : BitVec 48), markerPort s.m p.val = true → s.m.rnd.en = true →
    s.m.rnd.hold = false → s.m.rnd.master = false → s.m.rnd.lastAcc = some (last, mkMaster m) → mkRound m ∈ s.m.rnd.owed →
    mkHold m = false →
    ∃ t, exec (.roundMarker p m) s = .next t ∧ t.pending = s.pending ∧ t.m.rnd.owed = s.m.rnd.owed.filter (· != mkRound m) ∧
      t.m.rnd.cur = s.m.rnd.cur.map (marked m) ∧ t.m.rnd.sched = s.m.rnd.sched.map (marked m) ∧
      t.m.rnd.withheld = s.m.rnd.withheld.map (marked m) ∧ t.m.rnd.missed = 0 ∧ t.m.rnd.evt = s.m.rnd.evt) ∧
  (∀ (s : State) (p : Fin 64) (m : BitVec 192) (last : BitVec 48), markerPort s.m p.val = true → Follows_ s.m last (mkMaster m) →
    mkRound m ≠ last → mkRound m ≠ last + 1 → s.m.rnd.lastFwd ≠ some (mkRound m, mkMaster m) →
    ∃ t, exec (.roundMarker p m) s = .next t ∧ t.pending = s.pending ∧ bit t.m.rnd.evt 6 = true ∧ t.m.rnd.hold = true) ∧
  (∀ (s : State) (p : Fin 64) (m : BitVec 192), markerPort s.m p.val = true → s.m.rnd.master = true →
    ∃ t, exec (.roundMarker p m) s = .next t ∧ t.pending = s.pending ∧ bit t.m.rnd.evt 7 = true ∧ t.m.rnd.hold = true ∧
      t.m.rnd.conflict = true) ∧
  (∀ (s : State) (p : Fin 64) (m : BitVec 192), markerPort s.m p.val = false → exec (.roundMarker p m) s = .next s) ∧
  (∀ (s : State) (n : NextMark), Masters s.m → s.m.rnd.nextEmit = some n → s.m.keep.holdCmds = [] →
    let period : BitVec 16 := if s.m.rnd.period.toNat < 16 then 16 else s.m.rnd.period
    let stretch := if n.first then 0 else
      if s.m.rnd.stretchMax.toNat < s.m.rnd.gathered.toNat then s.m.rnd.stretchMax else s.m.rnd.gathered
    let lead := if n.first then (if s.m.rnd.aligned then min s.m.rnd.leadNs.toNat (period.toNat * 500) else 0) else n.lead
    let start := if n.first then s.m.now + nsCycles lead else n.start
    let aligned := if n.first then s.m.rnd.aligned else n.aligned
    let m0 := notBefore (start - nsCycles lead) s.m
    ∃ t, exec .markerEmit s = .next t ∧ t.pending = s.pending ∧ t.m.rnd.lastAcc = some (n.num, s.m.ctl.id) ∧ t.m.rnd.gathered = 0 ∧
      t.m.now = m0.now ∧ t.m.rnd.sched = m0.rnd.sched ++
        [{ num := n.num, period := period, stretch := stretch, start := start, aligned := aligned, instep := true }] ∧
      (t.m.rnd.nextEmit.map (fun x => (x.num, x.start, x.first))) =
        some (n.num + 1, start + (period.toNat + stretch.toNat) * 1100, false) ∧
      ∀ r : Fin 64, markerPort s.m r.val = true → ∃ c, (portAt t.m r.val).urgent = (portAt m0 r.val).urgent ++ [.marker c] ∧
        (mkRound c = n.num ∧ mkMaster c = s.m.ctl.id ∧ mkHops c = 0 ∧ mkPeriod c = period ∧ mkStretch c = stretch ∧
          mkAligned c = aligned ∧ mkLead c = BitVec.ofNat 32 lead ∧ mkHold c = false)) ∧
  (∀ (s : State) (n : NextMark), Masters s.m → s.m.rnd.nextEmit = some n → s.m.keep.holdCmds ≠ [] →
    ∃ t, exec .markerEmit s = .next t ∧ t.pending = s.pending ∧ t.m.rnd.hold = true ∧ t.m.keep.holdCmds = [] ∧
      t.m.rnd.nextEmit = none) ∧
  (∀ (s : State) (x : Round), s.m.rnd.master = false → s.m.rnd.en = true → s.m.rnd.hold = false → s.m.rnd.sched = [] →
    latestRound s.m.rnd = some x → 2 ≤ s.m.rnd.missed.toNat →
    ∃ t, exec .missedMarker s = .next t ∧ t.pending = s.pending ∧ t.m.rnd.hold = true ∧
      t.m.rnd.missed = s.m.rnd.missed + 1) ∧
  (∀ (s : State) (x : Round), s.m.rnd.master = false → s.m.rnd.en = true → s.m.rnd.hold = false → s.m.rnd.sched = [] →
    s.m.rnd.withheld = [] → s.m.rnd.cur = some x → x.aligned = true → s.m.rnd.missed.toNat < 2 →
    let m0 := ended_ (unmarked x).start s.m
    let m1 := modRnd (fun r => { r with missed := r.missed + 1, owed := r.owed ++ [x.num + 1]
                                        lastAcc := r.lastAcc.map (fun a => (x.num + 1, a.2)) }) m0
    Ready m0 → OpensRound m1 →
    ∃ t, exec .missedMarker s = .next t ∧ t.pending = s.pending ∧ t.m.rnd.missed = s.m.rnd.missed + 1 ∧
      t.m.rnd.owed = s.m.rnd.owed ++ [x.num + 1] ∧ t.m.rnd.cur = some (unmarked x) ∧ t.m.rnd.instep = false) ∧
  (∀ (s : State) (m : BitVec 128) (n : NextMark), s.m.rnd.hold = false → s.m.rnd.master = true → s.m.rnd.nextEmit = some n →
    (fld m 8 2 : BitVec 2) = 0 →
    exec (.stretchRequest none m) s = .next (after (fun a => { a with rnd := { a.rnd with
      gathered := if a.rnd.gathered.toNat < (fld m 80 16 : BitVec 16).toNat then fld m 80 16 else a.rnd.gathered } }) s)) ∧
  (∀ (s : State) (p : Fin 64) (m : BitVec 128), s.m.rnd.hold = false → s.m.rnd.master = false → markerPort s.m p.val = true →
    s.m.rnd.lastAcc ≠ none → markerPort s.m s.m.rnd.upport.toNat = true →
    exec (.stretchRequest (some p) m) s = .next (after (modPort s.m.rnd.upport.toNat (fun x => { x with
      urgent := x.urgent ++ [.stretch (setByte m 2 (fld m 16 8 + 1))] })) s)) ∧
  (∀ (s : State) (v : Word), Served s.m 0x4000 → s.m.rnd.en = false →
    exec (.rndEnSet v) s = .next (accessed (fun m => { m with rnd := { m.rnd with
      aligned := bit v 2, master := bit v 1, en := true, lastAcc := none, owed := [], missed := 0, gathered := 0, conflict := false
      nextEmit := if bit v 1 && !m.rnd.hold then some (firstMark m.rnd.numReg) else none } }) s)) ∧
  (∀ (s : State) (v : Word), Served s.m 0x4038 →
    exec (.rndSreqWrite v) s = .next (accessed (fun m => { m with rnd := { m.rnd with
      sreq := if m.rnd.sreq.toNat < (fld v 0 16 : BitVec 16).toNat then fld v 0 16 else m.rnd.sreq } }) s))

/-- Rules R47, R57, R61 to R64, R73, R155, R281, R284, R449: time that passes takes its cycles and neither schedules nor starts a
round; a scheduled round starts at its time where no core is late, unless the digest that is due then has no majority; a late core
withholds the start, with an event, until it is done, and the round then starts late; the limit of its lateness is the late fault,
which stops every core and holds the module, and whose margin is the lateness; a fault since the last round start puts the module on hold at the next one.
Readings and choices of the model's own in it: log entry 39. -/
def Obligations.RoundsStartInTimeOrLate : Prop :=
  (∀ (n : Nat) (a : Mach), (passCycles n a).now = a.now + n ∧ (passCycles n a).rnd.cur = a.rnd.cur ∧
    (passCycles n a).rnd.sched = a.rnd.sched ∧ (passCycles n a).rnd.withheld = a.rnd.withheld ∧
    (passCycles n a).rnd.owed = a.rnd.owed ∧ (passCycles n a).rnd.missed = a.rnd.missed ∧
    (passCycles n a).rnd.hold = a.rnd.hold ∧ (passCycles n a).rnd.lateLimit = a.rnd.lateLimit) ∧
  (∀ (s : State) (r : Round) (rest : List Round), s.m.rnd.sched = r :: rest → s.m.rnd.en = true → Ready (ended_ r.start s.m) →
    OpensRound (modRnd (fun x => { x with sched := rest }) (ended_ r.start s.m)) →
    ∃ t, exec .roundStart s = .next t ∧ t.pending = s.pending ∧ t.m.rnd.cur = some r ∧ t.m.rnd.sched = rest ∧
      t.m.rnd.active = r.period ∧ t.m.fab.began = max s.m.now r.start ∧ t.m.fab.lost = 0 ∧ t.m.rnd.withheld = [] ∧ t.m.now = max s.m.now r.start ∧
      t.m.fab.cycle = 0) ∧
  (∀ (s : State) (r : Round) (rest : List Round), s.m.rnd.sched = r :: rest → s.m.rnd.en = true → Ready (ended_ r.start s.m) →
    ¬ OpensRound (modRnd (fun x => { x with sched := rest }) (ended_ r.start s.m)) →
    ∃ t, exec .roundStart s = .next t ∧ t.pending = s.pending ∧ t.m.rnd.cur = s.m.rnd.cur ∧ t.m.rnd.hold = true) ∧
  (∀ (s : State) (r : Round) (rest : List Round), s.m.rnd.sched = r :: rest → s.m.rnd.en = true →
    (ended_ r.start s.m).keep.holdNext = false → anyLate (ended_ r.start s.m) = true → s.m.rnd.lateLimit ≠ 0 →
    ∃ t, exec .roundStart s = .next t ∧ t.pending = s.pending ∧ t.m.rnd.cur = s.m.rnd.cur ∧ t.m.rnd.sched = rest ∧
      t.m.rnd.withheld = s.m.rnd.withheld ++ [r] ∧ bit t.m.rnd.evt 2 = true) ∧
  (∀ (s : State) (r : Round) (rest : List Round), s.m.rnd.sched = r :: rest → s.m.rnd.en = true → s.m.rnd.hold = false →
    (ended_ r.start s.m).keep.holdNext = true →
    ∃ t, exec .roundStart s = .next t ∧ t.pending = s.pending ∧ t.m.rnd.hold = true ∧ t.m.rnd.sched = [] ∧ t.m.rnd.cur = s.m.rnd.cur ∧
      bit t.m.rnd.evt 5 = true) ∧
  (∀ (s : State) (r : Round) (rest : List Round), s.m.rnd.withheld = r :: rest → s.m.now - r.start < lateCycles s.m →
    anyLate s.m = false → s.m.keep.holdNext = false → s.m.rnd.sets = [] → OpensRound (modRnd (fun x => { x with withheld := rest }) s.m) →
    ∃ t, exec .delayedRoundStart s = .next t ∧ t.pending = s.pending ∧ t.m.rnd.cur = some r ∧ t.m.rnd.withheld = rest ∧
      t.m.fab.began = s.m.now ∧ t.m.now = s.m.now ∧
      (s.m.rnd.cur ≠ none → s.m.rnd.ended = none → t.m.rnd.marginMin = int32 (-((s.m.now - r.start : Nat) : Int)))) ∧
  (∀ (s : State), s.m.rnd.withheld ≠ [] → anyLate s.m = true → (∀ r, s.m.rnd.withheld.head? = some r → s.m.now - r.start < lateCycles s.m) →
    exec .delayedRoundStart s = .next s) ∧
  (∀ (s : State) (r : Round) (rest : List Round), s.m.rnd.withheld = r :: rest → s.m.rnd.hold = false →
    ∃ t, exec .lateFault s = .next t ∧ t.pending = s.pending ∧ bit t.m.rnd.evt 3 = true ∧ t.m.rnd.hold = true ∧ t.m.rnd.withheld = [] ∧
      t.m.keep.faulted = true ∧ (∀ e ∈ t.m.cores, e.2.stopped = 0xF ∧ e.2.p.mode = .idle) ∧
      t.m.now = max s.m.now (r.start + lateCycles s.m) ∧
      (s.m.rnd.en = true → s.m.rnd.ended = none → t.m.rnd.marginMin = int32 (-((t.m.now - r.start : Nat) : Int))))

/-! ### The queue, the reset state, and the codes -/

namespace Sys2Proof.Spec

open Sys2Proof.Machine

/-- Every command that waits is well formed. -/
def QueueWf (s : State) : Prop := ∀ c ∈ s.pending, c.wf = true

/-- What the flip of bit i of a code word does to its syndrome: data bits first, then check bits (R382, R383). -/
def flipOf (arr i : Nat) : Nat := if i < wordBits arr then (columns arr).getD i 0 else 2 ^ (i - wordBits arr)

/-- Bits of a code word: 8 and 5, 64 and 8, 32 and 7 (R382). -/
def codeBits (arr : Nat) : Nat := match arr with | 0 => 13 | 1 => 72 | _ => 39

/-- The data with bit i flipped, where i is a data bit. -/
def flipData (arr i data : Nat) : Nat := if i < wordBits arr then data ^^^ 2 ^ i else data

/-- The memory of the stacks and the queue memory have their canonical form: addresses rise, and no byte listed is zero. -/
def MemoriesOk (m : Mach) : Prop := Memory.wf m.edge.mem = true ∧ Memory.wf m.host.qmem = true

/-- The registers of one instance whose Reset column of the register reference holds a nonzero number. -/
def resetTable : List (Nat × Word) :=
  [(0x0000, 0x00960200), (0x2060, 0xA), (0x3014, 0x012C012C), (0x4000, 0x4), (0x4004, 0x3E8), (0x4008, 0xFA0),
   (0x400C, 0x00140010), (0x4010, 0x03E8000A), (0x4014, 0x000303E8), (0x4058, 0xFFFFFFFF), (0x405C, 0xFFFFFFFF)] ++
  [(0x5010, 1), (0x5014, 1), (0x10014, 0x1FFC), (0x100000, 0x88A), (0x100004, 7), (0x100010, 0x118), (0x100018, 0x10),
   (0x104020, 0x1000)]

end Sys2Proof.Spec

/-- A step takes the command at the front of the queue and runs it with the queue's rest; with an empty queue one reference
cycle passes, with what the wheel of every core, the networks and a copy of a checkpoint that runs do in it (the model's choice, log entries 2 and 37).
Readings and choices of the model's own in it: log entries 2 and 37. -/
def Obligations.AStepRunsTheFrontCommand : Prop :=
  (∀ (c : Instr) (s : State), step { s with pending := c :: s.pending } = exec c s) ∧
  (∀ (s : State), s.pending = [] → step s = .next (after (fun m => copyCycle (passCycle m)) s))

/-- Every well-formed command is answered with a next state that leaves the queue as it was; a term that is no command (a list
of a length that its command cannot have) is a fault by name.
Readings and choices of the model's own in it: log entries 7 and 8. -/
def Obligations.EveryWellFormedCommandGoesOn : Prop :=
  ∀ (c : Instr) (s : State),
    (c.wf = true → ∃ t, exec c s = .next t ∧ t.pending = s.pending) ∧ (c.wf = false → exec c s = .fault .illFormed)

/-- The state after reset holds the values that the register reference (R582 and the tables it gathers) gives to every register
with a nonzero number there, nothing in its memories, and an empty queue; the current cycle begins with it; its memories have their canonical form.
Readings and choices of the model's own in it: log entries 1 and 9. -/
def Obligations.ResetHoldsTheTablesValues : Prop :=
  State.reset.pending = [] ∧ State.reset.start = State.reset.m ∧ QueueWf State.reset ∧ MemoriesOk State.reset.m ∧ State.reset.m.edge.mem = [] ∧
    State.reset.m.host.qmem = [] ∧ State.reset.m.cores = [] ∧ State.reset.m.host.rings = [] ∧
    State.reset.m.led.flash = [] ∧ State.reset.m.start.state = 0 ∧ State.reset.m.start.locked = false ∧
    (∀ e ∈ resetTable, regRead State.reset.m e.1 = e.2) ∧
    (∀ r : Fin 4, regRead State.reset.m (0x2040 + 4 * r.val) = 0x00FF0000) ∧
    (∀ q : Fin 16, regRead State.reset.m (0x10108 + 0x40 * q.val) = 0x10000004 ∧
      regRead State.reset.m (0x10118 + 0x40 * q.val) = 0x00040000) ∧
    (∀ st : Fin 32, regRead State.reset.m (0x100120 + 0x40 * st.val) = 0x3F) ∧
    (∀ p : Fin 64, regRead State.reset.m (0x108100 + 0x40 * p.val) =
      if (14 ≤ p.val ∧ p.val ≤ 29) ∨ (46 ≤ p.val ∧ p.val ≤ 61) then 0xC else 0xD) ∧
    (∀ d : Fin 144, regRead State.reset.m (0x405000 + 0x10000 * d.val) = 1 ∧
      regRead State.reset.m (0x407000 + 0x10000 * d.val) = 0x04000001)

/-- The invariant of the queue, and what it gives: a module whose waiting commands are all well formed keeps them so at
every step, and no step of it, however many, faults or is refused.
Readings and choices of the model's own in it: log entry 8. -/
def Obligations.AWellFormedQueueNeverStops : Prop :=
  (∀ (s t : State), QueueWf s → step s = .next t → QueueWf t) ∧
  (∀ (n : Nat) (s : State), QueueWf s → Sys2Proof.Safety.Runs n s) ∧
  (∀ (n : Nat) (s : State), Sys2Proof.Safety.Runs (n + 1) s → ∃ t, step s = .next t ∧ Sys2Proof.Safety.Runs n t)

/-- The invariant of the memories: a step from any state whose memories have their canonical form leads to such a state, so
equal memories stay equal data.
Readings and choices of the model's own in it: log entry 9. -/
def Obligations.MemoriesKeepTheirForm : Prop :=
  ∀ (s t : State), MemoriesOk s.m → step s = .next t → MemoriesOk t.m

/-- Rules R107, R140 to R142, R147 and R148: in every element format, an encoding that is no NaN decodes to a value that
converts back to the same encoding without saturation, in every rounding mode. -/
def Obligations.ElementFormatsRoundTrip : Prop :=
  ∀ (code mode x : Nat) (r : Word), code ≤ 9 → x < 2 ^ fmtBits code → (decodeElem code x).isNan = false →
    convElem code mode r (decodeElem code x) = (x, false)

/-- Rules R382 and R383: the flip of a data bit changes the check bits by that bit's column; any one flipped bit of a code word
of an array of a core, data or check, is corrected, with its position, whatever the data; any two are uncorrectable, and so is every other syndrome. -/
def Obligations.ArrayCodesCorrectOneAndDetectTwo : Prop :=
  ∀ (arr data : Nat), arr ≤ 2 → data < 2 ^ wordBits arr →
    checkBits arr 0 = 0 ∧
    (∀ i, i < wordBits arr → checkBits arr (data ^^^ 2 ^ i) = checkBits arr data ^^^ flipOf arr i) ∧
    decodeWord arr data 0 = (data, none) ∧
    (∀ i, i < codeBits arr → decodeWord arr (flipData arr i data) (flipOf arr i) = (data, some (false, i))) ∧
    (∀ i j, i < codeBits arr → j < codeBits arr → i ≠ j →
      (decodeWord arr (flipData arr i (flipData arr j data)) (flipOf arr i ^^^ flipOf arr j)).2 = some (true, 0)) ∧
    (∀ y, 0 < y → y < 2 ^ (codeBits arr - wordBits arr) → (∀ i, i < codeBits arr → flipOf arr i ≠ y) →
      decodeWord arr data y = (data, some (true, 0)))
end

