-- ==== Sys2Proof/Laws/State.lean ====
section
/-! SUPPORT. What each update of a part of the machine does to each part: its own part changes, every other part is
what it was. -/

namespace Sys2Proof.Machine

@[simp] theorem modCore_own (k : Nat) (f : Core → Core) (s : Mach) : (modCore k f s).cores = tmod Core.reset s.cores k f := rfl

@[simp] theorem modCore_frame (k : Nat) (f : Core → Core) (s : Mach) :
    (modCore k f s).now = s.now ∧ (modCore k f s).free = s.free ∧ (modCore k f s).out = s.out ∧
    (modCore k f s).notes = s.notes ∧ (modCore k f s).ctl = s.ctl ∧ (modCore k f s).rnd = s.rnd ∧
    (modCore k f s).dies = s.dies ∧ (modCore k f s).dpw = s.dpw ∧ (modCore k f s).sec = s.sec ∧
    (modCore k f s).fab = s.fab ∧ (modCore k f s).edge = s.edge ∧ (modCore k f s).stk = s.stk ∧
    (modCore k f s).trn = s.trn ∧ (modCore k f s).ports = s.ports ∧ (modCore k f s).epoch = s.epoch ∧
    (modCore k f s).rmt = s.rmt ∧ (modCore k f s).sys = s.sys ∧ (modCore k f s).ls = s.ls ∧
    (modCore k f s).keep = s.keep ∧ (modCore k f s).mnt = s.mnt ∧ (modCore k f s).pwr = s.pwr ∧
    (modCore k f s).start = s.start ∧ (modCore k f s).led = s.led ∧ (modCore k f s).cal = s.cal ∧
    (modCore k f s).weft = s.weft ∧ (modCore k f s).cradle = s.cradle ∧ (modCore k f s).host = s.host := by
  and_intros <;> rfl

@[simp] theorem modDie_own (d : Nat) (f : Die → Die) (s : Mach) : (modDie d f s).dies = tmod Die.reset s.dies d f := rfl

@[simp] theorem modDie_frame (d : Nat) (f : Die → Die) (s : Mach) :
    (modDie d f s).now = s.now ∧ (modDie d f s).free = s.free ∧ (modDie d f s).out = s.out ∧
    (modDie d f s).notes = s.notes ∧ (modDie d f s).ctl = s.ctl ∧ (modDie d f s).rnd = s.rnd ∧
    (modDie d f s).cores = s.cores ∧ (modDie d f s).dpw = s.dpw ∧ (modDie d f s).sec = s.sec ∧
    (modDie d f s).fab = s.fab ∧ (modDie d f s).edge = s.edge ∧ (modDie d f s).stk = s.stk ∧
    (modDie d f s).trn = s.trn ∧ (modDie d f s).ports = s.ports ∧ (modDie d f s).epoch = s.epoch ∧
    (modDie d f s).rmt = s.rmt ∧ (modDie d f s).sys = s.sys ∧ (modDie d f s).ls = s.ls ∧
    (modDie d f s).keep = s.keep ∧ (modDie d f s).mnt = s.mnt ∧ (modDie d f s).pwr = s.pwr ∧
    (modDie d f s).start = s.start ∧ (modDie d f s).led = s.led ∧ (modDie d f s).cal = s.cal ∧
    (modDie d f s).weft = s.weft ∧ (modDie d f s).cradle = s.cradle ∧ (modDie d f s).host = s.host := by
  and_intros <;> rfl

@[simp] theorem modStk_own (i : Nat) (f : Stack → Stack) (s : Mach) : (modStk i f s).stk = tmod Stack.reset s.stk i f := rfl

@[simp] theorem modStk_frame (i : Nat) (f : Stack → Stack) (s : Mach) :
    (modStk i f s).now = s.now ∧ (modStk i f s).free = s.free ∧ (modStk i f s).out = s.out ∧
    (modStk i f s).notes = s.notes ∧ (modStk i f s).ctl = s.ctl ∧ (modStk i f s).rnd = s.rnd ∧
    (modStk i f s).cores = s.cores ∧ (modStk i f s).dies = s.dies ∧ (modStk i f s).dpw = s.dpw ∧
    (modStk i f s).sec = s.sec ∧ (modStk i f s).fab = s.fab ∧ (modStk i f s).edge = s.edge ∧
    (modStk i f s).trn = s.trn ∧ (modStk i f s).ports = s.ports ∧ (modStk i f s).epoch = s.epoch ∧
    (modStk i f s).rmt = s.rmt ∧ (modStk i f s).sys = s.sys ∧ (modStk i f s).ls = s.ls ∧
    (modStk i f s).keep = s.keep ∧ (modStk i f s).mnt = s.mnt ∧ (modStk i f s).pwr = s.pwr ∧
    (modStk i f s).start = s.start ∧ (modStk i f s).led = s.led ∧ (modStk i f s).cal = s.cal ∧
    (modStk i f s).weft = s.weft ∧ (modStk i f s).cradle = s.cradle ∧ (modStk i f s).host = s.host := by
  and_intros <;> rfl

@[simp] theorem modRing_own (q : Nat) (f : Ring → Ring) (s : Mach) : (modRing q f s).host = { s.host with rings := tmod Ring.reset s.host.rings q f } := rfl

@[simp] theorem modRing_frame (q : Nat) (f : Ring → Ring) (s : Mach) :
    (modRing q f s).now = s.now ∧ (modRing q f s).free = s.free ∧ (modRing q f s).out = s.out ∧
    (modRing q f s).notes = s.notes ∧ (modRing q f s).ctl = s.ctl ∧ (modRing q f s).rnd = s.rnd ∧
    (modRing q f s).cores = s.cores ∧ (modRing q f s).dies = s.dies ∧ (modRing q f s).dpw = s.dpw ∧
    (modRing q f s).sec = s.sec ∧ (modRing q f s).fab = s.fab ∧ (modRing q f s).edge = s.edge ∧
    (modRing q f s).stk = s.stk ∧ (modRing q f s).trn = s.trn ∧ (modRing q f s).ports = s.ports ∧
    (modRing q f s).epoch = s.epoch ∧ (modRing q f s).rmt = s.rmt ∧ (modRing q f s).sys = s.sys ∧
    (modRing q f s).ls = s.ls ∧ (modRing q f s).keep = s.keep ∧ (modRing q f s).mnt = s.mnt ∧
    (modRing q f s).pwr = s.pwr ∧ (modRing q f s).start = s.start ∧ (modRing q f s).led = s.led ∧
    (modRing q f s).cal = s.cal ∧ (modRing q f s).weft = s.weft ∧ (modRing q f s).cradle = s.cradle := by
  and_intros <;> rfl

@[simp] theorem modDpw_own (d : Nat) (f : DiePower → DiePower) (s : Mach) : (modDpw d f s).dpw = tmod DiePower.reset s.dpw d f := rfl

@[simp] theorem modDpw_frame (d : Nat) (f : DiePower → DiePower) (s : Mach) :
    (modDpw d f s).now = s.now ∧ (modDpw d f s).free = s.free ∧ (modDpw d f s).out = s.out ∧
    (modDpw d f s).notes = s.notes ∧ (modDpw d f s).ctl = s.ctl ∧ (modDpw d f s).rnd = s.rnd ∧
    (modDpw d f s).cores = s.cores ∧ (modDpw d f s).dies = s.dies ∧ (modDpw d f s).sec = s.sec ∧
    (modDpw d f s).fab = s.fab ∧ (modDpw d f s).edge = s.edge ∧ (modDpw d f s).stk = s.stk ∧
    (modDpw d f s).trn = s.trn ∧ (modDpw d f s).ports = s.ports ∧ (modDpw d f s).epoch = s.epoch ∧
    (modDpw d f s).rmt = s.rmt ∧ (modDpw d f s).sys = s.sys ∧ (modDpw d f s).ls = s.ls ∧
    (modDpw d f s).keep = s.keep ∧ (modDpw d f s).mnt = s.mnt ∧ (modDpw d f s).pwr = s.pwr ∧
    (modDpw d f s).start = s.start ∧ (modDpw d f s).led = s.led ∧ (modDpw d f s).cal = s.cal ∧
    (modDpw d f s).weft = s.weft ∧ (modDpw d f s).cradle = s.cradle ∧ (modDpw d f s).host = s.host := by
  and_intros <;> rfl

@[simp] theorem modPort_own (p : Nat) (f : Port → Port) (s : Mach) : (modPort p f s).ports = tmod Port.reset s.ports p f := rfl

@[simp] theorem modPort_frame (p : Nat) (f : Port → Port) (s : Mach) :
    (modPort p f s).now = s.now ∧ (modPort p f s).free = s.free ∧ (modPort p f s).out = s.out ∧
    (modPort p f s).notes = s.notes ∧ (modPort p f s).ctl = s.ctl ∧ (modPort p f s).rnd = s.rnd ∧
    (modPort p f s).cores = s.cores ∧ (modPort p f s).dies = s.dies ∧ (modPort p f s).dpw = s.dpw ∧
    (modPort p f s).sec = s.sec ∧ (modPort p f s).fab = s.fab ∧ (modPort p f s).edge = s.edge ∧
    (modPort p f s).stk = s.stk ∧ (modPort p f s).trn = s.trn ∧ (modPort p f s).epoch = s.epoch ∧
    (modPort p f s).rmt = s.rmt ∧ (modPort p f s).sys = s.sys ∧ (modPort p f s).ls = s.ls ∧
    (modPort p f s).keep = s.keep ∧ (modPort p f s).mnt = s.mnt ∧ (modPort p f s).pwr = s.pwr ∧
    (modPort p f s).start = s.start ∧ (modPort p f s).led = s.led ∧ (modPort p f s).cal = s.cal ∧
    (modPort p f s).weft = s.weft ∧ (modPort p f s).cradle = s.cradle ∧ (modPort p f s).host = s.host := by
  and_intros <;> rfl

@[simp] theorem modUnit_own (u : Nat) (f : Unit_ → Unit_) (s : Mach) : (modUnit u f s).trn = { s.trn with units := tmod Unit_.reset s.trn.units u f } := rfl

@[simp] theorem modUnit_frame (u : Nat) (f : Unit_ → Unit_) (s : Mach) :
    (modUnit u f s).now = s.now ∧ (modUnit u f s).free = s.free ∧ (modUnit u f s).out = s.out ∧
    (modUnit u f s).notes = s.notes ∧ (modUnit u f s).ctl = s.ctl ∧ (modUnit u f s).rnd = s.rnd ∧
    (modUnit u f s).cores = s.cores ∧ (modUnit u f s).dies = s.dies ∧ (modUnit u f s).dpw = s.dpw ∧
    (modUnit u f s).sec = s.sec ∧ (modUnit u f s).fab = s.fab ∧ (modUnit u f s).edge = s.edge ∧
    (modUnit u f s).stk = s.stk ∧ (modUnit u f s).ports = s.ports ∧ (modUnit u f s).epoch = s.epoch ∧
    (modUnit u f s).rmt = s.rmt ∧ (modUnit u f s).sys = s.sys ∧ (modUnit u f s).ls = s.ls ∧
    (modUnit u f s).keep = s.keep ∧ (modUnit u f s).mnt = s.mnt ∧ (modUnit u f s).pwr = s.pwr ∧
    (modUnit u f s).start = s.start ∧ (modUnit u f s).led = s.led ∧ (modUnit u f s).cal = s.cal ∧
    (modUnit u f s).weft = s.weft ∧ (modUnit u f s).cradle = s.cradle ∧ (modUnit u f s).host = s.host := by
  and_intros <;> rfl

@[simp] theorem modTrn_own (f : Train → Train) (s : Mach) : (modTrn f s).trn = f s.trn := rfl

@[simp] theorem modTrn_frame (f : Train → Train) (s : Mach) :
    (modTrn f s).now = s.now ∧ (modTrn f s).free = s.free ∧ (modTrn f s).out = s.out ∧ (modTrn f s).notes = s.notes ∧
    (modTrn f s).ctl = s.ctl ∧ (modTrn f s).rnd = s.rnd ∧ (modTrn f s).cores = s.cores ∧ (modTrn f s).dies = s.dies ∧
    (modTrn f s).dpw = s.dpw ∧ (modTrn f s).sec = s.sec ∧ (modTrn f s).fab = s.fab ∧ (modTrn f s).edge = s.edge ∧
    (modTrn f s).stk = s.stk ∧ (modTrn f s).ports = s.ports ∧ (modTrn f s).epoch = s.epoch ∧
    (modTrn f s).rmt = s.rmt ∧ (modTrn f s).sys = s.sys ∧ (modTrn f s).ls = s.ls ∧ (modTrn f s).keep = s.keep ∧
    (modTrn f s).mnt = s.mnt ∧ (modTrn f s).pwr = s.pwr ∧ (modTrn f s).start = s.start ∧ (modTrn f s).led = s.led ∧
    (modTrn f s).cal = s.cal ∧ (modTrn f s).weft = s.weft ∧ (modTrn f s).cradle = s.cradle ∧
    (modTrn f s).host = s.host := by
  and_intros <;> rfl

@[simp] theorem modRmt_own (f : Remote → Remote) (s : Mach) : (modRmt f s).rmt = f s.rmt := rfl

@[simp] theorem modRmt_frame (f : Remote → Remote) (s : Mach) :
    (modRmt f s).now = s.now ∧ (modRmt f s).free = s.free ∧ (modRmt f s).out = s.out ∧ (modRmt f s).notes = s.notes ∧
    (modRmt f s).ctl = s.ctl ∧ (modRmt f s).rnd = s.rnd ∧ (modRmt f s).cores = s.cores ∧ (modRmt f s).dies = s.dies ∧
    (modRmt f s).dpw = s.dpw ∧ (modRmt f s).sec = s.sec ∧ (modRmt f s).fab = s.fab ∧ (modRmt f s).edge = s.edge ∧
    (modRmt f s).stk = s.stk ∧ (modRmt f s).trn = s.trn ∧ (modRmt f s).ports = s.ports ∧
    (modRmt f s).epoch = s.epoch ∧ (modRmt f s).sys = s.sys ∧ (modRmt f s).ls = s.ls ∧ (modRmt f s).keep = s.keep ∧
    (modRmt f s).mnt = s.mnt ∧ (modRmt f s).pwr = s.pwr ∧ (modRmt f s).start = s.start ∧ (modRmt f s).led = s.led ∧
    (modRmt f s).cal = s.cal ∧ (modRmt f s).weft = s.weft ∧ (modRmt f s).cradle = s.cradle ∧
    (modRmt f s).host = s.host := by
  and_intros <;> rfl

@[simp] theorem modSys_own (f : Sys → Sys) (s : Mach) : (modSys f s).sys = f s.sys := rfl

@[simp] theorem modSys_frame (f : Sys → Sys) (s : Mach) :
    (modSys f s).now = s.now ∧ (modSys f s).free = s.free ∧ (modSys f s).out = s.out ∧ (modSys f s).notes = s.notes ∧
    (modSys f s).ctl = s.ctl ∧ (modSys f s).rnd = s.rnd ∧ (modSys f s).cores = s.cores ∧ (modSys f s).dies = s.dies ∧
    (modSys f s).dpw = s.dpw ∧ (modSys f s).sec = s.sec ∧ (modSys f s).fab = s.fab ∧ (modSys f s).edge = s.edge ∧
    (modSys f s).stk = s.stk ∧ (modSys f s).trn = s.trn ∧ (modSys f s).ports = s.ports ∧
    (modSys f s).epoch = s.epoch ∧ (modSys f s).rmt = s.rmt ∧ (modSys f s).ls = s.ls ∧ (modSys f s).keep = s.keep ∧
    (modSys f s).mnt = s.mnt ∧ (modSys f s).pwr = s.pwr ∧ (modSys f s).start = s.start ∧ (modSys f s).led = s.led ∧
    (modSys f s).cal = s.cal ∧ (modSys f s).weft = s.weft ∧ (modSys f s).cradle = s.cradle ∧
    (modSys f s).host = s.host := by
  and_intros <;> rfl

@[simp] theorem modLs_own (f : Lockstep → Lockstep) (s : Mach) : (modLs f s).ls = f s.ls := rfl

@[simp] theorem modLs_frame (f : Lockstep → Lockstep) (s : Mach) :
    (modLs f s).now = s.now ∧ (modLs f s).free = s.free ∧ (modLs f s).out = s.out ∧ (modLs f s).notes = s.notes ∧
    (modLs f s).ctl = s.ctl ∧ (modLs f s).rnd = s.rnd ∧ (modLs f s).cores = s.cores ∧ (modLs f s).dies = s.dies ∧
    (modLs f s).dpw = s.dpw ∧ (modLs f s).sec = s.sec ∧ (modLs f s).fab = s.fab ∧ (modLs f s).edge = s.edge ∧
    (modLs f s).stk = s.stk ∧ (modLs f s).trn = s.trn ∧ (modLs f s).ports = s.ports ∧ (modLs f s).epoch = s.epoch ∧
    (modLs f s).rmt = s.rmt ∧ (modLs f s).sys = s.sys ∧ (modLs f s).keep = s.keep ∧ (modLs f s).mnt = s.mnt ∧
    (modLs f s).pwr = s.pwr ∧ (modLs f s).start = s.start ∧ (modLs f s).led = s.led ∧ (modLs f s).cal = s.cal ∧
    (modLs f s).weft = s.weft ∧ (modLs f s).cradle = s.cradle ∧ (modLs f s).host = s.host := by
  and_intros <;> rfl

@[simp] theorem modPwr_own (f : Power → Power) (s : Mach) : (modPwr f s).pwr = f s.pwr := rfl

@[simp] theorem modPwr_frame (f : Power → Power) (s : Mach) :
    (modPwr f s).now = s.now ∧ (modPwr f s).free = s.free ∧ (modPwr f s).out = s.out ∧ (modPwr f s).notes = s.notes ∧
    (modPwr f s).ctl = s.ctl ∧ (modPwr f s).rnd = s.rnd ∧ (modPwr f s).cores = s.cores ∧ (modPwr f s).dies = s.dies ∧
    (modPwr f s).dpw = s.dpw ∧ (modPwr f s).sec = s.sec ∧ (modPwr f s).fab = s.fab ∧ (modPwr f s).edge = s.edge ∧
    (modPwr f s).stk = s.stk ∧ (modPwr f s).trn = s.trn ∧ (modPwr f s).ports = s.ports ∧
    (modPwr f s).epoch = s.epoch ∧ (modPwr f s).rmt = s.rmt ∧ (modPwr f s).sys = s.sys ∧ (modPwr f s).ls = s.ls ∧
    (modPwr f s).keep = s.keep ∧ (modPwr f s).mnt = s.mnt ∧ (modPwr f s).start = s.start ∧ (modPwr f s).led = s.led ∧
    (modPwr f s).cal = s.cal ∧ (modPwr f s).weft = s.weft ∧ (modPwr f s).cradle = s.cradle ∧
    (modPwr f s).host = s.host := by
  and_intros <;> rfl

@[simp] theorem modStart_own (f : Start → Start) (s : Mach) : (modStart f s).start = f s.start := rfl

@[simp] theorem modStart_frame (f : Start → Start) (s : Mach) :
    (modStart f s).now = s.now ∧ (modStart f s).free = s.free ∧ (modStart f s).out = s.out ∧
    (modStart f s).notes = s.notes ∧ (modStart f s).ctl = s.ctl ∧ (modStart f s).rnd = s.rnd ∧
    (modStart f s).cores = s.cores ∧ (modStart f s).dies = s.dies ∧ (modStart f s).dpw = s.dpw ∧
    (modStart f s).sec = s.sec ∧ (modStart f s).fab = s.fab ∧ (modStart f s).edge = s.edge ∧
    (modStart f s).stk = s.stk ∧ (modStart f s).trn = s.trn ∧ (modStart f s).ports = s.ports ∧
    (modStart f s).epoch = s.epoch ∧ (modStart f s).rmt = s.rmt ∧ (modStart f s).sys = s.sys ∧
    (modStart f s).ls = s.ls ∧ (modStart f s).keep = s.keep ∧ (modStart f s).mnt = s.mnt ∧
    (modStart f s).pwr = s.pwr ∧ (modStart f s).led = s.led ∧ (modStart f s).cal = s.cal ∧
    (modStart f s).weft = s.weft ∧ (modStart f s).cradle = s.cradle ∧ (modStart f s).host = s.host := by
  and_intros <;> rfl

@[simp] theorem modRnd_own (f : Rnd → Rnd) (s : Mach) : (modRnd f s).rnd = f s.rnd := rfl

@[simp] theorem modRnd_frame (f : Rnd → Rnd) (s : Mach) :
    (modRnd f s).now = s.now ∧ (modRnd f s).free = s.free ∧ (modRnd f s).out = s.out ∧ (modRnd f s).notes = s.notes ∧
    (modRnd f s).ctl = s.ctl ∧ (modRnd f s).cores = s.cores ∧ (modRnd f s).dies = s.dies ∧ (modRnd f s).dpw = s.dpw ∧
    (modRnd f s).sec = s.sec ∧ (modRnd f s).fab = s.fab ∧ (modRnd f s).edge = s.edge ∧ (modRnd f s).stk = s.stk ∧
    (modRnd f s).trn = s.trn ∧ (modRnd f s).ports = s.ports ∧ (modRnd f s).epoch = s.epoch ∧
    (modRnd f s).rmt = s.rmt ∧ (modRnd f s).sys = s.sys ∧ (modRnd f s).ls = s.ls ∧ (modRnd f s).keep = s.keep ∧
    (modRnd f s).mnt = s.mnt ∧ (modRnd f s).pwr = s.pwr ∧ (modRnd f s).start = s.start ∧ (modRnd f s).led = s.led ∧
    (modRnd f s).cal = s.cal ∧ (modRnd f s).weft = s.weft ∧ (modRnd f s).cradle = s.cradle ∧
    (modRnd f s).host = s.host := by
  and_intros <;> rfl

@[simp] theorem modEdge_own (f : Edge → Edge) (s : Mach) : (modEdge f s).edge = f s.edge := rfl

@[simp] theorem modEdge_frame (f : Edge → Edge) (s : Mach) :
    (modEdge f s).now = s.now ∧ (modEdge f s).free = s.free ∧ (modEdge f s).out = s.out ∧
    (modEdge f s).notes = s.notes ∧ (modEdge f s).ctl = s.ctl ∧ (modEdge f s).rnd = s.rnd ∧
    (modEdge f s).cores = s.cores ∧ (modEdge f s).dies = s.dies ∧ (modEdge f s).dpw = s.dpw ∧
    (modEdge f s).sec = s.sec ∧ (modEdge f s).fab = s.fab ∧ (modEdge f s).stk = s.stk ∧ (modEdge f s).trn = s.trn ∧
    (modEdge f s).ports = s.ports ∧ (modEdge f s).epoch = s.epoch ∧ (modEdge f s).rmt = s.rmt ∧
    (modEdge f s).sys = s.sys ∧ (modEdge f s).ls = s.ls ∧ (modEdge f s).keep = s.keep ∧ (modEdge f s).mnt = s.mnt ∧
    (modEdge f s).pwr = s.pwr ∧ (modEdge f s).start = s.start ∧ (modEdge f s).led = s.led ∧
    (modEdge f s).cal = s.cal ∧ (modEdge f s).weft = s.weft ∧ (modEdge f s).cradle = s.cradle ∧
    (modEdge f s).host = s.host := by
  and_intros <;> rfl

@[simp] theorem modSec_own (f : Sections → Sections) (s : Mach) : (modSec f s).sec = f s.sec := rfl

@[simp] theorem modSec_frame (f : Sections → Sections) (s : Mach) :
    (modSec f s).now = s.now ∧ (modSec f s).free = s.free ∧ (modSec f s).out = s.out ∧ (modSec f s).notes = s.notes ∧
    (modSec f s).ctl = s.ctl ∧ (modSec f s).rnd = s.rnd ∧ (modSec f s).cores = s.cores ∧ (modSec f s).dies = s.dies ∧
    (modSec f s).dpw = s.dpw ∧ (modSec f s).fab = s.fab ∧ (modSec f s).edge = s.edge ∧ (modSec f s).stk = s.stk ∧
    (modSec f s).trn = s.trn ∧ (modSec f s).ports = s.ports ∧ (modSec f s).epoch = s.epoch ∧
    (modSec f s).rmt = s.rmt ∧ (modSec f s).sys = s.sys ∧ (modSec f s).ls = s.ls ∧ (modSec f s).keep = s.keep ∧
    (modSec f s).mnt = s.mnt ∧ (modSec f s).pwr = s.pwr ∧ (modSec f s).start = s.start ∧ (modSec f s).led = s.led ∧
    (modSec f s).cal = s.cal ∧ (modSec f s).weft = s.weft ∧ (modSec f s).cradle = s.cradle ∧
    (modSec f s).host = s.host := by
  and_intros <;> rfl

@[simp] theorem modCtl_own (f : Control → Control) (s : Mach) : (modCtl f s).ctl = f s.ctl := rfl

@[simp] theorem modCtl_frame (f : Control → Control) (s : Mach) :
    (modCtl f s).now = s.now ∧ (modCtl f s).free = s.free ∧ (modCtl f s).out = s.out ∧ (modCtl f s).notes = s.notes ∧
    (modCtl f s).rnd = s.rnd ∧ (modCtl f s).cores = s.cores ∧ (modCtl f s).dies = s.dies ∧ (modCtl f s).dpw = s.dpw ∧
    (modCtl f s).sec = s.sec ∧ (modCtl f s).fab = s.fab ∧ (modCtl f s).edge = s.edge ∧ (modCtl f s).stk = s.stk ∧
    (modCtl f s).trn = s.trn ∧ (modCtl f s).ports = s.ports ∧ (modCtl f s).epoch = s.epoch ∧
    (modCtl f s).rmt = s.rmt ∧ (modCtl f s).sys = s.sys ∧ (modCtl f s).ls = s.ls ∧ (modCtl f s).keep = s.keep ∧
    (modCtl f s).mnt = s.mnt ∧ (modCtl f s).pwr = s.pwr ∧ (modCtl f s).start = s.start ∧ (modCtl f s).led = s.led ∧
    (modCtl f s).cal = s.cal ∧ (modCtl f s).weft = s.weft ∧ (modCtl f s).cradle = s.cradle ∧
    (modCtl f s).host = s.host := by
  and_intros <;> rfl

@[simp] theorem modKeep_own (f : Keep → Keep) (s : Mach) : (modKeep f s).keep = f s.keep := rfl

@[simp] theorem modKeep_frame (f : Keep → Keep) (s : Mach) :
    (modKeep f s).now = s.now ∧ (modKeep f s).free = s.free ∧ (modKeep f s).out = s.out ∧
    (modKeep f s).notes = s.notes ∧ (modKeep f s).ctl = s.ctl ∧ (modKeep f s).rnd = s.rnd ∧
    (modKeep f s).cores = s.cores ∧ (modKeep f s).dies = s.dies ∧ (modKeep f s).dpw = s.dpw ∧
    (modKeep f s).sec = s.sec ∧ (modKeep f s).fab = s.fab ∧ (modKeep f s).edge = s.edge ∧ (modKeep f s).stk = s.stk ∧
    (modKeep f s).trn = s.trn ∧ (modKeep f s).ports = s.ports ∧ (modKeep f s).epoch = s.epoch ∧
    (modKeep f s).rmt = s.rmt ∧ (modKeep f s).sys = s.sys ∧ (modKeep f s).ls = s.ls ∧ (modKeep f s).mnt = s.mnt ∧
    (modKeep f s).pwr = s.pwr ∧ (modKeep f s).start = s.start ∧ (modKeep f s).led = s.led ∧
    (modKeep f s).cal = s.cal ∧ (modKeep f s).weft = s.weft ∧ (modKeep f s).cradle = s.cradle ∧
    (modKeep f s).host = s.host := by
  and_intros <;> rfl

@[simp] theorem modMnt_own (f : Maint → Maint) (s : Mach) : (modMnt f s).mnt = f s.mnt := rfl

@[simp] theorem modMnt_frame (f : Maint → Maint) (s : Mach) :
    (modMnt f s).now = s.now ∧ (modMnt f s).free = s.free ∧ (modMnt f s).out = s.out ∧ (modMnt f s).notes = s.notes ∧
    (modMnt f s).ctl = s.ctl ∧ (modMnt f s).rnd = s.rnd ∧ (modMnt f s).cores = s.cores ∧ (modMnt f s).dies = s.dies ∧
    (modMnt f s).dpw = s.dpw ∧ (modMnt f s).sec = s.sec ∧ (modMnt f s).fab = s.fab ∧ (modMnt f s).edge = s.edge ∧
    (modMnt f s).stk = s.stk ∧ (modMnt f s).trn = s.trn ∧ (modMnt f s).ports = s.ports ∧
    (modMnt f s).epoch = s.epoch ∧ (modMnt f s).rmt = s.rmt ∧ (modMnt f s).sys = s.sys ∧ (modMnt f s).ls = s.ls ∧
    (modMnt f s).keep = s.keep ∧ (modMnt f s).pwr = s.pwr ∧ (modMnt f s).start = s.start ∧ (modMnt f s).led = s.led ∧
    (modMnt f s).cal = s.cal ∧ (modMnt f s).weft = s.weft ∧ (modMnt f s).cradle = s.cradle ∧
    (modMnt f s).host = s.host := by
  and_intros <;> rfl

@[simp] theorem modLed_own (f : Ledger → Ledger) (s : Mach) : (modLed f s).led = f s.led := rfl

@[simp] theorem modLed_frame (f : Ledger → Ledger) (s : Mach) :
    (modLed f s).now = s.now ∧ (modLed f s).free = s.free ∧ (modLed f s).out = s.out ∧ (modLed f s).notes = s.notes ∧
    (modLed f s).ctl = s.ctl ∧ (modLed f s).rnd = s.rnd ∧ (modLed f s).cores = s.cores ∧ (modLed f s).dies = s.dies ∧
    (modLed f s).dpw = s.dpw ∧ (modLed f s).sec = s.sec ∧ (modLed f s).fab = s.fab ∧ (modLed f s).edge = s.edge ∧
    (modLed f s).stk = s.stk ∧ (modLed f s).trn = s.trn ∧ (modLed f s).ports = s.ports ∧
    (modLed f s).epoch = s.epoch ∧ (modLed f s).rmt = s.rmt ∧ (modLed f s).sys = s.sys ∧ (modLed f s).ls = s.ls ∧
    (modLed f s).keep = s.keep ∧ (modLed f s).mnt = s.mnt ∧ (modLed f s).pwr = s.pwr ∧ (modLed f s).start = s.start ∧
    (modLed f s).cal = s.cal ∧ (modLed f s).weft = s.weft ∧ (modLed f s).cradle = s.cradle ∧
    (modLed f s).host = s.host := by
  and_intros <;> rfl

@[simp] theorem modCal_own (f : Calendar → Calendar) (s : Mach) : (modCal f s).cal = f s.cal := rfl

@[simp] theorem modCal_frame (f : Calendar → Calendar) (s : Mach) :
    (modCal f s).now = s.now ∧ (modCal f s).free = s.free ∧ (modCal f s).out = s.out ∧ (modCal f s).notes = s.notes ∧
    (modCal f s).ctl = s.ctl ∧ (modCal f s).rnd = s.rnd ∧ (modCal f s).cores = s.cores ∧ (modCal f s).dies = s.dies ∧
    (modCal f s).dpw = s.dpw ∧ (modCal f s).sec = s.sec ∧ (modCal f s).fab = s.fab ∧ (modCal f s).edge = s.edge ∧
    (modCal f s).stk = s.stk ∧ (modCal f s).trn = s.trn ∧ (modCal f s).ports = s.ports ∧
    (modCal f s).epoch = s.epoch ∧ (modCal f s).rmt = s.rmt ∧ (modCal f s).sys = s.sys ∧ (modCal f s).ls = s.ls ∧
    (modCal f s).keep = s.keep ∧ (modCal f s).mnt = s.mnt ∧ (modCal f s).pwr = s.pwr ∧ (modCal f s).start = s.start ∧
    (modCal f s).led = s.led ∧ (modCal f s).weft = s.weft ∧ (modCal f s).cradle = s.cradle ∧
    (modCal f s).host = s.host := by
  and_intros <;> rfl

@[simp] theorem modWeft_own (f : Weft → Weft) (s : Mach) : (modWeft f s).weft = f s.weft := rfl

@[simp] theorem modWeft_frame (f : Weft → Weft) (s : Mach) :
    (modWeft f s).now = s.now ∧ (modWeft f s).free = s.free ∧ (modWeft f s).out = s.out ∧
    (modWeft f s).notes = s.notes ∧ (modWeft f s).ctl = s.ctl ∧ (modWeft f s).rnd = s.rnd ∧
    (modWeft f s).cores = s.cores ∧ (modWeft f s).dies = s.dies ∧ (modWeft f s).dpw = s.dpw ∧
    (modWeft f s).sec = s.sec ∧ (modWeft f s).fab = s.fab ∧ (modWeft f s).edge = s.edge ∧ (modWeft f s).stk = s.stk ∧
    (modWeft f s).trn = s.trn ∧ (modWeft f s).ports = s.ports ∧ (modWeft f s).epoch = s.epoch ∧
    (modWeft f s).rmt = s.rmt ∧ (modWeft f s).sys = s.sys ∧ (modWeft f s).ls = s.ls ∧ (modWeft f s).keep = s.keep ∧
    (modWeft f s).mnt = s.mnt ∧ (modWeft f s).pwr = s.pwr ∧ (modWeft f s).start = s.start ∧
    (modWeft f s).led = s.led ∧ (modWeft f s).cal = s.cal ∧ (modWeft f s).cradle = s.cradle ∧
    (modWeft f s).host = s.host := by
  and_intros <;> rfl

@[simp] theorem modCradle_own (f : Cradle → Cradle) (s : Mach) : (modCradle f s).cradle = f s.cradle := rfl

@[simp] theorem modCradle_frame (f : Cradle → Cradle) (s : Mach) :
    (modCradle f s).now = s.now ∧ (modCradle f s).free = s.free ∧ (modCradle f s).out = s.out ∧
    (modCradle f s).notes = s.notes ∧ (modCradle f s).ctl = s.ctl ∧ (modCradle f s).rnd = s.rnd ∧
    (modCradle f s).cores = s.cores ∧ (modCradle f s).dies = s.dies ∧ (modCradle f s).dpw = s.dpw ∧
    (modCradle f s).sec = s.sec ∧ (modCradle f s).fab = s.fab ∧ (modCradle f s).edge = s.edge ∧
    (modCradle f s).stk = s.stk ∧ (modCradle f s).trn = s.trn ∧ (modCradle f s).ports = s.ports ∧
    (modCradle f s).epoch = s.epoch ∧ (modCradle f s).rmt = s.rmt ∧ (modCradle f s).sys = s.sys ∧
    (modCradle f s).ls = s.ls ∧ (modCradle f s).keep = s.keep ∧ (modCradle f s).mnt = s.mnt ∧
    (modCradle f s).pwr = s.pwr ∧ (modCradle f s).start = s.start ∧ (modCradle f s).led = s.led ∧
    (modCradle f s).cal = s.cal ∧ (modCradle f s).weft = s.weft ∧ (modCradle f s).host = s.host := by
  and_intros <;> rfl

@[simp] theorem modHost_own (f : HostBlk → HostBlk) (s : Mach) : (modHost f s).host = f s.host := rfl

@[simp] theorem modHost_frame (f : HostBlk → HostBlk) (s : Mach) :
    (modHost f s).now = s.now ∧ (modHost f s).free = s.free ∧ (modHost f s).out = s.out ∧
    (modHost f s).notes = s.notes ∧ (modHost f s).ctl = s.ctl ∧ (modHost f s).rnd = s.rnd ∧
    (modHost f s).cores = s.cores ∧ (modHost f s).dies = s.dies ∧ (modHost f s).dpw = s.dpw ∧
    (modHost f s).sec = s.sec ∧ (modHost f s).fab = s.fab ∧ (modHost f s).edge = s.edge ∧ (modHost f s).stk = s.stk ∧
    (modHost f s).trn = s.trn ∧ (modHost f s).ports = s.ports ∧ (modHost f s).epoch = s.epoch ∧
    (modHost f s).rmt = s.rmt ∧ (modHost f s).sys = s.sys ∧ (modHost f s).ls = s.ls ∧ (modHost f s).keep = s.keep ∧
    (modHost f s).mnt = s.mnt ∧ (modHost f s).pwr = s.pwr ∧ (modHost f s).start = s.start ∧
    (modHost f s).led = s.led ∧ (modHost f s).cal = s.cal ∧ (modHost f s).weft = s.weft ∧
    (modHost f s).cradle = s.cradle := by
  and_intros <;> rfl

@[simp] theorem emit_own (e : OutEv) (s : Mach) : (emit e s).out = s.out ++ [e] := rfl

@[simp] theorem emit_frame (e : OutEv) (s : Mach) :
    (emit e s).now = s.now ∧ (emit e s).free = s.free ∧ (emit e s).notes = s.notes ∧ (emit e s).ctl = s.ctl ∧
    (emit e s).rnd = s.rnd ∧ (emit e s).cores = s.cores ∧ (emit e s).dies = s.dies ∧ (emit e s).dpw = s.dpw ∧
    (emit e s).sec = s.sec ∧ (emit e s).fab = s.fab ∧ (emit e s).edge = s.edge ∧ (emit e s).stk = s.stk ∧
    (emit e s).trn = s.trn ∧ (emit e s).ports = s.ports ∧ (emit e s).epoch = s.epoch ∧ (emit e s).rmt = s.rmt ∧
    (emit e s).sys = s.sys ∧ (emit e s).ls = s.ls ∧ (emit e s).keep = s.keep ∧ (emit e s).mnt = s.mnt ∧
    (emit e s).pwr = s.pwr ∧ (emit e s).start = s.start ∧ (emit e s).led = s.led ∧ (emit e s).cal = s.cal ∧
    (emit e s).weft = s.weft ∧ (emit e s).cradle = s.cradle ∧ (emit e s).host = s.host := by
  and_intros <;> rfl

@[simp] theorem noteRaise_own (a b : Nat) (s : Mach) : (noteRaise a b s).notes = { s.notes with raised := (a, b) :: s.notes.raised } := rfl

@[simp] theorem noteRaise_frame (a b : Nat) (s : Mach) :
    (noteRaise a b s).now = s.now ∧ (noteRaise a b s).free = s.free ∧ (noteRaise a b s).out = s.out ∧
    (noteRaise a b s).ctl = s.ctl ∧ (noteRaise a b s).rnd = s.rnd ∧ (noteRaise a b s).cores = s.cores ∧
    (noteRaise a b s).dies = s.dies ∧ (noteRaise a b s).dpw = s.dpw ∧ (noteRaise a b s).sec = s.sec ∧
    (noteRaise a b s).fab = s.fab ∧ (noteRaise a b s).edge = s.edge ∧ (noteRaise a b s).stk = s.stk ∧
    (noteRaise a b s).trn = s.trn ∧ (noteRaise a b s).ports = s.ports ∧ (noteRaise a b s).epoch = s.epoch ∧
    (noteRaise a b s).rmt = s.rmt ∧ (noteRaise a b s).sys = s.sys ∧ (noteRaise a b s).ls = s.ls ∧
    (noteRaise a b s).keep = s.keep ∧ (noteRaise a b s).mnt = s.mnt ∧ (noteRaise a b s).pwr = s.pwr ∧
    (noteRaise a b s).start = s.start ∧ (noteRaise a b s).led = s.led ∧ (noteRaise a b s).cal = s.cal ∧
    (noteRaise a b s).weft = s.weft ∧ (noteRaise a b s).cradle = s.cradle ∧ (noteRaise a b s).host = s.host := by
  and_intros <;> rfl

/-! ### The state with its module replaced -/

/-- What a new reference cycle does to a module: it forgets what reached it in the last one, and the rest is as it was. -/
@[simp] theorem fresh_own (s : Mach) : s.fresh.notes = Notes.reset := rfl

@[simp] theorem fresh_frame (s : Mach) :
    s.fresh.now = s.now ∧ s.fresh.free = s.free ∧ s.fresh.out = s.out ∧ s.fresh.ctl = s.ctl ∧ s.fresh.rnd = s.rnd ∧
    s.fresh.cores = s.cores ∧ s.fresh.dies = s.dies ∧ s.fresh.dpw = s.dpw ∧ s.fresh.sec = s.sec ∧
    s.fresh.fab = s.fab ∧ s.fresh.edge = s.edge ∧ s.fresh.stk = s.stk ∧ s.fresh.trn = s.trn ∧
    s.fresh.ports = s.ports ∧ s.fresh.epoch = s.epoch ∧ s.fresh.rmt = s.rmt ∧ s.fresh.sys = s.sys ∧
    s.fresh.ls = s.ls ∧ s.fresh.keep = s.keep ∧ s.fresh.mnt = s.mnt ∧ s.fresh.pwr = s.pwr ∧ s.fresh.start = s.start ∧
    s.fresh.led = s.led ∧ s.fresh.cal = s.cal ∧ s.fresh.weft = s.weft ∧ s.fresh.cradle = s.cradle ∧
    s.fresh.host = s.host := by
  and_intros <;> rfl

@[simp] theorem to_pending (s : State) (m : Mach) : (s.to m).pending = s.pending := by
  unfold State.to; split <;> rfl

/-- While no time passes, the cycle goes on. -/
theorem to_same (s : State) (m : Mach) (h : m.now = s.m.now) : s.to m = { s with m := m } := if_pos h

/-- Where time has passed, a new cycle begins. -/
theorem to_later (s : State) (m : Mach) (h : m.now ≠ s.m.now) : s.to m = { s with m := m.fresh, start := m.fresh } := if_neg h

@[simp] theorem accessed_pending (s : State) (m : Mach) : (s.accessed m).pending = s.pending := rfl
@[simp] theorem accessed_m (s : State) (m : Mach) : (s.accessed m).m = m.fresh := rfl
@[simp] theorem accessed_start (s : State) (m : Mach) : (s.accessed m).start = m.fresh := rfl

end Sys2Proof.Machine
end

