-- ==== Sys2Proof/Laws/Tables.lean ====
section
/-! SUPPORT. The laws of sparse tables and byte memories: what a read sees after a write, that a later write replaces an
earlier one, and that every write keeps the canonical form. -/

namespace Sys2Proof.Machine

section Any
variable {α : Type}

@[simp] theorem tget_nil (d : α) (k : Nat) : tget d [] k = d := rfl

theorem tget_cons (d : α) (k' k : Nat) (v : α) (t : Tbl α) :
    tget d ((k', v) :: t) k = if k' = k then v else tget d t k := rfl

theorem mem_tdel (t : Tbl α) (k : Nat) (e : Nat × α) : e ∈ tdel t k ↔ e ∈ t ∧ e.1 ≠ k := by
  induction t with
  | nil => simp [tdel]
  | cons x t ih =>
    obtain ⟨k', v'⟩ := x
    unfold tdel
    split
    · rename_i hk
      subst hk
      simp only [ih, List.mem_cons]
      constructor
      · exact fun h => ⟨Or.inr h.1, h.2⟩
      · rintro ⟨rfl | h, h2⟩
        · exact absurd rfl h2
        · exact ⟨h, h2⟩
    · rename_i hk
      simp only [ih, List.mem_cons]
      constructor
      · rintro (rfl | h)
        · exact ⟨Or.inl rfl, hk⟩
        · exact ⟨Or.inr h.1, h.2⟩
      · rintro ⟨h | h, h2⟩
        · exact Or.inl h
        · exact Or.inr ⟨h, h2⟩

theorem mem_tins (t : Tbl α) (k : Nat) (v : α) (e : Nat × α) : e ∈ tins t k v ↔ e = (k, v) ∨ e ∈ t := by
  induction t with
  | nil => simp [tins]
  | cons x t ih =>
    obtain ⟨k', v'⟩ := x
    unfold tins
    split
    · simp
    · simp only [List.mem_cons, ih]
      tauto

/-- A key that is not listed reads the default. -/
theorem tget_absent (d : α) (t : Tbl α) (k : Nat) (h : ∀ e ∈ t, e.1 ≠ k) : tget d t k = d := by
  induction t with
  | nil => rfl
  | cons x t ih =>
    obtain ⟨k', v'⟩ := x
    rw [tget_cons, if_neg (h (k', v') (by simp)), ih (fun e he => h e (by simp [he]))]

/-- A deleted key reads the default. -/
@[simp] theorem tget_tdel_same (d : α) (t : Tbl α) (k : Nat) : tget d (tdel t k) k = d :=
  tget_absent d _ k (fun e he => ((mem_tdel t k e).1 he).2)

/-- A deletion leaves every other key alone. -/
theorem tget_tdel_other (d : α) (t : Tbl α) {k j : Nat} (h : j ≠ k) : tget d (tdel t k) j = tget d t j := by
  induction t with
  | nil => rfl
  | cons e t ih =>
    obtain ⟨k', v'⟩ := e
    unfold tdel
    split
    · rename_i hk
      subst hk
      rw [ih, tget_cons, if_neg (Ne.symm h)]
    · simp [tget, ih]

theorem tget_tins_same (d : α) (t : Tbl α) (k : Nat) (v : α) (h : ∀ e ∈ t, e.1 ≠ k) : tget d (tins t k v) k = v := by
  induction t with
  | nil => simp [tins, tget]
  | cons e t ih =>
    obtain ⟨k', v'⟩ := e
    unfold tins
    split
    · simp [tget]
    · rw [tget_cons, if_neg (h (k', v') (by simp)), ih (fun e he => h e (by simp [he]))]

theorem tget_tins_other (d : α) (t : Tbl α) {k j : Nat} (v : α) (h : j ≠ k) : tget d (tins t k v) j = tget d t j := by
  induction t with
  | nil => simp [tins, tget, Ne.symm h]
  | cons e t ih =>
    obtain ⟨k', v'⟩ := e
    unfold tins
    split
    · simp [tget, Ne.symm h]
    · simp [tget, ih]

/-- A put value is read back. -/
@[simp] theorem tget_tput_same (d : α) (t : Tbl α) (k : Nat) (v : α) : tget d (tput t k v) k = v :=
  tget_tins_same d _ k v (fun e he => ((mem_tdel t k e).1 he).2)

/-- A put leaves every other key alone. -/
theorem tget_tput_other (d : α) (t : Tbl α) {k j : Nat} (v : α) (h : j ≠ k) : tget d (tput t k v) j = tget d t j := by
  rw [tput, tget_tins_other d _ v h, tget_tdel_other d t h]

theorem tdel_absent (t : Tbl α) (k : Nat) (h : ∀ e ∈ t, e.1 ≠ k) : tdel t k = t := by
  induction t with
  | nil => rfl
  | cons x t ih =>
    obtain ⟨k', v'⟩ := x
    rw [tdel, if_neg (h (k', v') (by simp)), ih (fun e he => h e (by simp [he]))]

theorem tdel_tins (t : Tbl α) (k : Nat) (v : α) (h : ∀ e ∈ t, e.1 ≠ k) : tdel (tins t k v) k = t := by
  induction t with
  | nil => simp [tins, tdel]
  | cons x t ih =>
    obtain ⟨k', v'⟩ := x
    have hk : k' ≠ k := h (k', v') (by simp)
    have ht : ∀ e ∈ t, e.1 ≠ k := fun e he => h e (by simp [he])
    unfold tins
    split
    · rw [tdel, if_pos rfl]
      exact tdel_absent _ k h
    · rw [tdel, if_neg hk, ih ht]

@[simp] theorem tdel_tdel (t : Tbl α) (k : Nat) : tdel (tdel t k) k = tdel t k :=
  tdel_absent _ k (fun e he => ((mem_tdel t k e).1 he).2)

@[simp] theorem tdel_tput (t : Tbl α) (k : Nat) (v : α) : tdel (tput t k v) k = tdel t k :=
  tdel_tins _ k v (fun e he => ((mem_tdel t k e).1 he).2)

end Any

section Wf
variable {α : Type} [DecidableEq α]

/-- A written value is read back. -/
@[simp] theorem tget_tset_same (d : α) (t : Tbl α) (k : Nat) (v : α) : tget d (tset d t k v) k = v := by
  unfold tset
  split
  · rename_i hv
    rw [hv, tget_tdel_same]
  · simp

/-- A write leaves every other key alone. -/
theorem tget_tset_other (d : α) (t : Tbl α) {k j : Nat} (v : α) (h : j ≠ k) : tget d (tset d t k v) j = tget d t j := by
  unfold tset
  split
  · exact tget_tdel_other d t h
  · exact tget_tput_other d t v h

/-- A later write of a key replaces an earlier one. -/
@[simp] theorem tset_tset (d : α) (t : Tbl α) (k : Nat) (v w : α) : tset d (tset d t k v) k w = tset d t k w := by
  have h : ∀ x, tdel (tset d t k x) k = tdel t k := fun x => by
    unfold tset
    split <;> simp
  by_cases hw : w = d
  · rw [tset, if_pos hw, h, tset, if_pos hw]
  · rw [tset, if_neg hw, tput, h, tset, if_neg hw, tput]

@[simp] theorem tget_tmod_same (d : α) (t : Tbl α) (k : Nat) (f : α → α) :
    tget d (tmod d t k f) k = f (tget d t k) := tget_tset_same d t k _

theorem tget_tmod_other (d : α) (t : Tbl α) {k j : Nat} (f : α → α) (h : j ≠ k) :
    tget d (tmod d t k f) j = tget d t j := tget_tset_other d t _ h

@[simp] theorem tmod_tmod (d : α) (t : Tbl α) (k : Nat) (f g : α → α) :
    tmod d (tmod d t k f) k g = tmod d t k (fun x => g (f x)) := by
  simp [tmod]

theorem twf_cons (d : α) (k : Nat) (v : α) (t : Tbl α) :
    twf d ((k, v) :: t) = true ↔ v ≠ d ∧ (∀ e ∈ t, k < e.1) ∧ twf d t = true := by
  simp [twf, and_assoc]

/-- A deletion keeps the canonical form. -/
theorem twf_tdel (d : α) (t : Tbl α) (k : Nat) (h : twf d t = true) : twf d (tdel t k) = true := by
  induction t with
  | nil => exact h
  | cons e t ih =>
    obtain ⟨k', v'⟩ := e
    obtain ⟨hv, hlt, ht⟩ := (twf_cons d k' v' t).1 h
    unfold tdel
    split
    · exact ih ht
    · exact (twf_cons d k' v' _).2 ⟨hv, fun e he => hlt e ((mem_tdel t k e).1 he).1, ih ht⟩

theorem twf_tins (d : α) (t : Tbl α) (k : Nat) (v : α) (hv : v ≠ d) (hk : ∀ e ∈ t, e.1 ≠ k) (h : twf d t = true) :
    twf d (tins t k v) = true := by
  induction t with
  | nil => simp [tins, twf, hv]
  | cons e t ih =>
    obtain ⟨k', v'⟩ := e
    obtain ⟨hv', hlt, ht⟩ := (twf_cons d k' v' t).1 h
    have hne : k' ≠ k := hk (k', v') (by simp)
    unfold tins
    split
    · rename_i hlt'
      refine (twf_cons d k v _).2 ⟨hv, fun e he => ?_, h⟩
      rcases List.mem_cons.1 he with rfl | he
      · exact hlt'
      · exact lt_trans hlt' (hlt e he)
    · refine (twf_cons d k' v' _).2 ⟨hv', fun e he => ?_, ih (fun e he => hk e (by simp [he])) ht⟩
      rcases (mem_tins t k v e).1 he with rfl | he
      · show k' < k
        omega
      · exact hlt e he

/-- Putting a value other than the default keeps the canonical form. -/
theorem twf_tput (d : α) (t : Tbl α) (k : Nat) (v : α) (hv : v ≠ d) (h : twf d t = true) :
    twf d (tput t k v) = true :=
  twf_tins d _ k v hv (fun e he => ((mem_tdel t k e).1 he).2) (twf_tdel d t k h)

/-- A write keeps the canonical form. -/
theorem twf_tset (d : α) (t : Tbl α) (k : Nat) (v : α) (h : twf d t = true) : twf d (tset d t k v) = true := by
  unfold tset
  split
  · exact twf_tdel d t k h
  · rename_i hv
    exact twf_tput d t k v hv h

theorem twf_tmod (d : α) (t : Tbl α) (k : Nat) (f : α → α) (h : twf d t = true) : twf d (tmod d t k f) = true :=
  twf_tset d t k _ h

end Wf

/-! ### Byte memories -/

theorem wf_wr (m : Mem) (a : Nat) (b : Byte) (h : Memory.wf m = true) : Memory.wf (wr m a b) = true :=
  twf_tset 0 m a b h

theorem wf_wrBytes (bs : List Byte) : ∀ (m : Mem) (a : Nat), Memory.wf m = true → Memory.wf (wrBytes m a bs) = true := by
  induction bs with
  | nil => exact fun m a h => h
  | cons b t ih => exact fun m a h => ih (wr m a b) (a + 1) (wf_wr m a b h)

@[simp] theorem rd_wr_same (m : Mem) (a : Nat) (b : Byte) : rd (wr m a b) a = b := tget_tset_same 0 m a b

theorem rd_wr_other (m : Mem) {a x : Nat} (b : Byte) (h : x ≠ a) : rd (wr m a b) x = rd m x :=
  tget_tset_other 0 m b h

/-- Bytes outside the written range read as before. -/
theorem rd_wrBytes_outside (bs : List Byte) :
    ∀ (m : Mem) (a x : Nat), (x < a ∨ a + bs.length ≤ x) → rd (wrBytes m a bs) x = rd m x := by
  induction bs with
  | nil => exact fun m a x _ => rfl
  | cons b t ih =>
    intro m a x h
    simp only [List.length_cons] at h
    rw [wrBytes, ih (wr m a b) (a + 1) x (by omega), rd_wr_other m b (by omega)]

/-- The written bytes are read back. -/
theorem rd_wrBytes_inside (bs : List Byte) :
    ∀ (m : Mem) (a i : Nat) (hi : i < bs.length), rd (wrBytes m a bs) (a + i) = bs[i] := by
  induction bs with
  | nil => intro m a i hi; simp at hi
  | cons b t ih =>
    intro m a i hi
    rw [wrBytes]
    cases i with
    | zero =>
      rw [rd_wrBytes_outside t _ _ _ (by omega)]
      simp
    | succ j =>
      rw [show a + (j + 1) = a + 1 + j by omega, ih (wr m a b) (a + 1) j (by simpa using hi)]
      simp

/-- The bytes that a read of n bytes finds after the write of those n bytes at the same place. -/
theorem rdBytes_wrBytes (bs : List Byte) (m : Mem) (a : Nat) : rdBytes (wrBytes m a bs) a bs.length = bs := by
  have key : ∀ (n : Nat) (m : Mem) (a : Nat), rdBytes m a n = (List.range n).map (fun i => rd m (a + i)) := by
    intro n
    induction n with
    | zero => intro m a; rfl
    | succ n ih =>
      intro m a
      rw [rdBytes, ih, List.range_succ_eq_map]
      simp [Function.comp_def, Nat.add_comm, Nat.add_left_comm]
  rw [key]
  apply List.ext_getElem
  · simp
  · intro i h1 h2
    simp only [List.getElem_map, List.getElem_range]
    exact rd_wrBytes_inside bs m a i h2

end Sys2Proof.Machine
end

