-- ==== Sys2Proof/Laws/Parts.lean ====
section
/-! SUPPORT. Reading a core, a die, a stack, a ring, a port or an update unit after one of them was changed, and two
changes of the same one. -/

namespace Sys2Proof.Machine

@[simp] theorem coreAt_modCore (k : Nat) (f : Core → Core) (s : Mach) : coreAt (modCore k f s) k = f (coreAt s k) :=
  tget_tmod_same _ _ _ _

theorem coreAt_modCore_other {k j : Nat} (f : Core → Core) (s : Mach) (h : j ≠ k) : coreAt (modCore k f s) j = coreAt s j :=
  tget_tmod_other _ _ _ h

@[simp] theorem modCore_modCore (k : Nat) (f g : Core → Core) (s : Mach) :
    modCore k g (modCore k f s) = modCore k (fun x => g (f x)) s := by
  simp [modCore]

@[simp] theorem dieAt_modDie (d : Nat) (f : Die → Die) (s : Mach) : dieAt (modDie d f s) d = f (dieAt s d) :=
  tget_tmod_same _ _ _ _

theorem dieAt_modDie_other {d j : Nat} (f : Die → Die) (s : Mach) (h : j ≠ d) : dieAt (modDie d f s) j = dieAt s j :=
  tget_tmod_other _ _ _ h

@[simp] theorem modDie_modDie (d : Nat) (f g : Die → Die) (s : Mach) :
    modDie d g (modDie d f s) = modDie d (fun x => g (f x)) s := by
  simp [modDie]

@[simp] theorem stkAt_modStk (i : Nat) (f : Stack → Stack) (s : Mach) : stkAt (modStk i f s) i = f (stkAt s i) :=
  tget_tmod_same _ _ _ _

theorem stkAt_modStk_other {i j : Nat} (f : Stack → Stack) (s : Mach) (h : j ≠ i) : stkAt (modStk i f s) j = stkAt s j :=
  tget_tmod_other _ _ _ h

@[simp] theorem modStk_modStk (i : Nat) (f g : Stack → Stack) (s : Mach) :
    modStk i g (modStk i f s) = modStk i (fun x => g (f x)) s := by
  simp [modStk]

@[simp] theorem ringAt_modRing (q : Nat) (f : Ring → Ring) (s : Mach) : ringAt (modRing q f s) q = f (ringAt s q) :=
  tget_tmod_same _ _ _ _

theorem ringAt_modRing_other {q j : Nat} (f : Ring → Ring) (s : Mach) (h : j ≠ q) : ringAt (modRing q f s) j = ringAt s j :=
  tget_tmod_other _ _ _ h

@[simp] theorem modRing_modRing (q : Nat) (f g : Ring → Ring) (s : Mach) :
    modRing q g (modRing q f s) = modRing q (fun x => g (f x)) s := by
  simp [modRing]

@[simp] theorem dpwAt_modDpw (d : Nat) (f : DiePower → DiePower) (s : Mach) : dpwAt (modDpw d f s) d = f (dpwAt s d) :=
  tget_tmod_same _ _ _ _

theorem dpwAt_modDpw_other {d j : Nat} (f : DiePower → DiePower) (s : Mach) (h : j ≠ d) : dpwAt (modDpw d f s) j = dpwAt s j :=
  tget_tmod_other _ _ _ h

@[simp] theorem modDpw_modDpw (d : Nat) (f g : DiePower → DiePower) (s : Mach) :
    modDpw d g (modDpw d f s) = modDpw d (fun x => g (f x)) s := by
  simp [modDpw]

@[simp] theorem portAt_modPort (p : Nat) (f : Port → Port) (s : Mach) : portAt (modPort p f s) p = f (portAt s p) :=
  tget_tmod_same _ _ _ _

theorem portAt_modPort_other {p j : Nat} (f : Port → Port) (s : Mach) (h : j ≠ p) : portAt (modPort p f s) j = portAt s j :=
  tget_tmod_other _ _ _ h

@[simp] theorem modPort_modPort (p : Nat) (f g : Port → Port) (s : Mach) :
    modPort p g (modPort p f s) = modPort p (fun x => g (f x)) s := by
  simp [modPort]

@[simp] theorem unitAt_modUnit (u : Nat) (f : Unit_ → Unit_) (s : Mach) : unitAt (modUnit u f s) u = f (unitAt s u) :=
  tget_tmod_same _ _ _ _

theorem unitAt_modUnit_other {u j : Nat} (f : Unit_ → Unit_) (s : Mach) (h : j ≠ u) : unitAt (modUnit u f s) j = unitAt s j :=
  tget_tmod_other _ _ _ h

@[simp] theorem modUnit_modUnit (u : Nat) (f g : Unit_ → Unit_) (s : Mach) :
    modUnit u g (modUnit u f s) = modUnit u (fun x => g (f x)) s := by
  simp [modUnit]

/-! Two changes that agree on the part as it is are the same change. -/

theorem modCore_congr {k : Nat} {f g : Core → Core} {s : Mach} (h : f (coreAt s k) = g (coreAt s k)) :
    modCore k f s = modCore k g s := by
  have h' : tmod _ _ k f = tmod _ _ k g := congrArg (tset _ _ k) h
  simp only [modCore, h']

theorem modDie_congr {d : Nat} {f g : Die → Die} {s : Mach} (h : f (dieAt s d) = g (dieAt s d)) :
    modDie d f s = modDie d g s := by
  have h' : tmod _ _ d f = tmod _ _ d g := congrArg (tset _ _ d) h
  simp only [modDie, h']

theorem modStk_congr {i : Nat} {f g : Stack → Stack} {s : Mach} (h : f (stkAt s i) = g (stkAt s i)) :
    modStk i f s = modStk i g s := by
  have h' : tmod _ _ i f = tmod _ _ i g := congrArg (tset _ _ i) h
  simp only [modStk, h']

theorem modRing_congr {q : Nat} {f g : Ring → Ring} {s : Mach} (h : f (ringAt s q) = g (ringAt s q)) :
    modRing q f s = modRing q g s := by
  have h' : tmod _ _ q f = tmod _ _ q g := congrArg (tset _ _ q) h
  simp only [modRing, h']

theorem modDpw_congr {d : Nat} {f g : DiePower → DiePower} {s : Mach} (h : f (dpwAt s d) = g (dpwAt s d)) :
    modDpw d f s = modDpw d g s := by
  have h' : tmod _ _ d f = tmod _ _ d g := congrArg (tset _ _ d) h
  simp only [modDpw, h']

theorem modPort_congr {p : Nat} {f g : Port → Port} {s : Mach} (h : f (portAt s p) = g (portAt s p)) :
    modPort p f s = modPort p g s := by
  have h' : tmod _ _ p f = tmod _ _ p g := congrArg (tset _ _ p) h
  simp only [modPort, h']

theorem modUnit_congr {u : Nat} {f g : Unit_ → Unit_} {s : Mach} (h : f (unitAt s u) = g (unitAt s u)) :
    modUnit u f s = modUnit u g s := by
  have h' : tmod _ _ u f = tmod _ _ u g := congrArg (tset _ _ u) h
  simp only [modUnit, h']

end Sys2Proof.Machine
end

