-- ==== Sys2Proof/Laws/Scalar.lean ====
section
/-! SUPPORT. What the shared operations of the scalar processor can do: fetching, going to an address, reading and
writing the narrow bank. -/

namespace Sys2Proof.Machine

/-- A word without a syndrome reads its data and reports nothing (R383). -/
theorem decodeWord_clean (arr data : Nat) : decodeWord arr data 0 = (data, none) := by
  simp [decodeWord]

theorem readWord_clean (c : Core) (arr a : Nat) (h : tget 0 c.synd (if arr = 2 then imemKey (a / 4) else a) = 0) :
    (readWord c arr a).2 = [] := by
  simp only [readWord, h]
  rfl

/-- A word that encodes the instruction, and that holds no error, has the instruction's effect. -/
theorem instr_clean (k : Nat) (is : Word → Bool) (f : Core → Word → Mach → Mach) (s : Mach)
    (hm : (coreAt s k).p.mode = .running) (hs : tget 0 (coreAt s k).synd (imemKey ((coreAt s k).p.pc.toNat / 4)) = 0)
    (hi : is (BitVec.ofNat 32 (fetch (coreAt s k)).1) = true) :
    instr k is f s = f (coreAt s k) (coreAt s k).p.pc s := by
  have h : (fetch (coreAt s k)).2 = [] := readWord_clean _ _ _ (by simpa using hs)
  simp [instr, hm, h, hi, anyUe, logErrs]

/-- A word without error that does not encode the instruction is not executed as one. -/
theorem instr_other (k : Nat) (is : Word → Bool) (f : Core → Word → Mach → Mach) (s : Mach)
    (hs : tget 0 (coreAt s k).synd (imemKey ((coreAt s k).p.pc.toNat / 4)) = 0)
    (hi : is (BitVec.ofNat 32 (fetch (coreAt s k)).1) = false) : instr k is f s = s := by
  have h : (fetch (coreAt s k)).2 = [] := readWord_clean _ _ _ (by simpa using hs)
  simp [instr, h, hi, anyUe]

/-- A processor that does not run executes nothing. -/
theorem instr_stopped (k : Nat) (is : Word → Bool) (f : Core → Word → Mach → Mach) (s : Mach)
    (hm : (coreAt s k).p.mode ≠ .running) : instr k is f s = s := by
  simp [instr, hm]

/-- The next instruction lies in the instruction memory. -/
theorem goto_inside (k : Nat) (pc : Word) (t : Int) (s : Mach) (h : 0 ≤ t ∧ t < 0x4000) :
    goto k pc t s = modCore k (fun c => { c with p := { c.p with pc := BitVec.ofInt 32 t } }) s := by
  simp [goto, h]

/-- An address outside it raises the fetch exception. -/
theorem goto_outside (k : Nat) (pc : Word) (t : Int) (s : Mach) (h : ¬ (0 ≤ t ∧ t < 0x4000)) :
    goto k pc t s = classS k 0x04 (BitVec.ofInt 32 t).toNat pc.toNat s := by
  simp only [goto, if_neg h]

theorem ofInt_nextPc (pc : Word) : BitVec.ofInt 32 (nextPc pc) = pc + 4 := by
  have h : nextPc pc = ((pc.toNat + 4 : Nat) : Int) := by
    unfold nextPc
    omega
  rw [h]
  apply BitVec.eq_of_toNat_eq
  simp
  omega

/-- Going on to the next instruction. -/
theorem goto_next (k : Nat) (pc : Word) (s : Mach) (h : pc.toNat + 4 < 0x4000) :
    goto k pc (nextPc pc) s = modCore k (fun c => { c with p := { c.p with pc := pc + 4 } }) s := by
  rw [goto_inside k pc (nextPc pc) s (by unfold nextPc; omega), ofInt_nextPc]

/-- The checks of a scalar access that passes them (R126). -/
theorem access_ok (k n addr : Nat) (pc : Word) (go : Mach → Mach) (s : Mach) (h1 : addr % n = 0) (h2 : addr < 0x10000) :
    access k n addr pc go s = go s := by
  simp [access, h1, Nat.not_le.2 h2]

/-- Narrow bytes without syndromes read as their number and report nothing (R92, R383). -/
theorem readNarrow_clean (c : Core) (n : Nat) : ∀ (a : Nat), (∀ i, i < n → tget 0 c.synd (a + i) = 0) →
    readNarrow c a n = (rdNum c.sp a n, []) := by
  induction n with
  | zero => intro a _; rfl
  | succ n ih =>
    intro a h
    have h0 := h 0 (by omega)
    have hn := ih (a + 1) (fun i hi => by
      have := h (i + 1) (by omega)
      rwa [show a + (i + 1) = a + 1 + i by omega] at this)
    have hb : rdNum c.sp a 1 = (rd c.sp a).toNat := by simp [rdNum, rdBytes, ofBytes]
    have hs : rdNum c.sp a (n + 1) = (rd c.sp a).toNat + 256 * rdNum c.sp (a + 1) n := by
      simp [rdNum, rdBytes, ofBytes]
    rw [readNarrow, hn, hs]
    simp only [Nat.add_zero] at h0
    have hw : readWord c 0 a = (rdNum c.sp a 1, []) := by
      simp only [readWord, if_neg (show ¬ (0 = 2) by decide), h0]
      rfl
    rw [hw, hb]
    rfl

/-- Writing G0 changes nothing (R125). -/
@[simp] theorem setG_zero (v : Word) (c : Core) : setG 0 v c = c := rfl

/-- G0 reads zero (R125). -/
@[simp] theorem greg_zero (c : Core) : greg c 0 = 0 := rfl

/-- A written register reads back; every other one keeps its value. -/
theorem greg_setG (c : Core) (d a : Nat) (v : Word) :
    greg (setG d v c) a = if a = d ∧ d ≠ 0 then v else greg c a := by
  by_cases hd : d = 0
  · subst hd
    simp
  · by_cases ha : a = d
    · subst ha
      simp [greg, setG, hd]
    · simp [greg, setG, hd, ha, tget_tset_other _ _ _ ha]

/-- A write of scratchpad bytes changes no register. -/
@[simp] theorem writeSp_p (a : Nat) (bs : List Byte) (c : Core) : (writeSp a bs c).p = c.p := rfl

@[simp] theorem writeSp_sp (a : Nat) (bs : List Byte) (c : Core) : (writeSp a bs c).sp = wrBytes c.sp a bs := rfl

end Sys2Proof.Machine
end

