-- ==== Sys2Proof/Laws/Shared.lean ====
section
/-! SUPPORT. What the operations that all families share can do: sending an interrupt, queueing an event, an uncorrected
fault, reaching a register, starting and ending a host command; and that the memories after reset have the canonical form. -/

namespace Sys2Proof.Machine

/-! ### The memories after reset -/

theorem reset_memories : Memory.wf Mach.reset.edge.mem = true ∧ Memory.wf Mach.reset.host.qmem = true ∧
    Memory.wf Mach.reset.keep.staging = true ∧ Memory.wf Core.reset.sp = true ∧ Memory.wf Core.reset.imem = true :=
  ⟨rfl, rfl, rfl, rfl, rfl⟩

/-- A write to a scratchpad keeps its canonical form. -/
theorem writeSp_wf (a : Nat) (bs : List Byte) (c : Core) (h : Memory.wf c.sp = true) : Memory.wf (writeSp a bs c).sp = true :=
  wf_wrBytes bs c.sp a h

/-! ### Interrupts (R577, R578) -/

/-- A cause that is already raised is noted for the cycle, and does nothing more. -/
theorem raiseIrq_raised (c : Nat) (s : Mach) (h : bit s.host.irqCause c = true) : raiseIrq c s = noteRaise 0x10010 c s := by
  simp [raiseIrq, noteRaise, h]

/-- A masked cause is recorded and sends no vector. -/
theorem raiseIrq_masked (c : Nat) (s : Mach) (h : bit s.host.irqCause c = false) (hm : bit s.host.irqMask c = true) :
    raiseIrq c s = modHost (fun x => { x with irqCause := setBit x.irqCause c }) (noteRaise 0x10010 c s) := by
  simp [raiseIrq, noteRaise, h, modHost, hm]

/-- A cause that rises unmasked sends the vector that the map gives it. -/
theorem raiseIrq_sent (c : Nat) (s : Mach) (h : bit s.host.irqCause c = false) (hm : bit s.host.irqMask c = false) :
    raiseIrq c s = sendVector (tget 0 s.host.irqMap c)
      (modHost (fun x => { x with irqCause := setBit x.irqCause c }) (noteRaise 0x10010 c s)) := by
  simp [raiseIrq, noteRaise, h, modHost, hm]

/-- A vector is held pending or leaves the module: nothing but the host block and what leaves changes. -/
theorem sendVector_cases (v : BitVec 6) (s : Mach) :
    sendVector v s = modHost (fun h => { h with msixPend := setBit h.msixPend v.toNat }) s ∨ sendVector v s = emit (.vector v) s := by
  unfold sendVector
  split
  · exact .inl rfl
  · exact .inr rfl

/-- Whatever an interrupt does, it changes only the notes of the cycle, the host block and what leaves the module. -/
theorem raiseIrq_only (c : Nat) (s : Mach) : ∃ n h o, raiseIrq c s = { s with notes := n, host := h, out := o } := by
  cases h : bit s.host.irqCause c with
  | true => exact ⟨_, s.host, s.out, raiseIrq_raised c s h⟩
  | false =>
    cases hm : bit s.host.irqMask c with
    | true => exact ⟨_, _, s.out, raiseIrq_masked c s h hm⟩
    | false =>
      rw [raiseIrq_sent c s h hm]
      obtain e | e := sendVector_cases (tget 0 s.host.irqMap c)
        (modHost (fun x => { x with irqCause := setBit x.irqCause c }) (noteRaise 0x10010 c s))
      · exact ⟨_, _, s.out, e⟩
      · exact ⟨_, _, _, e⟩

/-! ### The event queue (R541 to R543) -/

/-- An event joins the queue of its kind while there is room, waits if its class is protected, and is counted if not. -/
theorem queueEvent_cases (e : Event) (l : Ledger) :
    (isProtected e.cls.toNat = true ∧ l.protQ.length < 64 ∧ queueEvent e l = { l with protQ := l.protQ ++ [e] }) ∨
    (isProtected e.cls.toNat = true ∧ ¬ l.protQ.length < 64 ∧ queueEvent e l = { l with waitQ := l.waitQ ++ [e] }) ∨
    (isProtected e.cls.toNat = false ∧ l.ordQ.length < 4032 ∧ queueEvent e l = { l with ordQ := l.ordQ ++ [e] }) ∨
    (isProtected e.cls.toNat = false ∧ ¬ l.ordQ.length < 4032 ∧ queueEvent e l = suppress e.cls e.round 1 l) := by
  cases h : isProtected e.cls.toNat
  · by_cases g : l.ordQ.length < 4032
    · simp [queueEvent, h, g]
    · simp [queueEvent, h, g]
  · by_cases g : l.protQ.length < 64
    · simp [queueEvent, h, g]
    · simp [queueEvent, h, g]

/-! ### The uncorrected fault (R449) -/

/-- After an uncorrected fault the module has a fault recorded and holds from its next round start. -/
theorem uncorrected_keep (cls : Nat) (s : Mach) :
    (uncorrected cls s).keep.rsValid = true ∧ (uncorrected cls s).keep.faulted = true ∧ (uncorrected cls s).keep.holdNext = true := by
  unfold uncorrected
  generalize hm : noteRaise _ _ (modKeep _ s) = m
  obtain ⟨n, h, o, e⟩ := raiseIrq_only 8 m
  rw [e, ← hm]
  by_cases g : s.keep.rsValid = true <;> simp [modKeep, noteRaise, g]

/-! ### Reaching a register (R25, R504) -/

/-- An access that no one serves changes nothing. -/
theorem hostAccess_discarded (a : Nat) (f : Mach → Mach) (s : Mach) (h : noLink s = true ∨ notServed s a = true ∨ covered s a = true) :
    hostAccess a f s = s := by
  rcases h with h | h | h <;> simp [hostAccess, h]

/-- An access outside the steward windows reaches its register. -/
theorem hostAccess_module (a : Nat) (f : Mach → Mach) (s : Mach) (h1 : noLink s = false) (h2 : notServed s a = false)
    (h3 : covered s a = false) (h4 : ∀ d o, placeOf a ≠ .die d o) : hostAccess a f s = f s := by
  cases hp : placeOf a with
  | die d o => exact absurd hp (h4 d o)
  | _ => simp [hostAccess, h1, h2, h3, hp]

/-- An access to a steward window reaches its register where the steward answers, and is a weft timeout where not. -/
theorem hostAccess_die (a d o : Nat) (f : Mach → Mach) (s : Mach) (h1 : noLink s = false) (h2 : notServed s a = false)
    (h3 : covered s a = false) (h4 : placeOf a = .die d o) :
    hostAccess a f s = if answersAt s d o then f s else weftTimeout d s := by
  simp [hostAccess, h1, h2, h3, h4]

/-! ### Host commands (R566, R567) -/

/-- The state in which a command that passed its checks has its effect: its ring shows it as started. -/
def startedOn (q : Nat) (c : RunCmd) (s : Mach) : Mach :=
  modRing q (fun r => { r with cmds := r.cmds.map (fun x => if x.tok == c.tok then { x with started := true } else x) }) s

/-- Everything that a command which starts can do before its own effect. -/
theorem startCmd_cases (q : Nat) (d : Desc) (mine : Bool) (named : List (Nat × Nat)) (go : Owed → Mach → Mach) (s : Mach) :
    ((cmdFind s q d = none ∨ mine = false) ∧ startCmd q d mine named go s = s) ∨
    ∃ c, cmdFind s q d = some c ∧ mine = true ∧
      (((headerOk d && bodyOk d named) = false ∧
          startCmd q d mine named go s = complete ⟨q, c.tok⟩ 0x02 0 (startedOn q c s)) ∨
       ((headerOk d && bodyOk d named) = true ∧ s.start.state ≠ 7 ∧
          startCmd q d mine named go s = complete ⟨q, c.tok⟩ 0x03 0 (startedOn q c s)) ∨
       ((headerOk d && bodyOk d named) = true ∧ s.start.state = 7 ∧
          startCmd q d mine named go s = go ⟨q, c.tok⟩ (startedOn q c s))) := by
  cases hc : cmdFind s q d with
  | none => exact .inl ⟨.inl rfl, by simp [startCmd, hc]⟩
  | some c =>
    cases mine with
    | false => exact .inl ⟨.inr rfl, by simp [startCmd, hc]⟩
    | true =>
      refine .inr ⟨c, rfl, rfl, ?_⟩
      cases hh : (headerOk d && bodyOk d named) with
      | false => exact .inl ⟨rfl, by simp [startCmd, hc, hh, startedOn]⟩
      | true =>
        by_cases h7 : s.start.state = 7
        · exact .inr (.inr ⟨rfl, h7, by simp [startCmd, hc, hh, h7, startedOn]⟩)
        · exact .inr (.inl ⟨rfl, h7, by
            simp only [startCmd, hc, hh, startedOn]
            exact if_pos h7⟩)

/-- Ending a command changes nothing but its ring. -/
theorem complete_only (o : Owed) (st det : Nat) (s : Mach) : ∃ h, complete o st det s = { s with host := h } :=
  ⟨_, rfl⟩

/-- A command that has ended is no longer among those that run. -/
theorem complete_ends (o : Owed) (st det : Nat) (s : Mach) :
    ∀ c ∈ (ringAt (complete o st det s) o.ring).cmds, c.tok ≠ o.tok := by
  intro c hc
  simp only [complete, ringAt_modRing] at hc
  split at hc
  · rename_i h
    simpa using List.find?_eq_none.1 h c hc
  · simp only [List.mem_filter, bne_iff_ne, ne_eq] at hc
    exact hc.2

end Sys2Proof.Machine
end

