-- ==== Sys2Proof/Laws/Wheel.lean ====
section
/-! SUPPORT. What the wheel's shared operations can do: which of the waiting accesses a slot takes, when no time passes, and the known-answer test of R424. -/

namespace Sys2Proof.Machine

/-! ### The accesses that a slot takes (R99) -/

/-- A slot takes the first rows that wait, at most n, in banks of their own that no earlier user has taken. -/
theorem takeRows_spec (l : List Nat) : ∀ (used : List Nat) (n : Nat),
    takeRows used n l <+: l ∧ (takeRows used n l).length ≤ n ∧ ((takeRows used n l).map (· % 16)).Nodup ∧
      ∀ r ∈ takeRows used n l, r % 16 ∉ used := by
  induction l with
  | nil => intro used n; cases n <;> simp [takeRows]
  | cons a t ih =>
    intro used n
    cases n with
    | zero => simp [takeRows]
    | succ n =>
      by_cases h : a % 16 ∈ used
      · simp [takeRows, h]
      · obtain ⟨h1, h2, h3, h4⟩ := ih (a % 16 :: used) n
        rw [show takeRows used (n + 1) (a :: t) = a :: takeRows (a % 16 :: used) n t from if_neg (by simpa using h)]
        refine ⟨by simpa using h1, by simpa using h2, ?_, ?_⟩
        · rw [List.map_cons, List.nodup_cons]
          refine ⟨fun hm => ?_, h3⟩
          obtain ⟨x, hx, e⟩ := List.mem_map.1 hm
          exact h4 x hx (by simp [e])
        · intro r hr
          obtain rfl | hr := List.mem_cons.1 hr
          · exact h
          · exact fun e => h4 r hr (List.mem_cons_of_mem _ e)

/-- The W slot of a turn takes the first rows that wait and are of that turn, at most n, in banks of their own (R99, R606). -/
theorem takeWaiting_spec (turn : Nat) (l : List WRow) : ∀ (used : List Nat) (n : Nat),
    takeWaiting turn used n l <+: l ∧ (takeWaiting turn used n l).length ≤ n ∧
      ((takeWaiting turn used n l).map (fun w => rowIndex w.piece.addr % 16)).Nodup ∧
      ∀ w ∈ takeWaiting turn used n l, w.turn ≤ turn ∧ rowIndex w.piece.addr % 16 ∉ used := by
  induction l with
  | nil => intro used n; cases n <;> simp [takeWaiting]
  | cons a t ih =>
    intro used n
    cases n with
    | zero => simp [takeWaiting]
    | succ n =>
      by_cases h : turn < a.turn ∨ used.contains (rowIndex a.piece.addr % 16)
      · rw [show takeWaiting turn used (n + 1) (a :: t) = [] from if_pos h]
        simp
      · obtain ⟨h1, h2, h3, h4⟩ := ih (rowIndex a.piece.addr % 16 :: used) n
        obtain ⟨ht, hu⟩ := not_or.1 h
        have hu : rowIndex a.piece.addr % 16 ∉ used := by simpa using hu
        rw [show takeWaiting turn used (n + 1) (a :: t) =
          a :: (if a.paced then [] else takeWaiting turn (rowIndex a.piece.addr % 16 :: used) n t) from if_neg h]
        cases a.paced with
        | true => simpa [hu] using Nat.le_of_not_lt ht
        | false =>
          rw [if_neg Bool.false_ne_true]
          refine ⟨by simpa using h1, by simpa using h2, ?_, ?_⟩
          · rw [List.map_cons, List.nodup_cons]
            refine ⟨fun hm => ?_, h3⟩
            obtain ⟨x, hx, e⟩ := List.mem_map.1 hm
            exact (h4 x hx).2 (by simp [e])
          · intro r hr
            obtain rfl | hr := List.mem_cons.1 hr
            · exact ⟨Nat.le_of_not_lt ht, hu⟩
            · exact ⟨(h4 r hr).1, fun e => (h4 r hr).2 (List.mem_cons_of_mem _ e)⟩

/-! ### Time -/

theorem passWhile_idle (busy : Mach → Bool) (n : Nat) (s : Mach) (h : busy s = false) : passWhile busy n s = s := by
  cases n <;> simp [passWhile, h]

theorem awaitSlots_idle (busy : Mach → Bool) (s : Mach) (h : busy s = false) : awaitSlots busy s = s :=
  passWhile_idle busy _ s h

theorem notBefore_past (t : Nat) (s : Mach) (h : t ≤ s.now) : notBefore t s = s := by
  simp [notBefore, Nat.sub_eq_zero_of_le h, passCycles]

theorem refCycles_zero (s : Mach) : refCycles 0 s = 0 := by
  unfold refCycles; split <;> simp

/-- No time passes to a fabric cycle that has come. -/
theorem toCycle_past (c : Nat) (s : Mach) (h : c ≤ cycleOf s) : toCycle c s = s := by
  simp [toCycle, Nat.sub_eq_zero_of_le h, refCycles_zero, notBefore_past]

theorem toTick_past (c : Nat) (s : Mach) (h : c ≤ tick s) : toTick c s = s := by
  simp [toTick, Nat.sub_eq_zero_of_le h, refCycles_zero, notBefore_past]

/-- An operation that has made its accesses and whose end has come is served at once. -/
theorem served_now (busy : Nat → Mach → Bool) (ends : Nat → Mach → Nat) (k : Nat) (s : Mach) (hb : busy k s = false)
    (he : ends k s ≤ tick s) : served busy ends k s = s := by
  simp [served, awaitSlots_idle (busy k) s hb, toTick_past _ s he]

/-! ### The order of acceptance (R566) -/

theorem mem_insertBy {α : Type} (tok : α → Nat) (x y : α) (l : List α) : y ∈ insertBy tok x l ↔ y = x ∨ y ∈ l := by
  induction l with
  | nil => simp [insertBy]
  | cons a t ih =>
    simp only [insertBy]
    split
    · simp
    · simp [ih, or_left_comm]

/-! ### The known-answer test (R424) -/

/-- The engine that keeps the rules of a checked pass meets the known answer. -/
theorem knownAnswer_true : knownAnswer = true := by decide +kernel

end Sys2Proof.Machine
end

