-- ==== Sys2Proof/Tests/Slice0.lean ====
section
/-! SUPPORT. Tests of single steps, the ill-formed terms that WellFormed refuses, and for every statement of
Certificates/Slice0/Obligations.lean that has hypotheses, for each of its clauses, a state and operands that meet them
together. Every expected value is written out from the spec's rules. -/

namespace Sys2Proof.Tests

set_option linter.unusedVariables false
set_option maxRecDepth 100000
set_option Elab.async false

open Sys2Proof Sys2Proof.Machine Sys2Proof.Spec

def st (m : Mach) : State := ⟨[], m, m⟩

def k0 : CoreId := ⟨0, 0⟩

/-- The module right after reset, but READY, with die 0 and the rim powered. -/
def ready : Mach := modDpw 0 (fun d => { d with on := true }) { Mach.reset with
  start := { Start.reset with state := 7, features := 31 }, pwr := { Power.reset with rimOn := true } }

/-- A host access is served, as a truth value. -/
def servedB (s : Mach) (a : Nat) : Bool :=
  s.start.state == 7 && !s.host.perst && !covered s a && (match placeOf a with | .die d o => answersAt s d o | _ => true)

theorem served_of {s : Mach} {a : Nat} (h : servedB s a = true) : Served s a := by
  simp only [servedB, Bool.and_eq_true, beq_iff_eq, Bool.not_eq_true'] at h
  refine ⟨h.1.1.1, h.1.1.2, h.1.2, fun d o hp => ?_⟩
  have h2 := h.2
  rw [hp] at h2
  exact h2

/-- The descriptor of a host command: its opcode, and fields at their byte offsets. -/
def desc (opc : Nat) (fs : List (Nat × Nat)) : Desc := BitVec.ofNat 512 (fs.foldl (fun n f => n + 2 ^ (8 * f.1) * f.2) opc)

def cmdOf (d : Desc) : RunCmd := ⟨77, d, false, .normal, 15, true, 2⟩

/-- The command is the next of ring 15, which has version 2. -/
def withCmd (d : Desc) (m : Mach) : Mach := modRing 15 (fun r => { r with cmds := [cmdOf d], ver := 2 }) m

/-! ### The scalar processor and the engines -/

/-- Core 0 of die 0 as `f` makes it. -/
def one (f : Core → Core) : State := st (modCore 0 f .reset)

def running (c : Core) : Core := { c with p := { c.p with mode := .running } }

/-- Registers, and a pattern at the top of the narrow bank. -/
def regs (c : Core) : Core := running { c with
  p := { c.p with g := [(1, 0x7FFFFFFF), (2, 0xFFFFFFFE), (3, 0x0000FFF8), (4, 40)] }
  sp := wrBytes c.sp 0xFFF8 [1, 2, 3, 0x84, 5, 6, 7, 0x88] }

/-- The instruction w at the PC. -/
def coded (w : Word) (f : Core → Core) (c : Core) : Core :=
  let x := f c
  { x with imem := wrBytes x.imem x.p.pc.toNat (toBytes 4 w.toNat) }

theorem wit_ScalarArithmeticWritesOnlyD :
    (∃ k : CoreId, ∃ d : Fin 32, ∃ a : Fin 32, ∃ b : Fin 32, ∃ imm : BitVec 16, ∃ s : State, (Follows s.m k) ∧ (Fetches s.m k (formA d a b 0x000)) ∧ True) ∧
    (∃ k : CoreId, ∃ d : Fin 32, ∃ a : Fin 32, ∃ b : Fin 32, ∃ imm : BitVec 16, ∃ s : State, (Follows s.m k) ∧ (Fetches s.m k (formA d a b 0x001)) ∧ True) ∧
    (∃ k : CoreId, ∃ d : Fin 32, ∃ a : Fin 32, ∃ b : Fin 32, ∃ imm : BitVec 16, ∃ s : State, (Follows s.m k) ∧ (Fetches s.m k (formA d a b 0x002)) ∧ True) ∧
    (∃ k : CoreId, ∃ d : Fin 32, ∃ a : Fin 32, ∃ b : Fin 32, ∃ imm : BitVec 16, ∃ s : State, (Follows s.m k) ∧ (Fetches s.m k (formA d a b 0x003)) ∧ True) ∧
    (∃ k : CoreId, ∃ d : Fin 32, ∃ a : Fin 32, ∃ b : Fin 32, ∃ imm : BitVec 16, ∃ s : State, (Follows s.m k) ∧ (Fetches s.m k (formA d a b 0x004)) ∧ True) ∧
    (∃ k : CoreId, ∃ d : Fin 32, ∃ a : Fin 32, ∃ b : Fin 32, ∃ imm : BitVec 16, ∃ s : State, (Follows s.m k) ∧ (Fetches s.m k (formA d a b 0x005)) ∧ True) ∧
    (∃ k : CoreId, ∃ d : Fin 32, ∃ a : Fin 32, ∃ b : Fin 32, ∃ imm : BitVec 16, ∃ s : State, (Follows s.m k) ∧ (Fetches s.m k (formA d a b 0x006)) ∧ True) ∧
    (∃ k : CoreId, ∃ d : Fin 32, ∃ a : Fin 32, ∃ b : Fin 32, ∃ imm : BitVec 16, ∃ s : State, (Follows s.m k) ∧ (Fetches s.m k (formA d a b 0x007)) ∧ True) ∧
    (∃ k : CoreId, ∃ d : Fin 32, ∃ a : Fin 32, ∃ b : Fin 32, ∃ imm : BitVec 16, ∃ s : State, (Follows s.m k) ∧ (Fetches s.m k (formA d a b 0x008)) ∧ True) ∧
    (∃ k : CoreId, ∃ d : Fin 32, ∃ a : Fin 32, ∃ b : Fin 32, ∃ imm : BitVec 16, ∃ s : State, (Follows s.m k) ∧ (Fetches s.m k (formA d a b 0x009)) ∧ True) ∧
    (∃ k : CoreId, ∃ d : Fin 32, ∃ a : Fin 32, ∃ b : Fin 32, ∃ imm : BitVec 16, ∃ s : State, (Follows s.m k) ∧ (Fetches s.m k (formA d a b 0x00A)) ∧ True) ∧
    (∃ k : CoreId, ∃ d : Fin 32, ∃ a : Fin 32, ∃ b : Fin 32, ∃ imm : BitVec 16, ∃ s : State, (Follows s.m k) ∧ (Fetches s.m k (formA d a b 0x00B)) ∧ True) ∧
    (∃ k : CoreId, ∃ d : Fin 32, ∃ a : Fin 32, ∃ b : Fin 32, ∃ imm : BitVec 16, ∃ s : State, (Follows s.m k) ∧ (Fetches s.m k (formI 0x01 d a imm)) ∧ True) ∧
    (∃ k : CoreId, ∃ d : Fin 32, ∃ a : Fin 32, ∃ b : Fin 32, ∃ imm : BitVec 16, ∃ s : State, (Follows s.m k) ∧ (Fetches s.m k (formI 0x02 d a imm)) ∧ True) ∧
    (∃ k : CoreId, ∃ d : Fin 32, ∃ a : Fin 32, ∃ b : Fin 32, ∃ imm : BitVec 16, ∃ s : State, (Follows s.m k) ∧ (Fetches s.m k (formI 0x03 d a imm)) ∧ True) ∧
    (∃ k : CoreId, ∃ d : Fin 32, ∃ a : Fin 32, ∃ b : Fin 32, ∃ imm : BitVec 16, ∃ s : State, (Follows s.m k) ∧ (Fetches s.m k (formI 0x04 d a imm)) ∧ True) ∧
    (∃ k : CoreId, ∃ d : Fin 32, ∃ a : Fin 32, ∃ b : Fin 32, ∃ imm : BitVec 16, ∃ s : State, (Follows s.m k) ∧ (Fetches s.m k (formI 0x06 d a imm)) ∧ True) ∧
    (∃ k : CoreId, ∃ d : Fin 32, ∃ a : Fin 32, ∃ b : Fin 32, ∃ imm : BitVec 16, ∃ s : State, (Follows s.m k) ∧ (Fetches s.m k (formI 0x07 d a imm)) ∧ True) ∧
    (∃ k : CoreId, ∃ d : Fin 32, ∃ a : Fin 32, ∃ b : Fin 32, ∃ imm : BitVec 16, ∃ s : State, (Follows s.m k) ∧ (Fetches s.m k (formI 0x08 d a imm)) ∧ True) ∧
    (∃ k : CoreId, ∃ d : Fin 32, ∃ a : Fin 32, ∃ b : Fin 32, ∃ imm : BitVec 16, ∃ s : State, (Follows s.m k) ∧ (Fetches s.m k (formI 0x09 d a imm)) ∧ True) ∧
    (∃ k : CoreId, ∃ d : Fin 32, ∃ a : Fin 32, ∃ b : Fin 32, ∃ imm : BitVec 16, ∃ s : State, (Follows s.m k) ∧ (codeAt s.m k ≠ formA d a b 0x000) ∧ (tget 0 (coreAt s.m k.key).synd (imemKey ((coreAt s.m k.key).p.pc.toNat / 4)) = 0) ∧ True) := by
  refine ⟨?_, ?_, ?_, ?_, ?_, ?_, ?_, ?_, ?_, ?_, ?_, ?_, ?_, ?_, ?_, ?_, ?_, ?_, ?_, ?_, ?_⟩
  · refine ⟨k0, 5, 1, 2, 0, one (coded (formA 5 1 2 0) regs), ?_, ?_, trivial⟩
    · unfold Follows; decide +kernel
    · unfold Fetches; decide +kernel
  · refine ⟨k0, 5, 1, 2, 0, one (coded (formA 5 1 2 1) regs), ?_, ?_, trivial⟩
    · unfold Follows; decide +kernel
    · unfold Fetches; decide +kernel
  · refine ⟨k0, 5, 1, 2, 0, one (coded (formA 5 1 2 2) regs), ?_, ?_, trivial⟩
    · unfold Follows; decide +kernel
    · unfold Fetches; decide +kernel
  · refine ⟨k0, 5, 1, 2, 0, one (coded (formA 5 1 2 3) regs), ?_, ?_, trivial⟩
    · unfold Follows; decide +kernel
    · unfold Fetches; decide +kernel
  · refine ⟨k0, 5, 1, 2, 0, one (coded (formA 5 1 2 4) regs), ?_, ?_, trivial⟩
    · unfold Follows; decide +kernel
    · unfold Fetches; decide +kernel
  · refine ⟨k0, 5, 1, 2, 0, one (coded (formA 5 1 2 5) regs), ?_, ?_, trivial⟩
    · unfold Follows; decide +kernel
    · unfold Fetches; decide +kernel
  · refine ⟨k0, 5, 1, 2, 0, one (coded (formA 5 1 2 6) regs), ?_, ?_, trivial⟩
    · unfold Follows; decide +kernel
    · unfold Fetches; decide +kernel
  · refine ⟨k0, 5, 1, 2, 0, one (coded (formA 5 1 2 7) regs), ?_, ?_, trivial⟩
    · unfold Follows; decide +kernel
    · unfold Fetches; decide +kernel
  · refine ⟨k0, 5, 1, 2, 0, one (coded (formA 5 1 2 8) regs), ?_, ?_, trivial⟩
    · unfold Follows; decide +kernel
    · unfold Fetches; decide +kernel
  · refine ⟨k0, 5, 1, 2, 0, one (coded (formA 5 1 2 9) regs), ?_, ?_, trivial⟩
    · unfold Follows; decide +kernel
    · unfold Fetches; decide +kernel
  · refine ⟨k0, 5, 1, 2, 0, one (coded (formA 5 1 2 10) regs), ?_, ?_, trivial⟩
    · unfold Follows; decide +kernel
    · unfold Fetches; decide +kernel
  · refine ⟨k0, 5, 1, 2, 0, one (coded (formA 5 1 2 11) regs), ?_, ?_, trivial⟩
    · unfold Follows; decide +kernel
    · unfold Fetches; decide +kernel
  · refine ⟨k0, 5, 1, 0, 0x8001, one (coded (formI 1 5 1 0x8001) regs), ?_, ?_, trivial⟩
    · unfold Follows; decide +kernel
    · unfold Fetches; decide +kernel
  · refine ⟨k0, 5, 1, 0, 0x8001, one (coded (formI 2 5 1 0x8001) regs), ?_, ?_, trivial⟩
    · unfold Follows; decide +kernel
    · unfold Fetches; decide +kernel
  · refine ⟨k0, 5, 1, 0, 0x8001, one (coded (formI 3 5 1 0x8001) regs), ?_, ?_, trivial⟩
    · unfold Follows; decide +kernel
    · unfold Fetches; decide +kernel
  · refine ⟨k0, 5, 1, 0, 0x8001, one (coded (formI 4 5 1 0x8001) regs), ?_, ?_, trivial⟩
    · unfold Follows; decide +kernel
    · unfold Fetches; decide +kernel
  · refine ⟨k0, 5, 1, 0, 0x8001, one (coded (formI 6 5 1 0x8001) regs), ?_, ?_, trivial⟩
    · unfold Follows; decide +kernel
    · unfold Fetches; decide +kernel
  · refine ⟨k0, 5, 1, 0, 0x8001, one (coded (formI 7 5 1 0x8001) regs), ?_, ?_, trivial⟩
    · unfold Follows; decide +kernel
    · unfold Fetches; decide +kernel
  · refine ⟨k0, 5, 1, 0, 0x8001, one (coded (formI 8 5 1 0x8001) regs), ?_, ?_, trivial⟩
    · unfold Follows; decide +kernel
    · unfold Fetches; decide +kernel
  · refine ⟨k0, 5, 1, 0, 0x8001, one (coded (formI 9 5 1 0x8001) regs), ?_, ?_, trivial⟩
    · unfold Follows; decide +kernel
    · unfold Fetches; decide +kernel
  · refine ⟨k0, 5, 1, 2, 0, one regs, ?_, ?_, ?_, trivial⟩
    · unfold Follows; decide +kernel
    · decide +kernel
    · decide +kernel

theorem wit_LoadsReadTheNarrowBank :
    (∃ k : CoreId, ∃ d : Fin 32, ∃ a : Fin 32, ∃ imm : BitVec 16, ∃ s : State, (Follows s.m k) ∧
    let addr := addrOf s.m k a imm
    let m := slotted k s.m
    let code (op : Nat) : Prop := Fetches s.m k (formI op d a imm)
    (Aligned s.m k a imm 1) ∧ (Clean m k addr 1) ∧ (code 0x10) ∧ True) ∧
    (∃ k : CoreId, ∃ d : Fin 32, ∃ a : Fin 32, ∃ imm : BitVec 16, ∃ s : State, (Follows s.m k) ∧
    let addr := addrOf s.m k a imm
    let m := slotted k s.m
    let code (op : Nat) : Prop := Fetches s.m k (formI op d a imm)
    (Aligned s.m k a imm 1) ∧ (Clean m k addr 1) ∧ (code 0x11) ∧ True) ∧
    (∃ k : CoreId, ∃ d : Fin 32, ∃ a : Fin 32, ∃ imm : BitVec 16, ∃ s : State, (Follows s.m k) ∧
    let addr := addrOf s.m k a imm
    let m := slotted k s.m
    let code (op : Nat) : Prop := Fetches s.m k (formI op d a imm)
    (Aligned s.m k a imm 2) ∧ (Clean m k addr 2) ∧ (code 0x12) ∧ True) ∧
    (∃ k : CoreId, ∃ d : Fin 32, ∃ a : Fin 32, ∃ imm : BitVec 16, ∃ s : State, (Follows s.m k) ∧
    let addr := addrOf s.m k a imm
    let m := slotted k s.m
    let code (op : Nat) : Prop := Fetches s.m k (formI op d a imm)
    (Aligned s.m k a imm 2) ∧ (Clean m k addr 2) ∧ (code 0x13) ∧ True) ∧
    (∃ k : CoreId, ∃ d : Fin 32, ∃ a : Fin 32, ∃ imm : BitVec 16, ∃ s : State, (Follows s.m k) ∧
    let addr := addrOf s.m k a imm
    let m := slotted k s.m
    let code (op : Nat) : Prop := Fetches s.m k (formI op d a imm)
    (Aligned s.m k a imm 4) ∧ (Clean m k addr 4) ∧ (code 0x14) ∧ True) ∧
    (∃ k : CoreId, ∃ d : Fin 32, ∃ a : Fin 32, ∃ imm : BitVec 16, ∃ s : State, (Follows s.m k) ∧
    let addr := addrOf s.m k a imm
    let m := slotted k s.m
    let code (op : Nat) : Prop := Fetches s.m k (formI op d a imm)
    (Aligned s.m k a imm 8) ∧ (Clean m k addr 8) ∧ (d.val % 2 = 0) ∧ (code 0x15) ∧ True) := by
  refine ⟨?_, ?_, ?_, ?_, ?_, ?_⟩
  · refine ⟨k0, 5, 3, 7, one (coded (formI 16 5 3 7) regs), ?_, ?_, ?_, ?_, trivial⟩
    · unfold Follows; decide +kernel
    · unfold Aligned; decide +kernel
    · unfold Clean; decide +kernel
    · show Fetches _ _ _; unfold Fetches; decide +kernel
  · refine ⟨k0, 5, 3, 7, one (coded (formI 17 5 3 7) regs), ?_, ?_, ?_, ?_, trivial⟩
    · unfold Follows; decide +kernel
    · unfold Aligned; decide +kernel
    · unfold Clean; decide +kernel
    · show Fetches _ _ _; unfold Fetches; decide +kernel
  · refine ⟨k0, 5, 3, 6, one (coded (formI 18 5 3 6) regs), ?_, ?_, ?_, ?_, trivial⟩
    · unfold Follows; decide +kernel
    · unfold Aligned; decide +kernel
    · unfold Clean; decide +kernel
    · show Fetches _ _ _; unfold Fetches; decide +kernel
  · refine ⟨k0, 5, 3, 6, one (coded (formI 19 5 3 6) regs), ?_, ?_, ?_, ?_, trivial⟩
    · unfold Follows; decide +kernel
    · unfold Aligned; decide +kernel
    · unfold Clean; decide +kernel
    · show Fetches _ _ _; unfold Fetches; decide +kernel
  · refine ⟨k0, 5, 3, 4, one (coded (formI 20 5 3 4) regs), ?_, ?_, ?_, ?_, trivial⟩
    · unfold Follows; decide +kernel
    · unfold Aligned; decide +kernel
    · unfold Clean; decide +kernel
    · show Fetches _ _ _; unfold Fetches; decide +kernel
  · refine ⟨k0, 6, 3, 0, one (coded (formI 21 6 3 0) regs), ?_, ?_, ?_, ?_, ?_, trivial⟩
    · unfold Follows; decide +kernel
    · unfold Aligned; decide +kernel
    · unfold Clean; decide +kernel
    · decide +kernel
    · show Fetches _ _ _; unfold Fetches; decide +kernel

theorem wit_StoresWriteExactlyTheirBytes :
    (∃ k : CoreId, ∃ d : Fin 32, ∃ a : Fin 32, ∃ imm : BitVec 16, ∃ s : State, (Follows s.m k) ∧
    let code (op : Nat) : Prop := Fetches s.m k (formI op d a imm)
    (Aligned s.m k a imm 1) ∧ (code 0x18) ∧ True) ∧
    (∃ k : CoreId, ∃ d : Fin 32, ∃ a : Fin 32, ∃ imm : BitVec 16, ∃ s : State, (Follows s.m k) ∧
    let code (op : Nat) : Prop := Fetches s.m k (formI op d a imm)
    (Aligned s.m k a imm 2) ∧ (code 0x19) ∧ True) ∧
    (∃ k : CoreId, ∃ d : Fin 32, ∃ a : Fin 32, ∃ imm : BitVec 16, ∃ s : State, (Follows s.m k) ∧
    let code (op : Nat) : Prop := Fetches s.m k (formI op d a imm)
    (Aligned s.m k a imm 4) ∧ (code 0x1A) ∧ True) ∧
    (∃ k : CoreId, ∃ d : Fin 32, ∃ a : Fin 32, ∃ imm : BitVec 16, ∃ s : State, (Follows s.m k) ∧
    let code (op : Nat) : Prop := Fetches s.m k (formI op d a imm)
    (Aligned s.m k a imm 8) ∧ (d.val % 2 = 0) ∧ (code 0x1B) ∧ True) := by
  refine ⟨?_, ?_, ?_, ?_⟩
  · refine ⟨k0, 1, 3, 7, one (coded (formI 24 1 3 7) regs), ?_, ?_, ?_, trivial⟩
    · unfold Follows; decide +kernel
    · unfold Aligned; decide +kernel
    · show Fetches _ _ _; unfold Fetches; decide +kernel
  · refine ⟨k0, 1, 3, 6, one (coded (formI 25 1 3 6) regs), ?_, ?_, ?_, trivial⟩
    · unfold Follows; decide +kernel
    · unfold Aligned; decide +kernel
    · show Fetches _ _ _; unfold Fetches; decide +kernel
  · refine ⟨k0, 1, 3, 4, one (coded (formI 26 1 3 4) regs), ?_, ?_, ?_, trivial⟩
    · unfold Follows; decide +kernel
    · unfold Aligned; decide +kernel
    · show Fetches _ _ _; unfold Fetches; decide +kernel
  · refine ⟨k0, 2, 3, 0, one (coded (formI 27 2 3 0) regs), ?_, ?_, ?_, ?_, trivial⟩
    · unfold Follows; decide +kernel
    · unfold Aligned; decide +kernel
    · decide +kernel
    · show Fetches _ _ _; unfold Fetches; decide +kernel

def nearTop (c : Core) : Core := regs { c with p := { c.p with pc := 0x3FF8 } }

theorem wit_BranchesAndJumpsSetThePc :
    (∃ k : CoreId, ∃ d : Fin 32, ∃ a : Fin 32, ∃ imm : BitVec 16, ∃ off : BitVec 26, ∃ s : State,
    let pc := (coreAt s.m k.key).p.pc
    let inside (t : Int) : Prop := 0 ≤ t ∧ t < 0x4000
    let taken (b : Bool) : Int := if b then pc.toNat + 4 + 4 * imm.toInt else pc.toNat + 4
    let code (op : Nat) : Prop := Fetches s.m k (formI op d a imm)
    (inside (taken true)) ∧ (inside (taken false)) ∧ (code 0x20) ∧ True) ∧
    (∃ k : CoreId, ∃ d : Fin 32, ∃ a : Fin 32, ∃ imm : BitVec 16, ∃ off : BitVec 26, ∃ s : State,
    let pc := (coreAt s.m k.key).p.pc
    let inside (t : Int) : Prop := 0 ≤ t ∧ t < 0x4000
    let taken (b : Bool) : Int := if b then pc.toNat + 4 + 4 * imm.toInt else pc.toNat + 4
    let code (op : Nat) : Prop := Fetches s.m k (formI op d a imm)
    (inside (taken true)) ∧ (inside (taken false)) ∧ (code 0x21) ∧ True) ∧
    (∃ k : CoreId, ∃ d : Fin 32, ∃ a : Fin 32, ∃ imm : BitVec 16, ∃ off : BitVec 26, ∃ s : State,
    let pc := (coreAt s.m k.key).p.pc
    let inside (t : Int) : Prop := 0 ≤ t ∧ t < 0x4000
    let taken (b : Bool) : Int := if b then pc.toNat + 4 + 4 * imm.toInt else pc.toNat + 4
    let code (op : Nat) : Prop := Fetches s.m k (formI op d a imm)
    (inside (taken true)) ∧ (inside (taken false)) ∧ (code 0x22) ∧ True) ∧
    (∃ k : CoreId, ∃ d : Fin 32, ∃ a : Fin 32, ∃ imm : BitVec 16, ∃ off : BitVec 26, ∃ s : State,
    let pc := (coreAt s.m k.key).p.pc
    let inside (t : Int) : Prop := 0 ≤ t ∧ t < 0x4000
    let taken (b : Bool) : Int := if b then pc.toNat + 4 + 4 * imm.toInt else pc.toNat + 4
    let code (op : Nat) : Prop := Fetches s.m k (formI op d a imm)
    (inside (taken true)) ∧ (inside (taken false)) ∧ (code 0x23) ∧ True) ∧
    (∃ k : CoreId, ∃ d : Fin 32, ∃ a : Fin 32, ∃ imm : BitVec 16, ∃ off : BitVec 26, ∃ s : State,
    let pc := (coreAt s.m k.key).p.pc
    let inside (t : Int) : Prop := 0 ≤ t ∧ t < 0x4000
    let taken (b : Bool) : Int := if b then pc.toNat + 4 + 4 * imm.toInt else pc.toNat + 4
    let code (op : Nat) : Prop := Fetches s.m k (formI op d a imm)
    (inside (taken true)) ∧ (inside (taken false)) ∧ (code 0x24) ∧ True) ∧
    (∃ k : CoreId, ∃ d : Fin 32, ∃ a : Fin 32, ∃ imm : BitVec 16, ∃ off : BitVec 26, ∃ s : State,
    let pc := (coreAt s.m k.key).p.pc
    let inside (t : Int) : Prop := 0 ≤ t ∧ t < 0x4000
    let taken (b : Bool) : Int := if b then pc.toNat + 4 + 4 * imm.toInt else pc.toNat + 4
    let code (op : Nat) : Prop := Fetches s.m k (formI op d a imm)
    (inside (taken true)) ∧ (inside (taken false)) ∧ (code 0x25) ∧ True) ∧
    (∃ k : CoreId, ∃ d : Fin 32, ∃ a : Fin 32, ∃ imm : BitVec 16, ∃ off : BitVec 26, ∃ s : State,
    let pc := (coreAt s.m k.key).p.pc
    let inside (t : Int) : Prop := 0 ≤ t ∧ t < 0x4000
    (inside (pc.toNat + 4 + 4 * off.toInt)) ∧ (Fetches s.m k (formJ 0x28 off)) ∧ True) ∧
    (∃ k : CoreId, ∃ d : Fin 32, ∃ a : Fin 32, ∃ imm : BitVec 16, ∃ off : BitVec 26, ∃ s : State,
    let y := gval s.m k a
    let inside (t : Int) : Prop := 0 ≤ t ∧ t < 0x4000
    let code (op : Nat) : Prop := Fetches s.m k (formI op d a imm)
    let t : Int := y.toNat + imm.toInt
    (inside (t - t % 4)) ∧ (code 0x29) ∧ True) := by
  refine ⟨?_, ?_, ?_, ?_, ?_, ?_, ?_, ?_⟩
  · refine ⟨k0, 1, 2, 0xF001, 0, one (coded (formI 32 1 2 0xF001) nearTop), ?_, ?_, ?_, trivial⟩
    · decide +kernel
    · decide +kernel
    · show Fetches _ _ _; unfold Fetches; decide +kernel
  · refine ⟨k0, 1, 2, 0xF001, 0, one (coded (formI 33 1 2 0xF001) nearTop), ?_, ?_, ?_, trivial⟩
    · decide +kernel
    · decide +kernel
    · show Fetches _ _ _; unfold Fetches; decide +kernel
  · refine ⟨k0, 1, 2, 0xF001, 0, one (coded (formI 34 1 2 0xF001) nearTop), ?_, ?_, ?_, trivial⟩
    · decide +kernel
    · decide +kernel
    · show Fetches _ _ _; unfold Fetches; decide +kernel
  · refine ⟨k0, 1, 2, 0xF001, 0, one (coded (formI 35 1 2 0xF001) nearTop), ?_, ?_, ?_, trivial⟩
    · decide +kernel
    · decide +kernel
    · show Fetches _ _ _; unfold Fetches; decide +kernel
  · refine ⟨k0, 1, 2, 0xF001, 0, one (coded (formI 36 1 2 0xF001) nearTop), ?_, ?_, ?_, trivial⟩
    · decide +kernel
    · decide +kernel
    · show Fetches _ _ _; unfold Fetches; decide +kernel
  · refine ⟨k0, 1, 2, 0xF001, 0, one (coded (formI 37 1 2 0xF001) nearTop), ?_, ?_, ?_, trivial⟩
    · decide +kernel
    · decide +kernel
    · show Fetches _ _ _; unfold Fetches; decide +kernel
  · refine ⟨k0, 0, 0, 0, 0x3FFF001, one (coded (formJ 0x28 0x3FFF001) nearTop), ?_, ?_, trivial⟩
    · decide +kernel
    · unfold Fetches; decide +kernel
  · refine ⟨k0, 1, 4, 0x3FD7, 0, one (coded (formI 0x29 1 4 0x3FD7) nearTop), ?_, ?_, trivial⟩
    · decide +kernel
    · show Fetches _ _ _; unfold Fetches; decide +kernel

/-- A valid descriptor that clears one accumulator row (R119). -/
def aclr1 : OpDesc := 0x13 + 2 ^ 96 * 1
/-- A valid descriptor at the top of the narrow bank, and n descriptors in queue 0. -/
def issues (n : Nat) (md : PMode) (c : Core) : Core := { c with
  sp := wrBytes c.sp 0xFFE0 (toBytes 32 aclr1.toNat), queues := if n = 0 then [] else [(0, List.replicate n ⟨aclr1, 0⟩)]
  p := { c.p with g := [(1, 1), (3, 0xFFE0)], epc := 0x3FFC, mode := md } }

theorem wit_ScalarControlInstructions :
    (∃ k : CoreId, ∃ d : Fin 32, ∃ a : Fin 32, ∃ imm : BitVec 16, ∃ s : State,
    let c := coreAt s.m k.key
    let addr := addrOf s.m k a imm
    let m := slotted k s.m
    let q : QDesc := ⟨BitVec.ofNat 256 (rdNum (coreAt m k.key).sp addr 32), c.p.pc⟩
    let room (e : Nat) : Prop := (tget [] c.queues e).length < 8
    let code (op : Nat) : Prop := Fetches s.m k (formI op d a imm)
    (code 0x30) ∧ (Follows s.m k) ∧ (d.val < 4) ∧ (addr % 32 = 0) ∧ (addr < 0x10000) ∧ (Clean m k addr 32) ∧ (descOk d.val q.d = true) ∧ (room d.val) ∧ True) ∧
    (∃ k : CoreId, ∃ d : Fin 32, ∃ a : Fin 32, ∃ imm : BitVec 16, ∃ s : State,
    let c := coreAt s.m k.key
    let addr := addrOf s.m k a imm
    let m := slotted k s.m
    let q : QDesc := ⟨BitVec.ofNat 256 (rdNum (coreAt m k.key).sp addr 32), c.p.pc⟩
    let room (e : Nat) : Prop := (tget [] c.queues e).length < 8
    let code (op : Nat) : Prop := Fetches s.m k (formI op d a imm)
    (code 0x30) ∧ (Follows s.m k) ∧ (d.val < 4) ∧ (addr % 32 = 0) ∧ (addr < 0x10000) ∧ (Clean m k addr 32) ∧ (descOk d.val q.d = true) ∧ (¬ room d.val) ∧ True) ∧
    (∃ k : CoreId, ∃ d : Fin 32, ∃ a : Fin 32, ∃ imm : BitVec 16, ∃ s : State,
    let c := coreAt s.m k.key
    let room (e : Nat) : Prop := (tget [] c.queues e).length < 8
    ∃ e : Fin 4, ∃ x : QDesc, (c.p.mode = .stallIssue e x) ∧ (room e.val) ∧ (x.pc.toNat + 4 < 0x4000) ∧ True) ∧
    (∃ k : CoreId, ∃ d : Fin 32, ∃ a : Fin 32, ∃ imm : BitVec 16, ∃ s : State,
    let c := coreAt s.m k.key
    let code (op : Nat) : Prop := Fetches s.m k (formI op d a imm)
    (code 0x31) ∧ (Follows s.m k) ∧ (imm = 0) ∧ (reached c (d.val % 4) (gval s.m k a) = true) ∧ True) ∧
    (∃ k : CoreId, ∃ d : Fin 32, ∃ a : Fin 32, ∃ imm : BitVec 16, ∃ s : State,
    let c := coreAt s.m k.key
    let code (op : Nat) : Prop := Fetches s.m k (formI op d a imm)
    (code 0x31) ∧ (Follows s.m k) ∧ (imm = 0) ∧ (reached c (d.val % 4) (gval s.m k a) = false) ∧ True) ∧
    (∃ k : CoreId, ∃ d : Fin 32, ∃ a : Fin 32, ∃ imm : BitVec 16, ∃ s : State,
    let c := coreAt s.m k.key
    ∃ e : Fin 4, ∃ t : Word, (c.p.mode = .waiting e t) ∧ (reached c e.val t = true) ∧ (Follows s.m k) ∧ True) ∧
    (∃ k : CoreId, ∃ d : Fin 32, ∃ a : Fin 32, ∃ imm : BitVec 16, ∃ s : State,
    let code (op : Nat) : Prop := Fetches s.m k (formI op d a imm)
    ∃ v : Word, (code 0x32) ∧ (Follows s.m k) ∧ (csrRead s.m k.key (imm.toNat % 4096) = some v) ∧ True) ∧
    (∃ k : CoreId, ∃ d : Fin 32, ∃ a : Fin 32, ∃ imm : BitVec 16, ∃ s : State, (Follows s.m k) ∧ (Fetches s.m k (formI 0x33 d a 4)) ∧ True) ∧
    (∃ k : CoreId, ∃ d : Fin 32, ∃ a : Fin 32, ∃ imm : BitVec 16, ∃ s : State, (Follows s.m k) ∧ (Fetches s.m k (formI 0x33 d a 5)) ∧ True) ∧
    (∃ k : CoreId, ∃ d : Fin 32, ∃ a : Fin 32, ∃ imm : BitVec 16, ∃ s : State, (Follows s.m k) ∧ (Fetches s.m k (formI 0x33 d a 8)) ∧ True) ∧
    (∃ k : CoreId, ∃ d : Fin 32, ∃ a : Fin 32, ∃ imm : BitVec 16, ∃ s : State, (Fetches s.m k (formJ 0x34 0)) ∧ True) ∧
    (∃ k : CoreId, ∃ d : Fin 32, ∃ a : Fin 32, ∃ imm : BitVec 16, ∃ s : State,
    let c := coreAt s.m k.key
    (c.p.mode = .draining) ∧ (drained c = true) ∧ (c.p.done = false) ∧ True) ∧
    (∃ k : CoreId, ∃ d : Fin 32, ∃ a : Fin 32, ∃ imm : BitVec 16, ∃ s : State,
    let c := coreAt s.m k.key
    (Fetches s.m k (formJ 0x35 0)) ∧ (c.p.epc.toNat < 0x4000) ∧ True) := by
  refine ⟨?_, ?_, ?_, ?_, ?_, ?_, ?_, ?_, ?_, ?_, ?_, ?_, ?_⟩
  · refine ⟨k0, 0, 3, 0, one (coded (formI 0x30 0 3 0) (issues 7 .running)), ?_, ?_, ?_, ?_, ?_, ?_, ?_, ?_, trivial⟩
    · show Fetches _ _ _; unfold Fetches; decide +kernel
    · unfold Follows; decide +kernel
    · decide +kernel
    · decide +kernel
    · decide +kernel
    · unfold Clean; decide +kernel
    · decide +kernel
    · decide +kernel
  · refine ⟨k0, 0, 3, 0, one (coded (formI 0x30 0 3 0) (issues 8 .running)), ?_, ?_, ?_, ?_, ?_, ?_, ?_, ?_, trivial⟩
    · show Fetches _ _ _; unfold Fetches; decide +kernel
    · unfold Follows; decide +kernel
    · decide +kernel
    · decide +kernel
    · decide +kernel
    · unfold Clean; decide +kernel
    · decide +kernel
    · decide +kernel
  · refine ⟨k0, 0, 0, 0, one (issues 7 (.stallIssue 0 ⟨aclr1, 0x3FF8⟩)), 0, ⟨aclr1, 0x3FF8⟩, ?_, ?_, ?_, trivial⟩
    · decide +kernel
    · decide +kernel
    · decide +kernel
  · refine ⟨k0, 0, 0, 0, one (coded (formI 0x31 0 0 0) (issues 7 .running)), ?_, ?_, ?_, ?_, trivial⟩
    · show Fetches _ _ _; unfold Fetches; decide +kernel
    · unfold Follows; decide +kernel
    · decide +kernel
    · decide +kernel
  · refine ⟨k0, 4, 1, 0, one (coded (formI 0x31 4 1 0) (issues 7 .running)), ?_, ?_, ?_, ?_, trivial⟩
    · show Fetches _ _ _; unfold Fetches; decide +kernel
    · unfold Follows; decide +kernel
    · decide +kernel
    · decide +kernel
  · refine ⟨k0, 0, 0, 0, one (issues 7 (.waiting 3 0xFFFF8001)), 3, 0xFFFF8001, ?_, ?_, ?_, trivial⟩
    · decide +kernel
    · decide +kernel
    · unfold Follows; decide +kernel
  · refine ⟨k0, 4, 3, 0xF004, one (coded (formI 0x32 4 3 0xF004) (issues 7 .running)), 0, ?_, ?_, ?_, trivial⟩
    · show Fetches _ _ _; unfold Fetches; decide +kernel
    · unfold Follows; decide +kernel
    · decide +kernel
  · refine ⟨k0, 4, 3, 0, one (coded (formI 0x33 4 3 4) (issues 7 .running)), ?_, ?_, trivial⟩
    · unfold Follows; decide +kernel
    · unfold Fetches; decide +kernel
  · refine ⟨k0, 4, 3, 0, one (coded (formI 0x33 4 3 5) (issues 7 .running)), ?_, ?_, trivial⟩
    · unfold Follows; decide +kernel
    · unfold Fetches; decide +kernel
  · refine ⟨k0, 4, 3, 0, one (coded (formI 0x33 4 3 8) (issues 7 .running)), ?_, ?_, trivial⟩
    · unfold Follows; decide +kernel
    · unfold Fetches; decide +kernel
  · refine ⟨k0, 0, 0, 0, one (coded (formJ 0x34 0) (issues 7 .running)), ?_, trivial⟩
    · unfold Fetches; decide +kernel
  · refine ⟨k0, 0, 0, 0, one (issues 0 .draining), ?_, ?_, ?_, trivial⟩
    · decide +kernel
    · decide +kernel
    · decide +kernel
  · refine ⟨k0, 0, 0, 0, one (coded (formJ 0x35 0) (issues 0 .running)), ?_, ?_, trivial⟩
    · unfold Fetches; decide +kernel
    · decide +kernel

def handled (c : Core) : Core := regs { c with p := { c.p with tvec := 0x101, epc := 0x4000 } }

theorem wit_ClassSExceptionsEnterTheHandler :
    (∃ k : CoreId, ∃ d : Fin 32, ∃ a : Fin 32, ∃ imm : BitVec 16, ∃ off : BitVec 26, ∃ w : Word, ∃ s : State, (HasHandler s.m k) ∧ (listed w = false) ∧ (Fetches s.m k w) ∧ True) ∧
    (∃ k : CoreId, ∃ d : Fin 32, ∃ a : Fin 32, ∃ imm : BitVec 16, ∃ off : BitVec 26, ∃ w : Word, ∃ s : State, (HasHandler s.m k) ∧
    let addr := addrOf s.m k a imm
    (addr % 4 ≠ 0) ∧ (Fetches s.m k (formI 0x14 d a imm)) ∧ True) ∧
    (∃ k : CoreId, ∃ d : Fin 32, ∃ a : Fin 32, ∃ imm : BitVec 16, ∃ off : BitVec 26, ∃ w : Word, ∃ s : State, (HasHandler s.m k) ∧
    let addr := addrOf s.m k a imm
    (addr % 4 ≠ 0) ∧ (Fetches s.m k (formI 0x1A d a imm)) ∧ True) ∧
    (∃ k : CoreId, ∃ d : Fin 32, ∃ a : Fin 32, ∃ imm : BitVec 16, ∃ off : BitVec 26, ∃ w : Word, ∃ s : State, (HasHandler s.m k) ∧
    let addr := addrOf s.m k a imm
    (addr % 4 = 0) ∧ (0x10000 ≤ addr) ∧ (Fetches s.m k (formI 0x14 d a imm)) ∧ True) ∧
    (∃ k : CoreId, ∃ d : Fin 32, ∃ a : Fin 32, ∃ imm : BitVec 16, ∃ off : BitVec 26, ∃ w : Word, ∃ s : State, (HasHandler s.m k) ∧
    let addr := addrOf s.m k a imm
    (addr % 4 = 0) ∧ (0x10000 ≤ addr) ∧ (Fetches s.m k (formI 0x1A d a imm)) ∧ True) ∧
    (∃ k : CoreId, ∃ d : Fin 32, ∃ a : Fin 32, ∃ imm : BitVec 16, ∃ off : BitVec 26, ∃ w : Word, ∃ s : State, (HasHandler s.m k) ∧ (d.val % 2 = 1) ∧ (Fetches s.m k (formI 0x15 d a imm)) ∧ True) ∧
    (∃ k : CoreId, ∃ d : Fin 32, ∃ a : Fin 32, ∃ imm : BitVec 16, ∃ off : BitVec 26, ∃ w : Word, ∃ s : State, (HasHandler s.m k) ∧ (d.val % 2 = 1) ∧ (Fetches s.m k (formI 0x1B d a imm)) ∧ True) ∧
    (∃ k : CoreId, ∃ d : Fin 32, ∃ a : Fin 32, ∃ imm : BitVec 16, ∃ off : BitVec 26, ∃ w : Word, ∃ s : State, (HasHandler s.m k) ∧ (off ≠ 0) ∧ (Fetches s.m k (formJ 0x34 off)) ∧ True) ∧
    (∃ k : CoreId, ∃ d : Fin 32, ∃ a : Fin 32, ∃ imm : BitVec 16, ∃ off : BitVec 26, ∃ w : Word, ∃ s : State, (HasHandler s.m k) ∧ (off ≠ 0) ∧ (Fetches s.m k (formJ 0x35 off)) ∧ True) ∧
    (∃ k : CoreId, ∃ d : Fin 32, ∃ a : Fin 32, ∃ imm : BitVec 16, ∃ off : BitVec 26, ∃ w : Word, ∃ s : State, (HasHandler s.m k) ∧ (imm ≠ 0) ∧ (Fetches s.m k (formI 0x31 d a imm)) ∧ True) ∧
    (∃ k : CoreId, ∃ d : Fin 32, ∃ a : Fin 32, ∃ imm : BitVec 16, ∃ off : BitVec 26, ∃ w : Word, ∃ s : State, (HasHandler s.m k) ∧ (0x4000 ≤ (coreAt s.m k.key).p.epc.toNat) ∧ (Fetches s.m k (formJ 0x35 0)) ∧ True) ∧
    (∃ k : CoreId, ∃ d : Fin 32, ∃ a : Fin 32, ∃ imm : BitVec 16, ∃ off : BitVec 26, ∃ w : Word, ∃ s : State, (HasHandler s.m k) ∧ (Fetches s.m k (formI 0x33 d a 0)) ∧ True) ∧
    (∃ k : CoreId, ∃ d : Fin 32, ∃ a : Fin 32, ∃ imm : BitVec 16, ∃ off : BitVec 26, ∃ w : Word, ∃ s : State, (HasHandler s.m k) ∧ (Fetches s.m k (formI 0x32 d a 9)) ∧ True) ∧
    (∃ k : CoreId, ∃ d : Fin 32, ∃ a : Fin 32, ∃ imm : BitVec 16, ∃ off : BitVec 26, ∃ w : Word, ∃ s : State, (HasHandler s.m k) ∧
    let addr := addrOf s.m k a imm
    (d.val < 4) ∧ (addr % 32 ≠ 0) ∧ (Fetches s.m k (formI 0x30 d a imm)) ∧ True) := by
  refine ⟨?_, ?_, ?_, ?_, ?_, ?_, ?_, ?_, ?_, ?_, ?_, ?_, ?_, ?_⟩
  · refine ⟨k0, 0, 0, 0, 0, 0xFFFFFFFF, one (coded (0xFFFFFFFF) handled), ?_, ?_, ?_, trivial⟩
    · unfold HasHandler; decide +kernel
    · decide +kernel
    · unfold Fetches; decide +kernel
  · refine ⟨k0, 0, 3, 1, 0, 0, one (coded (formI 0x14 0 3 1) handled), ?_, ?_, ?_, trivial⟩
    · unfold HasHandler; decide +kernel
    · decide +kernel
    · unfold Fetches; decide +kernel
  · refine ⟨k0, 0, 3, 1, 0, 0, one (coded (formI 0x1A 0 3 1) handled), ?_, ?_, ?_, trivial⟩
    · unfold HasHandler; decide +kernel
    · decide +kernel
    · unfold Fetches; decide +kernel
  · refine ⟨k0, 0, 3, 8, 0, 0, one (coded (formI 0x14 0 3 8) handled), ?_, ?_, ?_, ?_, trivial⟩
    · unfold HasHandler; decide +kernel
    · decide +kernel
    · decide +kernel
    · unfold Fetches; decide +kernel
  · refine ⟨k0, 0, 3, 8, 0, 0, one (coded (formI 0x1A 0 3 8) handled), ?_, ?_, ?_, ?_, trivial⟩
    · unfold HasHandler; decide +kernel
    · decide +kernel
    · decide +kernel
    · unfold Fetches; decide +kernel
  · refine ⟨k0, 31, 3, 0, 0, 0, one (coded (formI 0x15 31 3 0) handled), ?_, ?_, ?_, trivial⟩
    · unfold HasHandler; decide +kernel
    · decide +kernel
    · unfold Fetches; decide +kernel
  · refine ⟨k0, 31, 3, 0, 0, 0, one (coded (formI 0x1B 31 3 0) handled), ?_, ?_, ?_, trivial⟩
    · unfold HasHandler; decide +kernel
    · decide +kernel
    · unfold Fetches; decide +kernel
  · refine ⟨k0, 0, 0, 0, 0x3FFFFFF, 0, one (coded (formJ 0x34 0x3FFFFFF) handled), ?_, ?_, ?_, trivial⟩
    · unfold HasHandler; decide +kernel
    · decide +kernel
    · unfold Fetches; decide +kernel
  · refine ⟨k0, 0, 0, 0, 0x3FFFFFF, 0, one (coded (formJ 0x35 0x3FFFFFF) handled), ?_, ?_, ?_, trivial⟩
    · unfold HasHandler; decide +kernel
    · decide +kernel
    · unfold Fetches; decide +kernel
  · refine ⟨k0, 31, 3, 0x8000, 0, 0, one (coded (formI 0x31 31 3 0x8000) handled), ?_, ?_, ?_, trivial⟩
    · unfold HasHandler; decide +kernel
    · decide +kernel
    · unfold Fetches; decide +kernel
  · refine ⟨k0, 0, 0, 0, 0, 0, one (coded (formJ 0x35 0) handled), ?_, ?_, ?_, trivial⟩
    · unfold HasHandler; decide +kernel
    · decide +kernel
    · unfold Fetches; decide +kernel
  · refine ⟨k0, 31, 3, 0, 0, 0, one (coded (formI 0x33 31 3 0) handled), ?_, ?_, trivial⟩
    · unfold HasHandler; decide +kernel
    · unfold Fetches; decide +kernel
  · refine ⟨k0, 31, 3, 0, 0, 0, one (coded (formI 0x32 31 3 9) handled), ?_, ?_, trivial⟩
    · unfold HasHandler; decide +kernel
    · unfold Fetches; decide +kernel
  · refine ⟨k0, 3, 3, 0, 0, 0, one (coded (formI 0x30 3 3 0) handled), ?_, ?_, ?_, ?_, trivial⟩
    · unfold HasHandler; decide +kernel
    · decide +kernel
    · decide +kernel
    · unfold Fetches; decide +kernel

theorem wit_ClassUFaultHaltsTheCore :
    ∃ k : CoreId, ∃ w : Word, ∃ s : State, (Fetches s.m k w) ∧ (listed w = false) ∧ (bit (coreAt s.m k.key).p.tvec 0 = false) ∧ ((coreAt s.m k.key).p.inexc = false) ∧ True := by
  refine ⟨k0, 0xFFFFFFFF, one (coded 0xFFFFFFFF regs), ?_, ?_, ?_, ?_, trivial⟩
  · unfold Fetches; decide +kernel
  · decide +kernel
  · decide +kernel
  · decide +kernel

/-! ### The engines and the sections -/

def qd (n : Nat) : QDesc := ⟨BitVec.ofNat 256 n, 0⟩
def queued0 (e n : Nat) (c : Core) : Core := { c with queues := [(e, [qd n])] }
/-- An MPASS of one row with SWAP, an activation at the last row of the wide banks. -/
def mpassQ : Nat := 0x11 + 2 ^ 9 + 2 ^ 32 * 0x26FFC0 + 2 ^ 112 * 1
/-- A VOP of one group of BF16 elements: ADD with two operands. -/
def vopQ : Nat := 0x20 + 2 ^ 64 * 0x100000 + 2 ^ 96 * 0x100040 + 2 ^ 128 * 0x100080 + 2 ^ 160 * 1 + 2 ^ 176 * 0x99 + 2 ^ 184 * 9

theorem wit_EnginesTakeTheHeadOfTheirQueue :
    (∃ k : CoreId, ∃ q : QDesc, ∃ s : State, (OnPeriod s.m) ∧
    let c := coreAt s.m k.key
    (AtHead s.m k 0 0x10 q) ∧ (c.mx.arb = none) ∧ (c.mx.shadowFull = false) ∧ (c.mx.loading = none) ∧ True) ∧
    (∃ k : CoreId, ∃ q : QDesc, ∃ s : State, (OnPeriod s.m) ∧
    let c := coreAt s.m k.key
    let now := tick s.m
    let p := newPass q (tileOf c q) now
    (AtHead s.m k 0 0x11 q) ∧ (c.mx.arb = none) ∧ (c.mx.aclr = []) ∧ (clearOfAout p c.mx.aout = true) ∧ ((bit q.d 9 = true → c.mx.loading = none)) ∧ ((bit q.d 11 = true → (c.mx.passes.filter isChk).length < 2)) ∧ ((∀ l, c.mx.passes.getLast? = some l → l.allRead = true ∧ l.ends ≤ now + 40)) ∧ (dB q.d 16 2 + tileG p.tile * dB q.d 14 2 ≤ 512) ∧ ((p.tile.empty = true ∨ fmtInt p.tile.wfmt.toNat = fmtInt (dB q.d 12 1))) ∧ True) ∧
    (∃ k : CoreId, ∃ q : QDesc, ∃ s : State, (OnPeriod s.m) ∧
    let c := coreAt s.m k.key
    let now := tick s.m
    let p := newPass q (tileOf c q) now
    (AtHead s.m k 0 0x11 q) ∧ (c.mx.arb = none) ∧ (c.mx.aclr = []) ∧ (clearOfAout p c.mx.aout = true) ∧ ((bit q.d 9 = true → c.mx.loading = none)) ∧ ((bit q.d 11 = true → (c.mx.passes.filter isChk).length < 2)) ∧ ((∀ l, c.mx.passes.getLast? = some l → l.allRead = true ∧ l.ends ≤ now + 40)) ∧ (dB q.d 16 2 + tileG p.tile * dB q.d 14 2 ≤ 512) ∧ ((p.tile.empty = true ∨ fmtInt p.tile.wfmt.toNat = fmtInt (dB q.d 12 1))) ∧ (p.tile.kind ≠ 3) ∧ (p.tile.kind ≠ 4) ∧ True) ∧
    (∃ k : CoreId, ∃ q : QDesc, ∃ s : State, (OnPeriod s.m) ∧
    let c := coreAt s.m k.key
    (AtHead s.m k 0 0x12 q) ∧ (c.mx.arb = none) ∧ (c.mx.passes = []) ∧ (c.mx.aout = none) ∧ (c.mx.aclr = []) ∧ True) ∧
    (∃ k : CoreId, ∃ q : QDesc, ∃ s : State, (OnPeriod s.m) ∧
    let c := coreAt s.m k.key
    (AtHead s.m k 0 0x13 q) ∧ (c.mx.arb = none) ∧ (c.mx.passes = []) ∧ (c.mx.aout = none) ∧ True) ∧
    (∃ k : CoreId, ∃ q : QDesc, ∃ s : State, (OnPeriod s.m) ∧
    let c := coreAt s.m k.key
    (AtHead s.m k 1 0x20 q) ∧ (c.vop = none) ∧ True) := by
  refine ⟨?_, ?_, ?_, ?_, ?_, ?_⟩
  · refine ⟨k0, qd 0x10, one (queued0 0 0x10), ?_, ?_, ?_, ?_, ?_, trivial⟩
    · unfold OnPeriod; decide +kernel
    · unfold AtHead; decide +kernel
    · decide +kernel
    · decide +kernel
    · decide +kernel
  · refine ⟨k0, qd mpassQ, one (queued0 0 mpassQ), ?_, ?_, ?_, ?_, ?_, ?_, ?_, ?_, ?_, ?_, trivial⟩
    · unfold OnPeriod; decide +kernel
    · unfold AtHead; decide +kernel
    · decide +kernel
    · decide +kernel
    · decide +kernel
    · decide +kernel
    · decide +kernel
    · decide +kernel
    · decide +kernel
    · decide +kernel
  · refine ⟨k0, qd mpassQ, one (queued0 0 mpassQ), ?_, ?_, ?_, ?_, ?_, ?_, ?_, ?_, ?_, ?_, ?_, ?_, trivial⟩
    · unfold OnPeriod; decide +kernel
    · unfold AtHead; decide +kernel
    · decide +kernel
    · decide +kernel
    · decide +kernel
    · decide +kernel
    · decide +kernel
    · decide +kernel
    · decide +kernel
    · decide +kernel
    · decide +kernel
    · decide +kernel
  · refine ⟨k0, qd 0x12, one (queued0 0 0x12), ?_, ?_, ?_, ?_, ?_, ?_, trivial⟩
    · unfold OnPeriod; decide +kernel
    · unfold AtHead; decide +kernel
    · decide +kernel
    · decide +kernel
    · decide +kernel
    · decide +kernel
  · refine ⟨k0, qd 0x13, one (queued0 0 0x13), ?_, ?_, ?_, ?_, ?_, trivial⟩
    · unfold OnPeriod; decide +kernel
    · unfold AtHead; decide +kernel
    · decide +kernel
    · decide +kernel
    · decide +kernel
  · refine ⟨k0, qd vopQ, one (queued0 1 vopQ), ?_, ?_, ?_, trivial⟩
    · unfold OnPeriod; decide +kernel
    · unfold AtHead; decide +kernel
    · decide +kernel

def mx (f : Matrix → Matrix) : State := one (fun c => { c with mx := f c.mx })
/-- A WLOAD of a dense 8-bit tile without scales, whose rows are read. -/
def load1 : Load :=
  { q := qd (0x10 + 2 ^ 32 * 0x100000), ends := 0, tile := ⟨[], List.replicate 32 0⟩, scales := ⟨[], []⟩, metas := ⟨[], []⟩ }
def wloadTile : Tile := { empty := false, wfmt := 0, sfmt := 0, kind := 0, cbase := 0, span := 0, rows := List.replicate 32 0, scales := [], metaRows := [] }
def aclr511 : AclrRun := ⟨qd (0x13 + 2 ^ 112 * 511 + 2 ^ 96), 0⟩
def pass1 (d : Nat) : Pass := ⟨qd d, .reset, ⟨[], [0]⟩, ⟨[], []⟩, 0, 0⟩
/-- A strict accumulating pass over the empty tile, with CHK, of a row whose lanes add up to its checksum. -/
def arb1 : Arb :=
  ⟨pass1 (0x11 + 2 ^ 8 * 13 + 2 ^ 112 * 1), [(0, ⟨0x3F800000, 0x3F800000, 0x3F800000, 1, false⟩)], [], [], 0⟩
def badRow1 : BadRow := ⟨0, some ⟨2 ^ 149, -149⟩, 0x40000000, ⟨29243015907268149203883755326167580681, -144⟩, 9⟩

theorem wit_MatrixEngineCompletions :
    (∃ k : CoreId, ∃ s : State,
    let c := coreAt s.m k.key
    ∃ l : Load, ∃ t : Tile,
    let d := l.q.d
    (c.mx.loading = some l) ∧ (MayEnd s.m l.ends) ∧ (l.allRead = true) ∧ (t = { empty := false, wfmt := BitVec.ofNat 4 (dB d 12 1), sfmt := BitVec.ofNat 2 (dB d 13 1), kind := BitVec.ofNat 3 (dB d 14 1), cbase := BitVec.ofNat 16 (dB d 20 2), span := dB d 22 1, rows := l.tile.got, scales := bytesFrom l.scales.got (dB d 8 4) (32 * colFactor (dB d 14 1) (dB d 22 1) * scaleBytes (dB d 13 1) (ktOf (fmtClass (dB d 12 1)))), metaRows := l.metas.got }) ∧ True) ∧
    (∃ k : CoreId, ∃ s : State,
    let c := coreAt s.m k.key
    ∃ a : AclrRun, (nextAclr c.mx.aclr = some a) ∧ (MayEnd s.m a.ends) ∧ True) ∧
    (∃ k : CoreId, ∃ s : State,
    let c := coreAt s.m k.key
    ∃ p, ∃ rest, (c.mx.passes = p :: rest) ∧ (c.mx.arb = none) ∧ (MayEnd s.m p.ends) ∧ (p.allRead = true) ∧ (bit p.q.d 11 = false) ∧ True) ∧
    (∃ k : CoreId, ∃ s : State,
    let c := coreAt s.m k.key
    ∃ p, ∃ rest, ∃ n,
    let acc := applyPass p s.m.free c.mx.acc
    (c.mx.passes = p :: rest) ∧ (c.mx.arb = none) ∧ (MayEnd s.m p.ends) ∧ (p.allRead = true) ∧ (bit p.q.d 11 = true) ∧ (compareRows p acc = (n, [])) ∧ True) ∧
    (∃ k : CoreId, ∃ s : State,
    let c := coreAt s.m k.key
    ∃ p, ∃ rest, ∃ n, ∃ b, ∃ bs, (c.mx.passes = p :: rest) ∧ (c.mx.arb = none) ∧ (MayEnd s.m p.ends) ∧ (p.allRead = true) ∧ (bit p.q.d 11 = true) ∧ (compareRows p (applyPass p s.m.free c.mx.acc) = (n, b :: bs)) ∧ True) ∧
    (∃ k : CoreId, ∃ s : State,
    let c := coreAt s.m k.key
    ∃ a,
    let acc := applyPass a.x s.m.free (restoreRows a.prior c.mx.acc)
    (c.mx.arb = some a) ∧ (a.abandoned = []) ∧ (MayEnd s.m a.x.ends) ∧ (a.x.allRead = true) ∧ (compareRows a.x acc = (0, [])) ∧ True) := by
  refine ⟨?_, ?_, ?_, ?_, ?_, ?_⟩
  · refine ⟨k0, mx (fun m => { m with loading := some load1 }), load1, wloadTile, ?_, ?_, ?_, ?_, trivial⟩
    · decide +kernel
    · unfold MayEnd; decide +kernel
    · decide +kernel
    · rfl
  · refine ⟨k0, mx (fun m => { m with aclr := [aclr511] }), aclr511, ?_, ?_, trivial⟩
    · decide +kernel
    · unfold MayEnd; decide +kernel
  · refine ⟨k0, mx (fun m => { m with passes := [pass1 mpassQ] }), pass1 mpassQ, [], ?_, ?_, ?_, ?_, ?_, trivial⟩
    · decide +kernel
    · decide +kernel
    · unfold MayEnd; decide +kernel
    · decide +kernel
    · decide +kernel
  · refine ⟨k0, mx (fun m => { m with passes := [arb1.x], acc := [(0, ⟨0x3F800000, 0x3F800000, 0x3F800000, 1, false⟩)] }), arb1.x, [], 0, ?_, ?_, ?_, ?_, ?_, ?_, trivial⟩
    · decide +kernel
    · decide +kernel
    · unfold MayEnd; decide +kernel
    · decide +kernel
    · decide +kernel
    · decide +kernel
  · refine ⟨k0, mx (fun m => { m with passes := [arb1.x], acc := [(0, ⟨0x3F800000, 0x40000000, 0x3F800000, 1, false⟩)] }), arb1.x, [], 0, badRow1, [], ?_, ?_, ?_, ?_, ?_, ?_, trivial⟩
    · decide +kernel
    · decide +kernel
    · unfold MayEnd; decide +kernel
    · decide +kernel
    · decide +kernel
    · decide +kernel
  · refine ⟨k0, mx (fun m => { m with arb := some arb1 }), arb1, ?_, ?_, ?_, ?_, ?_, trivial⟩
    · decide +kernel
    · decide +kernel
    · unfold MayEnd; decide +kernel
    · decide +kernel
    · decide +kernel

def aoutQ : Nat := 0x12 + 2 ^ 32 * 0x100000 + 2 ^ 64 * 8 + 2 ^ 96 * 2 + 2 ^ 112 * 510 + 2 ^ 128 * 128
def aout1 : AoutRun := newAout (qd aoutQ) .reset []
/-- The VOP with its first two rows to read. -/
def vop1 : VopRun := ⟨qd vopQ, 0, (List.range 2).map (rowIndex 0x100040 + ·), [], none⟩
/-- The VOP with the rows of its operands read, and pieces of its results to write. -/
def vopOut (ps : List Piece) : VopRun := ⟨qd vopQ, 0, [], [], some ps⟩
def withVop (v : VopRun) : State := one (fun c => { c with vop := some v })

theorem wit_ResultsAreStoredConverted :
    (∃ k : CoreId, ∃ s : State, ∃ q : QDesc, ∃ acc : Tbl AccRow, (aoutOk q.d = true) ∧ True) ∧
    (∃ k : CoreId, ∃ s : State, ∃ q : QDesc, ∃ acc : Tbl AccRow, (aoutOk q.d = true) ∧ ∃ i, (i < dB q.d 12 2) ∧ True) ∧
    (∃ k : CoreId, ∃ s : State,
    let bitsAt (code : Nat) := 4 * fmtBits code
    ∃ q : QDesc, ∃ acc : Tbl AccRow, (aoutOk q.d = true) ∧
    let code := dB q.d 8 1
    let place (i : Nat) := dB q.d 4 4 + i * dB q.d 16 4
    ∃ x, ((∀ i, i < dB q.d 12 2 → x < place i ∨ place i + bitsAt code ≤ x)) ∧ True) ∧
    (∃ k : CoreId, ∃ s : State,
    let c := coreAt s.m k.key
    ∃ a : AoutRun, ∃ turn : Nat, (c.mx.aout = some a) ∧ (turn % 4 = 3) ∧ (bit c.stopped 0 = false) ∧ (a.left ≠ []) ∧ True) ∧
    (∃ k : CoreId, ∃ s : State,
    let c := coreAt s.m k.key
    ∃ a : AoutRun, (c.mx.aout = some a) ∧ (a.left = []) ∧ (MayEnd s.m a.ends) ∧ True) ∧
    (∃ k : CoreId, ∃ s : State,
    let c := coreAt s.m k.key
    ∃ v : VopRun, ∃ turn : Nat,
    let rows := takeRows [] 16 v.left
    let x := readRows c rows
    let w : VopRun := { v with left := v.left.drop rows.length, got := v.got ++ rows.zip x.rows }
    (c.vop = some v) ∧ (v.out = none) ∧ (turn % 4 ≠ 3) ∧ (bit c.stopped 1 = false) ∧ (GoodRead x) ∧ (w.left ≠ []) ∧ True) ∧
    (∃ k : CoreId, ∃ s : State,
    let c := coreAt s.m k.key
    ∃ v : VopRun, ∃ turn : Nat,
    let rows := takeRows [] 16 v.left
    let x := readRows c rows
    let w : VopRun := { v with left := v.left.drop rows.length, got := v.got ++ rows.zip x.rows }
    (c.vop = some v) ∧ (v.out = none) ∧ (turn % 4 ≠ 3) ∧ (bit c.stopped 1 = false) ∧ (GoodRead x) ∧ (w.left = []) ∧ (vopOk v.q.d = true) ∧ True) ∧
    (∃ k : CoreId, ∃ s : State,
    let c := coreAt s.m k.key
    ∃ v : VopRun, ∃ turn : Nat,
    let rows := takeRows [] 16 v.left
    let x := readRows c rows
    let w : VopRun := { v with left := v.left.drop rows.length, got := v.got ++ rows.zip x.rows }
    (c.vop = some v) ∧ (v.out = none) ∧ (turn % 4 ≠ 3) ∧ (bit c.stopped 1 = false) ∧ (GoodRead x) ∧ (w.left = []) ∧ (vopOk v.q.d = true) ∧
    let q := v.q
    (bit q.d 9 = false) ∧ True) ∧
    (∃ k : CoreId, ∃ s : State,
    let c := coreAt s.m k.key
    ∃ v : VopRun, ∃ ps : List Piece, ∃ turn : Nat, (c.vop = some v) ∧ (v.left = []) ∧ (v.out = some ps) ∧ (ps ≠ []) ∧ (turn % 4 ≠ 3) ∧ (bit c.stopped 1 = false) ∧ True) ∧
    (∃ k : CoreId, ∃ s : State,
    let c := coreAt s.m k.key
    ∃ v : VopRun, (c.vop = some v) ∧ (v.left = []) ∧ (v.out = some []) ∧ (MayEnd s.m v.ends) ∧ True) := by
  refine ⟨?_, ?_, ?_, ?_, ?_, ?_, ?_, ?_, ?_, ?_⟩
  · refine ⟨k0, one id, qd aoutQ, [], ?_, trivial⟩
    · decide +kernel
  · refine ⟨k0, one id, qd aoutQ, [], ?_, 1, ?_, trivial⟩
    · decide +kernel
    · decide +kernel
  · refine ⟨k0, one id, qd aoutQ, [], ?_, 0x100100, ?_, trivial⟩
    · decide +kernel
    · decide +kernel
  · refine ⟨k0, mx (fun m => { m with aout := some aout1 }), aout1, 3, ?_, ?_, ?_, ?_, trivial⟩
    · decide +kernel
    · decide +kernel
    · decide +kernel
    · decide +kernel
  · refine ⟨k0, mx (fun m => { m with aout := some { aout1 with left := [], ends := 0 } }), { aout1 with left := [], ends := 0 }, ?_, ?_, ?_, trivial⟩
    · decide +kernel
    · decide +kernel
    · unfold MayEnd; decide +kernel
  · refine ⟨k0, withVop { vop1 with left := List.replicate 2 (rowIndex 0x100040) }, { vop1 with left := List.replicate 2 (rowIndex 0x100040) }, 0, ?_, ?_, ?_, ?_, ?_, ?_, trivial⟩
    · decide +kernel
    · decide +kernel
    · decide +kernel
    · decide +kernel
    · unfold GoodRead; decide +kernel
    · decide +kernel
  · refine ⟨k0, withVop vop1, vop1, 2, ?_, ?_, ?_, ?_, ?_, ?_, ?_, trivial⟩
    · decide +kernel
    · decide +kernel
    · decide +kernel
    · decide +kernel
    · unfold GoodRead; decide +kernel
    · decide +kernel
    · decide +kernel
  · refine ⟨k0, withVop vop1, vop1, 1, ?_, ?_, ?_, ?_, ?_, ?_, ?_, ?_, trivial⟩
    · decide +kernel
    · decide +kernel
    · decide +kernel
    · decide +kernel
    · unfold GoodRead; decide +kernel
    · decide +kernel
    · decide +kernel
    · decide +kernel
  · refine ⟨k0, withVop (vopOut [⟨0x26FFFF, [1]⟩]), vopOut [⟨0x26FFFF, [1]⟩], [⟨0x26FFFF, [1]⟩], 1, ?_, ?_, ?_, ?_, ?_, ?_, trivial⟩
    · decide +kernel
    · decide +kernel
    · decide +kernel
    · decide +kernel
    · decide +kernel
    · decide +kernel
  · refine ⟨k0, withVop (vopOut []), vopOut [], ?_, ?_, ?_, ?_, trivial⟩
    · decide +kernel
    · decide +kernel
    · decide +kernel
    · unfold MayEnd; decide +kernel

theorem wit_StrictModeRoundsEachProduct :
    ∃ a0 : Word, ∃ ps : List FVal, ((f32 a0).isFin = true) ∧ ((∀ p ∈ ps, p.isFin = true)) ∧ True := by
  refine ⟨0x7F7FFFFF, [.fin true 3 10, .fin false 0 0], ?_, ?_, trivial⟩
  · decide +kernel
  · decide +kernel

/-! ### Sections, routers and channels -/

theorem mem_present {s : Mach} {k : Nat} (m : Nat) (hm : m < 27648) (h : coreOfMlc s m = some k) : k ∈ presentCores s :=
  List.mem_filterMap.2 ⟨m, List.mem_range.2 hm, h⟩

/-- No die of the module works. -/
def noDies (s : Mach) : Mach := { s with dies := (List.range 144).map (fun d => (d, { Die.reset with failed := true })) }

theorem noDies_failed (s : Mach) : ∀ d, d < 144 → (dieAt (noDies s) d).failed = true := by
  show ∀ d, d < 144 → (tget Die.reset ((List.range 144).map (fun d => (d, { Die.reset with failed := true }))) d).failed = true
  decide +kernel

theorem noDies_cores (s : Mach) : ∀ k, k ∉ presentCores (noDies s) := by
  intro k h
  obtain ⟨m, _, h⟩ := List.mem_filterMap.1 h
  simp only [coreOfMlc, pcOfLc] at h
  split at h
  · rw [noDies_failed s (m / 192) (by omega)] at h
    simp at h
  · simp at h

def cmd1 : SecCmd := ⟨5, true, 1, false, ⟨0, 1⟩⟩
def round1 : Round := ⟨1, 10, 0, 0, true, true⟩
def switching (g : SwStage) : Mach :=
  { Mach.reset with sec := { Sections.reset with switch := some (cmd1, g) }, rnd := { Rnd.reset with cur := some round1 } }

/-- An image of a core that idles: MAGIC, section 1, the map fingerprint, the flag IDLE, 1,280 bytes and the CRC. -/
def idleImage (fp crc : Nat) : List Byte :=
  toBytes 4 0x5A534543 ++ toBytes 4 1 ++ toBytes 4 fp ++ List.replicate 12 0 ++ [1] ++ List.replicate 7 0 ++ toBytes 4 1280 ++
    List.replicate 24 0 ++ toBytes 4 crc ++ List.replicate 1216 0

theorem wit_SectionSwitchChecksThenGoes :
    (∃ cmd : SecCmd, ∃ s : State, (s.m.sec.switch = some (cmd, .check)) ∧ (ReachesCycle s.m 1024) ∧ ((∀ k ∈ presentCores s.m, coreReason s.m cmd k = 0)) ∧ True) ∧
    (∃ cmd : SecCmd, ∃ s : State, (s.m.sec.switch = some (cmd, .check)) ∧ (ReachesCycle s.m 1024) ∧ ((∃ k ∈ presentCores s.m, coreReason s.m cmd k ≠ 0)) ∧ True) ∧
    (∃ cmd : SecCmd, ∃ s : State, (s.m.sec.switch = some (cmd, .load)) ∧ (ReachesCycle s.m 4096) ∧ True) := by
  refine ⟨?_, ?_, ?_⟩
  · refine ⟨cmd1, st (noDies (switching .check)), ?_, ?_, ?_, trivial⟩
    · decide +kernel
    · unfold ReachesCycle; decide +kernel
    · exact fun k h => absurd h (noDies_cores _ k)
  · refine ⟨cmd1, st (switching .check), ?_, ?_, ?_, trivial⟩
    · decide +kernel
    · unfold ReachesCycle; decide +kernel
    · exact ⟨0, mem_present 0 (by decide) (by decide +kernel), by decide +kernel⟩
  · refine ⟨cmd1, st (switching .load), ?_, ?_, trivial⟩
    · decide +kernel
    · unfold ReachesCycle; decide +kernel

def sectionOn (f : Core → Core) : Mach :=
  { modCore 0 f ready with sec := { Sections.reset with cur := some (1, 2) } }

theorem wit_CoresBeginAtEntry :
    (∃ s : Mach, ∃ k : Nat, (k ∈ presentCores s) ∧
    let c := coreAt s k
    (s.sec.cur.isSome = true ∧ c.runs = true ∧ c.p.halted = false ∧ coreOff s k = false ∧ s.ls.stopped = false ∧ s.sec.budget = false) ∧ True) ∧
    (∃ s : Mach, ∃ k : Nat, (k ∈ presentCores s) ∧
    let c := coreAt s k
    (s.sec.cur.isSome = false ∨ c.runs = false ∨ c.p.halted = true ∨ coreOff s k = true) ∧ True) := by
  refine ⟨?_, ?_⟩
  · refine ⟨sectionOn (fun c => { c with runs := true, p := { c.p with entry := 0x3FFC } }), 0, ?_, ?_, trivial⟩
    · exact mem_present 0 (by decide) (by decide +kernel)
    · decide +kernel
  · refine ⟨sectionOn id, 0, ?_, ?_, trivial⟩
    · exact mem_present 0 (by decide) (by decide +kernel)
    · decide +kernel

def k17 : CoreId := ⟨0, 17⟩
/-- Core 17 of die 0, in cycle `now` of a round, with one crossbar entry of the vector network, an outbound vector channel 15 and
an inbound one 14 of the last wide row, and a filled flag that has run out; core 18 is dead when asked. -/
def routed (now : Nat) (deadNext store : Bool) (place entry : Nat) (pc : Nat := 17) : State :=
  st (modDie 0 (fun d => { d with sec := { d.sec with idx := 1 }, dead := if deadNext then 2 ^ 18 else 0 }) (modCore pc (fun c => { c with
    rt := { c.rt with
      chans := [(14, 1 + 2 ^ 16 * 23551 + 2 ^ 32 * 1 + 2 ^ 80 * 1), (15, 2 + 2 ^ 16 * 23551 + 2 ^ 32 * 1 + 2 ^ 80 * 1)]
      xbarV := BitVec.ofNat 320 (entry * 2 ^ (16 * place))
      bufs := [(63, 2 ^ 48 * 1)] }
    r := { c.r with ssBase := 23551, ssRows := if store then 1 else 0 }
    fl := { c.fl with flags := 2 ^ 63 } })
    { ready with sec := { Sections.reset with cur := some (1, 2) }, rnd := { Rnd.reset with cur := some round1 }, now := now }))
def nflit (n : Nat) : NetFlit := ⟨BitVec.ofNat 512 n, false, false⟩
/-- Flits 1 and 2 on the north and the east input. -/
def two : Inputs := ⟨none, some (nflit 2), none, none, none⟩

theorem wit_RoutersAndChannelsMoveFlits :
    (∃ k : CoreId, ∃ ch : Fin 16, ∃ b : Fin 64, ∃ phase : Fin 4, ∃ output : Fin 5, ∃ scalar : Bool, ∃ input : Fin 5, ∃ flit : NetFlit, ∃ others : Inputs, ∃ s : State,
    let c := coreAt s.m k.key
    let e := tget 0 c.rt.chans ch.val
    let n := tget 0 c.rt.outCnt ch.val
    let row := chRow e (secIdx s.m k.key) (n / chCount e) (n % chCount e)
    let turn := readTurn k.key ch.val s.m
    ((Live s.m k)) ∧ (chMode e = 2) ∧ (n < chCount e * chReps e) ∧ (4 * turn + 3 ≤ cycleOf s.m) ∧ (inStore c row = false) ∧ (underrunAt c row = false) ∧ ((readRow c (rowAddr row)).2 = []) ∧ True) ∧
    (∃ k : CoreId, ∃ ch : Fin 16, ∃ b : Fin 64, ∃ phase : Fin 4, ∃ output : Fin 5, ∃ scalar : Bool, ∃ input : Fin 5, ∃ flit : NetFlit, ∃ others : Inputs, ∃ s : State,
    let c := coreAt s.m k.key
    let e := tget 0 c.rt.chans ch.val
    let n := tget 0 c.rt.outCnt ch.val
    let row := chRow e (secIdx s.m k.key) (n / chCount e) (n % chCount e)
    let turn := readTurn k.key ch.val s.m
    ((Live s.m k)) ∧ (chMode e = 2) ∧ (n < chCount e * chReps e) ∧ (4 * turn + 3 ≤ cycleOf s.m) ∧ (inStore c row = true) ∧ True) ∧
    (∃ k : CoreId, ∃ ch : Fin 16, ∃ b : Fin 64, ∃ phase : Fin 4, ∃ output : Fin 5, ∃ scalar : Bool, ∃ input : Fin 5, ∃ flit : NetFlit, ∃ others : Inputs, ∃ s : State,
    let c := coreAt s.m k.key
    let ins := inputsOr (withFlit input.val flit others) (inputsNow s.m k.key scalar)
    let x := xbarEntry c scalar output.val phase.val
    let source (i : Nat) : Option NetFlit := if i = 0 then none else inputAt ins (i - 1)
    ∃ f, ∃ m, (((Live s.m k) ∧ cycleOf s.m % 4 = phase.val ∧ s.m.fab.cycle ≤ cycleOf s.m ∧ (∀ o, o < 5 → o ≠ output.val → xSrc1 (xbarEntry c scalar o phase.val) = 0 ∧ xAdd (xbarEntry c scalar o phase.val) = false))) ∧ (output.val ≠ 4) ∧ (facesRim s.m k.key output.val = false) ∧ (neighbour s.m k.key output.val = some m) ∧ (dead s.m m = false) ∧ (xAdd x = false) ∧ (source (xSrc1 x) = some f) ∧ True) ∧
    (∃ k : CoreId, ∃ ch : Fin 16, ∃ b : Fin 64, ∃ phase : Fin 4, ∃ output : Fin 5, ∃ scalar : Bool, ∃ input : Fin 5, ∃ flit : NetFlit, ∃ others : Inputs, ∃ s : State,
    let c := coreAt s.m k.key
    let ins := inputsOr (withFlit input.val flit others) (inputsNow s.m k.key scalar)
    let x := xbarEntry c scalar output.val phase.val
    let source (i : Nat) : Option NetFlit := if i = 0 then none else inputAt ins (i - 1)
    ∃ f, ∃ m, (((Live s.m k) ∧ cycleOf s.m % 4 = phase.val ∧ s.m.fab.cycle ≤ cycleOf s.m ∧ (∀ o, o < 5 → o ≠ output.val → xSrc1 (xbarEntry c scalar o phase.val) = 0 ∧ xAdd (xbarEntry c scalar o phase.val) = false))) ∧ (output.val ≠ 4) ∧ (facesRim s.m k.key output.val = false) ∧ (neighbour s.m k.key output.val = some m) ∧ (dead s.m m = false) ∧ ∃ g, (xAdd x = true) ∧ (deadLink s.m k.key (xSrc1 x - 1) = false) ∧ (deadLink s.m k.key (xSrc2 x - 1) = false) ∧ (source (xSrc1 x) = some f) ∧ (source (xSrc2 x) = some g) ∧ True) ∧
    (∃ k : CoreId, ∃ ch : Fin 16, ∃ b : Fin 64, ∃ phase : Fin 4, ∃ output : Fin 5, ∃ scalar : Bool, ∃ input : Fin 5, ∃ flit : NetFlit, ∃ others : Inputs, ∃ s : State,
    let c := coreAt s.m k.key
    let ins := inputsOr (withFlit input.val flit others) (inputsNow s.m k.key scalar)
    let x := xbarEntry c scalar output.val phase.val
    let source (i : Nat) : Option NetFlit := if i = 0 then none else inputAt ins (i - 1)
    ∃ f, ∃ m, (((Live s.m k) ∧ cycleOf s.m % 4 = phase.val ∧ s.m.fab.cycle ≤ cycleOf s.m ∧ (∀ o, o < 5 → o ≠ output.val → xSrc1 (xbarEntry c scalar o phase.val) = 0 ∧ xAdd (xbarEntry c scalar o phase.val) = false))) ∧ (output.val ≠ 4) ∧ (facesRim s.m k.key output.val = false) ∧ (neighbour s.m k.key output.val = some m) ∧ (dead s.m m = true) ∧ (xAdd x = false) ∧ (source (xSrc1 x) = some f) ∧ ∃ m2, (¬ ((output.val = 1 ∨ output.val = 3) ∧ phase.val % 2 = 1)) ∧ (neighbour s.m m output.val = some m2) ∧ (dead s.m m2 = false) ∧ True) ∧
    (∃ k : CoreId, ∃ ch : Fin 16, ∃ b : Fin 64, ∃ phase : Fin 4, ∃ output : Fin 5, ∃ scalar : Bool, ∃ input : Fin 5, ∃ flit : NetFlit, ∃ others : Inputs, ∃ s : State,
    let c := coreAt s.m k.key
    let ins := inputsOr (withFlit input.val flit others) (inputsNow s.m k.key scalar)
    let x := xbarEntry c scalar output.val phase.val
    let source (i : Nat) : Option NetFlit := if i = 0 then none else inputAt ins (i - 1)
    ∃ f, ∃ m, (((Live s.m k) ∧ cycleOf s.m % 4 = phase.val ∧ s.m.fab.cycle ≤ cycleOf s.m ∧ (∀ o, o < 5 → o ≠ output.val → xSrc1 (xbarEntry c scalar o phase.val) = 0 ∧ xAdd (xbarEntry c scalar o phase.val) = false))) ∧ (output.val ≠ 4) ∧ (facesRim s.m k.key output.val = false) ∧ (neighbour s.m k.key output.val = some m) ∧ (dead s.m m = true) ∧ (xAdd x = false) ∧ (source (xSrc1 x) = some f) ∧ ((output.val = 1 ∨ output.val = 3)) ∧ (phase.val % 2 = 1) ∧ True) ∧
    (∃ k : CoreId, ∃ ch : Fin 16, ∃ b : Fin 64, ∃ phase : Fin 4, ∃ output : Fin 5, ∃ scalar : Bool, ∃ input : Fin 5, ∃ flit : NetFlit, ∃ others : Inputs, ∃ s : State,
    let c := coreAt s.m k.key
    let ins := inputsOr (withFlit input.val flit others) (inputsNow s.m k.key scalar)
    let x := xbarEntry c scalar output.val phase.val
    let source (i : Nat) : Option NetFlit := if i = 0 then none else inputAt ins (i - 1)
    (((Live s.m k) ∧ cycleOf s.m % 4 = phase.val ∧ s.m.fab.cycle ≤ cycleOf s.m ∧ (∀ o, o < 5 → o ≠ output.val → xSrc1 (xbarEntry c scalar o phase.val) = 0 ∧ xAdd (xbarEntry c scalar o phase.val) = false))) ∧ (output.val ≠ 4) ∧ (xAdd x = true) ∧ (deadLink s.m k.key (xSrc1 x - 1) = false) ∧ (deadLink s.m k.key (xSrc2 x - 1) = false) ∧ ((source (xSrc1 x)).isSome ≠ (source (xSrc2 x)).isSome) ∧ True) ∧
    (∃ k : CoreId, ∃ ch : Fin 16, ∃ b : Fin 64, ∃ phase : Fin 4, ∃ output : Fin 5, ∃ scalar : Bool, ∃ input : Fin 5, ∃ flit : NetFlit, ∃ others : Inputs, ∃ s : State,
    let c := coreAt s.m k.key
    let ins := inputsOr (withFlit input.val flit others) (inputsNow s.m k.key scalar)
    let x := xbarEntry c scalar output.val phase.val
    let source (i : Nat) : Option NetFlit := if i = 0 then none else inputAt ins (i - 1)
    ∃ f : NetFlit,
    let i := xChan x
    let y := tget 0 c.rt.chans i
    let got := tget 0 c.rt.inCnt i
    let here := chRow y (secIdx s.m k.key) (got / chCount y) (got % chCount y)
    (((Live s.m k) ∧ cycleOf s.m % 4 = phase.val ∧ s.m.fab.cycle ≤ cycleOf s.m ∧ (∀ o, o < 5 → o ≠ output.val → xSrc1 (xbarEntry c scalar o phase.val) = 0 ∧ xAdd (xbarEntry c scalar o phase.val) = false))) ∧ (output.val = 4) ∧ (xAdd x = false) ∧ (source (xSrc1 x) = some f) ∧ (scalar = false) ∧ (chMode y = 1) ∧ (chScalar y = false) ∧ (got < chCount y * chReps y) ∧ (inStore c here = false) ∧ (c.rt.wait.length < 32) ∧ True) ∧
    (∃ k : CoreId, ∃ ch : Fin 16, ∃ b : Fin 64, ∃ phase : Fin 4, ∃ output : Fin 5, ∃ scalar : Bool, ∃ input : Fin 5, ∃ flit : NetFlit, ∃ others : Inputs, ∃ s : State,
    let c := coreAt s.m k.key
    let ins := inputsOr (withFlit input.val flit others) (inputsNow s.m k.key scalar)
    let x := xbarEntry c scalar output.val phase.val
    let source (i : Nat) : Option NetFlit := if i = 0 then none else inputAt ins (i - 1)
    ∃ f : NetFlit, (((Live s.m k) ∧ cycleOf s.m % 4 = phase.val ∧ s.m.fab.cycle ≤ cycleOf s.m ∧ (∀ o, o < 5 → o ≠ output.val → xSrc1 (xbarEntry c scalar o phase.val) = 0 ∧ xAdd (xbarEntry c scalar o phase.val) = false))) ∧ (output.val ≠ 4) ∧ (facesRim s.m k.key output.val = true) ∧ (xAdd x = false) ∧ (source (xSrc1 x) = some f) ∧ (scalar = false) ∧ True) ∧
    (∃ k : CoreId, ∃ ch : Fin 16, ∃ b : Fin 64, ∃ phase : Fin 4, ∃ output : Fin 5, ∃ scalar : Bool, ∃ input : Fin 5, ∃ flit : NetFlit, ∃ others : Inputs, ∃ s : State, (present s.m k.key = true) ∧ (dead s.m k.key = false) ∧ (s.m.sec.switch.isSome = true) ∧ True) ∧
    (∃ k : CoreId, ∃ ch : Fin 16, ∃ b : Fin 64, ∃ phase : Fin 4, ∃ output : Fin 5, ∃ scalar : Bool, ∃ input : Fin 5, ∃ flit : NetFlit, ∃ others : Inputs, ∃ s : State, ∃ unit : Nat, ∃ die : Nat, ∃ link : Nat, ∃ ph : Nat, ∃ key : Nat, ∃ side : Side, ∃ f : NetFlit, (rimCore s.m die side link = some key) ∧ (routesLive s.m = false) ∧ True) ∧
    (∃ k : CoreId, ∃ ch : Fin 16, ∃ b : Fin 64, ∃ phase : Fin 4, ∃ output : Fin 5, ∃ scalar : Bool, ∃ input : Fin 5, ∃ flit : NetFlit, ∃ others : Inputs, ∃ s : State, ∃ unit : Nat, ∃ die : Nat, ∃ link : Nat, ∃ ph : Nat, ∃ key : Nat, ∃ side : Side, ∃ f : NetFlit, (rimCore s.m die side link = some key) ∧ (routesLive s.m = true) ∧ (s.m.fab.flights = []) ∧ (s.m.fab.cycle ≤ cycleOf s.m) ∧ True) ∧
    (∃ k : CoreId, ∃ ch : Fin 16, ∃ b : Fin 64, ∃ phase : Fin 4, ∃ output : Fin 5, ∃ scalar : Bool, ∃ input : Fin 5, ∃ flit : NetFlit, ∃ others : Inputs, ∃ s : State,
    let c := coreAt s.m k.key
    (bit c.fl.flags b.val = true) ∧ (bufExpire (tget 0 c.rt.bufs b.val) ≠ 0) ∧ (tget 0 c.fl.setAt b.val + bufExpire (tget 0 c.rt.bufs b.val) ≤ secIdx s.m k.key) ∧ True) := by
  refine ⟨?_, ?_, ?_, ?_, ?_, ?_, ?_, ?_, ?_, ?_, ?_, ?_, ?_⟩
  · refine ⟨k17, 15, 63, 0, 0, false, 0, nflit 1, two, routed 3 false false 0 0, ?_, ?_, ?_, ?_, ?_, ?_, ?_, trivial⟩
    · unfold Live; decide +kernel
    · decide +kernel
    · decide +kernel
    · decide +kernel
    · decide +kernel
    · decide +kernel
    · decide +kernel
  · refine ⟨k17, 15, 63, 0, 0, false, 0, nflit 1, two, routed 3 false true 0 0, ?_, ?_, ?_, ?_, ?_, trivial⟩
    · unfold Live; decide +kernel
    · decide +kernel
    · decide +kernel
    · decide +kernel
    · decide +kernel
  · refine ⟨k17, 15, 63, 0, 0, false, 0, nflit 1, two, routed 0 false false 0 1, nflit 1, 1, ?_, ?_, ?_, ?_, ?_, ?_, ?_, trivial⟩
    · unfold Live; decide +kernel
    · decide +kernel
    · decide +kernel
    · decide +kernel
    · decide +kernel
    · decide +kernel
    · decide +kernel
  · refine ⟨k17, 15, 63, 1, 0, false, 0, nflit 1, two, routed 1 false false 1 0x51, nflit 1, 1, ?_, ?_, ?_, ?_, ?_, nflit 2, ?_, ?_, ?_, ?_, ?_, trivial⟩
    · unfold Live; decide +kernel
    · decide +kernel
    · decide +kernel
    · decide +kernel
    · decide +kernel
    · decide +kernel
    · decide +kernel
    · decide +kernel
    · decide +kernel
    · decide +kernel
  · refine ⟨k17, 15, 63, 0, 1, false, 0, nflit 1, two, routed 0 true false 4 2, nflit 2, 18, ?_, ?_, ?_, ?_, ?_, ?_, ?_, 19, ?_, ?_, ?_, trivial⟩
    · unfold Live; decide +kernel
    · decide +kernel
    · decide +kernel
    · decide +kernel
    · decide +kernel
    · decide +kernel
    · decide +kernel
    · decide +kernel
    · decide +kernel
    · decide +kernel
  · refine ⟨k17, 15, 63, 1, 1, false, 0, nflit 1, two, routed 1 true false 5 2, nflit 2, 18, ?_, ?_, ?_, ?_, ?_, ?_, ?_, ?_, ?_, trivial⟩
    · unfold Live; decide +kernel
    · decide +kernel
    · decide +kernel
    · decide +kernel
    · decide +kernel
    · decide +kernel
    · decide +kernel
    · decide +kernel
    · decide +kernel
  · refine ⟨k17, 15, 63, 1, 0, false, 0, nflit 1, two, routed 1 false false 1 0x59, ?_, ?_, ?_, ?_, ?_, ?_, trivial⟩
    · unfold Live; decide +kernel
    · decide +kernel
    · decide +kernel
    · decide +kernel
    · decide +kernel
    · decide +kernel
  · refine ⟨k17, 15, 63, 0, 4, false, 0, nflit 1, two, routed 0 false false 16 0xE01, nflit 1, ?_, ?_, ?_, ?_, ?_, ?_, ?_, ?_, ?_, ?_, trivial⟩
    · unfold Live; decide +kernel
    · decide +kernel
    · decide +kernel
    · decide +kernel
    · decide +kernel
    · decide +kernel
    · decide +kernel
    · decide +kernel
    · decide +kernel
    · decide +kernel
  · refine ⟨k0, 15, 63, 2, 0, false, 0, nflit 1, two, routed 2 false false 2 2 0, nflit 2, ?_, ?_, ?_, ?_, ?_, ?_, trivial⟩
    · unfold Live; decide +kernel
    · decide +kernel
    · decide +kernel
    · decide +kernel
    · decide +kernel
    · decide +kernel
  · refine ⟨k17, 15, 63, 1, 0, false, 0, nflit 1, two, st { ready with sec := { Sections.reset with switch := some (cmd1, .load) } }, ?_, ?_, ?_, trivial⟩
    · decide +kernel
    · decide +kernel
    · decide +kernel
  · refine ⟨k17, 15, 63, 1, 0, false, 0, nflit 1, two, st ready, 144, 143, 11, 3, 143 * 208 + 191, .outer, nflit 1, ?_, ?_, trivial⟩
    · decide +kernel
    · decide +kernel
  · refine ⟨k17, 15, 63, 1, 0, false, 0, nflit 1, two, routed 3 false false 0 0, 144, 143, 11, 3, 143 * 208 + 191, .outer, nflit 1, ?_, ?_, ?_, ?_, trivial⟩
    · decide +kernel
    · decide +kernel
    · decide +kernel
    · decide +kernel
  · refine ⟨k17, 15, 63, 1, 0, false, 0, nflit 1, two, routed 3 false false 0 0, ?_, ?_, ?_, trivial⟩
    · decide +kernel
    · decide +kernel
    · decide +kernel

/-! ### Stream engines -/

/-- A block of one run of 64 bytes between wide rows, or from edge memory for space 1. -/
def block (space : Nat) : OpDesc := BitVec.ofNat 256 (space * 2 ^ 62 + 0x100000 + 2 ^ 64 * 0x100400 + 2 ^ 128 * 64 + 2 ^ 160 * 1 +
  2 ^ 192 * 128 + 2 ^ 224 * 128)
def blk (no : Nat) (d : OpDesc) : Blk := ⟨no, d, 0, [], 0, [], 0, 1, 0, true⟩
def list1 (l : List Blk) : SList := ⟨qd (0x40 + 2 ^ 128 * 4), 0xFFE0, 3, 1, 0, false, l⟩
/-- Stream engine 1 of core 0 with the list, the descriptor at the end of the narrow bank and outbound channel 15. -/
def streams (l : Option SList) (w : List Await) (d : Nat) : State := one (fun c => { c with
  sp := wrBytes c.sp 0xFFE0 (toBytes 32 d), se1 := ⟨l, none, w, [], []⟩, rt := { c.rt with chans := [(15, 6)] } })
def nflitRow : Row := 2 ^ 511
/-- Stream engine 1 with flits for its outbound channel. -/
def withOut (l : List OutFlit) : State := one (fun c => { c with se1 := ⟨none, none, [], l, []⟩ })
/-- 64 bytes of a table. -/
def table : List Byte := (List.range 64).map (BitVec.ofNat 8)
def tcopyQ : Nat := 0x41 + 2 ^ 32 * 0x26FFC0 + 2 ^ 64 * 248 + 2 ^ 80 * 8

theorem wit_StreamEnginesRunBlockLists :
    (∃ k : CoreId, ∃ e : Fin 2, ∃ q : QDesc, ∃ l : SList, ∃ s : State, (s.m.sec.switch = none) ∧
    let c := coreAt s.m k.key
    let st := seAt c e.val
    (s.m.rnd.hold = false) ∧ (AtHead s.m k (2 + e.val) 0x40 q) ∧ (st.list = none) ∧ (st.tcopy = none) ∧ True) ∧
    (∃ k : CoreId, ∃ e : Fin 2, ∃ q : QDesc, ∃ l : SList, ∃ s : State, (s.m.sec.switch = none) ∧
    let c := coreAt s.m k.key
    let st := seAt c e.val
    (s.m.rnd.hold = false) ∧ (AtHead s.m k (2 + e.val) 0x41 q) ∧ (st.list = none) ∧ (st.tcopy = none) ∧ True) ∧
    (∃ k : CoreId, ∃ e : Fin 2, ∃ q : QDesc, ∃ l : SList, ∃ s : State, (s.m.sec.switch = none) ∧ (s.m.rnd.hold = true) ∧ True) ∧
    (∃ k : CoreId, ∃ e : Fin 2, ∃ q : QDesc, ∃ l : SList, ∃ s : State, (s.m.sec.switch = none) ∧
    let c := coreAt s.m k.key
    let st := seAt c e.val
    let dma (c : Core) : Core := { writePieces c.dma c with dma := [] }
    let x := readNarrow (dma c) l.next 32
    let d : OpDesc := BitVec.ofNat 256 x.1
    ((st.list = some l ∧ l.last = false ∧ l.inflight.length < 4 ∧ l.fetched < dB l.q.d 16 2 ∧ l.next + 32 ≤ 0x10000 ∧ x.2 = [])) ∧ (bkRuns d = 0) ∧ (x.1 < 2 ^ 16) ∧ (x.1 % 32 = 0) ∧ True) ∧
    (∃ k : CoreId, ∃ e : Fin 2, ∃ q : QDesc, ∃ l : SList, ∃ s : State, (s.m.sec.switch = none) ∧
    let c := coreAt s.m k.key
    let st := seAt c e.val
    let dma (c : Core) : Core := { writePieces c.dma c with dma := [] }
    let x := readNarrow (dma c) l.next 32
    let d : OpDesc := BitVec.ofNat 256 x.1
    ((st.list = some l ∧ l.last = false ∧ l.inflight.length < 4 ∧ l.fetched < dB l.q.d 16 2 ∧ l.next + 32 ≤ 0x10000 ∧ x.2 = [])) ∧ (bkRuns d ≠ 0) ∧ (blockOk d = true) ∧ (bkSpace d 0 = 0) ∧ (bkSpace d 8 = 0) ∧ True) ∧
    (∃ k : CoreId, ∃ e : Fin 2, ∃ q : QDesc, ∃ l : SList, ∃ s : State, (s.m.sec.switch = none) ∧
    let c := coreAt s.m k.key
    let st := seAt c e.val
    let dma (c : Core) : Core := { writePieces c.dma c with dma := [] }
    let x := readNarrow (dma c) l.next 32
    let d : OpDesc := BitVec.ofNat 256 x.1
    ∃ ch, ∃ w, ((st.list = some l ∧ l.last = false ∧ l.inflight.length < 4 ∧ l.fetched < dB l.q.d 16 2 ∧ l.next + 32 ≤ 0x10000 ∧ x.2 = [])) ∧ ((∀ y ∈ st.out, y.blk ≤ l.blocks)) ∧ (bkRuns d ≠ 0) ∧ (blockOk d = true) ∧ (bkSpace d 0 = 1) ∧ (bkSpace d 8 = 0) ∧ (bkTr d = false) ∧ (chanOfMode c (5 + e.val) = some (ch, w)) ∧ True) ∧
    (∃ k : CoreId, ∃ e : Fin 2, ∃ q : QDesc, ∃ l : SList, ∃ s : State, (s.m.sec.switch = none) ∧
    let c := coreAt s.m k.key
    let st := seAt c e.val
    ∃ o : OutFlit, ∃ rest : List OutFlit, (st.out = o :: rest) ∧ True) ∧
    (∃ k : CoreId, ∃ e : Fin 2, ∃ q : QDesc, ∃ l : SList, ∃ s : State, (s.m.sec.switch = none) ∧
    let c := coreAt s.m k.key
    let st := seAt c e.val
    ∃ r : Row, ∃ rest : List Await, ∃ bk : Blk, (st.list = some l) ∧ (st.await = ⟨some bk.no, 1⟩ :: rest) ∧ (l.inflight.find? (fun y => y.no == bk.no) = some bk) ∧ (bkSpace bk.desc 0 = 0) ∧ True) ∧
    (∃ k : CoreId, ∃ e : Fin 2, ∃ q : QDesc, ∃ l : SList, ∃ s : State, (s.m.sec.switch = none) ∧
    let c := coreAt s.m k.key
    let st := seAt c e.val
    ∃ r : Row, ∃ poison : Bool, ∃ rej : Bool, ∃ rest : List Await, (st.await = ⟨none, 1⟩ :: rest) ∧ True) ∧
    (∃ k : CoreId, ∃ e : Fin 2, ∃ q : QDesc, ∃ l : SList, ∃ s : State, (s.m.sec.switch = none) ∧
    let c := coreAt s.m k.key
    let st := seAt c e.val
    ∃ bk : Blk, (st.list = some l) ∧ (nextDone l = some bk) ∧ (st.wait = []) ∧ (bkAct bk.desc = 0) ∧ (l.last = false) ∧ True) ∧
    (∃ k : CoreId, ∃ e : Fin 2, ∃ q : QDesc, ∃ l : SList, ∃ s : State, (s.m.sec.switch = none) ∧
    let c := coreAt s.m k.key
    let st := seAt c e.val
    ∃ bk : Blk, (st.list = some l) ∧ (nextDone l = some bk) ∧ (st.wait = []) ∧ (bkAct bk.desc = 0) ∧ (l.last = true) ∧ (l.inflight = [bk]) ∧ True) ∧
    (∃ k : CoreId, ∃ e : Fin 2, ∃ q : QDesc, ∃ l : SList, ∃ s : State, (s.m.sec.switch = none) ∧
    let c := coreAt s.m k.key
    let st := seAt c e.val
    ∃ r : TcopyRun, (st.tcopy = some r) ∧ (st.wait = []) ∧ (r.ends ≤ tick s.m) ∧ True) ∧
    (∃ k : CoreId, ∃ e : Fin 2, ∃ q : QDesc, ∃ l : SList, ∃ s : State, (s.m.sec.switch = none) ∧
    let c := coreAt s.m k.key
    ∃ bs : List Byte, ∃ w : Core, (tcopyOk q.d = true) ∧ (bs.length = 8 * dB q.d 10 2) ∧ (w = writePieces (pieces (dB q.d 4 4) bs) c) ∧ True) ∧
    (∃ k : CoreId, ∃ e : Fin 2, ∃ q : QDesc, ∃ l : SList, ∃ s : State, (s.m.sec.switch = none) ∧
    let c := coreAt s.m k.key
    ∃ bs : List Byte, ∃ w : Core, (tcopyOk q.d = true) ∧ (bs.length = 8 * dB q.d 10 2) ∧ (w = writePieces (pieces (dB q.d 4 4) bs) c) ∧ ∃ a, ((a < dB q.d 4 4 ∨ dB q.d 4 4 + 8 * dB q.d 10 2 ≤ a)) ∧ True) := by
  refine ⟨?_, ?_, ?_, ?_, ?_, ?_, ?_, ?_, ?_, ?_, ?_, ?_, ?_, ?_⟩
  · refine ⟨k0, 1, qd 0x40, list1 [], one (queued0 3 0x40), ?_, ?_, ?_, ?_, ?_, trivial⟩
    · decide +kernel
    · decide +kernel
    · unfold AtHead; decide +kernel
    · decide +kernel
    · decide +kernel
  · refine ⟨k0, 1, qd 0x41, list1 [], one (queued0 3 0x41), ?_, ?_, ?_, ?_, ?_, trivial⟩
    · decide +kernel
    · decide +kernel
    · unfold AtHead; decide +kernel
    · decide +kernel
    · decide +kernel
  · refine ⟨k0, 1, qd 0, list1 [], st { (one id).m with rnd := { Rnd.reset with hold := true } }, ?_, ?_, trivial⟩
    · decide +kernel
    · decide +kernel
  · refine ⟨k0, 1, qd 0, list1 [], streams (some (list1 [])) [] 0xFFE0, ?_, ?_, ?_, ?_, ?_, trivial⟩
    · decide +kernel
    · decide +kernel
    · decide +kernel
    · decide +kernel
    · decide +kernel
  · refine ⟨k0, 1, qd 0, list1 [], streams (some (list1 [])) [] (block 0).toNat, ?_, ?_, ?_, ?_, ?_, ?_, trivial⟩
    · decide +kernel
    · decide +kernel
    · decide +kernel
    · decide +kernel
    · decide +kernel
    · decide +kernel
  · refine ⟨k0, 1, qd 0, list1 [], streams (some (list1 [])) [] (block 1).toNat, ?_, 15, 6, ?_, ?_, ?_, ?_, ?_, ?_, ?_, ?_, trivial⟩
    · decide +kernel
    · decide +kernel
    · decide +kernel
    · decide +kernel
    · decide +kernel
    · decide +kernel
    · decide +kernel
    · decide +kernel
    · decide +kernel
  · refine ⟨k0, 1, qd 0, list1 [], withOut [⟨7, nflitRow, 2⟩], ?_, ⟨7, nflitRow, 2⟩, [], ?_, trivial⟩
    · decide +kernel
    · decide +kernel
  · refine ⟨k0, 1, qd 0, list1 [blk 7 (block 0)], streams (some (list1 [blk 7 (block 0)])) [⟨some 7, 1⟩] 0, ?_, 2 ^ 511, [], blk 7 (block 0), ?_, ?_, ?_, ?_, trivial⟩
    · decide +kernel
    · decide +kernel
    · decide +kernel
    · decide +kernel
    · decide +kernel
  · refine ⟨k0, 1, qd 0, list1 [], streams none [⟨none, 1⟩] 0, ?_, 1, true, false, [], ?_, trivial⟩
    · decide +kernel
    · decide +kernel
  · refine ⟨k0, 1, qd 0, list1 [blk 7 (block 1)], streams (some (list1 [blk 7 (block 1)])) [] 0, ?_, blk 7 (block 1), ?_, ?_, ?_, ?_, ?_, trivial⟩
    · decide +kernel
    · decide +kernel
    · decide +kernel
    · decide +kernel
    · decide +kernel
    · decide +kernel
  · refine ⟨k0, 1, qd 0, { list1 [blk 7 (block 1)] with last := true }, streams (some { list1 [blk 7 (block 1)] with last := true }) [] 0, ?_, blk 7 (block 1), ?_, ?_, ?_, ?_, ?_, ?_, trivial⟩
    · decide +kernel
    · decide +kernel
    · decide +kernel
    · decide +kernel
    · decide +kernel
    · decide +kernel
    · decide +kernel
  · refine ⟨k0, 1, qd tcopyQ, list1 [], one (fun c => { c with se1 := ⟨none, some ⟨qd tcopyQ, 0⟩, [], [], []⟩ }), ?_, ⟨qd tcopyQ, 0⟩, ?_, ?_, ?_, trivial⟩
    · decide +kernel
    · decide +kernel
    · decide +kernel
    · decide +kernel
  · refine ⟨k0, 1, qd tcopyQ, list1 [], one id, ?_, table, writePieces (pieces 0x26FFC0 table) .reset, ?_, ?_, ?_, trivial⟩
    · decide +kernel
    · decide +kernel
    · rfl
    · decide +kernel
  · refine ⟨k0, 1, qd tcopyQ, list1 [], one id, ?_, table, writePieces (pieces 0x26FFC0 table) .reset, ?_, ?_, ?_, 0x26FFBF, ?_, trivial⟩
    · decide +kernel
    · decide +kernel
    · rfl
    · decide +kernel
    · decide +kernel

theorem wit_AnswerRowsReachTheirDestination :
    ∃ k : CoreId, ∃ e : Fin 2, ∃ l : SList, ∃ b : Blk, ∃ r : Row, ∃ rest : List Await, ∃ s : State,
    let c := coreAt s.m k.key
    let st := seAt c e.val
    let n := bkSrcBytes b.desc
    let base := bkAddr b.desc 8 + b.run * bkDs b.desc
    (st.list = some l) ∧ (st.await = ⟨some b.no, 1⟩ :: rest) ∧ (l.inflight.find? (fun y => y.no == b.no) = some b) ∧ (bkSpace b.desc 0 = 1) ∧ (bkSpace b.desc 8 = 0) ∧ (bkConv b.desc = false) ∧ (bkTrk b.desc = false) ∧ (1 ≤ n) ∧ (base % 64 + n ≤ 64) ∧ (b.src = []) ∧ (b.conv = 0) ∧ (b.dst = []) ∧ (b.wrote = 0) ∧ (s.m.sec.switch = none) ∧ True := by
  refine ⟨k0, 1, list1 [blk 7 (block 1)], blk 7 (block 1), 2 ^ 511, [], streams (some (list1 [blk 7 (block 1)])) [⟨some 7, 1⟩] 0, ?_, ?_, ?_, ?_, ?_, ?_, ?_, ?_, ?_, ?_, ?_, ?_, ?_, ?_, trivial⟩
  · decide +kernel
  · decide +kernel
  · decide +kernel
  · decide +kernel
  · decide +kernel
  · decide +kernel
  · decide +kernel
  · decide +kernel
  · decide +kernel
  · decide +kernel
  · decide +kernel
  · decide +kernel
  · decide +kernel
  · decide +kernel

/-- Core 0 with a row of the router that waits, one of a stream engine, and a narrow write of the DMA. -/
def waiting (c : Core) : Core := { c with
  rt := { c.rt with wait := [⟨15, ⟨0x100040, [1, 2, 3]⟩, 0, false⟩] }, se0 := { c.se0 with wait := [⟨16, ⟨0x100080, [4]⟩, 0, false⟩] }
  dma := [⟨0xFFF0, [9]⟩] }

theorem wit_TheWSlotServesPrefixes :
    (∃ k : CoreId, ∃ turn : Nat, ∃ s : Mach, (dead s k.key = false) ∧ True) ∧
    (∃ k : CoreId, ∃ turn : Nat, ∃ s : Mach, (dead s k.key = false) ∧ ∃ j, (j ≠ k.key) ∧ True) := by
  refine ⟨?_, ?_⟩
  · refine ⟨k0, 5, (one waiting).m, ?_, trivial⟩
    · decide +kernel
  · refine ⟨k0, 5, (one waiting).m, ?_, 1, ?_, trivial⟩
    · decide +kernel
    · decide +kernel

/-- A WLOAD with rows in two banks to read, and a pass over the empty tile with one activation row. -/
def loadLeft : Load := { load1 with tile := ⟨[rowIndex 0x100000, rowIndex 0x100040], []⟩ }
def passLeft : Pass := { pass1 mpassQ with acts := ⟨[rowIndex 0x26FFC0], []⟩ }

theorem wit_MAndVSlotsAreAllotted :
    (∃ k : CoreId, ∃ turn : Nat, ∃ s : Mach,
    let m := coreAt (mSlot k.key turn s) k.key
    (turn % 4 ≠ 0) ∧ (bit m.stopped 0 = false) ∧ True) ∧
    (∃ k : CoreId, ∃ turn : Nat, ∃ s : Mach,
    let m := coreAt (mSlot k.key turn s) k.key
    (turn % 4 ≠ 1) ∧ (turn % 4 ≠ 2) ∧ (bit m.stopped 0 = false) ∧ True) ∧
    (∃ k : CoreId, ∃ turn : Nat, ∃ s : Mach,
    let m := coreAt (mSlot k.key turn s) k.key
    (turn % 4 ≠ 3) ∧ (bit m.stopped 0 = false) ∧ True) ∧
    (∃ k : CoreId, ∃ turn : Nat, ∃ s : Mach,
    let c := coreAt s k.key
    let v := coreAt (vSlot k.key turn s) k.key
    (turn % 4 ≠ 3) ∧ (bit c.stopped 1 = true ∨ bit v.stopped 1 = false) ∧ True) ∧
    (∃ k : CoreId, ∃ turn : Nat, ∃ s : Mach, (turn % 4 = 3) ∧ True) ∧
    (∃ k : CoreId, ∃ turn : Nat, ∃ s : Mach,
    let c := coreAt s k.key
    ∃ l : Load,
    let x := readRows c (takeRows [] 16 l.tile.left)
    (turn % 4 = 1 ∨ turn % 4 = 2) ∧ (bit c.stopped 0 = false) ∧ (c.mx.loading = some l) ∧ (l.tile.left ≠ []) ∧ (GoodRead x) ∧ True) ∧
    (∃ k : CoreId, ∃ turn : Nat, ∃ s : Mach,
    let c := coreAt s k.key
    ∃ p, ∃ rest,
    let x := readRows c (takeRows [] (rowsPerTurn p) p.acts.left)
    (turn % 4 = 0) ∧ (bit c.stopped 0 = false) ∧ (c.mx.arb = none) ∧ (c.mx.passes = p :: rest) ∧ (p.acts.left ≠ []) ∧ (p.start ≤ tick s) ∧ ((tick s - p.start) / 16 % passPeriods p.tile = 0) ∧ (0 < rowsPerTurn p) ∧ (GoodRead x) ∧ True) := by
  refine ⟨?_, ?_, ?_, ?_, ?_, ?_, ?_⟩
  · refine ⟨k0, 5, (one waiting).m, ?_, ?_, trivial⟩
    · decide +kernel
    · decide +kernel
  · refine ⟨k0, 3, (one waiting).m, ?_, ?_, ?_, trivial⟩
    · decide +kernel
    · decide +kernel
    · decide +kernel
  · refine ⟨k0, 5, (one waiting).m, ?_, ?_, trivial⟩
    · decide +kernel
    · decide +kernel
  · refine ⟨k0, 5, (one waiting).m, ?_, ?_, trivial⟩
    · decide +kernel
    · decide +kernel
  · refine ⟨k0, 7, (one waiting).m, ?_, trivial⟩
    · decide +kernel
  · refine ⟨k0, 5, (mx (fun m => { m with loading := some loadLeft })).m, loadLeft, ?_, ?_, ?_, ?_, ?_, trivial⟩
    · decide +kernel
    · decide +kernel
    · decide +kernel
    · decide +kernel
    · unfold GoodRead; decide +kernel
  · refine ⟨k0, 8, (mx (fun m => { m with passes := [passLeft] })).m, passLeft, [], ?_, ?_, ?_, ?_, ?_, ?_, ?_, ?_, ?_, trivial⟩
    · decide +kernel
    · decide +kernel
    · decide +kernel
    · decide +kernel
    · decide +kernel
    · decide +kernel
    · decide +kernel
    · decide +kernel
    · unfold GoodRead; decide +kernel

theorem wit_TheNarrowBankHasTwoSlots :
    (∃ k : CoreId, ∃ cycle : Nat, ∃ s : Mach, (cycle % 2 = 0) ∧ True) ∧
    (∃ k : CoreId, ∃ cycle : Nat, ∃ s : Mach,
    let c := coreAt s k.key
    (cycle % 2 = 0) ∧ ∃ a, (a < 0x10000) ∧ ((∀ w ∈ c.rt.wait ++ c.se0.wait ++ c.se1.wait, 0x10000 ≤ w.piece.addr)) ∧ (c.vop = none) ∧ (c.mx.aout = none) ∧ True) ∧
    (∃ k : CoreId, ∃ cycle : Nat, ∃ s : Mach,
    let c := coreAt s k.key
    (cycle % 2 = 1) ∧ (c.dma ≠ []) ∧ (dead s k.key = false) ∧ True) ∧
    (∃ k : CoreId, ∃ cycle : Nat, ∃ s : Mach, (cycle % 2 = 1) ∧ (dead s k.key = true) ∧ True) := by
  refine ⟨?_, ?_, ?_, ?_⟩
  · refine ⟨k0, 8, (one waiting).m, ?_, trivial⟩
    · decide +kernel
  · refine ⟨k0, 8, (one waiting).m, ?_, 0xFFFF, ?_, ?_, ?_, ?_, trivial⟩
    · decide +kernel
    · decide +kernel
    · decide +kernel
    · decide +kernel
    · decide +kernel
  · refine ⟨k0, 9, (one waiting).m, ?_, ?_, ?_, trivial⟩
    · decide +kernel
    · decide +kernel
    · decide +kernel
  · refine ⟨k0, 9, modDie 0 (fun d => { d with dead := 1 }) (one waiting).m, ?_, ?_, trivial⟩
    · decide +kernel
    · decide +kernel

/-! ### Edge memory -/

theorem goodCw_clean {s : Mach} (h1 : s.edge.poison = []) (h2 : s.edge.ck = []) (cw : Nat) : GoodCw s cw := by
  simp [GoodCw, h1, h2, tget]

/-- Stack `i` as `f` makes it. -/
def stack (i : Nat) (f : Stack → Stack) : State := st (modStk i f ready)

/-- A request of a kind for two runs of 40 bytes at the end of stack 31, answered on link 15 and phase 3. -/
def request (kind : Nat) : Row := BitVec.ofNat 512 (kind + 2 ^ 16 * 0x3F + 2 ^ 64 * (2 ^ 41 - 128) + 2 ^ 128 * 40 + 2 ^ 160 * 2 + 2 ^ 192 * 64)

/-- The same for one run of 40 bytes. -/
def one1 (kind : Nat) : Row := BitVec.ofNat 512 (kind + 2 ^ 16 * 0x3F + 2 ^ 64 * (2 ^ 41 - 128) + 2 ^ 128 * 40 + 2 ^ 160 * 1 + 2 ^ 192 * 64)

theorem wit_StackReadsQueueTheirAnswers :
    (∃ st : Fin 32, ∃ link : Fin 16, ∃ phase : Fin 4, ∃ f : Row, ∃ s : State, (stackLink s.m st.val link.val phase.val = true) ∧ (rqKind f = 1) ∧ (Admitted s.m st f) ∧ ((∀ r ∈ (runsOf f), ∀ cw, r.1 / 32 ≤ cw → 32 * cw < r.1 + r.2 → GoodCw s.m cw)) ∧ True) ∧
    (∃ st : Fin 32, ∃ link : Fin 16, ∃ phase : Fin 4, ∃ f : Row, ∃ s : State, (stackLink s.m st.val link.val phase.val = true) ∧
    let key := 4 * rqRetLink f + rqRetPhase f
    let k := stkAt s.m st.val
    (rqKind f = 1) ∧ (Admitted s.m st f) ∧ ((∀ r ∈ (runsOf f), ∀ cw, r.1 / 32 ≤ cw → 32 * cw < r.1 + r.2 → GoodCw s.m cw)) ∧ (rqNrun f = 1) ∧ (0 < rqRunlen f) ∧ (rqRunlen f ≤ 64) ∧ (rqEa f % 256 + rqRunlen f ≤ 256) ∧ (Unhurried s.m st.val 0 (rqEa f)) ∧ ((tget [] k.answers key).length < 64) ∧ True) ∧
    (∃ st : Fin 32, ∃ link : Fin 16, ∃ phase : Fin 4, ∃ f : Row, ∃ s : State, (stackLink s.m st.val link.val phase.val = true) ∧
    let k := stkAt s.m st.val
    let n := 512 / fmtBits (rqElem f)
    let runs := (List.range n).map (fun i => (rqEa f + i * rqStride f, 64))
    (rqKind f = 3) ∧ (stackOf (rqEa f) = st.val) ∧ (k.failed = false) ∧ (k.selfref = false) ∧ (s.m.edge.keepEn = false) ∧ ((∀ r ∈ runs, ∀ cw, r.1 / 32 ≤ cw → 32 * cw < r.1 + r.2 → GoodCw s.m cw)) ∧ True) ∧
    (∃ st : Fin 32, ∃ link : Fin 16, ∃ phase : Fin 4, ∃ f : Row, ∃ s : State, (stackLink s.m st.val link.val phase.val = true) ∧
    let key := 4 * rqRetLink f + rqRetPhase f
    let k := stkAt s.m st.val
    let rows := rejectRows 4 (ceilDiv (rqRunlen f) 64 * rqNrun f)
    (rqKind f = 1) ∧ (stackOf (rqEa f) = st.val) ∧ (s.m.edge.keepEn = false) ∧ (k.failed = true) ∧ (NoneWait k key) ∧ ((tget [] k.answers key).length + rows.length ≤ 64) ∧ True) := by
  refine ⟨?_, ?_, ?_, ?_⟩
  · refine ⟨31, 11, 2, request 1, st ready, ?_, ?_, ?_, ?_, trivial⟩
    · decide +kernel
    · decide +kernel
    · unfold Admitted; decide +kernel
    · exact fun r _ cw _ _ => goodCw_clean rfl rfl cw
  · refine ⟨31, 11, 2, one1 1, st ready, ?_, ?_, ?_, ?_, ?_, ?_, ?_, ?_, ?_, ?_, trivial⟩
    · decide +kernel
    · decide +kernel
    · unfold Admitted; decide +kernel
    · exact fun r _ cw _ _ => goodCw_clean rfl rfl cw
    · decide +kernel
    · decide +kernel
    · decide +kernel
    · decide +kernel
    · unfold Unhurried; decide +kernel
    · decide +kernel
  · refine ⟨31, 11, 2, BitVec.ofNat 512 (3 + 2 ^ 16 * 0x3F + 2 ^ 64 * (2 ^ 41 - 4096) + 2 ^ 192 * 64), st ready, ?_, ?_, ?_, ?_, ?_, ?_, ?_, trivial⟩
    · decide +kernel
    · decide +kernel
    · decide +kernel
    · decide +kernel
    · decide +kernel
    · decide +kernel
    · exact fun r _ cw _ _ => goodCw_clean rfl rfl cw
  · refine ⟨31, 11, 2, request 1, stack 31 (fun k => { k with failed := true }), ?_, ?_, ?_, ?_, ?_, ?_, ?_, trivial⟩
    · decide +kernel
    · decide +kernel
    · decide +kernel
    · decide +kernel
    · decide +kernel
    · unfold NoneWait; decide +kernel
    · decide +kernel

def wreq : WReq := ⟨2 ^ 41 - 256, 128, 2, 128, 1, 64, 0, false, 63⟩

theorem wit_StackWritesStoreTheirRows :
    (∃ st : Fin 32, ∃ link : Fin 16, ∃ phase : Fin 4, ∃ f : Row, ∃ row : Row, ∃ s : State, (stackLink s.m st.val link.val phase.val = true) ∧ (rqKind f = 2) ∧ (Admitted s.m st f) ∧ True) ∧
    (∃ st : Fin 32, ∃ link : Fin 16, ∃ phase : Fin 4, ∃ f : Row, ∃ row : Row, ∃ s : State, (stackLink s.m st.val link.val phase.val = true) ∧
    let key := 4 * link.val + phase.val
    ∃ w : WReq, ∃ rest : List WReq,
    let n := min 64 (w.runlen - w.pos)
    let ea := w.ea + w.run * w.stride + w.pos
    (tget [] (stkAt s.m st.val).writes key = w :: rest) ∧ (w.rejected = false) ∧ (Undisturbed s.m (stackOf ea)) ∧ (stackOf ea = stackOf (ea + n - 1)) ∧ (ea % 32 = 0) ∧ (n % 32 = 0) ∧ (0 < n) ∧ True) := by
  refine ⟨?_, ?_⟩
  · refine ⟨31, 11, 2, request 2, 0, st ready, ?_, ?_, ?_, trivial⟩
    · decide +kernel
    · decide +kernel
    · unfold Admitted; decide +kernel
  · refine ⟨31, 11, 2, request 2, 2 ^ 511, stack 31 (fun k => { k with writes := [(46, [wreq])] }), ?_, wreq, [], ?_, ?_, ?_, ?_, ?_, ?_, ?_, trivial⟩
    · decide +kernel
    · decide +kernel
    · decide +kernel
    · unfold Undisturbed; decide +kernel
    · decide +kernel
    · decide +kernel
    · decide +kernel
    · decide +kernel

def ansRow : AnsRow := ⟨2 ^ 511, true, true⟩

theorem wit_StackQueuesDrainInOrder :
    (∃ st : Fin 32, ∃ link : Fin 16, ∃ phase : Fin 4, ∃ q : Fin 40, ∃ r : AnsRow, ∃ rest : List AnsRow, ∃ s : State,
    let key := 4 * link.val + phase.val
    let k := stkAt s.m st.val
    let buf := tget [] k.answers key
    (stackLink s.m st.val link.val phase.val = true) ∧ (buf = r :: rest) ∧ (k.work = []) ∧ (NoneWait k key) ∧ True) ∧
    (∃ st : Fin 32, ∃ link : Fin 16, ∃ phase : Fin 4, ∃ q : Fin 40, ∃ r : AnsRow, ∃ rest : List AnsRow, ∃ s : State,
    let key := 4 * link.val + phase.val
    let k := stkAt s.m st.val
    let buf := tget [] k.answers key
    (stackLink s.m st.val link.val phase.val = true) ∧ (tget [] k.replies key = r :: rest) ∧ (buf = []) ∧ (k.work = []) ∧ (NoneWait k key) ∧ True) ∧
    (∃ st : Fin 32, ∃ link : Fin 16, ∃ phase : Fin 4, ∃ q : Fin 40, ∃ r : AnsRow, ∃ rest : List AnsRow, ∃ s : State,
    let key := 4 * link.val + phase.val
    let k := stkAt s.m st.val
    let buf := tget [] k.answers key
    (stackLink s.m st.val link.val phase.val = true) ∧ (tget [] k.replies key = r :: rest) ∧ (buf ≠ []) ∧ (buf.length < 64) ∧ True) ∧
    (∃ st : Fin 32, ∃ link : Fin 16, ∃ phase : Fin 4, ∃ q : Fin 40, ∃ r : AnsRow, ∃ rest : List AnsRow, ∃ s : State,
    let k := stkAt s.m st.val
    (k.failed = false) ∧ (k.selfref = false) ∧ True) ∧
    (∃ st : Fin 32, ∃ link : Fin 16, ∃ phase : Fin 4, ∃ q : Fin 40, ∃ r : AnsRow, ∃ rest : List AnsRow, ∃ s : State,
    let k := stkAt s.m st.val
    let c := slotClass s.m.edge (k.slot + 1).toNat
    ((∀ w ∈ k.work, w.cls ≠ c ∧ (c = 2 → w.cls ≠ 3))) ∧ True) := by
  refine ⟨?_, ?_, ?_, ?_, ?_⟩
  · refine ⟨31, 11, 2, 39, ansRow, [], stack 31 (fun k => { k with answers := [(46, [ansRow])] }), ?_, ?_, ?_, ?_, trivial⟩
    · decide +kernel
    · decide +kernel
    · decide +kernel
    · unfold NoneWait; decide +kernel
  · refine ⟨31, 11, 2, 39, ansRow, [], stack 31 (fun k => { k with replies := [(46, [ansRow])] }), ?_, ?_, ?_, ?_, ?_, trivial⟩
    · decide +kernel
    · decide +kernel
    · decide +kernel
    · decide +kernel
    · unfold NoneWait; decide +kernel
  · refine ⟨31, 11, 2, 39, ansRow, [], stack 31 (fun k => { k with answers := [(46, [ansRow])], replies := [(46, [ansRow])] }), ?_, ?_, ?_, ?_, trivial⟩
    · decide +kernel
    · decide +kernel
    · decide +kernel
    · decide +kernel
  · refine ⟨31, 11, 2, 39, ansRow, [], st ready, ?_, ?_, trivial⟩
    · decide +kernel
    · decide +kernel
  · refine ⟨31, 11, 2, 39, ansRow, [], stack 31 (fun k => { k with work := [⟨1, [(2 ^ 41 - 64, 64)], 0, none, false, []⟩] }), ?_, trivial⟩
    · decide +kernel

/-- An activity that holds every token it needs. -/
def holds (code : Byte) (subject part : Nat) (ts : List Nat) : Mach :=
  { ready with mnt := { Maint.reset with acts := [⟨1, code, subject, part, ts, ts.length, none⟩] } }

theorem wit_LiveRetrainingOfStacks :
    (∃ st : Fin 32, ∃ temp : Byte, ∃ s : State,
    let k := stkAt s.m st.val
    ∃ q, ∃ qs, (k.trained = true) ∧ (k.failed = false) ∧ (k.selfref = false) ∧ (12 < tempDiff temp k.trainT) ∧ (retrainIdle s.m st.val = true) ∧ (untrained k = q :: qs) ∧ (q < 40) ∧ (FreeToken s.m (144 + 4 * st.val + pcGroup q)) ∧ True) ∧
    (∃ st : Fin 32, ∃ temp : Byte, ∃ s : State,
    let k := stkAt s.m st.val
    ∃ a, (k.retQ ≠ 0x3F) ∧ (findActivity s.m 1 st.val k.retQ.toNat = some a) ∧ True) ∧
    (∃ st : Fin 32, ∃ temp : Byte, ∃ s : State,
    let k := stkAt s.m st.val
    (k.retRetry = true) ∧ (k.retLog = []) ∧ (k.retLogQ.toNat < 40) ∧ (groupDeg k (pcGroup k.retLogQ.toNat) = false) ∧ (FreeToken s.m (144 + 4 * st.val + pcGroup k.retLogQ.toNat)) ∧ True) ∧
    (∃ st : Fin 32, ∃ temp : Byte, ∃ s : State,
    let k := stkAt s.m st.val
    ∃ u, ∃ us, (k.retLog = u :: us) ∧ (k.retQ = 0x3F) ∧ ((∀ i, i < 8 → GoodCw s.m (st.val * 2 ^ 31 + u * 8 + i))) ∧ True) := by
  refine ⟨?_, ?_, ?_, ?_⟩
  · refine ⟨31, 33, stack 31 (fun k => { k with trained := true, trainT := 20, retSet := 2 ^ 39 - 1 }), 39, [], ?_, ?_, ?_, ?_, ?_, ?_, ?_, ?_, trivial⟩
    · decide +kernel
    · decide +kernel
    · decide +kernel
    · decide +kernel
    · decide +kernel
    · decide +kernel
    · decide +kernel
    · unfold FreeToken; decide +kernel
  · refine ⟨31, 33, st (modStk 31 (fun k => { k with retQ := 39 }) (holds 1 31 39 [271])), ⟨1, 1, 31, 39, [271], 1, none⟩, ?_, ?_, trivial⟩
    · decide +kernel
    · decide +kernel
  · refine ⟨31, 33, stack 31 (fun k => { k with retRetry := true, retLogQ := 39 }), ?_, ?_, ?_, ?_, ?_, trivial⟩
    · decide +kernel
    · decide +kernel
    · decide +kernel
    · decide +kernel
    · unfold FreeToken; decide +kernel
  · refine ⟨31, 33, stack 31 (fun k => { k with retLog := [2 ^ 28 - 1] }), 2 ^ 28 - 1, [], ?_, ?_, ?_, trivial⟩
    · decide +kernel
    · decide +kernel
    · exact fun i _ => goodCw_clean rfl rfl _

/-- Stack 31 with one wrong check symbol in its last code word. -/
def badCw : State := st (modStk 31 (fun k => { k with scrubWb := [2 ^ 36 - 1], dieLost := 2 ^ 19 })
  { ready with edge := { Edge.reset with ck := [(8 * (2 ^ 36 - 1) + 7, 5)] } })

theorem wit_EdgeScrubAndLostDies :
    (∃ st : Fin 32, ∃ d : Fin 20, ∃ s : State,
    let k := stkAt s.m st.val
    (s.m.edge.scrubEn = true) ∧ (k.failed = false) ∧ (k.selfref = false) ∧ (FreeToken s.m (144 + 4 * st.val + k.scrubAt % 4)) ∧ (k.scrubAt + 1 < 2 ^ 28) ∧ ((∀ i, i < 8 → GoodCw s.m (st.val * 2 ^ 31 + k.scrubAt * 8 + i))) ∧ True) ∧
    (∃ st : Fin 32, ∃ d : Fin 20, ∃ s : State,
    let k := stkAt s.m st.val
    ∃ cw, ∃ rest, ∃ data, ∃ p, ∃ pat, ∃ si, (k.scrubWb = cw :: rest) ∧ (stackOf (32 * cw) = st.val) ∧ (k.failed = false) ∧ (k.selfref = false) ∧ (FreeToken s.m (144 + 4 * st.val + groupOf (32 * cw))) ∧ (edgeDecode s.m cw = (data, .corrected p pat si)) ∧ (data.length = 32) ∧ True) ∧
    (∃ st : Fin 32, ∃ d : Fin 20, ∃ s : State,
    let k := stkAt s.m st.val
    ∃ a, (findActivity s.m 3 st.val d.val = some a) ∧ (a.ready = true) ∧ (bit k.dieLost d.val = false) ∧ True) := by
  refine ⟨?_, ?_, ?_⟩
  · refine ⟨31, 0, stack 31 (fun k => { k with scrubAt := 2 ^ 28 - 2 }), ?_, ?_, ?_, ?_, ?_, ?_, trivial⟩
    · decide +kernel
    · decide +kernel
    · decide +kernel
    · unfold FreeToken; decide +kernel
    · decide +kernel
    · exact fun i _ => goodCw_clean rfl rfl _
  · refine ⟨31, 0, badCw, 2 ^ 36 - 1, [], List.replicate 32 0, 9, 0x05000000, true, ?_, ?_, ?_, ?_, ?_, ?_, ?_, trivial⟩
    · decide +kernel
    · decide +kernel
    · decide +kernel
    · decide +kernel
    · unfold FreeToken; decide +kernel
    · decide +kernel
    · decide +kernel
  · refine ⟨31, 19, st (modStk 31 (fun k => { k with dieLost := 2 ^ 10 }) (holds 3 31 19 [274, 275])), ⟨1, 3, 31, 19, [274, 275], 2, none⟩, ?_, ?_, ?_, trivial⟩
    · decide +kernel
    · decide +kernel
    · decide +kernel

/-! ### The training engines -/

def ulist : Desc := desc 0x12 [(8, 2 ^ 48 - 1), (16, 2 ^ 41 - 128)]
/-- A job with ENDSTEP of 8 FP32 elements, whose operands and record lie in stack 0. -/
def job1 : List Byte := [1, 0, 0, 0] ++ toBytes 4 8 ++ toBytes 8 256 ++ toBytes 8 512 ++ toBytes 8 768 ++ toBytes 8 1024 ++
  toBytes 8 1280 ++ toBytes 8 1536 ++ List.replicate 72 0
def running1 : State := st (modUnit 0 (fun u => { u with list := some ⟨⟨15, 77⟩, 1, 2048, 0, job1, 0⟩ }) ready)

theorem wit_UpdateListsRunTheirJobs :
    (∃ s : State, ∃ q : Fin 16, ∃ d : Desc, ∃ c : RunCmd, ∃ m : BitVec 48,
    let ea := cB d 16 8
    (Starts s.m q.val d c 0x12 [(8, 6), (16, 8)]) ∧ (cmdRound s.m (verOf s.m q.val c) d 8 = some m) ∧ (roundStarted s.m m = false) ∧ (ea < 2 ^ 41) ∧ (ea % 32 = 0) ∧ (stackOf (ea + 127) = stackOf ea) ∧ (((unitAt s.m (stackOf ea)).list = none ∨ ∀ w ∈ (unitAt s.m (stackOf ea)).waiting, w.queued = false)) ∧ True) ∧
    (∃ s : State, ∃ u : Fin 32, ∃ l : RunList,
    let j := l.desc
    let x := jobRun j 0 (unitAt s.m u.val).dig s.m
    ((unitAt s.m u.val).list = some l) ∧ (j ≠ []) ∧ (l.status = 0) ∧ (stackOut s.m u.val = false) ∧ (x.1.status = 0) ∧ ((unitAt s.m u.val).stop = true ∨ l.njob ≤ l.job + 1) ∧ ((unitAt s.m u.val).waiting = []) ∧ True) ∧
    (∃ s : State, ∃ v : Word, (Served s.m 0x104010) ∧ True) := by
  refine ⟨?_, ?_, ?_⟩
  · refine ⟨st (withCmd ulist ready), 15, ulist, cmdOf ulist, 2 ^ 48 - 1, ?_, ?_, ?_, ?_, ?_, ?_, ?_, trivial⟩
    · unfold Starts; decide +kernel
    · decide +kernel
    · decide +kernel
    · decide +kernel
    · decide +kernel
    · decide +kernel
    · decide +kernel
  · refine ⟨running1, 0, ⟨⟨15, 77⟩, 1, 2048, 0, job1, 0⟩, ?_, ?_, ?_, ?_, ?_, ?_, ?_, trivial⟩
    · decide +kernel
    · decide +kernel
    · decide +kernel
    · decide +kernel
    · decide +kernel
    · decide +kernel
    · decide +kernel
  · refine ⟨running1, 0xFFFFFFFF, ?_, trivial⟩
    · exact served_of (by decide +kernel)

/-- A group of four modules; the step of the last exchange is 16. -/
def group (vs : List (BitVec 64)) (own : List OwnDigest) : State := st { ready with trn := { Train.reset with
  peers := [(0, 0x10005), (31, 0x10006), (62, 0x10007)], digIvm1 := 255, own := own
  kept := vs.zipIdx.map (fun e => ⟨16, BitVec.ofNat 16 (5 + e.2), e.1⟩) } }

theorem wit_WeightDigestsAreExchanged :
    (∃ s : State, ∃ p : Fin 64, ∃ m : BitVec 192,
    let step := fld m 32 32
    let sender := fld m 128 16
    let base := nextExchange s.m s.m.trn.step.toNat
    (s.m.trn.own = []) ∧ (sender ∈ digPeers s.m) ∧ (step.toNat = base % 2 ^ 32 ∨ step.toNat = (base + digInterval s.m) % 2 ^ 32) ∧ ((∀ x ∈ s.m.trn.kept, ¬ (x.step = step ∧ x.sender = sender))) ∧ True) ∧
    (∃ s : State, ∃ o : OwnDigest,
    let peers := digPeers s.m
    let got := s.m.trn.kept.filter (fun x => x.step == o.step && peers.contains x.sender)
    (s.m.trn.own = [o]) ∧ (1 ≤ o.rounds) ∧ (s.m.trn.digTimeout.toNat ≤ o.rounds) ∧ (got.length = peers.length) ∧ ((∀ x ∈ got, x.value = o.value)) ∧ True) ∧
    (∃ s : State, ∃ o : OwnDigest,
    let peers := digPeers s.m
    let got := s.m.trn.kept.filter (fun x => x.step == o.step && peers.contains x.sender)
    (s.m.trn.own = [o]) ∧ (1 ≤ o.rounds) ∧ (s.m.trn.digTimeout.toNat ≤ o.rounds) ∧ ∃ v, (v ≠ o.value) ∧ (v ∈ got.map (·.value)) ∧ (peers.length + 1 < 2 * (got.filter (fun x => x.value == v)).length) ∧ (2 * (1 + (got.filter (fun x => x.value == o.value)).length) ≤ peers.length + 1) ∧ True) := by
  refine ⟨?_, ?_, ?_⟩
  · refine ⟨group [] [], 63, BitVec.ofNat 192 (2 ^ 32 * nextExchange (group [] []).m 0 + 2 ^ 64 * 9 + 2 ^ 128 * 7), ?_, ?_, ?_, ?_, trivial⟩
    · decide +kernel
    · decide +kernel
    · decide +kernel
    · decide +kernel
  · refine ⟨group [9, 9, 9] [⟨16, 9, 16⟩], ⟨16, 9, 16⟩, ?_, ?_, ?_, ?_, ?_, trivial⟩
    · decide +kernel
    · decide +kernel
    · decide +kernel
    · decide +kernel
    · decide +kernel
  · refine ⟨group [4, 4, 4] [⟨16, 9, 16⟩], ⟨16, 9, 16⟩, ?_, ?_, ?_, 4, ?_, ?_, ?_, ?_, trivial⟩
    · decide +kernel
    · decide +kernel
    · decide +kernel
    · decide +kernel
    · decide +kernel
    · decide +kernel
    · decide +kernel

/-! ### Optical ports -/

/-- Port 63 as `f` makes it. -/
def port (f : Port → Port) : State := st (modPort 63 f { ready with now := 5000 })

/-- An active port with all its lanes. -/
def active (f : Port → Port) : State := port (fun x => f { x with state := 6, active := 0xFFFF })

theorem wit_LinksComeUpAndGoDown :
    (∃ pf : Fin 64, ∃ s : State,
    let p := pf.val
    let x := portAt s.m p
    (darkPort s.m p = false) ∧ (x.state = 1 ∨ x.state = 7) ∧ True) ∧
    (∃ pf : Fin 64, ∃ s : State,
    let p := pf.val
    let x := portAt s.m p
    ∃ l : BitVec 16, (x.state = 2) ∧ (laneCount (x.failed ||| l) ≤ 4) ∧ True) ∧
    (∃ pf : Fin 64, ∃ s : State,
    let p := pf.val
    let x := portAt s.m p
    (x.state = 3) ∧ (x.gen2Fails < 2) ∧ True) ∧
    (∃ pf : Fin 64, ∃ s : State,
    let p := pf.val
    let x := portAt s.m p
    (x.state = 3) ∧ (2 ≤ x.gen2Fails) ∧ True) ∧
    (∃ pf : Fin 64, ∃ s : State,
    let p := pf.val
    let x := portAt s.m p
    ∃ l : BitVec 16, (x.state = 5) ∧ (12 ≤ laneCount (~~~ (x.failed ||| l))) ∧ True) ∧
    (∃ pf : Fin 64, ∃ s : State,
    let p := pf.val
    let x := portAt s.m p
    ∃ l : BitVec 16, (x.state = 5) ∧ (laneCount (~~~ (x.failed ||| l)) < 12) ∧ (x.gen2Fails = 0) ∧ True) ∧
    (∃ pf : Fin 64, ∃ s : State,
    let p := pf.val
    let x := portAt s.m p
    ∃ l : BitVec 16, (x.state = 5) ∧ (laneCount (~~~ (x.failed ||| l)) < 12) ∧ (1 ≤ x.gen2Fails) ∧ True) ∧
    (∃ pf : Fin 64, ∃ s : State,
    let p := pf.val
    let x := portAt s.m p
    ∃ m : BitVec 256, (x.state = 4) ∧ (idSerial m ≠ s.m.start.serial) ∧ (x.identRx = false) ∧ (x.partner = false) ∧ (x.trips.length < 8) ∧ ((ptnFree s.m).isSome) ∧ True) ∧
    (∃ pf : Fin 64, ∃ s : State,
    let p := pf.val
    let x := portAt s.m p
    (x.state = 4) ∧ (x.identAck = false) ∧ True) ∧
    (∃ pf : Fin 64, ∃ s : State,
    let p := pf.val
    let x := portAt s.m p
    (x.state = 4 ∨ x.state = 6) ∧ True) ∧
    (∃ pf : Fin 64, ∃ s : State,
    let p := pf.val
    let x := portAt s.m p
    ∃ m : BitVec 128, ∃ t0 : Nat, (x.state = 6) ∧ (x.echoOut = some (fld m 8 8, t0)) ∧ (t0 ≤ (fld m 64 64).toNat) ∧ ((fld m 64 64).toNat ≤ s.m.now) ∧ (x.trips.length = 7) ∧ True) ∧
    (∃ pf : Fin 64, ∃ s : State,
    let p := pf.val
    let x := portAt s.m p
    ∃ m : BitVec 128, (x.state = 6) ∧ (x.echoOut = none) ∧ True) ∧
    (∃ pf : Fin 64, ∃ s : State,
    let p := pf.val
    let x := portAt s.m p
    ∃ l : BitVec 16, (2 ≤ x.state.toNat) ∧ (x.state.toNat ≤ 6) ∧ (laneCount (x.active &&& ~~~ l) < 12) ∧ True) ∧
    (∃ pf : Fin 64, ∃ s : State,
    let p := pf.val
    let x := portAt s.m p
    (x.retry = true) ∧ (x.state = 7) ∧ (x.partner = false) ∧ (s.m.keep.sealing = none) ∧ (s.m.keep.rest = none) ∧ (s.m.keep.serve = none) ∧ True) ∧
    (∃ pf : Fin 64, ∃ s : State,
    let p := pf.val
    let x := portAt s.m p
    ∃ v : Word, (Served s.m (0x108100 + 0x40 * p)) ∧ (portLicensed s.m p = true) ∧ (bit v 11 = false) ∧ (x.en = bit v 0) ∧ True) ∧
    (∃ pf : Fin 64, ∃ s : State,
    let p := pf.val
    let x := portAt s.m p
    ∃ v : Word, (Served s.m (0x108100 + 0x40 * p)) ∧ (portLicensed s.m p = true) ∧ (bit v 11 = false) ∧ (x.en = false) ∧ (bit v 0 = true) ∧ (s.m.pwr.voptFail.contains p = false) ∧ True) ∧
    (∃ pf : Fin 64, ∃ s : State,
    let p := pf.val
    let x := portAt s.m p
    ∃ v : Word, (Served s.m (0x108100 + 0x40 * p)) ∧ (portLicensed s.m p = true) ∧ (bit v 11 = false) ∧ (x.en = true) ∧ (bit v 0 = false) ∧ (x.state = 6) ∧ True) := by
  refine ⟨?_, ?_, ?_, ?_, ?_, ?_, ?_, ?_, ?_, ?_, ?_, ?_, ?_, ?_, ?_, ?_, ?_⟩
  · refine ⟨63, port (fun x => { x with state := 7 }), ?_, ?_, trivial⟩
    · decide +kernel
    · decide +kernel
  · refine ⟨63, port (fun x => { x with state := 2, failed := 0x8001 }), 0x0101, ?_, ?_, trivial⟩
    · decide +kernel
    · decide +kernel
  · refine ⟨63, port (fun x => { x with state := 3, gen2Fails := 1 }), ?_, ?_, trivial⟩
    · decide +kernel
    · decide +kernel
  · refine ⟨63, port (fun x => { x with state := 3, gen2Fails := 2 }), ?_, ?_, trivial⟩
    · decide +kernel
    · decide +kernel
  · refine ⟨63, port (fun x => { x with state := 5, failed := 0x8001 }), 0x0101, ?_, ?_, trivial⟩
    · decide +kernel
    · decide +kernel
  · refine ⟨63, port (fun x => { x with state := 5, failed := 0x8001 }), 0x0106, ?_, ?_, ?_, trivial⟩
    · decide +kernel
    · decide +kernel
    · decide +kernel
  · refine ⟨63, port (fun x => { x with state := 5, failed := 0x8001, gen2Fails := 1 }), 0x0106, ?_, ?_, ?_, trivial⟩
    · decide +kernel
    · decide +kernel
    · decide +kernel
  · refine ⟨63, port (fun x => { x with state := 4, trips := List.replicate 7 9 }), BitVec.ofNat 256 (2 ^ 32 * 5), ?_, ?_, ?_, ?_, ?_, ?_, trivial⟩
    · decide +kernel
    · decide +kernel
    · decide +kernel
    · decide +kernel
    · decide +kernel
    · decide +kernel
  · refine ⟨63, port (fun x => { x with state := 4 }), ?_, ?_, trivial⟩
    · decide +kernel
    · decide +kernel
  · refine ⟨63, port (fun x => { x with state := 4, echoSeq := 255 }), ?_, trivial⟩
    · decide +kernel
  · refine ⟨63, port (fun x => { x with state := 6, echoOut := some (255, 5000), trips := List.replicate 7 9 }), BitVec.ofNat 128 (2 ^ 8 * 255 + 2 ^ 64 * 5000), 5000, ?_, ?_, ?_, ?_, ?_, trivial⟩
    · decide +kernel
    · decide +kernel
    · decide +kernel
    · decide +kernel
    · decide +kernel
  · refine ⟨63, port (fun x => { x with state := 6 }), 0, ?_, ?_, trivial⟩
    · decide +kernel
    · decide +kernel
  · refine ⟨63, active id, 0x001F, ?_, ?_, ?_, trivial⟩
    · decide +kernel
    · decide +kernel
    · decide +kernel
  · refine ⟨63, port (fun x => { x with state := 7, retry := true }), ?_, ?_, ?_, ?_, ?_, ?_, trivial⟩
    · decide +kernel
    · decide +kernel
    · decide +kernel
    · decide +kernel
    · decide +kernel
    · decide +kernel
  · refine ⟨63, port (fun x => { x with state := 7, retry := true }), 1, ?_, ?_, ?_, ?_, trivial⟩
    · exact served_of (by decide +kernel)
    · decide +kernel
    · decide +kernel
    · decide +kernel
  · refine ⟨63, port (fun x => { x with en := false, retry := true }), 1, ?_, ?_, ?_, ?_, ?_, ?_, trivial⟩
    · exact served_of (by decide +kernel)
    · decide +kernel
    · decide +kernel
    · decide +kernel
    · decide +kernel
    · decide +kernel
  · refine ⟨63, active id, 0, ?_, ?_, ?_, ?_, ?_, ?_, trivial⟩
    · exact served_of (by decide +kernel)
    · decide +kernel
    · decide +kernel
    · decide +kernel
    · decide +kernel
    · decide +kernel

def sent (n : BitVec 12) : SentFlit := ⟨n, [.fack 0], 14⟩
/-- A flit of a KIND with ACK 0xFFF, a CRC, and a message of type t in its body. -/
def flit (kind seq : Nat) (body : List Byte) : Flit :=
  let bs := toBytes 2 (kind * 4096 + seq) ++ toBytes 2 0x4FFF ++ toBytes 4 0 ++ body ++ List.replicate (244 - body.length) 0
  BitVec.ofNat 2048 (ofBytes (bs ++ bytesOf (crc32c bs)))
def clean0 : FecSeen := ⟨0, false, [], []⟩

theorem wit_FlitsCarryTheMessages :
    (∃ x : Port, ∃ a : List SentFlit, ∃ b : List SentFlit, ∃ f : SentFlit, (x.buf = a ++ f :: b) ∧ (x.resend = none) ∧ ((∀ g ∈ a, g.seq ≠ f.seq)) ∧ True) ∧
    (∃ x : Port, ∃ ln : Fin 16, ∃ n : Nat, (n ≤ 15) ∧ (bit x.fecLast ln.val = false) ∧ True) ∧
    (∃ x : Port, ∃ ln : Fin 16, ∃ n : Nat, (15 < n) ∧ True) ∧
    (∃ p : Nat, ∃ ln : Nat, ∃ f : Flit, ∃ m : Mach,
    let l := tget LaneTx.empty (portAt m p).laneTx ln
    let n := l.count + 2048
    (n < 5140) ∧ True) ∧
    (∃ p : Nat, ∃ ln : Nat, ∃ f : Flit, ∃ m : Mach,
    let l := tget LaneTx.empty (portAt m p).laneTx ln
    let n := l.count + 2048
    (5140 ≤ n) ∧ True) ∧
    (∃ bits : Nat, ∃ i : Nat, (i < 514) ∧ True) ∧
    (∃ pf : Fin 64, ∃ s : State,
    let p := pf.val
    let x := portAt s.m p
    (x.state = 6) ∧ ∃ ln : Fin 16, (bit x.active ln.val = true) ∧ (laneBusy x ln.val = false) ∧ (x.urgent ≠ []) ∧ True) ∧
    (∃ pf : Fin 64, ∃ s : State,
    let p := pf.val
    let x := portAt s.m p
    (x.state = 6) ∧ ∃ ln : Fin 16, (bit x.active ln.val = true) ∧ (laneBusy x ln.val = false) ∧ (x.urgent = []) ∧ ∃ i, ∃ f, (x.resend = some i) ∧ (x.buf[i]? = some f) ∧ (f.resends + 1 < 16) ∧ True) ∧
    (∃ pf : Fin 64, ∃ s : State,
    let p := pf.val
    let x := portAt s.m p
    (x.state = 6) ∧ ∃ ln : Fin 16, (bit x.active ln.val = true) ∧ (laneBusy x ln.val = false) ∧ (x.urgent = []) ∧ (x.resend = none) ∧ (x.mgmt ≠ []) ∧ True) ∧
    (∃ pf : Fin 64, ∃ s : State,
    let p := pf.val
    let x := portAt s.m p
    (x.state = 6) ∧ ∃ ln : Fin 16, (bit x.active ln.val = true) ∧ (laneBusy x ln.val = false) ∧ (x.urgent = []) ∧ (x.resend = none) ∧ (x.mgmt = []) ∧ (x.txq ≠ []) ∧ (x.buf.length < 2048) ∧ True) ∧
    (∃ pf : Fin 64, ∃ s : State,
    let p := pf.val
    let x := portAt s.m p
    (x.state = 6) ∧ ∃ f : Flit, ∃ fec : FecSeen, ((takeFec fec x).1 = true) ∧ True) ∧
    (∃ pf : Fin 64, ∃ s : State,
    let p := pf.val
    let x := portAt s.m p
    (x.state = 6) ∧ ∃ f : Flit, ∃ fec : FecSeen,
    let bs := toBytes 256 f.toNat
    let ks : BitVec 16 := BitVec.ofNat 16 (numAt bs 0 2)
    let body := (bs.drop 8).take 244
    ((takeFec fec x).1 = false) ∧ ((crc32c (bs.take 252)).toNat = numAt bs 252 4) ∧ (fld ks 12 4 = 0) ∧ (numAt body 0 1 = 0) ∧ True) ∧
    (∃ pf : Fin 64, ∃ s : State,
    let p := pf.val
    let x := portAt s.m p
    (x.state = 6) ∧ ∃ f : Flit, ∃ fec : FecSeen,
    let bs := toBytes 256 f.toNat
    let ks : BitVec 16 := BitVec.ofNat 16 (numAt bs 0 2)
    let body := (bs.drop 8).take 244
    ((takeFec fec x).1 = false) ∧ ((crc32c (bs.take 252)).toNat = numAt bs 252 4) ∧ (fld ks 12 4 = 0) ∧ (numAt body 0 1 ≠ 0) ∧ True) ∧
    (∃ pf : Fin 64, ∃ s : State,
    let p := pf.val
    let x := portAt s.m p
    (x.state = 6) ∧ ∃ f : Flit, ∃ fec : FecSeen,
    let bs := toBytes 256 f.toNat
    let ks : BitVec 16 := BitVec.ofNat 16 (numAt bs 0 2)
    ((takeFec fec x).1 = false) ∧ ((crc32c (bs.take 252)).toNat = numAt bs 252 4) ∧ (4 ≤ (fld ks 12 4).toNat) ∧ True) ∧
    (∃ pf : Fin 64, ∃ s : State,
    let p := pf.val
    let x := portAt s.m p
    (x.state = 6) ∧ ∃ f : Flit, ∃ fec : FecSeen,
    let bs := toBytes 256 f.toNat
    let ks : BitVec 16 := BitVec.ofNat 16 (numAt bs 0 2)
    let body := (bs.drop 8).take 244
    ((takeFec fec x).1 = false) ∧ ((crc32c (bs.take 252)).toNat = numAt bs 252 4) ∧ ∃ n, (fld ks 12 4 = 1) ∧ (fld ks 0 12 = x.rxSeq) ∧ (numAt body 0 1 ≠ 0) ∧ (msgLength body = some n) ∧ (msgKind (numAt body 0 1) = 1) ∧ (numAt (body.drop n) 0 1 = 0) ∧ True) ∧
    (∃ pf : Fin 64, ∃ s : State,
    let p := pf.val
    let x := portAt s.m p
    (x.state = 6) ∧ True) ∧
    (∃ pf : Fin 64, ∃ s : State,
    let p := pf.val
    let x := portAt s.m p
    (x.state = 6) ∧ (x.buf ≠ []) ∧ True) := by
  refine ⟨?_, ?_, ?_, ?_, ?_, ?_, ?_, ?_, ?_, ?_, ?_, ?_, ?_, ?_, ?_, ?_, ?_⟩
  · refine ⟨{ Port.reset with buf := [sent 1, sent 0xFFF, sent 0] }, [sent 1], [sent 0], sent 0xFFF, ?_, ?_, ?_, trivial⟩
    · decide +kernel
    · decide +kernel
    · decide +kernel
  · refine ⟨Port.reset, 15, 15, ?_, ?_, trivial⟩
    · decide +kernel
    · decide +kernel
  · refine ⟨Port.reset, 15, 16, ?_, trivial⟩
    · decide +kernel
  · refine ⟨63, 15, 2 ^ 2047, ready, ?_, trivial⟩
    · decide +kernel
  · refine ⟨63, 15, 2 ^ 2047, modPort 63 (fun x => { x with laneTx := [(15, ⟨4096, 1⟩)] }) ready, ?_, trivial⟩
    · decide +kernel
  · refine ⟨2 ^ 5139, 513, ?_, trivial⟩
    · decide +kernel
  · refine ⟨63, active (fun x => { x with urgent := [.stretch 0] }), ?_, 15, ?_, ?_, ?_, trivial⟩
    · decide +kernel
    · decide +kernel
    · decide +kernel
    · decide +kernel
  · refine ⟨63, active (fun x => { x with buf := [sent 5], resend := some 0 }), ?_, 15, ?_, ?_, ?_, 0, sent 5, ?_, ?_, ?_, trivial⟩
    · decide +kernel
    · decide +kernel
    · decide +kernel
    · decide +kernel
    · decide +kernel
    · decide +kernel
    · decide +kernel
  · refine ⟨63, active (fun x => { x with mgmt := [.echo 0] }), ?_, 15, ?_, ?_, ?_, ?_, ?_, trivial⟩
    · decide +kernel
    · decide +kernel
    · decide +kernel
    · decide +kernel
    · decide +kernel
    · decide +kernel
  · refine ⟨63, active (fun x => { x with txq := [.fack 0], txSeq := 0xFFF, buf := List.replicate 3 (sent 5) }), ?_, 15, ?_, ?_, ?_, ?_, ?_, ?_, ?_, trivial⟩
    · decide +kernel
    · decide +kernel
    · decide +kernel
    · decide +kernel
    · decide +kernel
    · decide +kernel
    · decide +kernel
    · decide +kernel
  · refine ⟨63, active (fun x => { x with fecLast := 1 }), ?_, flit 0 0 [], ⟨0, true, [], []⟩, ?_, trivial⟩
    · decide +kernel
    · decide +kernel
  · refine ⟨63, active id, ?_, flit 0 0 [], clean0, ?_, ?_, ?_, ?_, trivial⟩
    · decide +kernel
    · decide +kernel
    · decide +kernel
    · decide +kernel
    · decide +kernel
  · refine ⟨63, active id, ?_, flit 0 0 [0x45], clean0, ?_, ?_, ?_, ?_, trivial⟩
    · decide +kernel
    · decide +kernel
    · decide +kernel
    · decide +kernel
    · decide +kernel
  · refine ⟨63, active id, ?_, flit 15 0 [], clean0, ?_, ?_, ?_, trivial⟩
    · decide +kernel
    · decide +kernel
    · decide +kernel
    · decide +kernel
  · refine ⟨63, active (fun x => { x with rxSeq := 0xFFF }), ?_, flit 1 0xFFF ([0x45] ++ List.replicate 15 1), clean0, ?_, ?_, 16, ?_, ?_, ?_, ?_, ?_, ?_, trivial⟩
    · decide +kernel
    · decide +kernel
    · decide +kernel
    · decide +kernel
    · decide +kernel
    · decide +kernel
    · decide +kernel
    · decide +kernel
    · decide +kernel
  · refine ⟨63, active id, ?_, trivial⟩
    · decide +kernel
  · refine ⟨63, active (fun x => { x with buf := [sent 5] }), ?_, ?_, trivial⟩
    · decide +kernel
    · decide +kernel

theorem wit_LanesRetrainLive :
    (∃ pf : Fin 64, ∃ ln : Fin 16, ∃ s : State,
    let p := pf.val
    let x := portAt s.m p
    let tok := tokLane p (ln.val / 4)
    ∃ v : Word, (Served s.m (0x108100 + 0x40 * p)) ∧ (portLicensed s.m p = true) ∧ (x.en = bit v 0) ∧ ((fld v 12 4).toNat = ln.val) ∧ ((x.state = 6 ∧ x.rt = none ∧ x.rtHold = false ∧ x.rtQueue = [] ∧ bit x.active ln.val = true ∧ tokenFree s.m.mnt.acts tok = true)) ∧ True) ∧
    (∃ pf : Fin 64, ∃ ln : Fin 16, ∃ s : State,
    let p := pf.val
    let x := portAt s.m p
    let tok := tokLane p (ln.val / 4)
    (x.livert = true) ∧ ((x.state = 6 ∧ x.rt = none ∧ x.rtHold = false ∧ x.rtQueue = [] ∧ bit x.active ln.val = true ∧ tokenFree s.m.mnt.acts tok = true)) ∧ True) ∧
    (∃ pf : Fin 64, ∃ ln : Fin 16, ∃ s : State,
    let p := pf.val
    let x := portAt s.m p
    ∃ c : Byte, ((c.toInt - x.traint.toInt).natAbs ≤ 12) ∧ True) ∧
    (∃ pf : Fin 64, ∃ ln : Fin 16, ∃ s : State,
    let p := pf.val
    ∃ l : Nat, ∃ m : Mach, (bit (portAt m p).rtSeen l = true) ∧ True) ∧
    (∃ pf : Fin 64, ∃ ln : Fin 16, ∃ s : State,
    let p := pf.val
    ∃ l : Nat, ∃ m : Mach, (bit (portAt m p).rtSeen l = false) ∧ True) ∧
    (∃ pf : Fin 64, ∃ ln : Fin 16, ∃ s : State,
    let p := pf.val
    let x := portAt s.m p
    ∃ m : BitVec 64, (x.state = 6) ∧ (x.rt = none) ∧ True) ∧
    (∃ pf : Fin 64, ∃ ln : Fin 16, ∃ s : State,
    let p := pf.val
    let x := portAt s.m p
    ∃ m : BitVec 64, (x.rt = some (rtLane m, .requested)) ∧ True) ∧
    (∃ pf : Fin 64, ∃ ln : Fin 16, ∃ s : State,
    let p := pf.val
    let x := portAt s.m p
    ∃ a, (x.rt = some (ln.val, .granted)) ∧ (x.rtPeerWait = none) ∧ (findActivity s.m 4 p ln.val = some a) ∧ True) ∧
    (∃ pf : Fin 64, ∃ ln : Fin 16, ∃ s : State,
    let p := pf.val
    let x := portAt s.m p
    ∃ m : BitVec 64, (x.rtPeer = some (rtLane m)) ∧ True) ∧
    (∃ pf : Fin 64, ∃ ln : Fin 16, ∃ s : State,
    let p := pf.val
    let x := portAt s.m p
    (x.rt = none) ∧ (x.rtPeer = some ln.val) ∧ (bit x.failed ln.val = false) ∧ True) := by
  refine ⟨?_, ?_, ?_, ?_, ?_, ?_, ?_, ?_, ?_, ?_⟩
  · refine ⟨63, 15, active id, 0xF001, ?_, ?_, ?_, ?_, ?_, trivial⟩
    · exact served_of (by decide +kernel)
    · decide +kernel
    · decide +kernel
    · decide +kernel
    · decide +kernel
  · refine ⟨63, 15, active id, ?_, ?_, trivial⟩
    · decide +kernel
    · decide +kernel
  · refine ⟨63, 15, active (fun x => { x with traint := 20 }), 32, ?_, trivial⟩
    · decide +kernel
  · refine ⟨63, 15, active id, 14, modPort 63 (fun x => { x with rtSeen := 0x4000 }) ready, ?_, trivial⟩
    · decide +kernel
  · refine ⟨63, 15, active id, 14, modPort 63 (fun x => { x with rtSeen := 0x8000 }) ready, ?_, trivial⟩
    · decide +kernel
  · refine ⟨63, 15, active id, 0xF35, ?_, ?_, trivial⟩
    · decide +kernel
    · decide +kernel
  · refine ⟨63, 15, active (fun x => { x with rt := some (15, .requested) }), 0xF36, ?_, trivial⟩
    · decide +kernel
  · refine ⟨63, 15, st (modPort 63 (fun x => { x with state := 6, rt := some (15, .granted) }) (holds 4 63 15 [527])), ⟨1, 4, 63, 15, [527], 1, none⟩, ?_, ?_, ?_, trivial⟩
    · decide +kernel
    · decide +kernel
    · decide +kernel
  · refine ⟨63, 15, active (fun x => { x with rtPeer := some 15 }), 0xF37, ?_, trivial⟩
    · decide +kernel
  · refine ⟨63, 15, active (fun x => { x with rtPeer := some 15 }), ?_, ?_, ?_, trivial⟩
    · decide +kernel
    · decide +kernel
    · decide +kernel

/-! ### Remote access -/

def win1023 : Nat × BitVec 256 := (1023, 0x0D + 2 ^ 16 * 9 + 2 ^ 32 * 7 + 2 ^ 64 * (2 ^ 36 - 4096) + 2 ^ 128 * 4096)

/-- Module 3 in round 12, whose active port 63 has module 9 as its partner; window 1023 gives that partner the last 4,096
bytes of stack 0, for reading and writing. -/
def linked (f : Mach → Mach) : State :=
  st (f (modPort 63 (fun x => { x with state := 6, active := 0xFFFF, partner := true, pid := 9, pser := 5 })
    { ready with
      ctl := { ready.ctl with assigned := true, id := 3 }
      epoch := 6
      rnd := { ready.rnd with cur := some ⟨12, 10, 0, 4000, false, false⟩ }
      rmt := { ready.rmt with ptn := [(0, ⟨5, 9, true, true, true, false, false, 63, 7, 0⟩)], win := [win1023] } }))

def rdRec : ReadMsg := ⟨0, 0, 64, 0x55, some 10, none⟩
def rdOpen : RemRead := ⟨63, 15, 3, 9, 1023, 4032, 64, 64, 1, 0, 27647, [rdRec], 0, false⟩
def reading : State := linked (modRmt (fun x => { x with reads := [rdOpen] }))
/-- A remote request of a kind for n bytes of window 1023 of module 9. -/
def remote (kind n : Nat) : Row :=
  BitVec.ofNat 512 (kind + 2 ^ 16 * 0x3F + 2 ^ 64 * (9 * 2 ^ 46 + 1023 * 2 ^ 36 + 4096 - n) + 2 ^ 128 * n + 2 ^ 160 + 2 ^ 192 * n)

theorem wit_RemoteAccessReachesItsWindow :
    (∃ pf : Fin 64, ∃ s : State,
    let p := pf.val
    ∃ ln : Fin 16, ∃ ph : Fin 4, ∃ f : Row,
    let ra := dB f 8 8 % 2 ^ 62
    let n := rqRunlen f
    let rid := s.m.rmt.nextRid
    let msg : Msg := .rread { src := s.m.ctl.id, dst := raTarget ra, window := BitVec.ofNat 16 (raWindow ra)
                              offset := BitVec.ofNat 64 (raOffset ra), sepoch := s.m.epoch
                              stag := BitVec.ofNat 32 (dB f 4 4), round := (roundNow s.m).setWidth 16, hops := 0
                              len8 := BitVec.ofNat 8 (n / 8), rid := rid }
    (portLink s.m p ln.val ph.val = true) ∧ (dB f 0 1 = 0x11) ∧ (refuseBlock s.m p f = 0) ∧ (rqNrun f = 1) ∧ (1 ≤ n) ∧ (n ≤ 128) ∧ (s.m.rmt.reads = []) ∧ (Reaches s.m p msg) ∧ True) ∧
    (∃ pf : Fin 64, ∃ s : State,
    let p := pf.val
    ∃ ln : Fin 16, ∃ ph : Fin 4, ∃ f : Row, ∃ row : Row,
    let ra := dB f 8 8 % 2 ^ 62
    let msg : Msg := .rwrite { src := s.m.ctl.id, dst := raTarget ra, window := BitVec.ofNat 16 (raWindow ra)
                               offset := BitVec.ofNat 64 (raOffset ra), sepoch := s.m.epoch
                               stag := BitVec.ofNat 32 (dB f 4 4), round := (roundNow s.m).setWidth 16, hops := 0
                               data := toBytes 64 row.toNat }
    (portLink s.m p ln.val ph.val = true) ∧ (portLink s.m p (dB f 2 1 % 16) (dB f 2 1 / 16 % 4) = true) ∧ (dB f 0 1 = 0x12) ∧ (refuseBlock s.m p f = 0) ∧ (rqNrun f = 1) ∧ (rqRunlen f = 64) ∧ (Reaches s.m p msg) ∧ True) ∧
    (∃ pf : Fin 64, ∃ s : State,
    let p := pf.val
    ∃ ln : Fin 16, ∃ ph : Fin 4, ∃ f : Row, ∃ row : Row, (portLink s.m p ln.val ph.val = false) ∧ (rowCount f = 1) ∧ True) ∧
    (∃ pf : Fin 64, ∃ s : State,
    let p := pf.val
    ∃ m : RWriteMsg,
    let w := tget 0 s.m.rmt.win (m.window.toNat % 1024)
    let ea := wnBase w + m.offset.toNat
    (m.wf = true) ∧ (Mine s.m p m.dst) ∧ (Opens s.m w m.src m.round m.offset m.sepoch m.data.length) ∧ (wnPw w = true) ∧ (wnPa w = false) ∧ (m.offset.toNat % 32 = 0) ∧ (m.data.length % 32 = 0) ∧ (ea % 32 = 0) ∧ ((stkAt s.m (stackOf ea)).retQ = 0x3F) ∧ (stackOf (ea + m.data.length - 1) = stackOf ea) ∧ True) ∧
    (∃ pf : Fin 64, ∃ s : State,
    let p := pf.val
    ∃ m : RReadMsg, ∃ e : Nat,
    let w := tget 0 s.m.rmt.win (m.window.toNat % 1024)
    let ea := wnBase w + m.offset.toNat
    let n := 8 * m.len8.toNat
    let ans (h : Byte) : Msg :=
      .rdata { src := s.m.ctl.id, dst := m.src, hops := h, status := 0, rid := m.rid, data := rdBytes s.m.edge.mem ea n }
    (m.wf = true) ∧ (Mine s.m p m.dst) ∧ (Opens s.m w m.src m.round m.offset m.sepoch n) ∧ (wnPr w = true) ∧ (m.offset.toNat % 8 = 0) ∧ (CleanEdge s.m ea n) ∧ (routePort s.m m.src = some e) ∧ (flitsFor ((portAt s.m e).txq ++ [ans 1]) ≤ 1024) ∧ True) ∧
    (∃ pf : Fin 64, ∃ s : State,
    let p := pf.val
    ∃ m : RDataMsg, ∃ r : RemRead, ∃ q : ReadMsg, (m.wf = true) ∧ (Mine s.m p m.dst) ∧ (m.status = 0) ∧ (s.m.rmt.reads = [r]) ∧ (r.msgs = [q]) ∧ (q.run = 0) ∧ (q.pos = 0) ∧ (q.len = r.runlen) ∧ (q.rid = m.rid) ∧ (q.issued.isSome) ∧ (q.answer = none) ∧ (r.nrun = 1) ∧ (1 ≤ r.runlen) ∧ (r.runlen ≤ 64) ∧ (r.sent = 0) ∧ (r.failed = false) ∧ (r.link < 16) ∧ (r.phase < 4) ∧ (portLink s.m r.port r.link r.phase = true) ∧ (m.data.length = r.runlen) ∧ True) ∧
    (∃ pf : Fin 64, ∃ s : State, ∃ rid : Word, ∃ r : RemRead, ∃ q : ReadMsg, ∃ i : BitVec 48, (s.m.rmt.reads = [r]) ∧ (r.msgs = [q]) ∧ (q.run = 0) ∧ (q.pos = 0) ∧ (q.len = r.runlen) ∧ (q.rid = rid) ∧ (q.issued = some i) ∧ (i.toNat + 2 ≤ (roundNow s.m).toNat) ∧ (q.answer = none) ∧ (r.nrun = 1) ∧ (1 ≤ r.runlen) ∧ (r.runlen ≤ 64) ∧ (r.sent = 0) ∧ (r.failed = false) ∧ (r.link < 16) ∧ (r.phase < 4) ∧ (portLink s.m r.port r.link r.phase = true) ∧ True) := by
  refine ⟨?_, ?_, ?_, ?_, ?_, ?_, ?_⟩
  · refine ⟨63, linked id, 15, 3, remote 0x11 128, ?_, ?_, ?_, ?_, ?_, ?_, ?_, ?_, trivial⟩
    · decide +kernel
    · decide +kernel
    · decide +kernel
    · decide +kernel
    · decide +kernel
    · decide +kernel
    · decide +kernel
    · unfold Reaches; decide +kernel
  · refine ⟨63, linked id, 15, 3, remote 0x12 64, 2 ^ 511, ?_, ?_, ?_, ?_, ?_, ?_, ?_, trivial⟩
    · decide +kernel
    · decide +kernel
    · decide +kernel
    · decide +kernel
    · decide +kernel
    · decide +kernel
    · unfold Reaches; decide +kernel
  · refine ⟨63, linked (fun m => { m with edge := { m.edge with rimph := 0xF } }), 15, 3, remote 0x12 64, 2 ^ 511, ?_, ?_, trivial⟩
    · decide +kernel
    · decide +kernel
  · refine ⟨63, linked id, ⟨9, 3, 1023, 4096 - 192, 7, 0, 12, 0, List.replicate 192 7⟩, ?_, ?_, ?_, ?_, ?_, ?_, ?_, ?_, ?_, ?_, trivial⟩
    · decide +kernel
    · unfold Mine; decide +kernel
    · unfold Opens; decide +kernel
    · decide +kernel
    · decide +kernel
    · decide +kernel
    · decide +kernel
    · decide +kernel
    · decide +kernel
    · decide +kernel
  · refine ⟨63, linked id, ⟨9, 3, 1023, 4088, 7, 0, 12, 0, 1, 2⟩, 63, ?_, ?_, ?_, ?_, ?_, ?_, ?_, ?_, trivial⟩
    · decide +kernel
    · unfold Mine; decide +kernel
    · unfold Opens; decide +kernel
    · decide +kernel
    · decide +kernel
    · intro cw h1 h2; have e : cw = 2 ^ 31 - 1 := Nat.le_antisymm h2 h1; subst e; decide +kernel
    · decide +kernel
    · decide +kernel
  · refine ⟨63, reading, ⟨9, 3, 0, 0, 0x55, List.replicate 64 7⟩, rdOpen, rdRec, ?_, ?_, ?_, ?_, ?_, ?_, ?_, ?_, ?_, ?_, ?_, ?_, ?_, ?_, ?_, ?_, ?_, ?_, ?_, ?_, trivial⟩
    · decide +kernel
    · unfold Mine; decide +kernel
    · decide +kernel
    · decide +kernel
    · decide +kernel
    · decide +kernel
    · decide +kernel
    · decide +kernel
    · decide +kernel
    · decide +kernel
    · decide +kernel
    · decide +kernel
    · decide +kernel
    · decide +kernel
    · decide +kernel
    · decide +kernel
    · decide +kernel
    · decide +kernel
    · decide +kernel
    · decide +kernel
  · refine ⟨63, reading, 0x55, rdOpen, rdRec, 10, ?_, ?_, ?_, ?_, ?_, ?_, ?_, ?_, ?_, ?_, ?_, ?_, ?_, ?_, ?_, ?_, ?_, trivial⟩
    · decide +kernel
    · decide +kernel
    · decide +kernel
    · decide +kernel
    · decide +kernel
    · decide +kernel
    · decide +kernel
    · decide +kernel
    · decide +kernel
    · decide +kernel
    · decide +kernel
    · decide +kernel
    · decide +kernel
    · decide +kernel
    · decide +kernel
    · decide +kernel
    · decide +kernel

def fence : Fence := ⟨10, [(9, 63)], 1, false, []⟩
def late : RWriteMsg := ⟨9, 3, 1, 0, 7, 0, 10, 0, List.replicate 32 0⟩
/-- The fence message of a type from module 9 to module 3 about round 10. -/
def fenceMsg (t : Nat) : BitVec 128 := BitVec.ofNat 128 (t + 2 ^ 16 * 9 + 2 ^ 32 * 3 + 2 ^ 64 * 10)

theorem wit_FencesNacksAndSelections :
    (∃ pf : Fin 64, ∃ s : State,
    let p := pf.val
    ∃ m : BitVec 256, (Mine s.m p (lnackDst m)) ∧ (s.m.rmt.nackValid = false) ∧ True) ∧
    (∃ pf : Fin 64, ∃ s : State,
    let p := pf.val
    ∃ m : BitVec 128, (Mine s.m p (fld m 32 16)) ∧
    let src : BitVec 16 := fld m 16 16
    ∃ n, (s.m.rmt.rejects = [(src, BitVec.ofNat 6 p, n)]) ∧ True) ∧
    (∃ pf : Fin 64, ∃ s : State,
    let p := pf.val
    ∃ m : BitVec 128, (Mine s.m p (fld m 32 16)) ∧
    let src : BitVec 16 := fld m 16 16
    ((∀ x ∈ s.m.rmt.rejects, x.1 ≠ src)) ∧ True) ∧
    (∃ pf : Fin 64, ∃ s : State,
    let p := pf.val
    ∃ src : BitVec 16, ∃ n : BitVec 16, ∃ rnd : Word,
    let rej : Byte := if n = 0 then 0 else 1
    let msg : Msg := .fack (BitVec.ofNat 128 (ofBytes (toBytes 1 0x45 ++ [rej] ++ bytesOf s.m.ctl.id ++ bytesOf src ++
      toBytes 2 0 ++ bytesOf rnd ++ bytesOf n ++ toBytes 2 0)))
    (s.m.rmt.probes = [(src, BitVec.ofNat 6 p, rnd, n)]) ∧ (Reaches s.m p msg) ∧ True) ∧
    (∃ pf : Fin 64, ∃ s : State,
    let p := pf.val
    ∃ m : BitVec 128, ∃ f : Fence, (Mine s.m p (fld m 32 16)) ∧ (s.m.rmt.fences = [f]) ∧ (f.awaited = [(fld m 16 16, BitVec.ofNat 6 p)]) ∧ (f.round.setWidth 32 = fld m 64 32) ∧ (f.failed = false) ∧ (f.owed = []) ∧ (fld m 8 8 = 0) ∧ ((∀ n ∈ s.m.rmt.nacked, upTo n f.round = false)) ∧ True) ∧
    (∃ pf : Fin 64, ∃ s : State,
    let p := pf.val
    ∃ m : BitVec 128, ∃ f : Fence, (Mine s.m p (fld m 32 16)) ∧ (s.m.rmt.fences = [f]) ∧ (f.probed ≠ 0) ∧ ((fld m 16 16, BitVec.ofNat 6 p) ∈ f.awaited) ∧ (f.round.setWidth 32 = fld m 64 32) ∧ (fld m 8 8 ≠ 0) ∧ True) ∧
    (∃ pf : Fin 64, ∃ s : State, ∃ f : Fence, (s.m.rmt.fences = [f]) ∧ (f.round.toNat + 2 ≤ (roundNow s.m).toNat) ∧ True) ∧
    (∃ pf : Fin 64, ∃ s : State,
    let p := pf.val
    ∃ w : RWriteMsg, ((.rwrite w ∈ (portAt s.m p).txq ∨ ∃ f ∈ (portAt s.m p).buf, .rwrite w ∈ f.msgs)) ∧ (isLate s.m w.round = true) ∧ (bit w.window 15 = false) ∧ True) ∧
    (∃ pf : Fin 64, ∃ s : State, ∃ v : Word, (Served s.m 0x10C004) ∧ True) ∧
    (∃ pf : Fin 64, ∃ s : State, ∃ v : Word, (Served s.m 0x10C020) ∧ True) ∧
    (∃ pf : Fin 64, ∃ s : State, ∃ v : Word,
    let m := fld v 0 2
    (Served s.m 0x5000) ∧ (m ≠ 3) ∧ ((m = 1 → bit s.m.start.features 2 = true)) ∧ ((m = 2 → bit s.m.start.features 3 = true)) ∧ ((m ≠ 0 → s.m.sys.ok = true)) ∧ (s.m.sec.cur = none) ∧ (s.m.sec.switch = none) ∧ (s.m.keep.sealing = none) ∧ (s.m.keep.keeping = none) ∧ (s.m.keep.rest = none) ∧ (s.m.keep.serve = none) ∧ (atOnce s.m = false) ∧ True) ∧
    (∃ pf : Fin 64, ∃ s : State, ∃ v : Word,
    let m := fld v 0 2
    (Served s.m 0x5000) ∧ (m ≠ 3) ∧ ((m = 1 → bit s.m.start.features 2 = true)) ∧ ((m = 2 → bit s.m.start.features 3 = true)) ∧ ((m ≠ 0 → s.m.sys.ok = true)) ∧ (s.m.sec.cur = none) ∧ (s.m.sec.switch = none) ∧ (s.m.keep.sealing = none) ∧ (s.m.keep.keeping = none) ∧ (s.m.keep.rest = none) ∧ (s.m.keep.serve = none) ∧ (atOnce s.m = true) ∧ True) := by
  refine ⟨?_, ?_, ?_, ?_, ?_, ?_, ?_, ?_, ?_, ?_, ?_, ?_⟩
  · refine ⟨63, linked id, BitVec.ofNat 256 (0x43 + 2 ^ 16 * 9 + 2 ^ 32 * 3), ?_, ?_, trivial⟩
    · unfold Mine; decide +kernel
    · decide +kernel
  · refine ⟨63, linked (modRmt (fun x => { x with rejects := [(9, 63, 2)] })), fenceMsg 0x44, ?_, 2, ?_, trivial⟩
    · unfold Mine; decide +kernel
    · decide +kernel
  · refine ⟨63, linked id, fenceMsg 0x44, ?_, ?_, trivial⟩
    · unfold Mine; decide +kernel
    · exact fun x h => (List.not_mem_nil (show x ∈ ([] : List _) from h)).elim
  · refine ⟨63, linked (modRmt (fun x => { x with probes := [(9, 63, 10, 2)] })), 9, 2, 10, ?_, ?_, trivial⟩
    · decide +kernel
    · unfold Reaches; decide +kernel
  · refine ⟨63, linked (modRmt (fun x => { x with fences := [fence] })), fenceMsg 0x45, fence, ?_, ?_, ?_, ?_, ?_, ?_, ?_, ?_, trivial⟩
    · unfold Mine; decide +kernel
    · decide +kernel
    · decide +kernel
    · decide +kernel
    · decide +kernel
    · decide +kernel
    · decide +kernel
    · exact fun x h => (List.not_mem_nil (show x ∈ ([] : List _) from h)).elim
  · refine ⟨63, linked (modRmt (fun x => { x with fences := [fence] })), fenceMsg 0x145, fence, ?_, ?_, ?_, ?_, ?_, ?_, trivial⟩
    · unfold Mine; decide +kernel
    · decide +kernel
    · decide +kernel
    · decide +kernel
    · decide +kernel
    · decide +kernel
  · refine ⟨63, linked (modRmt (fun x => { x with fences := [fence] })), fence, ?_, ?_, trivial⟩
    · decide +kernel
    · decide +kernel
  · refine ⟨63, linked (modPort 63 (fun x => { x with buf := [⟨5, [.rwrite late], 0⟩] })), late, ?_, ?_, ?_, trivial⟩
    · exact Or.inr ⟨⟨5, [.rwrite late], 0⟩, List.mem_cons_self, List.mem_cons_self⟩
    · decide +kernel
    · decide +kernel
  · refine ⟨63, st ready, 1023, ?_, trivial⟩
    · exact served_of (by decide +kernel)
  · refine ⟨63, st ready, 1023, ?_, trivial⟩
    · exact served_of (by decide +kernel)
  · refine ⟨63, st { ready with rnd := { ready.rnd with en := true, hold := false }, sys := { ready.sys with ok := true } }, 2, ?_, ?_, ?_, ?_, ?_, ?_, ?_, ?_, ?_, ?_, ?_, ?_, trivial⟩
    · exact served_of (by decide +kernel)
    · decide +kernel
    · decide +kernel
    · decide +kernel
    · decide +kernel
    · decide +kernel
    · decide +kernel
    · decide +kernel
    · decide +kernel
    · decide +kernel
    · decide +kernel
    · decide +kernel
  · refine ⟨63, st { ready with sys := { ready.sys with ok := true } }, 2, ?_, ?_, ?_, ?_, ?_, ?_, ?_, ?_, ?_, ?_, ?_, ?_, trivial⟩
    · exact served_of (by decide +kernel)
    · decide +kernel
    · decide +kernel
    · decide +kernel
    · decide +kernel
    · decide +kernel
    · decide +kernel
    · decide +kernel
    · decide +kernel
    · decide +kernel
    · decide +kernel
    · decide +kernel

/-! ### Protection, maintenance and lockstep -/

/-- Die 143's checker test at address a of an array. -/
def checking (a : Nat) : State :=
  st (modDie 143 (fun d => { d with prot := { d.prot with chkAddr := BitVec.ofNat 32 a, chkData := 2 ^ 63, chkCheck := 1 } })
    (modDpw 143 (fun d => { d with on := true }) (holds 5 143 0 [143])))

/-- The log entries of an error that was found in the cycle. -/
def coreNote : LogEntry := ⟨true, 1, false, 5, 0, 2, 0x85, 64, 1, 0, 12⟩
def edgeNote : EdgeLog := ⟨true, 0, 1, 2 ^ 41 - 32, 1, 0⟩
def errNoted (die : Nat) (n : LogEntry) (es : List (Nat × EdgeLog)) : Mach :=
  { ready with notes := { Notes.reset with cores := [(die, n)], edges := es } }

/-- The checker of code word 0 of edge memory. -/
def edgeChecking : State := st { holds 2 0 0 [144] with edge := { ready.edge with chkEa := 0 } }

/-- The twin's digests are compared. -/
def twin (f : Lockstep → Lockstep) : State :=
  st (modLs f (modPort 63 (fun x => { x with state := 6 }) { ready with sys := { ready.sys with twinMode := 2, ok := true } }))

theorem wit_DieArraysAreScrubbedAndTested :
    (∃ s : State, ∃ k : CoreId, ∃ arr : ScrubArr,
    let i := scrubIdx arr
    let c := coreAt s.m k.key
    let n := tget 0 c.scrubAt i
    let x := scrubPlace i n
    (present s.m k.key = true) ∧ ((dieAt s.m (dieOf k.key)).prot.scrub = true) ∧ (dieTokenHeld s.m (dieOf k.key) = false) ∧ ((∀ j, j < x.2.2.2 → tget 0 c.synd (syndKey x.1 (x.2.1 + x.2.2.1 * j)) = 0)) ∧ True) ∧
    (∃ s : State, ∃ k : CoreId, ∃ arr : ScrubArr, ∃ a : Nat, ∃ rest : List Nat,
    let i := scrubIdx arr
    let c := coreAt s.m k.key
    (tget [] c.scrubWb i = a :: rest) ∧ (dieTokenHeld s.m (dieOf k.key) = true) ∧ True) ∧
    (∃ s : State, ∃ k : CoreId, ∃ arr : ScrubArr, ∃ a : Nat, ∃ rest : List Nat,
    let i := scrubIdx arr
    let c := coreAt s.m k.key
    (tget [] c.scrubWb i = a :: rest) ∧ (dieTokenHeld s.m (dieOf k.key) = false) ∧ (dead s.m k.key = false) ∧ True) ∧
    (∃ s : State, ∃ die : Fin 144, ∃ v : Word, (Served s.m (0x407000 + 0x10000 * die.val)) ∧ ((∀ e ∈ s.m.notes.cores, e.1 ≠ die.val)) ∧ True) ∧
    (∃ s : State, ∃ die : Fin 144, ∃ v : Word, (Served s.m (0x407000 + 0x10000 * die.val)) ∧ ∃ n, (s.m.notes.cores = [(die.val, n)]) ∧ True) ∧
    (∃ s : State, ∃ die : Fin 144, ∃ v : Word, ∃ k : Nat, ∃ arr : Nat, ∃ w : Nat, (CheckerOn s.m die v k arr w) ∧ (dead s.m k = false ∨ arr = 2) ∧ True) ∧
    (∃ s : State, ∃ die : Fin 144, ∃ v : Word, ∃ k : Nat, ∃ arr : Nat, ∃ w : Nat, (CheckerOn s.m die v k arr w) ∧ (dead s.m k = true) ∧ (arr < 2) ∧ True) ∧
    (∃ s : State, ∃ die : Fin 144, ∃ v : Word, ∃ k : Nat, ∃ arr : Nat, ∃ w : Nat, (CheckerOn s.m die v k arr w) ∧ True) ∧
    (∃ s : State, ∃ die : Fin 144, ∃ v : Word, ∃ k : Nat, ∃ arr : Nat, ∃ w : Nat, (CheckerOn s.m die v k arr w) ∧
    let c := coreAt s.m k
    (tget 0 c.synd (syndKey arr w) = 0) ∧ True) := by
  refine ⟨?_, ?_, ?_, ?_, ?_, ?_, ?_, ?_, ?_⟩
  · refine ⟨st (modCore 207 (fun c => { c with scrubAt := [(16, 5)] }) ready), ⟨0, 191⟩, .narrow, ?_, ?_, ?_, ?_, trivial⟩
    · decide +kernel
    · decide +kernel
    · decide +kernel
    · decide +kernel
  · refine ⟨st (modCore 0 (fun c => { c with scrubWb := [(15, [64])] }) (holds 5 0 0 [0])), k0, .wide 15, 64, [], ?_, ?_, trivial⟩
    · decide +kernel
    · decide +kernel
  · refine ⟨st (modCore 0 (fun c => { c with scrubWb := [(15, [64])], synd := [(syndKey 1 64, 3)] }) ready), k0, .wide 15, 64, [], ?_, ?_, ?_, trivial⟩
    · decide +kernel
    · decide +kernel
    · decide +kernel
  · refine ⟨st ready, 0, 0x00080001, ?_, ?_, trivial⟩
    · exact served_of (by decide +kernel)
    · exact fun e h => (List.not_mem_nil (show e ∈ ([] : List _) from h)).elim
  · refine ⟨st (errNoted 0 coreNote []), 0, 0x00080001, ?_, coreNote, ?_, trivial⟩
    · exact served_of (by decide +kernel)
    · decide +kernel
  · refine ⟨checking 0x3FFC, 143, 0x2CF00000, 29951, 2, 0x3FFC, ?_, ?_, trivial⟩
    · exact ⟨served_of (by decide +kernel), ⟨_, rfl, rfl⟩, by decide +kernel, by decide +kernel, by decide +kernel, by decide +kernel, by decide +kernel⟩
    · decide +kernel
  · refine ⟨st (modDie 143 (fun d => { d with dead := 2 ^ 207 }) (checking 0xFFF8).m), 143, 0x0CF00000, 29951, 0, 0xFFF8, ?_, ?_, ?_, trivial⟩
    · exact ⟨served_of (by decide +kernel), ⟨_, rfl, rfl⟩, by decide +kernel, by decide +kernel, by decide +kernel, by decide +kernel, by decide +kernel⟩
    · decide +kernel
    · decide +kernel
  · refine ⟨checking 0x3FFC, 143, 0x2CF00000, 29951, 2, 0x3FFC, ?_, trivial⟩
    · exact ⟨served_of (by decide +kernel), ⟨_, rfl, rfl⟩, by decide +kernel, by decide +kernel, by decide +kernel, by decide +kernel, by decide +kernel⟩
  · refine ⟨checking 0x3FFC, 143, 0x2CF00000, 29951, 2, 0x3FFC, ?_, ?_, trivial⟩
    · exact ⟨served_of (by decide +kernel), ⟨_, rfl, rfl⟩, by decide +kernel, by decide +kernel, by decide +kernel, by decide +kernel, by decide +kernel⟩
    · decide +kernel

theorem wit_EdgeChecksTokensAndKnownAnswers :
    (∃ s : State, ∃ st : Fin 32, ∃ v : Word, (Served s.m (0x10012C + 0x40 * st.val)) ∧ (bit v 31 = false) ∧ True) ∧
    (∃ s : State, ∃ st : Fin 32, ∃ v : Word, (Served s.m (0x10012C + 0x40 * st.val)) ∧ ((∀ e ∈ s.start.notes.edges, e.1 ≠ st.val)) ∧ ((∀ e ∈ s.m.notes.edges, e.1 ≠ st.val)) ∧ True) ∧
    (∃ s : State, ∃ st : Fin 32, ∃ v : Word, (Served s.m (0x10012C + 0x40 * st.val)) ∧ ((∀ e ∈ s.start.notes.edges, e.1 ≠ st.val)) ∧ ∃ n, (s.m.notes.edges = [(st.val, n)]) ∧ True) ∧
    (∃ s : State, ∃ v : Word, ∃ cw : Nat, (EdgeCheckerOn s.m v cw) ∧ True) ∧
    (∃ s : State, ∃ v : Word, ∃ cw : Nat, (EdgeCheckerOn s.m v cw) ∧
    let i := (fld v 22 6).toNat
    (i < 32 ∨ bit (tget 0 s.m.edge.poison cw) (i - 32) = false) ∧ True) ∧
    (∃ s : State, ∃ v : Word, ∃ cw : Nat, (EdgeCheckerOn s.m v cw) ∧ ((edgeDecode s.m cw).2 = .clean) ∧ True) ∧
    (∃ s : State, ∃ v : Word, (Served s.m 0x6000) ∧ True) ∧
    (∃ s : State, ∃ tok : Fin 528, ∃ a : Activity, ∃ rest : List Activity, (holderOf s.m.mnt.acts tok.val = none) ∧ (waiters s.m.mnt.acts tok.val = a :: rest) ∧ (a.tokens.length = a.held + 1) ∧ (a.code ≠ 1) ∧ (a.code ≠ 4) ∧ True) ∧
    (∃ s : State, ∃ die : Fin 144, ∃ v : Word, (Served s.m (0x408000 + 0x10000 * die.val)) ∧ ((dieAt s.m die.val).sec.cur = 0) ∧ ((dieAt s.m die.val).csl.busy = false) ∧ ((fld v 8 8).toNat < 208) ∧ True) ∧
    (∃ s : State, ∃ die : Fin 144, ((dieAt s.m die.val).csl.busy = true) ∧ True) := by
  refine ⟨?_, ?_, ?_, ?_, ?_, ?_, ?_, ?_, ?_, ?_⟩
  · refine ⟨st ready, 31, 0x1F, ?_, ?_, trivial⟩
    · exact served_of (by decide +kernel)
    · decide +kernel
  · refine ⟨st ready, 31, 0x8000001F, ?_, ?_, ?_, trivial⟩
    · exact served_of (by decide +kernel)
    · exact fun e h => (List.not_mem_nil (show e ∈ ([] : List _) from h)).elim
    · exact fun e h => (List.not_mem_nil (show e ∈ ([] : List _) from h)).elim
  · refine ⟨⟨[], errNoted 0 coreNote [(31, edgeNote)], ready⟩, 31, 0x8000001F, ?_, ?_, edgeNote, ?_, trivial⟩
    · exact served_of (by decide +kernel)
    · exact fun e h => (List.not_mem_nil (show e ∈ ([] : List _) from h)).elim
    · decide +kernel
  · refine ⟨edgeChecking, 0x09C0FF00, 0, ?_, trivial⟩
    · exact ⟨served_of (by decide +kernel), by decide +kernel, by decide +kernel, by decide +kernel, by decide +kernel, by decide +kernel⟩
  · refine ⟨edgeChecking, 0x09C0FF00, 0, ?_, ?_, trivial⟩
    · exact ⟨served_of (by decide +kernel), by decide +kernel, by decide +kernel, by decide +kernel, by decide +kernel, by decide +kernel⟩
    · decide +kernel
  · refine ⟨edgeChecking, 0x09C0FF00, 0, ?_, ?_, trivial⟩
    · exact ⟨served_of (by decide +kernel), by decide +kernel, by decide +kernel, by decide +kernel, by decide +kernel, by decide +kernel⟩
    · decide +kernel
  · refine ⟨st ready, 527, ?_, trivial⟩
    · exact served_of (by decide +kernel)
  · refine ⟨st { ready with mnt := { Maint.reset with acts := [⟨1, 5, 143, 0, [143], 0, some ⟨15, 77⟩⟩, ⟨2, 5, 143, 0, [143], 0, none⟩] } }, 143, ⟨1, 5, 143, 0, [143], 0, some ⟨15, 77⟩⟩, [⟨2, 5, 143, 0, [143], 0, none⟩], ?_, ?_, ?_, ?_, ?_, trivial⟩
    · decide +kernel
    · decide +kernel
    · decide +kernel
    · decide +kernel
    · decide +kernel
  · refine ⟨st ready, 0, 0xCF00, ?_, ?_, ?_, ?_, trivial⟩
    · exact served_of (by decide +kernel)
    · decide +kernel
    · decide +kernel
    · decide +kernel
  · refine ⟨st (modDie 143 (fun d => { d with csl := { d.csl with busy := true } }) ready), 143, ?_, trivial⟩
    · decide +kernel

theorem wit_TwinsAreComparedInLockstep :
    (∃ s : State, ∃ pf : Fin 64, ∃ r : Word, ∃ dig : BitVec 64, (comparing s.m = true) ∧ (twinPort pf.val = true) ∧ (portActive s.m pf.val = true) ∧ ∃ m, ∃ own, ∃ n, (s.m.ls.await = [(m, own, n)]) ∧ (m.setWidth 32 = r) ∧ (n < 2) ∧ (own = dig) ∧ True) ∧
    (∃ s : State, ∃ pf : Fin 64, ∃ r : Word, ∃ dig : BitVec 64, (comparing s.m = true) ∧ (twinPort pf.val = true) ∧ (portActive s.m pf.val = true) ∧ ∃ m, ∃ own, ∃ n, (s.m.ls.await = [(m, own, n)]) ∧ (m.setWidth 32 = r) ∧ (n < 2) ∧ (own ≠ dig) ∧ True) ∧
    (∃ s : State, ∃ pf : Fin 64, ∃ r : Word, ∃ dig : BitVec 64, (comparing s.m = true) ∧ (twinPort pf.val = true) ∧ (portActive s.m pf.val = true) ∧ (s.m.ls.await = []) ∧ (s.m.ls.early = []) ∧ (lsAhead s.m r = true) ∧ True) ∧
    (∃ s : State, ((∃ e ∈ s.m.ls.await, 2 ≤ e.2.2)) ∧ True) ∧
    (∃ s : State, ∃ v : Word, (Served s.m 0x5040) ∧ True) := by
  refine ⟨?_, ?_, ?_, ?_, ?_⟩
  · refine ⟨twin (fun l => { l with await := [(12, 5, 1)] }), 63, 12, 5, ?_, ?_, ?_, 12, 5, 1, ?_, ?_, ?_, ?_, trivial⟩
    · decide +kernel
    · decide +kernel
    · decide +kernel
    · decide +kernel
    · decide +kernel
    · decide +kernel
    · decide +kernel
  · refine ⟨twin (fun l => { l with await := [(12, 5, 1)], stop := true }), 63, 12, 6, ?_, ?_, ?_, 12, 5, 1, ?_, ?_, ?_, ?_, trivial⟩
    · decide +kernel
    · decide +kernel
    · decide +kernel
    · decide +kernel
    · decide +kernel
    · decide +kernel
    · decide +kernel
  · refine ⟨twin id, 63, 0x7FFFFFFF, 6, ?_, ?_, ?_, ?_, ?_, ?_, trivial⟩
    · decide +kernel
    · decide +kernel
    · decide +kernel
    · decide +kernel
    · decide +kernel
    · decide +kernel
  · refine ⟨twin (fun l => { l with await := [(12, 5, 2)] }), ?_, trivial⟩
    · decide +kernel
  · refine ⟨twin id, 0x80000001, ?_, trivial⟩
    · exact served_of (by decide +kernel)

/-! ### Restart and keep -/

theorem edge_clean {s : Mach} (h1 : s.edge.poison = []) (h2 : s.edge.ck = []) (cw : Nat) : (edgeDecode s cw).2 = .clean := by
  simp [edgeDecode, ckDiff, h1, h2, tget]

/-- The session of the keeper for the sealer 9 in epoch 7. -/
def session (opened : Bool) : Keeping := ⟨9, 7, true, false, none, opened, 0, [], 0⟩
def keeping (g : Keeping) : State := linked (modKeep (fun k => { k with keeping := some g }))
def sealed (x : SealStage) : Seal := ⟨12, 9, 0x55, 0, ⟨15, 77⟩, x, List.replicate 1024 0, true, false⟩
def sealing (x : SealStage) : State := linked (modKeep (fun k => { k with sealing := some (sealed x) }))

theorem wit_KeepMessagesDriveTheSeal :
    (∃ pf : Fin 64, ∃ s : State,
    let p := pf.val
    ∃ m : RWriteMsg, ∃ g : Keeping,
    let st := kmStack m.window
    let n := m.data.length
    (m.wf = true) ∧ (KeepMine s.m p m.dst) ∧ (Keeps s.m g m.src m.sepoch m.window) ∧ (g.opened = true) ∧ (g.ask = none) ∧ (m.offset.toNat % 32 = 0) ∧ (n % 32 = 0) ∧ (m.offset.toNat + n ≤ 2 ^ 33) ∧ (stackOut s.m st = false) ∧ ((stkAt s.m st).retQ = 0x3F) ∧ True) ∧
    (∃ pf : Fin 64, ∃ s : State,
    let p := pf.val
    ∃ m : RReadMsg, ∃ g : Keeping, (m.wf = true) ∧ (KeepMine s.m p m.dst) ∧ (Keeps s.m g m.src m.sepoch m.window) ∧ (g.opened = false) ∧ (g.ask = none) ∧ True) ∧
    (∃ pf : Fin 64, ∃ s : State,
    let p := pf.val
    ∃ m : RDataMsg, ∃ x : Seal, (m.keepWf = true) ∧ (KeepMine s.m p m.dst) ∧ (s.m.keep.sealing = some x) ∧ (x.peer = m.src) ∧ (x.rid = m.rid) ∧ (x.stage = .opening) ∧ (x.second = false) ∧ (m.status.toNat % 128 = 3) ∧ True) ∧
    (∃ pf : Fin 64, ∃ s : State,
    let p := pf.val
    ∃ m : RDataMsg, ∃ x : Seal, (m.keepWf = true) ∧ (KeepMine s.m p m.dst) ∧ (s.m.keep.sealing = some x) ∧ (x.peer = m.src) ∧ (x.rid = m.rid) ∧ (x.stage = .committing) ∧ (m.status.toNat % 128 = 0) ∧ True) := by
  refine ⟨?_, ?_, ?_, ?_⟩
  · refine ⟨63, keeping (session true), ⟨9, 3, 0x803F, 2 ^ 33 - 32, 7, 0, 12, 0, List.replicate 32 7⟩, session true, ?_, ?_, ?_, ?_, ?_, ?_, ?_, ?_, ?_, ?_, trivial⟩
    · decide +kernel
    · unfold KeepMine; decide +kernel
    · unfold Keeps; decide +kernel
    · decide +kernel
    · decide +kernel
    · decide +kernel
    · decide +kernel
    · decide +kernel
    · decide +kernel
    · decide +kernel
  · refine ⟨63, keeping (session false), ⟨9, 3, 0x8020, 0, 7, 0, 12, 0, 1, 2⟩, session false, ?_, ?_, ?_, ?_, ?_, trivial⟩
    · decide +kernel
    · unfold KeepMine; decide +kernel
    · unfold Keeps; decide +kernel
    · decide +kernel
    · decide +kernel
  · refine ⟨63, sealing .opening, ⟨9, 3, 0, 0x83, 0x55, []⟩, sealed .opening, ?_, ?_, ?_, ?_, ?_, ?_, ?_, ?_, trivial⟩
    · decide +kernel
    · unfold KeepMine; decide +kernel
    · decide +kernel
    · decide +kernel
    · decide +kernel
    · decide +kernel
    · decide +kernel
    · decide +kernel
  · refine ⟨63, sealing .committing, ⟨9, 3, 0, 0x80, 0x55, List.replicate 8 0⟩, sealed .committing, ?_, ?_, ?_, ?_, ?_, ?_, ?_, trivial⟩
    · decide +kernel
    · unfold KeepMine; decide +kernel
    · decide +kernel
    · decide +kernel
    · decide +kernel
    · decide +kernel
    · decide +kernel

def restore1 : Restore := { keeper := 9, id := 9, epoch := 7, step := 5, owed := ⟨15, 77⟩, header := false, got := 0, crcs := [], left := none }

theorem wit_SealsAndRestoresTimeOut :
    (∃ s : State, ∃ g : Keeping, (s.m.keep.sealing = none) ∧ (s.m.keep.keeping = some g) ∧ (s.m.keep.rest = none) ∧ (s.m.keep.serve = none) ∧ True) ∧
    (∃ s : State, ∃ x : Seal, (s.m.keep.sealing = some x) ∧ (x.stage ≠ .armed) ∧ (x.stage ≠ .recording) ∧ (s.m.keep.keeping = none) ∧ True) ∧
    (∃ s : State, ∃ x : Restore, (s.m.keep.sealing = none) ∧ (s.m.keep.keeping = none) ∧ (s.m.keep.rest = some x) ∧ True) ∧
    (∃ s : State, ∃ x : Seal, (s.m.keep.sealing = some x) ∧ (x.stage = .recording) ∧ (s.m.keep.keeping = none) ∧ True) := by
  refine ⟨?_, ?_, ?_, ?_⟩
  · refine ⟨keeping (session false), session false, ?_, ?_, ?_, ?_, trivial⟩
    · decide +kernel
    · decide +kernel
    · decide +kernel
    · decide +kernel
  · refine ⟨sealing .committing, sealed .committing, ?_, ?_, ?_, ?_, trivial⟩
    · decide +kernel
    · decide +kernel
    · decide +kernel
    · decide +kernel
  · refine ⟨linked (modKeep (fun k => { k with rest := some restore1 })), restore1, ?_, ?_, ?_, trivial⟩
    · decide +kernel
    · decide +kernel
    · decide +kernel
  · refine ⟨sealing .recording, sealed .recording, ?_, ?_, ?_, trivial⟩
    · decide +kernel
    · decide +kernel
    · decide +kernel

def dSeal : Desc := desc 0x40 [(8, 13), (16, 2 ^ 41 - 1)]
def dRestore : Desc := desc 0x41 [(8, 9), (10, 9), (12, 7), (16, 5)]
def dServe : Desc := desc 0x42 [(8, 9), (12, 7), (16, 5)]
/-- Port 63 leads to the twin; both slots hold step 5. -/
def twinned (d : Desc) : State := linked (fun m => withCmd d
  { m with sys := { m.sys with twinMode := 1, ok := true }, keep := { m.keep with slotA := ⟨true, true, 9, 5, 5, 1⟩, slotB := ⟨true, true, 9, 5, 5, 2⟩ } })

theorem wit_SealsAndRestoresAreOpened :
    (∃ q : Fin 16, ∃ d : Desc, ∃ c : RunCmd, ∃ s : State, ∃ m : BitVec 48, ∃ id : BitVec 16, (Starts s.m q.val d c 0x40 [(8, 6), (16, 8)]) ∧ (cmdRound s.m (verOf s.m q.val c) d 8 = some m) ∧ (cB d 16 8 < 2 ^ 41) ∧ (twinId s.m = some id) ∧ (s.m.sys.twinMode = 1) ∧ (KeepIdle s.m) ∧ (unitsBusy s.m = false) ∧ (roundStarted s.m m = false) ∧ True) ∧
    (∃ q : Fin 16, ∃ d : Desc, ∃ c : RunCmd, ∃ s : State, (Starts s.m q.val d c 0x41 [(8, 12)]) ∧ (s.m.keep.sealing = none) ∧ (s.m.keep.keeping = none) ∧ (s.m.keep.rest = none) ∧ True) ∧
    (∃ q : Fin 16, ∃ d : Desc, ∃ c : RunCmd, ∃ s : State, (Starts s.m q.val d c 0x42 [(8, 2), (12, 8)]) ∧ (s.m.keep.sealing = none) ∧ (s.m.keep.keeping = none) ∧ (s.m.keep.serve = none) ∧ (s.m.keep.slotA.valid = true) ∧ (s.m.keep.slotA.step = BitVec.ofNat 32 (cB d 16 4)) ∧ ((keepPort s.m (BitVec.ofNat 16 (cB d 8 2)) 0).isSome) ∧ (CleanEdge s.m (slotEa false 0 0) 65536) ∧ (stackOut s.m 0 = false) ∧ True) := by
  refine ⟨?_, ?_, ?_⟩
  · refine ⟨15, dSeal, cmdOf dSeal, twinned dSeal, 13, 9, ?_, ?_, ?_, ?_, ?_, ?_, ?_, ?_, trivial⟩
    · unfold Starts; decide +kernel
    · decide +kernel
    · decide +kernel
    · decide +kernel
    · decide +kernel
    · unfold KeepIdle; decide +kernel
    · decide +kernel
    · decide +kernel
  · refine ⟨15, dRestore, cmdOf dRestore, twinned dRestore, ?_, ?_, ?_, ?_, trivial⟩
    · unfold Starts; decide +kernel
    · decide +kernel
    · decide +kernel
    · decide +kernel
  · refine ⟨15, dServe, cmdOf dServe, twinned dServe, ?_, ?_, ?_, ?_, ?_, ?_, ?_, ?_, ?_, trivial⟩
    · unfold Starts; decide +kernel
    · decide +kernel
    · decide +kernel
    · decide +kernel
    · decide +kernel
    · decide +kernel
    · decide +kernel
    · exact fun cw _ _ => edge_clean rfl rfl cw
    · decide +kernel

def dExport : Desc := desc 0x51 [(8, 1), (12, 5), (16, 64), (24, 65504), (32, 32)]
def dImport : Desc := desc 0x52 [(16, 64), (24, 65536)]
/-- The slot header of no extent. -/
def noExtents : List Byte := toBytes 4 0x5A4B5350 ++ List.replicate 26 0 ++ [1] ++ List.replicate 65505 0
/-- An export with one place to copy, and one that has copied them all. -/
def exporting (parts : List (Nat × Nat)) : Export := { owed := ⟨15, 77⟩, slot := true, parts := parts, host := 64, taken := true }
def withExport (x : Export) : State := st { ready with keep := { ready.keep with exports := [x] } }
/-- An import with extents left to write. -/
def importing (l : List (Nat × Nat) × List Byte) : Restore := { restore1 with left := some l }
def withImport (x : Restore) (m : Mem) : State := st { ready with keep := { ready.keep with rest := some x, staging := m } }
/-- A staged header whose CRCs are those of no data. -/
def headerOfNone : Mem := wrBytes (wrBytes [] 64 (stackCrcs [])) 48 (toBytes 8 (crc64 (stackCrcs [])).toNat)

theorem wit_CheckpointsAreCopiedInParts :
    (∃ q : Fin 16, ∃ d : Desc, ∃ c : RunCmd, ∃ s : State,
    let slot := cB d 8 1 == 1
    let a := cB d 24 8
    let n := cB d 32 8
    let h := rdBytes s.m.edge.mem (slotEa slot 0 0) 65536
    (Starts s.m q.val d c 0x51 [(8, 1), (12, 28)]) ∧ (cB d 8 1 ≤ 1) ∧ (cB d 16 8 % 64 = 0) ∧ (a % 32 = 0) ∧ (n % 32 = 0) ∧ ((slotOf s.m.keep slot).valid = true) ∧ ((slotOf s.m.keep slot).step.toNat = cB d 12 4) ∧ (stackOut s.m 0 = false) ∧ (CleanEdge s.m (slotEa slot 0 0) 65536) ∧ (a + n ≤ 65536 + extBytes (headExtents h)) ∧ True) ∧
    (∃ q : Fin 16, ∃ d : Desc, ∃ c : RunCmd, ∃ s : State, ∃ x : Export, ∃ ea : Nat, ∃ n : Nat, ∃ rest : List (Nat × Nat), (s.m.keep.exports = [x]) ∧ (s.m.keep.rest = none) ∧ (x.parts = (ea, n) :: rest) ∧ (x.taken = true) ∧ (CleanEdge s.m ea n) ∧ (stackOut s.m (stackOf ea) = false) ∧ True) ∧
    (∃ q : Fin 16, ∃ d : Desc, ∃ c : RunCmd, ∃ s : State, ∃ x : Export, (s.m.keep.exports = [x]) ∧ (s.m.keep.rest = none) ∧ (x.parts = []) ∧ True) ∧
    (∃ q : Fin 16, ∃ d : Desc, ∃ c : RunCmd, ∃ s : State, ∃ bs : List Byte,
    let h := bs.take 65536
    let es := headExtents h
    (Starts s.m q.val d c 0x52 [(16, 16)]) ∧ (bs.length = cB d 24 8) ∧ (cB d 16 8 % 64 = 0) ∧ (s.m.sec.cur = none) ∧ (s.m.keep.sealing = none) ∧ (s.m.keep.keeping = none) ∧ (s.m.keep.rest = none) ∧ (headOpen h = true) ∧ (extentsOk es = true) ∧ (bs.length = 65536 + extBytes es) ∧ True) ∧
    (∃ q : Fin 16, ∃ d : Desc, ∃ c : RunCmd, ∃ s : State, ∃ x : Restore, ∃ e : Nat × Nat, ∃ es : List (Nat × Nat), ∃ bs : List Byte, (s.m.keep.exports = []) ∧ (s.m.keep.rest = some x) ∧ (x.left = some (e :: es, bs)) ∧ (stackOut s.m (stackOf e.1) = false) ∧ (e.1 % 32 = 0) ∧ (e.2 % 32 = 0) ∧ (e.2 ≤ bs.length) ∧ (stackOf (e.1 + e.2 - 1) = stackOf e.1) ∧ ((stkAt s.m (stackOf e.1)).retQ = 0x3F) ∧ True) ∧
    (∃ q : Fin 16, ∃ d : Desc, ∃ c : RunCmd, ∃ s : State, ∃ x : Restore, ∃ e : Nat × Nat, ∃ es : List (Nat × Nat), ∃ bs : List Byte, (s.m.keep.exports = []) ∧ (s.m.keep.rest = some x) ∧ (x.left = some (e :: es, bs)) ∧ (stackOut s.m (stackOf e.1) = false) ∧ (e.1 % 32 = 0) ∧ (e.2 % 32 = 0) ∧ (e.2 ≤ bs.length) ∧ (stackOf (e.1 + e.2 - 1) = stackOf e.1) ∧ ((stkAt s.m (stackOf e.1)).retQ = 0x3F) ∧ ∃ a, ((a < e.1 ∨ e.1 + e.2 ≤ a)) ∧ True) ∧
    (∃ q : Fin 16, ∃ d : Desc, ∃ c : RunCmd, ∃ s : State, ∃ x : Restore, ∃ bs : List Byte,
    let h := rdBytes s.m.keep.staging 0 65536
    (s.m.keep.exports = []) ∧ (s.m.keep.rest = some x) ∧ (x.left = some ([], bs)) ∧ ((h.drop 64).take 256 = stackCrcs x.crcs) ∧ (numAt h 48 8 = (crc64 (stackCrcs x.crcs)).toNat) ∧ True) := by
  refine ⟨?_, ?_, ?_, ?_, ?_, ?_, ?_⟩
  · refine ⟨15, dExport, cmdOf dExport, twinned dExport, ?_, ?_, ?_, ?_, ?_, ?_, ?_, ?_, ?_, ?_, trivial⟩
    · unfold Starts; decide +kernel
    · decide +kernel
    · decide +kernel
    · decide +kernel
    · decide +kernel
    · decide +kernel
    · decide +kernel
    · decide +kernel
    · exact fun cw _ _ => edge_clean rfl rfl cw
    · decide +kernel
  · refine ⟨15, 0, cmdOf 0, withExport (exporting [(2 ^ 41 - 64, 64)]), exporting [(2 ^ 41 - 64, 64)], 2 ^ 41 - 64, 64, [], ?_, ?_, ?_, ?_, ?_, ?_, trivial⟩
    · decide +kernel
    · decide +kernel
    · decide +kernel
    · decide +kernel
    · exact fun cw _ _ => edge_clean rfl rfl cw
    · decide +kernel
  · refine ⟨15, 0, cmdOf 0, withExport (exporting []), exporting [], ?_, ?_, ?_, trivial⟩
    · decide +kernel
    · decide +kernel
    · decide +kernel
  · refine ⟨15, dImport, cmdOf dImport, twinned dImport, noExtents, ?_, ?_, ?_, ?_, ?_, ?_, ?_, ?_, ?_, ?_, trivial⟩
    · unfold Starts; decide +kernel
    · decide +kernel
    · decide +kernel
    · decide +kernel
    · decide +kernel
    · decide +kernel
    · decide +kernel
    · decide +kernel
    · decide +kernel
    · decide +kernel
  · refine ⟨15, 0, cmdOf 0, withImport (importing ([(2 ^ 41 - 64, 64)], List.replicate 64 7)) [], importing ([(2 ^ 41 - 64, 64)], List.replicate 64 7), (2 ^ 41 - 64, 64), [], List.replicate 64 7, ?_, ?_, ?_, ?_, ?_, ?_, ?_, ?_, ?_, trivial⟩
    · decide +kernel
    · decide +kernel
    · decide +kernel
    · decide +kernel
    · decide +kernel
    · decide +kernel
    · decide +kernel
    · decide +kernel
    · decide +kernel
  · refine ⟨15, 0, cmdOf 0, withImport (importing ([(64, 64)], List.replicate 64 7)) [], importing ([(64, 64)], List.replicate 64 7), (64, 64), [], List.replicate 64 7, ?_, ?_, ?_, ?_, ?_, ?_, ?_, ?_, ?_, 128, ?_, trivial⟩
    · decide +kernel
    · decide +kernel
    · decide +kernel
    · decide +kernel
    · decide +kernel
    · decide +kernel
    · decide +kernel
    · decide +kernel
    · decide +kernel
    · decide +kernel
  · refine ⟨15, 0, cmdOf 0, withImport (importing ([], [])) headerOfNone, importing ([], []), [], ?_, ?_, ?_, ?_, ?_, trivial⟩
    · decide +kernel
    · decide +kernel
    · decide +kernel
    · decide +kernel
    · decide +kernel

/-! ### Power -/

def power (f : Power → Power) : State := st (modPwr f ready)
def seqL : WSeq := { kind := .ledger, cost := 2 }
def seqF : WSeq := { kind := .fuse [] ⟨15, 77⟩, cost := 100 }

theorem wit_FeedsDomainsAndTheBank :
    (∃ s : State,
    let p := s.m.pwr
    ∃ b : Bool, ((if b then p.feedB else p.feedA) = true) ∧ True) ∧
    (∃ s : State,
    let p := s.m.pwr
    ∃ b : Bool, ((if b then p.feedB else p.feedA) = false) ∧ True) ∧
    (∃ s : State,
    let p := s.m.pwr
    (p.inloss = false) ∧ (p.vaux = true) ∧ True) ∧
    (∃ s : State,
    let p := s.m.pwr
    (p.inloss = true) ∧ (p.vaux = true) ∧ (hotOff s.m = true ∨ p.down.isSome = true) ∧ True) ∧
    (∃ s : State,
    let p := s.m.pwr
    (p.inloss = true) ∧ (p.vaux = true) ∧ (hotOff s.m = false) ∧ (p.down = none) ∧ True) ∧
    (∃ s : State,
    let p := s.m.pwr
    (p.inloss = true) ∧ (p.gasp = true) ∧ (p.running = []) ∧ True) ∧
    (∃ s : State,
    let p := s.m.pwr
    (p.inloss = true) ∧ (p.gasp = false) ∧ (p.running = []) ∧ (bankAvail p < 20) ∧ True) ∧
    (∃ s : State,
    let p := s.m.pwr
    ∃ e : BitVec 16, (p.running = []) ∧ (s.m.start.state ≠ 2) ∧ (3000 ≤ e.toNat) ∧ True) ∧
    (∃ s : State,
    let p := s.m.pwr
    ∃ e : BitVec 16, (p.running ≠ []) ∧ (s.m.start.state ≠ 2) ∧ True) ∧
    (∃ s : State, ∃ a : BitVec 16, ∃ b : BitVec 16, (a.toNat ≤ b.toNat + 100) ∧ (b.toNat ≤ a.toNat + 100) ∧ True) ∧
    (∃ s : State,
    let p := s.m.pwr
    ∃ a : BitVec 16, ∃ b : BitVec 16, (a.toNat + 150 < b.toNat ∨ b.toNat + 150 < a.toNat) ∧ (p.diffOpen = false) ∧ True) ∧
    (∃ s : State,
    let p := s.m.pwr
    ∃ w, ∃ rest, (p.waiting = w :: rest) ∧ (w.kind ≠ .ledger) ∧ (mayStart s.m w.cost = true) ∧ True) ∧
    (∃ s : State,
    let p := s.m.pwr
    ∃ d : Fin 144, ∃ dom : Fin 3, (.die d dom ∈ p.faults) ∧ True) := by
  refine ⟨?_, ?_, ?_, ?_, ?_, ?_, ?_, ?_, ?_, ?_, ?_, ?_, ?_⟩
  · refine ⟨power id, true, ?_, trivial⟩
    · decide +kernel
  · refine ⟨power (fun p => { p with feedA := false }), false, ?_, trivial⟩
    · decide +kernel
  · refine ⟨power id, ?_, ?_, trivial⟩
    · decide +kernel
    · decide +kernel
  · refine ⟨power (fun p => { p with inloss := true, thermOff := true }), ?_, ?_, ?_, trivial⟩
    · decide +kernel
    · decide +kernel
    · decide +kernel
  · refine ⟨power (fun p => { p with inloss := true }), ?_, ?_, ?_, ?_, trivial⟩
    · decide +kernel
    · decide +kernel
    · decide +kernel
    · decide +kernel
  · refine ⟨power (fun p => { p with inloss := true, gasp := true }), ?_, ?_, ?_, trivial⟩
    · decide +kernel
    · decide +kernel
    · decide +kernel
  · refine ⟨power (fun p => { p with inloss := true, coul := 19, model := 21 }), ?_, ?_, ?_, ?_, trivial⟩
    · decide +kernel
    · decide +kernel
    · decide +kernel
    · decide +kernel
  · refine ⟨power id, 3000, ?_, ?_, ?_, trivial⟩
    · decide +kernel
    · decide +kernel
    · decide +kernel
  · refine ⟨power (fun p => { p with running := [seqL] }), 2999, ?_, ?_, trivial⟩
    · decide +kernel
    · decide +kernel
  · refine ⟨power id, 3100, 3000, ?_, ?_, trivial⟩
    · decide +kernel
    · decide +kernel
  · refine ⟨power id, 3151, 3000, ?_, ?_, trivial⟩
    · decide +kernel
    · decide +kernel
  · refine ⟨power (fun p => { p with waiting := [seqF], coul := 150, model := 150 }), seqF, [], ?_, ?_, ?_, trivial⟩
    · decide +kernel
    · decide +kernel
    · decide +kernel
  · refine ⟨power (fun p => { p with faults := [.die 143 2] }), 143, 2, ?_, trivial⟩
    · decide +kernel

/-- The power state of die 143, lit, at 60,000 cycles. -/
def lit (f : DiePower → DiePower) : State := st (modDpw 143 (fun x => f { x with on := true }) { ready with now := 60000 })

theorem wit_CapBrakeStretchAndVoltages :
    (∃ s : State,
    let p := s.m.pwr
    ∃ w : BitVec 16, (w.toNat ≤ 3600) ∧ (p.brake = false) ∧ True) ∧
    (∃ s : State,
    let p := s.m.pwr
    ∃ w : BitVec 16, (3600 < w.toNat) ∧ (p.brake = false) ∧ True) ∧
    (∃ s : State,
    let p := s.m.pwr
    ∃ w : BitVec 16, (w.toNat ≤ 3600) ∧ (p.brake = true) ∧ (999 ≤ p.recent.length) ∧ (((w :: p.recent).take 1000).foldl (fun n x => n + x.toNat) 0 ≤ 2700000) ∧ True) ∧
    (∃ s : State,
    let p := s.m.pwr
    ∃ a : BitVec 16, (a.toNat * 100 ≤ p.eff.toNat * 1020) ∧ True) ∧
    (∃ s : State,
    let p := s.m.pwr
    ∃ a : BitVec 16, (p.eff.toNat * 1020 < a.toNat * 100) ∧ True) ∧
    (∃ s : State, ∃ d : Fin 144, ∃ i : Fin 32, ((dpwAt s.m d.val).on = true) ∧ True) ∧
    (∃ s : State,
    let p := s.m.pwr
    ∃ d : Fin 144, ∃ n : Nat, ((dpwAt s.m d.val).stretching = true) ∧ (p.brake = true) ∧ True) ∧
    (∃ s : State,
    let p := s.m.pwr
    ∃ d : Fin 144, ∃ n : Nat, ∃ t0 : Nat, ((dpwAt s.m d.val).stretching = true) ∧ (p.brake = false) ∧ (s.m.fab.since = some t0) ∧ True) ∧
    (∃ s : State, ∃ d : Fin 144, ∃ v : Word,
    let x := dpwAt s.m d.val
    let c := fld v 0 10
    let free (z : Slew) := z.held = none ∧ (z.last = none ∨ ∃ l, z.last = some l ∧ l + 55000 ≤ s.m.now)
    (Served s.m (0x409000 + 0x10000 * d.val)) ∧ (bit v 12 = true) ∧ (280 ≤ c.toNat) ∧ (c.toNat ≤ 340) ∧ (x.on = true) ∧ (free x.varr) ∧ (x.vlog.target.toNat ≤ c.toNat) ∧ True) ∧
    (∃ s : State, ∃ d : Fin 144, ∃ v : Word,
    let x := dpwAt s.m d.val
    let c := fld v 0 10
    let free (z : Slew) := z.held = none ∧ (z.last = none ∨ ∃ l, z.last = some l ∧ l + 55000 ≤ s.m.now)
    (Served s.m (0x409000 + 0x10000 * d.val)) ∧ (bit v 12 = false) ∧ (240 ≤ c.toNat) ∧ (c.toNat ≤ 340) ∧ (x.on = true) ∧ (free x.vlog) ∧ (c.toNat ≤ x.varr.target.toNat) ∧ True) ∧
    (∃ s : State, ∃ d : Fin 144, ∃ v : Word,
    let x := dpwAt s.m d.val
    let c := fld v 0 10
    (Served s.m (0x409000 + 0x10000 * d.val)) ∧ (280 ≤ c.toNat) ∧ (c.toNat ≤ 340) ∧ (x.on = false) ∧ True) ∧
    (∃ s : State, ∃ d : Fin 144, ∃ v : Word,
    let x := dpwAt s.m d.val
    let c := fld v 0 10
    (Served s.m (0x409000 + 0x10000 * d.val)) ∧ ∃ l, (bit v 12 = true) ∧ (280 ≤ c.toNat) ∧ (c.toNat ≤ 340) ∧ (x.on = true) ∧ (x.varr.last = some l) ∧ (s.m.now < l + 55000) ∧ True) ∧
    (∃ s : State, ∃ d : Fin 144, ∃ v : Word,
    let c := fld v 0 10
    (Served s.m (0x409000 + 0x10000 * d.val)) ∧ (340 < c.toNat) ∧ True) ∧
    (∃ s : State, ∃ d : Fin 144, ∃ c : BitVec 10, ∃ l : Nat,
    let m := notBefore (l + 55000) s.m
    ((dpwAt m d.val).varr.held = some c) ∧ ((dpwAt s.m d.val).varr.held = some c) ∧ ((dpwAt m d.val).varr.last = some l) ∧ ((dpwAt s.m d.val).varr.last = some l) ∧ ((dpwAt m d.val).vlog.target.toNat ≤ c.toNat) ∧ True) ∧
    (∃ s : State, ∃ d : Fin 144,
    let z := (dpwAt s.m d.val).varr
    (z.settled = false) ∧ (z.goal = z.target) ∧ True) ∧
    (∃ s : State, ∃ d : Fin 144, ((dpwAt s.m d.val).varr.settling = true) ∧ ((dpwAt s.m d.val).varr.held = none) ∧ True) := by
  refine ⟨?_, ?_, ?_, ?_, ?_, ?_, ?_, ?_, ?_, ?_, ?_, ?_, ?_, ?_, ?_, ?_⟩
  · refine ⟨power id, 3600, ?_, ?_, trivial⟩
    · decide +kernel
    · decide +kernel
  · refine ⟨power id, 3601, ?_, ?_, trivial⟩
    · decide +kernel
    · decide +kernel
  · refine ⟨power (fun p => { p with brake := true, recent := List.replicate 1000 2700 }), 2700, ?_, ?_, ?_, ?_, trivial⟩
    · decide +kernel
    · decide +kernel
    · decide +kernel
    · decide +kernel
  · refine ⟨power id, 3060, ?_, trivial⟩
    · decide +kernel
  · refine ⟨power id, 3061, ?_, trivial⟩
    · decide +kernel
  · refine ⟨lit id, 143, 31, ?_, trivial⟩
    · decide +kernel
  · refine ⟨st (modPwr (fun p => { p with brake := true }) (lit (fun x => { x with stretching := true })).m), 143, 9, ?_, ?_, trivial⟩
    · decide +kernel
    · decide +kernel
  · refine ⟨st { (lit (fun x => { x with stretching := true })).m with fab := { Fabric.reset with since := some 59000 } }, 143, 9, 59000, ?_, ?_, ?_, trivial⟩
    · decide +kernel
    · decide +kernel
    · decide +kernel
  · refine ⟨lit (fun x => { x with varr := { x.varr with last := some 5000 } }), 143, 0x1154, ?_, ?_, ?_, ?_, ?_, ?_, ?_, trivial⟩
    · exact served_of (by decide +kernel)
    · decide +kernel
    · decide +kernel
    · decide +kernel
    · decide +kernel
    · exact ⟨by decide +kernel, .inr ⟨5000, by decide +kernel, by decide +kernel⟩⟩
    · decide +kernel
  · refine ⟨lit id, 143, 0x00F0, ?_, ?_, ?_, ?_, ?_, ?_, ?_, trivial⟩
    · exact served_of (by decide +kernel)
    · decide +kernel
    · decide +kernel
    · decide +kernel
    · decide +kernel
    · exact ⟨by decide +kernel, .inl (by decide +kernel)⟩
    · decide +kernel
  · refine ⟨st { ready with now := 60000 }, 143, 0x0118, ?_, ?_, ?_, ?_, trivial⟩
    · exact served_of (by decide +kernel)
    · decide +kernel
    · decide +kernel
    · decide +kernel
  · refine ⟨lit (fun x => { x with varr := { x.varr with last := some 5001 } }), 143, 0x1118, ?_, 5001, ?_, ?_, ?_, ?_, ?_, ?_, trivial⟩
    · exact served_of (by decide +kernel)
    · decide +kernel
    · decide +kernel
    · decide +kernel
    · decide +kernel
    · decide +kernel
    · decide +kernel
  · refine ⟨lit id, 143, 0x0155, ?_, ?_, trivial⟩
    · exact served_of (by decide +kernel)
    · decide +kernel
  · refine ⟨lit (fun x => { x with varr := { x.varr with last := some 5001, held := some 330 } }), 143, 330, 5001, ?_, ?_, ?_, ?_, ?_, trivial⟩
    · decide +kernel
    · decide +kernel
    · decide +kernel
    · decide +kernel
    · decide +kernel
  · refine ⟨lit (fun x => { x with varr := { x.varr with settled := false } }), 143, ?_, ?_, trivial⟩
    · decide +kernel
    · decide +kernel
  · refine ⟨lit (fun x => { x with varr := { x.varr with settling := true } }), 143, ?_, ?_, trivial⟩
    · decide +kernel
    · decide +kernel

def vrec : VRec := ⟨310, 320, 5, 6, 7⟩

theorem wit_ThermalLimitsAndVoltageRecords :
    (∃ s : State, ∃ i : Fin 64, ∃ c : Byte, (c.toInt < 70) ∧ True) ∧
    (∃ s : State,
    let p := s.m.pwr
    ∃ i : Fin 32, ∃ c : Byte, (90 ≤ c.toInt) ∧ (c.toInt < 100) ∧ (.stack i ∉ p.warm) ∧ True) ∧
    (∃ s : State,
    let p := s.m.pwr
    ∃ d : Fin 144, ∃ c : Byte, (105 ≤ c.toInt) ∧ (p.thermOff = false) ∧ True) ∧
    (∃ s : State, ∃ i : Byte, ∃ o : Byte, ∃ f : BitVec 16, (20 ≤ i.toInt) ∧ (i.toInt ≤ 45) ∧ (600 ≤ f.toNat) ∧ True) ∧
    (∃ s : State, ∃ i : Byte, ∃ o : Byte, ∃ f : BitVec 16, (i.toInt < 20 ∨ 45 < i.toInt ∨ f.toNat < 600) ∧ True) ∧
    (∃ s : State, ∃ d : Fin 144, ∃ dom : Fin 3, ∃ v : BitVec 11,
    let old := tget none (dpwAt s.m d.val).vrec dom.val
    (recording s.m (.die d dom) = true) ∧ ((∀ r, old = some r → v.toNat < r.vmin.toNat)) ∧ True) ∧
    (∃ s : State, ∃ i : DomInst, ∃ v : BitVec 11, (recording s.m i = false) ∧ True) ∧
    (∃ s : State, ∃ d : Fin 144, ∃ dom : Fin 3, ∃ v : BitVec 11, ∃ r : VRec, (tget none (dpwAt s.m d.val).vrec dom.val = some r) ∧ (r.vmin.toNat ≤ v.toNat) ∧ True) ∧
    (∃ s : State, ∃ d : Fin 144, ∃ v : Word, (Served s.m (0x409020 + 0x10000 * d.val)) ∧ ((fld v 0 4).toNat < 3) ∧ (bit v 31 = false) ∧ True) ∧
    (∃ s : State, ∃ d : Fin 144, ∃ v : Word, (Served s.m (0x409020 + 0x10000 * d.val)) ∧ ((fld v 0 4).toNat < 3) ∧ True) ∧
    (∃ s : State, ∃ v : Word, ∃ k : Nat, (Served s.m 0x3040) ∧ (pwrVmKey v = some k) ∧ (bit v 31 = false) ∧ True) ∧
    (∃ s : State, ∃ v : Word, ∃ k : Nat, (Served s.m 0x3040) ∧ (pwrVmKey v = some k) ∧ True) := by
  refine ⟨?_, ?_, ?_, ?_, ?_, ?_, ?_, ?_, ?_, ?_, ?_, ?_⟩
  · refine ⟨power id, 63, 69, ?_, trivial⟩
    · decide +kernel
  · refine ⟨power id, 31, 99, ?_, ?_, ?_, trivial⟩
    · decide +kernel
    · decide +kernel
    · decide +kernel
  · refine ⟨power id, 143, 105, ?_, ?_, trivial⟩
    · decide +kernel
    · decide +kernel
  · refine ⟨power id, 45, 50, 600, ?_, ?_, ?_, trivial⟩
    · decide +kernel
    · decide +kernel
    · decide +kernel
  · refine ⟨power id, 19, 50, 600, ?_, trivial⟩
    · decide +kernel
  · refine ⟨lit (fun x => { x with vrec := [(2, some vrec)] }), 143, 2, 309, ?_, ?_, trivial⟩
    · decide +kernel
    · decide +kernel
  · refine ⟨st (modDpw 143 (fun x => { x with on := false }) ready), .die 143 2, 309, ?_, trivial⟩
    · decide +kernel
  · refine ⟨lit (fun x => { x with vrec := [(2, some vrec)] }), 143, 2, 310, vrec, ?_, ?_, trivial⟩
    · decide +kernel
    · decide +kernel
  · refine ⟨lit id, 143, 2, ?_, ?_, ?_, trivial⟩
    · exact served_of (by decide +kernel)
    · decide +kernel
    · decide +kernel
  · refine ⟨lit id, 143, 0x80000002, ?_, ?_, trivial⟩
    · exact served_of (by decide +kernel)
    · decide +kernel
  · refine ⟨power id, 0x1F17, 167, ?_, ?_, ?_, trivial⟩
    · exact served_of (by decide +kernel)
    · decide +kernel
    · decide +kernel
  · refine ⟨power id, 0x80000028, 168, ?_, ?_, trivial⟩
    · exact served_of (by decide +kernel)
    · decide +kernel

/-! ### The ledger and host accesses to registers -/

/-- An event of a class with 193 bytes of detail. -/
def event (cls : BitVec 16) : Event := ⟨cls, 0, 0, 0xFFFF, 0xFFFF, 0, List.replicate 193 7, 12⟩
/-- The writer is free at the write point of a block, and AVAIL is `e`. -/
def writer (e : BitVec 16) (f : Ledger → Ledger) : State :=
  st { ready with led := f { ready.led with blocks := [(0, 5, 6)], woff := 64512 }, pwr := { ready.pwr with coul := e, model := e } }
def record (cls : BitVec 16) : LedRec := ⟨9, event cls, 1, 2, false, 6, 3, 0, 256, false⟩
/-- The record is in flight and its write sequence runs. -/
def inFlight (cls : BitVec 16) : Mach :=
  { ready with led := { ready.led with inFlight := some (record cls) }, pwr := { ready.pwr with running := [seqL] } }

theorem wit_TheWriterTakesTheOldestEvent :
    (∃ s : State, ∃ e : Event, ∃ rest : List Event, (s.m.led.protQ = e :: rest) ∧ (WriterFree s.m (evLen e)) ∧ (s.m.pwr.waiting = []) ∧ (50 + owedEnergy s.m + (recordSeq (evLen e)).cost ≤ bankAvail s.m.pwr) ∧ True) ∧
    (∃ s : State, ∃ e : Event, ∃ rest : List Event, (s.m.led.protQ = []) ∧ (s.m.led.sumFinal = false) ∧ (s.m.led.ordQ = e :: rest) ∧ (WriterFree s.m (evLen e)) ∧ (s.m.pwr.waiting = []) ∧ (50 + owedEnergy s.m + (recordSeq (evLen e)).cost ≤ bankAvail s.m.pwr) ∧ True) ∧
    (∃ s : State, ∃ e : Event, ∃ rest : List Event, (s.m.led.protQ = e :: rest) ∧ (WriterFree s.m (evLen e)) ∧ (bankAvail s.m.pwr < 50 + owedEnergy s.m + (recordSeq (evLen e)).cost) ∧ True) ∧
    (∃ s : State, ∃ e : Event, ∃ rest : List Event, ∃ x : Word, (s.m.led.protQ = e :: rest) ∧ (WriterIdle s.m) ∧ (s.m.pwr.waiting = []) ∧ (65536 < s.m.led.woff + evLen e + 512) ∧ (evLen e ≤ 64768) ∧ (blockAt s.m.led (s.m.led.wblock + 1).toNat = (0, x)) ∧ (50 + owedEnergy s.m + (recordSeq (evLen e)).cost ≤ bankAvail s.m.pwr) ∧ True) ∧
    (∃ s : State, (s.m.led.sumDue = true) ∧ (s.m.led.inFlight = none) ∧ ((∀ w ∈ s.m.pwr.running, w.kind ≠ .ledger)) ∧ (s.m.pwr.inloss = false) ∧ (s.m.pwr.vaux = true) ∧ True) ∧
    (∃ s : State, (s.m.led.inFlight ≠ none) ∧ True) ∧
    (∃ e : Event, ∃ l : Ledger, (isProtected e.cls.toNat = true) ∧ (l.protQ.length < 64) ∧ True) ∧
    (∃ e : Event, ∃ l : Ledger, (isProtected e.cls.toNat = true) ∧ (64 ≤ l.protQ.length) ∧ True) ∧
    (∃ e : Event, ∃ l : Ledger, (isProtected e.cls.toNat = false) ∧ (l.ordQ.length < 4032) ∧ True) ∧
    (∃ e : Event, ∃ l : Ledger, (isProtected e.cls.toNat = false) ∧ (4032 ≤ l.ordQ.length) ∧ True) := by
  refine ⟨?_, ?_, ?_, ?_, ?_, ?_, ?_, ?_, ?_, ?_⟩
  · refine ⟨writer 53 (fun l => { l with protQ := [event 1, event 2], waitQ := [event 3] }), event 1, [event 2], ?_, ?_, ?_, ?_, trivial⟩
    · decide +kernel
    · unfold WriterFree WriterIdle; decide +kernel
    · decide +kernel
    · decide +kernel
  · refine ⟨writer 53 (fun l => { l with ordQ := [event 0x20] }), event 0x20, [], ?_, ?_, ?_, ?_, ?_, ?_, trivial⟩
    · decide +kernel
    · decide +kernel
    · decide +kernel
    · unfold WriterFree WriterIdle; decide +kernel
    · decide +kernel
    · decide +kernel
  · refine ⟨writer 52 (fun l => { l with protQ := [event 1] }), event 1, [], ?_, ?_, ?_, trivial⟩
    · decide +kernel
    · unfold WriterFree WriterIdle; decide +kernel
    · decide +kernel
  · refine ⟨writer 300 (fun l => { l with protQ := [event 1], woff := 64513 }), event 1, [], 0, ?_, ?_, ?_, ?_, ?_, ?_, ?_, trivial⟩
    · decide +kernel
    · unfold WriterIdle; decide +kernel
    · decide +kernel
    · decide +kernel
    · decide +kernel
    · decide +kernel
    · decide +kernel
  · refine ⟨writer 53 (fun l => { l with sumDue := true }), ?_, ?_, ?_, ?_, ?_, trivial⟩
    · decide +kernel
    · decide +kernel
    · decide +kernel
    · decide +kernel
    · decide +kernel
  · refine ⟨st (inFlight 1), ?_, trivial⟩
    · decide +kernel
  · refine ⟨event 0x63, { Ledger.reset with protQ := List.replicate 63 (event 1) }, ?_, ?_, trivial⟩
    · decide +kernel
    · decide +kernel
  · refine ⟨event 0x63, { Ledger.reset with protQ := List.replicate 64 (event 1) }, ?_, ?_, trivial⟩
    · decide +kernel
    · decide +kernel
  · refine ⟨event 0x20, { Ledger.reset with ordQ := List.replicate 4031 (event 0x20) }, ?_, ?_, trivial⟩
    · decide +kernel
    · simp
  · refine ⟨event 0x20, { Ledger.reset with ordQ := List.replicate 4032 (event 0x20) }, ?_, ?_, trivial⟩
    · decide +kernel
    · simp

theorem wit_ACommittedRecordIsValid :
    (∃ s : State, ∃ r : LedRec, (s.m.led.inFlight = some r) ∧ ((∃ w ∈ s.m.pwr.running, w.kind = .ledger)) ∧ (s.m.led.finalOut = false) ∧ (r.ev.cls ≠ 0x2) ∧ (r.ev.cls ≠ 0x50) ∧ (s.m.cradle.receiver = none) ∧ True) ∧
    (∃ s : State, ∃ r : LedRec, ∃ x : Byte, (s.m.led.inFlight = some r) ∧ ((∃ w ∈ s.m.pwr.running, w.kind = .ledger)) ∧ (s.m.led.finalOut = false) ∧ (r.ev.cls ≠ 0x2) ∧ (r.ev.cls ≠ 0x50) ∧ (s.m.cradle.receiver = some x) ∧ True) ∧
    (∃ s : State, ∃ r : LedRec, (s.m.led.inFlight = some r) ∧ ((∃ w ∈ s.m.pwr.running, w.kind = .ledger)) ∧ (s.m.led.finalOut = false) ∧ (r.ev.cls = 0x2) ∧ True) := by
  refine ⟨?_, ?_, ?_⟩
  · refine ⟨st (inFlight 1), record 1, ?_, ?_, ?_, ?_, ?_, ?_, trivial⟩
    · decide +kernel
    · decide +kernel
    · decide +kernel
    · decide +kernel
    · decide +kernel
    · decide +kernel
  · refine ⟨st { inFlight 1 with cradle := { ready.cradle with receiver := some 5 } }, record 1, 5, ?_, ?_, ?_, ?_, ?_, ?_, trivial⟩
    · decide +kernel
    · decide +kernel
    · decide +kernel
    · decide +kernel
    · decide +kernel
    · decide +kernel
  · refine ⟨st { inFlight 2 with start := { ready.start with state := 2 } }, record 2, ?_, ?_, ?_, ?_, trivial⟩
    · decide +kernel
    · decide +kernel
    · decide +kernel
    · decide +kernel

/-- The write sequences that run and wait. -/
def sequences (run wait : List WSeq) : State := power (fun p => { p with running := run, waiting := wait })
/-- A key request for index 3: 1 programs it, 2 revokes it. -/
def keyRequest (action : Byte) : List Byte := List.replicate 12 0 ++ [action, 3] ++ List.replicate 242 0
def seqKey (action : Byte) : WSeq := { kind := .fuse (keyRequest action) ⟨15, 77⟩, cost := 100 }
def seqLic (second : Option Nat) : WSeq := { kind := .licence second (List.replicate 512 7) ⟨15, 77⟩, cost := 100 }
/-- The epoch record of a start was written a second time, after a first try that did not end. -/
def twice : Mach :=
  let m := inFlight 2
  { m with start := { m.start with state := 2 }, led := { m.led with flash := [{ record 2 with seq := 8 }] } }

theorem wit_WriteSequencesEndWithTheirResult :
    (∃ s : State, ∃ w : WSeq, ∃ rest : List WSeq, (s.m.pwr.running = w :: rest) ∧ (w.kind = .ledger) ∧ (s.m.led.inFlight = none) ∧ ((rest ≠ [] ∨ s.m.pwr.recal = none)) ∧ True) ∧
    (∃ s : State, ∃ w : WSeq, ∃ r : LedRec, (s.m.pwr.running = [w]) ∧ (w.kind = .ledger) ∧ (s.m.led.inFlight = some r) ∧ (s.m.pwr.waiting ≠ []) ∧ (s.m.pwr.recal = none) ∧ (epochLost r s.m = false) ∧ True) ∧
    (∃ s : State, ∃ w : WSeq, ∃ r : LedRec, (s.m.pwr.running = [w]) ∧ (w.kind = .ledger) ∧ (s.m.led.inFlight = some r) ∧ (s.m.pwr.recal = none) ∧ (s.m.start.state = 2) ∧ (r.ev.cls = 0x2) ∧ ((∃ q ∈ s.m.led.flash, q.valid = false ∧ q.seq ≠ r.seq ∧ q.ev = r.ev)) ∧ True) ∧
    (∃ s : State, ∃ w : WSeq, ∃ r : List Byte, ∃ o : Owed, (s.m.pwr.running = [w]) ∧ (w.kind = .fuse r o) ∧ (s.m.pwr.recal = none) ∧ (keyAction r = 1) ∧ True) ∧
    (∃ s : State, ∃ w : WSeq, ∃ r : List Byte, ∃ o : Owed, (s.m.pwr.running = [w]) ∧ (w.kind = .fuse r o) ∧ (s.m.pwr.recal = none) ∧ (keyAction r = 2) ∧ True) ∧
    (∃ s : State, ∃ w : WSeq, ∃ l : List Byte, ∃ o : Owed, ∃ i : Nat, (s.m.pwr.running = [w]) ∧ (w.kind = .licence none l o) ∧ (s.m.pwr.recal = none) ∧ (emptyEntry s.m.start = some i) ∧ True) ∧
    (∃ s : State, ∃ w : WSeq, ∃ l : List Byte, ∃ o : Owed, ∃ i : Nat, (s.m.pwr.running = [w]) ∧ (w.kind = .licence (some i) l o) ∧ (s.m.pwr.recal = none) ∧ True) := by
  refine ⟨?_, ?_, ?_, ?_, ?_, ?_, ?_⟩
  · refine ⟨sequences [seqL] [], seqL, [], ?_, ?_, ?_, ?_, trivial⟩
    · decide +kernel
    · decide +kernel
    · decide +kernel
    · decide +kernel
  · refine ⟨st { inFlight 1 with pwr := { ready.pwr with running := [seqL], waiting := [seqF] } }, seqL, record 1, ?_, ?_, ?_, ?_, ?_, ?_, trivial⟩
    · decide +kernel
    · decide +kernel
    · decide +kernel
    · decide +kernel
    · decide +kernel
    · decide +kernel
  · refine ⟨st twice, seqL, record 2, ?_, ?_, ?_, ?_, ?_, ?_, ?_, trivial⟩
    · decide +kernel
    · decide +kernel
    · decide +kernel
    · decide +kernel
    · decide +kernel
    · decide +kernel
    · decide +kernel
  · refine ⟨sequences [seqKey 1] [], seqKey 1, keyRequest 1, ⟨15, 77⟩, ?_, ?_, ?_, ?_, trivial⟩
    · decide +kernel
    · decide +kernel
    · decide +kernel
    · decide +kernel
  · refine ⟨sequences [seqKey 2] [], seqKey 2, keyRequest 2, ⟨15, 77⟩, ?_, ?_, ?_, ?_, trivial⟩
    · decide +kernel
    · decide +kernel
    · decide +kernel
    · decide +kernel
  · refine ⟨st { ready with pwr := { ready.pwr with running := [seqLic none] }, start := { ready.start with lic0 := [(0, [])], lic1 := [(1, [])] } }, seqLic none, List.replicate 512 7, ⟨15, 77⟩, 2, ?_, ?_, ?_, ?_, trivial⟩
    · decide +kernel
    · decide +kernel
    · decide +kernel
    · decide +kernel
  · refine ⟨sequences [seqLic (some 1)] [], seqLic (some 1), List.replicate 512 7, ⟨15, 77⟩, 1, ?_, ?_, ?_, trivial⟩
    · decide +kernel
    · decide +kernel
    · decide +kernel

theorem wit_TheCalendarIsSetReadAndStopped :
    (∃ s : State, ∃ v : Word, (Served s.m 0x202C) ∧ (fld v 24 8 = (0xC5 : BitVec 8)) ∧ True) ∧
    (∃ s : State, ∃ v : Word, (Served s.m 0x202C) ∧ (fld v 24 8 ≠ (0xC5 : BitVec 8)) ∧ True) ∧
    (∃ s : State, (Served s.m 0x2020) ∧ True) ∧
    (∃ s : State, (s.m.pwr.vaux = false) ∧ True) := by
  refine ⟨?_, ?_, ?_, ?_⟩
  · refine ⟨st ready, 0xC500FFFF, ?_, ?_, trivial⟩
    · exact served_of (by decide +kernel)
    · decide +kernel
  · refine ⟨st ready, 0xC400FFFF, ?_, ?_, trivial⟩
    · exact served_of (by decide +kernel)
    · decide +kernel
  · refine ⟨st ready, ?_, trivial⟩
    · exact served_of (by decide +kernel)
  · refine ⟨power (fun p => { p with vaux := false }), ?_, trivial⟩
    · decide +kernel

/-- The start flow runs and the host link is up. -/
def starting : State := st (modStart (fun x => { x with state := 5 }) ready)

theorem wit_ReadsAndWritesReachTheRegisters :
    (∃ s : State, ∃ off : BitVec 24, ∃ be : BitVec 4, (Served s.m (off.toNat / 4 * 4)) ∧ True) ∧
    (∃ s : State, ∃ off : BitVec 24, (off.toNat / 4 * 4 = 0x2010) ∧ (Served s.m 0x2010) ∧ True) ∧
    (∃ s : State, ∃ off : BitVec 24, ∃ be : BitVec 4, (off.toNat / 4 * 4 = 0x2010) ∧ (Served s.m 0x2010) ∧ (be ≠ 0xF) ∧ True) ∧
    (∃ s : State, (s.m.start.state ≠ 0) ∧ (s.m.start.state ≠ 7) ∧ (s.m.host.perst = false) ∧ ∃ off : BitVec 24, (0x2000 ≤ off.toNat / 4 * 4) ∧ True) ∧
    (∃ s : State, (s.m.start.state ≠ 0) ∧ (s.m.start.state ≠ 7) ∧ (s.m.host.perst = false) ∧ ∃ off : BitVec 24, (off.toNat / 4 * 4 < 0x2000) ∧ (s.m.ctl.modulePending = false) ∧ True) ∧
    (∃ s : State, (s.m.start.state ≠ 0) ∧ (s.m.start.state ≠ 7) ∧ (s.m.host.perst = false) ∧ ∃ off : BitVec 36, ∃ len : Nat, (1 ≤ len) ∧ (len ≤ 4096) ∧ (off.toNat + len ≤ 2 ^ 36) ∧ True) ∧
    (∃ s : State, (s.m.start.state ≠ 0) ∧ (s.m.start.state ≠ 7) ∧ (s.m.host.perst = false) ∧ ∃ off : BitVec 28, ∃ len : Nat, (1 ≤ len) ∧ (len ≤ 4096) ∧ (off.toNat + len ≤ 2 ^ 28) ∧ True) ∧
    (∃ s : State, (s.m.start.state ≠ 0) ∧ (s.m.start.state ≠ 7) ∧ (s.m.host.perst = false) ∧ True) ∧
    (∃ s : State, ∃ off : BitVec 24, ∃ v : Word, (Served s.m (off.toNat / 4 * 4)) ∧ (off.toNat / 4 * 4 ≠ 0x10) ∧ True) ∧
    (∃ s : State, ∃ off : BitVec 24, ∃ be : BitVec 4, ∃ v : Word, (be ≠ 0xF) ∧ True) ∧
    (∃ s : State, ∃ off : BitVec 24, ∃ v : Word, (off.toNat / 4 * 4 = 0x301C) ∧ (Served s.m 0x301C) ∧ True) ∧
    (∃ s : State, ∃ m : Mach, (m.now = s.m.now) ∧ True) ∧
    (∃ s : State, ∃ m : Mach, (m.now ≠ s.m.now) ∧ True) ∧
    (∃ s : State, ∃ off : BitVec 24, ∃ v : Word, (off.toNat / 4 * 4 = 0x10014) ∧ (Served s.m 0x10014) ∧ True) := by
  refine ⟨?_, ?_, ?_, ?_, ?_, ?_, ?_, ?_, ?_, ?_, ?_, ?_, ?_, ?_⟩
  · refine ⟨st ready, 0x2013, 0xF, ?_, trivial⟩
    · exact served_of (by decide +kernel)
  · refine ⟨st ready, 0x2010, ?_, ?_, trivial⟩
    · decide +kernel
    · exact served_of (by decide +kernel)
  · refine ⟨st ready, 0x2010, 0x7, ?_, ?_, ?_, trivial⟩
    · decide +kernel
    · exact served_of (by decide +kernel)
    · decide +kernel
  · refine ⟨starting, ?_, ?_, ?_, 0x2000, ?_, trivial⟩
    · decide +kernel
    · decide +kernel
    · decide +kernel
    · decide +kernel
  · refine ⟨starting, ?_, ?_, ?_, 0x1FFF, ?_, ?_, trivial⟩
    · decide +kernel
    · decide +kernel
    · decide +kernel
    · decide +kernel
    · decide +kernel
  · refine ⟨starting, ?_, ?_, ?_, 2 ^ 36 - 4096, 4096, ?_, ?_, ?_, trivial⟩
    · decide +kernel
    · decide +kernel
    · decide +kernel
    · decide +kernel
    · decide +kernel
    · decide +kernel
  · refine ⟨starting, ?_, ?_, ?_, 2 ^ 28 - 4096, 4096, ?_, ?_, ?_, trivial⟩
    · decide +kernel
    · decide +kernel
    · decide +kernel
    · decide +kernel
    · decide +kernel
    · decide +kernel
  · refine ⟨starting, ?_, ?_, ?_, trivial⟩
    · decide +kernel
    · decide +kernel
    · decide +kernel
  · refine ⟨st ready, 0x10014, 0x1FFF, ?_, ?_, trivial⟩
    · exact served_of (by decide +kernel)
    · decide +kernel
  · refine ⟨st ready, 0x10014, 0x7, 5, ?_, trivial⟩
    · decide +kernel
  · refine ⟨st ready, 0x301F, 0xFFFF, ?_, ?_, trivial⟩
    · decide +kernel
    · exact served_of (by decide +kernel)
  · refine ⟨st ready, ready, ?_, trivial⟩
    · decide +kernel
  · refine ⟨st ready, { ready with now := 1 }, ?_, trivial⟩
    · decide +kernel
  · refine ⟨st ready, 0x10017, 0x1FFF, ?_, ?_, trivial⟩
    · decide +kernel
    · exact served_of (by decide +kernel)

theorem wit_RegisterWritesWithAnEffectOfTheirOwn :
    (∃ s : State, ∃ v : Word, (Served s.m 0x2068) ∧ True) ∧
    (∃ s : State, ∃ d : Fin 144, ∃ v : Word, (Served s.m (0x405000 + 0x10000 * d.val)) ∧ True) ∧
    (∃ s : State, ∃ v : Word, (Served s.m 0x100000) ∧ (s.m.start.locked = true) ∧ True) ∧
    (∃ s : State, ∃ v : Word, ∃ a : BitVec 5, ∃ b : BitVec 5, ∃ c : BitVec 5, (Served s.m 0x100000) ∧ (s.m.start.locked = false) ∧ (fld v 0 5 = a) ∧ (fld v 5 5 = b) ∧ (fld v 10 5 = c) ∧ (a ≠ 0) ∧ (b ≠ 0) ∧ (c ≠ 0) ∧ (a.toNat + b.toNat + c.toNat = 16) ∧ True) ∧
    (∃ s : State, ∃ v : Word, ∃ a : BitVec 5, ∃ b : BitVec 5, ∃ c : BitVec 5, (Served s.m 0x100000) ∧ (s.m.start.locked = false) ∧ (fld v 0 5 = a) ∧ (fld v 5 5 = b) ∧ (fld v 10 5 = c) ∧ ((a = 0 ∨ b = 0 ∨ c = 0 ∨ a.toNat + b.toNat + c.toNat ≠ 16)) ∧ True) ∧
    (∃ s : State, ∃ v : Word, (Served s.m 0x100004) ∧ (s.m.start.locked = true) ∧ True) ∧
    (∃ s : State, ∃ v : Word, (Served s.m 0x100004) ∧ (s.m.start.locked = false) ∧ (fld v 0 4 ≠ (0 : BitVec 4)) ∧ True) ∧
    (∃ s : State, ∃ v : Word, (Served s.m 0x100004) ∧ (s.m.start.locked = false) ∧ (fld v 0 4 = (0 : BitVec 4)) ∧ True) := by
  refine ⟨?_, ?_, ?_, ?_, ?_, ?_, ?_, ?_⟩
  · refine ⟨st ready, 0x7FFF, ?_, trivial⟩
    · exact served_of (by decide +kernel)
  · refine ⟨st ready, 0, 3, ?_, trivial⟩
    · exact served_of (by decide +kernel)
  · refine ⟨st (modStart (fun x => { x with locked := true }) ready), 0, ?_, ?_, trivial⟩
    · exact served_of (by decide +kernel)
    · decide +kernel
  · refine ⟨st ready, 0x042E, 14, 1, 1, ?_, ?_, ?_, ?_, ?_, ?_, ?_, ?_, ?_, trivial⟩
    · exact served_of (by decide +kernel)
    · decide +kernel
    · decide +kernel
    · decide +kernel
    · decide +kernel
    · decide +kernel
    · decide +kernel
    · decide +kernel
    · decide +kernel
  · refine ⟨st ready, 0x042F, 15, 1, 1, ?_, ?_, ?_, ?_, ?_, ?_, trivial⟩
    · exact served_of (by decide +kernel)
    · decide +kernel
    · decide +kernel
    · decide +kernel
    · decide +kernel
    · decide +kernel
  · refine ⟨st (modStart (fun x => { x with locked := true }) ready), 0, ?_, ?_, trivial⟩
    · exact served_of (by decide +kernel)
    · decide +kernel
  · refine ⟨st ready, 15, ?_, ?_, ?_, trivial⟩
    · exact served_of (by decide +kernel)
    · decide +kernel
    · decide +kernel
  · refine ⟨st ready, 16, ?_, ?_, ?_, trivial⟩
    · exact served_of (by decide +kernel)
    · decide +kernel
    · decide +kernel

/-! ### The cradle -/

/-- A firmware update of 256 bytes over PLDM at a stage. -/
def upd (g : UpdStage) : Upd := ⟨false, g, true, 256, List.replicate 192 7⟩
def updating (g : UpdStage) : State :=
  st { ready with cradle := { ready.cradle with upd := some (upd g) }, pwr := { ready.pwr with coul := 60000, model := 60000 } }
def spdm (state : BitVec 4) (n : BitVec 2) : State :=
  st { ready with cradle := { ready.cradle with spdm := n }, start := { ready.start with state := state } }

/-- Which records the module has is free: one of the two clauses of GetPDR has its state. -/
theorem wit_getpdr : (∃ s : State, ∃ h : Word, OnBus s.m ∧ Config.pdr h.toNat ≠ []) ∨
    ∃ s : State, ∃ h : Word, OnBus s.m ∧ Config.pdr h.toNat = [] := by
  by_cases h : Config.pdr (1 : Word).toNat = []
  · exact .inr ⟨st ready, 1, ⟨by decide +kernel, by decide +kernel⟩, h⟩
  · exact .inl ⟨st ready, 1, ⟨by decide +kernel, by decide +kernel⟩, h⟩

theorem wit_TheEndpointAnswersDiscoveryAndTime :
    (∃ s : State, (OnBus s.m) ∧ True) ∧
    (∃ s : State, (OnBus s.m) ∧ ∃ t : Byte, (t ≠ 0) ∧ (t ≠ 2) ∧ (t ≠ 3) ∧ (t ≠ 5) ∧ True) := by
  refine ⟨?_, ?_⟩
  · refine ⟨st ready, ?_, trivial⟩
    · unfold OnBus; decide +kernel
  · refine ⟨st ready, ?_, 0x7F, ?_, ?_, ?_, ?_, trivial⟩
    · unfold OnBus; decide +kernel
    · decide +kernel
    · decide +kernel
    · decide +kernel
    · decide +kernel

theorem wit_TheMailboxListsItsObjects :
    (∃ s : State, (s.m.start.state ≠ 0) ∧ (s.m.host.perst = false) ∧ True) ∧
    (∃ s : State, (s.m.start.state ≠ 0) ∧ (s.m.host.perst = false) ∧ ∃ i : Byte, (1 < i.toNat) ∧ True) := by
  refine ⟨?_, ?_⟩
  · refine ⟨st ready, ?_, ?_, trivial⟩
    · decide +kernel
    · decide +kernel
  · refine ⟨st ready, ?_, ?_, 2, ?_, trivial⟩
    · decide +kernel
    · decide +kernel
    · decide +kernel

theorem wit_SensorsEffecterAndEvents :
    (∃ s : State, (OnBus s.m) ∧ True) ∧
    (∃ s : State, (OnBus s.m) ∧ ∃ i : BitVec 16, (i = 0 ∨ 13 < i.toNat) ∧ True) ∧
    (∃ s : State, (OnBus s.m) ∧ ∃ i : BitVec 16, (i.toNat < 14 ∨ 16 < i.toNat) ∧ True) ∧
    (∃ s : State, (OnBus s.m) ∧ (s.m.start.state = 7) ∧ (s.m.ctl.modulePending = false) ∧ True) ∧
    (∃ s : State, (OnBus s.m) ∧ (s.m.pwr.down = none) ∧ True) ∧
    (∃ s : State, (OnBus s.m) ∧ (s.m.pwr.down ≠ none) ∧ True) ∧
    (∃ s : State, (OnBus s.m) ∧ ∃ x, (x ≠ 1) ∧ (x ≠ 2) ∧ True) ∧
    (∃ s : State, (OnBus s.m) ∧ ∃ e, (e ≠ 17) ∧ True) ∧
    (∃ s : State, (OnBus s.m) ∧ (s.m.cradle.held = []) ∧ True) ∧
    (∃ s : State, (OnBus s.m) ∧ ∃ r, ∃ rest, (s.m.cradle.held = r :: rest) ∧ True) := by
  refine ⟨?_, ?_, ?_, ?_, ?_, ?_, ?_, ?_, ?_, ?_⟩
  · refine ⟨st ready, ?_, trivial⟩
    · unfold OnBus; decide +kernel
  · refine ⟨st ready, ?_, 14, ?_, trivial⟩
    · unfold OnBus; decide +kernel
    · decide +kernel
  · refine ⟨st ready, ?_, 17, ?_, trivial⟩
    · unfold OnBus; decide +kernel
    · decide +kernel
  · refine ⟨st ready, ?_, ?_, ?_, trivial⟩
    · unfold OnBus; decide +kernel
    · decide +kernel
    · decide +kernel
  · refine ⟨st ready, ?_, ?_, trivial⟩
    · unfold OnBus; decide +kernel
    · decide +kernel
  · refine ⟨power (fun p => { p with down := some (0, .stay) }), ?_, ?_, trivial⟩
    · unfold OnBus; decide +kernel
    · decide +kernel
  · refine ⟨st ready, ?_, 3, ?_, ?_, trivial⟩
    · unfold OnBus; decide +kernel
    · decide +kernel
    · decide +kernel
  · refine ⟨st ready, ?_, 16, ?_, trivial⟩
    · unfold OnBus; decide +kernel
    · decide +kernel
  · refine ⟨st ready, ?_, ?_, trivial⟩
    · unfold OnBus; decide +kernel
    · decide +kernel
  · refine ⟨st { ready with cradle := { ready.cradle with held := [record 1, record 2] } }, ?_, record 1, [record 2], ?_, trivial⟩
    · unfold OnBus; decide +kernel
    · decide +kernel

theorem wit_FirmwareUpdatesGoThroughTheirStages :
    (∃ s : State, (OnBus s.m) ∧ True) ∧
    (∃ s : State, (OnBus s.m) ∧ (s.m.cradle.upd = none) ∧ True) ∧
    (∃ s : State, (OnBus s.m) ∧ (s.m.cradle.upd ≠ none) ∧ True) ∧
    (∃ s : State, (OnBus s.m) ∧ ∃ x, (Updating s.m x .ready) ∧ True) ∧
    (∃ s : State, (OnBus s.m) ∧ ∃ x, ∃ n : Word, (Updating s.m x .table) ∧ (n ≠ 0) ∧ (n.toNat ≤ 0x4000000) ∧ True) ∧
    (∃ s : State, (OnBus s.m) ∧ ∃ x, ∃ off : Word, ∃ data : List Byte, (Updating s.m x .transfer) ∧ (off.toNat = x.data.length) ∧ (data ≠ []) ∧ (x.data.length + data.length < x.length) ∧ True) ∧
    (∃ s : State, (OnBus s.m) ∧ ∃ x, ∃ off : Word, ∃ data : List Byte, (Updating s.m x .transfer) ∧ (off.toNat = x.data.length) ∧ (data ≠ []) ∧ (x.data.length + data.length = x.length) ∧ (s.m.pwr.waiting = []) ∧
    let n := x.data.length + data.length
    let w : WSeq := { kind := .image (!s.m.start.slot) (x.data ++ data) (ceilDiv n 65536 - 1) none
                      cost := seqCost (min 256 (ceilDiv n 256)) 1 }
    (mayStart s.m w.cost = true) ∧ True) ∧
    (∃ s : State, (OnBus s.m) ∧ ∃ x, (Updating s.m x .complete) ∧ True) ∧
    (∃ s : State, (OnBus s.m) ∧ ∃ x, (Updating s.m x .failed) ∧ True) ∧
    (∃ s : State, (OnBus s.m) ∧ ∃ x, (s.m.cradle.upd = some x) ∧ (x.host = false) ∧ True) := by
  refine ⟨?_, ?_, ?_, ?_, ?_, ?_, ?_, ?_, ?_, ?_⟩
  · refine ⟨st ready, ?_, trivial⟩
    · unfold OnBus; decide +kernel
  · refine ⟨st ready, ?_, ?_, trivial⟩
    · unfold OnBus; decide +kernel
    · decide +kernel
  · refine ⟨updating .ready, ?_, ?_, trivial⟩
    · unfold OnBus; decide +kernel
    · decide +kernel
  · refine ⟨updating .ready, ?_, upd .ready, ?_, trivial⟩
    · unfold OnBus; decide +kernel
    · unfold Updating; decide +kernel
  · refine ⟨updating .table, ?_, upd .table, 0x4000000, ?_, ?_, ?_, trivial⟩
    · unfold OnBus; decide +kernel
    · unfold Updating; decide +kernel
    · decide +kernel
    · decide +kernel
  · refine ⟨updating .transfer, ?_, upd .transfer, 192, List.replicate 63 7, ?_, ?_, ?_, ?_, trivial⟩
    · unfold OnBus; decide +kernel
    · unfold Updating; decide +kernel
    · decide +kernel
    · decide +kernel
    · decide +kernel
  · refine ⟨updating .transfer, ?_, upd .transfer, 192, List.replicate 64 7, ?_, ?_, ?_, ?_, ?_, ?_, trivial⟩
    · unfold OnBus; decide +kernel
    · unfold Updating; decide +kernel
    · decide +kernel
    · decide +kernel
    · decide +kernel
    · decide +kernel
    · decide +kernel
  · refine ⟨updating .complete, ?_, upd .complete, ?_, trivial⟩
    · unfold OnBus; decide +kernel
    · unfold Updating; decide +kernel
  · refine ⟨updating .failed, ?_, upd .failed, ?_, trivial⟩
    · unfold OnBus; decide +kernel
    · unfold Updating; decide +kernel
  · refine ⟨updating .transfer, ?_, upd .transfer, ?_, ?_, trivial⟩
    · unfold OnBus; decide +kernel
    · decide +kernel
    · decide +kernel

theorem wit_TheSpdmResponderAttests :
    (∃ s : State, (SpdmAt s.m 0) ∧ True) ∧
    (∃ s : State, (SpdmAt s.m 1) ∧ True) ∧
    (∃ s : State, (SpdmAt s.m 2) ∧ True) ∧
    (∃ s : State, (SpdmAt s.m 2) ∧ ∃ h, ∃ g, ((h && g) = false) ∧ True) ∧
    (∃ s : State, (SpdmAt s.m 3) ∧ True) ∧
    (∃ s : State, (SpdmAt s.m 3) ∧ ∃ off : BitVec 16, ∃ n : BitVec 16, (off.toNat ≤ Config.certChain.length) ∧ True) ∧
    (∃ s : State, (SpdmAt s.m 3) ∧ ∃ slot : Byte, ∃ off : BitVec 16, ∃ n : BitVec 16, (slot ≠ 0) ∧ True) ∧
    (∃ s : State, (SpdmAt s.m 3) ∧ ∃ slot : Byte, (slot ≠ 0) ∧ True) ∧
    (∃ s : State, (SpdmAt s.m 3) ∧ (s.m.start.state = 7) ∧ True) ∧
    (∃ s : State, (SpdmAt s.m 3) ∧ (s.m.start.state = 8) ∧ True) ∧
    (∃ s : State, (SpdmAt s.m 3) ∧ ∃ i : Byte, (s.m.start.state = 7) ∧ (1 ≤ i.toNat) ∧ (i.toNat ≤ 8) ∧ True) ∧
    (∃ s : State, (SpdmAt s.m 3) ∧ ∃ i : Byte, ∃ nonce : BitVec 256, ∃ x : List Byte, (measData i.toNat s.m = some x) ∧ True) ∧
    (∃ s : State, (SpdmAt s.m 3) ∧ ∃ i : Byte, ∃ slot : Byte, ∃ nonce : BitVec 256, (slot ≠ 0) ∧ True) ∧
    (∃ s : State, (SpdmAt s.m 3) ∧ ∃ i : Byte, (s.m.start.state = 8) ∧ (i ≠ 0) ∧ (i ≠ 1) ∧ (i ≠ 6) ∧ (i ≠ 0xFF) ∧ True) ∧
    (∃ s : State, (OnBus s.m) ∧ ((s.m.start.state = 7 ∨ s.m.start.state = 8)) ∧ (s.m.cradle.spdm.toNat < 3) ∧ True) ∧
    (∃ s : State, (s.m.start.state ≠ 7) ∧ (s.m.start.state ≠ 8) ∧ True) := by
  refine ⟨?_, ?_, ?_, ?_, ?_, ?_, ?_, ?_, ?_, ?_, ?_, ?_, ?_, ?_, ?_, ?_⟩
  · refine ⟨spdm 7 0, ?_, trivial⟩
    · unfold SpdmAt OnBus; decide +kernel
  · refine ⟨spdm 7 1, ?_, trivial⟩
    · unfold SpdmAt OnBus; decide +kernel
  · refine ⟨spdm 7 2, ?_, trivial⟩
    · unfold SpdmAt OnBus; decide +kernel
  · refine ⟨spdm 7 2, ?_, true, false, ?_, trivial⟩
    · unfold SpdmAt OnBus; decide +kernel
    · decide +kernel
  · refine ⟨spdm 8 3, ?_, trivial⟩
    · unfold SpdmAt OnBus; decide +kernel
  · refine ⟨spdm 8 3, ?_, 0, 64, ?_, trivial⟩
    · unfold SpdmAt OnBus; decide +kernel
    · exact Nat.zero_le _
  · refine ⟨spdm 8 3, ?_, 1, 0, 64, ?_, trivial⟩
    · unfold SpdmAt OnBus; decide +kernel
    · decide +kernel
  · refine ⟨spdm 8 3, ?_, 1, ?_, trivial⟩
    · unfold SpdmAt OnBus; decide +kernel
    · decide +kernel
  · refine ⟨spdm 7 3, ?_, ?_, trivial⟩
    · unfold SpdmAt OnBus; decide +kernel
    · decide +kernel
  · refine ⟨spdm 8 3, ?_, ?_, trivial⟩
    · unfold SpdmAt OnBus; decide +kernel
    · decide +kernel
  · refine ⟨spdm 7 3, ?_, 8, ?_, ?_, ?_, trivial⟩
    · unfold SpdmAt OnBus; decide +kernel
    · decide +kernel
    · decide +kernel
    · decide +kernel
  · refine ⟨spdm 7 3, ?_, 0, 7, [8], ?_, trivial⟩
    · unfold SpdmAt OnBus; decide +kernel
    · decide +kernel
  · refine ⟨spdm 7 3, ?_, 8, 1, 7, ?_, trivial⟩
    · unfold SpdmAt OnBus; decide +kernel
    · decide +kernel
  · refine ⟨spdm 8 3, ?_, 8, ?_, ?_, ?_, ?_, ?_, trivial⟩
    · unfold SpdmAt OnBus; decide +kernel
    · decide +kernel
    · decide +kernel
    · decide +kernel
    · decide +kernel
    · decide +kernel
  · refine ⟨spdm 7 2, ?_, ?_, ?_, trivial⟩
    · unfold OnBus; decide +kernel
    · decide +kernel
    · decide +kernel
  · refine ⟨spdm 1 0, ?_, ?_, trivial⟩
    · decide +kernel
    · decide +kernel

/-! ### The host link -/

def hostBlk (f : HostBlk → HostBlk) : State := st { ready with host := f ready.host }
/-- Ring 15 as `f` makes it. -/
def ring (f : Ring → Ring) : State := st (modRing 15 f ready)
def ringOn (f : Ring → Ring) : State := ring (fun r => f { r with en := true, ver := 2, head := 15, tailDb := 3, log2 := 16, cpLog2 := 16 })
def compl (irq : Bool) (c : BitVec 16) : Compl := ⟨c, 0x28, irq, 0, 0, .normal, 15, true⟩

theorem wit_TheHostBlockIsReset :
    (∃ s : State, (7 ≤ s.m.start.state.toNat) ∧ True) ∧
    (∃ s : State, (s.m.start.state.toNat < 7) ∧ True) ∧
    (∃ s : State, ∃ g : BitVec 5, ∃ w : BitVec 5, ∃ f : Bool, (s.m.host.perst = true) ∧
    let n := min (fld g 0 4 : BitVec 4).toNat (if f then 6 else 5)
    let k := ([16, 8, 4, 2, 1].find? (fun i => decide (i ≤ w.toNat))).getD 0
    (3 ≤ n) ∧ (k ≠ 0) ∧ True) ∧
    (∃ s : State, ∃ g : BitVec 5, ∃ w : BitVec 5, ∃ f : Bool, (s.m.host.perst = true) ∧
    let n := min (fld g 0 4 : BitVec 4).toNat (if f then 6 else 5)
    let k := ([16, 8, 4, 2, 1].find? (fun i => decide (i ≤ w.toNat))).getD 0
    (n < 3 ∨ k = 0) ∧ True) := by
  refine ⟨?_, ?_, ?_, ?_⟩
  · refine ⟨st ready, ?_, trivial⟩
    · decide +kernel
  · refine ⟨starting, ?_, trivial⟩
    · decide +kernel
  · refine ⟨hostBlk (fun h => { h with perst := true }), 5, 16, true, ?_, ?_, ?_, trivial⟩
    · decide +kernel
    · decide +kernel
    · decide +kernel
  · refine ⟨hostBlk (fun h => { h with perst := true }), 2, 16, true, ?_, ?_, trivial⟩
    · decide +kernel
    · decide +kernel

theorem wit_TheApertureReachesEdgeMemory :
    (∃ s : State, ∃ off : BitVec 36, ∃ len : Nat, (InBar4 off len) ∧ (ApServed s.m off len) ∧ ((∀ cw, apEa s.m off / 32 ≤ cw → 32 * cw < apEa s.m off + len → GoodCw s.m cw)) ∧ True) ∧
    (∃ s : State, ∃ off : BitVec 36, ∃ len : Nat, (InBar4 off len) ∧ (s.m.start.state ≠ 7) ∧ True) ∧
    (∃ s : State, ∃ off : BitVec 36, ∃ len : Nat, (InBar4 off len) ∧ (s.m.start.state = 7) ∧ (stackOut s.m s.m.host.apsel.toNat = true) ∧ True) ∧
    (∃ s : State, ∃ off : BitVec 36, ∃ data : List Byte, (InBar4 off data.length) ∧ (ApServed s.m off data.length) ∧ (off.toNat % 32 = 0) ∧ (data.length % 32 = 0) ∧ (Undisturbed s.m s.m.host.apsel.toNat) ∧ True) ∧
    (∃ s : State, ∃ off : BitVec 36, ∃ data : List Byte, (InBar4 off data.length) ∧ (ApServed s.m off data.length) ∧ (off.toNat % 32 ≠ 0 ∨ data.length % 32 ≠ 0) ∧ True) ∧
    (∃ s : State, ∃ off : BitVec 28, ∃ len : Nat, (InBar2 s.m off len) ∧ True) ∧
    (∃ s : State, ∃ off : BitVec 28, ∃ data : List Byte, (InBar2 s.m off data.length) ∧ (0x1000000 ≤ off.toNat) ∧ (off.toNat + data.length ≤ 0x1400000) ∧ True) ∧
    (∃ s : State, ∃ off : BitVec 28, ∃ data : List Byte, (InBar2 s.m off data.length) ∧ ((0x10000 ≤ off.toNat ∧ off.toNat + data.length ≤ 0x1000000) ∨ 0x1400000 ≤ off.toNat) ∧ True) ∧
    (∃ s : State, ∃ q : Fin 16, ∃ v : Word, (s.m.start.state = 7) ∧ (s.m.host.perst = false) ∧ True) := by
  refine ⟨?_, ?_, ?_, ?_, ?_, ?_, ?_, ?_, ?_⟩
  · refine ⟨hostBlk (fun h => { h with apsel := 31 }), 2 ^ 36 - 4096, 4096, ?_, ?_, ?_, trivial⟩
    · unfold InBar4; decide +kernel
    · unfold ApServed; decide +kernel
    · exact fun cw _ _ => goodCw_clean rfl rfl cw
  · refine ⟨starting, 0, 1, ?_, ?_, trivial⟩
    · unfold InBar4; decide +kernel
    · decide +kernel
  · refine ⟨stack 0 (fun k => { k with failed := true }), 1, 1, ?_, ?_, ?_, trivial⟩
    · unfold InBar4; decide +kernel
    · decide +kernel
    · decide +kernel
  · refine ⟨hostBlk (fun h => { h with apsel := 31 }), 2 ^ 36 - 32, List.replicate 32 7, ?_, ?_, ?_, ?_, ?_, trivial⟩
    · unfold InBar4; decide +kernel
    · unfold ApServed; decide +kernel
    · decide +kernel
    · decide +kernel
    · unfold Undisturbed; decide +kernel
  · refine ⟨hostBlk (fun h => { h with apsel := 31 }), 2 ^ 36 - 33, List.replicate 32 7, ?_, ?_, ?_, trivial⟩
    · unfold InBar4; decide +kernel
    · unfold ApServed; decide +kernel
    · decide +kernel
  · refine ⟨st ready, 2 ^ 28 - 4096, 4096, ?_, trivial⟩
    · unfold InBar2; decide +kernel
  · refine ⟨st ready, 0x1400000 - 32, List.replicate 32 7, ?_, ?_, ?_, trivial⟩
    · unfold InBar2; decide +kernel
    · decide +kernel
    · decide +kernel
  · refine ⟨st ready, 0x10000, [7], ?_, ?_, trivial⟩
    · unfold InBar2; decide +kernel
    · decide +kernel
  · refine ⟨st ready, 15, 0xFFFF, ?_, ?_, trivial⟩
    · decide +kernel
    · decide +kernel

theorem wit_RingsAreConfiguredAndRung :
    (∃ s : State, ∃ q : Fin 16, ∃ v : Word, (Served s.m (0x10108 + 0x40 * q.val)) ∧ ((ringAt s.m q.val).en = false) ∧ (inflight (ringAt s.m q.val) = 0) ∧ True) ∧
    (∃ s : State, ∃ q : Fin 16, ∃ v : Word, (Served s.m (0x10108 + 0x40 * q.val)) ∧ ((ringAt s.m q.val).en = true) ∧ (bit v 30 = (ringAt s.m q.val).loc) ∧ (fld v 28 2 = (ringAt s.m q.val).ver) ∧ (fld v 0 5 = (ringAt s.m q.val).log2) ∧ True) ∧
    (∃ s : State, ∃ q : Fin 16, ∃ off : BitVec 6, ∃ v : Word, (Served s.m (0x10100 + 0x40 * q.val)) ∧ ((ringAt s.m q.val).en = true) ∧ (off ∈ ([0x00, 0x04, 0x0C, 0x10, 0x14, 0x18, 0x1C, 0x20] : List (BitVec 6))) ∧ True) ∧
    (∃ s : State, ∃ q : Fin 16, ∃ v : Word, (Served s.m (0x10100 + 0x40 * q.val)) ∧ ((ringAt s.m q.val).en = false) ∧ True) ∧
    (∃ s : State, ∃ q : Fin 16, ∃ v : Word, (RingOn s.m q.val) ∧ ((fld v 0 16 : BitVec 16).toNat < ringSize (ringAt s.m q.val).log2) ∧ True) ∧
    (∃ s : State, ∃ q : Fin 16, ∃ v : Word, (RingOn s.m q.val) ∧ (ringSize (ringAt s.m q.val).log2 ≤ (fld v 0 16 : BitVec 16).toNat) ∧ True) ∧
    (∃ s : State, ∃ q : Fin 16, ∃ v : Word, (RingOn s.m q.val) ∧ ((fld v 0 16 : BitVec 16).toNat < ringSize (ringAt s.m q.val).cpLog2) ∧ True) ∧
    (∃ s : State, ∃ q : Fin 16, ∃ v : Word, (RingOn s.m q.val) ∧ (ringSize (ringAt s.m q.val).cpLog2 ≤ (fld v 0 16 : BitVec 16).toNat) ∧ True) := by
  refine ⟨?_, ?_, ?_, ?_, ?_, ?_, ?_, ?_⟩
  · refine ⟨ring id, 15, 0xE0000010, ?_, ?_, ?_, trivial⟩
    · exact served_of (by decide +kernel)
    · decide +kernel
    · decide +kernel
  · refine ⟨ringOn id, 15, 0x20000010, ?_, ?_, ?_, ?_, ?_, trivial⟩
    · exact served_of (by decide +kernel)
    · decide +kernel
    · decide +kernel
    · decide +kernel
    · decide +kernel
  · refine ⟨ringOn id, 15, 0x18, 5, ?_, ?_, ?_, trivial⟩
    · exact served_of (by decide +kernel)
    · decide +kernel
    · decide +kernel
  · refine ⟨ring id, 15, 5, ?_, ?_, trivial⟩
    · exact served_of (by decide +kernel)
    · decide +kernel
  · refine ⟨ringOn id, 15, 0xFFFF, ?_, ?_, trivial⟩
    · unfold RingOn; decide +kernel
    · decide +kernel
  · refine ⟨ringOn (fun r => { r with log2 := 15 }), 15, 0x8000, ?_, ?_, trivial⟩
    · unfold RingOn; decide +kernel
    · decide +kernel
  · refine ⟨ringOn id, 15, 0xFFFF, ?_, ?_, trivial⟩
    · unfold RingOn; decide +kernel
    · decide +kernel
  · refine ⟨ringOn (fun r => { r with cpLog2 := 4 }), 15, 16, ?_, ?_, trivial⟩
    · unfold RingOn; decide +kernel
    · decide +kernel

theorem wit_DescriptorsAreFetchedInTurn :
    (∃ s : State, ∃ q : Fin 16, ∃ d : Desc, (Fetchable s.m q.val) ∧ ((ringAt s.m q.val).loc = false) ∧ True) ∧
    (∃ s : State, ∃ q : Fin 16, (Fetchable s.m q.val) ∧ ((ringAt s.m q.val).loc = false) ∧ True) ∧
    (∃ s : State, ∃ q : Fin 16, (Fetchable s.m q.val) ∧ ((ringAt s.m q.val).loc = true) ∧
    let a := (ringAt s.m q.val).cqBase.toNat + 64 * (ringAt s.m q.val).head.toNat
    (0x1000000 ≤ a) ∧ (a + 64 ≤ 0x1400000) ∧ True) ∧
    (∃ s : State, ∃ q : Fin 16, (Fetchable s.m q.val) ∧ ((ringAt s.m q.val).loc = true) ∧
    let a := (ringAt s.m q.val).cqBase.toNat + 64 * (ringAt s.m q.val).head.toNat
    (a < 0x1000000 ∨ 0x1400000 < a + 64) ∧ True) ∧
    (∃ s : Mach, ∃ q : Nat, ((∀ c ∈ (ringAt s q).cmds, c.started = false → knownOpc c.ver (cB c.desc 0 1) = true)) ∧ True) ∧
    (∃ s : State, ∃ q : Fin 16, ∃ d : Desc, (Fetchable s.m q.val) ∧ ((ringAt s.m q.val).loc = false) ∧ ((ringAt s.m q.val).cmds = []) ∧ (knownOpc (ringVer (ringAt s.m q.val)) (cB d 0 1) = false) ∧ True) ∧
    (∃ s : State, ∃ q : Fin 16, ∃ d : Desc, ∃ c : RunCmd, (Fetchable s.m q.val) ∧ ((ringAt s.m q.val).loc = false) ∧ ((ringAt s.m q.val).cmds = [c]) ∧ (c.started = true) ∧ (c.tok ≠ s.m.host.accepted) ∧ (bit d 9 = true) ∧ (knownOpc (ringVer (ringAt s.m q.val)) (cB d 0 1) = false) ∧ True) ∧
    (∃ s : State, ∃ q : Fin 16, ∃ d : Option Desc, (ringTurn s.m ≠ some q.val) ∧ True) := by
  refine ⟨?_, ?_, ?_, ?_, ?_, ?_, ?_, ?_⟩
  · refine ⟨ringOn id, 15, desc 0x5A [], ?_, ?_, trivial⟩
    · unfold Fetchable; decide +kernel
    · decide +kernel
  · refine ⟨ringOn id, 15, ?_, ?_, trivial⟩
    · unfold Fetchable; decide +kernel
    · decide +kernel
  · refine ⟨ringOn (fun r => { r with loc := true, cqBase := 0x13FFC00 }), 15, ?_, ?_, ?_, ?_, trivial⟩
    · unfold Fetchable; decide +kernel
    · decide +kernel
    · decide +kernel
    · decide +kernel
  · refine ⟨ringOn (fun r => { r with loc := true, cqBase := 0x13FFC40 }), 15, ?_, ?_, ?_, trivial⟩
    · unfold Fetchable; decide +kernel
    · decide +kernel
    · decide +kernel
  · refine ⟨(ringOn (fun r => { r with cmds := [cmdOf (desc 0x28 [])] })).m, 15, ?_, trivial⟩
    · decide +kernel
  · refine ⟨ringOn (fun r => { r with ver := 1 }), 15, desc 0x5A [], ?_, ?_, ?_, ?_, trivial⟩
    · unfold Fetchable; decide +kernel
    · decide +kernel
    · decide +kernel
    · decide +kernel
  · refine ⟨ringOn (fun r => { r with cmds := [{ cmdOf 0 with started := true }] }), 15, desc 0x7F [(1, 2)], { cmdOf 0 with started := true }, ?_, ?_, ?_, ?_, ?_, ?_, ?_, trivial⟩
    · unfold Fetchable; decide +kernel
    · decide +kernel
    · decide +kernel
    · decide +kernel
    · decide +kernel
    · decide +kernel
    · decide +kernel
  · refine ⟨ring id, 15, none, ?_, trivial⟩
    · decide +kernel

theorem wit_CompletionsAreWrittenToTheirSlots :
    (∃ s : State, ∃ q : Fin 16, ∃ c : Compl, ∃ rest : List Compl, ((ringAt (settleUnknown q.val s.m) q.val).fin = c :: rest) ∧ ((∀ x ∈ c :: rest, x.mode = .normal)) ∧ (c.irq = false) ∧ True) ∧
    (∃ s : State, ∃ q : Fin 16, ∃ c : Compl, ∃ rest : List Compl, ((ringAt (settleUnknown q.val s.m) q.val).fin = c :: rest) ∧ ((∀ x ∈ c :: rest, x.mode = .normal)) ∧ (c.irq = true) ∧ ((ringAt s.m q.val).coalCnt = 0) ∧ True) ∧
    (∃ s : State, ∃ q : Fin 16, ∃ c : Compl, ∃ rest : List Compl, ((ringAt (settleUnknown q.val s.m) q.val).fin = c :: rest) ∧ ((∀ x ∈ c :: rest, x.mode = .normal)) ∧ True) ∧
    (∃ s : State, ∃ q : Fin 16, ((ringAt s.m q.val).coal ≠ 0) ∧ True) := by
  refine ⟨?_, ?_, ?_, ?_⟩
  · refine ⟨ringOn (fun r => { r with fin := [compl false 1, compl true 2] }), 15, compl false 1, [compl true 2], ?_, ?_, ?_, trivial⟩
    · decide +kernel
    · decide +kernel
    · decide +kernel
  · refine ⟨ringOn (fun r => { r with fin := [compl true 1] }), 15, compl true 1, [], ?_, ?_, ?_, ?_, trivial⟩
    · decide +kernel
    · decide +kernel
    · decide +kernel
    · decide +kernel
  · refine ⟨ringOn (fun r => { r with fin := [compl true 1], coalCnt := 2 }), 15, compl true 1, [], ?_, ?_, trivial⟩
    · decide +kernel
    · decide +kernel
  · refine ⟨ringOn (fun r => { r with coal := 1 }), 15, ?_, trivial⟩
    · decide +kernel

theorem wit_CausesRiseAndAreCleared :
    (∃ s : Mach, ∃ c : Nat, (bit s.host.irqCause c = true) ∧ True) ∧
    (∃ s : Mach, ∃ c : Nat, (c < 13) ∧ (bit s.host.irqCause c = false) ∧ (bit s.host.irqMask c = true) ∧ True) ∧
    (∃ s : Mach, ∃ c : Nat, (c < 13) ∧ (bit s.host.irqCause c = false) ∧ (bit s.host.irqMask c = false) ∧ (bit (tget (1 : Word) s.host.msixTab (4 * (tget 0 s.host.irqMap c).toNat + 3)) 0 = false) ∧ True) ∧
    (∃ s : Mach, ∃ c : Nat, (c < 13) ∧ (bit s.host.irqCause c = false) ∧ (bit s.host.irqMask c = false) ∧ (bit (tget (1 : Word) s.host.msixTab (4 * (tget 0 s.host.irqMap c).toNat + 3)) 0 = true) ∧ True) ∧
    (∃ s : State, ∃ v : Word, (Served s.m 0x10010) ∧ ((∀ c, c < 13 → bit v c = true → irqHolds s.m c = false)) ∧ True) ∧
    (∃ s : State, ∃ v : Word, ∃ c : Nat, (Served s.m 0x10010) ∧ (c < 13) ∧ (bit v c = true) ∧ (irqHolds s.m c = true) ∧ (bit s.m.host.irqCause c = true ∨ (0x10010, c) ∉ s.m.notes.raised) ∧ True) := by
  refine ⟨?_, ?_, ?_, ?_, ?_, ?_⟩
  · refine ⟨{ ready with host := { ready.host with irqCause := 0x1000 } }, 12, ?_, trivial⟩
    · decide +kernel
  · refine ⟨ready, 12, ?_, ?_, ?_, trivial⟩
    · decide +kernel
    · decide +kernel
    · decide +kernel
  · refine ⟨{ ready with host := { ready.host with msixTab := [(3, 0)] } }, 1, ?_, ?_, ?_, ?_, trivial⟩
    · decide +kernel
    · decide +kernel
    · decide +kernel
    · decide +kernel
  · refine ⟨ready, 1, ?_, ?_, ?_, ?_, trivial⟩
    · decide +kernel
    · decide +kernel
    · decide +kernel
    · decide +kernel
  · refine ⟨hostBlk (fun h => { h with irqCause := 0x1FFF }), 0x1FFF, ?_, ?_, trivial⟩
    · exact served_of (by decide +kernel)
    · decide +kernel
  · refine ⟨st { ready with host := { ready.host with irqCause := 0x200 }, pwr := { ready.pwr with evt := 1 } }, 0x1FFF, 9, ?_, ?_, ?_, ?_, ?_, trivial⟩
    · exact served_of (by decide +kernel)
    · decide +kernel
    · decide +kernel
    · decide +kernel
    · decide +kernel

/-! ### The host commands -/

/-- The linked module whose ring 15 has the command next, and AVAIL of 6,000 J. -/
def host (d : Desc) (f : Mach → Mach) : State :=
  linked (fun m => withCmd d (f { m with pwr := { m.pwr with coul := 60000, model := 60000 } }))
/-- The same command, accepted when the ring had version 1. -/
def cmd1Of (d : Desc) : RunCmd := { cmdOf d with ver := 1 }
def host1 (d : Desc) (f : Mach → Mach) : State := st (modRing 15 (fun r => { r with cmds := [cmd1Of d] }) (host d f).m)
/-- The module runs in rounds. -/
def rounds (m : Mach) : Mach := { m with rnd := { m.rnd with en := true, master := true, hold := false } }
def held (m : Mach) : Mach := { m with rnd := { m.rnd with en := true, master := true, hold := true } }

def dLoad : Desc := desc 0x10 [(8, 5), (12, 13)]
def dLate : Desc := desc 0x10 [(8, 5), (12, 12)]
def dStop : Desc := desc 0x11 [(12, 13)]
def dFenceM : Desc := desc 0x20 []
def dFenceS : Desc := desc 0x21 [(8, 12)]
def dOpen : Desc := desc 0x28 [(8, 1023), (32, win1023.2.toNat)]
def dClose : Desc := desc 0x29 [(8, 1023)]
def dAssign : Desc := desc 0x30 [(8, 3), (10, 9)]
def dSet : Desc := desc 0x38 [(8, 13), (14, 1), (16, 0x58), (20, 5)]
def dDigest : Desc := desc 0x39 [(8, 1), (12, 63), (16, 2 ^ 41 - 128)]
def dHold : Desc := desc 0x48 []

theorem wit_CommandsWaitForTheirRound :
    (∃ s : State, ∃ q : Fin 16, ∃ d : Desc, ∃ c : RunCmd, ∃ m, (Starts s.m q.val d c 0x10 [(8, 11), (24, 8)]) ∧ (NamesRound s.m q.val c d 12 m) ∧ (cB d 18 1 = 0) ∧ ((∀ x ∈ s.m.sec.queue, x.round ≠ m)) ∧ True) ∧
    (∃ s : State, ∃ q : Fin 16, ∃ d : Desc, ∃ c : RunCmd, ∃ m, (Starts s.m q.val d c 0x11 [(12, 6)]) ∧ (NamesRound s.m q.val c d 12 m) ∧ ((∀ x ∈ s.m.sec.queue, x.round ≠ m)) ∧ True) ∧
    (∃ s : State, ∃ q : Fin 16, ∃ d : Desc, ∃ c : RunCmd, ∃ m, (Starts s.m q.val d c 0x10 [(8, 11), (24, 8)]) ∧ (cmdRound s.m (verOf s.m q.val c) d 12 = some m) ∧ (roundStarted s.m m = true) ∧ (cB d 18 1 = 0) ∧ True) ∧
    (∃ s : State, ∃ q : Fin 16, ∃ d : Desc, ∃ c : RunCmd, (Starts s.m q.val d c 0x20 []) ∧ True) ∧
    (∃ s : State, ∃ q : Fin 16, ∃ d : Desc, ∃ c : RunCmd, ∃ m, (Starts s.m q.val d c 0x21 [(8, 6)]) ∧ (cmdRound s.m (verOf s.m q.val c) d 8 = some m) ∧ (roundStarted s.m (m + 1) = false) ∧ (s.m.rmt.sysfMode = 1 ∨ s.m.rmt.sysfMode = 2) ∧ True) ∧
    (∃ s : State, ∃ q : Fin 16, ∃ d : Desc, ∃ c : RunCmd, (Starts s.m q.val d c 0x28 [(8, 2), (32, 32)]) ∧ (cB d 8 2 < 1024) ∧ (wnValid (BitVec.ofNat 256 (cB d 32 32)) = true) ∧ (windowOk s.m (BitVec.ofNat 256 (cB d 32 32)) = true) ∧ (s.m.rnd.en = true) ∧ (s.m.rnd.hold = false) ∧ True) ∧
    (∃ s : State, ∃ q : Fin 16, ∃ d : Desc, ∃ c : RunCmd, (Starts s.m q.val d c 0x29 [(8, 2)]) ∧ (cB d 8 2 < 1024) ∧ (s.m.rnd.en = true) ∧ (s.m.rnd.hold = false) ∧ True) ∧
    (∃ s : State, ∃ q : Fin 16, ∃ d : Desc, ∃ c : RunCmd, (Starts s.m q.val d c 0x30 [(8, 1), (10, 3), (16, 12)]) ∧ (cB d 8 1 = 3) ∧ (s.m.rnd.en = true) ∧ (s.m.rnd.hold = false) ∧ True) ∧
    (∃ s : State, ∃ q : Fin 16, ∃ d : Desc, ∃ c : RunCmd, ∃ m, (Starts s.m q.val d c 0x38 [(8, 7), (16, 8 * min 6 (cB d 14 1))]) ∧ (NamesRound s.m q.val c d 8 m) ∧ (1 ≤ cB d 14 1) ∧ (cB d 14 1 ≤ 6) ∧ ((∀ x ∈ setPairs d, roundRw x.1 = true)) ∧ True) ∧
    (∃ s : State, ∃ q : Fin 16, ∃ d : Desc, ∃ c : RunCmd, (Starts s.m q.val d c 0x39 [(8, 5), (16, 8)]) ∧ (verOf s.m q.val c = 2) ∧ (cB d 8 1 ≤ 1) ∧ (cB d 12 1 ≤ 63) ∧ (cB d 16 8 + 2 * cB d 12 1 ≤ 2 ^ 41) ∧ ((s.m.edge.keepEn && inKeep (cB d 16 8) (2 * cB d 12 1)) = false) ∧ (GoodRange s.m (cB d 16 8) (2 * cB d 12 1)) ∧ (stackOut s.m (stackOf (cB d 16 8)) = false) ∧ True) ∧
    (∃ s : State, ∃ q : Fin 16, ∃ d : Desc, ∃ c : RunCmd, ∃ m, (Starts s.m q.val d c 0x39 [(8, 5), (16, 8)]) ∧ (verOf s.m q.val c = 1) ∧ (m = ended q.val c 0x01 0 s.m) ∧ True) ∧
    (∃ s : State, ∃ q : Fin 16, ∃ d : Desc, ∃ c : RunCmd, (Starts s.m q.val d c 0x48 []) ∧ (s.m.rnd.master = true) ∧ (s.m.rnd.en = true) ∧ (s.m.rnd.hold = false) ∧ True) := by
  refine ⟨?_, ?_, ?_, ?_, ?_, ?_, ?_, ?_, ?_, ?_, ?_, ?_⟩
  · refine ⟨host dLoad rounds, 15, dLoad, cmdOf dLoad, 13, ?_, ?_, ?_, ?_, trivial⟩
    · unfold Starts; decide +kernel
    · unfold NamesRound; decide +kernel
    · decide +kernel
    · decide +kernel
  · refine ⟨host dStop rounds, 15, dStop, cmdOf dStop, 13, ?_, ?_, ?_, trivial⟩
    · unfold Starts; decide +kernel
    · unfold NamesRound; decide +kernel
    · decide +kernel
  · refine ⟨host dLate rounds, 15, dLate, cmdOf dLate, 12, ?_, ?_, ?_, ?_, trivial⟩
    · unfold Starts; decide +kernel
    · decide +kernel
    · decide +kernel
    · decide +kernel
  · refine ⟨host dFenceM id, 15, dFenceM, cmdOf dFenceM, ?_, trivial⟩
    · unfold Starts; decide +kernel
  · refine ⟨host dFenceS (fun m => rounds { m with rmt := { m.rmt with sysfMode := 2 } }), 15, dFenceS, cmdOf dFenceS, 12, ?_, ?_, ?_, ?_, trivial⟩
    · unfold Starts; decide +kernel
    · decide +kernel
    · decide +kernel
    · decide +kernel
  · refine ⟨host dOpen rounds, 15, dOpen, cmdOf dOpen, ?_, ?_, ?_, ?_, ?_, ?_, trivial⟩
    · unfold Starts; decide +kernel
    · decide +kernel
    · decide +kernel
    · decide +kernel
    · decide +kernel
    · decide +kernel
  · refine ⟨host dClose rounds, 15, dClose, cmdOf dClose, ?_, ?_, ?_, ?_, trivial⟩
    · unfold Starts; decide +kernel
    · decide +kernel
    · decide +kernel
    · decide +kernel
  · refine ⟨host dAssign rounds, 15, dAssign, cmdOf dAssign, ?_, ?_, ?_, ?_, trivial⟩
    · unfold Starts; decide +kernel
    · decide +kernel
    · decide +kernel
    · decide +kernel
  · refine ⟨host dSet rounds, 15, dSet, cmdOf dSet, 13, ?_, ?_, ?_, ?_, ?_, trivial⟩
    · unfold Starts; decide +kernel
    · unfold NamesRound; decide +kernel
    · decide +kernel
    · decide +kernel
    · decide +kernel
  · refine ⟨host dDigest rounds, 15, dDigest, cmdOf dDigest, ?_, ?_, ?_, ?_, ?_, ?_, ?_, ?_, trivial⟩
    · unfold Starts; decide +kernel
    · decide +kernel
    · decide +kernel
    · decide +kernel
    · decide +kernel
    · decide +kernel
    · exact fun cw _ _ => goodCw_clean rfl rfl cw
    · decide +kernel
  · refine ⟨host1 dDigest rounds, 15, dDigest, cmd1Of dDigest, ended 15 (cmd1Of dDigest) 0x01 0 (host1 dDigest rounds).m, ?_, ?_, ?_, trivial⟩
    · unfold Starts; decide +kernel
    · decide +kernel
    · rfl
  · refine ⟨host dHold rounds, 15, dHold, cmdOf dHold, ?_, ?_, ?_, ?_, trivial⟩
    · unfold Starts; decide +kernel
    · decide +kernel
    · decide +kernel
    · decide +kernel

def dNop : Desc := desc 0 []
def dBad : Desc := desc 0 [(63, 1)]
def dPartner : Desc := desc 0x30 [(8, 1), (10, 4), (12, 63), (16, 7)]
def dRemove : Desc := desc 0x30 [(8, 2), (16, 7)]
def dEpoch : Desc := desc 0x30 [(8, 4), (24, 7)]
def dArm : Desc := desc 0x49 [(16, 2 ^ 41 - 128)]
def dResume : Desc := desc 0x4A []
def forwarded : Nat × Ptn := (1, ⟨7, 4, true, false, true, false, false, 63, 7, 1⟩)
/-- The census of modules 3 and 9, of weights 5 and 3, of 10 in all; module 9 is the master. -/
def census : List Byte := toBytes 4 0x5A43454E ++ toBytes 4 1 ++ toBytes 2 9 ++ toBytes 2 2 ++ toBytes 4 10 ++ toBytes 4 8 ++
  List.replicate 44 0 ++ toBytes 2 3 ++ [5, 0] ++ toBytes 2 9 ++ [3, 0]
def surveyed (m : Mach) : Mach :=
  { held m with
    sys := { m.sys with total := 10, weight := 5 }
    edge := { m.edge with mem := wrBytes [] (2 ^ 41 - 128) census } }

theorem wit_CommandsActAtOnceOutsideRounds :
    (∃ s : State, ∃ q : Fin 16, ∃ d : Desc, ∃ c : RunCmd, (Starts s.m q.val d c 0x00 []) ∧ True) ∧
    (∃ s : State, ∃ q : Fin 16, ∃ d : Desc, ∃ c : RunCmd, (cmdFind s.m q.val d = some c) ∧ (cB d 0 1 = 0x00) ∧ (headerOk d = false ∨ bodyOk d [] = false) ∧ True) ∧
    (∃ s : State, ∃ q : Fin 16, ∃ d : Desc, ∃ c : RunCmd, (cmdFind s.m q.val d = some c) ∧ (cB d 0 1 = 0x00) ∧ (headerOk d = true) ∧ (bodyOk d [] = true) ∧ (s.m.start.state ≠ 7) ∧ True) ∧
    (∃ s : State, ∃ q : Fin 16, ∃ d : Desc, ∃ c : RunCmd, (Starts s.m q.val d c 0x28 [(8, 2), (32, 32)]) ∧ (cB d 8 2 < 1024) ∧ (wnValid (BitVec.ofNat 256 (cB d 32 32)) = true) ∧ (windowOk s.m (BitVec.ofNat 256 (cB d 32 32)) = true) ∧ (atOnce s.m = true) ∧ True) ∧
    (∃ s : State, ∃ q : Fin 16, ∃ d : Desc, ∃ c : RunCmd, (Starts s.m q.val d c 0x29 [(8, 2)]) ∧ (cB d 8 2 < 1024) ∧ (atOnce s.m = true) ∧ True) ∧
    (∃ s : State, ∃ q : Fin 16, ∃ d : Desc, ∃ c : RunCmd, ∃ i, (Starts s.m q.val d c 0x30 [(8, 1), (10, 3), (16, 12)]) ∧ (atOnce s.m = true) ∧ (cB d 8 1 = 1) ∧ (cB d 12 1 < 64) ∧ (darkPort s.m (cB d 12 1) = false) ∧ (pcSerial d ≠ s.m.start.serial) ∧ (forwardedOf s.m (pcSerial d) = none) ∧ (ptnFree s.m = some i) ∧ True) ∧
    (∃ s : State, ∃ q : Fin 16, ∃ d : Desc, ∃ c : RunCmd, ∃ i, ∃ e, (Starts s.m q.val d c 0x30 [(8, 1), (10, 3), (16, 12)]) ∧ (atOnce s.m = true) ∧ (cB d 8 1 = 2) ∧ (pcSerial d ≠ s.m.start.serial) ∧ (forwardedOf s.m (pcSerial d) = some (i, e)) ∧ True) ∧
    (∃ s : State, ∃ q : Fin 16, ∃ d : Desc, ∃ c : RunCmd, (Starts s.m q.val d c 0x30 [(8, 1), (10, 3), (16, 12)]) ∧ (atOnce s.m = true) ∧ (cB d 8 1 = 3) ∧ True) ∧
    (∃ s : State, ∃ q : Fin 16, ∃ d : Desc, ∃ c : RunCmd, (Starts s.m q.val d c 0x30 [(8, 1), (10, 3), (16, 12)]) ∧ (atOnce s.m = true) ∧ (cB d 8 1 = 4) ∧ True) ∧
    (∃ s : State, ∃ q : Fin 16, ∃ d : Desc, ∃ c : RunCmd, (Starts s.m q.val d c 0x48 []) ∧ (s.m.rnd.master = true) ∧ (s.m.rnd.en = true) ∧ (s.m.rnd.hold = true) ∧ True) ∧
    (∃ s : State, ∃ q : Fin 16, ∃ d : Desc, ∃ c : RunCmd, ∃ ea, ∃ h, ∃ es, (ea = cB d 16 8) ∧ (h = rdBytes s.m.edge.mem ea 64) ∧ (es = rdBytes s.m.edge.mem (ea + 64) (4 * min 16384 (numAt h 10 2))) ∧ (Starts s.m q.val d c 0x49 [(16, 8)]) ∧ (ea < 2 ^ 41) ∧ ((s.m.edge.keepEn && inKeep ea (64 + 4 * min 16384 (numAt h 10 2))) = false) ∧ (GoodRange s.m ea (64 + 4 * min 16384 (numAt h 10 2))) ∧ (stackOut s.m (stackOf ea) = false) ∧ (censusOk s.m h es = true) ∧ True) ∧
    (∃ s : State, ∃ q : Fin 16, ∃ d : Desc, ∃ c : RunCmd, (Starts s.m q.val d c 0x4A []) ∧ (s.m.rnd.master = true) ∧ (s.m.rnd.en = true) ∧ (s.m.rnd.hold = true) ∧ (s.m.keep.armed = true) ∧ True) := by
  refine ⟨?_, ?_, ?_, ?_, ?_, ?_, ?_, ?_, ?_, ?_, ?_, ?_⟩
  · refine ⟨host dNop id, 15, dNop, cmdOf dNop, ?_, trivial⟩
    · unfold Starts; decide +kernel
  · refine ⟨host dBad id, 15, dBad, cmdOf dBad, ?_, ?_, ?_, trivial⟩
    · decide +kernel
    · decide +kernel
    · decide +kernel
  · refine ⟨host dNop (modStart (fun x => { x with state := 8 })), 15, dNop, cmdOf dNop, ?_, ?_, ?_, ?_, ?_, trivial⟩
    · decide +kernel
    · decide +kernel
    · decide +kernel
    · decide +kernel
    · decide +kernel
  · refine ⟨host dOpen id, 15, dOpen, cmdOf dOpen, ?_, ?_, ?_, ?_, ?_, trivial⟩
    · unfold Starts; decide +kernel
    · decide +kernel
    · decide +kernel
    · decide +kernel
    · decide +kernel
  · refine ⟨host dClose held, 15, dClose, cmdOf dClose, ?_, ?_, ?_, trivial⟩
    · unfold Starts; decide +kernel
    · decide +kernel
    · decide +kernel
  · refine ⟨host dPartner id, 15, dPartner, cmdOf dPartner, 1, ?_, ?_, ?_, ?_, ?_, ?_, ?_, ?_, trivial⟩
    · unfold Starts; decide +kernel
    · decide +kernel
    · decide +kernel
    · decide +kernel
    · decide +kernel
    · decide +kernel
    · decide +kernel
    · decide +kernel
  · refine ⟨host dRemove (modRmt (fun r => { r with ptn := r.ptn ++ [forwarded] })), 15, dRemove, cmdOf dRemove, 1, forwarded.2, ?_, ?_, ?_, ?_, ?_, trivial⟩
    · unfold Starts; decide +kernel
    · decide +kernel
    · decide +kernel
    · decide +kernel
    · decide +kernel
  · refine ⟨host dAssign held, 15, dAssign, cmdOf dAssign, ?_, ?_, ?_, trivial⟩
    · unfold Starts; decide +kernel
    · decide +kernel
    · decide +kernel
  · refine ⟨host dEpoch id, 15, dEpoch, cmdOf dEpoch, ?_, ?_, ?_, trivial⟩
    · unfold Starts; decide +kernel
    · decide +kernel
    · decide +kernel
  · refine ⟨host dHold held, 15, dHold, cmdOf dHold, ?_, ?_, ?_, ?_, trivial⟩
    · unfold Starts; decide +kernel
    · decide +kernel
    · decide +kernel
    · decide +kernel
  · refine ⟨host dArm surveyed, 15, dArm, cmdOf dArm, 2 ^ 41 - 128, census.take 64, census.drop 64, ?_, ?_, ?_, ?_, ?_, ?_, ?_, ?_, ?_, trivial⟩
    · decide +kernel
    · decide +kernel
    · decide +kernel
    · unfold Starts; decide +kernel
    · decide +kernel
    · decide +kernel
    · exact fun cw _ _ => goodCw_clean rfl rfl cw
    · decide +kernel
    · decide +kernel
  · refine ⟨host dResume (fun m => held { m with keep := { m.keep with armed := true } }), 15, dResume, cmdOf dResume, ?_, ?_, ?_, ?_, ?_, trivial⟩
    · unfold Starts; decide +kernel
    · decide +kernel
    · decide +kernel
    · decide +kernel
    · decide +kernel

def dCopyIn : Desc := desc 0x50 [(16, 64), (24, 2 ^ 41 - 32), (32, 32)]
def dCopyOut : Desc := desc 0x50 [(8, 1), (16, 64), (24, 2 ^ 41 - 32), (32, 32)]
def dCopyNone : Desc := desc 0x50 [(8, 1), (16, 64), (24, 2 ^ 41 - 32)]
def dRead : Desc := desc 0x58 [(16, 9), (24, 64), (32, 512)]
def dReadLate : Desc := desc 0x58 [(16, 10), (24, 64), (32, 512)]
def dCper : Desc := desc 0x58 [(8, 1), (16, 9), (24, 64), (32, 1024)]
def committed : LedRec := { record 1 with valid := true }
def flashed (m : Mach) : Mach := modLed (fun l => { l with flash := [committed] }) m

theorem wit_HostCopiesAndLedgerReads :
    (∃ s : State, ∃ q : Fin 16, ∃ d : Desc, ∃ c : RunCmd, ∃ bs : List Byte, (Starts s.m q.val d c 0x50 [(8, 1), (16, 20)]) ∧ (cB d 8 1 = 0) ∧ (copyOk s.m d = true) ∧ (bs.length = cB d 32 4) ∧ (ServedRange s.m (cB d 24 8) bs.length) ∧ ((∀ st, st = stackOf (cB d 24 8) ∨ st = stackOf (cB d 24 8 + bs.length - 1) → Undisturbed s.m st)) ∧ True) ∧
    (∃ s : State, ∃ q : Fin 16, ∃ d : Desc, ∃ c : RunCmd, (Starts s.m q.val d c 0x50 [(8, 1), (16, 20)]) ∧ (cB d 8 1 = 1) ∧ (copyOk s.m d = true) ∧ (ServedRange s.m (cB d 24 8) (cB d 32 4)) ∧ (GoodRange s.m (cB d 24 8) (cB d 32 4)) ∧ True) ∧
    (∃ s : State, ∃ q : Fin 16, ∃ d : Desc, ∃ c : RunCmd, (Starts s.m q.val d c 0x50 [(8, 1), (16, 20)]) ∧ (cB d 8 1 = 1) ∧ (copyOk s.m d = false) ∧ True) ∧
    (∃ s : State, ∃ q : Fin 16, ∃ d : Desc, ∃ c : RunCmd, ∃ rs, ∃ bs, (rs = recordsFrom s.m.led (cB d 16 8)) ∧ (bs = rs.flatMap recBytes) ∧ (Starts s.m q.val d c 0x58 [(8, 1), (16, 20)]) ∧ (cB d 8 1 = 0) ∧ (cB d 24 8 % 64 = 0) ∧ (rs ≠ []) ∧ (bs.length ≤ cB d 32 4) ∧ True) ∧
    (∃ s : State, ∃ q : Fin 16, ∃ d : Desc, ∃ c : RunCmd, (Starts s.m q.val d c 0x58 [(8, 1), (16, 20)]) ∧ (cB d 8 1 = 0) ∧ (cB d 24 8 % 64 = 0) ∧ (recordsFrom s.m.led (cB d 16 8) = []) ∧ True) ∧
    (∃ s : State, ∃ q : Fin 16, ∃ d : Desc, ∃ c : RunCmd, ∃ rs, ∃ bs, (rs = recordsFrom s.m.led (cB d 16 8)) ∧ (bs = rs.flatMap (cper s.m.start.serial)) ∧ (Starts s.m q.val d c 0x58 [(8, 1), (16, 20)]) ∧ (verOf s.m q.val c = 2) ∧ (cB d 8 1 = 1) ∧ (cB d 24 8 % 64 = 0) ∧ (rs ≠ []) ∧ (bs.length ≤ cB d 32 4) ∧ True) ∧
    (∃ s : State, ∃ q : Fin 16, ∃ d : Desc, ∃ c : RunCmd, (Starts s.m q.val d c 0x58 [(8, 1), (16, 20)]) ∧ (verOf s.m q.val c ≠ 2) ∧ (cB d 8 1 = 1) ∧ True) := by
  refine ⟨?_, ?_, ?_, ?_, ?_, ?_, ?_⟩
  · refine ⟨host dCopyIn id, 15, dCopyIn, cmdOf dCopyIn, List.replicate 32 7, ?_, ?_, ?_, ?_, ?_, ?_, trivial⟩
    · unfold Starts; decide +kernel
    · decide +kernel
    · decide +kernel
    · decide +kernel
    · unfold ServedRange; intro st h; rcases h with rfl | rfl <;> decide +kernel
    · unfold Undisturbed; intro st h; rcases h with rfl | rfl <;> decide +kernel
  · refine ⟨host dCopyOut id, 15, dCopyOut, cmdOf dCopyOut, ?_, ?_, ?_, ?_, ?_, trivial⟩
    · unfold Starts; decide +kernel
    · decide +kernel
    · decide +kernel
    · unfold ServedRange; intro st h; rcases h with rfl | rfl <;> decide +kernel
    · exact fun cw _ _ => goodCw_clean rfl rfl cw
  · refine ⟨host dCopyNone id, 15, dCopyNone, cmdOf dCopyNone, ?_, ?_, ?_, trivial⟩
    · unfold Starts; decide +kernel
    · decide +kernel
    · decide +kernel
  · refine ⟨host dRead flashed, 15, dRead, cmdOf dRead, [committed], recBytes committed, ?_, ?_, ?_, ?_, ?_, ?_, ?_, trivial⟩
    · decide +kernel
    · decide +kernel
    · unfold Starts; decide +kernel
    · decide +kernel
    · decide +kernel
    · decide +kernel
    · decide +kernel
  · refine ⟨host dReadLate flashed, 15, dReadLate, cmdOf dReadLate, ?_, ?_, ?_, ?_, trivial⟩
    · unfold Starts; decide +kernel
    · decide +kernel
    · decide +kernel
    · decide +kernel
  · refine ⟨host dCper flashed, 15, dCper, cmdOf dCper, [committed], cper ready.start.serial committed, ?_, ?_, ?_, ?_, ?_, ?_, ?_, ?_, trivial⟩
    · decide +kernel
    · decide +kernel
    · unfold Starts; decide +kernel
    · decide +kernel
    · decide +kernel
    · decide +kernel
    · decide +kernel
    · decide +kernel
  · refine ⟨host1 dCper flashed, 15, dCper, cmd1Of dCper, ?_, ?_, ?_, trivial⟩
    · unfold Starts; decide +kernel
    · decide +kernel
    · decide +kernel

def dFuse : Desc := desc 0x5A [(16, 64)]
/-- The public key of a signer, and a key request of this module for index 3 with the signature over it. -/
def signerKey : List Byte := toBytes 96 0x3a71c1e6ab14441833fbe80a6d687731eb1a90b63365988ce8ded55477444b28c5e7000ae937580f2df94074c796a68fbc846d83c3dbbc0ae697a21c4a2f8837b08365e5cb61664fc58ff9bf1de508f267e425a05eac3c5777c751c2a224de11
def request3 (action : Byte) (sig : Nat) : List Byte := toBytes 4 0x5A4B4655 ++ toBytes 8 ready.start.serial.toNat ++ [action, 3] ++
  List.replicate 50 0 ++ signerKey ++ toBytes 96 sig
def program3 : List Byte := request3 1
  0x222a2bb7e225004752ea17db0b8591582bb0ca00c129e4be801b917f12ca4688f743fe1c29a48bebff2675ec5b9ccd25e1d0b68fb4050f04b2ebb9556f52058b501c7bfa9dcc582dfa5feafb97e96fadfedf4e23bf8e9ff28847ce65731d3c28
def revoke3 : List Byte := request3 2
  0x3eff5c2e7bf77ef76c8f39b9d551c3dda7172fa7b31c921ea2aace68dd87d93f6543a4045c4475ad0fc4c8b4f8009e2ee1d0b68fb4050f04b2ebb9556f52058b501c7bfa9dcc582dfa5feafb97e96fadfedf4e23bf8e9ff28847ce65731d3c28
/-- Key 0 is the signer's; key 1 is programmed too, and for a revocation key 3. -/
def keyed (r : List Byte) (m : Mach) : Mach := modStart (fun x => { x with
  programmed := if keyAction r = 1 then 3 else 11, revoked := 0, ikey := [(0, sha384 signerKey)] }) m
def dUpdate : Desc := desc 0x5B [(16, 64), (24, 1)]
def dReset (scope : Nat) : Desc := desc 0x60 [(8, scope)]
def dGroup : Desc := desc 0x60 [(8, 0x10), (10, 31), (11, 3)]
def dDie : Desc := desc 0x60 [(8, 0x11), (12, 143)]
def dEnd : Desc := desc 0x60 [(8, 0x1F), (14, 1)]
def dOff : Desc := desc 0x61 []

theorem wit_FlashMaintenanceAndPowerCommands :
    (∃ s : State, ∃ q : Fin 16, ∃ d : Desc, ∃ c : RunCmd, ∃ r : List Byte, (Starts s.m q.val d c 0x5A [(16, 8)]) ∧ (cB d 16 8 % 64 = 0) ∧ (r.length = 256) ∧ (keyRequestOk s.m.start r = true) ∧ (SeqStarts s.m (seqCost 1 0)) ∧ (keyAction r = 1) ∧ True) ∧
    (∃ s : State, ∃ q : Fin 16, ∃ d : Desc, ∃ c : RunCmd, ∃ r : List Byte, (Starts s.m q.val d c 0x5A [(16, 8)]) ∧ (cB d 16 8 % 64 = 0) ∧ (r.length = 256) ∧ (keyRequestOk s.m.start r = true) ∧ (SeqStarts s.m (seqCost 1 0)) ∧ (keyAction r = 2) ∧ True) ∧
    (∃ s : State, ∃ q : Fin 16, ∃ d : Desc, ∃ c : RunCmd, ∃ u : List Byte, (Starts s.m q.val d c 0x5B [(16, 12)]) ∧ (cB d 16 8 % 64 = 0) ∧ (u.length = cB d 24 4) ∧ (1 ≤ u.length) ∧ (u.length ≤ 0x4000000) ∧ (s.m.cradle.upd = none) ∧ (SeqStarts s.m (seqCost (min 256 (ceilDiv u.length 256)) 1)) ∧ True) ∧
    (∃ s : State, ∃ q : Fin 16, ∃ d : Desc, ∃ c : RunCmd, ∃ u : List Byte, (Starts s.m q.val d c 0x5B [(16, 12)]) ∧ (cB d 16 8 % 64 = 0) ∧ (u.length = cB d 24 4) ∧ (1 ≤ u.length) ∧ (u.length ≤ 0x4000000) ∧ (s.m.cradle.upd ≠ none) ∧ True) ∧
    (∃ s : State, ∃ q : Fin 16, ∃ d : Desc, ∃ c : RunCmd, (Starts s.m q.val d c 0x60 [(8, 1), (10, 6)]) ∧ (cB d 8 1 = 1) ∧ (s.m.ctl.modulePending = false) ∧ (s.m.ctl.scope = 0) ∧ True) ∧
    (∃ s : State, ∃ q : Fin 16, ∃ d : Desc, ∃ c : RunCmd, (Starts s.m q.val d c 0x60 [(8, 1), (10, 6)]) ∧ (cB d 8 1 = 2) ∧ (s.m.ctl.modulePending = false) ∧ (s.m.ctl.scope.toNat ≤ 1) ∧ True) ∧
    (∃ s : State, ∃ q : Fin 16, ∃ d : Desc, ∃ c : RunCmd, ∃ a : Activity, (a.code = 2) ∧ (a.subject = cB d 10 1) ∧ (a.part = cB d 11 1) ∧ (a.handle = s.m.mnt.nextHandle) ∧ (a.tokens = [tokGroup (cB d 10 1) (cB d 11 1)]) ∧ (a.held = 1) ∧ (a.owed = some (owedTo q.val c)) ∧ (Starts s.m q.val d c 0x60 [(8, 1), (10, 6)]) ∧ (cB d 8 1 = 0x10) ∧ (cB d 10 1 ≤ 31) ∧ (cB d 11 1 ≤ 3) ∧ ((∀ x ∈ s.m.mnt.acts, x.code ≠ 2)) ∧ (FreeToken s.m (tokGroup (cB d 10 1) (cB d 11 1))) ∧ True) ∧
    (∃ s : State, ∃ q : Fin 16, ∃ d : Desc, ∃ c : RunCmd, ∃ a : Activity, (a.code = 5) ∧ (a.subject = cB d 12 2) ∧ (a.part = 0) ∧ (a.handle = s.m.mnt.nextHandle) ∧ (a.tokens = [cB d 12 2]) ∧ (a.held = 1) ∧ (a.owed = some (owedTo q.val c)) ∧ (Starts s.m q.val d c 0x60 [(8, 1), (10, 6)]) ∧ (cB d 8 1 = 0x11) ∧ (cB d 12 2 ≤ 143) ∧ ((∀ x ∈ s.m.mnt.acts, x.code ≠ 5)) ∧ (FreeToken s.m (cB d 12 2)) ∧ True) ∧
    (∃ s : State, ∃ q : Fin 16, ∃ d : Desc, ∃ c : RunCmd, ∃ h : BitVec 16, (Starts s.m q.val d c 0x60 [(8, 1), (10, 6)]) ∧ (cB d 8 1 = 0x1F) ∧ (h = BitVec.ofNat 16 (cB d 14 2)) ∧ ((∃ a ∈ s.m.mnt.acts, a.handle = h ∧ (a.code = 2 ∨ a.code = 5))) ∧ True) ∧
    (∃ s : State, ∃ q : Fin 16, ∃ d : Desc, ∃ c : RunCmd, (Starts s.m q.val d c 0x61 []) ∧ (s.m.pwr.offOwed = none) ∧ (s.m.pwr.down = none) ∧ True) := by
  refine ⟨?_, ?_, ?_, ?_, ?_, ?_, ?_, ?_, ?_, ?_⟩
  · refine ⟨host dFuse (keyed program3), 15, dFuse, cmdOf dFuse, program3, ?_, ?_, ?_, ?_, ?_, ?_, trivial⟩
    · unfold Starts; decide +kernel
    · decide +kernel
    · decide +kernel
    · decide +kernel
    · unfold SeqStarts; decide +kernel
    · decide +kernel
  · refine ⟨host dFuse (keyed revoke3), 15, dFuse, cmdOf dFuse, revoke3, ?_, ?_, ?_, ?_, ?_, ?_, trivial⟩
    · unfold Starts; decide +kernel
    · decide +kernel
    · decide +kernel
    · decide +kernel
    · unfold SeqStarts; decide +kernel
    · decide +kernel
  · refine ⟨host dUpdate id, 15, dUpdate, cmdOf dUpdate, [7], ?_, ?_, ?_, ?_, ?_, ?_, ?_, trivial⟩
    · unfold Starts; decide +kernel
    · decide +kernel
    · decide +kernel
    · decide +kernel
    · decide +kernel
    · decide +kernel
    · unfold SeqStarts; decide +kernel
  · refine ⟨host dUpdate (fun m => { m with cradle := { m.cradle with upd := some (upd .ready) } }), 15, dUpdate, cmdOf dUpdate, [7], ?_, ?_, ?_, ?_, ?_, ?_, trivial⟩
    · unfold Starts; decide +kernel
    · decide +kernel
    · decide +kernel
    · decide +kernel
    · decide +kernel
    · decide +kernel
  · refine ⟨host (dReset 1) id, 15, dReset 1, cmdOf (dReset 1), ?_, ?_, ?_, ?_, trivial⟩
    · unfold Starts; decide +kernel
    · decide +kernel
    · decide +kernel
    · decide +kernel
  · refine ⟨host (dReset 2) (fun m => { m with ctl := { m.ctl with scope := 1 } }), 15, dReset 2, cmdOf (dReset 2), ?_, ?_, ?_, ?_, trivial⟩
    · unfold Starts; decide +kernel
    · decide +kernel
    · decide +kernel
    · decide +kernel
  · refine ⟨host dGroup id, 15, dGroup, cmdOf dGroup, ⟨Maint.reset.nextHandle, 2, 31, 3, [271], 1, some ⟨15, 77⟩⟩, ?_, ?_, ?_, ?_, ?_, ?_, ?_, ?_, ?_, ?_, ?_, ?_, ?_, trivial⟩
    · decide +kernel
    · decide +kernel
    · decide +kernel
    · decide +kernel
    · decide +kernel
    · decide +kernel
    · decide +kernel
    · unfold Starts; decide +kernel
    · decide +kernel
    · decide +kernel
    · decide +kernel
    · decide +kernel
    · unfold FreeToken; decide +kernel
  · refine ⟨host dDie id, 15, dDie, cmdOf dDie, ⟨Maint.reset.nextHandle, 5, 143, 0, [143], 1, some ⟨15, 77⟩⟩, ?_, ?_, ?_, ?_, ?_, ?_, ?_, ?_, ?_, ?_, ?_, ?_, trivial⟩
    · decide +kernel
    · decide +kernel
    · decide +kernel
    · decide +kernel
    · decide +kernel
    · decide +kernel
    · decide +kernel
    · unfold Starts; decide +kernel
    · decide +kernel
    · decide +kernel
    · decide +kernel
    · unfold FreeToken; decide +kernel
  · refine ⟨host dEnd (fun m => { m with mnt := (holds 5 143 0 [143]).mnt }), 15, dEnd, cmdOf dEnd, 1, ?_, ?_, ?_, ?_, trivial⟩
    · unfold Starts; decide +kernel
    · decide +kernel
    · decide +kernel
    · decide +kernel
  · refine ⟨host dOff id, 15, dOff, cmdOf dOff, ?_, ?_, ?_, trivial⟩
    · unfold Starts; decide +kernel
    · decide +kernel
    · decide +kernel

def dLicence : Desc := desc 0x59 [(16, 64)]
/-- A licence of this module for FEATURES 31, with LICID 7. -/
def licence : List Byte := toBytes 4 0x5A4C4943 ++ toBytes 4 1 ++ toBytes 8 ready.start.serial.toNat ++ toBytes 4 31 ++ toBytes 4 7 ++
  List.replicate 136 0

/-- Which key signs licences is free: a licence whose signature verifies under it meets the first clause, another one the second. -/
theorem wit_licence : (∃ (q : Fin 16) (d : Desc) (c : RunCmd) (s : State) (l : List Byte),
      Starts s.m q.val d c 0x59 [(16, 8)] ∧ cB d 16 8 % 64 = 0 ∧ l.length = 160 ∧ licenceValid s.m.start l = false) ∧
    (ecdsaOk Config.licenceKey (sha384 (licence.take 64)) (slice licence 64 96) = true →
      ∃ (q : Fin 16) (d : Desc) (c : RunCmd) (s : State) (l : List Byte),
      Starts s.m q.val d c 0x59 [(16, 8)] ∧ cB d 16 8 % 64 = 0 ∧ l.length = 160 ∧ licenceValid s.m.start l = true ∧
      (∀ x ∈ storedLicences s.m.start, licId x ≠ licId l) ∧ emptyEntry s.m.start ≠ none ∧ SeqStarts s.m (seqCost 1 0)) := by
  refine ⟨⟨15, dLicence, cmdOf dLicence, host dLicence id, List.replicate 160 0, ?_, ?_, ?_, ?_⟩,
    fun h => ⟨15, dLicence, cmdOf dLicence, host dLicence id, licence, ?_, ?_, ?_, ?_, ?_, ?_, ?_⟩⟩
  · unfold Starts; decide +kernel
  · decide +kernel
  · decide +kernel
  · decide +kernel
  · unfold Starts; decide +kernel
  · decide +kernel
  · decide +kernel
  · unfold licenceValid; rw [h]; decide +kernel
  · decide +kernel
  · decide +kernel
  · unfold SeqStarts; decide +kernel
/-! ### Resets, starts, power-downs and the weft -/

def inReset (n : BitVec 2) (m : Mach) : Mach := { m with ctl := { m.ctl with scope := n } }
/-- The start flow at step 5, at a stage of the burn pattern. -/
def burning (n : Nat) (f : Mach → Mach) : State :=
  st (f { ready with start := { ready.start with state := 5 }, pwr := { ready.pwr with burn := some n } })
def rising (n : Nat) : State := power (fun p => { p with up := some n })
def falling (n : Nat) (a : AfterDown) : State := power (fun p => { p with down := some (n, a) })
/-- The VMIN record of a power-down is not yet written. -/
def vminWaits (m : Mach) : Mach := modLed (fun l => { l with ordQ := [event 0x13] }) m

theorem wit_ResetsOfEachScope :
    (∃ s : State, ∃ a : ResetAgent, ∃ c : BitVec 4, ((a = .host → LinkUp s.m)) ∧ (InService s.m) ∧ (s.m.ctl.scope = 0) ∧ ((a, c) ∈ [(ResetAgent.host, (1 : BitVec 4)), (.restartPath, 4), (.decnus, 6)]) ∧ True) ∧
    (∃ s : State, (LinkUp s.m) ∧ (InService s.m) ∧ (s.m.ctl.scope ≠ 0) ∧ True) ∧
    (∃ s : State, ∃ a : ResetAgent, ∃ c : BitVec 4, ((a = .host → LinkUp s.m)) ∧ (InService s.m) ∧ (s.m.ctl.scope.toNat ≤ 1) ∧ ((a, c) ∈ [(ResetAgent.host, (1 : BitVec 4)), (.decnus, 7)]) ∧ True) ∧
    (∃ s : State, (LinkUp s.m) ∧ (InService s.m) ∧ True) ∧
    (∃ s : State, ∃ a : ResetAgent, (a ≠ .host) ∧ True) ∧
    (∃ s : State, (InService s.m) ∧ True) ∧
    (∃ s : State, ∃ ks : List CoreId, (s.m.ctl.scope = 1) ∧ True) ∧
    (∃ s : State, ∃ bad : List (Fin 32 × Fin 20), ∃ ks : List CoreId, (s.m.ctl.scope = 2) ∧ (epochPending s.m = false) ∧ True) := by
  refine ⟨?_, ?_, ?_, ?_, ?_, ?_, ?_, ?_⟩
  · refine ⟨st ready, .restartPath, 4, ?_, ?_, ?_, ?_, trivial⟩
    · unfold LinkUp; decide +kernel
    · unfold InService; decide +kernel
    · decide +kernel
    · decide +kernel
  · refine ⟨st (inReset 1 ready), ?_, ?_, ?_, trivial⟩
    · unfold LinkUp; decide +kernel
    · unfold InService; decide +kernel
    · decide +kernel
  · refine ⟨st (inReset 1 ready), .decnus, 7, ?_, ?_, ?_, ?_, trivial⟩
    · unfold LinkUp; decide +kernel
    · unfold InService; decide +kernel
    · decide +kernel
    · decide +kernel
  · refine ⟨st (inReset 2 ready), ?_, ?_, trivial⟩
    · unfold LinkUp; decide +kernel
    · unfold InService; decide +kernel
  · refine ⟨st ready, .decnus, ?_, trivial⟩
    · decide +kernel
  · refine ⟨st (inReset 2 ready), ?_, trivial⟩
    · unfold InService; decide +kernel
  · refine ⟨st (inReset 1 ready), [⟨143, 191⟩], ?_, trivial⟩
    · decide +kernel
  · refine ⟨st (inReset 2 ready), [(31, 19)], [⟨143, 191⟩], ?_, ?_, trivial⟩
    · decide +kernel
    · decide +kernel

theorem wit_ADeadCoreIsSetAside :
    ∃ s : State, ∃ k : CoreId, (dead s.m k.key = false) ∧ ((dpwAt s.m (dieOf k.key)).on = true) ∧ ((dieAt s.m (dieOf k.key)).stw.evBuf.length < 64) ∧ True := by
  refine ⟨st (modDpw 143 (fun x => { x with on := true }) ready), ⟨143, 191⟩, ?_, ?_, ?_, trivial⟩
  · decide +kernel
  · decide +kernel
  · decide +kernel

/-- An upsett image of SVN 64 without a setting, with the key of the signer and its signature. -/
def image : Upsett := toBytes 4 0x5A555053 ++ toBytes 2 2 ++ toBytes 2 1 ++ toBytes 8 7 ++ [64, 0, 0, 0] ++ toBytes 4 624 ++ toBytes 4 0x96 ++
  List.replicate 16 0 ++ signerKey ++ List.replicate 116 0 ++ toBytes 4 1 ++ toBytes 4 272 ++ List.replicate 264 0 ++ toBytes 96
  0xe0fdda9cbb90b9a0951f3ef1d32656f65c550e48b90ee6d401f630510b44136a4597ecd1a57677fd6cb822cf4aa9bbc2e1d0b68fb4050f04b2ebb9556f52058b501c7bfa9dcc582dfa5feafb97e96fadfedf4e23bf8e9ff28847ce65731d3c28
/-- Slot 0 holds it; its public key is image key 0. -/
def coldStart : State := st (modStart (fun x => { x with
  state := 0, slot0 := some image, slot1 := none, programmed := 1, revoked := 0, ikey := [(0, sha384 signerKey)] }) ready)

theorem wit_AColdStartChoosesItsImage :
    (∃ s : State, ∃ slot : Bool, ∃ u : List Byte, ∃ key : Nat, (s.m.start.state = 0) ∧ (s.m.pwr.running = []) ∧ (chooseImage { s.m.start with attempt0 := 0, attempt1 := 0 } = some (slot, u, key)) ∧ True) ∧
    (∃ s : State, (s.m.start.state = 0) ∧ (s.m.pwr.running = []) ∧ (chooseImage { s.m.start with attempt0 := 0, attempt1 := 0 } = none) ∧ True) ∧
    (∃ s : State, (s.m.start.state = 5) ∧ (s.m.pwr.burn = some 0) ∧ (coolOk s.m.pwr = false) ∧ True) := by
  refine ⟨?_, ?_, ?_⟩
  · refine ⟨coldStart, false, image, 0, ?_, ?_, ?_, trivial⟩
    · decide +kernel
    · decide +kernel
    · decide +kernel
  · refine ⟨st (modStart (fun x => { x with state := 0 }) ready), ?_, ?_, ?_, trivial⟩
    · decide +kernel
    · decide +kernel
    · decide +kernel
  · refine ⟨burning 0 id, ?_, ?_, ?_, trivial⟩
    · decide +kernel
    · decide +kernel
    · decide +kernel

theorem wit_PowerSequencesAndTheBurnPattern :
    (∃ s : State, ∃ n : Nat, ∃ bad : List (Fin 32 × Fin 20), (s.m.pwr.up = some n) ∧ (n < 61) ∧ (n ≠ 2) ∧ ((n < 7 ∨ n % 3 ≠ 0)) ∧ True) ∧
    (∃ s : State, ∃ bad : List (Fin 32 × Fin 20), (s.m.pwr.up = some 2) ∧ True) ∧
    (∃ s : State, ∃ n : Nat, ∃ bad : List (Fin 32 × Fin 20), (s.m.pwr.up = some n) ∧ (7 ≤ n) ∧ (n < 61) ∧ (n % 3 = 0) ∧ (s.m.pwr.dieFail = []) ∧ True) ∧
    (∃ s : State, ∃ bad : List (Fin 32 × Fin 20), (s.m.pwr.up = some 61) ∧ True) ∧
    (∃ s : State, ∃ n : Nat, ∃ out : List DomInst, ∃ bad : List (Fin 32 × Fin 20), (s.m.pwr.up = some n) ∧ (n < 3) ∧ (out.filter (rampsNow n) ≠ []) ∧ True) ∧
    (∃ s : State, ∃ n : Nat, ∃ a : AfterDown, (s.m.pwr.down = some (n, a)) ∧ (n < 18) ∧ (vminQueued s.m.led = false) ∧ True) ∧
    (∃ s : State, ∃ a : AfterDown, (s.m.pwr.down = some (0, a)) ∧ (vminQueued s.m.led = true) ∧ True) ∧
    (∃ s : State, ∃ a : AfterDown, (s.m.pwr.down = some (21, a)) ∧ True) ∧
    (∃ s : State, ∃ n : Nat, (s.m.pwr.down = some (n, .stay)) ∧ (24 ≤ n) ∧ True) ∧
    (∃ s : State, (s.m.start.state = 5) ∧ (s.m.pwr.burn = some 0) ∧ (coolOk s.m.pwr = true) ∧ True) ∧
    (∃ s : State, (s.m.start.state = 5) ∧ (s.m.pwr.burn = some 1) ∧ True) ∧
    (∃ s : State, ∃ slow : List (Fin 144), (s.m.start.state = 5) ∧ (s.m.pwr.burn = some 2) ∧ True) ∧
    (∃ s : State, ∃ bad : List (Fin 144), ∃ d : Fin 144, (s.m.start.state = 5) ∧ (s.m.pwr.burn = some 3) ∧ ((dpwAt s.m d.val).searching = true) ∧ (d ∉ bad) ∧ (240 < (dpwAt s.m d.val).vlog.from_.toNat) ∧ True) ∧
    (∃ s : State, ∃ bad : List (Fin 144), ∃ d : Fin 144, (s.m.start.state = 5) ∧ (s.m.pwr.burn = some 3) ∧ ((dpwAt s.m d.val).searching = true) ∧ ∃ c, (d ∈ bad) ∧ ((dpwAt s.m d.val).clean = some c) ∧ True) ∧
    (∃ s : State, ∃ bad : List (Fin 144), ∃ d : Fin 144, (s.m.start.state = 5) ∧ (s.m.pwr.burn = some 3) ∧ ((dpwAt s.m d.val).searching = true) ∧ (d ∈ bad) ∧ ((dpwAt s.m d.val).clean = none) ∧ ((dpwAt s.m d.val).again = false) ∧ True) ∧
    (∃ s : State, ∃ idle : BitVec 16, ∃ ks : List CoreId, (s.m.start.state = 5) ∧ (s.m.pwr.burn = some 3) ∧ (searchingDies s.m = []) ∧ True) := by
  refine ⟨?_, ?_, ?_, ?_, ?_, ?_, ?_, ?_, ?_, ?_, ?_, ?_, ?_, ?_, ?_, ?_⟩
  · refine ⟨rising 59, 59, [], ?_, ?_, ?_, ?_, trivial⟩
    · decide +kernel
    · decide +kernel
    · decide +kernel
    · decide +kernel
  · refine ⟨rising 2, [(31, 19)], ?_, trivial⟩
    · decide +kernel
  · refine ⟨rising 9, 9, [], ?_, ?_, ?_, ?_, ?_, trivial⟩
    · decide +kernel
    · decide +kernel
    · decide +kernel
    · decide +kernel
    · decide +kernel
  · refine ⟨rising 61, [], ?_, trivial⟩
    · decide +kernel
  · refine ⟨rising 2, 2, [.rim 1 3], [], ?_, ?_, ?_, trivial⟩
    · decide +kernel
    · decide +kernel
    · decide +kernel
  · refine ⟨falling 17 .restart, 17, .restart, ?_, ?_, ?_, trivial⟩
    · decide +kernel
    · decide +kernel
    · decide +kernel
  · refine ⟨st (vminWaits (falling 0 .stay).m), .stay, ?_, ?_, trivial⟩
    · decide +kernel
    · decide +kernel
  · refine ⟨falling 21 .stay, .stay, ?_, trivial⟩
    · decide +kernel
  · refine ⟨falling 24 .stay, 24, ?_, ?_, trivial⟩
    · decide +kernel
    · decide +kernel
  · refine ⟨burning 0 (modPwr (fun p => { p with inlet := 45, flow := 600 })), ?_, ?_, ?_, trivial⟩
    · decide +kernel
    · decide +kernel
    · decide +kernel
  · refine ⟨burning 1 id, ?_, ?_, trivial⟩
    · decide +kernel
    · decide +kernel
  · refine ⟨burning 2 id, [143], ?_, ?_, trivial⟩
    · decide +kernel
    · decide +kernel
  · refine ⟨burning 3 (modDpw 143 (fun x => { x with searching := true })), [0], 143, ?_, ?_, ?_, ?_, ?_, trivial⟩
    · decide +kernel
    · decide +kernel
    · decide +kernel
    · decide +kernel
    · decide +kernel
  · refine ⟨burning 3 (modDpw 143 (fun x => { x with searching := true, clean := some 241 })), [143], 143, ?_, ?_, ?_, 241, ?_, ?_, trivial⟩
    · decide +kernel
    · decide +kernel
    · decide +kernel
    · decide +kernel
    · decide +kernel
  · refine ⟨burning 3 (modDpw 143 (fun x => { x with searching := true })), [143], 143, ?_, ?_, ?_, ?_, ?_, ?_, trivial⟩
    · decide +kernel
    · decide +kernel
    · decide +kernel
    · decide +kernel
    · decide +kernel
    · decide +kernel
  · refine ⟨burning 3 id, 5, [], ?_, ?_, ?_, trivial⟩
    · decide +kernel
    · decide +kernel
    · decide +kernel

def lastDie (f : Die → Die) : State := st (modDie 143 f (modDpw 143 (fun x => { x with on := true }) ready))
def frRead : Frame := mkFrame 1 143 0xFFFF 0x5000 0 0
def frNone : Frame := mkFrame 1 143 0xFFFF 0x10000 0 0
def frWrite : Frame := mkFrame 2 143 0xFFFF 0x5000 3 0
def frNoneWrite : Frame := mkFrame 2 143 0xFFFF 0x10000 3 0
def frAnswer : Frame := mkFrame 3 143 0xFFFF 0x5000 9 0
def frEvent : Frame := mkFrame 4 143 0xFFFF 0x20 0 0
def frTele : Frame := mkFrame 5 143 0xFFFF 0x1000 9 0
def frAll : Frame := mkFrame 6 0 0xFFFF 0x5000 3 0
/-- Frames for the supervisor, and a request whose CRC fails. -/
def frUp : Frame := mkFrame 2 0xFF 0xFFFF 0x5000 3 0
def frUpEvent : Frame := mkFrame 4 0xFF 0xFFFF 0x20 0 0
def frBad : Frame := frRead ^^^ 2 ^ 127
def asked (n : Nat) : State := st { ready with weft := { ready.weft with reqs := [(0xFFFF, ⟨frRead, n⟩)] } }

theorem wit_TheWeftCarriesAccessesAndEvents :
    (∃ s : State, ∃ f : Frame, (frOk f 1 = true) ∧ (frDie f < 144) ∧ (answersAt s.m (frDie f) (frAddr f) = true) ∧ (frameStatus s.m (frDie f) (frAddr f) = 0) ∧ True) ∧
    (∃ s : State, ∃ f : Frame, (frOk f 1 = true) ∧ (frDie f < 144) ∧ (answers s.m (frDie f) = true) ∧ (0x10000 ≤ frAddr f) ∧ True) ∧
    (∃ s : State, ∃ f : Frame, (frOk f 1 = true ∨ frOk f 2 = true) ∧ (frDie f = 0xFF) ∧ True) ∧
    (∃ s : State, ∃ f : Frame, (frType f = 1) ∧ (frOk f 1 = false) ∧ True) ∧
    (∃ s : State, ∃ f : Frame, (frOk f 2 = true) ∧ (frDie f < 144) ∧ (answers s.m (frDie f) = true) ∧ (frameStatus s.m (frDie f) (frAddr f) = 0) ∧ (frAddr f = 0x5000) ∧ ((dieAt s.m (frDie f)).stw.lastTag ≠ some (frTag f)) ∧ True) ∧
    (∃ s : State, ∃ f : Frame, (frOk f 2 = true) ∧ (frDie f < 144) ∧ (answersAt s.m (frDie f) (frAddr f) = true) ∧ (frameStatus s.m (frDie f) (frAddr f) ≠ 0) ∧ ((dieAt s.m (frDie f)).stw.lastTag ≠ some (frTag f)) ∧ True) ∧
    (∃ s : State, ∃ f : Frame, (frOk f 2 = true) ∧ (frDie f < 144) ∧ (answersAt s.m (frDie f) (frAddr f) = true) ∧ ((dieAt s.m (frDie f)).stw.lastTag = some (frTag f)) ∧ True) ∧
    (∃ s : State, ∃ f : Frame, ∃ r : WeftReq, (frOk f 3 = true) ∧ (s.m.weft.reqs.find? (fun e => e.1 == (frTag f).toNat) = some ((frTag f).toNat, r)) ∧ (frType r.frame = 1) ∧ (frDie r.frame < 144) ∧ (frStatus f ≠ 2) ∧ True) ∧
    (∃ s : State, ∃ tag : BitVec 16, ∃ r : WeftReq, (s.m.weft.reqs.find? (fun e => e.1 == tag.toNat) = some (tag.toNat, r)) ∧ (r.resends < 3) ∧ True) ∧
    (∃ s : State, ∃ tag : BitVec 16, ∃ r : WeftReq, (s.m.weft.reqs.find? (fun e => e.1 == tag.toNat) = some (tag.toNat, r)) ∧ (3 ≤ r.resends) ∧ (frType r.frame = 1) ∧ (frDie r.frame < 144) ∧ True) ∧
    (∃ s : State, ∃ f : Frame, ∃ e : Event, ∃ rest : List Event, (frOk f 4 = true) ∧ (frDie f < 144) ∧ (answers s.m (frDie f) = true) ∧ ((dieAt s.m (frDie f)).stw.evBuf = e :: rest) ∧ (e.cls = fld f 32 16) ∧ True) ∧
    (∃ s : State, ∃ f : Frame, (frOk f 4 = true) ∧ (frDie f = 0xFF) ∧ True) ∧
    (∃ s : State, ∃ f : Frame, (frOk f 6 = true) ∧ (frAddr f = 0x5000) ∧ (s.m.ctl.modulePending = false) ∧ (s.m.ctl.scope = 0) ∧ True) ∧
    (∃ s : State, ∃ f : Frame, (frOk f 5 = true) ∧ (frDie f < 144) ∧ (answers s.m (frDie f) = true) ∧ (0x1000 ≤ frAddr f) ∧ (frAddr f < 0x4400) ∧ (present s.m (frDie f * 208 + (frAddr f - 0x1000) / 0x40) = true) ∧ True) ∧
    (∃ s : State, ∃ r : Fin 4, ∃ d : Fin 144, (ringOf d.val = r.val) ∧ ((weftRingAt s.m r.val).state = 0) ∧ True) ∧
    (∃ s : State, (s.m.start.state = 7) ∧ True) := by
  refine ⟨?_, ?_, ?_, ?_, ?_, ?_, ?_, ?_, ?_, ?_, ?_, ?_, ?_, ?_, ?_, ?_⟩
  · refine ⟨lastDie id, frRead, ?_, ?_, ?_, ?_, trivial⟩
    · decide +kernel
    · decide +kernel
    · decide +kernel
    · decide +kernel
  · refine ⟨lastDie id, frNone, ?_, ?_, ?_, ?_, trivial⟩
    · decide +kernel
    · decide +kernel
    · decide +kernel
    · decide +kernel
  · refine ⟨st ready, frUp, ?_, ?_, trivial⟩
    · decide +kernel
    · decide +kernel
  · refine ⟨lastDie id, frBad, ?_, ?_, trivial⟩
    · decide +kernel
    · decide +kernel
  · refine ⟨lastDie (fun x => { x with stw := { x.stw with lastTag := some 0xFFFE } }), frWrite, ?_, ?_, ?_, ?_, ?_, ?_, trivial⟩
    · decide +kernel
    · decide +kernel
    · decide +kernel
    · decide +kernel
    · decide +kernel
    · decide +kernel
  · refine ⟨lastDie id, frNoneWrite, ?_, ?_, ?_, ?_, ?_, trivial⟩
    · decide +kernel
    · decide +kernel
    · decide +kernel
    · decide +kernel
    · decide +kernel
  · refine ⟨lastDie (fun x => { x with stw := { x.stw with lastTag := some 0xFFFF } }), frWrite, ?_, ?_, ?_, ?_, trivial⟩
    · decide +kernel
    · decide +kernel
    · decide +kernel
    · decide +kernel
  · refine ⟨asked 0, frAnswer, ⟨frRead, 0⟩, ?_, ?_, ?_, ?_, ?_, trivial⟩
    · decide +kernel
    · decide +kernel
    · decide +kernel
    · decide +kernel
    · decide +kernel
  · refine ⟨asked 2, 0xFFFF, ⟨frRead, 2⟩, ?_, ?_, trivial⟩
    · decide +kernel
    · decide +kernel
  · refine ⟨asked 3, 0xFFFF, ⟨frRead, 3⟩, ?_, ?_, ?_, ?_, trivial⟩
    · decide +kernel
    · decide +kernel
    · decide +kernel
    · decide +kernel
  · refine ⟨lastDie (fun x => { x with stw := { x.stw with evBuf := [event 0x20, event 0x21] } }), frEvent, event 0x20, [event 0x21], ?_, ?_, ?_, ?_, ?_, trivial⟩
    · decide +kernel
    · decide +kernel
    · decide +kernel
    · decide +kernel
    · decide +kernel
  · refine ⟨st ready, frUpEvent, ?_, ?_, trivial⟩
    · decide +kernel
    · decide +kernel
  · refine ⟨st ready, frAll, ?_, ?_, ?_, ?_, trivial⟩
    · decide +kernel
    · decide +kernel
    · decide +kernel
    · decide +kernel
  · refine ⟨lastDie id, frTele, ?_, ?_, ?_, ?_, ?_, ?_, trivial⟩
    · decide +kernel
    · decide +kernel
    · decide +kernel
    · decide +kernel
    · decide +kernel
    · decide +kernel
  · refine ⟨st ready, 3, 143, ?_, ?_, trivial⟩
    · decide +kernel
    · decide +kernel
  · refine ⟨st ready, ?_, trivial⟩
    · decide +kernel

/-! ### Rounds -/

/-- The module follows module 9 in round 12, with marker ports 63 and 62. -/
def follower (f : Mach → Mach) : State :=
  linked (fun m => f (modPort 62 (fun x => { x with state := 6 }) { m with
    rnd := { m.rnd with en := true, hold := false, master := false, lastAcc := some (12, 9), mport := 2 ^ 63 + 2 ^ 62 } }))
def leader (f : Mach → Mach) : State := follower (fun m => f { m with rnd := { m.rnd with master := true } })
def round13 : Round := ⟨13, 10, 0, 15000, true, true⟩
def mark13 : NextMark := ⟨13, 15000, 4000, true, false⟩
/-- Core 0 of die 0 runs a program. -/
def busyCore (m : Mach) : Mach := { m with cores := [(0, running Core.reset)] }
def waits (f : Mach → Mach) : State := follower (fun m => f { m with rnd := { m.rnd with sched := [round13], lateLimit := 1 } })
def withheld (f : Mach → Mach) : State :=
  follower (fun m => f { m with rnd := { m.rnd with withheld := [round13], lateLimit := 1 }, now := 16099 })

/-- Every update unit has ended the step, and the digests of the three peers differ from each other and from the own one. -/
def divided (m : Mach) : Mach := { m with
  rnd := { m.rnd with cur := some ⟨12, 10, 0, 4000, true, true⟩ }
  trn := { m.trn with
    digEn := true, digIvm1 := 0, step := 16, peers := [(0, 0x10005), (31, 0x10006), (62, 0x10007)]
    kept := [⟨16, 5, 4⟩, ⟨16, 6, 5⟩, ⟨16, 7, 6⟩]
    units := (List.range 32).map (fun u => (u, { Unit_.reset with ended := true })) } }

theorem wit_MarkersMoveTheRounds :
    (∃ s : State, ∃ p : Fin 64, ∃ m : BitVec 192, ∃ last : BitVec 48, (markerPort s.m p.val = true) ∧ (Follows_ s.m last (mkMaster m)) ∧ (mkRound m = last + 1) ∧ (s.m.rnd.lastFwd ≠ some (mkRound m, mkMaster m)) ∧ (mkHold m = false) ∧ (mkHops m ≠ 255) ∧ ((mkAligned m = true → 0 < (mkLead m).toInt - ((portAt s.m p.val).lat.toNat : Int))) ∧ True) ∧
    (∃ s : State, ∃ p : Fin 64, ∃ m : BitVec 192, (s.m.rnd.en = true) ∧ (s.m.rnd.hold = false) ∧ (s.m.rnd.master = false) ∧ (s.m.rnd.lastAcc = some (mkRound m, mkMaster m)) ∧ (mkRound m ∉ s.m.rnd.owed) ∧ True) ∧
    (∃ s : State, ∃ p : Fin 64, ∃ m : BitVec 192, ∃ last : BitVec 48, (markerPort s.m p.val = true) ∧ (s.m.rnd.en = true) ∧ (s.m.rnd.hold = false) ∧ (s.m.rnd.master = false) ∧ (s.m.rnd.lastAcc = some (last, mkMaster m)) ∧ (mkRound m ∈ s.m.rnd.owed) ∧ (mkHold m = false) ∧ True) ∧
    (∃ s : State, ∃ p : Fin 64, ∃ m : BitVec 192, ∃ last : BitVec 48, (markerPort s.m p.val = true) ∧ (Follows_ s.m last (mkMaster m)) ∧ (mkRound m ≠ last) ∧ (mkRound m ≠ last + 1) ∧ (s.m.rnd.lastFwd ≠ some (mkRound m, mkMaster m)) ∧ True) ∧
    (∃ s : State, ∃ p : Fin 64, ∃ m : BitVec 192, (markerPort s.m p.val = true) ∧ (s.m.rnd.master = true) ∧ True) ∧
    (∃ s : State, ∃ p : Fin 64, ∃ m : BitVec 192, (markerPort s.m p.val = false) ∧ True) ∧
    (∃ s : State, ∃ n : NextMark, (Masters s.m) ∧ (s.m.rnd.nextEmit = some n) ∧ (s.m.keep.holdCmds = []) ∧ True) ∧
    (∃ s : State, ∃ n : NextMark, (Masters s.m) ∧ (s.m.rnd.nextEmit = some n) ∧ (s.m.keep.holdCmds ≠ []) ∧ True) ∧
    (∃ s : State, ∃ x : Round, (s.m.rnd.master = false) ∧ (s.m.rnd.en = true) ∧ (s.m.rnd.hold = false) ∧ (s.m.rnd.sched = []) ∧ (latestRound s.m.rnd = some x) ∧ (2 ≤ s.m.rnd.missed.toNat) ∧ True) ∧
    (∃ s : State, ∃ x : Round, (s.m.rnd.master = false) ∧ (s.m.rnd.en = true) ∧ (s.m.rnd.hold = false) ∧ (s.m.rnd.sched = []) ∧ (s.m.rnd.withheld = []) ∧ (s.m.rnd.cur = some x) ∧ (x.aligned = true) ∧ (s.m.rnd.missed.toNat < 2) ∧
    let m0 := ended_ (unmarked x).start s.m
    let m1 := modRnd (fun r => { r with missed := r.missed + 1, owed := r.owed ++ [x.num + 1]
                                        lastAcc := r.lastAcc.map (fun a => (x.num + 1, a.2)) }) m0
    (Ready m0) ∧ (OpensRound m1) ∧ True) ∧
    (∃ s : State, ∃ m : BitVec 128, ∃ n : NextMark, (s.m.rnd.hold = false) ∧ (s.m.rnd.master = true) ∧ (s.m.rnd.nextEmit = some n) ∧ ((fld m 8 2 : BitVec 2) = 0) ∧ True) ∧
    (∃ s : State, ∃ p : Fin 64, ∃ m : BitVec 128, (s.m.rnd.hold = false) ∧ (s.m.rnd.master = false) ∧ (markerPort s.m p.val = true) ∧ (s.m.rnd.lastAcc ≠ none) ∧ (markerPort s.m s.m.rnd.upport.toNat = true) ∧ True) ∧
    (∃ s : State, ∃ v : Word, (Served s.m 0x4000) ∧ (s.m.rnd.en = false) ∧ True) ∧
    (∃ s : State, ∃ v : Word, (Served s.m 0x4038) ∧ True) := by
  refine ⟨?_, ?_, ?_, ?_, ?_, ?_, ?_, ?_, ?_, ?_, ?_, ?_, ?_, ?_⟩
  · refine ⟨follower id, 63, marker true false 254 13 10 0 9 500, 12, ?_, ?_, ?_, ?_, ?_, ?_, ?_, trivial⟩
    · decide +kernel
    · unfold Follows_; decide +kernel
    · decide +kernel
    · decide +kernel
    · decide +kernel
    · decide +kernel
    · decide +kernel
  · refine ⟨follower id, 63, marker true false 0 12 10 0 9 500, ?_, ?_, ?_, ?_, ?_, trivial⟩
    · decide +kernel
    · decide +kernel
    · decide +kernel
    · decide +kernel
    · decide +kernel
  · refine ⟨follower (fun m => { m with rnd := { m.rnd with lastAcc := some (13, 9), owed := [13] } }), 63, marker true false 255 13 10 3 9 500, 13, ?_, ?_, ?_, ?_, ?_, ?_, ?_, trivial⟩
    · decide +kernel
    · decide +kernel
    · decide +kernel
    · decide +kernel
    · decide +kernel
    · decide +kernel
    · decide +kernel
  · refine ⟨follower id, 63, marker true false 0 15 10 0 9 500, 12, ?_, ?_, ?_, ?_, ?_, trivial⟩
    · decide +kernel
    · unfold Follows_; decide +kernel
    · decide +kernel
    · decide +kernel
    · decide +kernel
  · refine ⟨leader id, 63, marker true false 0 13 10 0 9 500, ?_, ?_, trivial⟩
    · decide +kernel
    · decide +kernel
  · refine ⟨follower id, 61, marker true false 0 13 10 0 9 500, ?_, trivial⟩
    · decide +kernel
  · refine ⟨leader (fun m => { m with rnd := { m.rnd with nextEmit := some mark13 } }), mark13, ?_, ?_, ?_, trivial⟩
    · unfold Masters; decide +kernel
    · decide +kernel
    · decide +kernel
  · refine ⟨leader (fun m => { m with rnd := { m.rnd with nextEmit := some mark13 }, keep := { m.keep with holdCmds := [⟨15, 77⟩] } }), mark13, ?_, ?_, ?_, trivial⟩
    · unfold Masters; decide +kernel
    · decide +kernel
    · decide +kernel
  · refine ⟨follower (fun m => { m with rnd := { m.rnd with missed := 2 } }), ⟨12, 10, 0, 4000, false, false⟩, ?_, ?_, ?_, ?_, ?_, ?_, trivial⟩
    · decide +kernel
    · decide +kernel
    · decide +kernel
    · decide +kernel
    · decide +kernel
    · decide +kernel
  · refine ⟨follower (fun m => { m with rnd := { m.rnd with missed := 1, cur := some round13 } }), round13, ?_, ?_, ?_, ?_, ?_, ?_, ?_, ?_, ?_, ?_, trivial⟩
    · decide +kernel
    · decide +kernel
    · decide +kernel
    · decide +kernel
    · decide +kernel
    · decide +kernel
    · decide +kernel
    · decide +kernel
    · unfold Ready; decide +kernel
    · unfold OpensRound; decide +kernel
  · refine ⟨leader (fun m => { m with rnd := { m.rnd with nextEmit := some mark13 } }), BitVec.ofNat 128 (0x32 + 2 ^ 16 * 9 + 2 ^ 32 * 0xFFFF), mark13, ?_, ?_, ?_, ?_, trivial⟩
    · decide +kernel
    · decide +kernel
    · decide +kernel
    · decide +kernel
  · refine ⟨follower (fun m => { m with rnd := { m.rnd with upport := 62 } }), 63, BitVec.ofNat 128 0x32, ?_, ?_, ?_, ?_, ?_, trivial⟩
    · decide +kernel
    · decide +kernel
    · decide +kernel
    · decide +kernel
    · decide +kernel
  · refine ⟨st ready, 7, ?_, ?_, trivial⟩
    · exact served_of (by decide +kernel)
    · decide +kernel
  · refine ⟨st ready, 5, ?_, trivial⟩
    · exact served_of (by decide +kernel)

theorem wit_RoundsStartInTimeOrLate :
    (∃ s : State, ∃ r : Round, ∃ rest : List Round, (s.m.rnd.sched = r :: rest) ∧ (s.m.rnd.en = true) ∧ (Ready (ended_ r.start s.m)) ∧ (OpensRound (modRnd (fun x => { x with sched := rest }) (ended_ r.start s.m))) ∧ True) ∧
    (∃ s : State, ∃ r : Round, ∃ rest : List Round, (s.m.rnd.sched = r :: rest) ∧ (s.m.rnd.en = true) ∧ (Ready (ended_ r.start s.m)) ∧ (¬ OpensRound (modRnd (fun x => { x with sched := rest }) (ended_ r.start s.m))) ∧ True) ∧
    (∃ s : State, ∃ r : Round, ∃ rest : List Round, (s.m.rnd.sched = r :: rest) ∧ (s.m.rnd.en = true) ∧ ((ended_ r.start s.m).keep.holdNext = false) ∧ (anyLate (ended_ r.start s.m) = true) ∧ (s.m.rnd.lateLimit ≠ 0) ∧ True) ∧
    (∃ s : State, ∃ r : Round, ∃ rest : List Round, (s.m.rnd.sched = r :: rest) ∧ (s.m.rnd.en = true) ∧ (s.m.rnd.hold = false) ∧ ((ended_ r.start s.m).keep.holdNext = true) ∧ True) ∧
    (∃ s : State, ∃ r : Round, ∃ rest : List Round, (s.m.rnd.withheld = r :: rest) ∧ (s.m.now - r.start < lateCycles s.m) ∧ (anyLate s.m = false) ∧ (s.m.keep.holdNext = false) ∧ (s.m.rnd.sets = []) ∧ (OpensRound (modRnd (fun x => { x with withheld := rest }) s.m)) ∧ True) ∧
    (∃ s : State, (s.m.rnd.withheld ≠ []) ∧ (anyLate s.m = true) ∧ ((∀ r, s.m.rnd.withheld.head? = some r → s.m.now - r.start < lateCycles s.m)) ∧ True) ∧
    (∃ s : State, ∃ r : Round, ∃ rest : List Round, (s.m.rnd.withheld = r :: rest) ∧ (s.m.rnd.hold = false) ∧ True) := by
  refine ⟨?_, ?_, ?_, ?_, ?_, ?_, ?_⟩
  · refine ⟨waits id, round13, [], ?_, ?_, ?_, ?_, trivial⟩
    · decide +kernel
    · decide +kernel
    · unfold Ready; decide +kernel
    · unfold OpensRound; decide +kernel
  · refine ⟨waits divided, round13, [], ?_, ?_, ?_, ?_, trivial⟩
    · decide +kernel
    · decide +kernel
    · unfold Ready; decide +kernel
    · unfold OpensRound; decide +kernel
  · refine ⟨waits busyCore, round13, [], ?_, ?_, ?_, ?_, ?_, trivial⟩
    · decide +kernel
    · decide +kernel
    · decide +kernel
    · decide +kernel
    · decide +kernel
  · refine ⟨waits (fun m => busyCore { m with keep := { m.keep with holdNext := true } }), round13, [], ?_, ?_, ?_, ?_, trivial⟩
    · decide +kernel
    · decide +kernel
    · decide +kernel
    · decide +kernel
  · refine ⟨withheld id, round13, [], ?_, ?_, ?_, ?_, ?_, ?_, trivial⟩
    · decide +kernel
    · decide +kernel
    · decide +kernel
    · decide +kernel
    · decide +kernel
    · unfold OpensRound; decide +kernel
  · refine ⟨withheld busyCore, ?_, ?_, ?_, trivial⟩
    · decide +kernel
    · decide +kernel
    · decide +kernel
  · refine ⟨withheld busyCore, round13, [], ?_, ?_, trivial⟩
    · decide +kernel
    · decide +kernel

/-! ### Steps, the queue and the codes -/

def sampling : State := ⟨[.telemetrySample, .gettid], starting.m, starting.m⟩
/-- What a step makes of a state. -/
def next (s : State) : State := match step s with | .next t => t | _ => s

theorem wit_AStepRunsTheFrontCommand :
    ∃ s : State, (s.pending = []) ∧ True := by
  refine ⟨State.reset, ?_, trivial⟩
  · decide +kernel

theorem wit_EveryWellFormedCommandGoesOn :
    (∃ c : Instr, ∃ s : State, (c.wf = true) ∧ True) ∧
    (∃ c : Instr, ∃ s : State, (c.wf = false) ∧ True) := by
  refine ⟨?_, ?_⟩
  · refine ⟨.coldStart, State.reset, ?_, trivial⟩
    · decide +kernel
  · refine ⟨.apertureRead (.bar4 0) 4097, State.reset, ?_, trivial⟩
    · decide +kernel

theorem wit_AWellFormedQueueNeverStops :
    (∃ s : State, ∃ t : State, (QueueWf s) ∧ (step s = .next t) ∧ True) ∧
    (∃ n : Nat, ∃ s : State, (QueueWf s) ∧ True) ∧
    (∃ n : Nat, ∃ s : State, (Sys2Proof.Safety.Runs (n + 1) s) ∧ True) := by
  refine ⟨?_, ?_, ?_⟩
  · refine ⟨sampling, next sampling, ?_, ?_, trivial⟩
    · unfold QueueWf; decide +kernel
    · rfl
  · refine ⟨5, sampling, ?_, trivial⟩
    · unfold QueueWf; decide +kernel
  · refine ⟨0, sampling, ?_, trivial⟩
    · exact ⟨_, rfl, trivial⟩

theorem wit_MemoriesKeepTheirForm :
    ∃ s : State, ∃ t : State, (MemoriesOk s.m) ∧ (step s = .next t) ∧ True := by
  refine ⟨sampling, next sampling, ?_, ?_, trivial⟩
  · unfold MemoriesOk; decide +kernel
  · rfl

theorem wit_ElementFormatsRoundTrip :
    ∃ code : Nat, ∃ mode : Nat, ∃ x : Nat, ∃ r : Word, (code ≤ 9) ∧ (x < 2 ^ fmtBits code) ∧ ((decodeElem code x).isNan = false) ∧ True := by
  refine ⟨9, 3, 1, 0, ?_, ?_, ?_, trivial⟩
  · decide +kernel
  · decide +kernel
  · decide +kernel

theorem wit_ArrayCodesCorrectOneAndDetectTwo :
    (∃ arr : Nat, ∃ data : Nat, (arr ≤ 2) ∧ (data < 2 ^ wordBits arr) ∧ True) ∧
    (∃ arr : Nat, ∃ data : Nat, (arr ≤ 2) ∧ (data < 2 ^ wordBits arr) ∧ ∃ i, (i < wordBits arr) ∧ True) ∧
    (∃ arr : Nat, ∃ data : Nat, (arr ≤ 2) ∧ (data < 2 ^ wordBits arr) ∧ ∃ i, (i < codeBits arr) ∧ True) ∧
    (∃ arr : Nat, ∃ data : Nat, (arr ≤ 2) ∧ (data < 2 ^ wordBits arr) ∧ ∃ i, ∃ j, (i < codeBits arr) ∧ (j < codeBits arr) ∧ (i ≠ j) ∧ True) ∧
    (∃ arr : Nat, ∃ data : Nat, (arr ≤ 2) ∧ (data < 2 ^ wordBits arr) ∧ ∃ y, (0 < y) ∧ (y < 2 ^ (codeBits arr - wordBits arr)) ∧ ((∀ i, i < codeBits arr → flipOf arr i ≠ y)) ∧ True) := by
  refine ⟨?_, ?_, ?_, ?_, ?_⟩
  · refine ⟨2, 2 ^ 32 - 1, ?_, ?_, trivial⟩
    · decide +kernel
    · decide +kernel
  · refine ⟨1, 2 ^ 64 - 1, ?_, ?_, 63, ?_, trivial⟩
    · decide +kernel
    · decide +kernel
    · decide +kernel
  · refine ⟨1, 2 ^ 64 - 1, ?_, ?_, 71, ?_, trivial⟩
    · decide +kernel
    · decide +kernel
    · decide +kernel
  · refine ⟨2, 2 ^ 32 - 1, ?_, ?_, 38, 0, ?_, ?_, ?_, trivial⟩
    · decide +kernel
    · decide +kernel
    · decide +kernel
    · decide +kernel
    · decide +kernel
  · refine ⟨0, 255, ?_, ?_, 31, ?_, ?_, ?_, trivial⟩
    · decide +kernel
    · decide +kernel
    · decide +kernel
    · decide +kernel
    · decide +kernel

/-! ### The spec's worked examples and tables -/

/-- The ASCII bytes "123456789". -/
def digits : List Byte := [0x31, 0x32, 0x33, 0x34, 0x35, 0x36, 0x37, 0x38, 0x39]

/-- R170, R280: the checksums of the nine digits. -/
theorem test_crc32c_digits : crc32c digits = 0xE3069283 := by decide +kernel
theorem test_crc64_digits : crc64 digits = 0x6C40DF5F0B497347 := by decide +kernel

/-- The digest of the three bytes "abc" that FIPS 180-4 gives (PRESUMED, log entry 6). -/
theorem test_sha384_abc : beNum (bytesOf (sha384 [0x61, 0x62, 0x63])) =
    0xCB00753F45A35E8BB5A03D699AC65007272C32AB0EDED1631A8B605A43FF5BED8086072BA1E7CC2358BAECA134C825A7 := by decide +kernel

/-- R287: both vectors of the table. -/
theorem test_strand_zero : strand (0, 0, 0, 0) 0 0 = (0x52D4DEF3, 0x91FF2EA9, 0x02BA2329, 0x97ABA3F6) := by decide +kernel
theorem test_strand_counted :
    strand (1, 2, 3, 4) 0x01020304 0x05060708 = (0x5467C3A1, 0x3EAB8373, 0x0CDB2F78, 0xAB2931B2) := by decide +kernel

/-- The example after R383: check bits of two words of the wide bank, and the column of data bit 17. -/
theorem test_wide_checkbits : checkBits 1 1 = 0x07 ∧ checkBits 1 0x11 = 0x14 ∧ (columns 1).getD 17 0 = 0x32 := by decide +kernel

/-- The example of 01: row 3 of column 9 of die 77 is excluded; the core at (9, 7) has lc 105 and mlc 14,889. -/
def die77 : Mach := modDie 77 (fun d => { d with spare := BitVec.ofNat 64 (2 ^ 64 - 1 - 2 ^ 36 * 12), absent := 0xFFFFFFFFFFFFFFFF }) ready
theorem test_example_lc : lcOf (dieAt die77 77) 121 = some 105 ∧ mlcOf die77 (77 * 208 + 121) = 14889 ∧ lcOf (dieAt die77 77) 57 = none := by
  decide +kernel

/-- The conversion example of 04, nearest even: 10.5, 2^-7, 300 and 560 in FP8-E4M3. -/
theorem test_convert_e4m3 :
    convElem 3 0 0 (f32 0x41280000) = (0x52, false) ∧ convElem 3 0 0 (f32 0x3C000000) = (0x04, false) ∧
      convElem 3 0 0 (f32 0x43960000) = (0x79, false) ∧ convElem 3 0 0 (f32 0x440C0000) = (0x7E, true) := by decide +kernel
/-- The same example, stochastic: 10.5 with the draws below and at one half, and 300 with 0.375. -/
theorem test_convert_e4m3_stochastic :
    convElem 3 2 0x52D4DEF3 (f32 0x41280000) = (0x53, false) ∧ convElem 3 2 0x80000000 (f32 0x41280000) = (0x52, false) ∧
      convElem 3 2 0x5FFFFFFF (f32 0x43960000) = (0x7A, false) ∧ convElem 3 2 0x60000000 (f32 0x43960000) = (0x79, false) := by
  decide +kernel

/-- The Adam example after R279. -/
def adamJob : Job := [3, 0, 1, 127] ++ List.replicate 60 0 ++
  [0x3A800000, 0x3F600000, 0x3E000000, 0x3F7C0000, 0x3C800000, 0x35800000, 0, 0x3F800000, 0, 0, 0x3F800000, 0x3F800000].flatMap
    (fun w : Word => bytesOf w)
theorem test_adam_step :
    let e := optStep adamJob (scal adamJob) 0x3F800000 0 0 0x3F000000
    e.m = 0x3D800000 ∧ e.v = 0x3B800000 ∧ adamS adamJob (scal adamJob) e.v = 0x3F000010 ∧ e.u = 0x3DFFFFE0 ∧ e.w = 0x3F7FC000 ∧
      (convElem 1 0 0 (f32 e.w)).1 = 0x3F80 := by decide +kernel

/-- The example of 15: a record of 17 pages costs 0.66 J, with a block to erase 38.16 J (in 0.1 J, rounded up). -/
theorem test_sequence_cost : seqCost 17 0 = 7 ∧ seqCost 17 1 = 382 := by decide +kernel

/-- The addresses of the example of 19. -/
theorem test_register_addresses : placeOf 0x8D2E44 = .die 77 0x2E44 ∧ placeOf 0x8D9004 = .die 77 0x9004 ∧
    stackOf (9 * 2 ^ 36 + 5) = 9 := by decide +kernel

/-! ### Single steps -/

/-- A register of core 0 of die 0 after a command. -/
def regAfter (r : Res) (i : Nat) : Word := match r with | .next t => tget 0 (coreAt t.m 0).p.g i | _ => 0xDEAD
def pcAfter (r : Res) : Word := match r with | .next t => (coreAt t.m 0).p.pc | _ => 0xDEAD
/-- G1 is 0x80000000, G2 0xFFFFFFFF, G3 33; the word at the PC is w. -/
def nums (w : Word) : State := one (coded w (fun c => running { c with
  p := { c.p with pc := 0x100, g := [(1, 0x80000000), (2, 0xFFFFFFFF), (3, 33)] } }))

theorem test_add_wraps : regAfter (exec (.add k0 1 1 2) (nums 0b00000000001000010001000000000000)) 1 = 0x7FFFFFFF := by decide +kernel
theorem test_sub_order : regAfter (exec (.sub k0 5 1 3) (nums 0b00000000101000010001100000000001)) 5 = 0x7FFFFFDF := by decide +kernel
theorem test_shift_count_low_bits :
    regAfter (exec (.sll k0 5 2 3) (nums 0b00000000101000100001100000000101)) 5 = 0xFFFFFFFE ∧
    regAfter (exec (.srl k0 5 1 3) (nums 0b00000000101000010001100000000110)) 5 = 0x40000000 ∧
    regAfter (exec (.sra k0 5 1 3) (nums 0b00000000101000010001100000000111)) 5 = 0xC0000000 := by decide +kernel
theorem test_compares : regAfter (exec (.slt k0 5 1 2) (nums 0b00000000101000010001000000001000)) 5 = 1 ∧
    regAfter (exec (.sltu k0 5 2 1) (nums 0b00000000101000100000100000001001)) 5 = 0 := by decide +kernel
theorem test_multiply : regAfter (exec (.mul k0 5 2 2) (nums 0b00000000101000100001000000001010)) 5 = 1 ∧
    regAfter (exec (.mulhu k0 5 2 2) (nums 0b00000000101000100001000000001011)) 5 = 0xFFFFFFFE := by decide +kernel
theorem test_immediates : regAfter (exec (.addi k0 5 3 0xFFFF) (nums 0b00000100101000111111111111111111)) 5 = 32 ∧
    regAfter (exec (.ori k0 5 3 0x8000) (nums 0b00001100101000111000000000000000)) 5 = 0x8021 ∧
    regAfter (exec (.lui k0 5 0x8000) (nums 0b00100100101000001000000000000000)) 5 = 0x80000000 := by decide +kernel
/-- LUI takes any A field: R125 gives it no meaning and marks no must-be-0 (log entry 12). -/
theorem test_lui_ignores_a : regAfter (exec (.lui k0 5 0x8000) (nums 0b00100100101111111000000000000000)) 5 = 0x80000000 := by decide +kernel
theorem test_g0_stays_zero : regAfter (exec (.add k0 0 1 2) (nums 0b00000000000000010001000000000000)) 0 = 0 ∧
    pcAfter (exec (.add k0 0 1 2) (nums 0b00000000000000010001000000000000)) = 0x104 := by decide +kernel
theorem test_loads_extend :
    regAfter (exec (.lb k0 5 3 3) (one (coded 0b01000000101000110000000000000011 regs))) 5 = 0xFFFFFF84 ∧
    regAfter (exec (.lbu k0 5 3 3) (one (coded 0b01000100101000110000000000000011 regs))) 5 = 0x84 ∧
    regAfter (exec (.lhu k0 5 3 2) (one (coded 0b01001100101000110000000000000010 regs))) 5 = 0x8403 := by decide +kernel
theorem test_branch_taken : pcAfter (exec (.blt k0 1 3 0xFFFF) (nums 0b10001000001000111111111111111111)) = 0x100 - 4 + 4 ∧
    pcAfter (exec (.bltu k0 1 3 0xFFFF) (nums 0b10010000001000111111111111111111)) = 0x104 := by decide +kernel
/-- Another word at the PC is another instruction: the command does not occur. -/
theorem test_other_word : pcAfter (exec (.add k0 1 1 2) (nums 0b00000000001000010001000000000001)) = 0x100 := by decide +kernel

/-- R517: a start without an image goes into recovery with the code of no image. -/
theorem test_cold_start_recovers : (match exec .coldStart State.reset with | .next t => (t.m.start.state, t.m.start.fail) | _ => (0, 0)) =
    (8, 1) := by decide +kernel

/-! ### Terms that are no command -/

def word7 : List Byte := List.replicate 7 0
theorem wf_rwrite : Instr.wf (.rwrite 0 ⟨0, 0, 0, 0, 0, 0, 0, 0, word7⟩) = false := by decide +kernel
theorem wf_rread : Instr.wf (.rread 0 ⟨0, 0, 0, 0, 0, 0, 0, 0, 25, 0⟩) = false := by decide +kernel
theorem wf_rdata : Instr.wf (.rdata 0 ⟨0, 0, 0, 1, 0, List.replicate 8 0⟩) = false := by decide +kernel
theorem wf_keepRwrite : Instr.wf (.keepRwrite 0 ⟨0, 0, 0, 0, 0, 0, 0, 0, List.replicate 200 0⟩) = false := by decide +kernel
theorem wf_keepRread : Instr.wf (.keepRread 0 ⟨0, 0, 0, 0, 0, 0, 0, 0, 0, 0⟩) = false := by decide +kernel
theorem wf_keepRdata : Instr.wf (.keepRdata 0 ⟨0, 0, 0, 0x80, 0, []⟩) = false := by decide +kernel
theorem wf_remoteWriteRequest : Instr.wf (.remoteWriteRequest 0 0 0 (remote 0x12 65) [0]) = false := by decide +kernel
theorem wf_apertureRead : Instr.wf (.apertureRead (.bar4 (2 ^ 36 - 1)) 2) = false := by decide +kernel
theorem wf_apertureRead_bar2 : Instr.wf (.apertureRead (.bar2 (2 ^ 28 - 1)) 2) = false := by decide +kernel
theorem wf_apertureWrite : Instr.wf (.apertureWrite (.bar4 0) []) = false := by decide +kernel
theorem wf_hostCopyToEdge : Instr.wf (.hostCopyToEdge 0 dCopyIn (some word7)) = false := by decide +kernel
theorem wf_ckptImport : Instr.wf (.ckptImport 0 dImport (some word7)) = false := by decide +kernel
theorem wf_licenceInstall : Instr.wf (.licenceInstall 0 dLicence (some word7)) = false := by decide +kernel
theorem wf_keyFuseProgram : Instr.wf (.keyFuseProgram 0 dFuse (some word7)) = false := by decide +kernel
theorem wf_keyFuseRevoke : Instr.wf (.keyFuseRevoke 0 dFuse (some word7)) = false := by decide +kernel
theorem wf_fwUpdate : Instr.wf (.fwUpdate 0 dUpdate (some word7)) = false := by decide +kernel
theorem test_illFormed_stops : exec (.rread 0 ⟨0, 0, 0, 0, 0, 0, 0, 0, 25, 0⟩) State.reset = .fault .illFormed := rfl

/-- The example of 12: data bit 17 in word 3 of wide bank 5, bank row 200, is in column 233 of sub-array 41. -/
theorem test_subArray : let a := wideBase + (200 * 16 + 5) * 64 + 3 * 8
    subOf 1 a = 41 ∧ subRow 1 a = 16 ∧ colOf 1 a 17 = 233 := by decide +kernel

/-- An image of idle cores with the fingerprint of die 0 is valid; one bit of its CRC wrong, it is not. -/
def goodImage : List Byte :=
  let fp := (mapFp (dieAt ready 0)).toNat
  idleImage fp (crc32c (idleImage fp 0)).toNat
theorem test_image_valid : imageReason ready 0 1 65536 goodImage = 0 ∧ imageReason ready 0 1 65536 (idleImage 0 0) = 1 := by decide +kernel

end Sys2Proof.Tests
end

section
/-! PROOFS. The branches, jumps and control instructions of the scalar processor. The first part ties the model's
operations to the words of the statements; every instruction then has one lemma, and the obligation is put together
from them. -/

namespace Sys2Proof.Spec

open Sys2Proof.Machine

/-! ### The model's operations in the words of the statements -/

/-- Two changes that leave the same module behind answer a command alike. -/
theorem run_eq_after {f g : Mach → Mach} {s : State} (h : f s.m = g s.m) : run f s = .next (after g s) := by
  simp only [run, after, h]

@[simp] theorem greg_coreAt (s : Mach) (k : CoreId) (a : Fin 32) : greg (coreAt s k.key) a.val = gval s k a := by
  simp only [greg, gval, Fin.val_eq_zero_iff]

@[simp] theorem setG_val (d : Fin 32) (v : Word) : setG d.val v = puts d v := by
  funext c
  simp only [setG, puts, Fin.val_eq_zero_iff]

@[simp] theorem effAddr_coreAt (s : Mach) (k : CoreId) (a : Fin 32) (imm : BitVec 16) :
    effAddr (coreAt s k.key) a imm = addrOf s k a imm := by
  simp only [effAddr, addrOf, greg_coreAt, sext16]

/-- An instruction whose word is fetched has its effect (R124, R125). -/
theorem instr_fetched {s : Mach} {k : CoreId} {w : Word} {is : Word → Bool} {f : Core → Word → Mach → Mach}
    (h : Fetches s k w) (hw : is w = true) :
    instr k.key is f s = f (coreAt s k.key) (coreAt s k.key).p.pc s := by
  obtain ⟨hrun, hclean, hcode⟩ := h
  refine instr_clean _ _ _ _ hrun hclean ?_
  have hread : (fetch (coreAt s k.key)).1 = rdNum (coreAt s k.key).imem ((coreAt s k.key).p.pc.toNat / 4 * 4) 4 := by
    have hsyn : tget 0 (coreAt s k.key).synd (imemKey ((coreAt s k.key).p.pc.toNat / 4 * 4 / 4)) = 0 := by
      simpa using hclean
    simp only [fetch, readWord, if_pos, hsyn]
    rfl
  rw [hread]
  exact (congrArg is hcode).trans hw

/-- The command of an instruction whose word is fetched: what its effect does to the module is its answer. -/
theorem run_instr_fetched {s : State} {k : CoreId} {w : Word} {is : Word → Bool} {f : Core → Word → Mach → Mach}
    {g : Mach → Mach} (h : Fetches s.m k w) (hw : is w = true)
    (hf : f (coreAt s.m k.key) (coreAt s.m k.key).p.pc s.m = g s.m) : run (instr k.key is f) s = .next (after g s) :=
  run_eq_after ((instr_fetched h hw).trans hf)

/-- Core k changes as `f` says and goes on at the address t. -/
def jumpTo (k : CoreId) (t : Int) (f : Core → Core) : Mach → Mach :=
  modCore k.key (fun c => { f c with p := { (f c).p with pc := BitVec.ofInt 32 t } })

/-- Going to an address in the instruction memory after a change of the core (R126). -/
theorem goto_modCore (k : CoreId) (pc : Word) {t : Int} (f : Core → Core) (s : Mach) (h : 0 ≤ t ∧ t < 0x4000) :
    goto k.key pc t (modCore k.key f s) = jumpTo k t f s := by
  rw [goto_inside _ _ _ _ h, modCore_modCore]
  rfl

/-- Going on to the next instruction after a change of the core (R125). -/
theorem goto_next_modCore {k : CoreId} {pc : Word} (f : Core → Core) {s : Mach} (hpc : (coreAt s k.key).p.pc = pc)
    (h : pc.toNat + 4 < 0x4000) : goto k.key pc (nextPc pc) (modCore k.key f s) = onward k f s := by
  subst hpc
  rw [goto_next _ _ _ h, modCore_modCore]
  exact modCore_congr rfl

/-- `goto_next_modCore` where the core changes in nothing but its PC. -/
theorem goto_next_onward {k : CoreId} {s : Mach} (h : Follows s k) :
    goto k.key (coreAt s k.key).p.pc (nextPc (coreAt s k.key).p.pc) s = onward k id s := by
  rw [goto_next _ _ _ h]
  exact modCore_congr rfl

/-- The DMA writes of a slot change no register of the processor. -/
@[simp] theorem writePieces_p (ps : List Piece) : ∀ c : Core, (writePieces ps c).p = c.p := by
  induction ps with
  | nil => intro c; rfl
  | cons p ps ih => intro c; exact ih (writeSp p.addr p.data c)

theorem dmaSlot_eq (c : Core) : dmaSlot c = { writePieces c.dma c with dma := [] } := by
  cases hd : c.dma with
  | nil =>
    simp only [dmaSlot, hd, List.isEmpty_nil, if_true, writePieces, List.foldl_nil]
    rw [← hd]
  | cons p ps => simp [dmaSlot, hd]

/-- The scalar slot of the model is that of the statements (R101). -/
@[simp] theorem scalarSlot_eq_slotted (k : CoreId) (s : Mach) : scalarSlot k.key s = slotted k s := by
  have hd : dmaSlot = fun c => { writePieces c.dma c with dma := [] } := funext dmaSlot_eq
  rcases Nat.mod_two_eq_zero_or_one (cycleOf s) with h | h <;> simp [scalarSlot, slotted, h, hd]

/-- Waiting for the scalar slot changes no register of the processor. -/
@[simp] theorem slotted_p (k : CoreId) (s : Mach) : (coreAt (slotted k s) k.key).p = (coreAt s k.key).p := by
  unfold slotted
  split
  · rfl
  · simp

/-! ### Branches and jumps -/

/-- The target of a branch that is taken or not (R125). -/
def branchTarget (pc : Word) (imm : BitVec 16) (taken : Bool) : Int :=
  if taken then pc.toNat + 4 + 4 * imm.toInt else pc.toNat + 4

/-- A branch goes to the target that its comparison selects and changes nothing but the PC. -/
theorem run_branchStep {s : State} {k : CoreId} {op : Nat} {d a : Fin 32} {imm : BitVec 16} {cond : Word → Word → Bool}
    {b : Bool} (h : Fetches s.m k (formI op d a imm)) (hb : cond (gval s.m k d) (gval s.m k a) = b)
    (hin : ∀ b, 0 ≤ branchTarget (coreAt s.m k.key).p.pc imm b ∧ branchTarget (coreAt s.m k.key).p.pc imm b < 0x4000) :
    run (branchStep k op d a imm cond) s =
      .next (after (jumpTo k (branchTarget (coreAt s.m k.key).p.pc imm b) id) s) := by
  refine run_instr_fetched h (beq_self_eq_true _) ?_
  have ht : (if b then nextPc (coreAt s.m k.key).p.pc + imm.toInt * 4 else nextPc (coreAt s.m k.key).p.pc) =
      branchTarget (coreAt s.m k.key).p.pc imm b := by
    simp only [branchTarget, nextPc, Int.mul_comm]
  simp only [greg_coreAt, hb, ht]
  exact goto_inside _ _ _ _ (hin b)

/-- JAL leaves the address of the next instruction in G31 (R125). -/
theorem exec_jal {s : State} {k : CoreId} {off : BitVec 26} (h : Fetches s.m k (formJ 0x28 off))
    (hin : 0 ≤ ((coreAt s.m k.key).p.pc.toNat + 4 + 4 * off.toInt : Int) ∧
      ((coreAt s.m k.key).p.pc.toNat + 4 + 4 * off.toInt : Int) < 0x4000) :
    exec (.jal k off) s = .next (after (jumpTo k ((coreAt s.m k.key).p.pc.toNat + 4 + 4 * off.toInt)
      (puts 31 ((coreAt s.m k.key).p.pc + 4))) s) := by
  refine run_instr_fetched h (beq_self_eq_true _) ?_
  rw [nextPc, Int.mul_comm off.toInt]
  exact goto_modCore k _ _ s.m hin

/-- JALR leaves the address of the next instruction in D, and A is read before (R125). -/
theorem exec_jalr {s : State} {k : CoreId} {d a : Fin 32} {imm : BitVec 16} {t : Int}
    (ht : t = (gval s.m k a).toNat + imm.toInt) (h : Fetches s.m k (formI 0x29 d a imm))
    (hin : 0 ≤ t - t % 4 ∧ t - t % 4 < 0x4000) :
    exec (.jalr k d a imm) s =
      .next (after (jumpTo k (t - t % 4) (puts d ((coreAt s.m k.key).p.pc + 4))) s) := by
  refine run_instr_fetched h (beq_self_eq_true _) ?_
  simp only [greg_coreAt, setG_val, ← ht]
  exact goto_modCore k _ _ s.m hin

theorem branchesAndJumpsSetThePc : BranchesAndJumpsSetThePc := by
  intro k d a imm off s
  refine ⟨fun htaken hnot => ?_, fun hin h => exec_jal h hin, fun hin h => exec_jalr rfl h hin⟩
  have hin : ∀ b, 0 ≤ branchTarget (coreAt s.m k.key).p.pc imm b ∧
      branchTarget (coreAt s.m k.key).p.pc imm b < 0x4000 := Bool.forall_bool.2 ⟨hnot, htaken⟩
  have not_slt (x y : Word) : (!x.slt y) = decide (y.toInt ≤ x.toInt) := by
    simp only [BitVec.slt, ← decide_not, Int.not_lt]
  have not_ult (x y : Word) : (!x.ult y) = decide (y.toNat ≤ x.toNat) := by
    simp only [BitVec.ult, ← decide_not, Nat.not_lt]
  exact ⟨fun h => run_branchStep h rfl hin, fun h => run_branchStep h (decide_not ..).symm hin,
    fun h => run_branchStep h rfl hin, fun h => run_branchStep h (not_slt _ _) hin,
    fun h => run_branchStep h rfl hin, fun h => run_branchStep h (not_ult _ _) hin⟩

/-! ### ISSUE and WAIT -/

/-- ISSUE of a valid descriptor read without error: it is queued when its queue has room, and stalls otherwise (R104,
R105). -/
theorem exec_issue {s : State} {k : CoreId} {d a : Fin 32} {imm : BitVec 16} {q : QDesc}
    (h : Fetches s.m k (formI 0x30 d a imm)) (hnext : Follows s.m k) (hd : d.val < 4)
    (halign : addrOf s.m k a imm % 32 = 0) (hbank : addrOf s.m k a imm < 0x10000)
    (hclean : Clean (slotted k s.m) k (addrOf s.m k a imm) 32)
    (hq : q = ⟨BitVec.ofNat 256 (rdNum (coreAt (slotted k s.m) k.key).sp (addrOf s.m k a imm) 32),
      (coreAt s.m k.key).p.pc⟩)
    (hok : descOk d.val q.d = true) :
    exec (.issue k d a imm) s = .next (after (if (tget [] (coreAt s.m k.key).queues d.val).length < 8
      then fun m => onward k (enqueue d.val q) (slotted k m)
      else fun m => modCore k.key (fun c => { c with p := { c.p with mode := .stallIssue (Fin.ofNat 4 d.val) q } })
        (slotted k m)) s) := by
  refine run_instr_fetched h (beq_self_eq_true _) ?_
  subst hq
  have hread := readNarrow_clean (coreAt (slotted k s.m) k.key) 32 (addrOf s.m k a imm) hclean
  simp only [effAddr_coreAt, scalarSlot_eq_slotted, hread, if_neg (Nat.not_le.2 hd), halign, ne_eq, not_true,
    Nat.not_le.2 hbank, or_self, if_false, anyUe, List.any_nil, Bool.false_eq_true, hok, Bool.not_true]
  split
  · exact goto_next_modCore _ (congrArg Proc.pc (slotted_p k s.m)) hnext
  · rfl

/-- A stalled ISSUE queues its descriptor when its queue has room (R105). -/
theorem exec_issueResume {s : State} {k : CoreId} {e : Fin 4} {x : QDesc}
    (hmode : (coreAt s.m k.key).p.mode = .stallIssue e x)
    (hroom : (tget [] (coreAt s.m k.key).queues e.val).length < 8) (hpc : x.pc.toNat + 4 < 0x4000) :
    exec (.issueResume k) s = .next (after (modCore k.key (fun c =>
      { enqueue e.val x c with p := { c.p with mode := .running, pc := x.pc + 4 } })) s) := by
  change execIssueResume k s = _
  unfold execIssueResume
  refine run_eq_after ?_
  simp only [hmode, hroom, if_true]
  rw [goto_next _ _ _ hpc, modCore_modCore]
  refine modCore_congr ?_
  unfold enqueue
  split <;> rfl

/-- WAIT compares the counter with A, and goes on or waits (R127). -/
theorem exec_wait {s : State} {k : CoreId} {d a : Fin 32} (h : Fetches s.m k (formI 0x31 d a 0))
    (hnext : Follows s.m k) :
    exec (.wait k d a 0) s = .next (after (if reached (coreAt s.m k.key) (d.val % 4) (gval s.m k a) = true
      then onward k id
      else modCore k.key (fun c => { c with p := { c.p with
        mode := .waiting (Fin.ofNat 4 (d.val % 4)) (gval s.m k a) } })) s) := by
  refine run_instr_fetched h (beq_self_eq_true _) ?_
  simp only [ne_eq, not_true, if_false, greg_coreAt]
  split
  · exact goto_next_onward hnext
  · exact modCore_congr (by simp only [greg_coreAt])

/-- A WAIT that waits goes on when the counter has come to its target (R127). -/
theorem exec_waitRelease {s : State} {k : CoreId} {e : Fin 4} {t : Word}
    (hmode : (coreAt s.m k.key).p.mode = .waiting e t) (hreached : reached (coreAt s.m k.key) e.val t = true)
    (hnext : Follows s.m k) :
    exec (.waitRelease k) s = .next (after (modCore k.key (fun c =>
      { c with p := { c.p with mode := .running, pc := c.p.pc + 4 } })) s) := by
  change execWaitRelease k s = _
  unfold execWaitRelease
  refine run_eq_after ?_
  simp only [hmode, hreached, if_true]
  exact goto_next_modCore _ rfl hnext

/-! ### CSRs, DONE and ERET -/

theorem exec_csrr {s : State} {k : CoreId} {d a : Fin 32} {imm : BitVec 16} {v : Word}
    (h : Fetches s.m k (formI 0x32 d a imm)) (hnext : Follows s.m k)
    (hv : csrRead s.m k.key (imm.toNat % 4096) = some v) :
    exec (.csrr k d a imm) s = .next (after (onward k (puts d v)) s) := by
  refine run_instr_fetched h (beq_self_eq_true _) ?_
  simp only [hv, setG_val]
  exact goto_next_modCore _ rfl hnext

/-- CSRW of a CSR that takes writes: `f` is what the write changes (R129). -/
theorem exec_csrw {s : State} {k : CoreId} {d a : Fin 32} {imm : BitVec 16} (f : Core → Core)
    (hnext : Follows s.m k)
    (hf : csrWrite (imm.toNat % 4096) (gval s.m k a) (coreAt s.m k.key) = some (f (coreAt s.m k.key)))
    (h : Fetches s.m k (formI 0x33 d a imm)) :
    exec (.csrw k d a imm) s = .next (after (onward k f) s) := by
  refine run_instr_fetched h (beq_self_eq_true _) ?_
  simp only [greg_coreAt, hf]
  rw [goto_next_modCore _ rfl hnext]
  exact modCore_congr rfl

theorem exec_done {s : State} {k : CoreId} (h : Fetches s.m k (formJ 0x34 0)) :
    exec (.done k 0) s = .next (after (modCore k.key (fun c => { c with p := { c.p with mode := .draining } })) s) :=
  run_instr_fetched h (beq_self_eq_true _) rfl

/-- A core that has drained signals done at the time that it is (R62, R128). -/
theorem exec_doneSignal {s : State} {k : CoreId} (hmode : (coreAt s.m k.key).p.mode = .draining)
    (hdrained : drained (coreAt s.m k.key) = true) (hdone : (coreAt s.m k.key).p.done = false) :
    exec (.doneSignal k) s = .next (after (modCore k.key (fun c =>
      { c with p := { c.p with done := true, doneAt := s.m.now, signalled := true, mode := .idle, inexc := false,
                               halted := c.p.halted || c.p.uPending } })) s) := by
  refine run_eq_after ?_
  simp only [hmode, hdrained, and_self, if_true, signalDone, endProgram]
  refine modCore_congr ?_
  simp [hdone]

theorem exec_eret {s : State} {k : CoreId} (h : Fetches s.m k (formJ 0x35 0))
    (hepc : (coreAt s.m k.key).p.epc.toNat < 0x4000) :
    exec (.eret k 0) s = .next (after (modCore k.key (fun c =>
      { c with p := { c.p with inexc := false, pc := c.p.epc } })) s) := by
  refine run_instr_fetched h (beq_self_eq_true _) ?_
  simp only [ne_eq, not_true, if_false]
  rw [goto_modCore _ _ _ _ ⟨Int.natCast_nonneg _, by exact_mod_cast hepc⟩]
  refine modCore_congr ?_
  simp

theorem scalarControlInstructions : ScalarControlInstructions := by
  intro k d a imm s
  refine ⟨fun h hnext hd halign hbank hclean hok => ⟨fun hroom => ?_, fun hfull => ?_⟩,
    fun e x hmode hroom hpc => exec_issueResume hmode hroom hpc,
    fun h hnext himm => ⟨fun hreached => ?_, fun hshort => ?_⟩,
    fun e t hmode hreached hnext => exec_waitRelease hmode hreached hnext,
    fun v h hnext hv => exec_csrr h hnext hv,
    fun hnext => ⟨exec_csrw _ hnext rfl, exec_csrw _ hnext rfl, exec_csrw _ hnext rfl⟩,
    exec_done, exec_doneSignal, exec_eret⟩
  · rw [exec_issue h hnext hd halign hbank hclean rfl hok, if_pos hroom]
    rfl
  · rw [exec_issue h hnext hd halign hbank hclean rfl hok, if_neg hfull]
  · subst himm
    rw [exec_wait h hnext, if_pos hreached]
  · subst himm
    rw [exec_wait h hnext, if_neg (Bool.eq_false_iff.1 hshort)]

/-- Settles O4: one lemma per instruction, each from the fetch of its word and the goto that it ends with. -/
theorem scalarControlFlow : Obligations.ScalarControlFlow :=
  ⟨branchesAndJumpsSetThePc, scalarControlInstructions⟩

end Sys2Proof.Spec
end

section
/-! PROOFS. The codes of the arrays of a core (R382, R383). The check bits are linear in the data, so a flip adds its
column; the columns and the single check bits are all different and of odd weight, so two flips leave a nonzero
syndrome of even weight, which is neither. -/

namespace Sys2Proof.Spec

open Sys2Proof.Machine

/-! ### The check bits -/

/-- What one data bit, with its column and its place, adds to the check bits of x (R382). -/
def addColumn (x acc : Nat) (e : Nat × Nat) : Nat := if x.testBit e.2 then acc ^^^ e.1 else acc

theorem checkBits_eq_foldl (arr x : Nat) : checkBits arr x = (columns arr).zipIdx.foldl (addColumn x) 0 := rfl

theorem addColumn_xor (x y a b : Nat) (e : Nat × Nat) :
    addColumn (x ^^^ y) (a ^^^ b) e = addColumn x a e ^^^ addColumn y b e := by
  simp only [addColumn, Nat.testBit_xor]
  cases x.testBit e.2 <;> cases y.testBit e.2 <;> simp [Nat.xor_left_comm, Nat.xor_comm]

theorem foldl_addColumn_xor (x y : Nat) (l : List (Nat × Nat)) : ∀ a b,
    l.foldl (addColumn (x ^^^ y)) (a ^^^ b) = l.foldl (addColumn x) a ^^^ l.foldl (addColumn y) b := by
  induction l with
  | nil => intro a b; rfl
  | cons e l ih => intro a b; simp only [List.foldl_cons, addColumn_xor, ih]

theorem foldl_addColumn_of_clear {x : Nat} {l : List (Nat × Nat)} (h : ∀ e ∈ l, x.testBit e.2 = false) (a : Nat) :
    l.foldl (addColumn x) a = a := by
  induction l with
  | nil => rfl
  | cons e l ih =>
    obtain ⟨he, hl⟩ := List.forall_mem_cons.1 h
    simp [addColumn, he, ih hl]

theorem foldl_addColumn_two_pow (l : List Nat) : ∀ n i a,
    (l.zipIdx n).foldl (addColumn (2 ^ (n + i))) a = a ^^^ l.getD i 0 := by
  induction l with
  | nil => simp
  | cons c l ih =>
    intro n i a
    rw [List.zipIdx_cons, List.foldl_cons]
    cases i with
    | zero =>
      have hclear : ∀ e ∈ l.zipIdx (n + 1), (2 ^ (n + 0)).testBit e.2 = false := fun e he =>
        Nat.testBit_two_pow_of_ne (Nat.ne_of_lt (List.le_snd_of_mem_zipIdx he))
      rw [foldl_addColumn_of_clear hclear]
      simp [addColumn]
    | succ i =>
      have hhead : addColumn (2 ^ (n + (i + 1))) a (c, n) = a := by
        simp [addColumn]
      rw [hhead, show n + (i + 1) = n + 1 + i by omega, ih]
      rfl

/-- The check bits are linear in the data (R382). -/
theorem checkBits_xor (arr x y : Nat) : checkBits arr (x ^^^ y) = checkBits arr x ^^^ checkBits arr y :=
  foldl_addColumn_xor x y _ 0 0

theorem checkBits_zero (arr : Nat) : checkBits arr 0 = 0 :=
  foldl_addColumn_of_clear (fun _ _ => Nat.zero_testBit _) 0

theorem checkBits_two_pow (arr i : Nat) : checkBits arr (2 ^ i) = (columns arr).getD i 0 := by
  simpa [checkBits_eq_foldl] using foldl_addColumn_two_pow (columns arr) 0 i 0

/-! ### Weights -/

theorem length_filter_xor_mod_two (x y : Nat) (l : List Nat) :
    (l.filter (x ^^^ y).testBit).length % 2 =
      ((l.filter x.testBit).length + (l.filter y.testBit).length) % 2 := by
  induction l with
  | nil => rfl
  | cons i l ih =>
    simp only [List.filter_cons, Nat.testBit_xor]
    cases x.testBit i <;> cases y.testBit i <;> simp <;> omega

/-- The parity of the weight is additive. -/
theorem weight_xor_mod_two (x y : Nat) : weight (x ^^^ y) % 2 = (weight x + weight y) % 2 :=
  length_filter_xor_mod_two x y _

theorem weight_two_pow {k : Nat} (h : k < 8) : weight (2 ^ k) = 1 := by
  decide +revert

theorem eq_two_pow_of_weight_eq_one {y : Nat} (hy : y < 2 ^ 8) (h : weight y = 1) : ∃ k, y = 2 ^ k := by
  obtain ⟨k, hk⟩ := List.length_eq_one_iff.1 h
  have hbit : ∀ i, (i < 8 ∧ y.testBit i = true) ↔ i = k := fun i => by
    simpa using congrArg (i ∈ ·) hk
  refine ⟨k, Nat.eq_of_testBit_eq fun i => ?_⟩
  rw [Nat.testBit_two_pow, Bool.eq_iff_iff, decide_eq_true_iff, eq_comm (a := k), ← hbit i]
  refine ⟨fun hi => ⟨?_, hi⟩, And.right⟩
  exact (Nat.pow_lt_pow_iff_right one_lt_two).1 ((Nat.ge_two_pow_of_testBit hi).trans_lt hy)

/-! ### The columns -/

theorem columns_length (arr : Nat) : (columns arr).length = wordBits arr := by
  match arr with
  | 0 => decide +kernel
  | 1 => decide +kernel
  | _ + 2 => exact (by decide +kernel : (columns 2).length = 32)

theorem weight_of_mem_columns {arr c : Nat} (h : c ∈ columns arr) : weight c = 3 ∨ weight c = 5 := by
  match arr with
  | 0 => exact .inl (by simpa using List.of_mem_filter (List.mem_of_mem_take h))
  | 1 =>
    rcases List.mem_append.1 h with h | h
    · exact .inl (by simpa using List.of_mem_filter h)
    · exact .inr (by simpa using List.of_mem_filter (List.mem_of_mem_take h))
  | _ + 2 => exact .inl (by simpa using List.of_mem_filter (List.mem_of_mem_take h))

theorem columns_nodup (arr : Nat) : (columns arr).Nodup := by
  have hfilter (n w : Nat) : ((List.range n).filter (fun x => weight x == w)).Nodup := List.nodup_range.filter _
  match arr with
  | 0 => exact (hfilter 32 3).take
  | 1 =>
    refine (hfilter 256 3).append (hfilter 256 5).take fun c h3 h5 => ?_
    have h3 : weight c = 3 := by simpa using List.of_mem_filter h3
    have h5 : weight c = 5 := by simpa using List.of_mem_filter (List.mem_of_mem_take h5)
    omega
  | _ + 2 => exact (hfilter 128 3).take

/-! ### The flips -/

/-- A code word has the data bits of its array and at most eight check bits. -/
theorem codeBits_bounds (arr : Nat) : wordBits arr ≤ codeBits arr ∧ codeBits arr ≤ wordBits arr + 8 := by
  match arr with
  | 0 => decide
  | 1 => decide
  | _ + 2 => exact (by decide : 32 ≤ 39 ∧ 39 ≤ 32 + 8)

theorem flipOf_data {arr i : Nat} (h : i < wordBits arr) :
    flipOf arr i = (columns arr)[i]'((columns_length arr).symm ▸ h) := by
  rw [flipOf, if_pos h, List.getD_eq_getElem]

theorem flipOf_data_mem {arr i : Nat} (h : i < wordBits arr) : flipOf arr i ∈ columns arr :=
  flipOf_data h ▸ List.getElem_mem _

theorem flipOf_check (arr k : Nat) : flipOf arr (wordBits arr + k) = 2 ^ k := by
  simp [flipOf]

/-- A bit of a code word is a data bit or a check bit. -/
theorem data_or_check {arr i : Nat} (h : i < codeBits arr) :
    i < wordBits arr ∨ ∃ k, k < 8 ∧ i = wordBits arr + k := by
  have := codeBits_bounds arr
  rcases Nat.lt_or_ge i (wordBits arr) with hd | hc
  · exact .inl hd
  · exact .inr ⟨i - wordBits arr, by omega, by omega⟩

theorem flipOf_odd {arr i : Nat} (h : i < codeBits arr) : weight (flipOf arr i) % 2 = 1 := by
  rcases data_or_check h with hd | ⟨k, hk, rfl⟩
  · have := weight_of_mem_columns (flipOf_data_mem hd)
    omega
  · rw [flipOf_check, weight_two_pow hk]

theorem flipOf_data_ne_two_pow {arr i k : Nat} (h : i < wordBits arr) (hk : k < 8) : flipOf arr i ≠ 2 ^ k := by
  intro he
  have := weight_of_mem_columns (flipOf_data_mem h)
  rw [he, weight_two_pow hk] at this
  omega

theorem flipOf_injective {arr i j : Nat} (hi : i < codeBits arr) (hj : j < codeBits arr)
    (h : flipOf arr i = flipOf arr j) : i = j := by
  rcases data_or_check hi with hdi | ⟨k, hk, rfl⟩ <;> rcases data_or_check hj with hdj | ⟨l, hl, rfl⟩
  · rw [flipOf_data hdi, flipOf_data hdj] at h
    exact (columns_nodup arr).getElem_inj_iff.1 h
  · exact absurd (h.trans (flipOf_check arr l)) (flipOf_data_ne_two_pow hdi hl)
  · exact absurd (h.symm.trans (flipOf_check arr k)) (flipOf_data_ne_two_pow hdj hk)
  · rw [flipOf_check, flipOf_check] at h
    rw [Nat.pow_right_injective (le_refl 2) h]

/-! ### The outcome of a read -/

theorem decodeWord_check (arr data : Nat) {k : Nat} (h : k < 8) :
    decodeWord arr data (2 ^ k) = (data, some (false, wordBits arr + k)) := by
  simp [decodeWord, weight_two_pow h, Nat.log2_two_pow]

theorem find_zipIdx_of_nodup {l : List Nat} (hl : l.Nodup) {i : Nat} (h : i < l.length) :
    l.zipIdx.find? (fun e => e.1 == l[i]) = some (l[i], i) := by
  refine List.find?_eq_some_iff_getElem.2 ⟨beq_self_eq_true _, i, by simpa using h, by simp, fun j hj => ?_⟩
  simpa [hl.getElem_inj_iff] using Nat.ne_of_lt hj

theorem decodeWord_data {arr i : Nat} (data : Nat) (h : i < wordBits arr) :
    decodeWord arr data (flipOf arr i) = (data ^^^ 2 ^ i, some (false, i)) := by
  have hw := weight_of_mem_columns (flipOf_data_mem h)
  have h0 : flipOf arr i ≠ 0 := fun h0 => by
    rw [h0] at hw
    exact absurd hw (by decide)
  have hfind := find_zipIdx_of_nodup (columns_nodup arr) ((columns_length arr).symm ▸ h)
  rw [← flipOf_data h] at hfind
  rw [decodeWord, if_neg h0, if_neg (by omega), hfind]

/-- A nonzero syndrome that is neither a single check bit nor a column is uncorrectable (R383). -/
theorem decodeWord_other {arr y : Nat} (data : Nat) (h0 : y ≠ 0) (h1 : weight y ≠ 1) (hc : y ∉ columns arr) :
    decodeWord arr data y = (data, some (true, 0)) := by
  have hfind : (columns arr).zipIdx.find? (fun e => e.1 == y) = none :=
    List.find?_eq_none.2 fun e he heq => hc (beq_iff_eq.1 heq ▸ List.fst_mem_of_mem_zipIdx he)
  rw [decodeWord, if_neg h0, if_neg h1, hfind]

theorem flipData_flipData (arr i data : Nat) : flipData arr i (flipData arr i data) = data := by
  unfold flipData
  split <;> simp

/-- One flipped bit is corrected, with its position. -/
theorem decodeWord_flip {arr i : Nat} (data : Nat) (h : i < codeBits arr) :
    decodeWord arr data (flipOf arr i) = (flipData arr i data, some (false, i)) := by
  rcases data_or_check h with hd | ⟨k, hk, rfl⟩
  · rw [decodeWord_data data hd, flipData, if_pos hd]
  · rw [flipOf_check, decodeWord_check arr data hk, flipData, if_neg (by omega)]

/-- Two flipped bits leave a nonzero syndrome of even weight, and a column or a single check bit has an odd one. -/
theorem decodeWord_two_flips {arr i j : Nat} (data : Nat) (hi : i < codeBits arr) (hj : j < codeBits arr)
    (hij : i ≠ j) : decodeWord arr data (flipOf arr i ^^^ flipOf arr j) = (data, some (true, 0)) := by
  have heven := weight_xor_mod_two (flipOf arr i) (flipOf arr j)
  have hoddi := flipOf_odd hi
  have hoddj := flipOf_odd hj
  refine decodeWord_other data (fun h0 => hij ?_) (by omega) (fun hmem => ?_)
  · exact flipOf_injective hi hj (Nat.xor_eq_zero_iff.1 h0)
  · have := weight_of_mem_columns hmem
    omega

/-- A syndrome that no single flip leaves is neither a check bit nor a column. -/
theorem decodeWord_no_flip {arr y : Nat} (data : Nat) (h0 : 0 < y) (hy : y < 2 ^ (codeBits arr - wordBits arr))
    (hno : ∀ i, i < codeBits arr → flipOf arr i ≠ y) : decodeWord arr data y = (data, some (true, 0)) := by
  obtain ⟨hword, hcheck⟩ := codeBits_bounds arr
  refine decodeWord_other data h0.ne' (fun h1 => ?_) (fun hmem => ?_)
  · have hy8 : y < 2 ^ 8 := hy.trans_le (Nat.pow_le_pow_right two_pos (by omega))
    obtain ⟨k, rfl⟩ := eq_two_pow_of_weight_eq_one hy8 h1
    have hk := (Nat.pow_lt_pow_iff_right one_lt_two).1 hy
    exact hno (wordBits arr + k) (by omega) (flipOf_check arr k)
  · obtain ⟨i, hi, hget⟩ := List.mem_iff_getElem.1 hmem
    rw [columns_length] at hi
    exact hno i (hi.trans_le hword) ((flipOf_data hi).trans hget)

/-- Settles O60: by the linearity of the check bits, and by the parity of the weights of the flips. -/
theorem arrayCodesCorrectOneAndDetectTwo : Obligations.ArrayCodesCorrectOneAndDetectTwo := by
  intro arr data _ _
  refine ⟨checkBits_zero arr, fun i hi => ?_, decodeWord_clean arr data, fun i hi => ?_,
    fun i j hi hj hij => ?_, fun y => decodeWord_no_flip data⟩
  · rw [checkBits_xor, checkBits_two_pow, flipOf, if_pos hi]
  · rw [decodeWord_flip _ hi, flipData_flipData]
  · rw [decodeWord_two_flips _ hi hj hij]

end Sys2Proof.Spec
end

section
/-! PROOFS. The writer of the fault ledger (R541 to R544): which event it takes, the plan of its record (R535, R538), and
the write sequence that starts or waits (R490). A plan changes only the flash and the write point, and at a write point
with room ahead it costs no copy and no erase; both hold of the whole planning, one operation after the other. -/

namespace Sys2Proof.Spec

open Sys2Proof.Machine

/-! ### The state after the command -/

@[simp] theorem after_pending (f : Mach → Mach) (s : State) : (after f s).pending = s.pending := to_pending s _

@[simp] theorem after_led (f : Mach → Mach) (s : State) : (after f s).m.led = (f s.m).led := by
  simp only [after, State.to]
  split <;> rfl

@[simp] theorem after_pwr (f : Mach → Mach) (s : State) : (after f s).m.pwr = (f s.m).pwr := by
  simp only [after, State.to]
  split <;> rfl

theorem run_unchanged {f : Mach → Mach} {s : State} (h : f s.m = s.m) : run f s = .next s := by
  rw [run, h, to_same s s.m rfl]

theorem exec_ledgerRecordWrite (s : State) : exec .ledgerRecordWrite s = .next (after recordWrite s) := rfl

/-! ### The blocks in use -/

theorem filter_tdel_sublist {α : Type} (p : Nat × α → Bool) (t : Tbl α) (k : Nat) :
    ((tdel t k).filter p).Sublist (t.filter p) := by
  refine List.Sublist.filter p ?_
  induction t with
  | nil => exact List.Sublist.refl _
  | cons e t ih =>
    unfold tdel
    split
    · exact ih.cons _
    · exact ih.cons_cons _

theorem tins_perm {α : Type} (t : Tbl α) (k : Nat) (v : α) : (tins t k v).Perm ((k, v) :: t) := by
  induction t with
  | nil => exact List.Perm.refl _
  | cons e t ih =>
    unfold tins
    split
    · exact List.Perm.refl _
    · exact (ih.cons e).trans (List.Perm.swap _ _ _)

/-- A write adds at most one entry to those that a filter keeps. -/
theorem length_filter_tset_le {α : Type} [DecidableEq α] (p : Nat × α → Bool) (d : α) (t : Tbl α) (k : Nat) (v : α) :
    ((tset d t k v).filter p).length ≤ (t.filter p).length + 1 := by
  have hdel := (filter_tdel_sublist p t k).length_le
  unfold tset
  split
  · omega
  · rw [tput, ((tins_perm _ k v).filter p).length_eq]
    calc (((k, v) :: tdel t k).filter p).length
        ≤ ((tdel t k).filter p).length + 1 := by rw [List.filter_cons]; split <;> simp
      _ ≤ (t.filter p).length + 1 := by omega

/-! ### The write point (R535) -/

theorem headBlock_of_headed {l : Ledger} (h : (blockAt l l.wblock.toNat).1 ≠ 0) : headBlock l = l := if_neg h

theorem headBlock_of_erased {l : Ledger} {x : Word} (h : blockAt l l.wblock.toNat = (0, x)) :
    headBlock l = { l with blocks := tset (0, 0) l.blocks l.wblock.toNat (BitVec.ofNat 64 (lastBseq l + 1), x) } := by
  simp only [headBlock, h, if_pos]

/-- The ledger with the write point at the start of the next block, whose erase count is `x`. -/
def nextBlock (x : Word) (l : Ledger) : Ledger :=
  { l with
    wblock := l.wblock + 1, woff := 256
    blocks := tset (0, 0) l.blocks (l.wblock + 1).toNat (BitVec.ofNat 64 (lastBseq l + 1), x) }

theorem enterBlock_of_erased {l : Ledger} {x : Word} (hhead : (blockAt l l.wblock.toNat).1 ≠ 0)
    (hnext : blockAt l (l.wblock + 1).toNat = (0, x)) : enterBlock l = nextBlock x l := by
  rw [enterBlock, headBlock_of_headed hhead]
  exact headBlock_of_erased (l := { l with wblock := l.wblock + 1, woff := 256 }) hnext

theorem blockAt_nextBlock (x : Word) (l : Ledger) :
    blockAt (nextBlock x l) (l.wblock + 1).toNat = (BitVec.ofNat 64 (lastBseq l + 1), x) :=
  tget_tset_same _ _ _ _

theorem usedBlocks_nextBlock_le (x : Word) (l : Ledger) : usedBlocks (nextBlock x l) ≤ usedBlocks l + 1 :=
  length_filter_tset_le _ _ _ _ _

/-! ### A plan without copies (R538) -/

theorem reclaim_of_room (serial : BitVec 64) (n : Nat) {l : Ledger} {pages erases : Nat} (h : usedBlocks l ≤ 4093) :
    reclaim serial n (l, pages, erases) = (l, pages, erases) := by
  cases n with
  | zero => rfl
  | succ n => exact if_pos h

theorem leavesBlock_eq_false {l : Ledger} {n : Nat} : leavesBlock l n = false ↔ l.woff + n + 512 ≤ 65536 := by
  simp [leavesBlock]

theorem makeRoom_of_fits (serial : BitVec 64) {n k : Nat} {x : Ledger × Nat × Nat} (h : leavesBlock x.1 n = false) :
    makeRoom serial n k x = x := by
  cases k with
  | zero => rfl
  | succ k => simp [makeRoom, h]

theorem makeRoom_of_leaves (serial : BitVec 64) {n k : Nat} {x : Ledger × Nat × Nat} (h : leavesBlock x.1 n = true) :
    makeRoom serial n (k + 1) x = makeRoom serial n k (reclaim serial 8 (enterBlock x.1, x.2)) := if_pos h

/-- The write point is in a block with its header, and four erased blocks lie ahead: three do still once it enters the next
one (R538). -/
def RoomAhead (l : Ledger) : Prop := (blockAt l l.wblock.toNat).1 ≠ 0 ∧ usedBlocks l ≤ 4092

theorem planWrite_of_roomAhead (serial : BitVec 64) (n : Nat) {l : Ledger} (h : RoomAhead l) :
    planWrite serial n l = makeRoom serial n 8 (l, 0, 0) := by
  obtain ⟨hhead, hused⟩ := h
  rw [planWrite, headBlock_of_headed hhead, reclaim_of_room serial 8 (by omega)]

/-- The plan of a record of n bytes leads from `l` to `l1`, and neither copies a record nor erases a block; the record in
flight, which a plan does not look at, may be any. -/
def PlansFree (serial : BitVec 64) (n : Nat) (l l1 : Ledger) : Prop :=
  l1.flash = l.flash ∧
    ∀ x, planWrite serial n { l with inFlight := x } = ({ l1 with inFlight := x }, 0, 0)

theorem plansFree_here (serial : BitVec 64) {n : Nat} {l : Ledger} (h : RoomAhead l) (hfits : l.woff + n + 512 ≤ 65536) :
    PlansFree serial n l l := by
  refine ⟨rfl, fun x => ?_⟩
  rw [planWrite_of_roomAhead serial n (l := { l with inFlight := x }) h, makeRoom_of_fits]
  exact leavesBlock_eq_false.2 hfits

/-- A record that does not fit in its block goes to the start of the next one, which takes its header. -/
theorem plansFree_next (serial : BitVec 64) {n : Nat} {l : Ledger} {x : Word} (h : RoomAhead l)
    (hleaves : 65536 < l.woff + n + 512) (hn : n ≤ 64768) (hnext : blockAt l (l.wblock + 1).toNat = (0, x)) :
    PlansFree serial n l (nextBlock x l) := by
  refine ⟨rfl, fun y => ?_⟩
  have hroom : usedBlocks (nextBlock x l) ≤ 4093 := (usedBlocks_nextBlock_le x l).trans (Nat.succ_le_succ h.2)
  calc planWrite serial n { l with inFlight := y }
      = makeRoom serial n 8 ({ l with inFlight := y }, 0, 0) :=
        planWrite_of_roomAhead serial n (l := { l with inFlight := y }) h
    _ = makeRoom serial n 7 (reclaim serial 8 (enterBlock { l with inFlight := y }, 0, 0)) :=
        makeRoom_of_leaves serial (decide_eq_true hleaves)
    _ = makeRoom serial n 7 (reclaim serial 8 ({ nextBlock x l with inFlight := y }, 0, 0)) := by
        rw [enterBlock_of_erased (l := { l with inFlight := y }) h.1 hnext]
        rfl
    _ = makeRoom serial n 7 ({ nextBlock x l with inFlight := y }, 0, 0) := by
        rw [reclaim_of_room serial 8 (l := { nextBlock x l with inFlight := y }) hroom]
    _ = ({ nextBlock x l with inFlight := y }, 0, 0) :=
        makeRoom_of_fits serial (leavesBlock_eq_false.2 (show 256 + n + 512 ≤ 65536 by omega))

/-! ### What a plan can change (R535, R538) -/

/-- Only the flash and the write point of the ledger differ. -/
def FlashOnly (l l' : Ledger) : Prop :=
  ∃ f b w o q, l' = { l with flash := f, blocks := b, wblock := w, woff := o, nextSeq := q }

theorem FlashOnly.refl (l : Ledger) : FlashOnly l l := ⟨_, _, _, _, _, rfl⟩

theorem FlashOnly.trans {l l' l'' : Ledger} (h : FlashOnly l l') (h' : FlashOnly l' l'') : FlashOnly l l'' := by
  obtain ⟨_, _, _, _, _, rfl⟩ := h
  obtain ⟨_, _, _, _, _, rfl⟩ := h'
  exact ⟨_, _, _, _, _, rfl⟩

theorem headBlock_flashOnly (l : Ledger) : FlashOnly l (headBlock l) := by
  simp only [headBlock]
  split
  · exact ⟨_, _, _, _, _, rfl⟩
  · exact .refl l

theorem enterBlock_flashOnly (l : Ledger) : FlashOnly l (enterBlock l) := by
  have hmove : FlashOnly (headBlock l) { headBlock l with wblock := l.wblock + 1, woff := 256 } := ⟨_, _, _, _, _, rfl⟩
  exact ((headBlock_flashOnly l).trans hmove).trans (headBlock_flashOnly _)

theorem placeRec_flashOnly (r : LedRec) (l : Ledger) : FlashOnly l (placeRec r l) := by
  have hplace : FlashOnly l (if leavesBlock l (evLen r.ev) then enterBlock l else headBlock l) := by
    split
    · exact enterBlock_flashOnly l
    · exact headBlock_flashOnly l
  simp only [placeRec]
  generalize (if leavesBlock l (evLen r.ev) then enterBlock l else headBlock l) = l1 at hplace
  exact hplace.trans ⟨_, l1.blocks, l1.wblock, _, _, rfl⟩

theorem foldl_placeRec_flashOnly (cs : List LedRec) : ∀ l, FlashOnly l (cs.foldl (fun l r => placeRec r l) l) := by
  induction cs with
  | nil => exact .refl
  | cons c cs ih =>
    intro l
    rw [List.foldl_cons]
    exact (placeRec_flashOnly c l).trans (ih _)

theorem eraseBlock_flashOnly (b : Nat) (l : Ledger) : FlashOnly l (eraseBlock b l) :=
  ⟨_, _, _, _, _, rfl⟩

theorem reclaim_flashOnly (serial : BitVec 64) (n : Nat) : ∀ x, FlashOnly x.1 (reclaim serial n x).1 := by
  induction n with
  | zero => exact fun x => .refl x.1
  | succ n ih =>
    rintro ⟨l, pages, erases⟩
    unfold reclaim
    split
    · exact .refl l
    · split
      · exact .refl l
      · exact ((foldl_placeRec_flashOnly _ l).trans (eraseBlock_flashOnly _ _)).trans (ih _)

theorem makeRoom_flashOnly (serial : BitVec 64) (n k : Nat) : ∀ x, FlashOnly x.1 (makeRoom serial n k x).1 := by
  induction k with
  | zero => exact fun x => .refl x.1
  | succ k ih =>
    intro x
    unfold makeRoom
    split
    · exact ((enterBlock_flashOnly x.1).trans (reclaim_flashOnly serial 8 (enterBlock x.1, x.2))).trans (ih _)
    · exact .refl x.1

theorem planWrite_flashOnly (serial : BitVec 64) (n : Nat) (l : Ledger) : FlashOnly l (planWrite serial n l).1 :=
  ((headBlock_flashOnly l).trans (reclaim_flashOnly serial 8 (headBlock l, 0, 0))).trans (makeRoom_flashOnly serial n 8 _)

/-! ### What sending an event leaves alone (R496, R552) -/

theorem raiseIrq_led_pwr (c : Nat) (s : Mach) : (raiseIrq c s).led = s.led ∧ (raiseIrq c s).pwr = s.pwr := by
  obtain ⟨n, h, o, e⟩ := raiseIrq_only c s
  rw [e]
  exact ⟨rfl, rfl⟩

theorem sendCper_led (r : LedRec) (s : Mach) : (sendCper r s).led = s.led := by
  unfold sendCper
  split <;> rfl

theorem foldl_announce_led (cs : List LedRec) : ∀ s, (cs.foldl (fun s c => announce c s) s).led = s.led := by
  induction cs with
  | nil => exact fun _ => rfl
  | cons c cs ih => exact fun s => (ih _).trans ((raiseIrq_led_pwr 12 _).1.trans (sendCper_led c s))

theorem pwrEvt_led (b : Nat) (s : Mach) : (pwrEvt b s).led = s.led := (raiseIrq_led_pwr 9 _).1

theorem pwrEvt_pwr (b : Nat) (s : Mach) : (pwrEvt b s).pwr = { s.pwr with evt := setBit s.pwr.evt b } :=
  (raiseIrq_led_pwr 9 _).2

/-! ### The write sequence of a record (R490) -/

theorem mayStart_eq_true {s : Mach} {cost : Nat} (hvaux : s.pwr.vaux = true) (hloss : s.pwr.inloss = false)
    (h : 50 + owedEnergy s + cost ≤ bankAvail s.pwr) : mayStart s cost = true := by
  simp [mayStart, hvaux, hloss, h]

theorem mayStart_eq_false {s : Mach} {cost : Nat} (h : bankAvail s.pwr < 50 + owedEnergy s + cost) :
    mayStart s cost = false := by
  simp [mayStart, h]

theorem requestSeq_starts {w : WSeq} {s : Mach} (hwait : s.pwr.waiting = []) (h : mayStart s w.cost = true) :
    requestSeq w s = startSeq w s := by
  simp [requestSeq, hwait, h]

theorem requestSeq_waits {w : WSeq} {s : Mach} (h : mayStart s w.cost = false) :
    requestSeq w s = pwrEvt 9 (modPwr (fun p => { p with waiting := p.waiting ++ [w], waits := satInc p.waits }) s) := by
  simp [requestSeq, h]

/-- The record `r` at the write point of the ledger `l`. -/
def atPoint (r : LedRec) (l : Ledger) : LedRec := { r with seq := l.nextSeq, block := l.wblock.toNat, offset := l.woff }

/-- The record `r` is written at the write point of the ledger `l`, its COMMIT erased. -/
def writtenTo (r : LedRec) (carry : Bool) (l : Ledger) : Ledger :=
  { l with
    carry := carry, inFlight := some (atPoint r l), flash := l.flash ++ [atPoint r l], nextSeq := l.nextSeq + 1
    woff := l.woff + evLen r.ev }

theorem writtenTo_flashOnly (r : LedRec) (carry : Bool) (l : Ledger) :
    ∃ l1, FlashOnly l l1 ∧ writtenTo r carry l = { l1 with carry := carry, inFlight := some (atPoint r l) } :=
  ⟨{ l with flash := l.flash ++ [atPoint r l], nextSeq := l.nextSeq + 1, woff := l.woff + evLen r.ev },
    ⟨_, l.blocks, l.wblock, _, _, rfl⟩, rfl⟩

/-- The sequence `w` runs from now on. -/
def runs (w : WSeq) (s : Mach) : Mach :=
  modPwr (fun p => { p with running := p.running ++ [{ w with since := s.now }] }) s

/-- The sequence of a record that starts writes the record where its plan puts it, and announces the copies of the plan. -/
theorem startSeq_record {w : WSeq} {s : Mach} {r : LedRec} (hw : w.kind = .ledger) (hr : s.led.inFlight = some r) :
    let p := planWrite s.start.serial (evLen r.ev) s.led
    startSeq w s = (copiesOf s.led p.1).foldl (fun s c => announce c s)
      (modLed (fun _ => writtenTo r (decide (0 < p.2.1)) p.1) (runs w s)) := by
  simp only [startSeq, seqBegins, hw, modPwr_frame, hr, runs]
  rfl

/-- Records that were in the flash before are no copies. -/
theorem copiesOf_same_flash {l l1 : Ledger} (h : l1.flash = l.flash) : copiesOf l l1 = [] := by
  simp +contextual [copiesOf, h, List.filter_eq_nil_iff]

theorem startSeq_of_no_copies {w : WSeq} {s : Mach} {r : LedRec} {l : Ledger} (hw : w.kind = .ledger)
    (hr : s.led.inFlight = some r) (hplan : planWrite s.start.serial (evLen r.ev) s.led = (l, 0, 0))
    (hflash : l.flash = s.led.flash) : startSeq w s = modLed (fun _ => writtenTo r false l) (runs w s) := by
  simp [startSeq_record hw hr, hplan, copiesOf_same_flash hflash]

/-! ### The writer takes an event (R541, R542) -/

theorem takeEvent_summary {s : Mach} (h : s.led.sumDue = true) :
    takeEvent s = some (summaryEvent s s.led, clearSupp s.led) := by
  simp [takeEvent, h]

theorem summaryEvent_flags (s : Mach) (l : Ledger) : (summaryEvent s l).flags = 8#8 := rfl

theorem takeEvent_protected {s : Mach} {e : Event} {rest : List Event} (hsum : s.led.sumDue = false)
    (h : s.led.protQ = e :: rest) :
    takeEvent s = some (e, { s.led with protQ := rest ++ s.led.waitQ.take 1, waitQ := s.led.waitQ.drop 1 }) := by
  simp [takeEvent, hsum, h]

theorem takeEvent_ordinary {s : Mach} {e : Event} {rest : List Event} (hsum : s.led.sumDue = false)
    (hfinal : s.led.sumFinal = false) (hprot : s.led.protQ = []) (h : s.led.ordQ = e :: rest) :
    takeEvent s = some (e, { s.led with ordQ := rest }) := by
  simp [takeEvent, hsum, hfinal, hprot, h]

/-- No record is on its way, and the module has power: the writer may take an event. -/
def MayTake (s : Mach) : Prop :=
  s.led.inFlight = none ∧ (∀ w ∈ s.pwr.running, w.kind ≠ .ledger) ∧ s.pwr.inloss = false ∧ s.pwr.vaux = true

theorem mayTake_of_idle {s : Mach} (h : WriterIdle s) : MayTake s := by
  obtain ⟨hflight, -, hrun, hloss, hvaux, -, -⟩ := h
  exact ⟨hflight, hrun, hloss, hvaux⟩

theorem sumDue_of_idle {s : Mach} (h : WriterIdle s) : s.led.sumDue = false := h.2.1

theorem roomAhead_of_idle {s : Mach} (h : WriterIdle s) : RoomAhead s.led := by
  obtain ⟨-, -, -, -, -, hhead, hused⟩ := h
  exact ⟨hhead, hused⟩

theorem recordWrite_inFlight {s : Mach} (h : s.led.inFlight ≠ none) : recordWrite s = s := by
  simp [recordWrite, Option.isSome_iff_ne_none.2 h]

/-- The record `r` is taken, and the ledger is `l`: its write sequence is not asked for yet. -/
def taken (r : LedRec) (l : Ledger) (s : Mach) : Mach := { s with led := { l with inFlight := some r } }

/-- The writer asks for the sequence of the record of the event that it takes. -/
theorem recordWrite_takes {s : Mach} {e : Event} {l : Ledger} (h : MayTake s) (htake : takeEvent s = some (e, l)) :
    let p := planWrite s.start.serial (evLen e) l
    recordWrite s = requestSeq { kind := .ledger, cost := seqCost (evLen e / 256 + 1 + p.2.1) p.2.2 }
      (taken (makeRec s e p.1) l s) := by
  obtain ⟨hflight, hrun, hloss, hvaux⟩ := h
  have hany : s.pwr.running.any (fun w => w.kind == .ledger) = false := by simpa using hrun
  simp [recordWrite, hflight, hany, hloss, hvaux, htake, taken]

section
variable {s : Mach} {e : Event} {l l1 : Ledger}

/-- A record whose plan costs nothing asks for its own pages and COMMIT alone. -/
theorem recordWrite_plansFree (h : MayTake s) (htake : takeEvent s = some (e, l))
    (hplan : PlansFree s.start.serial (evLen e) l l1) :
    recordWrite s = requestSeq (recordSeq (evLen e)) (taken (makeRec s e l1) l s) := by
  have hp : planWrite s.start.serial (evLen e) l = ({ l1 with inFlight := l.inFlight }, 0, 0) := hplan.2 l.inFlight
  rw [recordWrite_takes h htake, hp]
  rfl

/-- Where AVAIL covers the sequence, the record lies where its plan puts it. -/
theorem recordWrite_starts (h : MayTake s) (htake : takeEvent s = some (e, l))
    (hplan : PlansFree s.start.serial (evLen e) l l1) (hwait : s.pwr.waiting = [])
    (havail : 50 + owedEnergy s + (recordSeq (evLen e)).cost ≤ bankAvail s.pwr) :
    recordWrite s = modLed (fun _ => writtenTo (makeRec s e l1) false l1) (runs (recordSeq (evLen e)) s) := by
  have hmay : mayStart (taken (makeRec s e l1) l s) (recordSeq (evLen e)).cost = true := by
    obtain ⟨-, -, hloss, hvaux⟩ := h
    exact mayStart_eq_true hvaux hloss havail
  rw [recordWrite_plansFree h htake hplan, requestSeq_starts (s := taken _ l s) hwait hmay,
    startSeq_of_no_copies (s := taken _ l s) rfl rfl (hplan.2 (some (makeRec s e l1))) hplan.1]
  rfl

/-- Where AVAIL does not cover the sequence, it waits, and nothing is written. -/
theorem recordWrite_waits (h : MayTake s) (htake : takeEvent s = some (e, l))
    (hplan : PlansFree s.start.serial (evLen e) l l1)
    (havail : bankAvail s.pwr < 50 + owedEnergy s + (recordSeq (evLen e)).cost) :
    (recordWrite s).led = { l with inFlight := some (makeRec s e l1) } ∧
    (recordWrite s).pwr = { s.pwr with
      waiting := s.pwr.waiting ++ [recordSeq (evLen e)], waits := satInc s.pwr.waits, evt := setBit s.pwr.evt 9 } := by
  have hmay : mayStart (taken (makeRec s e l1) l s) (recordSeq (evLen e)).cost = false := mayStart_eq_false havail
  rw [recordWrite_plansFree h htake hplan, requestSeq_waits hmay, pwrEvt_led, pwrEvt_pwr]
  exact ⟨rfl, rfl⟩

end

/-- Whether it starts or waits, the sequence of a record in flight keeps its event in flight; what else it changes of the
ledger is the flash, the write point and CARRY. -/
theorem requestSeq_record {w : WSeq} {s : Mach} {r : LedRec} (hw : w.kind = .ledger) (hr : s.led.inFlight = some r) :
    ∃ l r' c, FlashOnly s.led l ∧ r'.ev = r.ev ∧ (requestSeq w s).led = { l with carry := c, inFlight := some r' } := by
  unfold requestSeq
  split
  · rw [startSeq_record hw hr, foldl_announce_led]
    obtain ⟨l, hl, hwritten⟩ := writtenTo_flashOnly r _ _
    exact ⟨l, atPoint r _, _, (planWrite_flashOnly _ _ _).trans hl, rfl, hwritten⟩
  · rw [pwrEvt_led]
    refine ⟨s.led, r, s.led.carry, .refl _, rfl, ?_⟩
    rw [← hr]
    rfl

/-- A SUMMARY that is due is taken before the events queued, and clears the counters (R542, R544). -/
theorem recordWrite_summary {s : Mach} (h : MayTake s) (hsum : s.led.sumDue = true) :
    ∃ l r c, FlashOnly (clearSupp s.led) l ∧ r.ev = summaryEvent s s.led ∧
      (recordWrite s).led = { l with carry := c, inFlight := some r } := by
  rw [recordWrite_takes h (takeEvent_summary hsum)]
  obtain ⟨l, r, c, ⟨f, b, wb, o, q, rfl⟩, hev, hled⟩ := requestSeq_record (w := ⟨.ledger, _, 0⟩)
    (s := taken (makeRec s (summaryEvent s s.led) _) (clearSupp s.led) s) rfl rfl
  exact ⟨{ clearSupp s.led with flash := f, blocks := b, wblock := wb, woff := o, nextSeq := q }, r, c,
    ⟨f, b, wb, o, q, rfl⟩, hev, hled⟩

/-! ### The queue (R543) -/

theorem queueEvent_protected {e : Event} {l : Ledger} (h : isProtected e.cls.toNat = true) (hroom : l.protQ.length < 64) :
    queueEvent e l = { l with protQ := l.protQ ++ [e] } := by
  simpa [h, hroom] using queueEvent_cases e l

theorem queueEvent_atSource {e : Event} {l : Ledger} (h : isProtected e.cls.toNat = true) (hfull : 64 ≤ l.protQ.length) :
    queueEvent e l = { l with waitQ := l.waitQ ++ [e] } := by
  simpa [h, Nat.not_lt.2 hfull] using queueEvent_cases e l

theorem queueEvent_ordinary {e : Event} {l : Ledger} (h : isProtected e.cls.toNat = false) (hroom : l.ordQ.length < 4032) :
    queueEvent e l = { l with ordQ := l.ordQ ++ [e] } := by
  simpa [h, hroom] using queueEvent_cases e l

theorem queueEvent_suppressed {e : Event} {l : Ledger} (h : isProtected e.cls.toNat = false) (hfull : 4032 ≤ l.ordQ.length) :
    queueEvent e l = suppress e.cls e.round 1 l := by
  simpa [h, Nat.not_lt.2 hfull] using queueEvent_cases e l

theorem tget_suppress (cls : BitVec 16) (rnd : BitVec 48) (n : Nat) (l : Ledger) :
    tget 0 (suppress cls rnd n l).supp cls.toNat = satAdd (tget 0 l.supp cls.toNat) n :=
  tget_tmod_same 0 l.supp cls.toNat (fun c => satAdd c n)

/-- Settles O31: the plan of a record with room ahead is the write point or the next block, and the sequence starts there or
waits; a SUMMARY goes by what any plan leaves alone. -/
theorem theWriterTakesTheOldestEvent : Obligations.TheWriterTakesTheOldestEvent := by
  unfold Obligations.TheWriterTakesTheOldestEvent
  refine ⟨?_, ?_, ?_, ?_, ?_, ?_, ?_, ?_, ?_, ?_⟩
  · intro s e rest hprot ⟨hidle, hfits⟩ hwait havail
    exact run_eq_after (recordWrite_starts (mayTake_of_idle hidle) (takeEvent_protected (sumDue_of_idle hidle) hprot)
      (plansFree_here _ (roomAhead_of_idle hidle) hfits) hwait havail)
  · intro s e rest hprot hfinal hord ⟨hidle, hfits⟩ hwait havail
    exact run_eq_after (recordWrite_starts (mayTake_of_idle hidle)
      (takeEvent_ordinary (sumDue_of_idle hidle) hfinal hprot hord)
      (plansFree_here _ (roomAhead_of_idle hidle) hfits) hwait havail)
  · intro s e rest hprot ⟨hidle, hfits⟩ havail
    obtain ⟨hled, hpwr⟩ := recordWrite_waits (mayTake_of_idle hidle)
      (takeEvent_protected (sumDue_of_idle hidle) hprot) (plansFree_here _ (roomAhead_of_idle hidle) hfits) havail
    refine ⟨_, exec_ledgerRecordWrite s, after_pending _ _, ?_⟩
    rw [after_led, after_pwr, hled, hpwr]
    exact ⟨rfl, rfl, rfl, rfl, rfl⟩
  · intro s e rest x hprot hidle hwait hleaves hn hnext havail
    have hrun := recordWrite_starts (mayTake_of_idle hidle) (takeEvent_protected (sumDue_of_idle hidle) hprot)
      (plansFree_next _ (roomAhead_of_idle hidle) hleaves hn hnext) hwait havail
    refine ⟨_, makeRec s.m e (nextBlock x s.m.led), exec_ledgerRecordWrite s, after_pending _ _, ?_⟩
    rw [after_led, hrun]
    exact ⟨rfl, rfl, rfl, rfl, rfl, rfl, rfl, rfl, blockAt_nextBlock x s.m.led⟩
  · intro s hsum hflight hrun hloss hvaux
    obtain ⟨_, r, c, ⟨_, _, _, _, _, rfl⟩, hev, hled⟩ := recordWrite_summary ⟨hflight, hrun, hloss, hvaux⟩ hsum
    refine ⟨_, r, exec_ledgerRecordWrite s, after_pending _ _, ?_⟩
    rw [after_led, hled, hev, summaryEvent_flags]
    exact ⟨rfl, rfl, by decide, rfl, rfl, rfl, rfl⟩
  · intro s hflight
    exact run_unchanged (recordWrite_inFlight hflight)
  · exact fun e l => queueEvent_protected
  · exact fun e l => queueEvent_atSource
  · exact fun e l => queueEvent_ordinary
  · intro e l hord hfull
    rw [queueEvent_suppressed hord hfull]
    exact ⟨rfl, rfl, rfl, tget_suppress _ _ _ _⟩

end Sys2Proof.Spec
end

section
/-! PROOFS. The resets of the host block (R561, R598) and the training of its link (R558). All of them change the host
block alone; what a reset leaves of a ring are the commands that it had accepted, and none of them is written. -/

namespace Sys2Proof.Spec

open Sys2Proof.Machine

/-! ### A command that changes the host block alone -/

/-- Such a command lets no time pass, so the cycle goes on. -/
theorem run_host {f : Mach → Mach} {s : State} (h : f s.m = { s.m with host := (f s.m).host }) :
    run f s = .next { s with m := f s.m } ∧ OnlyHost s { s with m := f s.m } := by
  have hnow := congrArg Mach.now h
  exact ⟨congrArg Host.Outcome.next (to_same s _ hnow), rfl, h⟩

/-! ### The reset values (R561) -/

theorem ringGone_orphaned (cs : List RunCmd) :
    RingGone { Ring.reset with cmds := cs.map (fun c => { c with mode := .orphan }) } := by
  refine ⟨rfl, fun c hc => ?_⟩
  obtain ⟨c', -, rfl⟩ := List.mem_map.1 hc
  rfl

theorem ringGone_of_mem_hostReset {s : Mach} {e : Nat × Ring} (h : e ∈ (hostReset s).host.rings) : RingGone e.2 := by
  obtain ⟨old, -, hkept⟩ := List.mem_filterMap.1 h
  split at hkept
  · cases hkept
  · cases hkept
    exact ringGone_orphaned old.2.cmds

theorem hostReset_cleared (s : Mach) : HostCleared (hostReset s).host :=
  ⟨rfl, rfl, rfl, rfl, rfl, rfl, rfl, rfl, rfl, rfl, fun _ => ringGone_of_mem_hostReset⟩

/-! ### PERST# (R598) -/

/-- The link is down while PERST# is asserted. -/
def linkDown (h : HostBlk) : HostBlk := { h with perst := true, gen := 0, width := 0, flitMode := false }

theorem perstAssert_started {s : Mach} (h : 7 ≤ s.start.state.toNat) : perstAssert s = hostReset (modHost linkDown s) :=
  if_neg (Nat.not_lt.2 h)

theorem perstAssert_starting {s : Mach} (h : s.start.state.toNat < 7) : perstAssert s = modHost linkDown s := if_pos h

/-- PERST# is released, and the other end of the link tells what it supports. -/
def released (gen width : BitVec 5) (flit : Bool) (h : HostBlk) : HostBlk :=
  { h with perst := false, peerGen := fld gen 0 4, peerWidth := width, peerFlit := flit }

theorem perstRelease_asserted {s : Mach} (h : s.host.perst = true) (gen width : BitVec 5) (flit : Bool) :
    perstRelease gen width flit s = modHost (fun h => trainLink (released gen width flit h)) s := by
  simp [perstRelease, h, released]

/-! ### The training of the link (R558) -/

theorem sharedGen_of_le {gen : Nat} {flit : Bool} (h : 3 ≤ min gen (if flit then 6 else 5)) :
    sharedGen gen flit = min gen (if flit then 6 else 5) := if_neg (Nat.not_lt.2 h)

theorem sharedGen_of_lt {gen : Nat} {flit : Bool} (h : min gen (if flit then 6 else 5) < 3) : sharedGen gen flit = 0 :=
  if_pos h

theorem trainLink_shared {h : HostBlk} (hgen : sharedGen h.peerGen.toNat h.peerFlit ≠ 0)
    (hwidth : sharedWidth h.peerWidth.toNat ≠ 0) :
    trainLink h = { h with
      gen := BitVec.ofNat 4 (sharedGen h.peerGen.toNat h.peerFlit), width := BitVec.ofNat 5 (sharedWidth h.peerWidth.toNat)
      flitMode := decide (sharedGen h.peerGen.toNat h.peerFlit = 6) } := by
  simp [trainLink, hgen, hwidth, beq_eq_decide]

theorem trainLink_unshared {h : HostBlk}
    (hnone : sharedGen h.peerGen.toNat h.peerFlit = 0 ∨ sharedWidth h.peerWidth.toNat = 0) :
    trainLink h = { h with gen := 0, width := 0, flitMode := false } := by
  have hdown : ¬ (sharedGen h.peerGen.toNat h.peerFlit ≠ 0 ∧ sharedWidth h.peerWidth.toNat ≠ 0) :=
    fun ⟨hgen, hwidth⟩ => hnone.elim hgen hwidth
  simp [trainLink, hdown]

/-- Settles O39: a reset leaves the link, the count and the queue memory alone; the training takes what both ends share. -/
theorem theHostBlockIsReset : Obligations.TheHostBlockIsReset := by
  unfold Obligations.TheHostBlockIsReset
  refine ⟨fun s => ?_, fun s hstarted => ?_, fun s hstarting => ?_, fun s g w f hperst => ⟨fun hn hk => ?_, fun hnone => ?_⟩⟩
  · obtain ⟨hrun, honly⟩ := run_host (f := functionLevelReset) (s := s) rfl
    exact ⟨_, hrun, honly, hostReset_cleared s.m, rfl, rfl, rfl, rfl⟩
  · have hreset := perstAssert_started hstarted
    obtain ⟨hrun, honly⟩ := run_host (f := perstAssert) (s := s) (by rw [hreset]; rfl)
    refine ⟨_, hrun, honly, ?_⟩
    rw [hreset]
    exact ⟨hostReset_cleared _, rfl, rfl, rfl, rfl⟩
  · exact run_eq_after (perstAssert_starting hstarting)
  · have hgen := sharedGen_of_le hn
    have hsome : sharedGen (fld g 0 4 : BitVec 4).toNat f ≠ 0 := by omega
    refine run_eq_after ((perstRelease_asserted hperst g w f).trans ?_)
    rw [modHost, trainLink_shared (h := released g w f s.m.host) hsome hk]
    simp only [released, hgen]
    rfl
  · refine run_eq_after ((perstRelease_asserted hperst g w f).trans ?_)
    rw [modHost, trainLink_unshared (h := released g w f s.m.host) (hnone.imp_left sharedGen_of_lt)]
    rfl

end Sys2Proof.Spec
end

section
/-! PROOFS. What every step does to the queue (00_scope.md, log entries 2 and 8). A well-formed command goes on with the
queue as it was; the one list operand that no check of the dispatcher looks at is the FEC of VZL_FLIT. -/

namespace Sys2Proof.Spec

open Sys2Proof.Machine

/-- The answer to a command is a next state with the queue of `s`. -/
def KeepsQueue (s : State) (r : Res) : Prop := ∃ t, r = .next t ∧ t.pending = s.pending

theorem keepsQueue_run (f : Mach → Mach) (s : State) : KeepsQueue s (run f s) := ⟨_, rfl, to_pending s _⟩

theorem keepsQueue_runIf {ok : Bool} (h : ok = true) (f : Mach → Mach) (s : State) : KeepsQueue s (runIf ok f s) := by
  subst h
  exact keepsQueue_run f s

theorem keepsQueue_next {s t : State} (h : t.pending = s.pending) : KeepsQueue s (.next t) := ⟨t, rfl, h⟩

/-- Only a command with a list operand is checked; every other one goes on from any state. -/
theorem exec_keepsQueue {c : Instr} (h : c.wf = true) (s : State) : KeepsQueue s (exec c s) := by
  cases c with
  | rwrite | rread | rdata | keepRwrite | keepRread | keepRdata | remoteWriteRequest | apertureRead | apertureWrite
  | hostCopyToEdge | ckptImport | licenceInstall | keyFuseProgram | keyFuseRevoke | fwUpdate => exact keepsQueue_runIf h _ s
  | _ => exact keepsQueue_next (by simp)

theorem step_empty {s : State} (h : s.pending = []) : step s = .next s.tick := by
  simp only [step, h]

theorem step_cons {s : State} {c : Instr} {rest : List Instr} (h : s.pending = c :: rest) :
    step s = exec c { s with pending := rest } := by
  simp only [step, h]

/-- Settles O54: the two branches of a step. -/
theorem aStepRunsTheFrontCommand : Obligations.AStepRunsTheFrontCommand :=
  ⟨fun _ _ => step_cons rfl, fun _ h => step_empty h⟩

/-- A step of a well-formed queue goes on, and takes at most the command at the front. -/
theorem step_of_queueWf {s : State} (h : QueueWf s) : ∃ t, step s = .next t ∧ t.pending = s.pending.tail := by
  cases hq : s.pending with
  | nil => exact ⟨_, step_empty hq, (to_pending s _).trans hq⟩
  | cons c rest =>
    rw [step_cons hq]
    exact exec_keepsQueue (h c (by simp [hq])) { s with pending := rest }

theorem queueWf_step {s t : State} (h : QueueWf s) (hstep : step s = .next t) : QueueWf t := by
  obtain ⟨t', hnext, htail⟩ := step_of_queueWf h
  obtain rfl : t = t' := by simpa using hstep.symm.trans hnext
  exact fun c hc => h c (List.mem_of_mem_tail (htail ▸ hc))

theorem runs_of_queueWf (n : Nat) : ∀ {s : State}, QueueWf s → Sys2Proof.Safety.Runs n s := by
  induction n with
  | zero => exact fun _ => trivial
  | succ n ih =>
    intro s h
    obtain ⟨t, hnext, -⟩ := step_of_queueWf h
    exact ⟨t, hnext, ih (queueWf_step h hnext)⟩

/-- Settles O57: every step keeps the form of the queue, so none of any number of steps stops. -/
theorem aWellFormedQueueNeverStops : Obligations.AWellFormedQueueNeverStops :=
  ⟨fun _ _ => queueWf_step, fun n _ => runs_of_queueWf n, fun _ _ h => h⟩

/-- Refutes O55: a VZL_FLIT whose flit lies in no code word is no command, and goes on all the same. -/
theorem not_everyWellFormedCommandGoesOn : ¬ Obligations.EveryWellFormedCommandGoesOn := by
  unfold Obligations.EveryWellFormedCommandGoesOn
  intro h
  have hfault := (h (.vzlFlit 0 0 { lane := 0, shared := false, idle := [], errs := [] }) State.reset).2 rfl
  exact absurd hfault nofun

end Sys2Proof.Spec
end

section
/-! PROOFS. The element formats (R140 to R142): an encoding is a sign, an exponent and a mantissa, decoding gives a value
whose quantum is its own spacing, so conversion rounds nothing and packs the same three fields again. -/

namespace Sys2Proof.Spec

open Sys2Proof.Machine

/-! ### The fields of an encoding -/

/-- The encoding with a sign, an exponent field and a mantissa field. -/
def pack (f : Fmt) (neg : Bool) (ex man : Nat) : Nat := (if neg then 2 ^ (f.e + f.m) else 0) + ex * 2 ^ f.m + man

theorem exists_pack (f : Fmt) {x : Nat} (h : x < 2 ^ (f.e + f.m + 1)) :
    ∃ neg ex man, ex < 2 ^ f.e ∧ man < 2 ^ f.m ∧ x = pack f neg ex man := by
  have hsign : x / 2 ^ (f.e + f.m) < 2 := Nat.div_lt_of_lt_mul (by rwa [← Nat.pow_succ])
  refine ⟨decide (x / 2 ^ (f.e + f.m) = 1), x % 2 ^ (f.e + f.m) / 2 ^ f.m, x % 2 ^ f.m,
    Nat.div_lt_of_lt_mul ?_, Nat.mod_lt _ (by positivity), ?_⟩
  · rw [← Nat.pow_add, Nat.add_comm f.m]
    exact Nat.mod_lt _ (by positivity)
  · have hlow := Nat.div_add_mod' (x % 2 ^ (f.e + f.m)) (2 ^ f.m)
    rw [Nat.mod_mod_of_dvd _ (Nat.pow_dvd_pow 2 (Nat.le_add_left _ _))] at hlow
    have hx := Nat.div_add_mod' x (2 ^ (f.e + f.m))
    rw [pack, Nat.add_assoc, hlow]
    generalize x / 2 ^ (f.e + f.m) = sign at hsign hx
    obtain rfl | rfl : sign = 0 ∨ sign = 1 := by omega
    · simpa using hx.symm
    · simpa using hx.symm

section
variable {f : Fmt} {neg : Bool} {ex man : Nat} (hex : ex < 2 ^ f.e) (hman : man < 2 ^ f.m)
include hex hman

theorem low_pack_lt : ex * 2 ^ f.m + man < 2 ^ (f.e + f.m) := by
  calc ex * 2 ^ f.m + man < (ex + 1) * 2 ^ f.m := by rw [Nat.succ_mul]; omega
    _ ≤ 2 ^ f.e * 2 ^ f.m := Nat.mul_le_mul_right _ hex
    _ = 2 ^ (f.e + f.m) := (Nat.pow_add ..).symm

theorem sign_pack : (pack f neg ex man / 2 ^ (f.e + f.m) % 2 == 1) = neg := by
  have hlow := low_pack_lt hex hman
  have hpos : 0 < 2 ^ (f.e + f.m) := by positivity
  cases neg
  · simp [pack, Nat.div_eq_of_lt hlow]
  · simp [pack, Nat.add_assoc, Nat.add_div_left _ hpos, Nat.div_eq_of_lt hlow]

theorem exponent_pack : pack f neg ex man / 2 ^ f.m % 2 ^ f.e = ex := by
  have hpos : 0 < 2 ^ f.m := by positivity
  have hdiv : (ex * 2 ^ f.m + man) / 2 ^ f.m = ex := by
    rw [Nat.add_comm, Nat.add_mul_div_right _ _ hpos, Nat.div_eq_of_lt hman, Nat.zero_add]
  cases neg
  · simp [pack, hdiv, Nat.mod_eq_of_lt hex]
  · have htop : (2 ^ (f.e + f.m) + (ex * 2 ^ f.m + man)) / 2 ^ f.m = 2 ^ f.e + ex := by
      rw [Nat.pow_add, Nat.mul_comm, Nat.mul_add_div hpos, hdiv]
    simp [pack, Nat.add_assoc, htop, Nat.mod_eq_of_lt hex]

omit hex in
theorem mantissa_pack : pack f neg ex man % 2 ^ f.m = man := by
  cases neg
  · simp [pack, Nat.mod_eq_of_lt hman]
  · simp [pack, Nat.add_assoc, Nat.pow_add, Nat.mod_eq_of_lt hman]

/-- Decoding by the fields (R141). -/
theorem decodeFp_pack : decodeFp f (pack f neg ex man) =
    if f.special == 2 && ex == 2 ^ f.e - 1 then (if man == 0 then .inf neg else .nan)
    else if f.special == 1 && ex == 2 ^ f.e - 1 && man == 2 ^ f.m - 1 then .nan
    else if ex == 0 then .fin neg man (1 - f.bias - (f.m : Int))
    else .fin neg (2 ^ f.m + man) ((ex : Int) - f.bias - (f.m : Int)) := by
  simp only [decodeFp, sign_pack hex hman, exponent_pack hex hman, mantissa_pack hman]

end

/-! ### What needs no rounding -/

theorem p2_zero : p2 0 = 1 := rfl

/-- A magnitude that is a count of quanta is that count, in every mode (R148). -/
theorem roundAt_self (mode : Nat) (r : Word) (mag : Nat) (q : Int) : roundAt mode r mag q q = mag := by
  simp [roundAt, p2_zero]

/-- A value of a lower spacing with no greater count is no greater. -/
theorem dy_not_lt {n n' : Nat} {q q' : Int} (h : n ≤ n' * p2 (q' - q)) (hq : q ≤ q') :
    (Dy.mk (n' : Int) q').lt ⟨(n : Int), q⟩ = false := by
  have h' : (n : Int) ≤ n' * (p2 (q' - q) : Nat) := by exact_mod_cast h
  simp [Dy.lt, Dy.sub, Dy.add, Dy.neg, min_eq_right hq, p2_zero]
  omega

/-- The count and the quantum are within the largest finite magnitude of the format (R140). -/
def WithinMax (f : Fmt) (n : Nat) (q : Int) : Prop := q ≤ (maxFin f).2 ∧ n ≤ (maxFin f).1 * p2 ((maxFin f).2 - q)

/-- A value that is a count of its own quanta converts exactly (R148, R150). -/
theorem convFp_exact {code mag : Nat} {exp : Int} (mode : Nat) (r : Word) (neg : Bool) (hmag : mag ≠ 0)
    (hq : quantum (fmtOf code) mag exp = exp) (hmax : WithinMax (fmtOf code) mag exp) :
    convFp code mode r (.fin neg mag exp) = (encodeFp (fmtOf code) neg mag exp, false) := by
  simp [convFp, hmag, hq, roundAt_self, dy_not_lt hmax.2 hmax.1]

theorem convFp_zero (code mode : Nat) (r : Word) (neg : Bool) (exp : Int) :
    convFp code mode r (.fin neg 0 exp) = (pack (fmtOf code) neg 0 0, false) := by
  simp [convFp, encodeFp, pack]

/-! ### Subnormal and normal values -/

section
variable {f : Fmt} {ex man : Nat}

theorem log2_normal (hman : man < 2 ^ f.m) : Nat.log2 (2 ^ f.m + man) = f.m :=
  (Nat.log2_eq_iff (by positivity)).2 ⟨Nat.le_add_right _ _, by rw [Nat.pow_succ]; omega⟩

theorem quantum_subnormal (h0 : man ≠ 0) (hman : man < 2 ^ f.m) :
    quantum f man (1 - f.bias - (f.m : Int)) = 1 - f.bias - (f.m : Int) := by
  have := (Nat.log2_lt h0).2 hman
  exact max_eq_left (by omega)

theorem quantum_normal (hex : ex ≠ 0) (hman : man < 2 ^ f.m) :
    quantum f (2 ^ f.m + man) ((ex : Int) - f.bias - (f.m : Int)) = (ex : Int) - f.bias - (f.m : Int) := by
  rw [quantum, log2_normal hman]
  exact (max_eq_right (by omega)).trans (by omega)

theorem encodeFp_subnormal (neg : Bool) (h0 : man ≠ 0) (hman : man < 2 ^ f.m) :
    encodeFp f neg man (1 - f.bias - (f.m : Int)) = pack f neg 0 man := by
  have := (Nat.log2_lt h0).2 hman
  have hsub : (Nat.log2 man : Int) + (1 - f.bias - (f.m : Int)) < 1 - f.bias := by omega
  simp [encodeFp, h0, hsub, pack, p2_zero]

theorem encodeFp_normal (neg : Bool) (hex : ex ≠ 0) (hman : man < 2 ^ f.m) :
    encodeFp f neg (2 ^ f.m + man) ((ex : Int) - f.bias - (f.m : Int)) = pack f neg ex man := by
  have hpos : 0 < 2 ^ f.m := by positivity
  have hne : 2 ^ f.m + man ≠ 0 := by omega
  have hnorm : ¬ ((f.m : Int) + ((ex : Int) - f.bias - (f.m : Int)) < 1 - f.bias) := by omega
  have hfield : ((f.m : Int) + ((ex : Int) - f.bias - (f.m : Int)) + f.bias).toNat = ex := by omega
  simp only [encodeFp, if_neg hne, log2_normal hman, if_neg hnorm, hfield, Nat.mul_div_cancel _ hpos, Nat.add_sub_cancel_left]
  rfl

end

/-! ### The round trip -/

theorem le_mul_p2 (n : Nat) (d : Int) : n ≤ n * p2 d := Nat.le_mul_of_pos_right n (by simp [p2])

theorem two_le_p2 {d : Int} (h : 1 ≤ d) : 2 ≤ p2 d := by
  obtain ⟨k, hk⟩ : ∃ k, d.toNat = k + 1 := ⟨d.toNat - 1, by omega⟩
  have : 0 < 2 ^ k := by positivity
  rw [p2, hk, Nat.pow_succ]
  omega

/-- Where the top exponent is not reserved for infinities and NaNs, or is not `ex`, every mantissa is finite; in FP8-E4M3 all but
the NaN's are, and a lower binade is below the largest magnitude since its mantissa has more than one bit. -/
theorem withinMax_normal {f : Fmt} {ex man : Nat} (hex : ex < 2 ^ f.e) (hman : man < 2 ^ f.m)
    (hinf : f.special = 2 → ex ≠ 2 ^ f.e - 1) (hnan : f.special = 1 → ex = 2 ^ f.e - 1 → man ≠ 2 ^ f.m - 1)
    (hm : 1 ≤ f.m) : WithinMax f (2 ^ f.m + man) ((ex : Int) - f.bias - (f.m : Int)) := by
  have hcount : 2 ^ f.m + man ≤ 2 ^ (f.m + 1) - 1 := by rw [Nat.pow_succ]; omega
  unfold WithinMax maxFin
  split
  next h2 =>
    have := hinf h2
    exact ⟨by dsimp only; omega, hcount.trans (le_mul_p2 _ _)⟩
  next h1 =>
    refine ⟨by dsimp only; omega, ?_⟩
    by_cases htop : ex = 2 ^ f.e - 1
    · have := hnan h1 htop
      exact le_trans (by rw [Nat.pow_succ]; omega) (le_mul_p2 _ _)
    · have hbig : 2 ≤ 2 ^ f.m := Nat.le_self_pow (by omega) 2
      calc 2 ^ f.m + man ≤ (2 ^ (f.m + 1) - 2) * 2 := by rw [Nat.pow_succ]; omega
        _ ≤ _ := Nat.mul_le_mul_left _ (two_le_p2 (by dsimp only; omega))
  next => exact ⟨by dsimp only; omega, hcount.trans (le_mul_p2 _ _)⟩

theorem withinMax_subnormal {f : Fmt} {man : Nat} (hman : man < 2 ^ f.m) (hm : 1 ≤ f.m) (he : 2 ≤ f.e) :
    WithinMax f man (1 - f.bias - (f.m : Int)) := by
  have hbig : 2 ≤ 2 ^ f.m := Nat.le_self_pow (by omega) 2
  have htop : 2 ^ 2 ≤ 2 ^ f.e := Nat.pow_le_pow_right Nat.two_pos he
  have hcount : man ≤ 2 ^ (f.m + 1) - 2 := by rw [Nat.pow_succ]; omega
  have hcount' : man ≤ 2 ^ (f.m + 1) - 1 := by rw [Nat.pow_succ]; omega
  unfold WithinMax maxFin
  split
  · exact ⟨by dsimp only; omega, hcount'.trans (le_mul_p2 _ _)⟩
  · exact ⟨by dsimp only; omega, hcount.trans (le_mul_p2 _ _)⟩
  · exact ⟨by dsimp only; omega, hcount'.trans (le_mul_p2 _ _)⟩

/-- The formats of R107 have a mantissa and an exponent of more than one bit, and are as wide as their codes say. -/
theorem fmtOf_shape {code : Nat} (h : code ≤ 7) : 1 ≤ (fmtOf code).m ∧ 2 ≤ (fmtOf code).e ∧
    fmtBits code = (fmtOf code).e + (fmtOf code).m + 1 := by
  interval_cases code <;> decide

theorem convFp_decodeFp {code x : Nat} (mode : Nat) (r : Word) (hcode : code ≤ 7) (hx : x < 2 ^ fmtBits code)
    (hnan : (decodeFp (fmtOf code) x).isNan = false) : convFp code mode r (decodeFp (fmtOf code) x) = (x, false) := by
  obtain ⟨hm, he, hbits⟩ := fmtOf_shape hcode
  obtain ⟨neg, ex, man, hex, hman, rfl⟩ := exists_pack (fmtOf code) (hbits ▸ hx)
  rw [decodeFp_pack hex hman] at hnan ⊢
  split at hnan
  next hinf =>
    obtain ⟨hspecial, rfl⟩ : (fmtOf code).special = 2 ∧ ex = 2 ^ (fmtOf code).e - 1 := by simpa using hinf
    by_cases h0 : man = 0
    · simp [h0, convFp, hspecial, infOf, pack]
    · simp [h0, FVal.isNan] at hnan
  next hinf =>
    split at hnan
    · simp [FVal.isNan] at hnan
    next hnotNan =>
    rw [if_neg hinf, if_neg hnotNan]
    by_cases hsub : ex = 0
    · subst hsub
      by_cases h0 : man = 0
      · subst h0
        exact convFp_zero ..
      · rw [if_pos (beq_self_eq_true 0), convFp_exact mode r neg h0 (quantum_subnormal h0 hman) (withinMax_subnormal hman hm he),
          encodeFp_subnormal neg h0 hman]
    · have hmax := withinMax_normal hex hman (by simpa using hinf) (by simpa using hnotNan) hm
      rw [if_neg (by simpa using hsub),
        convFp_exact mode r neg (by have := Nat.two_pow_pos (fmtOf code).m; omega) (quantum_normal hsub hman) hmax,
        encodeFp_normal neg hsub hman]

/-- An integer is a count of units (R142). -/
theorem convInt_decodeInt {w x : Nat} (mode : Nat) (r : Word) (hw : 1 ≤ w) (hx : x < 2 ^ w) :
    convInt w mode r (decodeInt w x) = (x, false) := by
  have htwice : 2 ^ w = 2 * 2 ^ (w - 1) := by rw [← Nat.pow_succ', Nat.succ_eq_add_one, Nat.sub_add_cancel hw]
  unfold decodeInt
  split
  next h => simp [convInt, roundAt_self, Nat.le_sub_one_of_lt h]
  next h =>
    have hfits : ¬ (2 ^ (w - 1) - 1 + 1 < 2 ^ w - x) := by omega
    simp [convInt, roundAt_self, hfits, Nat.sub_sub_self hx.le, Nat.mod_eq_of_lt hx]

/-- Settles O59: integers count units, and the three fields of a floating-point encoding come back. -/
theorem elementFormatsRoundTrip : Obligations.ElementFormatsRoundTrip := by
  intro code mode x r hcode hx hnan
  unfold decodeElem convElem at *
  cases hint : fmtInt code with
  | true =>
    have hw : 1 ≤ fmtBits code := by interval_cases code <;> decide
    simpa only [hint, if_true] using convInt_decodeInt mode r hw hx
  | false =>
    have hfloat : code ≤ 7 := by
      simp only [fmtInt, Bool.or_eq_false_iff, beq_eq_false_iff_ne] at hint
      omega
    simp only [hint, Bool.false_eq_true, if_false] at hnan ⊢
    exact convFp_decodeFp mode r hfloat hx hnan

end Sys2Proof.Spec
end

section
/-! PROOFS. Facts that the proofs of all families share: the state after a change in which no time passes, and what an
interrupt, an event and an uncorrected fault leave alone. -/

namespace Sys2Proof.Spec

open Sys2Proof.Machine

/-- A change in which no time passes goes on in the same cycle. -/
theorem after_m {f : Mach → Mach} {s : State} (h : (f s.m).now = s.m.now) : (after f s).m = f s.m := by
  rw [after, to_same _ _ h]

/-! ### What only signals: the notes of the cycle, the host block and what leaves the module -/

/-- Only the notes of the cycle, the host block and what leaves the module differ. -/
def Signals (s t : Mach) : Prop := ∃ n h o, t = { s with notes := n, host := h, out := o }

theorem Signals.refl (s : Mach) : Signals s s := ⟨s.notes, s.host, s.out, rfl⟩

theorem Signals.trans {s t u : Mach} (h : Signals s t) (h' : Signals t u) : Signals s u := by
  obtain ⟨_, _, _, rfl⟩ := h
  obtain ⟨_, _, _, rfl⟩ := h'
  exact ⟨_, _, _, rfl⟩

theorem raiseIrq_signals (c : Nat) (s : Mach) : Signals s (raiseIrq c s) := raiseIrq_only c s

theorem noteRaise_signals (a b : Nat) (s : Mach) : Signals s (noteRaise a b s) := ⟨_, s.host, s.out, rfl⟩

theorem emit_signals (e : OutEv) (s : Mach) : Signals s (emit e s) := ⟨s.notes, s.host, _, rfl⟩

theorem complete_signals (o : Owed) (st det : Nat) (s : Mach) : Signals s (complete o st det s) := by
  obtain ⟨h, e⟩ := complete_only o st det s
  exact ⟨s.notes, h, s.out, e⟩

/-- The keep block after an uncorrected fault of class `cls` (R449). -/
def faultKept (s : Mach) (cls : Nat) (k : Keep) : Keep :=
  if k.rsValid then { k with rsMulti := true, faulted := true, holdNext := true }
  else { k with rsValid := true, rsClass := BitVec.ofNat 16 cls, rsRound := (roundNow s).setWidth 32,
                faulted := true, holdNext := true }

theorem uncorrected_signals (cls : Nat) (s : Mach) : Signals (modKeep (faultKept s cls) s) (uncorrected cls s) :=
  (noteRaise_signals _ _ _).trans (raiseIrq_signals 8 _)

end Sys2Proof.Spec
end

section
/-! PROOFS. The register instructions, loads and stores of the scalar processor (R92, R101, R125, R126). -/

namespace Sys2Proof.Spec

open Sys2Proof.Machine

/-! ### Register instructions -/

/-- An instruction whose word is fetched writes D and goes on (R125). -/
theorem run_aluStep {s : State} {k : CoreId} {w : Word} {is : Word → Bool} {d : Fin 32} {v : Core → Word} {x : Word}
    (hnext : Follows s.m k) (hw : is w = true) (hx : v (coreAt s.m k.key) = x) (h : Fetches s.m k w) :
    run (aluStep k is d v) s = .next (after (onward k (puts d x)) s) := by
  refine run_instr_fetched h hw ?_
  rw [setG_val, hx]
  exact goto_next_modCore _ rfl hnext

theorem run_aluA {s : State} {k : CoreId} {d a b : Fin 32} {fn : Nat} {f : Word → Word → Word} {x : Word}
    (hnext : Follows s.m k) (hx : f (gval s.m k a) (gval s.m k b) = x) (h : Fetches s.m k (formA d a b fn)) :
    run (aluA k fn d a b f) s = .next (after (onward k (puts d x)) s) :=
  run_aluStep hnext (beq_self_eq_true _) (by simpa only [greg_coreAt] using hx) h

theorem run_aluI {s : State} {k : CoreId} {d a : Fin 32} {op : Nat} {imm : BitVec 16} {f : Word → Word}
    (hnext : Follows s.m k) (h : Fetches s.m k (formI op d a imm)) :
    run (aluI k op d a imm f) s = .next (after (onward k (puts d (f (gval s.m k a)))) s) :=
  run_aluStep hnext (beq_self_eq_true _) (by simp only [greg_coreAt]) h

theorem append_and_mask (o : BitVec 6) (x y : BitVec 5) (imm : BitVec 16) :
    (o ++ x ++ y ++ imm) &&& 0xFFE0FFFF#(6 + 5 + 5 + 16) = o ++ x ++ 0#5 ++ imm := by
  ext i hi
  simp only [BitVec.getElem_and, BitVec.getElem_append]
  interval_cases i <;> simp

/-- The A field of LUI has no meaning (R125; log entry 12). -/
theorem formI_and_mask (op : Nat) (d a : Fin 32) (imm : BitVec 16) :
    formI op d a imm &&& 0xFFE0FFFF = encI op d 0 imm := append_and_mask _ _ _ imm

theorem shifted_imm (imm : BitVec 16) : zext16 imm <<< 16 = BitVec.ofNat 32 (imm.toNat * 65536) := by
  apply BitVec.eq_of_toNat_eq
  simp only [zext16, BitVec.toNat_shiftLeft, BitVec.toNat_setWidth, BitVec.toNat_ofNat, Nat.shiftLeft_eq]
  omega

theorem fetch_clean {s : Mach} {k : CoreId}
    (h : tget 0 (coreAt s k.key).synd (imemKey ((coreAt s k.key).p.pc.toNat / 4)) = 0) :
    BitVec.ofNat 32 (fetch (coreAt s k.key)).1 = codeAt s k := by
  have hsyn : tget 0 (coreAt s k.key).synd (imemKey ((coreAt s k.key).p.pc.toNat / 4 * 4 / 4)) = 0 := by simpa using h
  simp only [fetch, readWord, if_pos, hsyn]
  rfl

/-- A word that does not encode the instruction is not executed as it (log entry 7). -/
theorem aluA_other {s : Mach} {k : CoreId} {d a b : Fin 32} {fn : Nat} {f : Word → Word → Word}
    (hclean : tget 0 (coreAt s k.key).synd (imemKey ((coreAt s k.key).p.pc.toNat / 4)) = 0)
    (h : codeAt s k ≠ formA d a b fn) : aluA k fn d a b f s = s := by
  unfold aluA aluStep
  refine instr_other k.key _ _ s hclean ?_
  rw [fetch_clean hclean]
  exact beq_eq_false_iff_ne.2 h

/-- Settles O1: one lemma for each of the two formats, and LUI. -/
theorem scalarArithmeticWritesOnlyD : Obligations.ScalarArithmeticWritesOnlyD := by
  intro k d a b imm s hnext
  refine ⟨run_aluA hnext rfl, run_aluA hnext rfl, run_aluA hnext rfl, run_aluA hnext rfl, run_aluA hnext rfl,
    run_aluA hnext rfl, run_aluA hnext rfl, run_aluA hnext rfl, run_aluA hnext (by simp [BitVec.slt]),
    run_aluA hnext (by simp [BitVec.ult]), run_aluA hnext rfl, run_aluA hnext rfl, run_aluI hnext, run_aluI hnext,
    run_aluI hnext, run_aluI hnext, run_aluI hnext, run_aluI hnext, run_aluI hnext,
    run_aluStep hnext (beq_iff_eq.2 (formI_and_mask 9 d a imm)) (shifted_imm imm), 
    fun hother hclean => run_unchanged (aluA_other hclean hother)⟩

/-! ### Loads -/

/-- A load reads clean bytes in the scalar slot and goes on (R92, R101). -/
theorem run_loadStep {s : State} {k : CoreId} {op n : Nat} {d a : Fin 32} {imm : BitVec 16} {put : Nat → Core → Core}
    {f : Core → Core} (hnext : Follows s.m k) (halign : Aligned s.m k a imm n)
    (hclean : Clean (slotted k s.m) k (addrOf s.m k a imm) n)
    (hf : put (rdNum (coreAt (slotted k s.m) k.key).sp (addrOf s.m k a imm) n) = f)
    (h : Fetches s.m k (formI op d a imm)) :
    run (loadStep k op n d a imm put) s = .next (after (fun m => onward k f (slotted k m)) s) := by
  refine run_instr_fetched h (beq_self_eq_true _) ?_
  have hread := readNarrow_clean (coreAt (slotted k s.m) k.key) n _ hclean
  rw [effAddr_coreAt, access_ok _ _ _ _ _ _ halign.1 halign.2]
  simp only [scalarSlot_eq_slotted, hread, anyUe, List.any_nil, Bool.false_eq_true, if_false, hf]
  exact goto_next_modCore _ (congrArg Proc.pc (slotted_p k s.m)) hnext

theorem pairStep_even (k : CoreId) (op : Nat) {d : Fin 32} (a : Fin 32) (imm : BitVec 16) (f : Mach → Mach)
    (h : d.val % 2 = 0) : pairStep k op d a imm f = f := by
  funext s
  exact if_pos h

/-- The second register of a pair (R125). -/
theorem val_succ_of_even {d : Fin 32} (h : d.val % 2 = 0) : (d + 1).val = d.val + 1 := by
  exact Fin.val_add_one_of_lt' (by omega)

/-- Settles O2: one lemma for loads; LP differs in what it writes. -/
theorem loadsReadTheNarrowBank : Obligations.LoadsReadTheNarrowBank := by
  intro k d a imm s hnext
  refine ⟨fun halign hclean => ⟨?_, ?_⟩, fun halign hclean => ⟨?_, ?_⟩, fun halign hclean => ?_,
    fun halign hclean heven => ?_⟩
  case refine_6 =>
    rw [show exec (.lp k d a imm) s = run (pairStep k 0x15 d a imm _) s from rfl, pairStep_even k _ a imm _ heven]
    refine run_loadStep hnext halign hclean ?_
    funext c
    rw [← val_succ_of_even heven, setG_val, setG_val]
  all_goals exact run_loadStep hnext halign hclean (setG_val d _)

/-! ### Stores -/

/-- A store writes its bytes in the scalar slot and goes on (R92, R101). -/
theorem run_storeStep {s : State} {k : CoreId} {op n : Nat} {d a : Fin 32} {imm : BitVec 16} {v : Core → Nat}
    (hnext : Follows s.m k) (halign : Aligned s.m k a imm n) (h : Fetches s.m k (formI op d a imm)) :
    run (storeStep k op n d a imm v) s =
      .next (after (fun m => onward k (writeSp (addrOf s.m k a imm) (toBytes n (v (coreAt s.m k.key)))) (slotted k m)) s) := by
  refine run_instr_fetched h (beq_self_eq_true _) ?_
  rw [effAddr_coreAt, access_ok _ _ _ _ _ _ halign.1 halign.2, scalarSlot_eq_slotted]
  exact goto_next_modCore _ (congrArg Proc.pc (slotted_p k s.m)) hnext

theorem onward_slotted_eq_modCore (k : CoreId) (f : Core → Core) (s : Mach) :
    ∃ g, onward k f (slotted k s) = modCore k.key g s := by
  unfold slotted onward
  split
  · exact ⟨_, rfl⟩
  · exact ⟨_, modCore_modCore ..⟩

theorem toBytes_length (n : Nat) : ∀ x, (toBytes n x).length = n := by
  induction n with
  | zero => exact fun _ => rfl
  | succ n ih => exact fun x => congrArg (· + 1) (ih (x / 256))

/-- The core after a store: the processor goes on, the bytes are stored, and every other byte is that of the scalar slot. -/
theorem stored_after {s : State} {k : CoreId} {addr n v : Nat} {t : State}
    (ht : t = after (fun m => onward k (writeSp addr (toBytes n v)) (slotted k m)) s) :
    t.pending = s.pending ∧ (∃ f, t.m = modCore k.key f s.m) ∧
      (coreAt t.m k.key).p = { (coreAt s.m k.key).p with pc := (coreAt s.m k.key).p.pc + 4 } ∧
      rdBytes (coreAt t.m k.key).sp addr n = toBytes n v ∧
      ∀ x, (x < addr ∨ addr + n ≤ x) → rd (coreAt t.m k.key).sp x = rd (coreAt (slotted k s.m) k.key).sp x := by
  subst ht
  obtain ⟨g, hg⟩ := onward_slotted_eq_modCore k (writeSp addr (toBytes n v)) s.m
  have hm := after_m (f := fun m => onward k (writeSp addr (toBytes n v)) (slotted k m)) (s := s)
    (by rw [hg]; rfl)
  have hlen := toBytes_length n v
  refine ⟨to_pending s _, ⟨g, hm.trans hg⟩, ?_, ?_, fun x hx => ?_⟩ <;> rw [hm]
  · simp [onward]
  · have hread := rdBytes_wrBytes (toBytes n v) (coreAt (slotted k s.m) k.key).sp addr
    rw [hlen] at hread
    simpa [onward] using hread
  · have hkept := rd_wrBytes_outside (toBytes n v) (coreAt (slotted k s.m) k.key).sp addr x (by rwa [hlen])
    simpa [onward] using hkept

/-- Settles O3: one lemma for the step of a store and one for what it leaves. -/
theorem storesWriteExactlyTheirBytes : Obligations.StoresWriteExactlyTheirBytes := by
  intro k d a imm s hnext
  refine ⟨fun halign h => ⟨_, run_storeStep hnext halign h, stored_after ?_⟩,
    fun halign h => ⟨_, run_storeStep hnext halign h, stored_after ?_⟩,
    fun halign h => ⟨_, run_storeStep hnext halign h, stored_after ?_⟩, fun halign heven h => ?_⟩
  case refine_4 =>
    refine ⟨_, ?_, stored_after rfl⟩
    rw [show exec (.sp k d a imm) s = run (pairStep k 0x1B d a imm _) s from rfl, pairStep_even k _ a imm _ heven,
      run_storeStep hnext halign h]
    simp only [← val_succ_of_even heven, greg_coreAt]
  all_goals rw [greg_coreAt]

end Sys2Proof.Spec
end

section
/-! PROOFS. The exceptions of the scalar processor (R126, R130 to R135): what a class S exception and a class U fault change of
their core, and that outside it only the die's event, the signals and (for class U) the keep block change. -/

namespace Sys2Proof.Spec

open Sys2Proof.Machine

/-! ### What an exception changes outside its core -/

/-- Core k changes as `f` says and the keep block is `κ`; beside them only the events of the dies, the notes of the cycle, the host
block and what leaves the module differ. -/
def OnlyCore (k : Nat) (f : Core → Core) (κ : Keep) (s t : Mach) : Prop :=
  ∃ n h o d, t = { modCore k f s with notes := n, host := h, out := o, dies := d, keep := κ }

theorem onlyCore_modCore (k : Nat) (f : Core → Core) (s : Mach) : OnlyCore k f s.keep s (modCore k f s) :=
  ⟨s.notes, s.host, s.out, s.dies, rfl⟩

section
variable {k : Nat} {f : Core → Core} {κ : Keep} {s t u : Mach}

theorem OnlyCore.modCore (h : OnlyCore k f κ s t) (g : Core → Core) :
    OnlyCore k (fun c => g (f c)) κ s (Machine.modCore k g t) := by
  obtain ⟨n, b, o, d, rfl⟩ := h
  refine ⟨n, b, o, d, ?_⟩
  rw [← modCore_modCore k f g s]
  rfl

theorem OnlyCore.signals (h : OnlyCore k f κ s t) (h' : Signals t u) : OnlyCore k f κ s u := by
  obtain ⟨n, b, o, d, rfl⟩ := h
  obtain ⟨n', b', o', rfl⟩ := h'
  exact ⟨n', b', o', d, rfl⟩

theorem OnlyCore.logDie (h : OnlyCore k f κ s t) (die cls scope flags unit loc : Nat) (detail : List Byte) :
    OnlyCore k f κ s (Machine.logDie die cls scope flags unit loc detail t) := by
  obtain ⟨n, b, o, d, rfl⟩ := h
  exact ⟨n, b, o, _, rfl⟩

theorem OnlyCore.roundNow_eq (h : OnlyCore k f κ s t) : roundNow t = roundNow s := by
  obtain ⟨n, b, o, d, rfl⟩ := h
  rfl

theorem OnlyCore.coreAt_same (h : OnlyCore k f κ s t) : coreAt t k = f (coreAt s k) := by
  obtain ⟨n, b, o, d, rfl⟩ := h
  exact coreAt_modCore k f s

theorem OnlyCore.coreAt_other (h : OnlyCore k f κ s t) {j : Nat} (hj : j ≠ k) : coreAt t j = coreAt s j := by
  obtain ⟨n, b, o, d, rfl⟩ := h
  exact coreAt_modCore_other f s hj

theorem OnlyCore.frame (h : OnlyCore k f κ s t) :
    t.now = s.now ∧ t.edge = s.edge ∧ t.keep = κ ∧ t.rnd = s.rnd ∧ t.led = s.led := by
  obtain ⟨n, b, o, d, rfl⟩ := h
  exact ⟨rfl, rfl, rfl, rfl, rfl⟩

end

/-! ### The record of a fault (R134, R135) -/

/-- The core with a fault in CORE_FAULT: the first one is recorded, a later one sets MULTI. -/
def faultNoted (rnd : BitVec 48) (u : Bool) (cause addr epc : Nat) (c : Core) : Core :=
  { c with r :=
    if c.r.fValid then { c.r with fMulti := true }
    else { c.r with fValid := true, fClass := u, fRound := rnd.setWidth 16, fCause := BitVec.ofNat 8 cause,
                    fAddr := BitVec.ofNat 32 addr, fEpc := BitVec.ofNat 14 epc } }

/-- The counts of exceptions are no part of the record. -/
theorem faultNoted_counts (rnd : BitVec 48) (u : Bool) (cause addr epc : Nat) (c : Core) :
    (faultNoted rnd u cause addr epc c).r.scnt = c.r.scnt ∧ (faultNoted rnd u cause addr epc c).r.ucnt = c.r.ucnt := by
  cases h : c.r.fValid <;> simp [faultNoted, h]

theorem recorded_of_faultNoted {s t : State} {k : CoreId} {u : Bool} {cause addr pc : Nat} {c : Core} {n n' : BitVec 16}
    (hr : c.r = { (coreAt s.m k.key).r with scnt := n, ucnt := n' })
    (h : (coreAt t.m k.key).r = (faultNoted (roundNow s.m) u cause addr pc c).r) : Recorded s k u cause addr pc t := by
  unfold Recorded
  rw [h]
  cases hv : (coreAt s.m k.key).r.fValid <;> simp [faultNoted, hr, hv]

theorem OnlyCore.recordFault {k : Nat} {f : Core → Core} {κ : Keep} {s t : Mach} (h : OnlyCore k f κ s t) (u : Bool) (cause addr epc : Nat) :
    OnlyCore k (fun c => faultNoted (roundNow s) u cause addr epc (f c)) κ s (Machine.recordFault k u cause addr epc t) := by
  rw [← h.roundNow_eq]
  exact (h.modCore _).signals ((noteRaise_signals _ _ _).trans (raiseIrq_signals 10 _))

/-! ### Class S (R131) -/

/-- The core counts a class S exception. -/
def sCounted (c : Core) : Core := { c with r := { c.r with scnt := satInc c.r.scnt } }

/-- The core in its handler. -/
def inHandler (cause addr pc : Nat) (c : Core) : Core :=
  { c with p := { c.p with
      epc := BitVec.ofNat 32 pc, cause := BitVec.ofNat 9 cause, faddr := BitVec.ofNat 32 addr, inexc := true
      mode := .running, pc := c.p.tvec &&& 0x3FFC } }

theorem enterHandler_classS (k cause addr pc : Nat) (s : Mach) :
    enterHandler k false cause addr pc s = modCore k (inHandler cause addr pc) s :=
  modCore_congr (by simp [inHandler])

/-- A class S exception with an enabled handler: counted, recorded, and its event at the die. -/
theorem classS_handled {s : Mach} {k : CoreId} (cause addr pc : Nat) (h : HasHandler s k) :
    OnlyCore k.key (fun c => inHandler cause addr pc (faultNoted (roundNow s) false cause addr pc (sCounted c))) s.keep s
      (classS k.key cause addr pc s) := by
  obtain ⟨hvec, hfree⟩ := h
  have hrec := ((onlyCore_modCore k.key sCounted s).recordFault false cause addr pc).logDie (dieOf k.key) 0x21 3 0 (pcOf k.key)
    addr (toBytes 4 cause ++ toBytes 4 addr ++ toBytes 4 pc)
  have heq : classS k.key cause addr pc s = modCore k.key (inHandler cause addr pc) (logDie (dieOf k.key) 0x21 3 0 (pcOf k.key)
      addr (toBytes 4 cause ++ toBytes 4 addr ++ toBytes 4 pc) (recordFault k.key false cause addr pc (modCore k.key sCounted s))) := by
    rw [classS, if_neg (by simp [hfree]), if_pos hvec, enterHandler_classS]
    rfl
  rw [heq]
  exact hrec.modCore (inHandler cause addr pc)

/-- The state after an exception that was taken at the instruction of the PC. -/
theorem handled_after {s : State} {k : CoreId} (cause addr : Nat) (h : HasHandler s.m k) :
    Handled s k cause addr (after (classS k.key cause addr (coreAt s.m k.key).p.pc.toNat) s) ∧
      Recorded s k false cause addr (coreAt s.m k.key).p.pc.toNat
        (after (classS k.key cause addr (coreAt s.m k.key).p.pc.toNat) s) := by
  have honly := classS_handled cause addr (coreAt s.m k.key).p.pc.toNat h
  obtain ⟨hnow, hedge, hkeep, hrnd, hled⟩ := honly.frame
  have hcore := honly.coreAt_same
  unfold Handled
  rw [after_m hnow, hcore]
  obtain ⟨hscnt, hucnt⟩ := faultNoted_counts (roundNow s.m) false cause addr (coreAt s.m k.key).p.pc.toNat
    (sCounted (coreAt s.m k.key))
  refine ⟨⟨to_pending s _, ?_, hscnt, hucnt, rfl, rfl, rfl, rfl, fun j hj => honly.coreAt_other hj, hedge, hkeep, hrnd, hled⟩, ?_⟩
  · simp [inHandler, faultNoted, sCounted]
  · exact recorded_of_faultNoted (c := sCounted (coreAt s.m k.key)) rfl (by rw [after_m hnow, hcore]; rfl)

section
variable {s : State} {k : CoreId} {w : Word} {cause addr : Nat}

/-- An instruction that is fetched and whose effect is a class S exception traps. -/
theorem traps_of_fetched {is : Word → Bool} {f : Core → Word → Mach → Mach} (hh : HasHandler s.m k) (hw : is w = true)
    (hf : f (coreAt s.m k.key) (coreAt s.m k.key).p.pc s.m = classS k.key cause addr (coreAt s.m k.key).p.pc.toNat s.m)
    (h : Fetches s.m k w) :
    ∃ t, run (instr k.key is f) s = .next t ∧ Handled s k cause addr t ∧
      Recorded s k false cause addr (coreAt s.m k.key).p.pc.toNat t := by
  obtain ⟨hhandled, hrecorded⟩ := handled_after (s := s) cause addr hh
  exact ⟨_, run_instr_fetched (g := classS k.key cause addr (coreAt s.m k.key).p.pc.toNat) h hw hf, hhandled, hrecorded⟩

end

theorem access_misaligned (k : Nat) {n addr : Nat} (pc : Word) (go : Mach → Mach) (s : Mach) (h : addr % n ≠ 0) :
    access k n addr pc go s = classS k 0x02 addr pc.toNat s := if_pos h

theorem access_outside (k : Nat) {n addr : Nat} (pc : Word) (go : Mach → Mach) (s : Mach) (h : addr % n = 0)
    (hout : 0x10000 ≤ addr) : access k n addr pc go s = classS k 0x03 addr pc.toNat s := by
  rw [access, if_neg (not_not.2 h), if_pos hout]

section
variable {s : State} {k : CoreId} {d a : Fin 32} {imm : BitVec 16} {op n cause : Nat}

/-- A load whose address fails a check traps. -/
theorem loadStep_traps {put : Nat → Core → Core} (hh : HasHandler s.m k)
    (haccess : ∀ go, access k.key n (addrOf s.m k a imm) (coreAt s.m k.key).p.pc go s.m =
      classS k.key cause (addrOf s.m k a imm) (coreAt s.m k.key).p.pc.toNat s.m) (h : Fetches s.m k (formI op d a imm)) :
    ∃ t, run (loadStep k op n d a imm put) s = .next t ∧ Handled s k cause (addrOf s.m k a imm) t ∧
      Recorded s k false cause (addrOf s.m k a imm) (coreAt s.m k.key).p.pc.toNat t := by
  refine traps_of_fetched hh (beq_self_eq_true _) ?_ h
  rw [effAddr_coreAt]
  exact haccess _

theorem storeStep_traps {v : Core → Nat} (hh : HasHandler s.m k)
    (haccess : ∀ go, access k.key n (addrOf s.m k a imm) (coreAt s.m k.key).p.pc go s.m =
      classS k.key cause (addrOf s.m k a imm) (coreAt s.m k.key).p.pc.toNat s.m) (h : Fetches s.m k (formI op d a imm)) :
    ∃ t, run (storeStep k op n d a imm v) s = .next t ∧ Handled s k cause (addrOf s.m k a imm) t ∧
      Recorded s k false cause (addrOf s.m k a imm) (coreAt s.m k.key).p.pc.toNat t := by
  refine traps_of_fetched hh (beq_self_eq_true _) ?_ h
  rw [effAddr_coreAt]
  exact haccess _

/-- An instruction of a register pair is illegal for an odd register (R126). -/
theorem pairStep_traps {f : Mach → Mach} (hh : HasHandler s.m k) (hodd : d.val % 2 = 1) (h : Fetches s.m k (formI op d a imm)) :
    ∃ t, run (pairStep k op d a imm f) s = .next t ∧ Handled s k 0x01 0 t ∧
      Recorded s k false 0x01 0 (coreAt s.m k.key).p.pc.toNat t := by
  have hpair : pairStep k op d a imm f = instr k.key (· == encI op d a imm) (fun _ pc s => classS k.key 0x01 0 pc.toNat s) := by
    funext m
    exact if_neg (by omega)
  rw [hpair]
  exact traps_of_fetched hh (beq_self_eq_true _) rfl h

end

/-- ERET to an address outside the instruction memory leaves the handler and is an exception there (R126, R130; log entry 12). -/
theorem eret_outside {s : State} {k : CoreId} (hh : HasHandler s.m k) (hepc : 0x4000 ≤ (coreAt s.m k.key).p.epc.toNat)
    (h : Fetches s.m k (formJ 0x35 0)) : ∃ t, exec (.eret k 0) s = .next t ∧
      (coreAt t.m k.key).p.pc = (coreAt s.m k.key).p.tvec &&& 0x3FFC ∧ (coreAt t.m k.key).p.cause = 0x04 ∧
      (coreAt t.m k.key).p.epc = (coreAt s.m k.key).p.pc := by
  have hh' : HasHandler (modCore k.key (fun c => { c with p := { c.p with inexc := false } }) s.m) k := by
    simpa [HasHandler] using hh.1
  have honly := classS_handled 0x04 (BitVec.ofInt 32 (coreAt s.m k.key).p.epc.toNat).toNat (coreAt s.m k.key).p.pc.toNat hh'
  refine ⟨after (fun m => classS k.key 0x04 (BitVec.ofInt 32 (coreAt s.m k.key).p.epc.toNat).toNat (coreAt s.m k.key).p.pc.toNat
    (modCore k.key (fun c => { c with p := { c.p with inexc := false } }) m)) s, ?_, ?_⟩
  · refine run_instr_fetched h (beq_self_eq_true _) ?_
    simp only [ne_eq, not_true, if_false]
    exact goto_outside _ _ _ _ (by omega)
  · rw [after_m honly.frame.1, honly.coreAt_same, coreAt_modCore]
    simp [inHandler, faultNoted, sCounted]

theorem exec_illegalInstruction {s : State} (k : CoreId) {w : Word} (h : listed w = false) :
    exec (.illegalInstruction k w) s = run (instr k.key (· == w) (fun _ pc s => classS k.key 0x01 0 pc.toNat s)) s := by
  change execIllegalInstruction k w s = _
  simp [execIllegalInstruction, h]

theorem classSExceptionsEnterTheHandler : ClassSExceptionsEnterTheHandler := by
  intro k d a imm off w s hh
  refine ⟨fun hillegal h => ?_, fun hmis => ⟨?_, ?_⟩, fun halign hout => ⟨?_, ?_⟩, fun hodd => ⟨?_, ?_⟩,
    fun hoff => ⟨?_, ?_⟩, fun himm => ?_, fun hepc => eret_outside hh hepc, ⟨?_, ?_⟩, fun hd hmis => ?_⟩
  · rw [exec_illegalInstruction k hillegal]
    exact traps_of_fetched hh (beq_self_eq_true _) rfl h
  · exact loadStep_traps hh (fun go => access_misaligned _ _ go _ hmis)
  · exact storeStep_traps hh (fun go => access_misaligned _ _ go _ hmis)
  · exact loadStep_traps hh (fun go => access_outside _ _ go _ halign hout)
  · exact storeStep_traps hh (fun go => access_outside _ _ go _ halign hout)
  · exact pairStep_traps hh hodd
  · exact pairStep_traps hh hodd
  · exact traps_of_fetched hh (beq_self_eq_true _) (if_pos hoff)
  · exact traps_of_fetched hh (beq_self_eq_true _) (if_pos hoff)
  · exact traps_of_fetched hh (beq_self_eq_true _) (if_pos himm)
  · exact traps_of_fetched hh (beq_self_eq_true _) rfl
  · exact traps_of_fetched hh (beq_self_eq_true _) rfl
  · refine traps_of_fetched hh (beq_self_eq_true _) ?_
    rw [if_neg (by omega), effAddr_coreAt]
    exact if_pos (.inl hmis)

/-! ### Class U without a handler (R131, R132) -/

theorem OnlyCore.uncorrected {k : Nat} {f : Core → Core} {κ : Keep} {s t : Mach} (h : OnlyCore k f κ s t) (cls : Nat) :
    OnlyCore k f (faultKept s cls κ) s (Machine.uncorrected cls t) := by
  refine OnlyCore.signals ?_ (uncorrected_signals cls t)
  obtain ⟨n, b, o, d, rfl⟩ := h
  exact ⟨n, b, o, d, rfl⟩

/-- The core counts a class U fault. -/
def uCounted (c : Core) : Core := { c with r := { c.r with ucnt := satInc c.r.ucnt } }

/-- The core without an arbitration, halted at a time. -/
def haltedAt (now : Nat) (c : Core) : Core :=
  { c with
    mx := { c.mx with arb := none }
    p := { c.p with
      uPending := true, done := true, doneAt := if c.p.done then c.p.doneAt else now, mode := .idle, inexc := false
      halted := true } }

/-- A class U fault that no handler takes, of no engine. -/
theorem classU_halts {s : Mach} {k : CoreId} (cause addr pc : Nat) (hvec : bit (coreAt s k.key).p.tvec 0 = false) :
    OnlyCore k.key (fun c => haltedAt s.now (faultNoted (roundNow s) true cause addr pc (uCounted c))) (faultKept s 0x20 s.keep) s
      (classU k.key cause addr pc none s) := by
  have hreport : OnlyCore k.key (fun c => faultNoted (roundNow s) true cause addr pc (uCounted c)) (faultKept s 0x20 s.keep) s
      (reportU k.key cause addr pc s) :=
    (((onlyCore_modCore k.key uCounted s).recordFault true cause addr pc).logDie _ 0x20 3 1 _ addr _).uncorrected 0x20
  have hend := hreport.modCore (haltedAt s.now)
  have hbit : bit (coreAt (reportU k.key cause addr pc s) k.key).p.tvec 0 = false := by
    rw [hreport.coreAt_same]
    exact hvec
  have heq : classU k.key cause addr pc none s = modCore k.key (haltedAt s.now) (reportU k.key cause addr pc s) := by
    simp only [classU, coreAt_modCore, hbit, Bool.false_and, Bool.false_eq_true, if_false, haltCore, endProgram,
      modCore_modCore, modCore_frame, hreport.frame.1]
    exact modCore_congr (by simp [haltedAt])
  rw [heq]
  exact hend

theorem faultKept_faulted (s : Mach) (cls : Nat) (κ : Keep) :
    (faultKept s cls κ).faulted = true ∧ (faultKept s cls κ).rsValid = true := by
  cases h : κ.rsValid <;> simp [faultKept, h]

theorem classUFaultHaltsTheCore : ClassUFaultHaltsTheCore := by
  intro k w s h hillegal hvec hfree
  have hhalts := classU_halts 0x01 0 (coreAt s.m k.key).p.pc.toNat hvec
  obtain ⟨hnow, hedge, hkeep, -, -⟩ := hhalts.frame
  have hcore := hhalts.coreAt_same
  obtain ⟨hscnt, hucnt⟩ := faultNoted_counts (roundNow s.m) true 0x01 0 (coreAt s.m k.key).p.pc.toNat (uCounted (coreAt s.m k.key))
  refine ⟨after (classU k.key 0x01 0 (coreAt s.m k.key).p.pc.toNat none) s, ?_, ?_⟩
  · rw [exec_illegalInstruction k hillegal]
    refine run_instr_fetched h (beq_self_eq_true _) ?_
    rw [classS, if_neg (by simp [hfree]), if_neg (by simp [hvec])]
  · rw [after_m hnow, hcore, hkeep]
    refine ⟨rfl, rfl, rfl, rfl, hucnt, hscnt, rfl, rfl, ?_, (faultKept_faulted ..).1, (faultKept_faulted ..).2, fun hnone => ?_,
      fun j hj => hhalts.coreAt_other hj, hedge⟩
    · exact recorded_of_faultNoted (c := uCounted (coreAt s.m k.key)) rfl (by rw [after_m hnow, hcore]; rfl)
    · simp [faultKept, hnone]

/-- Settles O5: the class S exceptions by the instruction that raises them, and the class U fault. -/
theorem coreExceptions : Obligations.CoreExceptions := ⟨classSExceptionsEnterTheHandler, classUFaultHaltsTheCore⟩

end Sys2Proof.Spec
end

section
/-! PROOFS. The engines take the descriptors at the heads of their queues (R105, R106, R112 to R123). At a boundary of a period no
time passes before a start. -/

namespace Sys2Proof.Spec

open Sys2Proof.Machine

/-! ### Times and flags -/

/-- Bit i of byte k of a descriptor. -/
theorem testBit_dB {w : Nat} (d : BitVec w) (off i : Nat) (h : i < 8) : (dB d off 1).testBit i = bit d (8 * off + i) := by
  rw [dB, BitVec.testBit_toNat, BitVec.getLsbD_extractLsb', bit]
  simp [h]

theorem toPeriod_now {s : Mach} (h : cycleOf s % 16 = 0) : toPeriod s = s := by
  refine toTick_past _ s ?_
  simp only [nextPeriod, ceilDiv]
  omega

theorem whenActive_of_no_switch {f : Mach → Mach} {s : Mach} (h : s.sec.switch = none) : whenActive f s = f s := by
  simp [whenActive, h]

/-- A command of an engine at a boundary of a period. -/
theorem run_onPeriod {f g : Mach → Mach} {s : State} (h : OnPeriod s.m) (hf : f s.m = g s.m) :
    run (whenActive (fun m => f (toPeriod m))) s = .next (after g s) := by
  refine run_eq_after ?_
  rw [whenActive_of_no_switch h.1, toPeriod_now h.2, hf]

/-! ### The head of a queue -/

theorem popQueue_eq_popped (e : Nat) (c : Core) : popQueue e c = popped e c := rfl

theorem countDone_eq_counted (e : Nat) (c : Core) : countDone e c = counted e c := rfl

theorem modMx_eq_mxTo : modMx = mxTo := rfl

theorem queueHead_of_atHead {s : Mach} {k : CoreId} {e opc : Nat} {q : QDesc} (h : AtHead s k e opc q) :
    queueHead (coreAt s k.key) e = some q := by
  simp [queueHead, h.1, h.2.1]

theorem mxHead_of_atHead {s : Mach} {k : CoreId} {opc : Nat} {q : QDesc} (h : AtHead s k 0 opc q)
    (harb : (coreAt s k.key).mx.arb = none) : mxHead (coreAt s k.key) opc = some q := by
  simp [mxHead, harb, queueHead_of_atHead h, dOpc, h.2.2]

/-! ### The starts -/

section
variable {k : CoreId} {q : QDesc} {s : Mach}

theorem wloadStart_atHead (h : AtHead s k 0 0x10 q) (harb : (coreAt s k.key).mx.arb = none)
    (hshadow : (coreAt s k.key).mx.shadowFull = false) (hload : (coreAt s k.key).mx.loading = none) :
    wloadStart k.key s = modCore k.key (fun c => mxTo (fun m => { m with loading := some (newLoad q (tick s)) }) (popped 0 c)) s := by
  simp only [wloadStart, mxHead_of_atHead h harb, hshadow, hload, Option.isSome_none, Bool.or_self, Bool.false_eq_true, if_false]
  rfl

theorem aoutStart_atHead (h : AtHead s k 0 0x12 q) (harb : (coreAt s k.key).mx.arb = none)
    (hpasses : (coreAt s k.key).mx.passes = []) (haout : (coreAt s k.key).mx.aout = none) (haclr : (coreAt s k.key).mx.aclr = []) :
    aoutStart k.key s =
      modCore k.key (fun c => mxTo (fun m => { m with aout := some (newAout q s m.acc) }) (popped 0 c)) s := by
  simp [aoutStart, mxHead_of_atHead h harb, mxBusy, hpasses, haout, haclr, popQueue_eq_popped, modMx_eq_mxTo]

theorem aclrStart_atHead (h : AtHead s k 0 0x13 q) (harb : (coreAt s k.key).mx.arb = none)
    (hpasses : (coreAt s k.key).mx.passes = []) (haout : (coreAt s k.key).mx.aout = none) :
    aclrStart k.key s = modCore k.key (fun c => mxTo (fun m =>
      { m with aclr := m.aclr ++ [⟨q, tick s + 16 * ceilDiv (dB q.d 12 2) 128⟩] }) (popped 0 c)) s := by
  simp [aclrStart, mxHead_of_atHead h harb, mxBusy, hpasses, haout, popQueue_eq_popped, modMx_eq_mxTo]

theorem vopStart_atHead (h : AtHead s k 1 0x20 q) (hvop : (coreAt s k.key).vop = none) :
    vopStart k.key s = modCore k.key (fun c =>
      { popped 1 c with vop := some ⟨q, vopEnds q.d (tick s), vopRows q.d, [], none⟩ }) s := by
  simp [vopStart, queueHead_of_atHead h, hvop, popQueue_eq_popped]

/-- The last pass has been read and lets the next one start (R115). -/
theorem served_lastPass
    (h : ∀ l, (coreAt s k.key).mx.passes.getLast? = some l → l.allRead = true ∧ l.ends ≤ tick s + 40) :
    served lastBusy lastFree k.key s = s := by
  cases hl : (coreAt s k.key).mx.passes.getLast? with
  | none => exact served_now _ _ _ _ (by simp [lastBusy, hl]) (by simp [lastFree, hl])
  | some l =>
    obtain ⟨hread, hends⟩ := h l hl
    exact served_now _ _ _ _ (by simp [lastBusy, hl, hread]) (by simp [lastFree, hl, Pass.free]; omega)

theorem mpassStart_atHead (h : AtHead s k 0 0x11 q) (harb : (coreAt s k.key).mx.arb = none) (haclr : (coreAt s k.key).mx.aclr = [])
    (hclear : clearOfAout (newPass q (tileOf (coreAt s k.key) q) (tick s)) (coreAt s k.key).mx.aout = true)
    (hswap : bit q.d 9 = true → (coreAt s k.key).mx.loading = none)
    (hchk : bit q.d 11 = true → ((coreAt s k.key).mx.passes.filter isChk).length < 2)
    (hrange : dB q.d 16 2 + tileG (tileOf (coreAt s k.key) q) * dB q.d 14 2 ≤ 512)
    (hfmt : (tileOf (coreAt s k.key) q).empty = true ∨ fmtInt (tileOf (coreAt s k.key) q).wfmt.toNat = fmtInt (dB q.d 12 1)) :
    mpassStart k.key s = modCore k.key (fun c => mxTo (fun m =>
      let m1 := if bit q.d 9 then { m with active := tileOf (coreAt s k.key) q, shadow := .reset, shadowFull := false } else m
      { m1 with passes := m.passes ++ [newPass q (tileOf (coreAt s k.key) q) (tick s)] }) (popped 0 c)) s := by
  have hbit1 : (dB q.d 1 1).testBit 1 = bit q.d 9 := testBit_dB q.d 1 1 (by decide)
  have hbit3 : isChk (newPass q (tileOf (coreAt s k.key) q) (tick s)) = bit q.d 11 := testBit_dB q.d 1 3 (by decide)
  have hload : (bit q.d 9 && (coreAt s k.key).mx.loading.isSome) = false := by
    cases hb : bit q.d 9 with
    | false => rfl
    | true => simp [hswap hb]
  have hheld : (bit q.d 11 && decide (2 ≤ ((coreAt s k.key).mx.passes.filter isChk).length)) = false := by
    cases hb : bit q.d 11 with
    | false => rfl
    | true => simpa using hchk hb
  have hkind : (!(tileOf (coreAt s k.key) q).empty &&
      fmtInt (tileOf (coreAt s k.key) q).wfmt.toNat != fmtInt (dB q.d 12 1)) = false := by
    rcases hfmt with h | h <;> simp [h]
  simp only [mpassStart, mxHead_of_atHead h harb, hbit1]
  change (if (!(coreAt s k.key).mx.aclr.isEmpty || (bit q.d 9 && (coreAt s k.key).mx.loading.isSome) ||
    !clearOfAout (newPass q (tileOf (coreAt s k.key) q) (tick s)) (coreAt s k.key).mx.aout ||
    (isChk (newPass q (tileOf (coreAt s k.key) q) (tick s)) &&
      decide (2 ≤ ((coreAt s k.key).mx.passes.filter isChk).length))) = true then s
    else if 512 < dB q.d 16 2 + tileG (tileOf (coreAt s k.key) q) * dB q.d 14 2 then sparseFault k.key q 4 0 0 s
    else if (!(tileOf (coreAt s k.key) q).empty &&
      fmtInt (tileOf (coreAt s k.key) q).wfmt.toNat != fmtInt (dB q.d 12 1)) = true then sparseFault k.key q 5 0 0 s
    else _) = _
  rw [hbit3, hload, hheld, hkind, hclear, haclr, if_neg (by simp), if_neg (Nat.not_lt.2 hrange), if_neg (by simp)]
  refine modCore_congr ?_
  unfold tileOf
  cases bit q.d 9 <;> rfl

theorem newPass_ends (t : Tile) (now : Nat) (h3 : t.kind ≠ 3#3) (h4 : t.kind ≠ 4#3) : (newPass q t now).ends = now +
    16 * ceilDiv (dB q.d 14 2) (min (16 / Nat.gcd (dB q.d 18 2) 16) (if bit q.d 8 then 4 else 16)) + 40 := by
  have hbit : (dB q.d 1 1).testBit 0 = bit q.d 8 := testBit_dB q.d 1 0 (by decide)
  simp [newPass, Pass.afresh, passPeriods, rowsPerTurn, h3, h4, hbit]

end

/-- Settles O6: each engine by what its start asks for. -/
theorem enginesTakeTheHeadOfTheirQueue : Obligations.EnginesTakeTheHeadOfTheirQueue := by
  intro k q s hperiod
  refine ⟨fun h harb hshadow hload => ?_, fun h harb haclr hclear hswap hchk hlast hrange hfmt => ⟨?_, rfl, rfl, newPass_ends _ _⟩,
    fun h harb hpasses haout haclr => ?_, fun h harb hpasses haout => ?_, fun h hvop => ?_⟩
  · exact run_onPeriod hperiod (wloadStart_atHead h harb hshadow hload)
  · refine run_eq_after ?_
    rw [whenActive_of_no_switch hperiod.1, served_lastPass hlast, toPeriod_now hperiod.2]
    exact mpassStart_atHead h harb haclr hclear hswap hchk hrange hfmt
  · exact run_onPeriod hperiod (aoutStart_atHead h harb hpasses haout haclr)
  · exact run_onPeriod hperiod (aclrStart_atHead h harb hpasses haout)
  · exact run_onPeriod hperiod (vopStart_atHead h hvop)

end Sys2Proof.Spec
end

section
/-! PROOFS. What ends in the matrix engine (R105, R111, R112, R119, R421) and its strict mode (R159). -/

namespace Sys2Proof.Spec

open Sys2Proof.Machine

/-! ### An operation ends when its time is over -/

/-- A command that ends an operation whose accesses are made and whose time is over. -/
theorem run_ended {busy : Nat → Mach → Bool} {ends : Nat → Mach → Nat} {k e : Nat} {f g : Mach → Mach} {s : State}
    (h : MayEnd s.m e) (hbusy : busy k s.m = false) (hends : ends k s.m = e) (hf : f s.m = g s.m) :
    run (whenActive (fun m => f (served busy ends k m))) s = .next (after g s) := by
  refine run_eq_after ?_
  rw [whenActive_of_no_switch h.1, served_now busy ends k s.m hbusy (hends.trans_le h.2), hf]

/-! ### WLOAD and ACLR -/

theorem wloadComplete_read {k : Nat} {l : Load} {s : Mach} (hl : (coreAt s k).mx.loading = some l) (hread : l.allRead = true) :
    wloadComplete k s = loadDone k l s := by
  simp [wloadComplete, hl, hread]

/-- Rows from `b` on are cleared, one after the other. -/
theorem tget_iter_tdel (b j : Nat) (t : Tbl AccRow) : ∀ n, tget AccRow.reset (iter n (fun i t => tdel t (b + i)) t) j =
    if b ≤ j ∧ j < b + n then AccRow.reset else tget AccRow.reset t j := by
  intro n
  induction n with
  | zero => rw [if_neg (by omega)]; rfl
  | succ n ih =>
    have hstep : iter (n + 1) (fun i t => tdel t (b + i)) t = tdel (iter n (fun i t => tdel t (b + i)) t) (b + n) := by
      simp [iter, List.range_succ, List.foldl_append]
    rw [hstep]
    by_cases hj : j = b + n
    · rw [hj, tget_tdel_same, if_pos (by omega)]
    · rw [tget_tdel_other _ _ hj, ih]
      exact if_congr (by omega) rfl rfl

theorem clearedRows_iter (q : QDesc) (t : Tbl AccRow) :
    ClearedRows q True t (iter (dB q.d 12 2) (fun i t => tdel t (dB q.d 14 2 + i)) t) := by
  intro i
  rw [tget_iter_tdel]
  exact ⟨fun h => if_pos h.2, fun h => if_neg (fun h' => h ⟨trivial, h'⟩)⟩

theorem clearedRows_not (q : QDesc) {p : Prop} (h : ¬ p) (t : Tbl AccRow) : ClearedRows q p t t :=
  fun _ => ⟨fun h' => absurd h'.1 h, fun _ => rfl⟩

/-! ### MPASS (R115, R418, R421) -/

section
variable {k : CoreId} {s : Mach} {p : Pass} {rest : List Pass}

theorem isChk_eq_bit (p : Pass) : isChk p = bit p.q.d 11 := testBit_dB p.q.d 1 3 (by decide)

/-- The core with the results of its oldest pass. -/
def passDone (acc : Tbl AccRow) (rest : List Pass) : Core → Core :=
  fun c => counted 0 (mxTo (fun m => { m with acc := acc, passes := rest }) c)

/-- A core that is written where free words are drawn. -/
theorem modCore_drawFree (k : Nat) (f : Core → Core) (n : Nat) (s : Mach) :
    modCore k f (drawFree n s) = { modCore k f s with free := s.free + n } := rfl

theorem mpassComplete_unchecked (hp : (coreAt s k.key).mx.passes = p :: rest) (harb : (coreAt s k.key).mx.arb = none)
    (hread : p.allRead = true) (hchk : bit p.q.d 11 = false) :
    mpassComplete k.key [] s = { modCore k.key (fun c => counted 0 (mxTo (fun m =>
      { m with acc := applyPass p s.free m.acc, passes := rest }) c)) s with free := s.free + passDraws } := by
  rw [← modCore_drawFree]
  simp only [mpassComplete, harb, hp, hread, isChk_eq_bit, hchk]
  exact modCore_congr rfl

theorem mpassComplete_agrees {n : Nat} (hp : (coreAt s k.key).mx.passes = p :: rest) (harb : (coreAt s k.key).mx.arb = none)
    (hread : p.allRead = true) (hchk : bit p.q.d 11 = true)
    (hcmp : compareRows p (applyPass p s.free (coreAt s k.key).mx.acc) = (n, [])) :
    mpassComplete k.key [] s = modCore k.key (passDone (applyPass p s.free (coreAt s k.key).mx.acc) rest)
      (addSkip k.key n (drawFree passDraws s)) := by
  simp only [mpassComplete, harb, hp, hread, isChk_eq_bit, hchk, applyStrikes, List.foldl_nil, hcmp]
  rfl

/-- The core with its oldest pass under arbitration: the passes are abandoned and the first is to be computed again. -/
def arbitrated (s : Mach) (p : Pass) (rest : List Pass) (bad : List BadRow) (since : Nat) : Core → Core :=
  mxTo (fun m => { m with passes := [], arb := some ⟨p.afresh (nextPeriod s), priorRows p m.acc, bad, rest, since⟩ })

theorem mpassComplete_mismatches {n : Nat} {b : BadRow} {bs : List BadRow} (hp : (coreAt s k.key).mx.passes = p :: rest)
    (harb : (coreAt s k.key).mx.arb = none) (hread : p.allRead = true) (hchk : bit p.q.d 11 = true)
    (hcmp : compareRows p (applyPass p s.free (coreAt s k.key).mx.acc) = (n, b :: bs)) :
    mpassComplete k.key [] s =
      modCore k.key (arbitrated s p rest (b :: bs) (((rest.head?).map (·.start)).getD (tick s)))
        (addSkip k.key n (drawFree passDraws s)) := by
  simp only [mpassComplete, harb, hp, hread, isChk_eq_bit, hchk, applyStrikes, List.foldl_nil, hcmp]
  cases rest <;> rfl

end

theorem satAdd_zero {w : Nat} (x : BitVec w) : satAdd x 0 = x := by
  simp [satAdd, x.isLt]

/-- Rows that are not compared are counted at the die. -/
theorem addSkip_csl (k n : Nat) (s : Mach) :
    (dieAt (addSkip k n s) (dieOf k)).csl = { (dieAt s (dieOf k)).csl with skip := satAdd (dieAt s (dieOf k)).csl.skip n } := by
  unfold addSkip
  split
  next h => rw [h, satAdd_zero]
  next => rw [dieAt_modDie]

theorem addSkip_frame (k n : Nat) (s : Mach) :
    (addSkip k n s).cores = s.cores ∧ (addSkip k n s).now = s.now ∧ (addSkip k n s).rnd = s.rnd := by
  unfold addSkip
  split <;> exact ⟨rfl, rfl, rfl⟩

/-! ### Arbitration (R421, R423) -/

theorem foldl_signals {α : Type} {f : Mach → α → Mach} (hf : ∀ s a, Signals s (f s a)) (l : List α) :
    ∀ s, Signals s (l.foldl f s) := by
  induction l with
  | nil => exact Signals.refl
  | cons a l ih => exact fun s => (hf s a).trans (ih (f s a))

/-- What a verdict writes into the registers of the die (R421, R435, R437). -/
def judged (k : Nat) (a : Arb) (code : Nat) (evts : BitVec 5) (s : Mach) (d : Die) : Die :=
  let b := a.bad.headD ⟨0, none, 0, ⟨0, 0⟩, 0⟩
  { d with csl :=
    let l := { d.csl with
      mismatch := satInc d.csl.mismatch
      corrected := if code = 1 then satInc d.csl.corrected else d.csl.corrected
      evt := d.csl.evt ||| evts }
    if l.logValid then { l with logMulti := true }
    else { l with logValid := true, verdict := BitVec.ofNat 3 code, logPc := BitVec.ofNat 8 (pcOf k),
                  accRow := BitVec.ofNat 9 b.row, tag := dTag a.x.q, round := (roundNow s).setWidth 16,
                  diff := diffWord b, tol := down32 b.tol } }

/-- The events of a verdict are noted for the cycle. -/
theorem noteEvents_signals (k : Nat) (evts : BitVec 5) (n : Nat) (s : Mach) :
    Signals s ((List.range 5).foldl (fun s b => if bit evts b then noteRaise (dieReg (dieOf k) 0x8004) b s else s)
      (noteRaise (dieReg (dieOf k) 0x8020) n s)) := by
  refine (noteRaise_signals _ _ _).trans (foldl_signals (fun s b => ?_) _ _)
  split
  · exact noteRaise_signals _ _ _
  · exact Signals.refl _

/-- A verdict is a judgement and an event at the die, and signals. -/
theorem verdict_eq (k : Nat) (a : Arb) (code : Nat) (evts : BitVec 5) (s : Mach) : ∃ det m, Signals s m ∧
    Signals (logDie (dieOf k) 0x26 3 (if code = 1 then 0 else 5) (pcOf k) 0 det (modDie (dieOf k) (judged k a code evts s) m))
      (verdict k a code evts s) :=
  ⟨_, _, noteEvents_signals k evts _ s, raiseIrq_signals 10 _⟩

theorem judged_corrected (k : Nat) (a : Arb) (evts : BitVec 5) (s : Mach) (d : Die) :
    (judged k a 1 evts s d).csl.corrected = satInc d.csl.corrected ∧
      (judged k a 1 evts s d).csl.mismatch = satInc d.csl.mismatch := by
  simp only [judged]
  split <;> exact ⟨rfl, rfl⟩

/-- An event at a die leaves the registers of its checksum lane. -/
theorem logDie_csl (die cls scope flags unit loc : Nat) (det : List Byte) (s : Mach) :
    (dieAt (logDie die cls scope flags unit loc det s) die).csl = (dieAt s die).csl := by
  rw [logDie, dieAt_modDie]
  split <;> rfl

theorem Signals.dieAt {s t : Mach} (h : Signals s t) (d : Nat) : dieAt t d = dieAt s d := by
  obtain ⟨_, _, _, rfl⟩ := h
  rfl

/-- A transient verdict is counted at the die and leaves the cores, the round unit and the time. -/
theorem verdict_transient (k : Nat) (a : Arb) (evts : BitVec 5) (s : Mach) :
    (dieAt (verdict k a 1 evts s) (dieOf k)).csl.corrected = satInc (dieAt s (dieOf k)).csl.corrected ∧
      (dieAt (verdict k a 1 evts s) (dieOf k)).csl.mismatch = satInc (dieAt s (dieOf k)).csl.mismatch ∧
      (verdict k a 1 evts s).cores = s.cores ∧ (verdict k a 1 evts s).rnd = s.rnd ∧ (verdict k a 1 evts s).now = s.now := by
  obtain ⟨det, m, hm, hv⟩ := verdict_eq k a 1 evts s
  have hdie : (dieAt (verdict k a 1 evts s) (dieOf k)).csl = (judged k a 1 evts s (dieAt s (dieOf k))).csl := by
    rw [hv.dieAt, logDie_csl, dieAt_modDie, hm.dieAt]
  rw [hdie]
  obtain ⟨hcorrected, hmismatch⟩ := judged_corrected k a evts s (dieAt s (dieOf k))
  refine ⟨hcorrected, hmismatch, ?_⟩
  obtain ⟨_, _, _, hv⟩ := hv
  obtain ⟨_, _, _, rfl⟩ := hm
  rw [hv]
  exact ⟨rfl, rfl, rfl⟩

/-- A recomputation that agrees, with nothing abandoned. -/
theorem recomputationComplete_agrees {k : CoreId} {s : Mach} {a : Arb} (ha : (coreAt s k.key).mx.arb = some a)
    (habandoned : a.abandoned = []) (hread : a.x.allRead = true)
    (hcmp : compareRows a.x (applyPass a.x s.free (restoreRows a.prior (coreAt s k.key).mx.acc)) = (0, [])) :
    recomputationComplete k.key [] true s =
      restartPasses k.key [] (modCore k.key (fun c => counted 0 (mxTo (fun m => { m with arb := none }) c))
        (addArb (tick s - a.since) (verdict k.key a 1 1 (modCore k.key
          (mxTo (fun m => { m with acc := applyPass a.x s.free (restoreRows a.prior (coreAt s k.key).mx.acc) }))
          (drawFree passDraws s))))) := by
  simp only [recomputationComplete, ha, hread, applyStrikes, List.foldl_nil, hcmp, habandoned, addSkip,
    Bool.not_true, Bool.false_eq_true, List.isEmpty_nil, if_true, if_false, countDone_eq_counted, modMx_eq_mxTo]

/-! ### What of a core stays -/

theorem coreAt_of_cores {s t : Mach} (h : t.cores = s.cores) (k : Nat) : coreAt t k = coreAt s k := by
  rw [coreAt, coreAt, h]

/-- A core that is written while the cores are as before. -/
theorem coreAt_modCore_of_cores {s t : Mach} (h : t.cores = s.cores) (k : Nat) (f : Core → Core) :
    coreAt (modCore k f t) k = f (coreAt s k) ∧ ∀ j, j ≠ k → coreAt (modCore k f t) j = coreAt s j :=
  ⟨by rw [coreAt_modCore, coreAt_of_cores h], fun j hj => by rw [coreAt_modCore_other _ _ hj, coreAt_of_cores h]⟩

/-! ### The completions -/

theorem loadEndsInShadow (k : CoreId) (l : Load) (s : State) (hl : (coreAt s.m k.key).mx.loading = some l)
    (hend : MayEnd s.m l.ends) (hread : l.allRead = true) :
    exec (.wloadComplete k) s = .next (after (modCore k.key (fun c => counted 0 { c with
        mx := { (coreAt s.m k.key).mx with loading := none, shadow := loadedTile l, shadowFull := true }
        r := { (coreAt s.m k.key).r with spDrop := satAdd (coreAt s.m k.key).r.spDrop (droppedSlots (loadedTile l)) } })) s) := by
  refine run_ended hend (by simp [loadBusy, hl, hread]) (by simp [loadEnds, hl]) ?_
  rw [wloadComplete_read hl hread]
  exact modCore_congr rfl

/-- The core whose ACLR has ended, with the accumulators that it leaves. -/
def aclrDone (a : AclrRun) (acc : Tbl AccRow) : Core → Core :=
  fun c => counted 0 (mxTo (fun m => { m with aclr := m.aclr.erase a, acc := acc }) c)

theorem aclrComplete_next {k : CoreId} {a : AclrRun} {s : Mach} (ha : nextAclr (coreAt s k.key).mx.aclr = some a) :
    aclrComplete k.key s = modCore k.key (aclrDone a
      (iter (dB a.q.d 12 2) (fun i t => tdel t (dB a.q.d 14 2 + i)) (coreAt s k.key).mx.acc)) s := by
  simp only [aclrComplete, ha]
  exact modCore_congr rfl

theorem aclrEndsCleared (k : CoreId) (a : AclrRun) (s : State) (ha : nextAclr (coreAt s.m k.key).mx.aclr = some a)
    (hend : MayEnd s.m a.ends) : ∃ t, exec (.aclrComplete k) s = .next t ∧
      t = after (modCore k.key (aclrDone a (coreAt t.m k.key).mx.acc)) s ∧
      ClearedRows a.q True (coreAt s.m k.key).mx.acc (coreAt t.m k.key).mx.acc := by
  have hrun : exec (.aclrComplete k) s = .next (after (modCore k.key (aclrDone a
      (iter (dB a.q.d 12 2) (fun i t => tdel t (dB a.q.d 14 2 + i)) (coreAt s.m k.key).mx.acc))) s) := by
    refine run_eq_after ?_
    rw [whenActive_of_no_switch hend.1, ha]
    rw [show toTick (((some a).map (·.ends)).getD 0) s.m = s.m from toTick_past _ _ hend.2]
    exact aclrComplete_next ha
  have hacc : (coreAt (after (modCore k.key (aclrDone a
      (iter (dB a.q.d 12 2) (fun i t => tdel t (dB a.q.d 14 2 + i)) (coreAt s.m k.key).mx.acc))) s).m k.key).mx.acc =
      iter (dB a.q.d 12 2) (fun i t => tdel t (dB a.q.d 14 2 + i)) (coreAt s.m k.key).mx.acc := by
    rw [after_m rfl, coreAt_modCore]
    rfl
  refine ⟨_, hrun, ?_, ?_⟩
  · rw [hacc]
  · rw [hacc]
    exact clearedRows_iter a.q _

theorem passEndsUnchecked (k : CoreId) (p : Pass) (rest : List Pass) (s : State)
    (hp : (coreAt s.m k.key).mx.passes = p :: rest) (harb : (coreAt s.m k.key).mx.arb = none) (hend : MayEnd s.m p.ends)
    (hread : p.allRead = true) (hchk : bit p.q.d 11 = false) :
    exec (.mpassComplete k []) s = .next (after (fun m => { (modCore k.key (fun c => counted 0 (mxTo (fun m =>
      { m with acc := applyPass p s.m.free m.acc, passes := rest }) c)) m) with free := m.free + passDraws }) s) :=
  run_ended hend (by simp [passBusy, hp, hread]) (by simp [passEnds, hp]) (mpassComplete_unchecked hp harb hread hchk)

theorem passEndsChecked (k : CoreId) (p : Pass) (rest : List Pass) (n : Nat) (s : State)
    (hp : (coreAt s.m k.key).mx.passes = p :: rest) (harb : (coreAt s.m k.key).mx.arb = none) (hend : MayEnd s.m p.ends)
    (hread : p.allRead = true) (hchk : bit p.q.d 11 = true)
    (hcmp : compareRows p (applyPass p s.m.free (coreAt s.m k.key).mx.acc) = (n, [])) :
    ∃ t, exec (.mpassComplete k []) s = .next t ∧
      coreAt t.m k.key = passDone (applyPass p s.m.free (coreAt s.m k.key).mx.acc) rest (coreAt s.m k.key) ∧
      (dieAt t.m (dieOf k.key)).csl.skip = satAdd (dieAt s.m (dieOf k.key)).csl.skip n ∧
      (∀ j, j ≠ k.key → coreAt t.m j = coreAt s.m j) := by
  obtain ⟨hcores, hnow, -⟩ := addSkip_frame k.key n (drawFree passDraws s.m)
  obtain ⟨hown, hother⟩ := coreAt_modCore_of_cores (s := s.m) hcores k.key
    (passDone (applyPass p s.m.free (coreAt s.m k.key).mx.acc) rest)
  refine ⟨_, run_ended hend (by simp [passBusy, hp, hread]) (by simp [passEnds, hp])
    (g := fun m => modCore k.key (passDone (applyPass p s.m.free (coreAt s.m k.key).mx.acc) rest)
      (addSkip k.key n (drawFree passDraws m))) (mpassComplete_agrees hp harb hread hchk hcmp), ?_⟩
  rw [after_m hnow]
  exact ⟨hown, congrArg Csl.skip (addSkip_csl k.key n (drawFree passDraws s.m)), hother⟩

theorem passEndsMismatched (k : CoreId) (p : Pass) (rest : List Pass) (n : Nat) (b : BadRow) (bs : List BadRow) (s : State)
    (hp : (coreAt s.m k.key).mx.passes = p :: rest) (harb : (coreAt s.m k.key).mx.arb = none) (hend : MayEnd s.m p.ends)
    (hread : p.allRead = true) (hchk : bit p.q.d 11 = true)
    (hcmp : compareRows p (applyPass p s.m.free (coreAt s.m k.key).mx.acc) = (n, b :: bs)) :
    ∃ t, exec (.mpassComplete k []) s = .next t ∧
      coreAt t.m k.key = arbitrated s.m p rest (b :: bs) (((rest.head?).map (·.start)).getD (tick s.m)) (coreAt s.m k.key) ∧
      (dieAt t.m (dieOf k.key)).csl.skip = satAdd (dieAt s.m (dieOf k.key)).csl.skip n ∧
      (∀ j, j ≠ k.key → coreAt t.m j = coreAt s.m j) := by
  obtain ⟨hcores, hnow, -⟩ := addSkip_frame k.key n (drawFree passDraws s.m)
  obtain ⟨hown, hother⟩ := coreAt_modCore_of_cores (s := s.m) hcores k.key
    (arbitrated s.m p rest (b :: bs) (((rest.head?).map (·.start)).getD (tick s.m)))
  refine ⟨_, run_ended hend (by simp [passBusy, hp, hread]) (by simp [passEnds, hp])
    (g := fun m => modCore k.key (arbitrated s.m p rest (b :: bs) (((rest.head?).map (·.start)).getD (tick s.m)))
      (addSkip k.key n (drawFree passDraws m))) (mpassComplete_mismatches hp harb hread hchk hcmp), ?_⟩
  rw [after_m hnow]
  exact ⟨hown, congrArg Csl.skip (addSkip_csl k.key n (drawFree passDraws s.m)), hother⟩

/-- The core with new accumulators, and the core whose arbitration is over. -/
def recomputed (acc : Tbl AccRow) : Core → Core := mxTo (fun m => { m with acc := acc })
def settled : Core → Core := fun c => counted 0 (mxTo (fun m => { m with arb := none }) c)

/-- The state that a transient leaves, with the accumulators `acc`. -/
def transientDone (k : Nat) (a : Arb) (acc : Tbl AccRow) (s : Mach) : Mach :=
  restartPasses k [] (modCore k settled (addArb (tick s - a.since) (verdict k a 1 1
    (modCore k (recomputed acc) (drawFree passDraws s)))))

theorem transientDone_now (k : Nat) (a : Arb) (acc : Tbl AccRow) (s : Mach) : (transientDone k a acc s).now = s.now :=
  (verdict_transient k a 1 (modCore k (recomputed acc) (drawFree passDraws s))).2.2.2.2

theorem transientDone_rnd (k : Nat) (a : Arb) (acc : Tbl AccRow) (s : Mach) :
    (transientDone k a acc s).rnd = (addArb (tick s - a.since) s).rnd := by
  obtain ⟨-, -, -, hrnd, -⟩ := verdict_transient k a 1 (modCore k (recomputed acc) (drawFree passDraws s))
  exact congrArg (fun r => { r with varRun := { r.varRun with arb := satAdd r.varRun.arb (tick s - a.since) } }) hrnd

theorem transientDone_csl (k : Nat) (a : Arb) (acc : Tbl AccRow) (s : Mach) :
    (dieAt (transientDone k a acc s) (dieOf k)).csl.corrected = satInc (dieAt s (dieOf k)).csl.corrected ∧
      (dieAt (transientDone k a acc s) (dieOf k)).csl.mismatch = satInc (dieAt s (dieOf k)).csl.mismatch :=
  have h := verdict_transient k a 1 (modCore k (recomputed acc) (drawFree passDraws s))
  ⟨h.1, h.2.1⟩

theorem transientDone_core (k : Nat) (a : Arb) (acc : Tbl AccRow) (s : Mach) :
    coreAt (transientDone k a acc s) k = settled (recomputed acc (coreAt s k)) ∧
      ∀ j, j ≠ k → coreAt (transientDone k a acc s) j = coreAt s j := by
  obtain ⟨-, -, hcores, -⟩ := verdict_transient k a 1 (modCore k (recomputed acc) (drawFree passDraws s))
  obtain ⟨hown, hother⟩ := coreAt_modCore_of_cores
    (t := addArb (tick s - a.since) (verdict k a 1 1 (modCore k (recomputed acc) (drawFree passDraws s)))) hcores k settled
  constructor
  · rw [transientDone, restartPasses, coreAt_modCore, hown, coreAt_modCore]
    exact congrArg (fun l => { settled (recomputed acc (coreAt s k)) with
      mx := { (settled (recomputed acc (coreAt s k))).mx with passes := l } }) (List.append_nil _)
  · intro j hj
    rw [transientDone, restartPasses, coreAt_modCore_other _ _ hj, hother j hj, coreAt_modCore_other _ _ hj]
    rfl

theorem recomputationEndsTransient (k : CoreId) (a : Arb) (s : State) (ha : (coreAt s.m k.key).mx.arb = some a)
    (habandoned : a.abandoned = []) (hend : MayEnd s.m a.x.ends) (hread : a.x.allRead = true)
    (hcmp : compareRows a.x (applyPass a.x s.m.free (restoreRows a.prior (coreAt s.m k.key).mx.acc)) = (0, [])) :
    ∃ t, exec (.recomputationComplete k [] true) s = .next t ∧
      (coreAt t.m k.key).mx = { (coreAt s.m k.key).mx with
        acc := applyPass a.x s.m.free (restoreRows a.prior (coreAt s.m k.key).mx.acc), arb := none } ∧
      (coreAt t.m k.key).ecnt = tset 0 (coreAt s.m k.key).ecnt 0 (tget 0 (coreAt s.m k.key).ecnt 0 + 1) ∧
      (dieAt t.m (dieOf k.key)).csl.corrected = satInc (dieAt s.m (dieOf k.key)).csl.corrected ∧
      (dieAt t.m (dieOf k.key)).csl.mismatch = satInc (dieAt s.m (dieOf k.key)).csl.mismatch ∧
      t.m.rnd.varRun.arb = satAdd s.m.rnd.varRun.arb (tick s.m - a.since) ∧
      (∀ j, j ≠ k.key → coreAt t.m j = coreAt s.m j) := by
  refine ⟨_, run_ended hend (by simp [againBusy, ha, hread]) (by simp [againEnds, ha])
    (g := transientDone k.key a (applyPass a.x s.m.free (restoreRows a.prior (coreAt s.m k.key).mx.acc)))
    (recomputationComplete_agrees ha habandoned hread hcmp), ?_⟩
  rw [after_m (transientDone_now _ _ _ _), transientDone_rnd]
  obtain ⟨hown, hother⟩ := transientDone_core k.key a
    (applyPass a.x s.m.free (restoreRows a.prior (coreAt s.m k.key).mx.acc)) s.m
  obtain ⟨hcorrected, hmismatch⟩ := transientDone_csl k.key a
    (applyPass a.x s.m.free (restoreRows a.prior (coreAt s.m k.key).mx.acc)) s.m
  exact ⟨by rw [hown]; rfl, by rw [hown]; rfl, hcorrected, hmismatch, rfl, hother⟩

theorem matrixEngineCompletions : MatrixEngineCompletions := by
  intro k s
  refine ⟨?_, ?_, ?_, ?_, ?_, ?_⟩
  · intro l t _ hl hend hread ht
    subst ht
    exact loadEndsInShadow k l s hl hend hread
  · exact fun a ha hend => aclrEndsCleared k a s ha hend
  · intro p rest hp harb hend hread hchk
    exact passEndsUnchecked k p rest s hp harb hend hread hchk
  · intro p rest n _ hp harb hend hread hchk hcmp
    obtain ⟨t, hrun, hown, hskip, hother⟩ := passEndsChecked k p rest n s hp harb hend hread hchk hcmp
    exact ⟨t, hrun, congrArg Core.mx hown, congrArg Core.ecnt hown, hskip, hother⟩
  · intro p rest n b bs hp harb hend hread hchk hcmp
    obtain ⟨t, hrun, hown, hskip, hother⟩ := passEndsMismatched k p rest n b bs s hp harb hend hread hchk hcmp
    exact ⟨t, hrun, by rw [hown]; rfl, by rw [hown]; rfl, hskip, hother⟩
  · intro a _ ha habandoned hend hread hcmp
    exact recomputationEndsTransient k a s ha habandoned hend hread hcmp

/-! ### Strict mode (R159) -/

theorem not_special_of_finite {x : FVal} (h : x.isFin = true) (b : Bool) : x.isNan = false ∧ x.isInf b = false := by
  cases x with
  | fin => exact ⟨rfl, rfl⟩
  | nan => exact absurd h (by decide)
  | inf n => exact absurd h (Bool.false_ne_true)

theorem special_of_finite {l : List FVal} (h : ∀ p ∈ l, p.isFin = true) : special l = none := by
  have hnan : l.any FVal.isNan = false :=
    List.any_eq_false.2 (fun p hp => by simp [(not_special_of_finite (h p hp) false).1])
  have hinf (b : Bool) : l.any (FVal.isInf b) = false :=
    List.any_eq_false.2 (fun p hp => by simp [(not_special_of_finite (h p hp) b).2])
  simp [special, hnan, hinf]

theorem strictModeRoundsEachProduct : StrictModeRoundsEachProduct := by
  intro a0 ps ha hps
  have hnone : special (f32 a0 :: ps) = none := special_of_finite (List.forall_mem_cons.2 ⟨ha, hps⟩)
  simp [strictAdd, hnone]

/-- Settles O8: each completion by what its operation leaves behind, and strict mode by the absence of special values. -/
theorem matrixEngineArithmetic : Obligations.MatrixEngineArithmetic :=
  ⟨matrixEngineCompletions, strictModeRoundsEachProduct⟩

end Sys2Proof.Spec
end

section
/-! PROOFS. What AOUT and VOP store (R99, R117, R118, R120 to R123, R143). -/

namespace Sys2Proof.Spec

open Sys2Proof.Machine

/-! ### Bytes of a memory -/

theorem rdBytes_congr {m m' : Mem} : ∀ {n a : Nat}, (∀ x, a ≤ x → x < a + n → rd m x = rd m' x) →
    rdBytes m a n = rdBytes m' a n := by
  intro n
  induction n with
  | zero => exact fun _ => rfl
  | succ n ih =>
    intro a h
    rw [rdBytes, rdBytes, h a (by omega) (by omega), ih (fun x hx hx' => h x (by omega) (by omega))]

theorem wrBytes_append (xs ys : List Byte) : ∀ (m : Mem) (a : Nat),
    wrBytes m a (xs ++ ys) = wrBytes (wrBytes m a xs) (a + xs.length) ys := by
  induction xs with
  | nil => exact fun _ _ => rfl
  | cons x xs ih =>
    intro m a
    rw [List.cons_append, wrBytes, wrBytes, ih, List.length_cons, Nat.add_right_comm, Nat.add_assoc]

/-! ### Pieces (R99, R118) -/

/-- A memory with the data of pieces. -/
def putPieces (m : Mem) (ps : List Piece) : Mem := ps.foldl (fun m p => wrBytes m p.addr p.data) m

theorem writePieces_sp (ps : List Piece) : ∀ c : Core, (writePieces ps c).sp = putPieces c.sp ps := by
  induction ps with
  | nil => exact fun _ => rfl
  | cons p ps ih => exact fun c => ih (writeSp p.addr p.data c)

/-- The pieces of bytes, written, are the bytes. -/
theorem putPieces_piecesOf (n : Nat) : ∀ (a : Nat) (bs : List Byte) (m : Mem), bs.length ≤ (64 - a % 64) + 64 * (n - 1) → 0 < n →
    putPieces m (piecesOf n a bs) = wrBytes m a bs := by
  induction n with
  | zero => intro _ _ _ _ h; omega
  | succ n ih =>
    intro a bs m hlen _
    rw [piecesOf]
    split
    next h =>
      rw [List.isEmpty_iff.1 h]
      rfl
    next h =>
      have hsplit : wrBytes m a bs =
          wrBytes (wrBytes m a (bs.take (64 - a % 64))) (a + (bs.take (64 - a % 64)).length) (bs.drop (64 - a % 64)) := by
        rw [← wrBytes_append, List.take_append_drop]
      rw [putPieces, List.foldl_cons, hsplit]
      change putPieces _ _ = _
      by_cases hshort : bs.length ≤ 64 - a % 64
      · rw [List.drop_of_length_le hshort]
        cases n <;> rfl
      · have hrest : (bs.drop (64 - a % 64)).length ≤ 64 - (a + (64 - a % 64)) % 64 + 64 * (n - 1) ∧ 0 < n := by
          rw [List.length_drop]
          omega
        rw [ih _ _ _ hrest.1 hrest.2, List.length_take, Nat.min_eq_left (by omega)]

theorem putPieces_pieces (m : Mem) (a : Nat) (bs : List Byte) : putPieces m (pieces a bs) = wrBytes m a bs :=
  putPieces_piecesOf _ _ _ _ (by omega) (by omega)

theorem putPieces_flatMap {α : Type} (f : α → List Piece) (l : List α) : ∀ m : Mem,
    putPieces m (l.flatMap f) = l.foldl (fun m x => putPieces m (f x)) m := by
  induction l with
  | nil => exact fun _ => rfl
  | cons x l ih => exact fun m => by rw [List.flatMap_cons, putPieces, List.foldl_append, List.foldl_cons]; exact ih _

/-! ### The accesses of a write-back (R118) -/

/-- Pieces of one wide row. -/
def OneRow (g : List Piece) : Prop := g ≠ [] ∧ ∀ p ∈ g, ∀ q ∈ g, rowIndex p.addr = rowIndex q.addr

theorem oneRow_singleton (p : Piece) : OneRow [p] :=
  ⟨List.cons_ne_nil _ _, fun _ hq _ hr => by rw [List.mem_singleton.1 hq, List.mem_singleton.1 hr]⟩

theorem oneRow_cons {p q : Piece} {g : List Piece} (h : OneRow (q :: g)) (hpq : rowIndex p.addr = rowIndex q.addr) :
    OneRow (p :: q :: g) := by
  have hq (r : Piece) (hr : r ∈ p :: q :: g) : rowIndex r.addr = rowIndex q.addr := by
    obtain rfl | hr := List.mem_cons.1 hr
    · exact hpq
    · exact h.2 r hr q List.mem_cons_self
  exact ⟨List.cons_ne_nil _ _, fun r hr r' hr' => (hq r hr).trans (hq r' hr').symm⟩

/-- Accesses hold their pieces in order, each those of one row. -/
theorem byRow_spec (ps : List Piece) : (byRow ps).flatMap id = ps ∧ ∀ g ∈ byRow ps, OneRow g := by
  induction ps with
  | nil => exact ⟨rfl, fun _ h => absurd h List.not_mem_nil⟩
  | cons p ps ih =>
    obtain ⟨hflat, hrows⟩ := ih
    rw [byRow]
    split
    next q g r heq =>
      rw [heq] at hflat hrows
      split
      next hpq =>
        refine ⟨congrArg (p :: ·) hflat, List.forall_mem_cons.2 ⟨oneRow_cons (hrows _ List.mem_cons_self) hpq, ?_⟩⟩
        exact fun g' hg' => hrows g' (List.mem_cons_of_mem _ hg')
      next => exact ⟨congrArg (p :: ·) hflat, List.forall_mem_cons.2 ⟨oneRow_singleton p, hrows⟩⟩
    next l _ => exact ⟨congrArg (p :: ·) hflat, List.forall_mem_cons.2 ⟨oneRow_singleton p, hrows⟩⟩

/-! ### Rows of equal width at equal distances (R117) -/

/-- A memory with n rows from `b` on, `st` apart. -/
def putRows (m : Mem) (b st : Nat) (f : Nat → List Byte) (n : Nat) : Mem :=
  (List.range n).foldl (fun m i => wrBytes m (b + i * st) (f i)) m

theorem putRows_succ (m : Mem) (b st : Nat) (f : Nat → List Byte) (n : Nat) :
    putRows m b st f (n + 1) = wrBytes (putRows m b st f n) (b + n * st) (f n) := by
  simp [putRows, List.range_succ]

section
variable {w st b : Nat} {f : Nat → List Byte} (hlen : ∀ i, (f i).length = w) (m : Mem)
include hlen

theorem rd_putRows_outside (x : Nat) : ∀ n, (∀ i, i < n → x < b + i * st ∨ b + i * st + w ≤ x) →
    rd (putRows m b st f n) x = rd m x := by
  intro n
  induction n with
  | zero => exact fun _ => rfl
  | succ n ih =>
    intro h
    rw [putRows_succ, rd_wrBytes_outside _ _ _ _ (by rw [hlen]; exact h n (by omega)), ih (fun i hi => h i (by omega))]

theorem rdBytes_putRows (hst : w ≤ st) {i : Nat} : ∀ n, i < n → rdBytes (putRows m b st f n) (b + i * st) w = f i := by
  intro n
  induction n with
  | zero => intro h; omega
  | succ n ih =>
    intro h
    rw [putRows_succ]
    by_cases hin : i = n
    · rw [hin, ← hlen n, rdBytes_wrBytes]
    · rw [← ih (by omega)]
      refine rdBytes_congr (fun x _ hx => rd_wrBytes_outside _ _ _ _ (Or.inl ?_))
      have hrow : (i + 1) * st ≤ n * st := Nat.mul_le_mul_right st (by omega)
      rw [Nat.succ_mul] at hrow
      omega

end

/-! ### What an AOUT writes (R117, R143) -/

theorem zipIdx_map_range {α : Type} (f : Nat → α) (n : Nat) : ((List.range n).map f).zipIdx = (List.range n).map (fun i => (f i, i)) := by
  refine List.ext_getElem (by simp) (fun i h h' => ?_)
  simp

/-- The element that an AOUT writes for lane j of its row i. -/
def aoutElem (q : QDesc) (s : Mach) (acc : Tbl AccRow) (i j : Nat) : Nat :=
  (convElem (dB q.d 8 1) (dB q.d 9 1) (draw s (BitVec.ofNat 32 (dB q.d 20 4)) (BitVec.ofNat 32 (32 * i + j)) 0)
    (f32 (lane (tget AccRow.reset acc (dB q.d 14 2 + i)) j))).1

/-- The bytes of its row i. -/
def aoutRow (q : QDesc) (s : Mach) (acc : Tbl AccRow) (i : Nat) : List Byte :=
  packElems (fmtBits (dB q.d 8 1)) ((List.range 32).map (aoutElem q s acc i))

theorem aoutRow_length (q : QDesc) (s : Mach) (acc : Tbl AccRow) (i : Nat) :
    (aoutRow q s acc i).length = 4 * fmtBits (dB q.d 8 1) := by
  rw [aoutRow, packElems, toBytes_length, List.length_map, List.length_range]
  omega

theorem newAout_left (q : QDesc) (s : Mach) (acc : Tbl AccRow) : (newAout q s acc).left =
    byRow ((List.range (dB q.d 12 2)).flatMap (fun i => pieces (dB q.d 4 4 + i * dB q.d 16 4) (aoutRow q s acc i))) := by
  simp only [newAout, zipIdx_map_range, List.flatMap_map, List.map_map]
  rfl

theorem writePieces_newAout (q : QDesc) (s : Mach) (acc : Tbl AccRow) (c : Core) :
    (writePieces ((newAout q s acc).left.flatMap id) c).sp =
      putRows c.sp (dB q.d 4 4) (dB q.d 16 4) (aoutRow q s acc) (dB q.d 12 2) := by
  rw [writePieces_sp, newAout_left, (byRow_spec _).1, putPieces_flatMap]
  simp only [putPieces_pieces]
  rfl

theorem aoutOk_stride {d : OpDesc} (h : aoutOk d = true) : 4 * fmtBits (dB d 8 1) ≤ dB d 16 4 := by
  simp only [aoutOk, Bool.and_eq_true, decide_eq_true_eq] at h
  tauto

/-! ### AOUT (R118, R119) -/

theorem takeRows_ne_nil (r : Nat) (t : List Nat) (n : Nat) : takeRows [] (n + 1) (r :: t) ≠ [] := by
  simp [takeRows]

theorem vBack_writes {k : Nat} {s : Mach} {a : AoutRun} (ha : (coreAt s k).mx.aout = some a) (hleft : a.left ≠ []) :
    let n := (takeRows [] 16 (a.left.map (fun g => rowIndex ((g.head?.map (·.addr)).getD 0)))).length
    vBack k s = modCore k (fun c => mxTo (fun m => { m with aout := some { a with
        left := a.left.drop n, ends := max a.ends (periodEnd s + 24) } }) (writePieces ((a.left.take n).flatMap id) c)) s := by
  obtain ⟨g, gs, hg⟩ := List.exists_cons_of_ne_nil hleft
  have hn : (takeRows [] 16 (a.left.map (fun g => rowIndex ((g.head?.map (·.addr)).getD 0)))).length ≠ 0 := by
    rw [hg, List.map_cons]
    exact fun h => takeRows_ne_nil _ _ 15 (List.length_eq_zero_iff.1 h)
  simp only [vBack, ha, if_neg hn, modMx_eq_mxTo]

/-- The accumulators that an AOUT leaves. -/
def aoutAcc (q : QDesc) (acc : Tbl AccRow) : Tbl AccRow :=
  if bit q.d 8 then iter (dB q.d 12 2) (fun i t => tdel t (dB q.d 14 2 + i)) acc else acc

theorem clearedRows_aout (q : QDesc) (acc : Tbl AccRow) : ClearedRows q (bit q.d 8 = true) acc (aoutAcc q acc) := by
  unfold aoutAcc
  split
  next h => simpa only [h] using clearedRows_iter q acc
  next h => exact clearedRows_not q h acc

/-- An update of a tracker. -/
theorem trackAll_frame (die t code : Nat) (xs : List (FVal × Bool)) (s : Mach) :
    ∃ ds, trackAll die t code xs s = { s with dies := ds } := ⟨_, rfl⟩

/-- The core whose AOUT has ended. -/
def aoutDone (q : QDesc) (acc : Tbl AccRow) : Core → Core :=
  fun c => counted 0 (mxTo (fun m => { m with aout := none, acc := aoutAcc q acc }) c)

theorem aoutComplete_written {k : CoreId} {s : Mach} {a : AoutRun} (ha : (coreAt s k.key).mx.aout = some a) (hleft : a.left = []) :
    ∃ ds, aoutComplete k.key s = { modCore k.key (aoutDone a.q (coreAt s k.key).mx.acc) s with dies := ds } ∧
      (bit a.q.d 9 = false → ds = s.dies) := by
  have hclr : (dB a.q.d 1 1).testBit 0 = bit a.q.d 8 := testBit_dB a.q.d 1 0 (by decide)
  have htrk : (dB a.q.d 1 1).testBit 1 = bit a.q.d 9 := testBit_dB a.q.d 1 1 (by decide)
  have hcore : modCore k.key (fun c => countDone 0 { c with mx := { c.mx with
        aout := none
        acc := if bit a.q.d 8 then iter (dB a.q.d 12 2) (fun i t => tdel t (dB a.q.d 14 2 + i)) c.mx.acc else c.mx.acc } }) s =
      modCore k.key (aoutDone a.q (coreAt s k.key).mx.acc) s := modCore_congr rfl
  simp only [aoutComplete, ha, hleft, hclr, htrk, hcore]
  cases bit a.q.d 9 with
  | true =>
    obtain ⟨ds, h⟩ := trackAll_frame (dieOf k.key) (dB a.q.d 10 1) (dB a.q.d 8 1) (a.seen.map (fun v => (f32 v.1, v.2)))
      (modCore k.key (aoutDone a.q (coreAt s k.key).mx.acc) s)
    exact ⟨ds, h, fun h => absurd h (by decide)⟩
  | false => exact ⟨s.dies, rfl, fun _ => rfl⟩

theorem aoutEnds_written (k : CoreId) (s : State) (a : AoutRun) (ha : (coreAt s.m k.key).mx.aout = some a) (hleft : a.left = [])
    (hend : MayEnd s.m a.ends) :
    ∃ t, exec (.aoutComplete k) s = .next t ∧
      { t.m with dies := s.m.dies } = (after (modCore k.key (aoutDone a.q (coreAt s.m k.key).mx.acc)) s).m ∧
      (bit a.q.d 9 = false → t.m.dies = s.m.dies) ∧ t.pending = s.pending := by
  obtain ⟨ds, hdone, hdies⟩ := aoutComplete_written ha hleft
  refine ⟨_, run_ended hend (by simp [aoutBusy, ha, hleft]) (by simp [aoutEnds, ha]) rfl, ?_⟩
  have hm : (after (aoutComplete k.key) s).m = aoutComplete k.key s.m := after_m (by rw [hdone]; rfl)
  rw [hm, after_m rfl, hdone]
  exact ⟨rfl, hdies, after_pending _ _⟩

/-! ### VOP (R120 to R123) -/

theorem afterRead_good {k eng src : Nat} {pc : Word} {x : RowsRead} {go : Mach → Mach} {s : Mach} (h : GoodRead x) :
    afterRead k eng src pc x go s = go s := by
  simp only [afterRead, h.1, h.2]
  rfl

theorem goodRead_nil (c : Core) : GoodRead (readRows c []) := ⟨rfl, rfl⟩

/-- The VOP with the rows that a turn has read. -/
def vopGot (v : VopRun) (rows : List Nat) (x : RowsRead) : VopRun :=
  { v with left := v.left.drop rows.length, got := v.got ++ rows.zip x.rows }

/-- What a turn writes of the results that wait in `v`, and where the VOP stands then. -/
def vopWrites (rows : List Nat) (v : VopRun) (k : Nat) (s : Mach) : Mach :=
  let out := takePieces (banksOf rows) (16 - rows.length) (v.out.getD [])
  modCore k (fun c => { writePieces out c with vop := some { v with
    ends := max v.ends (periodEnd s + 12), out := v.out.map (fun l => l.drop out.length) } }) s

section
variable {k turn : Nat} {s : Mach} {v : VopRun} (hv : (coreAt s k).vop = some v) (hturn : turn % 4 ≠ 3)
  (hrun : bit (coreAt s k).stopped 1 = false)
include hv hturn hrun

theorem vSlot_vop (hdone : v.allDone = false) (hgood : GoodRead (readRows (coreAt s k) (takeRows [] 16 v.left))) :
    let rows := takeRows [] 16 v.left
    let w := vopGot v rows (readRows (coreAt s k) rows)
    vSlot k turn s = if w.left.isEmpty && w.out.isNone then vopWrites rows (vopConvert k w s).1 k (vopConvert k w s).2
      else vopWrites rows w k s := by
  simp only [vSlot, if_neg hturn, hrun, vVector, hv, hdone, vopRead, afterRead_good hgood]
  rfl

/-- A turn that reads and leaves rows to read. -/
theorem vSlot_reads (hout : v.out = none) (hgood : GoodRead (readRows (coreAt s k) (takeRows [] 16 v.left)))
    (hleft : (vopGot v (takeRows [] 16 v.left) (readRows (coreAt s k) (takeRows [] 16 v.left))).left ≠ []) :
    vSlot k turn s = modCore k (fun c => { c with vop := some { vopGot v (takeRows [] 16 v.left)
      (readRows (coreAt s k) (takeRows [] 16 v.left)) with ends := max v.ends (periodEnd s + 12) } }) s := by
  rw [vSlot_vop hv hturn hrun (by simp [VopRun.allDone, hout]) hgood, List.isEmpty_eq_false_iff.2 hleft]
  have hnone : takePieces (banksOf (takeRows [] 16 v.left)) (16 - (takeRows [] 16 v.left).length) [] = [] :=
    List.take_nil
  simp only [vopWrites, vopGot, hout, Option.getD_none, Option.map_none, hnone]
  rfl

/-- A turn that only writes. -/
theorem vSlot_writes {ps : List Piece} (hleft : v.left = []) (hout : v.out = some ps) (hps : ps ≠ []) :
    vSlot k turn s = modCore k (fun c => { writePieces (takePieces [] 16 ps) c with vop := some { v with
      ends := max v.ends (periodEnd s + 12), out := some (ps.drop (takePieces [] 16 ps).length) } }) s := by
  have hrows : takeRows [] 16 v.left = [] := by rw [hleft]; rfl
  have hgot : vopGot v [] (readRows (coreAt s k) []) = v := by simp [vopGot, readRows]
  rw [vSlot_vop hv hturn hrun (by simp [VopRun.allDone, hout, hps]) (by rw [hrows]; exact goodRead_nil _), hrows, hgot]
  simp only [hout, vopWrites, Option.isNone_some, Bool.and_false]
  rfl

end

/-! ### The results of a VOP (R120 to R122) -/

/-- Element e of an operand of a VOP that has read its rows: of A, and of B or the constant. -/
def vopA (w : VopRun) (e : Nat) : FVal :=
  operandElem (dB w.q.d 22 1 % 16) (vopOperand w (dB w.q.d 8 4) (operandBytes (dB w.q.d 22 1 % 16) (dB w.q.d 20 2))) (e / 32) (e % 32)

def vopB (w : VopRun) (e : Nat) : FVal :=
  if takesB (dB w.q.d 4 1) && !bit w.q.d 8 then
    operandElem (dB w.q.d 22 1 / 16) (vopOperand w (dB w.q.d 12 4) (operandBytes (dB w.q.d 22 1 / 16) (dB w.q.d 20 2))) (e / 32) (e % 32)
  else f32 (fld w.q.d 224 32)

/-- Result e before its conversion. -/
def vopResult (w : VopRun) (e : Nat) : FVal :=
  if dB w.q.d 4 1 = 0x0F then f32 (rsum ((List.range 32).map (fun i => vopA w (32 * e + i))))
  else if dB w.q.d 4 1 = 0x10 then rmax ((List.range 32).map (fun i => vopA w (32 * e + i)))
  else vfunc (dB w.q.d 4 1) (vopA w e) (vopB w e) (f32 (fld w.q.d 224 32))

/-- Result e as it is stored. -/
def vopElem (w : VopRun) (s : Mach) (e : Nat) : Nat :=
  (convElem (dB w.q.d 23 1) (dB w.q.d 24 1) (draw s (BitVec.ofNat 32 (dB w.q.d 2 2)) (BitVec.ofNat 32 e) 0) (vopResult w e)).1

/-- The pieces that a VOP stores. -/
def vopPieces (w : VopRun) (s : Mach) : List Piece :=
  pieces (dB w.q.d 16 4) (packElems (fmtBits (dB w.q.d 23 1)) (if 0x0F ≤ dB w.q.d 4 1 then
    (List.range (dB w.q.d 20 2)).map (vopElem w s) ++ (if dB w.q.d 20 2 % 2 = 1 then [0] else [])
  else (List.range (32 * dB w.q.d 20 2)).map (vopElem w s)))

theorem vopOk_func {d : OpDesc} (h : vopOk d = true) : dB d 4 1 ≤ 0x10 := by
  simp only [vopOk, Bool.and_eq_true, decide_eq_true_eq] at h
  tauto

theorem vopReduces_iff {d : OpDesc} (h : dB d 4 1 ≤ 0x10) : vopReduces d = decide (0x0F ≤ dB d 4 1) := by
  rw [vopReduces, Bool.eq_iff_iff]
  simp only [Bool.or_eq_true, beq_iff_eq, decide_eq_true_eq]
  omega

theorem vopResults_reduces {w : VopRun} (hfunc : dB w.q.d 4 1 ≤ 0x10) (h : 0x0F ≤ dB w.q.d 4 1) :
    vopResults w = (List.range (dB w.q.d 20 2)).map (vopResult w) := by
  have hgroup (e : Nat) : (List.range 32).map (fun i => vopA w (32 * e + i)) =
      (List.range 32).map (fun i => operandElem (dB w.q.d 22 1 % 16)
        (vopOperand w (dB w.q.d 8 4) (operandBytes (dB w.q.d 22 1 % 16) (dB w.q.d 20 2))) e i) := by
    refine List.map_congr_left (fun i hi => ?_)
    rw [vopA, show (32 * e + i) / 32 = e from by simp at hi; omega, show (32 * e + i) % 32 = i from by simp at hi; omega]
  simp only [vopResults, vopReduces_iff hfunc, h, decide_true, if_true]
  refine List.map_congr_left (fun e _ => ?_)
  rw [vopResult, hgroup]
  obtain h15 | h16 : dB w.q.d 4 1 = 0x0F ∨ dB w.q.d 4 1 = 0x10 := by omega
  · simp only [h15, beq_self_eq_true, if_true]
    rfl
  · rw [h16]
    rfl

theorem vopResults_elementwise {w : VopRun} (h : ¬ 0x0F ≤ dB w.q.d 4 1) :
    vopResults w = (List.range (32 * dB w.q.d 20 2)).map (vopResult w) := by
  have hfunc : dB w.q.d 4 1 ≤ 0x10 := by omega
  simp only [vopResults, vopReduces_iff hfunc, h, decide_false, Bool.false_eq_true, if_false]
  refine List.map_congr_left (fun e _ => ?_)
  rw [vopResult, if_neg (show ¬ dB w.q.d 4 1 = 0x0F by omega), if_neg (show ¬ dB w.q.d 4 1 = 0x10 by omega)]
  simp only [vopA, vopB, vopBytesA, vopBytesB, vopUsesB]
  by_cases hB : (takesB (dB w.q.d 4 1) && !bit w.q.d 8) = true
  · simp only [hB, if_true]
  · simp only [hB, if_false, Bool.false_eq_true]

/-- The conversions of a list of results. -/
theorem conversions_map {f : Nat → FVal} {c : Nat → FVal → Nat × Bool} (n : Nat) :
    (((List.range n).map f).zipIdx.map (fun e => c e.2 e.1)).map (fun e => e.1) = (List.range n).map (fun e => (c e (f e)).1) := by
  simp only [zipIdx_map_range, List.map_map]
  rfl

theorem vopConvert_spec (k : Nat) {w : VopRun} (s : Mach) (hok : vopOk w.q.d = true) :
    ∃ ds, vopConvert k w s = ({ w with out := some (vopPieces w s) }, { s with dies := ds }) ∧ (bit w.q.d 9 = false → ds = s.dies) := by
  have hfunc := vopOk_func hok
  have hbytes : (vopConvert k w s).1 = { w with out := some (vopPieces w s) } := by
    simp only [vopConvert, vopPieces, vopReduces_iff hfunc]
    by_cases h : 0x0F ≤ dB w.q.d 4 1
    · rw [vopResults_reduces hfunc h, conversions_map (c := fun i x => convElem (dB w.q.d 23 1) (dB w.q.d 24 1)
        (draw s (BitVec.ofNat 32 (dB w.q.d 2 2)) (BitVec.ofNat 32 i) 0) x)]
      simp only [h, decide_true, Bool.true_and, beq_iff_eq, if_true]
      split
      · rfl
      · rw [List.append_nil]
        rfl
    · rw [vopResults_elementwise h, conversions_map (c := fun i x => convElem (dB w.q.d 23 1) (dB w.q.d 24 1)
        (draw s (BitVec.ofNat 32 (dB w.q.d 2 2)) (BitVec.ofNat 32 i) 0) x)]
      simp only [h, decide_false, Bool.false_and, Bool.false_eq_true, if_false]
      rfl
  have hdies : ∃ ds, (vopConvert k w s).2 = { s with dies := ds } ∧ (bit w.q.d 9 = false → ds = s.dies) := by
    simp only [vopConvert]
    cases bit w.q.d 9 with
    | true => exact ⟨_, rfl, fun h => absurd h (by decide)⟩
    | false => exact ⟨s.dies, rfl, fun _ => rfl⟩
  obtain ⟨ds, hds, hsame⟩ := hdies
  exact ⟨ds, Prod.ext hbytes hds, hsame⟩

/-- The last turn that reads: the results are formed and the first of them written. -/
theorem vSlot_converts {k turn : Nat} {s : Mach} {v : VopRun} (hv : (coreAt s k).vop = some v) (hturn : turn % 4 ≠ 3)
    (hrun : bit (coreAt s k).stopped 1 = false) (hout : v.out = none)
    (hgood : GoodRead (readRows (coreAt s k) (takeRows [] 16 v.left)))
    (hleft : (vopGot v (takeRows [] 16 v.left) (readRows (coreAt s k) (takeRows [] 16 v.left))).left = []) (hok : vopOk v.q.d = true) :
    let rows := takeRows [] 16 v.left
    let w := vopGot v rows (readRows (coreAt s k) rows)
    let out := takePieces (banksOf rows) (16 - rows.length) (vopPieces w s)
    { vSlot k turn s with dies := s.dies } = modCore k (fun c => { writePieces out c with vop := some { w with
        ends := max v.ends (periodEnd s + 12), out := some ((vopPieces w s).drop out.length) } }) s ∧
      (bit v.q.d 9 = false → (vSlot k turn s).dies = s.dies) := by
  intro rows w out
  obtain ⟨ds, hconv, hsame⟩ := vopConvert_spec k (w := w) s hok
  have hslot : vSlot k turn s = vopWrites rows { w with out := some (vopPieces w s) } k { s with dies := ds } := by
    have hempty : w.left.isEmpty = true := List.isEmpty_iff.2 hleft
    have hnone : w.out.isNone = true := congrArg Option.isNone hout
    rw [vSlot_vop hv hturn hrun (by simp [VopRun.allDone, hout]) hgood]
    change (if w.left.isEmpty && w.out.isNone then vopWrites rows (vopConvert k w s).1 k (vopConvert k w s).2
      else vopWrites rows w k s) = _
    rw [hempty, hnone, hconv]
    rfl
  rw [hslot]
  exact ⟨rfl, hsame⟩

theorem vopComplete_written {k : Nat} {s : Mach} {v : VopRun} (hv : (coreAt s k).vop = some v) (hleft : v.left = [])
    (hout : v.out = some []) : vopComplete k s = modCore k (fun c => counted 1 { c with vop := none }) s := by
  simp [vopComplete, hv, VopRun.allDone, hleft, hout, countDone_eq_counted]

/-- Settles O7: rows at equal distances are written one by one, and a VOP's turn is a read, a conversion and a write. -/
theorem resultsAreStoredConverted : Obligations.ResultsAreStoredConverted := by
  intro k s
  refine ⟨?_, ?_, ?_, ?_, ?_, ?_⟩
  · intro q acc hok
    refine ⟨fun g hg => (byRow_spec _).2 g (by rwa [newAout_left] at hg), fun i hi => ?_, fun x hx => ?_⟩
    · rw [writePieces_newAout]
      exact rdBytes_putRows (aoutRow_length q s.m acc) _ (aoutOk_stride hok) _ hi
    · rw [writePieces_newAout]
      exact rd_putRows_outside (aoutRow_length q s.m acc) _ x _ hx
  · intro a turn ha hturn hrun hleft
    rw [vSlot, if_pos hturn, hrun]
    exact vBack_writes ha hleft
  · intro a ha hleft hend
    obtain ⟨t, hrun, hm, hdies, hpending⟩ := aoutEnds_written k s a ha hleft hend
    exact ⟨t, _, hrun, clearedRows_aout a.q _, hm, hdies, hpending⟩
  · intro v turn rows x w hv hout hturn hrun hgood
    exact ⟨fun hleft => vSlot_reads hv hturn hrun hout hgood hleft,
      fun hleft hok => vSlot_converts hv hturn hrun hout hgood hleft hok⟩
  · exact fun v ps turn hv hleft hout hps hturn hrun => vSlot_writes hv hturn hrun hleft hout hps
  · intro v hv hleft hout hend
    exact run_ended hend (by simp [vopBusy, hv, VopRun.allDone, hleft, hout]) (by simp [vopEnd, hv])
      (vopComplete_written hv hleft hout)

end Sys2Proof.Spec
end

section
/-! PROOFS. The section switch and the start of programs (R128, R177, R178, R181, R201). -/

namespace Sys2Proof.Spec

open Sys2Proof.Machine

/-! ### What every die and every core does -/

/-- A change of every die below n. -/
theorem dieAt_iter (f : Nat → Die → Die) (s : Mach) (d : Nat) : ∀ n,
    dieAt (iter n (fun d s => modDie d (f d) s) s) d = if d < n then f d (dieAt s d) else dieAt s d := by
  intro n
  induction n with
  | zero => rfl
  | succ n ih =>
    have hstep : iter (n + 1) (fun d s => modDie d (f d) s) s = modDie n (f n) (iter n (fun d s => modDie d (f d) s) s) := by
      simp [iter, List.range_succ, List.foldl_append]
    rw [hstep]
    by_cases hd : d = n
    · subst hd
      rw [dieAt_modDie, ih, if_neg (Nat.lt_irrefl d), if_pos (Nat.lt_succ_self d)]
    · rw [dieAt_modDie_other _ _ hd, ih]
      exact if_congr (by omega) rfl rfl

/-- Only dies differ. -/
theorem iter_modDie_frame (f : Nat → Die → Die) (s : Mach) : ∀ n, ∃ ds, iter n (fun d s => modDie d (f d) s) s = { s with dies := ds } := by
  intro n
  induction n with
  | zero => exact ⟨s.dies, rfl⟩
  | succ n ih =>
    obtain ⟨ds, h⟩ := ih
    refine ⟨tmod Die.reset ds n (f n), ?_⟩
    have hstep : iter (n + 1) (fun d s => modDie d (f d) s) s = modDie n (f n) (iter n (fun d s => modDie d (f d) s) s) := by
      simp [iter, List.range_succ, List.foldl_append]
    rw [hstep, h]
    rfl

section
variable (f : Nat → Core → Core)

theorem foldl_modCore_frame (l : List Nat) : ∀ s : Mach, ∃ cs, l.foldl (fun s k => modCore k (f k) s) s = { s with cores := cs } := by
  induction l with
  | nil => exact fun s => ⟨s.cores, rfl⟩
  | cons k l ih =>
    intro s
    obtain ⟨cs, h⟩ := ih (modCore k (f k) s)
    exact ⟨cs, h⟩

theorem coreAt_foldl_of_fixed {k : Nat} (l : List Nat) : ∀ s : Mach, f k (coreAt s k) = coreAt s k →
    coreAt (l.foldl (fun s k => modCore k (f k) s) s) k = coreAt s k := by
  induction l with
  | nil => exact fun _ _ => rfl
  | cons j l ih =>
    intro s h
    have hj : coreAt (modCore j (f j) s) k = coreAt s k := by
      by_cases hk : k = j
      · rw [hk, coreAt_modCore, ← hk, h]
      · exact coreAt_modCore_other _ _ hk
    rw [List.foldl_cons, ih _ (by rw [hj, h]), hj]

/-- A change that does nothing the second time reaches every core of a list once. -/
theorem coreAt_foldl_idempotent {k : Nat} (hf : ∀ c, f k (f k c) = f k c) (l : List Nat) : ∀ s : Mach, k ∈ l →
    coreAt (l.foldl (fun s k => modCore k (f k) s) s) k = f k (coreAt s k) := by
  induction l with
  | nil => exact fun _ h => absurd h List.not_mem_nil
  | cons j l ih =>
    intro s hk
    rw [List.foldl_cons]
    by_cases hkj : k = j
    · rw [← hkj, coreAt_foldl_of_fixed f l _ (by rw [coreAt_modCore, hf]), coreAt_modCore]
    · rw [ih _ ((List.mem_cons.1 hk).resolve_left hkj), coreAt_modCore_other _ _ hkj]

end

theorem allCores_frame (f : Nat → Core → Core) (s : Mach) : ∃ cs, allCores f s = { s with cores := cs } :=
  foldl_modCore_frame f _ s

theorem allCores_dies (f : Nat → Core → Core) (s : Mach) : (allCores f s).dies = s.dies := by
  obtain ⟨cs, h⟩ := allCores_frame f s
  rw [h]

/-! ### The start of programs (R128) -/

/-- The core at the start of its program, and one that idles from `start` on. -/
def beginning (c : Core) : Core :=
  { c with p := { c.p with mode := .running, pc := c.p.entry, done := false, signalled := false, inexc := false, cause := 0 } }
def idling (start : Nat) (c : Core) : Core :=
  { c with p := { c.p with mode := .idle, done := true, doneAt := start, signalled := false, cause := 0 } }

/-- What a start does to core k. -/
def programStart (s : Mach) (k : Nat) (c : Core) : Core :=
  if s.sec.cur.isSome && c.runs && !c.p.halted && !coreOff s k && !s.ls.stopped && !s.sec.budget then beginning c
  else idling (match s.rnd.cur with | some r => r.start | none => s.now) c

theorem startPrograms_eq (s : Mach) : startPrograms s = allCores (programStart s) s := rfl

theorem programStart_idempotent (s : Mach) (k : Nat) (c : Core) : programStart s k (programStart s k c) = programStart s k c := by
  unfold programStart
  split
  next h =>
    rw [if_pos (by exact h)]
    rfl
  next h =>
    rw [if_neg (by exact h)]
    rfl

theorem coreAt_startPrograms {s : Mach} {k : Nat} (hk : k ∈ presentCores s) : coreAt (startPrograms s) k = programStart s k (coreAt s k) :=
  coreAt_foldl_idempotent (programStart s) (programStart_idempotent s k) _ s hk

theorem coresBeginAtEntry : CoresBeginAtEntry := by
  intro s k hk
  refine ⟨?_, fun h => ?_⟩
  · rintro ⟨hcur, hruns, hhalted, hoff, hstopped, hbudget⟩
    rw [coreAt_startPrograms hk, programStart, if_pos (by simp [hcur, hruns, hhalted, hoff, hstopped, hbudget])]
    rfl
  · rw [coreAt_startPrograms hk, programStart, if_neg]
    · exact ⟨rfl, rfl, rfl, rfl⟩
    · rintro hall
      simp only [Bool.and_eq_true, Bool.not_eq_true'] at hall
      obtain ⟨⟨⟨⟨⟨hcur, hruns⟩, hhalted⟩, hoff⟩, -⟩, -⟩ := hall
      simp [hcur, hruns, hhalted, hoff] at h

/-! ### What only reports: logs and counts at cores and dies, and signals -/

/-- Only cores, dies, the notes of the cycle, the host block and what leaves the module differ. -/
def Reports (s t : Mach) : Prop := ∃ n h o cs ds, t = { s with notes := n, host := h, out := o, cores := cs, dies := ds }

theorem Reports.refl (s : Mach) : Reports s s := ⟨s.notes, s.host, s.out, s.cores, s.dies, rfl⟩

theorem Reports.trans {s t u : Mach} (h : Reports s t) (h' : Reports t u) : Reports s u := by
  obtain ⟨_, _, _, _, _, rfl⟩ := h
  obtain ⟨_, _, _, _, _, rfl⟩ := h'
  exact ⟨_, _, _, _, _, rfl⟩

theorem Reports.frame {s t : Mach} (h : Reports s t) :
    t.now = s.now ∧ t.edge = s.edge ∧ t.sec = s.sec ∧ t.keep = s.keep ∧ t.rnd = s.rnd := by
  obtain ⟨_, _, _, _, _, rfl⟩ := h
  exact ⟨rfl, rfl, rfl, rfl, rfl⟩

theorem Signals.reports {s t : Mach} (h : Signals s t) : Reports s t := by
  obtain ⟨n, b, o, rfl⟩ := h
  exact ⟨n, b, o, s.cores, s.dies, rfl⟩

theorem modCore_reports (k : Nat) (f : Core → Core) (s : Mach) : Reports s (modCore k f s) := ⟨s.notes, s.host, s.out, _, s.dies, rfl⟩

theorem modDie_reports (d : Nat) (f : Die → Die) (s : Mach) : Reports s (modDie d f s) := ⟨s.notes, s.host, s.out, s.cores, _, rfl⟩

theorem logDie_reports (die cls scope flags unit loc : Nat) (det : List Byte) (s : Mach) :
    Reports s (logDie die cls scope flags unit loc det s) := modDie_reports _ _ s

theorem noteCore_reports (die : Nat) (n : LogEntry) (s : Mach) : Reports s (noteCore die n s) :=
  ⟨_, s.host, s.out, s.cores, s.dies, rfl⟩

theorem foldl_reports {α : Type} {f : Mach → α → Mach} (hf : ∀ s a, Reports s (f s a)) (l : List α) :
    ∀ s, Reports s (l.foldl f s) := by
  induction l with
  | nil => exact Reports.refl
  | cons a l ih => exact fun s => (hf s a).trans (ih (f s a))

theorem columnSuspect_reports (die : Nat) (x : Suspect) (s : Mach) : Reports s (columnSuspect die x s) := by
  have hmark (f : Die → Die) (t : Mach) : Reports t (noteRaise (dieReg die 0x7004) 2 (modDie die f t)) :=
    (modDie_reports _ _ _).trans (noteRaise_signals _ _ _).reports
  unfold columnSuspect
  extract_lets s1 p retire s2 ent
  split
  · exact hmark _ s
  · have h1 : Reports s s1 := hmark _ s
    refine h1.trans (Reports.trans ?_ (logDie_reports _ _ _ _ _ _ _ _))
    unfold s2
    split
    · exact (modDie_reports _ _ _).trans (noteRaise_signals _ _ _).reports
    · exact modDie_reports _ _ _

/-- An error that is logged: counted at its core and its die, with an event of a new entry, and an interrupt. -/
theorem loggedErr_reports {b : Bool} {k die sub : Nat} {f : Core → Core} {g : Die → Die} {n : LogEntry} {flags loc : Nat}
    {det : List Byte} {s : Mach} :
    Reports s (raiseIrq 10 (if b then logDie die 0x24 3 flags sub loc det (noteCore die n (modDie die g (modCore k f s)))
      else noteCore die n (modDie die g (modCore k f s)))) := by
  have hnote : Reports s (noteCore die n (modDie die g (modCore k f s))) :=
    ((modCore_reports _ _ _).trans (modDie_reports _ _ _)).trans (noteCore_reports _ _ _)
  refine Reports.trans ?_ (raiseIrq_signals 10 _).reports
  split
  · exact hnote.trans (logDie_reports _ _ _ _ _ _ _ _)
  · exact hnote

theorem logErr_reports (k src : Nat) (e : ErrRec) (s : Mach) : Reports s (logErr k src e s) := by
  unfold logErr
  extract_lets die n s1 s2 s3 s4 same rows
  have h4 : Reports s s4 := loggedErr_reports
  split
  · exact h4
  · split
    · exact h4.trans (columnSuspect_reports _ _ _)
    · exact h4

theorem logErrs_reports (k src : Nat) (es : List ErrRec) (s : Mach) : Reports s (logErrs k src es s) :=
  foldl_reports (fun s e => logErr_reports k src e s) es s

theorem logImage_reports (man : Bool) (k : Nat) (s : Mach) : Reports s (logImage man k s) := logErrs_reports _ _ _ _

theorem iter_reports {f : Nat → Mach → Mach} (hf : ∀ d s, Reports s (f d s)) (n : Nat) (s : Mach) : Reports s (iter n f s) :=
  foldl_reports (fun s d => hf d s) _ s

theorem allCores_reports (f : Nat → Core → Core) (s : Mach) : Reports s (allCores f s) := by
  obtain ⟨cs, h⟩ := allCores_frame f s
  rw [h]
  exact ⟨s.notes, s.host, s.out, cs, s.dies, rfl⟩

/-! ### Time up to a cycle of the round while a switch runs (R177) -/

/-- The state with the clock at an instant. -/
def atTime (t : Nat) (s : Mach) : Mach := { s with now := t }

theorem pastEnd_atTime {t : Nat} {s : Mach} (h : t < roundEnd s) : pastEnd (atTime t s) = false := by
  unfold pastEnd roundEnd at *
  cases hcur : s.rnd.cur with
  | none => simp [atTime, hcur]
  | some r =>
    rw [hcur] at h
    simpa [atTime, hcur] using h

theorem passCycles_switching {n : Nat} {s : Mach} (hsw : s.sec.switch.isSome = true) (h : n = 0 ∨ s.now + n < roundEnd s) :
    passCycles n s = atTime (s.now + n) s := by
  cases n with
  | zero => rfl
  | succ n =>
    have hquiet : wheelQuiet s = true := by simp [wheelQuiet, hsw]
    have hend : pastEnd (atTime (s.now + (n + 1)) s) = false := pastEnd_atTime (h.resolve_left (Nat.succ_ne_zero n))
    rw [passCycles, if_pos hquiet]
    change roundEnds (atTime (s.now + (n + 1)) s) = _
    simp [roundEnds, hend]

/-- The state at cycle n of the round, or as it is when that is past. -/
def atCycle (n : Nat) (s : Mach) : Mach := atTime (s.now + refCycles (n - cycleOf s) s) s

theorem toCycle_switching {n : Nat} {s : Mach} (hsw : s.sec.switch.isSome = true) (h : ReachesCycle s n) :
    toCycle n s = atCycle n s := by
  rw [toCycle, notBefore, Nat.add_sub_cancel_left]
  refine passCycles_switching hsw (h.imp_left (fun hn => ?_))
  rw [Nat.sub_eq_zero_of_le hn, refCycles_zero]

/-! ### The gather (R177, R178) -/

/-- The state in which the images are judged: what their reads find is logged, and every die has what the gather found. -/
def gathered (cmd : SecCmd) (s : Mach) : Mach :=
  let ks := presentCores s
  let rs := (ks.map (fun k => (k, coreReason s cmd k))).filter (fun e => e.2 != 0)
  let s1 := ks.foldl (fun s k => logImage cmd.man k s) s
  iter 144 (fun d s =>
    let bad := (rs.filter (fun e => dieOf e.1 == d)).map (fun e => ((lcOf (dieAt s d) (pcOf e.1)).getD 0, e.2))
    modDie d (fun x => { x with sec := secStat bad x.sec }) s) s1

theorem gathered_reports (cmd : SecCmd) (s : Mach) : Reports s (gathered cmd s) := by
  unfold gathered
  refine Reports.trans (foldl_reports (fun s k => logImage_reports cmd.man k s) (presentCores s) s) ?_
  exact iter_reports (fun _ s => modDie_reports _ _ s) _ _

/-- The cores whose image the gather finds invalid. -/
def badImages (cmd : SecCmd) (s : Mach) : List (Nat × Nat) :=
  ((presentCores s).map (fun k => (k, coreReason s cmd k))).filter (fun e => e.2 != 0)

theorem badImages_eq_nil {cmd : SecCmd} {s : Mach} : badImages cmd s = [] ↔ ∀ k ∈ presentCores s, coreReason s cmd k = 0 := by
  simp [badImages, List.filter_eq_nil_iff]

theorem gathered_fault {cmd : SecCmd} {s : Mach} (h : ∀ k ∈ presentCores s, coreReason s cmd k = 0) {d : Nat} (hd : d < 144) :
    (dieAt (gathered cmd s) d).sec.fault = false := by
  have hnone := badImages_eq_nil.2 h
  rw [badImages] at hnone
  simp only [gathered, hnone, List.filter_nil, List.map_nil]
  rw [dieAt_iter (fun _ x => { x with sec := secStat [] x.sec }), if_pos hd]
  rfl

/-- The module whose images are all valid, at its load. -/
def loading (cmd : SecCmd) (s : Mach) : Mach :=
  modSec (fun x => { x with
      switch := some (cmd, .load)
      plan := BitVec.ofNat 32 ((presentCores s).foldl (fun m k => max m (planOf cmd.man (coreAt (gathered cmd s) k))) 0) })
    (allCores (fun k c => loadCore cmd.man (!dead (gathered cmd s) k) c) (gathered cmd s))

section
variable {cmd : SecCmd} {s : Mach} (hsw : s.sec.switch = some (cmd, .check))
include hsw

theorem switchReadyGather_valid (h : ∀ k ∈ presentCores s, coreReason s cmd k = 0) : switchReadyGather s = loading cmd s := by
  have hnone : (badImages cmd s).isEmpty = true := List.isEmpty_iff.2 (badImages_eq_nil.2 h)
  simp only [switchReadyGather, hsw]
  exact if_pos hnone

theorem switchReadyGather_invalid (h : ∃ k ∈ presentCores s, coreReason s cmd k ≠ 0) :
    ∃ st, switchReadyGather s = abortSwitch cmd st (gathered cmd s) := by
  have hsome : ¬ (badImages cmd s).isEmpty = true := by
    rw [List.isEmpty_iff, badImages_eq_nil]
    push Not
    exact h
  simp only [switchReadyGather, hsw]
  exact ⟨_, if_neg hsome⟩

end

theorem loading_frame (cmd : SecCmd) (s : Mach) :
    (loading cmd s).now = s.now ∧ (loading cmd s).edge = s.edge ∧ (loading cmd s).keep = s.keep ∧
      (loading cmd s).sec.switch = some (cmd, .load) ∧ (loading cmd s).sec.cur = s.sec.cur ∧
      (loading cmd s).dies = (gathered cmd s).dies := by
  obtain ⟨hnow, hedge, hsec, hkeep, -⟩ := (gathered_reports cmd s).frame
  obtain ⟨hnow', hedge', hsec', hkeep', -⟩ :=
    (allCores_reports (fun k c => loadCore cmd.man (!dead (gathered cmd s) k) c) (gathered cmd s)).frame
  have hdies := allCores_dies (fun k c => loadCore cmd.man (!dead (gathered cmd s) k) c) (gathered cmd s)
  simp only [loading, modSec_own, modSec_frame]
  exact ⟨hnow'.trans hnow, hedge'.trans hedge, hkeep'.trans hkeep, trivial, by rw [hsec', hsec], hdies⟩

/-! ### An abandoned switch, and GO (R177, R178) -/

/-- Every die has the section and the round of the section. -/
theorem setSecCur_reports (v idx : Word) (s : Mach) : Reports s (setSecCur v idx s) := by
  unfold setSecCur
  exact iter_reports (fun _ s => modDie_reports _ _ s) _ s

/-- The module without a section and without a switch. -/
def unsectioned (s : Mach) : Mach :=
  modSec (fun x => { x with cur := none, plan := 0 }) (modSec (fun x => { x with switch := none }) s)

/-- No flit is on its way. -/
theorem noFlights_frame (s : Mach) : (noFlights s).now = s.now ∧ (noFlights s).edge = s.edge ∧ (noFlights s).sec = s.sec :=
  ⟨rfl, rfl, rfl⟩

/-- The module whose switch is abandoned: the cores begin without a section and hold no image. -/
def abandoned (s : Mach) : Mach :=
  allCores (fun _ c => { c with imgHeld := false, imgBad := false })
    (startPrograms (noFlights (setSecCur 0 0 (unsectioned s))))

/-- What SEC_STAT of the first die with a fault says. -/
def faultDetail (s : Mach) : List Byte :=
  (((List.range 144).find? (fun d => (dieAt s d).sec.fault)).map (fun d => bytesOf (secStatWord (dieAt s d).sec))).getD (toBytes 4 0)

theorem abortSwitch_eq (cmd : SecCmd) (st : Nat) (s : Mach) : abortSwitch cmd st s =
    uncorrected 0x23 (logModule 0x23 1 (faultDetail (abandoned s) ++ [0]) (complete cmd.owed st cmd.round.toNat (abandoned s))) := by
  unfold abortSwitch
  extract_lets s1 s2 det
  have h1 : s1 = noFlights (setSecCur 0 0 (unsectioned s)) := rfl
  have h2 : s2 = abandoned s := by unfold s2 abandoned; rw [h1]
  have hdet : det = faultDetail s2 := rfl
  rw [hdet, h2]

theorem abandoned_reports (s : Mach) : Reports (noFlights (setSecCur 0 0 (unsectioned s))) (abandoned s) := by
  unfold abandoned
  rw [startPrograms_eq]
  exact (allCores_reports _ _).trans (allCores_reports _ _)

theorem abortSwitch_frame (cmd : SecCmd) (st : Nat) (s : Mach) :
    (abortSwitch cmd st s).now = s.now ∧ (abortSwitch cmd st s).edge = s.edge ∧ (abortSwitch cmd st s).sec.switch = none ∧
      (abortSwitch cmd st s).sec.cur = none ∧ (abortSwitch cmd st s).keep.faulted = true := by
  obtain ⟨hnow, hedge, hsec, -, -⟩ := (abandoned_reports s).frame
  obtain ⟨hnow', hedge', hsec'⟩ := noFlights_frame (setSecCur 0 0 (unsectioned s))
  obtain ⟨hnow'', hedge'', hsec'', -, -⟩ := (setSecCur_reports 0 0 (unsectioned s)).frame
  rw [hnow', hnow''] at hnow
  rw [hedge', hedge''] at hedge
  rw [hsec', hsec''] at hsec
  rw [abortSwitch_eq]
  generalize abandoned s = t at hnow hedge hsec ⊢
  obtain ⟨h, hcomplete⟩ := complete_only cmd.owed st cmd.round.toNat t
  rw [hcomplete]
  generalize faultDetail t ++ [0] = det
  obtain ⟨n, b, o, hu⟩ := uncorrected_signals 0x23 (logModule 0x23 1 det { t with host := h })
  rw [hu]
  exact ⟨hnow, hedge, congrArg Sections.switch hsec, congrArg Sections.cur hsec, (faultKept_faulted _ _ _).1⟩

/-- The section in force, for the programs to start. -/
def inForce (cmd : SecCmd) (s : Mach) : Mach :=
  modSec (fun x => { x with switch := none, cur := some (cmd.section_, cmd.round) })
    { s with cores := s.cores.map (fun e => (e.1, skipPassed e.2)) }

theorem setSecCur_die (v idx : Word) (s : Mach) {d : Nat} (hd : d < 144) :
    (dieAt (setSecCur v idx s) d).sec.cur = v ∧ (dieAt (setSecCur v idx s) d).sec.idx = idx := by
  rw [setSecCur, dieAt_iter (fun _ x => { x with sec := { x.sec with cur := v, idx := idx } }), if_pos hd]
  exact ⟨rfl, rfl⟩

theorem sectionGo_loaded {cmd : SecCmd} {s : Mach} (hsw : s.sec.switch = some (cmd, .load)) :
    sectionGo s = complete cmd.owed 0x00 cmd.round.toNat (startPrograms (setSecCur cmd.section_ 0 (inForce cmd s))) := by
  simp only [sectionGo, hsw]
  rfl

/-- A command that ends where programs start: only cores and the host block change. -/
theorem begun_frame (o : Owed) (st det : Nat) (s : Mach) :
    (complete o st det (startPrograms s)).now = s.now ∧ (complete o st det (startPrograms s)).edge = s.edge ∧
      (complete o st det (startPrograms s)).sec = s.sec ∧ (complete o st det (startPrograms s)).dies = s.dies := by
  obtain ⟨cs, hstart⟩ := allCores_frame (programStart s) s
  rw [startPrograms_eq, hstart]
  obtain ⟨b, hcomplete⟩ := complete_only o st det { s with cores := cs }
  rw [hcomplete]
  exact ⟨rfl, rfl, rfl, rfl⟩

theorem sectionGo_frame {cmd : SecCmd} {s : Mach} (hsw : s.sec.switch = some (cmd, .load)) :
    (sectionGo s).now = s.now ∧ (sectionGo s).edge = s.edge ∧ (sectionGo s).sec.switch = none ∧
      (sectionGo s).sec.cur = some (cmd.section_, cmd.round) ∧
      ∀ d, d < 144 → (dieAt (sectionGo s) d).sec.cur = cmd.section_ ∧ (dieAt (sectionGo s) d).sec.idx = 0 := by
  obtain ⟨hnow, hedge, hsec, -, -⟩ := (setSecCur_reports cmd.section_ 0 (inForce cmd s)).frame
  obtain ⟨hnow', hedge', hsec', hdies⟩ := begun_frame cmd.owed 0x00 cmd.round.toNat (setSecCur cmd.section_ 0 (inForce cmd s))
  rw [← sectionGo_loaded hsw] at hnow' hedge' hsec' hdies
  rw [hsec] at hsec'
  rw [hsec']
  refine ⟨hnow'.trans hnow, hedge'.trans hedge, rfl, rfl, fun d hd => ?_⟩
  rw [dieAt, hdies, ← dieAt]
  exact setSecCur_die cmd.section_ 0 (inForce cmd s) hd

/-! ### The commands (R177, R178, R181) -/

/-- What a command has brought about, where time has passed or not: only the notes of the cycle may be new. -/
theorem to_m_frame (s : State) (m : Mach) : (s.to m).m.now = m.now ∧ (s.to m).m.edge = m.edge ∧ (s.to m).m.sec = m.sec ∧
    (s.to m).m.keep = m.keep ∧ (s.to m).m.dies = m.dies := by
  unfold State.to
  split <;> exact ⟨rfl, rfl, rfl, rfl, rfl⟩

/-- A command of the switch at cycle n of the round: time passes to the cycle, then it acts. -/
theorem run_atCycle {n : Nat} {f : Mach → Mach} {s : State} (hsw : s.m.sec.switch.isSome = true) (hn : ReachesCycle s.m n) :
    run (fun m => f (if m.sec.switch.isSome then toCycle n m else m)) s =
      .next (s.to (f (atCycle n s.m))) := by
  rw [run, if_pos hsw, toCycle_switching hsw hn]

theorem sectionSwitchChecksThenGoes : SectionSwitchChecksThenGoes := by
  intro cmd s
  refine ⟨fun hsw hn hvalid => ?_, fun hsw hn hinvalid => ?_, fun hsw hn => ?_⟩
  · refine ⟨_, run_atCycle (f := switchReadyGather) (Option.isSome_of_mem hsw) hn, ?_⟩
    rw [switchReadyGather_valid (s := atCycle 1024 s.m) hsw hvalid]
    obtain ⟨tnow, tedge, tsec, tkeep, tdies⟩ := to_m_frame s (loading cmd (atCycle 1024 s.m))
    obtain ⟨hnow, hedge, hkeep, hswitch, hcur, hdies⟩ := loading_frame cmd (atCycle 1024 s.m)
    refine ⟨⟨to_pending _ _, tnow.trans hnow, tedge.trans hedge⟩, ?_, ?_, ?_, fun d hd => ?_⟩
    · rw [tsec, hswitch]
    · rw [tsec, hcur]
      rfl
    · rw [tkeep, hkeep]
      rfl
    · rw [dieAt, tdies, hdies, ← dieAt]
      exact gathered_fault (s := atCycle 1024 s.m) hvalid hd
  · obtain ⟨st, habort⟩ := switchReadyGather_invalid (s := atCycle 1024 s.m) hsw hinvalid
    refine ⟨_, run_atCycle (f := switchReadyGather) (Option.isSome_of_mem hsw) hn, ?_⟩
    obtain ⟨hnow, hedge, hsec, hkeep, -⟩ := (gathered_reports cmd (atCycle 1024 s.m)).frame
    rw [habort]
    obtain ⟨tnow, tedge, tsec, tkeep, -⟩ :=
      to_m_frame s (abortSwitch cmd st (gathered cmd (atCycle 1024 s.m)))
    obtain ⟨anow, aedge, aswitch, acur, afaulted⟩ :=
      abortSwitch_frame cmd st (gathered cmd (atCycle 1024 s.m))
    refine ⟨⟨to_pending _ _, (tnow.trans anow).trans hnow, (tedge.trans aedge).trans hedge⟩, ?_, ?_, ?_⟩
    · rw [tsec, aswitch]
    · rw [tsec, acur]
    · rw [tkeep, afaulted]
  · refine ⟨_, run_atCycle (f := sectionGo) (Option.isSome_of_mem hsw) hn, ?_⟩
    obtain ⟨tnow, tedge, tsec, -, tdies⟩ := to_m_frame s (sectionGo (atCycle 4096 s.m))
    obtain ⟨hnow, hedge, hswitch, hcur, hdies⟩ :=
      sectionGo_frame (s := atCycle 4096 s.m) hsw
    refine ⟨⟨to_pending _ _, tnow.trans hnow, tedge.trans hedge⟩, ?_, ?_, fun d hd => ?_⟩
    · rw [tsec, hswitch]
    · rw [tsec, hcur]
    · rw [dieAt, tdies, ← dieAt]
      exact hdies d hd

/-- Settles O9: time passes to the cycle of the gather or of GO, and each core is asked once whether it begins. -/
theorem sectionsAreLoadedAndBegin : Obligations.SectionsAreLoadedAndBegin :=
  ⟨sectionSwitchChecksThenGoes, coresBeginAtEntry⟩

end Sys2Proof.Spec
end

section
/-! PROOFS. Routers and timed channels (R183 to R186, R190, R191, R194, R198, R202). -/

namespace Sys2Proof.Spec

open Sys2Proof.Machine

/-! ### Outbound channels (R185) -/

section
variable {k : CoreId} {ch : Fin 16} {s : State}

theorem burstDue_live (hlive : Live s.m k) (hmode : chMode (tget 0 (coreAt s.m k.key).rt.chans ch.val) = 2)
    (hn : tget 0 (coreAt s.m k.key).rt.outCnt ch.val <
      chCount (tget 0 (coreAt s.m k.key).rt.chans ch.val) * chReps (tget 0 (coreAt s.m k.key).rt.chans ch.val)) :
    burstDue k.key ch.val s.m = true := by
  obtain ⟨hroutes, hpresent, halive⟩ := hlive
  simp [burstDue, hroutes, hpresent, halive]
  exact ⟨hmode, hn⟩

theorem run_outboundBurst {g : Mach → Mach} (hdue : burstDue k.key ch.val s.m = true)
    (hturn : 4 * readTurn k.key ch.val s.m + 3 ≤ cycleOf s.m) (hg : outboundBurst k.key ch.val s.m = g s.m) :
    exec (.outboundBurst k ch) s = .next (after g s) := by
  refine run_eq_after ?_
  rw [if_pos hdue, toCycle_past _ _ hturn, hg]

/-- The core after the N slot of a channel's turn has read a row, whose flits are to leave. -/
def rowTaken (ch n row turn : Nat) (more : List Send) (c : Core) : Core :=
  { c with rt := { c.rt with
      outCnt := tset 0 c.rt.outCnt ch (n + 1), nTurn := turn, sends := c.rt.sends ++ more,
      nBanks := row % 16 :: (if c.rt.nTurn = turn then c.rt.nBanks else []) } }

theorem outboundBurst_inStore {e : BitVec 256} {n : Nat} (he : e = tget 0 (coreAt s.m k.key).rt.chans ch.val)
    (hn : n = tget 0 (coreAt s.m k.key).rt.outCnt ch.val) (hdue : burstDue k.key ch.val s.m = true)
    (hstore : inStore (coreAt s.m k.key) (chRow e (secIdx s.m k.key) (n / chCount e) (n % chCount e)) = true) :
    outboundBurst k.key ch.val s.m = modCore k.key (rowTaken ch.val n (chRow e (secIdx s.m k.key) (n / chCount e) (n % chCount e))
      (readTurn k.key ch.val s.m) []) s.m := by
  subst he hn
  simp only [outboundBurst, hdue, hstore, if_true]
  refine modCore_congr ?_
  simp only [rowTaken, List.append_nil]

theorem outboundBurst_reads {e : BitVec 256} {n : Nat} (he : e = tget 0 (coreAt s.m k.key).rt.chans ch.val)
    (hn : n = tget 0 (coreAt s.m k.key).rt.outCnt ch.val) (hdue : burstDue k.key ch.val s.m = true)
    (hstore : inStore (coreAt s.m k.key) (chRow e (secIdx s.m k.key) (n / chCount e) (n % chCount e)) = false)
    (hunder : underrunAt (coreAt s.m k.key) (chRow e (secIdx s.m k.key) (n / chCount e) (n % chCount e)) = false)
    (herrs : (readRow (coreAt s.m k.key) (rowAddr (chRow e (secIdx s.m k.key) (n / chCount e) (n % chCount e)))).2 = []) :
    outboundBurst k.key ch.val s.m = modCore k.key (rowTaken ch.val n (chRow e (secIdx s.m k.key) (n / chCount e) (n % chCount e))
      (readTurn k.key ch.val s.m) (rowSends e (readTurn k.key ch.val s.m)
        (readRow (coreAt s.m k.key) (rowAddr (chRow e (secIdx s.m k.key) (n / chCount e) (n % chCount e)))).1)) s.m := by
  subst he hn
  simp only [outboundBurst, hdue, hstore, hunder, herrs]
  exact modCore_modCore _ _ _ _

end

/-! ### What an output sends (R184, R190, R194) -/

/-- A router's crossbar is as it was. -/
def SameXbar (k : Nat) (s t : Mach) : Prop :=
  (coreAt t k).rt.xbarV = (coreAt s k).rt.xbarV ∧ (coreAt t k).rt.xbarS = (coreAt s k).rt.xbarS

theorem xbarEntry_same {k : Nat} {s t : Mach} (h : SameXbar k s t) (scalar : Bool) (o p : Nat) :
    xbarEntry (coreAt t k) scalar o p = xbarEntry (coreAt s k) scalar o p := by
  simp only [xbarEntry, h.1, h.2]

theorem ownSent_router (scalar : Bool) (cycle : Nat) (c : Core) :
    (∃ l, (ownSent scalar cycle c).rt = { c.rt with sends := l }) ∧ (ownSent scalar cycle c).r = c.r := by
  unfold ownSent
  dsimp only
  split
  · exact ⟨⟨_, rfl⟩, rfl⟩
  · split
    · exact ⟨⟨c.rt.sends, rfl⟩, rfl⟩
    · split
      next e _ =>
        unfold modSe
        split <;> exact ⟨⟨c.rt.sends, rfl⟩, rfl⟩
      next => exact ⟨⟨c.rt.sends, rfl⟩, rfl⟩

/-- Of n steps only one does something. -/
theorem iter_only {σ : Type} {f : Nat → σ → σ} {P : σ → Prop} {s : σ} {j : Nat} (hs : P s) (hj : P (f j s)) :
    ∀ n, (∀ o t, o < n → o ≠ j → P t → f o t = t) → iter n f s = if j < n then f j s else s := by
  intro n
  induction n with
  | zero => exact fun _ => rfl
  | succ n ih =>
    intro hother
    have hstep : iter (n + 1) f s = f n (iter n f s) := by
      simp [iter, List.range_succ, List.foldl_append]
    rw [hstep, ih (fun o t ho => hother o t (by omega))]
    by_cases hn : n = j
    · subst hn
      rw [if_neg (Nat.lt_irrefl n), if_pos (Nat.lt_succ_self n)]
    · rw [hother n _ (Nat.lt_succ_self n) hn (by split <;> assumption)]
      exact if_congr (by omega) rfl rfl

theorem switchOut_idle {k : Nat} {scalar : Bool} {phase o : Nat} {x : Inputs} {s : Mach}
    (h : xSrc1 (xbarEntry (coreAt s k) scalar o phase) = 0 ∧ xAdd (xbarEntry (coreAt s k) scalar o phase) = false) :
    switchOut k scalar phase o x s = s := by
  simp [switchOut, switched, sourceFlit, h.1, h.2]

section
variable {s : Mach} {k output phase m : Nat} {scalar : Bool} {f : NetFlit}

/-- A flight that leaves a router. -/
def launched (to_ input cycles : Nat) (scalar : Bool) (f : NetFlit) (s : Mach) : Mach :=
  { s with fab := { s.fab with flights := s.fab.flights ++ [⟨cycles, to_, input, scalar, f⟩] } }

theorem sendOn_rim (hrim : facesRim s k output = true) (hvector : scalar = false) :
    sendOn k output phase scalar f s = launched k (4 + output) 3 scalar f (foldDigest f.row f.poison s) := by
  simp only [sendOn, hrim, hvector, if_true]
  rfl

theorem sendOn_next (hrim : facesRim s k output = false) (hnext : neighbour s k output = some m) (halive : dead s m = false) :
    sendOn k output phase scalar f s = launched m ((output + 2) % 4) (hopCycles k output m) scalar f s := by
  simp only [sendOn, hrim, hnext, halive]
  rfl

theorem detourLost_iff (hnext : neighbour s k output = some m) (hdead : dead s m = true) :
    detourLost s k output phase = true ↔ (output = 1 ∨ output = 3) ∧ phase % 2 = 1 := by
  simp [detourLost, deadLink, hnext, hdead]

theorem sendOn_past {m2 : Nat} (hrim : facesRim s k output = false) (hnext : neighbour s k output = some m) (hdead : dead s m = true)
    (hkept : ¬ ((output = 1 ∨ output = 3) ∧ phase % 2 = 1)) (hbeyond : neighbour s m output = some m2) (halive : dead s m2 = false) :
    sendOn k output phase scalar f s =
      launched m2 ((output + 2) % 4) (hopCycles k output m + hopCycles m output m2 + 4) scalar f s := by
  have hlost : detourLost s k output phase = false := by
    rw [← Bool.not_eq_true, detourLost_iff hnext hdead]
    exact hkept
  simp only [sendOn, hrim, hnext, hdead, hlost, hbeyond, halive]
  rfl

theorem sendOn_lost (hrim : facesRim s k output = false) (hnext : neighbour s k output = some m) (hdead : dead s m = true)
    (hside : output = 1 ∨ output = 3) (hodd : phase % 2 = 1) :
    sendOn k output phase scalar f s =
      modDie (dieOf k) (fun d => { d with sec := { d.sec with detourDrop := satInc d.sec.detourDrop } }) s := by
  have hlost : detourLost s k output phase = true := (detourLost_iff hnext hdead).2 ⟨hside, hodd⟩
  simp only [sendOn, hrim, hnext, hdead, hlost]
  rfl

end

theorem switched_one {s : Mach} {k : Nat} {e : BitVec 16} {x : Inputs} (h : xAdd e = false) :
    switched s k e x = (sourceFlit x (xSrc1 e), false) := by
  simp [switched, h]

theorem switched_both {s : Mach} {k : Nat} {e : BitVec 16} {x : Inputs} {f g : NetFlit} (h : xAdd e = true)
    (h1 : deadLink s k (xSrc1 e - 1) = false) (h2 : deadLink s k (xSrc2 e - 1) = false) (hf : sourceFlit x (xSrc1 e) = some f)
    (hg : sourceFlit x (xSrc2 e) = some g) : switched s k e x = (some (twineFlits f g), false) := by
  simp [switched, h, h1, h2, hf, hg]

theorem switched_missing {s : Mach} {k : Nat} {e : BitVec 16} {x : Inputs} (h : xAdd e = true)
    (h1 : deadLink s k (xSrc1 e - 1) = false) (h2 : deadLink s k (xSrc2 e - 1) = false)
    (hone : (sourceFlit x (xSrc1 e)).isSome ≠ (sourceFlit x (xSrc2 e)).isSome) : switched s k e x = (none, true) := by
  cases hf : sourceFlit x (xSrc1 e) <;> cases hg : sourceFlit x (xSrc2 e) <;> simp [switched, h, h1, h2, hf, hg] at hone ⊢

/-- The core of a router with a fault. -/
def routerFaulty (kind : Nat) (c : Core) : Core := { c with r := { c.r with rfault := setBit c.r.rfault (kind - 1) } }

theorem routerFault_only (k kind : Nat) (s : Mach) :
    OnlyCore k (routerFaulty kind) (faultKept s 0x22 s.keep) s (routerFault k kind s) := by
  unfold routerFault
  extract_lets lc s0 s1 s2 w
  have h2 : OnlyCore k (routerFaulty kind) s.keep s s2 := ⟨_, s.host, s.out, _, rfl⟩
  exact (h2.logDie _ _ _ _ _ _ _).uncorrected 0x22

theorem OnlyCore.fab {k : Nat} {f : Core → Core} {κ : Keep} {s t : Mach} (h : OnlyCore k f κ s t) : t.fab = s.fab := by
  obtain ⟨_, _, _, _, rfl⟩ := h
  rfl

/-! ### A cycle of a router (R183) -/

/-- What a router's inputs carry with a flit that comes. -/
abbrev allInputs (k : CoreId) (scalar : Bool) (input : Fin 5) (flit : NetFlit) (others : Inputs) (s : Mach) : Inputs :=
  inputsOr (withFlit input.val flit others) (inputsNow s k.key scalar)

/-- Only one output of the crossbar carries something in a phase, and the cycle is one of the phase. -/
def RoutesTo (s : Mach) (k : CoreId) (scalar : Bool) (phase : Fin 4) (output : Fin 5) : Prop :=
  Live s k ∧ cycleOf s % 4 = phase.val ∧ s.fab.cycle ≤ cycleOf s ∧ ∀ o, o < 5 → o ≠ output.val →
    xSrc1 (xbarEntry (coreAt s k.key) scalar o phase.val) = 0 ∧ xAdd (xbarEntry (coreAt s k.key) scalar o phase.val) = false

theorem coreAt_tookInputs (k : Nat) (scalar : Bool) (s : Mach) :
    coreAt (tookInputs k scalar s) k = ownSent scalar (cycleOf s) (coreAt s k) :=
  (coreAt_modCore_of_cores (s := s) rfl k _).1

/-- The router of a core that has taken its inputs lost only flits to send. -/
theorem tookInputs_router (k : Nat) (scalar : Bool) (s : Mach) :
    (∃ l, (coreAt (tookInputs k scalar s) k).rt = { (coreAt s k).rt with sends := l }) ∧
      (coreAt (tookInputs k scalar s) k).r = (coreAt s k).r := by
  rw [coreAt_tookInputs]
  exact ownSent_router _ _ _

theorem tookInputs_xbar (k : Nat) (scalar : Bool) (s : Mach) : SameXbar k s (tookInputs k scalar s) := by
  obtain ⟨⟨l, hl⟩, -⟩ := tookInputs_router k scalar s
  exact ⟨by rw [hl], by rw [hl]⟩

section
variable {k : CoreId} {scalar : Bool} {phase : Fin 4} {output input : Fin 5} {flit : NetFlit} {others : Inputs} {s : State}

theorem run_inboundFlit (h : RoutesTo s.m k scalar phase output) {g : Mach → Mach}
    (hout : switchOut k.key scalar phase.val output.val (allInputs k scalar input flit others s.m) (tookInputs k.key scalar s.m) =
      g (tookInputs k.key scalar s.m)) (hxbar : SameXbar k.key (tookInputs k.key scalar s.m) (g (tookInputs k.key scalar s.m))) :
    exec (.inboundFlit k scalar phase input flit others) s = .next (after (g ∘ tookInputs k.key scalar) s) := by
  obtain ⟨⟨hroutes, hpresent, halive⟩, hphase, hcycle, honly⟩ := h
  refine run_eq_after ?_
  have hnow : nextOfPhase phase.val s.m = cycleOf s.m := by
    simp only [nextOfPhase, Nat.max_eq_left hcycle, hphase]
    omega
  have hswitch : s.m.sec.switch.isSome = false := by
    simp only [routesLive, Bool.and_eq_true, Option.isNone_iff_eq_none] at hroutes
    rw [hroutes.2]
    rfl
  simp only [inboundFlit, hpresent, halive, hswitch, hnow, toCycle_past _ _ (Nat.le_refl _), hroutes, Bool.not_true, Bool.or_false,
    Bool.false_eq_true, if_false]
  rw [Function.comp_apply, ← hout, switchAll]
  refine (iter_only (P := SameXbar k.key (tookInputs k.key scalar s.m)) (j := output.val) ⟨rfl, rfl⟩ (by rw [hout]; exact hxbar) 5
    (fun o t ho hne ht => switchOut_idle ?_)).trans (if_pos output.isLt)
  rw [xbarEntry_same ht, xbarEntry_same (tookInputs_xbar k.key scalar s.m)]
  exact honly o ho hne

/-- An output other than the core's own sends what its entry chooses. -/
theorem run_inboundFlit_sends (h : RoutesTo s.m k scalar phase output) (hside : output.val ≠ 4) {f : NetFlit} {g : Mach → Mach}
    (hsw : switched (tookInputs k.key scalar s.m) k.key (xbarEntry (coreAt s.m k.key) scalar output.val phase.val)
      (allInputs k scalar input flit others s.m) = (some f, false))
    (hsend : sendOn k.key output.val phase.val scalar f (tookInputs k.key scalar s.m) = g (tookInputs k.key scalar s.m))
    (hcores : (g (tookInputs k.key scalar s.m)).cores = (tookInputs k.key scalar s.m).cores) :
    exec (.inboundFlit k scalar phase input flit others) s = .next (after (g ∘ tookInputs k.key scalar) s) := by
  refine run_inboundFlit h ?_ ⟨by rw [coreAt_of_cores hcores], by rw [coreAt_of_cores hcores]⟩
  simp only [switchOut, xbarEntry_same (tookInputs_xbar k.key scalar s.m), hsw, hsend, if_neg hside, Bool.false_eq_true, if_false]

/-- A sum of which one flit is missing is a fault of the router, and sends nothing. -/
theorem run_inboundFlit_misses (h : RoutesTo s.m k scalar phase output)
    (hsw : switched (tookInputs k.key scalar s.m) k.key (xbarEntry (coreAt s.m k.key) scalar output.val phase.val)
      (allInputs k scalar input flit others s.m) = (none, true)) :
    exec (.inboundFlit k scalar phase input flit others) s =
      .next (after (routerFault k.key 3 ∘ tookInputs k.key scalar) s) := by
  refine run_inboundFlit h ?_ ?_
  · simp only [switchOut, xbarEntry_same (tookInputs_xbar k.key scalar s.m), hsw, if_true]
  · have hcore := (routerFault_only k.key 3 (tookInputs k.key scalar s.m)).coreAt_same
    exact ⟨by rw [hcore]; rfl, by rw [hcore]; rfl⟩

theorem twineMissing (h : RoutesTo s.m k scalar phase output)
    (hsw : switched (tookInputs k.key scalar s.m) k.key (xbarEntry (coreAt s.m k.key) scalar output.val phase.val)
      (allInputs k scalar input flit others s.m) = (none, true)) :
    ∃ t, exec (.inboundFlit k scalar phase input flit others) s = .next t ∧
      (coreAt t.m k.key).r.rfault = setBit (coreAt s.m k.key).r.rfault 2 ∧ t.m.keep.faulted = true ∧
      t.m.fab = (tookInputs k.key scalar s.m).fab := by
  have hfault := routerFault_only k.key 3 (tookInputs k.key scalar s.m)
  have hm : (after (routerFault k.key 3 ∘ tookInputs k.key scalar) s).m = routerFault k.key 3 (tookInputs k.key scalar s.m) :=
    after_m hfault.frame.1
  have hr := (tookInputs_router k.key scalar s.m).2
  refine ⟨_, run_inboundFlit_misses h hsw, ?_, ?_, ?_⟩
  · rw [hm, hfault.coreAt_same, routerFaulty, hr]
  · rw [hm, hfault.frame.2.2.1, (faultKept_faulted _ _ _).1]
  · rw [hm, hfault.fab]

theorem routerWrite_waits {k ch row : Nat} {data : Row} {s : Mach} (hstore : inStore (coreAt s k) row = false)
    (hroom : (coreAt s k).rt.wait.length < 32) : routerWrite k ch row data s = modCore k (fun c => { c with rt := { c.rt with
      wait := c.rt.wait ++ [⟨ch, ⟨rowAddr row, toBytes 64 data.toNat⟩, turnNow s + 1, false⟩] } }) s := by
  simp only [routerWrite, hstore, Bool.false_eq_true, if_false, if_neg (Nat.not_le.2 hroom)]

/-- A row that a vector flit completes at an inbound channel waits for the W slot of the next turn. -/
theorem localOut_delivers {k : Nat} {e : BitVec 16} {f : NetFlit} {s : Mach} {y : BitVec 256} {got here : Nat}
    (hy : y = tget 0 (coreAt s k).rt.chans (xChan e)) (hgot : got = tget 0 (coreAt s k).rt.inCnt (xChan e))
    (hhere : here = chRow y (secIdx s k) (got / chCount y) (got % chCount y)) (hmode : chMode y = 1) (hvector : chScalar y = false)
    (hleft : got < chCount y * chReps y) (hstore : inStore (coreAt s k) here = false) (hroom : (coreAt s k).rt.wait.length < 32) :
    localOut k false e f s = modCore k (fun c => { c with rt := { c.rt with
        inCnt := tset 0 c.rt.inCnt (xChan e) (got + 1)
        wait := c.rt.wait ++ [⟨xChan e, ⟨rowAddr here, toBytes 64 f.row.toNat⟩, turnNow s + 1, false⟩] } }) s := by
  subst hy hgot hhere
  have hF : chF (tget 0 (coreAt s k).rt.chans (xChan e)) = 1 := by simp only [chF, hvector]; rfl
  simp only [localOut, hmode, deliver, hF, Nat.one_mul, Nat.div_one, if_neg (Nat.not_le.2 hleft), Bool.false_eq_true, if_false]
  rw [routerWrite_waits (by rw [coreAt_modCore]; exact hstore) (by rw [coreAt_modCore]; exact hroom), modCore_modCore]
  rfl

/-- A router that hands a flit to an inbound channel of its core. -/
theorem run_inboundFlit_delivers {f : NetFlit} {y : BitVec 256} {got here : Nat} (h : RoutesTo s.m k false phase output)
    (hlocal : output.val = 4) (hadd : xAdd (xbarEntry (coreAt s.m k.key) false output.val phase.val) = false)
    (hsource : sourceFlit (allInputs k false input flit others s.m) (xSrc1 (xbarEntry (coreAt s.m k.key) false output.val phase.val)) =
      some f)
    (hy : y = tget 0 (coreAt s.m k.key).rt.chans (xChan (xbarEntry (coreAt s.m k.key) false output.val phase.val)))
    (hgot : got = tget 0 (coreAt s.m k.key).rt.inCnt (xChan (xbarEntry (coreAt s.m k.key) false output.val phase.val)))
    (hhere : here = chRow y (secIdx s.m k.key) (got / chCount y) (got % chCount y)) (hmode : chMode y = 1) (hvector : chScalar y = false)
    (hleft : got < chCount y * chReps y) (hstore : inStore (coreAt s.m k.key) here = false)
    (hroom : (coreAt s.m k.key).rt.wait.length < 32) :
    exec (.inboundFlit k false phase input flit others) s = .next (after (modCore k.key (fun c => { c with rt := { c.rt with
        inCnt := tset 0 c.rt.inCnt (xChan (xbarEntry (coreAt s.m k.key) false output.val phase.val)) (got + 1)
        wait := c.rt.wait ++ [⟨xChan (xbarEntry (coreAt s.m k.key) false output.val phase.val),
          ⟨rowAddr here, toBytes 64 f.row.toNat⟩, turnNow s.m + 1, false⟩] } }) ∘ tookInputs k.key false) s) := by
  obtain ⟨⟨l, hrt⟩, hr⟩ := tookInputs_router k.key false s.m
  refine run_inboundFlit h ?_ (by rw [SameXbar, coreAt_modCore]; exact ⟨rfl, rfl⟩)
  simp only [switchOut, xbarEntry_same (tookInputs_xbar k.key false s.m), switched_one hadd, hsource, Bool.false_eq_true, if_false]
  rw [if_pos hlocal]
  exact localOut_delivers (by rw [hrt]; exact hy) (by rw [hrt]; exact hgot) hhere hmode hvector hleft
    (by rw [inStore, hr]; exact hstore) (by rw [hrt]; exact hroom)

theorem foldDigest_cores (f : Row) (poison : Bool) (s : Mach) : (foldDigest f poison s).cores = s.cores := by
  unfold foldDigest
  split <;> rfl

end

/-! ### Rows of the rim (R184, R217) -/

theorem rimWait_idle {s : Mach} {k dir phase : Nat} (hnone : s.fab.flights = []) (hcycle : s.fab.cycle ≤ cycleOf s) :
    rimWait s k dir phase = (phase + 4 - cycleOf s % 4) % 4 + 3 := by
  simp [rimWait, hnone, Nat.max_eq_left hcycle, rimCycles]

section
variable {unit die link phase key : Nat} {side : Side} {f : NetFlit} {s : Mach}

theorem rimSend_dark (hcore : rimCore s die side link = some key) (hroutes : routesLive s = false) :
    rimSend unit die side link phase f s = emit (.rimRow unit link phase f.row f.poison f.rej) s := by
  simp [rimSend, hcore, hroutes]

theorem rimSend_live (hcore : rimCore s die side link = some key) (hroutes : routesLive s = true) (hnone : s.fab.flights = [])
    (hcycle : s.fab.cycle ≤ cycleOf s) :
    rimSend unit die side link phase f s = { emit (.rimRow unit link phase f.row f.poison f.rej) s with
      fab := { (emit (.rimRow unit link phase f.row f.poison f.rej) s).fab with
        flights := [⟨(phase + 4 - cycleOf s % 4) % 4 + 3, key, sideInput die side, false, f⟩] } } := by
  have hflights : (emit (.rimRow unit link phase f.row f.poison f.rej) s).fab.flights = [] := hnone
  simp only [rimSend, hcore, hroutes, rimWait_idle hnone hcycle, hflights, List.nil_append, Bool.not_true, Bool.false_eq_true,
    if_false]

end

/-! ### Switches and filled flags (R177, R198) -/

theorem inboundFlit_dropped {k : Nat} {scalar : Bool} {phase : Nat} {x : Inputs} {s : Mach} (hpresent : present s k = true)
    (halive : dead s k = false) (hsw : s.sec.switch.isSome = true) :
    inboundFlit k scalar phase x s = dropFlits k (inputCount x) s := by
  simp [inboundFlit, hpresent, halive, hsw]

theorem flagExpire_due {k b : Nat} {s : Mach} (hset : bit (coreAt s k).fl.flags b = true)
    (hlimit : bufExpire (tget 0 (coreAt s k).rt.bufs b) ≠ 0)
    (hdue : tget 0 (coreAt s k).fl.setAt b + bufExpire (tget 0 (coreAt s k).rt.bufs b) ≤ secIdx s k) :
    flagExpire k b s = modCore k (fun c => { c with fl := { c.fl with flags := clrBit c.fl.flags b } }) s := by
  unfold flagExpire
  exact if_pos (by rw [hset, decide_eq_true hlimit, decide_eq_true hdue]; rfl)

/-- Settles O10: each clause by the one output, channel or attachment that it is about. -/
theorem routersAndChannelsMoveFlits : Obligations.RoutersAndChannelsMoveFlits := by
  intro k ch b phase output scalar input flit others s c e n row turn burst read ins cmd x source only flies took live routes
  refine ⟨?_, ?_, ?_, ?_, ?_, ?_, ?_, ?_, ?_⟩
  · intro hlive hmode hn hturn
    have hdue : burstDue k.key ch.val s.m = true := burstDue_live hlive hmode hn
    refine ⟨fun hstore hunder herrs => ?_, fun hstore => ?_⟩
    · exact run_outboundBurst hdue hturn (outboundBurst_reads rfl rfl hdue hstore hunder herrs)
    · exact run_outboundBurst hdue hturn (outboundBurst_inStore rfl rfl hdue hstore)
  · intro f m hroutes hside hrim hnext halive
    refine ⟨fun hadd hsource => ?_, fun g hadd h1 h2 hf hg => ?_⟩
    · exact run_inboundFlit_sends hroutes hside ((switched_one hadd).trans (congrArg (·, false) hsource))
        (sendOn_next hrim hnext halive) rfl
    · exact run_inboundFlit_sends hroutes hside (switched_both hadd h1 h2 hf hg) (sendOn_next hrim hnext halive) rfl
  · intro f m hroutes hside hrim hnext hdead hadd hsource
    have hsw := (switched_one (s := took s.m) (k := k.key) (x := ins) hadd).trans (congrArg (·, false) hsource)
    refine ⟨fun m2 hkept hbeyond halive => ?_, fun hhorizontal hodd => ?_⟩
    · exact run_inboundFlit_sends hroutes hside hsw (sendOn_past hrim hnext hdead hkept hbeyond halive) rfl
    · exact run_inboundFlit_sends hroutes hside hsw (sendOn_lost hrim hnext hdead hhorizontal hodd) rfl
  · intro hroutes hside hadd h1 h2 hone
    exact twineMissing hroutes (switched_missing hadd h1 h2 hone)
  · intro f i y got here hroutes hlocal hadd hsource hscalar hmode hvector hleft hstore hroom
    subst hscalar
    exact run_inboundFlit_delivers hroutes hlocal hadd hsource rfl rfl rfl hmode hvector hleft hstore hroom
  · intro f hroutes hside hrim hadd hsource hscalar
    exact run_inboundFlit_sends (g := launched k.key (4 + output.val) 3 scalar f ∘ foldDigest f.row f.poison) hroutes hside
      ((switched_one hadd).trans (congrArg (·, false) hsource)) (sendOn_rim hrim hscalar) (foldDigest_cores _ _ _)
  · exact fun hpresent halive hsw => run_eq_after (inboundFlit_dropped hpresent halive hsw)
  · intro unit die link ph key side f hcore sent
    exact ⟨fun hroutes => rimSend_dark hcore hroutes, fun hroutes hnone hcycle => rimSend_live hcore hroutes hnone hcycle⟩
  · exact fun hset hlimit hdue => run_eq_after (flagExpire_due hset hlimit hdue)

end Sys2Proof.Spec
end

section
/-! PROOFS. Stream engines: block lists, their blocks and tracker copies (R59, R101, R222 to R235). -/

namespace Sys2Proof.Spec

open Sys2Proof.Machine

/-! ### The engine's part of a core -/

@[simp] theorem seAt_modSe (e : Nat) (f : Stream → Stream) (c : Core) : seAt (modSe e f c) e = f (seAt c e) := by
  unfold seAt modSe
  split <;> rfl

@[simp] theorem modSe_modSe (e : Nat) (f g : Stream → Stream) (c : Core) :
    modSe e f (modSe e g c) = modSe e (fun t => f (g t)) c := by
  unfold modSe
  split <;> rfl

theorem modSe_congr {e : Nat} {f g : Stream → Stream} {c : Core} (h : f (seAt c e) = g (seAt c e)) : modSe e f c = modSe e g c := by
  unfold seAt at h
  unfold modSe
  split at h
  next he => rw [if_pos he, if_pos he, h]
  next he => rw [if_neg he, if_neg he, h]

@[simp] theorem chanOfMode_modSe (e m : Nat) (f : Stream → Stream) (c : Core) : chanOfMode (modSe e f c) m = chanOfMode c m := by
  unfold modSe
  split <;> rfl

/-- A list in progress that is changed. -/
theorem modList_some {e : Nat} {l : SList} {f : SList → SList} {c : Core} (h : (seAt c e).list = some l) :
    modList e f c = modSe e (fun t => { t with list := some (f l) }) c :=
  modSe_congr (by rw [h]; rfl)

theorem writePieces_streams (ps : List Piece) : ∀ c : Core, (writePieces ps c).se0 = c.se0 ∧ (writePieces ps c).se1 = c.se1 ∧
    (writePieces ps c).rt = c.rt := by
  induction ps with
  | nil => exact fun c => ⟨rfl, rfl, rfl⟩
  | cons p ps ih => exact fun c => ih (writeSp p.addr p.data c)

@[simp] theorem seAt_dmaSlot (c : Core) (e : Nat) : seAt (dmaSlot c) e = seAt c e := by
  obtain ⟨h0, h1, -⟩ := writePieces_streams c.dma c
  rw [dmaSlot_eq]
  simp only [seAt, h0, h1]

@[simp] theorem chanOfMode_dmaSlot (c : Core) (m : Nat) : chanOfMode (dmaSlot c) m = chanOfMode c m := by
  rw [dmaSlot_eq]
  exact congrArg (fun r : Router => r.chans.find? (fun e => chMode e.2 == m)) (writePieces_streams c.dma c).2.2

/-! ### SLIST and TCOPY start (R59, R105, R223, R235) -/

section
variable {k : CoreId} {e : Fin 2} {q : QDesc} {s : Mach}

theorem slistStart_atHead (hhold : s.rnd.hold = false) (h : AtHead s k (2 + e.val) 0x40 q) (hlist : (seAt (coreAt s k.key) e.val).list = none)
    (htcopy : (seAt (coreAt s k.key) e.val).tcopy = none) :
    slistStart k.key e.val s = modCore k.key (fun c => modSe e.val (fun t =>
      { t with list := some ⟨q, dB q.d 4 4, 0, 0, 0, false, []⟩ }) (popped (2 + e.val) c)) s := by
  simp [slistStart, queueHead_of_atHead h, mayStream, hhold, seIdle, hlist, htcopy, h.2.2, popQueue_eq_popped]

theorem tcopyStart_atHead (hhold : s.rnd.hold = false) (h : AtHead s k (2 + e.val) 0x41 q) (hlist : (seAt (coreAt s k.key) e.val).list = none)
    (htcopy : (seAt (coreAt s k.key) e.val).tcopy = none) :
    tcopyStart k.key e.val s = modCore k.key (fun c => modSe e.val (fun t => { t with
        tcopy := some ⟨q, tick s + 16 * ceilDiv (ceilDiv (dB q.d 10 2) 8) 16 + 16⟩
        wait := t.wait ++ (pieces (dB q.d 4 4) ((List.range (dB q.d 10 2)).flatMap (fun i =>
          trackerBytes (tget Tracker.reset (dieAt s (dieOf k.key)).trk.snap (dB q.d 8 1 + i))))).map
            (fun p => ⟨0, p, turnNow s + 1, false⟩) }) (popped (2 + e.val) c)) s := by
  simp [tcopyStart, queueHead_of_atHead h, mayStream, hhold, seIdle, hlist, htcopy, h.2.2, popQueue_eq_popped]

theorem slistStart_hold (hhold : s.rnd.hold = true) : slistStart k.key e.val s = s := by
  simp only [slistStart, mayStream, hhold]
  cases queueHead (coreAt s k.key) (2 + e.val) <;> rfl

theorem tcopyStart_hold (hhold : s.rnd.hold = true) : tcopyStart k.key e.val s = s := by
  simp only [tcopyStart, mayStream, hhold]
  cases queueHead (coreAt s k.key) (2 + e.val) <;> rfl

end

/-! ### Block descriptors (R101, R223 to R225) -/

/-- The engine's list may fetch its next descriptor, and reads it without an error. -/
structure FetchesBlock (s : Mach) (k : CoreId) (e : Fin 2) (l : SList) : Prop where
  list : (seAt (coreAt s k.key) e.val).list = some l
  more : l.last = false
  room : l.inflight.length < 4
  left : l.fetched < dB l.q.d 16 2
  fits : l.next + 32 ≤ 0x10000
  clean : (readNarrow (dmaSlot (coreAt s k.key)) l.next 32).2 = []

/-- The descriptor that it fetches. -/
def fetchedWord (s : Mach) (k : CoreId) (l : SList) : Nat := (readNarrow (dmaSlot (coreAt s k.key)) l.next 32).1

section
variable {k : CoreId} {e : Fin 2} {l : SList} {s : Mach} (h : FetchesBlock s k e l)
include h

/-- The list moves to its link. -/
theorem blockFetch_link (hruns : bkRuns (BitVec.ofNat 256 (fetchedWord s k l)) = 0) (hlink : fetchedWord s k l < 2 ^ 16 ∧ fetchedWord s k l % 32 = 0) :
    blockFetch k.key e.val s = modCore k.key (fun c => modSe e.val (fun t =>
      { t with list := some { l with fetched := l.fetched + 1, next := fetchedWord s k l } }) (dmaSlot c)) s := by
  obtain ⟨hlist, hmore, hroom, hleft, hfits, hclean⟩ := h
  unfold fetchedWord at *
  simp only [blockFetch, hlist, hmore, hclean, decide_eq_false (Nat.not_le.2 hroom), Bool.or_false, Bool.false_eq_true, if_false,
    if_neg (Nat.not_le.2 hleft), if_neg (Nat.not_lt.2 hfits), hruns, if_true, if_pos hlink]
  refine (modCore_modCore _ _ _ _).trans (modCore_congr ?_)
  rw [modList_some (by rw [seAt_dmaSlot]; exact hlist), hmore]

/-- A block that passed its checks starts. -/
theorem blockFetch_starts (hruns : bkRuns (BitVec.ofNat 256 (fetchedWord s k l)) ≠ 0) (hok : blockOk (BitVec.ofNat 256 (fetchedWord s k l)) = true)
    (hord : ordWaits s k.key e.val l (BitVec.ofNat 256 (fetchedWord s k l)) = false) :
    blockFetch k.key e.val s = startBlock k.key e.val l (BitVec.ofNat 256 (fetchedWord s k l))
      (modCore k.key (fun c => modSe e.val (fun t =>
        { t with list := some { l with fetched := l.fetched + 1, next := l.next + 32 } }) (dmaSlot c)) s) := by
  obtain ⟨hlist, hmore, hroom, hleft, hfits, hclean⟩ := h
  unfold fetchedWord at *
  simp only [blockFetch, hlist, hmore, hclean, decide_eq_false (Nat.not_le.2 hroom), Bool.or_false, Bool.false_eq_true, if_false,
    if_neg (Nat.not_le.2 hleft), if_neg (Nat.not_lt.2 hfits), if_neg hruns, hok, hord, if_true]
  refine congrArg (startBlock _ _ _ _) ((modCore_modCore _ _ _ _).trans (modCore_congr ?_))
  rw [modList_some (by rw [seAt_dmaSlot]; exact hlist), hmore]

end

theorem ordWaits_local {s : Mach} {k e : Nat} {l : SList} {d : OpDesc} (hsrc : bkSpace d 0 < 2) (hdst : bkSpace d 8 = 0) :
    ordWaits s k e l d = false := by
  have h : bkSpace d 0 ≠ 2 := by omega
  simp [ordWaits, hdst, h]

/-- The list with a block that has started. -/
def blockStarted (l : SList) (d : OpDesc) (turn : Nat) : SList :=
  { l with fetched := l.fetched + 1, next := l.next + 32, blocks := l.blocks + 1, last := bkLast d,
           inflight := l.inflight ++ [{ no := l.blocks, desc := d, run := 0, src := [], conv := 0, dst := [], wrote := 0, read := 0,
                                        turn := turn + 1, ready := false }] }

section
variable {k : CoreId} {e : Fin 2} {l : SList} {d : OpDesc} {s : Mach}

/-- The core whose engine has moved past a block's descriptor. -/
def descriptorRead (e : Nat) (l : SList) : Core → Core :=
  fun c => modSe e (fun t => { t with list := some { l with fetched := l.fetched + 1, next := l.next + 32 } }) (dmaSlot c)

theorem startBlock_local (hsrc : bkSpace d 0 = 0) (hdst : bkSpace d 8 = 0) :
    startBlock k.key e.val l d (modCore k.key (descriptorRead e.val l) s) =
      modCore k.key (fun c => modSe e.val (fun t => { t with list := some (blockStarted l d (turnNow s)) }) (dmaSlot c)) s := by
  simp only [startBlock, blkRequest, hsrc, hdst]
  refine (modCore_modCore _ _ _ _).trans (modCore_congr ?_)
  rw [descriptorRead, modList_some (by rw [seAt_modSe]), modSe_modSe]
  rfl

theorem outInsert_last {x : OutFlit} : ∀ {out : List OutFlit}, (∀ y ∈ out, y.blk ≤ x.blk) → outInsert x out = out ++ [x] := by
  intro out
  induction out with
  | nil => exact fun _ => rfl
  | cons y t ih =>
    intro h
    obtain ⟨hy, ht⟩ := List.forall_mem_cons.1 h
    rw [outInsert, if_neg (Nat.not_lt.2 hy), ih ht, List.cons_append]

theorem startBlock_reads {ch : Nat} {w : BitVec 256} (hsrc : bkSpace d 0 = 1) (hdst : bkSpace d 8 = 0) (htr : bkTr d = false)
    (hout : ∀ y ∈ (seAt (coreAt s k.key) e.val).out, y.blk ≤ l.blocks)
    (hchan : chanOfMode (coreAt s k.key) (5 + e.val) = some (ch, w)) :
    startBlock k.key e.val l d (modCore k.key (descriptorRead e.val l) s) =
      modCore k.key (fun c => modSe e.val (fun t => { t with
        list := some (blockStarted l d (turnNow s))
        out := t.out ++ [⟨l.blocks, requestFlit 1 0 (retField (coreAt s k.key) e.val false) (fld l.q.d 64 32 + BitVec.ofNat 32 l.blocks)
          (bkAddr d 0) (bkSrcBytes d) (bkRuns d) (mlcOf s k.key) (bkSs d), ceilDiv (bkSrcBytes d) 64 * bkRuns d⟩] }) (dmaSlot c)) s := by
  simp only [startBlock, blkRequest, hsrc, hdst, htr]
  refine (modCore_modCore _ _ _ _).trans (modCore_congr ?_)
  have hret : retField (descriptorRead e.val l (coreAt s k.key)) e.val false = retField (coreAt s k.key) e.val false := by
    rw [retField, retField, descriptorRead, chanOfMode_modSe, chanOfMode_dmaSlot]
  have hmlc : mlcOf (modCore k.key (descriptorRead e.val l) s) k.key = mlcOf s k.key := rfl
  simp only [hret, hmlc, Bool.false_eq_true, if_false]
  rw [descriptorRead, modList_some (by rw [seAt_modSe]), modSe_modSe, seSend, chanOfMode_modSe, chanOfMode_dmaSlot, hchan,
    Option.isSome_some, if_pos rfl, modSe_modSe]
  refine modSe_congr ?_
  rw [seAt_dmaSlot, outInsert_last hout]
  rfl

/-! ### Flits of a stream channel (R217, R231) -/

theorem outSent_cons {t : Stream} {o : OutFlit} {rest : List OutFlit} (h : t.out = o :: rest) :
    outSent t = { t with out := rest, await := t.await ++ (if o.asks = 0 then [] else [⟨some o.blk, o.asks⟩]) } := by
  simp only [outSent, h]
  split
  · rw [List.append_nil]
  · rfl

/-- The list with a block that is ready. -/
def blockReadied (l : SList) (no : Nat) : SList :=
  { l with inflight := l.inflight.map (fun y => if y.no == no then { y with ready := true } else y) }

theorem seRow_reply {r : Row} {rest : List Await} {bk : Blk} (hlist : (seAt (coreAt s k.key) e.val).list = some l)
    (hawait : (seAt (coreAt s k.key) e.val).await = ⟨some bk.no, 1⟩ :: rest)
    (hfind : l.inflight.find? (fun y => y.no == bk.no) = some bk) (hsrc : bkSpace bk.desc 0 = 0) :
    seRow k.key e.val r false false s = modCore k.key (modSe e.val (fun t =>
      { t with await := rest, list := some (blockReadied l bk.no) })) s := by
  simp only [seRow, hawait, hlist, hfind, hsrc, Bool.false_eq_true, if_false, if_true, Nat.le_refl]
  refine (modCore_modCore _ _ _ _).trans (modCore_congr ?_)
  rw [modBlk, modList_some (by rw [seAt_modSe]; exact hlist), modSe_modSe]
  rfl

theorem seRow_absorbed {r : Row} {poison rej : Bool} {rest : List Await}
    (hawait : (seAt (coreAt s k.key) e.val).await = ⟨none, 1⟩ :: rest) :
    seRow k.key e.val r poison rej s = modCore k.key (modSe e.val (fun t => { t with await := rest })) s := by
  simp only [seRow, hawait, Nat.le_refl, if_true]

theorem streamFlit_of_no_switch {r : Row} {poison rej : Bool} (hsw : s.sec.switch = none) :
    streamFlit k.key e.val r poison rej s = seRow k.key e.val r poison rej s := by
  simp [streamFlit, hsw]

/-! ### Blocks and copies that end (R223, R230, R235) -/

theorem blockBusy_written {c : Core} {bk : Blk} (hlist : (seAt c e.val).list = some l) (hdone : nextDone l = some bk)
    (hwait : (seAt c e.val).wait = []) : blockBusy e.val c = false := by
  simp [blockBusy, hlist, hdone, hwait]

section
variable {bk : Blk} (hlist : (seAt (coreAt s k.key) e.val).list = some l) (hdone : nextDone l = some bk)
  (hwait : (seAt (coreAt s k.key) e.val).wait = []) (hact : bkAct bk.desc = 0)
include hlist hdone hwait hact

theorem blockComplete_more (hlast : l.last = false) :
    blockComplete k.key e.val s = modCore k.key (modSe e.val (fun t =>
      { t with list := some { l with inflight := l.inflight.filter (fun y => y.no != bk.no) } })) s := by
  simp only [blockComplete, hlist, Option.bind_some, hdone, blockBusy_written hlist hdone hwait, endBlock, hact, if_neg Nat.zero_ne_one]
  refine modCore_congr ?_
  rw [modList_some hlist]
  simp [hlast]

theorem blockComplete_last (hlast : l.last = true) (hone : l.inflight = [bk]) :
    blockComplete k.key e.val s = modCore k.key (fun c => counted (2 + e.val) (modSe e.val (fun t => { t with list := none }) c)) s := by
  simp only [blockComplete, hlist, Option.bind_some, hdone, blockBusy_written hlist hdone hwait, endBlock, hact, if_neg Nat.zero_ne_one]
  refine modCore_congr ?_
  rw [modList_some hlist]
  simp [hlast, hone, countDone_eq_counted]

end

theorem tcopyComplete_written {r : TcopyRun} (hcopy : (seAt (coreAt s k.key) e.val).tcopy = some r)
    (hwait : (seAt (coreAt s k.key) e.val).wait = []) :
    tcopyComplete k.key e.val s = modCore k.key (fun c => counted (2 + e.val) (modSe e.val (fun t => { t with tcopy := none }) c)) s := by
  simp [tcopyComplete, hcopy, hwait, countDone_eq_counted]

end

theorem bytes_of_snapshot (q : QDesc) (bs : List Byte) (c : Core) (hlen : bs.length = 8 * dB q.d 10 2) :
    rdBytes (writePieces (pieces (dB q.d 4 4) bs) c).sp (dB q.d 4 4) (8 * dB q.d 10 2) = bs ∧
      ∀ a, (a < dB q.d 4 4 ∨ dB q.d 4 4 + 8 * dB q.d 10 2 ≤ a) → rd (writePieces (pieces (dB q.d 4 4) bs) c).sp a = rd c.sp a := by
  rw [writePieces_sp, putPieces_pieces, ← hlen]
  exact ⟨rdBytes_wrBytes bs c.sp _, fun a ha => rd_wrBytes_outside bs c.sp _ a ha⟩

/-- A command of an engine while no section switch runs. -/
theorem run_whenActive {f g : Mach → Mach} {s : State} (hsw : s.m.sec.switch = none) (hf : f s.m = g s.m) :
    run (whenActive f) s = .next (after g s) :=
  run_eq_after (by rw [whenActive_of_no_switch hsw, hf])

theorem run_tcopyComplete {k : CoreId} {e : Fin 2} {s : State} {r : TcopyRun} (hsw : s.m.sec.switch = none)
    (hcopy : (seAt (coreAt s.m k.key) e.val).tcopy = some r) (hwait : (seAt (coreAt s.m k.key) e.val).wait = []) (hend : r.ends ≤ tick s.m) :
    exec (.tcopyComplete k e) s = .next (after (modCore k.key (fun c => counted (2 + e.val)
      (modSe e.val (fun t => { t with tcopy := none }) c))) s) := by
  refine run_ended (busy := tcopyBusy e.val) (ends := tcopyEnds e.val) (e := r.ends) ⟨hsw, hend⟩ ?_ ?_ (tcopyComplete_written hcopy hwait)
  · simp [tcopyBusy, hwait]
  · simp [tcopyEnds, hcopy]

/-- Settles O11: each clause by what the engine's command does to its stream. -/
theorem streamEnginesRunBlockLists : Obligations.StreamEnginesRunBlockLists := by
  intro k e q l s hsw c st dma x d fetches b l2 readied
  have hdma : dma = dmaSlot := funext (fun c => (dmaSlot_eq c).symm)
  have hfetches (h : fetches) : FetchesBlock s.m k e l := by
    obtain ⟨hlist, hmore, hroom, hleft, hfits, hclean⟩ := h
    exact ⟨hlist, hmore, hroom, hleft, hfits, by rw [dmaSlot_eq]; exact hclean⟩
  have hword : x.1 = fetchedWord s.m k l := by rw [fetchedWord, dmaSlot_eq]
  have hd : d = BitVec.ofNat 256 (fetchedWord s.m k l) := congrArg (BitVec.ofNat 256) hword
  refine ⟨?_, ?_, ?_, ?_, ?_, ?_, ?_, ?_, ?_, ?_, ?_, ?_, ?_⟩
  · exact fun hhold h hlist htcopy => run_whenActive hsw (slistStart_atHead hhold h hlist htcopy)
  · exact fun hhold h hlist htcopy => run_whenActive hsw (tcopyStart_atHead hhold h hlist htcopy)
  · intro hhold
    exact ⟨run_unchanged (by rw [whenActive_of_no_switch hsw, slistStart_hold hhold]),
      run_unchanged (by rw [whenActive_of_no_switch hsw, tcopyStart_hold hhold])⟩
  · intro h hruns hbelow haligned
    rw [hdma, hword]
    exact run_whenActive hsw (blockFetch_link (hfetches h) (by rw [← hd]; exact hruns) (by rw [← hword]; exact ⟨hbelow, haligned⟩))
  · intro h hruns hok hsrc hdst
    rw [hdma]
    refine run_whenActive hsw ((blockFetch_starts (hfetches h) (by rw [← hd]; exact hruns) (by rw [← hd]; exact hok) ?_).trans ?_)
    · exact ordWaits_local (by rw [← hd, hsrc]; decide) (by rw [← hd]; exact hdst)
    · rw [← hd]
      exact startBlock_local hsrc hdst
  · intro ch w h hout hruns hok hsrc hdst htr hchan
    rw [hdma]
    refine run_whenActive hsw ((blockFetch_starts (hfetches h) (by rw [← hd]; exact hruns) (by rw [← hd]; exact hok) ?_).trans ?_)
    · exact ordWaits_local (by rw [← hd, hsrc]; decide) (by rw [← hd]; exact hdst)
    · rw [← hd]
      refine (startBlock_reads hsrc hdst htr hout hchan).trans (modCore_congr (modSe_congr ?_))
      have hstarted : blockStarted l d (turnNow s.m) = l2 := rfl
      rw [hstarted]
  · exact fun o rest h => outSent_cons h
  · exact fun r rest bk hlist hawait hfind hsrc => run_eq_after
      ((streamFlit_of_no_switch hsw).trans (seRow_reply hlist hawait hfind hsrc))
  · exact fun r poison rej rest hawait => run_eq_after ((streamFlit_of_no_switch hsw).trans (seRow_absorbed hawait))
  · intro bk hlist hdone hwait hact hlast
    refine run_whenActive hsw ?_
    rw [awaitSlots_idle _ _ (blockBusy_written hlist hdone hwait)]
    exact blockComplete_more hlist hdone hwait hact hlast
  · intro bk hlist hdone hwait hact hlast hone
    refine run_whenActive hsw ?_
    rw [awaitSlots_idle _ _ (blockBusy_written hlist hdone hwait)]
    exact blockComplete_last hlist hdone hwait hact hlast hone
  · exact fun r hcopy hwait hend => run_tcopyComplete hsw hcopy hwait hend
  · rintro bs w - hlen rfl
    exact bytes_of_snapshot q bs c hlen

end Sys2Proof.Spec
end

section
/-! PROOFS. Reads and writes of edge memory without an error, and what a stack performs (R207, R210 to R214, R218). -/

namespace Sys2Proof.Spec

open Sys2Proof.Machine

/-! ### Bytes read in a row -/

theorem rdBytes_length (m : Mem) : ∀ (n a : Nat), (rdBytes m a n).length = n := by
  intro n
  induction n with
  | zero => exact fun _ => rfl
  | succ n ih => exact fun a => congrArg (· + 1) (ih (a + 1))

theorem rdBytes_add (m : Mem) (j : Nat) : ∀ (n a : Nat), rdBytes m a (n + j) = rdBytes m a n ++ rdBytes m (a + n) j := by
  intro n
  induction n with
  | zero => intro a; rw [Nat.zero_add]; rfl
  | succ n ih => intro a; rw [Nat.add_right_comm, rdBytes, ih, rdBytes, List.cons_append, Nat.add_right_comm, Nat.add_assoc]

theorem drop_rdBytes (m : Mem) {n j : Nat} (a : Nat) (h : j ≤ n) : (rdBytes m a n).drop j = rdBytes m (a + j) (n - j) := by
  obtain ⟨i, rfl⟩ := Nat.exists_eq_add_of_le h
  rw [rdBytes_add, List.drop_left' (rdBytes_length m j a), Nat.add_sub_cancel_left]

theorem take_rdBytes (m : Mem) {n j : Nat} (a : Nat) (h : j ≤ n) : (rdBytes m a n).take j = rdBytes m a j := by
  obtain ⟨i, rfl⟩ := Nat.exists_eq_add_of_le h
  rw [rdBytes_add, List.take_left' (rdBytes_length m j a)]

/-! ### Reads without an error (R387, R414) -/

/-- Bytes that no error marks. -/
def clean (bs : List Byte) : List (Byte × Bool) := bs.map (fun b => (b, false))

theorem edgeDecode_good {s : Mach} {cw : Nat} (h : GoodCw s cw) : edgeDecode s cw = (rdBytes s.edge.mem (32 * cw) 32, .clean) := by
  obtain ⟨hpoison, hck⟩ := h
  have hdiff : (ckDiff s cw).all (· == 0) = true := by
    simp only [ckDiff, List.all_map, List.all_eq_true, List.mem_range]
    intro j hj
    rw [Function.comp_apply, hck j hj]
    rfl
  simp only [edgeDecode, hpoison, hdiff, ne_eq, not_true, if_false, if_true]

theorem readCws_good {src : Nat} {s : Mach} : ∀ (n cw : Nat), (∀ i, i < n → GoodCw s (cw + i)) →
    (readCws src cw n s).2 = s ∧
      (readCws src cw n s).1.flatMap (fun x => x.1.map (fun b => (b, x.2))) = clean (rdBytes s.edge.mem (32 * cw) (32 * n)) := by
  intro n
  induction n with
  | zero => exact fun _ _ => ⟨rfl, rfl⟩
  | succ n ih =>
    intro cw h
    have hcw : edgeDecode s cw = (rdBytes s.edge.mem (32 * cw) 32, .clean) := edgeDecode_good (h 0 (by omega))
    obtain ⟨hs, hbs⟩ := ih (cw + 1) (fun i hi => by rw [Nat.add_assoc, Nat.add_comm 1 i]; exact h (i + 1) (by omega))
    simp only [readCws, hcw, edgeNote]
    refine ⟨hs, ?_⟩
    rw [List.flatMap_cons, hbs, show 32 * (n + 1) = 32 + 32 * n by omega, rdBytes_add, clean, clean, List.map_append,
      show 32 * cw + 32 = 32 * (cw + 1) by omega]
    rfl

theorem readEdge_good {src ea n : Nat} {s : Mach} (h : GoodRange s ea n) :
    readEdge src ea n s = (clean (rdBytes s.edge.mem ea n), s) := by
  unfold readEdge
  by_cases hn : n = 0
  · subst hn
    rfl
  · obtain ⟨hs, hbs⟩ := readCws_good (src := src) (s := s) ((ea + n - 1) / 32 - ea / 32 + 1) (ea / 32)
      (fun i hi => h _ (by omega) (by omega))
    simp only [if_neg hn, hs, hbs]
    rw [clean, ← List.map_drop, ← List.map_take, drop_rdBytes _ _ (by omega), take_rdBytes _ _ (by omega),
      show 32 * (ea / 32) + ea % 32 = ea by omega]
    rfl

theorem readRuns_good {src : Nat} {s : Mach} : ∀ (runs : List (Nat × Nat)), (∀ r ∈ runs, GoodRange s r.1 r.2) →
    readRuns src runs s = (runs.map (fun r => clean (rdBytes s.edge.mem r.1 r.2)), s) := by
  intro runs
  induction runs with
  | nil => exact fun _ => rfl
  | cons r t ih =>
    intro h
    obtain ⟨hr, ht⟩ := List.forall_mem_cons.1 h
    simp only [readRuns, readEdge_good hr, ih ht, List.map_cons]

/-! ### What a slot performs (R210, R212) -/

theorem serveFirst_none {cls : Nat} {k : Stack} (h : ∀ w ∈ k.work, w.cls ≠ cls) : serveFirst cls k = none := by
  have hnone : k.work.find? (fun w => w.cls == cls) = none := List.find?_eq_none.2 (fun w hw => by simpa using h w hw)
  simp only [serveFirst, hnone]

/-- No work of the class that owns the slot. -/
theorem serveOne_none {e : Edge} {k : Stack} (h : ∀ w ∈ k.work, w.cls ≠ slotClass e k.slot.toNat ∧ (slotClass e k.slot.toNat = 2 → w.cls ≠ 3)) :
    serveOne e k = none := by
  unfold serveOne
  dsimp only
  split
  next hc =>
    rw [serveFirst_none (fun w hw => by rw [← hc]; exact (h w hw).1), serveFirst_none (fun w hw => (h w hw).2 hc)]
    rfl
  next => exact serveFirst_none (fun w hw => (h w hw).1)

theorem serveSlot_none {e : Edge} {k : Stack} (h : serveOne e k = none) (n : Nat) : serveSlot e n k = k := by
  cases n with
  | zero => rfl
  | succ n => simp only [serveSlot, h]

theorem serveSlot_idle {e : Edge} {k : Stack} (h : k.work = []) (n : Nat) : serveSlot e n k = k :=
  serveSlot_none (serveOne_none (by rw [h]; exact fun w hw => absurd hw List.not_mem_nil)) n

/-- What serving leaves of a stack: only bursts, counts, work, answers, and what waits to become answers change. -/
def StackServed (k k' : Stack) : Prop := ∃ w b rd wr rm a rj sq,
  k' = { k with work := w, bursts := b, rdu := rd, wru := wr, rmu := rm, answers := a, rejects := rj, squares := sq }

theorem StackServed.refl (k : Stack) : StackServed k k := ⟨_, _, _, _, _, _, _, _, rfl⟩

theorem StackServed.trans {a b c : Stack} (h : StackServed a b) (h' : StackServed b c) : StackServed a c := by
  obtain ⟨_, _, _, _, _, _, _, _, rfl⟩ := h
  obtain ⟨_, _, _, _, _, _, _, _, rfl⟩ := h'
  exact ⟨_, _, _, _, _, _, _, _, rfl⟩

theorem enterRows_served (key : Nat) (rows : List AnsRow) (k : Stack) : StackServed k (enterRows key rows k).2 := by
  simp only [enterRows]
  split
  · exact StackServed.refl k
  · exact ⟨_, _, _, _, _, _, _, _, rfl⟩

theorem drainKey_served (key : Nat) (k : Stack) : StackServed k (drainKey key k) := by
  have hrejects : StackServed k { (enterRows key (tget [] k.rejects key) k).2 with
      rejects := tset [] (enterRows key (tget [] k.rejects key) k).2.rejects key (enterRows key (tget [] k.rejects key) k).1 } :=
    (enterRows_served key _ k).trans ⟨_, _, _, _, _, _, _, _, rfl⟩
  exact (hrejects.trans (enterRows_served key _ _)).trans ⟨_, _, _, _, _, _, _, _, rfl⟩

theorem deliverRows_served (w : Work) (k : Stack) : StackServed k (deliverRows w k) := by
  unfold deliverRows
  split
  · exact StackServed.refl k
  · split
    · exact StackServed.trans ⟨_, _, _, _, _, _, _, _, rfl⟩ (drainKey_served _ _)
    · exact ⟨_, _, _, _, _, _, _, _, rfl⟩

theorem countUnit_served (cls : Nat) (k : Stack) : StackServed k (countUnit cls k) := by
  unfold countUnit
  split <;> exact ⟨_, _, _, _, _, _, _, _, rfl⟩

theorem performUnit_served (w : Work) (k : Stack) : StackServed k (performUnit w k) := by
  unfold performUnit
  split
  · exact StackServed.refl k
  · exact (StackServed.trans ⟨_, _, _, _, _, _, _, _, rfl⟩ (deliverRows_served _ _)).trans (countUnit_served _ _)

theorem serveFirst_served {cls : Nat} {k k' : Stack} (h : serveFirst cls k = some k') : StackServed k k' := by
  unfold serveFirst at h
  split at h
  · exact absurd h (by simp)
  · split at h
    · exact absurd h (by simp)
    · obtain rfl := Option.some.inj h
      exact StackServed.trans ⟨_, _, _, _, _, _, _, _, rfl⟩ (performUnit_served _ _)

theorem serveOne_served {e : Edge} {k k' : Stack} (h : serveOne e k = some k') : StackServed k k' := by
  unfold serveOne at h
  dsimp only at h
  split at h
  · cases h2 : serveFirst 2 k with
    | some k2 =>
      rw [h2] at h
      obtain rfl := Option.some.inj h
      exact serveFirst_served h2
    | none =>
      rw [h2] at h
      exact serveFirst_served h
  · exact serveFirst_served h

theorem serveSlot_served (e : Edge) : ∀ (n : Nat) (k : Stack), StackServed k (serveSlot e n k) := by
  intro n
  induction n with
  | zero => exact StackServed.refl
  | succ n ih =>
    intro k
    rw [serveSlot]
    split
    next k1 h => exact (serveOne_served h).trans (ih k1)
    next => exact StackServed.refl k

/-! ### Work that arrives -/

/-- Work that arrives changes its stack only as serving does. -/
theorem addWork_served (st : Nat) (w : Work) (s : Mach) : StackServed (stkAt s st) (stkAt (addWork st w s) st) := by
  unfold addWork serveStack
  dsimp only
  split
  · exact StackServed.refl _
  · rw [modStk_modStk, stkAt_modStk]
    exact StackServed.trans ⟨_, _, _, _, _, _, _, _, rfl⟩ (serveSlot_served _ _ _)

theorem addWork_frame (st : Nat) (w : Work) (s : Mach) : ∃ ks, addWork st w s = { s with stk := ks } := by
  unfold addWork serveStack
  dsimp only
  split
  · exact ⟨s.stk, rfl⟩
  · rw [modStk_modStk]
    exact ⟨_, rfl⟩

/-! ### Writes to a stack that nothing disturbs (R214, R217) -/

theorem writeCw_undisturbed {cw : Nat} {data : List Byte} {s : Mach} (h : Undisturbed s (stackOf (32 * cw))) :
    writeCw cw data false s = modEdge (storeCw cw data) s := by
  obtain ⟨hret, hwb, hwin⟩ := h
  have hdrop : dropEdgeWb cw s = s := by simp [dropEdgeWb, hwb]
  have hcount (e : Edge → Edge) : countArrivals cw (modEdge e s) = modEdge e s := by
    have hw : (unitAt (modEdge e s) (stackOf (32 * cw))).win = [] := hwin
    simp [countArrivals, hw]
  simp only [writeCw, hdrop, hret, bne_self_eq_false, Bool.false_and, Bool.false_eq_true, if_false, hcount]

theorem undisturbed_modEdge {s : Mach} {st : Nat} (f : Edge → Edge) (h : Undisturbed s st) : Undisturbed (modEdge f s) st := h

/-- Code words stored one behind the other. -/
def storeCws (ea : Nat) (bs : List Byte) (n : Nat) (e : Edge) : Edge :=
  iter n (fun i e => storeCw (ea / 32 + i) ((bs.drop (32 * i)).take 32) e) e

theorem storeCws_succ (ea : Nat) (bs : List Byte) (n : Nat) (e : Edge) :
    storeCws ea bs (n + 1) e = storeCw (ea / 32 + n) ((bs.drop (32 * n)).take 32) (storeCws ea bs n e) := by
  simp [storeCws, iter, List.range_succ, List.foldl_append]

theorem iter_writeCw_undisturbed {ea : Nat} {bs : List Byte} {s : Mach} (h : Undisturbed s (stackOf ea)) : ∀ n,
    (∀ i, i < n → stackOf (32 * (ea / 32 + i)) = stackOf ea) →
    iter n (fun i s => writeCw (ea / 32 + i) ((bs.drop (32 * i)).take 32) false s) s = modEdge (storeCws ea bs n) s := by
  intro n
  induction n with
  | zero => exact fun _ => rfl
  | succ n ih =>
    intro hst
    have hstep : iter (n + 1) (fun i s => writeCw (ea / 32 + i) ((bs.drop (32 * i)).take 32) false s) s =
        writeCw (ea / 32 + n) ((bs.drop (32 * n)).take 32) false
          (iter n (fun i s => writeCw (ea / 32 + i) ((bs.drop (32 * i)).take 32) false s) s) := by
      simp [iter, List.range_succ, List.foldl_append]
    rw [hstep, ih (fun i hi => hst i (by omega)), writeCw_undisturbed (by rw [hst n (by omega)]; exact undisturbed_modEdge _ h)]
    rw [show storeCws ea bs (n + 1) = fun e => storeCw (ea / 32 + n) ((bs.drop (32 * n)).take 32) (storeCws ea bs n e) from
      funext (storeCws_succ ea bs n)]
    rfl

theorem storeCws_mem (ea : Nat) (bs : List Byte) (e : Edge) : ∀ n, 32 * n ≤ bs.length →
    (storeCws ea bs n e).mem = wrBytes e.mem (32 * (ea / 32)) (bs.take (32 * n)) := by
  intro n
  induction n with
  | zero => exact fun _ => rfl
  | succ n ih =>
    intro hn
    rw [storeCws_succ, storeCw, ih (by omega), show 32 * (n + 1) = 32 * n + 32 by omega, List.take_add, wrBytes_append, List.length_take,
      Nat.min_eq_left (by omega), Nat.mul_add]

/-- A row of whole code words in one stack is stored at its place. -/
theorem writeRow_undisturbed {ea : Nat} {bs : List Byte} {s : Mach} (h : Undisturbed s (stackOf ea)) (hea : ea % 32 = 0)
    (hlen : bs.length % 32 = 0) (hone : stackOf ea = stackOf (ea + bs.length - 1)) :
    (∃ e, writeRow ea bs false s = { s with edge := e }) ∧ (writeRow ea bs false s).edge.mem = wrBytes s.edge.mem ea bs := by
  have hin : ∀ i, i < bs.length / 32 → stackOf (32 * (ea / 32 + i)) = stackOf ea := by
    intro i hi
    unfold stackOf at *
    omega
  rw [writeRow, iter_writeCw_undisturbed h _ hin]
  refine ⟨⟨_, rfl⟩, ?_⟩
  rw [modEdge_own, storeCws_mem ea bs s.edge _ (by omega), show 32 * (ea / 32) = ea by omega,
    show 32 * (bs.length / 32) = bs.length by omega, List.take_length]

/-! ### Reads that are admitted (R212, R217, R219) -/

/-- Work of the read class for the buffer of a link and phase. -/
abbrev readWork (key : Nat) (runs : List (Nat × Nat)) (square : Bool) (rows : List AnsRow) : Work := ⟨0, runs, 0, some key, square, rows⟩

theorem rejectStatus_admitted {s : Mach} {st : Fin 32} {f : Row} (h : Admitted s st f) : rejectStatus s st.val f (runsOf f) = 0 := by
  obtain ⟨hst, hfailed, hself, hkeep⟩ := h
  have hout : stackOut s st.val = false := by simp [stackOut, hfailed, hself]
  have hin : (s.edge.keepEn && (runsOf f).any (fun r => inKeep r.1 r.2)) = false := by
    cases hk : s.edge.keepEn with
    | false => rfl
    | true => simpa using fun a b hab => hkeep hk (a, b) hab
  simp [rejectStatus, hst, hin, hout]

section
variable {st : Fin 32} {link : Fin 16} {phase : Fin 4} {f : Row} {s : Mach} (hlink : stackLink s st.val link.val phase.val = true)
include hlink

theorem edgeRead_admitted (hkind : rqKind f = 1) (h : Admitted s st f) (hgood : ∀ r ∈ runsOf f, GoodRange s r.1 r.2) :
    edgeRead st.val link.val phase.val f s = addWork st.val (readWork (4 * rqRetLink f + rqRetPhase f) (runsOf f) false
      ((runsOf f).flatMap (fun r => packRows (clean (rdBytes s.edge.mem r.1 r.2))))) s := by
  simp only [edgeRead, hkind, hlink, rejectStatus_admitted h, readRuns_good _ hgood, List.flatMap_map]
  rfl

theorem transposedRead_admitted (hkind : rqKind f = 3) (hst : stackOf (rqEa f) = st.val) (hfailed : (stkAt s st.val).failed = false)
    (hself : (stkAt s st.val).selfref = false) (hkeep : s.edge.keepEn = false)
    (hgood : ∀ r ∈ (List.range (512 / fmtBits (rqElem f))).map (fun i => (rqEa f + i * rqStride f, 64)), GoodRange s r.1 r.2) :
    transposedRead st.val link.val phase.val f s = addWork st.val (readWork (4 * rqRetLink f + rqRetPhase f)
      ((List.range (512 / fmtBits (rqElem f))).map (fun i => (rqEa f + i * rqStride f, 64))) true
      ((List.range (512 / fmtBits (rqElem f))).map (transposeRow (fmtBits (rqElem f))
        (((List.range (512 / fmtBits (rqElem f))).map (fun i => (rqEa f + i * rqStride f, 64))).map
          (fun r => clean (rdBytes s.edge.mem r.1 r.2)))))) s := by
  have hstatus (runs : List (Nat × Nat)) : rejectStatus s st.val f runs = 0 := by
    simp [rejectStatus, hst, hkeep, stackOut, hfailed, hself]
  simp only [transposedRead, hkind, hlink, hstatus, readRuns_good _ hgood]
  rfl

theorem edgeRead_rejected (hkind : rqKind f = 1) (hst : stackOf (rqEa f) = st.val) (hkeep : s.edge.keepEn = false)
    (hfailed : (stkAt s st.val).failed = true) :
    edgeRead st.val link.val phase.val f s = pushReject st.val (4 * rqRetLink f + rqRetPhase f)
      (rejectRows 4 (ceilDiv (rqRunlen f) 64 * rqNrun f)) (countReject st.val 4 (rqEa f) s) := by
  have hstatus : rejectStatus s st.val f (runsOf f) = 4 := by
    simp [rejectStatus, hst, hkeep, stackOut, hfailed]
  simp only [edgeRead, hkind, hlink, hstatus]
  rfl

end

/-! ### Rows that find room (R218) -/

theorem enterRows_room {key : Nat} {rows : List AnsRow} {k : Stack} (hroom : (tget [] k.answers key).length + rows.length ≤ 64) :
    (enterRows key rows k).1 = [] ∧ tget [] (enterRows key rows k).2.answers key = tget [] k.answers key ++ rows ∧
      (enterRows key rows k).2.squares = k.squares := by
  have hn : rows.length ≤ bufRoom - (tget [] k.answers key).length := by
    unfold bufRoom
    omega
  simp only [enterRows, List.drop_of_length_le hn, List.take_of_length_le hn]
  split
  next h => exact ⟨trivial, by rw [List.isEmpty_iff.1 h, List.append_nil], rfl⟩
  next => exact ⟨trivial, tget_tmod_same [] k.answers key (fun l => l ++ rows), rfl⟩

theorem enterRows_nil (key : Nat) (k : Stack) : enterRows key [] k = ([], k) := by
  simp [enterRows]

/-- The answers of a drained buffer, where no square waits. -/
theorem drainKey_answers {key : Nat} {k : Stack} (hsquare : (tget Square.reset k.squares key).rows = [])
    (hsame : (enterRows key (tget [] k.rejects key) k).2.squares = k.squares) :
    (drainKey key k).answers = (enterRows key (tget [] k.rejects key) k).2.answers := by
  simp only [drainKey, hsame, hsquare, enterRows_nil]

/-- Rows that all find room enter the buffer. -/
theorem drainKey_rejects {key : Nat} {k : Stack} (hsquare : (tget Square.reset k.squares key).rows = [])
    (hroom : (tget [] k.answers key).length + (tget [] k.rejects key).length ≤ 64) :
    tget [] (drainKey key k).answers key = tget [] k.answers key ++ tget [] k.rejects key := by
  obtain ⟨-, hanswers, hsquares⟩ := enterRows_room hroom
  rw [drainKey_answers hsquare hsquares, hanswers]

theorem drainKey_none {key : Nat} {k : Stack} (h : NoneWait k key) : (drainKey key k).answers = k.answers := by
  rw [drainKey_answers h.2 (by rw [h.1, enterRows_nil]), h.1, enterRows_nil]

/-! ### A short read that is performed at once (R210, R212, R241) -/

section
variable {ea n key : Nat} {row : AnsRow}

theorem readWork_unit (hfits : ea % 256 + n ≤ 256) : (readWork key [(ea, n)] false [row]).unit = some (ea, n) := by
  simp only [Work.unit, Nat.add_zero, Nat.sub_zero]
  rw [Nat.min_eq_left (by omega)]

theorem readWork_fills (hpos : 0 < n) (hn : n ≤ 64) (hfits : ea % 256 + n ≤ 256) : (readWork key [(ea, n)] false [row]).fills = 1 := by
  simp only [Work.fills, readWork_unit hfits, rowsDone, Nat.zero_add, Nat.le_refl, if_true, ceilDiv]
  omega

theorem readWork_next (hfits : ea % 256 + n ≤ 256) :
    (readWork key [(ea, n)] false [row]).next = { readWork key [(ea, n)] false [row] with runs := [] } := by
  simp only [Work.next, readWork_unit hfits, Nat.zero_add, Nat.le_refl, if_true]

/-- The stack whose read class has performed one unit, the last of its work. -/
def readDone (ea key : Nat) (row : AnsRow) (k : Stack) : Stack :=
  { k with work := [], bursts := tmod 0 k.bursts (groupOf ea) (fun n => n + 1), rdu := satInc k.rdu,
           answers := tmod [] k.answers key (fun l => l ++ [row]) }

theorem serveSlot_short {e : Edge} {k : Stack} {m : Nat} (hpos : 0 < n) (hn : n ≤ 64) (hfits : ea % 256 + n ≤ 256)
    (hslot : slotClass e k.slot.toNat = 0) (hburst : tget 0 k.bursts (groupOf ea) < 16) (hroom : (tget [] k.answers key).length < 64) :
    serveSlot e (m + 1) { k with work := [readWork key [(ea, n)] false [row]] } = readDone ea key row k := by
  have hcan : (readWork key [(ea, n)] false [row]).can { k with work := [readWork key [(ea, n)] false [row]] } = true := by
    have hroom' : (tget [] k.answers key).length + 1 ≤ bufRoom := hroom
    simp [Work.can, readWork_unit hfits, readWork_fills hpos hn hfits, hburst, hroom']
  have hone : serveOne e { k with work := [readWork key [(ea, n)] false [row]] } = some (readDone ea key row k) := by
    simp only [serveOne, hslot, serveFirst, List.find?_cons, beq_self_eq_true, hcan, readWork_next hfits, performUnit,
      readWork_unit hfits, deliverRows, readWork_fills hpos hn hfits]
    rfl
  rw [serveSlot, hone]
  exact serveSlot_idle rfl m

end

theorem packRows_short {bs : List (Byte × Bool)} (hpos : 0 < bs.length) (hn : bs.length ≤ 64) : ∃ row, packRows bs = [row] := by
  have hrows : rowsPerRun bs.length = 1 := by
    unfold rowsPerRun ceilDiv
    omega
  exact ⟨_, by rw [packRows, hrows]; rfl⟩

theorem runsOf_one {f : Row} (h : rqNrun f = 1) : runsOf f = [(rqEa f, rqRunlen f)] := by
  rw [runsOf, h]
  simp [List.range_succ]

/-- A short read that finds a burst and room is answered at once. -/
theorem addWork_short {st : Nat} {ea n key : Nat} {row : AnsRow} {s : Mach} (hpos : 0 < n) (hn : n ≤ 64) (hfits : ea % 256 + n ≤ 256)
    (h : Unhurried s st 0 ea) (hroom : (tget [] (stkAt s st).answers key).length < 64) :
    addWork st (readWork key [(ea, n)] false [row]) s = modStk st (readDone ea key row) s := by
  obtain ⟨hidle, hslot, hburst⟩ := h
  have hruns : [(ea, n)].filter (fun r => r.2 != 0) = [(ea, n)] := by simp [Nat.ne_of_gt hpos]
  simp only [addWork, hruns, serveStack, modStk_modStk]
  refine modStk_congr ?_
  rw [hidle, List.nil_append]
  exact serveSlot_short (m := 63) hpos hn hfits hslot hburst hroom

/-- The stack that rejects a read whose rows wait for room. -/
def rejecting (key status ea : Nat) (rows : List AnsRow) (k : Stack) : Stack :=
  { k with rejCnt := satInc k.rejCnt, rejLast := BitVec.ofNat 8 status, rejEa := BitVec.ofNat 41 ea,
           rejects := tmod [] k.rejects key (fun l => l ++ rows) }

theorem pushReject_countReject (st key status ea : Nat) (rows : List AnsRow) (s : Mach) :
    pushReject st key rows (countReject st status ea s) = modStk st (fun k => drainKey key (rejecting key status ea rows k)) s :=
  modStk_modStk _ _ _ _

theorem drainKey_rejecting {key status ea : Nat} {rows : List AnsRow} {k : Stack} (hnone : NoneWait k key)
    (hroom : (tget [] k.answers key).length + rows.length ≤ 64) :
    tget [] (drainKey key (rejecting key status ea rows k)).answers key = tget [] k.answers key ++ rows := by
  have hrejects : tget [] (rejecting key status ea rows k).rejects key = rows := by
    rw [rejecting, tget_tmod_same, hnone.1, List.nil_append]
  rw [drainKey_rejects (k := rejecting key status ea rows k) hnone.2 (by rw [hrejects]; exact hroom), hrejects]
  rfl

/-- Settles O13: the rows of a read are its bytes, and serving its one unit puts them into the buffer. -/
theorem stackReadsQueueTheirAnswers : Obligations.StackReadsQueueTheirAnswers := by
  intro st link phase f s hlink key k data good work
  refine ⟨?_, ?_, ?_, ?_⟩
  · exact fun hkind hadmitted hgood => run_eq_after (edgeRead_admitted hlink hkind hadmitted hgood)
  · intro hkind hadmitted hgood hone hpos hn hfits hfree hroom
    have hlen : (data (rqEa f, rqRunlen f)).length = rqRunlen f := by
      simp only [data, List.length_map, rdBytes_length]
    obtain ⟨row, hrow⟩ := packRows_short (bs := data (rqEa f, rqRunlen f)) (by rw [hlen]; exact hpos) (by rw [hlen]; exact hn)
    have hserved : edgeRead st.val link.val phase.val f s.m = modStk st.val (readDone (rqEa f) key row) s.m := by
      rw [edgeRead_admitted hlink hkind hadmitted hgood, runsOf_one hone]
      change addWork st.val (readWork key _ false ([(rqEa f, rqRunlen f)].flatMap (fun r => packRows (data r)))) s.m = _
      rw [List.flatMap_cons, List.flatMap_nil, List.append_nil, hrow]
      exact addWork_short hpos hn hfits hfree hroom
    refine ⟨_, run_eq_after (g := modStk st.val (readDone (rqEa f) key row)) hserved, after_pending _ _, ?_⟩
    rw [after_m rfl, stkAt_modStk, hrow]
    exact ⟨tget_tmod_same [] k.answers key (fun l => l ++ [row]), rfl, rfl, rfl⟩
  · exact fun hkind hst hfailed hself hkeep hgood =>
      run_eq_after (transposedRead_admitted hlink hkind hst hfailed hself hkeep hgood)
  · intro rows hkind hst hkeep hfailed hnone hroom
    refine ⟨_, run_eq_after (g := modStk st.val (fun k => drainKey key (rejecting key 4 (rqEa f) rows k)))
      ((edgeRead_rejected hlink hkind hst hkeep hfailed).trans (pushReject_countReject _ _ _ _ _ _)), after_pending _ _, ?_⟩
    rw [after_m rfl, stkAt_modStk]
    refine ⟨drainKey_rejecting hnone hroom, ?_⟩
    obtain ⟨_, _, _, _, _, _, _, _, hserved⟩ := drainKey_served key (rejecting key 4 (rqEa f) rows (stkAt s.m st.val))
    rw [hserved]
    exact ⟨rfl, rfl, rfl, rfl⟩

end Sys2Proof.Spec
end

section
/-! PROOFS. Writes, replies, refreshes and slots of a stack (R210, R215, R217, R218, R220). -/

namespace Sys2Proof.Spec

open Sys2Proof.Machine

section
variable {st : Fin 32} {link : Fin 16} {phase : Fin 4} {s : Mach} (hlink : stackLink s st.val link.val phase.val = true)
include hlink

/-! ### Writes (R215, R217) -/

theorem edgeWrite_admitted {f : Row} (hkind : rqKind f = 2) (h : Admitted s st f) :
    edgeWrite st.val link.val phase.val f s = modStk st.val (fun k =>
        { k with writes := tset [] k.writes (4 * link.val + phase.val) (tget [] k.writes (4 * link.val + phase.val) ++
          [{ ea := rqEa f, runlen := rqRunlen f, nrun := rqNrun f, stride := rqStride f, run := 0, pos := 0,
             status := 0, rejected := false, ret := 4 * rqRetLink f + rqRetPhase f }]) }) s := by
  simp only [edgeWrite, hkind, hlink, rejectStatus_admitted h]
  rfl

/-- The write after a row of n bytes. -/
def rowWritten (w : WReq) (n : Nat) : WReq :=
  { w with
    run := if w.runlen ≤ w.pos + n then w.run + 1 else w.run
    pos := if w.runlen ≤ w.pos + n then 0 else w.pos + n }

/-- The writes of a link and phase are these. -/
def withWrites (key : Nat) (l : List WReq) (k : Stack) : Stack := { k with writes := tset [] k.writes key l }

/-- The stack after a row of n bytes of its oldest write: the write moves on or, after its last row, awaits its reply. -/
def rowTakenBy (st key n : Nat) (w : WReq) (rest : List WReq) (s : Mach) : Mach :=
  if w.nrun ≤ (rowWritten w n).run then pushReply st w.ret (replyRow (rowWritten w n)) (modStk st (withWrites key rest) s)
  else modStk st (withWrites key (rowWritten w n :: rest)) s

/-- The units that the row completes. -/
def rowWork (w : WReq) (n : Nat) : Work :=
  let a := w.ea + w.run * w.stride
  let u0 := wholeUnits a (a + w.runlen) (a + w.pos)
  { cls := 1, runs := [(u0, wholeUnits a (a + w.runlen) (a + w.pos + n) - u0)], pos := 0, key := none, square := false, rows := [] }

/-- The bytes of a row go to edge memory. -/
theorem writeDataRow_oldest {row : Row} {w : WReq} {rest : List WReq}
    (hw : tget [] (stkAt s st.val).writes (4 * link.val + phase.val) = w :: rest) (hkept : w.rejected = false) :
    writeDataRow st.val link.val phase.val row false s =
      rowTakenBy st.val (4 * link.val + phase.val) (min 64 (w.runlen - w.pos)) w rest
        (addWork st.val (rowWork w (min 64 (w.runlen - w.pos))) (writeRow (w.ea + w.run * w.stride + w.pos)
          ((toBytes 64 row.toNat).take (min 64 (w.runlen - w.pos))) false s)) := by
  simp only [writeDataRow, lpKey, hlink, if_true, hw, hkept, Bool.false_eq_true, if_false, Bool.false_and, rowTakenBy, rowWritten]
  rfl

end

theorem rowTakenBy_frame (st key n : Nat) (w : WReq) (rest : List WReq) (s : Mach) : ∃ ks, rowTakenBy st key n w rest s = { s with stk := ks } := by
  unfold rowTakenBy
  split <;> exact ⟨_, rfl⟩

section
variable {st key n : Nat} {w : WReq} {rest : List WReq} {s : Mach}

theorem rowTakenBy_more (hpos : w.pos + n < w.runlen) (hrun : w.run < w.nrun) :
    tget [] (stkAt (rowTakenBy st key n w rest s) st).writes key = { w with pos := w.pos + n } :: rest := by
  have hwritten : rowWritten w n = { w with pos := w.pos + n } := by
    simp only [rowWritten, if_neg (Nat.not_le.2 hpos)]
  rw [rowTakenBy, hwritten, if_neg (Nat.not_le.2 hrun), stkAt_modStk, withWrites, tget_tset_same]

theorem rowTakenBy_last (hpos : w.runlen ≤ w.pos + n) (hrun : w.nrun ≤ w.run + 1) (hkept : w.rejected = false) :
    tget [] (stkAt (rowTakenBy st key n w rest s) st).writes key = rest ∧
      (stkAt (rowTakenBy st key n w rest s) st).replies = tset [] (stkAt s st).replies w.ret
        (tget [] (stkAt s st).replies w.ret ++ [⟨BitVec.ofNat 512 w.status.toNat, w.status != 0, false⟩]) := by
  have hdone : w.nrun ≤ (rowWritten w n).run := by
    rw [rowWritten, if_pos hpos]
    exact hrun
  rw [rowTakenBy, if_pos hdone, pushReply, stkAt_modStk, stkAt_modStk]
  refine ⟨by rw [withWrites, tget_tset_same], ?_⟩
  rw [replyRow, rowWritten, hkept]
  rfl

end

/-- What a data row of whole code words does where nothing disturbs its stack. -/
theorem writeDataRow_stores {st : Fin 32} {link : Fin 16} {phase : Fin 4} {row : Row} {w : WReq} {rest : List WReq} {s : Mach} {n ea : Nat}
    (hlink : stackLink s st.val link.val phase.val = true) (hn : n = min 64 (w.runlen - w.pos))
    (hea : ea = w.ea + w.run * w.stride + w.pos)
    (hw : tget [] (stkAt s st.val).writes (4 * link.val + phase.val) = w :: rest) (hkept : w.rejected = false)
    (hcalm : Undisturbed s (stackOf ea)) (hone : stackOf ea = stackOf (ea + n - 1)) (hea32 : ea % 32 = 0) (hn32 : n % 32 = 0) :
    ∃ m : Mach, writeDataRow st.val link.val phase.val row false s =
        rowTakenBy st.val (4 * link.val + phase.val) n w rest m ∧ StackServed (stkAt s st.val) (stkAt m st.val) ∧
      m.edge.mem = wrBytes s.edge.mem ea ((toBytes 64 row.toNat).take n) ∧ m.cores = s.cores ∧ m.now = s.now := by
  have hlen : ((toBytes 64 row.toNat).take n).length = n := by
    rw [List.length_take, toBytes_length, hn]
    omega
  have hu := writeDataRow_oldest hlink (row := row) hw hkept
  obtain ⟨⟨e, hrow⟩, hmem⟩ := writeRow_undisturbed (bs := (toBytes 64 row.toNat).take n) hcalm hea32 (by rw [hlen]; exact hn32)
    (by rw [hlen]; exact hone)
  rw [← hn, ← hea] at hu
  obtain ⟨ks, hadd⟩ := addWork_frame st.val (rowWork w n) (writeRow ea ((toBytes 64 row.toNat).take n) false s)
  refine ⟨_, hu, ?_, ?_, ?_, ?_⟩
  · have hserved := addWork_served st.val (rowWork w n) (writeRow ea ((toBytes 64 row.toNat).take n) false s)
    rwa [show stkAt (writeRow ea ((toBytes 64 row.toNat).take n) false s) st.val = stkAt s st.val by rw [hrow]; rfl] at hserved
  · rw [hadd]
    exact hmem
  · rw [hadd, hrow]
  · rw [hadd, hrow]

theorem stackWritesStoreTheirRows : StackWritesStoreTheirRows := by
  intro st link phase f row s hlink key
  refine ⟨fun hkind hadmitted => run_eq_after (edgeWrite_admitted hlink hkind hadmitted), ?_⟩
  intro w rest n ea hw hkept hcalm hone hea32 hn32 hpos
  obtain ⟨m, hrun, ⟨_, _, _, _, _, _, _, _, hserved⟩, hmem, hcores, hnow⟩ :=
    writeDataRow_stores hlink (row := row) rfl rfl hw hkept hcalm hone hea32 hn32
  obtain ⟨ks, hframe⟩ := rowTakenBy_frame st.val key n w rest m
  have hlen : ((toBytes 64 row.toNat).take n).length = n := by
    rw [List.length_take, toBytes_length]
    omega
  refine ⟨_, run_eq_after (g := fun _ => rowTakenBy st.val key n w rest m) hrun, after_pending _ _, ?_⟩
  rw [after_m (by rw [hframe]; exact hnow)]
  refine ⟨?_, ?_, rowTakenBy_more, fun hlast hruns => ?_, ?_⟩
  · rw [hframe, hmem]
    exact (congrArg (rdBytes _ ea) hlen.symm).trans (rdBytes_wrBytes _ _ _)
  · intro a ha
    rw [hframe, hmem]
    exact rd_wrBytes_outside _ _ _ _ (by rw [hlen]; exact ha)
  · obtain ⟨hwrites, hreplies⟩ := rowTakenBy_last (st := st.val) (key := key) (rest := rest) (s := m) hlast hruns hkept
    rw [hserved] at hreplies
    exact ⟨hwrites, hreplies⟩
  · rw [hframe, hcores]

/-! ### Rows that leave (R217, R218) -/

/-- A row of the rim leaves; only flights are added. -/
theorem rimSend_frame (unit die : Nat) (side : Side) (link phase : Nat) (f : NetFlit) (s : Mach) :
    ∃ x, rimSend unit die side link phase f s = { s with out := s.out ++ [.rimRow unit link phase f.row f.poison f.rej], fab := x } := by
  unfold rimSend
  dsimp only
  split
  · exact ⟨s.fab, rfl⟩
  · split
    · exact ⟨s.fab, rfl⟩
    · exact ⟨_, rfl⟩

theorem enterRows_work (key : Nat) (rows : List AnsRow) (k : Stack) : (enterRows key rows k).2.work = k.work := by
  simp only [enterRows]
  split <;> rfl

theorem drainKey_work (key : Nat) (k : Stack) : (drainKey key k).work = k.work := by
  simp only [drainKey, enterRows_work]

/-- The stack whose buffer holds these rows now. -/
def leftWith (key : Nat) (rest : List AnsRow) (k : Stack) : Stack := drainKey key { k with answers := tset [] k.answers key rest }

theorem leftWith_spec {key : Nat} {rest : List AnsRow} {k : Stack} (hnone : NoneWait k key) :
    (leftWith key rest k).answers = tset [] k.answers key rest ∧ (leftWith key rest k).replies = k.replies := by
  obtain ⟨_, _, _, _, _, _, _, _, hserved⟩ := drainKey_served key { k with answers := tset [] k.answers key rest }
  exact ⟨drainKey_none (k := { k with answers := tset [] k.answers key rest }) hnone, by rw [leftWith, hserved]⟩

/-- A row leaves the buffer of a stack without work. -/
theorem leaveBuffer_idle {st link phase : Nat} {r : AnsRow} {rest : List AnsRow} {s : Mach} (hidle : (stkAt s st).work = []) :
    ∃ x, leaveBuffer st link phase r rest s = { modStk st (leftWith (4 * link + phase) rest) s with
      out := s.out ++ [.rimRow st link phase r.row r.poison r.rej], fab := x } := by
  have hserve : serveStack st (modStk st (leftWith (4 * link + phase) rest) s) = modStk st (leftWith (4 * link + phase) rest) s := by
    rw [serveStack, modStk_modStk]
    exact modStk_congr (serveSlot_idle (by rw [leftWith, drainKey_work]; exact hidle) _)
  obtain ⟨x, hx⟩ := rimSend_frame st (stackDie st) (stackSide (st % 16)) link phase ⟨r.row, r.poison, r.rej⟩
    (modStk st (leftWith (4 * link + phase) rest) s)
  refine ⟨x, ?_⟩
  rw [leaveBuffer]
  change rimSend st _ _ link phase _ (serveStack st (modStk st (leftWith (4 * link + phase) rest) s)) = _
  rw [hserve, hx]
  rfl

section
variable {st : Fin 32} {link : Fin 16} {phase : Fin 4} {r : AnsRow} {rest : List AnsRow} {s : Mach}
  (hlink : stackLink s st.val link.val phase.val = true)
include hlink

theorem answerSend_first (hbuf : tget [] (stkAt s st.val).answers (4 * link.val + phase.val) = r :: rest) :
    answerSend st.val link.val phase.val s = leaveBuffer st.val link.val phase.val r rest s := by
  simp only [answerSend, lpKey, hlink, if_true, hbuf]

/-- The stack with the replies that still wait. -/
def withReplies (key : Nat) (rest : List AnsRow) (k : Stack) : Stack := { k with replies := tset [] k.replies key rest }

theorem replySend_alone (hreply : tget [] (stkAt s st.val).replies (4 * link.val + phase.val) = r :: rest)
    (hbuf : tget [] (stkAt s st.val).answers (4 * link.val + phase.val) = []) :
    replySend st.val link.val phase.val s =
      leaveBuffer st.val link.val phase.val r [] (modStk st.val (withReplies (4 * link.val + phase.val) rest) s) := by
  simp only [replySend, lpKey, hlink, hbuf, hreply]
  rfl

theorem replySend_behind (hreply : tget [] (stkAt s st.val).replies (4 * link.val + phase.val) = r :: rest)
    (hbuf : tget [] (stkAt s st.val).answers (4 * link.val + phase.val) ≠ [])
    (hroom : (tget [] (stkAt s st.val).answers (4 * link.val + phase.val)).length < 64) :
    replySend st.val link.val phase.val s = modStk st.val (fun k => { withReplies (4 * link.val + phase.val) rest k with
      answers := tset [] k.answers (4 * link.val + phase.val)
        (tget [] (stkAt s st.val).answers (4 * link.val + phase.val) ++ [r]) }) s := by
  have hroom' : (tget [] (stkAt s st.val).answers (4 * link.val + phase.val)).length < bufRoom := hroom
  simp only [replySend, lpKey, hlink, hroom', decide_true, hreply, Bool.and_self, if_true, List.isEmpty_eq_false_iff.2 hbuf, Bool.false_eq_true,
    if_false]
  exact modStk_modStk _ _ _ _

end

/-! ### Refreshes and slots (R210, R220) -/

theorem splitSlot_idle {st : Nat} {s : Mach} (h : ∀ w ∈ (stkAt s st).work, w.cls ≠ slotClass s.edge ((stkAt s st).slot + 1).toNat ∧
    (slotClass s.edge ((stkAt s st).slot + 1).toNat = 2 → w.cls ≠ 3)) :
    splitSlot st s = modStk st (fun k => { k with slot := k.slot + 1, bursts := [] }) s := by
  rw [splitSlot, beginSlot, serveStack, modStk_modStk]
  exact modStk_congr (serveSlot_none (serveOne_none h) _)

theorem stackQueuesDrainInOrder : StackQueuesDrainInOrder := by
  intro st link phase q r rest s key k buf sent c
  refine ⟨fun hlink hbuf hidle hnone => ?_, fun hlink hreply hbuf hidle hnone => ?_, fun hlink hreply hbuf hroom => ?_,
    fun hfailed hself => run_eq_after ?_, fun h => run_eq_after (splitSlot_idle h)⟩
  · obtain ⟨x, hx⟩ := leaveBuffer_idle (link := link.val) (phase := phase.val) (r := r) (rest := rest) hidle
    obtain ⟨hanswers, -⟩ := leftWith_spec (rest := rest) hnone
    refine ⟨_, run_eq_after (g := fun _ => leaveBuffer st.val link.val phase.val r rest s.m) (answerSend_first hlink hbuf), ?_⟩
    have hm : (after (fun _ => leaveBuffer st.val link.val phase.val r rest s.m) s).m = leaveBuffer st.val link.val phase.val r rest s.m :=
      after_m (by rw [hx]; rfl)
    have hstk : stkAt (leaveBuffer st.val link.val phase.val r rest s.m) st.val = leftWith key rest k := by
      rw [hx]
      exact stkAt_modStk _ _ _
    refine ⟨⟨after_pending _ _, by rw [hm, hx]; rfl, by rw [hm, hx]⟩, ?_, fun j hj => ?_⟩
    · rw [hm, hstk, hanswers, tget_tset_same]
    · rw [hm, hstk, hanswers, tget_tset_other _ _ _ hj]
  · obtain ⟨x, hx⟩ := leaveBuffer_idle (link := link.val) (phase := phase.val) (r := r) (rest := [])
      (s := modStk st.val (withReplies key rest) s.m) (by rw [stkAt_modStk]; exact hidle)
    obtain ⟨hanswers, hreplies⟩ := leftWith_spec (rest := []) (k := withReplies key rest k) hnone
    refine ⟨_, run_eq_after (g := fun _ => leaveBuffer st.val link.val phase.val r [] (modStk st.val (withReplies key rest) s.m))
      (replySend_alone hlink hreply hbuf), ?_⟩
    have hm : (after (fun _ => leaveBuffer st.val link.val phase.val r [] (modStk st.val (withReplies key rest) s.m)) s).m =
        leaveBuffer st.val link.val phase.val r [] (modStk st.val (withReplies key rest) s.m) := after_m (by rw [hx]; rfl)
    have hstk : stkAt (leaveBuffer st.val link.val phase.val r [] (modStk st.val (withReplies key rest) s.m)) st.val =
        leftWith key [] (withReplies key rest k) := by
      rw [hx]
      exact (stkAt_modStk _ _ _).trans (congrArg _ (stkAt_modStk _ _ _))
    refine ⟨⟨after_pending _ _, by rw [hm, hx]; rfl, by rw [hm, hx]; rfl⟩, ?_, ?_⟩
    · rw [hm, hstk, hreplies, withReplies, tget_tset_same]
    · rw [hm, hstk, hanswers, tget_tset_same]
  · refine ⟨_, run_eq_after (replySend_behind hlink hreply hbuf hroom), after_pending _ _, ?_⟩
    rw [after_m rfl, stkAt_modStk]
    exact ⟨rfl, rfl, tget_tset_same (α := List AnsRow) [] k.replies key rest, tget_tset_same (α := List AnsRow) [] k.answers key (buf ++ [r])⟩
  · simp [refresh, stackOut, show (stkAt s.m st.val).failed = false from hfailed, show (stkAt s.m st.val).selfref = false from hself]

/-- Settles O14: a data row is a run of stored code words, and a stack without work that it may serve changes only its queues. -/
theorem stackWritesAndReplies : Obligations.StackWritesAndReplies := ⟨stackWritesStoreTheirRows, stackQueuesDrainInOrder⟩

end Sys2Proof.Spec
end

section
/-! PROOFS. Work of a stack leaves the other stacks alone, and the counterexample to the upkeep of edge memory (R221). -/

namespace Sys2Proof.Spec

open Sys2Proof.Machine

/-- The state that a command in which no time passes leads to. -/
theorem runs_to {f : Mach → Mach} {s : State} (h : (f s.m).now = s.m.now) :
    run f s = .next (after f s) ∧ (after f s).pending = s.pending ∧ (after f s).m = f s.m :=
  ⟨rfl, after_pending f s, after_m h⟩

theorem stkAt_addWork_other {st j : Nat} (w : Work) (s : Mach) (h : j ≠ st) : stkAt (addWork st w s) j = stkAt s j := by
  unfold addWork serveStack
  dsimp only
  split
  · rfl
  · rw [modStk_modStk, stkAt_modStk_other _ _ h]

theorem countArrivals_only (cw : Nat) (s : Mach) : ∃ t, countArrivals cw s = { s with trn := t } := by
  unfold countArrivals
  dsimp only
  split
  · exact ⟨s.trn, rfl⟩
  · exact ⟨_, rfl⟩

theorem rewriteCw_only (cw : Nat) (s : Mach) : ∃ e u, rewriteCw cw s = { s with edge := e, trn := u } := by
  unfold rewriteCw
  split
  · exact ⟨s.edge, s.trn, rfl⟩
  next d _ _ _ =>
    obtain ⟨u, hu⟩ := countArrivals_only cw (modEdge (storeCw cw d) s)
    rw [hu]
    exact ⟨_, u, rfl⟩

theorem foldl_rewriteCw_only (cw : Nat) (l : List Nat) : ∀ s : Mach,
    ∃ e u, l.foldl (fun s i => rewriteCw (cw + i) s) s = { s with edge := e, trn := u } := by
  induction l with
  | nil => exact fun s => ⟨s.edge, s.trn, rfl⟩
  | cons i l ih =>
    intro s
    obtain ⟨e, u, h⟩ := rewriteCw_only (cw + i) s
    obtain ⟨e', u', h'⟩ := ih { s with edge := e, trn := u }
    rw [List.foldl_cons, h, h']
    exact ⟨e', u', rfl⟩

/-- Stack 0 after reset in slot 15 of its frame, which the remote class owns, with unit 2 ^ 28 in its log: the address of that unit
is the first of stack 1. -/
def strayLog : State :=
  { State.reset with m := modStk 0 (fun k => { k with retLog := [2 ^ 28], slot := 15 }) State.reset.m }

/-- The unit is performed at stack 1, so that stack 0 counts none. -/
theorem strayLog_rewrite : (retrainRewrite 0 strayLog.m).now = strayLog.m.now ∧ (stkAt (retrainRewrite 0 strayLog.m) 0).rmu = 0 := by
  obtain ⟨e, u, hiter⟩ := foldl_rewriteCw_only (2 ^ 31) (List.range 8) strayLog.m
  have hrest : retrainRewrite 0 strayLog.m = useUnits 3 (2 ^ 36) 256
      (modStk 0 (fun k => { k with retLog := [] }) ((List.range 8).foldl (fun s i => rewriteCw (2 ^ 31 + i) s) strayLog.m)) := rfl
  have hother : (0 : Nat) ≠ stackOf (2 ^ 36) := by decide
  rw [hrest, hiter, useUnits]
  constructor
  · obtain ⟨ks, hadd⟩ := addWork_frame (stackOf (2 ^ 36))
      { cls := 3, runs := [(2 ^ 36, 256)], pos := 0, key := none, square := false, rows := [] }
      (modStk 0 (fun k => { k with retLog := [] }) { strayLog.m with edge := e, trn := u })
    rw [hadd]
    rfl
  · rw [stkAt_addWork_other _ _ hother, stkAt_modStk]
    rfl

/-- Refutes O15: a log entry of a stack is a number without a bound. Where stack 0 has logged 2 ^ 28, one more than its last unit, the
rewrite of that unit uses the slot of stack 1, and `rmu` of stack 0, in an unhurried slot of the remote class, stays 0. -/
theorem not_edgeMemoryUpkeep : ¬ Obligations.EdgeMemoryUpkeep := by
  unfold Obligations.EdgeMemoryUpkeep
  intro ⟨hret, _⟩
  obtain ⟨_, _, _, hrewrite⟩ := hret 0 0 strayLog
  obtain ⟨t, ht, _, _, hcount, _⟩ := hrewrite (2 ^ 28) [] rfl rfl (fun _ _ => ⟨rfl, fun _ _ => rfl⟩)
  have hrmu : (stkAt t.m 0).rmu = 1 := hcount ⟨rfl, rfl, by decide⟩
  obtain ⟨hrun, _, hm⟩ := runs_to (f := retrainRewrite 0) (s := strayLog) strayLog_rewrite.1
  obtain rfl := Host.Outcome.next.inj (hrun.symm.trans ht)
  rw [hm, strayLog_rewrite.2] at hrmu
  exact absurd hrmu (by decide)

end Sys2Proof.Spec
end

section
/-! PROOFS. Commands that start: what a command that is found, well formed and served does (R570, R571). -/

namespace Sys2Proof.Spec

open Sys2Proof.Machine

/-- A command that starts goes on. -/
theorem startCmd_starts {s : Mach} {q : Nat} {d : Desc} {c : RunCmd} {opc : Nat} {named : List (Nat × Nat)}
    (h : Starts s q d c opc named) (go : Owed → Mach → Mach) :
    startCmd q d (cB d 0 1 == opc) named go s = go ⟨q, c.tok⟩ (started q c s) := by
  obtain ⟨hfind, hopc, hheader, hbody, hready⟩ := h
  simp only [startCmd, hfind, hopc, hheader, hbody, hready, beq_self_eq_true, Bool.and_self, Bool.not_true, Bool.false_eq_true, ne_eq,
    not_true_eq_false, if_false]
  rfl

/-- A command that starts keeps the version of its ring. -/
theorem cmdVer_started (s : Mach) (q : Nat) (c : RunCmd) (tok : Nat) :
    cmdVer (started q c s) ⟨q, tok⟩ = cmdVer s ⟨q, tok⟩ := by
  have hfind : ∀ l : List RunCmd, (l.map (fun x => if x.tok == c.tok then { x with started := true } else x)).find? (fun x => x.tok == tok) =
      (l.find? (fun x => x.tok == tok)).map (fun x => if x.tok == c.tok then { x with started := true } else x) := by
    intro l
    rw [List.find?_map]
    congr 2
    funext x
    simp only [Function.comp_apply]
    split <;> rfl
  have hring : ringAt (started q c s) q =
      { ringAt s q with cmds := (ringAt s q).cmds.map (fun x => if x.tok == c.tok then { x with started := true } else x) } :=
    ringAt_modRing q _ s
  unfold cmdVer
  dsimp only
  rw [hring]
  dsimp only
  rw [hfind]
  cases h : (ringAt s q).cmds.find? (fun x => x.tok == tok) with
  | none => rfl
  | some x =>
    simp only [Option.map_some]
    split <;> rfl

/-- A command that names a round names the same one once it has started. -/
theorem cmdRound_started (s : Mach) (q : Nat) (c : RunCmd) (d : Desc) (off : Nat) :
    cmdRound (started q c s) (cmdVer (started q c s) ⟨q, c.tok⟩) d off = cmdRound s (verOf s q c) d off := by
  rw [cmdVer_started]
  rfl

/-- An access that the module serves reaches its register. -/
theorem hostAccess_served {a : Nat} {s : Mach} (h : Served s a) (f : Mach → Mach) : hostAccess a f s = f s := by
  obtain ⟨hready, hperst, hcovered, hanswers⟩ := h
  have hlink : noLink s = false := by simp [noLink, hready, hperst]
  have hserved : notServed s a = false := by simp [notServed, hready]
  cases hplace : placeOf a with
  | die d o => rw [hostAccess_die a d o f s hlink hserved hcovered hplace, if_pos (hanswers d o hplace)]
  | _ => exact hostAccess_module a f s hlink hserved hcovered (by simp [hplace])

theorem runAccess_served {a : Nat} {s : State} (h : Served s.m a) (f : Mach → Mach) : runAccess a f s = .next (accessed f s) := by
  rw [runAccess, runHost, hostAccess_served h]
  rfl

/-- An access that the module serves changes the module as `g` does. -/
theorem runAccess_eq {a : Nat} {s : State} (h : Served s.m a) {f g : Mach → Mach} (hfg : f s.m = g s.m) :
    runAccess a f s = .next (accessed g s) := by
  rw [runAccess_served h, accessed, hfg]
  rfl

/-! ### What a signal leaves alone -/

section
variable {s t : Mach} (h : Signals s t)
include h

theorem Signals.now : t.now = s.now := by
  obtain ⟨_, _, _, rfl⟩ := h
  rfl

theorem Signals.ctl : t.ctl = s.ctl := by
  obtain ⟨_, _, _, rfl⟩ := h
  rfl

theorem Signals.rnd : t.rnd = s.rnd := by
  obtain ⟨_, _, _, rfl⟩ := h
  rfl

theorem Signals.cores : t.cores = s.cores := by
  obtain ⟨_, _, _, rfl⟩ := h
  rfl

theorem Signals.dies : t.dies = s.dies := by
  obtain ⟨_, _, _, rfl⟩ := h
  rfl

theorem Signals.dpw : t.dpw = s.dpw := by
  obtain ⟨_, _, _, rfl⟩ := h
  rfl

theorem Signals.sec : t.sec = s.sec := by
  obtain ⟨_, _, _, rfl⟩ := h
  rfl

theorem Signals.fab : t.fab = s.fab := by
  obtain ⟨_, _, _, rfl⟩ := h
  rfl

theorem Signals.edge : t.edge = s.edge := by
  obtain ⟨_, _, _, rfl⟩ := h
  rfl

theorem Signals.stk : t.stk = s.stk := by
  obtain ⟨_, _, _, rfl⟩ := h
  rfl

theorem Signals.trn : t.trn = s.trn := by
  obtain ⟨_, _, _, rfl⟩ := h
  rfl

theorem Signals.ports : t.ports = s.ports := by
  obtain ⟨_, _, _, rfl⟩ := h
  rfl

theorem Signals.rmt : t.rmt = s.rmt := by
  obtain ⟨_, _, _, rfl⟩ := h
  rfl

theorem Signals.sys : t.sys = s.sys := by
  obtain ⟨_, _, _, rfl⟩ := h
  rfl

theorem Signals.ls : t.ls = s.ls := by
  obtain ⟨_, _, _, rfl⟩ := h
  rfl

theorem Signals.keep : t.keep = s.keep := by
  obtain ⟨_, _, _, rfl⟩ := h
  rfl

theorem Signals.mnt : t.mnt = s.mnt := by
  obtain ⟨_, _, _, rfl⟩ := h
  rfl

theorem Signals.pwr : t.pwr = s.pwr := by
  obtain ⟨_, _, _, rfl⟩ := h
  rfl

theorem Signals.start : t.start = s.start := by
  obtain ⟨_, _, _, rfl⟩ := h
  rfl

theorem Signals.led : t.led = s.led := by
  obtain ⟨_, _, _, rfl⟩ := h
  rfl

theorem Signals.cal : t.cal = s.cal := by
  obtain ⟨_, _, _, rfl⟩ := h
  rfl

theorem Signals.weft : t.weft = s.weft := by
  obtain ⟨_, _, _, rfl⟩ := h
  rfl

theorem Signals.cradle : t.cradle = s.cradle := by
  obtain ⟨_, _, _, rfl⟩ := h
  rfl

end

/-- A bit that is set. -/
theorem bit_setBit_same {w : Nat} (x : BitVec w) {i : Nat} (h : i < w) : bit (setBit x i) i = true := by
  simp only [bit, setBit, BitVec.getLsbD_or, BitVec.getLsbD_ofNat, Nat.testBit_two_pow_self, decide_eq_true h, Bool.and_self, Bool.or_true]

theorem bit_setBit_other {w : Nat} (x : BitVec w) {i j : Nat} (h : j ≠ i) : bit (setBit x i) j = bit x j := by
  have hpow : (2 ^ i).testBit j = false := Nat.testBit_two_pow_of_ne (Ne.symm h)
  simp only [bit, setBit, BitVec.getLsbD_or, BitVec.getLsbD_ofNat, hpow, Bool.and_false, Bool.or_false]

end Sys2Proof.Spec
end

section
/-! PROOFS. What work at edge memory leaves alone (R214, R395, R405): everything outside the stacks, edge memory, the arrivals of update
lists, the ledger's queue, the activities and the interrupt block; and of the last, the rings. -/

namespace Sys2Proof.Spec

open Sys2Proof.Machine

/-- Edge memory was worked on: reads with their errors, writes with their arrivals, units of the stacks. -/
def EdgeWork (s t : Mach) : Prop :=
  (∃ n h o e k tr l m, t = { s with notes := n, host := h, out := o, edge := e, stk := k, trn := tr, led := l, mnt := m } ∧
    h.rings = s.host.rings) ∧
  (∀ u, ∃ a, unitAt t u = { unitAt s u with arr := a }) ∧
  ∀ st, (stkAt s st).retQ = 0x3F → (stkAt t st).retQ = 0x3F

namespace EdgeWork

theorem refl (s : Mach) : EdgeWork s s :=
  ⟨⟨s.notes, s.host, s.out, s.edge, s.stk, s.trn, s.led, s.mnt, rfl, rfl⟩, fun u => ⟨(unitAt s u).arr, rfl⟩, fun _ h => h⟩

theorem trans {s t u : Mach} (h : EdgeWork s t) (h' : EdgeWork t u) : EdgeWork s u := by
  obtain ⟨⟨_, _, _, _, _, _, _, _, rfl, hr⟩, hu, hq⟩ := h
  obtain ⟨⟨_, _, _, _, _, _, _, _, rfl, hr'⟩, hu', hq'⟩ := h'
  refine ⟨⟨_, _, _, _, _, _, _, _, rfl, hr'.trans hr⟩, fun u => ?_, fun st h => hq' st (hq st h)⟩
  obtain ⟨a, ha⟩ := hu u
  obtain ⟨a', ha'⟩ := hu' u
  exact ⟨a', by rw [ha', ha]⟩

/-- A change of the edge memory block alone. -/
theorem modEdge (f : Edge → Edge) (s : Mach) : EdgeWork s (Machine.modEdge f s) :=
  ⟨⟨_, _, _, _, _, _, _, _, rfl, rfl⟩, fun u => ⟨(unitAt s u).arr, rfl⟩, fun _ h => h⟩

theorem modMnt (f : Maint → Maint) (s : Mach) : EdgeWork s (Machine.modMnt f s) :=
  ⟨⟨_, _, _, _, _, _, _, _, rfl, rfl⟩, fun u => ⟨(unitAt s u).arr, rfl⟩, fun _ h => h⟩

theorem modLed (f : Ledger → Ledger) (s : Mach) : EdgeWork s (Machine.modLed f s) :=
  ⟨⟨_, _, _, _, _, _, _, _, rfl, rfl⟩, fun u => ⟨(unitAt s u).arr, rfl⟩, fun _ h => h⟩

theorem noted (n : Notes) (s : Mach) : EdgeWork s { s with notes := n } :=
  ⟨⟨_, _, _, _, _, _, _, _, rfl, rfl⟩, fun u => ⟨(unitAt s u).arr, rfl⟩, fun _ h => h⟩

/-- A change of a stack that starts no retraining. -/
theorem modStk {st : Nat} {f : Stack → Stack} (s : Mach) (h : (stkAt s st).retQ = 0x3F → (f (stkAt s st)).retQ = 0x3F) :
    EdgeWork s (Machine.modStk st f s) := by
  refine ⟨⟨_, _, _, _, _, _, _, _, rfl, rfl⟩, fun u => ⟨(unitAt s u).arr, rfl⟩, fun j hj => ?_⟩
  by_cases e : j = st
  · subst e
    rw [stkAt_modStk]
    exact h hj
  · rwa [stkAt_modStk_other _ _ e]

end EdgeWork

theorem raiseIrq_rings (c : Nat) (s : Mach) : (raiseIrq c s).host.rings = s.host.rings := by
  unfold raiseIrq sendVector
  dsimp only
  split
  · rfl
  · split
    · rfl
    · split <;> rfl

theorem raiseIrq_edgeWork (c : Nat) (s : Mach) : EdgeWork s (raiseIrq c s) := by
  have hrings := raiseIrq_rings c s
  obtain ⟨n, h, o, e⟩ := raiseIrq_only c s
  rw [e] at hrings ⊢
  exact ⟨⟨n, h, o, _, _, _, _, _, rfl, hrings⟩, fun u => ⟨(unitAt s u).arr, rfl⟩, fun _ h => h⟩

theorem emcEvt_edgeWork (b : Nat) (s : Mach) : EdgeWork s (emcEvt b s) :=
  ((EdgeWork.modEdge _ s).trans (EdgeWork.noted _ _)).trans (raiseIrq_edgeWork 11 _)

theorem takeTokens_only (acts : List Activity) : ∀ (n : Nat) (a : Activity), ∃ h, takeTokens acts n a = { a with held := h } := by
  intro n
  induction n with
  | zero => exact fun a => ⟨a.held, rfl⟩
  | succ n ih =>
    intro a
    rw [takeTokens]
    split
    · exact ⟨a.held, rfl⟩
    · split
      · exact ih _
      · exact ⟨a.held, rfl⟩

/-- The request of an activity that no command awaits, and that is no retraining, is only noted. -/
theorem reqDieLost_edgeWork (st d : Nat) (s : Mach) : EdgeWork s (reqDieLost st d s) := by
  unfold reqDieLost
  dsimp only
  split
  · exact EdgeWork.refl s
  · unfold reqActivity
    extract_lets a0 a s1
    have hs1 : EdgeWork s s1 := EdgeWork.modMnt _ s
    obtain ⟨h, ha⟩ := takeTokens_only s.mnt.acts [tokGroup st (if d < 10 then 0 else 2), tokGroup st ((if d < 10 then 0 else 2) + 1)].length a0
    have hproceed : proceed a s1 = s1 := by
      rw [show a = { a0 with held := h } from ha]
      rfl
    split
    · rwa [hproceed]
    · exact hs1

theorem edgeLogEntry_retQ (n : EdgeLog) (k : Stack) : (edgeLogEntry n k).1.retQ = k.retQ := by
  unfold edgeLogEntry
  split
  · rfl
  · split <;> rfl

theorem edgeNote_edgeWork (src cw : Nat) (err : CwErr) (s : Mach) : EdgeWork s (edgeNote src cw err s) := by
  unfold edgeNote
  extract_lets st note
  have hnote (n : EdgeLog) (s : Mach) : EdgeWork s (note n s) := by
    have hentry : EdgeWork s (modStk st (fun k => (edgeLogEntry n k).1)
        { s with notes := { s.notes with edges := s.notes.edges ++ [(st, n)] } }) :=
      (EdgeWork.noted _ s).trans (EdgeWork.modStk _ (fun h => by rw [edgeLogEntry_retQ]; exact h))
    simp only [note]
    split
    · exact hentry.trans (EdgeWork.modLed _ _)
    · exact hentry
  split
  · exact EdgeWork.refl s
  · exact EdgeWork.refl s
  next p pat =>
    extract_lets d s1
    have hs1 : EdgeWork s s1 := ((EdgeWork.modStk s (fun h => h)).trans (emcEvt_edgeWork 0 _)).trans (hnote _ _)
    split
    · exact hs1.trans (reqDieLost_edgeWork _ _ _)
    · exact hs1
  · exact ((EdgeWork.modStk s (fun h => h)).trans (emcEvt_edgeWork 1 _)).trans (hnote _ _)

theorem readCws_edgeWork (src : Nat) : ∀ (n cw : Nat) (s : Mach), EdgeWork s (readCws src cw n s).2 := by
  intro n
  induction n with
  | zero => exact fun _ s => EdgeWork.refl s
  | succ n ih => exact fun cw s => (edgeNote_edgeWork src cw _ s).trans (ih (cw + 1) _)

theorem readEdge_edgeWork (src ea n : Nat) (s : Mach) : EdgeWork s (readEdge src ea n s).2 := readCws_edgeWork src _ _ s

theorem abandonRetrain_edgeWork (st : Nat) (s : Mach) : EdgeWork s (abandonRetrain st s) := by
  unfold abandonRetrain
  extract_lets q s1
  have hs1 : EdgeWork s s1 := EdgeWork.modStk s (fun _ => rfl)
  split
  · exact hs1.trans (EdgeWork.modMnt _ _)
  · exact hs1

theorem countArrivals_edgeWork (cw : Nat) (s : Mach) : EdgeWork s (countArrivals cw s) := by
  unfold countArrivals
  extract_lets u un
  split
  · exact EdgeWork.refl s
  · refine ⟨⟨_, _, _, _, _, _, _, _, rfl, rfl⟩, fun j => ?_, fun _ h => h⟩
    by_cases e : j = u
    · subst e
      exact ⟨_, unitAt_modUnit u _ s⟩
    · exact ⟨(unitAt s j).arr, unitAt_modUnit_other _ s e⟩

theorem dropEdgeWb_edgeWork (cw : Nat) (s : Mach) : EdgeWork s (dropEdgeWb cw s) := by
  unfold dropEdgeWb
  dsimp only
  split
  · exact EdgeWork.modStk s (fun h => h)
  · exact EdgeWork.refl s

theorem writeCw_edgeWork (cw : Nat) (data : List Byte) (poison : Bool) (s : Mach) : EdgeWork s (writeCw cw data poison s) := by
  unfold writeCw
  extract_lets st k u inGroup s0 log p old new s1 s2
  have hs0 : EdgeWork s s0 := dropEdgeWb_edgeWork cw s
  have hs2 : EdgeWork s s2 := by
    simp only [s2]
    split
    · have hlog (x : Mach) : EdgeWork x (modStk st (fun k => { k with retLog := log }) x) := EdgeWork.modStk x (fun h => h)
      split
      · exact ((hs0.trans (EdgeWork.modEdge _ _)).trans (hlog _)).trans (abandonRetrain_edgeWork _ _)
      · exact (hs0.trans (EdgeWork.modEdge _ _)).trans (hlog _)
    · exact hs0.trans (EdgeWork.modEdge _ _)
  refine EdgeWork.trans ?_ (countArrivals_edgeWork cw _)
  split
  · exact hs2.trans (EdgeWork.modEdge _ _)
  · exact hs2

theorem writeCws_edgeWork : ∀ (n cw : Nat) (bs : List Byte) (s : Mach), EdgeWork s (writeCws cw bs n s) := by
  intro n
  induction n with
  | zero => exact fun _ _ s => EdgeWork.refl s
  | succ n ih => exact fun cw bs s => (writeCw_edgeWork cw _ false s).trans (ih (cw + 1) _ _)

theorem addWork_edgeWork (st : Nat) (w : Work) (s : Mach) : EdgeWork s (addWork st w s) := by
  obtain ⟨ks, h⟩ := addWork_frame st w s
  refine ⟨⟨_, _, _, _, ks, _, _, _, h, rfl⟩, fun u => ⟨(unitAt s u).arr, by rw [h]; rfl⟩, fun j hj => ?_⟩
  by_cases e : j = st
  · subst e
    obtain ⟨_, _, _, _, _, _, _, _, hk⟩ := addWork_served j w s
    rw [hk]
    exact hj
  · rwa [stkAt_addWork_other _ _ e]

theorem useUnits_edgeWork (cls ea n : Nat) (s : Mach) : EdgeWork s (useUnits cls ea n s) := addWork_edgeWork _ _ s

theorem EdgeWork.foldl {α : Type} {f : Mach → α → Mach} (h : ∀ s a, EdgeWork s (f s a)) (l : List α) :
    ∀ s, EdgeWork s (l.foldl f s) := by
  induction l with
  | nil => exact EdgeWork.refl
  | cons a l ih => exact fun s => (h s a).trans (ih _)

end Sys2Proof.Spec
end

section
/-! PROOFS. Update lists and weight digests (R265 to R284). -/

namespace Sys2Proof.Spec

open Sys2Proof.Machine

/-! ### What a job does to edge memory (R270, R273, R277) -/

theorem iter_edgeWork {f : Nat → Mach → Mach} (h : ∀ i s, EdgeWork s (f i s)) (n : Nat) (s : Mach) : EdgeWork s (iter n f s) :=
  EdgeWork.foldl (fun s i => h i s) _ s

theorem readGroup_edgeWork (use : Bool) (ea g : Nat) (s : Mach) : EdgeWork s (readGroup use ea g s).2.2 := by
  unfold readGroup
  split
  · exact readCws_edgeWork 1 1 _ s
  · exact EdgeWork.refl s

theorem writeNarrow_edgeWork (j : Job) (done : Nat) (flush : Bool) (r : JobRun) (s : Mach) :
    EdgeWork s (writeNarrow j done flush r s).2 := by
  unfold writeNarrow
  extract_lets at_ k s1 rest cw x old
  have hs1 : EdgeWork s s1 := iter_edgeWork (fun i s => writeCw_edgeWork _ _ false s) k s
  split
  · have hx : EdgeWork s x.2 := hs1.trans (readCws_edgeWork 1 1 cw s1)
    dsimp only
    split
    · exact hx
    · exact hx.trans (writeCw_edgeWork _ _ false _)
  · exact hs1

theorem jobGroup_edgeWork (j : Job) (c : Scal) (g : Nat) (st : JobRun × Mach) : EdgeWork st.2 (jobGroup j c g st).2 := by
  obtain ⟨r, s⟩ := st
  unfold jobGroup
  dsimp only
  split
  · exact EdgeWork.refl s
  · have h1 := readGroup_edgeWork true (jbG j) g s
    generalize readGroup true (jbG j) g s = x at h1 ⊢
    obtain ⟨gs, ue1, s1⟩ := x
    have h2 := h1.trans (readGroup_edgeWork true (jbW j) g s1)
    dsimp only at h2 ⊢
    generalize readGroup true (jbW j) g s1 = x at h2 ⊢
    obtain ⟨ws, ue2, s2⟩ := x
    have h3 := h2.trans (readGroup_edgeWork (jbUsesM j) (jbM j) g s2)
    dsimp only at h3 ⊢
    generalize readGroup (jbUsesM j) (jbM j) g s2 = x at h3 ⊢
    obtain ⟨ms, ue3, s3⟩ := x
    have h4 := h3.trans (readGroup_edgeWork (jbUsesV j) (jbV j) g s3)
    dsimp only at h4 ⊢
    generalize readGroup (jbUsesV j) (jbV j) g s3 = x at h4 ⊢
    obtain ⟨vs, ue4, s4⟩ := x
    dsimp only at h4 ⊢
    split
    · exact h4
    · split
      · exact h4
      · have hoptional (use : Bool) (cw : Nat) (bs : List Byte) (x : Mach) : EdgeWork x (if use then writeCw cw bs false x else x) := by
          split
          · exact writeCw_edgeWork _ _ _ _
          · exact EdgeWork.refl x
        split
        · refine EdgeWork.trans ?_ (writeNarrow_edgeWork j _ false _ _)
          exact ((h4.trans (writeCw_edgeWork _ _ false _)).trans (hoptional (jbUsesM j) _ _ _)).trans (hoptional (jbUsesV j) _ _ _)
        · exact ((h4.trans (writeCw_edgeWork _ _ false _)).trans (hoptional (jbUsesM j) _ _ _)).trans (hoptional (jbUsesV j) _ _ _)

theorem jobRun_edgeWork (j : Job) (status : Nat) (dig : BitVec 64) (s : Mach) : EdgeWork s (jobRun j status dig s).2 := by
  have hfold : ∀ (l : List Nat) (st : JobRun × Mach), EdgeWork st.2 (l.foldl (fun st g => jobGroup j (scal j) g st) st).2 := by
    intro l
    induction l with
    | nil => exact fun st => EdgeWork.refl st.2
    | cons g l ih => exact fun st => (jobGroup_edgeWork j _ g st).trans (ih _)
  exact (hfold _ _).trans (writeNarrow_edgeWork j _ true _ _)

theorem jobUnits_edgeWork (j : Job) (nr n : Nat) (s : Mach) : EdgeWork s (jobUnits j nr n s) := by
  unfold jobUnits
  extract_lets arrays take s1 s2 m s3
  have htake (cls k : Nat) (l : List (Bool × Nat)) (x : Mach) : EdgeWork x (take cls k l x) := by
    refine EdgeWork.foldl (fun y e => ?_) l x
    split
    · exact useUnits_edgeWork _ _ _ y
    · exact EdgeWork.refl y
  have hs1 : EdgeWork s s1 := htake 0 nr arrays s
  split
  · exact hs1
  · have hs2 : EdgeWork s s2 := hs1.trans (htake 1 n (arrays.drop 1) s1)
    have hs3 : EdgeWork s s3 := by
      simp only [s3]
      split
      · exact hs2.trans (useUnits_edgeWork _ _ _ _)
      · exact hs2
    split
    · exact hs3.trans (useUnits_edgeWork _ _ _ _)
    · exact hs3

theorem unitWrite_edgeWork (ea : Nat) (bs : List Byte) (s : Mach) : EdgeWork s (unitWrite ea bs s) :=
  (writeCws_edgeWork _ _ _ s).trans (useUnits_edgeWork _ _ _ _)

/-! ### Records (R271) -/

theorem writeCw_mem {cw : Nat} {data : List Byte} {s : Mach} (h : (stkAt s (stackOf (32 * cw))).retQ = 0x3F) :
    (writeCw cw data false s).edge.mem = wrBytes s.edge.mem (32 * cw) data := by
  obtain ⟨u, hu⟩ := countArrivals_only cw (modEdge (storeCw cw data) (dropEdgeWb cw s))
  have hdrop : (dropEdgeWb cw s).edge = s.edge := by
    unfold dropEdgeWb
    dsimp only
    split <;> rfl
  have heq : writeCw cw data false s = countArrivals cw (modEdge (storeCw cw data) (dropEdgeWb cw s)) := by
    simp only [writeCw, h, bne_self_eq_false, Bool.false_and, Bool.false_eq_true, if_false]
  rw [heq, hu]
  exact congrArg (fun e => wrBytes e.mem (32 * cw) data) hdrop

theorem jobRecord_length (s : Mach) (r : JobRun) : (jobRecord s r).length = 32 := by
  simp only [jobRecord, bytesOf, List.length_append, toBytes_length]

/-- What a unit writes of one code word reads so. -/
theorem unitWrite_reads {ea : Nat} {bs : List Byte} {s : Mach} (hlen : bs.length = 32) (hea : ea % 32 = 0)
    (h : (stkAt s (stackOf ea)).retQ = 0x3F) : rdBytes (unitWrite ea bs s).edge.mem ea 32 = bs := by
  have hea' : 32 * (ea / 32) = ea := by omega
  obtain ⟨ks, hunits⟩ := addWork_frame (stackOf ea) { cls := 1, runs := [(ea, 32)], pos := 0, key := none, square := false, rows := [] }
    (writeCw (ea / 32) (bs.take 32) false s)
  have heq : unitWrite ea bs s = addWork (stackOf ea) { cls := 1, runs := [(ea, 32)], pos := 0, key := none, square := false, rows := [] }
      (writeCw (ea / 32) (bs.take 32) false s) := by
    simp only [unitWrite, writeEdge, hlen]
    rfl
  have hmem : (unitWrite ea bs s).edge.mem = wrBytes s.edge.mem ea bs := by
    have hcw := writeCw_mem (cw := ea / 32) (data := bs.take 32) (s := s) (by rw [hea']; exact h)
    rw [hea', List.take_of_length_le hlen.le] at hcw
    rw [heq, hunits, List.take_of_length_le hlen.le]
    exact hcw
  rw [hmem, ← hlen]
  exact rdBytes_wrBytes bs _ ea

/-! ### The end of a list (R265, R272, R573) -/

/-- An idle unit for which no list waits starts none. -/
theorem nextList_idle {u : Nat} {s : Mach} (hlist : (unitAt s u).list = none) (hwaiting : (unitAt s u).waiting = []) :
    nextList u s = modUnit u (fun y => { y with waiting := y.waiting.map (fun a => { a with queued := false }) }) s := by
  simp only [nextList, nextLists, hlist, hwaiting, List.find?_nil]
  rfl

/-- A unit whose job has ended without an error. -/
def jobEnded (r : JobRun) (j : Job) : Unit_ → Unit_ := fun x =>
  { x with status := 0, dig := r.dig, elem := if jbNorm j then x.elem else satAdd x.elem r.n, ended := x.ended || jbFlag j 2 }

/-- What a job that ran without an error leaves in edge memory behind its elements: its record, and its next powers of beta. -/
def jobRecorded (u : Nat) (l : RunList) (s : Mach) (r : JobRun) (s1 : Mach) : Mach :=
  let s2 := jobUnits l.desc r.n r.n s1
  let s3 := if inUnit s u (jbRec l.desc) 32 then unitWrite (jbRec l.desc) (jobRecord s r) s2 else s2
  if jbNorm l.desc = false ∧ jbUsesV l.desc = true then
    unitWrite (l.jobs + 128 * l.job + 96)
      ((l.desc.drop 96).take 8 ++ bytesOf (scal l.desc).p1 ++ bytesOf (scal l.desc).p2 ++ l.desc.drop 112) s3
  else s3

theorem jobRecorded_edgeWork (u : Nat) (l : RunList) (s : Mach) (r : JobRun) (s1 : Mach) : EdgeWork s1 (jobRecorded u l s r s1) := by
  unfold jobRecorded
  extract_lets s2 s3
  have hs2 : EdgeWork s1 s2 := jobUnits_edgeWork _ _ _ s1
  have hs3 : EdgeWork s1 s3 := by
    simp only [s3]
    split
    · exact hs2.trans (unitWrite_edgeWork _ _ _)
    · exact hs2
  split
  · exact hs3.trans (unitWrite_edgeWork _ _ _)
  · exact hs3

/-- A NORM job leaves its record at REC. -/
theorem jobRecorded_reads {u : Nat} {l : RunList} {s s1 : Mach} {r : JobRun} (hwork : EdgeWork s s1) (hnorm : jbNorm l.desc = true)
    (hin : inUnit s u (jbRec l.desc) 32 = true) (hret : (stkAt s u).retQ = 0x3F) :
    rdBytes (jobRecorded u l s r s1).edge.mem (jbRec l.desc) 32 = jobRecord s r := by
  have hin' := hin
  simp only [inUnit, Bool.and_eq_true, beq_iff_eq, decide_eq_true_eq] at hin'
  obtain ⟨⟨⟨haligned, hst⟩, _⟩, _⟩ := hin'
  simp only [jobRecorded, hnorm, hin, Bool.true_eq_false, false_and, if_false, if_true]
  refine unitWrite_reads (jobRecord_length s r) haligned ?_
  rw [hst]
  exact (hwork.trans (jobUnits_edgeWork _ _ _ s1)).2.2 u hret

section
variable {u : Nat} {l : RunList} {s : Mach} (hlist : (unitAt s u).list = some l) (hj : l.desc ≠ [])
  (hl : l.status = 0) (hout : stackOut s u = false) (hx : (jobRun l.desc 0 (unitAt s u).dig s).1.status = 0)
  (hlast : (unitAt s u).stop = true ∨ l.njob ≤ l.job + 1)
include hlist hj hl hout hx hlast

/-- The last job of a list ends without an error: what it did to edge memory, then the end of the list. -/
theorem updateJobEnd_last : updateJobEnd u s = nextList u (endList u 0 (modUnit u (jobEnded (jobRun l.desc 0 (unitAt s u).dig s).1 l.desc)
    (jobRecorded u l s (jobRun l.desc 0 (unitAt s u).dig s).1 (jobRun l.desc 0 (unitAt s u).dig s).2))) := by
  have hempty : l.desc.isEmpty = false := by simpa using hj
  have hlast' : ((unitAt s u).stop || decide (l.njob ≤ l.job + 1)) = true := by simpa using hlast
  unfold updateJobEnd
  simp only [hlist, hempty, hout, hl, Bool.false_eq_true, if_false, Bool.not_false, Bool.true_and, Bool.and_true, Bool.false_or]
  rw [show (0 : Byte).toNat = 0 from rfl]
  generalize jobRun l.desc 0 (unitAt s u).dig s = x at hx ⊢
  obtain ⟨r, s1⟩ := x
  dsimp only at hx ⊢
  simp only [hx, hlast', ne_eq, not_true_eq_false, if_false, if_true, beq_self_eq_true, Bool.true_or, true_and,
    zero_ne_one, Bool.not_eq_true', jobRecorded]
  rfl

end

/-- A unit whose list has ended. -/
def listEnded (x : Unit_) : Unit_ := { x with list := none, stop := false, status := 0 }

theorem endList_runs {u : Nat} {l : RunList} {s : Mach} (h : (unitAt s u).list = some l) :
    endList u 0 s = complete l.owed 0 (65536 * l.job) (modUnit u listEnded s) := by
  simp only [endList, h, Nat.zero_add]
  rfl

/-- A unit that runs no list, and for which none waits. -/
def noneQueued (y : Unit_) : Unit_ := { y with waiting := y.waiting.map (fun a => { a with queued := false }) }

/-- The end of a list behind which none waits. -/
theorem nextList_endList {u : Nat} {l : RunList} {s : Mach} (hlist : (unitAt s u).list = some l) (hwaiting : (unitAt s u).waiting = []) :
    nextList u (endList u 0 s) = modUnit u noneQueued (complete l.owed 0 (65536 * l.job) (modUnit u listEnded s)) := by
  have hunit : unitAt (complete l.owed 0 (65536 * l.job) (modUnit u listEnded s)) u = listEnded (unitAt s u) := unitAt_modUnit u listEnded s
  rw [endList_runs hlist, nextList_idle (by rw [hunit]; rfl) (by rw [hunit]; exact hwaiting)]
  rfl

theorem ringAt_complete_congr {s t : Mach} (h : t.host.rings = s.host.rings) (o : Owed) (st det : Nat) :
    ringAt (complete o st det t) o.ring = ringAt (complete o st det s) o.ring := by
  have hring : ringAt t o.ring = ringAt s o.ring := congrArg (tget Ring.reset · o.ring) h
  simp only [complete, ringAt_modRing, hring]

/-- STOP at one unit. -/
def stopUnit (v : Word) (s : Mach) (u : Nat) : Mach :=
  if bit v u && (unitAt s u).list.isSome then modUnit u (fun x => { x with stop := true }) s else s

theorem stopUnit_only (v : Word) (s : Mach) (u : Nat) : ∃ us, stopUnit v s u = modTrn (fun t => { t with units := us }) s := by
  unfold stopUnit
  split
  · exact ⟨_, rfl⟩
  · exact ⟨s.trn.units, rfl⟩

theorem unitAt_stopUnit (v : Word) (s : Mach) (u j : Nat) : unitAt (stopUnit v s u) j =
    { unitAt s j with stop := (unitAt s j).stop || (decide (j = u) && bit v j && (unitAt s j).list.isSome) } := by
  unfold stopUnit
  by_cases e : j = u
  · subst e
    simp only [decide_true, Bool.true_and]
    split
    next h => rw [unitAt_modUnit, h, Bool.or_true]
    next h => rw [Bool.eq_false_iff.2 h, Bool.or_false]
  · simp only [e, decide_false, Bool.false_and, Bool.or_false]
    split
    · exact unitAt_modUnit_other _ s e
    · rfl

theorem foldl_stopUnit_only (v : Word) (l : List Nat) : ∀ s, ∃ us, l.foldl (stopUnit v) s = modTrn (fun t => { t with units := us }) s := by
  induction l with
  | nil => exact fun s => ⟨s.trn.units, rfl⟩
  | cons u l ih =>
    intro s
    obtain ⟨us, h⟩ := stopUnit_only v s u
    obtain ⟨us', h'⟩ := ih (stopUnit v s u)
    exact ⟨us', by rw [List.foldl_cons, h', h]; rfl⟩

theorem unitAt_foldl_stopUnit (v : Word) (j : Nat) (l : List Nat) : ∀ s, unitAt (l.foldl (stopUnit v) s) j =
    { unitAt s j with stop := (unitAt s j).stop || (decide (j ∈ l) && bit v j && (unitAt s j).list.isSome) } := by
  induction l with
  | nil =>
    intro s
    simp
  | cons u l ih =>
    intro s
    rw [List.foldl_cons, ih, unitAt_stopUnit]
    simp only [List.mem_cons, Bool.decide_or, Bool.or_assoc, Bool.and_or_distrib_right]

theorem updateListsRunTheirJobs : UpdateListsRunTheirJobs := by
  intro s
  refine ⟨fun q d c m hstarts hround hlate hea haligned hone hroom => ?_,
    fun u l hlist hj hl hout hx hlast hwaiting => ?_, fun v hserved => ?_⟩
  · refine run_eq_after ?_
    unfold updateList
    rw [startCmd_starts hstarts]
    have hcond : ¬ (2 ^ 41 ≤ cB d 16 8 ∨ cB d 16 8 % 32 ≠ 0 ∨ stackOf (cB d 16 8 + 127) ≠ stackOf (cB d 16 8)) := by
      simp only [not_or, not_le, not_not]
      exact ⟨hea, haligned, hone⟩
    have hlate' : roundStarted (started q.val c s.m) m = false := hlate
    have hunit : unitAt (started q.val c s.m) (stackOf (cB d 16 8)) = unitAt s.m (stackOf (cB d 16 8)) := rfl
    have hroom' : ((unitAt s.m (stackOf (cB d 16 8))).list.isSome && (unitAt s.m (stackOf (cB d 16 8))).waiting.any (·.queued)) = false := by
      rcases hroom with h | h
      · rw [h]
        rfl
      · rw [List.any_eq_false.2 (fun w hw => by rw [h w hw]; exact Bool.false_ne_true), Bool.and_false]
    simp only [cmdRound_started, hround, if_neg hcond, hlate', hunit, hroom', Bool.false_eq_true, if_false]
    exact modUnit_congr (by rw [hunit])
  · have hwork := (jobRun_edgeWork l.desc 0 (unitAt s.m u.val).dig s.m).trans
      (jobRecorded_edgeWork u.val l s.m (jobRun l.desc 0 (unitAt s.m u.val).dig s.m).1 _)
    have hrecord := fun hn hi hr => jobRecorded_reads (u := u.val) (l := l) (r := (jobRun l.desc 0 (unitAt s.m u.val).dig s.m).1)
      (jobRun_edgeWork l.desc 0 (unitAt s.m u.val).dig s.m) hn hi hr
    have heq := updateJobEnd_last hlist hj hl hout hx hlast
    generalize (jobRun l.desc 0 (unitAt s.m u.val).dig s.m).1 = r at hwork hrecord heq ⊢
    generalize jobRecorded u.val l s.m r _ = s4 at hwork hrecord heq
    obtain ⟨⟨_, _, _, _, _, _, _, _, hs4, hrings⟩, hunits, _⟩ := hwork
    obtain ⟨arr, hunit⟩ := hunits u.val
    have hunit5 : unitAt (modUnit u.val (jobEnded r l.desc) s4) u.val = jobEnded r l.desc { unitAt s.m u.val with arr := arr } := by
      rw [unitAt_modUnit, hunit]
    rw [nextList_endList (l := l) (by rw [hunit5]; exact hlist) (by rw [hunit5]; exact hwaiting)] at heq
    obtain ⟨ht, hp, hm⟩ := runs_to (f := updateJobEnd u.val) (s := s) (by rw [heq, hs4]; rfl)
    have hown : unitAt (updateJobEnd u.val s.m) u.val = noneQueued (listEnded (jobEnded r l.desc { unitAt s.m u.val with arr := arr })) := by
      rw [heq, unitAt_modUnit]
      refine congrArg noneQueued ?_
      exact (unitAt_modUnit u.val listEnded _).trans (congrArg listEnded hunit5)
    refine ⟨_, ht, hp, ?_⟩
    rw [hm, hown]
    refine ⟨rfl, rfl, rfl, ?_, ?_, ?_, ?_⟩
    · rw [heq]
      exact ringAt_complete_congr (s := s.m) (by rw [hs4]; exact hrings) l.owed 0 (65536 * l.job)
    · rw [heq, hs4]
      rfl
    · rw [heq, hs4]
      rfl
    · rw [heq]
      exact hrecord
  · refine ⟨accessed (uuStop v) s, runAccess_served hserved (uuStop v), ?_, fun j => ?_⟩
    · obtain ⟨us, h⟩ := foldl_stopUnit_only v (List.range 32) s.m
      have hm : uuStop v s.m = modTrn (fun t => { t with units := (uuStop v s.m).trn.units }) s.m := by
        have h' : uuStop v s.m = modTrn (fun t => { t with units := us }) s.m := h
        rw [h']
        rfl
      exact congrArg s.accessed hm
    · refine (unitAt_foldl_stopUnit v j (List.range 32) s.m).trans ?_
      simp only [List.mem_range]

/-! ### Weight digests (R281 to R284) -/

theorem trnEvt_signals (b : Nat) (s : Mach) : Signals (modTrn (fun t => { t with evt := setBit t.evt b }) s) (trnEvt b s) :=
  (noteRaise_signals _ _ _).trans (raiseIrq_signals 4 _)

/-- A digest of the step that is due, the first of its sender, is kept. -/
theorem digestArrive_kept {m : BitVec 192} {s : Mach} (hown : s.trn.own = []) (hpeer : fld m 128 16 ∈ digPeers s)
    (hdue : (fld m 32 32 : Word).toNat = nextExchange s s.trn.step.toNat % 2 ^ 32 ∨
      (fld m 32 32 : Word).toNat = (nextExchange s s.trn.step.toNat + digInterval s) % 2 ^ 32)
    (hfirst : ∀ x ∈ s.trn.kept, ¬ (x.step = fld m 32 32 ∧ x.sender = fld m 128 16)) :
    digestArrive m s = modTrn (fun t => { t with kept := t.kept ++ [⟨fld m 32 32, fld m 128 16, fld m 64 64⟩] }) s := by
  have hwant : ((fld m 32 32 : Word).toNat == nextExchange s s.trn.step.toNat % 2 ^ 32 ||
      (fld m 32 32 : Word).toNat == (nextExchange s s.trn.step.toNat + digInterval s) % 2 ^ 32) = true := by simpa using hdue
  have hdup : s.trn.kept.any (fun d => d.step == fld m 32 32 && d.sender == fld m 128 16) = false := by
    simpa using hfirst
  have hsender : (digPeers s).contains (fld m 128 16) = true := by simpa using hpeer
  have htry (f : Train → Train) (h : (f s.trn).own = []) : digTry (modTrn f s) = modTrn f s := by
    simp [digTry, h]
  unfold digestArrive
  simp only [hown, List.head?_nil]
  rw [hwant, hdup, hsender]
  exact htry _ hown

/-- The digests that count for an own one. -/
abbrev gotFor (s : Mach) (o : OwnDigest) : List PeerDigest :=
  s.trn.kept.filter (fun x => x.step == o.step && (digPeers s).contains x.sender)

theorem digestTimeout_one {s : Mach} {o : OwnDigest} (hown : s.trn.own = [o]) (h1 : 1 ≤ o.rounds)
    (hto : s.trn.digTimeout.toNat ≤ o.rounds) : digestTimeout s = digDecide o s := by
  simp only [digestTimeout, hown, List.foldl_cons, List.foldl_nil]
  rw [if_pos (Nat.max_le.2 ⟨h1, hto⟩)]

/-- What a decision with an outcome leaves of the own digest and of those kept. -/
def decided (o : OwnDigest) (out agree recv : Nat) (t : Train) : Train :=
  { t with outcome := BitVec.ofNat 3 out, agree := BitVec.ofNat 7 agree, recv := BitVec.ofNat 6 recv, digStep := o.step
           digLast := o.value, own := t.own.filter (· != o), kept := t.kept.filter (fun d => d.step != o.step) }

theorem digDecide_agreed {s : Mach} {o : OwnDigest} (hall : (gotFor s o).length = (digPeers s).length)
    (hsame : ∀ x ∈ gotFor s o, x.value = o.value) :
    digDecide o s = modTrn (decided o 1 ((digPeers s).length + 1) (digPeers s).length) s := by
  have hagree : (gotFor s o).filter (fun d => d.value == o.value) = gotFor s o :=
    List.filter_eq_self.2 (fun x hx => by simpa using hsame x hx)
  have hbad : (gotFor s o).find? (fun d => d.value != o.value) = none :=
    List.find?_eq_none.2 (fun x hx => by simpa using hsame x hx)
  have hmajority : (digPeers s).length + 1 < 2 * (1 + (digPeers s).length) := by omega
  simp only [digDecide, hagree, hbad, hall, if_pos hmajority, Option.isSome_none, Bool.false_eq_true, if_false, lt_irrefl]
  rw [Nat.add_comm (digPeers s).length 1]
  rfl

/-- The events that a decision raises before it is judged. -/
def received (s : Mach) (o : OwnDigest) (s1 : Mach) : Mach := if (gotFor s o).length < (digPeers s).length then trnEvt 2 s1 else s1

theorem digDecide_outvoted {s : Mach} {o : OwnDigest} {v : BitVec 64} (hv : v ≠ o.value) (hmem : v ∈ (gotFor s o).map (·.value))
    (hmajority : (digPeers s).length + 1 < 2 * ((gotFor s o).filter (fun x => x.value == v)).length)
    (hown : 2 * (1 + ((gotFor s o).filter (fun x => x.value == o.value)).length) ≤ (digPeers s).length + 1) :
    digDecide o s = uncorrected 0x31 (digRecord 3 o.step (nameFailed s.ctl.id (trnEvt 4 (received s o
      (modTrn (decided o 3 (1 + ((gotFor s o).filter (fun x => x.value == o.value)).length) (gotFor s o).length) s))))) := by
  have hnot : ¬ (digPeers s).length + 1 < 2 * (1 + ((gotFor s o).filter (fun x => x.value == o.value)).length) := by omega
  have hother : (gotFor s o).any (fun d => d.value != o.value &&
      decide ((digPeers s).length + 1 < 2 * ((gotFor s o).filter (fun e => e.value == d.value)).length)) = true := by
    obtain ⟨x, hx, rfl⟩ := List.mem_map.1 hmem
    exact List.any_eq_true.2 ⟨x, hx, by rw [decide_eq_true hmajority, bne_iff_ne.2 hv]; rfl⟩
  simp only [digDecide, if_neg hnot, hother, if_true]
  rfl

theorem received_signals (s : Mach) (o : OwnDigest) (s1 : Mach) : ∃ e, Signals (modTrn (fun t => { t with evt := e }) s1) (received s o s1) := by
  unfold received
  split
  · exact ⟨_, trnEvt_signals 2 s1⟩
  · exact ⟨s1.trn.evt, Signals.refl s1⟩

/-- The uncorrected fault leaves the failed module that is named. -/
theorem faultKept_named (s : Mach) (cls : Nat) (k : Keep) :
    (faultKept s cls k).namedValid = k.namedValid ∧ (faultKept s cls k).namedId = k.namedId := by
  unfold faultKept
  split <;> exact ⟨rfl, rfl⟩

/-- What an outvoted module does: it names itself, and the uncorrected fault holds it. -/
theorem outvoted_effects (s : Mach) (id : BitVec 16) (step : Word) :
    let t := uncorrected 0x31 (digRecord 3 step (nameFailed id (trnEvt 4 s)))
    t.now = s.now ∧ t.trn = { s.trn with evt := setBit s.trn.evt 4 } ∧ t.keep.faulted = true ∧ t.keep.holdNext = true ∧
      t.keep.namedValid = true ∧ (s.keep.namedValid = false → t.keep.namedId = id) := by
  intro t
  have hevt := trnEvt_signals 4 s
  obtain ⟨_, hfaulted, hhold⟩ := uncorrected_keep 0x31 (digRecord 3 step (nameFailed id (trnEvt 4 s)))
  have hunc := uncorrected_signals 0x31 (digRecord 3 step (nameFailed id (trnEvt 4 s)))
  have hnamed : t.keep.namedValid = true ∧ t.keep.namedId = if s.keep.namedValid then s.keep.namedId else id := by
    have hkeep : (trnEvt 4 s).keep = s.keep := hevt.keep
    have hnamed : (digRecord 3 step (nameFailed id (trnEvt 4 s))).keep =
        { s.keep with namedValid := true, namedId := if s.keep.namedValid then s.keep.namedId else id } := by
      rw [← hkeep]
      rfl
    rw [hunc.keep, modKeep_own, hnamed, (faultKept_named _ _ _).1, (faultKept_named _ _ _).2]
    exact ⟨rfl, rfl⟩
  refine ⟨hunc.now.trans hevt.now, hunc.trn.trans hevt.trn, hfaulted, hhold, hnamed.1, fun h => by rw [hnamed.2, h]; rfl⟩

theorem weightDigestsAreExchanged : WeightDigestsAreExchanged := by
  intro s
  refine ⟨fun p m hown hpeer hdue hfirst => run_eq_after (digestArrive_kept hown hpeer hdue hfirst), fun o hown h1 hto => ⟨?_, ?_⟩⟩
  · intro hall hsame
    refine run_eq_after ?_
    have hrest : s.m.trn.own.filter (· != o) = [] := by simp [hown]
    rw [digestTimeout_one hown h1 hto, digDecide_agreed hall hsame]
    simp only [modTrn, decided, hrest]
    rfl
  · intro v hv hmem hmajority hminority
    have heq := (digestTimeout_one hown h1 hto).trans (digDecide_outvoted hv hmem hmajority hminority)
    obtain ⟨evt, hreceived⟩ := received_signals s.m o (modTrn
      (decided o 3 (1 + ((gotFor s.m o).filter (fun x => x.value == o.value)).length) (gotFor s.m o).length) s.m)
    have heffects := outvoted_effects (received s.m o (modTrn
      (decided o 3 (1 + ((gotFor s.m o).filter (fun x => x.value == o.value)).length) (gotFor s.m o).length) s.m)) s.m.ctl.id o.step
    rw [← heq, hreceived.now, hreceived.trn, hreceived.keep] at heffects
    obtain ⟨hnow, htrn, hfaulted, hhold, hnamed, hid⟩ := heffects
    obtain ⟨ht, hp, hm⟩ := runs_to (f := digestTimeout) (s := s) hnow
    refine ⟨_, ht, hp, ?_⟩
    rw [hm, htrn]
    refine ⟨rfl, ?_, bit_setBit_same _ (by decide), hfaulted, hhold, hnamed, hid⟩
    simp [decided, hown]

/-- Settles O16: a list's jobs only work at edge memory and leave the unit's own fields alone but for what they count; a decision over
the weight digests follows from how many of the digests that came agree. -/
theorem updateListsAndWeightDigests : Obligations.UpdateListsAndWeightDigests :=
  ⟨updateListsRunTheirJobs, weightDigestsAreExchanged⟩

end Sys2Proof.Spec
end

section
/-! PROOFS. The optical ports: link-up, identity, latency, link-down and PRT_CFG (R309 to R317, R324), and the partner table that a new
partner enters (R331, R334). -/

namespace Sys2Proof.Spec

open Sys2Proof.Machine

/-! ### Lanes that fail (R310) -/

theorem portEvt_signals (p b : Nat) (s : Mach) : Signals (modPort p (fun x => { x with evt := setBit x.evt b }) s) (portEvt p b s) :=
  (noteRaise_signals _ _ _).trans (raiseIrq_signals 5 _)

theorem portAt_portEvt (p b : Nat) (s : Mach) (j : Nat) :
    portAt (portEvt p b s) j = portAt (modPort p (fun x => { x with evt := setBit x.evt b }) s) j :=
  congrArg (tget Port.reset · j) (portEvt_signals p b s).ports

/-- A lane is failed or it is not. -/
theorem laneCount_not (m : BitVec 16) : laneCount m + laneCount (~~~ m) = 16 := by
  have hsplit : ∀ l : List Nat, (∀ i ∈ l, i < 16) →
      (l.filter (fun i => bit m i)).length + (l.filter (fun i => bit (~~~ m) i)).length = l.length := by
    intro l hl
    have hnot : l.filter (fun i => bit (~~~ m) i) = l.filter (fun i => !bit m i) :=
      List.filter_congr (fun i hi => by simp [bit, hl i hi])
    rw [hnot]
    exact (List.length_eq_length_filter_add (fun i => bit m i)).symm
  exact hsplit (List.range 16) (fun i hi => List.mem_range.1 hi)

theorem or_of_and_not_eq_zero {a l : BitVec 16} (h : l &&& ~~~ a = 0) : a ||| l = a := by
  refine BitVec.eq_of_getLsbD_eq (fun i hi => ?_)
  have hbit : (l &&& ~~~ a).getLsbD i = false := by rw [h]; exact BitVec.getLsbD_zero
  simp only [BitVec.getLsbD_and, BitVec.getLsbD_not, hi, decide_true, Bool.true_and] at hbit
  rw [BitVec.getLsbD_or]
  cases ha : a.getLsbD i <;> cases hl : l.getLsbD i <;> simp_all

/-- The lanes of a port that has just been equalized: those that failed before or now are out. -/
theorem active_lanes (a l : BitVec 16) :
    (if l &&& ~~~ a = 0 then 0xFFFF &&& ~~~ a else (0xFFFF &&& ~~~ a) &&& ~~~ l) = ~~~ (a ||| l) := by
  have hall : (0xFFFF : BitVec 16) &&& ~~~ a = ~~~ a := BitVec.allOnes_and
  rw [hall]
  split
  next h => rw [or_of_and_not_eq_zero h]
  next => exact BitVec.not_or.symm

/-- Lanes that are excluded while at least 12 are left: the port keeps its link. -/
theorem excludeLanes_few {p : Nat} {l : BitVec 16} {s : Mach} (h : laneCount ((portAt s p).failed ||| l) ≤ 4) :
    (excludeLanes p l s).now = s.now ∧
      (∃ e, portAt (excludeLanes p l s) p = { portAt s p with
        failed := (portAt s p).failed ||| l
        active := if l &&& ~~~ (portAt s p).failed = 0 then (portAt s p).active else (portAt s p).active &&& ~~~ l
        evt := e }) ∧
      ∀ j, j ≠ p → portAt (excludeLanes p l s) j = portAt s j := by
  unfold excludeLanes
  by_cases hnone : l &&& ~~~ (portAt s p).failed = 0
  · rw [if_pos hnone, if_pos hnone, or_of_and_not_eq_zero hnone]
    exact ⟨rfl, ⟨(portAt s p).evt, rfl⟩, fun _ _ => rfl⟩
  · rw [if_neg hnone, if_neg hnone]
    extract_lets s1
    have hport (j : Nat) : portAt s1 j = portAt (modPort p (fun x => { x with evt := setBit x.evt 3 })
        (modPort p (fun x => { x with failed := x.failed ||| l, active := x.active &&& ~~~ l }) s)) j := portAt_portEvt p 3 _ j
    have hown : portAt s1 p = { portAt s p with
        failed := (portAt s p).failed ||| l, active := (portAt s p).active &&& ~~~ l, evt := setBit (portAt s p).evt 3 } := by
      rw [hport, portAt_modPort, portAt_modPort]
    have hcount : laneCount (portAt s1 p).failed ≤ 4 := by rw [hown]; exact h
    rw [if_pos hcount]
    refine ⟨(portEvt_signals p 3 _).now, ⟨_, hown⟩, fun j hj => ?_⟩
    rw [hport, portAt_modPort_other _ _ hj, portAt_modPort_other _ _ hj]

/-! ### Link-down (R310, R317) -/

theorem foldl_endActivity_ports (hs : List (BitVec 16)) : ∀ s, (hs.foldl (fun s h => endActivity h s) s).ports = s.ports ∧
    (hs.foldl (fun s h => endActivity h s) s).now = s.now := by
  induction hs with
  | nil => exact fun s => ⟨rfl, rfl⟩
  | cons h hs ih => exact fun s => ih (endActivity h s)

/-- A port that has no live retraining. -/
def noRetrain (x : Port) : Port :=
  { x with rt := none, rtQueue := [], rtOfWalk := false, rtHold := false, rtPeer := none, rtPeerWait := none }

/-- A port whose link carries nothing any more. -/
def linkless (cause : Nat) (x : Port) : Port :=
  { x with
    cause := BitVec.ofNat 4 cause, state := if x.retry then 7 else 1, gen := 0, active := 0
    mgmt := [], urgent := [], nakDue := false, nakSent := false, idleDue := false, resend := none, echoOut := none }

theorem dropLink_port (p cause : Nat) (s : Mach) :
    (dropLink p cause s).now = s.now ∧ portAt (dropLink p cause s) p = linkless cause (noRetrain (portAt s p)) := by
  have hend := foldl_endActivity_ports ((s.mnt.acts.filter (fun a => a.code == 4 && a.subject == p)).map (·.handle)) (modPort p noRetrain s)
  refine ⟨hend.2, ?_⟩
  have hport : portAt (endLanes p s) p = noRetrain (portAt s p) :=
    (congrArg (tget Port.reset · p) hend.1).trans (portAt_modPort p noRetrain s)
  exact (portAt_modPort p _ _).trans (congrArg (linkless cause) hport)

/-- The link of a port goes down, and waits for its partner. -/
theorem linkDown_port (p cause : Nat) (s : Mach) :
    (Machine.linkDown p cause s).now = s.now ∧ portAt (Machine.linkDown p cause s) p =
      (fun x => { x with evt := setBit x.evt 4 }) (linkless cause (noRetrain { portAt s p with downCnt := satInc (portAt s p).downCnt, retry := true })) := by
  have hdrop := dropLink_port p cause (modPort p (fun x => { x with downCnt := satInc x.downCnt, retry := true }) s)
  refine ⟨(portEvt_signals p 4 _).now.trans hdrop.1, ?_⟩
  rw [Machine.linkDown, portAt_portEvt, portAt_modPort, hdrop.2, portAt_modPort]

/-! ### Identity and the partner table (R315, R331, R334) -/

/-- Of the partner table at most the CONFLICT marks differ, and only events, twins and signals beside it. -/
def PtnSettled (s t : Mach) : Prop :=
  (∃ r y n h o, t = { s with rmt := r, sys := y, notes := n, host := h, out := o }) ∧
    ∀ i, ∃ c, tget Ptn.reset t.rmt.ptn i = { tget Ptn.reset s.rmt.ptn i with conflict := c }

namespace PtnSettled

theorem refl (s : Mach) : PtnSettled s s :=
  ⟨⟨s.rmt, s.sys, s.notes, s.host, s.out, rfl⟩, fun i => ⟨(tget Ptn.reset s.rmt.ptn i).conflict, rfl⟩⟩

theorem trans {s t u : Mach} (h : PtnSettled s t) (h' : PtnSettled t u) : PtnSettled s u := by
  obtain ⟨⟨_, _, _, _, _, rfl⟩, hp⟩ := h
  obtain ⟨⟨_, _, _, _, _, rfl⟩, hp'⟩ := h'
  refine ⟨⟨_, _, _, _, _, rfl⟩, fun i => ?_⟩
  obtain ⟨c, hc⟩ := hp i
  obtain ⟨c', hc'⟩ := hp' i
  exact ⟨c', by rw [hc', hc]⟩

theorem of_signals {s t : Mach} (h : Signals s t) : PtnSettled s t := by
  obtain ⟨n, h, o, rfl⟩ := h
  exact ⟨⟨s.rmt, s.sys, n, h, o, rfl⟩, fun i => ⟨(tget Ptn.reset s.rmt.ptn i).conflict, rfl⟩⟩

theorem port {s t : Mach} (h : PtnSettled s t) : t.now = s.now ∧ t.ports = s.ports := by
  obtain ⟨⟨_, _, _, _, _, rfl⟩, _⟩ := h
  exact ⟨rfl, rfl⟩

end PtnSettled

theorem rmtEvt_signals (b : Nat) (s : Mach) : Signals (modRmt (fun r => { r with evt := setBit r.evt b }) s) (rmtEvt b s) :=
  (noteRaise_signals _ _ _).trans (raiseIrq_signals 6 _)

theorem sysEvt_signals (b : Nat) (s : Mach) : Signals (modSys (fun x => { x with evt := setBit x.evt b }) s) (sysEvt b s) :=
  (noteRaise_signals _ _ _).trans (raiseIrq_signals 7 _)

theorem rmtEvt_settled (b : Nat) (s : Mach) : PtnSettled s (rmtEvt b s) := by
  have hevt : PtnSettled s (modRmt (fun r => { r with evt := setBit r.evt b }) s) :=
    ⟨⟨_, s.sys, s.notes, s.host, s.out, rfl⟩, fun i => ⟨(tget Ptn.reset s.rmt.ptn i).conflict, rfl⟩⟩
  exact hevt.trans (PtnSettled.of_signals (rmtEvt_signals b s))

theorem sysEvt_settled (b : Nat) (s : Mach) : PtnSettled s (sysEvt b s) := by
  have hevt : PtnSettled s (modSys (fun x => { x with evt := setBit x.evt b }) s) :=
    ⟨⟨s.rmt, _, s.notes, s.host, s.out, rfl⟩, fun i => ⟨(tget Ptn.reset s.rmt.ptn i).conflict, rfl⟩⟩
  exact hevt.trans (PtnSettled.of_signals (sysEvt_signals b s))

theorem tget_map_conflict (f : Nat × Ptn → Bool) (i : Nat) : ∀ t : Tbl Ptn,
    ∃ c, tget Ptn.reset (t.map (fun e => (e.1, { e.2 with conflict := f e }))) i = { tget Ptn.reset t i with conflict := c } := by
  intro t
  induction t with
  | nil => exact ⟨Ptn.reset.conflict, rfl⟩
  | cons e t ih =>
    obtain ⟨k, v⟩ := e
    by_cases h : k = i
    · exact ⟨f (k, v), by simp [tget, h]⟩
    · obtain ⟨c, hc⟩ := ih
      exact ⟨c, by simpa [tget, h] using hc⟩

theorem settlePtn_settled (s : Mach) : PtnSettled s (settlePtn s) := by
  unfold settlePtn
  extract_lets fresh changed s1 s2
  have hs1 : PtnSettled s s1 := ⟨⟨_, s.sys, s.notes, s.host, s.out, rfl⟩, fun i => tget_map_conflict _ i s.rmt.ptn⟩
  have hs2 : PtnSettled s s2 := by
    simp only [s2]
    split
    · exact hs1.trans (rmtEvt_settled 0 s1)
    · exact hs1
  split
  · exact hs2.trans (rmtEvt_settled 1 s2)
  · exact hs2

theorem updateTwin_settled (s : Mach) : PtnSettled s (updateTwin s) := by
  unfold updateTwin
  extract_lets sers mis ok s1 s2
  have hs1 : PtnSettled s s1 :=
    ⟨⟨s.rmt, _, s.notes, s.host, s.out, rfl⟩, fun i => ⟨(tget Ptn.reset s.rmt.ptn i).conflict, rfl⟩⟩
  have hs2 : PtnSettled s s2 := by
    simp only [s2]
    split
    · exact hs1.trans (sysEvt_settled 2 s1)
    · exact hs1
  split
  · exact hs2.trans (sysEvt_settled 3 s2)
  · exact hs2

/-- The entry of a partner is put in its place. -/
theorem changePtn_settled (i : Nat) (e : Ptn) (s : Mach) :
    PtnSettled (modRmt (fun r => { r with ptn := tset Ptn.reset r.ptn i e }) s) (changePtn i e s) := by
  have hput := settlePtn_settled (modRmt (fun r => { r with ptn := tset Ptn.reset r.ptn i e }) s)
  unfold changePtn
  dsimp only
  split
  · exact hput
  · exact hput.trans (rmtEvt_settled 0 _)

/-- A port's new partner has its direct entry. -/
def HasEntry (s : Mach) (p : Nat) (ser : BitVec 64) : Prop :=
  ∃ i, (tget Ptn.reset s.rmt.ptn i).serial = ser ∧ (tget Ptn.reset s.rmt.ptn i).valid = true ∧
    (tget Ptn.reset s.rmt.ptn i).direct = true ∧ (tget Ptn.reset s.rmt.ptn i).port = BitVec.ofNat 6 p

theorem HasEntry.settled {s t : Mach} {p : Nat} {ser : BitVec 64} (h : HasEntry s p ser) (ht : PtnSettled s t) : HasEntry t p ser := by
  obtain ⟨i, hser, hvalid, hdirect, hport⟩ := h
  obtain ⟨c, hc⟩ := ht.2 i
  exact ⟨i, by rw [hc]; exact hser, by rw [hc]; exact hvalid, by rw [hc]; exact hdirect, by rw [hc]; exact hport⟩

theorem directEntry_enters {p : Nat} {s : Mach} (hfree : (ptnFree s).isSome = true) :
    (directEntry p s).now = s.now ∧ (directEntry p s).ports = s.ports ∧ HasEntry (directEntry p s) p (portAt s p).pser := by
  unfold directEntry
  extract_lets x mk
  have hmk (i : Nat) (old : Ptn) : (mk i old).now = s.now ∧ (mk i old).ports = s.ports ∧ HasEntry (mk i old) p x.pser := by
    have hset := changePtn_settled i { withId s x.pid x.passigned old with
        serial := x.pser, valid := true, direct := true, lost := false, port := BitVec.ofNat 6 p, epoch := x.pepoch }
      (modRmt (fun r => { r with order := r.order + 1, waiting := r.waiting.filter (· != p) }) s)
    refine ⟨hset.port.1, hset.port.2, HasEntry.settled ⟨i, ?_⟩ hset⟩
    rw [modRmt_own, tget_tset_same]
    exact ⟨rfl, rfl, rfl, rfl⟩
  split
  · exact hmk _ _
  · split
    · exact hmk _ _
    · split
      · exact hmk _ _
      next hnone => rw [hnone] at hfree; exact absurd hfree (by decide)

/-- What a port knows of a new partner. -/
def newPartnered (m : BitVec 256) (x : Port) : Port :=
  noteIdentity m { x with
    txSeq := 0, rxSeq := 0, ackv := false, lost := satAdd x.lost (x.buf.length + flitsFor x.txq), buf := [], txq := []
    resend := none, partner := true, resumed := false, retry := false }

theorem newPartner_enters {p : Nat} {m : BitVec 256} {s : Mach} (hfree : (ptnFree s).isSome = true) :
    (newPartner p m s).now = s.now ∧
      portAt (newPartner p m s) p = (fun x => { x with evt := setBit x.evt 6 }) (newPartnered m (portAt s p)) ∧
      HasEntry (newPartner p m s) p (idSerial m) := by
  have hevt := portEvt_signals p 6 (modPort p (newPartnered m) s)
  have hfree' : (ptnFree (portEvt p 6 (modPort p (newPartnered m) s))).isSome = true := by
    have hfreeEq : ptnFree (portEvt p 6 (modPort p (newPartnered m) s)) = ptnFree s := by
      unfold ptnFree ptnLimit
      rw [hevt.rmt, hevt.start]
      rfl
    rw [hfreeEq]
    exact hfree
  have hport : portAt (portEvt p 6 (modPort p (newPartnered m) s)) p =
      (fun x => { x with evt := setBit x.evt 6 }) (newPartnered m (portAt s p)) := by
    rw [portAt_portEvt, portAt_modPort, portAt_modPort]
  obtain ⟨hnow, hports, hentry⟩ := directEntry_enters (p := p) hfree'
  have hset := (updateTwin_settled (directEntry p (portEvt p 6 (modPort p (newPartnered m) s)))).trans (settlePtn_settled _)
  rw [hport] at hentry
  refine ⟨hset.port.1.trans (hnow.trans hevt.now), ?_, hentry.settled hset⟩
  rw [← hport]
  exact congrArg (tget Port.reset · p) (hset.port.2.trans hports)

theorem tryUp_waits {p : Nat} {s : Mach} (h : (portAt s p).state ≠ 4 ∨ (portAt s p).trips.length < 8) : tryUp p s = s := by
  unfold tryUp
  refine if_pos ?_
  rcases h with h | h
  · exact Or.inl h
  · exact Or.inr (Or.inr (Or.inr h))

/-- The partner's identity has come. -/
def identified (x : Port) : Port := { x with identRx := true }

/-- A link management message waits at a port. -/
def queuedMgmt (msg : Msg) (x : Port) : Port := { x with mgmt := x.mgmt ++ [msg] }

/-- What an identity says of the port's own, and of the speed of its sender. -/
def acknowledged (m : BitVec 256) (x : Port) : Port := { x with identAck := x.identAck || idFlag m 2, peerGen2 := idFlag m 0 }

theorem identityArrive_new {p : Nat} {m : BitVec 256} {s : Mach} (hstate : (portAt s p).state = 4) (hser : idSerial m ≠ s.start.serial)
    (hrx : (portAt s p).identRx = false) (hpartner : (portAt s p).partner = false) (htrips : (portAt s p).trips.length < 8)
    (hfree : (ptnFree s).isSome = true) :
    (identityArrive p m s).now = s.now ∧ HasEntry (identityArrive p m s) p (idSerial m) ∧
      ∃ msg, portAt (identityArrive p m s) p = acknowledged m (queuedMgmt msg (identified ((fun x => { x with evt := setBit x.evt 6 })
        (newPartnered m (portAt s p))))) := by
  obtain ⟨hnow, hport, hentry⟩ := newPartner_enters (p := p) (m := m) hfree
  have htake : takePartner p m s = newPartner p m s := by
    simp only [takePartner, hpartner, Bool.and_false, Bool.false_eq_true, if_false]
  generalize newPartner p m s = n at hnow hport hentry htake
  have heq : identityArrive p m s = tryUp p (modPort p (acknowledged m)
      (modPort p (queuedMgmt (identityOf (modPort p identified n) p)) (modPort p identified n))) := by
    simp only [identityArrive, hstate, if_true, if_neg hser, hrx, Bool.false_eq_true, if_false, htake]
    rfl
  have hown : portAt (modPort p (acknowledged m) (modPort p (queuedMgmt (identityOf (modPort p identified n) p)) (modPort p identified n))) p =
      acknowledged m (queuedMgmt (identityOf (modPort p identified n) p) (identified ((fun x => { x with evt := setBit x.evt 6 })
        (newPartnered m (portAt s p))))) := by
    rw [portAt_modPort, portAt_modPort, portAt_modPort, hport]
  rw [heq, tryUp_waits (Or.inr (by rw [hown]; exact htrips)), hown]
  refine ⟨?_, ?_, _, rfl⟩
  · simp only [modPort_frame]
    exact hnow
  · simp only [HasEntry, modPort_frame]
    exact hentry

/-- A port whose lanes have been equalized. -/
def equalized (x : Port) : Port := { x with state := 3, gen := 1, active := 0xFFFF &&& ~~~ x.failed, traint := x.temp }

section
variable {p : Nat} {s : Mach}

theorem lightDetect_trains (hdark : darkPort s p = false) (hstate : (portAt s p).state = 1 ∨ (portAt s p).state = 7) :
    lightDetect p s = modPort p (fun x => { x with
      state := 2, failed := 0, active := 0, gen := 0, identRx := false, identAck := false, trips := []
      latNext := none, gen2Fails := 0, offer := bit s.start.features 1 && x.genmax == 2 }) s := by
  have hcond : ¬ (darkPort s p = true ∨ (portAt s p).state ≠ 1 ∧ (portAt s p).state ≠ 7) := by
    rw [hdark]
    rcases hstate with h | h <;> simp [h]
  exact if_neg hcond

theorem eqComplete_equalizes (l : BitVec 16) (hstate : (portAt s p).state = 2) :
    eqComplete p l s = excludeLanes p l (modPort p equalized s) :=
  if_neg (by rw [hstate]; decide)

theorem alignComplete_identity (sw : Bool) (hstate : (portAt s p).state = 3) (hfails : (portAt s p).gen2Fails < 2) :
    alignComplete p sw s = modPort p (fun x => { x with
      state := 4, swap := sw, fecLast := 0, laneTx := [], mgmt := x.mgmt ++ [identityOf s p] }) s := by
  have hne : ¬ (portAt s p).state ≠ 3 := by rw [hstate]; decide
  simp only [alignComplete, if_neg hne, if_neg (Nat.not_le.2 hfails), sendMgmt, modPort_modPort]

theorem alignComplete_active (sw : Bool) (hstate : (portAt s p).state = 3) (hfails : 2 ≤ (portAt s p).gen2Fails) :
    alignComplete p sw s = modPort p (fun x => { x with
      state := 6, gen := 1, swap := sw, fecLast := 0, laneTx := [], resend := if x.buf.isEmpty then none else some 0 }) s := by
  have hne : ¬ (portAt s p).state ≠ 3 := by rw [hstate]; decide
  simp only [alignComplete, if_neg hne, if_pos hfails, goActive, modPort_modPort]
  rfl

section
variable {l : BitVec 16} (hstate : (portAt s p).state = 5)
include hstate

theorem speedComplete_up (hl : 12 ≤ laneCount (~~~ ((portAt s p).failed ||| l))) :
    speedComplete p l s = goActive p 2 (excludeLanes p l s) := by
  have hne : ¬ (portAt s p).state ≠ 5 := by rw [hstate]; decide
  simp only [speedComplete, if_neg hne, if_pos hl]

theorem speedComplete_again (hl : laneCount (~~~ ((portAt s p).failed ||| l)) < 12) (hfails : (portAt s p).gen2Fails = 0) :
    speedComplete p l s = modPort p (fun x => { x with gen2Fails := 1 }) s := by
  have hne : ¬ (portAt s p).state ≠ 5 := by rw [hstate]; decide
  simp only [speedComplete, if_neg hne, if_neg (Nat.not_le.2 hl), hfails, if_neg (show ¬ 1 ≤ 0 by decide)]

theorem speedComplete_back (hl : laneCount (~~~ ((portAt s p).failed ||| l)) < 12) (hfails : 1 ≤ (portAt s p).gen2Fails) :
    speedComplete p l s = modPort p (fun x => { x with state := 2, gen2Fails := 2 }) s := by
  have hne : ¬ (portAt s p).state ≠ 5 := by rw [hstate]; decide
  simp only [speedComplete, if_neg hne, if_neg (Nat.not_le.2 hl), if_pos hfails]

end

theorem identityResend_sends (hstate : (portAt s p).state = 4) (hack : (portAt s p).identAck = false) :
    identityResend p s = modPort p (fun x => { x with mgmt := x.mgmt ++ [identityOf s p] }) s := by
  simp only [identityResend, hstate, hack, Bool.not_false, and_self, if_true, sendMgmt]

theorem echoSend_sends (hstate : (portAt s p).state = 4 ∨ (portAt s p).state = 6) :
    echoSend p s = modPort p (fun x => { x with
      echoSeq := x.echoSeq + 1, echoOut := some (x.echoSeq + 1, s.now)
      mgmt := x.mgmt ++ [.echo (echoMsg (x.echoSeq + 1) s.now)] }) s := by
  have hne : ¬ ((portAt s p).state ≠ 4 ∧ (portAt s p).state ≠ 6) := by
    rcases hstate with h | h <;> simp [h]
  simp only [echoSend, if_neg hne, sendMgmt, modPort_modPort]
  exact modPort_congr rfl

section
variable {m : BitVec 128} (hstate : (portAt s p).state = 6)
include hstate

theorem echoArrive_partner (hout : (portAt s p).echoOut = none) :
    echoArrive p m s = modPort p (fun x => { x with mgmt := x.mgmt ++ [.echoBack m s.now] }) s := by
  have hne : ¬ ((portAt s p).state ≠ 4 ∧ (portAt s p).state ≠ 6) := by simp [hstate]
  simp only [echoArrive, if_neg hne, hout, Option.any_none, Bool.false_eq_true, if_false, sendMgmt]

theorem echoArrive_own {t0 : Nat} (hout : (portAt s p).echoOut = some (fld m 8 8, t0)) (ht0 : t0 ≤ (fld m 64 64).toNat)
    (hnow : (fld m 64 64).toNat ≤ s.now) (htrips : (portAt s p).trips.length = 7) :
    echoArrive p m s = modPort p (fun x => { x with
      echoOut := none, trips := (portAt s p).trips ++ [s.now - (fld m 64 64).toNat]
      latNext := some (BitVec.ofNat 16 (latOf ((portAt s p).trips ++ [s.now - (fld m 64 64).toNat]))) }) s := by
  have hne : ¬ ((portAt s p).state ≠ 4 ∧ (portAt s p).state ≠ 6) := by simp [hstate]
  have hown : (portAt s p).echoOut.any (fun e => e.1 == fld m 8 8 && decide (e.2 ≤ (fld m 64 64).toNat ∧ (fld m 64 64).toNat ≤ s.now)) = true := by
    simp [hout, ht0, hnow]
  have htake : (((s.now - (fld m 64 64).toNat) :: (portAt s p).trips.reverse).take 8).reverse =
      (portAt s p).trips ++ [s.now - (fld m 64 64).toNat] := by
    rw [List.take_of_length_le (by simp [htrips]), List.reverse_cons, List.reverse_reverse]
  have hlen : ((portAt s p).trips ++ [s.now - (fld m 64 64).toNat]).length = 8 := by simp [htrips]
  simp only [echoArrive, if_neg hne, hown, if_true]
  rw [tryUp_waits (Or.inl _)]
  · refine modPort_congr ?_
    rw [htake, if_pos ⟨hstate, hlen⟩]
  · rw [portAt_modPort]
    exact fun h => absurd (h.symm.trans hstate) (by decide)

end

theorem linkLost_down {l : BitVec 16} (hlo : 2 ≤ (portAt s p).state.toNat) (hhi : (portAt s p).state.toNat ≤ 6)
    (hl : laneCount ((portAt s p).active &&& ~~~ l) < 12) : linkLost p l s = Machine.linkDown p 1 s :=
  if_neg (by omega)

theorem partnerLoss_none (h : (portAt s p).partner = false) : partnerLoss p s = s := by
  simp only [partnerLoss, h, Bool.not_false, if_true]

theorem keepLoss_none (hsealing : s.keep.sealing = none) (hrest : s.keep.rest = none) (hserve : s.keep.serve = none) : keepLoss p s = s := by
  simp only [keepLoss, hsealing, hrest, hserve]

theorem retryExpiry_alone (hretry : (portAt s p).retry = true) (hstate : (portAt s p).state = 7) (hpartner : (portAt s p).partner = false)
    (hsealing : s.keep.sealing = none) (hrest : s.keep.rest = none) (hserve : s.keep.serve = none) :
    retryExpiry p s = modPort p (fun x => { x with retry := false, state := 1 }) s := by
  have hnot6 : ((portAt s p).state == 6) = false := by rw [hstate]; decide
  simp only [retryExpiry, hretry, hnot6, Bool.not_true, Bool.or_self, Bool.false_eq_true, if_false]
  rw [partnerLoss_none (by rw [portAt_modPort]; exact hpartner), keepLoss_none (s := modPort p _ s) hsealing hrest hserve]
  refine modPort_congr ?_
  rw [if_pos hstate]

section
variable {v : Word} (hlicensed : portLicensed s p = true) (hrt : bit v 11 = false)
include hlicensed hrt

theorem prtCfg_same (hen : (portAt s p).en = bit v 0) :
    prtCfg p v s = modPort p (fun x => { x with genmax := fld v 1 2, livert := bit v 3 }) s := by
  simp only [prtCfg, hlicensed, hrt, hen, Bool.not_true, Bool.false_eq_true, if_false, beq_self_eq_true, if_true, Bool.false_and]
  refine modPort_congr ?_
  rw [← hen]

theorem prtCfg_on (hp : p < 64) (hen : (portAt s p).en = false) (hbit : bit v 0 = true) (hvopt : s.pwr.voptFail.contains p = false) :
    prtCfg p v s = modPort p (fun x => { x with
      en := true, genmax := fld v 1 2, livert := bit v 3, state := if x.retry then 7 else 1 }) s := by
  simp only [prtCfg, hlicensed, hrt, hen, hbit, Bool.not_true, Bool.false_eq_true, if_false, Bool.false_and, lightPort, modPort_modPort]
  have hdark : darkPort (modPort p (fun x => { x with en := true, genmax := fld v 1 2, livert := bit v 3 }) s) p = false := by
    have hlicensed' : portLicensed (modPort p (fun x => { x with en := true, genmax := fld v 1 2, livert := bit v 3 }) s) p = true := hlicensed
    have hvopt' : (modPort p (fun x => { x with en := true, genmax := fld v 1 2, livert := bit v 3 }) s).pwr.voptFail.contains p = false := hvopt
    simp only [darkPort, hlicensed', hvopt', portAt_modPort, decide_eq_false (Nat.not_le.2 hp)]
    rfl
  simp only [litState, hdark, portAt_modPort, Bool.false_eq_true, if_false]
  exact modPort_congr rfl

theorem prtCfg_off (hen : (portAt s p).en = true) (hbit : bit v 0 = false) (hstate : (portAt s p).state = 6) :
    prtCfg p v s = modPort p (fun x => { x with state := 0 })
      (Machine.linkDown p 3 (modPort p (fun x => { x with en := false, genmax := fld v 1 2, livert := bit v 3 }) s)) := by
  have hup : 2 ≤ (portAt s p).state.toNat ∧ (portAt s p).state.toNat ≤ 6 := by rw [hstate]; decide
  simp only [prtCfg, hlicensed, hrt, hen, hbit, hup, Bool.not_true, Bool.false_eq_true, if_false, Bool.false_and, and_self, if_true]
  rfl

end

end

/-- Settles O17: each rule is one lemma above; a new partner's entry is put in its place, and of the partner table only CONFLICT marks
change after it. -/
theorem linksComeUpAndGoDown : Obligations.LinksComeUpAndGoDown := by
  intro pf s p x
  refine ⟨fun hdark hstate => run_eq_after (lightDetect_trains hdark hstate), fun l hstate hl => ?_,
    fun sw hstate hfails => run_eq_after (g := fun m => modPort p _ m) (alignComplete_identity sw hstate hfails),
    fun sw hstate hfails => run_eq_after (alignComplete_active sw hstate hfails), fun l hstate hl => ?_,
    fun l hstate hl hfails => run_eq_after (speedComplete_again hstate hl hfails),
    fun l hstate hl hfails => run_eq_after (speedComplete_back hstate hl hfails),
    fun m hstate hser hrx hpartner htrips hfree => ?_,
    fun hstate hack => run_eq_after (g := fun m => modPort p (fun x => { x with mgmt := x.mgmt ++ [identityOf m p] }) m)
      (identityResend_sends hstate hack),
    fun hstate => run_eq_after (g := fun m => modPort p (fun x => { x with
        echoSeq := x.echoSeq + 1, echoOut := some (x.echoSeq + 1, m.now)
        mgmt := x.mgmt ++ [.echo (echoMsg (x.echoSeq + 1) m.now)] }) m) (echoSend_sends hstate),
    fun m t0 hstate hout ht0 hnow htrips => run_eq_after (echoArrive_own hstate hout ht0 hnow htrips),
    fun m hstate hout => run_eq_after (g := fun k => modPort p (fun x => { x with mgmt := x.mgmt ++ [.echoBack m k.now] }) k)
      (echoArrive_partner hstate hout),
    fun l hlo hhi hl => ?_,
    fun hretry hstate hpartner hsealing hrest hserve =>
      run_eq_after (retryExpiry_alone hretry hstate hpartner hsealing hrest hserve),
    fun v hserved hlicensed hrt => ⟨fun hen => ?_, fun hen hbit hvopt => ?_, fun hen hbit hstate => ?_⟩⟩
  · have heq := eqComplete_equalizes l hstate
    obtain ⟨hnow, ⟨evt, hport⟩, hother⟩ := excludeLanes_few (p := p) (l := l) (s := modPort p equalized s.m)
      (by rw [portAt_modPort]; exact hl)
    rw [← heq] at hnow hport hother
    obtain ⟨ht, hp, hm⟩ := runs_to (f := eqComplete p l) (s := s) hnow
    refine ⟨_, ht, hp, ?_⟩
    rw [hm, hport, portAt_modPort]
    exact ⟨rfl, rfl, rfl, active_lanes x.failed l, rfl, fun j hj => (hother j hj).trans (portAt_modPort_other _ _ hj)⟩
  · have heq := speedComplete_up hstate hl
    have hsum := laneCount_not (x.failed ||| l)
    have hfew : laneCount ((portAt s.m p).failed ||| l) ≤ 4 := by
      have hsame : laneCount ((portAt s.m p).failed ||| l) = laneCount (x.failed ||| l) := rfl
      omega
    obtain ⟨hnow, ⟨evt, hport⟩, _⟩ := excludeLanes_few hfew
    obtain ⟨ht, hp, hm⟩ := runs_to (f := speedComplete p l) (s := s) (by rw [heq]; exact hnow)
    refine ⟨_, ht, hp, ?_⟩
    rw [hm, heq, goActive, portAt_modPort, hport]
    exact ⟨rfl, rfl, rfl, rfl, rfl⟩
  · obtain ⟨hnow, hentry, msg, hport⟩ := identityArrive_new hstate hser hrx hpartner htrips hfree
    obtain ⟨ht, hp, hm⟩ := runs_to (f := identityArrive p m) (s := s) hnow
    refine ⟨_, ht, hp, ?_⟩
    rw [hm, hport]
    exact ⟨hstate, rfl, rfl, rfl, rfl, rfl, rfl, rfl, rfl, rfl, rfl, bit_setBit_same _ (by decide), hentry⟩
  · have heq := linkLost_down hlo hhi hl
    obtain ⟨hnow, hport⟩ := linkDown_port p 1 s.m
    obtain ⟨ht, hp, hm⟩ := runs_to (f := linkLost p l) (s := s) (by rw [heq]; exact hnow)
    refine ⟨_, ht, hp, ?_⟩
    rw [hm, heq, hport]
    exact ⟨rfl, rfl, rfl, rfl, rfl, rfl, rfl, rfl, rfl, bit_setBit_same _ (by decide)⟩
  · exact runAccess_eq hserved (prtCfg_same hlicensed hrt hen)
  · exact runAccess_eq hserved (prtCfg_on hlicensed hrt pf.isLt hen hbit hvopt)
  · refine ⟨_, runAccess_served hserved (prtCfg p v), rfl, ?_⟩
    have hport : portAt (accessed (prtCfg p v) s).m p = portAt (prtCfg p v s.m) p := rfl
    rw [hport, prtCfg_off hlicensed hrt hen hbit hstate, portAt_modPort, (linkDown_port p 3 _).2, portAt_modPort]
    exact ⟨rfl, rfl, rfl, bit_setBit_same _ (by decide)⟩

end Sys2Proof.Spec
end

section
/-! PROOFS. Flits: what a free lane sends, and what one that arrives does (R302 to R308). -/

namespace Sys2Proof.Spec

open Sys2Proof.Machine

/-! ### Acknowledgements and the error correction (R305, R307, R308) -/

/-- An ACK releases every flit up to its SEQ. -/
theorem takeAck_releases {x : Port} {a b : List SentFlit} {f : SentFlit} (hbuf : x.buf = a ++ f :: b) (hresend : x.resend = none)
    (hfirst : ∀ g ∈ a, g.seq ≠ f.seq) : takeAck (0x4000 ||| f.seq.setWidth 16) x = { x with buf := b } := by
  have hack : bit (0x4000 ||| f.seq.setWidth 16 : BitVec 16) 14 = true := by
    simp [bit]
  have hnak : bit (0x4000 ||| f.seq.setWidth 16 : BitVec 16) 15 = false := by
    simp [bit]
  have hseq : fld (0x4000 ||| f.seq.setWidth 16 : BitVec 16) 0 12 = f.seq := by
    refine BitVec.eq_of_getLsbD_eq (fun i hi => ?_)
    have hlow : (0x4000 : BitVec 16).getLsbD i = false := by
      have : ∀ i : Fin 12, (0x4000 : BitVec 16).getLsbD i.val = false := by decide
      exact this ⟨i, hi⟩
    simp only [fld, BitVec.getLsbD_extractLsb', hi, decide_true, Bool.true_and, Nat.zero_add, BitVec.getLsbD_or, hlow, Bool.false_or,
      BitVec.getLsbD_setWidth]
    simp only [show i < 16 by omega, decide_true, Bool.true_and]
  have hany : x.buf.any (fun g => g.seq == f.seq) = true := by simp [hbuf]
  have hwhile : x.buf.takeWhile (fun g => g.seq != f.seq) = a := by
    rw [hbuf, List.takeWhile_append_of_pos (by simpa using hfirst), List.takeWhile_cons_of_neg (by simp), List.append_nil]
  have hfilter : (x.buf.filter (fun g => g.seq == f.seq)).take 1 = [f] := by
    rw [hbuf, List.filter_append, List.filter_eq_nil_iff.2 (by simpa using hfirst), List.nil_append, List.filter_cons_of_pos (by simp)]
    rfl
  have hdrop : x.buf.drop (a ++ [f]).length = b := by
    rw [hbuf, show a ++ f :: b = (a ++ [f]) ++ b by simp, List.drop_left' rfl]
  simp only [takeAck, hack, hnak, hseq, hany, hwhile, hfilter, hdrop, hresend, Bool.and_self, if_true, Option.bind_none,
    Bool.false_eq_true, if_false]

theorem clrBit_of_clear {w : Nat} {x : BitVec w} {i : Nat} (h : bit x i = false) : clrBit x i = x := by
  refine BitVec.eq_of_getLsbD_eq (fun j hj => ?_)
  simp only [clrBit, BitVec.getLsbD_and, BitVec.getLsbD_not, BitVec.getLsbD_ofNat, hj, decide_true, Bool.true_and]
  by_cases e : j = i
  · subst e
    rw [show x.getLsbD j = false from h]
    rfl
  · rw [Nat.testBit_two_pow_of_ne (Ne.symm e)]
    exact Bool.and_true _

theorem takeFec_corrected {x : Port} {ln : Fin 16} {n : Nat} (hn : n ≤ 15) (hlast : bit x.fecLast ln.val = false) :
    takeFec ⟨ln, false, [], [n]⟩ x = (false, { x with feccor := satAdd x.feccor n }) := by
  have hlost : decide (fecLimit < n) = false := decide_eq_false (by unfold fecLimit; omega)
  simp [takeFec, hlost, satAdd_zero, clrBit_of_clear hlast]

theorem takeFec_lost {x : Port} {ln : Fin 16} {n : Nat} (hn : 15 < n) :
    takeFec ⟨ln, false, [], [n]⟩ x = (true, { x with fecunc := satInc x.fecunc, fecLast := setBit x.fecLast ln.val }) := by
  have hlost : decide (fecLimit < n) = true := decide_eq_true hn
  simp [takeFec, hlost, satAdd_zero, satInc]

/-! ### The code words of a lane (R305) -/

/-- A flit enters its lane, with what is left of the lane's stream. -/
def flitHeld (p ln : Nat) (f : Flit) (m : Mach) (y : LaneTx) : Mach :=
  emit (.vzlFlit p ln f) (modPort p (fun x => { x with laneTx := tset LaneTx.empty x.laneTx ln y }) m)

section
variable {l : LaneTx} {f : Flit}

theorem fecBits_eq : fecBits = 5140 := rfl

theorem push_held (h : l.count + 2048 < 5140) : l.push f = (none, ⟨l.count + 2048, l.bits + f.toNat * 2 ^ l.count⟩) := by
  unfold LaneTx.push
  rw [fecBits_eq]
  exact if_pos h

theorem push_full (h : 5140 ≤ l.count + 2048) : l.push f = (some (fecCodeWord (l.bits + f.toNat * 2 ^ l.count)),
    ⟨l.count + 2048 - 5140, (l.bits + f.toNat * 2 ^ l.count) / 2 ^ 5140⟩) := by
  unfold LaneTx.push
  rw [fecBits_eq]
  exact if_neg (Nat.not_lt.2 h)

theorem laneTakes_none {p ln : Nat} {m : Mach} {y : LaneTx} (h : (tget LaneTx.empty (portAt m p).laneTx ln).push f = (none, y)) :
    laneTakes p ln f m = flitHeld p ln f m y := by
  unfold laneTakes
  rw [h]
  rfl

theorem laneTakes_some {p ln : Nat} {m : Mach} {y : LaneTx} {w : List FecSym}
    (h : (tget LaneTx.empty (portAt m p).laneTx ln).push f = (some w, y)) :
    laneTakes p ln f m = emit (.codeWord p ln w) (flitHeld p ln f m y) := by
  unfold laneTakes
  rw [h]
  rfl

end

theorem fecCodeWord_symbol (bits i : Nat) (h : i < 514) : (fecCodeWord bits)[i]? = some (BitVec.ofNat 10 (bits / 2 ^ (10 * i))) := by
  have hlen : ((List.range fecData).map (fun i => BitVec.ofNat 10 (bits / 2 ^ (10 * i)))).length = 514 := by simp [fecData]
  rw [fecCodeWord, List.getElem?_append_left (by rw [hlen]; exact h), List.getElem?_map, List.getElem?_range (show i < fecData from h)]
  rfl

/-! ### What a free lane sends (R302, R303, R306, R308) -/

/-- The head of a flit names only its acknowledgement. -/
theorem mkFlit_congr {x y : Port} (hnak : y.nakDue = x.nakDue) (hack : y.ackv = x.ackv) (hrx : y.rxSeq = x.rxSeq) (kind seq : Nat)
    (ms : List Msg) : mkFlit y kind seq ms = mkFlit x kind seq ms := by
  simp only [mkFlit, hnak, hack, hrx]

/-- A port that owes neither a NAK nor an idle flit. -/
def owesNothing (x : Port) : Port := { x with nakDue := false, idleDue := false }

theorem sendFlit_modPort {p ln kind seq : Nat} {ms : List Msg} {f : Port → Port} {s : Mach}
    (hnak : (f (portAt s p)).nakDue = (portAt s p).nakDue) (hack : (f (portAt s p)).ackv = (portAt s p).ackv)
    (hrx : (f (portAt s p)).rxSeq = (portAt s p).rxSeq) :
    sendFlit p ln kind seq ms (modPort p f s) =
      laneTakes p ln (mkFlit (portAt s p) kind seq ms) (modPort p (fun x => owesNothing (f x)) s) := by
  rw [sendFlit, portAt_modPort, mkFlit_congr hnak hack hrx, modPort_modPort]
  rfl

theorem none_urgent {p : Nat} {s : Mach} (hurgent : (portAt s p).urgent = []) :
    ¬ ((portAt s p).state = 6 ∧ (!(portAt s p).urgent.isEmpty) = true) := by
  rw [hurgent]
  exact fun h => absurd h.2 (by decide)

section
variable {p ln : Nat} {s : Mach} (hstate : (portAt s p).state = 6) (hactive : bit (portAt s p).active ln = true)
  (hbusy : laneBusy (portAt s p) ln = false)
include hstate hactive hbusy

/-- The lane of an active port takes a flit. -/
theorem lane_takes : ¬ (((portAt s p).state ≠ 6 ∧ (portAt s p).state ≠ 4) ∨ (!bit (portAt s p).active ln) = true ∨
    laneBusy (portAt s p) ln = true) := by
  rw [hstate, hactive, hbusy]
  decide

theorem laneFree_urgent (h : (portAt s p).urgent ≠ []) :
    laneFree p ln s = laneTakes p ln (mkFlit (portAt s p) 2 0 ((packMsgs 244 (portAt s p).urgent).1.map (departing s.now)))
      (modPort p (fun x => owesNothing { x with urgent := (packMsgs 244 (portAt s p).urgent).2 }) s) := by
  have hurgent : (portAt s p).state = 6 ∧ (!(portAt s p).urgent.isEmpty) = true := ⟨hstate, by simpa using h⟩
  have hfree : laneFree p ln s = sendFlit p ln 2 0 ((packMsgs 244 (portAt s p).urgent).1.map (departing s.now))
      (modPort p (fun x => { x with urgent := (packMsgs 244 (portAt s p).urgent).2 }) s) := by
    unfold laneFree
    dsimp only
    rw [if_neg (lane_takes hstate hactive hbusy), if_pos hurgent]
  exact hfree.trans (sendFlit_modPort (f := fun x => { x with urgent := (packMsgs 244 (portAt s p).urgent).2 }) rfl rfl rfl)

variable (hurgent : (portAt s p).urgent = [])
include hurgent

theorem laneFree_replay {i : Nat} {f : SentFlit} (hresend : (portAt s p).resend = some i) (hf : (portAt s p).buf[i]? = some f)
    (hcount : f.resends + 1 < 16) :
    laneFree p ln s = modRnd (fun r => { r with varRun := { r.varRun with replay := satInc r.varRun.replay } })
      (laneTakes p ln (mkFlit (portAt s p) 1 f.seq.toNat f.msgs) (modPort p (fun x => owesNothing { x with
        buf := x.buf.set i { f with resends := f.resends + 1 }, replay := satInc x.replay
        resend := if i + 1 < x.buf.length then some (i + 1) else none }) s)) := by
  have hfree : laneFree p ln s = sendReplay p ln i f s := by
    unfold laneFree
    dsimp only
    rw [if_neg (lane_takes hstate hactive hbusy), if_neg (none_urgent hurgent), if_pos hstate, hresend,
      Option.bind_some, hf]
    rfl
  rw [hfree, sendReplay, if_neg (Nat.not_le.2 hcount)]
  exact congrArg _ (sendFlit_modPort (f := fun x => { x with
        buf := x.buf.set i { f with resends := f.resends + 1 }, replay := satInc x.replay
        resend := if i + 1 < x.buf.length then some (i + 1) else none }) rfl rfl rfl)

variable (hresend : (portAt s p).resend = none)
include hresend

theorem laneFree_mgmt (h : (portAt s p).mgmt ≠ []) :
    laneFree p ln s = laneTakes p ln (mkFlit (portAt s p) 3 0 ((packMsgs 244 (portAt s p).mgmt).1.map (departing s.now)))
      (modPort p (fun x => owesNothing { x with mgmt := (packMsgs 244 (portAt s p).mgmt).2 }) s) := by
  have hmgmt : (!(portAt s p).mgmt.isEmpty) = true := by simpa using h
  have hfree : laneFree p ln s = sendFlit p ln 3 0 ((packMsgs 244 (portAt s p).mgmt).1.map (departing s.now))
      (modPort p (fun x => { x with mgmt := (packMsgs 244 (portAt s p).mgmt).2 }) s) := by
    unfold laneFree
    dsimp only
    rw [if_neg (lane_takes hstate hactive hbusy), if_neg (none_urgent hurgent), if_pos hstate, hresend,
      Option.bind_none]
    exact if_pos hmgmt
  exact hfree.trans (sendFlit_modPort (f := fun x => { x with mgmt := (packMsgs 244 (portAt s p).mgmt).2 }) rfl rfl rfl)

theorem laneFree_new (hmgmt : (portAt s p).mgmt = []) (h : (portAt s p).txq ≠ []) (hroom : (portAt s p).buf.length < 2048) :
    laneFree p ln s = laneTakes p ln (mkFlit (portAt s p) 1 (portAt s p).txSeq.toNat (packMsgs 244 (portAt s p).txq).1)
      (modPort p (fun x => owesNothing { x with txq := (packMsgs 244 (portAt s p).txq).2, txSeq := x.txSeq + 1,
                                                buf := x.buf ++ [⟨x.txSeq, (packMsgs 244 (portAt s p).txq).1, 0⟩] }) s) := by
  have hnone : ¬ (!(portAt s p).mgmt.isEmpty) = true := by rw [hmgmt]; decide
  have hnew : (portAt s p).state = 6 ∧ (!(portAt s p).txq.isEmpty) = true ∧ (portAt s p).buf.length < 2048 :=
    ⟨hstate, by simpa using h, hroom⟩
  have hfree : laneFree p ln s = sendNew p ln s := by
    unfold laneFree
    dsimp only
    rw [if_neg (lane_takes hstate hactive hbusy), if_neg (none_urgent hurgent), if_pos hstate, hresend,
      Option.bind_none]
    exact (if_neg hnone).trans (if_pos hnew)
  rw [hfree]
  exact sendFlit_modPort (f := fun x => { x with
    txq := (packMsgs 244 (portAt s p).txq).2, txSeq := x.txSeq + 1
    buf := x.buf ++ [⟨x.txSeq, (packMsgs 244 (portAt s p).txq).1, 0⟩] }) rfl rfl rfl

end

/-! ### What a flit that arrives does (R303 to R308) -/

/-- An idle flit that carries a message is a bad message. -/
theorem takePayload_idle {p n : Nat} {bs : List Byte} {s : Mach} (h : numAt bs 0 1 ≠ 0) : takePayload p 0 (n + 1) bs s = badMsg p s := by
  have hkind : ¬ msgKind (numAt bs 0 1) = 0 := by
    unfold msgKind
    split
    · decide
    · split <;> decide
  rw [takePayload, if_neg h]
  split
  · rfl
  · rw [if_neg hkind]

theorem takePayload_one {p kind n k : Nat} {bs : List Byte} {s : Mach} (h : numAt bs 0 1 ≠ 0) (hlen : msgLength bs = some k)
    (hkind : msgKind (numAt bs 0 1) = kind) (hrest : numAt (bs.drop k) 0 1 = 0) :
    takePayload p kind (n + 2) bs s = dispatch p (bs.take k) s := by
  rw [takePayload, if_neg h, hlen]
  dsimp only
  rw [if_pos hkind, takePayload, if_pos hrest]

/-- The head of a flit: its KIND and SEQ, and its acknowledgement. -/
def flitHead (f : Flit) : BitVec 16 := BitVec.ofNat 16 (numAt (toBytes 256 f.toNat) 0 2)
def flitAck (f : Flit) : BitVec 16 := BitVec.ofNat 16 (numAt (toBytes 256 f.toNat) 2 2)

/-- The payload of a flit. -/
def flitBody (f : Flit) : List Byte := ((toBytes 256 f.toNat).drop 8).take 244

theorem takeAck_rxSeq (ak : BitVec 16) (x : Port) : (takeAck ak x).rxSeq = x.rxSeq := by
  unfold takeAck startReplay
  dsimp only
  split <;> rfl

/-- A port takes the acknowledgement that came, behind what the error correction found. -/
def ackTaken (ak : BitVec 16) (fec : FecSeen) (x : Port) : Port := takeAck ak (takeFec fec x).2

section
variable {p : Nat} {s : Mach} {f : Flit} {fec : FecSeen} (hstate : (portAt s p).state = 6)
include hstate

/-- A flit of which a code word is uncorrectable is discarded. -/
theorem vzlFlit_lost (h : (takeFec fec (portAt s p)).1 = true) : vzlFlit p f fec s = modPort p (fun x => oweNak (takeFec fec x).2) s := by
  unfold vzlFlit
  dsimp only
  rw [if_neg (by rw [hstate]; decide), if_pos h, modPort_modPort]
  exact modPort_congr rfl

variable (hfec : (takeFec fec (portAt s p)).1 = false)
  (hcrc : (crc32c ((toBytes 256 f.toNat).take 252)).toNat = numAt (toBytes 256 f.toNat) 252 4)
include hfec hcrc

/-- What an intact flit does by its KIND. -/
theorem vzlFlit_intact : vzlFlit p f fec s =
    (match (fld (flitHead f) 12 4 : BitVec 4).toNat with
    | 0 => takePayload p 0 31 (flitBody f) (modPort p (ackTaken (flitAck f) fec) s)
    | 1 =>
      if fld (flitHead f) 0 12 = (portAt s p).rxSeq then
        takePayload p 1 31 (flitBody f) (modPort p (fun x =>
          { ackTaken (flitAck f) fec x with rxSeq := x.rxSeq + 1, ackv := true, nakSent := false }) s)
      else modPort p oweNak (modPort p (ackTaken (flitAck f) fec) s)
    | 2 => takePayload p 2 31 (flitBody f) (modPort p (ackTaken (flitAck f) fec) s)
    | 3 => takePayload p 3 31 (flitBody f) (modPort p (ackTaken (flitAck f) fec) s)
    | _ => badMsg p (modPort p (fun x => oweNak (takeFec fec x).2) s)) := by
  have hack : modPort p (takeAck (flitAck f)) (modPort p (fun _ => (takeFec fec (portAt s p)).2) s) =
      modPort p (ackTaken (flitAck f) fec) s := by
    rw [modPort_modPort]
    exact modPort_congr rfl
  have hseq : modPort p (fun x => { x with rxSeq := x.rxSeq + 1, ackv := true, nakSent := false }) (modPort p (ackTaken (flitAck f) fec) s) =
      modPort p (fun x => { ackTaken (flitAck f) fec x with rxSeq := x.rxSeq + 1, ackv := true, nakSent := false }) s := by
    rw [modPort_modPort]
    refine modPort_congr ?_
    rw [show (ackTaken (flitAck f) fec (portAt s p)).rxSeq = (portAt s p).rxSeq from takeAck_rxSeq _ _]
  have hnak : modPort p oweNak (modPort p (fun _ => (takeFec fec (portAt s p)).2) s) =
      modPort p (fun x => oweNak (takeFec fec x).2) s := by
    rw [modPort_modPort]
    exact modPort_congr rfl
  have hup : ¬ (portAt s p).state ≠ 6 := by rw [hstate]; decide
  unfold vzlFlit
  dsimp only
  rw [if_neg (by rw [hstate]; decide), if_neg (by rw [hfec]; decide), if_neg (not_not.2 hcrc)]
  simp only [if_neg hup]
  rw [← hseq, ← hack, ← hnak]
  rfl

theorem vzlFlit_idle (hkind : (fld (flitHead f) 12 4 : BitVec 4) = 0) :
    vzlFlit p f fec s = takePayload p 0 31 (flitBody f) (modPort p (ackTaken (flitAck f) fec) s) := by
  rw [vzlFlit_intact hstate hfec hcrc, hkind]
  rfl

theorem vzlFlit_sequenced (hkind : (fld (flitHead f) 12 4 : BitVec 4) = 1) (hseq : fld (flitHead f) 0 12 = (portAt s p).rxSeq) :
    vzlFlit p f fec s = takePayload p 1 31 (flitBody f) (modPort p (fun x =>
      { ackTaken (flitAck f) fec x with rxSeq := x.rxSeq + 1, ackv := true, nakSent := false }) s) := by
  rw [vzlFlit_intact hstate hfec hcrc, hkind]
  exact if_pos hseq

/-- A flit of a reserved KIND is a bad message, and its ACK does not count. -/
theorem vzlFlit_reserved (hkind : 4 ≤ (fld (flitHead f) 12 4 : BitVec 4).toNat) :
    vzlFlit p f fec s = badMsg p (modPort p (fun x => oweNak (takeFec fec x).2) s) := by
  rw [vzlFlit_intact hstate hfec hcrc]
  generalize (fld (flitHead f) 12 4 : BitVec 4).toNat = n at hkind
  obtain ⟨k, rfl⟩ := Nat.exists_eq_add_of_le' hkind
  rfl

end

/-! ### The timers of a port (R306, R308) -/

section
variable {p : Nat} {s : Mach} (hstate : (portAt s p).state = 6)
include hstate

theorem portActive_of_state : portActive s p = true := beq_iff_eq.2 hstate

theorem idleFlitTimer_due : idleFlitTimer p s = modPort p (fun x => { x with idleDue := true }) s := if_pos (portActive_of_state hstate)

theorem replayTimeout_starts (hbuf : (portAt s p).buf ≠ []) : replayTimeout p s = modPort p (fun x => { x with resend := some 0 }) s := by
  have hreplay : ¬ (portAt s p).buf.isEmpty = true := by simpa using hbuf
  refine (if_pos (portActive_of_state hstate)).trans (modPort_congr ?_)
  simp only [startReplay, if_neg hreplay]

end

/-- Settles O18: each case is one lemma above; a payload of one message is that message and an end. -/
theorem flitsCarryTheMessages : Obligations.FlitsCarryTheMessages := by
  refine ⟨fun x a b f hbuf hresend hfirst => takeAck_releases hbuf hresend hfirst, fun x ln n hn hlast => takeFec_corrected hn hlast,
    fun x ln n hn => takeFec_lost hn, fun p ln f m => ⟨fun h => laneTakes_none (push_held h), fun h => laneTakes_some (push_full h)⟩,
    fun bits i hi => fecCodeWord_symbol bits i hi, ?_⟩
  intro pf s p x bare hstate
  refine ⟨fun ln hactive hbusy => ⟨fun h => ?_, fun hurgent i f hresend hf hcount => ?_, fun hurgent hresend h => ?_,
    fun hurgent hresend hmgmt h hroom => ?_⟩, fun f fec => ?_, ?_, fun hbuf => ?_⟩
  · exact run_eq_after (g := fun m => laneTakes p ln.val _ (modPort p _ m)) (laneFree_urgent hstate hactive hbusy h)
  · exact run_eq_after (g := fun m => modRnd _ (laneTakes p ln.val _ (modPort p _ m)))
      (laneFree_replay hstate hactive hbusy hurgent hresend hf hcount)
  · exact run_eq_after (g := fun m => laneTakes p ln.val _ (modPort p _ m)) (laneFree_mgmt hstate hactive hbusy hurgent hresend h)
  · exact run_eq_after (g := fun m => laneTakes p ln.val _ (modPort p _ m))
      (laneFree_new hstate hactive hbusy hurgent hresend hmgmt h hroom)
  · refine ⟨fun hlost => run_eq_after (g := modPort p _) (vzlFlit_lost hstate hlost), fun hfec hcrc =>
      ⟨fun hkind hempty => ?_, fun hkind hsome => ?_, fun hkind => ?_, fun n hkind hseq hsome hlen hone hrest => ?_⟩⟩
    · exact run_eq_after (g := modPort p _) ((vzlFlit_idle hstate hfec hcrc hkind).trans (by rw [takePayload]; exact if_pos hempty))
    · exact run_eq_after (g := fun m => badMsg p (modPort p _ m))
        ((vzlFlit_idle hstate hfec hcrc hkind).trans (takePayload_idle hsome))
    · exact run_eq_after (g := fun m => badMsg p (modPort p _ m)) (vzlFlit_reserved hstate hfec hcrc hkind)
    · exact run_eq_after (g := fun m => dispatch p _ (modPort p _ m))
        ((vzlFlit_sequenced hstate hfec hcrc hkind hseq).trans (takePayload_one hsome hlen hone hrest))
  · exact run_eq_after (g := modPort p _) (idleFlitTimer_due hstate)
  · exact run_eq_after (g := modPort p _) (replayTimeout_starts hstate hbuf)

end Sys2Proof.Spec
end

section
/-! PROOFS. Live retraining of lanes and the token it takes (R319 to R321, R405). -/

namespace Sys2Proof.Spec

open Sys2Proof.Machine

/-! ### Requests of a free token (R404, R405) -/

/-- The activity that a request makes which takes its one token at once. -/
def heldActivity (code subject part tok : Nat) (owed : Option Owed) (s : Mach) : Activity :=
  { handle := s.mnt.nextHandle, code := BitVec.ofNat 8 code, subject := subject, part := part, tokens := [tok], held := 1, owed := owed }

/-- The activity stands behind those there are. -/
def heldOn (a : Activity) (m : Maint) : Maint := { m with acts := m.acts ++ [a], nextHandle := m.nextHandle + 1 }

theorem reqActivity_free {code subject part tok : Nat} {owed : Option Owed} {s : Mach} (h : tokenFree s.mnt.acts tok = true) :
    reqActivity code subject part [tok] owed s = proceed (heldActivity code subject part tok owed s)
      (modMnt (heldOn (heldActivity code subject part tok owed s)) s) := by
  have htake : takeTokens s.mnt.acts 1 { heldActivity code subject part tok owed s with held := 0 } =
      heldActivity code subject part tok owed s := by
    simp only [takeTokens, Activity.next, heldActivity, List.drop_zero, List.head?_cons, h, if_true]
  unfold reqActivity
  extract_lets a0 a s1
  have ha : a = heldActivity code subject part tok owed s := htake
  have hs1 : s1 = modMnt (heldOn (heldActivity code subject part tok owed s)) s := by
    simp only [s1, ha]
    rfl
  rw [ha, hs1]
  rfl

theorem holderOf_heldOn {code subject part tok : Nat} {owed : Option Owed} {s : Mach} (h : tokenFree s.mnt.acts tok = true) :
    holderOf (heldOn (heldActivity code subject part tok owed s) s.mnt).acts tok = some (heldActivity code subject part tok owed s) := by
  have hnone : holderOf s.mnt.acts tok = none := by
    simp only [tokenFree, Bool.and_eq_true] at h
    exact Option.isNone_iff_eq_none.1 h.1
  unfold holderOf at hnone ⊢
  rw [heldOn, List.find?_append, hnone]
  simp [heldActivity]

/-! ### A lane asks for its token (R319, R320) -/

/-- A port that has asked its partner to retrain a lane. -/
def asksLane (lane : Nat) (x : Port) : Port := { x with mgmt := x.mgmt ++ [retrainMsg 0x35 lane], rt := some (lane, .requested) }

/-- A port whose lane asks for its token, and for which no other lane waits. -/
def laneAlone (lane : Nat) (x : Port) : Port := { x with rtQueue := [], rt := some (lane, .token), rtOfWalk := false }

theorem startLane_alone {p lane : Nat} {s : Mach} (hstate : (portAt s p).state = 6) (hrt : (portAt s p).rt = none)
    (hhold : (portAt s p).rtHold = false) (hqueue : (portAt s p).rtQueue = [⟨lane, false⟩]) (hactive : bit (portAt s p).active lane = true) :
    startLane p s = reqActivity 4 p lane [tokLane p (lane / 4)] none (modPort p (laneAlone lane) s) := by
  have hgo : ¬ ((portAt s p).state ≠ 6 ∨ (portAt s p).rt.isSome = true ∨ (portAt s p).rtHold = true) := by
    rw [hstate, hrt, hhold]
    decide
  have hdrop : [(⟨lane, false⟩ : RtLane)].dropWhile (fun l => !bit (portAt s p).active l.lane) = [⟨lane, false⟩] := by
    simp [List.dropWhile, hactive]
  have hwalk : ¬ [(⟨lane, false⟩ : RtLane)].any (·.walk) = true := by simp
  unfold startLane
  dsimp only
  rw [if_neg hgo, hqueue, hdrop, if_neg hwalk]
  exact congrArg (reqActivity 4 p lane [tokLane p (lane / 4)] none) (modPort_congr rfl)

theorem proceed_lane (p lane tok : Nat) (s t : Mach) : proceed (heldActivity 4 p lane tok none s) t = modPort p (asksLane lane) t := rfl

theorem heldActivity_congr {s t : Mach} (h : t.mnt = s.mnt) (code subject part tok : Nat) (owed : Option Owed) :
    heldActivity code subject part tok owed t = heldActivity code subject part tok owed s := by
  simp only [heldActivity, h]

section
variable {p lane : Nat} {s : Mach} (hstate : (portAt s p).state = 6) (hrt : (portAt s p).rt = none) (hhold : (portAt s p).rtHold = false)
  (hqueue : (portAt s p).rtQueue = []) (hactive : bit (portAt s p).active lane = true)
  (hfree : tokenFree s.mnt.acts (tokLane p (lane / 4)) = true)
include hstate hrt hhold hqueue hactive hfree

theorem queueLane_asks : queueLane p lane s = modPort p (asksLane lane)
    (modMnt (heldOn (heldActivity 4 p lane (tokLane p (lane / 4)) none s)) (modPort p (laneAlone lane) s)) := by
  have hput : modPort p (fun x => if x.rtQueue.any (fun l => l.lane == lane) || (x.rt.map (·.1)) == some lane then x
      else { x with rtQueue := x.rtQueue ++ [⟨lane, false⟩] }) s = modPort p (fun x => { x with rtQueue := [⟨lane, false⟩] }) s := by
    refine modPort_congr ?_
    simp [hqueue, hrt]
  have hstart := startLane_alone (p := p) (lane := lane) (s := modPort p (fun x => { x with rtQueue := [⟨lane, false⟩] }) s)
    (by rw [portAt_modPort]; exact hstate) (by rw [portAt_modPort]; exact hrt) (by rw [portAt_modPort]; exact hhold)
    (by rw [portAt_modPort]) (by rw [portAt_modPort]; exact hactive)
  rw [modPort_modPort] at hstart
  have halone : modPort p (fun x => laneAlone lane ((fun x : Port => { x with rtQueue := [⟨lane, false⟩] }) x)) s = modPort p (laneAlone lane) s :=
    modPort_congr rfl
  have hmnt : (modPort p (laneAlone lane) s).mnt = s.mnt := by simp only [modPort_frame]
  rw [queueLane, hput, hstart, halone, reqActivity_free (by rw [hmnt]; exact hfree), proceed_lane, heldActivity_congr hmnt]

/-- A lane that asks has the token of its lane group, and its partner a request. -/
theorem queueLane_asked : (queueLane p lane s).now = s.now ∧ (portAt (queueLane p lane s) p).rt = some (lane, .requested) ∧
    (portAt (queueLane p lane s) p).mgmt = (portAt s p).mgmt ++ [retrainMsg 0x35 lane] ∧ (portAt (queueLane p lane s) p).rtQueue = [] ∧
    (∃ a, holderOf (queueLane p lane s).mnt.acts (tokLane p (lane / 4)) = some a ∧ a.code = 4) ∧
    ∀ j, j ≠ p → portAt (queueLane p lane s) j = portAt s j := by
  have hport : portAt (queueLane p lane s) p = asksLane lane (laneAlone lane (portAt s p)) := by
    rw [queueLane_asks hstate hrt hhold hqueue hactive hfree, portAt_modPort]
    exact congrArg (asksLane lane) (portAt_modPort p (laneAlone lane) s)
  rw [hport, queueLane_asks hstate hrt hhold hqueue hactive hfree]
  simp only [modPort_frame, modMnt_own, modMnt_frame]
  refine ⟨trivial, rfl, rfl, rfl, ⟨_, holderOf_heldOn hfree, rfl⟩, fun j hj => ?_⟩
  rw [portAt_modPort_other _ _ hj]
  exact portAt_modPort_other _ _ hj

end

/-! ### Requests, grants and ends (R320, R321) -/

theorem fld_rtreq (v : Word) : fld (v ||| 0x800) 12 4 = fld v 12 4 := by
  refine BitVec.eq_of_getLsbD_eq (fun i hi => ?_)
  have hbit : ∀ i : Fin 4, (0x800 : Word).getLsbD (12 + i.val) = false := by decide
  simp only [fld, BitVec.getLsbD_extractLsb', hi, decide_true, Bool.true_and, BitVec.getLsbD_or, hbit ⟨i, hi⟩, Bool.or_false]

/-- The settings that a write of PRT_CFG with RTREQ leaves (R324). -/
def prtSettings (v : Word) (x : Port) : Port :=
  { x with en := bit (v ||| 0x800) 0, genmax := fld (v ||| 0x800) 1 2, livert := bit (v ||| 0x800) 3 }

/-- RTREQ puts a lane in line, and changes the other settings of the port. -/
theorem prtCfg_rtreq {p : Nat} {v : Word} {s : Mach} (hlicensed : portLicensed s p = true) (hen : (portAt s p).en = bit v 0)
    (hstate : (portAt s p).state = 6) :
    prtCfg p (v ||| 0x800) s = queueLane p (fld v 12 4).toNat (modPort p (prtSettings v) s) := by
  have hreq : bit (v ||| 0x800) 11 = true := by simp [bit]
  have hsame : ((portAt s p).en == bit (v ||| 0x800) 0) = true := by
    rw [hen]
    simp [bit]
  have hactive : portActive (modPort p (prtSettings v) s) p = true := by
    rw [portActive, portAt_modPort]
    exact beq_iff_eq.2 hstate
  have hgo : (bit (v ||| 0x800) 11 && portActive (modPort p (prtSettings v) s) p) = true := by rw [hreq, hactive]; rfl
  unfold prtCfg
  dsimp only
  rw [hlicensed, if_neg (by decide), if_pos hsame, fld_rtreq]
  exact if_pos hgo

theorem countRetrain_again {p l : Nat} {m : Mach} (h : bit (portAt m p).rtSeen l = true) : countRetrain p l m = m := if_pos h

theorem countRetrain_first {p l : Nat} {m : Mach} (h : bit (portAt m p).rtSeen l = false) : countRetrain p l m =
    modRnd (fun r => { r with varRun := { r.varRun with retrain := satInc r.varRun.retrain } })
      (modPort p (fun x => { x with rtSeen := setBit x.rtSeen l }) m) := if_neg (by rw [h]; decide)

theorem retrainRequest_granted {p : Nat} {m : BitVec 64} {s : Mach} (hstate : (portAt s p).state = 6) (hrt : (portAt s p).rt = none) :
    retrainRequest p m s = countRetrain p (rtLane m) (modPort p (fun x => { x with
      rtPeer := some (rtLane m), rtPeerWait := none, rtLaneReg := fld m 8 4, mgmt := x.mgmt ++ [retrainMsg 0x36 (rtLane m)] }) s) := by
  have hlane : BitVec.ofNat 4 (rtLane m) = fld m 8 4 := (BitVec.ofNat_toNat _ _).trans (BitVec.setWidth_eq _)
  have hup : ¬ (portAt s p).state ≠ 6 := by rw [hstate]; decide
  simp only [retrainRequest, if_neg hup, hrt, Bool.false_eq_true, if_false, grantLane, sendMgmt, modPort_modPort, hlane]

/-- A port whose partner's lane is done. -/
def peerIsDone (x : Port) : Port := { x with rtPeer := none, evt := setBit x.evt 2 }

theorem peerDone_port (p : Nat) (s : Mach) : (peerDone p s).now = s.now ∧ portAt (peerDone p s) p = peerIsDone (portAt s p) := by
  refine ⟨(portEvt_signals p 2 _).now, ?_⟩
  rw [peerDone, portAt_portEvt, portAt_modPort, portAt_modPort]
  rfl

theorem bit_or_lane (a : BitVec 16) {l : Nat} (h : l < 16) : bit (a ||| BitVec.ofNat 16 (2 ^ l)) l = true := bit_setBit_same a h

/-- A lane that fails is excluded, whether the link stays or not. -/
theorem excludeLanes_fails {p l : Nat} {s : Mach} (hl : l < 16) :
    (excludeLanes p (BitVec.ofNat 16 (2 ^ l)) s).now = s.now ∧
      bit (portAt (excludeLanes p (BitVec.ofNat 16 (2 ^ l)) s) p).failed l = true ∧
      ((portAt s p).rtPeer = none → (portAt (excludeLanes p (BitVec.ofNat 16 (2 ^ l)) s) p).rtPeer = none) := by
  unfold excludeLanes
  by_cases hnone : BitVec.ofNat 16 (2 ^ l) &&& ~~~ (portAt s p).failed = 0
  · rw [if_pos hnone]
    refine ⟨rfl, ?_, fun h => h⟩
    rw [← or_of_and_not_eq_zero hnone]
    exact bit_or_lane _ hl
  · rw [if_neg hnone]
    extract_lets s1
    have hown : portAt s1 p = (fun x => { x with evt := setBit x.evt 3 }) ((fun x => { x with
        failed := x.failed ||| BitVec.ofNat 16 (2 ^ l), active := x.active &&& ~~~ BitVec.ofNat 16 (2 ^ l) }) (portAt s p)) :=
      (portAt_portEvt p 3 _ p).trans (by rw [portAt_modPort, portAt_modPort])
    have hnow : s1.now = s.now := (portEvt_signals p 3 _).now
    split
    · rw [hown]
      exact ⟨hnow, bit_or_lane _ hl, fun h => h⟩
    · obtain ⟨hnow', hport⟩ := linkDown_port p 1 s1
      rw [hport, hown]
      exact ⟨hnow'.trans hnow, bit_or_lane _ hl, fun _ => rfl⟩

/-- A port of which a lane is done. -/
def laneIsDone (x : Port) : Port := { (if x.rtOfWalk then endWalk x else x) with rt := none, rtOfWalk := false, rtHold := true }

theorem laneIsDone_kept (x : Port) : (laneIsDone x).mgmt = x.mgmt ∧ (laneIsDone x).rtPeerWait = x.rtPeerWait := by
  unfold laneIsDone endWalk
  split
  · split <;> exact ⟨rfl, rfl⟩
  · exact ⟨rfl, rfl⟩

/-- A port that has an event of its retraining. -/
def retrainEvent (x : Port) : Port := { x with evt := setBit x.evt 2 }

theorem portAt_laneComplete_done (p l : Nat) (a : Activity) (s : Mach) :
    portAt (portEvt p 2 (modPort p laneIsDone (endActivity a.handle (sendMgmt p (retrainMsg 0x37 l) s)))) p =
      retrainEvent (laneIsDone (queuedMgmt (retrainMsg 0x37 l) (portAt s p))) := by
  have hsent : portAt (endActivity a.handle (sendMgmt p (retrainMsg 0x37 l) s)) p = queuedMgmt (retrainMsg 0x37 l) (portAt s p) :=
    portAt_modPort p (queuedMgmt (retrainMsg 0x37 l)) s
  rw [portAt_portEvt, portAt_modPort, portAt_modPort, hsent]
  rfl

/-- A lane that is done: its token is free, its partner knows, and the next lane waits for a round start. -/
theorem laneComplete_done {p l : Nat} {a : Activity} {s : Mach} (hrt : (portAt s p).rt = some (l, .granted))
    (hwait : (portAt s p).rtPeerWait = none) (ha : findActivity s 4 p l = some a) :
    laneComplete p true s = portEvt p 2 (modPort p laneIsDone (endActivity a.handle (sendMgmt p (retrainMsg 0x37 l) s))) := by
  have hfind : findActivity (sendMgmt p (retrainMsg 0x37 l) s) 4 p l = some a := ha
  have hdone : laneComplete p true s = laneDone p l (sendMgmt p (retrainMsg 0x37 l) s) := by
    simp only [laneComplete, hrt, if_true]
  have hpeer : (portAt (portEvt p 2 (modPort p laneIsDone (endActivity a.handle (sendMgmt p (retrainMsg 0x37 l) s)))) p).rtPeerWait = none := by
    rw [portAt_laneComplete_done]
    exact (laneIsDone_kept (queuedMgmt (retrainMsg 0x37 l) (portAt s p))).2.trans hwait
  rw [hdone]
  unfold laneDone
  simp only [hfind]
  have hnone : ∀ s2 : Mach, (portAt s2 p).rtPeerWait = none →
      (match (portAt s2 p).rtPeerWait with | some l => grantLane p l s2 | none => s2) = s2 := fun s2 h => by rw [h]
  exact hnone _ hpeer

theorem laneDone_frame (p : Nat) (msg : Msg) (h : BitVec 16) (s : Mach) :
    (portEvt p 2 (modPort p laneIsDone (endActivity h (sendMgmt p msg s)))).now = s.now ∧
      (portEvt p 2 (modPort p laneIsDone (endActivity h (sendMgmt p msg s)))).mnt.acts = s.mnt.acts.filter (fun b => b.handle != h) := by
  have hevt := portEvt_signals p 2 (modPort p laneIsDone (endActivity h (sendMgmt p msg s)))
  rw [hevt.now, hevt.mnt]
  simp only [modPort_frame, endActivity, modMnt_frame, modMnt_own, sendMgmt]
  exact ⟨trivial, trivial⟩

/-- The partner's done message ends its retraining, and is an event. -/
theorem retrainDone_done {p : Nat} {m : BitVec 64} {s : Mach} (hpeer : (portAt s p).rtPeer = some (rtLane m)) :
    retrainDone p m s = raiseIrq 5 (noteRaise (0x108120 + 0x40 * p) 2 (modPort p (fun x =>
      { x with rtPeer := none, evt := setBit x.evt 2 }) s)) := by
  rw [retrainDone, if_pos hpeer, peerDone, portEvt, modPort_modPort]

theorem laneComplete_peerFailed {p l : Nat} {s : Mach} (hrt : (portAt s p).rt = none) (hpeer : (portAt s p).rtPeer = some l) :
    laneComplete p false s = excludeLanes p (BitVec.ofNat 16 (2 ^ l)) (peerDone p s) := by
  simp only [laneComplete, hrt, hpeer]
  rfl

theorem retrainTrigger_errors {p : Nat} {ln : Fin 16} {s : Mach} (hlive : (portAt s p).livert = true) (hstate : (portAt s p).state = 6) :
    retrainTrigger p (.errors ln) s = queueLane p ln.val s := by
  simp only [retrainTrigger, hlive, hstate]
  rfl

/-- A temperature near the training's only counts as the port's temperature. -/
theorem retrainTrigger_within {p : Nat} {c : Byte} {s : Mach} (hc : (c.toInt - (portAt s p).traint.toInt).natAbs ≤ 12) :
    retrainTrigger p (.temperature c) s = modPort p (fun x => { x with temp := c }) s := by
  have hnear : ¬ 12 < (c.toInt - (portAt s p).traint.toInt).natAbs := Nat.not_lt.2 hc
  simp only [retrainTrigger, portAt_modPort, hnear, false_and, if_false, ite_self]

/-- Settles O19: a lane's request takes its token, which is free; the rest is one lemma for each message and end. -/
theorem lanesRetrainLive : Obligations.LanesRetrainLive := by
  intro pf ln s p x tok idle asked
  refine ⟨fun v hserved hlicensed hen hlane hidle => ?_, fun hlive hidle => ?_, fun c hc => ?_,
    fun l m => ⟨countRetrain_again, countRetrain_first⟩,
    fun m hstate hrt => run_eq_after (g := fun k => countRetrain p (rtLane m) (modPort p _ k)) (retrainRequest_granted hstate hrt),
    fun m hrt => run_eq_after (g := fun k => countRetrain p (rtLane m) (modPort p _ k)) (if_pos hrt), fun a hrt hwait ha => ?_,
    fun m hpeer => ?_, fun hrt hpeer hfailed => ?_⟩
  · obtain ⟨hstate, hrt, hhold, hqueue, hactive, hfree⟩ := hidle
    have hset : portAt (modPort p (prtSettings v) s.m) p = prtSettings v x := portAt_modPort p (prtSettings v) s.m
    have hmnt : (modPort p (prtSettings v) s.m).mnt = s.m.mnt := by simp only [modPort_frame]
    obtain ⟨_, hrt', hmgmt, hqueue', hheld, hother⟩ := queueLane_asked (p := p) (lane := ln.val) (s := modPort p (prtSettings v) s.m)
      (by rw [hset]; exact hstate) (by rw [hset]; exact hrt) (by rw [hset]; exact hhold) (by rw [hset]; exact hqueue)
      (by rw [hset]; exact hactive) (by rw [hmnt]; exact hfree)
    have hreq : prtCfg p (v ||| 0x800) s.m = queueLane p ln.val (modPort p (prtSettings v) s.m) := by
      rw [prtCfg_rtreq hlicensed hen hstate, hlane]
    rw [← hreq] at hrt' hmgmt hqueue' hheld hother
    rw [hset] at hmgmt
    refine ⟨_, runAccess_served hserved (prtCfg p (v ||| 0x800)), rfl, hrt', hmgmt, hqueue', hheld, fun j hj => ?_⟩
    exact (hother j hj).trans (portAt_modPort_other _ _ hj)
  · obtain ⟨hstate, hrt, hhold, hqueue, hactive, hfree⟩ := hidle
    obtain ⟨hnow, hasked⟩ := queueLane_asked hstate hrt hhold hqueue hactive hfree
    have hreq : retrainTrigger p (.errors ln) s.m = queueLane p ln.val s.m := retrainTrigger_errors hlive hstate
    obtain ⟨ht, hp, hm⟩ := runs_to (f := retrainTrigger p (.errors ln)) (s := s) (by rw [hreq]; exact hnow)
    refine ⟨_, ht, hp, ?_⟩
    rw [hm, hreq]
    exact hasked
  · exact run_eq_after (g := modPort p _) (retrainTrigger_within hc)
  · have heq := laneComplete_done hrt hwait ha
    have hport := portAt_laneComplete_done p ln.val a s.m
    rw [← heq] at hport
    obtain ⟨hnow, hacts⟩ := laneDone_frame p (retrainMsg 0x37 ln.val) a.handle s.m
    rw [← heq] at hnow hacts
    obtain ⟨ht, hp, hm⟩ := runs_to (f := laneComplete p true) (s := s) hnow
    refine ⟨_, ht, hp, ?_⟩
    rw [hm, hport]
    exact ⟨rfl, rfl, (laneIsDone_kept _).1, bit_setBit_same _ (by decide), hacts⟩
  · exact run_eq_after (g := fun k => raiseIrq 5 (noteRaise (0x108120 + 0x40 * p) 2 (modPort p _ k))) (retrainDone_done hpeer)
  · have heq := laneComplete_peerFailed hrt hpeer
    obtain ⟨hnow, hport⟩ := peerDone_port p s.m
    obtain ⟨hnow', hfails, hnone⟩ := excludeLanes_fails (p := p) (l := ln.val) (s := peerDone p s.m) ln.isLt
    obtain ⟨ht, hp, hm⟩ := runs_to (f := laneComplete p false) (s := s) (by rw [heq]; exact hnow'.trans hnow)
    refine ⟨_, ht, hp, ?_⟩
    rw [hm, heq]
    exact ⟨hnone (by rw [hport]; rfl), hfails⟩

end Sys2Proof.Spec
end

section
/-! PROOFS. Remote access: paths, remote blocks, the admitted accesses of a window, and the answers of a read (R335, R343 to R348). -/

namespace Sys2Proof.Spec

open Sys2Proof.Machine

/-! ### Paths (R335, R367) -/

theorem egress_congr {s t : Mach} (hports : t.ports = s.ports) (hsys : t.sys = s.sys) : egress t = egress s := by
  have hport : portAt t = portAt s := by
    funext p
    rw [portAt, portAt, hports]
  have htwin : twinHeld t = twinHeld s := by rw [twinHeld, twinHeld, hsys]
  funext e
  simp only [egress, hport, htwin]

section
variable {s t : Mach} (hports : t.ports = s.ports) (hsys : t.sys = s.sys) (hptn : t.rmt.ptn = s.rmt.ptn)
include hports hsys hptn

/-- The route to a partner depends on the ports, the twin mode and the partner table. -/
theorem routeOf_congr (id : BitVec 16) : routeOf t id = routeOf s id := by
  simp only [routeOf, ptnEligible, egress_congr hports hsys, hptn]

theorem routePort_congr (id : BitVec 16) : routePort t id = routePort s id := by
  rw [routePort, routePort, routeOf_congr hports hsys hptn, egress_congr hports hsys]

theorem Reaches.congr {p : Nat} {m : Msg} (h : Reaches s p m) : Reaches t p m := by
  obtain ⟨hdirect, hroom⟩ := h
  have hport : portAt t p = portAt s p := by rw [portAt, portAt, hports]
  have htwin : twinHeld t = twinHeld s := by rw [twinHeld, twinHeld, hsys]
  refine ⟨?_, by rw [hport]; exact hroom⟩
  rw [← hdirect]
  simp only [directTo, hport, htwin, routeOf_congr hports hsys hptn]

end

theorem sendSeq_queued {p : Nat} {m : Msg} {s : Mach} (h : flitsFor ((portAt s p).txq ++ [m]) ≤ 1024) : sendSeq p m s = queued p m s :=
  if_neg (Nat.not_lt.2 h)

theorem sendFrom_queued {p : Nat} {m : Msg} {s : Mach} (h : Reaches s p m) : sendFrom p m s = queued p m s := by
  obtain ⟨hdirect, hroom⟩ := h
  exact (if_pos hdirect).trans (sendSeq_queued hroom)

/-! ### Blocks of one message (R343) -/

/-- A run that fits into one message is one. -/
theorem splitRun_one {off n k : Nat} (h1 : 1 ≤ n) (hn : n ≤ 128) : splitRun off n (k + 2) 0 = [(0, n)] := by
  have hstop : min n (((off + 0) / 64 + 3) * 64 - off) = n := by omega
  rw [splitRun, if_neg (by omega)]
  simp only [hstop, Nat.sub_zero]
  rw [splitRun, if_pos (le_refl n)]

theorem splitBlock_one {ra stride n : Nat} (h1 : 1 ≤ n) (hn : n ≤ 128) : splitBlock ra stride n 1 = [(0, 0, n, ra)] := by
  have hrun : splitRun (ra % 2 ^ 36) n (n / 128 + 2) 0 = [(0, n)] := splitRun_one h1 hn
  simp only [splitBlock, List.range_one, List.flatMap_cons, List.flatMap_nil, Nat.zero_mul, Nat.add_zero, hrun, List.map_cons, List.map_nil,
    List.append_nil]

/-! ### Remote reads (R343, R345) -/

/-- A message of a read that waits to be issued, and the same once it is. -/
def waitsFor (n : Nat) : ReadMsg := { run := 0, pos := 0, len := n, rid := 0, issued := none, answer := none }
def issuedFor (n : Nat) (rid : Word) (m : BitVec 48) : ReadMsg := { waitsFor n with rid := rid, issued := some m }

/-- A read of one message with what it waits for. -/
def readWith (r : RemRead) (q : ReadMsg) : RemRead := { r with msgs := [q] }

theorem issueNext_none {p : Nat} {s : Mach} (h : ∀ r ∈ s.rmt.reads, ∀ m ∈ r.msgs, m.issued.isNone = false) : issueNext p s = s := by
  have hnone : (s.rmt.reads.zipIdx).find? (fun e => e.1.port == p && e.1.msgs.any (fun m => m.issued.isNone)) = none := by
    refine List.find?_eq_none.2 (fun e he => ?_)
    have hmem : e.1 ∈ s.rmt.reads := List.fst_mem_of_mem_zipIdx he
    rw [List.any_eq_false.2 (fun m hm => by rw [h e.1 hmem m hm]; decide), Bool.and_false]
    decide
  simp only [issueNext, hnone]

theorem iter_succ_const {σ : Type} (f : σ → σ) (n : Nat) (s : σ) : iter (n + 1) (fun _ s => f s) s = iter n (fun _ s => f s) (f s) := by
  simp only [iter, List.range_succ_eq_map, List.foldl_cons, List.foldl_map]

theorem iter_issueNext_none {p : Nat} {s : Mach} (h : issueNext p s = s) (n : Nat) : iter n (fun _ s => issueNext p s) s = s := by
  have hfold : ∀ l : List Nat, l.foldl (fun s _ => issueNext p s) s = s := by
    intro l
    induction l with
    | nil => rfl
    | cons i l ih => rw [List.foldl_cons, h, ih]
  exact hfold (List.range n)

theorem modRmt_congr {f g : Remote → Remote} {s : Mach} (h : f s.rmt = g s.rmt) : modRmt f s = modRmt g s := by
  simp only [modRmt, h]

/-- The module once the message of a block is issued. -/
def readIssued (r : RemRead) (n : Nat) (s : Mach) : Mach :=
  modRmt (fun x => { x with nextRid := s.rmt.nextRid + 1, reads := [readWith r (issuedFor n s.rmt.nextRid (roundNow s))] }) s

section
variable {p n : Nat} {r : RemRead} {s : Mach} (hreads : s.rmt.reads = [readWith r (waitsFor n)]) (hport : r.port = p)
  (hreach : Reaches s p (mkRread s r (waitsFor n) (readAddr r) s.rmt.nextRid))
include hreads hport hreach

theorem issueNext_one : issueNext p s = queued p (mkRread s r (waitsFor n) (readAddr r) s.rmt.nextRid) (readIssued r n s) := by
  have hfind : ([readWith r (waitsFor n)].zipIdx).find? (fun e => e.1.port == p && e.1.msgs.any (fun m => m.issued.isNone)) =
      some (readWith r (waitsFor n), 0) := by
    simp [readWith, waitsFor, hport]
  have hmsg : ((readWith r (waitsFor n)).msgs.zipIdx).find? (fun e => e.1.issued.isNone) = some (waitsFor n, 0) := rfl
  have haddr : readAddr (readWith r (waitsFor n)) + (waitsFor n).run * (readWith r (waitsFor n)).stride + (waitsFor n).pos = readAddr r := by
    simp only [waitsFor, Nat.zero_mul, Nat.add_zero]
    rfl
  have hset : modRmt (fun x => { x with nextRid := s.rmt.nextRid + 1, reads := x.reads.set 0 { readWith r (waitsFor n) with
      msgs := (readWith r (waitsFor n)).msgs.set 0 { waitsFor n with rid := s.rmt.nextRid, issued := some (roundNow s) } } }) s =
      readIssued r n s := by
    refine modRmt_congr ?_
    rw [hreads]
    rfl
  unfold issueNext
  rw [hreads, hfind]
  dsimp only
  rw [hmsg]
  dsimp only
  rw [haddr, hset]
  exact sendFrom_queued (Reaches.congr rfl rfl rfl hreach)

/-- A block of one message is issued at once when its port holds no other read. -/
theorem issueReads_one : issueReads p s = queued p (mkRread s r (waitsFor n) (readAddr r) s.rmt.nextRid) (readIssued r n s) := by
  have hopen : openReads s p = 0 := by simp [openReads, hreads, hport, readWith, waitsFor]
  have hrest : issueNext p (queued p (mkRread s r (waitsFor n) (readAddr r) s.rmt.nextRid) (readIssued r n s)) =
      queued p (mkRread s r (waitsFor n) (readAddr r) s.rmt.nextRid) (readIssued r n s) := by
    have hissued : (queued p (mkRread s r (waitsFor n) (readAddr r) s.rmt.nextRid) (readIssued r n s)).rmt.reads =
        [readWith r (issuedFor n s.rmt.nextRid (roundNow s))] := rfl
    refine issueNext_none (fun x hx m hm => ?_)
    rw [hissued, List.mem_singleton] at hx
    subst hx
    obtain rfl := List.mem_singleton.1 hm
    rfl
  rw [issueReads, hopen]
  exact (iter_succ_const (issueNext p) 255 s).trans (by rw [issueNext_one hreads hport hreach, iter_issueNext_none hrest])

end

/-- The read that a remote block of one message makes (R343). -/
def readOf (p : Nat) (f : Row) : RemRead :=
  { port := p, link := dB f 2 1 % 16, phase := dB f 2 1 / 16 % 4, target := raTarget (dB f 8 8 % 2 ^ 62),
    window := BitVec.ofNat 10 (raWindow (dB f 8 8 % 2 ^ 62)), offset := BitVec.ofNat 64 (raOffset (dB f 8 8 % 2 ^ 62)),
    stride := rqStride f, runlen := rqRunlen f, nrun := 1, stag := BitVec.ofNat 32 (dB f 4 4), mlc := dB f 22 2, msgs := [], sent := 0,
    failed := false }

theorem readAddr_readOf (p : Nat) (f : Row) : readAddr (readOf p f) = dB f 8 8 % 2 ^ 62 := by
  simp only [readAddr, readOf, raTarget, raWindow, raOffset, BitVec.toNat_ofNat]
  omega

theorem remoteRead_one {p : Nat} {f : Row} {s : Mach} (hkind : dB f 0 1 = 0x11) (hrefuse : refuseBlock s p f = 0) (hnrun : rqNrun f = 1)
    (h1 : 1 ≤ rqRunlen f) (hn : rqRunlen f ≤ 128) (hreads : s.rmt.reads = []) :
    remoteRead p f s = issueReads p (modRmt (fun x => { x with reads := [readWith (readOf p f) (waitsFor (rqRunlen f))] }) s) := by
  have hset : ∀ r : RemRead, modRmt (fun x => { x with reads := x.reads ++ [r] }) s = modRmt (fun x => { x with reads := [r] }) s := by
    intro r
    refine modRmt_congr ?_
    rw [hreads, List.nil_append]
  unfold remoteRead
  dsimp only
  rw [if_neg (not_not.2 hkind), if_neg (not_not.2 hrefuse), hnrun, splitBlock_one h1 hn, hset]
  rfl

/-! ### Remote writes (R343, R344) -/

theorem notePath_frame (id : BitVec 16) (p : Nat) (s : Mach) :
    (notePath id p s).ports = s.ports ∧ (notePath id p s).sys = s.sys ∧ (notePath id p s).rmt.ptn = s.rmt.ptn := by
  refine ⟨rfl, rfl, ?_⟩
  rw [notePath, modRmt_own]
  split <;> rfl

/-- A path is among those written since the last fence. -/
def noted (id : BitVec 16) (p : Nat) : Mach → Mach :=
  modRmt (fun r => { r with
    written := if r.written.contains (id, BitVec.ofNat 6 p) then r.written else r.written ++ [(id, BitVec.ofNat 6 p)] })

theorem notePath_noted (id : BitVec 16) (p : Nat) (s : Mach) : notePath id p s = noted id p s := by
  refine modRmt_congr ?_
  split <;> rfl

/-- The write of one row that a remote block makes (R343). -/
def writeOf (f row : Row) (s : Mach) : RWriteMsg :=
  { src := s.ctl.id, dst := raTarget (dB f 8 8 % 2 ^ 62), window := BitVec.ofNat 16 (raWindow (dB f 8 8 % 2 ^ 62)),
    offset := BitVec.ofNat 64 (raOffset (dB f 8 8 % 2 ^ 62)), sepoch := s.epoch, stag := BitVec.ofNat 32 (dB f 4 4),
    round := (roundNow s).setWidth 16, hops := 0, data := toBytes 64 row.toNat }

theorem remoteWrite_one {p : Nat} {f row : Row} {s : Mach} (hkind : dB f 0 1 = 0x12) (hrefuse : refuseBlock s p f = 0)
    (hnrun : rqNrun f = 1) (hlen : rqRunlen f = 64) (hreach : Reaches s p (.rwrite (writeOf f row s))) :
    remoteWrite p f [row] s = portRow p (dB f 2 1) 0 false false
      (queued p (.rwrite (writeOf f row s)) (notePath (raTarget (dB f 8 8 % 2 ^ 62)) p s)) := by
  have hpath : pathOf s p (raTarget (dB f 8 8 % 2 ^ 62)) = p := if_pos hreach.1
  have hframe := notePath_frame (raTarget (dB f 8 8 % 2 ^ 62)) p s
  have hsend := sendFrom_queued (Reaches.congr hframe.1 hframe.2.1 hframe.2.2 hreach)
  have hdata : ((((([row] : List Row).drop (0 * rowsPerRun 64)).take (rowsPerRun 64)).flatMap (fun x => toBytes 64 x.toNat)).drop 0).take 64 =
      toBytes 64 row.toNat := by
    rw [Nat.zero_mul, List.drop_zero, List.drop_zero, show rowsPerRun 64 = 1 from rfl, List.take_one, List.head?_cons, Option.toList_some,
      List.flatMap_cons, List.flatMap_nil, List.append_nil, List.take_of_length_le (by rw [toBytes_length])]
  unfold remoteWrite
  dsimp only
  rw [if_neg (not_not.2 hkind), if_neg (not_not.2 hrefuse), hnrun, hlen, splitBlock_one (by decide) (by decide), List.foldl_cons,
    List.foldl_nil, hpath, hdata]
  exact congrArg (portRow p (dB f 2 1) 0 false false) hsend

theorem portRow_sends {p ret : Nat} {row : Row} {poison rej : Bool} {s : Mach} (h : portLink s p (ret % 16) (ret / 16 % 4) = true) :
    portRow p ret row poison rej s = rowOut p (ret % 16) (ret / 16 % 4) row poison rej s := if_pos h

end Sys2Proof.Spec
end

section
/-! PROOFS. What an admitted access of a window does to edge memory (R212, R347, R348). -/

namespace Sys2Proof.Spec

open Sys2Proof.Machine

/-! ### Work of one unit (R210, R212, R213) -/

/-- Work of one unit that delivers no rows: a user of the remote class, or the scrub engine. -/
def unitWork (cls ea n : Nat) : Work := { cls := cls, runs := [(ea, n)], pos := 0, key := none, square := false, rows := [] }

section
variable {ea n : Nat} (hunit : ea % 256 + n ≤ 256)
include hunit

theorem unitWork_unit (cls : Nat) : (unitWork cls ea n).unit = some (ea, n) := by
  simp only [Work.unit, unitWork, Nat.add_zero, Nat.sub_zero]
  rw [Nat.min_eq_left (by omega)]

theorem unitWork_next (cls : Nat) : (unitWork cls ea n).next = { unitWork cls ea n with runs := [] } := by
  simp only [Work.next, unitWork_unit hunit cls]
  simp only [unitWork, Nat.zero_add, le_refl, if_true]

theorem serveFirst_unitWork {cls : Nat} {k : Stack} (hburst : tget 0 k.bursts (groupOf ea) < 16) :
    serveFirst cls { k with work := [unitWork cls ea n] } = some (performUnit (unitWork cls ea n) { k with work := [] }) := by
  have hfind : [unitWork cls ea n].find? (fun w => w.cls == cls) = some (unitWork cls ea n) := by
    simp [List.find?, unitWork]
  have hcan : (unitWork cls ea n).can { k with work := [unitWork cls ea n] } = true := by
    simp only [Work.can, unitWork_unit hunit cls, decide_eq_true hburst]
    rfl
  have hidx : [unitWork cls ea n].findIdx (fun w => w.cls == cls) = 0 := by simp [List.findIdx_cons, unitWork]
  simp only [serveFirst, hfind, hcan, unitWork_next hunit cls, hidx]
  rfl

/-- One unit of the scrub engine or of a rewrite is performed at once where nothing else waits. -/
theorem serveSlot_unitWork {cls m : Nat} {e : Edge} {k : Stack} (hcls : cls = 2 ∨ cls = 3) (hslot : slotClass e k.slot.toNat = 2)
    (hburst : tget 0 k.bursts (groupOf ea) < 16) :
    serveSlot e (m + 1) { k with work := [unitWork cls ea n] } = performUnit (unitWork cls ea n) { k with work := [] } := by
  have hone : serveOne e { k with work := [unitWork cls ea n] } = some (performUnit (unitWork cls ea n) { k with work := [] }) := by
    have hslot' : slotClass e ({ k with work := [unitWork cls ea n] } : Stack).slot.toNat = 2 := hslot
    simp only [serveOne, hslot', if_true]
    obtain rfl | rfl := hcls
    · rw [serveFirst_unitWork hunit hburst]
      rfl
    · rw [serveFirst_none (cls := 2) (by simp [unitWork]), serveFirst_unitWork hunit hburst]
      rfl
  have hwork : (performUnit (unitWork cls ea n) { k with work := [] }).work = [] := by
    simp only [performUnit, unitWork_unit hunit cls]
    obtain rfl | rfl := hcls <;> rfl
  rw [serveSlot, hone]
  exact serveSlot_idle hwork m

theorem performUnit_unitWork_rmu {cls : Nat} {k : Stack} (hcls : cls = 2 ∨ cls = 3) :
    (performUnit (unitWork cls ea n) k).rmu = satInc k.rmu := by
  simp only [performUnit, unitWork_unit hunit cls]
  obtain rfl | rfl := hcls <;> rfl

/-- A unit that is performed at once is counted for the remote class. -/
theorem useUnits_counted {cls : Nat} {s : Mach} (hcls : cls = 2 ∨ cls = 3) (hn : n ≠ 0) (h : Unhurried s (stackOf ea) 2 ea) :
    (stkAt (useUnits cls ea n s) (stackOf ea)).rmu = satInc (stkAt s (stackOf ea)).rmu := by
  obtain ⟨hwork, hslot, hburst⟩ := h
  have hfilter : [(ea, n)].filter (fun r => r.2 != 0) = [(ea, n)] := by simp [hn]
  have hadd : useUnits cls ea n s = serveStack (stackOf ea)
      (modStk (stackOf ea) (fun k => { k with work := k.work ++ [unitWork cls ea n] }) s) := by
    simp only [useUnits, addWork, hfilter]
    rfl
  rw [hadd, serveStack, modStk_modStk, stkAt_modStk, hwork, List.nil_append]
  exact (congrArg Stack.rmu (serveSlot_unitWork (m := 63) hunit hcls hslot hburst)).trans (performUnit_unitWork_rmu hunit hcls)

end

/-! ### Code words written where no retraining runs (R214, R217) -/

/-- Code words were stored: beside edge memory, arrivals of update lists and pending scrub rewrites differ. -/
def WordsStored (s t : Mach) (ea : Nat) (bs : List Byte) : Prop :=
  (∃ e tr ks, t = { s with edge := e, trn := tr, stk := ks } ∧ e.mem = wrBytes s.edge.mem ea bs ∧ slotClass e = slotClass s.edge) ∧
    ∀ j, ∃ wb, stkAt t j = { stkAt s j with scrubWb := wb }

theorem dropEdgeWb_stk (cw : Nat) (s : Mach) : (∃ ks, dropEdgeWb cw s = { s with stk := ks }) ∧
    ∀ j, ∃ wb, stkAt (dropEdgeWb cw s) j = { stkAt s j with scrubWb := wb } := by
  unfold dropEdgeWb
  dsimp only
  split
  · refine ⟨⟨_, rfl⟩, fun j => ?_⟩
    by_cases h : j = stackOf (32 * cw)
    · subst h
      exact ⟨_, stkAt_modStk _ _ _⟩
    · exact ⟨(stkAt s j).scrubWb, stkAt_modStk_other _ _ h⟩
  · exact ⟨⟨s.stk, rfl⟩, fun j => ⟨(stkAt s j).scrubWb, rfl⟩⟩

theorem writeCw_stored {cw : Nat} {data : List Byte} {s : Mach} (h : (stkAt s (stackOf (32 * cw))).retQ = 0x3F) :
    WordsStored s (writeCw cw data false s) (32 * cw) data := by
  obtain ⟨⟨ks, hdrop⟩, hstk⟩ := dropEdgeWb_stk cw s
  obtain ⟨u, hu⟩ := countArrivals_only cw (modEdge (storeCw cw data) (dropEdgeWb cw s))
  have heq : writeCw cw data false s = { modEdge (storeCw cw data) (dropEdgeWb cw s) with trn := u } := by
    simp only [writeCw, h, bne_self_eq_false, Bool.false_and, Bool.false_eq_true, if_false, hu]
  rw [heq]
  exact ⟨⟨storeCw cw data s.edge, u, ks, by rw [hdrop]; rfl, rfl, rfl⟩, hstk⟩

theorem writeCws_stored : ∀ (n cw : Nat) (bs : List Byte) (s : Mach), 32 * n ≤ bs.length →
    (∀ i, i < n → (stkAt s (stackOf (32 * (cw + i)))).retQ = 0x3F) →
    WordsStored s (writeCws cw bs n s) (32 * cw) (bs.take (32 * n)) := by
  intro n
  induction n with
  | zero => exact fun cw bs s _ _ => ⟨⟨s.edge, s.trn, s.stk, rfl, rfl, rfl⟩, fun j => ⟨(stkAt s j).scrubWb, rfl⟩⟩
  | succ n ih =>
    intro cw bs s hlen hret
    have h0 : (stkAt s (stackOf (32 * cw))).retQ = 0x3F := hret 0 (by omega)
    obtain ⟨⟨e, tr, ks, hs1, hmem, hslot⟩, hstk⟩ := writeCw_stored (data := bs.take 32) h0
    obtain ⟨⟨e', tr', ks', ht, hmem', hslot'⟩, hstk'⟩ := ih (cw + 1) (bs.drop 32) (writeCw cw (bs.take 32) false s)
      (by rw [List.length_drop]; omega) (fun i hi => by
        obtain ⟨wb, hwb⟩ := hstk (stackOf (32 * (cw + 1 + i)))
        rw [hwb, show cw + 1 + i = cw + (i + 1) by omega]
        exact hret (i + 1) (by omega))
    refine ⟨⟨e', tr', ks', by rw [writeCws, ht, hs1], ?_, by rw [hslot', hs1]; exact hslot⟩, fun j => ?_⟩
    · have hedge : (writeCw cw (bs.take 32) false s).edge.mem = wrBytes s.edge.mem (32 * cw) (bs.take 32) := by rw [hs1]; exact hmem
      rw [hmem', hedge, show 32 * (n + 1) = 32 + 32 * n by omega, List.take_add, wrBytes_append, List.length_take,
        Nat.min_eq_left (by omega), show 32 * (cw + 1) = 32 * cw + 32 by omega]
    · obtain ⟨wb, hwb⟩ := hstk j
      obtain ⟨wb', hwb'⟩ := hstk' j
      exact ⟨wb', by rw [writeCws, hwb', hwb]⟩

/-- A write of whole code words in one stack whose pseudo-channels all work is stored at its place. -/
theorem writeEdge_stored {ea : Nat} {bs : List Byte} {s : Mach} (hea : ea % 32 = 0) (hlen : bs.length % 32 = 0)
    (hone : stackOf (ea + bs.length - 1) = stackOf ea) (hret : (stkAt s (stackOf ea)).retQ = 0x3F) :
    WordsStored s (writeEdge ea bs s) ea bs := by
  have h := writeCws_stored (bs.length / 32) (ea / 32) bs s (by omega) (fun i hi => by
    have hst : stackOf (32 * (ea / 32 + i)) = stackOf ea := by
      unfold stackOf at *
      omega
    rw [hst]
    exact hret)
  rwa [show 32 * (ea / 32) = ea by omega, show 32 * (bs.length / 32) = bs.length by omega, List.take_length] at h

/-! ### Admitted accesses (R347, R348) -/

theorem takeWrite_admitted {p : Nat} {m : RWriteMsg} {s : Mach} (hassigned : s.ctl.assigned = true)
    (hopen : Opens s (tget 0 s.rmt.win (m.window.toNat % 1024)) m.src m.round m.offset m.sepoch m.data.length)
    (hpw : wnPw (tget 0 s.rmt.win (m.window.toNat % 1024)) = true) (hpa : wnPa (tget 0 s.rmt.win (m.window.toNat % 1024)) = false)
    (hoff : m.offset.toNat % 32 = 0) (hlen : m.data.length % 32 = 0) :
    takeWrite p m s = useUnits 2 (wnBase (tget 0 s.rmt.win (m.window.toNat % 1024)) + m.offset.toNat) m.data.length
      (writeEdge (wnBase (tget 0 s.rmt.win (m.window.toNat % 1024)) + m.offset.toNat) m.data s) := by
  obtain ⟨hlate, hvalid, hvoid, hcores, hsrc, hepoch, hsize, hout⟩ := hopen
  have hcause : targetCause s true m.src m.window m.round m.offset m.sepoch m.data.length = 0 := by
    simp only [targetCause, hlate, hassigned, hvalid, hvoid, hcores, hsrc, hepoch, hpw, hoff, hlen, hout, decide_eq_false (Nat.not_lt.2 hsize)]
    simp
  have hperform : performWrite m s = (0, useUnits 2 (wnBase (tget 0 s.rmt.win (m.window.toNat % 1024)) + m.offset.toNat) m.data.length
      (writeEdge (wnBase (tget 0 s.rmt.win (m.window.toNat % 1024)) + m.offset.toNat) m.data s)) := by
    simp only [performWrite, hcores, hpa, Bool.false_eq_true, if_false]
  simp only [takeWrite, hcause, hperform, ne_eq, not_true_eq_false, if_false]

/-! ### Clean reads (R348, R387) -/

theorem goodCw_of_clean {s : Mach} {cw : Nat} (h : (edgeDecode s cw).2 = .clean) : GoodCw s cw := by
  unfold edgeDecode at h
  dsimp only at h
  split at h
  · exact absurd h (by simp)
  · next hpoison =>
    split at h
    · next hdiff =>
      refine ⟨not_not.1 hpoison, fun j hj => ?_⟩
      rw [List.all_eq_true] at hdiff
      have hzero := hdiff _ (List.mem_map_of_mem (List.mem_range.2 hj))
      exact BitVec.eq_of_toNat_eq (eq_of_beq hzero)
    · split at h
      · split at h <;> exact absurd h (by simp)
      · split at h <;> exact absurd h (by simp)

theorem goodRange_of_clean {s : Mach} {ea n : Nat} (h : CleanEdge s ea n) : GoodRange s ea n :=
  fun cw h1 h2 => goodCw_of_clean (h cw h1 (by omega))

theorem useUnits_frame (cls ea n : Nat) (s : Mach) : ∃ ks, useUnits cls ea n s = { s with stk := ks } := addWork_frame _ _ s

theorem switchMsg_queued {m : Msg} {e : Nat} {s : Mach} (hhops : msgHops m ≠ 255) (hroute : routePort s (msgDst m) = some e)
    (hroom : flitsFor ((portAt s e).txq ++ [msgHop m]) ≤ 1024) : switchMsg m s = queued e (msgHop m) s := by
  simp only [switchMsg, forwardMsg, if_neg hhops, hroute, if_true]
  exact sendSeq_queued hroom

/-- The answer to a read, with its hops. -/
def answerOf (m : RReadMsg) (h : Byte) (s : Mach) (bs : List Byte) : Msg :=
  .rdata { src := s.ctl.id, dst := m.src, hops := h, status := 0, rid := m.rid, data := bs }

theorem takeRead_admitted {m : RReadMsg} {e : Nat} {s : Mach} (hassigned : s.ctl.assigned = true)
    (hopen : Opens s (tget 0 s.rmt.win (m.window.toNat % 1024)) m.src m.round m.offset m.sepoch (8 * m.len8.toNat))
    (hpr : wnPr (tget 0 s.rmt.win (m.window.toNat % 1024)) = true) (hoff : m.offset.toNat % 8 = 0)
    (hclean : CleanEdge s (wnBase (tget 0 s.rmt.win (m.window.toNat % 1024)) + m.offset.toNat) (8 * m.len8.toNat))
    (hroute : routePort s m.src = some e)
    (hroom : flitsFor ((portAt s e).txq ++ [answerOf m 1 s (rdBytes s.edge.mem
      (wnBase (tget 0 s.rmt.win (m.window.toNat % 1024)) + m.offset.toNat) (8 * m.len8.toNat))]) ≤ 1024) :
    takeRead m s = queued e (answerOf m 1 s (rdBytes s.edge.mem
        (wnBase (tget 0 s.rmt.win (m.window.toNat % 1024)) + m.offset.toNat) (8 * m.len8.toNat)))
      (useUnits 2 (wnBase (tget 0 s.rmt.win (m.window.toNat % 1024)) + m.offset.toNat) (8 * m.len8.toNat) s) := by
  obtain ⟨hlate, hvalid, hvoid, hcores, hsrc, hepoch, hsize, hout⟩ := hopen
  have hcause : targetCause s false m.src m.window m.round m.offset m.sepoch (8 * m.len8.toNat) = 0 := by
    simp only [targetCause, hlate, hassigned, hvalid, hvoid, hcores, hsrc, hepoch, hpr, hoff, hout, decide_eq_false (Nat.not_lt.2 hsize)]
    simp
  have hread := readEdge_good (src := 2) (goodRange_of_clean hclean)
  unfold takeRead
  dsimp only
  rw [hcause, hread, if_neg (not_not.2 rfl)]
  generalize wnBase (tget 0 s.rmt.win (m.window.toNat % 1024)) + m.offset.toNat = ea at *
  have hgood : (clean (rdBytes s.edge.mem ea (8 * m.len8.toNat))).any (·.2) = false := by simp [clean]
  have hbytes : (clean (rdBytes s.edge.mem ea (8 * m.len8.toNat))).map (·.1) = rdBytes s.edge.mem ea (8 * m.len8.toNat) := by
    simp [clean, Function.comp_def]
  dsimp only
  rw [hgood, hbytes, if_neg Bool.false_ne_true]
  obtain ⟨ks, hks⟩ := useUnits_frame 2 ea (8 * m.len8.toNat) s
  rw [hks]
  exact switchMsg_queued (m := answerOf m 0 s (rdBytes s.edge.mem ea (8 * m.len8.toNat))) (by simp [answerOf, msgHops])
    ((routePort_congr rfl rfl rfl m.src).trans hroute) hroom

theorem arriveMsg_own {p : Nat} {m : Msg} {own : Mach → Mach} {s : Mach} (h : Mine s p (msgDst m)) : arriveMsg p m own s = own s := by
  obtain ⟨hactive, hdeaf, hassigned, hdst⟩ := h
  simp [arriveMsg, hactive, hdeaf, isOwn, hassigned, hdst]

theorem rwriteArrive_own {p : Nat} {m : RWriteMsg} {s : Mach} (h : Mine s p m.dst) : rwriteArrive p m s = takeWrite p m s := by
  obtain ⟨hactive, hdeaf, hassigned, hdst⟩ := h
  simp [rwriteArrive, hactive, hdeaf, isOwn, hassigned, msgDst, hdst]

/-! ### Answers of a read of one row (R345) -/

theorem rimSend_modRmt (unit die : Nat) (side : Side) (link phase : Nat) (f : NetFlit) (g : Remote → Remote) (s : Mach) :
    rimSend unit die side link phase f (modRmt g s) = modRmt g (rimSend unit die side link phase f s) := by
  have hcore : rimCore (modRmt g s) die side link = rimCore s die side link := rfl
  have hroutes : routesLive (modRmt g s) = routesLive s := rfl
  simp only [rimSend, hcore, hroutes]
  split
  · rfl
  · split <;> rfl

/-- The message of a read with its answer. -/
def answered (q : ReadMsg) (status : Byte) (data : List Byte) : ReadMsg := { q with answer := some (status, data) }

theorem modRmt_modRmt (f g : Remote → Remote) (s : Mach) : modRmt f (modRmt g s) = modRmt (fun x => f (g x)) s := rfl

section
variable {r : RemRead} {q : ReadMsg} (hrun : q.run = 0) (hpos : q.pos = 0) (hlen : q.len = r.runlen)
  (hnrun : r.nrun = 1) (h1 : 1 ≤ r.runlen) (h64 : r.runlen ≤ 64) (hsent : r.sent = 0) (hfailed : r.failed = false)

include hrun hpos hlen h1 h64 in
/-- The row of a read of one message carries the answer's bytes. -/
theorem remRow_one (status : Byte) (data : List Byte) :
    remRow (readWith r (answered q status data)) 0 = some ((List.range r.runlen).map (fun b => data.getD b 0), status != 0) := by
  have hcover : [answered q status data].filter (fun m => m.run == 0 && decide (m.pos < r.runlen ∧ 0 < m.pos + m.len)) =
      [answered q status data] := by
    simp [answered, hrun, hpos, hlen]
    omega
  have hmin : min r.runlen (0 + 64) = r.runlen := by omega
  unfold remRow
  simp only [readWith, Nat.zero_div, Nat.zero_mod, Nat.mul_zero, hmin, hcover]
  simp only [List.all_cons, List.all_nil, List.any_cons, List.any_nil, answered, Option.isSome_some, Bool.and_true, Bool.or_false, if_true, Nat.sub_zero]
  refine congrArg some (congrArg (·, status != 0) (List.map_congr_left (fun b hb => ?_)))
  simp [hpos, hlen, List.mem_range.1 hb]

include hrun hpos hlen hnrun h1 h64 hsent hfailed in
theorem sendRows_one {status : Byte} {data : List Byte} (t : Mach) :
    sendRows 1 (readWith r (answered q status data)) t =
      ({ readWith r (answered q status data) with sent := 1, failed := status != 0 },
        portRow r.port (r.link + 16 * r.phase)
          (if status != 0 then 8 else BitVec.ofNat 512 (ofBytes ((List.range r.runlen).map (fun b => data.getD b 0))))
          (status != 0) (status != 0) t) := by
  have hper : rowsPerRun r.runlen = 1 := by simp only [rowsPerRun, ceilDiv]; omega
  have hrow := remRow_one hrun hpos hlen h1 h64 status data
  have hopen : ¬ rowsPerRun (readWith r (answered q status data)).runlen * (readWith r (answered q status data)).nrun ≤
      (readWith r (answered q status data)).sent := by
    simp only [readWith, hper, hnrun, hsent]
    decide
  have hrow' : remRow (readWith r (answered q status data)) (readWith r (answered q status data)).sent =
      some ((List.range r.runlen).map (fun b => data.getD b 0), status != 0) := by
    rw [← hrow]
    exact congrArg _ hsent
  rw [sendRows, if_neg hopen, hrow']
  simp only [readWith, hsent, hfailed, Bool.false_or]
  rfl

end

section
variable {r : RemRead} {q : ReadMsg} {s : Mach} (hreads : s.rmt.reads = [r]) (hmsgs : r.msgs = [q]) (hrun : q.run = 0) (hpos : q.pos = 0)
  (hlen : q.len = r.runlen) (hissued : q.issued.isSome = true) (hopen : q.answer = none) (hnrun : r.nrun = 1) (h1 : 1 ≤ r.runlen)
  (h64 : r.runlen ≤ 64) (hsent : r.sent = 0) (hfailed : r.failed = false) (hlink : r.link < 16) (hphase : r.phase < 4)
  (hport : portLink s r.port r.link r.phase = true)
include hreads hmsgs hrun hpos hlen hissued hopen hnrun h1 h64 hsent hfailed hlink hphase hport

/-- The answer of a read's only message sends its row to the core, and the read leaves. -/
theorem answerRead_one {ok : ReadMsg → Bool} (hok : ok q = true) (status : Byte) (data : List Byte) :
    answerRead q.rid status data ok s = modRmt (fun x => { x with reads := [] })
      (rowOut r.port r.link r.phase
        (if status != 0 then 8 else BitVec.ofNat 512 (ofBytes ((List.range r.runlen).map (fun b => data.getD b 0))))
        (status != 0) (status != 0) s) := by
  have hfind : s.rmt.reads.find? (fun r => r.msgs.any (fun m => m.rid == q.rid && m.issued.isSome && m.answer.isNone && ok m)) = some r := by
    simp [hreads, hmsgs, hissued, hopen, hok]
  have hset : modRmt (fun x => { x with reads := x.reads.map (fun y =>
      if y == r then { y with msgs := y.msgs.map (fun m =>
        if m.rid == q.rid && m.issued.isSome && m.answer.isNone then { m with answer := some (status, data) } else m) } else y) }) s =
      modRmt (fun x => { x with reads := [readWith r (answered q status data)] }) s := by
    refine modRmt_congr ?_
    simp [hreads, hmsgs, hissued, hopen, readWith, answered]
  have hper : rowsPerRun r.runlen * r.nrun = 1 := by simp only [hnrun, rowsPerRun, ceilDiv]; omega
  have hrow : portRow r.port (r.link + 16 * r.phase)
        (if status != 0 then 8 else BitVec.ofNat 512 (ofBytes ((List.range r.runlen).map (fun b => data.getD b 0))))
        (status != 0) (status != 0) (modRmt (fun x => { x with reads := [readWith r (answered q status data)] }) s) =
      modRmt (fun x => { x with reads := [readWith r (answered q status data)] }) (rowOut r.port r.link r.phase
        (if status != 0 then 8 else BitVec.ofNat 512 (ofBytes ((List.range r.runlen).map (fun b => data.getD b 0))))
        (status != 0) (status != 0) s) := by
    have hl : (r.link + 16 * r.phase) % 16 = r.link := by omega
    have hp : (r.link + 16 * r.phase) / 16 % 4 = r.phase := by omega
    rw [portRow_sends (by rw [hl, hp]; exact hport), hl, hp]
    exact rimSend_modRmt _ _ _ _ _ _ _ _
  have hflush : flushReads (modRmt (fun x => { x with reads := [readWith r (answered q status data)] }) s) =
      modRmt (fun x => { x with reads := [] }) (rowOut r.port r.link r.phase
        (if status != 0 then 8 else BitVec.ofNat 512 (ofBytes ((List.range r.runlen).map (fun b => data.getD b 0))))
        (status != 0) (status != 0) s) := by
    have hper' : rowsPerRun (readWith r (answered q status data)).runlen * (readWith r (answered q status data)).nrun = 1 := hper
    unfold flushReads
    rw [modRmt_own]
    dsimp only
    rw [List.foldl_cons, List.foldl_nil, hper', sendRows_one hrun hpos hlen hnrun h1 h64 hsent hfailed, hrow]
    rfl
  simp only [answerRead, hfind, hset, hflush]
  exact iter_issueNext_none (issueNext_none (fun r hr => by rw [modRmt_own] at hr; exact absurd hr List.not_mem_nil)) _

end

theorem bytes_of_range {bs : List Byte} {n : Nat} (h : bs.length = n) : (List.range n).map (fun b => bs.getD b 0) = bs := by
  subst h
  refine List.ext_getElem (by simp) (fun i hi hi' => ?_)
  simp [hi']

/-! ### The clauses of the statement -/

theorem rowCount_eq (f : Row) : rowCount f = (rqRunlen f + 63) / 64 * rqNrun f := rfl

theorem remoteRead_sends {p : Nat} {f : Row} {s : Mach} (hkind : dB f 0 1 = 0x11) (hrefuse : refuseBlock s p f = 0) (hnrun : rqNrun f = 1)
    (h1 : 1 ≤ rqRunlen f) (hn : rqRunlen f ≤ 128) (hreads : s.rmt.reads = [])
    (hreach : Reaches s p (mkRread s (readOf p f) (waitsFor (rqRunlen f)) (dB f 8 8 % 2 ^ 62) s.rmt.nextRid)) :
    remoteRead p f s = queued p (mkRread s (readOf p f) (waitsFor (rqRunlen f)) (dB f 8 8 % 2 ^ 62) s.rmt.nextRid)
      (readIssued (readOf p f) (rqRunlen f) s) := by
  rw [remoteRead_one hkind hrefuse hnrun h1 hn hreads,
    issueReads_one (p := p) (r := readOf p f) (n := rqRunlen f) (by rw [modRmt_own]) rfl (by rw [readAddr_readOf]; exact Reaches.congr rfl rfl rfl hreach),
    readAddr_readOf]
  rfl

theorem rwriteArrive_stores {p : Nat} {m : RWriteMsg} {s : Mach} (hwf : m.wf = true) (hmine : Mine s p m.dst)
    (hopen : Opens s (tget 0 s.rmt.win (m.window.toNat % 1024)) m.src m.round m.offset m.sepoch m.data.length)
    (hpw : wnPw (tget 0 s.rmt.win (m.window.toNat % 1024)) = true) (hpa : wnPa (tget 0 s.rmt.win (m.window.toNat % 1024)) = false)
    (hoff : m.offset.toNat % 32 = 0) (hlen : m.data.length % 32 = 0) {ea : Nat}
    (hea : wnBase (tget 0 s.rmt.win (m.window.toNat % 1024)) + m.offset.toNat = ea) (hea32 : ea % 32 = 0)
    (hret : (stkAt s (stackOf ea)).retQ = 0x3F) (hone : stackOf (ea + m.data.length - 1) = stackOf ea) :
    (∃ e tr ks, rwriteArrive p m s = { s with edge := e, trn := tr, stk := ks } ∧ e.mem = wrBytes s.edge.mem ea m.data) ∧
      (Unhurried s (stackOf ea) 2 ea → ea % 256 + m.data.length ≤ 256 →
        (stkAt (rwriteArrive p m s) (stackOf ea)).rmu = satInc (stkAt s (stackOf ea)).rmu) := by
  have hpos : m.data.length ≠ 0 := by
    simp only [RWriteMsg.wf, Bool.and_eq_true, decide_eq_true_eq] at hwf
    omega
  have htake : rwriteArrive p m s = useUnits 2 ea m.data.length (writeEdge ea m.data s) := by
    rw [rwriteArrive_own hmine, takeWrite_admitted hmine.2.2.1 hopen hpw hpa hoff hlen, hea]
  obtain ⟨⟨e, tr, ks, ht, hmem, hslot⟩, hstk⟩ := writeEdge_stored hea32 hlen hone hret
  obtain ⟨ks', hks'⟩ := useUnits_frame 2 ea m.data.length (writeEdge ea m.data s)
  rw [htake]
  refine ⟨⟨e, tr, ks', by rw [hks', ht], hmem⟩, fun ⟨hwork, hslots, hbursts⟩ hunit => ?_⟩
  obtain ⟨wb, hwb⟩ := hstk (stackOf ea)
  have hedge : (writeEdge ea m.data s).edge = e := by rw [ht]
  rw [useUnits_counted hunit (Or.inl rfl) hpos ⟨by rw [hwb]; exact hwork, by rw [hwb, hedge, hslot]; exact hslots, by rw [hwb]; exact hbursts⟩, hwb]

theorem rreadArrive_answers {p : Nat} {m : RReadMsg} {e : Nat} {s : Mach} (hmine : Mine s p m.dst)
    (hopen : Opens s (tget 0 s.rmt.win (m.window.toNat % 1024)) m.src m.round m.offset m.sepoch (8 * m.len8.toNat))
    (hpr : wnPr (tget 0 s.rmt.win (m.window.toNat % 1024)) = true) (hoff : m.offset.toNat % 8 = 0)
    (hclean : CleanEdge s (wnBase (tget 0 s.rmt.win (m.window.toNat % 1024)) + m.offset.toNat) (8 * m.len8.toNat))
    (hroute : routePort s m.src = some e)
    (hroom : flitsFor ((portAt s e).txq ++ [answerOf m 1 s (rdBytes s.edge.mem
      (wnBase (tget 0 s.rmt.win (m.window.toNat % 1024)) + m.offset.toNat) (8 * m.len8.toNat))]) ≤ 1024) :
    rreadArrive p m s = queued e (answerOf m 1 s (rdBytes s.edge.mem
        (wnBase (tget 0 s.rmt.win (m.window.toNat % 1024)) + m.offset.toNat) (8 * m.len8.toNat)))
      (useUnits 2 (wnBase (tget 0 s.rmt.win (m.window.toNat % 1024)) + m.offset.toNat) (8 * m.len8.toNat) s) := by
  rw [rreadArrive, arriveMsg_own hmine]
  exact takeRead_admitted hmine.2.2.1 hopen hpr hoff hclean hroute hroom

end Sys2Proof.Spec

namespace Sys2Proof.Spec

open Sys2Proof.Machine

/-- Settles O20: a block of one message is split into one, so its message leaves at once; an admitted write is a run of code words in
one stack, an admitted clean read answers with the bytes as they lie, and the answer of a read's only message makes its only row. -/
theorem remoteAccessReachesItsWindow : Obligations.RemoteAccessReachesItsWindow := by
  unfold Obligations.RemoteAccessReachesItsWindow
  intro pf s p
  refine ⟨?_, ?_, ?_, ?_, ?_, ?_, ?_⟩
  · intro ln ph f ra n rid msg hlink hkind hrefuse hnrun h1 hn hreads hreach
    have hsend : (if portLink s.m p ln.val ph.val then remoteRead p f s.m else s.m) = queued p msg (readIssued (readOf p f) n s.m) :=
      (if_pos hlink).trans (remoteRead_sends hkind hrefuse hnrun h1 hn hreads hreach)
    have hnow : (queued p msg (readIssued (readOf p f) n s.m)).now = s.m.now := rfl
    refine ⟨after (fun m => queued p msg (readIssued (readOf p f) n m)) s, run_eq_after hsend,
      readWith (readOf p f) (issuedFor n rid (roundNow s.m)), ?_, rfl, rfl, rfl, rfl, rfl, rfl, rfl, rfl, rfl, rfl⟩
    exact congrArg (fun x => x.rmt.reads) (after_m (f := fun m => queued p msg (readIssued (readOf p f) n m)) hnow)
  · intro ln ph f row ra msg hlink hret hkind hrefuse hnrun hlen hreach
    have hwf : Instr.wf (.remoteWriteRequest pf ln ph f [row]) = true := by
      simp only [Instr.wf, rowCount_eq, hnrun, hlen]
      rfl
    refine (if_pos hwf).trans (run_eq_after ?_)
    have hpath := notePath_noted (raTarget ra) p s.m
    refine (if_pos hlink).trans ((remoteWrite_one hkind hrefuse hnrun hlen hreach).trans ?_)
    rw [hpath]
    exact portRow_sends (s := queued p msg (noted (raTarget ra) p s.m)) hret
  · intro ln ph f row hlink hrows
    have hwf : Instr.wf (.remoteWriteRequest pf ln ph f [row]) = true := by
      simp only [Instr.wf, hrows]
      rfl
    have hoff : ¬ portLink s.m p ln.val ph.val = true := by rw [hlink]; exact Bool.false_ne_true
    exact ⟨run_unchanged (if_neg hoff), (if_pos hwf).trans (run_unchanged (if_neg hoff))⟩
  · intro m w ea hwf hmine hopen hpw hpa hoff hlen hea hret hone
    obtain ⟨⟨e, tr, ks, ht, hmem⟩, hcount⟩ := rwriteArrive_stores hwf hmine hopen hpw hpa hoff hlen (ea := ea) rfl hea hret hone
    have hnow : (rwriteArrive p m s.m).now = s.m.now := by rw [ht]
    obtain ⟨hrun, hpending, hm⟩ := runs_to hnow
    refine ⟨_, (if_pos hwf).trans hrun, hpending, ?_⟩
    rw [hm]
    refine ⟨?_, fun a ha => ?_, hcount, by rw [ht], by rw [ht], by rw [ht]⟩
    · rw [ht, hmem, rdBytes_wrBytes]
    · rw [ht, hmem, rd_wrBytes_outside _ _ _ _ ha]
  · intro m e w ea n ans hwf hmine hopen hpr hoff hclean hroute hroom
    exact (if_pos hwf).trans (run_eq_after (rreadArrive_answers hmine hopen hpr hoff hclean hroute hroom))
  · intro m r q hwf hmine hstatus hreads hmsgs hrun hpos hlen hrid hissued hopen hnrun h1 h64 hsent hfailed hl hph hport hdata
    refine (if_pos hwf).trans (run_eq_after ?_)
    have hanswer := answerRead_one hreads hmsgs hrun hpos hlen hissued hopen hnrun h1 h64 hsent hfailed hl hph hport (ok := fun _ => true) rfl
      m.status m.data
    rw [hrid, hstatus, bytes_of_range hdata] at hanswer
    exact (arriveMsg_own hmine).trans (by rw [hstatus]; exact hanswer)
  · intro rid r q i hreads hmsgs hrun hpos hlen hrid hissued hlate hopen hnrun h1 h64 hsent hfailed hl hph hport
    have hok : (match q.issued with | some r => decide (r.toNat + 2 ≤ (roundNow s.m).toNat) | none => false) = true := by
      rw [hissued]
      exact decide_eq_true hlate
    have hanswer := answerRead_one hreads hmsgs hrun hpos hlen (by rw [hissued]; rfl) hopen hnrun h1 h64 hsent hfailed hl hph hport
      (ok := fun m => match m.issued with | some r => decide (r.toNat + 2 ≤ (roundNow s.m).toNat) | none => false) hok 8 []
    rw [hrid] at hanswer
    exact run_eq_after hanswer

end Sys2Proof.Spec
end

section
/-! PROOFS. What remote access leaves alone while it reports, stops streams, ends fences and sends messages
(R335, R349 to R351, R357, R370, R371). -/

namespace Sys2Proof.Spec

open Sys2Proof.Machine

/-- Only cores, dies, ports, the keep block, the remote-access block, the ledger, the notes of the cycle, the host block and what
leaves the module differ. -/
def Moved (s t : Mach) : Prop :=
  ∃ n h o cs ds k r ps l, t = { s with notes := n, host := h, out := o, cores := cs, dies := ds, keep := k, rmt := r, ports := ps, led := l }

/-- The first late nack that was latched (R351, R362). -/
def SameNack (r r' : Remote) : Prop :=
  r'.nackValid = true ∧ r'.nackCause = r.nackCause ∧ r'.nackSrc = r.nackSrc ∧ r'.nackTag = r.nackTag ∧ r'.nackRound = r.nackRound

/-- The module handles remote access: events and faults stay, a latched nack stays, and a queue grows only by messages that `G` names
for its port. -/
structure RemoteWork (G : Nat → Msg → Prop) (s t : Mach) : Prop where
  moved : Moved s t
  faulted : s.keep.faulted = true → t.keep.faulted = true
  nack : s.rmt.nackValid = true → SameNack s.rmt t.rmt
  evt : ∀ b, bit s.rmt.evt b = true → bit t.rmt.evt b = true
  txq : ∀ q m, m ∈ (portAt t q).txq → m ∈ (portAt s q).txq ∨ G q m

namespace RemoteWork

variable {G : Nat → Msg → Prop} {s t u : Mach}

theorem refl (s : Mach) : RemoteWork G s s where
  moved := ⟨s.notes, s.host, s.out, s.cores, s.dies, s.keep, s.rmt, s.ports, s.led, rfl⟩
  faulted := id
  nack h := ⟨h, rfl, rfl, rfl, rfl⟩
  evt _ := id
  txq _ _ := Or.inl

theorem trans (h : RemoteWork G s t) (h' : RemoteWork G t u) : RemoteWork G s u where
  moved := by
    obtain ⟨_, _, _, _, _, _, _, _, _, rfl⟩ := h.moved
    obtain ⟨_, _, _, _, _, _, _, _, _, rfl⟩ := h'.moved
    exact ⟨_, _, _, _, _, _, _, _, _, rfl⟩
  faulted hs := h'.faulted (h.faulted hs)
  nack hs := by
    obtain ⟨hv, hc, hsrc, htag, hr⟩ := h.nack hs
    obtain ⟨hv', hc', hsrc', htag', hr'⟩ := h'.nack hv
    exact ⟨hv', hc'.trans hc, hsrc'.trans hsrc, htag'.trans htag, hr'.trans hr⟩
  evt b hs := h'.evt b (h.evt b hs)
  txq q m hm := (h'.txq q m hm).elim (h.txq q m) Or.inr

theorem now (h : RemoteWork G s t) : t.now = s.now := by
  obtain ⟨_, _, _, _, _, _, _, _, _, rfl⟩ := h.moved
  rfl

theorem foldl {α : Type} {f : Mach → α → Mach} (hf : ∀ s a, RemoteWork G s (f s a)) (l : List α) : ∀ s, RemoteWork G s (l.foldl f s) := by
  induction l with
  | nil => exact refl
  | cons a l ih => exact fun s => (hf s a).trans (ih (f s a))

theorem mono {H : Nat → Msg → Prop} (hGH : ∀ q m, G q m → H q m) (h : RemoteWork G s t) : RemoteWork H s t :=
  ⟨h.moved, h.faulted, h.nack, h.evt, fun q m hm => (h.txq q m hm).imp_right (hGH q m)⟩

end RemoteWork

section
variable {G : Nat → Msg → Prop}

theorem Reports.remoteWork {s t : Mach} (h : Reports s t) : RemoteWork G s t := by
  obtain ⟨n, h, o, cs, ds, rfl⟩ := h
  exact ⟨⟨n, h, o, cs, ds, s.keep, s.rmt, s.ports, s.led, rfl⟩, id, fun h => ⟨h, rfl, rfl, rfl, rfl⟩, fun _ => id, fun _ _ => Or.inl⟩

theorem Signals.remoteWork {s t : Mach} (h : Signals s t) : RemoteWork G s t := (Signals.reports h).remoteWork

theorem modCore_remoteWork (k : Nat) (f : Core → Core) (s : Mach) : RemoteWork G s (modCore k f s) :=
  Reports.remoteWork ⟨s.notes, s.host, s.out, _, s.dies, rfl⟩

theorem modLed_remoteWork (f : Ledger → Ledger) (s : Mach) : RemoteWork G s (modLed f s) :=
  ⟨⟨s.notes, s.host, s.out, s.cores, s.dies, s.keep, s.rmt, s.ports, _, rfl⟩, id, fun h => ⟨h, rfl, rfl, rfl, rfl⟩, fun _ => id,
    fun _ _ => Or.inl⟩

/-- A change of the remote-access block that keeps the latched nack and the events. -/
theorem modRmt_remoteWork {f : Remote → Remote} {s : Mach} (hnack : s.rmt.nackValid = true → SameNack s.rmt (f s.rmt))
    (hevt : ∀ b, bit s.rmt.evt b = true → bit (f s.rmt).evt b = true) : RemoteWork G s (modRmt f s) :=
  ⟨⟨s.notes, s.host, s.out, s.cores, s.dies, s.keep, f s.rmt, s.ports, s.led, rfl⟩, id, hnack, hevt, fun _ _ => Or.inl⟩

theorem bit_setBit_mono {w : Nat} {x : BitVec w} {i j : Nat} (h : bit x j = true) : bit (setBit x i) j = true := by
  by_cases hij : j = i
  · subst hij
    simp only [bit] at h
    exact bit_setBit_same x (BitVec.lt_of_getLsbD h)
  · rw [bit_setBit_other x hij, h]

theorem rmtEvt_remoteWork (b : Nat) (s : Mach) : RemoteWork G s (rmtEvt b s) :=
  (modRmt_remoteWork (fun h => ⟨h, rfl, rfl, rfl, rfl⟩) (fun _ h => bit_setBit_mono h)).trans (rmtEvt_signals b s).remoteWork

theorem rmtEvt_raised {b : Nat} (hb : b < 9) (s : Mach) : bit (rmtEvt b s).rmt.evt b = true := by
  obtain ⟨_, _, _, h⟩ := rmtEvt_signals b s
  rw [h]
  exact bit_setBit_same _ hb

theorem uncorrected_remoteWork (cls : Nat) (s : Mach) : RemoteWork G s (uncorrected cls s) where
  moved := by
    obtain ⟨n, h, o, e⟩ := uncorrected_signals cls s
    exact ⟨n, h, o, s.cores, s.dies, _, s.rmt, s.ports, s.led, e⟩
  faulted _ := (uncorrected_keep cls s).2.1
  nack hv := by
    obtain ⟨n, h, o, e⟩ := uncorrected_signals cls s
    rw [e]
    exact ⟨hv, rfl, rfl, rfl, rfl⟩
  evt _ hb := by
    obtain ⟨n, h, o, e⟩ := uncorrected_signals cls s
    rw [e]
    exact hb
  txq _ _ hm := by
    obtain ⟨n, h, o, e⟩ := uncorrected_signals cls s
    rw [e] at hm
    exact Or.inl hm

theorem logModule_remoteWork (cls flags : Nat) (detail : List Byte) (s : Mach) : RemoteWork G s (logModule cls flags detail s) := modLed_remoteWork _ s

theorem remoteRecord_remoteWork (flags : Nat) (s : Mach) : RemoteWork G s (remoteRecord flags s) := logModule_remoteWork _ _ _ s

theorem complete_remoteWork (o : Owed) (st det : Nat) (s : Mach) : RemoteWork G s (complete o st det s) := (complete_signals o st det s).remoteWork

theorem modPort_remoteWork {p : Nat} {f : Port → Port} {s : Mach}
    (h : ∀ m, m ∈ (f (portAt s p)).txq → m ∈ (portAt s p).txq ∨ G p m) : RemoteWork G s (modPort p f s) where
  moved := ⟨s.notes, s.host, s.out, s.cores, s.dies, s.keep, s.rmt, _, s.led, rfl⟩
  faulted := id
  nack hv := ⟨hv, rfl, rfl, rfl, rfl⟩
  evt _ := id
  txq q m hm := by
    by_cases hq : q = p
    · subst hq
      rw [portAt_modPort] at hm
      exact h m hm
    · rw [portAt_modPort_other f s hq] at hm
      exact Or.inl hm

theorem portEvt_remoteWork (p b : Nat) (s : Mach) : RemoteWork G s (portEvt p b s) :=
  (modPort_remoteWork (fun _ => Or.inl)).trans (portEvt_signals p b s).remoteWork

theorem sendSeq_remoteWork {p : Nat} {m : Msg} (h : G p m) (s : Mach) : RemoteWork G s (sendSeq p m s) := by
  unfold sendSeq
  split
  · exact ((modPort_remoteWork (fun _ => Or.inl)).trans (portEvt_remoteWork p 0 _)).trans (uncorrected_remoteWork 0x40 _)
  · refine modPort_remoteWork (fun m' hm => ?_)
    rw [List.mem_append, List.mem_singleton] at hm
    obtain hm | rfl := hm
    · exact Or.inl hm
    · exact Or.inr h

/-! ### Faults of cores (R132, R234) -/

theorem recordFault_reports (k : Nat) (u : Bool) (cause addr epc : Nat) (s : Mach) : Reports s (recordFault k u cause addr epc s) :=
  Reports.trans (t := modCore k _ s) ⟨s.notes, s.host, s.out, _, s.dies, rfl⟩
    (Signals.reports ((noteRaise_signals _ _ _).trans (raiseIrq_signals 10 _)))

theorem ite_remoteWork {c : Prop} [Decidable c] {s t u : Mach} (ht : RemoteWork G s t) (hu : RemoteWork G s u) :
    RemoteWork G s (if c then t else u) := by
  split
  · exact ht
  · exact hu

theorem classU_remoteWork (k cause addr epc : Nat) (eng : Option Nat) (s : Mach) : RemoteWork G s (classU k cause addr epc eng s) := by
  have hreport : RemoteWork G s (reportU k cause addr epc s) :=
    (((modCore_remoteWork k _ s).trans (recordFault_reports k true cause addr epc _).remoteWork).trans
      (logDie_reports _ _ _ _ _ _ _ _).remoteWork).trans (uncorrected_remoteWork 0x20 _)
  unfold classU
  dsimp only
  exact (hreport.trans (modCore_remoteWork k _ _)).trans
    (ite_remoteWork (modCore_remoteWork k _ _) ((modCore_remoteWork k _ _).trans (modCore_remoteWork k _ _)))

theorem seStop_remoteWork (k e b status : Nat) (s : Mach) : RemoteWork G s (seStop k e b status s) := by
  unfold seStop
  split
  · exact RemoteWork.refl s
  · refine RemoteWork.trans ?_ (classU_remoteWork _ _ _ _ _ _)
    unfold seRecord
    split
    · exact RemoteWork.refl s
    · dsimp only
      split
      · exact RemoteWork.refl s
      · exact modCore_remoteWork k _ s

theorem stopTagged_remoteWork (tag : Word) (s : Mach) : RemoteWork G s (stopTagged tag s) := by
  refine RemoteWork.foldl (fun s k => RemoteWork.foldl (fun s e => ?_) _ s) _ s
  split
  · exact seStop_remoteWork _ _ _ _ s
  · exact RemoteWork.refl s

/-! ### Fences and late nacks (R351, R356, R357) -/

/-- A fence has ended: 1 no error, 2 error, 3 timeout. -/
def fenceEnded (f : Fence) (last : Nat) (r : Remote) : Remote :=
  { r with sysfLast := BitVec.ofNat 2 last, sysfRound := f.round.setWidth 16, sysfProbed := f.probed,
           fences := r.fences.filter (fun g => g != f), nacked := r.nacked.filter (fun n => !upTo n f.round) }

theorem endFence_remoteWork (f : Fence) (last : Nat) (s : Mach) : RemoteWork G s (endFence f last s) := by
  unfold endFence
  dsimp only
  refine RemoteWork.trans ?_ (RemoteWork.foldl (fun s o => complete_remoteWork _ _ _ s) _ _)
  have hended : RemoteWork G s (modRmt (fenceEnded f last) s) := modRmt_remoteWork (fun h => ⟨h, rfl, rfl, rfl, rfl⟩) (fun _ => id)
  refine hended.trans ?_
  split
  · exact RemoteWork.refl _
  · exact ((rmtEvt_remoteWork 7 _).trans (remoteRecord_remoteWork 1 _)).trans (uncorrected_remoteWork 0x41 _)

theorem tryFence_remoteWork (f : Fence) (s : Mach) : RemoteWork G s (tryFence f s) := by
  unfold tryFence
  split
  · exact endFence_remoteWork f 1 s
  · split
    · exact endFence_remoteWork f 2 s
    · split
      · exact endFence_remoteWork f 1 s
      · exact RemoteWork.refl s

/-- A nack is latched where none is yet. -/
def latchNack (m : BitVec 256) (r : Remote) : Remote :=
  let r1 : Remote := { r with nacked := r.nacked ++ [fld m 160 16] }
  if r.nackValid then { r1 with nackMulti := true }
  else { r1 with nackValid := true, nackCause := fld m 8 8, nackSrc := lnackSrc m, nackTag := fld m 128 32, nackRound := fld m 160 16 }

/-- What a late nack leads to after it is latched: the event and the fault, the streams that stop, and the fences that end. -/
theorem takeLnack_after (m : BitVec 256) (s : Mach) :
    RemoteWork G (uncorrected 0x41 (remoteRecord 1 (rmtEvt 6 (noteRaise 0x10C064 (if s.rmt.nackValid then 30 else 31) (modRmt (latchNack m) s)))))
      (takeLnack m s) :=
  (stopTagged_remoteWork _ _).trans (RemoteWork.foldl (fun s f => tryFence_remoteWork f s) _ _)

theorem latchNack_remoteWork (m : BitVec 256) (s : Mach) : RemoteWork G s (modRmt (latchNack m) s) := by
  refine modRmt_remoteWork (fun h => ?_) (fun b h => ?_)
  · simp only [latchNack, h, if_true]
    exact ⟨rfl, rfl, rfl, rfl, rfl⟩
  · unfold latchNack
    dsimp only
    split <;> exact h

theorem takeLnack_remoteWork (m : BitVec 256) (s : Mach) : RemoteWork G s (takeLnack m s) :=
  ((((latchNack_remoteWork m s).trans (noteRaise_signals _ _ _).remoteWork).trans (rmtEvt_remoteWork 6 _)).trans
    ((remoteRecord_remoteWork 1 _).trans (uncorrected_remoteWork 0x41 _))).trans (takeLnack_after m s)

end

/-! ### Fences that end (R357) -/

/-- A fence that ends without an error leaves no event. -/
theorem endFence_clean {f : Fence} (howed : f.owed = []) (s : Mach) : endFence f 1 s = modRmt (fenceEnded f 1) s := by
  unfold endFence
  rw [howed]
  rfl

/-- A fence has ended with an error or a timeout: its event, and the uncorrected fault. -/
def fenceFailed (f : Fence) (last : Nat) (s : Mach) : Mach :=
  uncorrected 0x41 (remoteRecord 1 (rmtEvt 7 (modRmt (fenceEnded f last) s)))

theorem fenceFailed_rmt (f : Fence) (last : Nat) (s : Mach) :
    (fenceFailed f last s).rmt = { fenceEnded f last s.rmt with evt := setBit s.rmt.evt 7 } := by
  obtain ⟨_, _, _, hunc⟩ := uncorrected_signals 0x41 (remoteRecord 1 (rmtEvt 7 (modRmt (fenceEnded f last) s)))
  obtain ⟨_, _, _, hevt⟩ := rmtEvt_signals 7 (modRmt (fenceEnded f last) s)
  rw [fenceFailed, hunc]
  show (rmtEvt 7 (modRmt (fenceEnded f last) s)).rmt = _
  rw [hevt]
  rfl

theorem endFence_signals {f : Fence} {last : Nat} (h : last ≠ 1) (s : Mach) : Signals (fenceFailed f last s) (endFence f last s) := by
  unfold endFence
  dsimp only
  rw [if_neg h]
  exact foldl_signals (fun s o => complete_signals o _ _ s) f.owed (fenceFailed f last s)

theorem endFence_failed {f : Fence} {last : Nat} (h : last ≠ 1) (s : Mach) :
    (endFence f last s).rmt = { fenceEnded f last s.rmt with evt := setBit s.rmt.evt 7 } ∧ (endFence f last s).keep.faulted = true := by
  obtain ⟨_, _, _, hend⟩ := endFence_signals (f := f) h s
  rw [hend]
  exact ⟨fenceFailed_rmt f last s, (uncorrected_keep 0x41 _).2.1⟩

/-! ### Late writes (R349) -/

/-- A message that is no RWRITE. -/
def NoWrite (_ : Nat) (m : Msg) : Prop := ∀ w, m ≠ .rwrite w

/-- POST_LATE has risen, an uncorrected fault. -/
def Late (s : Mach) : Prop := bit s.rmt.evt 4 = true ∧ s.keep.faulted = true

section
variable {G : Nat → Msg → Prop}

theorem Late.kept {s t : Mach} (h : Late s) (hw : RemoteWork G s t) : Late t := ⟨hw.evt 4 h.1, hw.faulted h.2⟩

theorem postLate_remoteWork (s : Mach) : RemoteWork G s (postLate s) := (rmtEvt_remoteWork 4 s).trans (uncorrected_remoteWork 0x41 _)

theorem postLate_late (s : Mach) : Late (postLate s) :=
  ⟨(uncorrected_remoteWork (G := NoWrite) 0x41 (rmtEvt 4 s)).evt 4 (rmtEvt_raised (by decide) s), (uncorrected_keep 0x41 _).2.1⟩

theorem forwardMsg_remoteWork {m : Msg} {s : Mach} (h : ∀ p, routePort s (msgDst m) = some p → G p (msgHop m)) :
    RemoteWork G s (forwardMsg m s).2 := by
  unfold forwardMsg
  split
  · exact RemoteWork.refl s
  · split
    · next p hp => exact sendSeq_remoteWork (h p hp) s
    · exact RemoteWork.refl s

theorem dropLate_after (m : RWriteMsg) (s : Mach) : RemoteWork NoWrite (postLate s) (dropLate m s) := by
  unfold dropLate
  dsimp only
  refine ite_remoteWork (takeLnack_remoteWork _ _) (forwardMsg_remoteWork (fun p _ w => ?_))
  simp [mkLnack, msgHop]

theorem foldl_late {α : Type} {f : Mach → α → Mach} (hf : ∀ s a, RemoteWork G s (f s a)) (hlate : ∀ s a, Late (f s a)) {l : List α}
    (hne : l ≠ []) (s : Mach) : Late (l.foldl f s) := by
  cases l with
  | nil => exact absurd rfl hne
  | cons a l => exact (hlate s a).kept (RemoteWork.foldl hf l (f s a))

end

/-- The late write, if any, that a message of a port carries. -/
def lateIn (s : Mach) (m : Msg) : Option RWriteMsg :=
  match m with | .rwrite w => if isLate s w.round && !bit w.window 15 then some w else none | _ => none

theorem lateWriteScan_eq (p : Nat) (s : Mach) : lateWriteScan p s =
    ((portAt s p).buf.flatMap (fun f => f.msgs.filterMap (lateIn s))).foldl (fun s _ => postLate s)
      (((portAt s p).txq.filterMap (lateIn s)).foldl (fun s m => dropLate m s)
        (modPort p (fun y => { y with txq := y.txq.filter (fun m => (lateIn s m).isNone) }) s)) := rfl

theorem lateIn_late {s : Mach} {w : RWriteMsg} (hlate : isLate s w.round = true) (h15 : bit w.window 15 = false) :
    lateIn s (.rwrite w) = some w := by
  simp [lateIn, hlate, h15]

theorem lateWriteScan_after (p : Nat) (s : Mach) :
    RemoteWork NoWrite (modPort p (fun y => { y with txq := y.txq.filter (fun m => (lateIn s m).isNone) }) s) (lateWriteScan p s) := by
  rw [lateWriteScan_eq]
  exact (RemoteWork.foldl (fun s m => (postLate_remoteWork s).trans (dropLate_after m s)) _ _).trans
    (RemoteWork.foldl (fun s _ => postLate_remoteWork s) _ _)

theorem lateWriteScan_late {p : Nat} {s : Mach} {w : RWriteMsg}
    (h : .rwrite w ∈ (portAt s p).txq ∨ ∃ f ∈ (portAt s p).buf, .rwrite w ∈ f.msgs) (hlate : isLate s w.round = true)
    (h15 : bit w.window 15 = false) : Late (lateWriteScan p s) := by
  have hdrop : ∀ (s : Mach) (m : RWriteMsg), RemoteWork NoWrite s (dropLate m s) := fun s m =>
    (postLate_remoteWork s).trans (dropLate_after m s)
  rw [lateWriteScan_eq]
  obtain h | ⟨f, hf, hw⟩ := h
  · have hne : (portAt s p).txq.filterMap (lateIn s) ≠ [] := List.ne_nil_of_mem (List.mem_filterMap.2 ⟨_, h, lateIn_late hlate h15⟩)
    exact (foldl_late hdrop (fun s m => (postLate_late s).kept (dropLate_after m s)) hne _).kept
      (RemoteWork.foldl (G := NoWrite) (fun s _ => postLate_remoteWork s) _ _)
  · have hne : (portAt s p).buf.flatMap (fun f => f.msgs.filterMap (lateIn s)) ≠ [] :=
      List.ne_nil_of_mem (List.mem_flatMap.2 ⟨f, hf, List.mem_filterMap.2 ⟨_, hw, lateIn_late hlate h15⟩⟩)
    exact foldl_late (G := NoWrite) (fun s _ => postLate_remoteWork s) (fun s _ => postLate_late s) hne _

/-- No late write is left in the port's queue. -/
theorem lateWriteScan_clears {p : Nat} {s : Mach} {v : RWriteMsg} (h : .rwrite v ∈ (portAt (lateWriteScan p s) p).txq)
    (hlate : isLate s v.round = true) : bit v.window 15 = true := by
  have hin := ((lateWriteScan_after p s).txq p _ h).resolve_right (fun hno => hno v rfl)
  rw [portAt_modPort, List.mem_filter] at hin
  obtain ⟨_, hnone⟩ := hin
  cases h15 : bit v.window 15 with
  | true => rfl
  | false => rw [lateIn_late hlate h15] at hnone; exact absurd hnone (by simp)

/-! ### The twin mode (R370, R371) -/

/-- A port that is no twin port. -/
def NotTwin (q : Nat) (_ : Msg) : Prop := twinPort q = false

section
variable {s : Mach} (hheld : twinHeld s = true)
include hheld

theorem egress_notTwin {e : Ptn} {p : Nat} (h : egress s e = some p) : twinPort p = false := by
  unfold egress at h
  dsimp only at h
  rw [hheld, Bool.true_and] at h
  split at h
  · split at h
    · have hp := List.find?_some h
      simp only [Bool.and_eq_true, Bool.not_eq_true'] at hp
      exact hp.1.1
    · exact absurd h (by simp)
  · next htwin =>
    split at h
    · rw [← Option.some.inj h]
      simpa using htwin
    · exact absurd h (by simp)

theorem routePort_notTwin {id : BitVec 16} {p : Nat} (h : routePort s id = some p) : twinPort p = false := by
  obtain ⟨e, _, he⟩ := Option.bind_eq_some_iff.1 h
  exact egress_notTwin hheld he

theorem rerouteMsg_remoteWork (m : Msg) : RemoteWork NotTwin s (rerouteMsg m s) := by
  unfold rerouteMsg
  split
  · next p hp => exact sendSeq_remoteWork (routePort_notTwin hheld hp) s
  · have hnoRoute : RemoteWork NotTwin s (noRoute s) :=
      ((rmtEvt_remoteWork 3 s).trans (remoteRecord_remoteWork 1 _)).trans (uncorrected_remoteWork 0x41 _)
    have hheld' : twinHeld (noRoute s) = true := by
      obtain ⟨_, _, _, _, _, _, _, _, _, h⟩ := hnoRoute.moved
      rw [h]
      exact hheld
    unfold discardMsg
    dsimp only
    split
    · exact hnoRoute.trans (forwardMsg_remoteWork (fun p hp => routePort_notTwin hheld' hp))
    · exact hnoRoute

end

theorem RemoteWork.sys {G : Nat → Msg → Prop} {s t : Mach} (h : RemoteWork G s t) : t.sys = s.sys := by
  obtain ⟨_, _, _, _, _, _, _, _, _, h⟩ := h.moved
  rw [h]

theorem RemoteWork.held {G : Nat → Msg → Prop} {s t : Mach} (h : RemoteWork G s t) (hs : twinHeld s = true) : twinHeld t = true := by
  rw [← hs, twinHeld, twinHeld, h.sys]

theorem foldl_reroute (l : List Msg) : ∀ s : Mach, twinHeld s = true → RemoteWork NotTwin s (l.foldl (fun s m => rerouteMsg m s) s) := by
  induction l with
  | nil => exact fun s _ => RemoteWork.refl s
  | cons m l ih =>
    intro s hs
    have hfirst := rerouteMsg_remoteWork hs m
    exact hfirst.trans (ih _ (hfirst.held hs))

/-- A twin port keeps what it carries. -/
def clearTwinPort (s : Mach) (p : Nat) : Mach :=
  (((portAt s p).txq.filter (fun m => !twinCarries s m)).filter plainAccess).foldl (fun s m => rerouteMsg m s)
    (modPort p (fun x => { x with txq := x.txq.filter (twinCarries s), urgent := [] }) s)

theorem clearTwinPorts_held {s : Mach} (h : twinHeld s = true) : clearTwinPorts s = [30, 31, 62, 63].foldl clearTwinPort s := by
  unfold clearTwinPorts
  rw [h]
  rfl

theorem twinCarries_congr {s t : Mach} (h : t.sys = s.sys) : twinCarries t = twinCarries s := by
  funext m
  unfold twinCarries
  rw [h]

theorem clearTwinPort_remoteWork {s : Mach} (h : twinHeld s = true) (p : Nat) : RemoteWork NotTwin s (clearTwinPort s p) :=
  (modPort_remoteWork (fun _ hm => Or.inl (List.mem_filter.1 hm).1)).trans (foldl_reroute _ _ h)

theorem clearTwinPort_carries {s : Mach} (h : twinHeld s = true) {p : Nat} (hp : twinPort p = true) {m : Msg}
    (hm : m ∈ (portAt (clearTwinPort s p) p).txq) : twinCarries s m = true := by
  have hin := ((foldl_reroute _ (modPort p (fun x => { x with txq := x.txq.filter (twinCarries s), urgent := [] }) s) h).txq p m hm).resolve_right
    (fun hno => by rw [NotTwin, hp] at hno; exact absurd hno (by simp))
  rw [portAt_modPort] at hin
  exact (List.mem_filter.1 hin).2

theorem foldl_clearTwinPort (l : List Nat) : (∀ p ∈ l, twinPort p = true) → ∀ s : Mach, twinHeld s = true →
    RemoteWork NotTwin s (l.foldl clearTwinPort s) ∧ ∀ p ∈ l, ∀ m ∈ (portAt (l.foldl clearTwinPort s) p).txq, twinCarries s m = true := by
  induction l with
  | nil => exact fun _ s _ => ⟨RemoteWork.refl s, fun p hp => absurd hp List.not_mem_nil⟩
  | cons p l ih =>
    intro hl s hs
    have hfirst := clearTwinPort_remoteWork hs p
    obtain ⟨hrest, hcarry⟩ := ih (fun q hq => hl q (List.mem_cons_of_mem p hq)) (clearTwinPort s p) (hfirst.held hs)
    refine ⟨hfirst.trans hrest, fun q hq m hm => ?_⟩
    obtain rfl | hq := List.mem_cons.1 hq
    · have hp := hl q (List.mem_cons_self)
      exact clearTwinPort_carries hs hp ((hrest.txq q m hm).resolve_right (fun hno => by rw [NotTwin, hp] at hno; exact absurd hno (by simp)))
    · rw [← twinCarries_congr hfirst.sys]
      exact hcarry q hq m hm

theorem plainAccess_of_twinCarries {s : Mach} (h : twinHeld s = true) {m : Msg} (hm : twinCarries s m = true) : plainAccess m = false := by
  have hmode : s.sys.twinMode.toNat = 1 ∨ s.sys.twinMode.toNat = 2 := by
    simp only [twinHeld, Bool.or_eq_true, beq_iff_eq] at h
    obtain h | h := h <;> rw [h]
    · exact Or.inl rfl
    · exact Or.inr rfl
  unfold twinCarries at hm
  obtain h1 | h2 := hmode
  · rw [h1] at hm
    cases m <;> simp_all [plainAccess]
  · rw [h2] at hm
    cases m <;> simp_all [plainAccess]

/-! ### Probes and acknowledgements (R356, R357) -/

theorem toNat_ofNat6 {p : Nat} (h : p < 64) : (BitVec.ofNat 6 p).toNat = p := by
  rw [BitVec.toNat_ofNat]
  omega

theorem takeProbe_counted {p : Nat} (hp : p < 64) {m : BitVec 128} {n : BitVec 16} {s : Mach}
    (h : s.rmt.rejects = [(fld m 16 16, BitVec.ofNat 6 p, n)]) :
    takeProbe p m s = modRmt (fun r => { r with
      probes := r.probes ++ [(fld m 16 16, BitVec.ofNat 6 p, fld m 64 32, n)], rejects := [] }) s := by
  refine modRmt_congr ?_
  simp only [h, toNat_ofNat6 hp, List.find?, List.filter, beq_self_eq_true, Bool.and_self, Bool.not_true, Option.map_some, Option.getD_some]

theorem takeProbe_none {p : Nat} {m : BitVec 128} {s : Mach} (h : ∀ x ∈ s.rmt.rejects, x.1 ≠ fld m 16 16) :
    takeProbe p m s = modRmt (fun r => { r with probes := r.probes ++ [(fld m 16 16, BitVec.ofNat 6 p, fld m 64 32, 0)] }) s := by
  have hnone : s.rmt.rejects.find? (fun x => x.1 == fld m 16 16 && x.2.1.toNat == p) = none :=
    List.find?_eq_none.2 (fun x hx => by simp [h x hx])
  have hall : s.rmt.rejects.filter (fun x => !(x.1 == fld m 16 16 && x.2.1.toNat == p)) = s.rmt.rejects :=
    List.filter_eq_self.2 (fun x hx => by simp [h x hx])
  refine modRmt_congr ?_
  simp only [hnone, hall, Option.map_none, Option.getD_none]

theorem fackSend_only {p : Nat} (hp : p < 64) {src n : BitVec 16} {rnd : Word} {s : Mach}
    (h : s.rmt.probes = [(src, BitVec.ofNat 6 p, rnd, n)]) : fackSend p src s =
      sendFrom p (.fack (BitVec.ofNat 128 (ofBytes (toBytes 1 0x45 ++ [if n = 0 then 0 else 1] ++ bytesOf s.ctl.id ++ bytesOf src ++
        toBytes 2 0 ++ bytesOf rnd ++ bytesOf n ++ toBytes 2 0)))) (modRmt (fun r => { r with probes := [] }) s) := by
  have hfind : s.rmt.probes.find? (fun e => e.1 == src && e.2.1.toNat == p) = some (src, BitVec.ofNat 6 p, rnd, n) := by
    rw [h]
    simp [toNat_ofNat6 hp]
  have herase : modRmt (fun r => { r with probes := r.probes.erase (src, BitVec.ofNat 6 p, rnd, n) }) s =
      modRmt (fun r => { r with probes := [] }) s := by
    refine modRmt_congr ?_
    rw [h, List.erase_cons_head]
  have hrej : toBytes 1 (if n.toNat = 0 then 0 else 1) = [if n = 0 then 0 else 1] := by
    by_cases hn : n = 0
    · subst hn
      rfl
    · have hn0 : n.toNat ≠ 0 := fun h0 => hn (BitVec.eq_of_toNat_eq h0)
      rw [if_neg hn0, if_neg hn]
      rfl
  unfold fackSend
  rw [hfind]
  dsimp only
  rw [herase, hrej]
  rfl

/-- A fence once the FACK of a path has come. -/
def acked (f : Fence) (key : BitVec 16 × BitVec 6) (rej : BitVec 8) : Fence :=
  { f with awaited := f.awaited.erase key, failed := f.failed || rej != 0 }

theorem takeFack_named {p : Nat} {m : BitVec 128} {f : Fence} {s : Mach} (hf : s.rmt.fences = [f])
    (hmem : (fld m 16 16, BitVec.ofNat 6 p) ∈ f.awaited) (hround : f.round.setWidth 32 = fld m 64 32) :
    takeFack p m s = tryFence (acked f (fld m 16 16, BitVec.ofNat 6 p) (fld m 8 8))
      (modRmt (fun r => { r with fences := [acked f (fld m 16 16, BitVec.ofNat 6 p) (fld m 8 8)] }) s) := by
  have hany : f.awaited.any (fun a => a.1 == fld m 16 16) = true := List.any_eq_true.2 ⟨_, hmem, beq_self_eq_true _⟩
  have hfind : s.rmt.fences.find? (fun f => f.round.setWidth 32 == fld m 64 32 && f.awaited.any (fun a => a.1 == fld m 16 16)) = some f := by
    rw [hf]
    simp [hround, hany]
  have hcontains : f.awaited.contains (fld m 16 16, BitVec.ofNat 6 p) = true := List.contains_iff_mem.2 hmem
  unfold takeFack
  dsimp only
  rw [hfind]
  dsimp only
  rw [hcontains, if_pos rfl]
  refine congrArg _ (modRmt_congr ?_)
  rw [hf, List.map_cons, List.map_nil, beq_self_eq_true, if_pos rfl]
  rfl

theorem fenceEnded_only (f : Fence) (last : Nat) {r : Remote} (h : r.fences = [f]) : (fenceEnded f last r).fences = [] := by
  simp [fenceEnded, h]

theorem takeFack_last {p : Nat} {m : BitVec 128} {f : Fence} {s : Mach} (hf : s.rmt.fences = [f])
    (hawaited : f.awaited = [(fld m 16 16, BitVec.ofNat 6 p)]) (hround : f.round.setWidth 32 = fld m 64 32) (hfailed : f.failed = false)
    (howed : f.owed = []) (hrej : fld m 8 8 = (0 : BitVec 8)) (hnacked : ∀ n ∈ s.rmt.nacked, upTo n f.round = false) :
    takeFack p m s = modRmt (fun r => { r with fences := [], sysfLast := 1, sysfRound := f.round.setWidth 16, sysfProbed := f.probed }) s := by
  rw [takeFack_named hf (by rw [hawaited]; exact List.mem_singleton.2 rfl) hround]
  have hany : s.rmt.nacked.any (fun n => upTo n f.round) = false := List.any_eq_false.2 (fun n hn => by simp [hnacked n hn])
  have hfilter : s.rmt.nacked.filter (fun n => !upTo n f.round) = s.rmt.nacked := List.filter_eq_self.2 (fun n hn => by simp [hnacked n hn])
  have hend : ∀ t, tryFence (acked f (fld m 16 16, BitVec.ofNat 6 p) (fld m 8 8)) t =
      if f.probed = 0 then endFence (acked f (fld m 16 16, BitVec.ofNat 6 p) (fld m 8 8)) 1 t
      else if t.rmt.nacked.any (fun n => upTo n f.round) then endFence (acked f (fld m 16 16, BitVec.ofNat 6 p) (fld m 8 8)) 2 t
      else endFence (acked f (fld m 16 16, BitVec.ofNat 6 p) (fld m 8 8)) 1 t := by
    intro t
    simp [tryFence, acked, hfailed, hrej, hawaited]
  rw [hend, modRmt_own]
  dsimp only
  rw [hany, if_neg Bool.false_ne_true, ite_self, endFence_clean (f := acked f (fld m 16 16, BitVec.ofNat 6 p) (fld m 8 8)) howed, modRmt_modRmt]
  refine modRmt_congr ?_
  simp [fenceEnded, acked, hfilter]

theorem takeFack_error {p : Nat} {m : BitVec 128} {f : Fence} {s : Mach} (hf : s.rmt.fences = [f])
    (hprobed : f.probed ≠ 0) (hmem : (fld m 16 16, BitVec.ofNat 6 p) ∈ f.awaited) (hround : f.round.setWidth 32 = fld m 64 32)
    (hrej : fld m 8 8 ≠ (0 : BitVec 8)) : takeFack p m s = endFence (acked f (fld m 16 16, BitVec.ofNat 6 p) (fld m 8 8)) 2
      (modRmt (fun r => { r with fences := [acked f (fld m 16 16, BitVec.ofNat 6 p) (fld m 8 8)] }) s) := by
  rw [takeFack_named hf hmem hround]
  have hfailed : (acked f (fld m 16 16, BitVec.ofNat 6 p) (fld m 8 8)).failed = true := by
    simp only [acked, Bool.or_eq_true, bne_iff_ne]
    exact Or.inr hrej
  have hopen : (acked f (fld m 16 16, BitVec.ofNat 6 p) (fld m 8 8)).probed ≠ 0 := hprobed
  unfold tryFence
  rw [if_neg hopen, hfailed, Bool.true_or, if_pos rfl]

/-- A fence that is open ends with an error or a timeout. -/
theorem endFence_reported {f : Fence} {last : Nat} (h : last ≠ 1) {s : Mach} (hf : s.rmt.fences = [f]) :
    (endFence f last s).rmt.fences = [] ∧ (endFence f last s).rmt.sysfLast = BitVec.ofNat 2 last ∧
      (endFence f last s).rmt.sysfRound = f.round.setWidth 16 ∧ bit (endFence f last s).rmt.evt 7 = true ∧
      (endFence f last s).keep.faulted = true := by
  obtain ⟨hrmt, hfault⟩ := endFence_failed (f := f) h s
  rw [hrmt]
  exact ⟨fenceEnded_only f last hf, rfl, rfl, bit_setBit_same _ (by decide), hfault⟩

theorem takeLnack_latches {m : BitVec 256} {s : Mach} (h : s.rmt.nackValid = false) :
    (takeLnack m s).rmt.nackValid = true ∧ (takeLnack m s).rmt.nackCause = fld m 8 8 ∧ (takeLnack m s).rmt.nackSrc = lnackSrc m ∧
      (takeLnack m s).rmt.nackTag = fld m 128 32 ∧ (takeLnack m s).rmt.nackRound = fld m 160 16 ∧ bit (takeLnack m s).rmt.evt 6 = true ∧
      (takeLnack m s).keep.faulted = true := by
  have hnote : Signals (modRmt (latchNack m) s) (noteRaise 0x10C064 (if s.rmt.nackValid then 30 else 31) (modRmt (latchNack m) s)) :=
    noteRaise_signals _ _ _
  have hlatched : ∀ t, Signals (modRmt (latchNack m) s) t → t.rmt.nackValid = true ∧ t.rmt.nackCause = fld m 8 8 ∧
      t.rmt.nackSrc = lnackSrc m ∧ t.rmt.nackTag = fld m 128 32 ∧ t.rmt.nackRound = fld m 160 16 := by
    intro t ht
    obtain ⟨_, _, _, rfl⟩ := ht
    simp only [modRmt_own, latchNack, h, Bool.false_eq_true, if_false, and_self]
  have hafter := takeLnack_after (G := NoWrite) m s
  generalize noteRaise 0x10C064 (if s.rmt.nackValid then 30 else 31) (modRmt (latchNack m) s) = u at hnote hafter
  obtain ⟨hvalid, hcause, hsrc, htag, hround⟩ := hlatched u hnote
  have hevt : RemoteWork NoWrite u (rmtEvt 6 u) := rmtEvt_remoteWork 6 u
  have hfault : RemoteWork NoWrite (rmtEvt 6 u) (uncorrected 0x41 (remoteRecord 1 (rmtEvt 6 u))) :=
    (remoteRecord_remoteWork 1 _).trans (uncorrected_remoteWork 0x41 _)
  obtain ⟨hv, hc, hs, ht, hr⟩ := ((hevt.trans hfault).trans hafter).nack hvalid
  exact ⟨hv, hc.trans hcause, hs.trans hsrc, ht.trans htag, hr.trans hround, (hfault.trans hafter).evt 6 (rmtEvt_raised (by decide) u),
    hafter.faulted (uncorrected_keep 0x41 _).2.1⟩

/-! ### SYS_TWIN (R371) -/

section
variable {G : Nat → Msg → Prop}

theorem revokeSlot_remoteWork (b : Bool) (s : Mach) : RemoteWork G s (revokeSlot b s) := by
  unfold revokeSlot
  dsimp only
  refine ite_remoteWork (RemoteWork.trans (t := modKeep (setSlot b { slotOf s.keep b with valid := false }) s) ?_ (logModule_remoteWork _ _ _ _))
    (RemoteWork.refl s)
  refine ⟨⟨s.notes, s.host, s.out, s.cores, s.dies, _, s.rmt, s.ports, s.led, rfl⟩, fun h => ?_, fun h => ⟨h, rfl, rfl, rfl, rfl⟩, fun _ => id,
    fun _ _ => Or.inl⟩
  rw [modKeep_own]
  cases b <;> exact h

theorem voidWindows_remoteWork (hit : BitVec 256 → Bool) (s : Mach) : RemoteWork G s (voidWindows hit s) :=
  modRmt_remoteWork (fun h => ⟨h, rfl, rfl, rfl, rfl⟩) (fun _ => id)

theorem settlePtn_remoteWork (s : Mach) : RemoteWork G s (settlePtn s) := by
  have hmarks : RemoteWork G s (modRmt (fun r => { r with ptn := r.ptn.map (fun e => (e.1, { e.2 with conflict := ptnConflict s e.2 })) }) s) :=
    modRmt_remoteWork (fun h => ⟨h, rfl, rfl, rfl, rfl⟩) (fun _ => id)
  unfold settlePtn
  dsimp only
  have hchanged := hmarks.trans (ite_remoteWork (c := (s.rmt.ptn.any (fun e => ptnConflict s e.2 != e.2.conflict)) = true)
    (rmtEvt_remoteWork 0 _) (RemoteWork.refl _))
  exact ite_remoteWork (hchanged.trans (rmtEvt_remoteWork 1 _)) hchanged

end

/-- A twin mode in force, and the change that brings it. -/
def twinMode (m : BitVec 2) (s : Mach) : Mach :=
  modEdge (fun e => { e with keepEn := m == 1 }) (modSys (fun x => { x with twinMode := m, twinPend := none }) s)

/-- What a change of the twin mode does to slots and windows. -/
def twinVoids (m : BitVec 2) (change : Bool) (s : Mach) : Mach :=
  let s2 := if change then revokeSlot true (revokeSlot false s) else s
  if m == 1 then voidWindows (fun w => !wnCores w && inKeep (wnBase w) (wnSize w)) s2 else s2

theorem applyTwin_eq (m : BitVec 2) (s : Mach) : applyTwin m s =
    clearTwinPorts (settlePtn (sysEvt 1 (twinVoids m ((m == 1) != (s.sys.twinMode == 1)) (twinMode m s)))) := rfl

theorem twinVoids_remoteWork (m : BitVec 2) (change : Bool) (s : Mach) : RemoteWork NotTwin s (twinVoids m change s) := by
  have hslots : RemoteWork NotTwin s (if change then revokeSlot true (revokeSlot false s) else s) :=
    ite_remoteWork ((revokeSlot_remoteWork false s).trans (revokeSlot_remoteWork true _)) (RemoteWork.refl s)
  exact ite_remoteWork (hslots.trans (voidWindows_remoteWork _ _)) hslots

theorem clearTwinPorts_remoteWork (s : Mach) : RemoteWork NotTwin s (clearTwinPorts s) := by
  by_cases h : twinHeld s = true
  · rw [clearTwinPorts_held h]
    exact (foldl_clearTwinPort _ (by decide) s h).1
  · rw [Bool.not_eq_true] at h
    unfold clearTwinPorts
    rw [h]
    exact RemoteWork.refl s

theorem clearTwinPorts_carries {s : Mach} (h : twinHeld s = true) {q : Nat} (hq : q ∈ [30, 31, 62, 63]) {x : Msg}
    (hx : x ∈ (portAt (clearTwinPorts s) q).txq) : plainAccess x = false := by
  rw [clearTwinPorts_held h] at hx
  exact plainAccess_of_twinCarries h ((foldl_clearTwinPort _ (by decide) s h).2 q hq x hx)

theorem applyTwin_force {m : BitVec 2} (hm3 : m ≠ 3) (s : Mach) : (applyTwin m s).sys.twinReq = s.sys.twinReq ∧
    (applyTwin m s).sys.twinMode = m ∧ (applyTwin m s).sys.twinPend = none ∧ bit (applyTwin m s).sys.evt 1 = true ∧
    (applyTwin m s).edge.keepEn = (m == 1) ∧ (m ≠ 0 → ∀ q ∈ [30, 31, 62, 63], ∀ x ∈ (portAt (applyTwin m s) q).txq, plainAccess x = false) := by
  rw [applyTwin_eq]
  have hvoid := twinVoids_remoteWork m ((m == 1) != (s.sys.twinMode == 1)) (twinMode m s)
  generalize twinVoids m ((m == 1) != (s.sys.twinMode == 1)) (twinMode m s) = u at hvoid
  obtain ⟨_, _, _, _, _, _, _, _, _, hu⟩ := hvoid.moved
  obtain ⟨_, _, _, hevt⟩ := sysEvt_signals 1 u
  have hsys : (sysEvt 1 u).sys = { s.sys with twinMode := m, twinPend := none, evt := setBit s.sys.evt 1 } := by
    rw [hevt, hu]
    rfl
  have hedge : (sysEvt 1 u).edge = { s.edge with keepEn := m == 1 } := by
    rw [hevt, hu]
    rfl
  have hsettle : RemoteWork NotTwin (sysEvt 1 u) (settlePtn (sysEvt 1 u)) := settlePtn_remoteWork _
  have hclear := clearTwinPorts_remoteWork (settlePtn (sysEvt 1 u))
  have hkeepEdge : (clearTwinPorts (settlePtn (sysEvt 1 u))).edge = (sysEvt 1 u).edge := by
    obtain ⟨_, _, _, _, _, _, _, _, _, h⟩ := (hsettle.trans hclear).moved
    rw [h]
  rw [(hsettle.trans hclear).sys, hkeepEdge, hsys, hedge]
  refine ⟨rfl, rfl, rfl, bit_setBit_same _ (by decide), rfl, fun hm0 q hq x hx => clearTwinPorts_carries ?_ hq hx⟩
  have hm : m = 1 ∨ m = 2 := by
    have hlt := m.isLt
    have h0 : m.toNat ≠ 0 := fun h => hm0 (BitVec.eq_of_toNat_eq h)
    have h3 : m.toNat ≠ 3 := fun h => hm3 (BitVec.eq_of_toNat_eq h)
    obtain h | h : m.toNat = 1 ∨ m.toNat = 2 := by omega
    · exact Or.inl (BitVec.eq_of_toNat_eq h)
    · exact Or.inr (BitVec.eq_of_toNat_eq h)
  rw [twinHeld, hsettle.sys, hsys]
  obtain rfl | rfl := hm <;> rfl

/-- A write of SYS_TWIN that nothing refuses. -/
theorem sysTwin_taken {v : Word} {s : Mach} (h3 : fld v 0 2 ≠ 3) (h1 : fld v 0 2 = (1 : BitVec 2) → bit s.start.features 2 = true)
    (h2 : fld v 0 2 = (2 : BitVec 2) → bit s.start.features 3 = true) (hok : fld v 0 2 ≠ (0 : BitVec 2) → s.sys.ok = true)
    (hcur : s.sec.cur = none) (hswitch : s.sec.switch = none) (hsealing : s.keep.sealing = none) (hkeeping : s.keep.keeping = none)
    (hrest : s.keep.rest = none) (hserve : s.keep.serve = none) : sysTwin v s =
      if atOnce s then applyTwin (fld v 0 2) (modSys (fun x => { x with twinReq := fld v 0 2 }) s)
      else modSys (fun x => { x with twinReq := fld v 0 2, twinPend := some (fld v 0 2) }) s := by
  have hlic : (if fld v 0 2 = (1 : BitVec 2) then bit s.start.features 2 else if fld v 0 2 = (2 : BitVec 2) then bit s.start.features 3 else true) = true := by
    split
    · next h => exact h1 h
    · split
      · next h => exact h2 h
      · rfl
  unfold sysTwin
  dsimp only
  rw [hlic, hcur, hswitch, hsealing, hkeeping, hrest, hserve]
  rw [if_neg (by
    rintro (h | h | ⟨hm, h⟩ | h | h)
    · exact h3 h
    · exact absurd h (by decide)
    · rw [hok hm] at h
      exact absurd h (by decide)
    · exact absurd h (by decide)
    · exact absurd h (by decide))]
  rfl

/-! ### Selections (R587) -/

theorem runSelect_served {a : Nat} {s : State} (h : Served s.m a) (f : Mach → Mach) :
    runSelect a f s = .next (s.accessed (latchFrom a (f s.start) (f s.m))) := by
  rw [runSelect, runHost, hostAccess_served h]

theorem latchFrom_ptnE (v : Word) (s : State) : latchFrom 0x10C004 (ptnSel v s.start) (ptnSel v s.m) =
    modRmt (fun r => { r with
      ptnSel := fld v 0 12
      ptnE := ptnWord (shownPort s.start (tget Ptn.reset s.start.rmt.ptn (fld v 0 12).toNat)) }) s.m := rfl

theorem latchFrom_winE (v : Word) (s : State) : latchFrom 0x10C020 (winSel v s.start) (winSel v s.m) =
    modRmt (fun r => { r with winSel := fld v 0 10, winE := tget 0 s.start.rmt.win (fld v 0 10).toNat }) s.m := rfl

end Sys2Proof.Spec

namespace Sys2Proof.Spec

open Sys2Proof.Machine

/-- Settles O21: what reports and ends is remote work, which keeps events, faults and latched nacks and adds to a queue only what it
sends; no path of a held twin mode leads out of a twin port. -/
theorem fencesNacksAndSelections : Obligations.FencesNacksAndSelections := by
  unfold Obligations.FencesNacksAndSelections
  intro pf s p
  refine ⟨?_, ?_, ?_, ?_, ?_, ?_, ?_, ?_⟩
  · intro m hmine hvalid
    have harrive : lnackArrive p m s.m = takeLnack m s.m := arriveMsg_own hmine
    have hnow : (lnackArrive p m s.m).now = s.m.now := by rw [harrive]; exact (takeLnack_remoteWork (G := NoWrite) m s.m).now
    obtain ⟨hrun, hpending, hm⟩ := runs_to hnow
    refine ⟨_, hrun, hpending, ?_⟩
    rw [hm, harrive]
    exact takeLnack_latches hvalid
  · intro m hmine src
    have harrive : fprobeArrive p m s.m = takeProbe p m s.m := arriveMsg_own hmine
    exact ⟨fun n hn => run_eq_after (harrive.trans (takeProbe_counted pf.isLt hn)), fun h => run_eq_after (harrive.trans (takeProbe_none h))⟩
  · intro src n rnd rej msg hprobes hreach
    exact run_eq_after ((fackSend_only pf.isLt hprobes).trans (sendFrom_queued (Reaches.congr rfl rfl rfl hreach)))
  · intro m f hmine hfences hawaited hround hfailed howed hrej hnacked
    have harrive : fackArrive p m s.m = takeFack p m s.m := arriveMsg_own hmine
    exact run_eq_after (harrive.trans (takeFack_last hfences hawaited hround hfailed howed hrej hnacked))
  · intro m f hmine hfences hprobed hmem hround hrej
    have harrive : fackArrive p m s.m = takeFack p m s.m := arriveMsg_own hmine
    have hend := harrive.trans (takeFack_error hfences hprobed hmem hround hrej)
    have hnow : (fackArrive p m s.m).now = s.m.now := by rw [hend]; exact (endFence_remoteWork (G := NoWrite) _ 2 _).now
    obtain ⟨hrun, hpending, hm⟩ := runs_to hnow
    refine ⟨_, hrun, hpending, ?_⟩
    rw [hm, hend]
    exact endFence_reported (f := acked f (fld m 16 16, BitVec.ofNat 6 p) (fld m 8 8)) (last := 2) (by decide) rfl
  · intro f hfences hround
    have hend : systemFenceTimeout s.m = endFence f 3 s.m := by
      have hfind : s.m.rmt.fences.find? (fun f => decide (f.round.toNat + 2 ≤ (roundNow s.m).toNat)) = some f := by
        rw [hfences]
        simp [hround]
      simp only [systemFenceTimeout, hfind]
    have hnow : (systemFenceTimeout s.m).now = s.m.now := by rw [hend]; exact (endFence_remoteWork (G := NoWrite) _ 3 _).now
    obtain ⟨hrun, hpending, hm⟩ := runs_to hnow
    refine ⟨_, hrun, hpending, ?_⟩
    rw [hm, hend]
    exact endFence_reported (last := 3) (by decide) hfences
  · intro w hw hlate h15
    have hnow : (lateWriteScan p s.m).now = s.m.now := (lateWriteScan_after p s.m).now
    obtain ⟨hrun, hpending, hm⟩ := runs_to hnow
    obtain ⟨hevt, hfault⟩ := lateWriteScan_late hw hlate h15
    refine ⟨_, hrun, hpending, ?_⟩
    rw [hm]
    exact ⟨hevt, hfault, fun v hv hvlate => lateWriteScan_clears hv hvlate⟩
  · intro v
    refine ⟨fun hserved => ?_, fun hserved => ?_, ?_⟩
    · exact (runSelect_served hserved (ptnSel v)).trans (congrArg (fun m => Host.Outcome.next (s.accessed m)) (latchFrom_ptnE v s))
    · exact (runSelect_served hserved (winSel v)).trans (congrArg (fun m => Host.Outcome.next (s.accessed m)) (latchFrom_winE v s))
    · intro m hserved h3 h1 h2 hok hcur hswitch hsealing hkeeping hrest hserve
      have htaken := sysTwin_taken h3 h1 h2 hok hcur hswitch hsealing hkeeping hrest hserve
      refine ⟨fun honce => runAccess_eq hserved (htaken.trans (if_neg (by rw [honce]; exact Bool.false_ne_true))), fun honce => ?_⟩
      have happly := htaken.trans (if_pos honce)
      refine ⟨_, runAccess_served hserved (sysTwin v), rfl, ?_⟩
      obtain ⟨hreq, hmode, hpend, hevt, hkeep, hclear⟩ := applyTwin_force h3 (modSys (fun x => { x with twinReq := fld v 0 2 }) s.m)
      rw [accessed, accessed_m, happly]
      exact ⟨hreq, hmode, hpend, hevt, hkeep, hclear⟩

end Sys2Proof.Spec
end

section
/-! PROOFS. The arrays of a die: code words, scrubbing, the log and the checker test (R382, R392, R396, R403, R407, R410). -/

namespace Sys2Proof.Spec

open Sys2Proof.Machine

/-! ### Numbers in memory (R6) -/

theorem ofBytes_lt (bs : List Byte) : ofBytes bs < 256 ^ bs.length := by
  induction bs with
  | nil => decide
  | cons b t ih =>
    have hb : b.toNat < 256 := b.isLt
    rw [ofBytes, List.length_cons, Nat.pow_succ]
    omega

theorem ofBytes_toBytes {n : Nat} : ∀ {x : Nat}, x < 256 ^ n → ofBytes (toBytes n x) = x := by
  induction n with
  | zero =>
    intro x h
    rw [Nat.pow_zero] at h
    simp only [toBytes, ofBytes]
    omega
  | succ n ih =>
    intro x h
    rw [Nat.pow_succ] at h
    rw [toBytes, ofBytes, ih (by omega), BitVec.toNat_ofNat]
    omega

theorem rdNum_lt (m : Mem) (a n : Nat) : rdNum m a n < 256 ^ n := by
  have h := ofBytes_lt (rdBytes m a n)
  rwa [rdBytes_length] at h

theorem rdNum_wrBytes {n x : Nat} (h : x < 256 ^ n) (m : Mem) (a : Nat) : rdNum (wrBytes m a (toBytes n x)) a n = x := by
  have hread := rdBytes_wrBytes (toBytes n x) m a
  rw [toBytes_length] at hread
  rw [rdNum, hread, ofBytes_toBytes h]

theorem rdNum_wrBytes_apart {a b n : Nat} {bs : List Byte} (h : a + bs.length ≤ b ∨ b + n ≤ a) (m : Mem) :
    rdNum (wrBytes m a bs) b n = rdNum m b n :=
  congrArg ofBytes (rdBytes_congr (fun x _ hx => rd_wrBytes_outside bs m a x (by omega)))

/-! ### The code (R382, R383) -/

theorem columns_lt (arr : Nat) : ∀ x ∈ columns arr, x < 256 := by
  match arr with
  | 0 => decide +kernel
  | 1 => decide +kernel
  | n + 2 =>
    show ∀ x ∈ columns 2, x < 256
    decide +kernel

theorem checkBits_lt (arr data : Nat) : checkBits arr data < 256 := by
  have hfold : ∀ (l : List (Nat × Nat)) (acc : Nat), (∀ e ∈ l, e.1 < 256) → acc < 256 →
      l.foldl (fun acc e => if data.testBit e.2 then acc ^^^ e.1 else acc) acc < 256 := by
    intro l
    induction l with
    | nil => exact fun acc _ h => h
    | cons e l ih =>
      intro acc hl hacc
      rw [List.foldl_cons]
      refine ih _ (fun x hx => hl x (List.mem_cons_of_mem e hx)) ?_
      split
      · exact Nat.xor_lt_two_pow (n := 8) hacc (hl e List.mem_cons_self)
      · exact hacc
  exact hfold _ 0 (fun e he => columns_lt arr e.1 (List.fst_mem_of_mem_zipIdx he)) (by decide)

theorem decodeWord_lt {arr data syn : Nat} (h : data < 2 ^ wordBits arr) : (decodeWord arr data syn).1 < 2 ^ wordBits arr := by
  unfold decodeWord
  split
  · exact h
  · split
    · exact h
    · split
      · next e he =>
        have hpos : e.2 < wordBits arr := by
          rw [← columns_length arr]
          exact (List.mem_zipIdx' (List.mem_of_find?_eq_some he)).1
        exact Nat.xor_lt_two_pow h (Nat.pow_lt_pow_right (by decide) hpos)
      · exact h

/-! ### Code words of a core -/

/-- Bytes of a code word of an array. -/
def wordBytes (arr : Nat) : Nat := if arr = 0 then 1 else if arr = 1 then 8 else 4

theorem two_pow_wordBits (arr : Nat) : 2 ^ wordBits arr = 256 ^ wordBytes arr := by
  match arr with
  | 0 => rfl
  | 1 => decide
  | n + 2 =>
    have h : wordBytes (n + 2) = 4 := by simp [wordBytes]
    rw [h]
    exact (by decide : 2 ^ 32 = 256 ^ 4)

theorem rawData_lt (c : Core) (arr a : Nat) : rawData c arr a < 2 ^ wordBits arr := by
  rw [two_pow_wordBits]
  match arr with
  | 0 => exact rdNum_lt c.sp a 1
  | 1 => exact rdNum_lt c.sp a 8
  | n + 2 => exact rdNum_lt c.imem a 4

theorem readWord_eq (c : Core) (arr a : Nat) : readWord c arr a =
    match decodeWord arr (rawData c arr a) (tget 0 c.synd (syndKey arr a)).toNat with
    | (v, none) => (v, [])
    | (v, some (ue, pos)) => (v, [⟨arr, a, (tget 0 c.synd (syndKey arr a)).toNat, ue, pos⟩]) := by
  unfold readWord rawData syndKey
  rfl

theorem readWord_congr {c d : Core} {arr a : Nat} (hdata : rawData d arr a = rawData c arr a)
    (hsynd : tget 0 d.synd (syndKey arr a) = tget 0 c.synd (syndKey arr a)) : readWord d arr a = readWord c arr a := by
  rw [readWord_eq, readWord_eq, hdata, hsynd]

theorem readWord_lt (c : Core) (arr a : Nat) : (readWord c arr a).1 < 2 ^ wordBits arr := by
  have h := decodeWord_lt (syn := (tget 0 c.synd (syndKey arr a)).toNat) (rawData_lt c arr a)
  rw [readWord_eq]
  generalize decodeWord arr (rawData c arr a) (tget 0 c.synd (syndKey arr a)).toNat = x at h
  obtain ⟨v, _ | ⟨ue, pos⟩⟩ := x
  · exact h
  · exact h

theorem readWord_good {c : Core} {arr a : Nat} (h : tget 0 c.synd (syndKey arr a) = 0) : readWord c arr a = (rawData c arr a, []) := by
  have hsyn : (tget 0 c.synd (syndKey arr a)).toNat = 0 := by rw [h]; rfl
  rw [readWord_eq, hsyn, decodeWord_clean]

/-- Data put into a code word of an array. -/
def putWord (arr a : Nat) (x : Nat) (c : Core) : Core :=
  if arr = 2 then { c with imem := wrBytes c.imem a (toBytes 4 x) } else { c with sp := wrBytes c.sp a (toBytes (if arr = 0 then 1 else 8) x) }

theorem rawData_putWord {arr : Nat} (harr : arr < 3) (a : Nat) {x : Nat} (hx : x < 2 ^ wordBits arr) (c : Core) :
    rawData (putWord arr a x c) arr a = x := by
  rw [two_pow_wordBits] at hx
  obtain rfl | rfl | rfl : arr = 0 ∨ arr = 1 ∨ arr = 2 := by omega
  · exact rdNum_wrBytes hx c.sp a
  · exact rdNum_wrBytes hx c.sp a
  · exact rdNum_wrBytes hx c.imem a

theorem rawData_putWord_apart {arr : Nat} (harr : arr < 3) {a b : Nat} (h : a + wordBytes arr ≤ b ∨ b + wordBytes arr ≤ a) (x : Nat)
    (c : Core) : rawData (putWord arr a x c) arr b = rawData c arr b := by
  obtain rfl | rfl | rfl : arr = 0 ∨ arr = 1 ∨ arr = 2 := by omega
  · exact rdNum_wrBytes_apart (by rw [toBytes_length]; exact h) c.sp
  · exact rdNum_wrBytes_apart (by rw [toBytes_length]; exact h) c.sp
  · exact rdNum_wrBytes_apart (by rw [toBytes_length]; exact h) c.imem

/-! ### Write-backs (R392, R407) -/

/-- A code word rewritten with good check bits. -/
def rewritten (arr a x : Nat) (c : Core) : Core := { putWord arr a x c with synd := tdel c.synd (syndKey arr a) }

theorem rawData_rewritten (arr a x b : Nat) (c : Core) : rawData (rewritten arr a x c) arr b = rawData (putWord arr a x c) arr b := by
  match arr with
  | 0 => rfl
  | 1 => rfl
  | n + 2 => rfl

theorem fixWord_cases (arr : Nat) (c : Core) (a : Nat) :
    (fixWord arr c a = c ∧ ¬ ∃ v e, readWord c arr a = (v, [e]) ∧ e.ue = false) ∨
      ∃ v e, readWord c arr a = (v, [e]) ∧ e.ue = false ∧ fixWord arr c a = rewritten arr a v c := by
  unfold fixWord
  split
  · next v e h =>
    by_cases hue : e.ue = true
    · rw [if_pos hue]
      refine Or.inl ⟨rfl, fun ⟨v', e', h', hue'⟩ => ?_⟩
      rw [h] at h'
      obtain ⟨_, he⟩ := Prod.mk.inj h'
      rw [List.singleton_inj.1 he] at hue
      exact absurd hue (by rw [hue']; exact Bool.false_ne_true)
    · rw [Bool.not_eq_true] at hue
      rw [hue, if_neg Bool.false_ne_true]
      refine Or.inr ⟨v, e, h, hue, ?_⟩
      unfold rewritten putWord syndKey
      by_cases h2 : arr = 2
      · simp only [if_pos h2]
      · simp only [if_neg h2]
  · next h => exact Or.inl ⟨rfl, fun ⟨v, e, h', _⟩ => h v e h'⟩

/-- A correctable word that is written back holds its corrected data and no syndrome. -/
theorem readWord_fixWord {arr : Nat} (harr : arr < 3) {c : Core} {a v : Nat} {e : ErrRec} (h : readWord c arr a = (v, [e]))
    (hue : e.ue = false) : readWord (fixWord arr c a) arr a = (v, []) := by
  obtain ⟨_, hno⟩ | ⟨v', e', h', _, hfix⟩ := fixWord_cases arr c a
  · exact absurd ⟨v, e, h, hue⟩ hno
  · obtain rfl : v' = v := by
      rw [h] at h'
      exact (Prod.mk.inj h').1.symm
    have hlt : v' < 2 ^ wordBits arr := by
      have := readWord_lt c arr a
      rwa [h] at this
    rw [hfix, readWord_good (tget_tdel_same _ _ _), rawData_rewritten, rawData_putWord harr a hlt]

/-- A write-back leaves the other code words of the scratchpad. -/
theorem readWord_fixWord_apart {arr : Nat} (harr : arr < 2) (c : Core) {a b : Nat} (h : a + wordBytes arr ≤ b ∨ b + wordBytes arr ≤ a) :
    readWord (fixWord arr c a) arr b = readWord c arr b := by
  obtain ⟨hfix, _⟩ | ⟨v, _, _, _, hfix⟩ := fixWord_cases arr c a
  · rw [hfix]
  · rw [hfix]
    refine readWord_congr ((rawData_rewritten arr a v b c).trans (rawData_putWord_apart (by omega) h v c)) (tget_tdel_other _ _ ?_)
    have hpos : 0 < wordBytes arr := by unfold wordBytes; split <;> [decide; (split <;> decide)]
    rw [syndKey, syndKey, if_neg (by omega), if_neg (by omega)]
    omega

section
variable {arr a sz : Nat}

theorem readWord_foldl_apart {j : Nat} (l : List Nat) : ∀ (c : Core),
    (∀ i ∈ l, ∀ c, readWord (fixWord arr c (a + sz * i)) arr (a + sz * j) = readWord c arr (a + sz * j)) →
    readWord (l.foldl (fun c i => fixWord arr c (a + sz * i)) c) arr (a + sz * j) = readWord c arr (a + sz * j) := by
  induction l with
  | nil => exact fun _ _ => rfl
  | cons i l ih =>
    intro c h
    rw [List.foldl_cons, ih _ (fun x hx => h x (List.mem_cons_of_mem i hx)), h i List.mem_cons_self]

/-- Each correctable word of a row that is written back is corrected. -/
theorem readWord_foldl_fixWord (harr : arr < 3) {j v : Nat} {e : ErrRec} (hue : e.ue = false) (l : List Nat) : ∀ (c : Core), l.Nodup → j ∈ l →
    (∀ i ∈ l, i ≠ j → ∀ c, readWord (fixWord arr c (a + sz * i)) arr (a + sz * j) = readWord c arr (a + sz * j)) →
    readWord c arr (a + sz * j) = (v, [e]) →
    readWord (l.foldl (fun c i => fixWord arr c (a + sz * i)) c) arr (a + sz * j) = (v, []) := by
  induction l with
  | nil => exact fun _ _ h => absurd h List.not_mem_nil
  | cons i l ih =>
    intro c hnodup hj h hc
    obtain ⟨hi, hl⟩ := List.nodup_cons.1 hnodup
    rw [List.foldl_cons]
    by_cases hij : i = j
    · subst hij
      rw [readWord_foldl_apart l _ (fun x hx => h x (List.mem_cons_of_mem i hx) (fun hxi => hi (hxi ▸ hx)))]
      exact readWord_fixWord harr hc hue
    · have hjl : j ∈ l := (List.mem_cons.1 hj).resolve_left (Ne.symm hij)
      exact ih _ hl hjl (fun x hx => h x (List.mem_cons_of_mem i hx)) ((h i List.mem_cons_self hij c).trans hc)

end

/-! ### The scrubber (R392, R407) -/

/-- A scrubber moves on. -/
def scrubOn (i n : Nat) (c : Core) : Core := { c with scrubAt := tset 0 c.scrubAt i ((n + 1) % scrubCount i) }

theorem scrubRead_good {k i : Nat} {s : Mach} (hpresent : present s k = true) (hscrub : (dieAt s (dieOf k)).prot.scrub = true)
    (htoken : dieTokenHeld s (dieOf k) = false)
    (hgood : ∀ j, j < (scrubPlace i (tget 0 (coreAt s k).scrubAt i)).2.2.2 →
      tget 0 (coreAt s k).synd (syndKey (scrubPlace i (tget 0 (coreAt s k).scrubAt i)).1
        ((scrubPlace i (tget 0 (coreAt s k).scrubAt i)).2.1 + (scrubPlace i (tget 0 (coreAt s k).scrubAt i)).2.2.1 * j)) = 0) :
    scrubRead k i s = modCore k (scrubOn i (tget 0 (coreAt s k).scrubAt i)) s := by
  unfold scrubRead
  dsimp only
  rw [hpresent, hscrub, htoken]
  generalize tget 0 (coreAt s k).scrubAt i = n at hgood ⊢
  generalize scrubPlace i n = x at hgood ⊢
  obtain ⟨arr, a, sz, cnt⟩ := x
  dsimp only at hgood ⊢
  have hnone : (List.range cnt).flatMap (fun j => (readWord (coreAt s k) arr (a + sz * j)).2) = [] :=
    List.flatMap_eq_nil_iff.2 (fun j hj => by rw [readWord_good (hgood j (List.mem_range.1 hj))])
  rw [hnone]
  rfl

theorem scrubPlace_apart (i : Nat) : (scrubPlace i 0).1 < 3 ∧
    ((scrubPlace i 0).2.2.2 = 1 ∨ ((scrubPlace i 0).1 < 2 ∧ (scrubPlace i 0).2.2.1 = wordBytes (scrubPlace i 0).1)) := by
  unfold scrubPlace
  split
  · exact ⟨(by decide : 1 < 3), Or.inr ⟨(by decide : 1 < 2), rfl⟩⟩
  · split
    · exact ⟨(by decide : 0 < 3), Or.inr ⟨(by decide : 0 < 2), rfl⟩⟩
    · exact ⟨(by decide : 2 < 3), Or.inl rfl⟩

/-- The row or word that a write-back corrects. -/
def fixRow (i a : Nat) (c : Core) : Core :=
  (List.range (scrubPlace i 0).2.2.2).foldl (fun c j => fixWord (scrubPlace i 0).1 c (a + (scrubPlace i 0).2.2.1 * j)) c

theorem readWord_fixRow {i a j v : Nat} {e : ErrRec} {c : Core} (hj : j < (scrubPlace i 0).2.2.2)
    (h : readWord c (scrubPlace i 0).1 (a + (scrubPlace i 0).2.2.1 * j) = (v, [e])) (hue : e.ue = false) :
    readWord (fixRow i a c) (scrubPlace i 0).1 (a + (scrubPlace i 0).2.2.1 * j) = (v, []) := by
  obtain ⟨harr, hapart⟩ := scrubPlace_apart i
  refine readWord_foldl_fixWord harr hue _ c List.nodup_range (List.mem_range.2 hj) (fun x hx hxj c => ?_) h
  have hx' := List.mem_range.1 hx
  obtain hone | ⟨h2, hsz⟩ := hapart
  · omega
  · refine readWord_fixWord_apart h2 c ?_
    rw [hsz]
    obtain hlt | hgt := Nat.lt_or_gt_of_ne hxj
    · have := Nat.mul_le_mul_left (wordBytes (scrubPlace i 0).1) (Nat.succ_le_of_lt hlt)
      rw [Nat.mul_succ] at this
      omega
    · have := Nat.mul_le_mul_left (wordBytes (scrubPlace i 0).1) (Nat.succ_le_of_lt hgt)
      rw [Nat.mul_succ] at this
      omega

/-- The oldest write-back of an array is made. -/
def wroteBack (i a : Nat) (rest : List Nat) (c : Core) : Core :=
  { fixRow i a c with scrubWb := tset [] (fixRow i a c).scrubWb i rest }

section
variable {k i a : Nat} {rest : List Nat} {s : Mach} (hwb : tget [] (coreAt s k).scrubWb i = a :: rest)
include hwb

theorem scrubWriteback_held (htoken : dieTokenHeld s (dieOf k) = true) : scrubWriteback k i s = s := by
  unfold scrubWriteback
  rw [hwb]
  dsimp only
  rw [htoken, if_pos rfl]

theorem scrubWriteback_free (htoken : dieTokenHeld s (dieOf k) = false) (hdead : dead s k = false) :
    scrubWriteback k i s = modCore k (wroteBack i a rest) s := by
  unfold scrubWriteback
  rw [hwb]
  dsimp only
  rw [htoken, if_neg Bool.false_ne_true, hdead]
  rfl

end

theorem readWord_wroteBack (i a : Nat) (rest : List Nat) (c : Core) (arr b : Nat) :
    readWord (wroteBack i a rest c) arr b = readWord (fixRow i a c) arr b := rfl

/-! ### LOGCLR (R396) -/

/-- PROT_CTRL written with LOGCLR: the log holds the errors of the cycle. -/
def logCleared (v : Word) (l : List (Nat × LogEntry)) (d : Die) : Die :=
  { d with prot := { d.prot with gap := fld v 16 16, scrub := bit v 0, log := l } }

theorem protCtrl_logclr (die : Nat) (v : Word) (s : Mach) :
    protCtrl die (v ||| 2) s = modDie die (logCleared v (clearedLog s die (dieAt s die).prot)) s := by
  have hgap : fld (v ||| 2) 16 16 = fld v 16 16 := by
    have h0 : BitVec.extractLsb' 16 16 (2 : Word) = 0#16 := rfl
    rw [fld, fld, BitVec.extractLsb'_or, h0, BitVec.or_zero]
  have hscrub : bit (v ||| 2) 0 = bit v 0 := by simp [bit]
  have hclr : bit (v ||| 2) 1 = true := by simp [bit]
  refine modDie_congr ?_
  rw [hgap, hscrub, hclr]
  rfl

theorem clearedLog_none {s : Mach} {die : Nat} {p : Prot} (h : ∀ e ∈ s.notes.cores, e.1 ≠ die) : clearedLog s die p = [] := by
  have hnone : s.notes.cores.filter (fun e => e.1 == die) = [] := List.filter_eq_nil_iff.2 (fun e he => by simp [h e he])
  rw [clearedLog, hnone]
  rfl

theorem clearedLog_one {s : Mach} {die : Nat} {p : Prot} {n : LogEntry} (h : s.notes.cores = [(die, n)]) :
    clearedLog s die p = [(0, n)] := by
  have hone : s.notes.cores.filter (fun e => e.1 == die) = [(die, n)] := by simp [h]
  have hslot : freeSlot ([] : List (Nat × LogEntry)) = some 0 := rfl
  rw [clearedLog, hone]
  simp only [List.foldl_cons, List.foldl_nil, logEntry, List.find?_nil, hslot, List.nil_append]

/-! ### The checker test (R403, R410) -/

theorem modProt_modProt (die : Nat) (f g : Prot → Prot) (s : Mach) : modProt die g (modProt die f s) = modProt die (fun p => g (f p)) s :=
  modDie_modDie die _ _ s

theorem dead_modProt (die : Nat) (f : Prot → Prot) (s : Mach) (k : Nat) : dead (modProt die f s) k = dead s k := by
  unfold dead
  by_cases h : dieOf k = die
  · rw [h, modProt, dieAt_modDie]
  · rw [modProt, dieAt_modDie_other _ _ h]

theorem prot_modProt (die : Nat) (f : Prot → Prot) (s : Mach) : (dieAt (modProt die f s) die).prot = f (dieAt s die).prot :=
  congrArg Die.prot (dieAt_modDie die _ s)

section
variable {s : Mach} {die : Fin 144} {v : Word} {k arr w : Nat} (h : CheckerOn s die v k arr w)
include h

theorem coreChk_on (op : Nat → Nat → Nat → Mach → Mach) :
    coreChk die.val v op s = op k arr w (modProt die.val (chkFieldsOf v) s) := by
  obtain ⟨_, ⟨a, hholder, hcode⟩, hsec, hpc, rfl, rfl, hword⟩ := h
  unfold coreChk
  dsimp only
  rw [hholder, hword]
  exact if_pos ⟨hcode, hsec, hpc⟩

theorem CheckerOn.arr_lt : arr < 3 := by
  obtain ⟨_, _, _, _, _, _, hword⟩ := h
  unfold chkWord at hword
  split at hword
  · decide
  · decide
  · decide
  · exact absurd hword (by simp)

/-- A code word of the checker test as it is written: data, and the syndrome of the check bits given. -/
def chkWritten (arr w data syn : Nat) (c : Core) : Core :=
  let c1 := if arr = 2 then { c with imem := wrBytes c.imem w (toBytes 4 data), scrubWb := keepWb w 4 17 c.scrubWb }
            else { c with sp := wrBytes c.sp w (toBytes (if arr = 0 then 1 else 8) data)
                          scrubWb := dropWb w (if arr = 0 then 1 else 8) c.scrubWb }
  { c1 with synd := tset 0 c1.synd (syndKey arr w) (BitVec.ofNat 8 syn) }

/-- The check bits that a raw write takes. -/
def chkWidth (arr : Nat) : Nat := if arr = 0 then 5 else if arr = 1 then 8 else 7

/-- The data and the syndrome of a raw write. -/
def chkDataOf (arr : Nat) (p : Prot) : Nat := p.chkData.toNat % 2 ^ wordBits arr
def chkSynOf (arr : Nat) (p : Prot) : Nat := (p.chkCheck.toNat % 2 ^ chkWidth arr) ^^^ checkBits arr (chkDataOf arr p)

omit h in
theorem chkSynOf_lt (arr : Nat) (p : Prot) : chkSynOf arr p < 256 := by
  refine Nat.xor_lt_two_pow (n := 8) ?_ (checkBits_lt arr _)
  have hwidth : 2 ^ chkWidth arr ≤ 2 ^ 8 := Nat.pow_le_pow_right (by decide) (by unfold chkWidth; split <;> [decide; (split <;> decide)])
  exact lt_of_lt_of_le (Nat.mod_lt _ (Nat.two_pow_pos _)) hwidth

theorem chkRawWrite_on : chkRawWrite die.val v s =
    if dead s k && arr < 2 then modProt die.val (chkFieldsOf v) s
    else modCore k (chkWritten arr w (chkDataOf arr (dieAt s die.val).prot) (chkSynOf arr (dieAt s die.val).prot))
      (modProt die.val (chkFieldsOf v) s) := by
  rw [chkRawWrite, coreChk_on h, prot_modProt, dead_modProt]
  have harr := h.arr_lt
  clear h
  obtain rfl | rfl | rfl : arr = 0 ∨ arr = 1 ∨ arr = 2 := by omega
  · rfl
  · rfl
  · rfl

omit h in
theorem rawData_chkWritten {arr : Nat} (harr : arr < 3) (w : Nat) {data : Nat} (hdata : data < 2 ^ wordBits arr) (syn : Nat) (c : Core) :
    rawData (chkWritten arr w data syn c) arr w = data := by
  refine Eq.trans ?_ (rawData_putWord harr w hdata c)
  obtain rfl | rfl | rfl : arr = 0 ∨ arr = 1 ∨ arr = 2 := by omega
  · rfl
  · rfl
  · rfl

omit h in
theorem chkWritten_only (arr w data syn : Nat) (c : Core) : (chkWritten arr w data syn c).p = c.p ∧
    (chkWritten arr w data syn c).synd = tset 0 c.synd (syndKey arr w) (BitVec.ofNat 8 syn) := by
  unfold chkWritten
  dsimp only
  by_cases h2 : arr = 2
  · simp only [if_pos h2, and_self]
  · simp only [if_neg h2, and_self]

theorem chkRawRead_on : chkRawRead die.val v s = modDie die.val (fun d => { d with prot :=
    { chkFieldsOf v d.prot with
      chkData := BitVec.ofNat 64 (rawData (coreAt s k) arr w), chkSyn := tget 0 (coreAt s k).synd (syndKey arr w)
      chkCheck := BitVec.ofNat 8 (checkBits arr (rawData (coreAt s k) arr w)) ^^^ tget 0 (coreAt s k).synd (syndKey arr w) } }) s := by
  rw [chkRawRead, coreChk_on h]
  exact modProt_modProt _ _ _ s

theorem chkCheckedRead_on (hgood : tget 0 (coreAt s k).synd (syndKey arr w) = 0) :
    chkCheckedRead die.val v s = modDie die.val (fun d => { d with prot :=
      { chkFieldsOf v d.prot with chkData := BitVec.ofNat 64 (rawData (coreAt s k) arr w), chkResult := 0 } }) s := by
  have hread : readWord (coreAt (modProt die.val (chkFieldsOf v) s) k) arr w = (rawData (coreAt s k) arr w, []) := readWord_good hgood
  rw [chkCheckedRead, coreChk_on h]
  dsimp only
  rw [hread]
  exact modProt_modProt die.val (chkFieldsOf v) (fun p => { p with chkData := BitVec.ofNat 64 (rawData (coreAt s k) arr w), chkResult := 0 }) s

end

end Sys2Proof.Spec

namespace Sys2Proof.Spec

open Sys2Proof.Machine

/-- Settles O22: a write-back corrects each word of its row apart from the others, and the operations of the checker act on the one code
word that CheckerOn names. -/
theorem dieArraysAreScrubbedAndTested : Obligations.DieArraysAreScrubbedAndTested := by
  unfold Obligations.DieArraysAreScrubbedAndTested
  intro s
  refine ⟨?_, ?_, ?_, ?_⟩
  · intro k arr i c n x hpresent hscrub htoken hgood
    exact run_eq_after (scrubRead_good hpresent hscrub htoken hgood)
  · intro k arr a rest i c x hwb
    refine ⟨fun htoken => run_unchanged (scrubWriteback_held hwb htoken), fun htoken hdead => ?_⟩
    have hback := scrubWriteback_free hwb htoken hdead
    have hnow : (scrubWriteback k.key i s.m).now = s.m.now := by rw [hback]; rfl
    obtain ⟨hrun, hpending, hm⟩ := runs_to hnow
    refine ⟨_, hrun, hpending, ?_⟩
    rw [hm, hback, coreAt_modCore]
    refine ⟨⟨_, rfl⟩, tget_tset_same _ _ _ _, fun j hj v e hv hue => ?_⟩
    rw [readWord_wroteBack]
    exact readWord_fixRow hj hv hue
  · intro die v hserved cleared
    refine ⟨fun hnone => runAccess_eq hserved ((protCtrl_logclr _ _ _).trans ?_), fun n hone => runAccess_eq hserved ((protCtrl_logclr _ _ _).trans ?_)⟩
    · rw [clearedLog_none hnone]
      rfl
    · rw [clearedLog_one hone]
      rfl
  · intro die v k arr w hon p c
    have hserved := hon.1
    refine ⟨?_, ?_, ?_, ?_⟩
    · intro data width hlive
      have hwrite : ¬ (dead s.m k && decide (arr < 2)) = true := by
        rw [Bool.and_eq_true, decide_eq_true_eq]
        rintro ⟨hdead, h2⟩
        obtain hlive | rfl := hlive
        · rw [hlive] at hdead
          exact Bool.false_ne_true hdead
        · exact absurd h2 (by decide)
      have hwritten := (chkRawWrite_on hon).trans (if_neg hwrite)
      refine ⟨_, runAccess_served hserved (chkRawWrite die.val v), rfl, ?_⟩
      obtain ⟨hp, hsynd⟩ := chkWritten_only arr w data (chkSynOf arr p) c
      have hdata : data < 2 ^ wordBits arr := Nat.mod_lt _ (Nat.two_pow_pos _)
      have hcore : coreAt (accessed (chkRawWrite die.val v) s).m k = chkWritten arr w data (chkSynOf arr p) c := by
        rw [accessed, accessed_m, hwritten]
        exact coreAt_modCore _ _ _
      rw [hcore, hp, hsynd, tget_tset_same]
      refine ⟨?_, rawData_chkWritten hon.arr_lt w hdata _ c, ?_, fun x hx => tget_tset_other _ _ _ hx, rfl, fun j hj => ?_⟩
      · rw [accessed, accessed_m, hwritten]
        exact prot_modProt _ _ _
      · rw [BitVec.toNat_ofNat, Nat.mod_eq_of_lt (chkSynOf_lt arr p)]
        rfl
      · rw [accessed, accessed_m, hwritten]
        exact coreAt_modCore_other _ _ hj
    · intro hdead h2
      exact runAccess_eq hserved ((chkRawWrite_on hon).trans (if_pos (by rw [hdead, decide_eq_true h2]; rfl)))
    · exact runAccess_eq hserved (chkRawRead_on hon)
    · intro hgood
      exact runAccess_eq hserved (chkCheckedRead_on hon hgood)

end Sys2Proof.Spec
end

section
/-! PROOFS. The code words of edge memory as symbols, the checker of edge memory, the logs, tokens and known-answer tests
(R385, R396, R403 to R405, R413 to R415, R425, R436). -/

namespace Sys2Proof.Spec

open Sys2Proof.Machine

/-! ### Symbols of a code word (R385) -/

theorem rsCheck_length (data : List Nat) : (rsCheck data).length = 8 := by
  have hgen : rsGen.length = 8 := by decide +kernel
  have hfold : ∀ (l rem : List Nat), rem.length = 8 → (l.foldl (fun rem d =>
      List.zipWith (fun r g => r ^^^ gmul (d ^^^ rem.headD 0) g) (rem.tail ++ [0]) rsGen) rem).length = 8 := by
    intro l
    induction l with
    | nil => exact fun rem h => h
    | cons d l ih =>
      intro rem h
      rw [List.foldl_cons]
      exact ih _ (by rw [List.length_zipWith, List.length_append, List.length_tail, h, hgen]; rfl)
  exact hfold data _ (by rw [List.length_replicate])

theorem symbols_length (s : Mach) (cw : Nat) : (symbols s cw).length = 40 := by
  simp only [symbols, List.length_append, rdBytes_length, List.length_zipWith, rsCheck_length, ckDiff, List.length_map, List.length_range]
  rfl

theorem symbols_congr {s t : Mach} (hmem : t.edge.mem = s.edge.mem) (hck : t.edge.ck = s.edge.ck) (cw : Nat) :
    symbols t cw = symbols s cw := by
  unfold symbols ckDiff
  rw [hmem, hck]

theorem tget_foldl_tset {n : Nat} (f : Nat → BitVec n) (b i : Nat) (l : List Nat) : ∀ t : Tbl (BitVec n), i ∈ l →
    tget 0 (l.foldl (fun t j => tset 0 t (b + j) (f j)) t) (b + i) = f i := by
  have hkeep : ∀ (l : List Nat) (t : Tbl (BitVec n)), tget 0 t (b + i) = f i →
      tget 0 (l.foldl (fun t j => tset 0 t (b + j) (f j)) t) (b + i) = f i := by
    intro l
    induction l with
    | nil => exact fun t h => h
    | cons j l ih =>
      intro t h
      rw [List.foldl_cons]
      refine ih _ ?_
      by_cases hij : i = j
      · subst hij
        exact tget_tset_same _ _ _ _
      · rw [tget_tset_other _ _ _ (by omega), h]
  induction l with
  | nil => exact fun _ h => absurd h List.not_mem_nil
  | cons j l ih =>
    intro t h
    rw [List.foldl_cons]
    by_cases hl : i ∈ l
    · exact ih _ hl
    · obtain rfl : i = j := (List.mem_cons.1 h).resolve_right hl
      exact hkeep l _ (tget_tset_same _ _ _ _)

/-- The symbols of a code word read as they were stored. -/
theorem symbols_stored {s : Mach} {cw : Nat} {sym : List Byte} {e : Edge} (hlen : sym.length = 40)
    (hmem : s.edge.mem = (storeSymbols cw sym e).mem) (hck : s.edge.ck = (storeSymbols cw sym e).ck) : symbols s cw = sym := by
  have htake : (sym.take 32).length = 32 := by rw [List.length_take, hlen]; rfl
  have hdata : rdBytes s.edge.mem (32 * cw) 32 = sym.take 32 := by
    have hread := rdBytes_wrBytes (sym.take 32) e.mem (32 * cw)
    rw [htake] at hread
    rw [hmem]
    exact hread
  unfold symbols
  dsimp only
  rw [hdata]
  generalize hchk : rsCheck ((sym.take 32).map BitVec.toNat) = chk
  have hchk8 : chk.length = 8 := by rw [← hchk, rsCheck_length]
  have hsyn : ∀ j, j < 8 → tget 0 s.edge.ck (8 * cw + j) = sym.getD (32 + j) 0 ^^^ BitVec.ofNat 8 (chk.getD j 0) := by
    intro j hj
    rw [hck, ← hchk]
    exact tget_foldl_tset (fun j => sym.getD (32 + j) 0 ^^^ BitVec.ofNat 8 ((rsCheck ((sym.take 32).map BitVec.toNat)).getD j 0)) (8 * cw) j
      (List.range 8) e.ck (List.mem_range.2 hj)
  have hdrop : List.zipWith (fun c d => BitVec.ofNat 8 (c ^^^ d)) chk (ckDiff s cw) = sym.drop 32 := by
    refine List.ext_getElem ?_ (fun j h1 h2 => ?_)
    · simp [ckDiff, hchk8, hlen]
    · have hj : j < 8 := by
        rw [List.length_zipWith, hchk8] at h1
        omega
      have hjs : 32 + j < sym.length := by omega
      rw [List.getElem_zipWith, List.getElem_drop]
      simp only [ckDiff, List.getElem_map, List.getElem_range, hsyn j hj]
      rw [List.getD_eq_getElem _ _ hjs, List.getD_eq_getElem _ _ (by omega : j < chk.length), BitVec.ofNat_xor, BitVec.ofNat_toNat,
        BitVec.setWidth_eq, BitVec.xor_comm, BitVec.xor_assoc, BitVec.xor_self, BitVec.xor_zero]
  rw [hdrop, List.take_append_drop]

/-! ### The checker of edge memory (R403, R413) -/

section
variable {s : Mach} {v : Word} {cw : Nat} (h : EdgeCheckerOn s v cw)
include h

theorem edgeChk_on (op : Nat → Nat → Mach → Mach) :
    edgeChk v op s = useUnits 2 (32 * cw) 32 (op cw (fld v 22 6).toNat (modEdge (chkFields v) s)) := by
  obtain ⟨_, hea, hk, hfailed, hkeep, a, hholder, hcode⟩ := h
  unfold edgeChk
  dsimp only
  rw [hea, hfailed, hkeep, hholder]
  rw [if_neg (by
    rintro (h | h | h | h)
    · omega
    · omega
    · exact Bool.false_ne_true h
    · exact Bool.false_ne_true h)]
  dsimp only
  rw [if_pos hcode, Nat.mul_div_cancel_left _ (by decide)]

/-- One symbol of a code word is replaced. -/
def symbolStored (v : Word) (cw : Nat) (s : Mach) (e : Edge) : Edge :=
  known cw (fld v 22 6).toNat (storeSymbols cw ((symbols s cw).set (fld v 22 6).toNat (fld v 8 8)) e)

omit h in
theorem symbolStored_only (v : Word) (cw : Nat) (s : Mach) (e : Edge) :
    (symbolStored v cw s e).mem = (storeSymbols cw ((symbols s cw).set (fld v 22 6).toNat (fld v 8 8)) e).mem ∧
      (symbolStored v cw s e).ck = (storeSymbols cw ((symbols s cw).set (fld v 22 6).toNat (fld v 8 8)) e).ck ∧
      tget 0 (symbolStored v cw s e).poison cw = if (fld v 22 6).toNat < 32 then tget 0 e.poison cw
        else clrBit (tget 0 e.poison cw) ((fld v 22 6).toNat - 32) := by
  unfold symbolStored known
  split
  · exact ⟨rfl, rfl, rfl⟩
  · exact ⟨rfl, rfl, tget_tset_same _ _ _ _⟩

theorem edgeRawWrite_on : ∃ ks, edgeRawWrite v s =
    { s with edge := symbolStored v cw s (chkFields v s.edge), stk := ks } := by
  rw [edgeRawWrite, edgeChk_on h]
  obtain ⟨ks, hdrop⟩ := (dropEdgeWb_stk cw (modEdge (chkFields v) s)).1
  obtain ⟨ks', huse⟩ := useUnits_frame 2 (32 * cw) 32 (modEdge (fun e => known cw (fld v 22 6).toNat (storeSymbols cw
    ((symbols (modEdge (chkFields v) s) cw).set (fld v 22 6).toNat (fld v 8 8)) e)) (dropEdgeWb cw (modEdge (chkFields v) s)))
  refine ⟨ks', huse.trans ?_⟩
  rw [hdrop, symbols_congr (t := modEdge (chkFields v) s) (s := s) rfl rfl]
  rfl

theorem edgeRawRead_on (hknown : (fld v 22 6).toNat < 32 ∨ bit (tget 0 s.edge.poison cw) ((fld v 22 6).toNat - 32) = false) :
    edgeRawRead v s = useUnits 2 (32 * cw) 32 (modEdge (fun e => { e with
      chkRefused := e.chkRefused && !bit v 30, chkPos := fld v 22 6, chkVal := (symbols s cw).getD (fld v 22 6).toNat 0 }) s) := by
  have hread : ¬ (32 ≤ (fld v 22 6).toNat ∧ bit (tget 0 s.edge.poison cw) ((fld v 22 6).toNat - 32) = true) := by
    rintro ⟨h32, hbit⟩
    obtain hlt | hbit' := hknown
    · omega
    · rw [hbit'] at hbit
      exact Bool.false_ne_true hbit
  rw [edgeRawRead, edgeChk_on h]
  refine congrArg (useUnits 2 (32 * cw) 32) ((if_neg hread).trans ?_)
  rw [symbols_congr (t := modEdge (chkFields v) s) (s := s) rfl rfl]
  rfl

theorem edgeCheckedRead_on (hclean : (edgeDecode s cw).2 = .clean) :
    edgeCheckedRead v s = useUnits 2 (32 * cw) 32 (modEdge (fun e => { e with
      chkRefused := e.chkRefused && !bit v 30, chkPos := fld v 22 6, chkVal := fld v 8 8, chkResult := 0 }) s) := by
  have hdecode : (edgeDecode (modEdge (chkFields v) s) cw).2 = .clean := hclean
  rw [edgeCheckedRead, edgeChk_on h]
  dsimp only
  rw [hdecode]
  rfl

end

/-! ### Logs of a stack (R396, R414) -/

/-- EMS_LOGSEL written: the index, the log and the latched entry. -/
def logSelected (v : Word) (l : List (Nat × EdgeLog)) (w : BitVec 128) (k : Stack) : Stack :=
  { k with log := l, logIdx := fld v 0 5, latch := w }

theorem latchFrom_emsLog {st : Nat} (h : st < 32) (old s : Mach) :
    latchFrom (0x10012C + 0x40 * st) old s = modStk st (fun k => { k with latch := (stkAt old st).latch }) s := by
  have hplace : placeOf (0x10012C + 0x40 * st) = .emc (0x12C + 0x40 * st) := by
    unfold placeOf
    repeat rw [if_neg (by omega)]
    rw [if_pos (by omega)]
    exact congrArg Place.emc (by omega)
  have hst : (0x12C + 0x40 * st - 0x100) / 0x40 = st := by omega
  unfold latchFrom
  rw [hplace]
  dsimp only
  rw [if_pos (by omega), hst]

theorem emsLogsel_selects {st : Nat} {v : Word} {s0 s : Mach} (h : st < 32) (hclr : bit v 31 = false) :
    latchFrom (0x10012C + 0x40 * st) (emsLogsel st v s0) (emsLogsel st v s) =
      modStk st (fun k => { k with logIdx := fld v 0 5, latch := edgeLatch (stkAt s0 st) (fld v 0 5).toNat }) s := by
  rw [latchFrom_emsLog h, emsLogsel, emsLogsel, modStk_modStk, stkAt_modStk, hclr]
  rfl

theorem emsLogsel_clears {st : Nat} {v : Word} {s0 s : Mach} {l : List (Nat × EdgeLog)} (h : st < 32)
    (hstart : ∀ e ∈ s0.notes.edges, e.1 ≠ st) (hlog : clearedEdge s st (stkAt s st) = l) :
    latchFrom (0x10012C + 0x40 * st) (emsLogsel st (v ||| 0x80000000) s0) (emsLogsel st (v ||| 0x80000000) s) =
      modStk st (fun k => { k with log := l, logIdx := fld v 0 5, latch := 0 }) s := by
  have hclr : bit (v ||| 0x80000000) 31 = true := by simp [bit]
  have hidx : (fld (v ||| 0x80000000) 0 5 : BitVec 5) = fld v 0 5 := by
    have h0 : BitVec.extractLsb' 0 5 (0x80000000 : Word) = 0#5 := rfl
    rw [fld, fld, BitVec.extractLsb'_or, h0, BitVec.or_zero]
  have hnone : s0.notes.edges.filter (fun e => e.1 == st) = [] := List.filter_eq_nil_iff.2 (fun e he => by simp [hstart e he])
  have hempty : clearedEdge s0 st (stkAt s0 st) = [] := by
    rw [clearedEdge, hnone]
    rfl
  rw [latchFrom_emsLog h, emsLogsel, emsLogsel, modStk_modStk, stkAt_modStk, hclr, hidx]
  dsimp only
  rw [if_pos rfl, hempty]
  refine modStk_congr ?_
  rw [if_pos rfl, hlog]
  rfl

theorem clearedEdge_none {s : Mach} {st : Nat} {k : Stack} (h : ∀ e ∈ s.notes.edges, e.1 ≠ st) : clearedEdge s st k = [] := by
  have hnone : s.notes.edges.filter (fun e => e.1 == st) = [] := List.filter_eq_nil_iff.2 (fun e he => by simp [h e he])
  rw [clearedEdge, hnone]
  rfl

theorem clearedEdge_one {s : Mach} {st : Nat} {k : Stack} {n : EdgeLog} (h : s.notes.edges = [(st, n)]) :
    clearedEdge s st k = [(0, n)] := by
  have hone : s.notes.edges.filter (fun e => e.1 == st) = [(st, n)] := by simp [h]
  have hslot : freeSlot ([] : List (Nat × EdgeLog)) = some 0 := rfl
  rw [clearedEdge, hone]
  simp only [List.foldl_cons, List.foldl_nil, edgeLogEntry, List.find?_nil, hslot, List.nil_append]

/-! ### Tokens (R405) -/

theorem tokenGranted_last {t : Nat} {a : Activity} {rest : List Activity} {s : Mach} (hholder : holderOf s.mnt.acts t = none)
    (hwaits : waiters s.mnt.acts t = a :: rest) (hlast : a.tokens.length = a.held + 1) (h1 : a.code ≠ 1) (h4 : a.code ≠ 4) :
    tokenGranted t s = completeOpt a.owed 0 a.handle.toNat (modMnt (fun x => { x with
      acts := x.acts.filter (fun b => b.handle != a.handle) ++ [{ a with held := a.held + 1 }] }) s) := by
  have hend : ({ a with held := a.held + 1 } : Activity).next = none := by
    simp only [Activity.next, List.head?_eq_none_iff, List.drop_eq_nil_iff]
    omega
  have htake : takeTokens (s.mnt.acts.filter (fun b => b.handle != a.handle)) a.tokens.length { a with held := a.held + 1 } =
      { a with held := a.held + 1 } := by
    rw [hlast, takeTokens, hend]
  have hready : ({ a with held := a.held + 1 } : Activity).ready = true := decide_eq_true (by dsimp only; omega)
  have hcode1 : a.code.toNat ≠ 1 := fun h => h1 (BitVec.eq_of_toNat_eq h)
  have hcode4 : a.code.toNat ≠ 4 := fun h => h4 (BitVec.eq_of_toNat_eq h)
  unfold tokenGranted
  rw [hholder, hwaits]
  dsimp only
  rw [htake, hready, if_pos rfl]
  unfold proceed
  split
  · next h => exact absurd h hcode1
  · next h => exact absurd h hcode4
  · rfl

/-! ### The known-answer test on request (R425, R436) -/

theorem cslCtrl_asks {die : Nat} {v : Word} {s : Mach} (hsec : (dieAt s die).sec.cur = 0) (hbusy : (dieAt s die).csl.busy = false)
    (hpc : (fld v 8 8).toNat < 208) : cslCtrl die (v ||| 1) s =
      modCore (die * 208 + (fld v 8 8).toNat) (fun c => { c with mx := { c.mx with kat := true } })
        (modDie die (fun d => { d with csl := { d.csl with
          refused := d.csl.refused && !bit v 30, kpc := fld v 8 8, busy := true } }) s) := by
  have hkat : bit (v ||| 1) 0 = true := by simp [bit]
  have hclr : bit (v ||| 1) 30 = bit v 30 := by simp [bit]
  have hkpc : (fld (v ||| 1) 8 8 : BitVec 8) = fld v 8 8 := by
    have h0 : BitVec.extractLsb' 8 8 (1 : Word) = 0#8 := rfl
    rw [fld, fld, BitVec.extractLsb'_or, h0, BitVec.or_zero]
  unfold cslCtrl
  dsimp only
  rw [hkat, hclr, hkpc, hsec, hbusy]
  rw [if_neg (by decide), if_neg (by
    rintro (h | h | h)
    · exact h rfl
    · exact Bool.false_ne_true h
    · omega)]
  exact congrArg (modCore _ _) (modDie_modDie die _ _ s)

/-- A known-answer test has ended. -/
def katEnded (pass : Bool) (l : Csl) : Csl :=
  { l with busy := false, result := if pass then 1 else 2, evt := if pass then l.evt else setBit l.evt 4 }

theorem katComplete_busy {die : Nat} {ok : Bool} {s : Mach} (hbusy : (dieAt s die).csl.busy = true) :
    katComplete die ok s =
      let s1 := modCsl die (katEnded ok) (modCore (die * 208 + (dieAt s die).csl.kpc.toNat) (fun c => { c with mx := { c.mx with kat := false } }) s)
      if ok then s1 else raiseIrq 10 (noteRaise (dieReg die 0x8004) 4 s1) := by
  unfold katComplete
  dsimp only
  rw [hbusy, knownAnswer_true, Bool.and_true, if_neg (by decide)]
  rfl

theorem raiseIrq_cause {c : Nat} (hc : c < 13) (s : Mach) : bit (raiseIrq c s).host.irqCause c = true := by
  cases h : bit s.host.irqCause c with
  | true =>
    rw [raiseIrq_raised c s h]
    exact h
  | false =>
    have hset : bit (setBit s.host.irqCause c) c = true := bit_setBit_same _ hc
    cases hm : bit s.host.irqMask c with
    | true =>
      rw [raiseIrq_masked c s h hm]
      exact hset
    | false =>
      rw [raiseIrq_sent c s h hm]
      obtain e | e := sendVector_cases (tget 0 s.host.irqMap c)
        (modHost (fun x => { x with irqCause := setBit x.irqCause c }) (noteRaise 0x10010 c s))
      · rw [e]
        exact hset
      · rw [e]
        exact hset

theorem katComplete_fails {die : Nat} {s : Mach} (hbusy : (dieAt s die).csl.busy = true) :
    Signals (modCsl die (katEnded false) (modCore (die * 208 + (dieAt s die).csl.kpc.toNat) (fun c => { c with mx := { c.mx with kat := false } }) s))
      (katComplete die false s) ∧ bit (katComplete die false s).host.irqCause 10 = true := by
  rw [katComplete_busy hbusy]
  exact ⟨(noteRaise_signals _ _ _).trans (raiseIrq_signals 10 _), raiseIrq_cause (by decide) _⟩

end Sys2Proof.Spec

namespace Sys2Proof.Spec

open Sys2Proof.Machine

/-- Settles O23: the checker acts on the one code word that EdgeCheckerOn names, whose symbols read as they were stored; a log that is
cleared keeps the errors noted in the cycle; a token that is granted last leaves its activity with all it needs. -/
theorem edgeChecksTokensAndKnownAnswers : Obligations.EdgeChecksTokensAndKnownAnswers := by
  unfold Obligations.EdgeChecksTokensAndKnownAnswers
  intro s
  refine ⟨?_, ?_, ?_, ?_, ?_, ?_⟩
  · intro st v hserved
    refine ⟨fun hclr => ?_, ?_⟩
    · exact (runSelect_served hserved _).trans (congrArg (fun m => Host.Outcome.next (s.accessed m)) (emsLogsel_selects st.isLt hclr))
    intro hstart cleared
    refine ⟨fun hnone => ?_, fun n hone => ?_⟩
    · exact (runSelect_served hserved _).trans (congrArg (fun m => Host.Outcome.next (s.accessed m))
        (emsLogsel_clears st.isLt hstart (clearedEdge_none hnone)))
    · exact (runSelect_served hserved _).trans (congrArg (fun m => Host.Outcome.next (s.accessed m))
        (emsLogsel_clears st.isLt hstart (clearedEdge_one hone)))
  · intro v cw hon i set
    have hserved := hon.1
    refine ⟨?_, fun hknown => runAccess_eq hserved (edgeRawRead_on hon hknown), fun hclean => runAccess_eq hserved (edgeCheckedRead_on hon hclean)⟩
    obtain ⟨ks, hwrite⟩ := edgeRawWrite_on hon
    obtain ⟨hmem, hck, hpoison⟩ := symbolStored_only v cw s.m (chkFields v s.m.edge)
    refine ⟨_, runAccess_served hserved (edgeRawWrite v), rfl, ?_⟩
    rw [accessed, accessed_m, hwrite]
    refine ⟨symbols_stored (by rw [List.length_set, symbols_length]) hmem hck, hpoison, fun a ha => ?_, rfl⟩
    refine (congrArg (fun m => rd m a) hmem).trans (rd_wrBytes_outside _ _ _ _ ?_)
    rw [List.length_take, List.length_set, symbols_length]
    omega
  · intro v hserved
    exact (runSelect_served hserved (mntSel v)).trans rfl
  · intro tok a rest hholder hwaits hlast h1 h4
    exact run_eq_after (tokenGranted_last hholder hwaits hlast h1 h4)
  · intro die v hserved hsec hbusy hpc
    exact runAccess_eq hserved (cslCtrl_asks hsec hbusy hpc)
  · intro die hbusy l
    refine ⟨run_eq_after (katComplete_busy hbusy), ?_⟩
    obtain ⟨hsignals, hcause⟩ := katComplete_fails hbusy
    obtain ⟨hrun, hpending, hm⟩ := runs_to (hsignals.now.trans rfl)
    refine ⟨_, hrun, hpending, ?_⟩
    rw [hm]
    refine ⟨?_, hcause⟩
    exact congrArg Die.csl ((hsignals.dieAt _).trans (dieAt_modDie die.val _ _))

end Sys2Proof.Spec
end

section
/-! PROOFS. The digests of twins in lockstep (R428, R429, R438). -/

namespace Sys2Proof.Spec

open Sys2Proof.Machine

theorem lsEvt_signals (b : Nat) (s : Mach) : Signals (modLs (fun l => { l with evt := setBit l.evt b }) s) (lsEvt b s) :=
  (noteRaise_signals _ _ _).trans (raiseIrq_signals 7 _)

/-- The lockstep block after the twin's digest of a round differs (R429). -/
def diverged (m : BitVec 48) (dig : BitVec 64) (l : Lockstep) : Lockstep :=
  { l with twin := dig, evt := setBit l.evt 0, firstValid := true, first := if l.firstValid then l.first else m.setWidth 32,
           stopped := l.stopped || l.stop }

/-- The first divergence is named, and the cores stop if they are to. -/
def divergence (m : BitVec 48) (l : Lockstep) : Lockstep :=
  { l with first := if l.firstValid then l.first else m.setWidth 32, firstValid := true, stopped := l.stopped || l.stop }

theorem lsCompare_same {own dig : BitVec 64} (h : own = dig) (m : BitVec 48) (s : Mach) :
    lsCompare m own dig s = modLs (fun l => { l with twin := dig }) s := if_pos h

theorem lsCompare_differs {own dig : BitVec 64} (h : own ≠ dig) (m : BitVec 48) (s : Mach) :
    (lsCompare m own dig s).now = s.now ∧ (lsCompare m own dig s).ls = diverged m dig s.ls := by
  unfold lsCompare
  dsimp only
  rw [if_neg h]
  have hevt := lsEvt_signals 0 (modLs (divergence m) (modLs (fun l => { l with twin := dig }) s))
  simp only [logAt, modLed_frame]
  exact ⟨hevt.now, hevt.ls⟩

section
variable {p : Nat} {r : Word} {dig : BitVec 64} {s : Mach} (hcompare : comparing s = true) (htwin : twinPort p = true)
  (hactive : portActive s p = true)
include hcompare htwin hactive

theorem lockstepDigest_awaited {m : BitVec 48} {own : BitVec 64} {n : Nat} (hawait : s.ls.await = [(m, own, n)])
    (hround : m.setWidth 32 = r) (hn : n < 2) :
    lockstepDigest p r dig s = lsCompare m own dig (modLs (fun l => { l with await := [] }) s) := by
  have hfind : s.ls.await.find? (lsOpen r) = some (m, own, n) := by
    rw [hawait]
    simp [lsOpen, hround, hn]
  have hrest : modLs (fun l => { l with await := l.await.filter (· != (m, own, n)) }) s = modLs (fun l => { l with await := [] }) s := by
    simp [modLs, hawait]
  unfold lockstepDigest
  rw [hcompare, htwin, hactive, if_neg (by decide), hfind]
  exact congrArg (lsCompare m own dig) hrest

theorem lockstepDigest_early (hawait : s.ls.await = []) (hearly : s.ls.early = []) (hahead : lsAhead s r = true) :
    lockstepDigest p r dig s = modLs (fun l => { l with early := [(r, dig)] }) s := by
  unfold lockstepDigest
  rw [hcompare, htwin, hactive, if_neg (by decide), hawait, List.find?_nil]
  dsimp only
  rw [hahead, hearly, List.any_nil, if_pos (by decide)]
  simp only [modLs, hearly, List.nil_append]

end

theorem lockstepMissing_raises {s : Mach} (h : ∃ e ∈ s.ls.await, 2 ≤ e.2.2) :
    lockstepMissing s = lsEvt 1 (modLs (fun l => { l with await := l.await.filter (fun e => decide (e.2.2 < 2)) }) s) := by
  obtain ⟨e, he, h2⟩ := h
  exact if_pos (List.any_eq_true.2 ⟨e, he, decide_eq_true h2⟩)

theorem lsCtrl_clr (v : Word) (s : Mach) : lsCtrl (v ||| 2) s = modLs (fun l => { l with stop := bit v 0, firstValid := false }) s := by
  have hstop : bit (v ||| 2) 0 = bit v 0 := by simp [bit]
  have hclr : bit (v ||| 2) 1 = true := by simp [bit]
  simp only [lsCtrl, hstop, hclr, Bool.not_true, Bool.and_false]

end Sys2Proof.Spec

namespace Sys2Proof.Spec

open Sys2Proof.Machine

/-- Settles O24: a copy of the twin's digest is compared with the one digest that awaits it, or kept where none does. -/
theorem twinsAreComparedInLockstep : Obligations.TwinsAreComparedInLockstep := by
  unfold Obligations.TwinsAreComparedInLockstep
  intro s
  refine ⟨?_, ?_, ?_⟩
  · intro pf r dig hcompare htwin hactive
    refine ⟨fun m own n hawait hround hn => ?_, fun hawait hearly hahead => run_eq_after (lockstepDigest_early hcompare htwin hactive hawait hearly hahead)⟩
    have htaken := lockstepDigest_awaited (dig := dig) hcompare htwin hactive hawait hround hn
    refine ⟨fun hsame => run_eq_after (htaken.trans (lsCompare_same hsame _ _)), fun hdiffer => ?_⟩
    obtain ⟨hnow, hls⟩ := lsCompare_differs hdiffer m (modLs (fun l => { l with await := [] }) s.m)
    rw [← htaken] at hnow hls
    obtain ⟨hrun, hpending, hm⟩ := runs_to (f := lockstepDigest pf.val r dig) hnow
    exact ⟨_, hrun, hpending, by rw [hm, hls]; rfl⟩
  · intro hold
    have hsignals := lsEvt_signals 1 (modLs (fun l => { l with await := l.await.filter (fun e => decide (e.2.2 < 2)) }) s.m)
    rw [← lockstepMissing_raises hold] at hsignals
    obtain ⟨hrun, hpending, hm⟩ := runs_to (f := lockstepMissing) hsignals.now
    exact ⟨_, hrun, hpending, by rw [hm]; exact hsignals.ls⟩
  · intro v hserved
    exact runAccess_eq hserved (lsCtrl_clr v s.m)

end Sys2Proof.Spec
end

section
/-! PROOFS. Keep messages of this module, and the ends of seals, sessions and restores (R442 to R447, R456). -/

namespace Sys2Proof.Spec

open Sys2Proof.Machine

/-! ### Arrival (R443) -/

theorem keepArrive_own {p : Nat} {m : Msg} {own : Mach → Mach} {s : Mach} (h : KeepMine s p (msgDst m)) : keepArrive p m own s = own s := by
  obtain ⟨hactive, hassigned, hdst⟩ := h
  simp [keepArrive, hactive, isOwn, hassigned, hdst]

theorem keepPeer_keeper {s : Mach} {g : Keeping} {src w : BitVec 16} {sepoch : Word} (h : Keeps s g src sepoch w) :
    keepPeer s src sepoch w = some (.inl g) := by
  obtain ⟨hkeeping, hpeer, hepoch, hreserved, hdir, _⟩ := h
  unfold keepPeer
  rw [if_neg (not_not.2 hreserved), hkeeping]
  exact if_pos ⟨hpeer, hepoch, by rw [hdir]; rfl⟩

theorem modKeep_congr {f g : Keep → Keep} {s : Mach} (h : f s.keep = g s.keep) : modKeep f s = modKeep g s := by
  simp only [modKeep, h]

theorem modKeeping_some {g : Keeping} {s : Mach} (h : s.keep.keeping = some g) (f : Keeping → Keeping) :
    modKeeping f s = modKeep (fun k => { k with keeping := some (f g) }) s := by
  refine modKeep_congr ?_
  rw [h]
  rfl

/-! ### A keep write of the sealer (R439, R440, R445) -/

theorem kmStack_lt (w : BitVec 16) : kmStack w < 32 := (fld w 0 5).isLt

/-- A range of a slot area lies in one stack. -/
theorem slotEa_stack {slot : Bool} {st off n : Nat} (h : off + n ≤ 2 ^ 33) (hn : 1 ≤ n) :
    stackOf (slotEa slot st off) = st ∧ stackOf (slotEa slot st off + n - 1) = st := by
  simp only [stackOf, slotEa]
  cases slot
  · simp only [Bool.false_eq_true, if_false]
    omega
  · simp only [if_true]
    omega

theorem slotEa_aligned {slot : Bool} {st off : Nat} (h : off % 32 = 0) : slotEa slot st off % 32 = 0 := by
  simp only [slotEa]
  cases slot
  · simp only [Bool.false_eq_true, if_false]
    omega
  · simp only [if_true]
    omega

theorem keepTakeWrite_kept {p : Nat} {m : RWriteMsg} {g : Keeping} {s : Mach} (hkeeps : Keeps s g m.src m.sepoch m.window)
    (hopened : g.opened = true) (hoff : m.offset.toNat % 32 = 0) (hlen : m.data.length % 32 = 0)
    (hlim : m.offset.toNat + m.data.length ≤ 2 ^ 33) (hout : stackOut s (kmStack m.window) = false) :
    keepTakeWrite p m s = keeperWrite g m s := by
  have hslot : kmSlot m.window = g.slot := hkeeps.2.2.2.2.2
  have hcause : keepWriteCause s m (2 ^ 33) = 0 := by
    unfold keepWriteCause
    rw [if_neg (by omega), hout]
    rfl
  have hopen : (!g.opened || kmSlot m.window != g.slot) = false := by simp [hopened, hslot]
  unfold keepTakeWrite
  rw [keepPeer_keeper hkeeps]
  dsimp only
  rw [hopen, if_neg Bool.false_ne_true, hcause]
  rfl

/-- What the keeper counts of a write. -/
def writeKept (m : RWriteMsg) (g : Keeping) : Keeping :=
  if kmStack m.window ≠ 0 ∨ headBytes ≤ m.offset.toNat then
    { g with started := true, got := g.got + m.data.length, crcs := addCrc (kmStack m.window) m.data g.crcs }
  else { g with started := true }

theorem writeKept_ask (m : RWriteMsg) (g : Keeping) : (writeKept m g).ask = g.ask := by
  unfold writeKept
  split <;> rfl

theorem keeperWrite_stores {g : Keeping} {m : RWriteMsg} {s : Mach} (hwf : m.wf = true) (hkeeping : s.keep.keeping = some g)
    (hask : g.ask = none) (hoff : m.offset.toNat % 32 = 0) (hlen : m.data.length % 32 = 0)
    (hlim : m.offset.toNat + m.data.length ≤ 2 ^ 33) (hret : (stkAt s (kmStack m.window)).retQ = 0x3F) :
    ∃ e tr ks, keeperWrite g m s =
      { s with edge := e, trn := tr, stk := ks, keep := { s.keep with keeping := some (writeKept m g) } } ∧
      e.mem = wrBytes s.edge.mem (slotEa g.slot (kmStack m.window) m.offset.toNat) m.data := by
  have hpos : 1 ≤ m.data.length := by
    simp only [RWriteMsg.wf, Bool.and_eq_true, decide_eq_true_eq] at hwf
    omega
  obtain ⟨hst, hend⟩ := slotEa_stack (slot := g.slot) (st := kmStack m.window) hlim hpos
  have hs1 := modKeeping_some hkeeping (writeKept m)
  obtain ⟨⟨e, tr, ks, hstore, hmem, _⟩, _⟩ := writeEdge_stored (s := modKeeping (writeKept m) s)
    (ea := slotEa g.slot (kmStack m.window) m.offset.toNat) (slotEa_aligned hoff) hlen (by rw [hend, hst]) (by rw [hst]; exact hret)
  obtain ⟨ks', huse⟩ := useUnits_frame 2 (slotEa g.slot (kmStack m.window) m.offset.toNat) m.data.length
    (writeEdge (slotEa g.slot (kmStack m.window) m.offset.toNat) m.data (modKeeping (writeKept m) s))
  have hall : useUnits 2 (slotEa g.slot (kmStack m.window) m.offset.toNat) m.data.length
      (writeEdge (slotEa g.slot (kmStack m.window) m.offset.toNat) m.data (modKeeping (writeKept m) s)) =
      { s with edge := e, trn := tr, stk := ks', keep := { s.keep with keeping := some (writeKept m g) } } := by
    rw [huse, hstore, hs1]
    rfl
  refine ⟨e, tr, ks', ?_, hmem⟩
  have hwrite : keeperWrite g m s = answerCheck (useUnits 2 (slotEa g.slot (kmStack m.window) m.offset.toNat) m.data.length
    (writeEdge (slotEa g.slot (kmStack m.window) m.offset.toNat) m.data (modKeeping (writeKept m) s))) := rfl
  rw [hwrite, hall]
  unfold answerCheck
  dsimp only
  rw [writeKept_ask, hask]

/-! ### A keep read of the sealer (R445) -/

theorem keepTakeRead_opens {m : RReadMsg} {g : Keeping} {s : Mach} (hkeeps : Keeps s g m.src m.sepoch m.window) (hopened : g.opened = false)
    (hask : g.ask = none) : keepTakeRead m s =
      slotEvent 0 g.slot s.trn.step (slotOf s.keep g.slot).id (slotOf s.keep g.slot).serial
        (modKeep (fun k => { k with keeping := some { g with started := true, ask := some (.opened, m), need := 0 } }) s) := by
  have hslot : kmSlot m.window = g.slot := hkeeps.2.2.2.2.2
  have htake : (g.ask.isSome || kmSlot m.window != g.slot) = false := by simp [hask, hslot]
  unfold keepTakeRead
  dsimp only
  rw [keepPeer_keeper hkeeps]
  dsimp only
  rw [htake, if_neg Bool.false_ne_true]
  unfold keeperRead
  dsimp only
  rw [if_pos (by rw [hopened]; rfl), modKeeping_some hkeeps.1]

/-! ### The keeper's answers (R445) -/

theorem keepTakeData_seal {m : RDataMsg} {x : Seal} {s : Mach} (hseal : s.keep.sealing = some x) (hpeer : x.peer = m.src)
    (hrid : x.rid = m.rid) (hstage : x.stage ≠ .armed) : keepTakeData m s = sealAdvance x (m.status.toNat % 128) m.data s := by
  unfold keepTakeData
  rw [hseal]
  exact if_pos ⟨hpeer, hrid, hstage⟩

theorem keepSend_ports (id : BitVec 16) (stack : Nat) (m : Msg) (s : Mach) : ∃ ps, keepSend id stack m s = { s with ports := ps } := by
  unfold keepSend
  split
  · exact ⟨_, rfl⟩
  · exact ⟨s.ports, rfl⟩

theorem keepRead_frame (id : BitVec 16) (slot : Bool) (s : Mach) : ∃ ps, keepRead id slot s =
    { s with ports := ps, rmt := { s.rmt with nextRid := s.rmt.nextRid + 1 } } := by
  obtain ⟨ps, h⟩ := keepSend_ports id 0 (.rread
    { src := s.ctl.id, dst := id, window := keepWin false slot 0, offset := 0, sepoch := s.epoch, stag := 0,
      round := (roundNow s).setWidth 16, hops := 0, len8 := 24, rid := s.rmt.nextRid })
    (modRmt (fun r => { r with nextRid := r.nextRid + 1 }) s)
  exact ⟨ps, h⟩

theorem sealAdvance_refused {x : Seal} {data : List Byte} {s : Mach} (hstage : x.stage = .opening) (hsecond : x.second = false) :
    ∃ ps, sealAdvance x 3 data s = { s with
      ports := ps, rmt := { s.rmt with nextRid := s.rmt.nextRid + 1 }
      keep := { s.keep with sealing := some { x with slot := !x.slot, second := true, rid := s.rmt.nextRid } } } := by
  have hask : sealAdvance x 3 data s = askOther x s := if_pos ⟨rfl, hstage, by rw [hsecond]; rfl⟩
  obtain ⟨ps, h⟩ := keepRead_frame x.peer (!x.slot) (modKeep (fun k => { k with
    sealing := some { x with slot := !x.slot, second := true, rid := s.rmt.nextRid } }) s)
  exact ⟨ps, hask.trans h⟩

theorem sealAdvance_committing {x : Seal} {data : List Byte} {s : Mach} (hstage : x.stage = .committing) :
    sealAdvance x 0 data s = slotEvent 1 x.slot (BitVec.ofNat 32 (numAt x.header 4 4)) s.ctl.id s.start.serial
      (modKeep (fun k => { k with sealing := some { x with stage := .recording } }) s) := by
  unfold sealAdvance
  rw [if_neg (fun h => absurd h.1 (by decide)), if_neg (not_not.2 rfl), hstage]

end Sys2Proof.Spec

namespace Sys2Proof.Spec

open Sys2Proof.Machine

/-- Settles O25: a keep write lies in one stack of the keep region and is stored as a run of code words; each answer of the keeper takes
the branch of its stage. -/
theorem keepMessagesDriveTheSeal : Obligations.KeepMessagesDriveTheSeal := by
  unfold Obligations.KeepMessagesDriveTheSeal
  intro pf s p
  refine ⟨?_, ?_, ?_, ?_⟩
  · intro m g st ea n hwf hmine hkeeps hopened hask hoff hlen hlim hout hret
    have harrive : keepRwriteArrive p m s.m = keeperWrite g m s.m :=
      (keepArrive_own hmine).trans (keepTakeWrite_kept hkeeps hopened hoff hlen hlim hout)
    obtain ⟨e, tr, ks, hstored, hmem⟩ := keeperWrite_stores hwf hkeeps.1 hask hoff hlen hlim hret
    have hall := harrive.trans hstored
    have hnow : (keepRwriteArrive p m s.m).now = s.m.now := by rw [hall]
    obtain ⟨hrun, hpending, hm⟩ := runs_to hnow
    refine ⟨_, (if_pos hwf).trans hrun, hpending, ?_⟩
    rw [hm, hall]
    refine ⟨?_, fun a ha => ?_, rfl, rfl⟩
    · rw [hmem]
      exact rdBytes_wrBytes m.data s.m.edge.mem ea
    · rw [hmem]
      exact rd_wrBytes_outside _ _ _ _ ha
  · intro m g hwf hmine hkeeps hopened hask
    exact (if_pos hwf).trans (run_eq_after ((keepArrive_own hmine).trans (keepTakeRead_opens hkeeps hopened hask)))
  · intro m x hwf hmine hseal hpeer hrid hstage hsecond hstatus
    have harrive : keepRdataArrive p m s.m = sealAdvance x (m.status.toNat % 128) m.data s.m :=
      (keepArrive_own hmine).trans (keepTakeData_seal hseal hpeer hrid (by rw [hstage]; decide))
    obtain ⟨ps, hask⟩ := sealAdvance_refused (data := m.data) (s := s.m) hstage hsecond
    rw [hstatus] at harrive
    have hall := harrive.trans hask
    have hnow : (keepRdataArrive p m s.m).now = s.m.now := by rw [hall]
    obtain ⟨hrun, hpending, hm⟩ := runs_to hnow
    refine ⟨_, (if_pos hwf).trans hrun, hpending, ?_⟩
    rw [hm, hall]
    exact ⟨rfl, rfl⟩
  · intro m x hwf hmine hseal hpeer hrid hstage hstatus
    have harrive : keepRdataArrive p m s.m = sealAdvance x (m.status.toNat % 128) m.data s.m :=
      (keepArrive_own hmine).trans (keepTakeData_seal hseal hpeer hrid (by rw [hstage]; decide))
    rw [hstatus] at harrive
    exact (if_pos hwf).trans (run_eq_after (harrive.trans (sealAdvance_committing hstage)))

end Sys2Proof.Spec
end

section
/-! PROOFS. The ends of seals, sessions of a keeper and restores when a peer or energy is late (R447). -/

namespace Sys2Proof.Spec

open Sys2Proof.Machine

/-- Only the keep block, the ledger, the notes of the cycle, the host block and what leaves the module differ. -/
def KeepEnded (s t : Mach) : Prop := ∃ n h o l k, t = { s with notes := n, host := h, out := o, led := l, keep := k }

namespace KeepEnded

variable {s t u : Mach}

theorem refl (s : Mach) : KeepEnded s s := ⟨s.notes, s.host, s.out, s.led, s.keep, rfl⟩

theorem trans (h : KeepEnded s t) (h' : KeepEnded t u) : KeepEnded s u := by
  obtain ⟨_, _, _, _, _, rfl⟩ := h
  obtain ⟨_, _, _, _, _, rfl⟩ := h'
  exact ⟨_, _, _, _, _, rfl⟩

theorem frame (h : KeepEnded s t) : t.now = s.now ∧ t.edge = s.edge ∧ t.cores = s.cores := by
  obtain ⟨_, _, _, _, _, rfl⟩ := h
  exact ⟨rfl, rfl, rfl⟩

end KeepEnded

theorem Signals.keepEnded {s t : Mach} (h : Signals s t) : KeepEnded s t := by
  obtain ⟨n, h, o, rfl⟩ := h
  exact ⟨n, h, o, s.led, s.keep, rfl⟩

theorem modKeep_keepEnded (f : Keep → Keep) (s : Mach) : KeepEnded s (modKeep f s) := ⟨s.notes, s.host, s.out, s.led, _, rfl⟩

theorem modLed_keepEnded (f : Ledger → Ledger) (s : Mach) : KeepEnded s (modLed f s) := ⟨s.notes, s.host, s.out, _, s.keep, rfl⟩

theorem uncorrected_keepEnded (cls : Nat) (s : Mach) : KeepEnded s (uncorrected cls s) :=
  (modKeep_keepEnded _ s).trans (uncorrected_signals cls s).keepEnded

/-- What a fault leaves of the keep block. -/
theorem faultKept_frame (s : Mach) (cls : Nat) (k : Keep) : (faultKept s cls k).faulted = true ∧ (faultKept s cls k).holdNext = true ∧
    (faultKept s cls k).sealing = k.sealing ∧ (faultKept s cls k).keeping = k.keeping ∧ (faultKept s cls k).rest = k.rest ∧
    (faultKept s cls k).serve = k.serve ∧ (faultKept s cls k).sealStatus = k.sealStatus ∧ (faultKept s cls k).slotA = k.slotA ∧
    (faultKept s cls k).slotB = k.slotB := by
  unfold faultKept
  split <;> exact ⟨rfl, rfl, rfl, rfl, rfl, rfl, rfl, rfl, rfl⟩

theorem uncorrected_rings (cls : Nat) (s : Mach) : (uncorrected cls s).host.rings = s.host.rings := raiseIrq_rings 8 _

/-- A seal that failed is on record, an uncorrected fault. -/
def SealFailed (s t : Mach) : Prop :=
  KeepEnded s t ∧ t.keep = faultKept s 0x51 s.keep ∧ t.host.rings = s.host.rings ∧
    ∀ e ∈ t.led.protQ, e ∈ s.led.protQ ∨ e.cls = 0x51

theorem queueEvent_protQ (e : Event) (l : Ledger) : ∀ x ∈ (queueEvent e l).protQ, x ∈ l.protQ ∨ x = e := by
  intro x hx
  obtain ⟨_, _, h⟩ | ⟨_, _, h⟩ | ⟨_, _, h⟩ | ⟨_, _, h⟩ := queueEvent_cases e l
  · rw [h] at hx
    exact (List.mem_append.1 hx).imp_right List.mem_singleton.1
  · rw [h] at hx
    exact Or.inl hx
  · rw [h] at hx
    exact Or.inl hx
  · rw [h] at hx
    exact Or.inl hx

theorem sealRecord_failed {st : Nat} (h0 : st ≠ 0) (h8 : st ≠ 8) (step : Word) (s : Mach) : SealFailed s (sealRecord st step s) := by
  have hfailed : (st != 0 && st != 8) = true := by simp [h0, h8]
  have hrecord : sealRecord st step s = uncorrected 0x51 (logModule 0x51 1 (bytesOf (BitVec.ofNat 32 (256 * st)) ++ bytesOf step) s) := by
    unfold sealRecord
    dsimp only
    rw [hfailed]
    rfl
  rw [hrecord]
  obtain ⟨n, h, o, hunc⟩ := uncorrected_signals 0x51 (logModule 0x51 1 (bytesOf (BitVec.ofNat 32 (256 * st)) ++ bytesOf step) s)
  refine ⟨(modLed_keepEnded _ s).trans (uncorrected_keepEnded 0x51 _), ?_, uncorrected_rings 0x51 _, fun e he => ?_⟩
  · rw [hunc]
    rfl
  · rw [hunc] at he
    obtain he | rfl := queueEvent_protQ _ _ e he
    · exact Or.inl he
    · exact Or.inr rfl

/-- A command that completes leaves those that run. -/
theorem complete_cmds (o : Owed) (st det : Nat) (s : Mach) :
    (ringAt (complete o st det s) o.ring).cmds = (ringAt s o.ring).cmds.filter (fun c => c.tok != o.tok) := by
  unfold complete
  rw [ringAt_modRing]
  split
  · next h =>
    refine (List.filter_eq_self.2 (fun c hc => ?_)).symm
    have := List.find?_eq_none.1 h c hc
    simpa using this
  · rfl

/-! ### A seal, a keeper's session and a restore end -/

/-- The seal has ended with a code. -/
def sealOver (st : Nat) (step : Word) (k : Keep) : Keep := { k with sealing := none, sealStatus := BitVec.ofNat 8 st, sealStep := step }

theorem endSeal_failed {st : Nat} (h0 : st ≠ 0) (h8 : st ≠ 8) {x : Seal} {s : Mach} (hseal : s.keep.sealing = some x) :
    KeepEnded s (endSeal st s) ∧ (∃ step u, (endSeal st s).keep = faultKept u 0x51 (sealOver st step s.keep)) ∧
      (∀ e ∈ (endSeal st s).led.protQ, e ∈ s.led.protQ ∨ e.cls = 0x51) ∧
      (ringAt (endSeal st s) x.owed.ring).cmds = (ringAt s x.owed.ring).cmds.filter (fun c => c.tok != x.owed.tok) := by
  unfold endSeal
  rw [hseal]
  dsimp only
  generalize (if x.header.isEmpty then s.keep.sealStep else BitVec.ofNat 32 (numAt x.header 4 4)) = step
  obtain ⟨hended, hkeep, hrings, hprot⟩ := sealRecord_failed h0 h8 step (modKeep (sealOver st step) s)
  have hcmds := complete_cmds x.owed (keepStatus st) (st + 2 ^ 32 * step.toNat) (sealRecord st step (modKeep (sealOver st step) s))
  have hcomplete := complete_signals x.owed (keepStatus st) (st + 2 ^ 32 * step.toNat) (sealRecord st step (modKeep (sealOver st step) s))
  have hraise := raiseIrq_signals 8 (complete x.owed (keepStatus st) (st + 2 ^ 32 * step.toNat) (sealRecord st step (modKeep (sealOver st step) s)))
  have hraised := raiseIrq_rings 8 (complete x.owed (keepStatus st) (st + 2 ^ 32 * step.toNat) (sealRecord st step (modKeep (sealOver st step) s)))
  have hboth := hcomplete.trans hraise
  refine ⟨((modKeep_keepEnded (sealOver st step) s).trans hended).trans hboth.keepEnded,
    ⟨step, modKeep (sealOver st step) s, hboth.keep.trans hkeep⟩, fun e he => ?_, ?_⟩
  · exact hprot e ((congrArg (fun l => e ∈ l.protQ) hboth.led).mp he)
  · refine (congrArg (fun r => (tget Ring.reset r x.owed.ring).cmds) hraised).trans (hcmds.trans ?_)
    exact congrArg (fun r => (tget Ring.reset r x.owed.ring).cmds.filter (fun c => c.tok != x.owed.tok)) hrings

theorem endKeeping_failed {st : Nat} (h0 : st ≠ 0) (h8 : st ≠ 8) {g : Keeping} {s : Mach} (h : s.keep.keeping = some g) :
    KeepEnded s (endKeeping st s) ∧ ∃ u, (endKeeping st s).keep = faultKept u 0x51 { s.keep with keeping := none } := by
  unfold endKeeping
  rw [h]
  dsimp only
  obtain ⟨hended, hkeep, _, _⟩ := sealRecord_failed h0 h8 0 (modKeep (fun k => { k with keeping := none }) s)
  exact ⟨(modKeep_keepEnded _ s).trans hended, _, hkeep⟩

/-- The keep block once a restore has ended with a code. -/
def restOver (st : Nat) (k : Keep) : Keep :=
  { k with rest := none, restStatus := BitVec.ofNat 8 st, armBad := k.armBad || st != 0, staging := [] }

theorem endRestore_ends {st : Nat} {x : Restore} {s : Mach} (h : s.keep.rest = some x) :
    KeepEnded s (endRestore st s) ∧ (endRestore st s).keep = restOver st s.keep := by
  unfold endRestore
  rw [h]
  dsimp only
  have hboth := (complete_signals x.owed (keepStatus st) st (restRecord x.step x.keeper (modKeep (restOver st) s))).trans (raiseIrq_signals 8 _)
  exact ⟨((modKeep_keepEnded _ s).trans (modLed_keepEnded _ _)).trans hboth.keepEnded, hboth.keep⟩

theorem endRestore_none {st : Nat} {s : Mach} (h : s.keep.rest = none) : endRestore st s = s := by
  unfold endRestore
  rw [h]

/-- The keep block once a restore as keeper has ended. -/
def serveOver (k : Keep) : Keep := { k with serve := none }

theorem endServe_ends (st : Nat) (s : Mach) : KeepEnded s (endServe st s) ∧ (endServe st s).keep = serveOver s.keep := by
  unfold endServe
  split
  · next h =>
    refine ⟨KeepEnded.refl s, ?_⟩
    unfold serveOver
    rw [← h]
  · next x h =>
    have hboth := (complete_signals x.owed (keepStatus st) st (modKeep serveOver s)).trans (raiseIrq_signals 8 _)
    exact ⟨(modKeep_keepEnded _ s).trans hboth.keepEnded, hboth.keep⟩

/-- A restore, if one runs, ends: of the rest of the keep block nothing that a seal or a session shows changes. -/
theorem endRestore_keeps (st : Nat) (s : Mach) : KeepEnded s (endRestore st s) ∧
    (endRestore st s).keep.sealing = s.keep.sealing ∧ (endRestore st s).keep.sealStatus = s.keep.sealStatus ∧
    (endRestore st s).keep.faulted = s.keep.faulted := by
  cases h : s.keep.rest with
  | none =>
    rw [endRestore_none h]
    exact ⟨KeepEnded.refl s, rfl, rfl, rfl⟩
  | some x =>
    obtain ⟨hended, hkeep⟩ := endRestore_ends (st := st) h
    rw [hkeep]
    exact ⟨hended, rfl, rfl, rfl⟩

/-! ### The time-outs (R447) -/

theorem sealArmed_none {s : Mach} (h : s.keep.sealing = none) : sealArmed s = false ∧ sealWaits s = false := by
  simp only [sealArmed, sealWaits, h, and_self]

theorem timeout_keeping {g : Keeping} {s : Mach} (hseal : s.keep.sealing = none) (hkeeping : s.keep.keeping = some g)
    (hrest : s.keep.rest = none) : sealSessionTimeout s = endServe 3 (endKeeping 3 s) := by
  obtain ⟨harmed, hwaits⟩ := sealArmed_none hseal
  obtain ⟨_, u, hkeep⟩ := endKeeping_failed (st := 3) (by decide) (by decide) hkeeping
  have hnone : (endKeeping 3 s).keep.rest = none := by
    rw [hkeep, (faultKept_frame u 0x51 _).2.2.2.2.1]
    exact hrest
  unfold sealSessionTimeout
  dsimp only
  rw [harmed, hwaits, if_neg Bool.false_ne_true, if_neg Bool.false_ne_true, hkeeping]
  dsimp only
  rw [endRestore_none hnone]

theorem timeout_sealing {x : Seal} {s : Mach} (hseal : s.keep.sealing = some x) (harmed : x.stage ≠ .armed) (hrecording : x.stage ≠ .recording)
    (hkeeping : s.keep.keeping = none) : sealSessionTimeout s = endServe 3 (endRestore 3 (endSeal 3 s)) := by
  have harm : sealArmed s = false := by simp [sealArmed, hseal, harmed]
  have hwait : sealWaits s = true := by simp [sealWaits, hseal, harmed, hrecording]
  obtain ⟨_, ⟨step, u, hkeep⟩, _, _⟩ := endSeal_failed (st := 3) (by decide) (by decide) hseal
  have hnone : (endSeal 3 s).keep.keeping = none := by
    rw [hkeep, (faultKept_frame u 0x51 _).2.2.2.1]
    exact hkeeping
  unfold sealSessionTimeout
  dsimp only
  rw [harm, hwait, if_neg Bool.false_ne_true, if_pos rfl, hnone]

theorem timeout_restore {s : Mach} (hseal : s.keep.sealing = none) (hkeeping : s.keep.keeping = none) :
    sealSessionTimeout s = endServe 3 (endRestore 3 s) := by
  obtain ⟨harmed, hwaits⟩ := sealArmed_none hseal
  unfold sealSessionTimeout
  dsimp only
  rw [harmed, hwaits, if_neg Bool.false_ne_true, if_neg Bool.false_ne_true, hkeeping]

/-- The records of a seal that ends are dropped: what waits in power is no more, and no open or commit record is queued. -/
theorem dropSlotWrites_frame (s : Mach) : (∃ p, dropSlotWrites s = { s with pwr := p, led := dropSlotEvents s.led }) ∧
    ∀ e ∈ (dropSlotWrites s).led.protQ, e.cls = 0x50 → numAt e.detail 0 1 = 2 := by
  have hframe : ∃ p, dropSlotWrites s = { s with pwr := p, led := dropSlotEvents s.led } := by
    unfold dropSlotWrites
    dsimp only
    split
    · exact ⟨_, rfl⟩
    · exact ⟨s.pwr, rfl⟩
  refine ⟨hframe, fun e he hcls => ?_⟩
  obtain ⟨p, hp⟩ := hframe
  rw [hp] at he
  have hkept := (List.mem_filter.1 he).2
  simpa [hcls] using hkept

theorem energyTimeout_recording {x : Seal} {s : Mach} (hseal : s.keep.sealing = some x) (hstage : x.stage = .recording)
    (hkeeping : s.keep.keeping = none) : sealEnergyTimeout s = endSeal 7 (dropSlotWrites s) := by
  have hrecording : (x.stage == SealStage.recording) = true := beq_iff_eq.2 hstage
  simp only [sealEnergyTimeout, hkeeping, hseal, hrecording, Bool.or_true, if_true, Bool.false_eq_true, if_false]

end Sys2Proof.Spec

namespace Sys2Proof.Spec

open Sys2Proof.Machine

/-- Settles O26: each session that waits ends with its code and its record, and the others go on. -/
theorem sealsAndRestoresTimeOut : Obligations.SealsAndRestoresTimeOut := by
  unfold Obligations.SealsAndRestoresTimeOut
  intro s
  refine ⟨?_, ?_, ?_, ?_⟩
  · intro g hseal hkeeping hrest hserve
    have hend := timeout_keeping hseal hkeeping hrest
    obtain ⟨hended, u, hkeep⟩ := endKeeping_failed (st := 3) (by decide) (by decide) hkeeping
    obtain ⟨hserved, hkeep'⟩ := endServe_ends 3 (endKeeping 3 s.m)
    obtain ⟨hnow, hedge, _⟩ := (hended.trans hserved).frame
    rw [← hend] at hnow hedge hkeep'
    obtain ⟨hrun, hpending, hm⟩ := runs_to (f := sealSessionTimeout) hnow
    obtain ⟨hfaulted, hhold, _, hk, _, _, _, hA, hB⟩ := faultKept_frame u 0x51 { s.m.keep with keeping := none }
    refine ⟨_, hrun, hpending, ?_⟩
    rw [hm, hkeep', hkeep]
    exact ⟨hk, hfaulted, hhold, hA, hB, hedge⟩
  · intro x hseal harmed hrecording hkeeping
    have hend := timeout_sealing hseal harmed hrecording hkeeping
    obtain ⟨hended, ⟨step, u, hkeep⟩, _, _⟩ := endSeal_failed (st := 3) (by decide) (by decide) hseal
    obtain ⟨hrestored, hsealing, hstatus, hfault⟩ := endRestore_keeps 3 (endSeal 3 s.m)
    obtain ⟨hserved, hkeep'⟩ := endServe_ends 3 (endRestore 3 (endSeal 3 s.m))
    obtain ⟨hnow, hedge, hcores⟩ := ((hended.trans hrestored).trans hserved).frame
    rw [← hend] at hnow hedge hcores hkeep'
    obtain ⟨hrun, hpending, hm⟩ := runs_to (f := sealSessionTimeout) hnow
    obtain ⟨hfaulted, _, hseal', _, _, _, hstatus', _, _⟩ := faultKept_frame u 0x51 (sealOver 3 step s.m.keep)
    refine ⟨_, hrun, hpending, ?_⟩
    rw [hm, hkeep']
    refine ⟨hsealing.trans ?_, hstatus.trans ?_, hfault.trans ?_, hedge, hcores⟩
    · rw [hkeep]
      exact hseal'
    · rw [hkeep]
      exact hstatus'
    · rw [hkeep]
      exact hfaulted
  · intro x hseal hkeeping hrest
    have hend := timeout_restore hseal hkeeping
    obtain ⟨hended, hkeep⟩ := endRestore_ends (st := 3) hrest
    obtain ⟨hserved, hkeep'⟩ := endServe_ends 3 (endRestore 3 s.m)
    obtain ⟨hnow, hedge, hcores⟩ := (hended.trans hserved).frame
    rw [← hend] at hnow hedge hcores hkeep'
    obtain ⟨hrun, hpending, hm⟩ := runs_to (f := sealSessionTimeout) hnow
    refine ⟨_, hrun, hpending, ?_⟩
    rw [hm, hkeep', hkeep]
    exact ⟨rfl, rfl, Bool.or_true _, hedge, hcores⟩
  · intro x hseal hstage hkeeping
    have hend := energyTimeout_recording hseal hstage hkeeping
    obtain ⟨⟨p, hdrop⟩, hprot⟩ := dropSlotWrites_frame s.m
    have hseal' : (dropSlotWrites s.m).keep.sealing = some x := by rw [hdrop]; exact hseal
    obtain ⟨hended, ⟨step, u, hkeep⟩, hqueue, hcmds⟩ := endSeal_failed (st := 7) (by decide) (by decide) hseal'
    obtain ⟨hnow, _, _⟩ := hended.frame
    rw [← hend] at hnow hkeep hqueue hcmds
    obtain ⟨hrun, hpending, hm⟩ := runs_to (f := sealEnergyTimeout) (hnow.trans (by rw [hdrop]))
    obtain ⟨hfaulted, _, hnone, _, _, _, hstatus, _, _⟩ := faultKept_frame u 0x51 (sealOver 7 step (dropSlotWrites s.m).keep)
    refine ⟨_, hrun, hpending, ?_⟩
    rw [hm, hkeep]
    refine ⟨hnone, hstatus, hfaulted, ?_, fun e he hcls => ?_⟩
    · rw [hcmds, hdrop]
      rfl
    · obtain he | he := hqueue e he
      · exact hprot e he hcls
      · rw [he] at hcls
        exact absurd hcls (by decide)

end Sys2Proof.Spec
end

section
/-! PROOFS. SEAL, RESTORE and RESTORE_SERVE, and the copies of checkpoints in parts (R444, R456, R574, R575). -/

namespace Sys2Proof.Spec

open Sys2Proof.Machine

/-! ### Reads of a slot (R387, R439) -/

theorem clean_bytes (bs : List Byte) : (clean bs).any (·.2) = false ∧ (clean bs).map (·.1) = bs := by
  simp [clean, Function.comp_def]

/-- A clean read of a seal or a copy leaves the stacks' use of it alone. -/
theorem sealRead_clean {ea n : Nat} {s : Mach} (h : CleanEdge s ea n) :
    ∃ ks, sealRead ea n s = (clean (rdBytes s.edge.mem ea n), { s with stk := ks }) := by
  obtain ⟨ks, huse⟩ := useUnits_frame 2 ea n s
  refine ⟨ks, ?_⟩
  unfold sealRead
  rw [readEdge_good (goodRange_of_clean h)]
  dsimp only
  rw [huse]

theorem goodBytes_clean (bs : List Byte) : goodBytes (clean bs) = some bs := by
  obtain ⟨hgood, hbytes⟩ := clean_bytes bs
  unfold goodBytes
  rw [hgood, hbytes]
  rfl

theorem slotHeader_clean {slot : Bool} {s : Mach} (h : CleanEdge s (slotEa slot 0 0) 65536) :
    ∃ ks, slotHeader slot s = (some (rdBytes s.edge.mem (slotEa slot 0 0) 65536), { s with stk := ks }) := by
  obtain ⟨ks, hread⟩ := sealRead_clean h
  refine ⟨ks, ?_⟩
  unfold slotHeader headBytes
  rw [hread]
  dsimp only
  rw [goodBytes_clean]

/-! ### SEAL, RESTORE and RESTORE_SERVE (R444, R456) -/

/-- A seal armed for a round, with the session of its keeper. -/
def sealArmedFor (m : BitVec 48) (id : BitVec 16) (e : Word) (manifest : Nat) (o : Owed) (k : Keep) : Keep :=
  { k with
    moved := 0
    sealing := some { round := m, peer := id, rid := 0, manifest := manifest, owed := o, stage := .armed, header := [],
                      slot := targetSlot k, second := false }
    keeping := some { peer := id, epoch := e, slot := targetSlot k, started := false, ask := none, opened := false,
                      got := 0, crcs := [], need := 0 } }

theorem twinUp_head {s : Mach} {id : BitVec 16} (h : twinId s = some id) : ∃ p, (twinUp s).head? = some p := by
  unfold twinId at h
  split at h
  · obtain ⟨p, hp, _⟩ := Option.map_eq_some_iff.1 h
    exact ⟨p, hp⟩
  · exact absurd h (by simp)

theorem sealCmd_arms {q : Nat} {d : Desc} {c : RunCmd} {s : Mach} {m : BitVec 48} {id : BitVec 16} {p : Nat}
    (hstarts : Starts s q d c 0x40 [(8, 6), (16, 8)]) (hround : cmdRound s (verOf s q c) d 8 = some m) (hmanifest : cB d 16 8 < 2 ^ 41)
    (htwin : twinId s = some id) (hmode : s.sys.twinMode = 1) (hidle : KeepIdle s) (hunits : unitsBusy s = false)
    (hlate : roundStarted s m = false) (hp : (twinUp s).head? = some p) :
    sealCmd q d s = modKeep (sealArmedFor m id (portAt s p).pepoch (cB d 16 8) ⟨q, c.tok⟩) (started q c s) := by
  obtain ⟨hsealing, hkeeping, hrest, hserve⟩ := hidle
  have hbusy : keepBusy (started q c s).keep = false := by
    show keepBusy s.keep = false
    simp [keepBusy, hsealing, hkeeping, hrest, hserve]
  have htwin' : twinId (started q c s) = some id := htwin
  have hp' : (twinUp (started q c s)).head? = some p := hp
  have hunits' : unitsBusy (started q c s) = false := hunits
  have hlate' : roundStarted (started q c s) m = false := hlate
  unfold sealCmd
  rw [startCmd_starts hstarts]
  dsimp only
  rw [cmdRound_started, hround]
  dsimp only
  rw [if_neg (by omega), htwin']
  dsimp only
  rw [if_neg (by
    rintro (h | h | h | h)
    · exact h hmode
    · rw [hbusy] at h
      exact Bool.false_ne_true h
    · rw [hunits'] at h
      exact Bool.false_ne_true h
    · rw [hlate'] at h
      exact Bool.false_ne_true h), hp']
  rfl

theorem restoreCmd_opens {q : Nat} {d : Desc} {c : RunCmd} {s : Mach} (hstarts : Starts s q d c 0x41 [(8, 12)])
    (hsealing : s.keep.sealing = none) (hkeeping : s.keep.keeping = none) (hrest : s.keep.rest = none) :
    restoreCmd q d s = modKeep (fun k => { k with
      moved := if k.serve.isSome then k.moved else 0, staging := []
      rest := some { keeper := BitVec.ofNat 16 (cB d 8 2), id := BitVec.ofNat 16 (cB d 10 2), epoch := BitVec.ofNat 32 (cB d 12 4),
                     step := BitVec.ofNat 32 (cB d 16 4), owed := ⟨q, c.tok⟩, header := false, got := 0, crcs := [], left := none } })
      (started q c s) := by
  have hbusy : (sealBusy (started q c s).keep || (started q c s).keep.rest.isSome) = false := by
    show (sealBusy s.keep || s.keep.rest.isSome) = false
    simp [sealBusy, hsealing, hkeeping, hrest]
  unfold restoreCmd
  rw [startCmd_starts hstarts, hbusy, if_neg Bool.false_ne_true]

theorem keepWrite_ports (id : BitVec 16) (dir slot : Bool) (stack off : Nat) (bs : List Byte) (s : Mach) :
    ∃ ps, keepWrite id dir slot stack off bs s = { s with ports := ps } := by
  have hfold : ∀ (l : List (Nat × List Byte)) (s : Mach), ∃ ps, l.foldl (fun s c =>
      keepSend id stack (.rwrite
        { src := s.ctl.id, dst := id, window := keepWin dir slot stack, offset := BitVec.ofNat 64 c.1, sepoch := s.epoch,
          stag := 0, round := (roundNow s).setWidth 16, hops := 0, data := c.2 }) s) s = { s with ports := ps } := by
    intro l
    induction l with
    | nil => exact fun s => ⟨s.ports, rfl⟩
    | cons c l ih =>
      intro s
      obtain ⟨ps, hsend⟩ := keepSend_ports id stack (.rwrite
        { src := s.ctl.id, dst := id, window := keepWin dir slot stack, offset := BitVec.ofNat 64 c.1, sepoch := s.epoch,
          stag := 0, round := (roundNow s).setWidth 16, hops := 0, data := c.2 }) s
      obtain ⟨ps', hrest⟩ := ih { s with ports := ps }
      exact ⟨ps', by rw [List.foldl_cons, hsend, hrest]⟩
  exact hfold _ s

theorem serveCmd_opens {q : Nat} {d : Desc} {c : RunCmd} {s : Mach} (hstarts : Starts s q d c 0x42 [(8, 2), (12, 8)])
    (hsealing : s.keep.sealing = none) (hkeeping : s.keep.keeping = none) (hserve : s.keep.serve = none)
    (hvalid : s.keep.slotA.valid = true) (hstep : s.keep.slotA.step = BitVec.ofNat 32 (cB d 16 4))
    (hport : (keepPort s (BitVec.ofNat 16 (cB d 8 2)) 0).isSome = true) (hclean : CleanEdge s (slotEa false 0 0) 65536)
    (hout : stackOut s 0 = false) : ∃ ps ks, serveCmd q d s = { started q c s with
      ports := ps, stk := ks, rmt := { s.rmt with nextRid := s.rmt.nextRid + 1 }
      keep := { s.keep with
        moved := if s.keep.rest.isSome then s.keep.moved else 0
        serve := some { target := BitVec.ofNat 16 (cB d 8 2), epoch := BitVec.ofNat 32 (cB d 12 4), step := BitVec.ofNat 32 (cB d 16 4),
                        slot := false, rid := s.rmt.nextRid, owed := ⟨q, c.tok⟩ } } } := by
  have hbusy : (sealBusy (started q c s).keep || (started q c s).keep.serve.isSome) = false := by
    show (sealBusy s.keep || s.keep.serve.isSome) = false
    simp [sealBusy, hsealing, hkeeping, hserve]
  have hhit : ((slotOf (started q c s).keep false).valid &&
      (slotOf (started q c s).keep false).step == BitVec.ofNat 32 (cB d 16 4)) = true := by
    show (s.keep.slotA.valid && s.keep.slotA.step == BitVec.ofNat 32 (cB d 16 4)) = true
    simp [hvalid, hstep]
  have hroute : (keepPort (started q c s) (BitVec.ofNat 16 (cB d 8 2)) 0).isNone = false := by
    rw [Option.isNone_eq_false_iff]
    exact hport
  have hout' : stackOut (started q c s) 0 = false := hout
  unfold serveCmd
  rw [startCmd_starts hstarts]
  simp only [hbusy, hhit, hroute, hout', Bool.true_or, Bool.not_true, Bool.false_eq_true, if_false]
  generalize hs1 : modKeep (fun k => { k with
    serve := some { target := BitVec.ofNat 16 (cB d 8 2), epoch := BitVec.ofNat 32 (cB d 12 4), step := BitVec.ofNat 32 (cB d 16 4),
                    slot := false, rid := (started q c s).rmt.nextRid, owed := ⟨q, c.tok⟩ }
    moved := if k.rest.isSome then k.moved else 0 }) (started q c s) = s1
  have hclean1 : CleanEdge s1 (slotEa false 0 0) 65536 := by
    rw [← hs1]
    exact hclean
  obtain ⟨ks, hhead⟩ := slotHeader_clean hclean1
  rw [hhead]
  dsimp only
  obtain ⟨ps, hwrite⟩ := keepWrite_ports (BitVec.ofNat 16 (cB d 8 2)) false false 0 0 (rdBytes s1.edge.mem (slotEa false 0 0) 65536)
    { s1 with stk := ks }
  obtain ⟨ps', hread⟩ := keepRead_frame (BitVec.ofNat 16 (cB d 8 2)) false
    (keepWrite (BitVec.ofNat 16 (cB d 8 2)) false false 0 0 (rdBytes s1.edge.mem (slotEa false 0 0) 65536) { s1 with stk := ks })
  refine ⟨ps', ks, hread.trans ?_⟩
  rw [hwrite, ← hs1]
  rfl

end Sys2Proof.Spec
end

section
/-! PROOFS. The copies of checkpoints in parts (R440, R454, R574, R575). -/

namespace Sys2Proof.Spec

open Sys2Proof.Machine

/-! ### CKPT_EXPORT (R574) -/

theorem ckptExport_begins {q : Nat} {d : Desc} {c : RunCmd} {s : Mach} {slot : Bool} {h : List Byte} (hslot : (cB d 8 1 == 1) = slot)
    (hstarts : Starts s q d c 0x51 [(8, 1), (12, 28)]) (hslot1 : cB d 8 1 ≤ 1) (hhost : cB d 16 8 % 64 = 0) (ha : cB d 24 8 % 32 = 0)
    (hn : cB d 32 8 % 32 = 0) (hvalid : (slotOf s.keep slot).valid = true) (hstep : (slotOf s.keep slot).step.toNat = cB d 12 4)
    (hout : stackOut s 0 = false) (hclean : CleanEdge s (slotEa slot 0 0) 65536)
    (hh : rdBytes s.edge.mem (slotEa slot 0 0) 65536 = h) (hlim : cB d 24 8 + cB d 32 8 ≤ 65536 + extBytes (headExtents h)) :
    ∃ ks, ckptExport q d true s = { started q c s with
      stk := ks
      keep := { s.keep with exports := s.keep.exports ++ [⟨⟨q, c.tok⟩, slot,
        streamCut (cB d 24 8) (cB d 24 8 + cB d 32 8) (exportPlaces slot h) 0, cB d 16 8, true⟩] } } := by
  have hbit : (cB d 8 1 % 2 == 1) = slot := by
    rw [← hslot, Nat.mod_eq_of_lt (by omega)]
  have hvalid' : (!(slotOf (started q c s).keep slot).valid || (slotOf (started q c s).keep slot).step.toNat != cB d 12 4) = false := by
    show (!(slotOf s.keep slot).valid || (slotOf s.keep slot).step.toNat != cB d 12 4) = false
    simp [hvalid, hstep]
  have hout' : stackOut (started q c s) 0 = false := hout
  have hclean' : CleanEdge (started q c s) (slotEa slot 0 0) 65536 := hclean
  obtain ⟨ks, hhead⟩ := slotHeader_clean hclean'
  refine ⟨ks, ?_⟩
  unfold ckptExport
  rw [startCmd_starts hstarts]
  simp only [hbit, hvalid', hout', Bool.false_eq_true, if_false, hhead]
  rw [if_neg (by omega), show rdBytes (started q c s).edge.mem (slotEa slot 0 0) 65536 = h from hh, if_neg (by
    unfold headBytes
    omega)]
  rfl

/-! ### A cycle of the copies (R574, R575) -/

theorem importCycle_none {s : Mach} (h : s.keep.rest = none) : importCycle s = s := by
  unfold importCycle
  rw [h]

theorem exportsCycle_none {s : Mach} (h : s.keep.exports = []) : exportsCycle s = s := by
  have hkeep : modKeep (fun k => { k with exports := [] }) s = s := by
    simp only [modKeep, ← h]
  unfold exportsCycle
  rw [h, List.foldl_nil, hkeep]

theorem exportsCycle_one {s : Mach} {x : Export} (h : s.keep.exports = [x]) : exportsCycle s =
    modKeep (fun k => { k with exports := k.exports ++ (exportNext x (modKeep (fun k => { k with exports := [] }) s)).1.toList })
      (exportNext x (modKeep (fun k => { k with exports := [] }) s)).2 := by
  unfold exportsCycle
  rw [h, List.foldl_cons, List.foldl_nil]

theorem exportNext_part {x : Export} {ea n : Nat} {rest : List (Nat × Nat)} {s : Mach} (hparts : x.parts = (ea, n) :: rest)
    (htaken : x.taken = true) (hclean : CleanEdge s ea n) (hout : stackOut s (stackOf ea) = false) :
    ∃ ks, exportNext x s = (some { x with parts := rest, host := x.host + n },
      { s with stk := ks, out := s.out ++ [.hostWrite (BitVec.ofNat 64 x.host) (rdBytes s.edge.mem ea n)] }) := by
  obtain ⟨ks, hread⟩ := sealRead_clean hclean
  refine ⟨ks, ?_⟩
  unfold exportNext
  rw [hparts]
  simp only [hread, hout, Bool.false_eq_true, if_false, goodBytes_clean, htaken, if_true]
  rfl

theorem exportNext_end {x : Export} {s : Mach} (hparts : x.parts = []) : exportNext x s = (none, complete x.owed 0x00 0 s) := by
  unfold exportNext
  rw [hparts]

theorem copyCycle_export {x : Export} {ea n : Nat} {rest : List (Nat × Nat)} {s : Mach} (hexports : s.keep.exports = [x])
    (hrest : s.keep.rest = none) (hparts : x.parts = (ea, n) :: rest) (htaken : x.taken = true) (hclean : CleanEdge s ea n)
    (hout : stackOut s (stackOf ea) = false) :
    ∃ ks, copyCycle s = { s with
      stk := ks, out := s.out ++ [.hostWrite (BitVec.ofNat 64 x.host) (rdBytes s.edge.mem ea n)]
      keep := { s.keep with exports := [{ x with parts := rest, host := x.host + n }] } } := by
  obtain ⟨ks, hnext⟩ := exportNext_part (s := modKeep (fun k => { k with exports := [] }) s) hparts htaken hclean hout
  refine ⟨ks, ?_⟩
  have hexport : exportsCycle s = { s with
      stk := ks, out := s.out ++ [.hostWrite (BitVec.ofNat 64 x.host) (rdBytes s.edge.mem ea n)]
      keep := { s.keep with exports := [{ x with parts := rest, host := x.host + n }] } } := by
    rw [exportsCycle_one hexports, hnext]
    rfl
  unfold copyCycle
  rw [hexport]
  exact importCycle_none hrest

theorem copyCycle_exportEnd {x : Export} {s : Mach} (hexports : s.keep.exports = [x]) (hrest : s.keep.rest = none) (hparts : x.parts = []) :
    copyCycle s = complete x.owed 0x00 0 (modKeep (fun k => { k with exports := [] }) s) := by
  have hexport : exportsCycle s = complete x.owed 0x00 0 (modKeep (fun k => { k with exports := [] }) s) := by
    rw [exportsCycle_one hexports, exportNext_end hparts]
    dsimp only
    obtain ⟨h, hcomplete⟩ := complete_only x.owed 0x00 0 (modKeep (fun k => { k with exports := [] }) s)
    rw [hcomplete]
    rfl
  have hnone : (exportsCycle s).keep.rest = none := by
    obtain ⟨h, hcomplete⟩ := complete_only x.owed 0x00 0 (modKeep (fun k => { k with exports := [] }) s)
    rw [hexport, hcomplete]
    exact hrest
  unfold copyCycle
  rw [importCycle_none hnone, hexport]

/-! ### CKPT_IMPORT (R575) -/

theorem ckptImport_begins {q : Nat} {d : Desc} {c : RunCmd} {s : Mach} {bs h : List Byte} (hh : bs.take 65536 = h)
    (hstarts : Starts s q d c 0x52 [(16, 16)]) (hlen : bs.length = cB d 24 8) (hhost : cB d 16 8 % 64 = 0) (hcur : s.sec.cur = none)
    (hsealing : s.keep.sealing = none) (hkeeping : s.keep.keeping = none) (hrest : s.keep.rest = none) (hopen : headOpen h = true)
    (hok : extentsOk (headExtents h) = true) (hbytes : bs.length = 65536 + extBytes (headExtents h)) :
    ckptImport q d (some bs) s = modKeep (fun k => { k with
      rest := some { keeper := 0, epoch := 0, step := BitVec.ofNat 32 (numAt h 4 4), id := 0, owed := ⟨q, c.tok⟩, header := true, got := 0
                     crcs := [], left := some (streamOrder (headExtents h), bs.drop 65536) }
      moved := if k.serve.isSome then k.moved else 0, staging := wrBytes [] 0 h }) (started q c s) := by
  have hcur' : (started q c s).sec.cur.isSome = false := by
    show s.sec.cur.isSome = false
    rw [hcur]
    rfl
  have hbusy : (sealBusy (started q c s).keep || (started q c s).keep.rest.isSome) = false := by
    show (sealBusy s.keep || s.keep.rest.isSome) = false
    simp [sealBusy, hsealing, hkeeping, hrest]
  have hfields : ¬ (cB d 24 8 < headBytes ∨ cB d 16 8 % 64 ≠ 0) := by
    unfold headBytes
    omega
  have hbytes' : ¬ bs.length ≠ headBytes + extBytes (headExtents h) := not_not.2 hbytes
  have hh' : bs.take headBytes = h := hh
  unfold ckptImport
  rw [startCmd_starts hstarts]
  simp only [if_neg hfields, hcur', hbusy, Bool.false_eq_true, if_false, hh', hopen, hok, Bool.not_true, if_neg hbytes']
  rfl

section
variable {x : Restore} {s : Mach} (hexports : s.keep.exports = []) (hrest : s.keep.rest = some x)
include hexports hrest

theorem copyCycle_extent {e : Nat × Nat} {es : List (Nat × Nat)} {bs : List Byte} (hleft : x.left = some (e :: es, bs))
    (hout : stackOut s (stackOf e.1) = false) (hea : e.1 % 32 = 0) (hn : e.2 % 32 = 0) (hlen : e.2 ≤ bs.length)
    (hone : stackOf (e.1 + e.2 - 1) = stackOf e.1) (hret : (stkAt s (stackOf e.1)).retQ = 0x3F) :
    (copyCycle s).edge.mem = wrBytes s.edge.mem e.1 (bs.take e.2) ∧
      (copyCycle s).keep = { s.keep with moved := s.keep.moved + e.2, rest := some { x with
        got := x.got + e.2, crcs := addCrc (stackOf e.1) (bs.take e.2) x.crcs, left := some (es, bs.drop e.2) } } := by
  have htake : (bs.take e.2).length = e.2 := by rw [List.length_take, Nat.min_eq_left hlen]
  obtain ⟨⟨ed, tr, ks, hstore, hmem, _⟩, _⟩ := writeEdge_stored (s := s) (bs := bs.take e.2) hea (by rw [htake]; exact hn)
    (by rw [htake]; exact hone) hret
  obtain ⟨ks', huse⟩ := useUnits_frame 2 e.1 e.2 (writeEdge e.1 (bs.take e.2) s)
  unfold copyCycle importCycle
  rw [exportsCycle_none hexports, hrest]
  dsimp only
  rw [hleft]
  dsimp only
  rw [hout, if_neg Bool.false_ne_true, huse, hstore]
  exact ⟨hmem, rfl⟩

theorem copyCycle_finish {bs : List Byte} (hleft : x.left = some ([], bs))
    (hstacks : ((rdBytes s.keep.staging 0 65536).drop 64).take 256 = stackCrcs x.crcs)
    (hcrc : numAt (rdBytes s.keep.staging 0 65536) 48 8 = (crc64 (stackCrcs x.crcs)).toNat) :
    copyCycle s = endRestore 0 (setStep (BitVec.ofNat 32 (numAt (rdBytes s.keep.staging 0 65536) 4 4))
      (modTrn (fun t => { t with seed := BitVec.ofNat 64 (numAt (rdBytes s.keep.staging 0 65536) 32 8) }) s)) := by
  have hfinish : restoreFinish (staged s) x.crcs s = endRestore 0 (setStep (BitVec.ofNat 32 (numAt (staged s) 4 4))
      (modTrn (fun t => { t with seed := BitVec.ofNat 64 (numAt (staged s) 32 8) }) s)) := if_pos ⟨hstacks, hcrc⟩
  unfold copyCycle importCycle
  rw [exportsCycle_none hexports, hrest]
  dsimp only
  rw [hleft]
  exact hfinish

end

theorem iter_modUnit_frame (f : Unit_ → Unit_) (l : List Nat) : ∀ s : Mach, ∃ us,
    l.foldl (fun s u => modUnit u f s) s = { s with trn := { s.trn with units := us } } := by
  induction l with
  | nil => exact fun s => ⟨s.trn.units, rfl⟩
  | cons u l ih =>
    intro s
    obtain ⟨us, h⟩ := ih (modUnit u f s)
    exact ⟨us, by rw [List.foldl_cons, h]; rfl⟩

theorem setStep_frame (v : Word) (s : Mach) : ∃ t, setStep v s = { s with trn := t } ∧ t.step = v ∧ t.seed = s.trn.seed := by
  unfold setStep
  by_cases h : v = s.trn.step
  · rw [if_pos h]
    exact ⟨_, rfl, rfl, rfl⟩
  · obtain ⟨us, hiter⟩ := iter_modUnit_frame (fun x => { x with ended := false }) (List.range 32) s
    rw [if_neg h, iter, hiter]
    exact ⟨_, rfl, rfl, rfl⟩

/-- A restore that ends well completes its command. -/
theorem endRestore_completes {x : Restore} {s : Mach} (h : s.keep.rest = some x) :
    (endRestore 0 s).host.rings = (complete x.owed 0x00 0 s).host.rings := by
  unfold endRestore
  rw [h]
  exact raiseIrq_rings 8 _

/-- A restore that ends well has taken the seed and the step. -/
theorem endRestore_done {x : Restore} {s : Mach} {v : Word} {seed : BitVec 64} (h : s.keep.rest = some x) :
    let t := endRestore 0 (setStep v (modTrn (fun t => { t with seed := seed }) s))
    t.edge = s.edge ∧ t.trn.seed = seed ∧ t.trn.step = v ∧ t.keep.rest = none ∧ t.keep.restStatus = 0 ∧
      ringAt t x.owed.ring = ringAt (complete x.owed 0x00 0 s) x.owed.ring := by
  obtain ⟨tr, hset, hstep, hseed⟩ := setStep_frame v (modTrn (fun t => { t with seed := seed }) s)
  dsimp only
  rw [hset]
  generalize hs1 : ({ modTrn (fun t => { t with seed := seed }) s with trn := tr } : Mach) = s1
  have hrest : s1.keep.rest = some x := by
    rw [← hs1]
    exact h
  obtain ⟨⟨_, _, _, _, _, hended⟩, hkeep⟩ := endRestore_ends (st := 0) hrest
  have hrings := endRestore_completes hrest
  rw [hkeep]
  refine ⟨?_, ?_, ?_, rfl, rfl, (congrArg (fun r => tget Ring.reset r x.owed.ring) hrings).trans ?_⟩
  · rw [hended, ← hs1]
    rfl
  · rw [hended, ← hs1]
    exact hseed
  · rw [hended, ← hs1]
    exact hstep
  · rw [← hs1]
    rfl

end Sys2Proof.Spec

namespace Sys2Proof.Spec

open Sys2Proof.Machine

/-- The first half of O27: a command that starts takes the branch that its conditions name. -/
theorem sealsAndRestoresAreOpened : SealsAndRestoresAreOpened := by
  intro q d c s o
  refine ⟨?_, ?_, ?_⟩
  · intro m id hstarts hround hmanifest htwin hmode hidle hunits hlate
    obtain ⟨p, hp⟩ := twinUp_head htwin
    exact ⟨(portAt s.m p).pepoch, run_eq_after (sealCmd_arms hstarts hround hmanifest htwin hmode hidle hunits hlate hp), p, hp, rfl⟩
  · intro hstarts hsealing hkeeping hrest
    exact run_eq_after (restoreCmd_opens hstarts hsealing hkeeping hrest)
  · intro hstarts hsealing hkeeping hserve hvalid hstep hport hclean hout x
    obtain ⟨ps, ks, hopen⟩ := serveCmd_opens hstarts hsealing hkeeping hserve hvalid hstep hport hclean hout
    have hnow : (serveCmd q.val d s.m).now = s.m.now := by rw [hopen]; rfl
    obtain ⟨hrun, hpending, hm⟩ := runs_to hnow
    refine ⟨_, hrun, hpending, ?_⟩
    rw [hm, hopen]
    exact ⟨rfl, rfl, rfl⟩

/-- The second half of O27: each cycle of a copy takes one clean place of the stream for the host, or writes one extent of an import. -/
theorem checkpointsAreCopiedInParts : CheckpointsAreCopiedInParts := by
  intro q d c s o
  refine ⟨?_, ?_, ?_, ?_, ?_, ?_⟩
  · intro slot a n h x hstarts hslot1 hhost ha hn hvalid hstep hout hclean hlim
    obtain ⟨ks, hbegin⟩ := ckptExport_begins rfl hstarts hslot1 hhost ha hn hvalid hstep hout hclean rfl hlim
    have hnow : (ckptExport q.val d true s.m).now = s.m.now := by rw [hbegin]; rfl
    obtain ⟨hrun, hpending, hm⟩ := runs_to hnow
    refine ⟨_, hrun, hpending, ?_⟩
    rw [hm, hbegin]
    exact ⟨rfl, rfl, rfl⟩
  · intro x ea n rest hexports hrest hparts htaken hclean hout
    obtain ⟨ks, hcopy⟩ := copyCycle_export hexports hrest hparts htaken hclean hout
    rw [hcopy]
    exact ⟨rfl, rfl, rfl⟩
  · intro x hexports hrest hparts
    exact copyCycle_exportEnd hexports hrest hparts
  · intro bs h es x hstarts hlen hhost hcur hsealing hkeeping hrest hopen hok hbytes
    have hdata : hostData (descNum d 24 8) (some bs) = true := beq_iff_eq.2 hlen
    exact (if_pos hdata).trans (run_eq_after (ckptImport_begins rfl hstarts hlen hhost hcur hsealing hkeeping hrest hopen hok hbytes))
  · intro x e es bs hexports hrest hleft hout hea hn hlen hone hret t
    obtain ⟨hmem, hkeep⟩ := copyCycle_extent hexports hrest hleft hout hea hn hlen hone hret
    have htake : (bs.take e.2).length = e.2 := by rw [List.length_take, Nat.min_eq_left hlen]
    refine ⟨?_, fun a ha => ?_, hkeep⟩
    · rw [hmem]
      have hread := rdBytes_wrBytes (bs.take e.2) s.m.edge.mem e.1
      rwa [htake] at hread
    · rw [hmem]
      exact rd_wrBytes_outside _ _ _ _ (by rw [htake]; exact ha)
  · intro x bs h t hexports hrest hleft hstacks hcrc
    have hend := copyCycle_finish hexports hrest hleft hstacks hcrc
    have hdone := endRestore_done (v := BitVec.ofNat 32 (numAt h 4 4)) (seed := BitVec.ofNat 64 (numAt h 32 8)) hrest
    rw [← hend] at hdone
    exact hdone

/-- Settles O27. -/
theorem sealAndRestoreCommands : Obligations.SealAndRestoreCommands := ⟨sealsAndRestoresAreOpened, checkpointsAreCopiedInParts⟩

end Sys2Proof.Spec
end

section
/-! PROOFS. What a power event leaves alone, and the proof of O28. -/

namespace Sys2Proof.Spec

open Sys2Proof.Machine

/-! ### Records (R540) -/

/-- Interrupts are raised and records are queued: nothing else of the module changes. -/
def Logged (s t : Mach) : Prop := ∃ n h o l, t = { s with notes := n, host := h, out := o, led := l }

theorem Logged.refl (s : Mach) : Logged s s := ⟨s.notes, s.host, s.out, s.led, rfl⟩

theorem Logged.trans {s t u : Mach} (h : Logged s t) (h' : Logged t u) : Logged s u := by
  obtain ⟨_, _, _, _, rfl⟩ := h
  obtain ⟨_, _, _, _, rfl⟩ := h'
  exact ⟨_, _, _, _, rfl⟩

theorem Signals.logged {s t : Mach} (h : Signals s t) : Logged s t := by
  obtain ⟨_, _, _, rfl⟩ := h
  exact ⟨_, _, _, s.led, rfl⟩

theorem modLed_logged (f : Ledger → Ledger) (s : Mach) : Logged s (modLed f s) := ⟨s.notes, s.host, s.out, _, rfl⟩

theorem logModule_logged (cls flags : Nat) (det : List Byte) (s : Mach) : Logged s (logModule cls flags det s) :=
  modLed_logged _ s

theorem logAt_logged (cls scope flags die unit loc : Nat) (det : List Byte) (s : Mach) :
    Logged s (logAt cls scope flags die unit loc det s) := modLed_logged _ s

theorem foldl_logged {α : Type} {f : Mach → α → Mach} (hf : ∀ s a, Logged s (f s a)) (l : List α) :
    ∀ s, Logged s (l.foldl f s) := by
  induction l with
  | nil => exact .refl
  | cons a l ih => exact fun s => (hf s a).trans (ih _)

section
variable {s t : Mach} (h : Logged s t)
include h
theorem Logged.now : t.now = s.now := by obtain ⟨_, _, _, _, rfl⟩ := h; rfl
theorem Logged.free : t.free = s.free := by obtain ⟨_, _, _, _, rfl⟩ := h; rfl
theorem Logged.ctl : t.ctl = s.ctl := by obtain ⟨_, _, _, _, rfl⟩ := h; rfl
theorem Logged.rnd : t.rnd = s.rnd := by obtain ⟨_, _, _, _, rfl⟩ := h; rfl
theorem Logged.cores : t.cores = s.cores := by obtain ⟨_, _, _, _, rfl⟩ := h; rfl
theorem Logged.dies : t.dies = s.dies := by obtain ⟨_, _, _, _, rfl⟩ := h; rfl
theorem Logged.dpw : t.dpw = s.dpw := by obtain ⟨_, _, _, _, rfl⟩ := h; rfl
theorem Logged.fab : t.fab = s.fab := by obtain ⟨_, _, _, _, rfl⟩ := h; rfl
theorem Logged.edge : t.edge = s.edge := by obtain ⟨_, _, _, _, rfl⟩ := h; rfl
theorem Logged.stk : t.stk = s.stk := by obtain ⟨_, _, _, _, rfl⟩ := h; rfl
theorem Logged.keep : t.keep = s.keep := by obtain ⟨_, _, _, _, rfl⟩ := h; rfl
theorem Logged.mnt : t.mnt = s.mnt := by obtain ⟨_, _, _, _, rfl⟩ := h; rfl
theorem Logged.pwr : t.pwr = s.pwr := by obtain ⟨_, _, _, _, rfl⟩ := h; rfl
theorem Logged.start : t.start = s.start := by obtain ⟨_, _, _, _, rfl⟩ := h; rfl
theorem Logged.cal : t.cal = s.cal := by obtain ⟨_, _, _, _, rfl⟩ := h; rfl
theorem Logged.weft : t.weft = s.weft := by obtain ⟨_, _, _, _, rfl⟩ := h; rfl
theorem Logged.cradle : t.cradle = s.cradle := by obtain ⟨_, _, _, _, rfl⟩ := h; rfl
end

/-! ### Power events (R496, R540) -/

/-- PWR_EVT bit b is set. -/
def setEvt (b : Nat) (p : Power) : Power := { p with evt := setBit p.evt b }

theorem pwrEvt_signals (b : Nat) (s : Mach) : Signals (modPwr (setEvt b) s) (pwrEvt b s) :=
  (noteRaise_signals _ _ _).trans (raiseIrq_signals 9 _)

theorem powerEvent_logged (b : Nat) (s : Mach) : Logged (modPwr (setEvt b) s) (powerEvent b false s) :=
  (pwrEvt_signals b s).logged.trans (logModule_logged _ _ _ _)

theorem powerEvent_uncorrected (b : Nat) (s : Mach) :
    powerEvent b true s = uncorrected 0x60 (powerRecord 1 (pwrEvt b s)) := rfl

/-- A power event that is an uncorrected fault asks for a hold, and nothing else outside the ledger, the interrupts and
PWR_EVT changes. -/
theorem powerEvent_faults (b : Nat) (s : Mach) :
    ∃ k, Logged (modKeep (fun _ => k) (modPwr (setEvt b) s)) (powerEvent b true s) ∧ k.faulted = true ∧ k.holdNext = true := by
  have htold : Logged (modPwr (setEvt b) s) (powerRecord 1 (pwrEvt b s)) :=
    (pwrEvt_signals b s).logged.trans (logModule_logged _ _ _ _)
  have hfault := (uncorrected_signals 0x60 (powerRecord 1 (pwrEvt b s))).logged
  obtain ⟨-, hf, hh⟩ := uncorrected_keep 0x60 (powerRecord 1 (pwrEvt b s))
  rw [powerEvent_uncorrected]
  generalize powerRecord 1 (pwrEvt b s) = m at htold hfault hf hh ⊢
  refine ⟨(uncorrected 0x60 m).keep, ?_, hf, hh⟩
  obtain ⟨_, _, _, _, rfl⟩ := htold
  rw [hfault.keep]
  obtain ⟨_, _, _, _, e⟩ := hfault
  exact ⟨_, _, _, _, e⟩

/-! ### Die powers one after the other (R471, R476) -/

theorem iter_succ {σ : Type} (f : Nat → σ → σ) (n : Nat) (s : σ) : iter (n + 1) f s = f n (iter n f s) := by
  simp [iter, List.range_succ, List.foldl_append]

/-- An operation for each die in turn that does to the die's power what `f` does. -/
theorem dpwAt_iter {F : Nat → Mach → Mach} {f : DiePower → DiePower} (hF : ∀ d s, (F d s).dpw = (modDpw d f s).dpw)
    (s : Mach) (j : Nat) : ∀ n, dpwAt (iter n F s) j = if j < n then f (dpwAt s j) else dpwAt s j
  | 0 => rfl
  | n + 1 => by
    have hstep : dpwAt (iter (n + 1) F s) j = dpwAt (modDpw n f (iter n F s)) j := by
      rw [iter_succ]
      exact congrArg (fun t => tget DiePower.reset t j) (hF n (iter n F s))
    have hprev := dpwAt_iter hF s j n
    rw [hstep]
    by_cases hj : j = n
    · subst hj
      rw [dpwAt_modDpw, hprev, if_neg (lt_irrefl j), if_pos (Nat.lt_succ_self j)]
    · rw [dpwAt_modDpw_other f _ hj, hprev]
      have hiff : j < n ↔ j < n + 1 := by omega
      simp only [hiff]

/-- The powers of dies, and what their stewards hold of them, alone differ. -/
def DiesOnly (s t : Mach) : Prop := ∃ d w, t = { s with dies := d, dpw := w }

theorem DiesOnly.refl (s : Mach) : DiesOnly s s := ⟨s.dies, s.dpw, rfl⟩

theorem DiesOnly.trans {s t u : Mach} (h : DiesOnly s t) (h' : DiesOnly t u) : DiesOnly s u := by
  obtain ⟨_, _, rfl⟩ := h
  obtain ⟨_, _, rfl⟩ := h'
  exact ⟨_, _, rfl⟩

theorem modDpw_diesOnly (d : Nat) (f : DiePower → DiePower) (s : Mach) : DiesOnly s (modDpw d f s) := ⟨s.dies, _, rfl⟩

theorem modDie_diesOnly (d : Nat) (f : Die → Die) (s : Mach) : DiesOnly s (modDie d f s) := ⟨_, s.dpw, rfl⟩

theorem iter_diesOnly {F : Nat → Mach → Mach} (hF : ∀ d s, DiesOnly s (F d s)) (s : Mach) : ∀ n, DiesOnly s (iter n F s)
  | 0 => .refl s
  | n + 1 => by
    rw [iter_succ]
    exact (iter_diesOnly hF s n).trans (hF n _)

/-! ### Stretched cycles (R476) -/

/-- `n` stretched cycles more of a die. -/
def stretchedBy (n : Nat) (x : DiePower) : DiePower := { x with strcnt := satAdd x.strcnt n }

/-- The power and the steward of a die count `n` stretched cycles more. -/
def stretchDie (n d : Nat) (s : Mach) : Mach :=
  modDie d (fun x => { x with stw := { x.stw with shStr := satAdd x.stw.shStr n } }) (modDpw d (stretchedBy n) s)

theorem stretchDie_diesOnly (n d : Nat) (s : Mach) : DiesOnly s (stretchDie n d s) :=
  (modDpw_diesOnly d _ s).trans (modDie_diesOnly d _ _)

theorem dpwAt_stretchDies (n : Nat) (s : Mach) {j m : Nat} (hj : j < m) :
    dpwAt (iter m (stretchDie n) s) j = stretchedBy n (dpwAt s j) :=
  (dpwAt_iter (F := stretchDie n) (f := stretchedBy n) (fun _ _ => rfl) s j m).trans (if_pos hj)

theorem dpwAt_modRnd (g : Rnd → Rnd) (s : Mach) (j : Nat) : dpwAt (modRnd g s) j = dpwAt s j := rfl

theorem addStretch_of_ne_zero {n : Nat} (h : n ≠ 0) (s : Mach) :
    ∃ g, addStretch n s = modRnd g (iter 144 (stretchDie n) s) :=
  ⟨_, if_neg h⟩

theorem addStretch_frame (n : Nat) (s : Mach) : ∃ r d w, addStretch n s = { s with rnd := r, dies := d, dpw := w } := by
  by_cases h : n = 0
  · exact ⟨s.rnd, s.dies, s.dpw, if_pos h⟩
  · obtain ⟨g, e⟩ := addStretch_of_ne_zero h s
    obtain ⟨d, w, hiter⟩ := iter_diesOnly (stretchDie_diesOnly n) s 144
    rw [e, hiter]
    exact ⟨_, d, w, rfl⟩

theorem dpwAt_addStretch (n : Nat) (s : Mach) {j : Nat} (hj : j < 144) :
    dpwAt (addStretch n s) j = stretchedBy n (dpwAt s j) := by
  by_cases h : n = 0
  · rw [addStretch, if_pos h, stretchedBy, h, satAdd_zero]
  · obtain ⟨g, e⟩ := addStretch_of_ne_zero h s
    rw [e, dpwAt_modRnd, dpwAt_stretchDies n s hj]

theorem settleStretch_frame (s : Mach) :
    ∃ r d w f, settleStretch s = { s with rnd := r, dies := d, dpw := w, fab := f } := by
  unfold settleStretch
  split
  · exact ⟨s.rnd, s.dies, s.dpw, s.fab, rfl⟩
  · dsimp only
    obtain ⟨r, d, w, e⟩ := addStretch_frame ((s.now - ‹Nat›) / 2) s
    rw [e]
    exact ⟨r, d, w, _, rfl⟩

theorem dpwAt_settleStretch (s : Mach) {j : Nat} (hj : j < 144) :
    dpwAt (settleStretch s) j = stretchedBy (uncounted s) (dpwAt s j) := by
  cases h : s.fab.since with
  | none => simp only [settleStretch, uncounted, h, stretchedBy, satAdd_zero]
  | some t =>
    simp only [settleStretch, uncounted, h]
    exact dpwAt_addStretch _ s hj

/-! ### Dies without power (R471) -/

/-- The die's power is off. -/
def unpowered (x : DiePower) : DiePower := { x with on := false, stretching := false }

theorem emergencyDown_frame (s : Mach) : ∃ r d w f, emergencyDown s = { s with
    cores := [], rnd := r, dies := d, dpw := w, fab := f
    pwr := { s.pwr with up := none, burn := none, down := downNow s.pwr } } := by
  obtain ⟨d, w, e⟩ := iter_diesOnly (F := fun d s => modDpw d (fun x => { x with on := false, stretching := false }) s)
    (fun d s => modDpw_diesOnly d _ s) { s with cores := [] } 144
  unfold emergencyDown
  rw [e]
  obtain ⟨r, d', w', f, e'⟩ := settleStretch_frame { s with cores := [], dies := d, dpw := w }
  dsimp only at e' ⊢
  rw [e']
  refine ⟨r, d', w', f, ?_⟩
  have hdown : (match s.pwr.down with | some (n, a) => some (max n 18, a) | none => some (18, .stay)) = downNow s.pwr := by
    unfold downNow
    cases s.pwr.down <;> rfl
  simp only [modPwr, ← hdown]
  cases s.pwr.down <;> rfl

theorem emergencyDown_diesOff (s : Mach) : DiesOff (emergencyDown s) := by
  refine ⟨?_, fun d hd => ?_⟩
  · obtain ⟨_, _, _, _, e⟩ := emergencyDown_frame s
    rw [e]
  · have hdown : dpwAt (emergencyDown s) d = stretchedBy (uncounted (iter 144 (modDpw · unpowered) { s with cores := [] }))
        (dpwAt (iter 144 (modDpw · unpowered) { s with cores := [] }) d) := dpwAt_settleStretch _ hd
    rw [hdown, dpwAt_iter (f := unpowered) (fun _ _ => rfl), if_pos hd]
    exact ⟨rfl, rfl⟩

/-! ### What a start keeps (R465, R490, R503) -/

/-- The time, the calendar, the feeds and the charge of the bank are the same. -/
structure InputKept (s t : Mach) : Prop where
  now : t.now = s.now
  cal : t.cal = s.cal
  feedA : t.pwr.feedA = s.pwr.feedA
  feedB : t.pwr.feedB = s.pwr.feedB
  full : t.pwr.full = s.pwr.full
  charging : t.pwr.charging = s.pwr.charging

theorem InputKept.of_pwr {s t : Mach} (hnow : t.now = s.now) (hcal : t.cal = s.cal) (hpwr : t.pwr = s.pwr) : InputKept s t :=
  ⟨hnow, hcal, by rw [hpwr], by rw [hpwr], by rw [hpwr], by rw [hpwr]⟩

theorem InputKept.refl (s : Mach) : InputKept s s := .of_pwr rfl rfl rfl

theorem InputKept.trans {s t u : Mach} (h : InputKept s t) (h' : InputKept t u) : InputKept s u :=
  ⟨h'.now.trans h.now, h'.cal.trans h.cal, h'.feedA.trans h.feedA, h'.feedB.trans h.feedB, h'.full.trans h.full,
    h'.charging.trans h.charging⟩

theorem Logged.inputKept {s t : Mach} (h : Logged s t) : InputKept s t := .of_pwr h.now h.cal h.pwr

theorem modStart_inputKept (f : Start → Start) (s : Mach) : InputKept s (modStart f s) := .of_pwr rfl rfl rfl

theorem modCradle_inputKept (f : Cradle → Cradle) (s : Mach) : InputKept s (modCradle f s) := .of_pwr rfl rfl rfl

theorem emit_logged (o : OutEv) (s : Mach) : Logged s (emit o s) := ⟨s.notes, s.host, _, s.led, rfl⟩

/-- A write sequence that is not the ledger's is asked for. -/
theorem requestSeq_inputKept {w : WSeq} (hw : w.kind ≠ .ledger) (s : Mach) : InputKept s (requestSeq w s) := by
  unfold requestSeq
  split
  · unfold startSeq seqBegins
    split
    case h_1 h _ => exact absurd h hw
    case h_2 => exact ⟨rfl, rfl, rfl, rfl, rfl, rfl⟩
  · have hsig := (pwrEvt_signals 9 (modPwr (fun p => { p with waiting := p.waiting ++ [w], waits := satInc p.waits }) s)).logged
    exact InputKept.trans (t := modPwr (setEvt 9) (modPwr (fun p => { p with waiting := p.waiting ++ [w], waits := satInc p.waits }) s))
      ⟨rfl, rfl, rfl, rfl, rfl, rfl⟩ hsig.inputKept

theorem storeImage_inputKept (slot : Bool) (u : List Byte) (s : Mach) : InputKept s (storeImage slot u s) :=
  ((modStart_inputKept _ s).trans (modStart_inputKept _ _)).trans (logModule_logged _ _ _ _).inputKept

theorem imageStored_inputKept (slot : Bool) (u : List Byte) (o : Option Owed) (s : Mach) :
    InputKept s (imageStored slot u o s) := by
  unfold imageStored
  have hstore := storeImage_inputKept slot u s
  generalize storeImage slot u s = m at hstore ⊢
  cases o with
  | some o => exact (hstore.trans (modCradle_inputKept _ m)).trans (complete_signals _ _ _ _).logged.inputKept
  | none =>
    have hsay (code : Nat) (f : Cradle → Cradle) : InputKept s (sayUpdate 0x17 code (modCradle f m)) :=
      (hstore.trans (modCradle_inputKept f m)).trans (emit_logged _ _).inputKept
    dsimp only
    split
    · exact (hsay _ _).trans (emit_logged _ _).inputKept
    · exact hsay _ _

theorem imageBlock_inputKept (slot : Bool) (u : List Byte) (left : Nat) (o : Option Owed) (s : Mach) :
    InputKept s (imageBlock slot u left o s) := by
  unfold imageBlock
  dsimp only
  split
  · exact ((modStart_inputKept _ s).trans (modStart_inputKept _ _)).trans (requestSeq_inputKept (by exact nofun) _)
  · exact (modStart_inputKept _ s).trans (modStart_inputKept _ _)

theorem licenceStored_inputKept (l : List Byte) (o : Owed) (s : Mach) : InputKept s (licenceStored l o s) := by
  unfold licenceStored
  split
  · exact (complete_signals _ _ _ _).logged.inputKept
  · exact (modStart_inputKept _ s).trans (requestSeq_inputKept (by exact nofun) _)

theorem blowFuse_inputKept (r : List Byte) (s : Mach) : InputKept s (blowFuse r s) := by
  unfold blowFuse
  dsimp only
  split <;> exact modStart_inputKept _ s

theorem seqResult_inputKept (k : WKind) (s : Mach) : InputKept s (seqResult k s) := by
  unfold seqResult
  split
  · exact .refl s
  · exact licenceStored_inputKept _ _ s
  · exact ((modStart_inputKept _ s).trans (logModule_logged _ _ _ _).inputKept).trans (complete_signals _ _ _ _).logged.inputKept
  · exact (blowFuse_inputKept _ s).trans (complete_signals _ _ _ _).logged.inputKept
  · exact imageStored_inputKept _ _ _ s
  · exact imageBlock_inputKept _ _ _ _ s

theorem recalibrate_inputKept (e : BitVec 16) (s : Mach) : InputKept s (recalibrate e s) := by
  unfold recalibrate
  dsimp only
  split
  · exact InputKept.trans (t := modPwr (setEvt 11) (modPwr (fun p => { p with
      coul := e, model := e, fullcap := e, weak := decide (e.toNat < 3000), recal := none, diffOpen := false }) s))
      ⟨rfl, rfl, rfl, rfl, rfl, rfl⟩ (pwrEvt_signals 11 _).logged.inputKept
  · exact ⟨rfl, rfl, rfl, rfl, rfl, rfl⟩

theorem foldl_inputKept {α : Type} {f : Mach → α → Mach} (hf : ∀ s a, InputKept s (f s a)) (l : List α) :
    ∀ s, InputKept s (l.foldl f s) := by
  induction l with
  | nil => exact .refl
  | cons a l ih => exact fun s => (hf s a).trans (ih _)

theorem finishSeqs_inputKept (s : Mach) : InputKept s (finishSeqs s) := by
  unfold finishSeqs
  have hfold := foldl_inputKept (fun s (w : WSeq) => seqResult_inputKept w.kind s) s.pwr.running s
  dsimp only
  split
  · exact hfold.trans (recalibrate_inputKept _ _)
  · exact hfold

/-- Records are queued, and what the start block holds changes, but for the time when the start began. -/
def Booted (s t : Mach) : Prop :=
  ∃ n h o l x, t = { s with notes := n, host := h, out := o, led := l, start := x } ∧ x.t0 = s.start.t0

theorem Logged.booted {s t : Mach} (h : Logged s t) : Booted s t := by
  obtain ⟨n, g, o, l, rfl⟩ := h
  exact ⟨n, g, o, l, s.start, rfl, rfl⟩

theorem modStart_booted {f : Start → Start} {s : Mach} (h : (f s.start).t0 = s.start.t0) : Booted s (modStart f s) :=
  ⟨s.notes, s.host, s.out, s.led, f s.start, rfl, h⟩

theorem Booted.trans {s t u : Mach} (h : Booted s t) (h' : Booted t u) : Booted s u := by
  obtain ⟨_, _, _, _, _, rfl, h⟩ := h
  obtain ⟨n, g, o, l, x, rfl, h'⟩ := h'
  exact ⟨n, g, o, l, x, rfl, h'.trans h⟩

theorem useLicences_booted (s : Mach) : Booted s (useLicences s) := by
  unfold useLicences
  dsimp only
  refine (modStart_booted ?_).trans
    (foldl_logged (f := fun s l => licRecord l 2 s) (fun s l => logModule_logged _ _ _ s) _ _).booted
  rfl

/-- After its restart a module reset finds an image, and waits for its epoch, or is in recovery. -/
def chosenStart (s : Mach) : Mach :=
  match chooseImage s.start with
  | none => startFail 1 8 s
  | some (slot, u, key) => raiseEpoch (modStart (fun x => { x with state := 2 })
      (modLed (fun l => { l with repair := readRepair l }) (useLicences (useImage slot u key s))))

theorem chosenStart_booted (s : Mach) : Booted s (chosenStart s) ∧ ((chosenStart s).start.state = 2 ∨ (chosenStart s).start.state = 8) := by
  unfold chosenStart
  split
  · have hlog : Logged (modStart (fun x => { x with fail := BitVec.ofNat 8 1, state := 8 }) s) (startFail 1 8 s) :=
      (logModule_logged _ _ _ _).trans (raiseIrq_signals 1 _).logged
    exact ⟨(modStart_booted rfl).trans hlog.booted, .inr (by rw [hlog.start]; rfl)⟩
  · rename_i slot u key _
    have himage : Booted s (useImage slot u key s) := by
      unfold useImage
      exact modStart_booted rfl
    have hlic := himage.trans (useLicences_booted _)
    generalize useLicences (useImage slot u key s) = m at hlic ⊢
    have hlog : Logged (modStart (fun x => { x with state := 2 }) (modLed (fun l => { l with repair := readRepair l }) m))
        (raiseEpoch (modStart (fun x => { x with state := 2 }) (modLed (fun l => { l with repair := readRepair l }) m))) :=
      logModule_logged _ _ _ _
    exact ⟨((hlic.trans (modLed_logged _ m).booted).trans (modStart_booted rfl)).trans hlog.booted,
      .inl (by rw [hlog.start]; rfl)⟩

theorem beginStart_again (cause : BitVec 4) (s : Mach) :
    ∃ t, Logged (modCtl (fun c => { c with lastCause := cause, lastScope := 3 }) (restartMach false s)) t ∧
      beginStart false cause true s = chosenStart t := by
  refine ⟨resetEvent 3 cause false s.ctl.reqRound (abandonActivities s.mnt.acts
    (modCtl (fun c => { c with lastCause := cause, lastScope := 3 }) (restartMach false s))), ?_, ?_⟩
  · exact (foldl_logged (f := fun s (a : Activity) => activityRecord a s) (fun s a => logModule_logged _ _ _ s) _ _).trans
      (modLed_logged _ _)
  · unfold beginStart chosenStart
    simp only [Bool.false_eq_true, if_false, if_true, Bool.false_and] <;> rfl

/-! ### Feeds and the loss of the input (R463 to R465) -/

theorem feedLost_own (b : Bool) {s : Mach} (h : (if b then s.pwr.feedB else s.pwr.feedA) = true) :
    Logged (modPwr (fun p => { p with feedA := p.feedA && b, feedB := p.feedB && !b, evt := setBit p.evt 0 }) s) (feedLost b s) := by
  have hlog := powerEvent_logged 0 (modPwr (fun p => if b then { p with feedB := false } else { p with feedA := false }) s)
  unfold feedLost
  rw [if_pos h]
  refine Eq.subst (motive := fun m => Logged m _) ?_ hlog
  cases b <;> simp [modPwr, setEvt]

theorem feedTaken_own (b : Bool) {s : Mach} (h : (if b then s.pwr.feedB else s.pwr.feedA) = false) :
    Signals (modPwr (fun p => { p with feedA := p.feedA || !b, feedB := p.feedB || b, evt := setBit p.evt 1 }) s) (feedTaken b s) := by
  have hsig := pwrEvt_signals 1 (modPwr (fun p => if b then { p with feedB := true } else { p with feedA := true }) s)
  unfold feedTaken
  rw [if_neg (by simp [h])]
  refine Eq.subst (motive := fun m => Signals m _) ?_ hsig
  cases b <;> simp [modPwr, setEvt]

theorem inputLoss_own {s : Mach} (hloss : s.pwr.inloss = false) (hvaux : s.pwr.vaux = true) :
    DiesOff (inputLoss s) ∧ (inputLoss s).now = s.now ∧ (inputLoss s).pwr = { s.pwr with
      inloss := true, feedA := false, feedB := false, gasp := true, full := false, charging := false
      evt := setBit s.pwr.evt 2, up := none, burn := none, down := downNow s.pwr } := by
  unfold inputLoss
  rw [if_neg (by simp [hloss, hvaux])]
  have hsig := pwrEvt_signals 2 (modPwr (fun p => { p with
    inloss := true, feedA := false, feedB := false, gasp := true, full := false, charging := false }) s)
  generalize pwrEvt 2 _ = m at hsig ⊢
  refine ⟨emergencyDown_diesOff m, ?_⟩
  obtain ⟨_, _, _, _, e⟩ := emergencyDown_frame m
  rw [e]
  exact ⟨hsig.now, by simp only [hsig.pwr]; rfl⟩

theorem hotOff_congr {s t : Mach} (hdpw : t.dpw = s.dpw) (htherm : t.pwr.thermOff = s.pwr.thermOff)
    (hcool : coolOk t.pwr = coolOk s.pwr) (hstk : t.pwr.stkTemp = s.pwr.stkTemp) (hport : t.pwr.portTemp = s.pwr.portTemp) :
    hotOff t = hotOff s := by
  have hdie (d : Nat) : (dpwAt t d).temp = (dpwAt s d).temp := congrArg (fun w => (tget DiePower.reset w d).temp) hdpw
  unfold hotOff coolEnough
  simp only [hdie, htherm, hcool, hstk, hport]

/-- The input is back. -/
def inputBack (s : Mach) : Mach :=
  modCtl (fun c => { c with reqRound := roundNow s }) (modPwr (fun p => { p with inloss := false, charging := true }) s)

theorem hotOff_inputBack (s : Mach) : hotOff (inputBack s) = hotOff s := hotOff_congr rfl rfl rfl rfl rfl

theorem inputReturn_again {s : Mach} (hloss : s.pwr.inloss = true) (hvaux : s.pwr.vaux = true) :
    inputReturn s = startAgain 0 (inputBack s) := by
  unfold inputReturn
  rw [if_neg (by simp [hloss, hvaux])]
  rfl

/-- Commands end with a module reset, and only the host block knows. -/
theorem endCommands_frame (s : Mach) : ∃ h, endCommands s = { s with host := h } := by
  unfold endCommands
  generalize s.host.rings = l
  induction l generalizing s with
  | nil => exact ⟨s.host, rfl⟩
  | cons e l ih =>
    obtain ⟨h, hl⟩ := ih (modRing e.1 (fun r => { r with cmds := [], fin := [] }) s)
    exact ⟨h, hl⟩

theorem startAgain_waits {cause : BitVec 4} {s : Mach} (h : startWaits s = true ∨ s.pwr.down.isSome = true) :
    ∃ h, startAgain cause s = { s with
      host := h, ctl := { s.ctl with modulePending := true, cause := cause }
      pwr := { s.pwr with down := some ((s.pwr.down.map (·.1)).getD 24, .again) } } := by
  unfold startAgain
  rw [if_pos (by simpa using h)]
  obtain ⟨g, e⟩ := endCommands_frame s
  rw [e]
  exact ⟨g, rfl⟩

theorem startAgain_begins {cause : BitVec 4} {s : Mach} (hwait : startWaits s = false) (hdown : s.pwr.down = none) :
    startAgain cause s = beginStart false cause true s := by
  unfold startAgain
  rw [if_neg (by simp [hwait, hdown])]

theorem feedsIn_eq (p : Power) : feedsIn p = (p.feedA || !p.feedB, p.feedB || !p.feedA) := by
  unfold feedsIn
  cases p.feedA <;> cases p.feedB <;> rfl

/-- What a restart leaves of the machine before its records and its image. -/
theorem restartMach_kept (s : Mach) :
    (restartMach false s).cal = s.cal ∧ (restartMach false s).now = s.now ∧ (restartMach false s).start.t0 = s.now ∧
      (restartMach false s).cores = [] ∧ (restartMach false s).edge.mem = [] ∧ (restartMach false s).pwr.inloss = false ∧
      (restartMach false s).pwr.feedA = (s.pwr.feedA || !s.pwr.feedB) ∧
      (restartMach false s).pwr.feedB = (s.pwr.feedB || !s.pwr.feedA) ∧
      (restartMach false s).pwr.charging = (s.pwr.charging && !s.pwr.full) := by
  obtain ⟨hnow, hcal, hA, hB, hfull, hch⟩ := finishSeqs_inputKept s
  unfold restartMach
  generalize finishSeqs s = m at *
  simp only [feedsIn_eq, bankCharges, hA, hB, hfull, hch, Bool.false_or]
  exact ⟨hcal, hnow, hnow, rfl, rfl, rfl, trivial, trivial, trivial⟩

theorem inputReturn_restarts {s : Mach} (hloss : s.pwr.inloss = true) (hvaux : s.pwr.vaux = true) (hcool : hotOff s = false)
    (hdown : s.pwr.down = none) :
    (inputReturn s).pwr.inloss = false ∧ (inputReturn s).pwr.feedA = (s.pwr.feedA || !s.pwr.feedB) ∧
      (inputReturn s).pwr.feedB = (s.pwr.feedB || !s.pwr.feedA) ∧ (inputReturn s).pwr.charging = !s.pwr.full ∧
      ((inputReturn s).start.state = 2 ∨ (inputReturn s).start.state = 8) ∧ (inputReturn s).start.t0 = s.now ∧
      (inputReturn s).cores = [] ∧ (inputReturn s).edge.mem = [] ∧ (inputReturn s).cal = s.cal ∧ (inputReturn s).now = s.now := by
  have hwait : startWaits (inputBack s) = false := by
    rw [startWaits, hotOff_inputBack, hcool]
    rfl
  rw [inputReturn_again hloss hvaux, startAgain_begins hwait hdown]
  obtain ⟨t, hlog, e⟩ := beginStart_again 0 (inputBack s)
  obtain ⟨⟨_, _, _, _, x, e', ht0⟩, hstate⟩ := chosenStart_booted t
  obtain ⟨hcal, hnow, hstart, hcores, hmem, hin, hA, hB, hch⟩ := restartMach_kept (inputBack s)
  rw [e]
  refine ⟨?_, ?_, ?_, ?_, hstate, ?_⟩
  · rw [e']
    exact (congrArg Power.inloss hlog.pwr).trans hin
  · rw [e']
    exact (congrArg Power.feedA hlog.pwr).trans hA
  · rw [e']
    exact (congrArg Power.feedB hlog.pwr).trans hB
  · rw [e']
    exact (congrArg Power.charging hlog.pwr).trans hch
  · rw [e']
    exact ⟨ht0.trans ((congrArg Start.t0 hlog.start).trans hstart), hlog.cores.trans hcores,
      (congrArg Edge.mem hlog.edge).trans hmem, hlog.cal.trans hcal, hlog.now.trans hnow⟩

/-! ### The last gasp and the bank (R487, R488, R490, R491, R546) -/

theorem headBlock_kept (l : Ledger) : (headBlock l).flash = l.flash ∧ (headBlock l).nextSeq = l.nextSeq := by
  unfold headBlock
  dsimp only
  split <;> exact ⟨rfl, rfl⟩

theorem enterBlock_kept (l : Ledger) : (enterBlock l).flash = l.flash ∧ (enterBlock l).nextSeq = l.nextSeq :=
  have hlast := headBlock_kept { headBlock l with wblock := l.wblock + 1, woff := 256 }
  have hfirst := headBlock_kept l
  ⟨hlast.1.trans hfirst.1, hlast.2.trans hfirst.2⟩

/-- The last-gasp record. -/
def gaspRecord (s : Mach) : LedRec :=
  { makeRec s (mkEvent s 0x5 0 0 0xFFFF 0xFFFF 0 (gaspDetail s)) (headBlock s.led) with valid := true }

/-- The ledger with a record at its write point, which goes on to the next block where no room is left for the last-gasp
record. -/
def gaspWritten (r : LedRec) (l : Ledger) : Ledger :=
  let l1 := headBlock l
  let l2 := { l1 with flash := l1.flash ++ [r], nextSeq := l1.nextSeq + 1, woff := l1.woff + 512 }
  if 65536 < l2.woff + 512 then enterBlock l2 else l2

theorem gaspWritten_kept (r : LedRec) (l : Ledger) :
    (gaspWritten r l).flash = l.flash ++ [r] ∧ (gaspWritten r l).nextSeq = l.nextSeq + 1 := by
  obtain ⟨hflash, hseq⟩ := headBlock_kept l
  unfold gaspWritten
  dsimp only
  rw [← hflash, ← hseq]
  split
  · exact enterBlock_kept _
  · exact ⟨rfl, rfl⟩

theorem lastGasp_announced {s : Mach} (hloss : s.pwr.inloss = true) (hgasp : s.pwr.gasp = true) (hrun : s.pwr.running = []) :
    lastGasp s = announce (gaspRecord s) (modLed (gaspWritten (gaspRecord s)) (modPwr (fun p => { p with gasp := false }) s)) := by
  unfold lastGasp
  rw [if_pos (by simp [hloss, hgasp, hrun])]
  rfl

/-- The event of a committed record is sent or held, and cause LEDGER rises. -/
theorem announce_frame (r : LedRec) (s : Mach) :
    ∃ n h o c, announce r s = { s with notes := n, host := h, out := o, cradle := c } := by
  unfold announce sendCper
  split
  · obtain ⟨n, h, o, e⟩ := raiseIrq_signals 12 (emit (.platformEvent (cper s.start.serial r)) s)
    exact ⟨n, h, o, s.cradle, e⟩
  · obtain ⟨n, h, o, e⟩ := raiseIrq_signals 12 (modCradle (fun c => { c with held := (c.held ++ [r]).drop (c.held.length + 1 - 64) }) s)
    exact ⟨n, h, o, _, e⟩

theorem announce_kept (r : LedRec) (f : Ledger → Ledger) (g : Power → Power) (s : Mach) :
    (announce r (modLed f (modPwr g s))).now = s.now ∧ (announce r (modLed f (modPwr g s))).pwr = g s.pwr ∧
      (announce r (modLed f (modPwr g s))).led = f s.led := by
  obtain ⟨_, _, _, _, e⟩ := announce_frame r (modLed f (modPwr g s))
  rw [e]
  exact ⟨rfl, rfl, rfl⟩

theorem lastGasp_own {s : Mach} (hloss : s.pwr.inloss = true) (hgasp : s.pwr.gasp = true) (hrun : s.pwr.running = []) :
    (lastGasp s).now = s.now ∧ (lastGasp s).pwr = { s.pwr with gasp := false } ∧
      (lastGasp s).led.flash = s.led.flash ++ [gaspRecord s] ∧ (lastGasp s).led.nextSeq = s.led.nextSeq + 1 ∧
      bit (lastGasp s).host.irqCause 12 = true := by
  have hirq := raiseIrq_cause (c := 12) (by decide)
    (sendCper (gaspRecord s) (modLed (gaspWritten (gaspRecord s)) (modPwr (fun p => { p with gasp := false }) s)))
  obtain ⟨hnow, hpwr, hled⟩ := announce_kept (gaspRecord s) (gaspWritten (gaspRecord s)) (fun p => { p with gasp := false }) s
  obtain ⟨hflash, hseq⟩ := gaspWritten_kept (gaspRecord s) s.led
  rw [lastGasp_announced hloss hgasp hrun]
  exact ⟨hnow, hpwr, (congrArg Ledger.flash hled).trans hflash, (congrArg Ledger.nextSeq hled).trans hseq, hirq⟩

theorem bankExhausted_off {s : Mach} (hloss : s.pwr.inloss = true) (hgasp : s.pwr.gasp = false) (hrun : s.pwr.running = [])
    (hlow : bankAvail s.pwr < 20) :
    bankExhausted s = modStart (fun x => { x with state := 0 })
      (modPwr (fun p => { p with vaux := false, rimOn := false, down := none }) s) := by
  unfold bankExhausted
  rw [if_pos (by simp [hloss, hgasp, hrun, hlow])]

theorem bankFull_idle {e : BitVec 16} {s : Mach} (hrun : s.pwr.running = []) (hstate : s.start.state ≠ 2) (he : 3000 ≤ e.toNat) :
    bankFull e s = modPwr (fun p => { p with
      full := true, charging := false, coul := e, model := e, fullcap := e, weak := false, recal := none
      diffOpen := false }) s := by
  have hweak : decide (e.toNat < 3000) = false := by simp [he]
  unfold bankFull recalibrate
  rw [hrun]
  simp only [hweak, hstate, false_and, if_false, Bool.false_eq_true, List.isEmpty_nil, if_true]
  rfl

theorem bankFull_deferred {e : BitVec 16} {s : Mach} (hrun : s.pwr.running ≠ []) (hstate : s.start.state ≠ 2) :
    bankFull e s = modPwr (fun p => { p with full := true, charging := false, recal := some e }) s := by
  have hbusy : s.pwr.running.isEmpty = false := by simpa using hrun
  unfold bankFull
  simp only [hbusy, hstate, false_and, if_false, Bool.false_eq_true]
  rfl

theorem gaugeUpdate_near {a b : BitVec 16} (hab : a.toNat ≤ b.toNat + 100) (hba : b.toNat ≤ a.toNat + 100) (s : Mach) :
    gaugeUpdate a b s = modPwr (fun p => { p with coul := a, model := b, diffOpen := false }) s := by
  have hfar : ¬ 150 < (a.toNat - b.toNat) + (b.toNat - a.toNat) := by omega
  have hnear : (a.toNat - b.toNat) + (b.toNat - a.toNat) ≤ 100 := by omega
  unfold gaugeUpdate
  dsimp only
  rw [if_neg hfar, if_pos hnear]
  rfl

theorem gaugeUpdate_far {a b : BitVec 16} (h : a.toNat + 150 < b.toNat ∨ b.toNat + 150 < a.toNat) {s : Mach}
    (hopen : s.pwr.diffOpen = false) :
    Logged (modPwr (fun p => { p with
      coul := a, model := b, diffOpen := true, diffCnt := satInc p.diffCnt, evt := setBit p.evt 10 }) s) (gaugeUpdate a b s) := by
  have hfar : 150 < (a.toNat - b.toNat) + (b.toNat - a.toNat) := by omega
  unfold gaugeUpdate
  dsimp only
  rw [if_pos hfar, if_neg (by simp [hopen])]
  exact powerEvent_logged 10 _

theorem writeSequenceStart_runs {w : WSeq} {rest : List WSeq} {s : Mach} (hwait : s.pwr.waiting = w :: rest)
    (hkind : w.kind ≠ .ledger) (hmay : mayStart s w.cost = true) :
    writeSequenceStart s = modPwr (fun p => { p with
      waiting := rest, running := p.running ++ [{ w with since := s.now }] }) s := by
  unfold writeSequenceStart
  rw [hwait]
  dsimp only
  rw [if_pos hmay]
  unfold startSeq seqBegins
  split
  case h_1 h _ => exact absurd h hkind
  case h_2 => rfl

/-! ### Domain faults (R468) -/

theorem domainFault_own (i : DomInst) (s : Mach) :
    ∃ k, Logged (modKeep (fun _ => k) (modPwr (fun p => { p with
        faults := if i ∈ p.faults then p.faults else p.faults ++ [i], evt := setBit p.evt 8 }) s)) (domainFault i s) ∧
      k.faulted = true ∧ k.holdNext = true := by
  obtain ⟨k, hlog, hf, hh⟩ := powerEvent_faults 8
    (modPwr (fun p => { p with faults := if p.faults.contains i then p.faults else p.faults ++ [i] }) s)
  have hmem : s.pwr.faults.contains i = decide (i ∈ s.pwr.faults) := by simp
  refine ⟨k, Eq.subst (motive := fun m => Logged m _) ?_ hlog, hf, hh⟩
  simp only [modKeep, modPwr, setEvt, hmem, decide_eq_true_eq]

theorem dieOff_frame (d : Nat) (s : Mach) : ∃ r ds w f, dieOff d s = { s with
    cores := s.cores.filter (fun e => dieOf e.1 != d), rnd := r, dies := ds, dpw := w, fab := f } := by
  obtain ⟨r, ds, w, f, e⟩ := settleStretch_frame (modDpw d unpowered { s with cores := s.cores.filter (fun e => dieOf e.1 != d) })
  exact ⟨r, ds, w, f, e⟩

theorem dpwAt_dieOff (d : Nat) (s : Mach) {j : Nat} (hj : j < 144) :
    dpwAt (dieOff d s) j = stretchedBy (uncounted s) (if j = d then unpowered (dpwAt s j) else dpwAt s j) := by
  have hoff : dpwAt (dieOff d s) j = stretchedBy (uncounted s) (dpwAt (modDpw d unpowered s) j) :=
    dpwAt_settleStretch (modDpw d unpowered { s with cores := s.cores.filter (fun e => dieOf e.1 != d) }) hj
  rw [hoff]
  split
  case isTrue h => rw [h, dpwAt_modDpw]
  case isFalse h => rw [dpwAt_modDpw_other _ _ h]

theorem domainFaultOff_die (d : Fin 144) {dom : Fin 3} {s : Mach} (h : .die d dom ∈ s.pwr.faults) :
    ∃ f : Power → Power, domainFaultOff (.die d dom) s = modPwr f (dieOff d.val s) ∧ d.val ∈ (f (dieOff d.val s).pwr).dieFail := by
  have hfault : ¬ (!s.pwr.faults.contains (.die d dom)) = true := by simp [h]
  refine ⟨fun p => { p with dieFail := if p.dieFail.contains d.val then p.dieFail else p.dieFail ++ [d.val] }, ?_, ?_⟩
  · unfold domainFaultOff
    rw [if_neg hfault]
  · dsimp only
    split <;> simp_all

/-- Settles O28. -/
theorem feedsDomainsAndTheBank : Obligations.FeedsDomainsAndTheBank := by
  intro s
  refine ⟨fun b h => ?_, fun b h => ?_, fun hloss hvaux => ?_, fun hloss hvaux h => ?_, fun hloss hvaux hhot hdown => ?_,
    fun hloss hgasp hrun => ?_, fun hloss hgasp hrun hlow => run_eq_after (bankExhausted_off hloss hgasp hrun hlow),
    fun e hrun hstate he => run_eq_after (bankFull_idle hrun hstate he),
    fun e hrun hstate => run_eq_after (bankFull_deferred hrun hstate),
    fun a b hab hba => run_eq_after (gaugeUpdate_near hab hba s.m), fun a b h hopen => ?_,
    fun w rest hwait hkind hmay => run_eq_after (writeSequenceStart_runs hwait hkind hmay), fun i => ?_, fun d dom h => ?_⟩
  · have hlog := feedLost_own b h
    obtain ⟨hrun, hpend, hm⟩ := runs_to hlog.now
    exact ⟨_, hrun, hpend, by rw [hm, hlog.pwr]; rfl, by rw [hm, hlog.keep]; rfl, by rw [hm, hlog.dpw]; rfl⟩
  · have hsig := feedTaken_own b h
    obtain ⟨hrun, hpend, hm⟩ := runs_to hsig.now
    exact ⟨_, hrun, hpend, by rw [hm, hsig.pwr]; rfl, by rw [hm, hsig.led]; rfl⟩
  · obtain ⟨hoff, hnow, hpwr⟩ := inputLoss_own hloss hvaux
    obtain ⟨hrun, hpend, hm⟩ := runs_to hnow
    exact ⟨_, hrun, hpend, hm ▸ hoff, hm ▸ hpwr⟩
  · have hwait : startWaits (inputBack s.m) = true ∨ (inputBack s.m).pwr.down.isSome = true :=
      h.imp (fun hhot => by rw [startWaits, hotOff_inputBack, hhot, Bool.or_true]) id
    obtain ⟨g, e⟩ := startAgain_waits (cause := 0) hwait
    rw [← inputReturn_again hloss hvaux] at e
    have hnow : (inputReturn s.m).now = s.m.now := by
      rw [e]
      rfl
    obtain ⟨hrun, hpend, hm⟩ := runs_to hnow
    rw [e] at hm
    exact ⟨_, hrun, hpend, by rw [hm]; rfl, by rw [hm]; rfl, by rw [hm]; rfl, by rw [hm], by rw [hm], by rw [hm]; rfl⟩
  · obtain ⟨hin, hA, hB, hch, hst, ht0, hcores, hmem, hcal, hnow⟩ := inputReturn_restarts hloss hvaux hhot hdown
    obtain ⟨hrun, hpend, hm⟩ := runs_to hnow
    refine ⟨_, hrun, hpend, ?_⟩
    rw [hm]
    exact ⟨hin, hA, hB, hch, hst, ht0, hcores, hmem, hcal⟩
  · obtain ⟨hnow, hpwr, hflash, hseq, hirq⟩ := lastGasp_own hloss hgasp hrun
    obtain ⟨hrun, hpend, hm⟩ := runs_to hnow
    refine ⟨_, gaspRecord s.m, hrun, hpend, ?_⟩
    rw [hm]
    exact ⟨hpwr, hflash, rfl, rfl, (headBlock_kept s.m.led).2, rfl, hseq, hirq⟩
  · have hlog := gaugeUpdate_far h hopen
    obtain ⟨hrun, hpend, hm⟩ := runs_to hlog.now
    exact ⟨_, hrun, hpend, by rw [hm, hlog.pwr]; rfl⟩
  · obtain ⟨k, hlog, hf, hh⟩ := domainFault_own i s.m
    obtain ⟨hrun, hpend, hm⟩ := runs_to hlog.now
    refine ⟨_, hrun, hpend, ?_⟩
    rw [hm, hlog.pwr, hlog.keep, hlog.dpw]
    exact ⟨rfl, hf, hh, rfl⟩
  · obtain ⟨f, e, hfail⟩ := domainFaultOff_die d h
    obtain ⟨_, _, _, _, eoff⟩ := dieOff_frame d.val s.m
    have hnow : (domainFaultOff (.die d dom) s.m).now = s.m.now := by
      rw [e, eoff]
      rfl
    obtain ⟨hrun, hpend, hm⟩ := runs_to hnow
    refine ⟨_, hrun, hpend, ?_⟩
    rw [hm, e]
    refine ⟨hfail, ?_, ?_, fun j hj hne => ?_⟩
    · exact (congrArg DiePower.on (dpwAt_dieOff d.val s.m d.isLt)).trans (by rw [if_pos rfl]; rfl)
    · rw [eoff]
      intro c hc
      simpa using (List.mem_filter.1 hc).2
    · exact (dpwAt_dieOff d.val s.m hj).trans (by rw [if_neg hne]; rfl)

end Sys2Proof.Spec
end

section
/-! PROOFS. The refutation of O29. -/

namespace Sys2Proof.Spec

open Sys2Proof.Machine

/-! ### The entries of a table after changes of its keys in turn -/

theorem mem_of_mem_tdel {α : Type} {t : Tbl α} {k : Nat} {e : Nat × α} (h : e ∈ tdel t k) : e ∈ t ∧ e.1 ≠ k := by
  induction t with
  | nil => exact absurd h (List.not_mem_nil)
  | cons x t ih =>
    unfold tdel at h
    split at h
    · exact ⟨List.mem_cons_of_mem _ (ih h).1, (ih h).2⟩
    case isFalse hne =>
      rcases List.mem_cons.1 h with rfl | h
      · exact ⟨List.mem_cons_self, hne⟩
      · exact ⟨List.mem_cons_of_mem _ (ih h).1, (ih h).2⟩

theorem mem_of_mem_tmod {α : Type} [DecidableEq α] {d : α} {t : Tbl α} {k : Nat} {f : α → α} {e : Nat × α}
    (h : e ∈ tmod d t k f) : (e ∈ t ∧ e.1 ≠ k) ∨ e = (k, f (tget d t k)) := by
  unfold tmod tset at h
  split at h
  · exact .inl (mem_of_mem_tdel h)
  · rcases List.mem_cons.1 ((tins_perm _ _ _).mem_iff.1 h) with h | h
    · exact .inr h
    · exact .inl (mem_of_mem_tdel h)

/-- After `n` stretched cycles of the first `m` dies an entry of one of them is what its die had, and another entry is one of
before. -/
theorem mem_stretchDies {n : Nat} {s : Mach} : ∀ {m : Nat} {e : Nat × DiePower}, e ∈ (iter m (stretchDie n) s).dpw →
    (m ≤ e.1 ∧ e ∈ s.dpw) ∨ e.2 = stretchedBy n (dpwAt s e.1)
  | 0, _, h => .inl ⟨Nat.zero_le _, h⟩
  | m + 1, e, h => by
    rw [iter_succ] at h
    have hprev : dpwAt (iter m (stretchDie n) s) m = dpwAt s m :=
      (dpwAt_iter (F := stretchDie n) (f := stretchedBy n) (fun _ _ => rfl) s m m).trans (if_neg (lt_irrefl m))
    rcases mem_of_mem_tmod h with ⟨hmem, hne⟩ | hnew
    · exact (mem_stretchDies hmem).imp_left fun ⟨hm, ho⟩ => ⟨by omega, ho⟩
    · right
      rw [hnew]
      exact congrArg (stretchedBy n) hprev

/-! ### A table that lists a die twice -/

/-- Dies 0 and 1 after reset, where the table of the dies lists die 1 twice: its first entry, the one that is read, does not
stretch. -/
def listedTwice : State :=
  { State.reset with m := { State.reset.m with
      now := 0
      dpw := [(0, { DiePower.reset with stretching := true }), (1, DiePower.reset), (1, { DiePower.reset with stretching := true })]
      fab := { State.reset.m.fab with since := some 0 } } }

/-- The module two reference cycles later, in which die 0 has returned to normal. -/
def oneListed : Mach := modDpw 0 (fun x => { x with stretching := false }) { listedTwice.m with now := 2 }

theorem oneListed_dpw : oneListed.dpw = [(1, DiePower.reset), (1, { DiePower.reset with stretching := true })] := by
  decide

theorem dpwAt_oneListed (d : Nat) : dpwAt oneListed d = DiePower.reset := by
  rw [dpwAt, oneListed_dpw]
  unfold tget tget tget
  split <;> rfl

theorem stretchEnd_listedTwice : stretchEnd 0 1 listedTwice.m = settleStretch oneListed := rfl

theorem settleStretch_of_since {s : Mach} {t : Nat} (h : s.fab.since = some t) :
    (settleStretch s).fab.since = (if stretching s then some (t + 2 * ((s.now - t) / 2)) else none) ∧
      (settleStretch s).dpw = (addStretch ((s.now - t) / 2) s).dpw := by
  unfold settleStretch
  rw [h]
  exact ⟨rfl, rfl⟩

theorem modRnd_dpw (g : Rnd → Rnd) (s : Mach) : (modRnd g s).dpw = s.dpw := rfl

theorem addStretch_dpw {n : Nat} (h : n ≠ 0) (s : Mach) : (addStretch n s).dpw = (iter 144 (stretchDie n) s).dpw := by
  obtain ⟨g, hadd⟩ := addStretch_of_ne_zero h s
  rw [hadd, modRnd_dpw]

theorem oneListed_since : oneListed.fab.since = some 0 := rfl

theorem oneListed_now : oneListed.now = 2 := rfl

/-- The second entry of die 1 lets the stretch of the module go on. -/
theorem listedTwice_stretches : (settleStretch oneListed).fab.since = some 2 := by
  have hstretch : stretching oneListed = true := by
    rw [stretching, oneListed_dpw]
    rfl
  rw [(settleStretch_of_since oneListed_since).1, hstretch, oneListed_now]
  rfl

theorem listedTwice_normal {e : Nat × DiePower} (h : e ∈ (settleStretch oneListed).dpw) : e.2.stretching = false := by
  have hadd := addStretch_dpw (n := 1) (by decide) oneListed
  rw [(settleStretch_of_since oneListed_since).2, oneListed_now, hadd] at h
  rcases mem_stretchDies (m := 144) h with ⟨hkey, hmem⟩ | hnew
  · rw [oneListed_dpw] at hmem
    simp only [List.mem_cons, List.not_mem_nil, or_false] at hmem
    rcases hmem with rfl | rfl <;> exact absurd hkey (by decide)
  · rw [hnew, dpwAt_oneListed]
    rfl

theorem to_m_power (s : State) (m : Mach) : (s.to m).m.dpw = m.dpw ∧ (s.to m).m.fab = m.fab := by
  unfold State.to
  split <;> exact ⟨rfl, rfl⟩

/-- Refutes O29: nothing says that the table of the dies lists each die once. Where it lists die 1 twice and the first entry does
not stretch, the end of die 0's stretch finds the second one, so that the module's stretch goes on; but counting the stretched
cycles of die 1 removes it, and no entry is left that stretches. -/
theorem not_capBrakeStretchAndVoltages : ¬ Obligations.CapBrakeStretchAndVoltages := by
  unfold Obligations.CapBrakeStretchAndVoltages
  intro h
  obtain ⟨_, _, _, _, _, _, _, hend, _⟩ := h listedTwice
  obtain ⟨t, ht, _, _, _, _, _, _, _, _, hlisted⟩ := hend 0 1 0 rfl rfl rfl
  obtain rfl : listedTwice.to (stretchEnd 0 1 listedTwice.m) = t := Host.Outcome.next.inj ht
  obtain ⟨hdpw, hfab⟩ := to_m_power listedTwice (settleStretch oneListed)
  rw [stretchEnd_listedTwice, hdpw, hfab, listedTwice_stretches] at hlisted
  obtain ⟨e, he, hstretch⟩ := hlisted rfl
  rw [listedTwice_normal he] at hstretch
  exact Bool.false_ne_true hstretch

end Sys2Proof.Spec
end

section
/-! PROOFS. Temperatures, the coolant and the minimum-voltage records: the proof of O30. -/

namespace Sys2Proof.Spec

open Sys2Proof.Machine

/-! ### Temperatures (R494, R498) -/

theorem dpwAt_emergencyDown (s : Mach) {d : Nat} (hd : d < 144) :
    ∃ n, dpwAt (emergencyDown s) d = stretchedBy n (unpowered (dpwAt s d)) := by
  refine ⟨uncounted (iter 144 (modDpw · unpowered) { s with cores := [] }), ?_⟩
  have hdown : dpwAt (emergencyDown s) d = stretchedBy (uncounted (iter 144 (modDpw · unpowered) { s with cores := [] }))
      (dpwAt (iter 144 (modDpw · unpowered) { s with cores := [] }) d) := dpwAt_settleStretch _ hd
  rw [hdown, dpwAt_iter (f := unpowered) (fun _ _ => rfl), if_pos hd]
  rfl

theorem reVarr_temp (now : Nat) (x : DiePower) : (reVarr now x).temp = x.temp := by
  unfold reVarr
  split <;> rfl

theorem reVlog_temp (now : Nat) (x : DiePower) : (reVlog now x).temp = x.temp := by
  unfold reVlog
  dsimp only
  split
  · rfl
  · exact reVarr_temp _ _

theorem storeTemp_die (d : Fin 144) (c : Byte) (s : Mach) : ∃ w, storeTemp (.die d) c s = { s with dpw := w } ∧
    (dpwAt { s with dpw := w } d.val).temp = c := by
  refine ⟨_, rfl, ?_⟩
  have hstore : dpwAt (storeTemp (.die d) c s) d.val = reVlog s.now { dpwAt s d.val with temp := c } := by
    unfold storeTemp refloor
    dsimp only
    rw [dpwAt_modDpw, dpwAt_modDpw]
    rfl
  exact (congrArg DiePower.temp hstore).trans (reVlog_temp _ _)

theorem storeTemp_stack (i : Fin 32) (c : Byte) (s : Mach) :
    (stkAt (storeTemp (.stack i) c s) i.val).maxT = c ∧
      (storeTemp (.stack i) c s).pwr = { s.pwr with stkTemp := tset 0 s.pwr.stkTemp i.val c } ∧
      (storeTemp (.stack i) c s).keep = s.keep := by
  refine ⟨?_, rfl, rfl⟩
  unfold storeTemp setStackTemp
  dsimp only
  rw [stkAt_modStk]

theorem thermalSample_cool {src : ThermSrc} {c : Byte} (h : c.toInt < (thermLimits src).1) (s : Mach) :
    thermalSample src c s = modPwr (fun p => { p with warm := p.warm.filter (· != src) }) (storeTemp src c s) := by
  unfold thermalSample
  dsimp only
  rw [if_neg (by omega)]

theorem thermalSample_warms {src : ThermSrc} {c : Byte} {s : Mach} (hw : (thermLimits src).1 ≤ c.toInt)
    (ht : c.toInt < (thermLimits src).2) (hcold : src ∉ s.pwr.warm) :
    thermalSample src c s = powerEvent 6 false (modPwr (fun p => { p with warm := p.warm ++ [src] }) (storeTemp src c s)) := by
  unfold thermalSample
  dsimp only
  rw [if_pos hw, if_neg (by omega), if_neg (by simp [hcold])]

/-- The warning of a source, which is recorded once. -/
def warned (src : ThermSrc) (hot : Bool) (s : Mach) : Mach :=
  if hot then s else powerEvent 6 false (modPwr (fun p => { p with warm := p.warm ++ [src] }) s)

theorem warned_own (src : ThermSrc) (hot : Bool) (s : Mach) :
    ∃ p, Logged (modPwr (fun _ => p) s) (warned src hot s) ∧ p.thermOff = s.pwr.thermOff ∧ p.down = s.pwr.down := by
  unfold warned
  split
  · exact ⟨s.pwr, .refl s, rfl, rfl⟩
  · exact ⟨_, powerEvent_logged 6 _, rfl, rfl⟩

theorem thermalSample_trips {src : ThermSrc} {c : Byte} {s : Mach} (hw : (thermLimits src).1 ≤ c.toInt)
    (ht : (thermLimits src).2 ≤ c.toInt) :
    thermalSample src c s = thermTrip (warned src (s.pwr.warm.contains src) (storeTemp src c s)) := by
  unfold thermalSample
  dsimp only
  rw [if_pos hw, if_pos ht]
  rfl

theorem emergencyDown_kept (s : Mach) :
    (emergencyDown s).now = s.now ∧ (emergencyDown s).keep = s.keep ∧ (emergencyDown s).pwr.thermOff = s.pwr.thermOff ∧
      (emergencyDown s).pwr.evt = s.pwr.evt ∧ (emergencyDown s).pwr.down = downNow s.pwr := by
  obtain ⟨_, _, _, _, e⟩ := emergencyDown_frame s
  rw [e]
  exact ⟨rfl, rfl, rfl, rfl, rfl⟩

theorem thermTrip_own {s : Mach} (h : s.pwr.thermOff = false) :
    DiesOff (thermTrip s) ∧ (∀ d, d < 144 → (dpwAt (thermTrip s) d).temp = (dpwAt s d).temp) ∧ (thermTrip s).now = s.now ∧
      (thermTrip s).pwr.thermOff = true ∧ bit (thermTrip s).pwr.evt 7 = true ∧ (thermTrip s).pwr.down = downNow s.pwr ∧
      (thermTrip s).keep.faulted = true := by
  have htrip : thermTrip s = emergencyDown (powerEvent 7 true (modPwr (fun p => { p with thermOff := true }) s)) :=
    if_neg (by simp [h])
  rw [htrip]
  obtain ⟨k, hlog, hf, -⟩ := powerEvent_faults 7 (modPwr (fun p => { p with thermOff := true }) s)
  generalize powerEvent 7 true (modPwr (fun p => { p with thermOff := true }) s) = m at hlog ⊢
  have htemp (d : Nat) (hd : d < 144) : (dpwAt (emergencyDown m) d).temp = (dpwAt s d).temp := by
    obtain ⟨n, e⟩ := dpwAt_emergencyDown m hd
    exact (congrArg DiePower.temp e).trans (congrArg (fun w => (tget DiePower.reset w d).temp) hlog.dpw)
  obtain ⟨hnow, hkeep, htherm, hevt, hdown⟩ := emergencyDown_kept m
  have hpwr : m.pwr = setEvt 7 { s.pwr with thermOff := true } := hlog.pwr
  refine ⟨emergencyDown_diesOff m, htemp, hnow.trans hlog.now, ?_, ?_, ?_, ?_⟩
  · rw [htherm, hpwr]
    rfl
  · rw [hevt, hpwr]
    exact bit_setBit_same _ (by decide)
  · rw [hdown, hpwr]
    rfl
  · rw [hkeep, hlog.keep]
    exact hf

/-! ### The coolant (R492, R493) -/

theorem effCap_in {p : Power} (hin : p.inlet.toInt ≤ 45) (hflow : 600 ≤ p.flow.toNat) : effCap p = capActs p.cap.toNat := by
  have hnone : (p.inlet.toInt - 45).toNat = 0 := by omega
  have hfull : ¬ p.flow.toNat < 600 := by omega
  unfold effCap
  simp only [hnone, hfull, if_false, Nat.mul_zero, Nat.sub_zero]

/-- What a sample of the coolant shows. -/
def sampled (i o : Byte) (f : BitVec 16) (p : Power) : Power := setEff { p with inlet := i, outlet := o, flow := f }

theorem coolantSample_eq (i o : Byte) (f : BitVec 16) (s : Mach) :
    coolantSample i o f false s = modPwr (fun p => { p with coolOut := !coolOk (sampled i o f s.pwr) })
      (if !coolOk (sampled i o f s.pwr) then pwrEvt 5 (modPwr (sampled i o f) s) else modPwr (sampled i o f) s) := by
  unfold coolantSample
  simp only [Bool.false_eq_true, false_and, if_false]
  rfl

theorem coolantSample_in {i o : Byte} {f : BitVec 16} (hlow : 20 ≤ i.toInt) (hhigh : i.toInt ≤ 45) (hflow : 600 ≤ f.toNat)
    (s : Mach) : coolantSample i o f false s = modPwr (fun x => { x with
      inlet := i, outlet := o, flow := f, coolOut := false, eff := BitVec.ofNat 9 (capActs x.cap.toNat) }) s := by
  have hok : coolOk (sampled i o f s.pwr) = true := by simp [coolOk, sampled, setEff, hlow, hhigh, hflow]
  have heff := effCap_in (p := { s.pwr with inlet := i, outlet := o, flow := f }) hhigh hflow
  rw [coolantSample_eq, hok]
  simp only [Bool.not_true, Bool.false_eq_true, if_false, modPwr, sampled, setEff, heff]

theorem coolantSample_out {i o : Byte} {f : BitVec 16} (h : i.toInt < 20 ∨ 45 < i.toInt ∨ f.toNat < 600) (s : Mach) :
    coolantSample i o f false s = modPwr (fun p => { p with coolOut := true }) (pwrEvt 5 (modPwr (sampled i o f) s)) := by
  have hok : coolOk (sampled i o f s.pwr) = false := by
    show (decide (20 ≤ i.toInt ∧ i.toInt ≤ 45) && decide (600 ≤ f.toNat)) = false
    simp only [Bool.and_eq_false_iff, decide_eq_false_iff_not]
    omega
  rw [coolantSample_eq, hok]
  simp only [Bool.not_false, if_true]

/-! ### Minimum-voltage records (R481, R482, R499 to R502) -/

theorem tmod_eq_tset {α : Type} [DecidableEq α] {d : α} {t : Tbl α} {k : Nat} {f : α → α} {v : α} (h : f (tget d t k) = v) :
    tmod d t k f = tset d t k v := by rw [tmod, h]

theorem tget_tset_of_same {α : Type} [DecidableEq α] {d : α} {t : Tbl α} {k : Nat} {v : α} (h : tget d t k = v) (j : Nat) :
    tget d (tset d t k v) j = tget d t j := by
  by_cases hj : j = k
  · rw [hj, tget_tset_same, h]
  · rw [tget_tset_other _ _ _ hj]

theorem vminSample_die {d : Fin 144} {dom : Fin 3} {s : Mach} (h : recording s (.die d dom) = true) (v : BitVec 11) :
    vminSample (.die d dom) v s = noteVmin (vmNote d.val dom.val) (vmTake s (.die d dom) v)
      (modDpw d.val (fun x => { x with vrec := tmod none x.vrec dom.val (vmTake s (.die d dom) v) }) s) := by
  unfold vminSample
  rw [if_neg (by simp [h])]

theorem vminSample_off {i : DomInst} {s : Mach} (h : recording s i = false) (v : BitVec 11) : vminSample i v s = s := by
  unfold vminSample
  rw [if_pos (by simp [h])]

theorem vmTake_lower {s : Mach} {i : DomInst} {v : BitVec 11} {o : Option VRec} (h : ∀ r, o = some r → v.toNat < r.vmin.toNat) :
    vmTake s i v o = some { vmin := v, setpt := BitVec.ofNat 11 (vmSet s i), round := (roundNow s).setWidth 32
                            sec := calSec s, frac := calFrac s } := by
  unfold vmTake
  cases o with
  | none => rfl
  | some r => exact if_pos (decide_eq_true (h r rfl))

theorem vmTake_higher {s : Mach} {i : DomInst} {v : BitVec 11} {r : VRec} (h : r.vmin.toNat ≤ v.toNat) :
    vmTake s i v (some r) = some r := by
  unfold vmTake
  exact if_neg (by simp [h])

theorem dpwAt_noteVmin (key : Nat) (f : Option VRec → Option VRec) (s : Mach) (d : Nat) :
    dpwAt (noteVmin key f s) d = dpwAt s d := rfl

theorem vrec_vminSample_higher {d : Fin 144} {dom : Fin 3} {v : BitVec 11} {r : VRec} {s : Mach}
    (hr : tget none (dpwAt s d.val).vrec dom.val = some r) (hv : r.vmin.toNat ≤ v.toNat) (k : Nat) :
    tget none (dpwAt (vminSample (.die d dom) v s) d.val).vrec k = tget none (dpwAt s d.val).vrec k := by
  cases hrec : recording s (.die d dom) with
  | false => rw [vminSample_off hrec]
  | true =>
    have htake : vmTake s (.die d dom) v (tget none (dpwAt s d.val).vrec dom.val) = some r := by
      rw [hr, vmTake_higher hv]
    have hdie : dpwAt (vminSample (.die d dom) v s) d.val = { dpwAt s d.val with
        vrec := tset none (dpwAt s d.val).vrec dom.val (some r) } := by
      rw [vminSample_die hrec, dpwAt_noteVmin, dpwAt_modDpw, tmod_eq_tset htake]
    rw [hdie]
    exact tget_tset_of_same hr k

theorem vminSample_now (i : DomInst) (v : BitVec 11) (s : Mach) : (vminSample i v s).now = s.now := by
  unfold vminSample
  split
  · rfl
  · split
    · rfl
    · split
      · split <;> rfl
      · rfl

theorem latchFrom_die {d : Nat} (h : d < 144) (old s : Mach) :
    latchFrom (0x409020 + 0x10000 * d) old s = modDpw d (fun x => { x with latch := (dpwAt old d).latch }) s := by
  have hplace : placeOf (0x409020 + 0x10000 * d) = .die d 0x9020 := by
    unfold placeOf
    repeat rw [if_neg (by omega)]
    rw [if_pos (by omega)]
    exact congrArg₂ Place.die (by omega) (by omega)
  unfold latchFrom
  rw [hplace]
  rfl

theorem fld_orBit31 (v : Word) (lo n : Nat) (h : BitVec.extractLsb' lo n (0x80000000 : Word) = 0#n) :
    fld (v ||| 0x80000000) lo n = fld v lo n := by
  rw [fld, fld, BitVec.extractLsb'_or, h, BitVec.or_zero]

theorem bit_orBit31 (v : Word) : bit (v ||| 0x80000000) 31 = true := by
  simp [bit]

/-- A write of VMIN_SEL: the record is cleared or stays, and the latched copy is of the module as it stood before the cycle. -/
theorem latchFrom_vminSel {d : Nat} (hd : d < 144) {v : Word} (hk : (fld v 0 4).toNat < 3) (old s : Mach) :
    latchFrom (0x409020 + 0x10000 * d) (vminSel d v old) (vminSel d v s) = modDpw d (fun x => { x with
      sel := fld v 0 4
      vrec := if bit v 31 then clearVmin s (vmNote d (fld v 0 4).toNat) (fld v 0 4).toNat x.vrec else x.vrec
      latch := vmWords (tget none (if bit v 31 then clearVmin old (vmNote d (fld v 0 4).toNat) (fld v 0 4).toNat (dpwAt old d).vrec
        else (dpwAt old d).vrec) (fld v 0 4).toNat) }) s := by
  rw [latchFrom_die hd, vminSel, vminSel, dpwAt_modDpw, modDpw_modDpw]
  dsimp only
  rw [if_pos hk]

theorem execVminSel_keeps {s : State} {d : Fin 144} {v : Word} (hserved : Served s.m (0x409020 + 0x10000 * d.val))
    (hk : (fld v 0 4).toNat < 3) (hclr : bit v 31 = false) :
    exec (.vminSelWrite d v) s = .next (accessed (modDpw d.val (fun x => { x with
        sel := fld v 0 4, latch := vmWords (tget none (dpwAt s.start d.val).vrec (fld v 0 4).toNat) })) s) := by
  refine (runSelect_served hserved (vminSel d.val v)).trans ?_
  rw [latchFrom_vminSel d.isLt hk, hclr]
  rfl

theorem execVminClr_clears {s : State} {d : Fin 144} {v : Word} (hserved : Served s.m (0x409020 + 0x10000 * d.val))
    (hk : (fld v 0 4).toNat < 3) :
    exec (.vminClr d v) s = .next (accessed (modDpw d.val (fun x => { x with
        sel := fld v 0 4
        vrec := tset none x.vrec (fld v 0 4).toNat (tget none s.m.notes.vmins (vmNote d.val (fld v 0 4).toNat))
        latch := vmWords (tget none s.start.notes.vmins (vmNote d.val (fld v 0 4).toNat)) })) s) := by
  have hfld : fld (v ||| 0x80000000) 0 4 = fld v 0 4 := fld_orBit31 v 0 4 rfl
  refine (runSelect_served hserved (vminSel d.val (v ||| 0x80000000))).trans ?_
  rw [latchFrom_vminSel d.isLt (by rw [hfld]; exact hk), hfld, bit_orBit31]
  simp only [if_true, clearVmin, tget_tset_same]
  rfl

theorem pwrVmKey_clear (v : Word) : pwrVmKey (v ||| 0x80000000) = pwrVmKey v := by
  have h8 : fld (v ||| 0x80000000) 8 5 = fld v 8 5 := fld_orBit31 v 8 5 rfl
  have h4 : fld (v ||| 0x80000000) 4 2 = fld v 4 2 := fld_orBit31 v 4 2 rfl
  have h0 : fld (v ||| 0x80000000) 0 4 = fld v 0 4 := fld_orBit31 v 0 4 rfl
  unfold pwrVmKey
  rw [h8, h4, h0]

theorem latchFrom_power (old s : Mach) : latchFrom 0x3040 old s = modPwr (fun p => { p with latch := old.pwr.latch }) s := rfl

theorem latchFrom_pwrVminSel {v : Word} {k : Nat} (hk : pwrVmKey v = some k) (old s : Mach) :
    latchFrom 0x3040 (pwrVminSel v old) (pwrVminSel v s) = modPwr (fun p => { p with
      selInst := fld v 8 5, selLoc := fld v 4 2, selDom := fld v 0 4
      vrec := if bit v 31 then clearVmin s (boardNote k) k p.vrec else p.vrec
      latch := vmWords (tget none (if bit v 31 then clearVmin old (boardNote k) k old.pwr.vrec else old.pwr.vrec) k) }) s := by
  rw [latchFrom_power, pwrVminSel, pwrVminSel, hk]
  rfl

theorem execPwrVminSel_keeps {s : State} {v : Word} {k : Nat} (hserved : Served s.m 0x3040) (hk : pwrVmKey v = some k)
    (hclr : bit v 31 = false) :
    exec (.pwrVminSelWrite v) s = .next (accessed (modPwr (fun x => { x with
        selInst := fld v 8 5, selLoc := fld v 4 2, selDom := fld v 0 4, latch := vmWords (tget none s.start.pwr.vrec k) })) s) := by
  refine (runSelect_served hserved (pwrVminSel v)).trans ?_
  rw [latchFrom_pwrVminSel hk, hclr]
  rfl

theorem execPwrVminClr_clears {s : State} {v : Word} {k : Nat} (hserved : Served s.m 0x3040) (hk : pwrVmKey v = some k) :
    exec (.pwrVminClr v) s = .next (accessed (modPwr (fun x => { x with
        selInst := fld v 8 5, selLoc := fld v 4 2, selDom := fld v 0 4, vrec := tset none x.vrec k (tget none s.m.notes.vmins (boardNote k))
        latch := vmWords (tget none s.start.notes.vmins (boardNote k)) })) s) := by
  have h8 : fld (v ||| 0x80000000) 8 5 = fld v 8 5 := fld_orBit31 v 8 5 rfl
  have h4 : fld (v ||| 0x80000000) 4 2 = fld v 4 2 := fld_orBit31 v 4 2 rfl
  have h0 : fld (v ||| 0x80000000) 0 4 = fld v 0 4 := fld_orBit31 v 0 4 rfl
  refine (runSelect_served hserved (pwrVminSel (v ||| 0x80000000))).trans ?_
  rw [latchFrom_pwrVminSel (by rw [pwrVmKey_clear, hk]), h8, h4, h0, bit_orBit31]
  simp only [if_true, clearVmin, tget_tset_same]
  rfl

/-- Settles O30. -/
theorem thermalLimitsAndVoltageRecords : Obligations.ThermalLimitsAndVoltageRecords := by
  intro s
  refine ⟨fun i c hc => run_eq_after (f := thermalSample (.port i) c) (thermalSample_cool hc s.m),
    fun i c hw ht hcold => ?_, fun d c ht htherm => ?_,
    fun i o f hlow hhigh hflow => run_eq_after (coolantSample_in hlow hhigh hflow s.m), fun i o f h => ?_,
    fun d dom v => ?_, fun i v hrec => run_unchanged (vminSample_off hrec v), fun d dom v r hr hv => ?_,
    fun d v hserved hk => ⟨execVminSel_keeps hserved hk, execVminClr_clears hserved hk⟩,
    fun v k hserved hk => ⟨execPwrVminSel_keeps hserved hk, execPwrVminClr_clears hserved hk⟩⟩
  · have hlog := powerEvent_logged 6
      (modPwr (fun p => { p with warm := p.warm ++ [.stack i] }) (storeTemp (.stack i) c s.m))
    have hsample := thermalSample_warms (src := .stack i) (c := c) (s := s.m) (by show (90 : Int) ≤ c.toInt; omega)
      (by show c.toInt < (100 : Int); omega) hcold
    rw [← hsample] at hlog
    have hnow : (thermalSample (.stack i) c s.m).now = s.m.now := by
      rw [hlog.now]
      rfl
    obtain ⟨hrun, hpend, hm⟩ := runs_to hnow
    refine ⟨_, hrun, hpend, ?_⟩
    obtain ⟨htemp, hpwr, hkeep⟩ := storeTemp_stack i c s.m
    rw [hm, hlog.keep, hlog.pwr]
    refine ⟨?_, ?_, hkeep⟩
    · rw [stkAt, hlog.stk]
      exact htemp
    · exact congrArg (fun p : Power => setEvt 6 { p with warm := p.warm ++ [.stack i] }) hpwr
  · obtain ⟨w, hstore, htemp⟩ := storeTemp_die d c s.m
    have htrip := thermalSample_trips (src := .die d) (c := c) (s := s.m) (by show (95 : Int) ≤ c.toInt; omega) ht
    obtain ⟨p, hlog, hoff, hdown⟩ := warned_own (.die d) (s.m.pwr.warm.contains (.die d)) (storeTemp (.die d) c s.m)
    rw [hstore] at hlog hoff hdown htrip
    obtain ⟨hdies, htemps, hnow, htherm', hevt, hdown', hfault⟩ :=
      thermTrip_own (s := warned (.die d) (s.m.pwr.warm.contains (.die d)) { s.m with dpw := w })
        ((congrArg Power.thermOff hlog.pwr).trans (hoff.trans htherm))
    rw [← htrip] at hdies htemps hnow htherm' hevt hdown' hfault
    obtain ⟨hrun, hpend, hm⟩ := runs_to (f := thermalSample (.die d) c) (s := s) (hnow.trans hlog.now)
    refine ⟨_, hrun, hpend, ?_⟩
    rw [hm]
    refine ⟨hdies, ?_, htherm', hevt, ?_, hfault⟩
    · exact (htemps d.val d.isLt).trans ((congrArg (fun t => (tget DiePower.reset t d.val).temp) hlog.dpw).trans htemp)
    · rw [hdown', downNow, downNow, congrArg Power.down hlog.pwr]
      exact congrArg (fun x => some ((Option.map (fun x : Nat × AfterDown => (max x.1 18, x.2)) x).getD (18, .stay))) hdown
  · have hsig := pwrEvt_signals 5 (modPwr (sampled i o f) s.m)
    have hout := coolantSample_out (o := o) h s.m
    have hnow : (coolantSample i o f false s.m).now = s.m.now := by
      rw [hout]
      exact hsig.now
    obtain ⟨hrun, hpend, hm⟩ := runs_to hnow
    refine ⟨_, hrun, hpend, ?_⟩
    rw [hm, hout]
    have hpwr : (pwrEvt 5 (modPwr (sampled i o f) s.m)).pwr = setEvt 5 (sampled i o f s.m.pwr) := hsig.pwr
    refine ⟨rfl, ?_, ?_, hsig.dpw⟩
    · rw [modPwr_own, hpwr]
      exact bit_setBit_same _ (by decide)
    · rw [modPwr_own, hpwr]
      rfl
  · intro old new hrec hlower
    refine run_eq_after ((vminSample_die hrec v).trans ?_)
    have htake : vmTake s.m (.die d dom) v old = some new := vmTake_lower hlower
    exact congrArg (noteVmin _ _) (modDpw_congr (congrArg (fun t => { dpwAt s.m d.val with vrec := t }) (tmod_eq_tset htake)))
  · obtain ⟨hrun, -, hm⟩ := runs_to (f := vminSample (.die d dom) v) (s := s) (vminSample_now _ _ _)
    refine ⟨_, hrun, fun k => ?_⟩
    rw [hm]
    exact vrec_vminSample_higher hr hv k

end Sys2Proof.Spec
end

section
/-! PROOFS. Host accesses to registers: the proof of O33. -/

namespace Sys2Proof.Spec

open Sys2Proof.Machine

/-! ### Words and their bytes (R585) -/

theorem ofBytes_four (a b c d : Byte) : ofBytes [a, b, c, d] = a.toNat + 256 * (b.toNat + 256 * (c.toNat + 256 * d.toNat)) := rfl

theorem byteAt_toNat (v : Word) (i : Nat) : (byteAt v i).toNat = v.toNat / 2 ^ (8 * i) % 256 := by
  rw [byteAt, BitVec.extractLsb'_toNat, Nat.shiftRight_eq_div_pow]

theorem enabled_all (v : Word) : enabled 0xF v = v := by
  have hbytes : (List.range 4).map (fun i => if bit (0xF : BitVec 4) i then byteAt v i else 0) =
      [byteAt v 0, byteAt v 1, byteAt v 2, byteAt v 3] := rfl
  have hv := v.isLt
  apply BitVec.eq_of_toNat_eq
  rw [enabled, hbytes, ofBytes_four, BitVec.toNat_ofNat]
  simp only [byteAt_toNat]
  omega

/-! ### Reads (R25, R504, R584 to R587) -/

theorem noLink_of_served {s : Mach} {a : Nat} (h : Served s a) : noLink s = false := by
  obtain ⟨hready, hperst, -⟩ := h
  simp [noLink, hready, hperst]

/-- A read that is served leaves its answer behind, and then clears. -/
theorem readReg_served {s : Mach} {a : Nat} (h : Served s a) (be : BitVec 4) (s0 : Mach) :
    readReg a be s0 s = readClears be a s0 (emit (.readData (BitVec.ofNat 24 a) (enabled be (seenRead s0 s a))) s) := by
  have hlink := noLink_of_served h
  obtain ⟨hready, -, hcovered, hanswers⟩ := h
  have hserved : notServed s a = false := by simp [notServed, hready]
  unfold readReg
  simp only [hlink, hserved, hcovered, Bool.false_or, Bool.false_eq_true, if_false]
  split
  next d o hplace => rw [if_pos (hanswers d o hplace)]
  next => rfl

theorem word_and_zero (v : Word) : v &&& (0 : Word) = 0 := BitVec.and_zero

theorem word_zero_or (v : Word) : (0 : Word) ||| v = v := BitVec.zero_or

theorem word_or_zero (v : Word) : v ||| (0 : Word) = v := BitVec.or_zero

theorem word_and_ones (v : Word) : v &&& (0xFFFFFFFF : Word) = v := BitVec.and_allOnes

theorem word_not_zero : ~~~ (0 : Word) = 0xFFFFFFFF := rfl

theorem seenRead_ledSupp (s0 s : Mach) : seenRead s0 s 0x2010 = shown 32 s0.led.ledSupp := by
  have hmask : rcMask 0x2010 = 0xFFFFFFFF := rfl
  have hread : ∀ m : Mach, regRead m 0x2010 = shown 32 m.led.ledSupp := fun _ => rfl
  have hzero : ~~~ (0xFFFFFFFF : Word) = 0 := rfl
  rw [seenRead, hmask, hread, hread, hzero, word_and_zero, word_and_ones, word_zero_or]

theorem readClears_ledSupp (be : BitVec 4) (s0 s : Mach) :
    readClears be 0x2010 s0 s = modLed (fun l => { l with ledSupp := clr be 0 4 s0.led.ledSupp l.ledSupp }) s := rfl

theorem allBytes_four {be : BitVec 4} : allBytes be 0 4 = true ↔ be = 0xF := by
  revert be
  decide

theorem clr_all {w : Nat} (x0 x : BitVec w) : clr 0xF 0 4 x0 x = if x0.toNat ≤ x.toNat then x - x0 else 0 := rfl

theorem clr_part {w : Nat} {be : BitVec 4} (h : be ≠ 0xF) (x0 x : BitVec w) : clr be 0 4 x0 x = x := by
  unfold clr
  rw [if_neg]
  exact fun hall => h (allBytes_four.1 hall)

/-- The module is linked to its host, but not READY (R504). -/
structure Starting (s : Mach) : Prop where
  powered : s.start.state ≠ 0
  unready : s.start.state ≠ 7
  linked : s.host.perst = false

theorem Starting.noLink {s : Mach} (h : Starting s) : Machine.noLink s = false := by
  obtain ⟨hpower, -, hperst⟩ := h
  have hne : (s.start.state == 0) = false := beq_eq_false_iff_ne.2 hpower
  rw [Machine.noLink, hne, hperst]
  rfl

theorem Starting.notServed {s : Mach} (h : Starting s) {a : Nat} (ha : 0x2000 ≤ a) : Machine.notServed s a = true := by
  have hne : (s.start.state != 7) = true := bne_iff_ne.2 h.unready
  rw [Machine.notServed, hne, decide_eq_true ha]
  rfl

theorem readReg_unserved {s : Mach} (h : Starting s) {a : Nat} (ha : 0x2000 ≤ a) (s0 : Mach) :
    readReg a 0xF s0 s = emit (.readData (BitVec.ofNat 24 a) 0xFFFFFFFF) s := by
  unfold readReg
  simp only [h.noLink, h.notServed ha, Bool.true_or, Bool.false_eq_true, if_true, if_false, enabled_all]

theorem writeReg_unserved {s : Mach} (h : Starting s) {a : Nat} (ha : 0x2000 ≤ a) (be : BitVec 4) (v : Word) (s0 : Mach) :
    writeReg a be v s0 s = s := by
  unfold writeReg hostAccess
  simp only [h.noLink, h.notServed ha, Bool.false_or, Bool.true_or, if_true]
  split
  · rfl
  · rw [if_neg (by omega)]

theorem placeOf_start {a : Nat} (ha : a < 0x2000) : (∃ o, placeOf a = .ctl o) ∨ ∃ o, placeOf a = .start o := by
  unfold placeOf
  by_cases h : a < 0x1000
  · exact .inl ⟨a, if_pos h⟩
  · exact .inr ⟨a - 0x1000, by rw [if_neg h, if_pos ha]⟩

theorem rcMask_start {a : Nat} (ha : a < 0x2000) : rcMask a = 0 := by
  have h1 : ¬ (0x2040 ≤ a ∧ a < 0x2050) := by omega
  have h2 : ¬ (0x100100 ≤ a ∧ a < 0x100900) := by omega
  have h3 : ¬ (0x104400 ≤ a ∧ a < 0x104800) := by omega
  have h4 : ¬ (0x108100 ≤ a ∧ a < 0x109100) := by omega
  have h5 : ¬ 0x400000 ≤ a := by omega
  have hfind : [((0x2010 : Nat), (0xFFFFFFFF : Word)), (0x3010, 0xFFFF), (0x302C, 0xFFFF), (0x10008, 0xFFFFFFFF), (0x10C070, 0xFFFF0000)].find?
      (fun e => e.1 == a) = none := by
    rw [List.find?_eq_none]
    intro e he
    simp only [List.mem_cons, List.not_mem_nil, or_false] at he
    rcases he with rfl | rfl | rfl | rfl | rfl <;> simp <;> omega
  unfold rcMask
  dsimp only
  rw [if_neg h1, if_neg h2, if_neg h3, if_neg h4, if_neg h5, hfind]
  rfl

theorem seenRead_start {a : Nat} (ha : a < 0x2000) (s0 s : Mach) : seenRead s0 s a = regRead s a := by
  rw [seenRead, rcMask_start ha, word_and_zero, word_or_zero, word_not_zero, word_and_ones]

theorem readReg_start {s : Mach} (h : Starting s) {a : Nat} (ha : a < 0x2000) (hpend : s.ctl.modulePending = false) (s0 : Mach) :
    readReg a 0xF s0 s = emit (.readData (BitVec.ofNat 24 a) (regRead s a)) s := by
  have hserved : notServed s a = false := by
    simp only [notServed, Bool.and_eq_false_iff, decide_eq_false_iff_not]
    exact .inr (by omega)
  have hcovered : covered s a = false := by
    unfold covered
    obtain ⟨o, e⟩ | ⟨o, e⟩ := placeOf_start ha <;> rw [e] <;> exact hpend
  unfold readReg readClears
  simp only [h.noLink, hserved, hcovered, Bool.false_or, Bool.false_eq_true, if_false, enabled_all, seenRead_start ha]
  obtain ⟨o, e⟩ | ⟨o, e⟩ := placeOf_start ha <;> rw [e]

theorem within_bar4 {off : BitVec 36} {len : Nat} (h1 : 1 ≤ len) (h2 : len ≤ 4096) (h : off.toNat + len ≤ 2 ^ 36) :
    (BarAddr.bar4 off).within len = true := by
  simp only [BarAddr.within, Bool.and_eq_true, decide_eq_true_eq]
  exact ⟨⟨h1, h2⟩, h⟩

theorem within_bar2 {off : BitVec 28} {len : Nat} (h1 : 1 ≤ len) (h2 : len ≤ 4096) (h : off.toNat + len ≤ 2 ^ 28) :
    (BarAddr.bar2 off).within len = true := by
  simp only [BarAddr.within, Bool.and_eq_true, decide_eq_true_eq]
  exact ⟨⟨h1, h2⟩, h⟩

theorem exec_apertureRead {a : BarAddr} {len : Nat} (h : a.within len = true) (s : State) :
    exec (.apertureRead a len) s = run (memRead a len) s := if_pos h

theorem apertureRead_unready {s : Mach} (h : Starting s) (off : BitVec 36) (len : Nat) :
    apertureRead off len s = emit (.apertureData (List.replicate len 0xFF) false) s := by
  unfold apertureRead
  dsimp only
  rw [if_pos h.unready]

theorem bar2Read_unready {s : Mach} (h : Starting s) (off len : Nat) :
    bar2Read off len s = emit (.apertureData (List.replicate len 0xFF) false) s := by
  have hne : (s.start.state != 7) = true := bne_iff_ne.2 h.unready
  have hshut : bar2Shut s = true := by rw [bar2Shut, hne, Bool.or_true]
  unfold bar2Read
  rw [if_neg (by simp [h.noLink]), if_pos hshut]

theorem commandFetch_unready {s : Mach} (h : Starting s) (q : Nat) (d : Option Desc) : commandFetch q d s = s := by
  unfold commandFetch
  dsimp only
  rw [if_pos (.inl h.unready)]

/-! ### Writes (R8, R584 to R587) -/

theorem writeReg_served {s : Mach} {a : Nat} (h : Served s a) (ha : a ≠ 0x10) (v : Word) (s0 : Mach) :
    writeReg a 0xF v s0 s = hostWrite a v s0 s := by
  unfold writeReg
  rw [if_neg (by simp [noLink_of_served h]), if_neg ha, hostAccess_served h]

theorem writeReg_part {be : BitVec 4} (h : be ≠ 0xF) (a : Nat) (v : Word) (s0 s : Mach) : writeReg a be v s0 s = s := by
  unfold writeReg
  exact if_pos (.inr h)

/-- The bits of a register that the module has set in this cycle are those that the cycle noted. -/
theorem bit_noted (s : Mach) (a : Nat) {b : Nat} (hb : b < 32) : bit (Machine.noted s a) b = s.notes.raised.contains (a, b) := by
  have hfold (l : List (Nat × Nat)) : ∀ m : Word,
      bit (l.foldl (fun (m : Word) e => if e.1 = a then setBit m e.2 else m) m) b = (bit m b || l.contains (a, b)) := by
    induction l with
    | nil => simp
    | cons e l ih =>
      intro m
      obtain ⟨x, y⟩ := e
      rw [List.foldl_cons, ih, List.contains_cons]
      by_cases hx : x = a
      · by_cases hy : y = b
        · subst hx hy
          simp [bit_setBit_same m hb]
        · have hne : ((a, b) == (x, y)) = false := beq_eq_false_iff_ne.2 fun e => hy (congrArg Prod.snd e).symm
          rw [if_pos hx, bit_setBit_other m (Ne.symm hy), hne, Bool.false_or]
      · have hne : ((a, b) == (x, y)) = false := beq_eq_false_iff_ne.2 fun e => hx (congrArg Prod.fst e).symm
        rw [if_neg hx, hne, Bool.false_or]
  have h0 : bit (0 : Word) b = false := by simp [bit]
  rw [Machine.noted, hfold, h0, Bool.false_or]

/-- PWR_EVT, shown in a word. -/
theorem regRead_pwrEvt (s : Mach) : regRead s 0x301C = z 20 ++ s.pwr.evt := rfl

theorem bit_append_low {n m : Nat} (x : BitVec n) (y : BitVec m) {b : Nat} (hb : b < m) : bit (x ++ y) b = bit y b := by
  simp [bit, BitVec.getLsbD_append, hb]

theorem hostWrite_pwrEvt (v : Word) (s0 s : Mach) : hostWrite 0x301C v s0 s =
    modPwr (fun p => { p with evt := w1c p.evt (fld (v &&& ~~~ freshBits s0 s 0x301C) 0 12) }) s := rfl

theorem bit_freshBits_pwrEvt (s0 s : Mach) {b : Nat} (hb : b < 12) : bit (freshBits s0 s 0x301C) b =
    ((bit s.pwr.evt b && !bit s0.pwr.evt b) || s.notes.raised.contains (0x301C, b)) := by
  have hmask : bit (w1cMask 0x301C) b = true := by
    have hall : w1cMask 0x301C = (0xFFF : Word) := rfl
    rw [hall]
    revert b
    decide
  have hlt : b < 32 := by omega
  have hnoted := bit_noted s 0x301C hlt
  have h1 := bit_append_low (z 20) s.pwr.evt hb
  have h0 := bit_append_low (z 20) s0.pwr.evt hb
  rw [← regRead_pwrEvt] at h1 h0
  simp only [bit] at hmask hnoted h1 h0 ⊢
  simp only [freshBits, BitVec.getLsbD_and, BitVec.getLsbD_or, BitVec.getLsbD_not, hmask, hnoted, h1, h0, hlt, decide_true,
    Bool.true_and, Bool.and_true]

theorem bit_w1c {w : Nat} (x v : BitVec w) {b : Nat} (hb : b < w) : bit (w1c x v) b = (bit x b && !bit v b) := by
  simp [bit, w1c, hb]

theorem bit_fld_low {w n : Nat} (v : BitVec w) {b : Nat} (hb : b < n) : bit (fld v 0 n) b = bit v b := by
  simp [bit, fld, hb]

theorem bit_pwrEvt_hostWrite (v : Word) (s0 s : Mach) {b : Nat} (hb : b < 12) :
    bit (hostWrite 0x301C v s0 s).pwr.evt b = (bit s.pwr.evt b &&
      !(bit v b && bit s0.pwr.evt b && !s.notes.raised.contains (0x301C, b))) := by
  have hand : bit (v &&& ~~~ freshBits s0 s 0x301C) b = (bit v b && !bit (freshBits s0 s 0x301C) b) := by
    simp [bit, show b < 32 by omega]
  rw [hostWrite_pwrEvt, modPwr_own]
  dsimp only
  rw [bit_w1c _ _ hb, bit_fld_low _ hb, hand, bit_freshBits_pwrEvt _ _ hb]
  cases bit s.pwr.evt b <;> cases bit s0.pwr.evt b <;> simp

theorem hostWrite_irqMask (v : Word) (s0 s : Mach) : hostWrite 0x10014 v s0 s =
    modHost (fun h => { h with irqMask := fld v 0 13 }) s := by
  have hmask : w1cMask 0x10014 = 0 := rfl
  have hwrite : hostWrite 0x10014 v s0 s = modHost (fun h => { h with irqMask := fld (v &&& ~~~ freshBits s0 s 0x10014) 0 13 }) s := rfl
  have hfresh : freshBits s0 s 0x10014 = 0 := by rw [freshBits, hmask, word_and_zero]
  rw [hwrite, hfresh, word_not_zero, word_and_ones]

/-- Settles O33. -/
theorem readsAndWritesReachTheRegisters : Obligations.ReadsAndWritesReachTheRegisters := by
  refine ⟨fun s off be h => ?_, fun s off ha h => ?_, fun s off be ha h hbe => ?_, fun s hpower hready hperst => ?_,
    fun s off v h ha => ?_, fun s off be v hbe => ?_, fun s off v ha h => ?_, fun s m => ?_, fun s off v ha h => ?_⟩
  · exact congrArg (fun m => Host.Outcome.next (s.accessed m)) (readReg_served h be s.start)
  · have hread := readReg_served h 0xF s.start
    rw [readClears_ledSupp, enabled_all, seenRead_ledSupp, ← ha] at hread
    have hrun : exec (.rcFieldRead off 0xF) s = .next (s.accessed (readReg (off.toNat / 4 * 4) 0xF s.start s.m)) := rfl
    rw [hrun, hread, ha]
    rfl
  · have hread := readReg_served h be s.start
    have hkeep (m : Mach) : readClears be 0x2010 s.start m = m := by
      rw [readClears_ledSupp, modLed]
      simp only [clr_part hbe]
    rw [hkeep, seenRead_ledSupp, ← ha] at hread
    have hrun : exec (.rcFieldRead off be) s = .next (s.accessed (readReg (off.toNat / 4 * 4) be s.start s.m)) := rfl
    rw [hrun, hread, ha]
    rfl
  · have hstart : Starting s.m := ⟨hpower, hready, hperst⟩
    refine ⟨fun off ha => ⟨?_, fun v => ?_⟩, fun off ha hpend => ?_, fun off len h1 h2 hlen => ?_, fun off len h1 h2 hlen => ?_, fun q d => ?_⟩
    · exact congrArg (fun m => Host.Outcome.next (s.accessed m)) (readReg_unserved hstart ha s.start)
    · exact congrArg (fun m => Host.Outcome.next (s.accessed m)) (writeReg_unserved hstart ha 0xF v s.start)
    · exact congrArg (fun m => Host.Outcome.next (s.accessed m)) (readReg_start hstart ha hpend s.start)
    · exact (exec_apertureRead (within_bar4 h1 h2 hlen) s).trans (run_eq_after (apertureRead_unready hstart off len))
    · exact (exec_apertureRead (within_bar2 h1 h2 hlen) s).trans (run_eq_after (bar2Read_unready hstart off.toNat len))
    · exact run_unchanged (commandFetch_unready hstart q.val d)
  · exact congrArg (fun m => Host.Outcome.next (s.accessed m)) (writeReg_served h ha v s.start)
  · exact congrArg (fun m => Host.Outcome.next (s.accessed m)) (writeReg_part hbe (off.toNat / 4 * 4) v s.start s.m)
  · have hwrite := writeReg_served h (by decide) v s.start
    rw [← ha] at hwrite
    refine ⟨_, congrArg (fun m => Host.Outcome.next (s.accessed m)) hwrite, rfl, ?_, fun b hb => ?_⟩
    · rw [ha]
      rfl
    · rw [ha]
      exact bit_pwrEvt_hostWrite v s.start s.m hb
  · refine ⟨fun hnow => ?_, fun hnow => ?_, rfl, rfl, rfl, rfl⟩
    · rw [State.to, if_pos hnow]
      exact ⟨rfl, rfl⟩
    · rw [State.to, if_neg hnow]
      exact ⟨rfl, rfl⟩
  · have hwrite := writeReg_served h (by decide) v s.start
    rw [hostWrite_irqMask, ← ha] at hwrite
    exact congrArg (fun m => Host.Outcome.next (s.accessed m)) hwrite

end Sys2Proof.Spec
end

section
/-! PROOFS. The calendar, and register writes with an effect of their own: the proof of O34. -/

namespace Sys2Proof.Spec

open Sys2Proof.Machine

/-! ### The calendar (R547 to R549, R555) -/

/-- A clock that was just set to `x` seconds shows them, without a fraction. -/
theorem calendar_set {s : Mach} {x : BitVec 48} (hbase : s.cal.base = x.toNat * 65536) (hsince : s.cal.since = s.now)
    (hrun : s.cal.running = true) : calFrac s = 0 ∧ calSec s = x := by
  have hnow : calNow s = x.toNat * 65536 := by
    rw [calNow, if_pos hrun, hbase, hsince, Nat.sub_self, Nat.zero_mul, Nat.zero_div, Nat.add_zero]
  constructor
  · rw [calFrac, hnow]
    apply BitVec.eq_of_toNat_eq
    rw [BitVec.toNat_ofNat]
    exact Nat.mul_mod_left _ _
  · rw [calSec, hnow, Nat.mul_div_cancel _ (by decide)]
    exact BitVec.ofNat_toNat 48 x |>.trans (BitVec.setWidth_eq x)

theorem calSetHi_steps {v : Word} (h : fld v 24 8 = (0xC5 : BitVec 8)) (s : Mach) :
    calSetHi v s = calSet (fld v 0 16 ++ s.cal.setLo) s := by
  unfold calSetHi
  exact if_pos h

theorem calSetHi_ignored {v : Word} (h : fld v 24 8 ≠ (0xC5 : BitVec 8)) (s : Mach) : calSetHi v s = s := by
  unfold calSetHi
  exact if_neg h

theorem calSet_own (x : BitVec 48) (s : Mach) :
    (calSet x s).cal = { s.cal with base := x.toNat * 65536, since := s.now, running := true, lost := false } ∧
      (calSet x s).now = s.now ∧
      (calSet x s).led = queueEvent (mkEvent s 0x7 0 0 0xFFFF 0xFFFF 0 (bytesOf (calSec s) ++ bytesOf (calFrac s) ++
        bytesOf x ++ [0, 0])) s.led := ⟨rfl, rfl, rfl⟩

theorem clockStop_off {s : Mach} (h : s.pwr.vaux = false) : clockStop s = { s with
    cal := { s.cal with
      base := calNow s, since := s.now, running := false, stopped := true, vbak := BitVec.ofNat 12 ((Config.free32 s.free).toNat % 2200) }
    free := s.free + 1 } := by
  unfold clockStop
  rw [if_neg (by simp [h])]
  rfl

theorem readReg_calSecLo (s0 s : Mach) (h : Served s 0x2020) : readReg 0x2020 0xF s0 s = { s with
    out := s.out ++ [.readData 0x2020 (fld (calSec s) 0 32)]
    cal := { s.cal with latchHi := calFrac s ++ fld (calSec s) 32 16 } } := by
  have hmask : rcMask 0x2020 = 0 := rfl
  have hread (m : Mach) : regRead m 0x2020 = fld (calSec m) 0 32 := rfl
  have hseen : seenRead s0 s 0x2020 = fld (calSec s) 0 32 := by
    rw [seenRead, hmask, word_and_zero, word_or_zero, word_not_zero, word_and_ones, hread]
  rw [readReg_served h, enabled_all, hseen]
  rfl

theorem theCalendarIsSetReadAndStopped : TheCalendarIsSetReadAndStopped := by
  refine ⟨fun s v h htop => ?_, fun s v h htop => runAccess_eq h (calSetHi_ignored htop s.m), fun s h => ?_,
    fun s h => run_eq_after (clockStop_off h)⟩
  · obtain ⟨hcal, hnow, hled⟩ := calSet_own (fld v 0 16 ++ s.m.cal.setLo) s.m
    have hrun : exec (.calSetHiWrite v) s = .next (accessed (calSetHi v) s) := runAccess_served h (calSetHi v)
    have hm : (accessed (calSetHi v) s).m = (calSet (fld v 0 16 ++ s.m.cal.setLo) s.m).fresh := by
      rw [← calSetHi_steps htop]
      rfl
    have hset := calendar_set (s := (accessed (calSetHi v) s).m) (x := fld v 0 16 ++ s.m.cal.setLo)
      (by rw [hm]; exact congrArg Calendar.base hcal)
      (by rw [hm]; exact (congrArg Calendar.since hcal).trans hnow.symm)
      (by rw [hm]; exact congrArg Calendar.running hcal)
    refine ⟨_, hrun, rfl, ?_, hset.1, hset.2, ?_⟩
    · rw [hm]
      exact hcal
    · rw [hm]
      exact hled
  · exact congrArg (fun m => Host.Outcome.next (s.accessed m)) (readReg_calSecLo s.start s.m h)

/-! ### Registers with an effect of their own (R164, R236, R237, R557) -/

theorem latchFrom_telMsel (v : Word) (s0 s : Mach) : latchFrom 0x2068 (telMsel v s0) (telMsel v s) =
    { s with weft := { s.weft with
      msel := fld v 0 15
      telMargin := ((s0.weft.sample.find? (fun e => e.1 == (fld v 0 15 : BitVec 15).toNat)).map (·.2)).getD 0x80000000 } } := by
  have hlatch : latchFrom 0x2068 (telMsel v s0) (telMsel v s) = modWeft (fun w => { w with
    msel := fld v 0 15, telMargin := (telMsel v s0).weft.telMargin }) s := rfl
  have hmargin : (telMsel v s0).weft.telMargin =
      ((s0.weft.sample.find? (fun e => e.1 == (fld v 0 15 : BitVec 15).toNat)).map (·.2)).getD 0x80000000 := by
    unfold telMsel modWeft
    dsimp only
    cases s0.weft.sample.find? (fun e => e.1 == (fld v 0 15 : BitVec 15).toNat) <;> rfl
  rw [hlatch, hmargin]
  rfl

theorem emcSplit_locked {s : Mach} (h : s.start.locked = true) (v : Word) : emcSplit v s = s := by
  unfold emcSplit
  exact if_pos h

theorem emcSplit_legal {s : Mach} {v : Word} (h : s.start.locked = false) (ha : (fld v 0 5 : BitVec 5) ≠ 0) (hb : (fld v 5 5 : BitVec 5) ≠ 0)
    (hc : (fld v 10 5 : BitVec 5) ≠ 0) (hsum : (fld v 0 5 : BitVec 5).toNat + (fld v 5 5 : BitVec 5).toNat + (fld v 10 5 : BitVec 5).toNat = 16) :
    emcSplit v s = modEdge (fun e => { e with splitRead := fld v 0 5, splitWrite := fld v 5 5, splitRemote := fld v 10 5 }) s := by
  unfold emcSplit
  dsimp only
  rw [if_neg (by simp [h]), if_neg]
  rintro (h | h | h | h)
  · exact ha h
  · exact hb h
  · exact hc h
  · exact h hsum

theorem emcSplit_illegal {s : Mach} {v : Word} (h : s.start.locked = false) (hbad : (fld v 0 5 : BitVec 5) = 0 ∨ (fld v 5 5 : BitVec 5) = 0 ∨
    (fld v 10 5 : BitVec 5) = 0 ∨ (fld v 0 5 : BitVec 5).toNat + (fld v 5 5 : BitVec 5).toNat + (fld v 10 5 : BitVec 5).toNat ≠ 16) :
    emcSplit v s = modEdge (fun e => { e with splitRej := true }) s := by
  unfold emcSplit
  dsimp only
  rw [if_neg (by simp [h]), if_pos hbad]

theorem emcRimph_locked {s : Mach} (h : s.start.locked = true) (v : Word) : emcRimph v s = s := by
  unfold emcRimph
  exact if_pos h

theorem emcRimph_legal {s : Mach} {v : Word} (h : s.start.locked = false) (hv : fld v 0 4 ≠ (0 : BitVec 4)) :
    emcRimph v s = modEdge (fun e => { e with rimph := fld v 0 4 }) s := by
  unfold emcRimph
  rw [if_neg (by simp [h]), if_neg hv]

theorem emcRimph_illegal {s : Mach} {v : Word} (h : s.start.locked = false) (hv : fld v 0 4 = (0 : BitVec 4)) :
    emcRimph v s = modEdge (fun e => { e with rimphRej := true }) s := by
  unfold emcRimph
  rw [if_neg (by simp [h]), if_pos hv]

theorem registerWritesWithAnEffectOfTheirOwn : RegisterWritesWithAnEffectOfTheirOwn := by
  refine ⟨fun s v h => ?_, fun s d v h => runAccess_eq h rfl, fun s v h hlock => runAccess_eq h (emcSplit_locked hlock v),
    fun s v a b c h hlock ha hb hc hane hbne hcne hsum => ?_, fun s v a b c h hlock ha hb hc hbad => ?_,
    fun s v h hlock => runAccess_eq h (emcRimph_locked hlock v), fun s v h hlock hv => runAccess_eq h (emcRimph_legal hlock hv),
    fun s v h hlock hv => runAccess_eq h (emcRimph_illegal hlock hv)⟩
  · exact (runSelect_served h (telMsel v)).trans
      (congrArg (fun m => Host.Outcome.next (s.accessed m)) (latchFrom_telMsel v s.start s.m))
  · subst ha hb hc
    exact runAccess_eq h (emcSplit_legal hlock hane hbne hcne hsum)
  · subst ha hb hc
    exact runAccess_eq h (emcSplit_illegal hlock hbad)

/-- Settles O34. -/
theorem theCalendarAndRegisterEffects : Obligations.TheCalendarAndRegisterEffects :=
  ⟨theCalendarIsSetReadAndStopped, registerWritesWithAnEffectOfTheirOwn⟩

end Sys2Proof.Spec
end

section
/-! PROOFS. Committed records, and the ends of write sequences: the proof of O32. -/

namespace Sys2Proof.Spec

open Sys2Proof.Machine

/-! ### The record in flight stays (R540 to R543) -/

theorem queueEvent_inFlight (e : Event) (l : Ledger) : (queueEvent e l).inFlight = l.inFlight := by
  obtain ⟨-, -, h⟩ | ⟨-, -, h⟩ | ⟨-, -, h⟩ | ⟨-, -, h⟩ := queueEvent_cases e l <;> rw [h]
  rfl

/-- Records are queued, and the record in flight stays. -/
structure Queued (s t : Mach) : Prop where
  logged : Logged s t
  inFlight : t.led.inFlight = s.led.inFlight

theorem Queued.refl (s : Mach) : Queued s s := ⟨.refl s, rfl⟩

theorem Queued.trans {s t u : Mach} (h : Queued s t) (h' : Queued t u) : Queued s u :=
  ⟨h.logged.trans h'.logged, h'.inFlight.trans h.inFlight⟩

theorem Signals.queued {s t : Mach} (h : Signals s t) : Queued s t := ⟨h.logged, congrArg Ledger.inFlight h.led⟩

theorem queueEvent_queued (e : Event) (s : Mach) : Queued s (modLed (queueEvent e) s) :=
  ⟨modLed_logged _ s, queueEvent_inFlight e s.led⟩

theorem logModule_queued (cls flags : Nat) (det : List Byte) (s : Mach) : Queued s (logModule cls flags det s) :=
  queueEvent_queued _ s

theorem logAt_queued (cls scope flags die unit loc : Nat) (det : List Byte) (s : Mach) :
    Queued s (logAt cls scope flags die unit loc det s) := queueEvent_queued _ s

theorem foldl_queued {α : Type} {f : Mach → α → Mach} (hf : ∀ s a, Queued s (f s a)) (l : List α) :
    ∀ s, Queued s (l.foldl f s) := by
  induction l with
  | nil => exact .refl
  | cons a l ih => exact fun s => (hf s a).trans (ih _)

theorem logVmin_queued (s : Mach) : Queued s (logVmin s) := by
  unfold logVmin
  refine Queued.trans (t := s.dpw.foldl (fun s e => e.2.vrec.foldl (fun s r =>
    logAt 0x13 2 0 e.1 0xFFFF 0 ([BitVec.ofNat 8 r.1, BitVec.ofNat 8 e.1] ++ bytesOf (vmWords r.2)) s) s) s) ?_ ?_
  · exact foldl_queued (fun s e => foldl_queued (fun s r => logAt_queued _ _ _ _ _ _ _ s) _ s) _ s
  · exact foldl_queued (fun s r => logModule_queued _ _ _ s) _ _

/-! ### A record is committed (R536, R544, R552, R578) -/

/-- The flash with the record valid. -/
def validIn (r : LedRec) (l : Ledger) : Ledger :=
  { l with
    inFlight := none, carry := false, finalOut := false
    flash := l.flash.map (fun q => if q.seq == r.seq && q.block == r.block && q.offset == r.offset then { r with valid := true } else q) }

/-- A SUMMARY is due after a record other than a SUMMARY where events were suppressed. -/
def summaryDue (r : LedRec) (s : Mach) : Mach :=
  if r.ev.cls ≠ 0x6 ∧ !s.led.supp.isEmpty then modLed (fun l => { l with sumDue := true }) s else s

theorem recordCommitted_commits {s : Mach} {r : LedRec} (hflight : s.led.inFlight = some r)
    (hrun : ∃ w ∈ s.pwr.running, w.kind = .ledger) (hfinal : s.led.finalOut = false) :
    recordCommitted s = committed { r with valid := true } (modLed (validIn r) s) := by
  have hany : s.pwr.running.any (fun w => w.kind == .ledger) = true := by
    simpa [List.any_eq_true] using hrun
  unfold recordCommitted
  rw [hflight]
  dsimp only
  rw [if_neg (by simp [hany]), if_neg (by simp [hfinal])]
  rfl

theorem committed_plain {r : LedRec} (h2 : r.ev.cls ≠ 0x2) (h50 : r.ev.cls ≠ 0x50) (s : Mach) :
    committed r s = summaryDue r (announce r s) := by
  unfold committed summaryDue
  dsimp only
  rw [if_neg h2, if_neg h50]

theorem committed_epoch {r : LedRec} (h2 : r.ev.cls = 0x2) (s : Mach) :
    committed r s = summaryDue r (announce r (epochCommitted r s)) := by
  have h50 : r.ev.cls ≠ 0x50 := by rw [h2]; decide
  unfold committed summaryDue
  dsimp only
  rw [if_pos h2, if_neg h50]

theorem summaryDue_frame (r : LedRec) (s : Mach) : ∃ b, summaryDue r s = { s with led := { s.led with sumDue := b } } ∧
    b = (s.led.sumDue || (decide (r.ev.cls ≠ 0x6) && !s.led.supp.isEmpty)) := by
  unfold summaryDue
  split
  case isTrue h => exact ⟨true, rfl, by rw [decide_eq_true h.1, h.2, Bool.and_self, Bool.or_true]⟩
  case isFalse h =>
    refine ⟨s.led.sumDue, rfl, ?_⟩
    have hoff : (decide (r.ev.cls ≠ 0x6) && !s.led.supp.isEmpty) = false := by
      rw [Bool.eq_false_iff]
      intro hb
      rw [Bool.and_eq_true, decide_eq_true_eq] at hb
      exact h hb
    rw [hoff, Bool.or_false]

theorem noteRaise_out (a b : Nat) (s : Mach) : (noteRaise a b s).out = s.out := rfl

theorem modHost_out (f : HostBlk → HostBlk) (s : Mach) : (modHost f s).out = s.out := rfl

theorem emit_out (o : OutEv) (s : Mach) : (emit o s).out = s.out ++ [o] := rfl

/-- What an interrupt sends is at most its vector, and nothing where it has been raised or is masked. -/
theorem raiseIrq_out (c : Nat) (s : Mach) : ∃ vs, (raiseIrq c s).out = s.out ++ vs ∧ (∀ x ∈ vs, ∃ v, x = .vector v) ∧
    (bit s.host.irqCause c = true ∨ bit s.host.irqMask c = true → vs = []) := by
  have hset : (modHost (fun x => { x with irqCause := setBit x.irqCause c }) (noteRaise 0x10010 c s)).out = s.out := by
    rw [modHost_out, noteRaise_out]
  cases h : bit s.host.irqCause c with
  | true => exact ⟨[], by rw [raiseIrq_raised c s h, List.append_nil, noteRaise_out], fun _ hx => absurd hx List.not_mem_nil, fun _ => rfl⟩
  | false =>
    cases hm : bit s.host.irqMask c with
    | true => exact ⟨[], by rw [raiseIrq_masked c s h hm, List.append_nil, hset], fun _ hx => absurd hx List.not_mem_nil, fun _ => rfl⟩
    | false =>
      rw [raiseIrq_sent c s h hm]
      obtain e | e := sendVector_cases (tget 0 s.host.irqMap c)
        (modHost (fun x => { x with irqCause := setBit x.irqCause c }) (noteRaise 0x10010 c s))
      · exact ⟨[], by rw [e, List.append_nil, modHost_out, hset], fun _ hx => absurd hx List.not_mem_nil, fun _ => rfl⟩
      · refine ⟨[.vector (tget 0 s.host.irqMap c)], by rw [e, emit_out, hset], ?_, ?_⟩
        · intro x hx
          exact ⟨_, List.mem_singleton.1 hx⟩
        · rintro (hc | hc) <;> exact absurd hc Bool.false_ne_true

theorem announce_held {r : LedRec} {s : Mach} (h : s.cradle.receiver = none) :
    announce r s = raiseIrq 12 (modCradle (fun c => { c with held := (c.held ++ [r]).drop (c.held.length + 1 - 64) }) s) := by
  rw [announce, sendCper, h]

theorem announce_told {r : LedRec} {s : Mach} {x : Byte} (h : s.cradle.receiver = some x) :
    announce r s = raiseIrq 12 (emit (.platformEvent (cper s.start.serial r)) s) := by
  rw [announce, sendCper, h]

theorem flash_validIn (r : LedRec) (l : Ledger) : (validIn r l).flash = l.flash.map (fun q =>
    if q.seq = r.seq ∧ q.block = r.block ∧ q.offset = r.offset then { r with valid := true } else q) := by
  refine List.map_congr_left fun q _ => ?_
  refine if_congr ?_ rfl rfl
  simp only [Bool.and_eq_true, beq_iff_eq, and_assoc]

theorem recordCommitted_now {s : Mach} {r : LedRec} (hflight : s.led.inFlight = some r)
    (hrun : ∃ w ∈ s.pwr.running, w.kind = .ledger) (hfinal : s.led.finalOut = false) (h50 : r.ev.cls ≠ 0x50) :
    (recordCommitted s).now = s.now := by
  have hsum (m : Mach) : (summaryDue { r with valid := true } (announce { r with valid := true } m)).now = m.now := by
    obtain ⟨_, e, -⟩ := summaryDue_frame { r with valid := true } (announce { r with valid := true } m)
    obtain ⟨_, _, _, _, e'⟩ := announce_frame { r with valid := true } m
    rw [e, e']
  rw [recordCommitted_commits hflight hrun hfinal]
  by_cases h2 : r.ev.cls = 0x2
  · rw [committed_epoch (r := { r with valid := true }) h2, hsum]
    unfold epochCommitted
    dsimp only
    split <;> rfl
  · rw [committed_plain (r := { r with valid := true }) h2 h50, hsum]
    rfl

theorem epochCommitted_own (r : LedRec) (s : Mach) : ∃ x p,
    epochCommitted r s = { s with epoch := BitVec.ofNat 32 (numAt r.ev.detail 0 4), start := x, pwr := p } ∧
      (s.start.state = 2 → s.pwr.inloss = false → s.ctl.modulePending = false → x.state = 3 ∧ p.up = some 0) ∧
      (s.start.state ≠ 2 ∨ s.pwr.inloss = true ∨ s.ctl.modulePending = true → x.state = s.start.state ∧ p.up = s.pwr.up) := by
  unfold epochCommitted
  dsimp only
  split
  case isTrue h =>
    refine ⟨_, _, rfl, fun _ _ _ => ⟨rfl, rfl⟩, ?_⟩
    simp only [Bool.not_eq_true'] at h
    rintro (h' | h' | h')
    · exact absurd h.1 h'
    · exact absurd (h.2.1.symm.trans h') Bool.false_ne_true
    · exact absurd (h.2.2.symm.trans h') Bool.false_ne_true
  case isFalse h =>
    refine ⟨_, _, rfl, fun h1 h2 h3 => ?_, fun _ => ⟨rfl, rfl⟩⟩
    exact absurd ⟨h1, by simp [h2], by simp [h3]⟩ h

theorem aCommittedRecordIsValid : ACommittedRecordIsValid := by
  refine ⟨fun s r hflight hrun hfinal h2 h50 hrecv => ?_, fun s r x hflight hrun hfinal h2 h50 hrecv => ?_,
    fun s r hflight hrun hfinal h2 => ?_⟩
  · obtain ⟨hexec, hpend, hm⟩ := runs_to (f := recordCommitted) (s := s) (recordCommitted_now hflight hrun hfinal h50)
    refine ⟨_, hexec, hpend, ?_⟩
    rw [hm, recordCommitted_commits hflight hrun hfinal,
      committed_plain (r := { r with valid := true }) h2 h50, announce_held (s := modLed (validIn r) s.m) hrecv]
    have hirq := raiseIrq_cause (c := 12) (by decide)
      (modCradle (fun c => { c with held := (c.held ++ [{ r with valid := true }]).drop (c.held.length + 1 - 64) })
        (modLed (validIn r) s.m))
    obtain ⟨vs, hout, -, hvs⟩ := raiseIrq_out 12
      (modCradle (fun c => { c with held := (c.held ++ [{ r with valid := true }]).drop (c.held.length + 1 - 64) })
        (modLed (validIn r) s.m))
    have hsig := raiseIrq_signals 12
      (modCradle (fun c => { c with held := (c.held ++ [{ r with valid := true }]).drop (c.held.length + 1 - 64) })
        (modLed (validIn r) s.m))
    generalize raiseIrq 12 _ = m at hirq hout hsig ⊢
    obtain ⟨b, e, hb⟩ := summaryDue_frame { r with valid := true } m
    have hled : m.led = validIn r s.m.led := hsig.led
    rw [e, hled]
    refine ⟨rfl, flash_validIn r s.m.led, ?_, congrArg Cradle.held hsig.cradle, ?_, hsig.pwr, hsig.start, hirq, fun h => ?_⟩
    · rw [hb, hled]
      rfl
    · obtain ⟨_, _, _, rfl⟩ := hsig
      rfl
    · rw [hvs h, List.append_nil] at hout
      exact hout
  · obtain ⟨hexec, hpend, hm⟩ := runs_to (f := recordCommitted) (s := s) (recordCommitted_now hflight hrun hfinal h50)
    refine ⟨_, hexec, hpend, ?_⟩
    rw [hm, recordCommitted_commits hflight hrun hfinal,
      committed_plain (r := { r with valid := true }) h2 h50, announce_told (s := modLed (validIn r) s.m) hrecv]
    obtain ⟨vs, hout, hvec, hvs⟩ := raiseIrq_out 12
      (emit (.platformEvent (cper (modLed (validIn r) s.m).start.serial { r with valid := true })) (modLed (validIn r) s.m))
    have hsig := raiseIrq_signals 12
      (emit (.platformEvent (cper (modLed (validIn r) s.m).start.serial { r with valid := true })) (modLed (validIn r) s.m))
    generalize raiseIrq 12 _ = m at hout hsig ⊢
    obtain ⟨b, e, -⟩ := summaryDue_frame { r with valid := true } m
    rw [e]
    exact ⟨hsig.cradle, vs, hout, hvec, hvs⟩
  · have h50 : r.ev.cls ≠ 0x50 := by rw [h2]; decide
    obtain ⟨hexec, hpend, hm⟩ := runs_to (f := recordCommitted) (s := s) (recordCommitted_now hflight hrun hfinal h50)
    refine ⟨_, hexec, hpend, ?_⟩
    obtain ⟨x, p, hepoch, hgo, hstay⟩ := epochCommitted_own { r with valid := true } (modLed (validIn r) s.m)
    rw [hm, recordCommitted_commits hflight hrun hfinal, committed_epoch (r := { r with valid := true }) h2]
    generalize epochCommitted _ _ = m at hepoch ⊢
    obtain ⟨_, e, -⟩ := summaryDue_frame { r with valid := true } (announce { r with valid := true } m)
    obtain ⟨_, _, _, _, e'⟩ := announce_frame { r with valid := true } m
    rw [e, e', hepoch]
    exact ⟨rfl, hgo, hstay⟩

/-! ### Write sequences end (R490, R521, R523, R537, R576) -/

theorem finds_done {w : WSeq} {rest : List WSeq} {s : Mach} (hrun : s.pwr.running = w :: rest)
    (h : w.kind ≠ .ledger ∨ s.led.inFlight = none) :
    (s.pwr.running.find? (fun w => w.kind != .ledger || s.led.inFlight.isNone)).or s.pwr.running.head? = some w := by
  have hdone : (w.kind != .ledger || s.led.inFlight.isNone) = true := by
    rcases h with h | h
    · rw [bne_iff_ne.2 h, Bool.true_or]
    · rw [h, Option.isNone_none, Bool.or_true]
  rw [hrun, List.find?_cons_of_pos (p := fun w : WSeq => w.kind != .ledger || s.led.inFlight.isNone) hdone, Option.some_or]

theorem finds_record {w : WSeq} {r : LedRec} {s : Mach} (hrun : s.pwr.running = [w]) (hkind : w.kind = .ledger)
    (hflight : s.led.inFlight = some r) :
    (s.pwr.running.find? (fun w => w.kind != .ledger || s.led.inFlight.isNone)).or s.pwr.running.head? = some w := by
  rw [hrun, List.find?_cons_of_neg (by simp [hkind, hflight])]
  rfl

/-- The sequence `w` is over. -/
def seqOver (rest : List WSeq) (s : Mach) : Mach := modPwr (fun p => { p with running := rest }) s

theorem seqOver_now (rest : List WSeq) (s : Mach) : (seqOver rest s).now = s.now := rfl

theorem seqOver_led (rest : List WSeq) (s : Mach) : (seqOver rest s).led = s.led := rfl

theorem seqOver_start (rest : List WSeq) (s : Mach) : (seqOver rest s).start = s.start := rfl

theorem writeSequenceEnd_of_find {w : WSeq} {rest : List WSeq} {s : Mach} (hrun : s.pwr.running = w :: rest)
    (hfind : (s.pwr.running.find? (fun w => w.kind != .ledger || s.led.inFlight.isNone)).or s.pwr.running.head? = some w)
    (hrecal : (seqEnded w (seqOver rest s)).pwr.running ≠ [] ∨ (seqEnded w (seqOver rest s)).pwr.recal = none) :
    writeSequenceEnd s = seqEnded w (seqOver rest s) := by
  have herase : modPwr (fun p => { p with running := p.running.erase w }) s = seqOver rest s := by
    simp only [modPwr, seqOver, hrun, List.erase_cons_head]
  unfold writeSequenceEnd
  rw [hfind]
  dsimp only
  rw [herase]
  split
  next hnil hsome =>
    rcases hrecal with h | h
    · exact absurd hnil h
    · rw [h] at hsome
      exact absurd hsome nofun
  next => rfl

theorem seqEnded_done {w : WSeq} {s : Mach} (h : w.kind ≠ .ledger ∨ s.led.inFlight = none) : seqEnded w s = seqResult w.kind s := by
  unfold seqEnded
  split
  next r hkind hflight =>
    rcases h with h | h
    · exact absurd hkind h
    · rw [h] at hflight
      exact absurd hflight nofun
  next => rfl

theorem seqEnded_again {w : WSeq} {r : LedRec} {s : Mach} (hkind : w.kind = .ledger) (hflight : s.led.inFlight = some r)
    (h : epochLost r s = false) : seqEnded w s = writeAgain r s := by
  unfold seqEnded
  rw [hkind, hflight]
  dsimp only
  rw [if_neg (by simp [h])]

theorem seqEnded_epochLost {w : WSeq} {r : LedRec} {s : Mach} (hkind : w.kind = .ledger) (hflight : s.led.inFlight = some r)
    (h : epochLost r s = true) : seqEnded w s = epochFail s := by
  unfold seqEnded
  rw [hkind, hflight]
  dsimp only
  rw [if_pos h]

theorem writeSequenceEnd_result {w : WSeq} {s : Mach} (hrun : s.pwr.running = [w]) (hkind : w.kind ≠ .ledger)
    (hrecal : (seqResult w.kind (seqOver [] s)).pwr.recal = none) : writeSequenceEnd s = seqResult w.kind (seqOver [] s) := by
  have hend := seqEnded_done (s := seqOver [] s) (.inl hkind)
  rw [← hend] at hrecal ⊢
  exact writeSequenceEnd_of_find hrun (finds_done hrun (.inl hkind)) (.inr hrecal)

theorem requestSeq_queue {w : WSeq} {s : Mach} (h : s.pwr.waiting ≠ []) :
    requestSeq w s = pwrEvt 9 (modPwr (fun p => { p with waiting := p.waiting ++ [w], waits := satInc p.waits }) s) := by
  unfold requestSeq
  rw [if_neg]
  rw [Bool.and_eq_true, List.isEmpty_iff]
  exact fun hb => h hb.1

/-- The sequence of a record whose COMMIT is not programmed. -/
theorem writeAgain_own {r : LedRec} {s : Mach} (hwait : s.pwr.waiting ≠ []) :
    let n := evLen r.ev
    let p := planWrite s.start.serial n s.led
    (writeAgain r s).now = s.now ∧ (writeAgain r s).led = { s.led with
        inFlight := some { r with seq := p.1.nextSeq, block := p.1.wblock.toNat, offset := p.1.woff } } ∧
      (writeAgain r s).pwr.running = s.pwr.running ∧ (writeAgain r s).pwr.recal = s.pwr.recal ∧
      (writeAgain r s).pwr.waiting = s.pwr.waiting ++ [⟨.ledger, seqCost (n / 256 + 1 + p.2.1) p.2.2, 0⟩] := by
  unfold writeAgain
  dsimp only
  generalize planWrite s.start.serial (evLen r.ev) s.led = p
  rw [requestSeq_queue (by exact hwait)]
  have hsig := pwrEvt_signals 9 (modPwr (fun q => { q with
    waiting := q.waiting ++ [⟨.ledger, seqCost (evLen r.ev / 256 + 1 + p.2.1) p.2.2, 0⟩], waits := satInc q.waits })
      (modLed (fun l => { l with inFlight := some { r with seq := p.1.nextSeq, block := p.1.wblock.toNat, offset := p.1.woff } }) s))
  obtain ⟨_, _, _, e⟩ := hsig
  rw [e]
  exact ⟨rfl, rfl, rfl, rfl, rfl⟩

theorem epochLost_true {r : LedRec} {s : Mach} (hstate : s.start.state = 2) (hcls : r.ev.cls = 0x2)
    (h : ∃ q ∈ s.led.flash, q.valid = false ∧ q.seq ≠ r.seq ∧ q.ev = r.ev) : epochLost r s = true := by
  obtain ⟨q, hq, hvalid, hseq, hev⟩ := h
  have hany : s.led.flash.any (fun q => !q.valid && q.seq != r.seq && q.ev == r.ev) = true := by
    rw [List.any_eq_true]
    exact ⟨q, hq, by rw [hvalid, bne_iff_ne.2 hseq, hev, beq_self_eq_true]; rfl⟩
  rw [epochLost, hstate, hcls, hany]
  rfl

/-- The start without its epoch is over, and the domains go off in order. -/
theorem epochFail_own (s : Mach) :
    (epochFail s).now = s.now ∧ (epochFail s).start.state = 9 ∧ (epochFail s).start.fail = 3 ∧ (epochFail s).led.inFlight = none ∧
      (epochFail s).ports = s.ports ∧ (epochFail s).pwr = { s.pwr with up := none, burn := none, down := some (0, .stay) } := by
  have hfail : Queued (modStart (fun x => { x with fail := 3, state := 9 }) (modLed (fun l => { l with inFlight := none }) s))
      (startFail 3 9 (modLed (fun l => { l with inFlight := none }) s)) :=
    (logModule_queued _ _ _ _).trans (raiseIrq_signals 1 _).queued
  have hall := hfail.trans (logVmin_queued _)
  have hdown : epochFail s = modPwr (fun p => { p with up := none, burn := none, down := some (0, .stay) })
      (logVmin (startFail 3 9 (modLed (fun l => { l with inFlight := none }) s))) := by
    unfold epochFail beginDown
    exact if_neg (by decide)
  rw [hdown]
  generalize logVmin _ = m at hall ⊢
  obtain ⟨⟨_, _, _, l, rfl⟩, hflight⟩ := hall
  exact ⟨rfl, rfl, rfl, hflight, rfl, rfl⟩

theorem complete_recal (o : Owed) (st det : Nat) (s : Mach) : (complete o st det s).pwr = s.pwr := (complete_signals o st det s).pwr

theorem complete_storeSecond (i : Nat) (l : List Byte) (o : Owed) (s : Mach) :
    (complete o 0x00 0 (storeSecond i l s)).now = s.now ∧ (complete o 0x00 0 (storeSecond i l s)).pwr = s.pwr ∧
      (complete o 0x00 0 (storeSecond i l s)).start = countLicences { s.start with lic1 := tput s.start.lic1 i l } ∧
      (complete o 0x00 0 (storeSecond i l s)).host = (complete o 0x00 0 s).host := by
  have hlog : ∃ f, storeSecond i l s = modLed f (modStart (fun x : Start => countLicences { x with lic1 := tput x.lic1 i l }) s) := ⟨_, rfl⟩
  obtain ⟨f, e⟩ := hlog
  rw [e]
  generalize hx : (fun x : Start => countLicences { x with lic1 := tput x.lic1 i l }) = g
  refine ⟨rfl, rfl, ?_, rfl⟩
  exact (congrFun hx s.start).symm

theorem owedEnergy_idle {s : Mach} (h : s.pwr.running = []) : owedEnergy s = 0 := by
  rw [owedEnergy, h]
  rfl

theorem startSeq_licence {w : WSeq} (h : w.kind ≠ .ledger) (s : Mach) :
    startSeq w s = modPwr (fun p => { p with running := p.running ++ [{ w with since := s.now }] }) s := by
  unfold startSeq seqBegins
  split
  case h_1 hk _ => exact absurd hk h
  case h_2 => rfl

/-- The second copy of a licence is asked for. -/
theorem requestSeq_own {w : WSeq} (hkind : w.kind ≠ .ledger) {s : Mach} (hrun : s.pwr.running = []) :
    (requestSeq w s).now = s.now ∧ (requestSeq w s).led = s.led ∧ (requestSeq w s).start = s.start ∧
      (requestSeq w s).pwr.recal = s.pwr.recal ∧
      (s.pwr.waiting ≠ [] → (requestSeq w s).pwr.running = [] ∧ (requestSeq w s).pwr.waiting = s.pwr.waiting ++ [w]) ∧
      (s.pwr.waiting = [] → s.pwr.vaux = true → s.pwr.inloss = false → 50 + w.cost ≤ bankAvail s.pwr →
        (requestSeq w s).pwr.running = [{ w with since := s.now }] ∧ (requestSeq w s).pwr.waiting = []) := by
  have hmay (hvaux : s.pwr.vaux = true) (hloss : s.pwr.inloss = false) (hcost : 50 + w.cost ≤ bankAvail s.pwr) :
      mayStart s w.cost = true := mayStart_eq_true hvaux hloss (by rw [owedEnergy_idle hrun]; exact hcost)
  unfold requestSeq
  split
  case isTrue h =>
    rw [Bool.and_eq_true, List.isEmpty_iff] at h
    rw [startSeq_licence hkind]
    refine ⟨rfl, rfl, rfl, rfl, fun hne => absurd h.1 hne, fun _ _ _ _ => ⟨?_, h.1⟩⟩
    rw [modPwr_own, hrun]
    rfl
  case isFalse h =>
    obtain ⟨_, _, _, e⟩ := pwrEvt_signals 9 (modPwr (fun p => { p with waiting := p.waiting ++ [w], waits := satInc p.waits }) s)
    rw [e]
    refine ⟨rfl, rfl, rfl, rfl, fun _ => ⟨hrun, rfl⟩, fun hnil hvaux hloss hcost => ?_⟩
    rw [Bool.and_eq_true, List.isEmpty_iff] at h
    exact absurd ⟨hnil, hmay hvaux hloss hcost⟩ h

theorem writeSequencesEndWithTheirResult : WriteSequencesEndWithTheirResult := by
  refine ⟨fun s w rest hrun hkind hflight hrecal => ?_, fun s w r hrun hkind hflight hwait hrecal hlost => ?_,
    fun s w r hrun hkind hflight hrecal hstate hcls hagain => ?_, fun s w r o hrun hkind hrecal hact => ?_,
    fun s w r o hrun hkind hrecal hact => ?_, fun s w l o i hrun hkind hrecal hentry => ?_, fun s w l o i hrun hkind hrecal => ?_⟩
  · have hend : seqEnded w (seqOver rest s.m) = seqOver rest s.m := by
      rw [seqEnded_done (s := seqOver rest s.m) (.inr hflight), hkind]
      rfl
    have hw := writeSequenceEnd_of_find hrun (finds_done hrun (.inr hflight)) (by rw [hend]; exact hrecal)
    exact run_eq_after (hw.trans hend)
  · have hend := seqEnded_again (w := w) (s := seqOver [] s.m) hkind hflight hlost
    obtain ⟨hnow, hled, hrun', hrecal', hwait'⟩ := writeAgain_own (r := r) (s := seqOver [] s.m) hwait
    have hw := writeSequenceEnd_of_find hrun (finds_record hrun hkind hflight) (.inr (by rw [hend]; exact hrecal'.trans hrecal))
    rw [hend] at hw
    rw [← hw] at hnow hled hrun' hwait'
    obtain ⟨hexec, hpend, hm⟩ := runs_to (hnow.trans (seqOver_now [] s.m))
    rw [← hm] at hled hrun' hwait'
    rw [seqOver_led, seqOver_start] at hled hwait'
    exact ⟨_, hexec, hpend, hrun', hled, hwait'⟩
  · have hend := seqEnded_epochLost (w := w) (s := seqOver [] s.m) hkind hflight (epochLost_true hstate hcls hagain)
    obtain ⟨hnow, hst, hfail, hnone, hports, hpwr⟩ := epochFail_own (seqOver [] s.m)
    have hw := writeSequenceEnd_of_find hrun (finds_record hrun hkind hflight)
      (.inr (by rw [hend, hpwr]; exact hrecal))
    rw [hend] at hw
    rw [← hw] at hnow hst hfail hnone hports hpwr
    obtain ⟨hexec, hpend, hm⟩ := runs_to (hnow.trans (seqOver_now [] s.m))
    rw [← hm] at hst hfail hnone hports hpwr
    refine ⟨_, hexec, hpend, hst, hfail, hnone, ?_, ?_, ?_, hports⟩ <;> rw [hpwr] <;> rfl
  · have hres : seqResult w.kind (seqOver [] s.m) = complete o 0x00 0 (blowFuse r (seqOver [] s.m)) := by
      rw [hkind]
      rfl
    have hblow : blowFuse r (seqOver [] s.m) = { s.m with
        pwr := { s.m.pwr with running := [] }
        start := { s.m.start with
          programmed := setBit s.m.start.programmed (keyIndex r)
          ikey := tset 0 s.m.start.ikey (keyIndex r) (BitVec.ofNat 384 (numAt r 16 48)) } } := by
      unfold blowFuse
      exact if_pos hact
    have hw := writeSequenceEnd_result hrun (by rw [hkind]; exact nofun) (by rw [hres, complete_recal, hblow]; exact hrecal)
    exact run_eq_after (hw.trans (hres.trans (congrArg (complete o 0x00 0) hblow)))
  · have hres : seqResult w.kind (seqOver [] s.m) = complete o 0x00 0 (blowFuse r (seqOver [] s.m)) := by
      rw [hkind]
      rfl
    have hblow : blowFuse r (seqOver [] s.m) = { s.m with
        pwr := { s.m.pwr with running := [] }
        start := { s.m.start with revoked := setBit s.m.start.revoked (keyIndex r) } } := by
      unfold blowFuse
      exact if_neg (by omega)
    have hw := writeSequenceEnd_result hrun (by rw [hkind]; exact nofun) (by rw [hres, complete_recal, hblow]; exact hrecal)
    exact run_eq_after (hw.trans (hres.trans (congrArg (complete o 0x00 0) hblow)))
  · have hres : seqResult w.kind (seqOver [] s.m) = requestSeq (licenceSeq (some i) l o) (storeFirst i l (seqOver [] s.m)) := by
      rw [hkind]
      have hnone : emptyEntry (seqOver [] s.m).start = some i := hentry
      unfold seqResult licenceStored
      dsimp only
      rw [hnone]
    have hseq : (licenceSeq (some i) l o).kind ≠ .ledger := nofun
    obtain ⟨hnow, hled, hst, hrec, hwaits, hstarts⟩ := requestSeq_own hseq (s := storeFirst i l (seqOver [] s.m)) rfl
    have hw := writeSequenceEnd_result hrun (by rw [hkind]; exact nofun) (by rw [hres]; exact hrec.trans hrecal)
    rw [hres] at hw
    rw [← hw] at hnow hled hst hwaits hstarts
    obtain ⟨hexec, hpend, hm⟩ := runs_to (hnow.trans (seqOver_now [] s.m))
    rw [← hm] at hled hst hwaits hstarts
    exact ⟨_, hexec, hpend, hled, hst, hwaits, hstarts⟩
  · have hres : seqResult w.kind (seqOver [] s.m) = complete o 0x00 0 (storeSecond i l (seqOver [] s.m)) := by
      rw [hkind]
      rfl
    have hw := writeSequenceEnd_result hrun (by rw [hkind]; exact nofun) (by rw [hres]; exact hrecal)
    rw [hres] at hw
    obtain ⟨hnow, hpwr, hst, hhost⟩ := complete_storeSecond i l o (seqOver [] s.m)
    rw [← hw] at hnow hpwr hst hhost
    obtain ⟨hexec, hpend, hm⟩ := runs_to (hnow.trans (seqOver_now [] s.m))
    rw [← hm] at hpwr hst hhost
    exact ⟨_, hexec, hpend, congrArg Power.running hpwr, hst, hhost⟩

/-- Settles O32. -/
theorem ledgerAndFlashWritesEnd : Obligations.LedgerAndFlashWritesEnd := ⟨aCommittedRecordIsValid, writeSequencesEndWithTheirResult⟩

end Sys2Proof.Spec
end

section
/-! PROOFS. The cradle endpoint and the mailbox: the proofs of O35 and O36. -/

namespace Sys2Proof.Spec

open Sys2Proof.Machine

/-! ### Commands on the bus (R550, R599) -/

theorem not_offBus {s : Mach} (h : OnBus s) : ¬ (s.start.state = 0 ∨ (!s.pwr.vaux) = true) := by
  obtain ⟨hstate, hvaux⟩ := h
  rintro (hoff | hoff)
  · exact hstate hoff
  · rw [hvaux] at hoff
    exact Bool.false_ne_true hoff

theorem run_onBus {s : State} (h : OnBus s.m) {f g : Mach → Mach} (hfg : f s.m = g s.m) : run (onBus f) s = .next (after g s) := by
  refine run_eq_after ?_
  unfold onBus
  rw [if_neg (not_offBus h), hfg]

theorem onBus_answers {s : Mach} (h : OnBus s) (f : Mach → Mach) : onBus f s = f s := by
  unfold onBus
  exact if_neg (not_offBus h)

/-! ### Discovery and time (R548, R550, R560) -/

theorem pldmCommands_other {t : Byte} (h0 : t ≠ 0) (h2 : t ≠ 2) (h3 : t ≠ 3) (h5 : t ≠ 5) : pldmCommands t.toNat = [] := by
  have hne (n : Byte) (h : t ≠ n) : t.toNat ≠ n.toNat := fun e => h (BitVec.eq_of_toNat_eq e)
  unfold pldmCommands
  split
  next e => exact absurd e (hne 0 h0)
  next e => exact absurd e (hne 2 h2)
  next e => exact absurd e (hne 3 h3)
  next e => exact absurd e (hne 5 h5)
  next => rfl

theorem getPldmCommands_none {t : Nat} (h : pldmCommands t = []) : getPldmCommands t = pldm 0 5 0x83 [] := if_pos h

theorem setDateTime_own (x : BitVec 48) (s : Mach) :
    calSec (pldm 3 0x0D 0 [] (calSet x s)) = x ∧ calFrac (pldm 3 0x0D 0 [] (calSet x s)) = 0 := by
  obtain ⟨hcal, hnow, -⟩ := calSet_own x s
  have h := calendar_set (s := pldm 3 0x0D 0 [] (calSet x s)) (x := x) (congrArg Calendar.base hcal)
    ((congrArg Calendar.since hcal).trans hnow.symm) (congrArg Calendar.running hcal)
  exact ⟨h.2, h.1⟩

theorem theEndpointAnswersDiscoveryAndTime : TheEndpointAnswersDiscoveryAndTime := by
  intro s h
  refine ⟨fun a => run_onBus h rfl, fun e => run_onBus h rfl, run_onBus h rfl, run_onBus h rfl, run_onBus h rfl,
    run_onBus h rfl, run_onBus h rfl, run_onBus h rfl, fun t h0 h2 h3 h5 => ?_, run_onBus h rfl, run_onBus h rfl,
    run_onBus h rfl, fun x => ?_⟩
  · exact run_onBus h (congrFun (getPldmCommands_none (pldmCommands_other h0 h2 h3 h5)) s.m)
  · obtain ⟨hsec, hfrac⟩ := setDateTime_own x s.m
    have hbus := onBus_answers h (fun s => pldm 3 0x0D 0 [] (calSet x s))
    obtain ⟨hexec, hpend, hm⟩ := runs_to (f := onBus (fun s => pldm 3 0x0D 0 [] (calSet x s))) (s := s) (by rw [hbus]; rfl)
    refine ⟨_, hexec, hpend, ?_⟩
    rw [hm, hbus]
    exact ⟨hsec, hfrac, rfl, rfl, rfl, rfl⟩

theorem doeDiscovery_linked {s : Mach} (hpower : s.start.state ≠ 0) (hperst : s.host.perst = false) (i : Nat) :
    doeDiscovery i s = reply 0x01 0 0 (match i with | 0 => [0x01, 0x00, 0x00, 0x01] | 1 => [0x01, 0x00, 0x01, 0x00] | _ => [0xFF, 0xFF, 0x00, 0x00]) s := by
  have hlink : noLink s = false := by
    have hne : (s.start.state == 0) = false := beq_eq_false_iff_ne.2 hpower
    rw [noLink, hne, hperst]
    rfl
  unfold doeDiscovery
  exact if_neg (by simp [hlink])

theorem theMailboxListsItsObjects : TheMailboxListsItsObjects := by
  intro s hpower hperst
  refine ⟨run_eq_after (doeDiscovery_linked hpower hperst 0), run_eq_after (doeDiscovery_linked hpower hperst 1), fun i hi => ?_⟩
  refine run_eq_after ((doeDiscovery_linked hpower hperst i.toNat).trans ?_)
  split
  next e => omega
  next e => omega
  next => rfl

/-- Settles O35. -/
theorem theCradleEndpointAnswers : Obligations.TheCradleEndpointAnswers :=
  ⟨theEndpointAnswersDiscoveryAndTime, theMailboxListsItsObjects⟩

/-! ### Sensors (R551) -/

theorem sensor_none {s : Mach} {i : Nat} (h : i = 0 ∨ 13 < i) : sensor s i = none := by
  rcases h with rfl | h
  · rfl
  · obtain ⟨k, rfl⟩ : ∃ k, i = k + 14 := ⟨i - 14, by omega⟩
    rfl

theorem stateSensor_none {s : Mach} {i : Nat} (h : i < 14 ∨ 16 < i) : stateSensor s i = none := by
  rcases h with h | h
  · have hne (n : Nat) (hn : 14 ≤ n) : i ≠ n := by omega
    unfold stateSensor
    split
    next => exact absurd rfl (hne 14 (by decide))
    next => exact absurd rfl (hne 15 (by decide))
    next => exact absurd rfl (hne 16 (by decide))
    next => rfl
  · obtain ⟨k, rfl⟩ : ∃ k, i = k + 17 := ⟨i - 17, by omega⟩
    rfl

theorem sensorReply_none {command : Nat} {x : Option (List Byte)} (h : x = none) (s : Mach) :
    sensorReply command x s = pldm 2 command 0x80 [] s := by rw [h, sensorReply]

theorem toBytes_one {w : Nat} (x : BitVec w) : toBytes 1 x.toNat = [x.setWidth 8] :=
  congrArg (fun b => [b]) (BitVec.ofNat_toNat 8 x)

theorem stateSensor_start (s : Mach) : sensorReply 0x21 (stateSensor s 14) s = tells 0x12 0x21 0 [s.start.state.setWidth 8] s := by
  have hdata : stateSensor s 14 = some [s.start.state.setWidth 8] := congrArg some (toBytes_one s.start.state)
  rw [hdata]
  rfl

theorem stateSensor_faulted (s : Mach) :
    sensorReply 0x21 (stateSensor s 16) s = tells 0x12 0x21 0 [if s.keep.faulted then 1 else 0] s := by
  have hdata : stateSensor s 16 = some [if s.keep.faulted then 1 else 0] := by
    unfold stateSensor
    cases s.keep.faulted <;> rfl
  rw [hdata]
  rfl

/-! ### The effecter: a module reset, and a power-off (R33, R471) -/

/-- The host block and the units of the update lists alone differ. -/
def ListsEnded (s t : Mach) : Prop := ∃ h u, t = { s with host := h, trn := u }

theorem ListsEnded.refl (s : Mach) : ListsEnded s s := ⟨s.host, s.trn, rfl⟩

theorem ListsEnded.trans {s t u : Mach} (h : ListsEnded s t) (h' : ListsEnded t u) : ListsEnded s u := by
  obtain ⟨_, _, rfl⟩ := h
  obtain ⟨_, _, rfl⟩ := h'
  exact ⟨_, _, rfl⟩

theorem complete_listsEnded (o : Owed) (st det : Nat) (s : Mach) : ListsEnded s (complete o st det s) := by
  obtain ⟨h, e⟩ := complete_only o st det s
  exact ⟨h, s.trn, e⟩

theorem foldl_listsEnded {α : Type} {f : Mach → α → Mach} (hf : ∀ s a, ListsEnded s (f s a)) (l : List α) :
    ∀ s, ListsEnded s (l.foldl f s) := by
  induction l with
  | nil => exact .refl
  | cons a l ih => exact fun s => (hf s a).trans (ih _)

theorem iter_listsEnded {f : Nat → Mach → Mach} (hf : ∀ i s, ListsEnded s (f i s)) (n : Nat) (s : Mach) :
    ListsEnded s (iter n f s) := foldl_listsEnded (fun s i => hf i s) _ s

/-- The list of a unit ends, and those that wait behind it. -/
theorem dropLists_listsEnded (s : Mach) : ListsEnded s (dropLists s) := by
  refine iter_listsEnded (fun u s => ?_) 32 s
  dsimp only
  refine ListsEnded.trans ?_ (foldl_listsEnded (fun s (a : ArmedList) => complete_listsEnded a.owed 0x10 0 s) _ _)
  split
  · exact (complete_listsEnded _ _ _ s).trans ⟨_, _, rfl⟩
  · exact ⟨s.host, _, rfl⟩

theorem forgetLists_listsEnded (s : Mach) : ListsEnded s (forgetLists s) :=
  iter_listsEnded (fun _ s => ⟨_, s.trn, rfl⟩) 16 s

/-- What a module reset leaves of the module when it is accepted. -/
theorem moduleAccept_frame (cause : BitVec 4) (s : Mach) : ∃ h u p l k, moduleAccept cause s = { s with
    host := h, trn := u, pwr := p, led := l, keep := k
    ctl := { s.ctl with scope := 0, modulePending := true, cause := cause, reqRound := roundNow s } } := by
  unfold moduleAccept
  obtain ⟨⟨p, e⟩, -⟩ := dropSlotWrites_frame
    (modCtl (fun c => { c with scope := 0, modulePending := true, cause := cause, reqRound := roundNow s }) s)
  rw [e]
  obtain ⟨h, u, e⟩ := (forgetLists_listsEnded _).trans (dropLists_listsEnded _)
  rw [e]
  exact ⟨h, u, _, _, _, rfl⟩

/-- A module reset that a powered module accepts waits for its SUMMARY. -/
theorem requestReset_module {cause : BitVec 4} {s : Mach} (hstate : s.start.state ≠ 0) (hpend : s.ctl.modulePending = false) :
    (requestReset 3 cause none s).now = s.now ∧ (requestReset 3 cause none s).out = s.out ∧
      (requestReset 3 cause none s).ctl.modulePending = true ∧ (requestReset 3 cause none s).ctl.cause = cause ∧
      (requestReset 3 cause none s).ctl.scope = 0 ∧ (requestReset 3 cause none s).led.sumFinal = true := by
  have habsorb : absorbs 3 s = false := hpend
  have hreset : requestReset 3 cause none s = owedSummary (moduleAccept cause
      (resetEvent 3 cause false (roundNow s) (modCtl (fun c => { c with owed := c.owed ++ [] }) s))) := by
    unfold requestReset
    rw [if_neg hstate, habsorb]
    rfl
  obtain ⟨_, _, _, _, _, e⟩ := moduleAccept_frame cause
    (resetEvent 3 cause false (roundNow s) (modCtl (fun c => { c with owed := c.owed ++ [] }) s))
  rw [hreset, e]
  exact ⟨rfl, rfl, rfl, rfl, rfl, rfl⟩

theorem setEffecter_reset (s : Mach) : setEffecter 17 1 s = requestReset 3 3 none (pldm 2 0x39 0 [] s) := rfl

theorem setEffecter_off {s : Mach} (h : s.pwr.down = none) : setEffecter 17 2 s = pldm 2 0x39 0 [] (owedSummary s) := by
  have hoff : setEffecter 17 2 s = pldm 2 0x39 0 [] (if s.pwr.down.isSome then s else owedSummary s) := rfl
  rw [hoff, h]
  rfl

theorem setEffecter_down {s : Mach} (h : s.pwr.down ≠ none) : setEffecter 17 2 s = pldm 2 0x39 0 [] s := by
  have hoff : setEffecter 17 2 s = pldm 2 0x39 0 [] (if s.pwr.down.isSome then s else owedSummary s) := rfl
  rw [hoff, if_pos (Option.isSome_iff_ne_none.2 h)]

theorem setEffecter_badState {x : Byte} (h1 : x ≠ 1) (h2 : x ≠ 2) (s : Mach) : setEffecter 17 x.toNat s = pldm 2 0x39 0x81 [] s := by
  have hne1 : x.toNat ≠ 1 := fun e => h1 (BitVec.eq_of_toNat_eq e)
  have hne2 : x.toNat ≠ 2 := fun e => h2 (BitVec.eq_of_toNat_eq e)
  unfold setEffecter
  rw [if_neg (by decide), if_neg hne1, if_neg hne2]

theorem setEffecter_badEffecter {e : BitVec 16} (h : e ≠ 17) (x : Nat) (s : Mach) :
    setEffecter e.toNat x s = pldm 2 0x39 0x80 [] s := by
  have hne : e.toNat ≠ 17 := fun h' => h (BitVec.eq_of_toNat_eq h')
  unfold setEffecter
  exact if_pos hne

theorem pollEvent_none {s : Mach} (h : s.cradle.held = []) : pollEvent s = pldm 2 0x0B 0 [] s := by
  rw [pollEvent, h]

theorem pollEvent_oldest {s : Mach} {r : LedRec} {rest : List LedRec} (h : s.cradle.held = r :: rest) :
    pollEvent s = pldm 2 0x0B 0 (cper s.start.serial r) (modCradle (fun c => { c with held := rest }) s) := by
  rw [pollEvent, h]

/-- Settles O36. -/
theorem sensorsEffecterAndEvents : Obligations.SensorsEffecterAndEvents := by
  intro s h
  refine ⟨fun x hx => run_onBus h (congrFun (if_neg hx) s.m), fun x hx => run_onBus h (congrFun (if_pos hx) s.m), run_onBus h rfl,
    run_onBus h rfl, run_onBus h rfl, run_onBus h rfl, run_onBus h rfl,
    fun i hi => run_onBus h (sensorReply_none (sensor_none (hi.imp_left (congrArg BitVec.toNat))) s.m),
    run_onBus h (stateSensor_start s.m), run_onBus h rfl, run_onBus h (stateSensor_faulted s.m),
    fun i hi => run_onBus h (sensorReply_none (stateSensor_none hi) s.m), fun hready hpend => ?_,
    fun hdown => run_onBus h (setEffecter_off hdown), fun hdown => run_onBus h (setEffecter_down hdown),
    fun x h1 h2 => run_onBus h (setEffecter_badState h1 h2 s.m), fun e x he => run_onBus h (setEffecter_badEffecter he x.toNat s.m),
    fun e => run_onBus h rfl, fun hheld => run_onBus h (pollEvent_none hheld),
    fun r rest hheld => run_onBus h (pollEvent_oldest hheld)⟩
  have hbus := (onBus_answers h (setEffecter 17 1)).trans (setEffecter_reset s.m)
  obtain ⟨hnow, hout, hp, hc, hs, hsum⟩ := requestReset_module (cause := 3) (s := pldm 2 0x39 0 [] s.m) h.1 hpend
  rw [← hbus] at hnow hout hp hc hs hsum
  obtain ⟨hexec, hpending, hm⟩ := runs_to (f := onBus (setEffecter 17 1)) (s := s) hnow
  rw [← hm] at hout hp hc hs hsum
  exact ⟨_, hexec, hpending, hp, hc, hs, hsum, hout⟩

end Sys2Proof.Spec
end

section
/-! PROOFS. Firmware updates over PLDM, and the SPDM responder: the proofs of O37 and O38. -/

namespace Sys2Proof.Spec

open Sys2Proof.Machine

/-! ### Firmware updates (R553) -/

theorem updCmd_none {command : Nat} {ok : UpdStage → Bool} {go : Upd → Mach → Mach} {s : Mach} (h : s.cradle.upd = none) :
    updCmd command ok go s = pldm 5 command 0x80 [] s := by
  rw [updCmd, h]

theorem updCmd_goes {command : Nat} {ok : UpdStage → Bool} {go : Upd → Mach → Mach} {s : Mach} {x : Upd} {stage : UpdStage}
    (h : Updating s x stage) (hok : ok stage = true) : updCmd command ok go s = go x s := by
  obtain ⟨hupd, hhost, hstage⟩ := h
  rw [updCmd, hupd]
  dsimp only
  rw [if_neg (by simp [hhost]), if_pos (by rw [hstage]; exact hok)]

theorem updCmd_refuses {command : Nat} {ok : UpdStage → Bool} {go : Upd → Mach → Mach} {s : Mach} {x : Upd} {stage : UpdStage}
    (h : Updating s x stage) (hok : ok stage = false) : updCmd command ok go s = pldm 5 command 0x84 [] s := by
  obtain ⟨hupd, hhost, hstage⟩ := h
  rw [updCmd, hupd]
  dsimp only
  rw [if_neg (by simp [hhost]), if_neg (by rw [hstage, hok]; exact Bool.false_ne_true)]

/-- The update in progress is `x` from now on. -/
def putUpd (x : Upd) (s : Mach) : Mach := { s with cradle := { s.cradle with upd := some x } }

theorem modUpd_some {s : Mach} {x : Upd} (h : s.cradle.upd = some x) (f : Upd → Upd) : modUpd f s = putUpd (f x) s := by
  rw [modUpd, modCradle, h]
  rfl

theorem requestUpdate_free {s : Mach} (h : s.cradle.upd = none) : requestUpdate s = pldm 5 0x10 0 []
    (putUpd { host := false, stage := .ready, slot := !s.start.slot, length := 0, data := [] } s) := by
  rw [requestUpdate, h]
  rfl

theorem requestUpdate_busy {s : Mach} (h : s.cradle.upd ≠ none) : requestUpdate s = pldm 5 0x10 0x81 [] s :=
  if_pos (Option.isSome_iff_ne_none.2 h)

theorem updateComponent_begins {s : Mach} {x : Upd} {n : Nat} (h : Updating s x .table) (hn : n ≠ 0) (hmax : n ≤ 0x4000000) :
    updateComponent n s = askData 0 (pldm 5 0x14 0 [] (putUpd { x with stage := .transfer, length := n, data := [] } s)) := by
  have hfits : ¬ (n = 0 ∨ 0x4000000 < n) := by omega
  unfold updateComponent
  rw [updCmd_goes h rfl, if_neg hfits, modUpd_some h.1]

theorem firmwareData_takes {s : Mach} {x : Upd} {off : Nat} {data : List Byte} (h : Updating s x .transfer)
    (hoff : off = x.data.length) (hdata : data ≠ []) (hlen : x.data.length + data.length ≤ x.length) :
    firmwareData off data s =
      if x.data.length + data.length < x.length then
        askData (x.data.length + data.length) (putUpd { x with data := x.data ++ data } s)
      else requestSeq (firstBlock (putUpd { x with data := x.data ++ data } s) (x.data ++ data) none)
        (pldm 5 0x16 0 [] (putUpd { x with data := x.data ++ data } s)) := by
  obtain ⟨hupd, hhost, hstage⟩ := h
  have htakes : ¬ (x.host ∨ x.stage ≠ .transfer ∨ off ≠ x.data.length ∨ data = [] ∨ x.length < x.data.length + data.length) := by
    rw [hhost, hstage]
    rintro (h | h | h | h | h)
    · exact Bool.false_ne_true h
    · exact h rfl
    · exact h hoff
    · exact hdata h
    · omega
  have hput := modUpd_some hupd (fun x => { x with data := x.data ++ data })
  unfold firmwareData
  rw [hupd]
  dsimp only
  rw [if_neg htakes, hput]

theorem imageBlocks_eq (u : List Byte) : imageBlocks u = ceilDiv u.length 65536 := rfl

theorem blockStart_first (u : List Byte) : blockStart u (imageBlocks u - 1) = 0 := by
  rw [blockStart, Nat.sub_self, Nat.mul_zero]

theorem firstBlock_eq (s : Mach) (u : List Byte) (o : Option Owed) : firstBlock s u o =
    { kind := .image (!s.start.slot) u (ceilDiv u.length 65536 - 1) o, cost := seqCost (min 256 (ceilDiv u.length 256)) 1 } := by
  rw [firstBlock, imageSeq, blockStart_first, imageBlocks_eq, Nat.sub_zero]

theorem requestSeq_image {w : WSeq} {s : Mach} (hkind : w.kind ≠ .ledger) (hwait : s.pwr.waiting = []) (hmay : mayStart s w.cost = true) :
    requestSeq w s = modPwr (fun p => { p with running := p.running ++ [{ w with since := s.now }] }) s := by
  rw [requestSeq_starts hwait hmay, startSeq_licence hkind]

/-- The update that PLDM cancels. -/
def updCancelled (x : Upd) (s : Mach) : Mach :=
  logModule 0x63 0 (toBytes 1 (if x.slot then 1 else 0) ++ toBytes 8 (upSeq x.data) ++ toBytes 1 2)
    (modPwr (fun p => { p with waiting := p.waiting.filter (fun w =>
      match w.kind with | .image _ _ _ none => false | _ => true) }) (modCradle (fun c => { c with upd := none }) s))

theorem cancelUpdate_goes {s : Mach} {x : Upd} (hupd : s.cradle.upd = some x) (hhost : x.host = false) :
    cancelUpdate s = pldm 5 0x1D 0 [] (updCancelled x s) := by
  unfold cancelUpdate
  rw [updCmd_goes ⟨hupd, hhost, rfl⟩ rfl]
  rfl

theorem toBytes_one_flag (b : Bool) : toBytes 1 (if b then 1 else 0) = [if b then 1 else 0] := by
  cases b <;> rfl

theorem updCancelled_own (x : Upd) (s : Mach) :
    (pldm 5 0x1D 0 [] (updCancelled x s)).now = s.now ∧ (pldm 5 0x1D 0 [] (updCancelled x s)).cradle.upd = none ∧
      (pldm 5 0x1D 0 [] (updCancelled x s)).led = queueEvent (mkEvent s 0x63 0 0 0xFFFF 0xFFFF 0
        ([if x.slot then 1 else 0] ++ toBytes 8 (upSeq x.data) ++ [2])) s.led ∧
      (pldm 5 0x1D 0 [] (updCancelled x s)).out = (tells 0x15 0x1D 0 [] s).out ∧
      (pldm 5 0x1D 0 [] (updCancelled x s)).start = s.start ∧
      (pldm 5 0x1D 0 [] (updCancelled x s)).pwr.running = s.pwr.running := by
  rw [← toBytes_one_flag]
  exact ⟨rfl, rfl, rfl, rfl, rfl, rfl⟩

/-- Settles O37. -/
theorem firmwareUpdatesGoThroughTheirStages : Obligations.FirmwareUpdatesGoThroughTheirStages := by
  intro s h
  refine ⟨run_onBus h rfl, run_onBus h ?_, fun hupd => run_onBus h (requestUpdate_free hupd),
    fun hupd => run_onBus h (requestUpdate_busy hupd), fun x hx => run_onBus h ?_, fun hupd => run_onBus h (updCmd_none hupd),
    fun x n hx hn hmax => ?_, fun x off data hx hoff hdata hlen => run_onBus h ?_,
    fun x off data hx hoff hdata hlen hwait => ?_, fun x hx => run_onBus h (updCmd_goes hx rfl),
    fun x hx => run_onBus h (updCmd_refuses hx rfl), run_onBus h rfl, fun x hupd hhost => ?_⟩
  · rw [toBytes_one_flag, toBytes_one_flag]
    rfl
  · rw [updCmd_goes hx rfl, modUpd_some hx.1]
    rfl
  · have hne : n.toNat ≠ 0 := fun e => hn (BitVec.eq_of_toNat_eq e)
    exact run_onBus h (updateComponent_begins hx hne hmax)
  · rw [firmwareData_takes hx hoff hdata (by omega), if_pos hlen]
    rfl
  · intro n w hmay
    refine run_onBus h ?_
    have hn : (x.data ++ data).length = n := List.length_append
    rw [firmwareData_takes hx hoff hdata (by omega), if_neg (by omega), firstBlock_eq, hn]
    exact requestSeq_image (w := w) nofun hwait hmay
  · have hbus := (onBus_answers h cancelUpdate).trans (cancelUpdate_goes hupd hhost)
    obtain ⟨hnow, hown⟩ := updCancelled_own x s.m
    rw [← hbus] at hnow hown
    obtain ⟨hexec, hpending, hm⟩ := runs_to (f := onBus cancelUpdate) (s := s) hnow
    rw [← hm] at hown
    exact ⟨_, hexec, hpending, hown⟩

/-! ### The SPDM responder (R524) -/

theorem spdmCmd_goes {n : Nat} {s : Mach} (h : SpdmAt s n) (go : Mach → Mach) : spdmCmd n go s = go s := by
  obtain ⟨-, hstate, hstage⟩ := h
  have hup : ¬ (s.start.state ≠ 7 ∧ s.start.state ≠ 8) := fun hne => hstate.elim hne.1 hne.2
  unfold spdmCmd
  rw [if_neg hup, if_neg (by omega)]

theorem run_spdm {n : Nat} {s : State} (h : SpdmAt s.m n) {go g : Mach → Mach} (hgo : go s.m = g s.m) :
    run (onBus (spdmCmd n go)) s = .next (after g s) :=
  run_onBus h.1 ((spdmCmd_goes h go).trans hgo)

theorem spdmCmd_early {n : Nat} {s : Mach} (hstate : s.start.state = 7 ∨ s.start.state = 8) (h : s.cradle.spdm.toNat < n)
    (go : Mach → Mach) : spdmCmd n go s = spdm 0x7F 4 [] s := by
  have hup : ¬ (s.start.state ≠ 7 ∧ s.start.state ≠ 8) := fun hne => hstate.elim hne.1 hne.2
  unfold spdmCmd
  rw [if_neg hup, if_pos h]

theorem onBus_spdm_down {n : Nat} {s : Mach} (h7 : s.start.state ≠ 7) (h8 : s.start.state ≠ 8) (go : Mach → Mach) :
    onBus (spdmCmd n go) s = s := by
  have hcmd : spdmCmd n go s = s := if_pos ⟨h7, h8⟩
  unfold onBus
  split
  · rfl
  · exact hcmd

theorem slot_ne_zero {slot : Byte} (h : slot ≠ 0) : slot.toNat ≠ 0 := fun e => h (BitVec.eq_of_toNat_eq e)

theorem negotiate_refuses {h g : Bool} (hgo : (h && g) = false) (s : Mach) :
    (if h && g then spdm 0x63 0 (toBytes 4 0x80 ++ toBytes 4 0x02) (setSpdm 3 s) else spdm 0x7F 1 [] s) = spdm 0x7F 1 [] s :=
  if_neg (by rw [hgo]; exact Bool.false_ne_true)

theorem getCertificate_within {off n : Nat} (h : off ≤ Config.certChain.length) :
    getCertificate 0 off n = spdm 0x02 0 ((Config.certChain.drop off).take n) := if_neg (by omega)

theorem getCertificate_slot {slot : Nat} (h : slot ≠ 0) (off n : Nat) : getCertificate slot off n = spdm 0x7F 1 [] := if_pos (.inl h)

theorem challenge_slot {slot : Nat} (h : slot ≠ 0) (nonce : BitVec 256) : challenge slot nonce = spdm 0x7F 1 [] := if_pos h

theorem measIndices_ready {s : Mach} (h : s.start.state = 7) : measIndices s = [1, 2, 3, 4, 5, 6, 7, 8] :=
  if_neg (by rw [h]; decide)

theorem measIndices_recovery {s : Mach} (h : s.start.state = 8) : measIndices s = [1, 6] := if_pos h

theorem measBlock_ready {s : Mach} (h : s.start.state = 7) (i : Nat) :
    measBlock s i = [BitVec.ofNat 8 i, BitVec.ofNat 8 (measType i)] ++ bytesOf (tget 0 s.start.meas i) := by
  unfold measBlock
  dsimp only
  rw [if_neg (by rw [h]; decide)]
  rfl

/-- The digest of the ROM, which recovery forms. -/
theorem fixMeasures_rom (s : Mach) : tget 0 (fixMeasures s).start.meas 1 = Config.romDigest := by
  unfold fixMeasures modStart
  dsimp only
  rw [tget_tset_other _ _ _ (by decide), tget_tset_other _ _ _ (by decide), tget_tset_other _ _ _ (by decide),
    tget_tset_other _ _ _ (by decide), tget_tset_same]

theorem measBlock_rom {s : Mach} (h : s.start.state = 8) : measBlock s 1 = [1, 0] ++ bytesOf Config.romDigest := by
  unfold measBlock
  dsimp only
  rw [if_pos h, fixMeasures_rom]
  rfl

theorem measData_of_mem {i : Nat} {s : Mach} (h0 : i ≠ 0) (hall : i ≠ 0xFF) (h : i ∈ measIndices s) :
    measData i s = some (measBlock s i) := by
  unfold measData
  rw [if_neg h0, if_neg hall, if_pos (by simpa using h)]

theorem measData_of_not_mem {i : Nat} {s : Mach} (h0 : i ≠ 0) (hall : i ≠ 0xFF) (h : i ∉ measIndices s) : measData i s = none := by
  unfold measData
  rw [if_neg h0, if_neg hall, if_neg (by simpa using h)]

theorem measData_all (s : Mach) : measData 0xFF s = some ((measIndices s).flatMap (measBlock s)) := rfl

theorem measData_count (s : Mach) : measData 0 s = some (toBytes 1 (measIndices s).length) := rfl

theorem getMeasurements_plain {i : Byte} {s : Mach} {x : List Byte} (h : measData i.toNat s = some x) :
    getMeasurements ⟨i, none⟩ s = spdm 0x60 0 x s := by
  simp only [getMeasurements, h]

theorem getMeasurements_signed {i : Byte} {s : Mach} {x : List Byte} (h : measData i.toNat s = some x) (nonce : BitVec 256) :
    getMeasurements ⟨i, some (0, nonce)⟩ s = spdm 0x60 0 (x ++ bytesOf nonce ++ Config.sign (sha384 (x ++ bytesOf nonce))) s := by
  simp only [getMeasurements, h]
  exact if_neg (fun hne => hne rfl)

theorem getMeasurements_none {i : Byte} {sg : Option (Byte × BitVec 256)} {s : Mach} (h : measData i.toNat s = none) :
    getMeasurements ⟨i, sg⟩ s = spdm 0x7F 1 [] s := by
  simp only [getMeasurements, h]

theorem getMeasurements_slot (i : Byte) {slot : Byte} (hslot : slot ≠ 0) (nonce : BitVec 256) (s : Mach) :
    getMeasurements ⟨i, some (slot, nonce)⟩ s = spdm 0x7F 1 [] s := by
  cases h : measData i.toNat s with
  | none => exact getMeasurements_none h
  | some x =>
    simp only [getMeasurements, h]
    exact if_pos hslot

theorem getMeasurements_served {s : Mach} {i : Byte} (hready : s.start.state = 7) (hlow : 1 ≤ i.toNat) (hhigh : i.toNat ≤ 8) :
    getMeasurements ⟨i, none⟩ s = spdm 0x60 0 ([i, BitVec.ofNat 8 (measType i.toNat)] ++ bytesOf (tget 0 s.start.meas i.toNat)) s := by
  have hmem : i.toNat ∈ measIndices s := by
    rw [measIndices_ready hready]
    have hcases : i.toNat = 1 ∨ i.toNat = 2 ∨ i.toNat = 3 ∨ i.toNat = 4 ∨ i.toNat = 5 ∨ i.toNat = 6 ∨ i.toNat = 7 ∨ i.toNat = 8 := by
      omega
    simpa using hcases
  have hbyte : BitVec.ofNat 8 i.toNat = i := BitVec.eq_of_toNat_eq (by simp)
  rw [getMeasurements_plain (measData_of_mem (by omega) (by omega) hmem), measBlock_ready hready, hbyte]

theorem getMeasurements_all {s : Mach} (hready : s.start.state = 7) : getMeasurements ⟨0xFF, none⟩ s = spdm 0x60 0
    ([1, 2, 3, 4, 5, 6, 7, 8].flatMap (fun i => [BitVec.ofNat 8 i, BitVec.ofNat 8 (measType i)] ++ bytesOf (tget 0 s.start.meas i))) s := by
  rw [getMeasurements_plain (i := 0xFF) (measData_all s), measIndices_ready hready, funext (measBlock_ready hready)]

theorem getMeasurements_unserved {s : Mach} {i : Byte} (hrec : s.start.state = 8) (h0 : i ≠ 0) (h1 : i ≠ 1) (h6 : i ≠ 6)
    (hall : i ≠ 0xFF) : getMeasurements ⟨i, none⟩ s = spdm 0x7F 1 [] s := by
  have hne (n : Byte) (h : i ≠ n) : i.toNat ≠ n.toNat := fun e => h (BitVec.eq_of_toNat_eq e)
  refine getMeasurements_none (measData_of_not_mem (hne 0 h0) (hne 0xFF hall) ?_)
  rw [measIndices_recovery hrec]
  intro hmem
  rcases List.mem_cons.1 hmem with e | hmem
  · exact hne 1 h1 e
  · exact hne 6 h6 (List.mem_singleton.1 hmem)

/-- Settles O38. -/
theorem theSpdmResponderAttests : Obligations.TheSpdmResponderAttests := by
  refine ⟨fun s h => run_spdm h rfl, fun s h => run_spdm h rfl, fun s h => ⟨run_spdm h rfl, fun a b hgo => run_spdm h (negotiate_refuses hgo s.m)⟩,
    fun s h => ⟨run_spdm h rfl, fun off n hoff => run_spdm h (congrFun (getCertificate_within hoff) s.m),
      fun slot off n hslot => run_spdm h (congrFun (getCertificate_slot (slot_ne_zero hslot) _ _) s.m), fun nonce => run_spdm h rfl,
      fun slot nonce hslot => run_spdm h (congrFun (challenge_slot (slot_ne_zero hslot) nonce) s.m), fun hready => run_spdm h ?_,
      fun hrec => run_spdm h ?_, fun i hready hlow hhigh => run_spdm h (getMeasurements_served hready hlow hhigh), fun hrec => run_spdm h ?_,
      fun hready => run_spdm h (getMeasurements_all hready), fun i nonce x hx => run_spdm h (getMeasurements_signed hx nonce),
      fun i slot nonce hslot => run_spdm h (getMeasurements_slot i hslot nonce s.m),
      fun i hrec h0 h1 h6 hall => run_spdm h (getMeasurements_unserved hrec h0 h1 h6 hall)⟩,
    fun s h hstate hstage => run_onBus h (spdmCmd_early hstate hstage _), fun s h7 h8 => run_unchanged (onBus_spdm_down h7 h8 _)⟩
  · rw [getMeasurements_plain (i := 0) (measData_count s.m), measIndices_ready hready]
    rfl
  · rw [getMeasurements_plain (i := 0) (measData_count s.m), measIndices_recovery hrec]
    rfl
  · have hmem : (1 : Byte).toNat ∈ measIndices s.m := by
      rw [measIndices_recovery hrec]
      exact List.mem_cons_self
    rw [getMeasurements_plain (measData_of_mem (by decide) (by decide) hmem), show (1 : Byte).toNat = 1 from rfl, measBlock_rom hrec]
    rfl

end Sys2Proof.Spec
end

section
/-! PROOFS. The aperture and BAR2: the proof of O40. -/

namespace Sys2Proof.Spec

open Sys2Proof.Machine

/-! ### The aperture (R562, R563) -/

theorem within_of_inBar4 {off : BitVec 36} {len : Nat} (h : InBar4 off len) : (BarAddr.bar4 off).within len = true :=
  within_bar4 h.1 h.2.1 h.2.2

theorem within_of_inBar2 {s : Mach} {off : BitVec 28} {len : Nat} (h : InBar2 s off len) : (BarAddr.bar2 off).within len = true :=
  within_bar2 h.1 h.2.1 h.2.2.1

theorem exec_apertureWrite {a : BarAddr} {data : List Byte} (h : a.within data.length = true) (s : State) :
    exec (.apertureWrite a data) s = run (memWrite a data) s := if_pos h

theorem notKept {s : Mach} {off : BitVec 36} {len : Nat} (h : ApServed s off len) : (s.edge.keepEn && inKeep (apEa s off) len) = false := by
  obtain ⟨-, -, hkeep⟩ := h
  cases hen : s.edge.keepEn with
  | false => rfl
  | true =>
    rw [Bool.true_and, inKeep, decide_eq_false_iff_not, Nat.not_lt]
    exact hkeep hen

/-- The stacks' use of a range does not look at what the module sent. -/
theorem useUnits_out (cls ea n : Nat) (o : List OutEv) (s : Mach) :
    { useUnits cls ea n s with out := o } = useUnits cls ea n { s with out := o } := by
  unfold useUnits addWork
  dsimp only
  split <;> rfl

theorem apertureRead_served {s : Mach} {off : BitVec 36} {len : Nat} (h : ApServed s off len) (hgood : GoodRange s (apEa s off) len) :
    apertureRead off len s = useUnits 2 (apEa s off) len
      { s with out := s.out ++ [.apertureData (rdBytes s.edge.mem (apEa s off) len) false] } := by
  have hkeep := notKept h
  obtain ⟨hready, hout, -⟩ := h
  obtain ⟨hany, hbytes⟩ := clean_bytes (rdBytes s.edge.mem (apEa s off) len)
  obtain ⟨ks, huse⟩ := useUnits_frame 2 (apEa s off) len s
  have hsent : (useUnits 2 (apEa s off) len s).out = s.out := by rw [huse]
  have hemit (x : OutEv) : emit x (useUnits 2 (apEa s off) len s) = { useUnits 2 (apEa s off) len s with out := s.out ++ [x] } := by
    rw [emit, hsent]
  unfold apertureRead
  dsimp only
  rw [if_neg (by simp [hready]), if_neg (by simp [hout]), if_neg (by simp [hkeep]), readEdge_good hgood, hany,
    if_neg Bool.false_ne_true, hbytes, hemit, useUnits_out]

theorem apertureRead_stackOut {s : Mach} {off : BitVec 36} {len : Nat} (hready : s.start.state = 7)
    (hout : stackOut s s.host.apsel.toNat = true) : apertureRead off len s =
      emit (.apertureData (List.replicate len 0xFF) true) (modHost (fun h => { h with apNotServ := satInc h.apNotServ }) s) := by
  unfold apertureRead
  dsimp only
  rw [if_neg (by simp [hready]), if_pos hout]

theorem apertureWrite_whole {s : Mach} {off : BitVec 36} {data : List Byte} (h : ApServed s off data.length)
    (hoff : off.toNat % 32 = 0) (hlen : data.length % 32 = 0) :
    apertureWrite off data s = useUnits 2 (apEa s off) data.length (writeEdge (apEa s off) data s) := by
  have hkeep := notKept h
  obtain ⟨hready, hout, -⟩ := h
  unfold apertureWrite
  dsimp only
  rw [if_neg (by simp [hready]), if_neg (by simp [hout]), if_neg (by simp [hkeep]), if_neg (by omega)]

theorem apertureWrite_part {s : Mach} {off : BitVec 36} {data : List Byte} (h : ApServed s off data.length)
    (hpart : off.toNat % 32 ≠ 0 ∨ data.length % 32 ≠ 0) :
    apertureWrite off data s = modHost (fun h => { h with apPartial := satInc h.apPartial }) s := by
  have hkeep := notKept h
  obtain ⟨hready, hout, -⟩ := h
  unfold apertureWrite
  dsimp only
  rw [if_neg (by simp [hready]), if_neg (by simp [hout]), if_neg (by simp [hkeep]), if_pos hpart]

theorem stackOf_apEa (s : Mach) {off : BitVec 36} {i : Nat} (h : off.toNat + i < 2 ^ 36) :
    stackOf (apEa s off + i) = s.host.apsel.toNat := by
  unfold stackOf apEa
  omega

/-- A served write stores exactly its bytes, and a write of one unit of work is counted in an unhurried slot. -/
theorem apertureWrite_stores {s : Mach} {off : BitVec 36} {data : List Byte} (hbar : InBar4 off data.length)
    (h : ApServed s off data.length) (hoff : off.toNat % 32 = 0) (hlen : data.length % 32 = 0)
    (hstk : Undisturbed s s.host.apsel.toNat) :
    (∃ e tr ks, apertureWrite off data s = { s with edge := e, trn := tr, stk := ks } ∧ e.mem = wrBytes s.edge.mem (apEa s off) data) ∧
      (Unhurried s s.host.apsel.toNat 2 (apEa s off) → apEa s off % 256 + data.length ≤ 256 →
        (stkAt (apertureWrite off data s) s.host.apsel.toNat).rmu = satInc (stkAt s s.host.apsel.toNat).rmu) := by
  obtain ⟨hpos, -, hbound⟩ := hbar
  have hfirst : stackOf (apEa s off) = s.host.apsel.toNat := by
    have hzero := stackOf_apEa s (off := off) (i := 0) (by omega)
    rwa [Nat.add_zero] at hzero
  have hea32 : apEa s off % 32 = 0 := by
    unfold apEa
    omega
  have hone : stackOf (apEa s off + data.length - 1) = stackOf (apEa s off) := by
    rw [hfirst, Nat.add_sub_assoc hpos]
    exact stackOf_apEa s (by omega)
  have hret : (stkAt s (stackOf (apEa s off))).retQ = 0x3F := by
    rw [hfirst]
    exact hstk.1
  obtain ⟨⟨e, tr, ks, ht, hmem, hslot⟩, hkeep⟩ := writeEdge_stored hea32 hlen hone hret
  obtain ⟨ks', hks'⟩ := useUnits_frame 2 (apEa s off) data.length (writeEdge (apEa s off) data s)
  rw [apertureWrite_whole h hoff hlen]
  refine ⟨⟨e, tr, ks', by rw [hks', ht], hmem⟩, fun hfree hunit => ?_⟩
  obtain ⟨hwork, hslots, hbursts⟩ := hfree
  obtain ⟨wb, hwb⟩ := hkeep (stackOf (apEa s off))
  have hedge : (writeEdge (apEa s off) data s).edge = e := by rw [ht]
  rw [← hfirst] at hwork hslots hbursts ⊢
  rw [useUnits_counted hunit (Or.inl rfl) (by omega)
    ⟨by rw [hwb]; exact hwork, by rw [hwb, hedge, hslot]; exact hslots, by rw [hwb]; exact hbursts⟩, hwb]

/-! ### BAR2 (R562) -/

theorem bar2Shut_false {s : Mach} (hready : s.start.state = 7) (hperst : s.host.perst = false) :
    noLink s = false ∧ bar2Shut s = false := by
  have hlink : noLink s = false := by simp [noLink, hready, hperst]
  exact ⟨hlink, by simp [bar2Shut, hlink, hready]⟩

theorem bar2Read_served {s : Mach} (hready : s.start.state = 7) (hperst : s.host.perst = false) (off len : Nat) :
    bar2Read off len s = emit (.apertureData ((List.range len).map (fun i => bar2Byte s (off + i))) false) s := by
  obtain ⟨hlink, hshut⟩ := bar2Shut_false hready hperst
  unfold bar2Read
  rw [if_neg (by simp [hlink]), if_neg (by simp [hshut])]

/-- Bytes of a write that all fall into queue memory are stored there one after the other. -/
theorem foldl_queueMemory {off : Nat} (data : List Byte) : ∀ (k : Nat) (m : Mem), 0x1000000 ≤ off + k → off + k + data.length ≤ 0x1400000 →
    (data.zipIdx k).foldl (fun m e =>
      if 0x1000000 ≤ off + e.2 ∧ off + e.2 < 0x1400000 then wr m (off + e.2 - 0x1000000) e.1 else m) m =
      wrBytes m (off + k - 0x1000000) data := by
  induction data with
  | nil => exact fun _ _ _ _ => rfl
  | cons b t ih =>
    intro k m hlow hhigh
    rw [List.length_cons] at hhigh
    rw [List.zipIdx_cons, List.foldl_cons, if_pos ⟨hlow, by omega⟩, ih (k + 1) _ (by omega) (by omega), wrBytes,
      show off + (k + 1) - 0x1000000 = off + k - 0x1000000 + 1 by omega]

/-- Bytes of a write that all fall outside of queue memory are discarded. -/
theorem foldl_noMemory {off : Nat} (data : List Byte) : ∀ (k : Nat) (m : Mem),
    off + k + data.length ≤ 0x1000000 ∨ 0x1400000 ≤ off + k →
    (data.zipIdx k).foldl (fun m e =>
      if 0x1000000 ≤ off + e.2 ∧ off + e.2 < 0x1400000 then wr m (off + e.2 - 0x1000000) e.1 else m) m = m := by
  induction data with
  | nil => exact fun _ _ _ => rfl
  | cons b t ih =>
    intro k m h
    rw [List.length_cons] at h
    rw [List.zipIdx_cons, List.foldl_cons, if_neg (by omega), ih (k + 1) _ (by omega)]

theorem bar2Write_open {s : Mach} (hready : s.start.state = 7) (hperst : s.host.perst = false) {off : Nat} (hoff : 0x10000 ≤ off)
    (data : List Byte) : bar2Write off data s = modHost (fun h => { h with qmem := (data.zipIdx).foldl (fun m e =>
      if 0x1000000 ≤ off + e.2 ∧ off + e.2 < 0x1400000 then wr m (off + e.2 - 0x1000000) e.1 else m) h.qmem }) s := by
  obtain ⟨-, hshut⟩ := bar2Shut_false hready hperst
  unfold bar2Write
  rw [if_neg (by simp [hshut]), if_neg (by omega)]

theorem bar2Write_stores {s : Mach} (hready : s.start.state = 7) (hperst : s.host.perst = false) {off : Nat} {data : List Byte}
    (hlow : 0x1000000 ≤ off) (hhigh : off + data.length ≤ 0x1400000) :
    bar2Write off data s = modHost (fun h => { h with qmem := wrBytes h.qmem (off - 0x1000000) data }) s := by
  rw [bar2Write_open hready hperst (by omega)]
  exact congrArg (fun m => modHost (fun h => { h with qmem := m }) s) (foldl_queueMemory data 0 s.host.qmem hlow hhigh)

theorem bar2Write_discards {s : Mach} (hready : s.start.state = 7) (hperst : s.host.perst = false) {off : Nat} {data : List Byte}
    (h : (0x10000 ≤ off ∧ off + data.length ≤ 0x1000000) ∨ 0x1400000 ≤ off) : bar2Write off data s = s := by
  rw [bar2Write_open hready hperst (by omega)]
  exact congrArg (fun m => modHost (fun h => { h with qmem := m }) s) (foldl_noMemory data 0 s.host.qmem (by omega))

theorem ofBytes_bytesOf (v : Word) : BitVec.ofNat 32 (ofBytes (bytesOf v)) = v := by
  have h : ofBytes (bytesOf v) = v.toNat := ofBytes_toBytes (n := 4) v.isLt
  rw [h]
  exact BitVec.ofNat_toNat 32 v |>.trans (BitVec.setWidth_eq v)

theorem bytesOf_length (v : Word) : (bytesOf v).length = 4 := toBytes_length 4 v.toNat

theorem bar2Write_tail {s : Mach} (hready : s.start.state = 7) (hperst : s.host.perst = false) {q : Nat} (hq : q < 16) (v : Word) :
    bar2Write (0x1000 * q) (bytesOf v) s = cqTail q v s := by
  obtain ⟨-, hshut⟩ := bar2Shut_false hready hperst
  unfold bar2Write
  rw [if_neg (by simp [hshut]), if_pos (by omega), if_pos ⟨bytesOf_length v, by omega⟩, ofBytes_bytesOf,
    Nat.mul_div_cancel_left q (by decide)]

theorem bar2Write_head {s : Mach} (hready : s.start.state = 7) (hperst : s.host.perst = false) {q : Nat} (hq : q < 16) (v : Word) :
    bar2Write (0x1000 * q + 4) (bytesOf v) s = cpHead q v s := by
  obtain ⟨-, hshut⟩ := bar2Shut_false hready hperst
  unfold bar2Write
  rw [if_neg (by simp [hshut]), if_pos (by omega), if_neg (by omega), if_pos ⟨bytesOf_length v, by omega⟩, ofBytes_bytesOf,
    show (0x1000 * q + 4) / 0x1000 = q by omega]

theorem exec_doorbell {s : State} {n : Nat} (hn : n + 4 < 2 ^ 28) (v : Word) {f : Mach → Mach} (hf : bar2Write n (bytesOf v) s.m = f s.m) :
    exec (.apertureWrite (.bar2 (BitVec.ofNat 28 n)) (bytesOf v)) s = run f s := by
  have hoff : (BitVec.ofNat 28 n).toNat = n := by
    rw [BitVec.toNat_ofNat]
    omega
  have hwithin : (BarAddr.bar2 (BitVec.ofNat 28 n)).within (bytesOf v).length = true := by
    rw [bytesOf_length]
    exact within_bar2 (by decide) (by decide) (by omega)
  have hmem : memWrite (.bar2 (BitVec.ofNat 28 n)) (bytesOf v) s.m = f s.m := by
    have htwo : memWrite (.bar2 (BitVec.ofNat 28 n)) (bytesOf v) = bar2Write (BitVec.ofNat 28 n).toNat (bytesOf v) := rfl
    rw [htwo, hoff, hf]
  rw [exec_apertureWrite hwithin, run, hmem]
  rfl

/-- Settles O40. -/
theorem theApertureReachesEdgeMemory : Obligations.TheApertureReachesEdgeMemory := by
  refine ⟨fun s off len hbar h hgood => ?_, fun s off len hbar hready => ?_, fun s off len hbar hready hout => ?_,
    fun s off data hbar h hoff hlen hstk => ?_, fun s off data hbar h hpart => ?_, fun s off len hbar => ?_,
    fun s off data hbar hlow hhigh => ?_, fun s off data hbar h => ?_, fun s q v hready hperst => ⟨?_, ?_⟩⟩
  · exact (exec_apertureRead (within_of_inBar4 hbar) s).trans (run_eq_after (apertureRead_served h hgood))
  · exact (exec_apertureRead (within_of_inBar4 hbar) s).trans (run_eq_after (if_pos hready))
  · exact (exec_apertureRead (within_of_inBar4 hbar) s).trans (run_eq_after (apertureRead_stackOut hready hout))
  · obtain ⟨⟨e, tr, ks, hw, hmem⟩, hcount⟩ := apertureWrite_stores hbar h hoff hlen hstk
    have hnow : (apertureWrite off data s.m).now = s.m.now := by rw [hw]
    obtain ⟨hrun, hpend, hm⟩ := runs_to hnow
    refine ⟨_, (exec_apertureWrite (within_of_inBar4 hbar) s).trans hrun, hpend, fun i hi => ?_, fun a ha => ?_, ?_, ?_, ?_⟩
    · rw [hm, hw, hmem, rd_wrBytes_inside data _ _ i hi, List.getD_eq_getElem _ _ hi]
    · rw [hm, hw, hmem, rd_wrBytes_outside data _ _ a ha]
    · rw [hm]
      exact hcount
    · rw [hm, hw]
    · rw [hm, hw]
  · exact (exec_apertureWrite (within_of_inBar4 hbar) s).trans (run_eq_after (apertureWrite_part h hpart))
  · exact (exec_apertureRead (within_of_inBar2 hbar) s).trans (run_eq_after (bar2Read_served hbar.2.2.2.1 hbar.2.2.2.2 off.toNat len))
  · have hw := bar2Write_stores hbar.2.2.2.1 hbar.2.2.2.2 hlow hhigh
    have hnow : (bar2Write off.toNat data s.m).now = s.m.now := by
      rw [hw]
      rfl
    obtain ⟨hrun, hpend, hm⟩ := runs_to hnow
    refine ⟨_, (exec_apertureWrite (within_of_inBar2 hbar) s).trans hrun, ⟨hpend, ?_⟩, ?_, fun i hi => ?_, fun a ha => ?_⟩
    · rw [hm, hw]
      rfl
    · rw [hm, hw]
      rfl
    · rw [hm, hw, modHost_own, rd_wrBytes_inside data _ _ i hi, List.getD_eq_getElem _ _ hi]
    · rw [hm, hw, modHost_own, rd_wrBytes_outside data _ _ a ha]
  · exact (exec_apertureWrite (within_of_inBar2 hbar) s).trans
      (run_unchanged (bar2Write_discards hbar.2.2.2.1 hbar.2.2.2.2 h))
  · exact exec_doorbell (by omega) v (bar2Write_tail hready hperst q.isLt v)
  · exact exec_doorbell (by omega) v (bar2Write_head hready hperst q.isLt v)

end Sys2Proof.Spec
end

section
/-! PROOFS. Interrupt causes: the proof of O43. -/

namespace Sys2Proof.Spec

open Sys2Proof.Machine

/-! ### Causes rise (R577, R578, R582) -/

theorem sendVector_leaves {v : BitVec 6} {s : Mach} (h : bit (tget (1 : Word) s.host.msixTab (4 * v.toNat + 3)) 0 = false) :
    sendVector v s = emit (.vector v) s := by
  unfold sendVector
  exact if_neg (by rw [h]; exact Bool.false_ne_true)

theorem sendVector_pends {v : BitVec 6} {s : Mach} (h : bit (tget (1 : Word) s.host.msixTab (4 * v.toNat + 3)) 0 = true) :
    sendVector v s = modHost (fun h => { h with msixPend := setBit h.msixPend v.toNat }) s := by
  unfold sendVector
  exact if_pos h

/-! ### Causes are cleared (R587) -/

/-- The causes that are named and held rise again, the first n of them. -/
def riseAgain (v : Word) (n : Nat) (s : Mach) : Mach := iter n (fun c s => if bit v c && irqHolds s c then raiseIrq c s else s) s

/-- What an interrupt does not change of the host block and of everything else: the sources of the causes. -/
def SameSources (s t : Mach) : Prop := ∃ n h o, t = { s with notes := n, host := h, out := o } ∧ h.rings = s.host.rings

theorem SameSources.refl (s : Mach) : SameSources s s := ⟨s.notes, s.host, s.out, rfl, rfl⟩

theorem SameSources.trans {s t u : Mach} (h : SameSources s t) (h' : SameSources t u) : SameSources s u := by
  obtain ⟨_, _, _, rfl, hr⟩ := h
  obtain ⟨n, g, o, rfl, hr'⟩ := h'
  exact ⟨n, g, o, rfl, hr'.trans hr⟩

theorem raiseIrq_sameSources (c : Nat) (s : Mach) : SameSources s (raiseIrq c s) := by
  have hrings := raiseIrq_rings c s
  obtain ⟨n, h, o, e⟩ := raiseIrq_only c s
  rw [e] at hrings ⊢
  exact ⟨n, h, o, rfl, hrings⟩

/-- A cause's sources hold the same where only interrupts went out. -/
theorem SameSources.irqHolds {s t : Mach} (h : SameSources s t) (c : Nat) : irqHolds t c = irqHolds s c := by
  obtain ⟨n, g, o, rfl, hr⟩ := h
  unfold Machine.irqHolds
  simp only [hr]

theorem raiseIrq_irqCause (c : Nat) (s : Mach) :
    (raiseIrq c s).host.irqCause = if bit s.host.irqCause c then s.host.irqCause else setBit s.host.irqCause c := by
  cases h : bit s.host.irqCause c with
  | true =>
    rw [raiseIrq_raised c s h]
    rfl
  | false =>
    cases hm : bit s.host.irqMask c with
    | true =>
      rw [raiseIrq_masked c s h hm]
      rfl
    | false =>
      rw [raiseIrq_sent c s h hm]
      obtain e | e := sendVector_cases (tget 0 s.host.irqMap c)
        (modHost (fun x => { x with irqCause := setBit x.irqCause c }) (noteRaise 0x10010 c s)) <;> rw [e] <;> rfl

theorem bit_raiseIrq_mono {c j : Nat} {s : Mach} (h : bit s.host.irqCause j = true) : bit (raiseIrq c s).host.irqCause j = true := by
  rw [raiseIrq_irqCause]
  split
  · exact h
  · exact bit_setBit_mono h

/-- A cause rises again, or nothing happens. -/
def riseOne (v : Word) (c : Nat) (s : Mach) : Mach := if bit v c && irqHolds s c then raiseIrq c s else s

theorem riseAgain_succ (v : Word) (n : Nat) (s : Mach) : riseAgain v (n + 1) s = riseOne v n (riseAgain v n s) := iter_succ _ n s

theorem riseOne_sameSources (v : Word) (c : Nat) (s : Mach) : SameSources s (riseOne v c s) := by
  unfold riseOne
  split
  · exact raiseIrq_sameSources c s
  · exact .refl s

theorem riseAgain_sameSources (v : Word) (s : Mach) : ∀ n, SameSources s (riseAgain v n s)
  | 0 => .refl s
  | n + 1 => by
    rw [riseAgain_succ]
    exact (riseAgain_sameSources v s n).trans (riseOne_sameSources v n _)

theorem riseAgain_none {v : Word} {s : Mach} : ∀ {n : Nat}, (∀ c, c < n → bit v c = true → irqHolds s c = false) → riseAgain v n s = s
  | 0, _ => rfl
  | n + 1, h => by
    rw [riseAgain_succ, riseAgain_none fun c hc => h c (by omega), riseOne, if_neg]
    rw [Bool.and_eq_true]
    rintro ⟨hv, hholds⟩
    exact Bool.false_ne_true ((h n (Nat.lt_succ_self n) hv).symm.trans hholds)

theorem bit_riseOne_mono {v : Word} {c j : Nat} {s : Mach} (h : bit s.host.irqCause j = true) :
    bit (riseOne v c s).host.irqCause j = true := by
  unfold riseOne
  split
  · exact bit_raiseIrq_mono h
  · exact h

theorem bit_riseAgain_mono {v : Word} {j : Nat} {s : Mach} (h : bit s.host.irqCause j = true) :
    ∀ n, bit (riseAgain v n s).host.irqCause j = true
  | 0 => h
  | n + 1 => by
    rw [riseAgain_succ]
    exact bit_riseOne_mono (bit_riseAgain_mono h n)

/-- A named cause whose sources hold is up again. -/
theorem bit_riseAgain {v : Word} {c : Nat} {s : Mach} (hc : c < 13) (hv : bit v c = true) (hholds : irqHolds s c = true) :
    ∀ {n : Nat}, c < n → bit (riseAgain v n s).host.irqCause c = true
  | 0, h => absurd h (Nat.not_lt_zero c)
  | n + 1, h => by
    rw [riseAgain_succ]
    by_cases hn : c = n
    · subst hn
      have hsame := (riseAgain_sameSources v s c).irqHolds c
      rw [riseOne, hv, hsame, hholds, Bool.and_self, if_pos rfl]
      exact raiseIrq_cause hc _
    · exact bit_riseOne_mono (bit_riseAgain hc hv hholds (by omega))

theorem irqCauseWrite_eq (v : Word) (s : Mach) : irqCauseWrite v s =
    riseAgain v 13 (modHost (fun h => { h with irqCause := w1c h.irqCause (fld v 0 13) }) s) := rfl

/-- The bits of a write of HOST_IRQ_CAUSE that the module has not set in this cycle. -/
def staleBits (v : Word) (s0 s : Mach) : Word :=
  v &&& ~~~ ((s.host.irqCause &&& ~~~ s0.host.irqCause).setWidth 32 ||| Machine.noted s 0x10010)

theorem exec_hostIrqCauseWrite {s : State} (h : Served s.m 0x10010) (v : Word) :
    exec (.hostIrqCauseWrite v) s = .next (s.accessed (irqCauseWrite (staleBits v s.start s.m) s.m)) :=
  congrArg (fun m => Host.Outcome.next (s.accessed m)) (hostAccess_served h _)

theorem bit_staleBits {v : Word} {s0 s : Mach} {c : Nat} (hc : c < 13) : bit (staleBits v s0 s) c =
    (bit v c && !((bit s.host.irqCause c && !bit s0.host.irqCause c) || s.notes.raised.contains (0x10010, c))) := by
  have hnoted := bit_noted s 0x10010 (b := c) (by omega)
  simp only [bit] at hnoted ⊢
  simp only [staleBits, BitVec.getLsbD_and, BitVec.getLsbD_not, BitVec.getLsbD_or, BitVec.getLsbD_setWidth, hnoted,
    show c < 32 by omega, hc, decide_true, Bool.true_and]

theorem fld_staleBits (v : Word) (s0 s : Mach) : fld (staleBits v s0 s) 0 13 =
    (fld v 0 13 &&& ~~~ ((s.host.irqCause &&& ~~~ s0.host.irqCause) ||| fld (Machine.noted s 0x10010) 0 13) : BitVec 13) := by
  apply BitVec.eq_of_getLsbD_eq
  intro i hi
  simp only [fld, staleBits, BitVec.getLsbD_extractLsb', BitVec.getLsbD_and, BitVec.getLsbD_not, BitVec.getLsbD_or,
    BitVec.getLsbD_setWidth, Nat.zero_add, hi, show i < 32 by omega, decide_true, Bool.true_and]

/-- Settles O43. -/
theorem causesRiseAndAreCleared : Obligations.CausesRiseAndAreCleared := by
  refine ⟨fun s c h => raiseIrq_raised c s h, fun s c _ h hm => raiseIrq_masked c s h hm, fun s c _ h hm hopen => ?_,
    fun s c _ h hm hshut => ?_, fun s v hserved h => ?_, fun s v c hserved hc hv hholds hset => ?_⟩
  · rw [raiseIrq_sent c s h hm]
    exact sendVector_leaves hopen
  · rw [raiseIrq_sent c s h hm]
    exact sendVector_pends hshut
  · refine (exec_hostIrqCauseWrite hserved v).trans ?_
    have hnone : ∀ c, c < 13 → bit (staleBits v s.start s.m) c = true →
        irqHolds (modHost (fun h => { h with irqCause := w1c h.irqCause (fld (staleBits v s.start s.m) 0 13) }) s.m) c = false := by
      intro c hc hb
      rw [bit_staleBits hc, Bool.and_eq_true] at hb
      have hsame : SameSources s.m (modHost (fun h => { h with irqCause := w1c h.irqCause (fld (staleBits v s.start s.m) 0 13) }) s.m) :=
        ⟨_, _, _, rfl, rfl⟩
      rw [hsame.irqHolds]
      exact h c hc hb.1
    rw [irqCauseWrite_eq, riseAgain_none hnone, fld_staleBits]
    rfl
  · refine ⟨_, exec_hostIrqCauseWrite hserved v, rfl, ?_⟩
    have hm : (s.accessed (irqCauseWrite (staleBits v s.start s.m) s.m)).m.host = (irqCauseWrite (staleBits v s.start s.m) s.m).host := rfl
    rw [hm, irqCauseWrite_eq]
    cases hb : bit (staleBits v s.start s.m) c with
    | true =>
      have hsame : SameSources s.m (modHost (fun h => { h with irqCause := w1c h.irqCause (fld (staleBits v s.start s.m) 0 13) }) s.m) :=
        ⟨_, _, _, rfl, rfl⟩
      exact bit_riseAgain hc hb ((hsame.irqHolds c).trans hholds) hc
    | false =>
      apply bit_riseAgain_mono
      rw [modHost_own]
      dsimp only
      rw [bit_w1c _ _ hc, bit_fld_low _ hc, hb, Bool.not_false, Bool.and_true]
      rw [bit_staleBits hc, hv, Bool.true_and, Bool.not_eq_false', Bool.or_eq_true, Bool.and_eq_true] at hb
      rcases hb with ⟨hold, -⟩ | hnoted
      · exact hold
      · rcases hset with hset | hset
        · exact hset
        · exact absurd (List.contains_iff_mem.1 hnoted) hset

end Sys2Proof.Spec
end

section
/-! PROOFS. The rings: the proof of O41. -/

namespace Sys2Proof.Spec

open Sys2Proof.Machine

/-! ### Configuration and doorbells (R564, R565, R581) -/

theorem lose_eq (m : CompMode) : m.lose = if m = .normal then .unwritten else m := by
  cases m <;> rfl

theorem stopRing_eq (q err : Nat) (s : Mach) : stopRing q err s = ringHalts q (BitVec.ofNat 8 err) s := by
  unfold stopRing ringHalts
  simp only [lose_eq]

theorem cqCfg_enables {q : Nat} {v : Word} {s : Mach} (hoff : (ringAt s q).en = false) (hfree : inflight (ringAt s q) = 0) :
    cqCfg q (v ||| 0x80000000) s = modRing q (fun r => { r with
      en := true, loc := bit v 30, ver := fld v 28 2, log2 := fld v 0 5, head := 0, cpTail := 0, phase := true, stopped := false
      halted := false, err := 0, tailDb := 0, headDb := 0, used := 0, fin := [] }) s := by
  have h31 : bit (v ||| 0x80000000) 31 = true := bit_orBit31 v
  have h30 : bit (v ||| 0x80000000) 30 = bit v 30 := by simp [bit]
  have hver : (fld (v ||| 0x80000000) 28 2 : BitVec 2) = fld v 28 2 := fld_orBit31 v 28 2 rfl
  have hlog : (fld (v ||| 0x80000000) 0 5 : BitVec 5) = fld v 0 5 := fld_orBit31 v 0 5 rfl
  unfold cqCfg
  dsimp only
  rw [if_neg (by simp [hoff]), h31, if_neg (by simp), if_neg (by simp [hfree]), h30, hver, hlog]

theorem fld_clearBit31 (v : Word) (lo n : Nat) (h : BitVec.extractLsb' lo n (0x7FFFFFFF : Word) = BitVec.allOnes n) :
    fld (v &&& 0x7FFFFFFF) lo n = fld v lo n := by
  rw [fld, fld, BitVec.extractLsb'_and, h, BitVec.and_allOnes]

theorem cqCfg_disables {q : Nat} {v : Word} {s : Mach} (hon : (ringAt s q).en = true) (hloc : bit v 30 = (ringAt s q).loc)
    (hver : fld v 28 2 = (ringAt s q).ver) (hlog : fld v 0 5 = (ringAt s q).log2) :
    cqCfg q (v &&& 0x7FFFFFFF) s = modRing q (fun r => { r with en := false }) s := by
  have h31 : bit (v &&& 0x7FFFFFFF) 31 = false := by simp [bit]
  have h30 : bit (v &&& 0x7FFFFFFF) 30 = bit v 30 := by simp [bit]
  have hv : (fld (v &&& 0x7FFFFFFF) 28 2 : BitVec 2) = fld v 28 2 := fld_clearBit31 v 28 2 rfl
  have hl : (fld (v &&& 0x7FFFFFFF) 0 5 : BitVec 5) = fld v 0 5 := fld_clearBit31 v 0 5 rfl
  unfold cqCfg
  dsimp only
  rw [if_pos hon, h31, h30, hv, hl, hloc, hver, hlog, if_pos (by simp)]

theorem ringWrite_halts {q : Nat} {s : Mach} (hon : (ringAt s q).en = true) (f : Ring → Ring) : ringWrite q f s = ringHalts q 4 s := by
  unfold ringWrite
  rw [if_pos hon, stopRing_eq]
  rfl

/-- A write of a register of an enabled ring other than CQ_CFG stops it. -/
theorem ringReg_halts {q : Nat} {off : BitVec 6} {v : Word} {s : Mach} (hon : (ringAt s q).en = true)
    (hoff : off ∈ ([0x00, 0x04, 0x0C, 0x10, 0x14, 0x18, 0x1C, 0x20] : List (BitVec 6))) : ringReg q off.toNat v s = ringHalts q 4 s := by
  have hwrite : ∃ f, ringReg q off.toNat v s = ringWrite q f s := by
    simp only [List.mem_cons, List.not_mem_nil, or_false] at hoff
    rcases hoff with rfl | rfl | rfl | rfl | rfl | rfl | rfl | rfl <;> exact ⟨_, rfl⟩
  obtain ⟨f, e⟩ := hwrite
  rw [e, ringWrite_halts hon]

theorem ringReg_cqBaseHi {q : Nat} {v : Word} {s : Mach} (hoff : (ringAt s q).en = false) :
    ringReg q 4 v s = modRing q (fun r => { r with cqBase := v ++ fld r.cqBase 0 32 }) s := by
  have hwrite : ringReg q 4 v s = ringWrite q (fun r => { r with cqBase := v ++ fld r.cqBase 0 32 }) s := rfl
  rw [hwrite, ringWrite, if_neg (by simp [hoff])]

theorem notShut {s : Mach} {q : Nat} (h : RingOn s q) : ¬ (!(ringAt s q).en || (ringAt s q).halted) = true := by
  obtain ⟨hen, hhalt⟩ := h
  rw [hen, hhalt]
  exact Bool.false_ne_true

theorem cqTail_moves {q : Nat} {v : Word} {s : Mach} (h : RingOn s q) (hv : (fld v 0 16 : BitVec 16).toNat < ringSize (ringAt s q).log2) :
    cqTail q v s = modRing q (fun r => { r with tailDb := fld v 0 16 }) s := by
  unfold cqTail
  dsimp only
  rw [if_neg (notShut h), if_neg (by omega)]

theorem cqTail_halts {q : Nat} {v : Word} {s : Mach} (h : RingOn s q) (hv : ringSize (ringAt s q).log2 ≤ (fld v 0 16 : BitVec 16).toNat) :
    cqTail q v s = ringHalts q 1 s := by
  unfold cqTail
  dsimp only
  rw [if_neg (notShut h), if_pos hv, stopRing_eq]
  rfl

theorem cpHead_moves {q : Nat} {v : Word} {s : Mach} (h : RingOn s q) (hv : (fld v 0 16 : BitVec 16).toNat < ringSize (ringAt s q).cpLog2) :
    cpHead q v s = modRing q (fun r => { r with
      headDb := fld v 0 16
      used := r.used - ((fld v 0 16 : BitVec 16).toNat + ringSize r.cpLog2 - r.headDb.toNat) % ringSize r.cpLog2 }) s := by
  unfold cpHead
  dsimp only
  rw [if_neg (notShut h), if_neg (by omega)]
  exact modRing_congr rfl

theorem cpHead_halts {q : Nat} {v : Word} {s : Mach} (h : RingOn s q) (hv : ringSize (ringAt s q).cpLog2 ≤ (fld v 0 16 : BitVec 16).toNat) :
    cpHead q v s = ringHalts q 1 s := by
  unfold cpHead
  dsimp only
  rw [if_neg (notShut h), if_pos hv, stopRing_eq]
  rfl

theorem ringsAreConfiguredAndRung : RingsAreConfiguredAndRung :=
  ⟨fun _ _ _ h hoff hfree => runAccess_eq h (cqCfg_enables hoff hfree),
    fun _ _ _ h hon hloc hver hlog => runAccess_eq h (cqCfg_disables hon hloc hver hlog),
    fun _ _ _ _ h hon hoff => runAccess_eq h (ringReg_halts hon hoff), fun _ _ _ h hoff => runAccess_eq h (ringReg_cqBaseHi hoff),
    fun _ _ _ h hv => run_eq_after (cqTail_moves h hv), fun _ _ _ h hv => run_eq_after (cqTail_halts h hv),
    fun _ _ _ h hv => run_eq_after (cpHead_moves h hv), fun _ _ _ h hv => run_eq_after (cpHead_halts h hv)⟩

/-! ### Descriptors are fetched in turn (R564 to R566, R569) -/

theorem acceptCmd_eq (q : Nat) (d : Desc) (s : Mach) : acceptCmd q d s = accepts q d s := by
  have htail : BitVec.ofNat 16 (if decide ((ringAt s q).cpTail.toNat + 1 = ringSize (ringAt s q).cpLog2) then 0 else (ringAt s q).cpTail.toNat + 1) =
      if (ringAt s q).cpTail.toNat + 1 = ringSize (ringAt s q).cpLog2 then 0 else (ringAt s q).cpTail + 1 := by
    by_cases h : (ringAt s q).cpTail.toNat + 1 = ringSize (ringAt s q).cpLog2
    · simp [h]
    · rw [decide_eq_false h, if_neg Bool.false_ne_true, if_neg h]
      apply BitVec.eq_of_toNat_eq
      rw [BitVec.toNat_ofNat, BitVec.toNat_add]
      rfl
  unfold acceptCmd accepts
  dsimp only
  refine congrArg (fun m => settleUnknown q (modHost (fun h => { h with turn := (q + 1) % 16, accepted := h.accepted + 1 }) m)) ?_
  refine modRing_congr ?_
  rw [htail]
  simp only [decide_eq_true_eq]

theorem qmemAt_in {r : Ring} (hlow : 0x1000000 ≤ r.cqBase.toNat + 64 * r.head.toNat)
    (hhigh : r.cqBase.toNat + 64 * r.head.toNat + 64 ≤ 0x1400000) :
    qmemAt r = some (r.cqBase.toNat + 64 * r.head.toNat - 0x1000000) := if_pos ⟨hlow, hhigh⟩

theorem qmemAt_out {r : Ring} (h : r.cqBase.toNat + 64 * r.head.toNat < 0x1000000 ∨ 0x1400000 < r.cqBase.toNat + 64 * r.head.toNat + 64) :
    qmemAt r = none := if_neg (by omega)

theorem mayFetch {s : Mach} {q : Nat} (h : Fetchable s q) :
    ¬ (s.start.state ≠ 7 ∨ s.host.perst = true ∨ restarting s = true ∨ ringTurn s ≠ some q) := by
  obtain ⟨hready, hperst, hrestart, hturn⟩ := h
  simp [hready, hperst, hrestart, hturn]

theorem commandFetch_fetches {s : Mach} {q : Nat} (h : Fetchable s q) (hloc : (ringAt s q).loc = false) (d : Desc) :
    commandFetch q (some d) s = accepts q d s := by
  unfold commandFetch
  dsimp only
  rw [if_neg (mayFetch h), if_neg (by simp [hloc]), acceptCmd_eq]

theorem commandFetch_fails {s : Mach} {q : Nat} (h : Fetchable s q) (hloc : (ringAt s q).loc = false) :
    commandFetch q none s = ringHalts q 2 s := by
  unfold commandFetch
  dsimp only
  rw [if_neg (mayFetch h), if_neg (by simp [hloc]), stopRing_eq]
  rfl

theorem commandFetch_local {s : Mach} {q a : Nat} (h : Fetchable s q) (hloc : (ringAt s q).loc = true)
    (ha : qmemAt (ringAt s q) = some a) :
    commandFetch q none s = accepts q (BitVec.ofNat 512 (rdNum s.host.qmem a 64)) s := by
  unfold commandFetch
  dsimp only
  rw [if_neg (mayFetch h), if_pos hloc, ha]
  exact acceptCmd_eq q _ s

theorem commandFetch_outside {s : Mach} {q : Nat} (h : Fetchable s q) (hloc : (ringAt s q).loc = true)
    (ha : qmemAt (ringAt s q) = none) (d : Option Desc) : commandFetch q d s = ringHalts q 2 s := by
  unfold commandFetch
  dsimp only
  rw [if_neg (mayFetch h), if_pos hloc, ha]
  exact stopRing_eq q 2 s

theorem commandFetch_notItsTurn {s : Mach} {q : Nat} (h : ringTurn s ≠ some q) (d : Option Desc) : commandFetch q d s = s := by
  unfold commandFetch
  dsimp only
  rw [if_pos (.inr (.inr (.inr h)))]

theorem endUnknown_known {q : Nat} {s : Mach} (h : ∀ c ∈ (ringAt s q).cmds, c.started = false → knownOpc c.ver (cB c.desc 0 1) = true) :
    endUnknown q s = s := by
  unfold endUnknown
  split
  next c hc =>
    have hmem := List.mem_of_find?_eq_some hc
    have hnew : c.started = false := by simpa using List.find?_some hc
    rw [if_neg (by simp [h c hmem hnew])]
  next => rfl

theorem iter_of_fixed {σ : Type} {f : σ → σ} {s : σ} (h : f s = s) : ∀ n, iter n (fun _ s => f s) s = s
  | 0 => rfl
  | n + 1 => by rw [iter_succ, iter_of_fixed h n, h]

theorem settleUnknown_fixed {q : Nat} {s : Mach} (h : endUnknown q s = s) : settleUnknown q s = s := iter_of_fixed h _

/-- The command that ring q accepts next with the descriptor `d`. -/
def nextCmd (q : Nat) (d : Desc) (s : Mach) : RunCmd :=
  { tok := s.host.accepted, desc := d, started := false, mode := .normal, slot := (ringAt s q).cpTail.toNat
    phase := (ringAt s q).phase, ver := ringVer (ringAt s q) }

/-- The ring after it has accepted a command, before the commands that its version lacks end. -/
def acceptedBy (q : Nat) (d : Desc) (s : Mach) : Mach :=
  modHost (fun h => { h with turn := (q + 1) % 16, accepted := h.accepted + 1 }) (modRing q (fun r => { r with
    head := BitVec.ofNat 16 ((r.head.toNat + 1) % ringSize r.log2), used := r.used + 1
    cpTail := if (ringAt s q).cpTail.toNat + 1 = ringSize (ringAt s q).cpLog2 then 0 else r.cpTail + 1
    phase := if (ringAt s q).cpTail.toNat + 1 = ringSize (ringAt s q).cpLog2 then !r.phase else r.phase
    cmds := r.cmds ++ [nextCmd q d s] }) s)

theorem accepts_eq (q : Nat) (d : Desc) (s : Mach) : accepts q d s = settleUnknown q (acceptedBy q d s) := rfl

theorem ringAt_acceptedBy (q : Nat) (d : Desc) (s : Mach) : (ringAt (acceptedBy q d s) q).cmds = (ringAt s q).cmds ++ [nextCmd q d s] ∧
    (ringAt (acceptedBy q d s) q).fin = (ringAt s q).fin := by
  have h := ringAt_modRing q (fun r => { r with
    head := BitVec.ofNat 16 ((r.head.toNat + 1) % ringSize r.log2), used := r.used + 1
    cpTail := if (ringAt s q).cpTail.toNat + 1 = ringSize (ringAt s q).cpLog2 then 0 else r.cpTail + 1
    phase := if (ringAt s q).cpTail.toNat + 1 = ringSize (ringAt s q).cpLog2 then !r.phase else r.phase
    cmds := r.cmds ++ [nextCmd q d s] }) s
  have hring : ringAt (acceptedBy q d s) q = _ := h
  rw [hring]
  exact ⟨rfl, rfl⟩

/-- The only command of a ring, of an opcode that its version lacks, ends with status 0x01. -/
theorem settleUnknown_single {q : Nat} {c : RunCmd} {s : Mach} (hcmds : (ringAt s q).cmds = [c]) (hnew : c.started = false)
    (hunknown : knownOpc c.ver (cB c.desc 0 1) = false) : settleUnknown q s = complete ⟨q, c.tok⟩ 0x01 0 s := by
  have hone : settleUnknown q s = endUnknown q s := by
    unfold settleUnknown
    rw [hcmds]
    rfl
  rw [hone]
  unfold endUnknown
  rw [hcmds]
  simp [hnew, hunknown]

theorem ringAt_complete_single {q : Nat} {c : RunCmd} {s : Mach} (hcmds : (ringAt s q).cmds = [c]) (st det : Nat) :
    (ringAt (complete ⟨q, c.tok⟩ st det s) q).cmds = [] ∧ (ringAt (complete ⟨q, c.tok⟩ st det s) q).fin = (ringAt s q).fin ++
      [{ cid := fld c.desc 16 16, opc := fld c.desc 0 8, irq := bit c.desc 8, status := BitVec.ofNat 8 st
         detail := BitVec.ofNat 64 det, mode := c.mode, slot := c.slot, phase := c.phase }] := by
  have hfind : (ringAt s q).cmds.find? (fun x => x.tok == c.tok) = some c := by
    rw [hcmds]
    exact List.find?_cons_of_pos (p := fun x : RunCmd => x.tok == c.tok) (beq_self_eq_true c.tok)
  have hring := ringAt_modRing q (fun r : Ring =>
    match r.cmds.find? (fun x => x.tok == c.tok) with
    | none => r
    | some c' =>
      { r with
        cmds := r.cmds.filter (fun x => x.tok != c.tok)
        fin := r.fin ++ [{ cid := fld c'.desc 16 16, opc := fld c'.desc 0 8, irq := bit c'.desc 8,
                           status := BitVec.ofNat 8 st, detail := BitVec.ofNat 64 det, mode := c'.mode, slot := c'.slot, phase := c'.phase }] }) s
  have heq : ringAt (complete ⟨q, c.tok⟩ st det s) q = _ := hring
  rw [heq, hfind, hcmds]
  refine ⟨?_, rfl⟩
  simp

/-- With BARRIER set a command whose opcode the version lacks waits for those before it. -/
theorem endUnknown_barred {q : Nat} {c x : RunCmd} {s : Mach} (hcmds : (ringAt s q).cmds = [c, x]) (hstarted : c.started = true)
    (hnew : x.started = false) (hne : c.tok ≠ x.tok) (hbar : bit x.desc 9 = true) : endUnknown q s = s := by
  unfold endUnknown
  rw [hcmds]
  simp [hstarted, hnew, hne, hbar]

theorem ringHalts_now (q : Nat) (err : Byte) (s : Mach) : (ringHalts q err s).now = s.now := (raiseIrq_signals 2 _).now

theorem complete_now (o : Owed) (st det : Nat) (s : Mach) : (complete o st det s).now = s.now := (complete_signals o st det s).now

theorem acceptedBy_now (q : Nat) (d : Desc) (s : Mach) : (acceptedBy q d s).now = s.now := rfl

theorem descriptorsAreFetchedInTurn : DescriptorsAreFetchedInTurn := by
  refine ⟨fun s q d h hloc => run_eq_after (commandFetch_fetches h hloc d), fun s q h hloc => run_eq_after (commandFetch_fails h hloc),
    fun s q h hloc => ⟨fun hlow hhigh => run_eq_after (commandFetch_local h hloc (qmemAt_in hlow hhigh)),
      fun hout d => run_eq_after (commandFetch_outside h hloc (qmemAt_out hout) d)⟩,
    fun s q h => settleUnknown_fixed (endUnknown_known h), fun s q d h hloc hcmds hunknown => ?_,
    fun s q d c h hloc hcmds hstarted hne hbar hunknown => ?_, fun s q d h => run_unchanged (commandFetch_notItsTurn h d)⟩
  · obtain ⟨hnext, hfin⟩ := ringAt_acceptedBy q.val d s.m
    rw [hcmds, List.nil_append] at hnext
    have hfetch := commandFetch_fetches h hloc d
    rw [accepts_eq, settleUnknown_single hnext rfl hunknown] at hfetch
    obtain ⟨hnone, hlast⟩ := ringAt_complete_single hnext 0x01 0
    rw [hfin, ← hfetch] at hlast
    rw [← hfetch] at hnone
    have hnow : (commandFetch q.val (some d) s.m).now = s.m.now := by rw [hfetch, complete_now, acceptedBy_now]
    obtain ⟨hrun, hpend, hm⟩ := runs_to hnow
    rw [← hm] at hnone hlast
    exact ⟨_, hrun, hpend, hnone, hlast⟩
  · obtain ⟨hnext, hfin⟩ := ringAt_acceptedBy q.val d s.m
    rw [hcmds, List.singleton_append] at hnext
    have hfetch := commandFetch_fetches h hloc d
    rw [accepts_eq, settleUnknown_fixed (endUnknown_barred hnext hstarted rfl hne hbar)] at hfetch
    rw [← hfetch] at hnext hfin
    have hnow : (commandFetch q.val (some d) s.m).now = s.m.now := by rw [hfetch, acceptedBy_now]
    obtain ⟨hrun, hpend, hm⟩ := runs_to hnow
    rw [← hm] at hnext hfin
    exact ⟨_, _, hrun, hpend, hnext, rfl, hfin⟩

/-- Settles O41. -/
theorem ringsAndTheirDescriptors : Obligations.RingsAndTheirDescriptors :=
  ⟨ringsAreConfiguredAndRung, descriptorsAreFetchedInTurn⟩

end Sys2Proof.Spec
end

section
/-! PROOFS. Host commands that wait for a round, and those that act at once (18_host_link_and_commands.md). -/

namespace Sys2Proof.Spec

open Sys2Proof.Machine

/-! ### A command that starts -/

/-- A command that starts hands over to its body. -/
theorem run_startCmd {s : State} {q : Nat} {d : Desc} {c : RunCmd} {opc : Nat} {named : List (Nat × Nat)} {g : Mach → Mach}
    {go : Owed → Mach → Mach} (h : Starts s.m q d c opc named) (hgo : go (owedTo q c) (started q c s.m) = g s.m) :
    run (startCmd q d (cB d 0 1 == opc) named go) s = .next (after g s) :=
  run_eq_after ((startCmd_starts h go).trans hgo)

theorem secRoundStatus_free {s : Mach} {m : BitVec 48} (hnew : roundStarted s m = false)
    (hfree : ∀ x ∈ s.sec.queue, x.round ≠ m) : secRoundStatus s m = 0 := by
  have hany : s.sec.queue.any (fun x => x.round == m) = false :=
    List.any_eq_false.2 fun x hx => by simpa using hfree x hx
  simp [secRoundStatus, hnew, hany]

theorem secRoundStatus_past {s : Mach} {m : BitVec 48} (hpast : roundStarted s m = true) : secRoundStatus s m = 4 := by
  simp [secRoundStatus, hpast]

/-- A byte of the descriptor that is zero has its lowest bit clear. -/
theorem bit_of_cB_zero {d : Desc} {off : Nat} (h : cB d off 1 = 0) : bit d (8 * off) = false := by
  have hz : d.extractLsb' (8 * off) (8 * 1) = 0#(8 * 1) := BitVec.eq_of_toNat_eq (by simpa [cB] using h)
  have := congrArg (fun x => x.getLsbD 0) hz
  simpa [bit, BitVec.getLsbD_extractLsb'] using this

/-! ### Sections -/

theorem sectionLoad_waits {s : State} {q : Nat} {d : Desc} {c : RunCmd} {m : BitVec 48}
    (h : Starts s.m q d c 0x10 [(8, 11), (24, 8)]) (hm : NamesRound s.m q c d 12 m) (hflag : cB d 18 1 = 0)
    (hfree : ∀ x ∈ s.m.sec.queue, x.round ≠ m) :
    run (sectionLoad q d) s = .next (after (awaits q c (modSec (fun x => { x with queue := x.queue ++
        [{ round := m, load := true, section_ := BitVec.ofNat 32 (cB d 8 4), man := false, owed := owedTo q c }] }))) s) := by
  obtain ⟨hround, hnew⟩ := hm
  refine run_startCmd h ?_
  have hman : bit d 144 = false := bit_of_cB_zero (off := 18) hflag
  have hst : secRoundStatus (started q c s.m) m = 0 := secRoundStatus_free (s := started q c s.m) hnew hfree
  have hcmd : cmdRound (started q c s.m) (cmdVer (started q c s.m) (owedTo q c)) d 12 = some m :=
    (cmdRound_started s.m q c d 12).trans hround
  dsimp only
  rw [hcmd]
  simp only [hst, hman, hflag]
  rfl

theorem sectionLoad_late {s : State} {q : Nat} {d : Desc} {c : RunCmd} {m : BitVec 48}
    (h : Starts s.m q d c 0x10 [(8, 11), (24, 8)]) (hround : cmdRound s.m (verOf s.m q c) d 12 = some m)
    (hpast : roundStarted s.m m = true) (hflag : cB d 18 1 = 0) :
    run (sectionLoad q d) s = .next (after (ended q c 0x04 m.toNat) s) := by
  refine run_startCmd h ?_
  have hman : bit d 144 = false := bit_of_cB_zero (off := 18) hflag
  have hst : secRoundStatus (started q c s.m) m = 4 := secRoundStatus_past (s := started q c s.m) hpast
  have hcmd : cmdRound (started q c s.m) (cmdVer (started q c s.m) (owedTo q c)) d 12 = some m :=
    (cmdRound_started s.m q c d 12).trans hround
  dsimp only
  rw [hcmd]
  simp only [hst, hman, hflag]
  rfl

theorem sectionStop_waits {s : State} {q : Nat} {d : Desc} {c : RunCmd} {m : BitVec 48}
    (h : Starts s.m q d c 0x11 [(12, 6)]) (hm : NamesRound s.m q c d 12 m) (hfree : ∀ x ∈ s.m.sec.queue, x.round ≠ m) :
    run (sectionStop q d) s = .next (after (awaits q c (modSec (fun x => { x with queue := x.queue ++
        [{ round := m, load := false, section_ := 0, man := false, owed := owedTo q c }] }))) s) := by
  obtain ⟨hround, hnew⟩ := hm
  refine run_startCmd h ?_
  have hst : secRoundStatus (started q c s.m) m = 0 := secRoundStatus_free (s := started q c s.m) hnew hfree
  have hcmd : cmdRound (started q c s.m) (cmdVer (started q c s.m) (owedTo q c)) d 12 = some m :=
    (cmdRound_started s.m q c d 12).trans hround
  dsimp only
  rw [hcmd]
  simp only [hst]
  rfl

/-! ### Fences -/

theorem fenceModule_waits {s : State} {q : Nat} {d : Desc} {c : RunCmd} (h : Starts s.m q d c 0x20 []) :
    run (fenceModule q d) s = .next (after (awaits q c (modRmt (fun r => { r with
        modFences := r.modFences ++ [owedTo q c] }))) s) :=
  run_startCmd h rfl

theorem fencesOff_of_fencing {s : Mach} (h : s.rmt.sysfMode = 1 ∨ s.rmt.sysfMode = 2) : fencesOff s = false := by
  unfold fencesOff
  rcases h with h | h <;> rw [h] <;> rfl

theorem fenceSystem_waits {s : State} {q : Nat} {d : Desc} {c : RunCmd} {m : BitVec 48}
    (h : Starts s.m q d c 0x21 [(8, 6)]) (hround : cmdRound s.m (verOf s.m q c) d 8 = some m)
    (hnew : roundStarted s.m (m + 1) = false) (hmode : s.m.rmt.sysfMode = 1 ∨ s.m.rmt.sysfMode = 2) :
    run (fenceSystem q d) s = .next (after (awaits q c (modRmt (fun r => { r with
        named := r.named ++ [(m, owedTo q c)] }))) s) := by
  refine run_startCmd h ?_
  have hoff : fencesOff (started q c s.m) = false := fencesOff_of_fencing (s := started q c s.m) hmode
  have hnew' : roundStarted (started q c s.m) (m + 1) = false := hnew
  have hcmd : cmdRound (started q c s.m) (cmdVer (started q c s.m) (owedTo q c)) d 8 = some m :=
    (cmdRound_started s.m q c d 8).trans hround
  rw [hcmd]
  simp only [hoff, hnew']
  rfl

/-! ### Windows and partners -/

theorem atOnce_inRounds {s : Mach} (hen : s.rnd.en = true) (hhold : s.rnd.hold = false) : atOnce s = false := by
  simp [atOnce, hen, hhold]

theorem windowOpen_waits {s : State} {q : Nat} {d : Desc} {c : RunCmd} (h : Starts s.m q d c 0x28 [(8, 2), (32, 32)])
    (hi : cB d 8 2 < 1024) (hvalid : wnValid (BitVec.ofNat 256 (cB d 32 32)) = true)
    (hok : windowOk s.m (BitVec.ofNat 256 (cB d 32 32)) = true) (hwait : atOnce s.m = false) :
    run (windowCmd true q d) s = .next (after (awaits q c (modRmt (fun r => { r with
        changes := insertBy (fun c => c.owed.tok)
          (.window (BitVec.ofNat 10 (cB d 8 2)) (BitVec.ofNat 256 (cB d 32 32)) (owedTo q c)) r.changes }))) s) := by
  refine run_startCmd h ?_
  have hok' : windowOk (started q c s.m) (BitVec.ofNat 256 (cB d 32 32)) = true := hok
  have hwait' : atOnce (started q c s.m) = false := hwait
  simp only [hvalid, hok', hwait', Nat.not_le.2 hi, if_true, if_false, Bool.not_true, and_false, or_self, Bool.false_eq_true, Bool.and_false]
  rfl

theorem windowClose_waits {s : State} {q : Nat} {d : Desc} {c : RunCmd} (h : Starts s.m q d c 0x29 [(8, 2)])
    (hi : cB d 8 2 < 1024) (hwait : atOnce s.m = false) :
    run (windowCmd false q d) s = .next (after (awaits q c (modRmt (fun r => { r with
        changes := insertBy (fun c => c.owed.tok) (.window (BitVec.ofNat 10 (cB d 8 2)) 0 (owedTo q c)) r.changes }))) s) := by
  refine run_startCmd h ?_
  have hwait' : atOnce (started q c s.m) = false := hwait
  simp only [hwait', Nat.not_le.2 hi, if_false, false_and, or_self, Bool.false_eq_true, Bool.false_and]
  rfl

/-- A PARTNER command that starts, of the action of its row. -/
theorem run_partnerCmd {s : State} {q : Nat} {d : Desc} {c : RunCmd} {mine : Nat → Bool} {g : Mach → Mach}
    (h : Starts s.m q d c 0x30 [(8, 1), (10, 3), (16, 12)]) (hmine : mine (cB d 8 1) = true)
    (hst : partnerStatus s.m d = 0)
    (hgo : (if atOnce s.m then applyPartner d (owedTo q c) (started q c s.m)
      else modRmt (fun r => { r with changes := insertBy (fun c => c.owed.tok) (.partner d (owedTo q c)) r.changes })
        (started q c s.m)) = g s.m) :
    run (partnerCmd mine q d) s = .next (after g s) := by
  unfold partnerCmd
  rw [hmine, Bool.and_true]
  refine run_startCmd h ?_
  have hst' : partnerStatus (started q c s.m) d = 0 := hst
  dsimp only
  rw [hst', if_neg (not_not.2 rfl)]
  exact hgo

theorem partnerAssignId_waits {s : State} {q : Nat} {d : Desc} {c : RunCmd}
    (h : Starts s.m q d c 0x30 [(8, 1), (10, 3), (16, 12)]) (hact : cB d 8 1 = 3) (hwait : atOnce s.m = false) :
    run (partnerCmd (· == 3) q d) s = .next (after (awaits q c (modRmt (fun r => { r with
        changes := insertBy (fun c => c.owed.tok) (.partner d (owedTo q c)) r.changes }))) s) := by
  refine run_partnerCmd h (by rw [hact]; rfl) (by rw [partnerStatus, hact]; rfl) ?_
  rw [hwait]
  rfl

/-! ### Rounds and digests -/

theorem roundSet_waits {s : State} {q : Nat} {d : Desc} {c : RunCmd} {m : BitVec 48}
    (h : Starts s.m q d c 0x38 [(8, 7), (16, 8 * min 6 (cB d 14 1))]) (hm : NamesRound s.m q c d 8 m)
    (h1 : 1 ≤ cB d 14 1) (h6 : cB d 14 1 ≤ 6) (hrw : ∀ x ∈ setPairs d, roundRw x.1 = true) :
    run (roundSet q d) s = .next (after (awaits q c (modRnd (fun r => { r with
        sets := insertBy (fun e => e.2.2.tok) (m, d, owedTo q c) r.sets }))) s) := by
  obtain ⟨hround, hnew⟩ := hm
  refine run_startCmd h ?_
  have hnew' : roundStarted (started q c s.m) m = false := hnew
  have hall : (setPairs d).all (fun x => roundRw x.1) = true := List.all_eq_true.2 hrw
  have hcmd : cmdRound (started q c s.m) (cmdVer (started q c s.m) (owedTo q c)) d 8 = some m :=
    (cmdRound_started s.m q c d 8).trans hround
  rw [hcmd]
  simp only [hnew', hall, Nat.not_lt.2 h1, Nat.not_lt.2 h6, Bool.not_true, Bool.false_eq_true, or_self, if_false]
  rfl

theorem digestSet_waits {s : State} {q : Nat} {d : Desc} {c : RunCmd} (h : Starts s.m q d c 0x39 [(8, 5), (16, 8)])
    (hver : verOf s.m q c = 2) (hen : cB d 8 1 ≤ 1) (hn : cB d 12 1 ≤ 63) (htop : cB d 16 8 + 2 * cB d 12 1 ≤ 2 ^ 41)
    (hkeep : (s.m.edge.keepEn && inKeep (cB d 16 8) (2 * cB d 12 1)) = false)
    (hgood : GoodRange s.m (cB d 16 8) (2 * cB d 12 1)) (hout : stackOut s.m (stackOf (cB d 16 8)) = false) :
    run (digestSet q d) s = .next (after (awaits q c (fun m =>
        let x : DigSet :=
          { en := bit d 64, ivm1 := BitVec.ofNat 8 (cB d 9 1), timeout := BitVec.ofNat 16 (cB d 10 2), owed := owedTo q c
            ids := (List.range (cB d 12 1)).map (fun i =>
              BitVec.ofNat 16 (numAt (rdBytes m.edge.mem (cB d 16 8) (2 * cB d 12 1)) (2 * i) 2)) }
        modTrn (fun t => { t with digSet := insertBy (fun x => x.owed.tok) x t.digSet }) m)) s) := by
  refine run_startCmd h ?_
  have hver' : cmdVer (started q c s.m) (owedTo q c) = 2 := (cmdVer_started s.m q c c.tok).trans hver
  have hgood' : GoodRange (started q c s.m) (cB d 16 8) (2 * cB d 12 1) := hgood
  have hout' : stackOut (started q c s.m) (stackOf (cB d 16 8)) = false := hout
  have hkeep' : ¬(cB d 12 1 ≠ 0 ∧ (started q c s.m).edge.keepEn = true ∧ inKeep (cB d 16 8) (2 * cB d 12 1) = true) := by
    rintro ⟨-, h1, h2⟩
    have h1' : s.m.edge.keepEn = true := h1
    rw [h1', h2] at hkeep
    exact absurd hkeep (by decide)
  dsimp only
  rw [hver', if_neg (not_not.2 rfl),
    if_neg (by rintro (h | h | h | h); exacts [by omega, by omega, by omega, hkeep' h]), readEdge_good hgood']
  simp only [(clean_bytes _).1, (clean_bytes _).2, hout', Bool.false_and, Bool.or_self, Bool.false_eq_true, if_false]
  rfl

theorem digestSet_version1 {s : State} {q : Nat} {d : Desc} {c : RunCmd} {m : Mach}
    (h : Starts s.m q d c 0x39 [(8, 5), (16, 8)]) (hver : verOf s.m q c = 1) (hm : m = ended q c 0x01 0 s.m) :
    run (digestSet q d) s = .next (after (fun _ => m) s) := by
  refine run_startCmd h ?_
  have hver' : cmdVer (started q c s.m) (owedTo q c) = 1 := (cmdVer_started s.m q c c.tok).trans hver
  dsimp only
  rw [hver', if_pos (by decide), hm]
  rfl

theorem restartHold_waits {s : State} {q : Nat} {d : Desc} {c : RunCmd} (h : Starts s.m q d c 0x48 [])
    (hmaster : s.m.rnd.master = true) (hen : s.m.rnd.en = true) (hhold : s.m.rnd.hold = false) :
    run (restartHold q d) s = .next (after (awaits q c (modKeep (fun k => { k with
        holdCmds := k.holdCmds ++ [owedTo q c] }))) s) := by
  refine run_startCmd h ?_
  have hmaster' : (started q c s.m).rnd.master = true := hmaster
  have hen' : (started q c s.m).rnd.en = true := hen
  have hhold' : (started q c s.m).rnd.hold = false := hhold
  simp only [hmaster', hen', hhold', Bool.not_true, Bool.or_self, Bool.false_eq_true, if_false]
  rfl

/-- Settles O44: each of the commands starts, and its body only records what it waits for. -/
theorem commandsWaitForTheirRound : Obligations.CommandsWaitForTheirRound := by
  intro s q d c
  refine ⟨fun m h hm hflag hfree => sectionLoad_waits h hm hflag hfree, fun m h hm hfree => sectionStop_waits h hm hfree,
    fun m h hround hpast hflag => sectionLoad_late h hround hpast hflag, fun h => fenceModule_waits h,
    fun m h hround hnew hmode => fenceSystem_waits h hround hnew hmode,
    fun h hi hvalid hok hen hhold => windowOpen_waits h hi hvalid hok (atOnce_inRounds hen hhold),
    fun h hi hen hhold => windowClose_waits h hi (atOnce_inRounds hen hhold),
    fun h hact hen hhold => partnerAssignId_waits h hact (atOnce_inRounds hen hhold),
    fun m h hm h1 h6 hrw => roundSet_waits h hm h1 h6 hrw,
    fun h hver hen hn htop hkeep hgood hout => digestSet_waits h hver hen hn htop hkeep hgood hout,
    fun m h hver hm => digestSet_version1 h hver hm,
    fun h hmaster hen hhold => restartHold_waits h hmaster hen hhold⟩

/-! ### The completion of a command that acts at once -/

/-- What a completion leaves of the rings depends on the rings alone. -/
theorem rings_complete_congr {s t : Mach} (h : t.host.rings = s.host.rings) (o : Owed) (st det : Nat) :
    (complete o st det t).host.rings = (complete o st det s).host.rings := by
  unfold complete
  simp only [modRing_own, h]

/-- A command whose body completes it after a change that leaves time and rings alone. -/
theorem run_completes {s : State} {q : Nat} {c : RunCmd} {f : Mach → Mach} {u : Mach} {st det : Nat}
    (hf : f s.m = complete (owedTo q c) st det u) (hnow : u.now = s.m.now) (hrings : u.host.rings = (started q c s.m).host.rings) :
    ∃ t, run f s = .next t ∧ EndedWith q c st det s t ∧ t.m = complete (owedTo q c) st det u := by
  have hkept : (f s.m).now = s.m.now := by rw [hf, complete_now, hnow]
  obtain ⟨hrun, hpending, hm⟩ := runs_to hkept
  refine ⟨_, hrun, ⟨hpending, ?_⟩, hm.trans hf⟩
  rw [hm, hf]
  exact rings_complete_congr hrings _ _ _

theorem rmtEvt_rings (b : Nat) (s : Mach) : (rmtEvt b s).host.rings = s.host.rings := raiseIrq_rings 6 _

theorem rmtEvt_ptn (b : Nat) (s : Mach) : (rmtEvt b s).rmt.ptn = s.rmt.ptn := by
  rw [(rmtEvt_signals b s).rmt]
  rfl

/-! ### No operation -/

theorem nop_ends {s : State} {q : Nat} {d : Desc} {c : RunCmd} (h : Starts s.m q d c 0x00 []) :
    run (nop q d) s = .next (after (ended q c 0x00 0) s) :=
  run_startCmd h rfl

/-- A command of a version of its own that is not taken: its status is that of the first check that fails. -/
theorem nop_refused {s : State} {q : Nat} {d : Desc} {c : RunCmd} {st : Nat} (hfind : cmdFind s.m q d = some c)
    (hopc : cB d 0 1 = 0x00)
    (hst : (headerOk d && bodyOk d []) = false ∧ st = 0x02 ∨ (headerOk d && bodyOk d []) = true ∧ s.m.start.state ≠ 7 ∧ st = 0x03) :
    run (nop q d) s = .next (after (ended q c st 0) s) := by
  refine run_eq_after ?_
  unfold nop startCmd
  simp only [hfind, hopc, beq_self_eq_true, Bool.not_true, Bool.false_eq_true, if_false]
  rcases hst with ⟨hbad, rfl⟩ | ⟨hok, hready, rfl⟩
  · rw [hbad]
    rfl
  · rw [hok, Bool.not_true, if_neg Bool.false_ne_true, if_pos hready]
    rfl

/-! ### Windows -/

theorem windowOpen_atOnce {s : State} {q : Nat} {d : Desc} {c : RunCmd} (h : Starts s.m q d c 0x28 [(8, 2), (32, 32)])
    (hi : cB d 8 2 < 1024) (hvalid : wnValid (BitVec.ofNat 256 (cB d 32 32)) = true)
    (hok : windowOk s.m (BitVec.ofNat 256 (cB d 32 32)) = true) (hnow : atOnce s.m = true) :
    windowCmd true q d s.m = complete (owedTo q c) 0x00 0
      (modRmt (fun r => { r with win := tset 0 r.win (cB d 8 2) (BitVec.ofNat 256 (cB d 32 32)) }) (started q c s.m)) := by
  refine (startCmd_starts h _).trans ?_
  have hok' : windowOk (started q c s.m) (BitVec.ofNat 256 (cB d 32 32)) = true := hok
  have hnow' : atOnce (started q c s.m) = true := hnow
  simp only [hvalid, hok', hnow', Nat.not_le.2 hi, if_true, if_false, Bool.not_true, and_false, or_self, Bool.false_eq_true, Bool.and_false]
  rfl

theorem windowClose_atOnce {s : State} {q : Nat} {d : Desc} {c : RunCmd} (h : Starts s.m q d c 0x29 [(8, 2)])
    (hi : cB d 8 2 < 1024) (hnow : atOnce s.m = true) :
    windowCmd false q d s.m = complete (owedTo q c) 0x00 0
      (modRmt (fun r => { r with win := tset 0 r.win (cB d 8 2) 0 }) (started q c s.m)) := by
  refine (startCmd_starts h _).trans ?_
  have hnow' : atOnce (started q c s.m) = true := hnow
  simp only [hnow', Nat.not_le.2 hi, if_true, if_false, false_and, or_self, Bool.false_eq_true, Bool.false_and]
  rfl

theorem complete_rmt (o : Owed) (st det : Nat) (s : Mach) : (complete o st det s).rmt = s.rmt := (complete_signals o st det s).rmt

theorem complete_ctl (o : Owed) (st det : Nat) (s : Mach) : (complete o st det s).ctl = s.ctl := (complete_signals o st det s).ctl

/-! ### Partners -/

/-- A PARTNER command that acts at once. -/
theorem partnerCmd_atOnce {s : State} {q : Nat} {d : Desc} {c : RunCmd} {mine : Nat → Bool}
    (h : Starts s.m q d c 0x30 [(8, 1), (10, 3), (16, 12)]) (hmine : mine (cB d 8 1) = true)
    (hst : partnerStatus s.m d = 0) (hnow : atOnce s.m = true) :
    partnerCmd mine q d s.m = applyPartner d (owedTo q c) (started q c s.m) := by
  unfold partnerCmd
  rw [hmine, Bool.and_true]
  refine (startCmd_starts h _).trans ?_
  have hst' : partnerStatus (started q c s.m) d = 0 := hst
  have hnow' : atOnce (started q c s.m) = true := hnow
  dsimp only
  rw [hst', if_neg (not_not.2 rfl), if_pos hnow']
  rfl

/-- The table with its CONFLICT marks set anew. -/
def settledTable (s : Mach) : Tbl Ptn := s.rmt.ptn.map (fun e => (e.1, { e.2 with conflict := ptnConflict s e.2 }))

theorem settlePtn_table (s : Mach) : (settlePtn s).rmt.ptn = settledTable s ∧ (settlePtn s).host.rings = s.host.rings := by
  unfold settlePtn
  dsimp only
  generalize hs1 : modRmt (fun r => { r with ptn := r.ptn.map (fun e => (e.1, { e.2 with conflict := ptnConflict s e.2 })) }) s = s1
  have h1 : s1.rmt.ptn = settledTable s ∧ s1.host.rings = s.host.rings := by
    subst hs1
    exact ⟨rfl, rfl⟩
  have hevt : ∀ b u, u.rmt.ptn = settledTable s ∧ u.host.rings = s.host.rings →
      (rmtEvt b u).rmt.ptn = settledTable s ∧ (rmtEvt b u).host.rings = s.host.rings :=
    fun b u hu => ⟨(rmtEvt_ptn b u).trans hu.1, (rmtEvt_rings b u).trans hu.2⟩
  split <;> split
  · exact hevt 1 _ (hevt 0 _ h1)
  · exact hevt 1 _ h1
  · exact hevt 0 _ h1
  · exact h1

theorem tget_settledTable_absent {s : Mach} {i : Nat} (h : ∀ e ∈ s.rmt.ptn, e.1 ≠ i) : tget Ptn.reset (settledTable s) i = Ptn.reset := by
  refine tget_absent _ _ _ fun e he => ?_
  obtain ⟨x, hx, rfl⟩ := List.mem_map.1 he
  exact h x hx

/-- An entry that is put back to its reset value stays there. -/
theorem putPtn_reset (i : Nat) (s : Mach) : tget Ptn.reset (putPtn i Ptn.reset s).rmt.ptn i = Ptn.reset ∧
    (putPtn i Ptn.reset s).host.rings = s.host.rings := by
  obtain ⟨htable, hrings⟩ := settlePtn_table (modRmt (fun r => { r with ptn := tset Ptn.reset r.ptn i Ptn.reset }) s)
  refine ⟨?_, hrings⟩
  rw [putPtn, htable]
  refine tget_settledTable_absent fun e he => ?_
  have he' : e ∈ tdel s.rmt.ptn i := by simpa [tset] using he
  exact ((mem_tdel _ _ _).1 he').2

theorem changePtn_rings (i : Nat) (e : Ptn) (s : Mach) : (changePtn i e s).host.rings = s.host.rings := by
  have hput : (putPtn i e s).host.rings = s.host.rings := (settlePtn_table _).2
  unfold changePtn
  dsimp only
  split
  · exact hput
  · exact (rmtEvt_rings _ _).trans hput

theorem putPtn_now (i : Nat) (e : Ptn) (s : Mach) : (putPtn i e s).now = s.now := (settlePtn_settled _).port.1

theorem changePtn_now (i : Nat) (e : Ptn) (s : Mach) : (changePtn i e s).now = s.now := (changePtn_settled i e s).port.1

/-- A changed entry holds its new value, but for its CONFLICT mark. -/
theorem tget_changePtn (i : Nat) (e : Ptn) (s : Mach) :
    ∃ x, tget Ptn.reset (changePtn i e s).rmt.ptn i = { e with conflict := x } := by
  obtain ⟨x, hx⟩ := (changePtn_settled i e s).2 i
  exact ⟨x, by rw [hx, modRmt_own, tget_tset_same]⟩

/-- The entry that PARTNER 1 adds. -/
def forwardedEntry (d : Desc) (since : Nat) : Ptn :=
  { serial := pcSerial d, id := BitVec.ofNat 16 (cB d 10 2), valid := true, direct := false, assigned := true, lost := false,
    conflict := false, port := BitVec.ofNat 6 (cB d 12 1), epoch := BitVec.ofNat 32 (cB d 24 4), since := since }

theorem partnerAdd_atOnce {s : State} {q : Nat} {d : Desc} {c : RunCmd} {i : Nat}
    (h : Starts s.m q d c 0x30 [(8, 1), (10, 3), (16, 12)]) (hnow : atOnce s.m = true) (hact : cB d 8 1 = 1)
    (hport : cB d 12 1 < 64) (hdark : darkPort s.m (cB d 12 1) = false) (hself : pcSerial d ≠ s.m.start.serial)
    (hnone : forwardedOf s.m (pcSerial d) = none) (hfree : ptnFree s.m = some i) :
    ∃ since, since = s.m.rmt.order ∧ partnerCmd (fun a => !decide (2 ≤ a ∧ a ≤ 4)) q d s.m = complete (owedTo q c) 0x00 0
      (changePtn i (forwardedEntry d since) (modRmt (fun r => { r with order := r.order + 1 }) (started q c s.m))) := by
  have hst : partnerStatus s.m d = 0 := by
    simp [partnerStatus, hact, Nat.not_le.2 hport, hdark, hself, hfree]
  have hst' : partnerStatus (started q c s.m) d = 0 := hst
  have hnone' : forwardedOf (started q c s.m) (pcSerial d) = none := hnone
  have hfree' : ptnFree (started q c s.m) = some i := hfree
  refine ⟨_, rfl, (partnerCmd_atOnce h (by rw [hact]; rfl) hst hnow).trans ?_⟩
  unfold applyPartner
  rw [hst', if_neg (not_not.2 rfl), hact, hnone']
  simp only [hfree']
  rfl

theorem partnerRemove_atOnce {s : State} {q : Nat} {d : Desc} {c : RunCmd} {i : Nat} {e : Ptn}
    (h : Starts s.m q d c 0x30 [(8, 1), (10, 3), (16, 12)]) (hnow : atOnce s.m = true) (hact : cB d 8 1 = 2)
    (hself : pcSerial d ≠ s.m.start.serial) (hfind : forwardedOf s.m (pcSerial d) = some (i, e)) :
    partnerCmd (· == 2) q d s.m = complete (owedTo q c) 0x00 0
      (rmtEvt 0 (putPtn i Ptn.reset (clearStrag e (started q c s.m)))) := by
  have hst : partnerStatus s.m d = 0 := by simp [partnerStatus, hact, hself]
  have hst' : partnerStatus (started q c s.m) d = 0 := hst
  have hfind' : forwardedOf (started q c s.m) (pcSerial d) = some (i, e) := hfind
  refine (partnerCmd_atOnce h (by rw [hact]; rfl) hst hnow).trans ?_
  unfold applyPartner
  rw [hst', if_neg (not_not.2 rfl), hact]
  simp only [hfind']

theorem clearStrag_kept (e : Ptn) (s : Mach) : (clearStrag e s).now = s.now ∧ (clearStrag e s).host.rings = s.host.rings := by
  unfold clearStrag
  split <;> exact ⟨rfl, rfl⟩

theorem foldl_sendMgmt_frame (f : Mach → Nat → Msg) (l : List Nat) :
    ∀ s, ∃ x, l.foldl (fun s p => sendMgmt p (f s p) s) s = { s with ports := x } := by
  induction l with
  | nil => exact fun s => ⟨s.ports, rfl⟩
  | cons p l ih =>
    intro s
    obtain ⟨x, hx⟩ := ih (sendMgmt p (f s p) s)
    exact ⟨x, hx⟩

theorem resendIdentity_frame (s : Mach) : ∃ x, resendIdentity s = { s with ports := x } := foldl_sendMgmt_frame identityOf _ s

/-- The ID that a PARTNER 3 or 4 leaves. -/
theorem partnerId_atOnce {s : State} {q : Nat} {d : Desc} {c : RunCmd} {mine : Nat → Bool} {f : Control → Control}
    (h : Starts s.m q d c 0x30 [(8, 1), (10, 3), (16, 12)]) (hnow : atOnce s.m = true) (hmine : mine (cB d 8 1) = true)
    (hact : cB d 8 1 = 3 ∧ f = (fun x => { x with assigned := true, id := pcId d }) ∨ cB d 8 1 = 4 ∧ f = (fun x => { x with assigned := false })) :
    ∃ t, run (partnerCmd mine q d) s = .next t ∧ EndedWith q c 0x00 0 s t ∧ t.m.ctl = f s.m.ctl ∧ t.m.rmt = s.m.rmt := by
  obtain ⟨x, hx⟩ := resendIdentity_frame (modCtl f (started q c s.m))
  have hst : partnerStatus s.m d = 0 := by
    unfold partnerStatus
    rcases hact with ⟨h3, -⟩ | ⟨h4, -⟩
    · rw [h3]; rfl
    · rw [h4]; rfl
  have hst' : partnerStatus (started q c s.m) d = 0 := hst
  have hf : partnerCmd mine q d s.m = complete (owedTo q c) 0x00 0 (resendIdentity (modCtl f (started q c s.m))) := by
    refine (partnerCmd_atOnce h hmine hst hnow).trans ?_
    unfold applyPartner
    rw [hst', if_neg (not_not.2 rfl)]
    rcases hact with ⟨h3, rfl⟩ | ⟨h4, rfl⟩
    · rw [h3]; rfl
    · rw [h4]; rfl
  obtain ⟨t, hrun, hended, htm⟩ := run_completes (c := c) hf (by rw [hx]; rfl) (by rw [hx]; rfl)
  refine ⟨t, hrun, hended, ?_, ?_⟩
  · rw [htm, complete_ctl, hx]
    rfl
  · rw [htm, complete_rmt, hx]
    rfl

/-! ### The arm of a restart (R453, R454) -/

/-- Time, the rounds and what runs of the sections are as they were. -/
def SectionsKept (s t : Mach) : Prop :=
  t.now = s.now ∧ t.rnd = s.rnd ∧ t.sec.cur = s.sec.cur ∧ t.sec.switch = s.sec.switch

namespace SectionsKept

theorem refl (s : Mach) : SectionsKept s s := ⟨rfl, rfl, rfl, rfl⟩

theorem trans {s t u : Mach} (h : SectionsKept s t) (h' : SectionsKept t u) : SectionsKept s u :=
  ⟨h'.1.trans h.1, h'.2.1.trans h.2.1, h'.2.2.1.trans h.2.2.1, h'.2.2.2.trans h.2.2.2⟩

theorem of_signals {s t : Mach} (h : Signals s t) : SectionsKept s t := by
  obtain ⟨_, _, _, rfl⟩ := h
  exact refl s

theorem of_logged {s t : Mach} (h : Logged s t) : SectionsKept s t := by
  obtain ⟨_, _, _, _, rfl⟩ := h
  exact refl s

theorem foldl {α : Type} {f : Mach → α → Mach} (hf : ∀ s a, SectionsKept s (f s a)) (l : List α) :
    ∀ s, SectionsKept s (l.foldl f s) := by
  induction l with
  | nil => exact refl
  | cons a l ih => exact fun s => (hf s a).trans (ih _)

theorem iter {f : Nat → Mach → Mach} (hf : ∀ i s, SectionsKept s (f i s)) (n : Nat) (s : Mach) : SectionsKept s (iter n f s) :=
  foldl (fun s i => hf i s) _ s

end SectionsKept

theorem slotEvent_kept (kind : Nat) (slot : Bool) (step : Word) (id : BitVec 16) (serial : BitVec 64) (s : Mach) :
    SectionsKept s (slotEvent kind slot step id serial s) := .of_logged (logModule_logged _ _ _ s)

theorem endSwitch_ends (s : Mach) : (endSwitch s).now = s.now ∧ (endSwitch s).rnd = s.rnd ∧ (endSwitch s).sec.switch = none := by
  unfold endSwitch
  split
  · next c n h =>
    have hs := complete_signals c.owed 0x10 c.round.toNat (modSec (fun x => { x with switch := none }) s)
    rw [hs.now, hs.rnd, hs.sec]
    exact ⟨rfl, rfl, rfl⟩
  · next h => exact ⟨rfl, rfl, h⟩

theorem modDie_kept (d : Nat) (f : Die → Die) (s : Mach) : SectionsKept s (modDie d f s) := ⟨rfl, rfl, rfl, rfl⟩

theorem noFlights_kept (s : Mach) : SectionsKept s (noFlights s) := ⟨rfl, rfl, rfl, rfl⟩

theorem setSecCur_kept (v idx : Word) (s : Mach) : SectionsKept s (setSecCur v idx s) := by
  have hcount : ∀ n, SectionsKept s (Machine.iter n (fun d s => modDie d (fun x => { x with sec := { x.sec with cur := v, idx := idx } }) s) s) :=
    fun n => .iter (fun d u => modDie_kept d _ u) n s
  exact hcount 144

theorem endSection_ends (s : Mach) : (endSection s).now = s.now ∧ (endSection s).rnd = s.rnd ∧ (endSection s).sec.cur = none ∧
    (endSection s).sec.switch = s.sec.switch :=
  (setSecCur_kept 0 0 (modSec (fun x => { x with cur := none, plan := 0 }) s)).trans (noFlights_kept _)

/-- What the end of a session may change. -/
def SessionWork (s t : Mach) : Prop :=
  ∃ n h o l k p, t = { s with notes := n, host := h, out := o, led := l, keep := k, pwr := p }

namespace SessionWork

theorem refl (s : Mach) : SessionWork s s := ⟨s.notes, s.host, s.out, s.led, s.keep, s.pwr, rfl⟩

theorem trans {s t u : Mach} (h : SessionWork s t) (h' : SessionWork t u) : SessionWork s u := by
  obtain ⟨_, _, _, _, _, _, rfl⟩ := h
  obtain ⟨_, _, _, _, _, _, rfl⟩ := h'
  exact ⟨_, _, _, _, _, _, rfl⟩

theorem of_signals {s t : Mach} (h : Signals s t) : SessionWork s t := by
  obtain ⟨_, _, _, rfl⟩ := h
  exact ⟨_, _, _, s.led, s.keep, s.pwr, rfl⟩

theorem of_logged {s t : Mach} (h : Logged s t) : SessionWork s t := by
  obtain ⟨_, _, _, _, rfl⟩ := h
  exact ⟨_, _, _, _, s.keep, s.pwr, rfl⟩

theorem of_keepEnded {s t : Mach} (h : KeepEnded s t) : SessionWork s t := by
  obtain ⟨_, _, _, _, _, rfl⟩ := h
  exact ⟨_, _, _, _, _, s.pwr, rfl⟩

theorem modKeep (f : Keep → Keep) (s : Mach) : SessionWork s (modKeep f s) := ⟨s.notes, s.host, s.out, s.led, f s.keep, s.pwr, rfl⟩

theorem sections {s t : Mach} (h : SessionWork s t) : SectionsKept s t := by
  obtain ⟨_, _, _, _, _, _, rfl⟩ := h
  exact .refl s

end SessionWork

theorem uncorrected_work (cls : Nat) (s : Mach) : SessionWork s (uncorrected cls s) :=
  (SessionWork.modKeep (faultKept s cls) s).trans (.of_signals (uncorrected_signals cls s))

theorem sealRecord_work (st : Nat) (step : Word) (s : Mach) : SessionWork s (sealRecord st step s) := by
  unfold sealRecord
  dsimp only
  split
  · exact .trans (.of_logged (logModule_logged _ _ _ s)) (uncorrected_work 0x51 _)
  · exact .of_logged (logModule_logged _ _ _ s)

theorem endSeal_work (st : Nat) (s : Mach) : SessionWork s (endSeal st s) := by
  unfold endSeal
  split
  · exact .refl s
  · next x _ =>
    dsimp only
    generalize (if x.header.isEmpty then s.keep.sealStep else BitVec.ofNat 32 (numAt x.header 4 4)) = step
    exact (SessionWork.modKeep _ s).trans ((sealRecord_work st step _).trans
      (.of_signals ((complete_signals _ _ _ _).trans (raiseIrq_signals 8 _))))

theorem dropSlotWrites_work (s : Mach) : SessionWork s (dropSlotWrites s) := by
  obtain ⟨p, hp⟩ := (dropSlotWrites_frame s).1
  rw [hp]
  exact ⟨s.notes, s.host, s.out, _, s.keep, p, rfl⟩

theorem endSessions_work (s : Mach) : SessionWork s (endSessions s) :=
  .trans (.trans ((endSeal_work 8 s).trans (dropSlotWrites_work _)) ((SessionWork.modKeep _ _).trans
    (.of_keepEnded (endRestore_keeps 8 _).1))) (.of_keepEnded (endServe_ends 8 _).1)

theorem endSecCmds_kept (loadOnly : Bool) (s : Mach) : SectionsKept s (endSecCmds loadOnly s) := by
  unfold endSecCmds
  exact .trans ⟨rfl, rfl, rfl, rfl⟩ (.foldl (fun s _ => .of_signals (complete_signals _ _ _ s)) _ _)

theorem dropLists_kept (s : Mach) : SectionsKept s (dropLists s) := by
  obtain ⟨_, _, h⟩ := dropLists_listsEnded s
  rw [h]
  exact .refl s

theorem revokeAbove_kept (b : Bool) (step : Nat) (s : Mach) : SectionsKept s (revokeAbove b step s) := by
  unfold revokeAbove revokeSlot
  split
  · dsimp only
    split
    · exact .trans ⟨rfl, rfl, rfl, rfl⟩ (slotEvent_kept _ _ _ _ _ _)
    · exact .refl s
  · exact .refl s

/-- Every program of these cores that runs ends. -/
def endPrograms (ks : List Nat) (s : Mach) : Mach :=
  ks.foldl (fun s k => if Machine.running (coreAt s k) then endProgram false k s else s) s

theorem endPrograms_kept (ks : List Nat) (s : Mach) : SectionsKept s (endPrograms ks s) := by
  refine .foldl (fun s k => ?_) _ s
  split
  · exact ⟨rfl, rfl, rfl, rfl⟩
  · exact .refl s

/-- The stream engines of every core stop. -/
def stopStreams (s : Mach) : Mach := allCores (fun _ c => stopEngine 2 (stopEngine 3 c)) s

theorem stopStreams_kept (s : Mach) : SectionsKept s (stopStreams s) := by
  obtain ⟨cs, hcores⟩ := allCores_frame (fun _ c => stopEngine 2 (stopEngine 3 c)) s
  rw [stopStreams, hcores]
  exact .refl s

/-- The sessions, the loads, the update lists and the remote accesses of the module end. -/
def endAccesses (s : Mach) : Mach := dropAccess (dropLists (endSecCmds true (endSessions s)))

theorem dropAccess_kept (s : Mach) : SectionsKept s (dropAccess s) := ⟨rfl, rfl, rfl, rfl⟩

theorem endAccesses_kept (s : Mach) : SectionsKept s (endAccesses s) :=
  ((endSessions_work s).sections.trans (endSecCmds_kept true _)).trans ((dropLists_kept _).trans (dropAccess_kept _))

/-- What was gathered of the rounds before is dropped. -/
def forgetRounds (s : Mach) : Mach := modRnd (fun r => { r with strag := [] }) (modTrn (fun t => { t with kept := [] }) s)

/-- The census is armed, as the record says. -/
def armedBy (h : List Byte) (k : Keep) : Keep :=
  { k with faulted := false, holdNext := false, armed := true, armBad := false, armGen := BitVec.ofNat 16 (numAt h 4 2),
           armMaster := BitVec.ofNat 16 (numAt h 8 2), armW := BitVec.ofNat 24 (numAt h 16 3) }

theorem armModule_eq (h : List Byte) (s : Mach) :
    armModule h s = modKeep (fun k => armedBy h k) (revokeAbove true (numAt h 20 4) (revokeAbove false (numAt h 20 4)
      (forgetRounds (endAccesses (stopStreams (endPrograms (s.cores.map (·.1)) (endSection (endSwitch s)))))))) := by
  simp only [armModule, endPrograms, stopStreams, endAccesses, forgetRounds, armedBy]

theorem armModule_arms (h : List Byte) (s : Mach) : (armModule h s).now = s.now ∧ (∃ k, (armModule h s).keep = armedBy h k) ∧
    (armModule h s).sec.cur = none ∧ (armModule h s).sec.switch = none ∧ (armModule h s).rnd.strag = [] ∧
    (armModule h s).rnd.hold = s.rnd.hold := by
  rw [armModule_eq]
  obtain ⟨wnow, wrnd, wswitch⟩ := endSwitch_ends s
  obtain ⟨snow, srnd, scur, sswitch⟩ := endSection_ends (endSwitch s)
  obtain ⟨tnow, trnd, tcur, tswitch⟩ := (endPrograms_kept (s.cores.map (·.1)) (endSection (endSwitch s))).trans
    ((stopStreams_kept _).trans (endAccesses_kept _))
  generalize endAccesses (stopStreams (endPrograms (s.cores.map (·.1)) (endSection (endSwitch s)))) = u at tnow trnd tcur tswitch
  obtain ⟨know, krnd, kcur, kswitch⟩ := (revokeAbove_kept false (numAt h 20 4) (forgetRounds u)).trans
    (revokeAbove_kept true (numAt h 20 4) _)
  generalize revokeAbove true (numAt h 20 4) (revokeAbove false (numAt h 20 4) (forgetRounds u)) = v at know krnd kcur kswitch
  exact ⟨know.trans (tnow.trans (snow.trans wnow)), ⟨v.keep, rfl⟩, kcur.trans (tcur.trans scur),
    kswitch.trans (tswitch.trans (sswitch.trans wswitch)), congrArg Rnd.strag krnd,
    (congrArg Rnd.hold krnd).trans (Eq.trans (b := u.rnd.hold) rfl (congrArg Rnd.hold (trnd.trans (srnd.trans wrnd))))⟩

theorem GoodRange.part {s : Mach} {ea n ea' n' : Nat} (h : GoodRange s ea n) (hlo : ea ≤ ea') (hhi : ea' + n' ≤ ea + n) :
    GoodRange s ea' n' :=
  fun cw hcw hend => h cw (by omega) (by omega)

theorem inKeep_part {ea m n : Nat} (h : m ≤ n) (hout : inKeep ea n = false) : inKeep ea m = false := by
  simp only [inKeep, decide_eq_false_iff_not] at *
  omega

/-- What the arm reads: the header of the census and its entries. -/
theorem restartArm_arms {s : State} {q : Nat} {d : Desc} {c : RunCmd} {ea : Nat} {h es : List Byte} (hea : ea = cB d 16 8)
    (hh : h = rdBytes s.m.edge.mem ea 64) (hes : es = rdBytes s.m.edge.mem (ea + 64) (4 * min 16384 (numAt h 10 2)))
    (hstarts : Starts s.m q d c 0x49 [(16, 8)]) (htop : ea < 2 ^ 41)
    (hkeep : (s.m.edge.keepEn && inKeep ea (64 + 4 * min 16384 (numAt h 10 2))) = false)
    (hgood : GoodRange s.m ea (64 + 4 * min 16384 (numAt h 10 2))) (hout : stackOut s.m (stackOf ea) = false)
    (hok : censusOk s.m h es = true) :
    restartArm q d s.m = complete (owedTo q c) 0x00 0 (armModule h (started q c s.m)) := by
  subst hea
  refine (startCmd_starts hstarts _).trans ?_
  have hkeep64 : ((started q c s.m).edge.keepEn && inKeep (cB d 16 8) 64) = false := by
    rcases Bool.and_eq_false_iff.1 hkeep with h | h
    · exact Bool.and_eq_false_iff.2 (.inl h)
    · exact Bool.and_eq_false_iff.2 (.inr (inKeep_part (by omega) h))
  have hkeep' : ((started q c s.m).edge.keepEn && inKeep (cB d 16 8) (64 + 4 * min 16384 (numAt h 10 2))) = false := hkeep
  have hhead : GoodRange (started q c s.m) (cB d 16 8) 64 := hgood.part (Nat.le_refl _) (by omega)
  have hbody : GoodRange (started q c s.m) (cB d 16 8 + 64) (4 * min 16384 (numAt h 10 2)) := hgood.part (by omega) (by omega)
  have hhead' : rdBytes (started q c s.m).edge.mem (cB d 16 8) 64 = h := hh.symm
  have hbody' : rdBytes (started q c s.m).edge.mem (cB d 16 8 + 64) (4 * min 16384 (numAt h 10 2)) = es := hes.symm
  have hout' : stackOut (started q c s.m) (stackOf (cB d 16 8)) = false := hout
  have hok' : censusOk (started q c s.m) h es = true := hok
  dsimp only
  rw [if_neg (Nat.not_le.2 htop)]
  rw [hkeep64, if_neg Bool.false_ne_true]
  rw [readEdge_good hhead, hhead']
  rw [(clean_bytes h).2, hkeep',
    if_neg Bool.false_ne_true]
  rw [readEdge_good hbody, hbody', (clean_bytes h).1, (clean_bytes es).1, (clean_bytes es).2, hout',
    Bool.or_self, Bool.or_self, if_neg Bool.false_ne_true, hok', Bool.not_true, if_neg Bool.false_ne_true, owedTo]

theorem restartHold_held {s : State} {q : Nat} {d : Desc} {c : RunCmd} (h : Starts s.m q d c 0x48 [])
    (hmaster : s.m.rnd.master = true) (hen : s.m.rnd.en = true) (hhold : s.m.rnd.hold = true) :
    run (restartHold q d) s = .next (after (ended q c 0x00 s.m.rnd.heldAt) s) := by
  refine run_startCmd h ?_
  have hmaster' : (started q c s.m).rnd.master = true := hmaster
  have hen' : (started q c s.m).rnd.en = true := hen
  have hhold' : (started q c s.m).rnd.hold = true := hhold
  simp only [hmaster', hen', hhold', Bool.not_true, Bool.or_self, Bool.false_eq_true, if_false, if_true]
  rfl

/-- The armed master goes on. -/
theorem resume_goesOn {s : State} {q : Nat} {d : Desc} {c : RunCmd} (h : Starts s.m q d c 0x4A [])
    (hmaster : s.m.rnd.master = true) (hen : s.m.rnd.en = true) (hhold : s.m.rnd.hold = true) (harmed : s.m.keep.armed = true) :
    run (resumeCmd q d) s = .next (after (awaits q c (fun m => { m with
        keep := { m.keep with armed := false, resumeCmds := m.keep.resumeCmds ++ [owedTo q c] }
        rnd := { m.rnd with hold := false, conflict := false, gathered := 0, nextEmit := some (firstMark (resumeRound m.rnd)) } })) s) := by
  refine run_startCmd h ?_
  have hmaster' : (started q c s.m).rnd.master = true := hmaster
  have hen' : (started q c s.m).rnd.en = true := hen
  have hhold' : (started q c s.m).rnd.hold = true := hhold
  have harmed' : (started q c s.m).keep.armed = true := harmed
  simp only [hmaster', hen', hhold', harmed', Bool.not_true, Bool.or_self, Bool.false_eq_true, if_false]
  rfl

/-- Settles O45: each command that starts completes with its change made, and the checks of its start come first. -/
theorem commandsActAtOnceOutsideRounds : Obligations.CommandsActAtOnceOutsideRounds := by
  intro s q d c
  refine ⟨fun h => nop_ends h, fun hfind hopc hbad => nop_refused hfind hopc (.inl ⟨Bool.and_eq_false_iff.2 hbad, rfl⟩),
    fun hfind hopc hhead hbody hready => nop_refused hfind hopc (.inr ⟨by rw [hhead, hbody]; rfl, hready, rfl⟩), ?_, ?_, ?_, ?_,
    fun h hnow hact => partnerId_atOnce h hnow (by rw [hact]; rfl) (.inl ⟨hact, rfl⟩),
    fun h hnow hact => partnerId_atOnce h hnow (by rw [hact]; rfl) (.inr ⟨hact, rfl⟩),
    fun h hmaster hen hhold => restartHold_held h hmaster hen hhold, ?_,
    fun h hmaster hen hhold harmed => resume_goesOn h hmaster hen hhold harmed⟩
  · intro h hi hvalid hok hnow
    obtain ⟨t, hrun, hended, htm⟩ := run_completes (windowOpen_atOnce h hi hvalid hok hnow) rfl rfl
    exact ⟨t, hrun, hended, by rw [htm, complete_rmt]; rfl⟩
  · intro h hi hnow
    obtain ⟨t, hrun, hended, htm⟩ := run_completes (windowClose_atOnce h hi hnow) rfl rfl
    have hwin : t.m.rmt.win = tset 0 s.m.rmt.win (cB d 8 2) 0 := by
      rw [htm, complete_rmt]
      rfl
    exact ⟨t, hrun, hended, by rw [hwin, tget_tset_same], fun i hne => by rw [hwin, tget_tset_other _ _ _ hne]⟩
  · intro i h hnow hact hport hdark hself hnone hfree
    obtain ⟨since, rfl, hf⟩ := partnerAdd_atOnce h hnow hact hport hdark hself hnone hfree
    obtain ⟨t, hrun, hended, htm⟩ := run_completes hf (changePtn_now _ _ _) (changePtn_rings _ _ _)
    refine ⟨t, hrun, hended, ?_⟩
    obtain ⟨x, hx⟩ := tget_changePtn i (forwardedEntry d s.m.rmt.order) (modRmt (fun r => { r with order := r.order + 1 }) (started q.val c s.m))
    rw [htm, complete_rmt, hx]
    rfl
  · intro i e h hnow hact hself hfind
    have hf := partnerRemove_atOnce h hnow hact hself hfind
    obtain ⟨hclearNow, hclearRings⟩ := clearStrag_kept e (started q.val c s.m)
    obtain ⟨hreset, hrings⟩ := putPtn_reset i (clearStrag e (started q.val c s.m))
    obtain ⟨t, hrun, hended, htm⟩ := run_completes hf ((rmtEvt_settled 0 _).port.1.trans ((putPtn_now _ _ _).trans hclearNow))
      ((rmtEvt_rings 0 _).trans (hrings.trans hclearRings))
    exact ⟨t, hrun, hended, by rw [htm, complete_rmt, rmtEvt_ptn, hreset]⟩
  · intro ea h es hea hh hes hstarts htop hkeep hgood hout hok
    obtain ⟨hnow, ⟨k, hk⟩, hcur, hswitch, hstrag, hhold⟩ := armModule_arms h (started q.val c s.m)
    have hf := restartArm_arms hea hh hes hstarts htop hkeep hgood hout hok
    have hsig := complete_signals (owedTo q.val c) 0x00 0 (armModule h (started q.val c s.m))
    obtain ⟨hrun, hpending, hm⟩ := runs_to (s := s) (f := restartArm q.val d) (by rw [hf, complete_now, hnow]; rfl)
    refine ⟨_, hrun, hpending, ?_⟩
    rw [hm, hf, hsig.keep, hsig.sec, hsig.rnd, hk]
    exact ⟨rfl, rfl, rfl, rfl, rfl, hcur, hswitch, rfl, hstrag, hhold⟩

end Sys2Proof.Spec
end

section
/-! PROOFS. HOST_COPY and LEDGER_READ (R536, R563, R573). -/

namespace Sys2Proof.Spec

open Sys2Proof.Machine

/-- A command whose row is told by a field of its body. -/
theorem startCmd_row {s : Mach} {q : Nat} {d : Desc} {c : RunCmd} {opc : Nat} {named : List (Nat × Nat)} {mine : Bool}
    (h : Starts s q d c opc named) (hmine : mine = true) (go : Owed → Mach → Mach) :
    startCmd q d (cB d 0 1 == opc && mine) named go s = go (owedTo q c) (started q c s) := by
  rw [hmine, Bool.and_true]
  exact startCmd_starts h go

/-! ### HOST_COPY (R563) -/

theorem copyOk_bounds {s : Mach} {d : Desc} (h : copyOk s d = true) :
    cB d 24 8 % 32 = 0 ∧ cB d 32 4 % 32 = 0 ∧ 1 ≤ cB d 32 4 := by
  simp only [copyOk, Bool.and_eq_true, beq_iff_eq, decide_eq_true_eq] at h
  exact ⟨h.1.1.1.1.2, h.1.1.1.2, h.1.1.2⟩

/-- A field of four bytes. -/
theorem cB_four_lt (d : Desc) (off : Nat) : cB d off 4 < 2 ^ 32 := BitVec.isLt _

theorem firstOut_served {s : Mach} {ea n : Nat} (h : ServedRange s ea n) : firstOut s ea n = none := by
  unfold firstOut
  rw [h _ (.inl rfl), h _ (.inr rfl)]
  simp

/-- A range of less than a stack lies in the stacks of its ends. -/
theorem stackOf_within {ea n a : Nat} (hn : n < 2 ^ 32) (hlo : ea ≤ a) (hhi : a < ea + n) :
    stackOf a = stackOf ea ∨ stackOf a = stackOf (ea + n - 1) := by
  unfold stackOf
  omega

theorem writeEdge_stored_span {ea : Nat} {bs : List Byte} {s : Mach} (hea : ea % 32 = 0) (hlen : bs.length % 32 = 0)
    (hmax : bs.length < 2 ^ 32) (hret : ∀ st, st = stackOf ea ∨ st = stackOf (ea + bs.length - 1) → (stkAt s st).retQ = 0x3F) :
    WordsStored s (writeEdge ea bs s) ea bs := by
  have h := writeCws_stored (bs.length / 32) (ea / 32) bs s (by omega) (fun i hi =>
    hret _ (stackOf_within hmax (by omega) (by omega)))
  rwa [show 32 * (ea / 32) = ea by omega, show 32 * (bs.length / 32) = bs.length by omega, List.take_length] at h

theorem useSpan_frame (cls ea n : Nat) (s : Mach) : ∃ ks, useSpan cls ea n s = { s with stk := ks } := by
  unfold useSpan
  dsimp only
  obtain ⟨ks, h⟩ := useUnits_frame cls ea (min n (2 ^ 36 - ea % 2 ^ 36)) s
  rw [h]
  exact useUnits_frame _ _ _ _

theorem copyToEdge_stores {s : State} {q : Nat} {d : Desc} {c : RunCmd} {bs : List Byte}
    (h : Starts s.m q d c 0x50 [(8, 1), (16, 20)]) (hdir : cB d 8 1 = 0) (hok : copyOk s.m d = true) (hlen : bs.length = cB d 32 4)
    (hserved : ServedRange s.m (cB d 24 8) bs.length)
    (hquiet : ∀ st, st = stackOf (cB d 24 8) ∨ st = stackOf (cB d 24 8 + bs.length - 1) → Undisturbed s.m st) :
    ∃ t, runIf (hostData (descNum d 32 4) (some bs)) (copyToEdge q d (some bs)) s = .next t ∧ EndedWith q c 0x00 0 s t ∧
      t.m.edge.mem = wrBytes s.m.edge.mem (cB d 24 8) bs := by
  have hdata : hostData (descNum d 32 4) (some bs) = true := beq_iff_eq.2 hlen
  obtain ⟨hea, hn, -⟩ := copyOk_bounds hok
  obtain ⟨⟨e, tr, ks, hw, hmem, -⟩, -⟩ := writeEdge_stored_span (s := started q c s.m) hea (by rw [hlen]; exact hn)
    (by rw [hlen]; exact cB_four_lt d 32) (fun st hst => (hquiet st hst).1)
  have hok' : copyOk (started q c s.m) d = true := hok
  have hout : firstOut (started q c s.m) (cB d 24 8) (cB d 32 4) = none :=
    firstOut_served (s := started q c s.m) (by rw [← hlen]; exact hserved)
  have hf : copyToEdge q d (some bs) s.m = complete (owedTo q c) 0x00 0
      (useSpan 2 (cB d 24 8) bs.length (writeEdge (cB d 24 8) bs (started q c s.m))) := by
    refine (startCmd_row h (by rw [hdir]; rfl) _).trans ?_
    simp only [hok', hout, Bool.not_true, Bool.false_eq_true, if_false]
  obtain ⟨ks', hu⟩ := useSpan_frame 2 (cB d 24 8) bs.length (writeEdge (cB d 24 8) bs (started q c s.m))
  rw [hu, hw] at hf
  obtain ⟨t, hrun, hended, htm⟩ := run_completes hf rfl rfl
  refine ⟨t, ?_, hended, ?_⟩
  · rw [runIf, if_pos hdata]
    exact hrun
  · rw [htm, (complete_signals _ _ _ _).edge]
    exact hmem

theorem firstUe_clean (ea : Nat) (bs : List Byte) : firstUe ea (clean bs) = none := by
  have hnone : (clean bs).zipIdx.find? (fun e => e.1.2) = none := by
    rw [List.find?_eq_none]
    intro e he
    obtain ⟨x, hx, hxe⟩ := List.mem_map.1 (List.fst_mem_of_mem_zipIdx he)
    simp [← hxe]
  rw [firstUe, hnone]
  rfl

theorem copyToHost_sends {s : State} {q : Nat} {d : Desc} {c : RunCmd} (h : Starts s.m q d c 0x50 [(8, 1), (16, 20)])
    (hdir : cB d 8 1 = 1) (hok : copyOk s.m d = true) (hserved : ServedRange s.m (cB d 24 8) (cB d 32 4))
    (hgood : GoodRange s.m (cB d 24 8) (cB d 32 4)) :
    ∃ t, run (copyToHost q d true) s = .next t ∧ EndedWith q c 0x00 0 s t ∧ t.m.edge = s.m.edge ∧
      t.m.out = s.m.out ++ [.hostWrite (BitVec.ofNat 64 (cB d 16 8)) (rdBytes s.m.edge.mem (cB d 24 8) (cB d 32 4))] := by
  have hok' : copyOk (started q c s.m) d = true := hok
  have hgood' : GoodRange (started q c s.m) (cB d 24 8) (cB d 32 4) := hgood
  have hout : firstOut (started q c s.m) (cB d 24 8) (cB d 32 4) = none := firstOut_served (s := started q c s.m) hserved
  obtain ⟨ks, hu⟩ := useSpan_frame 2 (cB d 24 8) (cB d 32 4) (started q c s.m)
  have hf : copyToHost q d true s.m = complete (owedTo q c) 0x00 0
      (emit (.hostWrite (BitVec.ofNat 64 (cB d 16 8)) (rdBytes s.m.edge.mem (cB d 24 8) (cB d 32 4)))
        (useSpan 2 (cB d 24 8) (cB d 32 4) (started q c s.m))) := by
    refine (startCmd_row h (by rw [hdir]; rfl) _).trans ?_
    dsimp only
    rw [hok', hout, Bool.not_true, if_neg Bool.false_ne_true]
    dsimp only
    rw [readEdge_good hgood', firstUe_clean, (clean_bytes _).2]
    rfl
  rw [hu] at hf
  obtain ⟨t, hrun, hended, htm⟩ := run_completes hf rfl rfl
  obtain ⟨host, hhost⟩ := complete_only (owedTo q c) 0x00 0
    (emit (.hostWrite (BitVec.ofNat 64 (cB d 16 8)) (rdBytes s.m.edge.mem (cB d 24 8) (cB d 32 4))) { started q c s.m with stk := ks })
  rw [hhost] at htm
  exact ⟨t, hrun, hended, by rw [htm]; rfl, by rw [htm]; rfl⟩

theorem copyToHost_refused {s : State} {q : Nat} {d : Desc} {c : RunCmd} (h : Starts s.m q d c 0x50 [(8, 1), (16, 20)])
    (hdir : cB d 8 1 = 1) (hbad : copyOk s.m d = false) :
    run (copyToHost q d true) s = .next (after (ended q c 0x02 0) s) := by
  refine run_eq_after ((startCmd_row h (by rw [hdir]; rfl) _).trans ?_)
  have hbad' : copyOk (started q c s.m) d = false := hbad
  dsimp only
  rw [hbad']
  rfl

/-! ### LEDGER_READ (R536, R573) -/

/-- Records that fit are all copied. -/
theorem fitRecs_all (next : BitVec 64) : ∀ (l : List (BitVec 64 × List Byte)) (n : Nat), (l.flatMap (·.2)).length ≤ n →
    fitRecs next l n = (l.flatMap (·.2), l.length, next) := by
  intro l
  induction l with
  | nil => exact fun _ _ => rfl
  | cons x l ih =>
    intro n hn
    obtain ⟨k, bs⟩ := x
    simp only [List.flatMap_cons, List.length_append] at hn
    have hrest := ih (n - bs.length) (by omega)
    rw [fitRecs, if_neg (by omega), hrest]
    rfl

/-- A LEDGER_READ whose records all fit. -/
theorem ledgerRead_fits {s : State} {q : Nat} {d : Desc} {c : RunCmd} {mine : Bool} {ok : Nat → Bool} {form : Mach → LedRec → List Byte}
    {rs : List LedRec} (h : Starts s.m q d c 0x58 [(8, 1), (16, 20)]) (hmine : mine = true) (hok : ok (verOf s.m q c) = true)
    (haddr : cB d 24 8 % 64 = 0) (hrs : rs = recordsFrom s.m.led (cB d 16 8))
    (hlen : (rs.flatMap (form (started q c s.m))).length ≤ cB d 32 4) :
    ledgerRead q d mine ok form true s.m = complete (owedTo q c) 0x00 (rs.length % 65536 + 65536 * (s.m.led.nextSeq.toNat % 2 ^ 48))
      (if (rs.flatMap (form (started q c s.m))).isEmpty then started q c s.m
        else emit (.hostWrite (BitVec.ofNat 64 (cB d 24 8)) (rs.flatMap (form (started q c s.m)))) (started q c s.m)) := by
  have hver : cmdVer (started q c s.m) (owedTo q c) = verOf s.m q c := cmdVer_started s.m q c c.tok
  have hrs' : (validRecs (started q c s.m).led).filter (fun r => decide (cB d 16 8 ≤ r.seq.toNat)) = rs := hrs.symm
  have hflat : (rs.map (fun r => (r.seq, form (started q c s.m) r))).flatMap (·.2) = rs.flatMap (form (started q c s.m)) := by
    rw [List.flatMap_map]
  have hfit := fitRecs_all (started q c s.m).led.nextSeq (rs.map (fun r => (r.seq, form (started q c s.m) r))) (cB d 32 4)
    (by rw [hflat]; exact hlen)
  rw [hflat, List.length_map] at hfit
  refine (startCmd_row h hmine _).trans ?_
  dsimp only
  rw [hver, hok, haddr, hrs', hfit]
  rfl

/-- The first bytes of a record in either form. -/
theorem flatMap_ne_nil {α β : Type} {f : α → List β} {l : List α} (hl : l ≠ []) (hf : ∀ a, f a ≠ []) : l.flatMap f ≠ [] := by
  obtain ⟨a, l, rfl⟩ := List.exists_cons_of_ne_nil hl
  rw [List.flatMap_cons]
  exact fun h => hf a (List.append_eq_nil_iff.1 h).1

theorem recBytes_ne_nil (r : LedRec) : recBytes r ≠ [] := fun h => absurd (List.append_eq_nil_iff.1 h).1 (by decide)

theorem cper_ne_nil (serial : BitVec 64) (r : LedRec) : cper serial r ≠ [] := by
  unfold cper
  simp

/-- The records are written, and their number and the SEQ that follows are named. -/
theorem ledgerRead_writes {s : State} {q : Nat} {d : Desc} {c : RunCmd} {mine : Bool} {ok : Nat → Bool} {form : Mach → LedRec → List Byte}
    {rs : List LedRec} {bs : List Byte} (h : Starts s.m q d c 0x58 [(8, 1), (16, 20)]) (hmine : mine = true)
    (hok : ok (verOf s.m q c) = true) (haddr : cB d 24 8 % 64 = 0) (hrs : rs = recordsFrom s.m.led (cB d 16 8))
    (hbs : bs = rs.flatMap (form (started q c s.m))) (hne : rs ≠ []) (hform : ∀ r, form (started q c s.m) r ≠ [])
    (hlen : bs.length ≤ cB d 32 4) :
    run (ledgerRead q d mine ok form true) s = .next (after (fun m =>
        ended q c 0x00 (rs.length % 65536 + 65536 * (m.led.nextSeq.toNat % 2 ^ 48))
          { m with out := m.out ++ [.hostWrite (BitVec.ofNat 64 (cB d 24 8)) bs] }) s) := by
  subst hbs
  refine run_eq_after ((ledgerRead_fits h hmine hok haddr hrs hlen).trans ?_)
  rw [List.isEmpty_eq_false_iff.2 (flatMap_ne_nil hne hform), if_neg Bool.false_ne_true]
  rfl

/-- Settles O46: HOST_COPY moves the bytes of its range, and LEDGER_READ the records that fit. -/
theorem hostCopiesAndLedgerReads : Obligations.HostCopiesAndLedgerReads := by
  intro s q d c
  refine ⟨?_, fun h hdir hok hserved hgood => copyToHost_sends h hdir hok hserved hgood,
    fun h hdir hbad => copyToHost_refused h hdir hbad, ?_, ?_, ?_, ?_⟩
  · intro bs h hdir hok hlen hserved hquiet
    obtain ⟨t, hrun, hended, hmem⟩ := copyToEdge_stores h hdir hok hlen hserved hquiet
    refine ⟨t, hrun, hended, fun i hi => ?_, fun a ha => ?_⟩
    · rw [hmem, rd_wrBytes_inside _ _ _ _ hi, List.getD_eq_getElem _ _ hi]
    · rw [hmem, rd_wrBytes_outside _ _ _ _ ha]
  · intro rs bs hrs hbs h hform haddr hne hlen
    exact ledgerRead_writes h (by rw [hform]; rfl) (by rw [hform]; rfl) haddr hrs hbs hne recBytes_ne_nil hlen
  · intro h hform haddr hnone
    have hrs : ([] : List LedRec) = recordsFrom s.m.led (cB d 16 8) := hnone.symm
    refine run_eq_after ((ledgerRead_fits h (by rw [hform]; rfl) (by rw [hform]; rfl) haddr hrs (Nat.zero_le _)).trans ?_)
    simp only [List.flatMap_nil, List.isEmpty_nil, if_true, List.length_nil, Nat.zero_mod, Nat.zero_add]
    rfl
  · intro rs bs hrs hbs h hver hform haddr hne hlen
    exact ledgerRead_writes h (by rw [hform]; rfl) (by rw [hver]; rfl) haddr hrs hbs hne (fun r => cper_ne_nil _ r) hlen
  · intro h hver hform
    have hver' : cmdVer (started q.val c s.m) (owedTo q.val c) = verOf s.m q.val c := cmdVer_started s.m q.val c c.tok
    refine run_eq_after ((startCmd_row h (by rw [hform]; rfl) _).trans ?_)
    have hbad : (verOf s.m q.val c == 2) = false := beq_eq_false_iff_ne.2 hver
    refine if_pos ?_
    rw [hver']
    dsimp only
    rw [hbad]
    rfl

end Sys2Proof.Spec
end

section
/-! PROOFS. What a warp and a rim reset leave alone, and what they leave (R29 to R35, R572). -/

namespace Sys2Proof.Spec

open Sys2Proof.Machine

/-! ### Relations between states, folded over a list -/

section
variable {R : Mach → Mach → Prop} (hrefl : ∀ s, R s s) (htrans : ∀ {s t u}, R s t → R t u → R s u)
include hrefl htrans

theorem foldl_related {α : Type} {f : Mach → α → Mach} (hf : ∀ s a, R s (f s a)) (l : List α) : ∀ s, R s (l.foldl f s) := by
  induction l with
  | nil => exact hrefl
  | cons a l ih => exact fun s => htrans (hf s a) (ih (f s a))

theorem iter_related {f : Nat → Mach → Mach} (hf : ∀ i s, R s (f i s)) (n : Nat) (s : Mach) : R s (iter n f s) :=
  foldl_related hrefl htrans (fun s i => hf i s) _ s

end

/-- Time, what the module control block holds, the start block and edge memory are as they were. -/
def ResetKept (s t : Mach) : Prop :=
  t.now = s.now ∧ t.ctl = s.ctl ∧ t.start = s.start ∧ t.edge = s.edge ∧ t.ports = s.ports

namespace ResetKept

theorem refl (s : Mach) : ResetKept s s := ⟨rfl, rfl, rfl, rfl, rfl⟩

theorem trans {s t u : Mach} (h : ResetKept s t) (h' : ResetKept t u) : ResetKept s u := by
  obtain ⟨n, c, st, e, p⟩ := h
  obtain ⟨n', c', st', e', p'⟩ := h'
  exact ⟨n'.trans n, c'.trans c, st'.trans st, e'.trans e, p'.trans p⟩

theorem of_signals {s t : Mach} (h : Signals s t) : ResetKept s t := by
  obtain ⟨_, _, _, rfl⟩ := h
  exact refl s

theorem of_logged {s t : Mach} (h : Logged s t) : ResetKept s t := by
  obtain ⟨_, _, _, _, rfl⟩ := h
  exact refl s

theorem of_keepEnded {s t : Mach} (h : KeepEnded s t) : ResetKept s t := by
  obtain ⟨_, _, _, _, _, rfl⟩ := h
  exact refl s

theorem foldl {α : Type} {f : Mach → α → Mach} (hf : ∀ s a, ResetKept s (f s a)) (l : List α) (s : Mach) : ResetKept s (l.foldl f s) :=
  foldl_related refl trans hf l s

theorem iter {f : Nat → Mach → Mach} (hf : ∀ i s, ResetKept s (f i s)) (n : Nat) (s : Mach) : ResetKept s (iter n f s) :=
  iter_related refl trans hf n s

end ResetKept

/-! ### The parts of a warp reset -/

theorem logVmin_kept (s : Mach) : ResetKept s (logVmin s) :=
  .trans (.foldl (fun s _ => .foldl (fun s _ => .of_logged (logAt_logged _ _ _ _ _ _ _ s)) _ s) _ s)
    (.foldl (fun s _ => .of_logged (logModule_logged _ _ _ s)) _ _)

theorem modDie_resetKept (d : Nat) (f : Die → Die) (s : Mach) : ResetKept s (modDie d f s) := ⟨rfl, rfl, rfl, rfl, rfl⟩

theorem modStk_resetKept (i : Nat) (f : Stack → Stack) (s : Mach) : ResetKept s (modStk i f s) := ⟨rfl, rfl, rfl, rfl, rfl⟩

theorem setSecCur_resetKept (v idx : Word) (s : Mach) : ResetKept s (setSecCur v idx s) := by
  have hcount : ∀ n, ResetKept s (Machine.iter n (fun d s => modDie d (fun x => { x with sec := { x.sec with cur := v, idx := idx } }) s) s) :=
    fun n => .iter (fun d u => modDie_resetKept d _ u) n s
  exact hcount 144

theorem noFlights_resetKept (s : Mach) : ResetKept s (noFlights s) := ⟨rfl, rfl, rfl, rfl, rfl⟩

theorem modSec_resetKept (f : Sections → Sections) (s : Mach) : ResetKept s (modSec f s) := ⟨rfl, rfl, rfl, rfl, rfl⟩

theorem endSection_resetKept (s : Mach) : ResetKept s (endSection s) :=
  (modSec_resetKept _ s).trans ((setSecCur_resetKept 0 0 _).trans (noFlights_resetKept _))

theorem endSwitch_resetKept (s : Mach) : ResetKept s (endSwitch s) := by
  unfold endSwitch
  split
  · exact (modSec_resetKept _ s).trans (.of_signals (complete_signals _ _ _ _))
  · exact .refl s

theorem endSwitch_cur (s : Mach) : (endSwitch s).sec.cur = s.sec.cur := by
  unfold endSwitch
  split
  · next c n h =>
    rw [(complete_signals c.owed 0x10 c.round.toNat (modSec (fun x => { x with switch := none }) s)).sec]
    rfl
  · rfl

theorem endSecCmds_resetKept (loadOnly : Bool) (s : Mach) : ResetKept s (endSecCmds loadOnly s) := by
  unfold endSecCmds
  exact .trans (modSec_resetKept _ s) (.foldl (fun s _ => .of_signals (complete_signals _ _ _ s)) _ _)

theorem endWaiting_signals (mine : Desc → Bool) (s : Mach) : Signals s (endWaiting mine s) :=
  iter_related .refl .trans (fun _ s => foldl_signals (fun s _ => complete_signals _ _ _ s) _ s) 16 s

theorem completeOpt_signals (o : Option Owed) (st det : Nat) (s : Mach) : Signals s (completeOpt o st det s) := by
  cases o with
  | none => exact .refl s
  | some o => exact complete_signals o st det s

/-- The activities that use what is reset end, with their records. -/
theorem endActivities_logged (hit : Nat → Bool) (s : Mach) :
    Logged (modMnt (fun m => { m with acts := (m.acts.partition (fun a => a.tokens.any hit)).2 }) s) (endActivities hit s) :=
  foldl_logged (fun s (a : Activity) => (completeOpt_signals a.owed 0x10 0 s).logged.trans (logModule_logged _ _ _ _)) _ _

theorem endActivities_kept (hit : Nat → Bool) (s : Mach) : ResetKept s (endActivities hit s) ∧ (endActivities hit s).sec = s.sec := by
  obtain ⟨n, h, o, l, e⟩ := endActivities_logged hit s
  rw [e]
  exact ⟨⟨rfl, rfl, rfl, rfl, rfl⟩, rfl⟩

/-- The sections and their commands end. -/
def sectionsStopped (s : Mach) : Mach := endWaiting isSection (endSecCmds false (endSwitch (endSection s)))

theorem sectionsStopped_kept (s : Mach) : ResetKept s (sectionsStopped s) ∧ (sectionsStopped s).sec.cur = none := by
  have hsignals := endWaiting_signals isSection (endSecCmds false (endSwitch (endSection s)))
  refine ⟨.trans (.trans (endSection_resetKept s) ((endSwitch_resetKept _).trans (endSecCmds_resetKept false _))) (.of_signals hsignals), ?_⟩
  calc (sectionsStopped s).sec.cur
      = (endSecCmds false (endSwitch (endSection s))).sec.cur := congrArg Sections.cur hsignals.sec
    _ = (endSwitch (endSection s)).sec.cur := (endSecCmds_kept false _).2.2.1
    _ = (endSection s).sec.cur := endSwitch_cur _
    _ = none := (endSection_ends s).2.2.1

/-- The sections, their commands and the activities end. -/
def warpStopped (s : Mach) : Mach := endActivities (fun t => decide (t < 144)) (sectionsStopped s)

theorem warpStopped_kept (s : Mach) : ResetKept s (warpStopped s) ∧ (warpStopped s).sec.cur = none := by
  obtain ⟨hkept, hnone⟩ := sectionsStopped_kept s
  obtain ⟨hacts, hsec⟩ := endActivities_kept (fun t => decide (t < 144)) (sectionsStopped s)
  rw [warpStopped]
  exact ⟨hkept.trans hacts, by rw [hsec, hnone]⟩

theorem dropCoreSide_frame (s : Mach) : ∃ r k, dropCoreSide s = { s with rmt := r, stk := k } := by
  have hstk : ∃ k, iter 32 (fun i s => modStk i (fun k => { k with
      answers := [], rejects := [], replies := [], squares := [], writes := [], work := k.work.filter (fun w => w.key.isNone) }) s) s =
      { s with stk := k } :=
    iter_related (R := fun s t => ∃ k, t = { s with stk := k }) (fun s => ⟨s.stk, rfl⟩)
      (by rintro _ _ _ ⟨_, rfl⟩ ⟨_, rfl⟩; exact ⟨_, rfl⟩) (fun _ s => ⟨_, rfl⟩) 32 s
  obtain ⟨k, e⟩ := hstk
  exact ⟨_, k, congrArg (modRmt (fun r => { r with reads := [] })) e⟩

/-- The dies, the stacks' queues of the cores, the section store and the twins' stop are cold. -/
def coldRest (s : Mach) : Mach :=
  modLs (fun l => { l with stopped := false }) (modSec (fun x => { x with budget := false })
    (dropCoreSide (iter 144 (fun d s => modDie d coldDie s) s)))

theorem coldRest_kept (s : Mach) : ResetKept s (coldRest s) ∧ (coldRest s).sec.cur = s.sec.cur ∧ (coldRest s).cores = s.cores := by
  obtain ⟨ds, hdies⟩ := iter_modDie_frame (fun _ => coldDie) s 144
  unfold coldRest
  rw [hdies]
  obtain ⟨r, k, hside⟩ := dropCoreSide_frame { s with dies := ds }
  rw [hside]
  exact ⟨⟨rfl, rfl, rfl, rfl, rfl⟩, rfl, rfl⟩

theorem coldWarp_eq (s : Mach) : coldWarp s = coldRest (coldCores (warpStopped s)) := by
  simp only [coldWarp, coldRest, warpStopped, sectionsStopped]

theorem tget_coldCores (k : Nat) : ∀ t : Tbl Core,
    ∃ c, tget Core.reset (t.filterMap (fun e => if coldCore e.2 = Core.reset then none else some (e.1, coldCore e.2))) k = coldCore c := by
  intro t
  induction t with
  | nil => exact ⟨Core.reset, rfl⟩
  | cons e t ih =>
    rw [List.filterMap_cons]
    by_cases hreset : coldCore e.2 = Core.reset
    · rw [if_pos hreset]
      exact ih
    · rw [if_neg hreset]
      by_cases hk : e.1 = k
      · exact ⟨e.2, if_pos hk⟩
      · obtain ⟨c, hc⟩ := ih
        exact ⟨c, (if_neg hk).trans hc⟩

/-- A core in a warp reset is in reset, but for the verdict on it. -/
theorem coreAt_coldCores (s : Mach) (k : Nat) : coreAt (coldCores s) k =
    { Core.reset with suspect := (coreAt (coldCores s) k).suspect, retired := (coreAt (coldCores s) k).retired } := by
  obtain ⟨c, hc⟩ := tget_coldCores k s.cores
  have hcold : coreAt (coldCores s) k = coldCore c := hc
  rw [hcold]
  rfl

theorem coldCores_kept (s : Mach) : ResetKept s (coldCores s) ∧ (coldCores s).sec = s.sec := ⟨⟨rfl, rfl, rfl, rfl, rfl⟩, rfl⟩

theorem coldWarp_kept (s : Mach) : ResetKept s (coldWarp s) ∧ (coldWarp s).sec.cur = none ∧
    ∀ k, coreAt (coldWarp s) k = { Core.reset with suspect := (coreAt (coldWarp s) k).suspect, retired := (coreAt (coldWarp s) k).retired } := by
  rw [coldWarp_eq]
  obtain ⟨hstop, hnone⟩ := warpStopped_kept s
  obtain ⟨hcold, hsec⟩ := coldCores_kept (warpStopped s)
  obtain ⟨hrest, hcur, hcores⟩ := coldRest_kept (coldCores (warpStopped s))
  refine ⟨hstop.trans (hcold.trans hrest), by rw [hcur, hsec, hnone], fun k => ?_⟩
  rw [coreAt_of_cores hcores]
  exact coreAt_coldCores _ k

/-! ### A request begins its reset (R33 to R35) -/

theorem resetRuns_inService {s : Mach} (h : s.start.state = 7) (hpend : s.ctl.modulePending = false) :
    resetRuns s = min 2 s.ctl.scope.toNat := by
  rw [resetRuns, if_neg]
  rw [hpend]
  rintro (hbad | hbad)
  · exact Bool.false_ne_true hbad
  · exact hbad h

/-- What a request leaves before its reset begins: its record, and the command that awaits the end. -/
def requested (scope : Nat) (cause : BitVec 4) (owed : Option Owed) (s : Mach) : Mach :=
  resetEvent scope cause (absorbs scope s) (roundNow s) (modCtl (fun c => { c with owed := c.owed ++ owed.toList }) s)

theorem requested_frame (scope : Nat) (cause : BitVec 4) (owed : Option Owed) (s : Mach) : ∃ l, requested scope cause owed s =
    { s with ctl := { s.ctl with owed := s.ctl.owed ++ owed.toList }, led := l } := ⟨_, rfl⟩

theorem requestReset_begins {scope : Nat} {cause : BitVec 4} {owed : Option Owed} {s : Mach} (hstate : s.start.state ≠ 0)
    (hnew : absorbs scope s = false) : requestReset scope cause owed s =
      if scope = 1 then warpBegin cause (requested scope cause owed s)
      else if scope = 2 then rimBegin cause (requested scope cause owed s)
      else owedSummary (moduleAccept cause (requested scope cause owed s)) := by
  unfold requestReset requested
  rw [if_neg hstate, hnew]
  rfl

/-- A warp reset runs from now on, with its cause. -/
def warpRuns (cause : BitVec 4) (c : Control) : Control := { c with scope := 1, lastScope := 1, lastCause := cause }

/-- A core is in reset, but for the verdict on it. -/
def CoreCold (c : Core) : Prop := c = { Core.reset with suspect := c.suspect, retired := c.retired }

/-- What the start of a warp reset leaves. -/
def WarpBegun (cause : BitVec 4) (s t : Mach) : Prop :=
  t.now = s.now ∧ t.ctl = warpRuns cause s.ctl ∧ t.start = s.start ∧ t.edge = s.edge ∧ t.ports = s.ports ∧ t.sec.cur = none ∧
    ∀ k, CoreCold (coreAt t k)

theorem resetCause_begun {cause : BitVec 4} {s u : Mach} (h : ResetKept s u) (hcur : u.sec.cur = none) (hcores : ∀ k, CoreCold (coreAt u k)) :
    WarpBegun cause s (modCtl (fun c => { c with scope := 1 }) (resetCause 1 cause u)) := by
  obtain ⟨hnow, hctl, hstart, hedge, hports⟩ := h
  exact ⟨hnow, by rw [← hctl]; rfl, hstart, hedge, hports, hcur, hcores⟩

theorem warpBegin_begun (cause : BitVec 4) (s : Mach) : WarpBegun cause s (warpBegin cause s) := by
  obtain ⟨hcold, hcur, hcores⟩ := coldWarp_kept (logVmin s)
  unfold warpBegin
  exact resetCause_begun ((logVmin_kept s).trans hcold) hcur hcores

/-- A warp reset begins: its scope and cause are known, and every core is cold. -/
theorem requestReset_warp {cause : BitVec 4} {owed : Option Owed} {s : Mach} (hstate : s.start.state = 7)
    (hpend : s.ctl.modulePending = false) (hscope : s.ctl.scope = 0) :
    WarpBegun cause (modCtl (fun c => { c with owed := c.owed ++ owed.toList }) s) (requestReset 1 cause owed s) := by
  have hnew : absorbs 1 s = false := by
    rw [absorbs, if_neg (by decide), resetRuns_inService hstate hpend, hscope]
    rfl
  rw [requestReset_begins (by rw [hstate]; decide) hnew, if_pos rfl]
  obtain ⟨l, e⟩ := requested_frame 1 cause owed s
  have hbegun := warpBegin_begun cause (requested 1 cause owed s)
  generalize warpBegin cause (requested 1 cause owed s) = v at hbegun
  rw [e] at hbegun
  exact hbegun

/-! ### The rim reset (R29, R31, R572) -/

theorem ResetKept.of_sessionWork {s t : Mach} (h : SessionWork s t) : ResetKept s t := by
  obtain ⟨_, _, _, _, _, _, rfl⟩ := h
  exact refl s

theorem ResetKept.of_listsEnded {s t : Mach} (h : ListsEnded s t) : ResetKept s t := by
  obtain ⟨_, _, rfl⟩ := h
  exact refl s

theorem stopExports_work (hit : Export → Bool) (s : Mach) : SessionWork s (stopExports hit s) :=
  (SessionWork.modKeep _ s).trans (.of_signals (foldl_signals (fun s (x : Export) => complete_signals x.owed 0x10 0 s) _ _))

theorem endRimCmds_kept (s : Mach) : ResetKept s (endRimCmds s) := by
  unfold endRimCmds
  dsimp only
  refine .trans ?_ (.of_signals (endWaiting_signals touchesRim _))
  refine .trans ?_ (.of_signals (foldl_signals (fun s o => complete_signals o 0x10 0 s) _ _))
  exact (ResetKept.of_listsEnded (dropLists_listsEnded s)).trans
    (.of_sessionWork ((endSessions_work _).trans (stopExports_work _ _)))

/-- The blocks of the rim are at their reset values; the bytes of edge memory, time and what holds the module are kept. -/
def RimCold (s t : Mach) : Prop :=
  t.now = s.now ∧ t.ctl = s.ctl ∧ t.start = s.start ∧ t.edge.mem = s.edge.mem ∧ t.ports = [] ∧ t.rmt.ptn = [] ∧ t.rmt.win = []

theorem iter_modStk_frame (f : Stack → Stack) (n : Nat) (s : Mach) : ∃ ks, iter n (fun i s => modStk i f s) s = { s with stk := ks } :=
  iter_related (R := fun s t => ∃ ks, t = { s with stk := ks }) (fun s => ⟨s.stk, rfl⟩)
    (by rintro _ _ _ ⟨_, rfl⟩ ⟨_, rfl⟩; exact ⟨_, rfl⟩) (fun _ s => ⟨_, rfl⟩) n s

theorem coldRim_cold (s : Mach) : RimCold s (coldRim s) := by
  unfold coldRim
  dsimp only
  generalize hu : ({ s with
      rnd := { Rnd.reset with sets := s.rnd.sets }
      edge := { Edge.reset with mem := s.edge.mem, ck := s.edge.ck, poison := s.edge.poison, keepEn := s.sys.twinMode == 1 }
      trn := .reset
      ports := []
      rmt := { Remote.reset with modFences := s.rmt.modFences, changes := s.rmt.changes.filter (fun c => !touchesTables c) }
      keep := { Keep.reset with holdCmds := s.keep.holdCmds, resumeCmds := s.keep.resumeCmds } } : Mach) = u
  obtain ⟨ks, e⟩ := iter_modStk_frame coldStack 32 u
  rw [e, ← hu]
  exact ⟨rfl, rfl, rfl, rfl, rfl, rfl, rfl⟩

theorem updateTwin_frame (s : Mach) : ∃ y n h o, updateTwin s = { s with sys := y, notes := n, host := h, out := o } := by
  have hevt : ∀ b u, (∃ y n h o, u = { s with sys := y, notes := n, host := h, out := o }) →
      ∃ y n h o, sysEvt b u = { s with sys := y, notes := n, host := h, out := o } := by
    rintro b _ ⟨y, n, h, o, rfl⟩
    obtain ⟨_, _, _, e⟩ := sysEvt_signals b ({ s with sys := y, notes := n, host := h, out := o } : Mach)
    exact ⟨_, _, _, _, e⟩
  unfold updateTwin
  extract_lets sers mis ok s1 s2
  have hs2 : ∃ y n h o, s2 = { s with sys := y, notes := n, host := h, out := o } := by
    simp only [s2]
    split
    · exact hevt 2 s1 ⟨_, s.notes, s.host, s.out, rfl⟩
    · exact ⟨_, s.notes, s.host, s.out, rfl⟩
  split
  · exact hevt 3 s2 hs2
  · exact hs2

/-- A rim reset runs from now on, with its cause. -/
def rimRuns (cause : BitVec 4) (c : Control) : Control := { c with scope := 2, lastScope := 2, lastCause := cause }

/-- What the start of a rim reset leaves. -/
def RimBegun (cause : BitVec 4) (s t : Mach) : Prop :=
  t.now = s.now ∧ t.ctl = rimRuns cause s.ctl ∧ t.start = s.start ∧ t.edge.mem = s.edge.mem ∧ t.ports = [] ∧
    t.rmt.ptn = [] ∧ t.rmt.win = []

/-- The blocks that a rim reset makes cold stay so. -/
def RimStays (s t : Mach) : Prop :=
  t.now = s.now ∧ t.ctl = s.ctl ∧ t.start = s.start ∧ t.edge = s.edge ∧ t.ports = s.ports ∧ t.rmt = s.rmt

theorem loadSlots_stays (s : Mach) : RimStays s (loadSlots s) := ⟨rfl, rfl, rfl, rfl, rfl, rfl⟩

theorem updateTwin_stays (s : Mach) : RimStays s (updateTwin s) := by
  obtain ⟨y, n, h, o, e⟩ := updateTwin_frame s
  rw [e]
  exact ⟨rfl, rfl, rfl, rfl, rfl, rfl⟩

theorem RimCold.stays {s t u : Mach} (h : RimCold s t) (h' : RimStays t u) : RimCold s u := by
  obtain ⟨hnow, hctl, hstart, hmem, hports, hptn, hwin⟩ := h
  obtain ⟨hnow', hctl', hstart', hedge', hports', hrmt'⟩ := h'
  exact ⟨hnow'.trans hnow, hctl'.trans hctl, hstart'.trans hstart, by rw [hedge', hmem], hports'.trans hports, by rw [hrmt', hptn],
    by rw [hrmt', hwin]⟩

theorem resetCause_rim {cause : BitVec 4} {s u : Mach} (h : RimCold s u) :
    RimBegun cause s (modCtl (fun c => { c with scope := 2 }) (resetCause 2 cause u)) := by
  obtain ⟨hnow, hctl, hstart, hmem, hports, hptn, hwin⟩ := h
  exact ⟨hnow, by rw [← hctl]; rfl, hstart, hmem, hports, hptn, hwin⟩

theorem raiseEpoch_rim {cause : BitVec 4} {s u : Mach} (h : RimBegun cause s u) : RimBegun cause s (raiseEpoch u) := h

theorem RimCold.of_kept {s u v : Mach} (h : ResetKept s u) (h' : RimCold u v) : RimCold s v := by
  obtain ⟨hnow, hctl, hstart, hedge, -⟩ := h
  obtain ⟨hnow', hctl', hstart', hmem', hrest⟩ := h'
  exact ⟨hnow'.trans hnow, hctl'.trans hctl, hstart'.trans hstart, hmem'.trans (congrArg Edge.mem hedge), hrest⟩

theorem rimBegin_begun (cause : BitVec 4) (s : Mach) : RimBegun cause s (rimBegin cause s) := by
  have hvmin : ResetKept s (if s.ctl.scope = 1 then s else logVmin s) := by
    split
    · exact .refl s
    · exact logVmin_kept s
  unfold rimBegin
  refine raiseEpoch_rim (resetCause_rim (.stays (.stays (.of_kept ?_ (coldRim_cold _)) (loadSlots_stays _)) (updateTwin_stays _)))
  exact (hvmin.trans ((coldWarp_kept _).1.trans ((endRimCmds_kept _).trans (endActivities_kept _ _).1)))

theorem requestReset_rim {cause : BitVec 4} {owed : Option Owed} {s : Mach} (hstate : s.start.state = 7)
    (hpend : s.ctl.modulePending = false) (hscope : s.ctl.scope.toNat ≤ 1) :
    RimBegun cause (modCtl (fun c => { c with owed := c.owed ++ owed.toList }) s) (requestReset 2 cause owed s) := by
  have hnew : absorbs 2 s = false := by
    rw [absorbs, if_neg (by decide), resetRuns_inService hstate hpend, decide_eq_false_iff_not]
    omega
  rw [requestReset_begins (by rw [hstate]; decide) hnew, if_neg (by decide), if_pos rfl]
  obtain ⟨l, e⟩ := requested_frame 2 cause owed s
  have hbegun := rimBegin_begun cause (requested 2 cause owed s)
  generalize rimBegin cause (requested 2 cause owed s) = v at hbegun
  rw [e] at hbegun
  exact hbegun

end Sys2Proof.Spec
end

section
/-! PROOFS. The commands of the flash, of maintenance and of the power (R405, R406, R490, R521, R545, R553, R573). -/

namespace Sys2Proof.Spec

open Sys2Proof.Machine

/-! ### Write sequences that start at once (R490) -/

/-- The sequence runs from now on. -/
def running (w : WSeq) (m : Mach) : Mach := { m with pwr := { m.pwr with running := m.pwr.running ++ [{ w with since := m.now }] } }

theorem requestSeq_runs {w : WSeq} {s : Mach} (hkind : w.kind ≠ .ledger) (h : SeqStarts s w.cost) : requestSeq w s = running w s :=
  requestSeq_image hkind h.1 h.2

theorem runIf_hostData {n : Nat} {bs : List Byte} {f : Mach → Mach} {s : State} (hlen : bs.length = n) :
    runIf (hostData n (some bs)) f s = run f s := if_pos (beq_iff_eq.2 hlen)

theorem licenceInstall_runs {s : State} {q : Nat} {d : Desc} {c : RunCmd} {l : List Byte} (h : Starts s.m q d c 0x59 [(16, 8)])
    (haddr : cB d 16 8 % 64 = 0) (hlen : l.length = 160) (hvalid : licenceValid s.m.start l = true)
    (hnew : ∀ x ∈ storedLicences s.m.start, licId x ≠ licId l) (hempty : emptyEntry s.m.start ≠ none) (hseq : SeqStarts s.m (seqCost 1 0)) :
    runIf (hostData 160 (some l)) (licenceInstall q d (some l)) s =
      .next (after (awaits q c (running { kind := .licence none l (owedTo q c), cost := seqCost 1 0 })) s) := by
  rw [runIf_hostData hlen]
  refine run_startCmd h ?_
  have hvalid' : licenceValid (started q c s.m).start l = true := hvalid
  have hnew' : (storedLicences (started q c s.m).start).any (fun x => licId x == licId l) = false :=
    List.any_eq_false.2 fun x hx => by simpa using hnew x hx
  have hempty' : (emptyEntry (started q c s.m).start).isNone = false := by
    rw [Option.isNone_eq_false_iff, Option.isSome_iff_ne_none]
    exact hempty
  dsimp only
  rw [if_neg (not_not.2 haddr), hvalid', hnew', hempty']
  exact requestSeq_runs (w := licenceSeq none l (owedTo q c)) (by simp [licenceSeq]) hseq

theorem licenceInstall_invalid {s : State} {q : Nat} {d : Desc} {c : RunCmd} {l : List Byte} (h : Starts s.m q d c 0x59 [(16, 8)])
    (haddr : cB d 16 8 % 64 = 0) (hlen : l.length = 160) (hvalid : licenceValid s.m.start l = false) :
    runIf (hostData 160 (some l)) (licenceInstall q d (some l)) s = .next (after (ended q c 0x0D 0) s) := by
  rw [runIf_hostData hlen]
  refine run_startCmd h ?_
  have hvalid' : licenceValid (started q c s.m).start l = false := hvalid
  dsimp only
  rw [if_neg (not_not.2 haddr), hvalid']
  rfl

theorem keyFuse_runs {s : State} {q : Nat} {d : Desc} {c : RunCmd} {r : List Byte} {mine : Bool} (h : Starts s.m q d c 0x5A [(16, 8)])
    (hmine : mine = true) (haddr : cB d 16 8 % 64 = 0) (hlen : r.length = 256) (hok : keyRequestOk s.m.start r = true)
    (hseq : SeqStarts s.m (seqCost 1 0)) : runIf (hostData 256 (some r)) (keyFuse q d (some r) mine) s =
      .next (after (awaits q c (running { kind := .fuse r (owedTo q c), cost := seqCost 1 0 })) s) := by
  rw [runIf_hostData hlen]
  refine run_eq_after ((startCmd_row h hmine _).trans ?_)
  have hok' : keyRequestOk (started q c s.m).start r = true := hok
  dsimp only
  rw [if_neg (not_not.2 haddr), hok', Bool.not_true, if_neg Bool.false_ne_true]
  exact requestSeq_runs (w := { kind := .fuse r (owedTo q c), cost := seqCost 1 0 }) (by simp) hseq

/-- An image that may be taken, up to the update that runs already. -/
theorem fwUpdate_body {s : State} {q : Nat} {d : Desc} {c : RunCmd} {u : List Byte} {g : Mach → Mach} (h : Starts s.m q d c 0x5B [(16, 12)])
    (haddr : cB d 16 8 % 64 = 0) (hlen : u.length = cB d 24 4) (hpos : 1 ≤ u.length) (hmax : u.length ≤ 0x4000000)
    (hgo : (if (started q c s.m).cradle.upd.isSome then complete (owedTo q c) 0x09 0 (started q c s.m)
      else requestSeq (firstBlock (started q c s.m) u (some (owedTo q c))) (modCradle (fun x => { x with
          upd := some { host := true, stage := .transfer, slot := !(started q c s.m).start.slot, length := cB d 24 4, data := [] } })
        (started q c s.m))) = g s.m) :
    runIf (hostData (descNum d 24 4) (some u)) (fwUpdate q d (some u)) s = .next (after g s) := by
  rw [runIf_hostData (n := descNum d 24 4) hlen]
  refine run_startCmd h ?_
  dsimp only
  rw [if_neg (by rintro (h | h | h); exacts [h haddr, by omega, by omega])]
  exact hgo

theorem fwUpdate_runs {s : State} {q : Nat} {d : Desc} {c : RunCmd} {u : List Byte} (h : Starts s.m q d c 0x5B [(16, 12)])
    (haddr : cB d 16 8 % 64 = 0) (hlen : u.length = cB d 24 4) (hpos : 1 ≤ u.length) (hmax : u.length ≤ 0x4000000)
    (hupd : s.m.cradle.upd = none) (hseq : SeqStarts s.m (seqCost (min 256 (ceilDiv u.length 256)) 1)) :
    runIf (hostData (descNum d 24 4) (some u)) (fwUpdate q d (some u)) s = .next (after (awaits q c (fun m => running
        { kind := .image (!m.start.slot) u (ceilDiv u.length 65536 - 1) (some (owedTo q c)), cost := seqCost (min 256 (ceilDiv u.length 256)) 1 }
        { m with cradle := { m.cradle with
            upd := some { host := true, stage := .transfer, slot := !m.start.slot, length := u.length, data := [] } } })) s) := by
  refine fwUpdate_body h haddr hlen hpos hmax ?_
  have hupd' : (started q c s.m).cradle.upd = none := hupd
  rw [hupd', firstBlock_eq, ← hlen]
  exact requestSeq_runs (by simp) hseq

theorem fwUpdate_busy {s : State} {q : Nat} {d : Desc} {c : RunCmd} {u : List Byte} (h : Starts s.m q d c 0x5B [(16, 12)])
    (haddr : cB d 16 8 % 64 = 0) (hlen : u.length = cB d 24 4) (hpos : 1 ≤ u.length) (hmax : u.length ≤ 0x4000000)
    (hupd : s.m.cradle.upd ≠ none) :
    runIf (hostData (descNum d 24 4) (some u)) (fwUpdate q d (some u)) s = .next (after (ended q c 0x09 0) s) := by
  refine fwUpdate_body h haddr hlen hpos hmax ?_
  have hupd' : (started q c s.m).cradle.upd.isSome = true := Option.isSome_iff_ne_none.2 hupd
  rw [if_pos hupd']
  rfl

/-! ### MAINT (R405, R406, R573) -/

/-- A MAINT command that starts, of the action of its row. -/
theorem run_maintCmd {s : Mach} {q : Nat} {d : Desc} {c : RunCmd} {mine : Nat → Bool} (h : Starts s q d c 0x60 [(8, 1), (10, 6)])
    (hmine : mine (cB d 8 1) = true) (go : Owed → Mach → Mach) : maintCmd mine go q d s = go (owedTo q c) (started q c s) :=
  startCmd_row h hmine go

theorem maintWarpReset_begins {s : Mach} {q : Nat} {d : Desc} {c : RunCmd} (h : Starts s q d c 0x60 [(8, 1), (10, 6)])
    (hact : cB d 8 1 = 1) : maintWarpReset q d s = requestReset 1 2 (some (owedTo q c)) (started q c s) :=
  (run_maintCmd h (by rw [hact]; rfl) _).trans (if_pos hact)

theorem maintRimReset_begins {s : Mach} {q : Nat} {d : Desc} {c : RunCmd} (h : Starts s q d c 0x60 [(8, 1), (10, 6)])
    (hact : cB d 8 1 = 2) : maintRimReset q d s = requestReset 2 2 (some (owedTo q c)) (started q c s) :=
  run_maintCmd h (by rw [hact]; rfl) _

theorem maintBusy_none {s : Mach} {code : Byte} (h : ∀ x ∈ s.mnt.acts, x.code ≠ code) : maintBusy s code = false :=
  List.any_eq_false.2 fun x hx => by simpa using h x hx

theorem tokenFree_of_unnamed {s : Mach} {t : Nat} (h : FreeToken s t) : tokenFree s.mnt.acts t = true := by
  have hholder : holderOf s.mnt.acts t = none :=
    List.find?_eq_none.2 fun a ha hmem => h a ha (List.mem_of_mem_take (List.contains_iff_mem.1 hmem))
  have hwaiters : waiters s.mnt.acts t = [] := List.filter_eq_nil_iff.2 fun a ha hnext =>
    h a ha (List.mem_of_mem_drop (List.mem_of_mem_head? (beq_iff_eq.1 hnext)))
  rw [tokenFree, hholder, hwaiters]
  rfl

/-- An activity of the host that finds its token free begins, and its command completes with the handle. -/
theorem reqActivity_completes {code subject part tok : Nat} {q : Nat} {c : RunCmd} {a : Activity} {s : Mach}
    (ha : a = heldActivity code subject part tok (some (owedTo q c)) s) (hcode : code = 2 ∨ code = 5) (hfree : FreeToken s tok) :
    reqActivity code subject part [tok] (some (owedTo q c)) (started q c s) = ended q c 0x00 s.mnt.nextHandle.toNat
      { s with mnt := { s.mnt with acts := s.mnt.acts ++ [a], nextHandle := s.mnt.nextHandle + 1 } } := by
  have hfree' : tokenFree (started q c s).mnt.acts tok = true := tokenFree_of_unnamed (s := started q c s) hfree
  rw [reqActivity_free hfree']
  subst ha
  rcases hcode with rfl | rfl <;> rfl

theorem maintEdgeChecker_begins {s : State} {q : Nat} {d : Desc} {c : RunCmd} {a : Activity} (h : Starts s.m q d c 0x60 [(8, 1), (10, 6)])
    (ha : a = heldActivity 2 (cB d 10 1) (cB d 11 1) (tokGroup (cB d 10 1) (cB d 11 1)) (some (owedTo q c)) s.m) (hact : cB d 8 1 = 0x10)
    (hst : cB d 10 1 ≤ 31) (hg : cB d 11 1 ≤ 3) (hnone : ∀ x ∈ s.m.mnt.acts, x.code ≠ 2)
    (hfree : FreeToken s.m (tokGroup (cB d 10 1) (cB d 11 1))) :
    run (maintEdgeCheckerBegin q d) s = .next (after (fun m => ended q c 0x00 s.m.mnt.nextHandle.toNat { m with
        mnt := { m.mnt with acts := m.mnt.acts ++ [a], nextHandle := m.mnt.nextHandle + 1 } }) s) := by
  refine run_eq_after ((run_maintCmd h (by rw [hact]; rfl) _).trans ?_)
  have hbusy : maintBusy (started q c s.m) 2 = false := maintBusy_none (s := started q c s.m) hnone
  dsimp only
  rw [if_neg (by omega), hbusy, if_neg Bool.false_ne_true]
  exact reqActivity_completes ha (.inl rfl) hfree

theorem maintScratchpadChecker_begins {s : State} {q : Nat} {d : Desc} {c : RunCmd} {a : Activity}
    (h : Starts s.m q d c 0x60 [(8, 1), (10, 6)]) (ha : a = heldActivity 5 (cB d 12 2) 0 (cB d 12 2) (some (owedTo q c)) s.m)
    (hact : cB d 8 1 = 0x11) (hdie : cB d 12 2 ≤ 143) (hnone : ∀ x ∈ s.m.mnt.acts, x.code ≠ 5) (hfree : FreeToken s.m (cB d 12 2)) :
    run (maintScratchpadCheckerBegin q d) s = .next (after (fun m => ended q c 0x00 s.m.mnt.nextHandle.toNat { m with
        mnt := { m.mnt with acts := m.mnt.acts ++ [a], nextHandle := m.mnt.nextHandle + 1 } }) s) := by
  refine run_eq_after ((run_maintCmd h (by rw [hact]; rfl) _).trans ?_)
  have hbusy : maintBusy (started q c s.m) 5 = false := maintBusy_none (s := started q c s.m) hnone
  dsimp only
  rw [if_neg (by omega), hbusy, if_neg Bool.false_ne_true]
  exact reqActivity_completes ha (.inr rfl) hfree

theorem maintEndActivity_ends {s : State} {q : Nat} {d : Desc} {c : RunCmd} {n : BitVec 16} (h : Starts s.m q d c 0x60 [(8, 1), (10, 6)])
    (hact : cB d 8 1 = 0x1F) (hn : n = BitVec.ofNat 16 (cB d 14 2))
    (hmine : ∃ a ∈ s.m.mnt.acts, a.handle = n ∧ (a.code = 2 ∨ a.code = 5)) :
    run (maintEndActivity q d) s = .next (after (fun m => ended q c 0x00 n.toNat { m with
        mnt := { m.mnt with acts := m.mnt.acts.filter (fun a => a.handle != n) } }) s) := by
  subst hn
  refine run_eq_after ((run_maintCmd h (by rw [hact]; rfl) _).trans ?_)
  obtain ⟨a, ha, hhandle, hcode⟩ := hmine
  have hany : (started q c s.m).mnt.acts.any
      (fun a => a.handle == BitVec.ofNat 16 (cB d 14 2) && (a.code == 2 || a.code == 5)) = true :=
    List.any_eq_true.2 ⟨a, ha, by simpa [hhandle] using hcode⟩
  dsimp only
  rw [if_pos hany]
  rfl

theorem powerOff_waits {s : State} {q : Nat} {d : Desc} {c : RunCmd} (h : Starts s.m q d c 0x61 []) (howed : s.m.pwr.offOwed = none)
    (hdown : s.m.pwr.down = none) :
    run (powerOff q d) s = .next (after (awaits q c (fun m => { m with
        pwr := { m.pwr with offOwed := some (owedTo q c) }, led := { m.led with sumFinal := true } })) s) := by
  refine run_startCmd h ?_
  have howed' : (started q c s.m).pwr.offOwed = none := howed
  have hdown' : (started q c s.m).pwr.down = none := hdown
  dsimp only
  rw [howed', hdown']
  rfl

/-- The activity that its fields give. -/
theorem activity_eq {a : Activity} {code subject part tok : Nat} {owed : Option Owed} {s : Mach} (hcode : a.code = BitVec.ofNat 8 code)
    (hsubject : a.subject = subject) (hpart : a.part = part) (hhandle : a.handle = s.mnt.nextHandle) (htok : a.tokens = [tok])
    (hheld : a.held = 1) (howed : a.owed = owed) : a = heldActivity code subject part tok owed s := by
  obtain ⟨handle, code', subject', part', tokens, held, owed'⟩ := a
  simp only at hcode hsubject hpart hhandle htok hheld howed
  subst hcode hsubject hpart hhandle htok hheld howed
  rfl

/-- Settles O47: a command that its checks accept starts its write sequence, reset or activity, or waits for the SUMMARY. -/
theorem flashMaintenanceAndPowerCommands : Obligations.FlashMaintenanceAndPowerCommands := by
  intro s q d c
  refine ⟨fun l h haddr hlen hvalid hnew hempty hseq => licenceInstall_runs h haddr hlen hvalid hnew hempty hseq,
    fun l h haddr hlen hvalid => licenceInstall_invalid h haddr hlen hvalid,
    fun r h haddr hlen hok hseq => ⟨fun hact => ?_, fun hact => ?_⟩,
    fun u h haddr hlen hpos hmax hupd hseq => fwUpdate_runs h haddr hlen hpos hmax hupd hseq,
    fun u h haddr hlen hpos hmax hupd => fwUpdate_busy h haddr hlen hpos hmax hupd, ?_, ?_, ?_, ?_,
    fun n h hact hn hmine => maintEndActivity_ends h hact hn hmine, fun h howed hdown => powerOff_waits h howed hdown⟩
  · exact keyFuse_runs h (by rw [asksRevoke, hact]; rfl) haddr hlen hok hseq
  · exact keyFuse_runs h (by rw [asksRevoke, hact]; rfl) haddr hlen hok hseq
  · intro h hact hpend hscope
    obtain ⟨-, -, -, -, hready⟩ := id h
    obtain ⟨hnow, hctl, hstart, hedge, hports, -, hcores⟩ := requestReset_warp (cause := 2) (owed := some (owedTo q.val c))
      (s := started q.val c s.m) hready hpend hscope
    obtain ⟨hrun, hpending, hm⟩ := runs_to (s := s) (f := maintWarpReset q.val d) (by rw [maintWarpReset_begins h hact, hnow]; rfl)
    rw [maintWarpReset_begins h hact] at hm
    refine ⟨_, hrun, hpending, ?_⟩
    rw [hm]
    exact ⟨hctl, hcores, hedge, hports⟩
  · intro h hact hpend hscope
    obtain ⟨-, -, -, -, hready⟩ := id h
    obtain ⟨hnow, hctl, hstart, hmem, hports, hptn, hwin⟩ := requestReset_rim (cause := 2) (owed := some (owedTo q.val c))
      (s := started q.val c s.m) hready hpend hscope
    obtain ⟨hrun, hpending, hm⟩ := runs_to (s := s) (f := maintRimReset q.val d) (by rw [maintRimReset_begins h hact, hnow]; rfl)
    rw [maintRimReset_begins h hact] at hm
    refine ⟨_, hrun, hpending, ?_⟩
    rw [hm]
    exact ⟨hctl, hmem, hports, hptn, hwin⟩
  · intro a hcode hsubject hpart hhandle htok hheld howed h hact hst hg hnone hfree
    exact maintEdgeChecker_begins h (activity_eq hcode hsubject hpart hhandle htok hheld howed) hact hst hg hnone hfree
  · intro a hcode hsubject hpart hhandle htok hheld howed h hact hdie hnone hfree
    exact maintScratchpadChecker_begins h (activity_eq hcode hsubject hpart hhandle htok hheld howed) hact hdie hnone hfree

end Sys2Proof.Spec
end

section
/-! PROOFS. Who requests a reset, how one ends, and cores marked dead (R27 to R40, R389, R528). -/

namespace Sys2Proof.Spec

open Sys2Proof.Machine

/-! ### Requests (R33, R34) -/

theorem covered_rstReq {s : Mach} (hpend : s.ctl.modulePending = false) : covered s 0x10 = false := hpend

theorem noLink_of_linkUp {s : Mach} (h : LinkUp s) : noLink s = false := by
  rw [noLink, h.2, beq_eq_false_iff_ne.2 h.1]
  rfl

/-- A request that its agent may make reaches the module. -/
theorem agentRequest_reaches {scope : Nat} {a : ResetAgent} {c : BitVec 4} {s : Mach} (hcause : agentCause scope a = some c)
    (hlink : a = .host → LinkUp s) (hpend : s.ctl.modulePending = false) : agentRequest scope a s = requestReset scope c none s := by
  unfold agentRequest
  rw [hcause]
  refine if_neg ?_
  rw [covered_rstReq hpend, Bool.or_false, Bool.and_eq_true, decide_eq_true_eq]
  rintro ⟨hhost, hno⟩
  rw [noLink_of_linkUp (hlink hhost)] at hno
  exact Bool.false_ne_true hno

theorem modCtl_owed_none (s : Mach) : modCtl (fun c => { c with owed := c.owed ++ (none : Option Owed).toList }) s = s := by
  have hnil : s.ctl.owed ++ (none : Option Owed).toList = s.ctl.owed := List.append_nil _
  simp only [modCtl, hnil]

theorem requestReset_absorbed {scope : Nat} {cause : BitVec 4} {s : Mach} (hstate : s.start.state ≠ 0) (h : absorbs scope s = true) :
    ∃ l, requestReset scope cause none s = { s with led := l } := by
  unfold requestReset
  rw [if_neg hstate, modCtl_owed_none, h]
  exact ⟨_, rfl⟩

/-! ### The module reset (R272, R505) -/

/-- No list runs on the unit and none waits. -/
def listFree (x : Unit_) : Prop := x.list = none ∧ x.waiting = []

theorem complete_trn (o : Owed) (st det : Nat) (s : Mach) : (complete o st det s).trn = s.trn := (complete_signals o st det s).trn

/-- The list of one unit ends, and those that wait behind it. -/
def dropUnit (u : Nat) (s : Mach) : Mach :=
  let x := unitAt s u
  let s1 := match x.list with | some l => complete l.owed 0x10 (x.status.toNat + 65536 * l.job) s | none => s
  x.waiting.foldl (fun s a => complete a.owed 0x10 0 s)
    (modUnit u (fun y => { y with list := none, waiting := [], stop := false }) s1)

theorem dropLists_eq (s : Mach) : dropLists s = iter 32 dropUnit s := rfl

theorem dropUnit_trn (u : Nat) (s : Mach) :
    (dropUnit u s).trn = (modUnit u (fun y => { y with list := none, waiting := [], stop := false }) s).trn := by
  have hfold : ∀ (l : List ArmedList) (t : Mach), (l.foldl (fun s a => complete a.owed 0x10 0 s) t).trn = t.trn := fun l t =>
    (foldl_signals (fun s (a : ArmedList) => complete_signals a.owed 0x10 0 s) l t).trn
  have hlist : (match (unitAt s u).list with
      | some l => complete l.owed 0x10 ((unitAt s u).status.toNat + 65536 * l.job) s | none => s).trn = s.trn := by
    split
    · exact complete_trn _ _ _ s
    · rfl
  unfold dropUnit
  dsimp only
  rw [hfold, modUnit_own, modUnit_own, hlist]

theorem unitAt_dropUnits (s : Mach) (u : Nat) : ∀ n, u < n → listFree (unitAt (iter n dropUnit s) u)
  | 0, h => absurd h (Nat.not_lt_zero u)
  | n + 1, h => by
    have hunit : unitAt (iter (n + 1) dropUnit s) u =
        unitAt (modUnit n (fun y => { y with list := none, waiting := [], stop := false }) (iter n dropUnit s)) u := by
      rw [iter_succ]
      exact congrArg (fun t : Train => tget Unit_.reset t.units u) (dropUnit_trn n _)
    rw [hunit]
    by_cases hu : u = n
    · subst hu
      rw [unitAt_modUnit]
      exact ⟨rfl, rfl⟩
    · rw [unitAt_modUnit_other _ _ hu]
      exact unitAt_dropUnits s u n (by omega)

/-- No update list runs or waits after a module reset is accepted. -/
theorem dropLists_free (s : Mach) {u : Nat} (hu : u < 32) : listFree (unitAt (dropLists s) u) := unitAt_dropUnits s u 32 hu

/-- A module reset that is asked for. -/
def moduleAsked (cause : BitVec 4) (s : Mach) (c : Control) : Control :=
  { c with scope := 0, modulePending := true, cause := cause, reqRound := roundNow s }

theorem moduleAccept_asks (cause : BitVec 4) (s : Mach) : (moduleAccept cause s).now = s.now ∧
    (moduleAccept cause s).ctl = moduleAsked cause s s.ctl ∧ (moduleAccept cause s).cores = s.cores ∧
    (moduleAccept cause s).edge = s.edge ∧ (moduleAccept cause s).weft = s.weft ∧
    ∀ u, u < 32 → listFree (unitAt (moduleAccept cause s) u) := by
  have hfree : ∀ u, u < 32 → listFree (unitAt (moduleAccept cause s) u) := fun u hu => dropLists_free _ hu
  obtain ⟨_, _, _, _, _, e⟩ := moduleAccept_frame cause s
  rw [e] at hfree ⊢
  exact ⟨rfl, rfl, rfl, rfl, rfl, hfree⟩

theorem requestReset_asksModule {cause : BitVec 4} {s : Mach} (hstate : s.start.state ≠ 0) (hpend : s.ctl.modulePending = false) :
    ∃ l, requestReset 3 cause none s = owedSummary (moduleAccept cause { s with led := l }) := by
  obtain ⟨l, e⟩ := requested_frame 3 cause none s
  have hrequested : requested 3 cause none s = { s with led := l } := by
    rw [e]
    simp only [Option.toList_none, List.append_nil]
  refine ⟨l, ?_⟩
  rw [requestReset_begins hstate (show absorbs 3 s = false from hpend), if_neg (by decide), if_neg (by decide), hrequested]

/-- A module reset is accepted, and waits for its SUMMARY. -/
theorem requestReset_accepted {cause : BitVec 4} {s : Mach} (hstate : s.start.state ≠ 0) (hpend : s.ctl.modulePending = false) :
    (requestReset 3 cause none s).now = s.now ∧ (requestReset 3 cause none s).ctl = moduleAsked cause s s.ctl ∧
    (requestReset 3 cause none s).led.sumFinal = true ∧ (requestReset 3 cause none s).cores = s.cores ∧
    (requestReset 3 cause none s).edge = s.edge ∧ ∀ u, u < 32 → listFree (unitAt (requestReset 3 cause none s) u) := by
  obtain ⟨l, e⟩ := requestReset_asksModule (cause := cause) hstate hpend
  obtain ⟨hnow, hctl, hcores, hedge, -, hfree⟩ := moduleAccept_asks cause { s with led := l }
  rw [e]
  generalize moduleAccept cause { s with led := l } = u at hnow hctl hcores hedge hfree
  exact ⟨hnow, hctl, rfl, hcores, hedge, hfree⟩

/-! ### The watchdog (R528) -/

/-- Ordinary records are queued: the protected ones stay as they were. -/
def OrdinaryLogged (s t : Mach) : Prop := Logged s t ∧ t.led.protQ = s.led.protQ ∧ t.led.waitQ = s.led.waitQ

namespace OrdinaryLogged

theorem refl (s : Mach) : OrdinaryLogged s s := ⟨.refl s, rfl, rfl⟩

theorem trans {s t u : Mach} (h : OrdinaryLogged s t) (h' : OrdinaryLogged t u) : OrdinaryLogged s u :=
  ⟨h.1.trans h'.1, h'.2.1.trans h.2.1, h'.2.2.trans h.2.2⟩

theorem queued {e : Event} (he : isProtected e.cls.toNat = false) (s : Mach) : OrdinaryLogged s (modLed (queueEvent e) s) := by
  refine ⟨modLed_logged _ s, ?_⟩
  rw [modLed_own]
  rcases queueEvent_cases e s.led with ⟨hp, -⟩ | ⟨hp, -⟩ | ⟨-, -, h⟩ | ⟨-, -, h⟩
  · exact absurd (he.symm.trans hp) Bool.false_ne_true
  · exact absurd (he.symm.trans hp) Bool.false_ne_true
  · rw [h]
    exact ⟨rfl, rfl⟩
  · rw [h]
    exact ⟨rfl, rfl⟩

end OrdinaryLogged

theorem logVmin_ordinary (s : Mach) : OrdinaryLogged s (logVmin s) :=
  .trans
    (foldl_related .refl .trans (fun s _ => foldl_related .refl .trans (fun s _ => .queued (by rfl) s) _ s) _ s)
    (foldl_related .refl .trans (fun s _ => .queued (by rfl) s) _ _)

/-- Nothing of a ring is in work or waits for its completion to be written. -/
def ringFree (r : Ring) : Prop := r.cmds = [] ∧ r.fin = []

theorem ringFree_endRings (q : Nat) (l : Tbl Ring) : ∀ s : Mach, (ringFree (ringAt s q) ∨ ∃ e ∈ l, e.1 = q) →
    ringFree (ringAt (l.foldl (fun s e => modRing e.1 (fun r => { r with cmds := [], fin := [] }) s) s) q) := by
  induction l with
  | nil => exact fun s h => h.resolve_right (by rintro ⟨e, he, -⟩; exact List.not_mem_nil he)
  | cons e l ih =>
    intro s h
    refine ih _ ?_
    by_cases hq : q = e.1
    · subst hq
      rw [ringAt_modRing]
      exact .inl ⟨rfl, rfl⟩
    · rw [ringAt_modRing_other _ _ hq]
      refine h.imp id ?_
      rintro ⟨x, hx, rfl⟩
      rcases List.mem_cons.1 hx with rfl | hx
      · exact absurd rfl hq
      · exact ⟨x, hx, rfl⟩

theorem endCommands_free (s : Mach) (q : Nat) : ringFree (ringAt (endCommands s) q) := by
  refine ringFree_endRings q s.host.rings s ?_
  by_cases hkey : ∃ e ∈ s.host.rings, e.1 = q
  · exact .inr hkey
  · have habsent : ringAt s q = Ring.reset := tget_absent _ _ _ fun e he heq => hkey ⟨e, he, heq⟩
    rw [habsent]
    exact .inl ⟨rfl, rfl⟩

/-- The power goes down for a restart. -/
def downForRestart (p : Power) : Power := { p with up := none, burn := none, down := some (0, .restart) }

/-- A power-down for a restart: every command ends without a completion. -/
theorem beginDown_restart (s : Mach) : ∃ n h o l, beginDown .restart s = { s with notes := n, host := h, out := o, led := l, pwr := downForRestart s.pwr } ∧
    l.protQ = s.led.protQ ∧ l.waitQ = s.led.waitQ ∧ ∀ q, ringFree (ringAt (beginDown .restart s) q) := by
  obtain ⟨⟨n, h, o, l, e⟩, hprot, hwait⟩ := logVmin_ordinary s
  obtain ⟨h', e'⟩ := endCommands_frame (modPwr downForRestart (logVmin s))
  have hdown : beginDown .restart s =
      endCommands (modPwr downForRestart (logVmin s)) := rfl
  rw [hdown]
  refine ⟨n, h', o, l, ?_, ?_, ?_, endCommands_free _⟩
  · rw [e', e]
    rfl
  · rw [e] at hprot
    exact hprot
  · rw [e] at hwait
    exact hwait

/-- Two seconds without service begin a module reset that waits for nothing. -/
theorem watchdogExpiry_restarts {s : Mach} (h : InService s) : (watchdogExpiry s).now = s.now ∧
    (watchdogExpiry s).ctl = moduleAsked 5 s s.ctl ∧ (watchdogExpiry s).weft.expiries = satInc s.weft.expiries ∧
    (watchdogExpiry s).pwr.down = some (0, .restart) ∧ (watchdogExpiry s).led.protQ = [] ∧ (watchdogExpiry s).led.waitQ = [] ∧
    ∀ q, ringFree (ringAt (watchdogExpiry s) q) := by
  obtain ⟨hready, hpend⟩ := h
  have hstate : s.start.state ≠ 0 := by
    rw [hready]
    decide
  have hexpiry : watchdogExpiry s = beginDown .restart (modLed loseQueue (moduleAccept 5
      (modWeft (fun w => { w with expiries := satInc w.expiries }) s))) := by
    unfold watchdogExpiry
    rw [if_neg hstate]
    refine if_neg ?_
    rintro (hbad | hbad)
    · exact hstate hbad
    · exact Bool.false_ne_true (hpend.symm.trans hbad)
  obtain ⟨hnow, hctl, -, -, hweft, -⟩ := moduleAccept_asks 5 (modWeft (fun w => { w with expiries := satInc w.expiries }) s)
  rw [hexpiry]
  generalize moduleAccept 5 (modWeft (fun w => { w with expiries := satInc w.expiries }) s) = u at hnow hctl hweft
  obtain ⟨n, host, o, l, e, hprot, hwait, hrings⟩ := beginDown_restart (modLed loseQueue u)
  refine ⟨?_, ?_, ?_, ?_, ?_, ?_, hrings⟩
  · rw [e]
    exact hnow
  · rw [e]
    exact hctl
  · rw [e]
    exact congrArg Weft.expiries hweft
  · rw [e]
    rfl
  · rw [e]
    exact hprot
  · rw [e]
    exact hwait

/-! ### The end of a reset (R29, R384, R389, R425) -/

/-- The maps are rebuilt: dies, records, the power's list of failed dies and the start's measurements may change. -/
def MapWork (s t : Mach) : Prop := ∃ ds l p x, t = { s with dies := ds, led := l, pwr := p, start := x }

namespace MapWork

theorem refl (s : Mach) : MapWork s s := ⟨s.dies, s.led, s.pwr, s.start, rfl⟩

theorem trans {s t u : Mach} (h : MapWork s t) (h' : MapWork t u) : MapWork s u := by
  obtain ⟨_, _, _, _, rfl⟩ := h
  obtain ⟨_, _, _, _, rfl⟩ := h'
  exact ⟨_, _, _, _, rfl⟩

theorem modDie (d : Nat) (f : Die → Die) (s : Mach) : MapWork s (modDie d f s) := ⟨_, s.led, s.pwr, s.start, rfl⟩

theorem modLed (f : Ledger → Ledger) (s : Mach) : MapWork s (modLed f s) := ⟨s.dies, _, s.pwr, s.start, rfl⟩

end MapWork

theorem useSpare_mapWork (die : Nat) (x : Suspect) (s : Mach) : MapWork s (useSpare die x s) := by
  unfold useSpare
  split
  · exact .modDie _ _ s
  · exact .modLed _ s

theorem applySuspects_mapWork (die : Nat) (s : Mach) : MapWork s (applySuspects die s) := by
  unfold applySuspects
  dsimp only
  split
  · exact .refl s
  · exact .trans (foldl_related .refl .trans (fun s x => useSpare_mapWork die x s) _ s)
      (.trans (foldl_related .refl .trans (fun s _ => .modDie _ _ s) _ _) (.modDie _ _ _))

theorem rebuildMap_mapWork (die : Nat) (s : Mach) : MapWork s (rebuildMap die s) := by
  unfold rebuildMap
  split
  · exact .refl s
  · exact .modDie _ _ s

theorem logRepair_mapWork (s : Mach) : MapWork s (logRepair s) ∧ (logRepair s).dies = s.dies := by
  have hlogs : ∀ (f : Nat → Mach → List Byte) (n : Nat) (s : Mach), ∃ l, iter n (fun p s => logModule 0x11 0 (f p s) s) s = { s with led := l } :=
    fun f n s => iter_related (R := fun s t => ∃ l, t = { s with led := l }) (fun s => ⟨s.led, rfl⟩)
      (by rintro _ _ _ ⟨_, rfl⟩ ⟨_, rfl⟩; exact ⟨_, rfl⟩) (fun _ s => ⟨_, rfl⟩) n s
  unfold logRepair
  dsimp only
  obtain ⟨l, e⟩ := hlogs _ _ (Machine.modLed (fun l => { l with mapSet := l.mapSet + 1 }) s)
  rw [e]
  exact ⟨⟨s.dies, l, s.pwr, s.start, rfl⟩, rfl⟩

/-- The dead of the known-answer tests and of the verdicts are marked, and the maps are rebuilt from them. -/
def mapsFound (katFail : List Nat) (s : Mach) : Mach :=
  let s1 := (katFail ++ (s.cores.filter (fun e => e.2.retired)).map (·.1)).foldl (fun s k => markDead k s) s
  let s2 := iter 144 rebuildMap (iter 144 applySuspects s1)
  modLed (fun l => { l with repair := (List.range 144).flatMap (dieEntries s2) }) s2

theorem mapsFound_mapWork (katFail : List Nat) (s : Mach) : MapWork s (mapsFound katFail s) := by
  unfold mapsFound
  dsimp only
  refine .trans ?_ (.modLed _ _)
  refine .trans ?_ (iter_related .refl .trans rebuildMap_mapWork 144 _)
  exact .trans (foldl_related .refl .trans (fun s _ => .modDie _ _ s) _ s) (iter_related .refl .trans applySuspects_mapWork 144 _)

/-- The maps stand: their records are written and they are measured. -/
def mapsLogged (s : Mach) : Mach :=
  measureMap (logModule 0x10 0 (mapBytes s) (logRepair (modPwr (fun p => { p with dieFail := [] }) s)))

theorem logModule_mapWork (cls flags : Nat) (det : List Byte) (s : Mach) :
    MapWork s (logModule cls flags det s) ∧ (logModule cls flags det s).dies = s.dies := ⟨.modLed _ s, rfl⟩

theorem modStart_mapWork (f : Start → Start) (s : Mach) : MapWork s (modStart f s) ∧ (modStart f s).dies = s.dies :=
  ⟨⟨s.dies, s.led, s.pwr, _, rfl⟩, rfl⟩

theorem measureMap_mapWork (s : Mach) : MapWork s (measureMap s) ∧ (measureMap s).dies = s.dies := by
  unfold measureMap
  exact modStart_mapWork _ s

theorem mapsLogged_mapWork (s : Mach) : MapWork s (mapsLogged s) ∧ (mapsLogged s).dies = s.dies := by
  obtain ⟨hwork, hdies⟩ := logRepair_mapWork (modPwr (fun p => { p with dieFail := [] }) s)
  unfold mapsLogged
  generalize logRepair (modPwr (fun p => { p with dieFail := [] }) s) = u at hwork hdies
  obtain ⟨hlog, hlogDies⟩ := logModule_mapWork 0x10 0 (mapBytes s) u
  generalize logModule 0x10 0 (mapBytes s) u = v at hlog hlogDies
  obtain ⟨hlast, hlastDies⟩ := measureMap_mapWork v
  exact ⟨.trans (.trans ⟨s.dies, s.led, _, s.start, rfl⟩ hwork) (hlog.trans hlast), hlastDies.trans (hlogDies.trans hdies)⟩

theorem rebuildAll_eq (katFail : List Nat) (s : Mach) : rebuildAll katFail s =
    mapsLogged (iter 144 (fun d s => modDie d (fun x => { x with dead := 0 }) s) (mapsFound katFail s)) := by
  simp only [rebuildAll, mapsLogged, mapsFound]

/-- After a rebuild no die names a dead core. -/
theorem rebuildAll_mapWork (katFail : List Nat) (s : Mach) : MapWork s (rebuildAll katFail s) ∧
    ∀ d, d < 144 → (dieAt (rebuildAll katFail s) d).dead = 0 := by
  have hclear : ∀ n u, (∀ d, d < n → (dieAt (iter n (fun d s => modDie d (fun x => { x with dead := 0 }) s) u) d).dead = 0) ∧
      MapWork u (iter n (fun d s => modDie d (fun x => { x with dead := 0 }) s) u) := fun n u =>
    ⟨fun d hd => by rw [dieAt_iter, if_pos hd], iter_related .refl .trans (fun _ s => .modDie _ _ s) n u⟩
  obtain ⟨hdead, hwork⟩ := hclear 144 (mapsFound katFail s)
  rw [rebuildAll_eq]
  generalize iter 144 (fun d s => modDie d (fun x => { x with dead := 0 }) s) (mapsFound katFail s) = u at hdead hwork
  obtain ⟨hlog, hdies⟩ := mapsLogged_mapWork u
  refine ⟨(mapsFound_mapWork katFail s).trans (hwork.trans hlog), fun d hd => ?_⟩
  rw [show dieAt (mapsLogged u) d = dieAt u d from congrArg (fun t => tget Die.reset t d) hdies]
  exact hdead d hd

/-- The reset that ran is over, and the commands that awaited it complete. -/
def resetOver (c : Control) : Control := { c with owed := [], scope := 0 }

theorem endOwed_signals (s : Mach) : Signals (modCtl resetOver s) (endOwed s) :=
  foldl_signals (fun s o => complete_signals o 0x00 0 s) _ _

/-- Every core is in reset, and time, the control block and edge memory are as they were. -/
def CoresReset (s t : Mach) : Prop := t.now = s.now ∧ t.ctl = s.ctl ∧ t.edge = s.edge ∧ t.cores = []

theorem warpEnd_coresReset (katFail : List Nat) (s : Mach) : CoresReset s (warpEnd katFail s) ∧
    (∀ d, d < 144 → (dieAt (warpEnd katFail s) d).dead = 0) ∧ (warpEnd katFail s).stk = s.stk := by
  obtain ⟨⟨_, _, _, _, e⟩, hdead⟩ := rebuildAll_mapWork katFail s
  unfold warpEnd
  rw [e] at hdead ⊢
  exact ⟨⟨rfl, rfl, rfl, rfl⟩, hdead, rfl⟩

/-- The reset is counted and over. -/
theorem endOwed_over {f : Control → Control} {s u : Mach} (h : CoresReset s u) :
    (endOwed (modCtl f u)).now = s.now ∧ (endOwed (modCtl f u)).ctl = resetOver (f s.ctl) ∧ (endOwed (modCtl f u)).cores = [] ∧
    (endOwed (modCtl f u)).edge = s.edge ∧ (endOwed (modCtl f u)).dies = u.dies ∧ (endOwed (modCtl f u)).stk = u.stk := by
  obtain ⟨hnow, hctl, hedge, hcores⟩ := h
  have hsig := endOwed_signals (modCtl f u)
  refine ⟨hsig.now.trans hnow, ?_, hsig.cores.trans hcores, hsig.edge.trans hedge, hsig.dies, hsig.stk⟩
  rw [hsig.ctl, ← hctl]
  rfl

theorem dieAt_of_dies {s t : Mach} (h : t.dies = s.dies) (d : Nat) : dieAt t d = dieAt s d := congrArg (tget Die.reset · d) h

theorem stkAt_of_stk {s t : Mach} (h : t.stk = s.stk) (j : Nat) : stkAt t j = stkAt s j := congrArg (tget Stack.reset · j) h

theorem warpResetDone_ends {katFail : List Nat} {s : Mach} (hscope : s.ctl.scope = 1) :
    (warpResetDone katFail s).now = s.now ∧
    (warpResetDone katFail s).ctl = resetOver { s.ctl with warpCnt := satInc s.ctl.warpCnt } ∧
    (warpResetDone katFail s).cores = [] ∧ (warpResetDone katFail s).edge = s.edge ∧
    ∀ d, d < 144 → (dieAt (warpResetDone katFail s) d).dead = 0 := by
  obtain ⟨hend, hdead, -⟩ := warpEnd_coresReset katFail s
  unfold warpResetDone
  rw [if_neg (not_not.2 hscope)]
  generalize warpEnd katFail s = u at hend hdead
  obtain ⟨hnow, hctl, hcores, hedge, hdies, -⟩ := endOwed_over (f := fun c => { c with warpCnt := satInc c.warpCnt }) hend
  exact ⟨hnow, hctl, hcores, hedge, fun d hd => (congrArg Die.dead (dieAt_of_dies hdies d)).trans (hdead d hd)⟩

/-! ### The stacks at the end of a rim reset (R389) -/

theorem stkAt_trainStacks (s : Mach) (st : Nat) : ∀ n, st < n → (stkAt (iter n trainStack s) st).selfref = false ∧
    (stkAt (iter n trainStack s) st).trained = !(stkAt (iter n trainStack s) st).failed
  | 0, h => absurd h (Nat.not_lt_zero st)
  | n + 1, h => by
    rw [iter_succ]
    by_cases hst : st = n
    · subst hst
      unfold trainStack
      dsimp only
      rw [stkAt_modStk]
      exact ⟨rfl, rfl⟩
    · unfold trainStack
      dsimp only
      rw [stkAt_modStk_other _ _ hst]
      exact stkAt_trainStacks s st n (by omega)

/-- What the loss of a die may change outside the stacks. -/
def StackWork (s t : Mach) : Prop :=
  t.now = s.now ∧ t.ctl = s.ctl ∧ t.cores = s.cores ∧ t.start = s.start ∧ t.pwr = s.pwr

theorem StackWork.refl (s : Mach) : StackWork s s := ⟨rfl, rfl, rfl, rfl, rfl⟩

theorem StackWork.trans {s t u : Mach} (h : StackWork s t) (h' : StackWork t u) : StackWork s u := by
  obtain ⟨hnow, hctl, hcores, hstart, hpwr⟩ := h
  obtain ⟨hnow', hctl', hcores', hstart', hpwr'⟩ := h'
  exact ⟨hnow'.trans hnow, hctl'.trans hctl, hcores'.trans hcores, hstart'.trans hstart, hpwr'.trans hpwr⟩

/-- The DRAM die is lost. -/
def dieLostIn (other : Bool) (d : Nat) (k : Stack) : Stack :=
  { k with dieLost := setBit k.dieLost d, failed := k.failed || other, corr := k.corr.filter (fun e => e.1 != d) }

theorem emcEvt_stk (b : Nat) (s : Mach) : (emcEvt b s).stk = s.stk ∧ StackWork s (emcEvt b s) := by
  have hsig : Signals (modEdge (fun e => { e with evt := setBit e.evt b }) s) (emcEvt b s) :=
    (noteRaise_signals _ _ _).trans (raiseIrq_signals 11 _)
  exact ⟨hsig.stk, hsig.now, hsig.ctl, hsig.cores, hsig.start, hsig.pwr⟩

theorem uncorrected_stk (cls : Nat) (s : Mach) : (uncorrected cls s).stk = s.stk ∧ StackWork s (uncorrected cls s) := by
  have hsig := uncorrected_signals cls s
  exact ⟨hsig.stk, hsig.now, hsig.ctl, hsig.cores, hsig.start, hsig.pwr⟩

theorem markLost_stk (st d : Nat) (s : Mach) : ∃ other, (markLost st d s).stk = (modStk st (dieLostIn other d) s).stk ∧
    StackWork s (markLost st d s) := by
  refine ⟨groupDeg (stkAt s st) (if d < 10 then 0 else 2), ?_⟩
  unfold markLost
  dsimp only
  generalize groupDeg (stkAt s st) (if d < 10 then 0 else 2) = other
  generalize hu : logAt 0x12 4 (if other then 1 else 0) 0xFFFF st 0 _ _ = u
  have hlog : u.stk = (modStk st (dieLostIn other d) s).stk ∧ StackWork s u := by
    rw [← hu]
    exact ⟨rfl, rfl, rfl, rfl, rfl, rfl⟩
  obtain ⟨hevt, hevtWork⟩ := emcEvt_stk (if other then 3 else 2) u
  cases other with
  | false => exact ⟨hevt.trans hlog.1, hlog.2.trans hevtWork⟩
  | true =>
    obtain ⟨hunc, huncWork⟩ := uncorrected_stk 0x12 (emcEvt 3 u)
    exact ⟨hunc.trans (hevt.trans hlog.1), hlog.2.trans (hevtWork.trans huncWork)⟩

theorem stkAt_markLost (st d : Nat) (s : Mach) : (∃ other, stkAt (markLost st d s) st = dieLostIn other d (stkAt s st)) ∧
    ∀ j, j ≠ st → stkAt (markLost st d s) j = stkAt s j := by
  obtain ⟨other, hstk, -⟩ := markLost_stk st d s
  have hsame : ∀ j, stkAt (markLost st d s) j = stkAt (modStk st (dieLostIn other d) s) j := fun j =>
    congrArg (fun t => tget Stack.reset t j) hstk
  refine ⟨⟨other, ?_⟩, fun j hj => ?_⟩
  · rw [hsame, stkAt_modStk]
  · rw [hsame, stkAt_modStk_other _ _ hj]

theorem trainFinds_work (e : Nat × Nat) (s : Mach) : StackWork s (trainFinds e s) := by
  unfold trainFinds
  split
  · exact .refl s
  · obtain ⟨_, -, h⟩ := markLost_stk e.1 e.2 s
    exact h

/-- What training finds in a stack: more dies are lost, the rest of its training stays. -/
theorem trainFinds_stack (e : Nat × Nat) (s : Mach) (j : Nat) :
    (stkAt (trainFinds e s) j).selfref = (stkAt s j).selfref ∧
    (∀ d, bit (stkAt s j).dieLost d = true → bit (stkAt (trainFinds e s) j).dieLost d = true) ∧
    (e.1 ≠ j → stkAt (trainFinds e s) j = stkAt s j) ∧
    (e.1 = j → e.2 < 20 → bit (stkAt (trainFinds e s) j).dieLost e.2 = true) := by
  unfold trainFinds
  split
  · next hlost => exact ⟨rfl, fun _ h => h, fun _ => rfl, fun hj _ => hj ▸ hlost⟩
  · obtain ⟨⟨other, hown⟩, hother⟩ := stkAt_markLost e.1 e.2 s
    by_cases hj : j = e.1
    · subst hj
      rw [hown]
      exact ⟨rfl, fun d hd => bit_setBit_mono hd, fun h => absurd rfl h, fun _ hlt => bit_setBit_same _ hlt⟩
    · rw [hother j hj]
      exact ⟨rfl, fun _ h => h, fun _ => rfl, fun h => absurd h.symm hj⟩

theorem trainFinds_all (bad : List (Nat × Nat)) (hbad : ∀ e ∈ bad, e.2 < 20) : ∀ s : Mach,
    StackWork s (bad.foldl (fun s e => trainFinds e s) s) ∧
    (∀ j, (stkAt (bad.foldl (fun s e => trainFinds e s) s) j).selfref = (stkAt s j).selfref) ∧
    (∀ j d, bit (stkAt s j).dieLost d = true → bit (stkAt (bad.foldl (fun s e => trainFinds e s) s) j).dieLost d = true) ∧
    (∀ e ∈ bad, bit (stkAt (bad.foldl (fun s e => trainFinds e s) s) e.1).dieLost e.2 = true) ∧
    ∀ j, (∀ e ∈ bad, e.1 ≠ j) → stkAt (bad.foldl (fun s e => trainFinds e s) s) j = stkAt s j := by
  induction bad with
  | nil => exact fun s => ⟨.refl s, fun _ => rfl, fun _ _ h => h, fun e he => absurd he List.not_mem_nil, fun _ _ => rfl⟩
  | cons e bad ih =>
    intro s
    obtain ⟨hwork, hself, hmono, hfound, hfar⟩ := ih (fun x hx => hbad x (List.mem_cons_of_mem e hx)) (trainFinds e s)
    refine ⟨(trainFinds_work e s).trans hwork, fun j => (hself j).trans (trainFinds_stack e s j).1,
      fun j d h => hmono j d ((trainFinds_stack e s j).2.1 d h), fun x hx => ?_, fun j hj => ?_⟩
    · rcases List.mem_cons.1 hx with rfl | hx
      · exact hmono _ _ ((trainFinds_stack x s x.1).2.2.2 rfl (hbad x List.mem_cons_self))
      · exact hfound x hx
    · exact (hfar j fun x hx => hj x (List.mem_cons_of_mem e hx)).trans ((trainFinds_stack e s j).2.2.1 (hj e List.mem_cons_self))

/-- The ports of a module whose rim is ready are lit, or stay dark. -/
theorem lightPorts_frame (n : Nat) (s : Mach) : ∃ ps, iter n lightPort s = { s with ports := ps } :=
  iter_related (R := fun s t => ∃ ps, t = { s with ports := ps }) (fun s => ⟨s.ports, rfl⟩)
    (by rintro _ _ _ ⟨_, rfl⟩ ⟨_, rfl⟩; exact ⟨_, rfl⟩) (fun _ s => ⟨_, rfl⟩) n s

theorem trainStacks_work (n : Nat) (s : Mach) : StackWork s (iter n trainStack s) :=
  iter_related .refl .trans (fun _ _ => ⟨rfl, rfl, rfl, rfl, rfl⟩) n s

/-- Every stack is trained, but for those that have failed; the dies that training finds failing are lost. -/
def StacksTrained (bad : List (Nat × Nat)) (t : Mach) : Prop :=
  (∀ e ∈ bad, bit (stkAt t e.1).dieLost e.2 = true) ∧
    ∀ st, st < 32 → (stkAt t st).selfref = false ∧ ((∀ e ∈ bad, e.1 ≠ st) → (stkAt t st).trained = !(stkAt t st).failed)

theorem stacksTrained_found {bad : List (Nat × Nat)} (hbad : ∀ e ∈ bad, e.2 < 20) {u : Mach}
    (h : ∀ st, st < 32 → (stkAt u st).selfref = false ∧ (stkAt u st).trained = !(stkAt u st).failed) :
    StackWork u (bad.foldl (fun s e => trainFinds e s) u) ∧ StacksTrained bad (bad.foldl (fun s e => trainFinds e s) u) := by
  obtain ⟨hwork, hself, -, hfound, hfar⟩ := trainFinds_all bad hbad u
  refine ⟨hwork, hfound, fun st hst => ⟨(hself st).trans (h st hst).1, fun hnone => ?_⟩⟩
  rw [hfar st hnone]
  exact (h st hst).2

theorem stacksTrained_lit {bad : List (Nat × Nat)} {v : Mach} (h : StacksTrained bad v) (n : Nat) :
    StackWork v (iter n lightPort v) ∧ StacksTrained bad (iter n lightPort v) := by
  obtain ⟨ps, e⟩ := lightPorts_frame n v
  rw [e]
  exact ⟨⟨rfl, rfl, rfl, rfl, rfl⟩, h⟩

theorem trainAll_trains {bad : List (Nat × Nat)} (hbad : ∀ e ∈ bad, e.2 < 20) (s : Mach) :
    StackWork s (trainAll bad s) ∧ StacksTrained bad (trainAll bad s) := by
  obtain ⟨hwork, hfound⟩ := stacksTrained_found hbad (fun st => stkAt_trainStacks s st 32)
  obtain ⟨hlight, hlit⟩ := stacksTrained_lit hfound 64
  exact ⟨(trainStacks_work 32 s).trans (hwork.trans hlight), hlit⟩

/-- The rim reset is counted and over. -/
theorem endOwed_trained {bad : List (Nat × Nat)} {f : Control → Control} {s v : Mach} (h : StackWork s v) (htrained : StacksTrained bad v) :
    (endOwed (modCtl f v)).now = s.now ∧ (endOwed (modCtl f v)).ctl = resetOver (f s.ctl) ∧ (endOwed (modCtl f v)).cores = s.cores ∧
    StacksTrained bad (endOwed (modCtl f v)) := by
  obtain ⟨hnow, hctl, hcores, -, -⟩ := h
  obtain ⟨hfound, hstacks⟩ := htrained
  have hsig := endOwed_signals (modCtl f v)
  have hstk : ∀ j, stkAt (endOwed (modCtl f v)) j = stkAt v j := stkAt_of_stk hsig.stk
  refine ⟨hsig.now.trans hnow, ?_, hsig.cores.trans hcores, fun e he => ?_, fun st hst => ?_⟩
  · rw [hsig.ctl, ← hctl]
    rfl
  · rw [hstk]
    exact hfound e he
  · rw [hstk]
    exact hstacks st hst

theorem warpEnd_work {katFail : List Nat} {s : Mach} : (warpEnd katFail s).now = s.now ∧ (warpEnd katFail s).ctl = s.ctl ∧
    (warpEnd katFail s).cores = [] := by
  obtain ⟨⟨hnow, hctl, -, hcores⟩, -, -⟩ := warpEnd_coresReset katFail s
  exact ⟨hnow, hctl, hcores⟩

theorem rimResetDone_ends {bad : List (Nat × Nat)} {katFail : List Nat} {s : Mach} (hbad : ∀ e ∈ bad, e.2 < 20)
    (hscope : s.ctl.scope = 2) (hepoch : epochPending s = false) :
    (rimResetDone bad katFail s).now = s.now ∧
    (rimResetDone bad katFail s).ctl = resetOver { s.ctl with rimCnt := satInc s.ctl.rimCnt } ∧
    (rimResetDone bad katFail s).cores = [] ∧ StacksTrained bad (rimResetDone bad katFail s) := by
  have hgo : ¬(s.ctl.scope ≠ 2 ∨ epochPending s = true) := by
    rw [hepoch]
    rintro (h | h)
    · exact h hscope
    · exact Bool.false_ne_true h
  have hdone : rimResetDone bad katFail s =
      endOwed (modCtl (fun c => { c with rimCnt := satInc c.rimCnt }) (trainAll bad (warpEnd katFail s))) := if_neg hgo
  obtain ⟨hnow, hctl, hcores⟩ := warpEnd_work (katFail := katFail) (s := s)
  rw [hdone]
  generalize warpEnd katFail s = u at hnow hctl hcores
  obtain ⟨hwork, htrained⟩ := trainAll_trains hbad u
  obtain ⟨tnow, tctl, tcores, tstacks⟩ := endOwed_trained (f := fun c => { c with rimCnt := satInc c.rimCnt }) hwork htrained
  rw [hnow] at tnow
  rw [hctl] at tctl
  rw [hcores] at tcores
  exact ⟨tnow, tctl, tcores, tstacks⟩

theorem run_rimResetDone {bad : List (Nat × Nat)} {katFail : List Nat} {s : State} (hbad : ∀ e ∈ bad, e.2 < 20)
    (hscope : s.m.ctl.scope = 2) (hepoch : epochPending s.m = false) : ∃ t, run (rimResetDone bad katFail) s = .next t ∧
      t.pending = s.pending ∧ t.m.ctl = resetOver { s.m.ctl with rimCnt := satInc s.m.ctl.rimCnt } ∧ t.m.cores = [] ∧
      StacksTrained bad t.m := by
  obtain ⟨hnow, hctl, hcores, htrained⟩ := rimResetDone_ends (katFail := katFail) hbad hscope hepoch
  obtain ⟨hrun, hpending, hm⟩ := runs_to (s := s) (f := rimResetDone bad katFail) hnow
  refine ⟨_, hrun, hpending, ?_⟩
  rw [hm]
  exact ⟨hctl, hcores, htrained⟩

/-! ### A core is marked dead (R27, R28, R449) -/

/-- The processor of a dead core is done. -/
def endedAt (now : Nat) (c : Core) : Core :=
  { c with p := { c.p with done := true, doneAt := if c.p.done then c.p.doneAt else now, signalled := c.p.signalled || false
                           mode := .idle, inexc := false, halted := c.p.halted || c.p.uPending } }

/-- The engines of a dead core are stopped, and no write of its scratchpad waits. -/
def coreSilenced (c : Core) : Core :=
  { stopEngine 0 (stopEngine 1 (stopEngine 2 (stopEngine 3 c))) with dma := [], rt := { c.rt with wait := [] } }

theorem setBits_all (x : BitVec 4) : setBit (setBit (setBit (setBit x 3) 2) 1) 0 = 0xF := by
  revert x
  decide

theorem coreSilenced_stopped (c : Core) : (coreSilenced c).stopped = 0xF := setBits_all c.stopped

/-- The dead core and its die, before the event. -/
def deadMarked (k : Nat) (s : Mach) : Mach := endProgram false k (modCore k coreSilenced (markDead k s))

theorem deadMarked_core (k : Nat) (s : Mach) : coreAt (deadMarked k s) k = endedAt s.now (coreSilenced (coreAt s k)) := by
  unfold deadMarked endProgram
  rw [coreAt_modCore, coreAt_modCore]
  rfl

theorem deadMarked_dies (k : Nat) (s : Mach) : (deadMarked k s).dies = (markDead k s).dies := rfl

/-- The dead set of a die with one core more. -/
def withDead (pc : Nat) (d : Die) : Die := { d with dead := setBit d.dead pc }

theorem deadMarked_die (k : Nat) (s : Mach) : dieAt (deadMarked k s) (dieOf k) = withDead (pcOf k) (dieAt s (dieOf k)) :=
  (dieAt_of_dies (deadMarked_dies k s) _).trans (dieAt_modDie _ _ s)

theorem deadMarked_die_other {k d : Nat} (s : Mach) (h : d ≠ dieOf k) : dieAt (deadMarked k s) d = dieAt s d :=
  (dieAt_of_dies (deadMarked_dies k s) _).trans (dieAt_modDie_other _ s h)

theorem deadMarked_other {k j : Nat} (s : Mach) (h : j ≠ k) : coreAt (deadMarked k s) j = coreAt s j := by
  unfold deadMarked endProgram
  rw [coreAt_modCore_other _ _ h, coreAt_modCore_other _ _ h]
  rfl

/-- What the event of a dead core adds to its die. -/
def bufferEvent (e : Event) (d : Die) : Die := { d with stw := { d.stw with evBuf := d.stw.evBuf ++ [e] } }

theorem logDie_room {die cls scope flags unit loc : Nat} {det : List Byte} {s : Mach} (h : (dieAt s die).stw.evBuf.length < 64) :
    logDie die cls scope flags unit loc det s = modDie die (bufferEvent (mkEvent s cls scope flags die unit loc det)) s := by
  unfold logDie
  dsimp only
  refine modDie_congr ?_
  rw [if_pos h]
  rfl

/-- The core, its die and its event. -/
theorem coreMarkedDead_marks {k : Nat} {s : Mach} (halive : dead s k = false) (hon : (dpwAt s (dieOf k)).on = true)
    (hroom : (dieAt s (dieOf k)).stw.evBuf.length < 64) : ∃ e, DeadEvent e (pcOf k) (jobRuns s) ∧
      coreMarkedDead k s = (if jobRuns s then uncorrected 0x20 else id) (modDie (dieOf k) (bufferEvent e) (deadMarked k s)) := by
  have hroom' : (dieAt (deadMarked k s) (dieOf k)).stw.evBuf.length < 64 := by
    rw [deadMarked_die]
    exact hroom
  refine ⟨mkEvent (deadMarked k s) 0x20 3 (if jobRuns s then 1 else 0) (dieOf k) (pcOf k) 0 (coreFaultDetail s k), ⟨rfl, rfl, ?_, rfl⟩, ?_⟩
  · cases jobRuns s <;> rfl
  · have hstop : (dead s k || !(dpwAt s (dieOf k)).on) = false := by
      rw [halive, hon]
      rfl
    have hlog := logDie_room (cls := 0x20) (scope := 3) (flags := if jobRuns s then 1 else 0) (unit := pcOf k) (loc := 0)
      (det := coreFaultDetail s k) hroom'
    have hmark : coreMarkedDead k s = if jobRuns s then uncorrected 0x20 (logDie (dieOf k) 0x20 3 (if jobRuns s then 1 else 0) (pcOf k) 0
        (coreFaultDetail s k) (deadMarked k s)) else logDie (dieOf k) 0x20 3 (if jobRuns s then 1 else 0) (pcOf k) 0
        (coreFaultDetail s k) (deadMarked k s) := by
      unfold coreMarkedDead
      rw [hstop, if_neg Bool.false_ne_true]
      rfl
    rw [hmark, hlog]
    cases jobRuns s <;> rfl

theorem uncorrectedIf_frame (job : Bool) (cls : Nat) (s : Mach) :
    ((if job then uncorrected cls else id) s).now = s.now ∧ ((if job then uncorrected cls else id) s).cores = s.cores ∧
    ((if job then uncorrected cls else id) s).dies = s.dies ∧ ((if job then uncorrected cls else id) s).keep.faulted = (s.keep.faulted || job) := by
  cases job with
  | false => exact ⟨rfl, rfl, rfl, (Bool.or_false _).symm⟩
  | true =>
    have hsig := uncorrected_signals cls s
    refine ⟨hsig.now, hsig.cores, hsig.dies, ?_⟩
    rw [Bool.or_true]
    refine (congrArg Keep.faulted hsig.keep).trans ?_
    unfold faultKept
    rw [modKeep_own]
    split <;> rfl

theorem aDeadCoreIsSetAside : ADeadCoreIsSetAside := by
  intro s k halive hon hroom
  obtain ⟨e, hevent, hmarks⟩ := coreMarkedDead_marks halive hon hroom
  obtain ⟨hnow, hcores, hdies, hfaulted⟩ := uncorrectedIf_frame (jobRuns s.m) 0x20 (modDie (dieOf k.key) (bufferEvent e) (deadMarked k.key s.m))
  rw [← hmarks] at hnow hcores hdies hfaulted
  obtain ⟨hrun, hpending, hm⟩ := runs_to (s := s) (f := coreMarkedDead k.key) (hnow.trans rfl)
  have hcore : ∀ j, coreAt (coreMarkedDead k.key s.m) j = coreAt (deadMarked k.key s.m) j := fun j => coreAt_of_cores hcores j
  have hown : dieAt (coreMarkedDead k.key s.m) (dieOf k.key) =
      bufferEvent e (withDead (pcOf k.key) (dieAt s.m (dieOf k.key))) := by
    rw [dieAt_of_dies hdies, dieAt_modDie, deadMarked_die]
  have hother : ∀ d, d ≠ dieOf k.key → dieAt (coreMarkedDead k.key s.m) d = dieAt s.m d := fun d hd => by
    rw [dieAt_of_dies hdies, dieAt_modDie_other _ _ hd, deadMarked_die_other _ hd]
  refine ⟨_, hrun, hpending, ?_⟩
  rw [hm, hown, hcore, deadMarked_core]
  refine ⟨bit_setBit_same _ (Nat.mod_lt _ (by decide)), rfl, rfl, coreSilenced_stopped _, rfl, rfl, ⟨e, rfl, hevent⟩, hfaulted, hother,
    fun j hj => ?_⟩
  rw [hcore, deadMarked_other _ hj]

/-! ### Resets of each scope -/

theorem agentCause_warp {a : ResetAgent} {c : BitVec 4} (h : (a, c) ∈ [(ResetAgent.host, (1 : BitVec 4)), (.restartPath, 4), (.decnus, 6)]) :
    agentCause 1 a = some c := by
  simp only [List.mem_cons, Prod.mk.injEq, List.not_mem_nil, or_false] at h
  rcases h with ⟨rfl, rfl⟩ | ⟨rfl, rfl⟩ | ⟨rfl, rfl⟩ <;> rfl

theorem agentCause_rim {a : ResetAgent} {c : BitVec 4} (h : (a, c) ∈ [(ResetAgent.host, (1 : BitVec 4)), (.decnus, 7)]) :
    agentCause 2 a = some c := by
  simp only [List.mem_cons, Prod.mk.injEq, List.not_mem_nil, or_false] at h
  rcases h with ⟨rfl, rfl⟩ | ⟨rfl, rfl⟩ <;> rfl

theorem resetsOfEachScope : ResetsOfEachScope := by
  refine ⟨?_, ?_, ?_, ?_, ?_, ?_, ?_, ?_⟩
  · intro s a c hlink ⟨hready, hpend⟩ hscope hcause
    have hreq := agentRequest_reaches (agentCause_warp hcause) hlink hpend
    have hbegun := requestReset_warp (cause := c) (owed := none) hready hpend hscope
    rw [modCtl_owed_none] at hbegun
    obtain ⟨hnow, hctl, hstart, hedge, hports, hcur, hcores⟩ := hbegun
    obtain ⟨hrun, hpending, hm⟩ := runs_to (s := s) (f := agentRequest 1 a) (by rw [hreq, hnow])
    refine ⟨_, hrun, hpending, ?_⟩
    rw [hm, hreq]
    exact ⟨hctl, hcur, hcores, hedge, hports, hstart⟩
  · intro s hlink ⟨hready, hpend⟩ hscope
    have hreq := agentRequest_reaches (scope := 1) (a := .host) rfl (fun _ => hlink) hpend
    have habsorb : absorbs 1 s.m = true := by
      have hpos : 0 < s.m.ctl.scope.toNat := Nat.pos_of_ne_zero fun h => hscope (BitVec.eq_of_toNat_eq h)
      rw [absorbs, if_neg (by decide), resetRuns_inService hready hpend, decide_eq_true_eq]
      omega
    obtain ⟨l, e⟩ := requestReset_absorbed (cause := 1) hlink.1 habsorb
    obtain ⟨hrun, hpending, hm⟩ := runs_to (s := s) (f := agentRequest 1 .host) (by rw [hreq, e])
    refine ⟨_, hrun, hpending, ?_⟩
    rw [hm, hreq, e]
  · intro s a c hlink ⟨hready, hpend⟩ hscope hcause
    have hreq := agentRequest_reaches (agentCause_rim hcause) hlink hpend
    have hbegun := requestReset_rim (cause := c) (owed := none) hready hpend hscope
    rw [modCtl_owed_none] at hbegun
    obtain ⟨hnow, hctl, hstart, hmem, hports, hptn, hwin⟩ := hbegun
    obtain ⟨hrun, hpending, hm⟩ := runs_to (s := s) (f := agentRequest 2 a) (by rw [hreq, hnow])
    refine ⟨_, hrun, hpending, ?_⟩
    rw [hm, hreq]
    exact ⟨hctl, hmem, hports, hptn, hwin, hstart⟩
  · intro s hlink ⟨hready, hpend⟩
    have hreq := agentRequest_reaches (scope := 3) (a := .host) rfl (fun _ => hlink) hpend
    obtain ⟨hnow, hctl, hfinal, hcores, hedge, hfree⟩ := requestReset_accepted (cause := 1) hlink.1 hpend
    obtain ⟨hrun, hpending, hm⟩ := runs_to (s := s) (f := agentRequest 3 .host) (by rw [hreq, hnow])
    refine ⟨_, hrun, hpending, ?_⟩
    rw [hm, hreq]
    exact ⟨hctl, hfinal, hcores, hedge, hfree⟩
  · intro s a ha
    refine run_unchanged ?_
    cases a with
    | host => exact absurd rfl ha
    | restartPath => rfl
    | decnus => rfl
  · intro s hservice
    obtain ⟨hnow, hctl, hexp, hdown, hprot, hwait, hrings⟩ := watchdogExpiry_restarts hservice
    obtain ⟨hrun, hpending, hm⟩ := runs_to (s := s) (f := watchdogExpiry) hnow
    refine ⟨_, hrun, hpending, ?_⟩
    rw [hm]
    exact ⟨hctl, hexp, hdown, hprot, hwait, hrings⟩
  · intro s ks hscope
    obtain ⟨hnow, hctl, hcores, hedge, hdead⟩ := warpResetDone_ends (katFail := ks.map CoreId.key) hscope
    obtain ⟨hrun, hpending, hm⟩ := runs_to (s := s) (f := warpResetDone (ks.map CoreId.key)) hnow
    have hreset : ∀ k, coreAt (warpResetDone (ks.map CoreId.key) s.m) k = Core.reset := fun k => congrArg (tget Core.reset · k) hcores
    refine ⟨_, hrun, hpending, ?_⟩
    rw [hm]
    refine ⟨hctl, fun k a => ?_, hedge, hdead⟩
    rw [hreset]
    exact ⟨rfl, rfl, rfl⟩
  · intro s bad ks hscope hepoch
    have hbad : ∀ e ∈ bad.map (fun e => (e.1.val, e.2.val)), e.2 < 20 := by
      intro e he
      obtain ⟨x, -, rfl⟩ := List.mem_map.1 he
      exact x.2.isLt
    obtain ⟨t, hrun, hpending, hctl, hcores, hfound, htrained⟩ := run_rimResetDone (katFail := ks.map CoreId.key) hbad hscope hepoch
    refine ⟨t, hrun, hpending, hctl, hcores, fun e he => hfound (e.1.val, e.2.val) (List.mem_map.2 ⟨e, he, rfl⟩), fun st hst => ?_⟩
    obtain ⟨hself, htrain⟩ := htrained st hst
    refine ⟨hself, fun hnone => htrain fun e he => ?_⟩
    obtain ⟨x, hx, rfl⟩ := List.mem_map.1 he
    exact hnone x hx


/-- Settles O48: each agent's request begins its reset, each reset ends as its scope says, and a dead core is set aside. -/
theorem resetsAndDeadCores : Obligations.ResetsAndDeadCores := ⟨resetsOfEachScope, aDeadCoreIsSetAside⟩

end Sys2Proof.Spec
end

section
/-! PROOFS. A cold start chooses its image (R503 to R518, R523). -/

namespace Sys2Proof.Spec

open Sys2Proof.Machine

/-! ### Records that only wait (R540) -/

/-- Records are queued, and nothing else happens; the flash holds what it held. -/
def Recordings (s t : Mach) : Prop := ∃ l, t = { s with led := l } ∧ l.flash = s.led.flash

namespace Recordings

theorem refl (s : Mach) : Recordings s s := ⟨s.led, rfl, rfl⟩

theorem trans {s t u : Mach} (h : Recordings s t) (h' : Recordings t u) : Recordings s u := by
  obtain ⟨_, rfl, hf⟩ := h
  obtain ⟨_, rfl, hf'⟩ := h'
  exact ⟨_, rfl, hf'.trans hf⟩

theorem queued (e : Event) (s : Mach) : Recordings s (modLed (queueEvent e) s) := by
  refine ⟨_, rfl, ?_⟩
  rcases queueEvent_cases e s.led with ⟨-, -, h⟩ | ⟨-, -, h⟩ | ⟨-, -, h⟩ | ⟨-, -, h⟩
  · rw [h]
  · rw [h]
  · rw [h]
  · rw [h]
    rfl

theorem foldl {α : Type} {f : Mach → α → Mach} (hf : ∀ s a, Recordings s (f s a)) (l : List α) (s : Mach) : Recordings s (l.foldl f s) :=
  foldl_related refl trans hf l s

end Recordings

/-! ### What a cold start begins with (R29, R503) -/

theorem finishSeqs_idle {s : Mach} (h : s.pwr.running = []) :
    ∃ p n hst o, finishSeqs s = { s with pwr := p, notes := n, host := hst, out := o } ∧ p.running = [] := by
  unfold finishSeqs
  rw [h]
  split
  · next e _ =>
    unfold recalibrate
    dsimp only [List.foldl_nil]
    split
    · obtain ⟨n, hst, o, hs⟩ := pwrEvt_signals 11 (modPwr (fun p => { p with
        coul := e, model := e, fullcap := e, weak := decide (e.toNat < 3000), recal := none, diffOpen := false }) s)
      refine ⟨_, n, hst, o, hs, h⟩
    · exact ⟨_, s.notes, s.host, s.out, rfl, h⟩
  · exact ⟨s.pwr, s.notes, s.host, s.out, rfl, h⟩

theorem scanLedger_idle {s : Mach} (h : s.pwr.running = []) : (scanLedger s).flash = s.led.flash := by
  have hnone : finishing s = none := by
    rw [finishing, h]
    rfl
  unfold scanLedger
  rw [hnone]

theorem retrained_rings (s : Mach) : (retrained s).rings = [] := by
  unfold retrained
  dsimp only
  split
  · rfl
  · split <;> rfl

/-- The start block of a module whose input power comes on: what no reset touches is kept (R29). -/
def coldBlock (now : Nat) (epoch : Word) (x : Start) : Start :=
  { Start.reset with
    attempt0 := 0, attempt1 := 0, t0 := now, epoch0 := epoch, serial := x.serial, fused := x.fused, revoked := x.revoked,
    programmed := x.programmed, ikey := x.ikey, knownGood := x.knownGood, slot0 := x.slot0, slot1 := x.slot1, lic0 := x.lic0, lic1 := x.lic1 }

/-- What a cold start begins with. -/
def ColdBegun (s t : Mach) : Prop :=
  t.now = s.now ∧ t.cores = [] ∧ t.edge.mem = [] ∧ t.host.rings = [] ∧ t.led.flash = (scanLedger s).flash ∧ t.pwr.full = false ∧
    ∃ now epoch, t.start = coldBlock now epoch s.start

theorem restartMach_cold {s u : Mach} (hnow : u.now = s.now) (hrun : u.pwr.running = []) (hled : u.led = s.led)
    (hstart : u.start = s.start) (hs : s.pwr.running = []) : ColdBegun s (restartMach true u) := by
  obtain ⟨p, n, hst, o, e, hp⟩ := finishSeqs_idle hrun
  have hflash : (scanLedger (finishSeqs u)).flash = (scanLedger s).flash := by
    rw [scanLedger_idle hs, scanLedger_idle (by rw [e]; exact hp), e]
    exact congrArg Ledger.flash hled
  have hblock : (finishSeqs u).start = s.start := by
    rw [e]
    exact hstart
  refine ⟨?_, rfl, rfl, retrained_rings _, hflash, rfl, (finishSeqs u).now, ledgerEpoch (scanLedger (finishSeqs u)), ?_⟩
  · have htime : (finishSeqs u).now = u.now := by rw [e]
    exact htime.trans hnow
  · rw [← hblock]
    rfl

theorem ColdBegun.recorded {s t u : Mach} (h : ColdBegun s t) (h' : Recordings t u) : ColdBegun s u := by
  obtain ⟨l, rfl, hl⟩ := h'
  obtain ⟨hnow, hcores, hmem, hrings, hflash, hfull, hstart⟩ := h
  exact ⟨hnow, hcores, hmem, hrings, hl.trans hflash, hfull, hstart⟩

theorem ColdBegun.counted {s t : Mach} (h : ColdBegun s t) (f : Control → Control) : ColdBegun s (modCtl f t) := h

/-- The image is chosen from what a cold start keeps. -/
theorem chooseImage_cold (now : Nat) (epoch : Word) (x : Start) :
    chooseImage (coldBlock now epoch x) = chooseImage { x with attempt0 := 0, attempt1 := 0 } := rfl

/-- The state in which a cold start chooses its image. -/
def coldRecorded (s : Mach) : Mach :=
  resetEvent 0 0 false 0 (abandonActivities s.mnt.acts (modCtl (fun c => { c with lastCause := 0, lastScope := 0 }) (restartMach true s)))

theorem coldRecorded_begun {s u : Mach} (hnow : u.now = s.now) (hrun : u.pwr.running = []) (hled : u.led = s.led)
    (hstart : u.start = s.start) (hs : s.pwr.running = []) : ColdBegun s (coldRecorded u) ∧
      (coldRecorded u).ctl.lastScope = 0 ∧ (coldRecorded u).ctl.lastCause = 0 := by
  have hbegun := (restartMach_cold hnow hrun hled hstart hs).counted (fun c => { c with lastCause := 0, lastScope := 0 })
  unfold coldRecorded
  generalize hv : modCtl (fun c => { c with lastCause := 0, lastScope := 0 }) (restartMach true u) = v at hbegun
  have hctl : v.ctl.lastScope = 0 ∧ v.ctl.lastCause = 0 := by
    rw [← hv]
    exact ⟨rfl, rfl⟩
  have hrecorded : Recordings v (resetEvent 0 0 false 0 (abandonActivities u.mnt.acts v)) :=
    (Recordings.foldl (f := fun s (a : Activity) => activityRecord a s) (fun s a => .queued _ s) _ v).trans (.queued _ _)
  refine ⟨hbegun.recorded hrecorded, ?_⟩
  obtain ⟨l, e, -⟩ := hrecorded
  rw [e]
  exact hctl

/-- The module as its input power comes on. -/
def powered (s : Mach) : Mach := clockStart (modPwr (fun p => { p with vaux := true, inloss := false }) s)

theorem powered_frame (s : Mach) : ∃ c, powered s = { s with cal := c, pwr := { s.pwr with vaux := true, inloss := false } } := by
  unfold powered clockStart
  split
  · exact ⟨_, rfl⟩
  · exact ⟨s.cal, rfl⟩

theorem coldStart_begun {s : Mach} (hstate : s.start.state = 0) (hrun : s.pwr.running = []) :
    ColdBegun s (coldRecorded (powered s)) ∧ (coldRecorded (powered s)).ctl.lastScope = 0 ∧ (coldRecorded (powered s)).ctl.lastCause = 0 ∧
      coldStart s = beginStart true 0 true (powered s) := by
  have hbegin : coldStart s = beginStart true 0 true (powered s) := if_neg (not_not.2 hstate)
  obtain ⟨c, e⟩ := powered_frame s
  obtain ⟨hbegun, hctl⟩ := coldRecorded_begun (s := s) (u := powered s) (by rw [e]) (by rw [e]; exact hrun) (by rw [e]) (by rw [e]) hrun
  exact ⟨hbegun, hctl.1, hctl.2, hbegin⟩

/-! ### The image in use (R515 to R520) -/

/-- The image that a start uses from now on. -/
def coldImage (slot : Bool) (u : Upsett) (key : Nat) (s : Mach) : Mach :=
  modStart (fun x => { x with state := 2 }) (modLed (fun l => { l with repair := readRepair l }) (useLicences (useImage slot u key s)))

theorem beginStart_cold (s : Mach) : beginStart true 0 true s =
    match chooseImage (coldRecorded s).start with
    | none => startFail 1 8 (coldRecorded s)
    | some (slot, u, key) =>
      if (coldImage slot u key (coldRecorded s)).pwr.full then raiseEpoch (coldImage slot u key (coldRecorded s))
      else coldImage slot u key (coldRecorded s) := by
  unfold beginStart
  dsimp only
  simp only [if_true]
  have hrecorded : resetEvent 0 0 false 0
      (abandonActivities s.mnt.acts (modCtl (fun c => { c with lastCause := 0, lastScope := 0 })
        (restartMach true s))) = coldRecorded s := rfl
  rw [hrecorded]
  generalize coldRecorded s = v
  cases chooseImage v.start with
  | none => rfl
  | some x =>
    obtain ⟨slot, u, key⟩ := x
    have himage : modStart (fun x => { x with state := 2 }) (modLed (fun l => { l with repair := readRepair l })
      (useLicences (useImage slot u key v))) = coldImage slot u key v := rfl
    dsimp only
    rw [himage, Bool.true_and]
    cases (coldImage slot u key v).pwr.full <;> rfl

theorem ColdBegun.imaged {s t : Mach} (h : ColdBegun s t) (slot : Bool) (u : Upsett) (key : Nat) :
    ∃ l x, coldImage slot u key t = { t with led := l, start := x } ∧ l.flash = (scanLedger s).flash ∧ x.state = 2 ∧ x.slot = slot ∧
      x.seq = BitVec.ofNat 64 (upSeq u) ∧ x.svn = BitVec.ofNat 8 (upSvn u) ∧ x.signer = BitVec.ofNat 2 key ∧ x.locked = false ∧
      x.patchSlots = ((ownPatches u).map patchEntries).getD [] ∧ x.patchCode = ((ownPatches u).map patchText).getD [] := by
  obtain ⟨-, -, -, -, hflash, -, now, epoch, hstart⟩ := h
  have hlic : ∀ m : Mach, ∃ f v l, useLicences m = { m with led := l, start := { m.start with features := storedFeatures m.start, licInvalid := f, licValid := v } } ∧
      l.flash = m.led.flash := by
    intro m
    unfold useLicences
    dsimp only
    obtain ⟨l, e, hl⟩ := Recordings.foldl (f := fun s l => licRecord l 2 s) (fun s l => .queued _ s)
      ((storedLicences m.start).filter (fun l => !licenceValid m.start l)) (modStart (fun x =>
        { x with
          features := storedFeatures x
          licInvalid := BitVec.ofNat 8 (min 255 ((storedLicences m.start).filter (fun l => !licenceValid m.start l)).length)
          licValid := BitVec.ofNat 8 (min 255 (validLicences x).length) }) m)
    exact ⟨_, _, l, e, hl⟩
  obtain ⟨f, v, l, e, hl⟩ := hlic (useImage slot u key t)
  unfold coldImage
  rw [e]
  refine ⟨_, _, rfl, hl.trans hflash, rfl, rfl, rfl, rfl, rfl, ?_, rfl, rfl⟩
  exact (congrArg Start.locked hstart).trans rfl

/-- Settles O49: a cold start chooses from what a start keeps, and its recordings leave the rest as it was. -/
theorem aColdStartChoosesItsImage : Obligations.AColdStartChoosesItsImage := by
  refine ⟨?_, ?_, ?_⟩
  · intro s slot u key hstate hrun hchoose
    obtain ⟨hbegun, hscope, hcause, hcold⟩ := coldStart_begun hstate hrun
    rw [beginStart_cold] at hcold
    obtain ⟨l, x, himage, hflash, himageState⟩ := hbegun.imaged slot u key
    obtain ⟨hnow, hcores, hmem, hrings, -, hfull, now, epoch, hstart⟩ := hbegun
    rw [hstart, chooseImage_cold, hchoose] at hcold
    dsimp only at hcold
    generalize coldRecorded (powered s.m) = v at *
    rw [himage, if_neg (by rw [hfull]; exact Bool.false_ne_true)] at hcold
    obtain ⟨hrunTo, hpending, hm⟩ := runs_to (s := s) (f := coldStart) (by rw [hcold]; exact hnow)
    obtain ⟨hst, hslot, hseq, hsvn, hsigner, hlocked, hpatch, hcode⟩ := himageState
    refine ⟨_, hrunTo, hpending, ?_⟩
    rw [hm, hcold]
    exact ⟨hst, hslot, hseq, hsvn, hsigner, hlocked, hscope, hcause, hcores, hmem, hrings, hflash, hpatch, hcode⟩
  · intro s hstate hrun hchoose
    obtain ⟨hbegun, -, -, hcold⟩ := coldStart_begun hstate hrun
    rw [beginStart_cold] at hcold
    obtain ⟨hnow, -, -, -, -, -, now, epoch, hstart⟩ := hbegun
    rw [hstart, chooseImage_cold, hchoose] at hcold
    dsimp only at hcold
    generalize coldRecorded (powered s.m) = v at *
    have hlog : Logged (modStart (fun x => { x with fail := BitVec.ofNat 8 1, state := 8 }) v) (startFail 1 8 v) :=
      (logModule_logged _ _ _ _).trans (raiseIrq_signals 1 _).logged
    have hfail : (startFail 1 8 v).now = s.m.now := hlog.now.trans hnow
    obtain ⟨hrunTo, hpending, hm⟩ := runs_to (s := s) (f := coldStart) (by rw [hcold, hfail])
    refine ⟨_, hrunTo, hpending, ?_⟩
    rw [hm, hcold, hlog.start]
    exact ⟨rfl, rfl⟩
  · intro s hstate hburn hcool
    have hdown : startCoolantTimeout s.m = beginDown .stay (startFail 4 9 s.m) := if_pos ⟨hstate, hburn, by rw [hcool]; rfl⟩
    have hlog : Logged (modStart (fun x => { x with fail := BitVec.ofNat 8 4, state := 9 }) s.m) (startFail 4 9 s.m) :=
      (logModule_logged _ _ _ _).trans (raiseIrq_signals 1 _).logged
    have hvmin := (logVmin_ordinary (startFail 4 9 s.m)).1
    have hbegin : beginDown .stay (startFail 4 9 s.m) =
        modPwr (fun p => { p with up := none, burn := none, down := some (0, .stay) }) (logVmin (startFail 4 9 s.m)) := rfl
    rw [hbegin] at hdown
    generalize logVmin (startFail 4 9 s.m) = v at hvmin hdown
    have hnow : v.now = s.m.now := hvmin.now.trans hlog.now
    have hstart : v.start = { s.m.start with fail := BitVec.ofNat 8 4, state := 9 } := hvmin.start.trans hlog.start
    obtain ⟨hrunTo, hpending, hm⟩ := runs_to (s := s) (f := startCoolantTimeout) (by rw [hdown]; exact hnow)
    refine ⟨_, hrunTo, hpending, ?_⟩
    rw [hm, hdown]
    exact ⟨congrArg Start.state hstart, congrArg Start.fail hstart, rfl, rfl⟩

end Sys2Proof.Spec
end

section
/-! PROOFS. The power sequence, the power-down and the burn pattern (R469 to R471, R483, R484, R503). -/

namespace Sys2Proof.Spec

open Sys2Proof.Machine

/-! ### Commands in which time passes -/

/-- Beside what a command leaves, at most a new reference cycle has begun. -/
theorem after_m_notes (f : Mach → Mach) (s : State) : ∃ n, (after f s).m = { f s.m with notes := n } := by
  unfold after State.to
  split
  · exact ⟨(f s.m).notes, rfl⟩
  · exact ⟨_, rfl⟩

/-- What holds of a module whatever it raised in the current cycle. -/
theorem run_notes {f : Mach → Mach} {s : State} {P : Mach → Prop} (hP : ∀ n, P { f s.m with notes := n }) :
    ∃ t, run f s = .next t ∧ t.pending = s.pending ∧ P t.m := by
  obtain ⟨n, e⟩ := after_m_notes f s
  exact ⟨after f s, rfl, after_pending f s, e ▸ hP n⟩

/-! ### The power sequence (R469, R470) -/

/-- What a step of the sequence does where no ramp fails. -/
def rampStepDone (n : Nat) (s : Mach) : Mach :=
  if n = 2 then modPwr (fun p => { p with rimOn := true }) s
  else if 7 ≤ n ∧ n % 3 = 0 ∧ n < 61 then dieGroupOn ((n - 7) / 3) s else s

theorem powerSequenceStep_ramps {n : Nat} {s : Mach} (hup : s.pwr.up = some n) (hn : n < 61) (dies : List (Nat × Nat)) :
    powerSequenceStep [] dies s =
      { modPwr (fun p => { p with up := some (n + 1) }) (rampStepDone n s) with now := (rampStepDone n s).now + rampTime n } := by
  unfold powerSequenceStep
  rw [hup]
  dsimp only [List.filter_nil]
  rw [if_neg (fun h => h.2 rfl), List.foldl_nil]
  exact if_pos hn

/-- A die of the group ramps. -/
def rampDie (k i : Nat) (s : Mach) : Mach :=
  if s.pwr.dieFail.contains (8 * k + i) then s
  else modDpw (8 * k + i) (fun x => { x with
    on := true, vlog := atRest s.now s.start.vlogStart, varr := atRest s.now s.start.varrStart }) s

theorem dieGroupOn_eq (k : Nat) (s : Mach) : dieGroupOn k s = iter 8 (rampDie k) s := rfl

theorem rampDies_on {k : Nat} {s : Mach} (hnone : s.pwr.dieFail = []) : ∀ n,
    (iter n (rampDie k) s).pwr = s.pwr ∧ ∀ i, i < n → (dpwAt (iter n (rampDie k) s) (8 * k + i)).on = true
  | 0 => ⟨rfl, fun i h => absurd h (Nat.not_lt_zero i)⟩
  | n + 1 => by
    obtain ⟨hpwr, hon⟩ := rampDies_on (k := k) hnone n
    have hcontains : ((iter n (rampDie k) s).pwr.dieFail.contains (8 * k + n)) = false := by
      rw [hpwr, hnone]
      rfl
    rw [iter_succ, rampDie, hcontains, if_neg Bool.false_ne_true]
    refine ⟨hpwr, fun i hi => ?_⟩
    by_cases h : i = n
    · subst h
      rw [dpwAt_modDpw]
    · rw [dpwAt_modDpw_other _ _ (by omega)]
      exact hon i (by omega)

theorem powerSequenceStep_group {n : Nat} {s : Mach} (hup : s.pwr.up = some n) (h7 : 7 ≤ n) (hn : n < 61) (h3 : n % 3 = 0)
    (hnone : s.pwr.dieFail = []) (dies : List (Nat × Nat)) : (powerSequenceStep [] dies s).pwr.up = some (n + 1) ∧
      ∀ i, i < 8 → (dpwAt (powerSequenceStep [] dies s) (8 * ((n - 7) / 3) + i)).on = true := by
  have hstep : rampStepDone n s = iter 8 (rampDie ((n - 7) / 3)) s := by
    rw [rampStepDone, if_neg (by omega), if_pos ⟨h7, h3, hn⟩, dieGroupOn_eq]
  obtain ⟨-, hon⟩ := rampDies_on (k := (n - 7) / 3) (s := s) hnone 8
  rw [powerSequenceStep_ramps hup hn, hstep]
  generalize iter 8 (rampDie ((n - 7) / 3)) s = u at hon
  exact ⟨rfl, hon⟩

theorem startNote_logged (s : Mach) : Logged s (startNote s) := logModule_logged _ _ _ s

theorem startNotes_logged (n : Nat) (s : Mach) : Logged s (iter n (fun _ s => startNote s) s) :=
  iter_related .refl .trans (fun _ s => startNote_logged s) n s

/-- The rails are up: the burn pattern waits for the coolant. -/
def rampsOver (s : Mach) : Mach :=
  modStart (fun x => { x with state := 5 }) (modPwr (fun p => { p with up := none, burn := some 0 }) s)

theorem powerSequenceStep_over {s : Mach} (hup : s.pwr.up = some 61) (dies : List (Nat × Nat)) :
    powerSequenceStep [] dies s = iter dies.length (fun _ s => startNote s) (trainAll dies (rampsOver s)) := by
  unfold powerSequenceStep
  rw [hup]
  dsimp only [List.filter_nil]
  rw [if_neg (fun h => h.2 rfl), List.foldl_nil]
  exact if_neg (Nat.lt_irrefl 61)

theorem powerSequenceStep_trains {s : Mach} (hup : s.pwr.up = some 61) {dies : List (Nat × Nat)} (hdies : ∀ e ∈ dies, e.2 < 20) :
    (powerSequenceStep [] dies s).now = s.now ∧ (powerSequenceStep [] dies s).start.state = 5 ∧
    (powerSequenceStep [] dies s).pwr.up = none ∧ (powerSequenceStep [] dies s).pwr.burn = some 0 ∧
    StacksTrained dies (powerSequenceStep [] dies s) := by
  obtain ⟨⟨hnow, -, -, hstart, hpwr⟩, hfound, htrained⟩ := trainAll_trains hdies (rampsOver s)
  rw [powerSequenceStep_over hup]
  generalize trainAll dies (rampsOver s) = u at *
  have hlog := startNotes_logged dies.length u
  have hstk := fun j => stkAt_of_stk hlog.stk j
  refine ⟨hlog.now.trans hnow, ?_, ?_, ?_, fun e he => ?_, fun st hst => ?_⟩
  · rw [hlog.start, hstart]
    rfl
  · rw [hlog.pwr, hpwr]
    rfl
  · rw [hlog.pwr, hpwr]
    rfl
  · rw [hstk]
    exact hfound e he
  · rw [hstk]
    exact htrained st hst

theorem run_powerSequenceOver {s : State} {dies : List (Nat × Nat)} (hup : s.m.pwr.up = some 61) (hdies : ∀ e ∈ dies, e.2 < 20) :
    ∃ t, run (powerSequenceStep [] dies) s = .next t ∧ t.pending = s.pending ∧ t.m.start.state = 5 ∧ t.m.pwr.up = none ∧
      t.m.pwr.burn = some 0 ∧ StacksTrained dies t.m := by
  obtain ⟨hnow, hstate, hupNone, hburn, htrained⟩ := powerSequenceStep_trains hup hdies
  obtain ⟨hrun, hpending, hm⟩ := runs_to (s := s) (f := powerSequenceStep [] dies) hnow
  refine ⟨_, hrun, hpending, ?_⟩
  rw [hm]
  exact ⟨hstate, hupNone, hburn, htrained⟩

/-- A rim domain whose ramp fails ends the start (R470). -/
def rampsFailed (n : Nat) (p : Power) : Power :=
  { p with up := none, seqFail := true, down := some (if n = 2 then 22 else if n = 1 then 23 else 24, .stay) }

theorem powerSequenceStep_fails {n : Nat} {s : Mach} {out : List DomInst} (hup : s.pwr.up = some n) (hn : n < 3)
    (hout : out.filter (rampsNow n) ≠ []) (dies : List (Nat × Nat)) :
    powerSequenceStep out dies s = startFail 2 9 (modPwr (rampsFailed n) s) := by
  unfold powerSequenceStep
  rw [hup]
  exact if_pos ⟨hn, hout⟩

theorem startFail_logged (code : Nat) (state : BitVec 4) (s : Mach) :
    Logged (modStart (fun x => { x with fail := BitVec.ofNat 8 code, state := state }) s) (startFail code state s) :=
  (logModule_logged _ _ _ _).trans (raiseIrq_signals 1 _).logged

/-! ### The power-down (R471) -/

/-- The dies of a group lose their power. -/
theorem diesOff_group (k : Nat) (hk : k ≤ 17) (s : Mach) : ∀ n, n ≤ 8 →
    (iter n (fun i s => dieOff (8 * k + i) s) s).now = s.now ∧ (iter n (fun i s => dieOff (8 * k + i) s) s).pwr = s.pwr ∧
    (∀ i, i < n → (dpwAt (iter n (fun i s => dieOff (8 * k + i) s) s) (8 * k + i)).on = false) ∧
    ∀ i, i < n → ∀ e ∈ (iter n (fun i s => dieOff (8 * k + i) s) s).cores, dieOf e.1 ≠ 8 * k + i
  | 0, _ => ⟨rfl, rfl, fun i h => absurd h (Nat.not_lt_zero i), fun i h => absurd h (Nat.not_lt_zero i)⟩
  | n + 1, hn => by
    obtain ⟨hnow, hpwr, hoff, hcores⟩ := diesOff_group k hk s n (by omega)
    rw [iter_succ]
    generalize iter n (fun i s => dieOff (8 * k + i) s) s = u at *
    obtain ⟨r, ds, w, f, e⟩ := dieOff_frame (8 * k + n) u
    have hcoresOff : (dieOff (8 * k + n) u).cores = u.cores.filter (fun e => dieOf e.1 != 8 * k + n) := by rw [e]
    refine ⟨by rw [e]; exact hnow, by rw [e]; exact hpwr, fun i hi => ?_, fun i hi x hx => ?_⟩
    · rw [dpwAt_dieOff _ _ (by omega)]
      by_cases h : i = n
      · subst h
        rw [if_pos rfl]
        rfl
      · rw [if_neg (by omega)]
        exact hoff i (by omega)
    · rw [hcoresOff] at hx
      obtain ⟨hmem, hne⟩ := List.mem_filter.1 hx
      by_cases h : i = n
      · subst h
        exact bne_iff_ne.1 hne
      · exact hcores i (by omega) x hmem

/-- The next step of the power-down. -/
def downTo (n : Nat) (a : AfterDown) (p : Power) : Power := { p with down := some (n + 1, a) }

theorem powerDownStep_dies {n : Nat} {a : AfterDown} {s : Mach} (hdown : s.pwr.down = some (n, a)) (hn : n < 18)
    (hqueue : vminQueued s.led = false) :
    powerDownStep s = modPwr (downTo n a) (iter 8 (fun i s => dieOff (8 * (17 - n) + i) s) s) := by
  unfold powerDownStep
  rw [hdown]
  dsimp only
  rw [if_neg (by rw [hqueue]; exact fun h => Bool.false_ne_true h.2)]
  exact if_pos hn

theorem powerDownStep_stacks {a : AfterDown} {s : Mach} (hdown : s.pwr.down = some (21, a)) :
    powerDownStep s = modPwr (downTo 21 a) (stacksOff s) := by
  unfold powerDownStep
  rw [hdown]
  rfl

theorem stacksOff_frame (s : Mach) : ∃ k e, stacksOff s = { s with stk := k, edge := e } ∧ e.mem = [] := by
  unfold stacksOff
  obtain ⟨k, e⟩ := iter_modStk_frame (fun k => { k with
      trained := false, answers := [], rejects := [], replies := [], squares := [], writes := [], work := [] }) 32
    (modEdge (fun e => { e with mem := [], ck := [], poison := [] }) s)
  rw [e]
  exact ⟨k, _, rfl, rfl⟩

theorem powerDownStep_stays {n : Nat} {s : Mach} (hdown : s.pwr.down = some (n, .stay)) (hn : 24 ≤ n) :
    powerDownStep s = modPwr (fun p => { p with down := none, rimOn := false }) s := by
  unfold powerDownStep
  rw [hdown]
  dsimp only
  rw [if_neg (by rintro ⟨h, -⟩; omega), if_neg (by omega), if_neg (by omega), if_neg (by omega), if_neg (by omega)]

/-! ### The burn pattern (R483, R484) -/

theorem burnStep_start {s : Mach} (hstate : s.start.state = 5) (hburn : s.pwr.burn = some 0) (hcool : coolOk s.pwr = true) :
    burnStep .start s = modPwr (fun p => { p with burn := some 1 }) s := by
  unfold burnStep
  rw [if_neg (not_not.2 hstate), hburn]
  exact if_pos hcool

theorem burnStep_trim {s : Mach} (hstate : s.start.state = 5) (hburn : s.pwr.burn = some 1) :
    burnStep .trim s = pass 2000 (modPwr (fun p => { p with burn := some 2 }) s) := by
  unfold burnStep
  rw [if_neg (not_not.2 hstate), hburn]
  rfl

/-- A die whose stretch timing is slow. -/
def slowDie (x : DiePower) : DiePower := { x with slow := true }

/-- A die that is on begins its floor search. -/
def searchDie (x : DiePower) : DiePower := { x with searching := x.on, again := false, clean := none }

theorem burnStep_timing {s : Mach} (hstate : s.start.state = 5) (hburn : s.pwr.burn = some 2) (slow : List (Fin 144)) :
    burnStep (.stretchTiming slow) s = modPwr (fun p => { p with burn := some 3 })
      (iter 144 (fun d s => modDpw d searchDie s) (pass 100 (slow.foldl (fun s d => modDpw d.val slowDie s) (pass 1000 s)))) := by
  unfold burnStep
  rw [if_neg (not_not.2 hstate), hburn]
  rfl

theorem dpwAt_slowDies (slow : List (Fin 144)) : ∀ (s : Mach) (j : Nat),
    (dpwAt (slow.foldl (fun s d => modDpw d.val slowDie s) s) j).on = (dpwAt s j).on ∧
    ((dpwAt s j).slow = true ∨ (∃ d ∈ slow, d.val = j) → (dpwAt (slow.foldl (fun s d => modDpw d.val slowDie s) s) j).slow = true) := by
  induction slow with
  | nil => exact fun s j => ⟨rfl, fun h => h.resolve_right (by rintro ⟨d, hd, -⟩; exact List.not_mem_nil hd)⟩
  | cons d slow ih =>
    intro s j
    obtain ⟨hon, hslow⟩ := ih (modDpw d.val slowDie s) j
    by_cases hj : j = d.val
    · subst hj
      rw [dpwAt_modDpw] at hon hslow
      exact ⟨hon, fun _ => hslow (.inl rfl)⟩
    · rw [dpwAt_modDpw_other _ _ hj] at hon hslow
      refine ⟨hon, fun h => hslow (h.imp id ?_)⟩
      rintro ⟨x, hx, hxj⟩
      rcases List.mem_cons.1 hx with rfl | hx
      · exact absurd hxj.symm hj
      · exact ⟨x, hx, hxj⟩

theorem dpwAt_searchDies (s : Mach) (j n : Nat) :
    dpwAt (iter n (fun d s => modDpw d searchDie s) s) j = if j < n then searchDie (dpwAt s j) else dpwAt s j :=
  dpwAt_iter (fun _ _ => rfl) s j n

/-- The timing of the stretches is done, and the floor search begins. -/
def Timed (slow : List (Fin 144)) (s t : Mach) : Prop :=
  t.pwr.burn = some 3 ∧ (∀ d ∈ slow, (dpwAt t d.val).slow = true) ∧ ∀ d, d < 144 → (dpwAt t d).searching = (dpwAt s d).on

theorem timed_of_searching {slow : List (Fin 144)} {s u v : Mach}
    (hslow : ∀ j, (dpwAt u j).on = (dpwAt s j).on ∧ ((dpwAt s j).slow = true ∨ (∃ d ∈ slow, d.val = j) → (dpwAt u j).slow = true))
    (hsearch : ∀ j, j < 144 → dpwAt v j = searchDie (dpwAt u j)) : Timed slow s (modPwr (fun p => { p with burn := some 3 }) v) := by
  refine ⟨rfl, fun d hd => ?_, fun d hd => ?_⟩
  · refine (congrArg DiePower.slow (hsearch d.val d.isLt)).trans ?_
    exact (hslow d.val).2 (.inr ⟨d, hd, rfl⟩)
  · refine (congrArg DiePower.searching (hsearch d hd)).trans ?_
    exact (hslow d).1

theorem burnStep_timed {s : Mach} (hstate : s.start.state = 5) (hburn : s.pwr.burn = some 2) (slow : List (Fin 144)) :
    Timed slow s (burnStep (.stretchTiming slow) s) := by
  rw [burnStep_timing hstate hburn]
  exact timed_of_searching (s := s) (dpwAt_slowDies slow (pass 1000 s)) fun j hj => (dpwAt_searchDies (pass 100 _) j 144).trans (if_pos hj)

/-! ### The floor search -/

theorem dpwAt_startNote (f : Power → Power) (s : Mach) (j : Nat) : dpwAt (startNote (modPwr f s)) j = dpwAt s j :=
  congrArg (tget DiePower.reset · j) (startNote_logged (modPwr f s)).dpw

/-- A clean step: the next one is a millivolt step lower. -/
def stepClean (now : Nat) (x : DiePower) : DiePower :=
  { x with clean := some x.vlog.from_, vlog := atRest now (x.vlog.from_ - 1) }

/-- The second search begins. -/
def searchAgain (now : Nat) (x : DiePower) : DiePower := { x with again := true, vlog := atRest now 340, varr := atRest now 340 }

/-- The search of one die leaves every other die as it was. -/
theorem floorDie_other {bad : List Nat} {d j : Nat} (h : j ≠ d) (s : Mach) : dpwAt (floorDie bad d s) j = dpwAt s j := by
  unfold floorDie
  dsimp only
  split
  · rfl
  · split
    · split
      · rw [refloor, dpwAt_modDpw_other _ _ h, dpwAt_modDpw_other _ _ h]
      · split
        · rw [dpwAt_startNote, dpwAt_modDpw_other _ _ h]
        · exact dpwAt_modDpw_other _ s h
    · split
      · rw [refloor, dpwAt_modDpw_other _ _ h, dpwAt_modDpw_other _ _ h]
      · exact dpwAt_modDpw_other _ s h

/-- Of all the searches, that of the die itself decides. -/
theorem dpwAt_floorDies {bad : List Nat} {d : Nat} {s : Mach} {Q : DiePower → Prop}
    (hd : ∀ u : Mach, dpwAt u d = dpwAt s d → Q (dpwAt (floorDie bad d u) d)) : ∀ n,
    (d < n → Q (dpwAt (iter n (floorDie bad) s) d)) ∧ (n ≤ d → dpwAt (iter n (floorDie bad) s) d = dpwAt s d)
  | 0 => ⟨fun h => absurd h (Nat.not_lt_zero d), fun _ => rfl⟩
  | n + 1 => by
    obtain ⟨hpast, hnext⟩ := dpwAt_floorDies hd n
    rw [iter_succ]
    by_cases h : d = n
    · subst h
      exact ⟨fun _ => hd _ (hnext (Nat.le_refl d)), fun hle => absurd hle (Nat.not_succ_le_self d)⟩
    · rw [floorDie_other h]
      exact ⟨fun hlt => hpast (by omega), fun hle => hnext (by omega)⟩

theorem burnStep_floor {s : Mach} (hstate : s.start.state = 5) (hburn : s.pwr.burn = some 3) (bad : List (Fin 144)) :
    burnStep (.floorStep bad) s = iter 144 (floorDie (bad.map (·.val))) (pass 20 s) := by
  unfold burnStep
  rw [if_neg (not_not.2 hstate), hburn]
  rfl

/-- What the step of a die's search leaves of the die. -/
theorem run_floorStep {s : State} {bad : List (Fin 144)} {d : Fin 144} {Q : DiePower → Prop} (hstate : s.m.start.state = 5)
    (hburn : s.m.pwr.burn = some 3)
    (hd : ∀ u : Mach, dpwAt u d.val = dpwAt s.m d.val → Q (dpwAt (floorDie (bad.map (·.val)) d.val u) d.val)) :
    ∃ t, run (burnStep (.floorStep bad)) s = .next t ∧ t.pending = s.pending ∧ Q (dpwAt t.m d.val) := by
  have hown := (dpwAt_floorDies (s := pass 20 s.m) hd 144).1 d.isLt
  rw [← burnStep_floor hstate hburn] at hown
  exact run_notes (P := fun m => Q (dpwAt m d.val)) (fun _ => hown)

theorem mem_vals {bad : List (Fin 144)} {d : Fin 144} : (bad.map (·.val)).contains d.val = true ↔ d ∈ bad := by
  rw [List.contains_iff_mem, List.mem_map]
  exact ⟨fun ⟨x, hx, h⟩ => Fin.ext h ▸ hx, fun h => ⟨d, h, rfl⟩⟩

theorem floorDie_clean {bad : List Nat} {d : Nat} {u : Mach} (hsearch : (dpwAt u d).searching = true) (hbad : bad.contains d = false)
    (hfloor : 240 < (dpwAt u d).vlog.from_.toNat) : dpwAt (floorDie bad d u) d = stepClean u.now (dpwAt u d) := by
  unfold floorDie
  dsimp only
  rw [hsearch, hbad, if_neg (by decide), if_neg Bool.false_ne_true, if_neg (Nat.not_le.2 hfloor), dpwAt_modDpw]
  rfl

theorem reVlog_search (now : Nat) (x : DiePower) : (reVlog now x).searching = x.searching ∧ (reVlog now x).floor = x.floor := by
  unfold reVlog
  dsimp only
  split
  · exact ⟨rfl, rfl⟩
  · unfold reVarr
    dsimp only
    split <;> exact ⟨rfl, rfl⟩

theorem floorDie_ends {bad : List Nat} {d : Nat} {c : BitVec 10} {u : Mach} (hsearch : (dpwAt u d).searching = true)
    (hbad : bad.contains d = true) (hclean : (dpwAt u d).clean = some c) :
    dpwAt (floorDie bad d u) d = reVlog u.now (endSearch c (dpwAt u d)) := by
  unfold floorDie
  dsimp only
  rw [hsearch, hbad, if_neg (by decide), if_pos rfl, hclean]
  dsimp only
  rw [refloor, dpwAt_modDpw, dpwAt_modDpw]
  rfl

theorem floorDie_again {bad : List Nat} {d : Nat} {u : Mach} (hsearch : (dpwAt u d).searching = true)
    (hbad : bad.contains d = true) (hclean : (dpwAt u d).clean = none) (hagain : (dpwAt u d).again = false) :
    dpwAt (floorDie bad d u) d = searchAgain u.now (dpwAt u d) := by
  unfold floorDie
  dsimp only
  rw [hsearch, hbad, if_neg (by decide), if_pos rfl, hclean]
  dsimp only
  rw [hagain, if_neg Bool.false_ne_true, dpwAt_modDpw]
  rfl

/-! ### READY (R503 steps 10 to 12) -/

/-- The module is READY: its registers are locked and its attempts are over. -/
def isReady (x : Start) : Prop := x.state = 7 ∧ x.locked = true ∧ x.attempt0 = 0 ∧ x.attempt1 = 0

theorem fixMeasures_start (s : Mach) : ∃ t, (fixMeasures s).start = { s.start with meas := t } := ⟨_, rfl⟩

theorem ready_isReady (s : Mach) : isReady (ready s).start := by
  unfold ready
  extract_lets s1 s2
  have h1 : isReady s1.start := by
    obtain ⟨t, e⟩ := fixMeasures_start (modStart (fun x => { x with
      locked := true, state := 7, attempt0 := 0, attempt1 := 0, startMs := BitVec.ofNat 32 ((s.now - x.t0) / 1100000)
      fused := if x.rollfwd ∧ x.fused.toNat < x.svn.toNat then x.svn else x.fused }) s)
    simp only [s1]
    rw [e]
    exact ⟨rfl, rfl, rfl, rfl⟩
  have h2 : s2.start = s1.start := by
    simp only [s2]
    split
    · exact (startNote_logged s1).start
    · rfl
  rw [(raiseIrq_signals 0 _).start, (logModule_logged _ _ _ s2).start, h2]
  exact h1

theorem burnStep_finish {s : Mach} (hstate : s.start.state = 5) (hburn : s.pwr.burn = some 3) (hdone : searchingDies s = [])
    (idle : BitVec 16) (ks : List CoreId) : isReady (burnStep (.finish idle ks) s).start := by
  unfold burnStep
  rw [if_neg (not_not.2 hstate), hburn]
  dsimp only
  rw [hdone]
  exact ready_isReady _

/-- Settles O50: each step ramps or drops its domains, and each phase of the burn pattern leaves what its step says. -/
theorem powerSequencesAndTheBurnPattern : Obligations.PowerSequencesAndTheBurnPattern := by
  refine ⟨?_, ?_, ?_, ?_, ?_, ?_, ?_, ?_, ?_, ?_, ?_, ?_, ?_, ?_⟩
  · intro s n bad hup hn h2 hplain
    have hstep : rampStepDone n s.m = s.m := by
      rw [rampStepDone, if_neg h2, if_neg (by omega)]
    refine run_eq_after ?_
    rw [powerSequenceStep_ramps hup hn, hstep]
    rfl
  · intro s bad hup
    refine run_eq_after ?_
    rw [powerSequenceStep_ramps hup (by decide), rampStepDone, if_pos rfl]
    rfl
  · intro s n bad hup h7 hn h3 hnone
    refine run_notes (P := fun m => m.pwr.up = some (n + 1) ∧ ∀ i, i < 8 → (dpwAt m (8 * ((n - 7) / 3) + i)).on = true) fun _ => ?_
    exact powerSequenceStep_group hup h7 hn h3 hnone _
  · intro s bad hup
    have hbad : ∀ e ∈ bad.map (fun e => (e.1.val, e.2.val)), e.2 < 20 := by
      intro e he
      obtain ⟨x, -, rfl⟩ := List.mem_map.1 he
      exact x.2.isLt
    obtain ⟨t, hrun, hpending, hstate, hupNone, hburn, hfound, htrained⟩ := run_powerSequenceOver hup hbad
    refine ⟨t, hrun, hpending, hstate, hupNone, hburn, fun e he => hfound (e.1.val, e.2.val) (List.mem_map.2 ⟨e, he, rfl⟩),
      fun st hst hnone => (htrained st hst).2 fun e he => ?_⟩
    obtain ⟨x, hx, rfl⟩ := List.mem_map.1 he
    exact hnone x hx
  · intro s n out bad hup hn hout
    refine run_notes (P := fun m => m.start.state = 9 ∧ m.start.fail = 2 ∧ m.pwr.up = none ∧ m.pwr.seqFail = true) fun _ => ?_
    have hlog := startFail_logged 2 9 (modPwr (rampsFailed n) s.m)
    rw [powerSequenceStep_fails hup hn hout]
    generalize startFail 2 9 (modPwr (rampsFailed n) s.m) = u at hlog
    have hstart := hlog.start
    have hpwr := hlog.pwr
    exact ⟨congrArg Start.state hstart, congrArg Start.fail hstart, congrArg Power.up hpwr, congrArg Power.seqFail hpwr⟩
  · intro s n a hdown hn hqueue
    obtain ⟨hnow, -, hoff, hcores⟩ := diesOff_group (17 - n) (by omega) s.m 8 (Nat.le_refl 8)
    have hstep := powerDownStep_dies hdown hn hqueue
    generalize iter 8 (fun i s => dieOff (8 * (17 - n) + i) s) s.m = u at hnow hoff hcores hstep
    obtain ⟨hrun, hpending, hm⟩ := runs_to (s := s) (f := powerDownStep) (by rw [hstep]; exact hnow)
    refine ⟨_, hrun, hpending, ?_⟩
    rw [hm, hstep]
    refine ⟨rfl, hoff, fun e he hdie => ?_⟩
    exact hcores (dieOf e.1 % 8) (by omega) e he (by omega)
  · intro s a hdown hqueue
    refine run_unchanged ?_
    unfold powerDownStep
    rw [hdown]
    exact if_pos ⟨rfl, hqueue⟩
  · intro s a hdown
    obtain ⟨k, e, hstacks, hmem⟩ := stacksOff_frame s.m
    have hstep := powerDownStep_stacks hdown
    rw [hstacks] at hstep
    obtain ⟨hrun, hpending, hm⟩ := runs_to (s := s) (f := powerDownStep) (by rw [hstep]; rfl)
    refine ⟨_, hrun, hpending, ?_⟩
    rw [hm, hstep]
    exact ⟨rfl, hmem⟩
  · intro s n hdown hn
    exact run_eq_after (powerDownStep_stays hdown hn)
  · intro s hstate hburn hcool
    exact run_eq_after (burnStep_start hstate hburn hcool)
  · intro s hstate hburn
    exact run_eq_after (burnStep_trim hstate hburn)
  · intro s slow hstate hburn
    have htimed := burnStep_timed hstate hburn slow
    exact run_notes (P := Timed slow s.m) fun _ => htimed
  · intro s bad d hstate hburn hsearch
    refine ⟨fun hbad hfloor => ?_, fun c hbad hclean => ?_, fun hbad hclean hagain => ?_⟩
    · have hout : (bad.map (·.val)).contains d.val = false := Bool.eq_false_iff.2 fun h => hbad (mem_vals.1 h)
      refine run_floorStep (Q := fun x => x.clean = some (dpwAt s.m d.val).vlog.from_ ∧
        x.vlog.from_ = (dpwAt s.m d.val).vlog.from_ - 1) hstate hburn fun u hu => ?_
      rw [floorDie_clean (by rw [hu]; exact hsearch) hout (by rw [hu]; exact hfloor), hu]
      exact ⟨rfl, rfl⟩
    · refine run_floorStep (Q := fun x => x.searching = false ∧ x.floor =
        BitVec.ofNat 10 (max 240 (c.toNat + (if (dpwAt s.m d.val).slow then 20 else 10)))) hstate hburn fun u hu => ?_
      rw [floorDie_ends (by rw [hu]; exact hsearch) (mem_vals.2 hbad) (by rw [hu]; exact hclean), hu]
      obtain ⟨hs, hf⟩ := reVlog_search u.now (endSearch c (dpwAt s.m d.val))
      rw [hs, hf]
      exact ⟨rfl, rfl⟩
    · refine run_floorStep (Q := fun x => x.again = true ∧ x.vlog.from_ = 340 ∧ x.varr.from_ = 340) hstate hburn fun u hu => ?_
      rw [floorDie_again (by rw [hu]; exact hsearch) (mem_vals.2 hbad) (by rw [hu]; exact hclean) (by rw [hu]; exact hagain)]
      exact ⟨rfl, rfl, rfl⟩
  · intro s idle ks hstate hburn hdone
    have hready := burnStep_finish hstate hburn hdone idle ks
    exact run_notes (P := fun m => isReady m.start) fun _ => hready

end Sys2Proof.Spec
end


section
/-! PROOFS. The weft: accesses that travel in frames, the events of the stewards, broadcasts and telemetry. -/

namespace Sys2Proof.Spec

open Sys2Proof.Machine

/-! ### Where the windows of the stewards lie -/

theorem placeOf_winAddr {d o : Nat} (hd : d < 144) (ho : o < 0x10000) : placeOf (winAddr d o) = .die d o := by
  unfold placeOf winAddr
  repeat rw [if_neg (by omega)]
  rw [if_pos (by omega)]
  exact congrArg₂ Place.die (by omega) (by omega)

theorem lt_of_frameStatus {s : Mach} {d o : Nat} (h : frameStatus s d o = 0) : o < 0x10000 := by
  by_contra ho
  rw [frameStatus, if_pos (Or.inl (by omega))] at h
  exact absurd h (by decide)

theorem answersAt_of_answers {s : Mach} {d : Nat} (h : answers s d = true) (o : Nat) : answersAt s d o = true := by
  simp only [answers, Bool.and_eq_true] at h
  simp [answersAt, h.1, h.2]

theorem frType_of_frOk {f : Frame} {n : Nat} (h : frOk f n = true) : frType f = n := by
  simp only [frOk, Bool.and_eq_true, beq_iff_eq] at h
  exact h.1

/-! ### The events that go first (R532) -/

/-- Of the module only the ledger's queues and what the stewards buffer differ. -/
def EventsSent (s t : Mach) : Prop :=
  (∃ ds l, t = { s with dies := ds, led := l }) ∧
    ∀ d, ∃ b c, dieAt t d = { dieAt s d with stw := { (dieAt s d).stw with evBuf := b, evLost := c } }

theorem EventsSent.refl (s : Mach) : EventsSent s s := ⟨⟨s.dies, s.led, rfl⟩, fun _ => ⟨_, _, rfl⟩⟩

theorem EventsSent.trans {s t u : Mach} (h : EventsSent s t) (g : EventsSent t u) : EventsSent s u := by
  obtain ⟨⟨ds, l, rfl⟩, hdies⟩ := h
  obtain ⟨⟨ds', l', rfl⟩, gdies⟩ := g
  refine ⟨⟨ds', l', rfl⟩, fun d => ?_⟩
  obtain ⟨b, c, hd⟩ := hdies d
  obtain ⟨b', c', gd⟩ := gdies d
  exact ⟨b', c', by rw [gd, hd]⟩

section
variable {s t : Mach} (h : EventsSent s t)
include h

theorem EventsSent.frame : t.now = s.now ∧ t.out = s.out ∧ t.rnd = s.rnd ∧ t.cores = s.cores ∧ t.edge = s.edge ∧
    t.weft = s.weft ∧ t.dpw = s.dpw ∧ t.free = s.free := by
  obtain ⟨⟨ds, l, rfl⟩, -⟩ := h
  exact ⟨rfl, rfl, rfl, rfl, rfl, rfl, rfl, rfl⟩

theorem EventsSent.answers (d : Nat) : answers t d = answers s d := by
  obtain ⟨⟨ds, l, rfl⟩, hdies⟩ := h
  obtain ⟨b, c, hd⟩ := hdies d
  simp only [Machine.answers, hd]
  rfl

theorem EventsSent.diesKept : DiesKept s t := by
  refine ⟨h.frame.2.2.2.1, fun d => ?_⟩
  obtain ⟨b, c, hd⟩ := h.2 d
  rw [hd]

/-- What a steward holds beside its events. -/
theorem EventsSent.counts (d : Nat) : (dieAt t d).stw.lastTag = (dieAt s d).stw.lastTag ∧ (dieAt t d).stw.shCe = (dieAt s d).stw.shCe ∧
    (dieAt t d).stw.shUe = (dieAt s d).stw.shUe ∧ (dieAt t d).stw.shStr = (dieAt s d).stw.shStr ∧
    (dieAt t d).stw.shTrips = (dieAt s d).stw.shTrips := by
  obtain ⟨b, c, hd⟩ := h.2 d
  rw [hd]
  exact ⟨rfl, rfl, rfl, rfl, rfl⟩

end

/-- The steward keeps the events after the oldest, and no counts of lost ones. -/
def buffering (rest : List Event) (x : Die) : Die := { x with stw := { x.stw with evBuf := rest, evLost := [] } }

/-- The queues of Decnus take an event and the counts of those that were lost. -/
def eventQueued (e : Event) (lost : Tbl (BitVec 16)) (l0 : Ledger) : Ledger :=
  { lost.foldl (fun l c => suppress (BitVec.ofNat 16 c.1) e.round c.2.toNat l) (queueEvent e l0) with
    ledSupp := (queueEvent e l0).ledSupp }

theorem dieEvent_none {d : Nat} {s : Mach} (h : (dieAt s d).stw.evBuf = []) : dieEvent d s = s := by
  unfold dieEvent
  rw [h]

theorem dieEvent_some {d : Nat} {s : Mach} {e : Event} {rest : List Event} (h : (dieAt s d).stw.evBuf = e :: rest) :
    dieEvent d s = modLed (eventQueued e (dieAt s d).stw.evLost) (modDie d (buffering rest) s) := by
  unfold dieEvent
  rw [h]
  rfl

theorem dieEvent_sent (d : Nat) (s : Mach) : EventsSent s (dieEvent d s) := by
  cases hbuf : (dieAt s d).stw.evBuf with
  | nil => rw [dieEvent_none hbuf]; exact EventsSent.refl s
  | cons e rest =>
    rw [dieEvent_some hbuf]
    refine ⟨⟨_, _, rfl⟩, fun j => ?_⟩
    by_cases hj : j = d
    · subst hj
      exact ⟨rest, [], dieAt_modDie j (buffering rest) s⟩
    · exact ⟨_, _, dieAt_modDie_other (buffering rest) s hj⟩

theorem dieEvent_evBuf (d : Nat) (s : Mach) : (dieAt (dieEvent d s) d).stw.evBuf = (dieAt s d).stw.evBuf.tail := by
  cases hbuf : (dieAt s d).stw.evBuf with
  | nil => rw [dieEvent_none hbuf, hbuf]; rfl
  | cons e rest =>
    rw [dieEvent_some hbuf]
    exact congrArg (fun x => x.stw.evBuf) (dieAt_modDie d (buffering rest) s)

theorem dieEvent_other {d j : Nat} (hj : j ≠ d) (s : Mach) : dieAt (dieEvent d s) j = dieAt s j := by
  cases hbuf : (dieAt s d).stw.evBuf with
  | nil => rw [dieEvent_none hbuf]
  | cons e rest =>
    rw [dieEvent_some hbuf]
    exact dieAt_modDie_other (buffering rest) s hj

theorem iter_dieEvent_sent (d n : Nat) (s : Mach) : EventsSent s (iter n (fun _ => dieEvent d) s) :=
  iter_related EventsSent.refl (fun h g => h.trans g) (fun _ u => dieEvent_sent d u) n s

theorem iter_dieEvent_evBuf (d : Nat) (s : Mach) : ∀ n,
    (dieAt (iter n (fun _ => dieEvent d) s) d).stw.evBuf = (dieAt s d).stw.evBuf.drop n
  | 0 => rfl
  | n + 1 => by rw [iter_succ, dieEvent_evBuf, iter_dieEvent_evBuf d s n, List.tail_drop]

theorem iter_dieEvent_other {d j : Nat} (hj : j ≠ d) (s : Mach) : ∀ n, dieAt (iter n (fun _ => dieEvent d) s) j = dieAt s j
  | 0 => rfl
  | n + 1 => by rw [iter_succ, dieEvent_other hj, iter_dieEvent_other hj s n]

/-! ### What a step for every die does to one of them -/

section
variable {f : Nat → Mach → Mach} (hother : ∀ {d j : Nat} (_ : j ≠ d) (s : Mach), dieAt (f d s) j = dieAt s j)
include hother

theorem dieAt_iter_later (s : Mach) {d : Nat} : ∀ {n : Nat}, n ≤ d → dieAt (iter n f s) d = dieAt s d
  | 0, _ => rfl
  | n + 1, h => by rw [iter_succ, hother (by omega), dieAt_iter_later s (by omega)]

/-- A step for every die, of which each changes its own die alone. -/
theorem dieAt_iter_own (s : Mach) {d : Nat} : ∀ {n : Nat}, d < n → dieAt (iter n f s) d = dieAt (f d (iter d f s)) d
  | 0, h => absurd h (Nat.not_lt_zero d)
  | n + 1, h => by
    rw [iter_succ]
    by_cases hd : d = n
    · rw [hd]
    · rw [hother hd, dieAt_iter_own s (by omega)]

end

/-- The events of a die of ring `r` go, if it answers. -/
def eventsOf (r d : Nat) (s : Mach) : Mach :=
  if ringOf d = r ∧ answers s d then iter (dieAt s d).stw.evBuf.length (fun _ => dieEvent d) s else s

theorem ringEvents_eq (r : Nat) (s : Mach) : ringEvents r s = iter 144 (eventsOf r) s := rfl

theorem eventsOf_sent (r d : Nat) (s : Mach) : EventsSent s (eventsOf r d s) := by
  unfold eventsOf
  split
  · exact iter_dieEvent_sent d _ s
  · exact EventsSent.refl s

theorem eventsOf_gone {r d : Nat} {s : Mach} (hr : ringOf d = r) (ha : answers s d = true) :
    (dieAt (eventsOf r d s) d).stw.evBuf = [] := by
  rw [eventsOf, if_pos ⟨hr, ha⟩, iter_dieEvent_evBuf]
  exact List.drop_length

theorem eventsOf_other {r d j : Nat} (hj : j ≠ d) (s : Mach) : dieAt (eventsOf r d s) j = dieAt s j := by
  unfold eventsOf
  split
  · exact iter_dieEvent_other hj s _
  · rfl

theorem iter_eventsOf_sent (r n : Nat) (s : Mach) : EventsSent s (iter n (eventsOf r) s) :=
  iter_related EventsSent.refl (fun h g => h.trans g) (eventsOf_sent r) n s

theorem ringEvents_sent (r : Nat) (s : Mach) : EventsSent s (ringEvents r s) := iter_eventsOf_sent r 144 s

theorem ringEvents_gone (r : Nat) (s : Mach) : EventsGone s (ringEvents r s) r := by
  intro d hd hr ha
  rw [ringEvents_eq, dieAt_iter_own eventsOf_other s hd]
  exact eventsOf_gone hr (((iter_eventsOf_sent r d s).answers d).trans ha)

/-! ### Requests that reach a steward (R529, R530) -/

theorem mem_tput_self {α : Type} (t : Tbl α) (k : Nat) (v : α) : (k, v) ∈ tput t k v := (mem_tins _ _ _ _).2 (Or.inl rfl)

theorem mem_of_mem_tput {α : Type} {t : Tbl α} {k : Nat} {v : α} {e : Nat × α} (h : e ∈ tput t k v) : e = (k, v) ∨ e ∈ t :=
  ((mem_tins _ _ _ _).1 h).imp_right fun g => ((mem_tdel _ _ _).1 g).1

/-- The requester of a frame awaits its response. -/
def Awaits (f : Frame) (s : Mach) : Prop := ∃ r ∈ s.weft.reqs, r.1 = (frTag f).toNat

theorem awaitResponse_frame (f : Frame) (s : Mach) : ∃ w, awaitResponse f s = { s with weft := w } := ⟨_, rfl⟩

theorem awaitResponse_awaits (f : Frame) (s : Mach) : Awaits f (awaitResponse f s) := by
  unfold Awaits awaitResponse modWeft
  dsimp only
  split
  next h =>
    obtain ⟨r, hr, he⟩ := List.any_eq_true.1 h
    exact ⟨r, hr, eq_of_beq he⟩
  next => exact ⟨_, mem_tput_self _ _ _, rfl⟩

/-- The module `u` once a request of `s` is with its steward: the events of the ring went first, and the requester waits. -/
structure Carried (f : Frame) (s u : Mach) : Prop where
  awaits : Awaits f u
  out : u.out = s.out
  edge : u.edge = s.edge
  rnd : u.rnd = s.rnd
  now : u.now = s.now
  gone : EventsGone s u (ringOf (frDie f))
  dies : DiesKept s u
  tag : ∀ d, (dieAt u d).stw.lastTag = (dieAt s d).stw.lastTag

theorem Carried.answered {f : Frame} {s u : Mach} (h : Carried f s u) (status : Nat) :
    (respond f 0 status u).fresh.out = s.out ++ [answerTo f 0 status] ∧ DiesKept s (respond f 0 status u).fresh ∧
      (dieAt (respond f 0 status u).fresh (frDie f)).stw.lastTag = (dieAt s (frDie f)).stw.lastTag :=
  ⟨congrArg (· ++ _) h.out, h.dies, h.tag _⟩

/-- The module in which a steward serves a request. -/
def carried (f : Frame) (s : Mach) : Mach := ringEvents (ringOf (frDie f)) (awaitResponse f s)

theorem carried_spec (f : Frame) (s : Mach) : Carried f s (carried f s) := by
  unfold carried
  have hawaits := awaitResponse_awaits f s
  obtain ⟨w, hw⟩ := awaitResponse_frame f s
  rw [hw] at hawaits ⊢
  have hsent := ringEvents_sent (ringOf (frDie f)) { s with weft := w }
  obtain ⟨hnow, hout, hrnd, hcores, hedge, hweft, -, -⟩ := hsent.frame
  refine ⟨?_, hout, hedge, hrnd, hnow, ringEvents_gone (ringOf (frDie f)) { s with weft := w }, hsent.diesKept, fun d => (hsent.counts d).1⟩
  unfold Awaits
  rw [hweft]
  exact hawaits

theorem carryRequest_served {f : Frame} {n : Nat} {s : Mach} (hok : frOk f n = true) (hd : frDie f < 144)
    (ha : answersAt s (frDie f) (frAddr f) = true) (serve : Mach → Mach) :
    carryRequest f n serve s = serve (carried f s) := by
  unfold carryRequest
  rw [if_neg (not_not.2 (frType_of_frOk hok)), hok, ha]
  simp only [Bool.not_true, Bool.false_eq_true, if_false, or_false]
  rw [if_neg (by unfold supervisor; omega), if_neg (by omega)]
  rfl

theorem carryRequest_supervisor {f : Frame} {n : Nat} {s : Mach} (hok : frOk f n = true) (hd : frDie f = 0xFF) (serve : Mach → Mach) :
    carryRequest f n serve s = respond f 0 1 (awaitResponse f s) := by
  unfold carryRequest
  rw [if_neg (not_not.2 (frType_of_frOk hok)), hok]
  simp only [Bool.not_true, Bool.false_eq_true, if_false]
  rw [if_pos (show frDie f = supervisor from hd)]

theorem carryRequest_discarded {f : Frame} {n : Nat} {s : Mach} (htype : frType f = n) (hbad : frOk f n = false) (serve : Mach → Mach) :
    carryRequest f n serve s = awaitResponse f s := by
  unfold carryRequest
  rw [if_neg (not_not.2 htype), hbad]
  rfl

/-! ### Reads -/

/-- What a read of a register of a steward's window leaves as it was. -/
structure ReadKept (s t : Mach) : Prop where
  out : t.out = s.out
  edge : t.edge = s.edge
  rnd : t.rnd = s.rnd
  weft : t.weft = s.weft
  stw : ∀ d, (dieAt t d).stw = (dieAt s d).stw

theorem ReadKept.refl (s : Mach) : ReadKept s s := ⟨rfl, rfl, rfl, rfl, fun _ => rfl⟩

theorem modDie_readKept {f : Die → Die} (hf : ∀ x, (f x).stw = x.stw) (d : Nat) (s : Mach) : ReadKept s (modDie d f s) := by
  refine ⟨rfl, rfl, rfl, rfl, fun j => ?_⟩
  by_cases hj : j = d
  · subst hj
    rw [dieAt_modDie, hf]
  · rw [dieAt_modDie_other _ _ hj]

theorem dieClear_readKept (be : BitVec 4) (d o : Nat) (s0 s : Mach) : ReadKept s (dieClear be d o s0 s) := by
  unfold dieClear
  split
  · exact ⟨rfl, rfl, rfl, rfl, fun _ => rfl⟩
  · split
    case h_8 => exact ⟨rfl, rfl, rfl, rfl, fun _ => rfl⟩
    case h_9 => exact ⟨rfl, rfl, rfl, rfl, fun _ => rfl⟩
    case h_10 => exact ⟨rfl, rfl, rfl, rfl, fun _ => rfl⟩
    case h_11 => exact ReadKept.refl s
    all_goals exact modDie_readKept (by intro x; rfl) d s

theorem readClears_die {d o : Nat} (hd : d < 144) (ho : o < 0x10000) (be : BitVec 4) (s0 s : Mach) :
    readClears be (winAddr d o) s0 s = dieClear be d o s0 s := by
  unfold readClears
  rw [placeOf_winAddr hd ho]

theorem weftRead_answered {s0 s : Mach} {f : Frame} (hok : frOk f 1 = true) (hd : frDie f < 144)
    (ha : answersAt s (frDie f) (frAddr f) = true) (hst : frameStatus s (frDie f) (frAddr f) = 0) :
    (weftRead f s0 s).out = s.out ++ [answerTo f (seenRead s0 s (winAddr (frDie f) (frAddr f))) 0] ∧ Awaits f (weftRead f s0 s) ∧
      EventsGone s (weftRead f s0 s) (ringOf (frDie f)) ∧ (weftRead f s0 s).edge = s.edge ∧ (weftRead f s0 s).rnd = s.rnd := by
  unfold weftRead
  rw [carryRequest_served hok hd ha]
  dsimp only
  rw [if_pos hst, readClears_die hd (lt_of_frameStatus hst)]
  have hu := carried_spec f s
  revert hu
  generalize carried f s = u
  intro hu
  have hk := dieClear_readKept 0xF (frDie f) (frAddr f) s0 (respond f (seenRead s0 s (winAddr (frDie f) (frAddr f))) 0 u)
  revert hk
  generalize dieClear _ _ _ _ _ = t
  intro hk
  refine ⟨hk.out.trans (congrArg (· ++ _) hu.out), ?_, fun d h144 hr ha => ?_, hk.edge.trans hu.edge, hk.rnd.trans hu.rnd⟩
  · unfold Awaits
    rw [hk.weft]
    exact hu.awaits
  · rw [hk.stw]
    exact hu.gone d h144 hr ha

theorem weftRead_refused {s0 s : Mach} {f : Frame} (hok : frOk f 1 = true) (hd : frDie f < 144)
    (ha : answers s (frDie f) = true) (haddr : 0x10000 ≤ frAddr f) :
    (weftRead f s0 s).out = s.out ++ [answerTo f 0 1] ∧ DiesKept s (weftRead f s0 s) := by
  unfold weftRead
  rw [carryRequest_served hok hd (answersAt_of_answers ha _)]
  dsimp only
  have hst : frameStatus s (frDie f) (frAddr f) = 1 := if_pos (Or.inl haddr)
  rw [hst, if_neg (by decide)]
  have hu := carried_spec f s
  exact ⟨congrArg (· ++ _) hu.out, hu.dies⟩

/-! ### Writes -/

theorem weftWrite_refused {s0 s : Mach} {f : Frame} (hok : frOk f 2 = true) (hd : frDie f < 144)
    (ha : answersAt s (frDie f) (frAddr f) = true) (hst : frameStatus s (frDie f) (frAddr f) ≠ 0)
    (hnew : (dieAt s (frDie f)).stw.lastTag ≠ some (frTag f)) :
    weftWrite f s0 s = respond f 0 (frameStatus s (frDie f) (frAddr f)) (carried f s) := by
  unfold weftWrite
  dsimp only
  rw [carryRequest_served hok hd ha, if_neg hnew, if_neg hst]

theorem weftWrite_again {s0 s : Mach} {f : Frame} (hok : frOk f 2 = true) (hd : frDie f < 144)
    (ha : answersAt s (frDie f) (frAddr f) = true) (hlast : (dieAt s (frDie f)).stw.lastTag = some (frTag f)) :
    weftWrite f s0 s = respond f 0 0 (carried f s) := by
  unfold weftWrite
  dsimp only
  rw [carryRequest_served hok hd ha, if_pos hlast]

/-- The steward holds the tag of the write that it executed last. -/
def executed (tag : BitVec 16) (x : Die) : Die := { x with stw := { x.stw with lastTag := some tag } }

theorem weftWrite_executed {s0 s : Mach} {f : Frame} (hok : frOk f 2 = true) (hd : frDie f < 144)
    (ha : answersAt s (frDie f) (frAddr f) = true) (hst : frameStatus s (frDie f) (frAddr f) = 0)
    (hnew : (dieAt s (frDie f)).stw.lastTag ≠ some (frTag f)) :
    weftWrite f s0 s = hostWrite (winAddr (frDie f) (frAddr f)) (frData f) s0
      (modDie (frDie f) (executed (frTag f)) (respond f 0 0 (carried f s))) := by
  unfold weftWrite
  dsimp only
  rw [carryRequest_served hok hd ha, if_neg hnew, if_pos hst]
  rfl

/-- A write of TRK_CTRL of a die, which has no W1C field and no latched copy behind it. -/
theorem hostWrite_trkCtrl {d : Nat} (hd : d < 144) (v : Word) (s0 s : Mach) :
    hostWrite (winAddr d 0x5000) v s0 s = modDie d (trkCtrl s.now v) s := by
  have hplace := placeOf_winAddr hd (show 0x5000 < 0x10000 by decide)
  have hfresh : v &&& ~~~ freshBits s0 s (winAddr d 0x5000) = v := by
    have hmask : w1cMask (winAddr d 0x5000) = 0 := by
      unfold w1cMask
      dsimp only
      rw [if_neg (by unfold winAddr; omega), if_neg (by unfold winAddr; omega), if_neg (by unfold winAddr; omega), if_pos (by unfold winAddr; omega),
        show (winAddr d 0x5000 - 0x400000) % 0x10000 = 0x5000 by unfold winAddr; omega]
      decide
    rw [freshBits, hmask]
    exact (congrArg (fun x => v &&& ~~~ x) BitVec.and_zero).trans BitVec.and_allOnes
  unfold hostWrite
  rw [hfresh]
  generalize regWrite (winAddr d 0x5000) v s0 = u
  unfold latchFrom regWrite
  rw [hplace]
  rfl

/-! ### The ends of requests -/

/-- The request of a tag waits for no response any more. -/
def requestEnded (tag : Nat) (s : Mach) : Mach := { s with weft := { s.weft with reqs := tdel s.weft.reqs tag } }

theorem readEnds_host {f : Frame} (h1 : frType f = 1) (hd : frDie f < 144) (v : Word) (s : Mach) :
    readEnds f v s = emit (.readData (BitVec.ofNat 24 (winAddr (frDie f) (frAddr f))) v) s := if_pos ⟨h1, hd⟩

theorem weftResponse_read {s : Mach} {f : Frame} {r : WeftReq} (hok : frOk f 3 = true)
    (hreq : s.weft.reqs.find? (fun e => e.1 == (frTag f).toNat) = some ((frTag f).toNat, r)) (h1 : frType r.frame = 1)
    (hd : frDie r.frame < 144) (hst : frStatus f ≠ 2) :
    weftResponse f s =
      emit (.readData (BitVec.ofNat 24 (winAddr (frDie r.frame) (frAddr r.frame))) (frData f)) (requestEnded (frTag f).toNat s) := by
  unfold weftResponse
  rw [hreq]
  dsimp only
  rw [hok, if_neg hst, readEnds_host h1 hd]
  rfl

theorem weftResendTimer_again {s : Mach} {tag : Nat} {r : WeftReq}
    (hreq : s.weft.reqs.find? (fun e => e.1 == tag) = some (tag, r)) (hr : r.resends < 3) :
    weftResendTimer tag s = emit (.weft r.frame)
      { s with weft := { s.weft with reqs := tput s.weft.reqs tag { r with resends := r.resends + 1 } } } := by
  unfold weftResendTimer
  rw [hreq]
  dsimp only
  rw [if_pos hr]
  rfl

theorem weftResendTimer_ends {s : Mach} {tag : Nat} {r : WeftReq}
    (hreq : s.weft.reqs.find? (fun e => e.1 == tag) = some (tag, r)) (hr : 3 ≤ r.resends) (h1 : frType r.frame = 1)
    (hd : frDie r.frame < 144) :
    weftResendTimer tag s = emit (.readData (BitVec.ofNat 24 (winAddr (frDie r.frame) (frAddr r.frame))) 0xFFFFFFFF)
      (weftTimeout (frDie r.frame) (requestEnded tag s)) := by
  unfold weftResendTimer
  rw [hreq]
  dsimp only
  rw [if_neg (by omega), readEnds_host h1 hd, if_pos hd]
  rfl

theorem weftRingAt_modWeftRing (r : Nat) (g : WeftRing → WeftRing) (s : Mach) :
    weftRingAt (modWeftRing r g s) r = g (weftRingAt s r) := tget_tmod_same _ _ _ _

theorem weftRecord_led (r d kind : Nat) (s : Mach) : ∃ l, weftRecord r d kind s = { s with led := l } := by
  unfold weftRecord logModule modLed
  exact ⟨_, rfl⟩

theorem weftTimeout_spec (d : Nat) (s : Mach) : (weftTimeout d s).now = s.now ∧ (weftTimeout d s).out = s.out ∧
    (weftTimeout d s).weft.reqs = s.weft.reqs ∧
    (weftRingAt (weftTimeout d s) (ringOf d)).timeouts = satInc (weftRingAt s (ringOf d)).timeouts := by
  unfold weftTimeout
  obtain ⟨l, h⟩ := weftRecord_led (ringOf d) d 0 (modWeftRing (ringOf d) (fun r => { r with timeouts := satInc r.timeouts }) s)
  rw [h]
  exact ⟨rfl, rfl, rfl, congrArg WeftRing.timeouts (weftRingAt_modWeftRing (ringOf d) _ s)⟩

/-! ### Event frames (R532) -/

theorem weftEvent_die {s : Mach} {f : Frame} {e : Event} {rest : List Event} (hok : frOk f 4 = true) (hd : frDie f < 144)
    (ha : answers s (frDie f) = true) (hbuf : (dieAt s (frDie f)).stw.evBuf = e :: rest) (hcls : e.cls = fld f 32 16) :
    weftEvent f s = modLed (eventQueued e (dieAt s (frDie f)).stw.evLost) (modDie (frDie f) (buffering rest) s) := by
  unfold weftEvent
  dsimp only
  rw [hok, ha, hbuf]
  simp only [Bool.not_true, Bool.false_eq_true, if_false, or_false]
  rw [if_neg (by unfold supervisor; omega), if_neg (by omega), if_neg (not_not.2 hcls), dieEvent_some hbuf]

theorem weftEvent_supervisor {s : Mach} {f : Frame} (hok : frOk f 4 = true) (hd : frDie f = 0xFF) :
    weftEvent f s = logModule (fld f 32 16 : BitVec 16).toNat 0 (bytesOf (frData f)) s := by
  unfold weftEvent
  dsimp only
  rw [hok, if_pos (show frDie f = supervisor from hd)]
  rfl

/-! ### Broadcasts -/

/-- A die that answers takes a broadcast of TRK_CTRL, where no reset covers the register. -/
def castTrkCtrl (v : Word) (d : Nat) (s : Mach) : Mach :=
  if answers s d = true ∧ covered s (winAddr d 0x5000) = false then modDie d (trkCtrl s.now v) s else s

theorem rwMask_trkCtrl {d : Nat} (hd : d < 144) : (rwMask (winAddr d 0x5000)).isNone = false := by
  have hrow : rwMask (winAddr d 0x5000) = dieRw 0x5000 := by
    unfold rwMask winAddr
    repeat rw [if_neg (by omega)]
    rw [if_pos (by omega)]
    exact congrArg dieRw (by omega)
  rw [hrow]
  decide

theorem frameStatus_trkCtrl {d : Nat} (hd : d < 144) (s : Mach) :
    frameStatus s d 0x5000 = if covered s (winAddr d 0x5000) then 2 else 0 := by
  unfold frameStatus
  rw [rwMask_trkCtrl hd, if_neg (by decide)]

theorem answersAt_trkCtrl (s : Mach) (d : Nat) : answersAt s d 0x5000 = answers s d := by
  unfold answersAt answers
  rw [decide_eq_false (by omega), Bool.or_false]

theorem iter_congr {σ : Type} {f g : Nat → σ → σ} {s : σ} : ∀ {n : Nat}, (∀ i, i < n → ∀ u, f i u = g i u) → iter n f s = iter n g s
  | 0, _ => rfl
  | n + 1, h => by
    rw [iter_succ, iter_succ, h n (Nat.lt_succ_self n), iter_congr fun i hi => h i (Nat.lt_succ_of_lt hi)]

theorem weftBroadcast_trkCtrl {f : Frame} (hok : frOk f 6 = true) (haddr : frAddr f = 0x5000) (s0 s : Mach) :
    weftBroadcast f s0 s = iter 144 (castTrkCtrl (frData f)) s := by
  unfold weftBroadcast
  rw [hok, haddr]
  refine (if_neg (by decide)).trans (iter_congr fun d hd u => ?_)
  unfold castTrkCtrl
  rw [answersAt_trkCtrl, frameStatus_trkCtrl hd, hostWrite_trkCtrl hd]
  refine if_congr (and_congr_right fun _ => ?_) rfl rfl
  cases covered u (winAddr d 0x5000) <;> decide

theorem castTrkCtrl_frame (v : Word) (d : Nat) (s : Mach) : ∃ ds, castTrkCtrl v d s = { s with dies := ds } := by
  unfold castTrkCtrl
  split
  · exact ⟨_, rfl⟩
  · exact ⟨_, rfl⟩

theorem castTrkCtrl_other (v : Word) {d j : Nat} (hj : j ≠ d) (s : Mach) : dieAt (castTrkCtrl v d s) j = dieAt s j := by
  unfold castTrkCtrl
  split
  · exact dieAt_modDie_other _ s hj
  · rfl

theorem iter_castTrkCtrl_frame (v : Word) (n : Nat) (s : Mach) : ∃ ds, iter n (castTrkCtrl v) s = { s with dies := ds } := by
  induction n with
  | zero => exact ⟨_, rfl⟩
  | succ n ih =>
    obtain ⟨ds, h⟩ := ih
    obtain ⟨ds', h'⟩ := castTrkCtrl_frame v n (iter n (castTrkCtrl v) s)
    refine ⟨ds', ?_⟩
    rw [iter_succ, h', h]

theorem answers_of_dies {s : Mach} {d : Nat} {ds : Tbl Die} (h : dieAt { s with dies := ds } d = dieAt s d) :
    answers { s with dies := ds } d = answers s d := by
  unfold answers
  rw [h]
  rfl

theorem dieAt_broadcast {s : Mach} (hpend : s.ctl.modulePending = false) (hscope : s.ctl.scope = 0) (v : Word) {d : Nat} (hd : d < 144) :
    dieAt (iter 144 (castTrkCtrl v) s) d = if answers s d then trkCtrl s.now v (dieAt s d) else dieAt s d := by
  rw [dieAt_iter_own (castTrkCtrl_other v) s hd]
  have hown := dieAt_iter_later (castTrkCtrl_other v) s (Nat.le_refl d)
  obtain ⟨ds, h⟩ := iter_castTrkCtrl_frame v d s
  rw [h] at hown ⊢
  have hcov : covered { s with dies := ds } (winAddr d 0x5000) = false := by
    unfold covered
    rw [placeOf_winAddr hd (by decide)]
    simp [hpend, hscope]
  unfold castTrkCtrl
  rw [hcov, answers_of_dies hown]
  cases answers s d with
  | false => exact hown
  | true =>
    rw [if_pos ⟨rfl, rfl⟩, dieAt_modDie, hown]
    rfl

/-! ### Telemetry (R533) -/

/-- The smaller of a margin held and the next one. -/
def lesser (b : Option (Nat × Word)) (e : Nat × Word) : Option (Nat × Word) :=
  match b with
  | none => some e
  | some x => if e.2.toInt < x.2.toInt then some e else b

theorem foldl_lesser (t : Tbl Word) : ∀ b : Nat × Word, ∃ x, (x = b ∨ x ∈ t) ∧ t.foldl lesser (some b) = some x ∧
    x.2.toInt ≤ b.2.toInt ∧ ∀ e ∈ t, x.2.toInt ≤ e.2.toInt := by
  induction t with
  | nil => exact fun b => ⟨b, Or.inl rfl, rfl, le_refl _, fun _ he => absurd he List.not_mem_nil⟩
  | cons e t ih =>
    intro b
    have hstep : ∃ c, lesser (some b) e = some c ∧ (c = b ∨ c = e) ∧ c.2.toInt ≤ b.2.toInt ∧ c.2.toInt ≤ e.2.toInt := by
      by_cases h : e.2.toInt < b.2.toInt
      · exact ⟨e, if_pos h, Or.inr rfl, h.le, le_refl _⟩
      · exact ⟨b, if_neg h, Or.inl rfl, le_refl _, not_lt.1 h⟩
    obtain ⟨c, hc, hwhich, hcb, hce⟩ := hstep
    obtain ⟨x, hx, hfold, hxc, hall⟩ := ih c
    refine ⟨x, ?_, by rw [List.foldl_cons, hc, hfold], hxc.trans hcb, fun e' he' => ?_⟩
    · rcases hx with rfl | hx
      · exact hwhich.imp_right fun h => List.mem_cons.2 (Or.inl h)
      · exact Or.inr (List.mem_cons_of_mem _ hx)
    · rcases List.mem_cons.1 he' with rfl | he'
      · exact hxc.trans hce
      · exact hall e' he'

/-- The smallest margin of a sample is one of the sample, and none is below it. -/
theorem smallestOf_spec {t : Tbl Word} (h : t ≠ []) :
    ∃ x ∈ t, smallestOf t = some x ∧ ∀ e ∈ t, x.2.toInt ≤ e.2.toInt := by
  obtain ⟨b, t, rfl⟩ := List.exists_cons_of_ne_nil h
  obtain ⟨x, hx, hfold, hxb, hall⟩ := foldl_lesser t b
  refine ⟨x, ?_, hfold, fun e he => ?_⟩
  · rcases hx with rfl | hx
    · exact List.mem_cons_self
    · exact List.mem_cons_of_mem _ hx
  · rcases List.mem_cons.1 he with rfl | he
    · exact hxb
    · exact hall e he

/-- TEL_MINMARG and TEL_MINCORE name the smallest margin of a sample that holds one. -/
theorem withSample_spec (w : Weft) {t : Tbl Word} (h : t ≠ []) : ∃ x ∈ t, (withSample t w).minMargin = x.2 ∧
    (withSample t w).minCore = BitVec.ofNat 15 x.1 ∧ ∀ e ∈ t, x.2.toInt ≤ e.2.toInt := by
  obtain ⟨x, hx, hsmall, hall⟩ := smallestOf_spec h
  refine ⟨x, hx, ?_, ?_, hall⟩ <;> simp only [withSample, hsmall]

theorem withSample_minMargin_le (w : Weft) (t : Tbl Word) : ∀ e ∈ t, (withSample t w).minMargin.toInt ≤ e.2.toInt := by
  intro e he
  obtain ⟨x, -, hmin, -, hall⟩ := withSample_spec w (List.ne_nil_of_mem he)
  rw [hmin]
  exact hall e he

theorem weftTelemetry_carried {s : Mach} {f : Frame} (hok : frOk f 5 = true) (hd : frDie f < 144) (ha : answers s (frDie f) = true)
    (hlo : 0x1000 ≤ frAddr f) (hhi : frAddr f < 0x4400) (hp : present s (frDie f * 208 + (frAddr f - 0x1000) / 0x40) = true) :
    weftTelemetry f s =
      modWeft (fun w => withSample (tput w.sample (mlcOf s (frDie f * 208 + (frAddr f - 0x1000) / 0x40)) (frData f)) w)
        (ringEvents (ringOf (frDie f)) s) := by
  unfold weftTelemetry
  dsimp only
  rw [if_neg]
  simp only [hok, ha, hp, Bool.not_true, Bool.false_eq_true, false_or, or_false, not_or]
  omega

/-! ### Samples of every core -/

theorem logicalRow_le {s r l : Nat} (h : logicalRow s r = some l) : l ≤ r := by
  unfold logicalRow at h
  split at h
  · rw [← Option.some.inj h]
  · split at h
    · exact absurd h (by simp)
    · rw [← Option.some.inj h]
      exact Nat.sub_le _ _

theorem lcOf_lt {d : Die} {pc : Nat} (hpc : pc < 208) : (lcOf d pc).getD 0 < 208 := by
  unfold lcOf
  dsimp only
  cases hl : logicalRow (spareRow d (pc % 16)) (pc / 16) with
  | none => exact Nat.zero_lt_succ _
  | some l =>
    have := logicalRow_le hl
    dsimp only
    split
    · exact Nat.zero_lt_succ _
    · show l * 16 + pc % 16 < 208
      omega

theorem mem_presentCores_lt {s : Mach} {k : Nat} (h : k ∈ presentCores s) : k < 144 * 208 + 64 := by
  obtain ⟨m, hm, hk⟩ := List.mem_filterMap.1 h
  rw [List.mem_range] at hm
  unfold coreOfMlc at hk
  rw [if_pos hm] at hk
  obtain ⟨pc, hpc, rfl⟩ := Option.map_eq_some_iff.1 hk
  unfold pcOfLc at hpc
  dsimp only at hpc
  split at hpc
  · exact absurd hpc (by simp)
  · rw [← Option.some.inj hpc]
    split <;> omega

theorem mlcOf_lt {s : Mach} {k : Nat} (h : k < 144 * 208 + 64) : mlcOf s k < 2 ^ 15 := by
  have := lcOf_lt (d := dieAt s (dieOf k)) (show pcOf k < 208 from Nat.mod_lt _ (by decide))
  unfold mlcOf
  unfold dieOf at *
  omega

/-- The margins that the cores which are named send. -/
def marginsOf (s : Mach) (ks : List Nat) : Tbl Word := ks.foldl (fun t k => tput t (mlcOf s k) (sampleOf s k)) []

theorem foldl_margins_lt {s : Mach} : ∀ {ks : List Nat} {t : Tbl Word}, (∀ k ∈ ks, k < 144 * 208 + 64) → (∀ e ∈ t, e.1 < 2 ^ 15) →
    ∀ e ∈ ks.foldl (fun t k => tput t (mlcOf s k) (sampleOf s k)) t, e.1 < 2 ^ 15
  | [], _, _, ht => ht
  | k :: ks, t, hks, ht => by
    rw [List.foldl_cons]
    refine foldl_margins_lt (fun j hj => hks j (List.mem_cons_of_mem _ hj)) fun e he => ?_
    rcases mem_of_mem_tput he with rfl | he
    · exact mlcOf_lt (hks k List.mem_cons_self)
    · exact ht e he

/-- The margins that the present cores of the dies that answer send. -/
def sampleTable (s : Mach) : Tbl Word := marginsOf s ((presentCores s).filter (fun k => answers s (dieOf k)))

theorem sampleTable_lt (s : Mach) : ∀ e ∈ sampleTable s, e.1 < 2 ^ 15 :=
  foldl_margins_lt (fun _ hk => mem_presentCores_lt (List.mem_filter.1 hk).1) fun _ he => absurd he List.not_mem_nil

/-- The steward's shadow counts are cleared. -/
def shadowsCleared (x : Die) : Die := { x with stw := { x.stw with shCe := 0, shUe := 0, shStr := 0, shTrips := 0 } }

def clearShadows (d : Nat) (s : Mach) : Mach := if answers s d then modDie d shadowsCleared s else s

/-- A core whose steward has sent its margin, if its die answers. -/
def marginSent (s : Mach) (e : Nat × Core) : Core := if answers s (dieOf e.1) then { e.2 with telMargin := none } else e.2

/-- The cores of the dies that answer hold no margin since the last sample. -/
def marginsSent (s : Mach) : Mach :=
  { s with free := s.free + 27648, cores := s.cores.filterMap (fun e =>
    if marginSent s e = Core.reset then none else some (e.1, marginSent s e)) }

/-- The aggregator counts a sample and holds its margins and counts. -/
def aggregated (t : Tbl Word) (c : Tbl DieCounts) (w : Weft) : Weft := withSample t { w with telSeq := w.telSeq + 1, counts := c }

theorem telemetrySample_ready {s : Mach} (h : s.start.state = 7) :
    telemetrySample s = modWeft (aggregated (sampleTable (iter 4 ringEvents s)) (sentCounts (iter 4 ringEvents s)))
      (iter 144 clearShadows (marginsSent (iter 4 ringEvents s))) := by
  unfold telemetrySample
  rw [if_neg (not_not.2 h)]
  rfl

theorem clearShadows_other {d j : Nat} (hj : j ≠ d) (s : Mach) : dieAt (clearShadows d s) j = dieAt s j := by
  unfold clearShadows
  split
  · exact dieAt_modDie_other _ s hj
  · rfl

theorem iter_clearShadows_frame (n : Nat) (s : Mach) : ∃ ds, iter n clearShadows s = { s with dies := ds } := by
  induction n with
  | zero => exact ⟨_, rfl⟩
  | succ n ih =>
    obtain ⟨ds, h⟩ := ih
    rw [iter_succ, h]
    unfold clearShadows
    split
    · exact ⟨_, rfl⟩
    · exact ⟨_, rfl⟩

theorem dieAt_shadows {s : Mach} {d : Nat} (hd : d < 144) (ha : answers s d = true) :
    dieAt (iter 144 clearShadows s) d = shadowsCleared (dieAt s d) := by
  rw [dieAt_iter_own clearShadows_other s hd]
  have hown := dieAt_iter_later clearShadows_other s (Nat.le_refl d)
  obtain ⟨ds, h⟩ := iter_clearShadows_frame d s
  rw [h] at hown ⊢
  rw [clearShadows, answers_of_dies hown, if_pos ha, dieAt_modDie, hown]

theorem marginsSent_cores {s : Mach} {e : Nat × Core} (he : e ∈ (marginsSent s).cores) (ha : answers s (dieOf e.1) = true) :
    e.2.telMargin = none := by
  obtain ⟨x, -, hx⟩ := List.mem_filterMap.1 he
  by_cases hreset : marginSent s x = Core.reset
  · exact absurd hx (by simp [hreset])
  · rw [if_neg hreset] at hx
    rw [← Option.some.inj hx] at ha ⊢
    have hsent : marginSent s x = { x.2 with telMargin := none } := if_pos ha
    exact congrArg Core.telMargin hsent

theorem iter_ringEvents_sent (n : Nat) (s : Mach) : EventsSent s (iter n ringEvents s) :=
  iter_related EventsSent.refl (fun h g => h.trans g) ringEvents_sent n s

theorem ringEvents_keepsGone {r d : Nat} {s : Mach} (h : (dieAt s d).stw.evBuf = []) : (dieAt (ringEvents r s) d).stw.evBuf = [] := by
  rw [ringEvents_eq]
  by_cases hd : d < 144
  · rw [dieAt_iter_own eventsOf_other s hd]
    have hown := dieAt_iter_later (f := eventsOf r) eventsOf_other s (Nat.le_refl d)
    rw [← hown] at h
    revert h
    generalize iter d (eventsOf r) s = u
    intro h
    unfold eventsOf
    rw [h]
    exact (ite_self (c := ringOf d = r ∧ answers u d = true) u).symm ▸ h
  · rw [dieAt_iter_later eventsOf_other s (by omega)]
    exact h

/-- After the events of the first rings no steward of theirs holds one. -/
theorem iter_ringEvents_gone (s : Mach) {d : Nat} (hd : d < 144) (ha : answers s d = true) : ∀ {n : Nat}, ringOf d < n →
    (dieAt (iter n ringEvents s) d).stw.evBuf = []
  | 0, h => absurd h (Nat.not_lt_zero _)
  | n + 1, h => by
    rw [iter_succ]
    by_cases hr : ringOf d = n
    · exact ringEvents_gone n _ d hd hr (((iter_ringEvents_sent n s).answers d).trans ha)
    · exact ringEvents_keepsGone (iter_ringEvents_gone s hd ha (by omega))

theorem ringOf_lt {d : Nat} (h : d < 144) : ringOf d < 4 := by
  unfold ringOf
  split <;> omega

theorem mem_sentCounts {s : Mach} {d : Nat} (hd : d < 144) (ha : answers s d = true) :
    (d, ({ ce := (dieAt s d).stw.shCe, ue := (dieAt s d).stw.shUe, str := (dieAt s d).stw.shStr
           trips := (dieAt s d).stw.shTrips } : DieCounts)) ∈ sentCounts s :=
  List.mem_filterMap.2 ⟨d, List.mem_range.2 hd, if_pos ha⟩

/-- What a sample of telemetry leaves (R533). -/
structure Sampled (s t : Mach) : Prop where
  now : t.now = s.now
  seq : t.weft.telSeq = s.weft.telSeq + 1
  cores : ∀ e ∈ t.cores, answers s (dieOf e.1) = true → e.2.telMargin = none
  dies : ∀ d, d < 144 → answers s d = true → (dieAt t d).stw.shCe = 0 ∧ (dieAt t d).stw.shUe = 0 ∧ (dieAt t d).stw.evBuf = [] ∧
    (d, ({ ce := (dieAt s d).stw.shCe, ue := (dieAt s d).stw.shUe, str := (dieAt s d).stw.shStr
           trips := (dieAt s d).stw.shTrips } : DieCounts)) ∈ t.weft.counts
  least : ∀ e ∈ t.weft.sample, t.weft.minMargin.toInt ≤ e.2.toInt
  named : t.weft.sample ≠ [] → (t.weft.minCore.toNat, t.weft.minMargin) ∈ t.weft.sample

/-- The aggregator takes a sample of `u`, whose stewards hold no event; `v` is the module with the stewards' copies cleared. -/
theorem aggregated_spec {s u v : Mach} {t : Tbl Word} {c : Tbl DieCounts} (hsent : EventsSent s u)
    (hgone : ∀ d, d < 144 → answers s d = true → (dieAt u d).stw.evBuf = []) (hnow : v.now = u.now) (hweft : v.weft = u.weft)
    (hcores : ∀ e ∈ v.cores, answers u (dieOf e.1) = true → e.2.telMargin = none)
    (hdies : ∀ d, d < 144 → answers u d = true → dieAt v d = shadowsCleared (dieAt u d))
    (hcounts : ∀ d, d < 144 → answers u d = true →
      (d, ({ ce := (dieAt u d).stw.shCe, ue := (dieAt u d).stw.shUe, str := (dieAt u d).stw.shStr
             trips := (dieAt u d).stw.shTrips } : DieCounts)) ∈ c)
    (hkeys : ∀ e ∈ t, e.1 < 2 ^ 15) : Sampled s (modWeft (aggregated t c) v) := by
  obtain ⟨hnow', -, -, -, -, hweft', -, -⟩ := hsent.frame
  refine ⟨hnow.trans hnow', ?_, fun e he ha => hcores e he ((hsent.answers _).trans ha), fun d hd ha => ?_,
    withSample_minMargin_le _ _, fun hne => ?_⟩
  · show v.weft.telSeq + 1 = _
    rw [hweft, hweft']
  · have hau := (hsent.answers d).trans ha
    obtain ⟨-, hce, hue, hstr, htrips⟩ := hsent.counts d
    have hd' : dieAt (modWeft (aggregated t c) v) d = shadowsCleared (dieAt u d) := hdies d hd hau
    rw [hd', ← hce, ← hue, ← hstr, ← htrips]
    exact ⟨rfl, rfl, hgone d hd ha, hcounts d hd hau⟩
  · obtain ⟨x, hx, hmin, hcore, -⟩ := withSample_spec (t := t) { v.weft with telSeq := v.weft.telSeq + 1, counts := c } hne
    show ((withSample _ _).minCore.toNat, (withSample _ _).minMargin) ∈ t
    rw [hmin, hcore, BitVec.toNat_ofNat, Nat.mod_eq_of_lt (hkeys x hx)]
    exact hx

/-- A sample with the events gone: what is left to do. -/
theorem sample_spec {s u : Mach} (hsent : EventsSent s u)
    (hgone : ∀ d, d < 144 → answers s d = true → (dieAt u d).stw.evBuf = []) :
    Sampled s (modWeft (aggregated (sampleTable u) (sentCounts u)) (iter 144 clearShadows (marginsSent u))) := by
  have hdies : ∀ d, d < 144 → answers u d = true →
      dieAt (iter 144 clearShadows (marginsSent u)) d = shadowsCleared (dieAt u d) := fun d hd ha => dieAt_shadows hd ha
  obtain ⟨ds, hframe⟩ := iter_clearShadows_frame 144 (marginsSent u)
  rw [hframe] at hdies ⊢
  exact aggregated_spec hsent hgone rfl rfl (fun _ he ha => marginsSent_cores he ha) hdies (fun _ hd ha => mem_sentCounts hd ha)
    (sampleTable_lt u)

theorem telemetrySample_spec {s : Mach} (h : s.start.state = 7) : Sampled s (telemetrySample s) := by
  rw [telemetrySample_ready h]
  exact sample_spec (iter_ringEvents_sent 4 s) fun d hd ha => iter_ringEvents_gone s hd ha (ringOf_lt hd)

/-! ### Breaks of a ring -/

theorem weftRingBreak_first {r d : Nat} {s : Mach} (hr : ringOf d = r) (hwhole : (weftRingAt s r).state = 0) :
    weftRingBreak r d s = weftRecord r d 1 (modWeftRing r (fun x => { x with state := 1, brk := BitVec.ofNat 8 d }) s) := by
  unfold weftRingBreak
  dsimp only
  rw [if_neg (not_not.2 hr), if_pos hwhole]

theorem weftRingBreak_spec {r d : Nat} {s : Mach} (hr : ringOf d = r) (hwhole : (weftRingAt s r).state = 0) :
    (weftRingBreak r d s).now = s.now ∧ (weftRingAt (weftRingBreak r d s) r).state = 1 ∧
      (weftRingAt (weftRingBreak r d s) r).brk = BitVec.ofNat 8 d ∧ (weftRingBreak r d s).dies = s.dies := by
  rw [weftRingBreak_first hr hwhole]
  obtain ⟨l, h⟩ := weftRecord_led r d 1 (modWeftRing r (fun x => { x with state := 1, brk := BitVec.ofNat 8 d }) s)
  rw [h]
  have hring := weftRingAt_modWeftRing r (fun x => { x with state := 1, brk := BitVec.ofNat 8 d }) s
  exact ⟨rfl, congrArg WeftRing.state hring, congrArg WeftRing.brk hring, rfl⟩

/-! ### What the frames do -/

theorem weftWrite_trkCtrl {s0 s : Mach} {f : Frame} (hok : frOk f 2 = true) (hd : frDie f < 144) (ha : answers s (frDie f) = true)
    (hst : frameStatus s (frDie f) (frAddr f) = 0) (haddr : frAddr f = 0x5000)
    (hnew : (dieAt s (frDie f)).stw.lastTag ≠ some (frTag f)) :
    (weftWrite f s0 s).out = s.out ++ [answerTo f 0 0] ∧
      (dieAt (weftWrite f s0 s) (frDie f)).stw.lastTag = some (frTag f) ∧
      (dieAt (weftWrite f s0 s) (frDie f)).trk.perRound = bit (frData f) 0 ∧
      (bit (frData f) 1 = true → (dieAt (weftWrite f s0 s) (frDie f)).trk.live = []) := by
  rw [weftWrite_executed hok hd (answersAt_of_answers ha _) hst hnew, haddr, hostWrite_trkCtrl hd, modDie_modDie, dieAt_modDie]
  exact ⟨congrArg (· ++ _) (carried_spec f s).out, rfl, rfl, fun hclr => if_pos hclr⟩

theorem weftEvent_spec {s : Mach} {f : Frame} {e : Event} {rest : List Event} (hok : frOk f 4 = true) (hd : frDie f < 144)
    (ha : answers s (frDie f) = true) (hbuf : (dieAt s (frDie f)).stw.evBuf = e :: rest) (hcls : e.cls = fld f 32 16) :
    (weftEvent f s).now = s.now ∧ (dieAt (weftEvent f s) (frDie f)).stw.evBuf = rest ∧
      (dieAt (weftEvent f s) (frDie f)).stw.evLost = [] ∧ (weftEvent f s).led.ledSupp = (queueEvent e s.led).ledSupp ∧
      ((dieAt s (frDie f)).stw.evLost = [] → (weftEvent f s).led = queueEvent e s.led) := by
  rw [weftEvent_die hok hd ha hbuf hcls]
  have hdie := dieAt_modDie (frDie f) (buffering rest) s
  exact ⟨rfl, congrArg (fun x => x.stw.evBuf) hdie, congrArg (fun x => x.stw.evLost) hdie, rfl,
    fun hlost => congrArg (fun l => eventQueued e l s.led) hlost⟩

theorem weftTelemetry_spec {s : Mach} {f : Frame} (hok : frOk f 5 = true) (hd : frDie f < 144) (ha : answers s (frDie f) = true)
    (hlo : 0x1000 ≤ frAddr f) (hhi : frAddr f < 0x4400) (hp : present s (frDie f * 208 + (frAddr f - 0x1000) / 0x40) = true) :
    (weftTelemetry f s).now = s.now ∧ EventsGone s (weftTelemetry f s) (ringOf (frDie f)) ∧
      (weftTelemetry f s).weft.sample =
        tput s.weft.sample (mlcOf s (frDie f * 208 + (frAddr f - 0x1000) / 0x40)) (frData f) ∧
      (∃ e ∈ (weftTelemetry f s).weft.sample, e.2 = (weftTelemetry f s).weft.minMargin) ∧
      ∀ e ∈ (weftTelemetry f s).weft.sample, (weftTelemetry f s).weft.minMargin.toInt ≤ e.2.toInt := by
  rw [weftTelemetry_carried hok hd ha hlo hhi hp]
  generalize mlcOf s (frDie f * 208 + (frAddr f - 0x1000) / 0x40) = k
  obtain ⟨hnow, -, -, -, -, hweft, -, -⟩ := (ringEvents_sent (ringOf (frDie f)) s).frame
  have hgone := ringEvents_gone (ringOf (frDie f)) s
  revert hgone hnow hweft
  generalize ringEvents (ringOf (frDie f)) s = u
  intro hnow hweft hgone
  refine ⟨hnow, hgone, congrArg (fun w : Weft => tput w.sample k (frData f)) hweft, ?_, withSample_minMargin_le _ _⟩
  obtain ⟨x, hx, hmin, -, -⟩ := withSample_spec u.weft (List.ne_nil_of_mem (mem_tput_self u.weft.sample k (frData f)))
  exact ⟨x, hx, hmin.symm⟩

/-- Settles O51: a request that is carried finds the events of its ring gone, and the other frames have one equation each. -/
theorem theWeftCarriesAccessesAndEvents : Obligations.TheWeftCarriesAccessesAndEvents := by
  unfold Obligations.TheWeftCarriesAccessesAndEvents
  refine ⟨?_, ?_, ?_, ?_, ?_, ?_, ?_, ?_, ?_, ?_, ?_, ?_, ?_, ?_, ?_, ?_⟩
  · intro s f hok hd ha hst
    obtain ⟨hout, hawaits, hgone, hedge, hrnd⟩ := weftRead_answered (s0 := s.start) hok hd ha hst
    exact ⟨_, rfl, rfl, hout, hawaits, hgone, hedge, hrnd⟩
  · intro s f hok hd ha haddr
    obtain ⟨hout, hkept⟩ := weftRead_refused (s0 := s.start) hok hd ha haddr
    exact ⟨_, rfl, rfl, hout, hkept⟩
  · intro s f hok hd
    have hawaits := awaitResponse_awaits f s.m
    by_cases h1 : frType f = 1
    · rw [if_pos h1]
      have hok1 : frOk f 1 = true := hok.elim id fun h => absurd (h1.symm.trans (frType_of_frOk h)) (by decide)
      have hread : weftRead f s.start s.m = respond f 0 1 (awaitResponse f s.m) := carryRequest_supervisor hok1 hd _
      refine ⟨_, congrArg (fun m => Host.Outcome.next (s.accessed m)) hread, rfl, rfl, hawaits, rfl, rfl⟩
    · rw [if_neg h1]
      have hok2 : frOk f 2 = true := hok.elim (fun h => absurd (frType_of_frOk h) h1) id
      have hwrite : weftWrite f s.start s.m = respond f 0 1 (awaitResponse f s.m) := by
        unfold weftWrite
        exact carryRequest_supervisor hok2 hd _
      refine ⟨_, congrArg (fun m => Host.Outcome.next (s.accessed m)) hwrite, rfl, rfl, hawaits, rfl, rfl⟩
  · intro s f htype hbad
    have hread : weftRead f s.start s.m = awaitResponse f s.m := carryRequest_discarded htype hbad _
    exact ⟨_, congrArg (fun m => Host.Outcome.next (s.accessed m)) hread, rfl, rfl, awaitResponse_awaits f s.m, rfl, rfl⟩
  · intro s f hok hd ha hst haddr hnew
    obtain ⟨hout, htag, hround, hlive⟩ := weftWrite_trkCtrl (s0 := s.start) hok hd ha hst haddr hnew
    exact ⟨_, rfl, rfl, hout, htag, hround, hlive⟩
  · intro s f hok hd ha hst hnew
    obtain ⟨hout, hdies, htag⟩ := (carried_spec f s.m).answered (frameStatus s.m (frDie f) (frAddr f))
    exact ⟨_, congrArg (fun m => Host.Outcome.next (s.accessed m)) (weftWrite_refused (s0 := s.start) hok hd ha hst hnew), rfl,
      hout, hdies, htag⟩
  · intro s f hok hd ha hlast
    obtain ⟨hout, hdies, -⟩ := (carried_spec f s.m).answered 0
    exact ⟨_, congrArg (fun m => Host.Outcome.next (s.accessed m)) (weftWrite_again (s0 := s.start) hok hd ha hlast), rfl,
      hout, hdies⟩
  · intro s f r hok hreq h1 hd hst
    show run (weftResponse f) s = _
    exact run_eq_after (weftResponse_read hok hreq h1 hd hst)
  · intro s tag r hreq hr
    show run (weftResendTimer tag.toNat) s = _
    exact run_eq_after (weftResendTimer_again hreq hr)
  · intro s tag r hreq hr h1 hd
    obtain ⟨hnow, hout, hreqs, htimeouts⟩ := weftTimeout_spec (frDie r.frame) (requestEnded tag.toNat s.m)
    have hends := weftResendTimer_ends hreq hr h1 hd
    obtain ⟨hrun, hpend, hm⟩ := runs_to (f := weftResendTimer tag.toNat) (s := s) (by rw [hends]; exact hnow)
    refine ⟨_, hrun, hpend, ?_⟩
    rw [hm, hends]
    exact ⟨hreqs, htimeouts, congrArg (· ++ _) hout⟩
  · intro s f e rest hok hd ha hbuf hcls
    obtain ⟨hnow, hevents⟩ := weftEvent_spec hok hd ha hbuf hcls
    obtain ⟨hrun, hpend, hm⟩ := runs_to (f := weftEvent f) (s := s) hnow
    refine ⟨_, hrun, hpend, ?_⟩
    rw [hm]
    exact hevents
  · intro s f hok hd
    have hevent := weftEvent_supervisor (s := s.m) hok hd
    obtain ⟨hrun, hpend, hm⟩ := runs_to (f := weftEvent f) (s := s) (by rw [hevent]; rfl)
    refine ⟨_, hrun, hpend, ?_⟩
    rw [hm, hevent]
    exact ⟨rfl, rfl⟩
  · intro s f hok haddr hpend hscope
    refine ⟨s.accessed (weftBroadcast f s.start s.m), rfl, rfl, fun d hd => ?_⟩
    show dieAt (weftBroadcast f s.start s.m) d = _
    rw [weftBroadcast_trkCtrl hok haddr]
    exact dieAt_broadcast hpend hscope (frData f) hd
  · intro s f hok hd ha hlo hhi hp
    obtain ⟨hnow, htelemetry⟩ := weftTelemetry_spec hok hd ha hlo hhi hp
    obtain ⟨hrun, hpend, hm⟩ := runs_to (f := weftTelemetry f) (s := s) hnow
    refine ⟨_, hrun, hpend, ?_⟩
    rw [hm]
    exact htelemetry
  · intro s r d hr hwhole
    obtain ⟨hnow, hbreak⟩ := weftRingBreak_spec hr hwhole
    obtain ⟨hrun, hpend, hm⟩ := runs_to (f := weftRingBreak r.val d.val) (s := s) hnow
    refine ⟨_, hrun, hpend, ?_⟩
    rw [hm]
    exact hbreak
  · intro s hready
    obtain ⟨hnow, hseq, hcores, hdies, hleast, hnamed⟩ := telemetrySample_spec hready
    obtain ⟨hrun, hpend, hm⟩ := runs_to (f := telemetrySample) (s := s) hnow
    refine ⟨_, hrun, hpend, ?_⟩
    rw [hm]
    exact ⟨hseq, hcores, hdies, hleast, hnamed⟩

end Sys2Proof.Spec
end


section
/-! PROOFS. What the operations of the module leave still: the round unit's state, the clock and the memories. -/

namespace Sys2Proof.Spec

open Sys2Proof.Machine

/-! ### The parts that most operations leave as they are -/

/-- The state of the round unit, the clock of the round, and the memories of the stacks and of the queues. -/
structure Still where
  rnd : Rnd
  now : Nat
  began : Nat
  lost : Nat
  cycle : Nat
  mems : Mem × Mem

def still (s : Mach) : Still :=
  { rnd := s.rnd, now := s.now, began := s.fab.began, lost := s.fab.lost, cycle := s.fab.cycle, mems := (s.edge.mem, s.host.qmem) }

theorem still_foldl_of {α : Type} {f : Mach → α → Mach} (hf : ∀ s a, still (f s a) = still s) (l : List α) :
    ∀ s, still (l.foldl f s) = still s := by
  induction l with
  | nil => exact fun _ => rfl
  | cons a l ih => exact fun s => (ih (f s a)).trans (hf s a)

@[simp] theorem still_foldl {α : Type} {f : Mach → α → Mach} {l : List α} {s : Mach} (hf : ∀ s a, still (f s a) = still s) :
    still (l.foldl f s) = still s := still_foldl_of hf l s

@[simp] theorem still_iter {n : Nat} {f : Nat → Mach → Mach} {s : Mach} (hf : ∀ i s, still (f i s) = still s) :
    still (iter n f s) = still s := still_foldl_of (fun s i => hf i s) _ s

theorem mems_foldl_of {α : Type} {f : Mach → α → Mach} (hf : ∀ s a, (still (f s a)).mems = (still s).mems) (l : List α) :
    ∀ s, (still (l.foldl f s)).mems = (still s).mems := by
  induction l with
  | nil => exact fun _ => rfl
  | cons a l ih => exact fun s => (ih (f s a)).trans (hf s a)

@[simp] theorem mems_foldl {α : Type} {f : Mach → α → Mach} {l : List α} {s : Mach}
    (hf : ∀ s a, (still (f s a)).mems = (still s).mems) : (still (l.foldl f s)).mems = (still s).mems := mems_foldl_of hf l s

@[simp] theorem mems_iter {n : Nat} {f : Nat → Mach → Mach} {s : Mach} (hf : ∀ i s, (still (f i s)).mems = (still s).mems) :
    (still (iter n f s)).mems = (still s).mems := mems_foldl_of (fun s i => hf i s) _ s

@[simp] theorem mems_modRnd (f : Rnd → Rnd) (s : Mach) : (still (modRnd f s)).mems = (still s).mems := rfl

@[simp] theorem still_modEdge {f : Edge → Edge} {s : Mach} (hf : (f s.edge).mem = s.edge.mem) :
    still (modEdge f s) = still s := by
  unfold still modEdge
  simp only [hf]

@[simp] theorem still_modHost {f : HostBlk → HostBlk} {s : Mach} (hf : (f s.host).qmem = s.host.qmem) :
    still (modHost f s) = still s := by
  unfold still modHost
  simp only [hf]

@[simp] theorem still_ite {p : Prop} [Decidable p] {s t u : Mach} (ht : still t = still s) (hu : still u = still s) :
    still (if p then t else u) = still s := by
  split
  · exact ht
  · exact hu

/-! ### Ops.lean -/

@[simp] theorem still_modCore (k : Nat) (f : Core → Core) (s : Mach) : still (modCore k f s) = still s := by rfl

@[simp] theorem still_modDie (d : Nat) (f : Die → Die) (s : Mach) : still (modDie d f s) = still s := by rfl

@[simp] theorem still_modStk (i : Nat) (f : Stack → Stack) (s : Mach) : still (modStk i f s) = still s := by rfl

@[simp] theorem still_modRing (q : Nat) (f : Ring → Ring) (s : Mach) : still (modRing q f s) = still s := by rfl

@[simp] theorem still_modDpw (d : Nat) (f : DiePower → DiePower) (s : Mach) : still (modDpw d f s) = still s := by rfl

@[simp] theorem still_modPort (p : Nat) (f : Port → Port) (s : Mach) : still (modPort p f s) = still s := by rfl

@[simp] theorem still_modUnit (u : Nat) (f : Unit_ → Unit_) (s : Mach) : still (modUnit u f s) = still s := by rfl

@[simp] theorem still_modTrn (f : Train → Train) (s : Mach) : still (modTrn f s) = still s := by rfl

@[simp] theorem still_modRmt (f : Remote → Remote) (s : Mach) : still (modRmt f s) = still s := by rfl

@[simp] theorem still_modSys (f : Sys → Sys) (s : Mach) : still (modSys f s) = still s := by rfl

@[simp] theorem still_modLs (f : Lockstep → Lockstep) (s : Mach) : still (modLs f s) = still s := by rfl

@[simp] theorem still_modPwr (f : Power → Power) (s : Mach) : still (modPwr f s) = still s := by rfl

@[simp] theorem still_modStart (f : Start → Start) (s : Mach) : still (modStart f s) = still s := by rfl

@[simp] theorem still_modSec (f : Sections → Sections) (s : Mach) : still (modSec f s) = still s := by rfl

@[simp] theorem still_modCtl (f : Control → Control) (s : Mach) : still (modCtl f s) = still s := by rfl

@[simp] theorem still_modKeep (f : Keep → Keep) (s : Mach) : still (modKeep f s) = still s := by rfl

@[simp] theorem still_modMnt (f : Maint → Maint) (s : Mach) : still (modMnt f s) = still s := by rfl

@[simp] theorem still_modLed (f : Ledger → Ledger) (s : Mach) : still (modLed f s) = still s := by rfl

@[simp] theorem still_emit (e : OutEv) (s : Mach) : still (emit e s) = still s := by rfl

@[simp] theorem still_sendVector (v : BitVec 6) (s : Mach) : still (sendVector v s) = still s := by
  unfold sendVector
  split <;> simp

@[simp] theorem still_noteRaise (a b : Nat) (s : Mach) : still (noteRaise a b s) = still s := by rfl

@[simp] theorem still_raiseIrq (c : Nat) (s0 : Mach) : still (raiseIrq c s0) = still s0 := by
  unfold raiseIrq
  dsimp only
  repeat' split
  all_goals simp

@[simp] theorem still_logModule (cls flags : Nat) (detail : List Byte) (s : Mach) :
    still (logModule cls flags detail s) = still s := by rfl

@[simp] theorem still_logAt (cls scope flags die unit loc : Nat) (detail : List Byte) (s : Mach) :
    still (logAt cls scope flags die unit loc detail s) = still s := by rfl

@[simp] theorem still_logDie (die cls scope flags unit loc : Nat) (detail : List Byte) (s : Mach) :
    still (logDie die cls scope flags unit loc detail s) = still s := by rfl

@[simp] theorem still_uncorrected (cls : Nat) (s : Mach) : still (uncorrected cls s) = still s := by
  simp [uncorrected]

@[simp] theorem still_complete (o : Owed) (status : Nat) (detail : Nat) (s : Mach) :
    still (complete o status detail s) = still s := by rfl

@[simp] theorem still_completeOpt (o : Option Owed) (status detail : Nat) (s : Mach) :
    still (completeOpt o status detail s) = still s := by
  unfold completeOpt
  split <;> simp

/-! ### CoreOps.lean -/

@[simp] theorem still_columnSuspect (die : Nat) (x : Suspect) (s : Mach) : still (columnSuspect die x s) = still s := by
  unfold columnSuspect
  dsimp only
  repeat' split
  all_goals simp

@[simp] theorem still_noteCore (die : Nat) (n : LogEntry) (s : Mach) : still (noteCore die n s) = still s := by rfl

@[simp] theorem still_logErr (k src : Nat) (e : ErrRec) (s : Mach) : still (logErr k src e s) = still s := by
  unfold logErr
  dsimp only
  repeat' split
  all_goals simp

@[simp] theorem still_logErrs (k src : Nat) (es : List ErrRec) (s : Mach) : still (logErrs k src es s) = still s := by
  simp [logErrs]

@[simp] theorem still_endProgram (sig : Bool) (k : Nat) (s : Mach) : still (endProgram sig k s) = still s := by rfl

@[simp] theorem still_haltCore (k : Nat) (s : Mach) : still (haltCore k s) = still s := by rfl

@[simp] theorem still_stewardStop (k cls : Nat) (s : Mach) : still (stewardStop k cls s) = still s := by
  simp [stewardStop]

@[simp] theorem still_recordFault (k : Nat) (u : Bool) (cause addr epc : Nat) (s : Mach) :
    still (recordFault k u cause addr epc s) = still s := by
  simp [recordFault]

@[simp] theorem still_enterHandler (k : Nat) (u : Bool) (cause addr epc : Nat) (s : Mach) :
    still (enterHandler k u cause addr epc s) = still s := by rfl

@[simp] theorem still_reportU (k cause addr epc : Nat) (s : Mach) : still (reportU k cause addr epc s) = still s := by
  simp [reportU]

@[simp] theorem still_classU (k cause addr epc : Nat) (eng : Option Nat) (s : Mach) :
    still (classU k cause addr epc eng s) = still s := by
  unfold classU
  dsimp only
  repeat' split
  all_goals simp

@[simp] theorem still_afterRead {k eng src : Nat} {pc : Word} {x : RowsRead} {go : Mach → Mach} {s : Mach}
    (hgo : ∀ s, still (go s) = still s) : still (afterRead k eng src pc x go s) = still s := by
  unfold afterRead
  dsimp only
  split
  · simp
  · split
    · simp
    · exact (hgo _).trans (still_logErrs k src x.errs s)

/-! ### Tokens.lean -/

@[simp] theorem still_endActivity (h : BitVec 16) (s : Mach) : still (endActivity h s) = still s := by rfl

@[simp] theorem still_proceed (a : Activity) (s : Mach) : still (proceed a s) = still s := by
  unfold proceed
  repeat' split
  all_goals simp

@[simp] theorem still_reqActivity (code subject part : Nat) (tokens : List Nat) (owed : Option Owed) (s : Mach) :
    still (reqActivity code subject part tokens owed s) = still s := by
  unfold reqActivity
  dsimp only
  repeat' split
  all_goals simp

/-! ### EdgeOps.lean -/

@[simp] theorem still_emcEvt (b : Nat) (s : Mach) : still (emcEvt b s) = still s := by
  simp [emcEvt]

@[simp] theorem still_reqDieLost (st d : Nat) (s : Mach) : still (reqDieLost st d s) = still s := by
  unfold reqDieLost
  repeat' split
  all_goals simp

/-- An entry of the log of a stack, as an error of a read leaves it. -/
def edgeLogged (src cw : Nat) (n : EdgeLog) (s : Mach) : Mach :=
  let st := stackOf (32 * cw)
  let s1 := modStk st (fun k => (edgeLogEntry n k).1) { s with notes := { s.notes with edges := s.notes.edges ++ [(st, n)] } }
  if (edgeLogEntry n (stkAt s st)).2 then
    logAt 0x25 4 (if n.ue && [0, 1, 2, 5].contains src then 1 else 0) 0xFFFF st (32 * cw) (bytesOf (edgeLogWords n)) s1
  else s1

@[simp] theorem still_edgeLogged (src cw : Nat) (n : EdgeLog) (s : Mach) : still (edgeLogged src cw n s) = still s := by
  unfold edgeLogged
  dsimp only
  split
  · exact (still_logAt ..).trans rfl
  · rfl

@[simp] theorem still_edgeNote (src cw : Nat) (err : CwErr) (s : Mach) : still (edgeNote src cw err s) = still s := by
  cases err with
  | clean => rfl
  | corrected p pat seen =>
    cases seen with
    | true => rfl
    | false =>
      have hlogged : ∀ n t, still t = still s → still (edgeLogged src cw n t) = still s := fun n t h => (still_edgeLogged src cw n t).trans h
      have hnoted := hlogged { ue := false, die := BitVec.ofNat 5 (dieAtPos (groupOf (32 * cw)) p), src := BitVec.ofNat 4 src
                               ea := BitVec.ofNat 41 (32 * cw), count := 1, pattern := pat }
        (emcEvt 0 (modStk (stackOf (32 * cw)) (fun k => { k with
          ceCnt := satInc k.ceCnt
          corr := if k.corr.contains (dieAtPos (groupOf (32 * cw)) p, cw) then k.corr
                  else k.corr ++ [(dieAtPos (groupOf (32 * cw)) p, cw)] }) s)) (by simp)
      exact still_ite ((still_reqDieLost _ _ _).trans hnoted) hnoted
  | ue =>
    exact (still_edgeLogged src cw _ _).trans (by simp)

@[simp] theorem still_readCws (src : Nat) : ∀ (cw n : Nat) (s : Mach), still (readCws src cw n s).2 = still s
  | _, 0, _ => rfl
  | cw, n + 1, s => (still_readCws src (cw + 1) n (edgeNote src cw (edgeDecode s cw).2 s)).trans (still_edgeNote ..)

@[simp] theorem still_readEdge (src ea n : Nat) (s : Mach) : still (readEdge src ea n s).2 = still s := by
  simp [readEdge]

@[simp] theorem still_serveStack (st : Nat) (s : Mach) : still (serveStack st s) = still s := by rfl

@[simp] theorem still_addWork (st : Nat) (w : Work) (s : Mach) : still (addWork st w s) = still s := by
  unfold addWork
  dsimp only
  repeat' split
  all_goals simp

@[simp] theorem still_useUnits (cls ea n : Nat) (s : Mach) : still (useUnits cls ea n s) = still s := by
  simp [useUnits]

@[simp] theorem still_sealRead (ea n : Nat) (s : Mach) : still (sealRead ea n s).2 = still s := by
  simp [sealRead]

@[simp] theorem still_beginSlot (slot : BitVec 4) (st : Nat) (s : Mach) : still (beginSlot slot st s) = still s := by rfl

/-! ### Crc.lean -/

@[simp] theorem still_foldDigest (f : Row) (poison : Bool) (s : Mach) : still (foldDigest f poison s) = still s := by
  unfold foldDigest
  split <;> simp

/-! ### Matrix.lean -/

@[simp] theorem still_sparseFault (k : Nat) (q : QDesc) (kind pos addr : Nat) (s : Mach) :
    still (sparseFault k q kind pos addr s) = still s := by
  simp [sparseFault]

@[simp] theorem still_mxRead {k : Nat} {pc : Word} {rows : List Nat} {go : List Row → Mach → Mach} {s : Mach}
    (hgo : ∀ r s, still (go r s) = still s) : still (mxRead k pc rows go s) = still s := still_afterRead (hgo _)

@[simp] theorem still_metaRead {k : Nat} {l : Load} {rows : List Nat} {go : List Row → Mach → Mach} {s : Mach}
    (hgo : ∀ r s, still (go r s) = still s) : still (metaRead k l rows go s) = still s := by
  unfold metaRead
  dsimp only
  split
  · simp
  · exact still_afterRead (hgo _)

@[simp] theorem still_trackAll (die t code : Nat) (xs : List (FVal × Bool)) (s : Mach) :
    still (trackAll die t code xs s) = still s := by rfl

/-! ### Fabric.lean -/

@[simp] theorem still_routerFault (k kind : Nat) (s : Mach) : still (routerFault k kind s) = still s := by
  simp [routerFault]

@[simp] theorem still_ownership (k addr : Nat) (s : Mach) : still (ownership k addr s) = still s := by
  simp [ownership]

@[simp] theorem still_routerWrite (k ch row : Nat) (data : Row) (s : Mach) : still (routerWrite k ch row data s) = still s := by
  unfold routerWrite
  dsimp only
  repeat' split
  all_goals simp

@[simp] theorem still_deliver (k ch : Nat) (scalar : Bool) (f : Row) (s : Mach) :
    still (deliver k ch scalar f s) = still s := by
  unfold deliver
  dsimp only
  repeat' split
  all_goals simp

@[simp] theorem still_dropFlits (k n : Nat) (s : Mach) : still (dropFlits k n s) = still s := by rfl

@[simp] theorem still_toRim (k dir : Nat) (scalar : Bool) (f : NetFlit) (s : Mach) :
    still (toRim k dir scalar f s) = still s := by rfl

@[simp] theorem still_launch (n dir cycles : Nat) (scalar : Bool) (f : NetFlit) (s : Mach) :
    still (launch n dir cycles scalar f s) = still s := by rfl

@[simp] theorem still_sendOn (k output phase : Nat) (scalar : Bool) (f : NetFlit) (s : Mach) :
    still (sendOn k output phase scalar f s) = still s := by
  unfold sendOn
  repeat' split
  all_goals simp

@[simp] theorem still_flagExpire (k b : Nat) (s : Mach) : still (flagExpire k b s) = still s := by
  unfold flagExpire
  dsimp only
  repeat' split
  all_goals simp

/-! ### Stream.lean -/

@[simp] theorem still_seRecord (k e b status : Nat) (s : Mach) : still (seRecord k e b status s) = still s := by
  unfold seRecord
  dsimp only
  repeat' split
  all_goals simp

@[simp] theorem still_seStop (k e b status : Nat) (s : Mach) : still (seStop k e b status s) = still s := by
  unfold seStop
  split <;> simp

@[simp] theorem still_seTrack (k : Nat) (d : OpDesc) (xs : List (FVal × Bool)) (s : Mach) :
    still (seTrack k d xs s) = still s := by
  unfold seTrack
  split <;> simp

@[simp] theorem still_seTake (k e : Nat) (tag : Word) (b : Blk) (bs : List Byte) (s : Mach) :
    still (seTake k e tag b bs s) = still s := by
  simp [seTake]

@[simp] theorem still_seRead (k e : Nat) (l : SList) (b : Blk) (row : Nat) (s : Mach) :
    still (seRead k e l b row s) = still s := by
  unfold seRead
  dsimp only
  repeat' split
  all_goals simp

@[simp] theorem still_seReads (k e turn : Nat) : ∀ (n : Nat) (used : List Nat) (s : Mach),
    still (seReads k e turn n used s).2 = still s
  | 0, _, _ => rfl
  | n + 1, used, s => by
    unfold seReads
    split
    · rfl
    · split
      · rfl
      next l b hb row rest hrows =>
        dsimp only
        split
        · rfl
        · split
          · exact still_seRead ..
          · exact (still_seReads k e turn n _ _).trans (still_seRead ..)

@[simp] theorem still_storeRow (k prod : Nat) (w : WRow) (s : Mach) : still (storeRow k prod w s) = still s := by
  unfold storeRow
  split <;> simp

@[simp] theorem still_storeRows (k prod : Nat) (ws : List WRow) (s : Mach) : still (storeRows k prod ws s) = still s := by
  simp [storeRows]

@[simp] theorem still_seRow (k e : Nat) (row : Row) (poison rej : Bool) (s : Mach) :
    still (seRow k e row poison rej s) = still s := by
  unfold seRow
  dsimp only
  repeat' split
  all_goals simp

@[simp] theorem still_localOut (k : Nat) (scalar : Bool) (e : BitVec 16) (f : NetFlit) (s : Mach) :
    still (localOut k scalar e f s) = still s := by
  unfold localOut
  dsimp only
  repeat' split
  all_goals simp

@[simp] theorem still_switchOut (k : Nat) (scalar : Bool) (phase output : Nat) (x : Inputs) (s : Mach) :
    still (switchOut k scalar phase output x s) = still s := by
  unfold switchOut
  dsimp only
  repeat' split
  all_goals simp

@[simp] theorem still_switchAll (k : Nat) (scalar : Bool) (phase : Nat) (x : Inputs) (s : Mach) :
    still (switchAll k scalar phase x s) = still s := by
  simp [switchAll]

/-! ### CmdOps.lean -/

@[simp] theorem still_slotEvent (kind : Nat) (slot : Bool) (step : Word) (id : BitVec 16) (serial : BitVec 64) (s : Mach) :
    still (slotEvent kind slot step id serial s) = still s := by rfl

@[simp] theorem still_revokeSlot (b : Bool) (s : Mach) : still (revokeSlot b s) = still s := by
  unfold revokeSlot
  dsimp only
  repeat' split
  all_goals simp

@[simp] theorem still_roundRecord (flags : Nat) (s : Mach) : still (roundRecord flags s) = still s := by rfl

@[simp] theorem still_noteMargins (s : Mach) : still (noteMargins s) = still s := by
  simp [noteMargins]

@[simp] theorem still_stopHandlers (s : Mach) : still (stopHandlers s) = still s := by
  simp [stopHandlers]

/-! ### Vector.lean -/

@[simp] theorem still_vopConvert (k : Nat) (v : VopRun) (s : Mach) : still (vopConvert k v s).2 = still s := by
  unfold vopConvert
  dsimp only
  repeat' split
  all_goals simp

@[simp] theorem still_vopRead {k : Nat} {v : VopRun} {rows : List Nat} {go : VopRun → Mach → Mach} {s : Mach}
    (hgo : ∀ r s, still (go r s) = still s) : still (vopRead k v rows go s) = still s := by
  refine still_afterRead fun t => ?_
  dsimp only
  split
  · exact (hgo _ _).trans (still_vopConvert k _ t)
  · exact hgo _ t

/-! ### Wheel.lean -/

@[simp] theorem still_wSlot (k turn : Nat) (s : Mach) : still (wSlot k turn s) = still s := by
  simp [wSlot]

@[simp] theorem still_watchRows (k : Nat) (rows : List Nat) (s : Mach) : still (watchRows k rows s) = still s := by
  unfold watchRows
  dsimp only
  repeat' split
  all_goals simp

@[simp] theorem still_mServe (k : Nat) (pc : Word) (rows : List Nat) (put : List Row → Matrix → Matrix) (s : Mach) :
    still (mServe k pc rows put s) = still s := by
  unfold mServe
  split <;> simp

@[simp] theorem still_mActs (k : Nat) (s : Mach) : still (mActs k s) = still s := by
  unfold mActs
  repeat' split
  all_goals simp

@[simp] theorem still_mTile (k : Nat) (s : Mach) : still (mTile k s) = still s := by
  unfold mTile
  split <;> simp

@[simp] theorem still_mScales (k : Nat) (s : Mach) : still (mScales k s) = still s := by
  unfold mScales
  dsimp only
  repeat' split
  all_goals simp

@[simp] theorem still_mSlot (k turn : Nat) (s : Mach) : still (mSlot k turn s) = still s := by
  unfold mSlot
  repeat' split
  all_goals simp

@[simp] theorem still_vVector (k : Nat) (s : Mach) : still (vVector k s) = still s := by
  unfold vVector
  repeat' split
  all_goals simp

@[simp] theorem still_vBack (k : Nat) (s : Mach) : still (vBack k s) = still s := by
  unfold vBack
  dsimp only
  repeat' split
  all_goals simp

@[simp] theorem still_vSlot (k turn : Nat) (s : Mach) : still (vSlot k turn s) = still s := by
  unfold vSlot
  dsimp only
  repeat' split
  all_goals simp

@[simp] theorem still_nSlot (k turn : Nat) (s : Mach) : still (nSlot k turn s) = still s := by
  unfold nSlot
  dsimp only
  repeat' split
  all_goals simp

@[simp] theorem still_tookInputs (k : Nat) (scalar : Bool) (s : Mach) : still (tookInputs k scalar s) = still s := by rfl

@[simp] theorem still_routeNow (k : Nat) (scalar : Bool) (s : Mach) : still (routeNow k scalar s) = still s := by
  unfold routeNow
  dsimp only
  repeat' split
  all_goals simp

@[simp] theorem still_reachRim (s : Mach) : still (reachRim s) = still s := by
  unfold reachRim
  refine (still_foldl ?_).trans ?_
  · exact fun _ _ => rfl
  · rfl

@[simp] theorem still_fabricCycle (s : Mach) : still (fabricCycle s) = still s := by
  unfold fabricCycle
  split
  · rfl
  · refine Eq.trans (b := still ((routersNow s).foldl (fun s k => routeNow k true (routeNow k false s)) (reachRim s))) rfl ?_
    simp

@[simp] theorem still_coreCycle (k cycle : Nat) (s : Mach) : still (coreCycle k cycle s) = still s := by
  unfold coreCycle
  repeat' split
  all_goals simp

/-! ### Sections.lean -/

@[simp] theorem still_allCores (f : Nat → Core → Core) (s : Mach) : still (allCores f s) = still s := by
  simp [allCores]

@[simp] theorem still_setSecCur (v : Word) (idx : Word) (s : Mach) : still (setSecCur v idx s) = still s := by
  simp [setSecCur]

@[simp] theorem still_noFlights (s : Mach) : still (noFlights s) = still s := by rfl

@[simp] theorem still_endSection (s : Mach) : still (endSection s) = still s := by
  simp [endSection]

@[simp] theorem still_dropHeld (k : Nat) (s : Mach) : still (dropHeld k s) = still s := by
  unfold dropHeld
  split <;> simp

@[simp] theorem still_dropFlights (s : Mach) : still (dropFlights s) = still s := by
  simp [dropFlights]

@[simp] theorem still_startPrograms (s : Mach) : still (startPrograms s) = still s := by
  simp [startPrograms]

@[simp] theorem still_endSwitch (s : Mach) : still (endSwitch s) = still s := by
  unfold endSwitch
  split <;> simp

@[simp] theorem still_applySecCmd (m : BitVec 48) (c : SecCmd) (s : Mach) : still (applySecCmd m c s) = still s := by
  unfold applySecCmd
  repeat' split
  all_goals simp

@[simp] theorem still_sectionBoundary (m : BitVec 48) (s : Mach) : still (sectionBoundary m s) = still s := by
  simp [sectionBoundary]

/-! ### Links.lean -/

@[simp] theorem still_portEvt (p b : Nat) (s : Mach) : still (portEvt p b s) = still s := by
  simp [portEvt]

@[simp] theorem still_portRecord (p flags : Nat) (s : Mach) : still (portRecord p flags s) = still s := by rfl

@[simp] theorem still_sendSeq (p : Nat) (m : Msg) (s : Mach) : still (sendSeq p m s) = still s := by
  unfold sendSeq
  split <;> simp

@[simp] theorem still_sendUrgent (p : Nat) (m : Msg) (s : Mach) : still (sendUrgent p m s) = still s := by rfl

@[simp] theorem still_sendMgmt (p : Nat) (m : Msg) (s : Mach) : still (sendMgmt p m s) = still s := by rfl

@[simp] theorem still_rmtEvt (b : Nat) (s : Mach) : still (rmtEvt b s) = still s := by
  simp [rmtEvt]

@[simp] theorem still_settlePtn (s : Mach) : still (settlePtn s) = still s := by
  unfold settlePtn
  dsimp only
  repeat' split
  all_goals simp

@[simp] theorem still_putPtn (i : Nat) (e : Ptn) (s : Mach) : still (putPtn i e s) = still s := by
  simp [putPtn]

@[simp] theorem still_remoteRecord (flags : Nat) (s : Mach) : still (remoteRecord flags s) = still s := by rfl

@[simp] theorem still_noRoute (s : Mach) : still (noRoute s) = still s := by
  simp [noRoute]

@[simp] theorem still_forwardMsg (m : Msg) (s : Mach) : still (forwardMsg m s).2 = still s := by
  unfold forwardMsg
  repeat' split
  all_goals simp

@[simp] theorem still_discardMsg (m : Msg) (s : Mach) : still (discardMsg m s) = still s := by
  unfold discardMsg
  dsimp only
  repeat' split
  all_goals simp

@[simp] theorem still_switchMsg (m : Msg) (s : Mach) : still (switchMsg m s) = still s := by
  unfold switchMsg
  dsimp only
  repeat' split
  all_goals simp

@[simp] theorem still_rerouteMsg (m : Msg) (s : Mach) : still (rerouteMsg m s) = still s := by
  unfold rerouteMsg
  split <;> simp

/-! ### Train.lean -/

@[simp] theorem still_unitRead (ea n : Nat) (s : Mach) : still (unitRead ea n s).2 = still s := by
  simp [unitRead]

@[simp] theorem still_trnEvt (b : Nat) (s : Mach) : still (trnEvt b s) = still s := by
  simp [trnEvt]

@[simp] theorem still_startJob (u : Nat) (l : RunList) (n : Nat) (s : Mach) : still (startJob u l n s) = still s := by
  simp [startJob]

@[simp] theorem still_endList (u status : Nat) (s : Mach) : still (endList u status s) = still s := by
  unfold endList
  split <;> simp

@[simp] theorem still_uuFault (u : Nat) (rec_ : List Byte) (s : Mach) : still (uuFault u rec_ s) = still s := by
  simp [uuFault]

@[simp] theorem still_startList (u : Nat) (a : ArmedList) (s : Mach) : still (startList u a s) = still s := by
  unfold startList
  dsimp only
  repeat' split
  all_goals simp

@[simp] theorem still_nextLists (u : Nat) : ∀ (n : Nat) (s : Mach), still (nextLists u n s) = still s
  | 0, _ => rfl
  | n + 1, s => by
    unfold nextLists
    dsimp only
    split
    · rfl
    · split
      · exact (still_nextLists u n _).trans (by simp)
      · rfl

@[simp] theorem still_nextList (u : Nat) (s : Mach) : still (nextList u s) = still s := by
  simp [nextList]

@[simp] theorem still_roundLists (m : BitVec 48) (u : Nat) (s : Mach) : still (roundLists m u s) = still s := by
  simp [roundLists]

@[simp] theorem still_startLists (m : BitVec 48) (s : Mach) : still (startLists m s) = still s := by
  simp [startLists]

@[simp] theorem still_digRecord (flags : Nat) (step : Word) (s : Mach) : still (digRecord flags step s) = still s := by rfl

@[simp] theorem still_nameFailed (id : BitVec 16) (s : Mach) : still (nameFailed id s) = still s := by rfl

@[simp] theorem still_sendDigest (dst : BitVec 16) (m : BitVec 192) (s : Mach) : still (sendDigest dst m s) = still s := by
  unfold sendDigest
  split <;> simp

@[simp] theorem still_latchStrand (s : Mach) : still (latchStrand s) = still s := by rfl

@[simp] theorem still_ageDigest (s : Mach) : still (ageDigest s) = still s := by rfl

@[simp] theorem still_applyDigSet (d : DigSet) (s : Mach) : still (applyDigSet d s) = still s := by rfl

@[simp] theorem still_applyDigSets (s : Mach) : still (applyDigSets s) = still s := by
  simp [applyDigSets]

/-! ### Remote.lean -/

@[simp] theorem still_sendFrom (p : Nat) (m : Msg) (s : Mach) : still (sendFrom p m s) = still s := by
  unfold sendFrom
  split <;> simp

@[simp] theorem still_voidWindows (hit : BitVec 256 → Bool) (s : Mach) : still (voidWindows hit s) = still s := by rfl

@[simp] theorem still_endFence (f : Fence) (last : Nat) (s : Mach) : still (endFence f last s) = still s := by
  unfold endFence
  split <;> simp

@[simp] theorem still_tryFence (f : Fence) (s : Mach) : still (tryFence f s) = still s := by
  unfold tryFence
  repeat' split
  all_goals simp

@[simp] theorem still_startFence (m : BitVec 48) (owed : List Owed) (s : Mach) : still (startFence m owed s) = still s := by
  simp [startFence]

@[simp] theorem still_roundFences (prev : BitVec 48) (s : Mach) : still (roundFences prev s) = still s := by
  unfold roundFences
  repeat' split
  all_goals simp

@[simp] theorem still_sysEvt (b : Nat) (s : Mach) : still (sysEvt b s) = still s := by
  simp [sysEvt]

@[simp] theorem still_clearTwinPorts (s : Mach) : still (clearTwinPorts s) = still s := by
  unfold clearTwinPorts
  split <;> simp

@[simp] theorem still_applyTwin (m : BitVec 2) (s : Mach) : still (applyTwin m s) = still s := by
  unfold applyTwin
  dsimp only
  repeat' split
  all_goals simp

@[simp] theorem still_resendIdentity (s : Mach) : still (resendIdentity s) = still s := by
  simp [resendIdentity]

@[simp] theorem still_changePtn (i : Nat) (e : Ptn) (s : Mach) : still (changePtn i e s) = still s := by
  unfold changePtn
  dsimp only
  repeat' split
  all_goals simp

@[simp] theorem still_directEntry (p : Nat) (s : Mach) : still (directEntry p s) = still s := by
  unfold directEntry
  dsimp only
  repeat' split
  all_goals simp

@[simp] theorem still_enterWaiting (s : Mach) : still (enterWaiting s) = still s :=
  still_foldl fun s p => still_ite (still_directEntry p s) rfl

@[simp] theorem still_endModFences (s : Mach) : still (endModFences s) = still s := by
  simp [endModFences]

/-! ### Lockstep.lean -/

@[simp] theorem still_lsEvt (b : Nat) (s : Mach) : still (lsEvt b s) = still s := by
  simp [lsEvt]

@[simp] theorem still_lsCompare (m : BitVec 48) (own twin : BitVec 64) (s : Mach) :
    still (lsCompare m own twin s) = still s := by
  unfold lsCompare
  split <;> simp

@[simp] theorem still_lockstepBoundary (prev : BitVec 48) (s : Mach) : still (lockstepBoundary prev s) = still s := by
  unfold lockstepBoundary
  dsimp only
  repeat' split
  all_goals simp

/-! ### Keep.lean -/

@[simp] theorem still_keepSend (id : BitVec 16) (stack : Nat) (m : Msg) (s : Mach) :
    still (keepSend id stack m s) = still s := by
  unfold keepSend
  split <;> simp

@[simp] theorem still_keepRead (id : BitVec 16) (slot : Bool) (s : Mach) : still (keepRead id slot s) = still s := by
  simp [keepRead]

@[simp] theorem still_sealRecord (st : Nat) (step : Word) (s : Mach) : still (sealRecord st step s) = still s := by
  unfold sealRecord
  dsimp only
  repeat' split
  all_goals simp

@[simp] theorem still_endSeal (st : Nat) (s : Mach) : still (endSeal st s) = still s := by
  unfold endSeal
  split <;> simp

@[simp] theorem still_sealAsk (st : SealStage) (h : List Byte) (s : Mach) : still (sealAsk st h s) = still s := by
  unfold sealAsk
  split <;> simp

@[simp] theorem still_sealBoundary (m : BitVec 48) (s : Mach) : still (sealBoundary m s) = still s := by
  unfold sealBoundary
  dsimp only
  repeat' split
  all_goals simp

/-! ### PortOps.lean -/

@[simp] theorem still_startLane (p : Nat) (s : Mach) : still (startLane p s) = still s := by
  unfold startLane
  dsimp only
  repeat' split
  all_goals simp

@[simp] theorem still_portsBoundary (s : Mach) : still (portsBoundary s) = still s := by
  simp [portsBoundary]

/-! ### Rounds.lean -/

@[simp] theorem still_sendUpstream (m : BitVec 128) (s : Mach) : still (sendUpstream m s) = still s := by
  unfold sendUpstream
  split <;> simp

@[simp] theorem still_latchTrackers (prev : BitVec 48) (s : Mach) : still (latchTrackers prev s) = still s := by
  simp [latchTrackers]

@[simp] theorem still_portsNew (s : Mach) : still (portsNew s) = still s := by rfl

@[simp] theorem still_expireFlags (s : Mach) : still (expireFlags s) = still s := by
  simp [expireFlags]

@[simp] theorem still_budgetCheck (period : Nat) (s : Mach) : still (budgetCheck period s) = still s := by
  unfold budgetCheck
  dsimp only
  repeat' split
  all_goals simp

@[simp] theorem still_beginPrograms (s : Mach) : still (beginPrograms s) = still s := by
  unfold beginPrograms
  repeat' split
  all_goals simp

@[simp] theorem still_endResumes (m : BitVec 48) (s : Mach) : still (endResumes m s) = still s := by
  simp [endResumes]

@[simp] theorem still_coresBoundary (m : BitVec 48) (s : Mach) : still (coresBoundary m s) = still s := by
  unfold coresBoundary
  split <;> simp


end Sys2Proof.Spec
end


section
/-! PROOFS. Time that passes, the hold, and round starts (R47, R57, R61 to R66, R281, R449). -/

namespace Sys2Proof.Spec

open Sys2Proof.Machine

/-! ### Counts and margins -/

/-- Of the round unit's state only the counts and the margin differ, and what the wheels have been through. -/
def Counted (a b : Still) : Prop :=
  ∃ m c v e l k, b = { a with rnd := { a.rnd with marginMin := m, marginCore := c, varRun := v, ended := e }, lost := l, cycle := k }

theorem Counted.refl (a : Still) : Counted a a := ⟨_, _, _, _, _, _, rfl⟩

theorem Counted.trans {a b c : Still} (h : Counted a b) (g : Counted b c) : Counted a c := by
  obtain ⟨_, _, _, _, _, _, rfl⟩ := h
  obtain ⟨_, _, _, _, _, _, rfl⟩ := g
  exact ⟨_, _, _, _, _, _, rfl⟩

theorem Counted.of_eq {a b : Still} (h : b = a) : Counted a b := h ▸ Counted.refl a

theorem still_modRnd (f : Rnd → Rnd) (s : Mach) : still (modRnd f s) = { still s with rnd := f s.rnd } := rfl

theorem rnd_eq {s : Mach} {a : Still} (h : still s = a) : s.rnd = a.rnd := by rw [← h]; rfl

theorem rnd_of_still {s t : Mach} (h : still t = still s) : t.rnd = s.rnd := congrArg Still.rnd h

/-- The module's count of stretched cycles grows by n. -/
def stretchCounted (n : Nat) (r : Rnd) : Rnd := { r with varRun := { r.varRun with stretch := satAdd r.varRun.stretch (144 * n) } }

theorem still_addStretch {n : Nat} (hn : n ≠ 0) (s : Mach) : still (addStretch n s) = { still s with rnd := stretchCounted n s.rnd } := by
  unfold addStretch
  rw [if_neg hn]
  have h := still_iter (s := s) (n := 144) (f := fun d s =>
    modDie d (fun x => { x with stw := { x.stw with shStr := satAdd x.stw.shStr n } })
      (modDpw d (fun x => { x with strcnt := satAdd x.strcnt n }) s)) fun _ _ => by simp
  revert h
  generalize iter 144 _ s = u
  intro h
  rw [still_modRnd, h, rnd_of_still h]
  rfl

theorem addStretch_counted (n : Nat) (s : Mach) : Counted (still s) (still (addStretch n s)) := by
  by_cases hn : n = 0
  · exact Counted.of_eq (congrArg still (if_pos hn))
  · rw [still_addStretch hn]
    exact ⟨_, _, _, _, _, _, rfl⟩

theorem addStretch_ended (n : Nat) (s : Mach) :
    (addStretch n s).rnd.ended = s.rnd.ended ∧ (addStretch n s).rnd.marginMin = s.rnd.marginMin := by
  by_cases hn : n = 0
  · have h : addStretch n s = s := if_pos hn
    rw [h]
    exact ⟨rfl, rfl⟩
  · rw [rnd_eq (still_addStretch hn s)]
    exact ⟨rfl, rfl⟩

theorem settleStretch_counted (s : Mach) : Counted (still s) (still (settleStretch s)) := by
  unfold settleStretch
  split
  · exact Counted.refl _
  next t ht =>
    have h := addStretch_counted ((s.now - t) / 2) s
    revert h
    dsimp only
    generalize addStretch ((s.now - t) / 2) s = u
    exact fun h => h.trans ⟨_, _, _, _, _, _, rfl⟩

theorem settleStretch_ended (s : Mach) : (settleStretch s).rnd.ended = s.rnd.ended ∧ (settleStretch s).rnd.marginMin = s.rnd.marginMin := by
  unfold settleStretch
  split
  · exact ⟨rfl, rfl⟩
  · exact addStretch_ended _ s

/-- RND_MARGIN is latched. -/
theorem still_latchMargin (late : Option Nat) (s : Mach) :
    ∃ m c, still (latchMargin late s) = { still s with rnd := { s.rnd with marginMin := m, marginCore := c } } ∧
      ∀ n, late = some n → m = int32 (-(n : Int)) := by
  unfold latchMargin
  dsimp only
  refine ⟨_, _, (still_noteMargins _).trans rfl, fun n hn => ?_⟩
  rw [hn]

theorem endCounts_counted (late : Option Nat) (s : Mach) : Counted (still s) (still (endCounts late s)) := by
  obtain ⟨m, c, h, -⟩ := still_latchMargin late s
  unfold endCounts
  have hr : (latchMargin late s).rnd = { s.rnd with marginMin := m, marginCore := c } := rnd_eq h
  rw [still_modRnd, hr, h]
  exact ⟨_, _, _, _, _, _, rfl⟩

theorem endCounts_late (n : Nat) (s : Mach) : (endCounts (some n) s).rnd.marginMin = int32 (-(n : Int)) ∧
    (endCounts (some n) s).rnd.ended.isSome = true := by
  obtain ⟨m, c, h, hm⟩ := still_latchMargin (some n) s
  have hr := rnd_eq h
  revert hr
  unfold endCounts
  generalize latchMargin (some n) s = u
  intro hr
  exact ⟨(congrArg Rnd.marginMin hr).trans (hm n rfl), rfl⟩

theorem roundEnds_counted (s : Mach) : Counted (still s) (still (roundEnds s)) := by
  unfold roundEnds
  split
  · exact Counted.refl _
  · dsimp only
    split
    · exact (Counted.of_eq (still_stopHandlers s)).trans ((settleStretch_counted _).trans (endCounts_counted _ _))
    · exact Counted.of_eq (still_stopHandlers s)

/-- While rounds follow each other, or once the counts are final, the end of a round changes none of them. -/
theorem still_roundEnds {s : Mach} (h : s.rnd.hold = false ∧ s.rnd.en = true ∨ s.rnd.ended.isSome = true) :
    still (roundEnds s) = still s := by
  unfold roundEnds
  split
  · rfl
  · dsimp only
    rw [rnd_of_still (still_stopHandlers s), if_neg]
    · exact still_stopHandlers s
    · rcases h with ⟨hhold, hen⟩ | hended
      · simp [hhold, hen]
      · cases he : s.rnd.ended with
        | none => rw [he] at hended; exact absurd hended (by decide)
        | some v => simp

/-! ### Time that passes -/

theorem still_wheelCycle (s : Mach) : ∃ k, still (wheelCycle s) = { still s with cycle := k } := by
  unfold wheelCycle
  dsimp only
  split
  · exact ⟨_, rfl⟩
  · refine ⟨cycleOf s + 1, ?_⟩
    rw [still_fabricCycle]
    exact (still_foldl fun t k => still_coreCycle k (cycleOf s) t).trans rfl

/-- The module a cycle later. -/
def later (n : Nat) (a : Still) : Still := { a with now := a.now + n }

theorem still_tick (s : Mach) : ∃ k, still { wheelCycle s with now := (wheelCycle s).now + 1 } = { later 1 (still s) with cycle := k } := by
  obtain ⟨k, h⟩ := still_wheelCycle s
  refine ⟨k, (show still { wheelCycle s with now := (wheelCycle s).now + 1 } = later 1 (still (wheelCycle s)) from rfl).trans ?_⟩
  rw [h]
  rfl

theorem passCycle_counted (s : Mach) : Counted (later 1 (still s)) (still (passCycle s)) := by
  obtain ⟨k, h⟩ := still_tick s
  refine Counted.trans ?_ (roundEnds_counted _)
  rw [h]
  exact ⟨_, _, _, _, _, _, rfl⟩

theorem still_passCycle {s : Mach} (hhold : s.rnd.hold = false) (hen : s.rnd.en = true) :
    ∃ k, still (passCycle s) = { later 1 (still s) with cycle := k } := by
  obtain ⟨k, h⟩ := still_tick s
  refine ⟨k, (still_roundEnds ?_).trans h⟩
  have hr := rnd_eq h
  exact Or.inl ⟨(congrArg Rnd.hold hr).trans hhold, (congrArg Rnd.en hr).trans hen⟩

theorem Counted.later {a b : Still} (n : Nat) (h : Counted a b) : Counted (later n a) (later n b) := by
  obtain ⟨_, _, _, _, _, _, rfl⟩ := h
  exact ⟨_, _, _, _, _, _, rfl⟩

theorem later_later (n : Nat) (a : Still) : later n (later 1 a) = later (n + 1) a := by
  unfold later
  rw [Nat.add_assoc, Nat.add_comm 1 n]

theorem passCycles_counted : ∀ (n : Nat) (s : Mach), Counted (later n (still s)) (still (passCycles n s))
  | 0, s => Counted.refl _
  | n + 1, s => by
    unfold passCycles
    split
    · exact roundEnds_counted { s with now := s.now + (n + 1) }
    · rw [← later_later n]
      exact ((passCycle_counted s).later n).trans (passCycles_counted n (passCycle s))

theorem still_passCycles : ∀ (n : Nat) {s : Mach}, s.rnd.hold = false → s.rnd.en = true →
    ∃ k, still (passCycles n s) = { later n (still s) with cycle := k }
  | 0, s, _, _ => ⟨s.fab.cycle, rfl⟩
  | n + 1, s, hhold, hen => by
    unfold passCycles
    split
    · exact ⟨s.fab.cycle, still_roundEnds (s := { s with now := s.now + (n + 1) }) (Or.inl ⟨hhold, hen⟩)⟩
    · obtain ⟨k, h⟩ := still_passCycle hhold hen
      have hr := rnd_eq h
      obtain ⟨k', h'⟩ := still_passCycles n ((congrArg Rnd.hold hr).trans hhold) ((congrArg Rnd.en hr).trans hen)
      refine ⟨k', ?_⟩
      rw [h', h, ← later_later n]
      rfl

theorem now_max (t n : Nat) : n + (t - n) = max n t := by omega

theorem notBefore_counted (t : Nat) (s : Mach) : Counted { still s with now := max s.now t } (still (notBefore t s)) := by
  have h := passCycles_counted (t - s.now) s
  unfold later at h
  rw [show (still s).now + (t - s.now) = max s.now t from now_max t s.now] at h
  exact h

theorem still_notBefore {s : Mach} (t : Nat) (hhold : s.rnd.hold = false) (hen : s.rnd.en = true) :
    ∃ k, still (notBefore t s) = { still s with now := max s.now t, cycle := k } := by
  obtain ⟨k, h⟩ := still_passCycles (t - s.now) hhold hen
  unfold later at h
  rw [show (still s).now + (t - s.now) = max s.now t from now_max t s.now] at h
  exact ⟨k, h⟩

theorem ended_counted (t : Nat) (s : Mach) : Counted { still s with now := max s.now t } (still (ended_ t s)) :=
  (notBefore_counted t s).trans (Counted.of_eq (still_stopHandlers _))

/-! ### The hold (R59, R449) -/

theorem still_rndEvt (b : Nat) (s : Mach) : still (rndEvt b s) = { still s with rnd := { s.rnd with evt := setBit s.rnd.evt b } } := by
  unfold rndEvt
  rw [still_raiseIrq, still_noteRaise]
  rfl

/-- The round unit as the hold leaves it. -/
def heldRnd (h : Nat) (r : Rnd) : Rnd :=
  { r with hold := true, heldAt := h, sched := [], withheld := [], nextEmit := none, evt := setBit r.evt 5 }

theorem enterHold_of_hold {s : Mach} (h : s.rnd.hold = true) : enterHold s = s := if_pos h

/-- The round at which a hold begins (R450). -/
def heldFrom (s : Mach) : Nat :=
  ((((s.rnd.withheld ++ s.rnd.sched).head?).map (fun r => r.num.toNat)).or
    (s.rnd.nextEmit.map (fun n => n.num.toNat))).getD ((roundNow s).toNat + 1)

/-- The module as a hold finds it: the round unit holds, the events are raised, and its commands have ended. -/
def holding (s : Mach) : Mach :=
  s.keep.holdCmds.foldl (fun s' o => complete o 0x00 (heldFrom s) s') (roundRecord 0 (rndEvt 5
    (modKeep (fun k => { k with holdNext := false, holdCmds := [] })
      (modRnd (fun r => { r with hold := true, heldAt := heldFrom s, sched := [], withheld := [], nextEmit := none }) s))))

theorem enterHold_eq {s : Mach} (hhold : s.rnd.hold = false) : enterHold s = roundEnds (holding s) :=
  if_neg (by rw [hhold]; decide)

theorem still_holding (s : Mach) : still (holding s) = { still s with rnd := heldRnd (heldFrom s) s.rnd } := by
  unfold holding
  rw [still_foldl (fun _ _ => still_complete ..), still_roundRecord, still_rndEvt]
  rfl

theorem enterHold_held {s : Mach} (hhold : s.rnd.hold = false) :
    Counted { still s with rnd := heldRnd (heldFrom s) s.rnd } (still (enterHold s)) := by
  rw [enterHold_eq hhold, ← still_holding]
  exact roundEnds_counted _

/-- Where the counts of the round are final, a hold changes nothing of them. -/
theorem still_enterHold_ended {s : Mach} (hhold : s.rnd.hold = false) (hended : s.rnd.ended.isSome = true) :
    still (enterHold s) = { still s with rnd := heldRnd (heldFrom s) s.rnd } := by
  rw [enterHold_eq hhold, ← still_holding]
  exact still_roundEnds (Or.inr ((congrArg (fun r => r.ended.isSome) (rnd_eq (still_holding s))).trans hended))

theorem enterHold_hold (s : Mach) : (enterHold s).rnd.hold = true := by
  cases h : s.rnd.hold with
  | true => rw [enterHold_of_hold h]; exact h
  | false =>
    obtain ⟨_, _, _, _, _, _, e⟩ := enterHold_held h
    rw [rnd_eq e]
    rfl

theorem enterHold_cur (s : Mach) : (enterHold s).rnd.cur = s.rnd.cur := by
  cases h : s.rnd.hold with
  | true => rw [enterHold_of_hold h]
  | false =>
    obtain ⟨_, _, _, _, _, _, e⟩ := enterHold_held h
    rw [rnd_eq e]
    rfl

/-! ### Cores and commands in a hold -/

theorem foldl_eq_of {α β : Type} {π : Mach → β} {f : Mach → α → Mach} (hf : ∀ s a, π (f s a) = π s) (l : List α) :
    ∀ s, π (l.foldl f s) = π s := by
  induction l with
  | nil => exact fun _ => rfl
  | cons a l ih => exact fun s => (ih (f s a)).trans (hf s a)

theorem stopHandlers_keep (s : Mach) : (stopHandlers s).keep = s.keep := by
  unfold stopHandlers
  exact foldl_eq_of (π := Mach.keep) (by intros; rfl) _ s

theorem keep_iter {n : Nat} {f : Nat → Mach → Mach} {s : Mach} (hf : ∀ i s, (f i s).keep = s.keep) :
    (iter n f s).keep = s.keep := foldl_eq_of (π := Mach.keep) (fun s i => hf i s) _ s

theorem keep_modRnd (f : Rnd → Rnd) (s : Mach) : (modRnd f s).keep = s.keep := rfl

theorem addStretch_keep (n : Nat) (s : Mach) : (addStretch n s).keep = s.keep := by
  unfold addStretch
  split
  · rfl
  · rw [keep_modRnd]
    exact keep_iter fun _ _ => rfl

theorem settleStretch_keep (s : Mach) : (settleStretch s).keep = s.keep := by
  unfold settleStretch
  split
  · rfl
  · exact addStretch_keep _ s

theorem noteMargins_keep (s : Mach) : (noteMargins s).keep = s.keep := by
  unfold noteMargins
  exact foldl_eq_of (π := Mach.keep) (by intros; rfl) _ s

theorem endCounts_keep (late : Option Nat) (s : Mach) : (endCounts late s).keep = s.keep := by
  have h : (latchMargin late s).keep = s.keep := by
    unfold latchMargin
    exact noteMargins_keep _
  revert h
  unfold endCounts
  generalize latchMargin late s = u
  exact id

theorem roundEnds_keep (s : Mach) : (roundEnds s).keep = s.keep := by
  unfold roundEnds
  split
  · rfl
  · dsimp only
    split
    · rw [endCounts_keep, settleStretch_keep, stopHandlers_keep]
    · exact stopHandlers_keep s

theorem rndEvt_signals (b : Nat) (s : Mach) : Signals (modRnd (fun r => { r with evt := setBit r.evt b }) s) (rndEvt b s) :=
  (noteRaise_signals _ _ _).trans (raiseIrq_signals 3 _)
theorem holding_cores (s : Mach) : (holding s).cores = s.cores := by
  unfold holding
  refine (foldl_eq_of (π := Mach.cores) (fun _ _ => (complete_signals ..).cores) _ _).trans ?_
  exact (rndEvt_signals 5 _).cores

theorem holding_keep (s : Mach) : (holding s).keep = { s.keep with holdNext := false, holdCmds := [] } := by
  unfold holding
  refine (foldl_eq_of (π := Mach.keep) (fun _ _ => (complete_signals ..).keep) _ _).trans ?_
  exact (rndEvt_signals 5 _).keep

theorem enterHold_keep {s : Mach} (hhold : s.rnd.hold = false) :
    (enterHold s).keep = { s.keep with holdNext := false, holdCmds := [] } := by
  rw [enterHold_eq hhold, roundEnds_keep, holding_keep]

/-- Every core has stopped, and runs no program. -/
def CoresStopped (s : Mach) : Prop := ∀ e ∈ s.cores, e.2.stopped = 0xF ∧ e.2.p.mode = .idle

theorem mode_of_stopped {s : Mach} (h : CoresStopped s) (k : Nat) : (coreAt s k).p.mode = .idle := by
  unfold CoresStopped at h
  unfold coreAt
  induction hc : s.cores generalizing s with
  | nil => rfl
  | cons e t ih =>
    rw [hc] at h
    obtain ⟨j, c⟩ := e
    unfold tget
    split
    · exact (h _ List.mem_cons_self).2
    · exact ih (s := { s with cores := t }) (fun e he => h e (List.mem_cons_of_mem _ he)) rfl

theorem stopHandlers_of_stopped {s : Mach} (h : CoresStopped s) : stopHandlers s = s := by
  unfold stopHandlers
  rw [List.filter_eq_nil_iff.2]
  · rfl
  · intro k _
    simp [Machine.running, mode_of_stopped h k]

theorem roundEnds_of_stopped {s : Mach} (h : CoresStopped s) (hended : s.rnd.ended.isSome = true) : roundEnds s = s := by
  unfold roundEnds
  split
  · rfl
  · rw [stopHandlers_of_stopped h]
    dsimp only
    rw [if_neg]
    cases he : s.rnd.ended with
    | none => rw [he] at hended; exact absurd hended (by decide)
    | some v => simp

theorem enterHold_stopped {s : Mach} (h : CoresStopped s) (hhold : s.rnd.hold = false) (hended : s.rnd.ended.isSome = true) :
    CoresStopped (enterHold s) := by
  have hholding : CoresStopped (holding s) := by
    unfold CoresStopped
    rw [holding_cores]
    exact h
  rw [enterHold_eq hhold, roundEnds_of_stopped hholding
    ((congrArg (fun r => r.ended.isSome) (rnd_eq (still_holding s))).trans hended)]
  exact hholding

/-! ### The late fault (R64) -/

theorem latchLate_counted (s : Mach) : Counted (still s) (still (latchLate s)) := by
  unfold latchLate
  split
  · split
    · exact Counted.refl _
    · exact (settleStretch_counted s).trans (endCounts_counted _ _)
  · exact Counted.refl _

theorem latchLate_ended {s : Mach} {r : Round} {rest : List Round} (hw : s.rnd.withheld = r :: rest) :
    (latchLate s).rnd.ended.isSome = true ∧
      (s.rnd.ended = none → (latchLate s).rnd.marginMin = int32 (-((s.now - r.start : Nat) : Int))) := by
  unfold latchLate
  rw [hw]
  dsimp only
  cases he : s.rnd.ended with
  | some v =>
    rw [if_pos Option.isSome_some]
    exact ⟨congrArg Option.isSome he, nofun⟩
  | none =>
    obtain ⟨hm, hsome⟩ := endCounts_late (s.now - r.start) (settleStretch s)
    exact ⟨hsome, fun _ => hm⟩

/-- The module that the late fault stops. -/
def lateStopped (s : Mach) : Mach := stopCores (uncorrected 0x30 (roundRecord 1 (rndEvt 3 (latchLate s))))

theorem lateFaultNow_eq (s : Mach) : lateFaultNow s = enterHold (lateStopped s) := rfl

theorem stopCores_stopped (s : Mach) : CoresStopped (stopCores s) := by
  intro e he
  obtain ⟨x, -, rfl⟩ := List.mem_map.1 he
  exact ⟨rfl, rfl⟩

theorem still_stopCores (s : Mach) : still (stopCores s) = still s := rfl

theorem still_lateStopped (s : Mach) : still (lateStopped s) =
    { still (latchLate s) with rnd := { (latchLate s).rnd with evt := setBit (latchLate s).rnd.evt 3 } } := by
  unfold lateStopped
  rw [still_stopCores, still_uncorrected, still_roundRecord, still_rndEvt]

theorem uncorrected_faulted (cls : Nat) (s : Mach) : (uncorrected cls s).keep.faulted = true := by
  rw [(uncorrected_signals cls s).keep]
  show (faultKept s cls s.keep).faulted = true
  unfold faultKept
  split <;> rfl

theorem lateStopped_faulted (s : Mach) : (lateStopped s).keep.faulted = true := uncorrected_faulted _ _

/-- What the late fault leaves. -/
structure LateFault (s t : Mach) (r : Round) : Prop where
  now : t.now = s.now
  evt : bit t.rnd.evt 3 = true
  hold : t.rnd.hold = true
  withheld : t.rnd.withheld = []
  faulted : t.keep.faulted = true
  cores : CoresStopped t
  margin : s.rnd.ended = none → t.rnd.marginMin = int32 (-((s.now - r.start : Nat) : Int))

theorem lateFaultNow_spec {s : Mach} {r : Round} {rest : List Round} (hw : s.rnd.withheld = r :: rest) (hhold : s.rnd.hold = false) :
    LateFault s (lateFaultNow s) r := by
  have hcounted := latchLate_counted s
  obtain ⟨hended, hmargin⟩ := latchLate_ended hw
  have hstill := still_lateStopped s
  have hfaulted := lateStopped_faulted s
  have hstopped : CoresStopped (lateStopped s) := stopCores_stopped _
  rw [lateFaultNow_eq]
  revert hcounted hended hmargin hstill hfaulted hstopped
  generalize lateStopped s = u
  generalize latchLate s = v
  rintro ⟨m, c, w, e, l, k, hv⟩ hended hmargin hu hfaulted hstopped
  have hr := rnd_eq hu
  have hhold' : u.rnd.hold = false := by
    rw [hr]
    exact (congrArg Rnd.hold (rnd_eq hv)).trans hhold
  have hended' : u.rnd.ended.isSome = true := by rw [hr]; exact hended
  have ht := still_enterHold_ended hhold' hended'
  have hrt := rnd_eq ht
  refine ⟨?_, ?_, ?_, ?_, ?_, enterHold_stopped hstopped hhold' hended', fun hnone => ?_⟩
  · exact (congrArg Still.now ht).trans ((congrArg Still.now hu).trans (congrArg Still.now hv))
  · rw [hrt]
    exact bit_setBit_mono ((congrArg (fun r => bit r.evt 3) hr).trans (bit_setBit_same _ (by decide)))
  · rw [hrt]; rfl
  · rw [hrt]; rfl
  · rw [enterHold_keep hhold']
    exact hfaulted
  · rw [hrt]
    exact (congrArg Rnd.marginMin hr).trans (hmargin hnone)

/-! ### The digest that a round start forms (R281, R284) -/

/-- A decision leaves the module as it was, or in a hold of the same round. -/
def Decided (a b : Still) : Prop := b = a ∨ (b.rnd.hold = true ∧ b.rnd.cur = a.rnd.cur)

theorem Decided.refl (a : Still) : Decided a a := Or.inl rfl

theorem Decided.trans {a b c : Still} (h : Decided a b) (g : Decided b c) : Decided a c := by
  rcases g with rfl | ⟨hhold, hcur⟩
  · exact h
  · rcases h with rfl | ⟨-, hcur'⟩
    · exact Or.inr ⟨hhold, hcur⟩
    · exact Or.inr ⟨hhold, hcur.trans hcur'⟩

theorem enterHold_decided {s t : Mach} (h : still t = still s) : Decided (still s) (still (enterHold t)) :=
  Or.inr ⟨enterHold_hold t, (enterHold_cur t).trans (congrArg Rnd.cur (rnd_of_still h))⟩

theorem digDecide_decided (o : OwnDigest) (s : Mach) : Decided (still s) (still (digDecide o s)) := by
  unfold digDecide
  dsimp only
  split
  · split <;> exact Or.inl (by simp)
  · split <;> exact Or.inl (by simp)
  · split <;> exact Or.inl (by simp)
  · split <;> exact enterHold_decided (by simp)

theorem foldl_decided {α : Type} {f : Mach → α → Mach} (hf : ∀ s a, Decided (still s) (still (f s a))) (l : List α) :
    ∀ s, Decided (still s) (still (l.foldl f s)) := by
  induction l with
  | nil => exact fun s => Decided.refl _
  | cons a l ih => exact fun s => (hf s a).trans (ih (f s a))

theorem digTry_decided (s : Mach) : Decided (still s) (still (digTry s)) := by
  unfold digTry
  refine foldl_decided (fun s o => ?_) _ s
  split
  · exact digDecide_decided o s
  · exact Decided.refl _

theorem formDigest_decided (s : Mach) : Decided (still s) (still (formDigest s)) := by
  unfold formDigest
  split
  · dsimp only
    split
    · refine Decided.trans (Or.inl ?_) (digTry_decided _)
      simp
    · exact Or.inl (by simp)
  · exact Decided.refl _

/-- The module after the digests of a round start. -/
theorem agedDigest_decided (s : Mach) : Decided (still s) (still (formDigest (ageDigest s))) :=
  formDigest_decided (ageDigest s)

theorem still_of_decided {s t : Mach} (h : Decided (still s) (still t)) (hhold : t.rnd.hold = false) : still t = still s := by
  rcases h with h | ⟨h, -⟩
  · exact h
  · exact absurd (h.symm.trans hhold) (by decide)

/-! ### A round ends (R62, R66, R73) -/

/-- Of the round unit's state only what stretch requests and the power cap change differs. -/
def Spoken (a b : Still) : Prop :=
  ∃ q g t v i e, b = { a with rnd := { a.rnd with sreq := q, gathered := g, strag := t, stragValid := v, stragId := i, evt := e } }

theorem Spoken.refl (a : Still) : Spoken a a := ⟨_, _, _, _, _, _, rfl⟩

theorem Spoken.trans {a b c : Still} (h : Spoken a b) (g : Spoken b c) : Spoken a c := by
  obtain ⟨_, _, _, _, _, _, rfl⟩ := h
  obtain ⟨_, _, _, _, _, _, rfl⟩ := g
  exact ⟨_, _, _, _, _, _, rfl⟩

theorem Spoken.of_eq {a b : Still} (h : b = a) : Spoken a b := h ▸ Spoken.refl a

theorem rndEvt_spoken (b : Nat) (s : Mach) : Spoken (still s) (still (rndEvt b s)) := by
  rw [still_rndEvt]
  exact ⟨_, _, _, _, _, _, rfl⟩

theorem straggler_spoken (id : BitVec 16) (s : Mach) : Spoken (still s) (still (straggler id s)) := by
  unfold straggler
  rw [still_nameFailed, still_roundRecord, still_modRnd]
  have h := rndEvt_spoken 4 s
  revert h
  generalize rndEvt 4 s = u
  exact fun h => h.trans ⟨_, _, _, _, _, _, rfl⟩

theorem modRnd_strag_spoken (f : Tbl (List (BitVec 48)) → Tbl (List (BitVec 48))) (s : Mach) :
    Spoken (still s) (still (modRnd (fun r => { r with strag := f r.strag }) s)) := ⟨_, _, _, _, _, _, rfl⟩

theorem modRnd_gathered_spoken (f : BitVec 16 → BitVec 16) (s : Mach) :
    Spoken (still s) (still (modRnd (fun r => { r with gathered := f r.gathered }) s)) := ⟨_, _, _, _, _, _, rfl⟩

theorem takeStretch_spoken (m : BitVec 128) (s : Mach) : Spoken (still s) (still (takeStretch m s)) := by
  unfold takeStretch
  split
  · exact Spoken.refl _
  · dsimp only
    have htaken := modRnd_gathered_spoken (fun g => if g.toNat < (fld m 80 16 : BitVec 16).toNat then fld m 80 16 else g) s
    revert htaken
    generalize modRnd _ s = u
    intro htaken
    split
    · exact htaken
    · refine htaken.trans ?_
      generalize noteRequest _ _ _ _ = x
      have hnoted := modRnd_strag_spoken (fun t => tset [] t (fld m 96 16 : BitVec 16).toNat x.1) u
      split
      · exact hnoted.trans (straggler_spoken _ _)
      · exact hnoted

theorem sendStretch_spoken (prev : Round) (margin : Int) (late : Bool) (s : Mach) :
    Spoken (still s) (still (sendStretch prev margin late s)) := by
  unfold sendStretch
  dsimp only
  split
  · exact ⟨_, _, _, _, _, _, rfl⟩
  · refine Spoken.trans ?_ (rndEvt_spoken 1 _)
    split
    · exact Spoken.trans ⟨_, _, _, _, _, _, rfl⟩ (takeStretch_spoken _ _)
    · rw [still_sendUpstream]
      exact ⟨_, _, _, _, _, _, rfl⟩

theorem capBoundary_spoken (t : Nat) (s : Mach) : Spoken (still s) (still (capBoundary t s)) := ⟨_, _, _, _, _, _, rfl⟩

/-- The counts of the round just ended are latched, and those of the next one begin. -/
def countsLatched (prev : Round) (c : VarCnt) (r : Rnd) : Rnd :=
  { r with varLatch := r.ended.getD r.varRun, varRound := prev.num.setWidth 32, varRun := c, ended := none }

/-- The round ends with its margin. -/
def marginLatched (late : Option Nat) (s : Mach) : Mach :=
  if (settleStretch s).rnd.ended.isSome then settleStretch s else latchMargin late (settleStretch s)

/-- What the module asks for at the end of a round. -/
def stretchAsked (prev : Round) (late : Option Nat) (s : Mach) : Mach :=
  sendStretch prev s.rnd.marginMin.toInt late.isSome (capBoundary (prev.period.toNat + prev.stretch.toNat) s)

theorem closeRound_eq (prev : Round) (late : Option Nat) (s : Mach) :
    closeRound prev late s = latchTrackers prev.num (portsNew (modRnd
      (countsLatched prev (newCounts (stretchAsked prev late (marginLatched late s)))) (stretchAsked prev late (marginLatched late s)))) := rfl

theorem stretchAsked_spoken (prev : Round) (late : Option Nat) (s : Mach) : Spoken (still s) (still (stretchAsked prev late s)) :=
  (capBoundary_spoken _ s).trans (sendStretch_spoken _ _ _ _)

theorem marginLatched_counted (late : Option Nat) (s : Mach) : Counted (still s) (still (marginLatched late s)) := by
  unfold marginLatched
  refine (settleStretch_counted s).trans ?_
  split
  · exact Counted.refl _
  · obtain ⟨m, c, h, -⟩ := still_latchMargin late (settleStretch s)
    rw [h]
    exact ⟨_, _, _, _, _, _, rfl⟩

theorem marginLatched_late {s : Mach} (hended : s.rnd.ended = none) (n : Nat) :
    (marginLatched (some n) s).rnd.marginMin = int32 (-(n : Int)) := by
  unfold marginLatched
  rw [(settleStretch_ended s).1, hended, if_neg (by decide)]
  obtain ⟨m, c, h, hm⟩ := still_latchMargin (some n) (settleStretch s)
  rw [rnd_eq h]
  exact hm n rfl

/-- Of the round unit's state what is planned and under way. -/
structure Plan where
  now : Nat
  cur : Option Round
  sched : List Round
  withheld : List Round
  owed : List (BitVec 48)
  missed : BitVec 2
  hold : Bool
  sets : List (BitVec 48 × Desc × Owed)

def planned (a : Still) : Plan :=
  { now := a.now, cur := a.rnd.cur, sched := a.rnd.sched, withheld := a.rnd.withheld, owed := a.rnd.owed, missed := a.rnd.missed
    hold := a.rnd.hold, sets := a.rnd.sets }

theorem Counted.planned {a b : Still} (h : Counted a b) : planned b = planned a := by
  obtain ⟨_, _, _, _, _, _, rfl⟩ := h
  rfl

theorem Spoken.planned {a b : Still} (h : Spoken a b) : planned b = planned a := by
  obtain ⟨_, _, _, _, _, _, rfl⟩ := h
  rfl

theorem Spoken.margin {a b : Still} (h : Spoken a b) : b.rnd.marginMin = a.rnd.marginMin := by
  obtain ⟨_, _, _, _, _, _, rfl⟩ := h
  rfl

theorem still_closeRound (prev : Round) (late : Option Nat) (s : Mach) : ∃ c, still (closeRound prev late s) =
    { still (stretchAsked prev late (marginLatched late s)) with
      rnd := countsLatched prev c (stretchAsked prev late (marginLatched late s)).rnd } := by
  rw [closeRound_eq, still_latchTrackers, still_portsNew]
  exact ⟨_, rfl⟩

theorem closeRound_planned (prev : Round) (late : Option Nat) (s : Mach) :
    planned (still (closeRound prev late s)) = planned (still s) := by
  obtain ⟨c, h⟩ := still_closeRound prev late s
  rw [h, ← (marginLatched_counted late s).planned, ← (stretchAsked_spoken prev late (marginLatched late s)).planned]
  rfl

theorem closeRound_late (prev : Round) (n : Nat) {s : Mach} (hended : s.rnd.ended = none) :
    (closeRound prev (some n) s).rnd.marginMin = int32 (-(n : Int)) := by
  obtain ⟨c, h⟩ := still_closeRound prev (some n) s
  have hmargin := marginLatched_late hended n
  have hspoken := stretchAsked_spoken prev (some n) (marginLatched (some n) s)
  rw [rnd_eq h]
  revert hmargin hspoken
  generalize stretchAsked prev (some n) (marginLatched (some n) s) = v
  generalize marginLatched (some n) s = u
  exact fun hmargin hspoken => hspoken.margin.trans hmargin

/-! ### A round begins -/

/-- Of the round unit's state only what a partner and the marker ports change differs. -/
def Changed (a b : Still) : Prop := ∃ t p, b = { a with rnd := { a.rnd with strag := t, mport := p } }

theorem Changed.refl (a : Still) : Changed a a := ⟨_, _, rfl⟩

theorem Changed.trans {a b c : Still} (h : Changed a b) (g : Changed b c) : Changed a c := by
  obtain ⟨_, _, rfl⟩ := h
  obtain ⟨_, _, rfl⟩ := g
  exact ⟨_, _, rfl⟩

theorem Changed.of_eq {a b : Still} (h : b = a) : Changed a b := h ▸ Changed.refl a

theorem clearStrag_changed (e : Ptn) (s : Mach) : Changed (still s) (still (clearStrag e s)) := by
  unfold clearStrag
  split
  · exact ⟨_, _, rfl⟩
  · exact Changed.refl _

theorem applyPartner_changed (d : Desc) (o : Owed) (s : Mach) : Changed (still s) (still (applyPartner d o s)) := by
  unfold applyPartner
  dsimp only
  split
  · exact Changed.of_eq (still_complete ..)
  · rw [still_complete]
    split
    · split
      · exact Changed.refl _
      · exact Changed.of_eq (by simp)
    · split
      · rw [still_rmtEvt, still_putPtn]
        exact clearStrag_changed _ s
      · exact Changed.refl _
    · exact Changed.of_eq (by simp)
    · exact Changed.of_eq (by simp)

theorem applyChange_changed (s : Mach) (c : Change) : Changed (still s) (still (applyChange s c)) := by
  cases c with
  | window i w o => exact Changed.of_eq rfl
  | partner d o => exact applyPartner_changed d o s

theorem foldl_changed {α : Type} {f : Mach → α → Mach} (hf : ∀ s a, Changed (still s) (still (f s a))) (l : List α) :
    ∀ s, Changed (still s) (still (l.foldl f s)) := by
  induction l with
  | nil => exact fun s => Changed.refl _
  | cons a l ih => exact fun s => (hf s a).trans (ih (f s a))

theorem applyChanges_changed (s : Mach) : Changed (still s) (still (applyChanges s)) := by
  have hfold := foldl_changed applyChange_changed s.rmt.changes (modRmt (fun r => { r with changes := [] }) s)
  unfold applyChanges
  rw [still_enterWaiting, still_modRnd]
  revert hfold
  generalize List.foldl applyChange _ _ = u
  intro hfold
  dsimp only
  split
  next m _ => 
    rw [rnd_of_still (still_applyTwin m u), still_applyTwin]
    exact hfold.trans ⟨_, _, rfl⟩
  next => exact hfold.trans ⟨_, _, rfl⟩

theorem applySets_none (m : BitVec 48) {s : Mach} (h : s.rnd.sets = []) : still (applySets m s) = still s := by
  unfold applySets
  rw [h]
  show still (modRnd (fun r => { r with sets := [] }) s) = still s
  rw [still_modRnd, ← h]
  rfl

/-- The module as a round comes into force. -/
def opening (r : Round) (s : Mach) : Mach :=
  modRnd (fun x => { x with cur := some r, active := r.period, numReg := r.num, instep := r.instep })
    { s with fab := s.fab.newRound s.now (cycleOf s) }

/-- The changes that the round brings. -/
def opened (r : Round) (s : Mach) : Mach := applySets r.num (applyDigSets (applyChanges (opening r s)))

/-- What the module does at the start of a round that its digests are formed for. -/
def boundary (prev : Round) (late : Option Nat) (s : Mach) : Mach := latchStrand (lockstepBoundary prev.num (closeRound prev late s))

theorem still_openRound (r : Round) (s : Mach) : still (openRound r s) = still (opened r s) := by
  unfold openRound
  dsimp only
  rw [still_endResumes, still_startLists, still_beginPrograms, still_budgetCheck, still_modSec, still_coresBoundary,
    still_sealBoundary, still_portsBoundary, still_iter fun i t => still_beginSlot 0 i t, still_endModFences]
  exact still_ite (still_roundFences _ _) rfl
/-- The round unit as a round begins. -/
def begunRnd (r : Round) (x : Rnd) : Rnd := { x with cur := some r, active := r.period, numReg := r.num, instep := r.instep }

theorem openRound_changed (r : Round) {s : Mach} (hsets : s.rnd.sets = []) :
    Changed { still s with rnd := begunRnd r s.rnd, began := s.now, lost := 0, cycle := 0 } (still (openRound r s)) := by
  rw [still_openRound]
  have hchanged := applyChanges_changed (opening r s)
  unfold opened
  revert hchanged
  generalize applyChanges (opening r s) = u
  intro hchanged
  have hdig := still_applyDigSets u
  have hnone : (applyDigSets u).rnd.sets = [] := by
    obtain ⟨_, _, h⟩ := hchanged
    rw [rnd_of_still hdig, rnd_eq h]
    exact hsets
  rw [applySets_none _ hnone, hdig]
  exact hchanged

theorem firstRound_planned (s : Mach) : planned (still (firstRound s)) = planned (still s) := by
  unfold firstRound
  rw [still_portsNew, ← (settleStretch_counted s).planned, still_modRnd, still_modPwr]
  generalize settleStretch s = u
  rfl

theorem boundary_planned (prev : Round) (late : Option Nat) (s : Mach) : planned (still (boundary prev late s)) = planned (still s) := by
  unfold boundary
  rw [still_latchStrand, still_lockstepBoundary, closeRound_planned]

/-- What a round start leaves. -/
structure Began (s t : Mach) (r : Round) : Prop where
  plan : planned (still t) = { planned (still s) with cur := some r }
  active : t.rnd.active = r.period
  instep : t.rnd.instep = r.instep
  began : t.fab.began = s.now
  lost : t.fab.lost = 0
  cycle : t.fab.cycle = 0

theorem openRound_began (r : Round) {s u : Mach} (hplan : planned (still u) = planned (still s)) (hsets : s.rnd.sets = []) :
    Began s (openRound r u) r ∧ (openRound r u).rnd.marginMin = u.rnd.marginMin := by
  have hnone : u.rnd.sets = [] := (congrArg Plan.sets hplan).trans hsets
  obtain ⟨_, _, h⟩ := openRound_changed r hnone
  have hr := rnd_eq h
  revert h hr
  generalize openRound r u = t
  intro h hr
  have hcur : planned (still t) = { planned (still u) with cur := some r } := by
    rw [h]
    rfl
  refine ⟨⟨hcur.trans (by rw [hplan]), ?_, ?_, ?_, ?_, ?_⟩, ?_⟩
  · rw [hr]; rfl
  · rw [hr]; rfl
  · exact (congrArg Still.began h).trans (congrArg Plan.now hplan)
  · exact congrArg Still.lost h
  · exact congrArg Still.cycle h
  · rw [hr]; rfl

theorem beginRound_none (r : Round) (late : Option Nat) {s : Mach} (hcur : s.rnd.cur = none) :
    beginRound r late s = openRound r (latchStrand (firstRound s)) := by
  unfold beginRound
  rw [hcur]

theorem beginRound_some (r : Round) (late : Option Nat) {s : Mach} {prev : Round} (hcur : s.rnd.cur = some prev)
    (hhold : (formDigest (ageDigest s)).rnd.hold = false) :
    beginRound r late s = openRound r (boundary prev late (formDigest (ageDigest s))) := by
  unfold beginRound
  rw [hcur]
  exact if_neg (by rw [hhold]; decide)

theorem boundary_late (prev : Round) (n : Nat) {s : Mach} (hended : s.rnd.ended = none) :
    (boundary prev (some n) s).rnd.marginMin = int32 (-(n : Int)) := by
  have hclosed : still (boundary prev (some n) s) = still (closeRound prev (some n) s) := by
    unfold boundary
    rw [still_latchStrand, still_lockstepBoundary]
  rw [rnd_of_still hclosed]
  exact closeRound_late prev n hended

theorem beginRound_began {s : Mach} (r : Round) (late : Option Nat) (hopens : OpensRound s) (hsets : s.rnd.sets = []) :
    Began s (beginRound r late s) r ∧ (s.rnd.cur ≠ none → s.rnd.ended = none → ∀ n, late = some n →
      (beginRound r late s).rnd.marginMin = int32 (-(n : Int))) := by
  cases hcur : s.rnd.cur with
  | none =>
    have hplan : planned (still (latchStrand (firstRound s))) = planned (still s) := by
      rw [still_latchStrand, firstRound_planned]
    rw [beginRound_none r late hcur]
    exact ⟨(openRound_began r hplan hsets).1, fun h => absurd rfl h⟩
  | some prev =>
    have hhold : (formDigest (ageDigest s)).rnd.hold = false := hopens.elim (fun h => absurd (hcur.symm.trans h) nofun) id
    have hdig := still_of_decided (agedDigest_decided s) hhold
    rw [beginRound_some r late hcur hhold]
    revert hdig
    generalize formDigest (ageDigest s) = u
    intro hdig
    have hplan : planned (still (boundary prev late u)) = planned (still s) := by rw [boundary_planned, hdig]
    obtain ⟨hbegan, hmargin⟩ := openRound_began r hplan hsets
    refine ⟨hbegan, fun _ hended n hn => ?_⟩
    subst hn
    exact hmargin.trans (boundary_late prev n ((congrArg Rnd.ended (rnd_of_still hdig)).trans hended))

/-- A round does not begin where the digest that is due has no majority. -/
theorem beginRound_holds {s : Mach} (r : Round) (late : Option Nat) (hopens : ¬ OpensRound s) :
    (beginRound r late s).rnd.cur = s.rnd.cur ∧ (beginRound r late s).rnd.hold = true := by
  have hnot := not_or.1 hopens
  have hhold : (formDigest (ageDigest s)).rnd.hold = true := Bool.eq_true_of_not_eq_false hnot.2
  obtain ⟨prev, hprev⟩ := Option.ne_none_iff_exists'.1 hnot.1
  have hbegin : beginRound r late s = formDigest (ageDigest s) := by
    unfold beginRound
    rw [hprev]
    exact if_pos hhold
  rw [hbegin]
  refine ⟨?_, hhold⟩
  rcases agedDigest_decided s with h | ⟨-, h⟩
  · exact congrArg Rnd.cur (rnd_of_still h)
  · exact h

/-! ### Round starts as the commands make them -/

theorem Counted.lateLimit {a b : Still} (h : Counted a b) : b.rnd.lateLimit = a.rnd.lateLimit := by
  obtain ⟨_, _, _, _, _, _, rfl⟩ := h
  rfl

theorem ended_planned (t : Nat) (s : Mach) : planned (still (ended_ t s)) = { planned (still s) with now := max s.now t } :=
  (ended_counted t s).planned

/-- The first scheduled round leaves the schedule. -/
def unscheduled (rest : List Round) (s : Mach) : Mach := modRnd (fun x => { x with sched := rest }) s

theorem roundStart_due {s : Mach} {r : Round} {rest : List Round} (hs : s.rnd.sched = r :: rest) (hen : s.rnd.en = true)
    (hnext : (ended_ r.start s).keep.holdNext = false) : roundStart s = dueRound r (unscheduled rest (ended_ r.start s)) := by
  unfold roundStart
  rw [hs]
  dsimp only
  rw [hen]
  refine (if_neg (by decide)).trans ?_
  exact if_neg (by rw [show (stopHandlers (notBefore r.start s)).keep.holdNext = false from hnext]; decide)

theorem dueRound_begins (r : Round) {s : Mach} (hwithheld : s.rnd.withheld = []) (hlate : anyLate s = false) :
    dueRound r s = beginRound r none s := by
  unfold dueRound
  rw [hwithheld, hlate]
  rfl

theorem roundStart_begins {s : Mach} {r : Round} {rest : List Round} (hs : s.rnd.sched = r :: rest) (hen : s.rnd.en = true)
    (hready : Ready (ended_ r.start s)) : roundStart s = beginRound r none (unscheduled rest (ended_ r.start s)) := by
  obtain ⟨hwithheld, hlate, hnext, -⟩ := hready
  rw [roundStart_due hs hen hnext]
  revert hwithheld hlate
  generalize ended_ r.start s = u
  exact fun hwithheld hlate => dueRound_begins r hwithheld hlate

theorem roundStart_began {s : Mach} {r : Round} {rest : List Round} (hs : s.rnd.sched = r :: rest) (hen : s.rnd.en = true)
    (hready : Ready (ended_ r.start s)) (hopens : OpensRound (unscheduled rest (ended_ r.start s))) :
    (roundStart s).rnd.cur = some r ∧ (roundStart s).rnd.sched = rest ∧ (roundStart s).rnd.active = r.period ∧
      (roundStart s).fab.began = max s.now r.start ∧ (roundStart s).fab.lost = 0 ∧ (roundStart s).rnd.withheld = [] ∧
      (roundStart s).now = max s.now r.start ∧ (roundStart s).fab.cycle = 0 := by
  rw [roundStart_begins hs hen hready]
  obtain ⟨hwithheld, -, -, hsets⟩ := hready
  have hplan := ended_planned r.start s
  revert hwithheld hsets hplan hopens
  generalize ended_ r.start s = u
  intro hopens hwithheld hsets hplan
  obtain ⟨hbegan, -⟩ := beginRound_began r none hopens hsets
  have hnow : u.now = max s.now r.start := congrArg Plan.now hplan
  revert hbegan
  generalize beginRound r none (unscheduled rest u) = t
  rintro ⟨hp, hactive, -, hb, hlost, hcycle⟩
  exact ⟨congrArg Plan.cur hp, congrArg Plan.sched hp, hactive, hb.trans hnow, hlost, (congrArg Plan.withheld hp).trans hwithheld,
    (congrArg Plan.now hp).trans hnow, hcycle⟩

theorem roundStart_holds {s : Mach} {r : Round} {rest : List Round} (hs : s.rnd.sched = r :: rest) (hen : s.rnd.en = true)
    (hready : Ready (ended_ r.start s)) (hopens : ¬ OpensRound (unscheduled rest (ended_ r.start s))) :
    (roundStart s).rnd.cur = s.rnd.cur ∧ (roundStart s).rnd.hold = true := by
  rw [roundStart_begins hs hen hready]
  obtain ⟨hcur, hhold⟩ := beginRound_holds r none hopens
  exact ⟨hcur.trans (congrArg Plan.cur (ended_planned r.start s)), hhold⟩

/-- A late core withholds the start of a round. -/
def withholding (r : Round) (s : Mach) : Mach := rndEvt 2 (modRnd (fun x => { x with withheld := x.withheld ++ [r] }) s)

theorem dueRound_withheld (r : Round) {s : Mach} (hlate : anyLate s = true) (hlimit : s.rnd.lateLimit ≠ 0) :
    dueRound r s = withholding r s := by
  unfold dueRound
  rw [hlate, Bool.or_true, if_pos rfl]
  exact if_neg hlimit

theorem roundStart_withheld {s : Mach} {r : Round} {rest : List Round} (hs : s.rnd.sched = r :: rest) (hen : s.rnd.en = true)
    (hnext : (ended_ r.start s).keep.holdNext = false) (hlate : anyLate (ended_ r.start s) = true) (hlimit : s.rnd.lateLimit ≠ 0) :
    (roundStart s).rnd.cur = s.rnd.cur ∧ (roundStart s).rnd.sched = rest ∧ (roundStart s).rnd.withheld = s.rnd.withheld ++ [r] ∧
      bit (roundStart s).rnd.evt 2 = true := by
  rw [roundStart_due hs hen hnext]
  have hplan := ended_planned r.start s
  have hlimit' : (ended_ r.start s).rnd.lateLimit ≠ 0 := by
    have h : (ended_ r.start s).rnd.lateLimit = s.rnd.lateLimit := (ended_counted r.start s).lateLimit
    rwa [h]
  revert hlate hplan hlimit'
  generalize ended_ r.start s = u
  intro hlate hplan hlimit'
  have hlate' : anyLate (unscheduled rest u) = true := hlate
  rw [dueRound_withheld r hlate' hlimit', withholding, rnd_eq (still_rndEvt 2 _)]
  refine ⟨congrArg Plan.cur hplan, rfl, ?_, bit_setBit_same _ (by decide)⟩
  exact congrArg (fun p => p.withheld ++ [r]) hplan

theorem roundStart_held {s : Mach} {r : Round} {rest : List Round} (hs : s.rnd.sched = r :: rest) (hen : s.rnd.en = true)
    (hhold : s.rnd.hold = false) (hnext : (ended_ r.start s).keep.holdNext = true) :
    (roundStart s).rnd.hold = true ∧ (roundStart s).rnd.sched = [] ∧ (roundStart s).rnd.cur = s.rnd.cur ∧
      bit (roundStart s).rnd.evt 5 = true := by
  have henters : roundStart s = enterHold (ended_ r.start s) := by
    unfold roundStart
    rw [hs]
    dsimp only
    rw [hen]
    exact (if_neg (by decide)).trans (if_pos hnext)
  rw [henters]
  have hplan := ended_planned r.start s
  revert hplan
  generalize ended_ r.start s = u
  intro hplan
  obtain ⟨_, _, _, _, _, _, h⟩ := enterHold_held ((congrArg Plan.hold hplan).trans hhold)
  rw [rnd_eq h]
  exact ⟨rfl, rfl, congrArg Plan.cur hplan, bit_setBit_same _ (by decide)⟩

theorem delayedRoundStart_begins {s : Mach} {r : Round} {rest : List Round} (hw : s.rnd.withheld = r :: rest)
    (htime : s.now - r.start < lateCycles s) (hlate : anyLate s = false) (hnext : s.keep.holdNext = false) :
    delayedRoundStart s = beginRound r (some (s.now - r.start)) (modRnd (fun x => { x with withheld := rest }) s) := by
  unfold delayedRoundStart
  rw [hw]
  dsimp only
  rw [if_neg (by omega), hlate, if_neg (by decide), hnext, if_neg (by decide)]

theorem delayedRoundStart_began {s : Mach} {r : Round} {rest : List Round} (hw : s.rnd.withheld = r :: rest)
    (htime : s.now - r.start < lateCycles s) (hlate : anyLate s = false) (hnext : s.keep.holdNext = false) (hsets : s.rnd.sets = [])
    (hopens : OpensRound (modRnd (fun x => { x with withheld := rest }) s)) :
    (delayedRoundStart s).rnd.cur = some r ∧ (delayedRoundStart s).rnd.withheld = rest ∧ (delayedRoundStart s).fab.began = s.now ∧
      (delayedRoundStart s).now = s.now ∧ (s.rnd.cur ≠ none → s.rnd.ended = none →
        (delayedRoundStart s).rnd.marginMin = int32 (-((s.now - r.start : Nat) : Int))) := by
  rw [delayedRoundStart_begins hw htime hlate hnext]
  obtain ⟨hbegan, hmargin⟩ := beginRound_began r (some (s.now - r.start)) hopens hsets
  revert hbegan hmargin
  generalize beginRound r (some (s.now - r.start)) _ = t
  rintro ⟨hp, -, -, hb, -, -⟩ hmargin
  exact ⟨congrArg Plan.cur hp, congrArg Plan.withheld hp, hb, congrArg Plan.now hp, fun hcur hended => hmargin hcur hended _ rfl⟩

theorem delayedRoundStart_waits {s : Mach} (hw : s.rnd.withheld ≠ []) (hlate : anyLate s = true)
    (htime : ∀ r, s.rnd.withheld.head? = some r → s.now - r.start < lateCycles s) : delayedRoundStart s = s := by
  obtain ⟨r, rest, hr⟩ := List.exists_cons_of_ne_nil hw
  have := htime r (by rw [hr]; rfl)
  unfold delayedRoundStart
  rw [hr]
  dsimp only
  rw [if_neg (by omega), if_pos hlate]

theorem lateFault_eq {s : Mach} {r : Round} {rest : List Round} (hw : s.rnd.withheld = r :: rest) :
    lateFault s = lateFaultNow (notBefore (r.start + lateCycles s) s) := by
  unfold lateFault
  rw [hw]

theorem lateFault_spec {s : Mach} {r : Round} {rest : List Round} (hw : s.rnd.withheld = r :: rest) (hhold : s.rnd.hold = false) :
    (lateFault s).now = max s.now (r.start + lateCycles s) ∧
      LateFault (notBefore (r.start + lateCycles s) s) (lateFault s) r ∧
      (s.rnd.en = true → s.rnd.ended = none → (lateFault s).rnd.marginMin = int32 (-(((lateFault s).now - r.start : Nat) : Int))) := by
  rw [lateFault_eq hw]
  have hplan := (notBefore_counted (r.start + lateCycles s) s).planned
  have hrunning : s.rnd.en = true → (notBefore (r.start + lateCycles s) s).rnd.ended = s.rnd.ended := fun hen => by
    obtain ⟨k, h⟩ := still_notBefore (r.start + lateCycles s) hhold hen
    rw [rnd_eq h]
    rfl
  revert hplan hrunning
  generalize notBefore (r.start + lateCycles s) s = u
  intro hplan hrunning
  have hfault := lateFaultNow_spec ((congrArg Plan.withheld hplan).trans hw) ((congrArg Plan.hold hplan).trans hhold)
  have hnow : (lateFaultNow u).now = max s.now (r.start + lateCycles s) := hfault.now.trans (congrArg Plan.now hplan)
  refine ⟨hnow, hfault, fun hen hended => ?_⟩
  rw [hfault.margin ((hrunning hen).trans hended), hfault.now]

/-- Settles O53: the passing of time keeps the schedule, and each start is one of the cases of a due round. -/
theorem roundsStartInTimeOrLate : Obligations.RoundsStartInTimeOrLate := by
  unfold Obligations.RoundsStartInTimeOrLate
  refine ⟨?_, ?_, ?_, ?_, ?_, ?_, ?_, ?_⟩
  · intro n a
    have hcounted := passCycles_counted n a
    have hplan := hcounted.planned
    have hlimit := hcounted.lateLimit
    revert hplan hlimit
    generalize passCycles n a = t
    exact fun hplan hlimit => ⟨congrArg Plan.now hplan, congrArg Plan.cur hplan, congrArg Plan.sched hplan,
      congrArg Plan.withheld hplan, congrArg Plan.owed hplan, congrArg Plan.missed hplan, congrArg Plan.hold hplan, hlimit⟩
  · intro s r rest hs hen hready hopens
    have hbegan := roundStart_began hs hen hready hopens
    exact run_notes (P := fun m => m.rnd.cur = some r ∧ m.rnd.sched = rest ∧ m.rnd.active = r.period ∧
      m.fab.began = max s.m.now r.start ∧ m.fab.lost = 0 ∧ m.rnd.withheld = [] ∧ m.now = max s.m.now r.start ∧ m.fab.cycle = 0)
      fun _ => hbegan
  · intro s r rest hs hen hready hopens
    have hholds := roundStart_holds hs hen hready hopens
    exact run_notes (P := fun m => m.rnd.cur = s.m.rnd.cur ∧ m.rnd.hold = true) fun _ => hholds
  · intro s r rest hs hen hnext hlate hlimit
    have hwithheld := roundStart_withheld hs hen hnext hlate hlimit
    exact run_notes (P := fun m => m.rnd.cur = s.m.rnd.cur ∧ m.rnd.sched = rest ∧ m.rnd.withheld = s.m.rnd.withheld ++ [r] ∧
      bit m.rnd.evt 2 = true) fun _ => hwithheld
  · intro s r rest hs hen hhold hnext
    have hheld := roundStart_held hs hen hhold hnext
    exact run_notes (P := fun m => m.rnd.hold = true ∧ m.rnd.sched = [] ∧ m.rnd.cur = s.m.rnd.cur ∧ bit m.rnd.evt 5 = true)
      fun _ => hheld
  · intro s r rest hw htime hlate hnext hsets hopens
    have hbegan := delayedRoundStart_began hw htime hlate hnext hsets hopens
    exact run_notes (P := fun m => m.rnd.cur = some r ∧ m.rnd.withheld = rest ∧ m.fab.began = s.m.now ∧ m.now = s.m.now ∧
      (s.m.rnd.cur ≠ none → s.m.rnd.ended = none → m.rnd.marginMin = int32 (-((s.m.now - r.start : Nat) : Int)))) fun _ => hbegan
  · exact fun s hw hlate htime => run_unchanged (delayedRoundStart_waits hw hlate htime)
  · intro s r rest hw hhold
    obtain ⟨hnow, hfault, hmargin⟩ := lateFault_spec hw hhold
    exact run_notes (P := fun m => bit m.rnd.evt 3 = true ∧ m.rnd.hold = true ∧ m.rnd.withheld = [] ∧ m.keep.faulted = true ∧
      CoresStopped m ∧ m.now = max s.m.now (r.start + lateCycles s.m) ∧
      (s.m.rnd.en = true → s.m.rnd.ended = none → m.rnd.marginMin = int32 (-((m.now - r.start : Nat) : Int))))
      fun _ => ⟨hfault.evt, hfault.hold, hfault.withheld, hfault.faulted, hfault.cores, hnow, hmargin⟩

end Sys2Proof.Spec
end


section
/-! PROOFS. Markers and stretch requests (R47 to R60, R66 to R71, R364, R607). -/

namespace Sys2Proof.Spec

open Sys2Proof.Machine

/-! ### The fields of a message that bytes make up -/

theorem ofBytes_append (a b : List Byte) : ofBytes (a ++ b) = ofBytes a + 256 ^ a.length * ofBytes b := by
  induction a with
  | nil => simp [ofBytes]
  | cons x a ih =>
    rw [List.cons_append, ofBytes, ih, ofBytes, List.length_cons, Nat.pow_succ]
    ring

/-- The bytes between two others are a field of the number that all of them make up. -/
theorem fld_ofBytes {w : Nat} {a b c : List Byte} {lo len : Nat} (hlo : lo = 8 * a.length) (hlen : len = 8 * b.length)
    (hw : lo + len ≤ w) : fld (BitVec.ofNat w (ofBytes (a ++ (b ++ c)))) lo len = BitVec.ofNat len (ofBytes b) := by
  subst hlo hlen
  apply BitVec.eq_of_toNat_eq
  have hpow : ∀ n, 2 ^ (8 * n) = 256 ^ n := fun n => by rw [Nat.pow_mul]
  have ha := ofBytes_lt a
  have hb := ofBytes_lt b
  have hpos : 0 < 256 ^ a.length := Nat.pow_pos (by decide)
  unfold fld
  rw [BitVec.extractLsb'_toNat, BitVec.toNat_ofNat, BitVec.toNat_ofNat, Nat.shiftRight_eq_div_pow, ofBytes_append, ofBytes_append, hpow,
    hpow, Nat.mod_eq_of_lt hb]
  have hmod : ∀ n, (n % 2 ^ w) / 256 ^ a.length % 256 ^ b.length = n / 256 ^ a.length % 256 ^ b.length := by
    intro n
    rw [← hpow, ← hpow, ← Nat.shiftRight_eq_div_pow, ← Nat.shiftRight_eq_div_pow]
    apply Nat.eq_of_testBit_eq
    intro i
    simp only [Nat.testBit_mod_two_pow, Nat.testBit_shiftRight]
    by_cases hi : i < 8 * b.length
    · simp [hi, show 8 * a.length + i < w by omega]
    · simp [hi]
  rw [hmod, Nat.add_mul_div_left _ _ hpos, Nat.div_eq_of_lt ha, Nat.zero_add, Nat.add_mul_mod_self_left, Nat.mod_eq_of_lt hb]

theorem ofNat_bytesOf {n : Nat} (x : BitVec (8 * n)) : BitVec.ofNat (8 * n) (ofBytes (bytesOf x)) = x := by
  unfold bytesOf
  rw [ofBytes_toBytes, BitVec.ofNat_toNat, BitVec.setWidth_eq]
  rw [Nat.mul_div_cancel_left _ (by decide : 0 < 8)]
  exact x.isLt.trans_eq (by rw [Nat.pow_mul])

theorem bit_fld {w n : Nat} (x : BitVec w) (lo : Nat) {i : Nat} (h : i < n) : bit (fld x lo n) i = bit x (lo + i) := by
  unfold bit fld
  rw [BitVec.getLsbD_extractLsb', decide_eq_true h, Bool.true_and]

section
variable (aligned hold : Bool) (hops : Byte) (round : BitVec 48) (period stretch master : BitVec 16) (lead : Word)

/-- The byte of the flags of a marker. -/
def markFlags : List Byte := toBytes 1 ((if aligned then 1 else 0) + (if hold then 2 else 0))

theorem marker_eq : marker aligned hold hops round period stretch master lead = BitVec.ofNat 192 (ofBytes
    ([0x31] ++ (markFlags aligned hold ++ ([hops] ++ (toBytes 1 0 ++ (bytesOf round ++ (bytesOf period ++ (bytesOf stretch ++
      (bytesOf master ++ (bytesOf lead ++ toBytes 4 0)))))))))) := by
  unfold marker markFlags
  simp only [List.append_assoc]

theorem mkHops_marker : mkHops (marker aligned hold hops round period stretch master lead) = hops := by
  rw [marker_eq, ← List.append_assoc]
  exact (fld_ofBytes (lo := 16) (len := 8) (b := [hops]) rfl rfl (by decide)).trans (by simp [ofBytes])

theorem mkRound_marker : mkRound (marker aligned hold hops round period stretch master lead) = round := by
  rw [marker_eq, ← List.append_assoc, ← List.append_assoc, ← List.append_assoc]
  exact (fld_ofBytes (lo := 32) (len := 48) (b := bytesOf round) rfl rfl (by decide)).trans (ofNat_bytesOf (n := 6) round)

theorem mkPeriod_marker : mkPeriod (marker aligned hold hops round period stretch master lead) = period := by
  rw [marker_eq, ← List.append_assoc, ← List.append_assoc, ← List.append_assoc, ← List.append_assoc]
  exact (fld_ofBytes (lo := 80) (len := 16) (b := bytesOf period) rfl rfl (by decide)).trans (ofNat_bytesOf (n := 2) period)

theorem mkStretch_marker : mkStretch (marker aligned hold hops round period stretch master lead) = stretch := by
  rw [marker_eq, ← List.append_assoc, ← List.append_assoc, ← List.append_assoc, ← List.append_assoc, ← List.append_assoc]
  exact (fld_ofBytes (lo := 96) (len := 16) (b := bytesOf stretch) rfl rfl (by decide)).trans (ofNat_bytesOf (n := 2) stretch)

theorem mkMaster_marker : mkMaster (marker aligned hold hops round period stretch master lead) = master := by
  rw [marker_eq, ← List.append_assoc, ← List.append_assoc, ← List.append_assoc, ← List.append_assoc, ← List.append_assoc, ← List.append_assoc]
  exact (fld_ofBytes (lo := 112) (len := 16) (b := bytesOf master) rfl rfl (by decide)).trans (ofNat_bytesOf (n := 2) master)

theorem mkLead_marker : mkLead (marker aligned hold hops round period stretch master lead) = lead := by
  rw [marker_eq, ← List.append_assoc, ← List.append_assoc, ← List.append_assoc, ← List.append_assoc, ← List.append_assoc, ← List.append_assoc, ← List.append_assoc]
  exact (fld_ofBytes (lo := 128) (len := 32) (b := bytesOf lead) rfl rfl (by decide)).trans (ofNat_bytesOf (n := 4) lead)

theorem fld_flags_marker : fld (marker aligned hold hops round period stretch master lead) 8 8 =
    BitVec.ofNat 8 (ofBytes (markFlags aligned hold)) := by
  rw [marker_eq]
  exact fld_ofBytes (lo := 8) (len := 8) (b := markFlags aligned hold) rfl rfl (by decide)

theorem mkAligned_marker : mkAligned (marker aligned hold hops round period stretch master lead) = aligned := by
  have hbit := bit_fld (marker aligned hold hops round period stretch master lead) 8 (n := 8) (i := 0) (by decide)
  rw [fld_flags_marker] at hbit
  refine hbit.symm.trans ?_
  cases aligned <;> cases hold <;> decide

theorem mkHold_marker : mkHold (marker aligned hold hops round period stretch master lead) = hold := by
  have hbit := bit_fld (marker aligned hold hops round period stretch master lead) 8 (n := 8) (i := 1) (by decide)
  rw [fld_flags_marker] at hbit
  refine hbit.symm.trans ?_
  cases aligned <;> cases hold <;> decide

end

/-! ### Messages that leave on several ports -/

theorem foldl_sends {g : Mach → Msg} (hg : ∀ q m s, g (sendUrgent q m s) = g s) :
    ∀ (l : List Nat) (s : Mach), (∃ ps, l.foldl (fun s q => sendUrgent q (g s) s) s = { s with ports := ps })
  | [], s => ⟨_, rfl⟩
  | q :: l, s => by
    obtain ⟨ps, h⟩ := foldl_sends hg l (sendUrgent q (g s) s)
    exact ⟨ps, h⟩

theorem portAt_sendUrgent (q : Nat) (m : Msg) (s : Mach) : (portAt (sendUrgent q m s) q).urgent = (portAt s q).urgent ++ [m] :=
  congrArg Port.urgent (portAt_modPort q _ s)

theorem portAt_foldl_unsent {g : Mach → Msg} {r : Nat} : ∀ (l : List Nat) (s : Mach), r ∉ l →
    portAt (l.foldl (fun s q => sendUrgent q (g s) s) s) r = portAt s r
  | [], _, _ => rfl
  | q :: l, s, h => by
    rw [List.foldl_cons, portAt_foldl_unsent l _ fun hr => h (List.mem_cons_of_mem _ hr)]
    exact portAt_modPort_other _ s fun hr => h (hr ▸ List.mem_cons_self)

theorem portAt_foldl_sent {g : Mach → Msg} (hg : ∀ q m s, g (sendUrgent q m s) = g s) {r : Nat} : ∀ (l : List Nat) (s : Mach),
    l.Nodup → r ∈ l → (portAt (l.foldl (fun s q => sendUrgent q (g s) s) s) r).urgent = (portAt s r).urgent ++ [g s]
  | [], _, _, h => absurd h List.not_mem_nil
  | q :: l, s, hnd, h => by
    obtain ⟨hq, hl⟩ := List.nodup_cons.1 hnd
    rw [List.foldl_cons]
    rcases List.mem_cons.1 h with rfl | h
    · rw [portAt_foldl_unsent l _ hq, portAt_sendUrgent]
    · have hne : r ≠ q := fun hr => hq (hr ▸ h)
      have hother : portAt (sendUrgent q (g s) s) r = portAt s r := portAt_modPort_other _ s hne
      rw [portAt_foldl_sent hg l _ hl h, hg, hother]

/-! ### Markers that arrive (R49 to R58) -/

/-- The copy of a marker that goes on. -/
def markCopy (m : BitVec 192) (rem : Int) : BitVec 192 :=
  marker (mkAligned m) (mkHold m) (mkHops m + 1) (mkRound m) (mkPeriod m) (mkStretch m) (mkMaster m) (if mkAligned m then int32 rem else 0)

/-- The ports on which a copy goes on. -/
def copyPorts (p : Nat) (s : Mach) : List Nat := (List.range 64).filter (fun q => q != p && markerPort s q)

/-- The copies have left. -/
def copiesSent (p : Nat) (m : BitVec 192) (rem : Int) (s : Mach) : Mach :=
  (copyPorts p s).foldl (fun s q => sendUrgent q (.relay (markCopy m rem) s.now) s) s

theorem forwardMarker_sends {m : BitVec 192} (h : mkHops m ≠ 255) (p : Nat) (rem : Int) (s : Mach) :
    forwardMarker p m rem s = modRnd (fun r => { r with lastFwd := some (mkRound m, mkMaster m) }) (copiesSent p m rem s) := if_neg h

theorem copiesSent_frame (p : Nat) (m : BitVec 192) (rem : Int) (s : Mach) : ∃ ps, copiesSent p m rem s = { s with ports := ps } :=
  foldl_sends (g := fun s => .relay (markCopy m rem) s.now) (fun _ _ _ => rfl) _ s

theorem copiesSent_other {p r : Nat} (hr : r < 64) (hne : r ≠ p) {s : Mach} (hport : markerPort s r = true) (m : BitVec 192) (rem : Int) :
    (portAt (copiesSent p m rem s) r).urgent = (portAt s r).urgent ++ [.relay (markCopy m rem) s.now] :=
  portAt_foldl_sent (g := fun s => .relay (markCopy m rem) s.now) (fun _ _ _ => rfl) _ s (List.nodup_range.filter _)
    (List.mem_filter.2 ⟨List.mem_range.2 hr, by simp [hne, hport]⟩)

theorem copiesSent_own (p : Nat) (m : BitVec 192) (rem : Int) (s : Mach) : portAt (copiesSent p m rem s) p = portAt s p :=
  portAt_foldl_unsent (g := fun s => .relay (markCopy m rem) s.now) _ s fun h => by
    have := (List.mem_filter.1 h).2
    simp at this

theorem forwardMarker_frame (p : Nat) (m : BitVec 192) (rem : Int) (s : Mach) :
    ∃ ps f, forwardMarker p m rem s = { s with ports := ps, rnd := { s.rnd with lastFwd := f } } := by
  by_cases h : mkHops m = 255
  · exact ⟨s.ports, s.rnd.lastFwd, if_pos h⟩
  · obtain ⟨ps, e⟩ := copiesSent_frame p m rem s
    rw [forwardMarker_sends h, e]
    exact ⟨_, _, rfl⟩

/-- The module as it notes a marker that is accepted. -/
def markNoted (p : Nat) (m : BitVec 192) (s : Mach) : Mach :=
  modRnd (fun r => { r with lastAcc := some (mkRound m, mkMaster m) }) (noteCopy p m s)

theorem acceptMarker_scheduled {p : Nat} {m : BitVec 192} {s : Mach} (hhold : mkHold m = false)
    (hlead : mkAligned m = true → 0 < leadLeft s p m) :
    acceptMarker p m s = modRnd (fun r => { r with sched := r.sched ++ [roundOf s p m] })
      (forwardMarker p m (leadLeft s p m) (markNoted p m s)) := by
  have hshort : (mkAligned m && decide (leadLeft s p m ≤ 0)) = false := by
    cases ha : mkAligned m with
    | false => rfl
    | true =>
      have := hlead ha
      simp only [Bool.true_and, decide_eq_false_iff_not]
      omega
  unfold acceptMarker
  dsimp only
  rw [hhold, hshort]
  rfl

theorem acceptMarker_spec {p : Nat} {m : BitVec 192} {s : Mach} (hhold : mkHold m = false) (hhops : mkHops m ≠ 255)
    (hlead : mkAligned m = true → 0 < leadLeft s p m) :
    (acceptMarker p m s).rnd.lastAcc = some (mkRound m, mkMaster m) ∧
      (acceptMarker p m s).rnd.sched = s.rnd.sched ++ [roundOf s p m] ∧ (acceptMarker p m s).rnd.missed = 0 ∧
      (acceptMarker p m s).rnd.hops = mkHops m ∧ (acceptMarker p m s).rnd.upport = BitVec.ofNat 6 p ∧
      (acceptMarker p m s).rnd.evt = s.rnd.evt ∧
      (∀ r : Fin 64, r.val ≠ p → markerPort s r.val = true → (portAt (acceptMarker p m s) r.val).urgent =
        (portAt s r.val).urgent ++ [.relay (markCopy m (leadLeft s p m)) s.now]) ∧
      (portAt (acceptMarker p m s) p).urgent = (portAt s p).urgent := by
  rw [acceptMarker_scheduled hhold hlead, forwardMarker_sends hhops]
  have hother := fun (r : Fin 64) (hne : r.val ≠ p) (hport : markerPort (markNoted p m s) r.val = true) =>
    copiesSent_other r.isLt hne hport m (leadLeft s p m)
  have hown := copiesSent_own p m (leadLeft s p m) (markNoted p m s)
  obtain ⟨ps, h⟩ := copiesSent_frame p m (leadLeft s p m) (markNoted p m s)
  rw [h] at hother hown ⊢
  exact ⟨rfl, rfl, rfl, rfl, rfl, rfl, hother, congrArg Port.urgent hown⟩

section
variable {s : Mach} {p : Nat} {m : BitVec 192}

theorem endsHold_of_running (h : s.rnd.hold = false) : endsHold s m = false := by
  unfold endsHold
  rw [h]
  rfl

/-- What a module that follows another master does with a marker. -/
theorem roundMarker_followed (hport : markerPort s p = true) (hen : s.rnd.en = true) (hhold : s.rnd.hold = false)
    (hmaster : s.rnd.master = false) {last : BitVec 48} {ms : BitVec 16} (hlast : s.rnd.lastAcc = some (last, ms)) :
    roundMarker p m s =
      if mkMaster m ≠ ms then markerFault 6 s
      else if s.rnd.owed.contains (mkRound m) then lateCopy p m s
      else if mkRound m = last ∨ s.rnd.lastFwd = some (mkRound m, mkMaster m) then s
      else if mkRound m = last + 1 then acceptMarker p m s
      else markerFault 6 s := by
  unfold roundMarker
  dsimp only
  rw [hport, hmaster, endsHold_of_running hhold, hhold, hen, hlast]
  rfl

theorem roundMarker_elsewhere (hport : markerPort s p = false) : roundMarker p m s = s := by
  unfold roundMarker
  dsimp only
  rw [hport]
  rfl

theorem roundMarker_conflict (hport : markerPort s p = true) (hmaster : s.rnd.master = true) :
    roundMarker p m s = markerFault 7 (modRnd (fun r => { r with conflict := true }) s) := by
  unfold roundMarker
  dsimp only
  rw [hport, hmaster]
  rfl

end

theorem succ_ne_self (x : BitVec 48) : x + 1 ≠ x := by bv_omega

/-- The fault of a sequence of markers: its event, and a hold. -/
theorem markerFault_spec (b : Nat) (hb : b < 8) (s : Mach) : bit (markerFault b s).rnd.evt b = true ∧ (markerFault b s).rnd.hold = true ∧
    (markerFault b s).rnd.conflict = s.rnd.conflict := by
  have hrecorded : still (roundRecord 0 (rndEvt b s)) = { still s with rnd := { s.rnd with evt := setBit s.rnd.evt b } } := by
    rw [still_roundRecord, still_rndEvt]
  have hr := rnd_eq hrecorded
  unfold markerFault
  revert hr
  generalize roundRecord 0 (rndEvt b s) = u
  intro hr
  have hevt : bit u.rnd.evt b = true := by
    rw [hr]
    exact bit_setBit_same _ hb
  have hconflict : u.rnd.conflict = s.rnd.conflict := by rw [hr]
  cases hhold : u.rnd.hold with
  | true =>
    rw [enterHold_of_hold hhold]
    exact ⟨hevt, hhold, hconflict⟩
  | false =>
    obtain ⟨_, _, _, _, _, _, h⟩ := enterHold_held hhold
    rw [rnd_eq h]
    exact ⟨bit_setBit_mono hevt, rfl, hconflict⟩

theorem lateCopy_spec {p : Nat} {m : BitVec 192} {s : Mach} (hhold : mkHold m = false) :
    (lateCopy p m s).rnd.owed = s.rnd.owed.filter (· != mkRound m) ∧ (lateCopy p m s).rnd.cur = s.rnd.cur.map (marked m) ∧
      (lateCopy p m s).rnd.sched = s.rnd.sched.map (marked m) ∧ (lateCopy p m s).rnd.withheld = s.rnd.withheld.map (marked m) ∧
      (lateCopy p m s).rnd.missed = 0 ∧ (lateCopy p m s).rnd.evt = s.rnd.evt := by
  unfold lateCopy
  dsimp only
  rw [hhold, if_neg (by decide)]
  obtain ⟨ps, f, h⟩ := forwardMarker_frame p m (leadLeft s p m) (modRnd (fun r => { r with
    owed := r.owed.filter (· != mkRound m), cur := r.cur.map (marked m), sched := r.sched.map (marked m)
    withheld := r.withheld.map (marked m)
    active := match r.cur with | some x => (marked m x).period | none => r.active }) (noteCopy p m s))
  exact (congrArg Mach.rnd h) ▸ ⟨rfl, rfl, rfl, rfl, rfl, rfl⟩

/-! ### The master's markers (R52, R55, R69, R607) -/

/-- PERIOD as the master sends it. -/
def sentPeriod (r : Rnd) : BitVec 16 := if r.period.toNat < 16 then 16 else r.period

theorem sentPeriod_toNat (r : Rnd) : (sentPeriod r).toNat = masterPeriod r := by
  unfold sentPeriod masterPeriod
  split
  · next h => exact (max_eq_left (Nat.le_of_lt h)).symm
  · exact (max_eq_right (by omega)).symm

theorem ofNat_masterPeriod (r : Rnd) : BitVec.ofNat 16 (masterPeriod r) = sentPeriod r := by
  rw [← sentPeriod_toNat, BitVec.ofNat_toNat, BitVec.setWidth_eq]

/-- The marker that the master sends next. -/
def nextMarker (s : Mach) (n : NextMark) (hold : Bool) : BitVec 192 :=
  marker n.aligned hold 0 n.num (sentPeriod s.rnd) (markStretch s.rnd n) s.ctl.id (BitVec.ofNat 32 n.lead)

/-- The marker has left on every marker port. -/
def markersSent (s : Mach) (m : BitVec 192) (u : Mach) : Mach :=
  ((List.range 64).filter (markerPort s)).foldl (fun u q => sendUrgent q (.marker m) u) u

theorem markersSent_frame (s : Mach) (m : BitVec 192) (u : Mach) : ∃ ps, markersSent s m u = { u with ports := ps } :=
  foldl_sends (g := fun _ => .marker m) (fun _ _ _ => rfl) _ u

theorem markersSent_port {s : Mach} {r : Fin 64} (h : markerPort s r.val = true) (m : BitVec 192) (u : Mach) :
    (portAt (markersSent s m u) r.val).urgent = (portAt u r.val).urgent ++ [.marker m] :=
  portAt_foldl_sent (g := fun _ => .marker m) (fun _ _ _ => rfl) _ u (List.nodup_range.filter _)
    (List.mem_filter.2 ⟨List.mem_range.2 r.isLt, h⟩)

/-- The module with its marker sent. -/
def emitted (s : Mach) (n : NextMark) (hold : Bool) : Mach :=
  modRnd (fun r => { r with lastAcc := some (n.num, s.ctl.id), gathered := 0 })
    (markersSent s (nextMarker s n hold) (notBefore (n.start - nsCycles n.lead) s))

/-- The round of a marker that was sent. -/
def sentRound (s : Mach) (n : NextMark) : Round :=
  { num := n.num, period := sentPeriod s.rnd, stretch := markStretch s.rnd n, start := n.start, aligned := n.aligned, instep := true }

/-- The marker after it. -/
def markAfter (r : Rnd) (s : Mach) (n : NextMark) : NextMark :=
  { num := n.num + 1, start := n.start + ((sentPeriod s.rnd).toNat + (markStretch s.rnd n).toNat) * 1100
    lead := leadEff r (sentPeriod s.rnd).toNat, aligned := r.aligned, first := false }

section
variable {s : Mach} {n : NextMark} (hmasters : Masters s) (hnext : s.rnd.nextEmit = some n)
include hmasters hnext

theorem markerEmit_scheduled (hcmds : s.keep.holdCmds = []) :
    markerEmit s = modRnd (fun r => { r with sched := r.sched ++ [sentRound s (settleMark s n)]
                                             nextEmit := some (markAfter r s (settleMark s n)) }) (emitted s (settleMark s n) false) := by
  obtain ⟨hmaster, hen, hhold, hconflict⟩ := hmasters
  unfold markerEmit
  rw [hnext]
  dsimp only
  rw [hmaster, hen, hhold, hconflict, hcmds, ofNat_masterPeriod]
  rfl

theorem markerEmit_holds (hcmds : s.keep.holdCmds ≠ []) :
    markerEmit s = enterHold (s.keep.holdCmds.foldl (fun u o => complete o 0x00 (settleMark s n).num.toNat u)
      (modKeep (fun k => { k with holdCmds := [] }) (emitted s (settleMark s n) true))) := by
  obtain ⟨hmaster, hen, hhold, hconflict⟩ := hmasters
  have hsome : s.keep.holdCmds.isEmpty = false := by
    cases h : s.keep.holdCmds with
    | nil => exact absurd h hcmds
    | cons o t => rfl
  unfold markerEmit
  rw [hnext]
  dsimp only
  rw [hmaster, hen, hhold, hconflict, hsome, ofNat_masterPeriod]
  rfl

end

/-- What a marker leaves that the master sends. -/
theorem emitted_scheduled (s : Mach) (n : NextMark) :
    let u := notBefore (n.start - nsCycles n.lead) s
    let t := modRnd (fun r => { r with sched := r.sched ++ [sentRound s n], nextEmit := some (markAfter r s n) }) (emitted s n false)
    t.rnd.lastAcc = some (n.num, s.ctl.id) ∧ t.rnd.gathered = 0 ∧ t.now = u.now ∧ t.rnd.sched = u.rnd.sched ++ [sentRound s n] ∧
      (∃ r, t.rnd.nextEmit = some (markAfter r s n)) ∧ ∀ r : Fin 64, markerPort s r.val = true →
        (portAt t r.val).urgent = (portAt u r.val).urgent ++ [.marker (nextMarker s n false)] := by
  unfold emitted
  dsimp only
  generalize notBefore (n.start - nsCycles n.lead) s = u
  have hports := fun (r : Fin 64) (hr : markerPort s r.val = true) => markersSent_port hr (nextMarker s n false) u
  obtain ⟨ps, h⟩ := markersSent_frame s (nextMarker s n false) u
  rw [h] at hports ⊢
  exact ⟨rfl, rfl, rfl, rfl, ⟨_, rfl⟩, hports⟩

/-- A hold that ends the commands that wait for it. -/
theorem emitted_holds {s : Mach} (hhold : s.rnd.hold = false) (n : NextMark) (cmds : List Owed) (num : Nat) :
    let t := enterHold (cmds.foldl (fun u o => complete o 0x00 num u) (modKeep (fun k => { k with holdCmds := [] }) (emitted s n true)))
    t.rnd.hold = true ∧ t.keep.holdCmds = [] ∧ t.rnd.nextEmit = none := by
  have hplan := (notBefore_counted (n.start - nsCycles n.lead) s).planned
  unfold emitted
  dsimp only
  revert hplan
  generalize notBefore (n.start - nsCycles n.lead) s = u
  intro hplan
  obtain ⟨ps, h⟩ := markersSent_frame s (nextMarker s n true) u
  rw [h]
  have hdone := foldl_signals (f := fun u o => complete o 0x00 num u) (fun u o => complete_signals o _ _ u) cmds
    (modKeep (fun k => { k with holdCmds := [] }) (modRnd (fun r => { r with lastAcc := some (n.num, s.ctl.id), gathered := 0 })
      { u with ports := ps }))
  revert hdone
  generalize List.foldl _ _ _ = v
  intro hdone
  have hhold' : v.rnd.hold = false := by
    rw [hdone.rnd]
    exact (congrArg Plan.hold hplan).trans hhold
  obtain ⟨_, _, _, _, _, _, hheld⟩ := enterHold_held hhold'
  refine ⟨enterHold_hold v, ?_, ?_⟩
  · rw [enterHold_keep hhold']
  · rw [rnd_eq hheld]
    rfl

/-! ### Markers that do not come (R57, R59) -/

theorem missedMarker_holds {s : Mach} {x : Round} (hmaster : s.rnd.master = false) (hen : s.rnd.en = true) (hhold : s.rnd.hold = false)
    (hsched : s.rnd.sched = []) (hlatest : latestRound s.rnd = some x) (hmissed : 2 ≤ s.rnd.missed.toNat) :
    (missedMarker s).rnd.hold = true ∧ (missedMarker s).rnd.missed = s.rnd.missed + 1 := by
  have hmiss : ∃ t, missedMarker s = enterHold (modRnd (fun r => { r with missed := r.missed + 1 }) (ended_ t s)) := by
    unfold missedMarker
    rw [hlatest]
    dsimp only
    rw [hmaster, hen, hhold, hsched, if_neg (by decide), if_neg (by omega)]
    exact ⟨_, rfl⟩
  obtain ⟨t, ht⟩ := hmiss
  rw [ht]
  have hplan := ended_planned t s
  revert hplan
  generalize ended_ t s = u
  intro hplan
  refine ⟨enterHold_hold _, ?_⟩
  obtain ⟨_, _, _, _, _, _, hheld⟩ := enterHold_held (s := modRnd (fun r => { r with missed := r.missed + 1 }) u)
    ((congrArg Plan.hold hplan).trans hhold)
  rw [rnd_eq hheld]
  exact congrArg (fun p => p.missed + 1) hplan

/-- The module as a deadline passes without a marker. -/
def markMissed (x : Round) (s : Mach) : Mach :=
  modRnd (fun r => { r with missed := r.missed + 1, owed := r.owed ++ [x.num + 1]
                            lastAcc := r.lastAcc.map (fun a => (x.num + 1, a.2)) }) s

theorem missedMarker_starts {s : Mach} {x : Round} (hmaster : s.rnd.master = false) (hen : s.rnd.en = true) (hhold : s.rnd.hold = false)
    (hsched : s.rnd.sched = []) (hwithheld : s.rnd.withheld = []) (hcur : s.rnd.cur = some x) (haligned : x.aligned = true)
    (hmissed : s.rnd.missed.toNat < 2) (hready : Ready (ended_ (unmarked x).start s)) :
    missedMarker s = beginRound (unmarked x) none (markMissed x (ended_ (unmarked x).start s)) := by
  have hlatest : latestRound s.rnd = some x := by
    unfold latestRound
    rw [hwithheld]
    exact hcur
  obtain ⟨hw, hlate, hnext, -⟩ := hready
  have hmiss : missedMarker s =
      if (ended_ (unmarked x).start s).keep.holdNext then enterHold (markMissed x (ended_ (unmarked x).start s))
      else dueRound (unmarked x) (markMissed x (ended_ (unmarked x).start s)) := by
    unfold missedMarker
    rw [hlatest]
    dsimp only
    rw [hmaster, hen, hhold, hsched, if_neg (by decide), if_pos hmissed, if_pos haligned, Nat.add_zero]
    unfold ended_ markMissed unmarked
    dsimp only
    generalize stopHandlers _ = u
    rfl
  rw [hmiss, if_neg (by rw [hnext]; decide)]
  revert hw hlate
  generalize ended_ (unmarked x).start s = u
  exact fun hw hlate => dueRound_begins (s := markMissed x u) (unmarked x) hw hlate

theorem missedMarker_began {s : Mach} {x : Round} (hmaster : s.rnd.master = false) (hen : s.rnd.en = true) (hhold : s.rnd.hold = false)
    (hsched : s.rnd.sched = []) (hwithheld : s.rnd.withheld = []) (hcur : s.rnd.cur = some x) (haligned : x.aligned = true)
    (hmissed : s.rnd.missed.toNat < 2) (hready : Ready (ended_ (unmarked x).start s))
    (hopens : OpensRound (markMissed x (ended_ (unmarked x).start s))) :
    (missedMarker s).rnd.missed = s.rnd.missed + 1 ∧ (missedMarker s).rnd.owed = s.rnd.owed ++ [x.num + 1] ∧
      (missedMarker s).rnd.cur = some (unmarked x) ∧ (missedMarker s).rnd.instep = false := by
  rw [missedMarker_starts hmaster hen hhold hsched hwithheld hcur haligned hmissed hready]
  obtain ⟨-, -, -, hsets⟩ := hready
  have hplan := ended_planned (unmarked x).start s
  revert hopens hsets hplan
  generalize ended_ (unmarked x).start s = u
  intro hopens hsets hplan
  obtain ⟨⟨hp, -, hinstep, -, -, -⟩, -⟩ := beginRound_began (unmarked x) none hopens hsets
  refine ⟨(congrArg Plan.missed hp).trans ?_, (congrArg Plan.owed hp).trans ?_, congrArg Plan.cur hp, hinstep⟩
  · exact congrArg (fun p => p.missed + 1) hplan
  · exact congrArg (fun p => p.owed ++ [x.num + 1]) hplan

/-! ### Stretch requests and the enable (R66 to R69, R75, R87) -/

theorem stretchRequest_gathered {s : Mach} {m : BitVec 128} {n : NextMark} (hhold : s.rnd.hold = false) (hmaster : s.rnd.master = true)
    (hnext : s.rnd.nextEmit = some n) (hcause : (fld m 8 2 : BitVec 2) = 0) :
    stretchRequest none m s = { s with rnd := { s.rnd with
      gathered := if s.rnd.gathered.toNat < (fld m 80 16 : BitVec 16).toNat then fld m 80 16 else s.rnd.gathered } } := by
  unfold stretchRequest
  rw [hhold, hmaster]
  unfold takeStretch
  rw [hnext]
  dsimp only
  rw [if_pos hcause]
  rfl

theorem stretchRequest_passed {s : Mach} {p : Nat} {m : BitVec 128} (hhold : s.rnd.hold = false) (hmaster : s.rnd.master = false)
    (hport : markerPort s p = true) (hlast : s.rnd.lastAcc ≠ none) (hup : markerPort s s.rnd.upport.toNat = true) :
    stretchRequest (some p) m s = modPort s.rnd.upport.toNat (fun x => { x with
      urgent := x.urgent ++ [.stretch (setByte m 2 (fld m 16 8 + 1))] }) s := by
  unfold stretchRequest
  dsimp only
  refine (if_neg (by rw [hhold, hport]; decide)).trans ((if_neg (by rw [hmaster]; decide)).trans ?_)
  unfold sendUpstream
  rw [hup, Option.isSome_iff_ne_none.2 hlast]
  rfl

theorem bit_or_one_zero (v : Word) : bit (v ||| 1) 0 = true := by
  unfold bit
  rw [BitVec.getLsbD_or]
  exact Bool.or_true _

theorem bit_or_one_succ (v : Word) (i : Nat) : bit (v ||| 1) (i + 1) = bit v (i + 1) := by
  have hone : ((1 : Word)).getLsbD (i + 1) = false := by simp
  unfold bit
  rw [BitVec.getLsbD_or, hone, Bool.or_false]

theorem rndCtrl_enabled {s : Mach} (hen : s.rnd.en = false) (v : Word) : rndCtrl (v ||| 1) s = { s with rnd := { s.rnd with
    aligned := bit v 2, master := bit v 1, en := true, lastAcc := none, owed := [], missed := 0, gathered := 0, conflict := false
    nextEmit := if bit v 1 && !s.rnd.hold then some (firstMark s.rnd.numReg) else none } } := by
  unfold rndCtrl
  dsimp only
  rw [bit_or_one_zero, bit_or_one_succ v 0, bit_or_one_succ v 1, hen]
  rfl

/-! ### The markers of each case -/

/-- The fields of the copy of a marker. -/
theorem markCopy_fields (m : BitVec 192) (rem : Int) : mkRound (markCopy m rem) = mkRound m ∧ mkMaster (markCopy m rem) = mkMaster m ∧
    mkHops (markCopy m rem) = mkHops m + 1 ∧ mkPeriod (markCopy m rem) = mkPeriod m ∧ mkStretch (markCopy m rem) = mkStretch m :=
  ⟨mkRound_marker .., mkMaster_marker .., mkHops_marker .., mkPeriod_marker .., mkStretch_marker ..⟩

theorem nextMarker_fields (s : Mach) (n : NextMark) : mkRound (nextMarker s n false) = n.num ∧
    mkMaster (nextMarker s n false) = s.ctl.id ∧ mkHops (nextMarker s n false) = 0 ∧
    mkPeriod (nextMarker s n false) = sentPeriod s.rnd ∧ mkStretch (nextMarker s n false) = markStretch s.rnd n ∧
    mkAligned (nextMarker s n false) = n.aligned ∧ mkLead (nextMarker s n false) = BitVec.ofNat 32 n.lead ∧
    mkHold (nextMarker s n false) = false :=
  ⟨mkRound_marker .., mkMaster_marker .., mkHops_marker .., mkPeriod_marker .., mkStretch_marker .., mkAligned_marker ..,
    mkLead_marker .., mkHold_marker ..⟩

/-- The lead, the start and the mode of the marker that leaves next. -/
def sentLead (s : Mach) (n : NextMark) : Nat :=
  if n.first then (if s.rnd.aligned then min s.rnd.leadNs.toNat ((sentPeriod s.rnd).toNat * 500) else 0) else n.lead
def sentStart (s : Mach) (n : NextMark) : Nat := if n.first then s.now + nsCycles (sentLead s n) else n.start
def sentAligned (s : Mach) (n : NextMark) : Bool := if n.first then s.rnd.aligned else n.aligned

theorem settleMark_eq (s : Mach) (n : NextMark) : settleMark s n =
    { num := n.num, start := sentStart s n, lead := sentLead s n, aligned := sentAligned s n, first := n.first } := by
  unfold sentStart sentLead sentAligned settleMark
  rw [sentPeriod_toNat]
  cases hf : n.first with
  | true => rfl
  | false =>
    rw [if_neg (by decide)]
    cases n
    subst hf
    rfl

/-- Settles O52: a marker is accepted, copied, settled or faulted by the cases of a module that follows, and a master's marker, a
missed one and a stretch request have one equation each. -/
theorem markersMoveTheRounds : Obligations.MarkersMoveTheRounds := by
  unfold Obligations.MarkersMoveTheRounds
  refine ⟨?_, ?_, ?_, ?_, ?_, ?_, ?_, ?_, ?_, ?_, ?_, ?_, ?_, ?_⟩
  · rintro s p m last hport ⟨hen, hhold, hmaster, hlast, howed⟩ hround hfwd hmhold hhops hlead
    obtain ⟨hacc, hsched, hmissed, hmhops, hup, hevt, hother, hown⟩ := acceptMarker_spec (s := s.m) hmhold hhops hlead
    have haccepts : roundMarker p.val m s.m = acceptMarker p.val m s.m := by
      rw [roundMarker_followed hport hen hhold hmaster hlast, if_neg (not_not.2 rfl), howed, if_neg (by simp),
        if_neg (by rw [hround]; exact not_or.2 ⟨succ_ne_self last, hround ▸ hfwd⟩), if_pos hround]
    rw [← haccepts] at hacc hsched hmissed hmhops hup hevt hother hown
    have hcopies : ∀ r : Fin 64, r ≠ p → markerPort s.m r.val = true → ∃ c, (portAt (roundMarker p.val m s.m) r.val).urgent =
        (portAt s.m r.val).urgent ++ [Msg.relay c s.m.now] ∧ (mkRound c = mkRound m ∧ mkMaster c = mkMaster m ∧
          mkHops c = mkHops m + 1 ∧ mkPeriod c = mkPeriod m ∧ mkStretch c = mkStretch m) := fun r hr hrp =>
      ⟨_, hother r (fun h => hr (Fin.ext h)) hrp, markCopy_fields m _⟩
    exact run_notes (P := fun t => t.rnd.lastAcc = some (mkRound m, mkMaster m) ∧
      t.rnd.sched = s.m.rnd.sched ++ [roundOf s.m p.val m] ∧ t.rnd.missed = 0 ∧ t.rnd.hops = mkHops m ∧
      t.rnd.upport = BitVec.ofNat 6 p.val ∧ t.rnd.evt = s.m.rnd.evt ∧
      (∀ r : Fin 64, r ≠ p → markerPort s.m r.val = true → ∃ c, (portAt t r.val).urgent = (portAt s.m r.val).urgent ++ [Msg.relay c s.m.now] ∧
        (mkRound c = mkRound m ∧ mkMaster c = mkMaster m ∧ mkHops c = mkHops m + 1 ∧ mkPeriod c = mkPeriod m ∧ mkStretch c = mkStretch m)) ∧
      (portAt t p.val).urgent = (portAt s.m p.val).urgent)
      fun _ => ⟨hacc, hsched, hmissed, hmhops, hup, hevt, hcopies, hown⟩
  · intro s p m hen hhold hmaster hlast howed
    refine run_unchanged ?_
    cases hport : markerPort s.m p.val with
    | false => exact roundMarker_elsewhere hport
    | true =>
      rw [roundMarker_followed hport hen hhold hmaster hlast, if_neg (not_not.2 rfl), if_neg (by simpa using howed), if_pos (Or.inl rfl)]
  · intro s p m last hport hen hhold hmaster hlast howed hmhold
    have hlate : roundMarker p.val m s.m = lateCopy p.val m s.m := by
      rw [roundMarker_followed hport hen hhold hmaster hlast, if_neg (not_not.2 rfl), if_pos (by simpa using howed)]
    have hcopy := lateCopy_spec (p := p.val) (s := s.m) hmhold
    rw [← hlate] at hcopy
    exact run_notes (P := fun t => t.rnd.owed = s.m.rnd.owed.filter (· != mkRound m) ∧ t.rnd.cur = s.m.rnd.cur.map (marked m) ∧
      t.rnd.sched = s.m.rnd.sched.map (marked m) ∧ t.rnd.withheld = s.m.rnd.withheld.map (marked m) ∧ t.rnd.missed = 0 ∧
      t.rnd.evt = s.m.rnd.evt) fun _ => hcopy
  · rintro s p m last hport ⟨hen, hhold, hmaster, hlast, howed⟩ hne hnext hfwd
    have hfault : roundMarker p.val m s.m = markerFault 6 s.m := by
      rw [roundMarker_followed hport hen hhold hmaster hlast, if_neg (not_not.2 rfl), howed, if_neg (by simp),
        if_neg (not_or.2 ⟨hne, hfwd⟩), if_neg hnext]
    obtain ⟨hevt, hheld, -⟩ := markerFault_spec 6 (by decide) s.m
    rw [← hfault] at hevt hheld
    exact run_notes (P := fun t => bit t.rnd.evt 6 = true ∧ t.rnd.hold = true) fun _ => ⟨hevt, hheld⟩
  · intro s p m hport hmaster
    have hfault := roundMarker_conflict (m := m) hport hmaster
    obtain ⟨hevt, hheld, hconflict⟩ := markerFault_spec 7 (by decide) (modRnd (fun r => { r with conflict := true }) s.m)
    rw [← hfault] at hevt hheld hconflict
    exact run_notes (P := fun t => bit t.rnd.evt 7 = true ∧ t.rnd.hold = true ∧ t.rnd.conflict = true)
      fun _ => ⟨hevt, hheld, hconflict⟩
  · exact fun s p m hport => run_unchanged (roundMarker_elsewhere hport)
  · intro s n hmasters hnext hcmds period stretch lead start aligned m0
    have hemit := markerEmit_scheduled hmasters hnext hcmds
    have hsent := emitted_scheduled s.m (settleMark s.m n)
    dsimp only at hsent
    rw [← hemit, settleMark_eq] at hsent
    dsimp only at hsent
    obtain ⟨hacc, hgathered, hnow, hsched, ⟨r, hafter⟩, hports⟩ := hsent
    exact run_notes (P := fun t => t.rnd.lastAcc = some (n.num, s.m.ctl.id) ∧ t.rnd.gathered = 0 ∧ t.now = m0.now ∧
      t.rnd.sched = m0.rnd.sched ++
        [{ num := n.num, period := period, stretch := stretch, start := start, aligned := aligned, instep := true }] ∧
      (t.rnd.nextEmit.map (fun x => (x.num, x.start, x.first))) =
        some (n.num + 1, start + (period.toNat + stretch.toNat) * 1100, false) ∧
      ∀ r : Fin 64, markerPort s.m r.val = true → ∃ c, (portAt t r.val).urgent = (portAt m0 r.val).urgent ++ [Msg.marker c] ∧
        (mkRound c = n.num ∧ mkMaster c = s.m.ctl.id ∧ mkHops c = 0 ∧ mkPeriod c = period ∧ mkStretch c = stretch ∧
          mkAligned c = aligned ∧ mkLead c = BitVec.ofNat 32 lead ∧ mkHold c = false))
      fun _ => ⟨hacc, hgathered, hnow, hsched, by rw [hafter]; rfl, fun r hr => ⟨_, hports r hr, nextMarker_fields s.m _⟩⟩
  · intro s n hmasters hnext hcmds
    have hholds := emitted_holds hmasters.2.2.1 (settleMark s.m n) s.m.keep.holdCmds (settleMark s.m n).num.toNat
    dsimp only at hholds
    rw [← markerEmit_holds hmasters hnext hcmds] at hholds
    exact run_notes (P := fun t => t.rnd.hold = true ∧ t.keep.holdCmds = [] ∧ t.rnd.nextEmit = none) fun _ => hholds
  · intro s x hmaster hen hhold hsched hlatest hmissed
    have hheld := missedMarker_holds hmaster hen hhold hsched hlatest hmissed
    exact run_notes (P := fun t => t.rnd.hold = true ∧ t.rnd.missed = s.m.rnd.missed + 1) fun _ => hheld
  · intro s x hmaster hen hhold hsched hwithheld hcur haligned hmissed m0 m1 hready hopens
    have hbegan := missedMarker_began hmaster hen hhold hsched hwithheld hcur haligned hmissed hready hopens
    exact run_notes (P := fun t => t.rnd.missed = s.m.rnd.missed + 1 ∧ t.rnd.owed = s.m.rnd.owed ++ [x.num + 1] ∧
      t.rnd.cur = some (unmarked x) ∧ t.rnd.instep = false) fun _ => hbegan
  · intro s m n hhold hmaster hnext hcause
    show run (stretchRequest none m) s = _
    exact run_eq_after (stretchRequest_gathered hhold hmaster hnext hcause)
  · intro s p m hhold hmaster hport hlast hup
    show run (stretchRequest (some p.val) m) s = _
    exact run_eq_after (stretchRequest_passed hhold hmaster hport hlast hup)
  · exact fun s v hserved hen => runAccess_eq hserved (rndCtrl_enabled hen v)
  · exact fun s v hserved => runAccess_eq hserved rfl

end Sys2Proof.Spec
end


section
/-! PROOFS. The state after reset (R582). -/

namespace Sys2Proof.Spec

open Sys2Proof.Machine

theorem resetTable_read : ∀ e ∈ resetTable, regRead State.reset.m e.1 = e.2 := by decide

theorem weftStat_reset : ∀ r : Fin 4, regRead State.reset.m (0x2040 + 4 * r.val) = 0x00FF0000 := by decide

theorem ringRegs_reset : ∀ q : Fin 16, regRead State.reset.m (0x10108 + 0x40 * q.val) = 0x10000004 ∧
    regRead State.reset.m (0x10118 + 0x40 * q.val) = 0x00040000 := by decide

theorem stackRegs_reset : ∀ st : Fin 32, regRead State.reset.m (0x100120 + 0x40 * st.val) = 0x3F := by decide

theorem portRegs_reset : ∀ p : Fin 64, regRead State.reset.m (0x108100 + 0x40 * p.val) =
    if (14 ≤ p.val ∧ p.val ≤ 29) ∨ (46 ≤ p.val ∧ p.val ≤ 61) then 0xC else 0xD := by decide
theorem dieRegs_reset : ∀ d : Fin 144, regRead State.reset.m (0x405000 + 0x10000 * d.val) = 1 ∧
    regRead State.reset.m (0x407000 + 0x10000 * d.val) = 0x04000001 := by
  intro d
  have hread : ∀ o, o < 0x10000 → regRead State.reset.m (winAddr d.val o) = dieRead State.reset.m d.val o := by
    intro o ho
    unfold regRead
    rw [placeOf_winAddr d.isLt ho]
  have h5 : 0x405000 + 0x10000 * d.val = winAddr d.val 0x5000 := by unfold winAddr; omega
  have h7 : 0x407000 + 0x10000 * d.val = winAddr d.val 0x7000 := by unfold winAddr; omega
  rw [h5, h7, hread _ (by decide), hread _ (by decide)]
  constructor
  · show trkRead Die.reset 0 = 1
    decide
  · show Die.reset.prot.gap ++ z 15 ++ b1 Die.reset.prot.scrub = 0x04000001
    decide

/-- Settles O56: the registers of the tables are read off the reset state, those of a die through its window. -/
theorem resetHoldsTheTablesValues : Obligations.ResetHoldsTheTablesValues := by
  unfold Obligations.ResetHoldsTheTablesValues
  exact ⟨rfl, rfl, fun _ hc => absurd hc List.not_mem_nil, ⟨rfl, rfl⟩, rfl, rfl, rfl, rfl, rfl, rfl, rfl, resetTable_read,
    weftStat_reset, ringRegs_reset, stackRegs_reset, portRegs_reset, dieRegs_reset⟩

end Sys2Proof.Spec
end

section
/-! PROOFS. The memories that the operations of the cores and of their stream engines leave as they are. -/

namespace Sys2Proof.Spec

open Sys2Proof.Machine

/-! ### The memories of an updated module

One equation for each operation of the model that writes neither edge memory nor queue memory; `simp` carries them through
the operations that are composed of such. -/

@[simp] theorem mems_fold (s : Mach) : (s.edge.mem, s.host.qmem) = (still s).mems := rfl

@[simp] theorem mems_mk (a b c d e f g h i j k l m n o p q r s t u v w x y z a' b') :
    (still (Mach.mk a b c d e f g h i j k l m n o p q r s t u v w x y z a' b')).mems = (l.mem, b'.qmem) := rfl

@[simp] theorem mems_ite {p : Prop} [Decidable p] {s t u : Mach} (ht : (still t).mems = (still s).mems)
    (hu : (still u).mems = (still s).mems) : (still (if p then t else u)).mems = (still s).mems := by
  split
  · exact ht
  · exact hu

/-! ### The operations of Machine/Ops -/

@[simp] theorem mems_modCal (f : Calendar → Calendar) (s : Mach) : (still (modCal f s)).mems = (still s).mems := by rfl

@[simp] theorem mems_modWeft (f : Weft → Weft) (s : Mach) : (still (modWeft f s)).mems = (still s).mems := by rfl

@[simp] theorem mems_modCradle (f : Cradle → Cradle) (s : Mach) : (still (modCradle f s)).mems = (still s).mems := by rfl

/-! ### The operations of Machine/CoreOps -/

@[simp] theorem mems_signalDone (k : Nat) (s : Mach) : (still (signalDone k s)).mems = (still s).mems := by rfl

@[simp] theorem mems_classS (k cause addr pc : Nat) (s : Mach) : (still (classS k cause addr pc s)).mems = (still s).mems := by
  unfold classS
  dsimp only
  repeat' split
  all_goals simp

@[simp] theorem mems_whenActive {f : Mach → Mach} {s : Mach} (hf : (still (f s)).mems = (still s).mems) :
    (still (whenActive f s)).mems = (still s).mems := mems_ite rfl hf

/-! ### The operations of Machine/Access -/

@[simp] theorem mems_modWeftRing (r : Nat) (f : WeftRing → WeftRing) (s : Mach) :
    (still (modWeftRing r f s)).mems = (still s).mems := by rfl

@[simp] theorem mems_weftRecord (r d kind : Nat) (s : Mach) : (still (weftRecord r d kind s)).mems = (still s).mems := by rfl

@[simp] theorem mems_weftTimeout (d : Nat) (s : Mach) : (still (weftTimeout d s)).mems = (still s).mems := by rfl

@[simp] theorem mems_hostAccess {a : Nat} {f : Mach → Mach} {s : Mach} (hf : (still (f s)).mems = (still s).mems) :
    (still (hostAccess a f s)).mems = (still s).mems := by
  unfold hostAccess
  split
  · rfl
  · split
    · exact mems_ite hf (mems_weftTimeout _ s)
    · exact hf

@[simp] theorem mems_latchFrom (a : Nat) (old s : Mach) : (still (latchFrom a old s)).mems = (still s).mems := by
  unfold latchFrom
  repeat' split
  all_goals simp

/-! ### The operations of Machine/Rim -/

@[simp] theorem mems_rimSend (unit die : Nat) (side : Side) (link phase : Nat) (f : NetFlit) (s : Mach) :
    (still (rimSend unit die side link phase f s)).mems = (still s).mems := by
  unfold rimSend
  repeat' split
  all_goals simp

/-! ### The operations of Machine/Tokens -/

@[simp] theorem mems_tokenGranted (t : Nat) (s : Mach) : (still (tokenGranted t s)).mems = (still s).mems := by
  unfold tokenGranted
  dsimp only
  repeat' split
  all_goals simp

@[simp] theorem mems_mntSel (v : Word) (s : Mach) : (still (mntSel v s)).mems = (still s).mems := by rfl

@[simp] theorem mems_activityRecord (a : Activity) (s : Mach) : (still (activityRecord a s)).mems = (still s).mems := by rfl

@[simp] theorem mems_abandonActivities (l : List Activity) (s : Mach) :
    (still (abandonActivities l s)).mems = (still s).mems := by
  simp [abandonActivities]

@[simp] theorem mems_endActivities (hit : Nat → Bool) (s : Mach) : (still (endActivities hit s)).mems = (still s).mems := by
  simp [endActivities]

/-! ### The operations of Machine/EdgeOps -/

@[simp] theorem mems_abandonRetrain (st : Nat) (s : Mach) : (still (abandonRetrain st s)).mems = (still s).mems := by
  unfold abandonRetrain
  dsimp only
  repeat' split
  all_goals simp

@[simp] theorem mems_countArrivals (cw : Nat) (s : Mach) : (still (countArrivals cw s)).mems = (still s).mems := by
  unfold countArrivals
  dsimp only
  repeat' split
  all_goals simp

@[simp] theorem mems_dropEdgeWb (cw : Nat) (s : Mach) : (still (dropEdgeWb cw s)).mems = (still s).mems := by
  unfold dropEdgeWb
  dsimp only
  repeat' split
  all_goals simp

@[simp] theorem mems_useSpan (cls ea n : Nat) (s : Mach) : (still (useSpan cls ea n s)).mems = (still s).mems := by
  simp [useSpan]

/-! ### The operations of Machine/Edge -/

@[simp] theorem mems_countReject (st status ea : Nat) (s : Mach) :
    (still (countReject st status ea s)).mems = (still s).mems := by rfl

@[simp] theorem mems_pushReject (st key : Nat) (rows : List AnsRow) (s : Mach) :
    (still (pushReject st key rows s)).mems = (still s).mems := by rfl

@[simp] theorem mems_pushReply (st key : Nat) (row : AnsRow) (s : Mach) :
    (still (pushReply st key row s)).mems = (still s).mems := by rfl

@[simp] theorem mems_readRuns (src : Nat) : ∀ (rs : List (Nat × Nat))
    (s : Mach), (still (readRuns src rs s).2).mems = (still s).mems
  | [], _ => rfl
  | r :: t, s => (mems_readRuns src t (readEdge src r.1 r.2 s).2).trans (congrArg Still.mems (still_readEdge ..))

@[simp] theorem mems_edgeRead (st link phase : Nat) (f : Row) (s : Mach) :
    (still (edgeRead st link phase f s)).mems = (still s).mems := by
  unfold edgeRead
  dsimp only
  repeat' split
  all_goals simp

@[simp] theorem mems_edgeWrite (st link phase : Nat) (f : Row) (s : Mach) :
    (still (edgeWrite st link phase f s)).mems = (still s).mems := by
  unfold edgeWrite
  dsimp only
  repeat' split
  all_goals simp

@[simp] theorem mems_transposedRead (st link phase : Nat) (f : Row) (s : Mach) :
    (still (transposedRead st link phase f s)).mems = (still s).mems := by
  unfold transposedRead
  dsimp only
  repeat' split
  all_goals simp

@[simp] theorem mems_leaveBuffer (st link phase : Nat) (r : AnsRow) (rest : List AnsRow) (s : Mach) :
    (still (leaveBuffer st link phase r rest s)).mems = (still s).mems := by
  simp [leaveBuffer]

@[simp] theorem mems_answerSend (st link phase : Nat) (s : Mach) :
    (still (answerSend st link phase s)).mems = (still s).mems := by
  unfold answerSend
  split <;> simp

@[simp] theorem mems_replySend (st link phase : Nat) (s : Mach) :
    (still (replySend st link phase s)).mems = (still s).mems := by
  unfold replySend
  dsimp only
  repeat' split
  all_goals simp

@[simp] theorem mems_refresh (st : Nat) (s : Mach) : (still (refresh st s)).mems = (still s).mems := by
  unfold refresh
  split <;> simp

@[simp] theorem mems_splitSlot (st : Nat) (s : Mach) : (still (splitSlot st s)).mems = (still s).mems := by rfl

@[simp] theorem mems_emcSplit (v : Word) (s : Mach) : (still (emcSplit v s)).mems = (still s).mems := by
  unfold emcSplit
  dsimp only
  repeat' split
  all_goals simp

@[simp] theorem mems_emcRimph (v : Word) (s : Mach) : (still (emcRimph v s)).mems = (still s).mems := by
  unfold emcRimph
  repeat' split
  all_goals simp

@[simp] theorem mems_setStackTemp (st : Nat) (temp : Byte) (s : Mach) :
    (still (setStackTemp st temp s)).mems = (still s).mems := by rfl

@[simp] theorem mems_sweepEnd (st : Nat) (s : Mach) : (still (sweepEnd st s)).mems = (still s).mems := by
  unfold sweepEnd
  dsimp only
  repeat' split
  all_goals simp

@[simp] theorem mems_pcRetrainStart (st : Nat) (temp : Byte) (s : Mach) :
    (still (pcRetrainStart st temp s)).mems = (still s).mems := by
  unfold pcRetrainStart
  dsimp only
  repeat' split
  all_goals simp

@[simp] theorem mems_pcRetrainDone (st : Nat) (s : Mach) : (still (pcRetrainDone st s)).mems = (still s).mems := by
  unfold pcRetrainDone
  dsimp only
  repeat' split
  all_goals simp

@[simp] theorem mems_pcRetrainRetry (st : Nat) (s : Mach) : (still (pcRetrainRetry st s)).mems = (still s).mems := by
  unfold pcRetrainRetry
  dsimp only
  repeat' split
  all_goals simp

@[simp] theorem mems_edgeScrubRead (st : Nat) (s : Mach) : (still (edgeScrubRead st s)).mems = (still s).mems := by
  unfold edgeScrubRead
  dsimp only
  repeat' split
  all_goals simp

@[simp] theorem mems_markLost (st d : Nat) (s : Mach) : (still (markLost st d s)).mems = (still s).mems := by
  unfold markLost
  dsimp only
  repeat' split
  all_goals simp

@[simp] theorem mems_dieLostMark (st d : Nat) (s : Mach) : (still (dieLostMark st d s)).mems = (still s).mems := by
  unfold dieLostMark
  repeat' split
  all_goals simp

@[simp] theorem mems_emsLogsel (st : Nat) (v : Word) (s : Mach) : (still (emsLogsel st v s)).mems = (still s).mems := by rfl

@[simp] theorem mems_edgeChk {v : Word} {op : Nat → Nat → Mach → Mach} {s : Mach}
    (hop : ∀ cw k s, (still (op cw k s)).mems = (still s).mems) : (still (edgeChk v op s)).mems = (still s).mems := by
  have hrefused : ∀ u, (still (modEdge refuseEdge u)).mems = (still u).mems := fun _ => rfl
  unfold edgeChk
  dsimp only
  repeat' split
  · exact hrefused s
  · rw [still_useUnits, hop]
    rfl
  · rfl
  · rfl

@[simp] theorem mems_edgeRawRead (v : Word) (s : Mach) : (still (edgeRawRead v s)).mems = (still s).mems :=
  mems_edgeChk fun _ _ _ => mems_ite rfl rfl

@[simp] theorem mems_edgeCheckedRead (v : Word) (s : Mach) : (still (edgeCheckedRead v s)).mems = (still s).mems := by
  simp [edgeCheckedRead]

/-! ### The operations of Machine/Matrix -/

@[simp] theorem mems_wloadStart (k : Nat) (s : Mach) : (still (wloadStart k s)).mems = (still s).mems := by
  unfold wloadStart
  dsimp only
  repeat' split
  all_goals simp

@[simp] theorem mems_loadDone (k : Nat) (l : Load) (s : Mach) : (still (loadDone k l s)).mems = (still s).mems := by rfl

@[simp] theorem mems_wloadComplete (k : Nat) (s : Mach) : (still (wloadComplete k s)).mems = (still s).mems := by
  unfold wloadComplete
  repeat' split
  all_goals simp

@[simp] theorem mems_mpassStart (k : Nat) (s : Mach) : (still (mpassStart k s)).mems = (still s).mems := by
  unfold mpassStart
  dsimp only
  repeat' split
  all_goals simp

@[simp] theorem mems_addSkip (k n : Nat) (s : Mach) : (still (addSkip k n s)).mems = (still s).mems := by
  unfold addSkip
  split <;> simp

@[simp] theorem mems_drawFree (n : Nat) (s : Mach) : (still (drawFree n s)).mems = (still s).mems := by rfl

@[simp] theorem mems_mpassComplete (k : Nat) (st : List Strike) (s : Mach) :
    (still (mpassComplete k st s)).mems = (still s).mems := by
  unfold mpassComplete
  dsimp only
  repeat' split
  all_goals simp

@[simp] theorem mems_verdict (k : Nat) (a : Arb) (code : Nat) (evts : BitVec 5) (s : Mach) :
    (still (verdict k a code evts s)).mems = (still s).mems := by
  unfold verdict
  dsimp only
  rw [still_raiseIrq, still_logDie, still_modDie, still_foldl fun _ _ => still_ite (still_noteRaise ..) rfl, still_noteRaise]

@[simp] theorem mems_addArb (n : Nat) (s : Mach) : (still (addArb n s)).mems = (still s).mems := by rfl

@[simp] theorem mems_restartPasses (k : Nat) (ps : List Pass) (s : Mach) :
    (still (restartPasses k ps s)).mems = (still s).mems := by rfl

@[simp] theorem mems_recomputationComplete (k : Nat) (st : List Strike) (katPass : Bool) (s : Mach) :
    (still (recomputationComplete k st katPass s)).mems = (still s).mems := by
  unfold recomputationComplete
  dsimp only
  repeat' split
  all_goals simp

@[simp] theorem mems_aoutStart (k : Nat) (s : Mach) : (still (aoutStart k s)).mems = (still s).mems := by
  unfold aoutStart
  dsimp only
  repeat' split
  all_goals simp

@[simp] theorem mems_aoutComplete (k : Nat) (s : Mach) : (still (aoutComplete k s)).mems = (still s).mems := by
  unfold aoutComplete
  dsimp only
  repeat' split
  all_goals simp

@[simp] theorem mems_aclrStart (k : Nat) (s : Mach) : (still (aclrStart k s)).mems = (still s).mems := by
  unfold aclrStart
  dsimp only
  repeat' split
  all_goals simp

@[simp] theorem mems_aclrComplete (k : Nat) (s : Mach) : (still (aclrComplete k s)).mems = (still s).mems := by
  unfold aclrComplete
  split <;> simp

/-! ### The operations of Machine/Fabric -/

@[simp] theorem mems_outboundBurst (k ch : Nat) (s : Mach) : (still (outboundBurst k ch s)).mems = (still s).mems := by
  unfold outboundBurst
  dsimp only
  repeat' split
  all_goals simp

/-! ### The operations of Machine/Stream -/

@[simp] theorem mems_slistStart (k e : Nat) (s : Mach) : (still (slistStart k e s)).mems = (still s).mems := by
  unfold slistStart
  dsimp only
  repeat' split
  all_goals simp

@[simp] theorem mems_startBlock (k e : Nat) (l : SList) (d : OpDesc) (s : Mach) :
    (still (startBlock k e l d s)).mems = (still s).mems := by rfl

@[simp] theorem mems_blockFetch (k e : Nat) (s : Mach) : (still (blockFetch k e s)).mems = (still s).mems := by
  unfold blockFetch
  dsimp only
  repeat' split
  all_goals simp

@[simp] theorem mems_streamFlit (k e : Nat) (row : Row) (poison rej : Bool) (s : Mach) :
    (still (streamFlit k e row poison rej s)).mems = (still s).mems := by
  unfold streamFlit
  split <;> simp

@[simp] theorem mems_endBlock (k e : Nat) (b : Blk) (s : Mach) : (still (endBlock k e b s)).mems = (still s).mems := by
  unfold endBlock
  split <;> simp

@[simp] theorem mems_blockComplete (k e : Nat) (s : Mach) : (still (blockComplete k e s)).mems = (still s).mems := by
  unfold blockComplete
  dsimp only
  repeat' split
  all_goals simp

@[simp] theorem mems_tcopyStart (k e : Nat) (s : Mach) : (still (tcopyStart k e s)).mems = (still s).mems := by
  unfold tcopyStart
  dsimp only
  repeat' split
  all_goals simp

@[simp] theorem mems_tcopyComplete (k e : Nat) (s : Mach) : (still (tcopyComplete k e s)).mems = (still s).mems := by
  unfold tcopyComplete
  dsimp only
  repeat' split
  all_goals simp

/-! ### The operations of Machine/CmdOps -/

@[simp] theorem mems_startCmd {q : Nat} {d : Desc} {mine : Bool} {named : List (Nat × Nat)}
    {go : Owed → Mach → Mach} {s : Mach}
    (hgo : ∀ o s, (still (go o s)).mems = (still s).mems) : (still (startCmd q d mine named go s)).mems = (still s).mems := by
  unfold startCmd
  dsimp only
  repeat' split
  · rfl
  · rfl
  · rw [still_complete, still_modRing]
  · rw [still_complete, still_modRing]
  · rw [hgo, still_modRing]

@[simp] theorem mems_rndEvt (b : Nat) (s : Mach) : (still (rndEvt b s)).mems = (still s).mems := by
  simp [rndEvt]

@[simp] theorem mems_latchMargin (late : Option Nat) (s : Mach) : (still (latchMargin late s)).mems = (still s).mems := by
  simp [latchMargin]

@[simp] theorem mems_addStretch (n : Nat) (s : Mach) : (still (addStretch n s)).mems = (still s).mems := by
  obtain ⟨_, _, _, _, _, _, h⟩ := addStretch_counted n s
  rw [h]

@[simp] theorem mems_settleStretch (s : Mach) : (still (settleStretch s)).mems = (still s).mems := by
  obtain ⟨_, _, _, _, _, _, h⟩ := settleStretch_counted s
  rw [h]

@[simp] theorem mems_beginStretch (s : Mach) : (still (beginStretch s)).mems = (still s).mems := by
  unfold beginStretch
  split <;> simp

@[simp] theorem mems_endCounts (late : Option Nat) (s : Mach) : (still (endCounts late s)).mems = (still s).mems := by
  simp [endCounts]

@[simp] theorem mems_roundEnds (s : Mach) : (still (roundEnds s)).mems = (still s).mems := by
  unfold roundEnds
  dsimp only
  repeat' split
  all_goals simp

@[simp] theorem mems_enterHold (s : Mach) : (still (enterHold s)).mems = (still s).mems := by
  unfold enterHold
  split <;> simp

end Sys2Proof.Spec
end

section
/-! PROOFS. The memories that sections, training and remote access leave as they are. -/

namespace Sys2Proof.Spec

open Sys2Proof.Machine

/-! ### The operations of Machine/Vector -/

@[simp] theorem mems_vopStart (k : Nat) (s : Mach) : (still (vopStart k s)).mems = (still s).mems := by
  unfold vopStart
  dsimp only
  repeat' split
  all_goals simp

@[simp] theorem mems_vopComplete (k : Nat) (s : Mach) : (still (vopComplete k s)).mems = (still s).mems := by
  unfold vopComplete
  repeat' split
  all_goals simp

/-! ### The operations of Machine/Wheel -/

@[simp] theorem mems_wheelCycle (s : Mach) : (still (wheelCycle s)).mems = (still s).mems := by
  unfold wheelCycle
  dsimp only
  repeat' split
  all_goals simp

@[simp] theorem mems_passCycle (s : Mach) : (still (passCycle s)).mems = (still s).mems := by
  simp [passCycle]

@[simp] theorem mems_passCycles (n : Nat) (s : Mach) : (still (passCycles n s)).mems = (still s).mems := by
  obtain ⟨_, _, _, _, _, _, h⟩ := passCycles_counted n s
  rw [h]
  rfl

@[simp] theorem mems_passWhile (busy : Mach → Bool) : ∀ (n : Nat) (s : Mach),
    (still (passWhile busy n s)).mems = (still s).mems
  | 0, _ => rfl
  | n + 1, s => by
    unfold passWhile
    exact mems_ite ((mems_passWhile busy n (passCycle s)).trans (mems_passCycle s)) rfl

@[simp] theorem mems_awaitSlots (busy : Mach → Bool) (s : Mach) : (still (awaitSlots busy s)).mems = (still s).mems := by
  simp [awaitSlots]

@[simp] theorem mems_notBefore (t : Nat) (s : Mach) : (still (notBefore t s)).mems = (still s).mems := by
  simp [notBefore]

@[simp] theorem mems_toCycle (c : Nat) (s : Mach) : (still (toCycle c s)).mems = (still s).mems := by
  simp [toCycle]

@[simp] theorem mems_toTick (c : Nat) (s : Mach) : (still (toTick c s)).mems = (still s).mems := by
  simp [toTick]

@[simp] theorem mems_toPeriod (s : Mach) : (still (toPeriod s)).mems = (still s).mems := by
  simp [toPeriod]

@[simp] theorem mems_served (busy : Nat → Mach → Bool) (ends : Nat → Mach → Nat) (k : Nat) (s : Mach) :
    (still (served busy ends k s)).mems = (still s).mems := by
  simp [served]

@[simp] theorem mems_inboundFlit (k : Nat) (scalar : Bool) (phase : Nat) (x : Inputs) (s0 : Mach) :
    (still (inboundFlit k scalar phase x s0)).mems = (still s0).mems := by
  unfold inboundFlit
  dsimp only
  repeat' split
  all_goals simp

/-! ### The operations of Machine/Sections -/

@[simp] theorem mems_logImage (man : Bool) (k : Nat) (s : Mach) : (still (logImage man k s)).mems = (still s).mems := by
  simp [logImage]

@[simp] theorem mems_abortSwitch (cmd : SecCmd) (status : Nat) (s : Mach) :
    (still (abortSwitch cmd status s)).mems = (still s).mems := by
  simp [abortSwitch]

@[simp] theorem mems_switchReadyGather (s : Mach) : (still (switchReadyGather s)).mems = (still s).mems := by
  unfold switchReadyGather
  dsimp only
  repeat' split
  all_goals simp

@[simp] theorem mems_sectionGo (s : Mach) : (still (sectionGo s)).mems = (still s).mems := by
  unfold sectionGo
  split <;> simp

@[simp] theorem mems_endSecCmds (loadOnly : Bool) (s : Mach) : (still (endSecCmds loadOnly s)).mems = (still s).mems := by
  simp [endSecCmds]

@[simp] theorem mems_readManifest (ea section_ : Nat) (s : Mach) :
    (still ((readManifest ea section_ s).2.2)).mems = (still s).mems := by
  unfold readManifest
  split <;> simp

@[simp] theorem mems_copyImage (bases : List Nat) (k : Nat) (s : Mach) :
    (still (copyImage bases k s)).mems = (still s).mems := by
  unfold copyImage
  dsimp only
  repeat' split
  all_goals simp

@[simp] theorem mems_sectionLoad (q : Nat) (d : Desc) (s : Mach) : (still (sectionLoad q d s)).mems = (still s).mems := by
  unfold sectionLoad
  refine mems_startCmd fun _ _ => ?_
  dsimp only
  repeat' split
  all_goals simp

@[simp] theorem mems_sectionStop (q : Nat) (d : Desc) (s : Mach) : (still (sectionStop q d s)).mems = (still s).mems := by
  unfold sectionStop
  refine mems_startCmd fun _ _ => ?_
  dsimp only
  repeat' split
  all_goals simp

/-! ### The operations of Machine/Train -/

@[simp] theorem mems_readGroup (use : Bool) (ea g : Nat) (s : Mach) :
    (still ((readGroup use ea g s).2.2)).mems = (still s).mems := by
  unfold readGroup
  split <;> simp

@[simp] theorem mems_jobUnits (j : Job) (nr n : Nat) (s : Mach) : (still (jobUnits j nr n s)).mems = (still s).mems := by
  have htake : ∀ (cls k : Nat) (l : List (Bool × Nat)) (u : Mach),
      still (l.foldl (fun s e => if e.1 then useUnits cls e.2 (4 * k) s else s) u) = still u := fun cls k l u =>
    still_foldl fun _ _ => still_ite (still_useUnits ..) rfl
  unfold jobUnits
  dsimp only
  repeat' split
  all_goals simp only [still_useUnits, htake]

@[simp] theorem mems_dropLists (s : Mach) : (still (dropLists s)).mems = (still s).mems := by
  unfold dropLists
  refine mems_iter fun u t => ?_
  dsimp only
  split <;> simp

@[simp] theorem mems_uuStop (v : Word) (s : Mach) : (still (uuStop v s)).mems = (still s).mems := by
  unfold uuStop
  refine mems_iter fun _ _ => ?_
  repeat' split
  all_goals simp

@[simp] theorem mems_updateList (q : Nat) (d : Desc) (s : Mach) : (still (updateList q d s)).mems = (still s).mems := by
  unfold updateList
  refine mems_startCmd fun _ _ => ?_
  dsimp only
  repeat' split
  all_goals simp

@[simp] theorem mems_digDecide (o : OwnDigest) (s : Mach) : (still (digDecide o s)).mems = (still s).mems := by
  unfold digDecide
  dsimp only
  repeat' split
  all_goals simp

@[simp] theorem mems_digTry (s : Mach) : (still (digTry s)).mems = (still s).mems := by
  unfold digTry
  exact mems_foldl fun t o => mems_ite (mems_digDecide o t) rfl

@[simp] theorem mems_digestArrive (m : BitVec 192) (s : Mach) : (still (digestArrive m s)).mems = (still s).mems := by
  unfold digestArrive
  dsimp only
  repeat' split
  all_goals simp

@[simp] theorem mems_digestMsg (m : BitVec 192) (s : Mach) : (still (digestMsg m s)).mems = (still s).mems := by
  unfold digestMsg
  dsimp only
  repeat' split
  all_goals simp

@[simp] theorem mems_digestTimeout (s : Mach) : (still (digestTimeout s)).mems = (still s).mems := by
  unfold digestTimeout
  exact mems_foldl fun t o => mems_ite (mems_digDecide o t) rfl

@[simp] theorem mems_formDigest (s : Mach) : (still (formDigest s)).mems = (still s).mems := by
  unfold formDigest
  dsimp only
  repeat' split
  all_goals simp

@[simp] theorem mems_setStep (v : Word) (s : Mach) : (still (setStep v s)).mems = (still s).mems := by
  unfold setStep
  split <;> simp

@[simp] theorem mems_digestSet (q : Nat) (d : Desc) (s : Mach) : (still (digestSet q d s)).mems = (still s).mems := by
  unfold digestSet
  refine mems_startCmd fun _ _ => ?_
  dsimp only
  repeat' split
  all_goals simp

/-! ### The operations of Machine/Remote -/

@[simp] theorem mems_portRow (p ret : Nat) (row : Row) (poison rej : Bool) (s : Mach) :
    (still (portRow p ret row poison rej s)).mems = (still s).mems := by
  unfold portRow
  split <;> simp

@[simp] theorem mems_issueNext (p : Nat) (s : Mach) : (still (issueNext p s)).mems = (still s).mems := by
  unfold issueNext
  repeat' split
  all_goals simp

@[simp] theorem mems_issueReads (p : Nat) (s : Mach) : (still (issueReads p s)).mems = (still s).mems := by
  simp [issueReads]

@[simp] theorem mems_sendRows : ∀ (n : Nat) (r : RemRead) (s : Mach), (still (sendRows n r s).2).mems = (still s).mems
  | 0, _, _ => rfl
  | n + 1, r, s => by
    unfold sendRows
    split
    · rfl
    · split
      · rfl
      · exact (mems_sendRows n _ _).trans (by simp)

@[simp] theorem mems_flushReads (s : Mach) : (still (flushReads s)).mems = (still s).mems := by
  have hfold : ∀ (l : List RemRead) (x : List RemRead × Mach), (still (l.foldl (fun (st : List RemRead × Mach) r =>
      let y := sendRows (rowsPerRun r.runlen * r.nrun) r st.2
      (if y.1.sent < rowsPerRun r.runlen * r.nrun then st.1 ++ [y.1] else st.1, y.2)) x).2).mems = (still x.2).mems := by
    intro l
    induction l with
    | nil => exact fun _ => rfl
    | cons r l ih => exact fun x => (ih _).trans (mems_sendRows _ r x.2)
  exact hfold s.rmt.reads ([], s)

@[simp] theorem mems_remoteRead (p : Nat) (f : Row) (s : Mach) : (still (remoteRead p f s)).mems = (still s).mems := by
  unfold remoteRead
  repeat' split
  all_goals simp

@[simp] theorem mems_answerRead (rid : Word) (status : Byte) (data : List Byte) (ok : ReadMsg → Bool) (s : Mach) :
    (still (answerRead rid status data ok s)).mems = (still s).mems := by
  unfold answerRead
  split <;> simp

@[simp] theorem mems_rreadTimeout (rid : Word) (s : Mach) : (still (rreadTimeout rid s)).mems = (still s).mems := by
  simp [rreadTimeout]

@[simp] theorem mems_notePath (id : BitVec 16) (p : Nat) (s : Mach) : (still (notePath id p s)).mems = (still s).mems := by rfl

@[simp] theorem mems_remoteWrite (p : Nat) (f : Row) (rows : List Row) (s : Mach) :
    (still (remoteWrite p f rows s)).mems = (still s).mems := by
  unfold remoteWrite
  repeat' split
  all_goals simp

@[simp] theorem mems_countRej (cause : Nat) (s : Mach) : (still (countRej cause s)).mems = (still s).mems := by rfl

@[simp] theorem mems_postLate (s : Mach) : (still (postLate s)).mems = (still s).mems := by
  simp [postLate]

@[simp] theorem mems_rejectWrite (p cause : Nat) (m : RWriteMsg) (s : Mach) :
    (still (rejectWrite p cause m s)).mems = (still s).mems := by
  unfold rejectWrite
  split <;> simp

@[simp] theorem mems_rejectTransit (m : RWriteMsg) (s : Mach) : (still (rejectTransit m s)).mems = (still s).mems := by
  simp [rejectTransit]

@[simp] theorem mems_windowRows (w : BitVec 256) (data : List Byte) (s : Mach) :
    (still (windowRows w data s)).mems = (still s).mems := by
  simp [windowRows]

@[simp] theorem mems_takeRead (m : RReadMsg) (s : Mach) : (still (takeRead m s)).mems = (still s).mems := by
  unfold takeRead
  dsimp only
  repeat' split
  all_goals simp

@[simp] theorem mems_arriveMsg {p : Nat} {m : Msg} {own : Mach → Mach}
    {s : Mach} (hown : (still (own s)).mems = (still s).mems) :
    (still (arriveMsg p m own s)).mems = (still s).mems := by
  unfold arriveMsg
  exact mems_ite rfl (mems_ite hown (congrArg Still.mems (still_switchMsg m s)))

@[simp] theorem mems_rreadArrive (p : Nat) (m : RReadMsg) (s : Mach) : (still (rreadArrive p m s)).mems = (still s).mems := by
  simp [rreadArrive]

@[simp] theorem mems_rdataArrive (p : Nat) (m : RDataMsg) (s : Mach) : (still (rdataArrive p m s)).mems = (still s).mems := by
  simp [rdataArrive]

@[simp] theorem mems_stopTagged (tag : Word) (s : Mach) : (still (stopTagged tag s)).mems = (still s).mems := by
  unfold stopTagged
  refine mems_foldl fun t k => mems_foldl fun u e => ?_
  split
  · exact congrArg Still.mems (still_seStop ..)
  · rfl

@[simp] theorem mems_takeLnack (m : BitVec 256) (s : Mach) : (still (takeLnack m s)).mems = (still s).mems := by
  simp [takeLnack]

@[simp] theorem mems_lnackArrive (p : Nat) (m : BitVec 256) (s : Mach) : (still (lnackArrive p m s)).mems = (still s).mems := by
  simp [lnackArrive]

@[simp] theorem mems_systemFenceTimeout (s : Mach) : (still (systemFenceTimeout s)).mems = (still s).mems := by
  unfold systemFenceTimeout
  split <;> simp

@[simp] theorem mems_takeProbe (p : Nat) (m : BitVec 128) (s : Mach) : (still (takeProbe p m s)).mems = (still s).mems := by rfl

@[simp] theorem mems_fprobeArrive (p : Nat) (m : BitVec 128) (s : Mach) :
    (still (fprobeArrive p m s)).mems = (still s).mems := by
  simp [fprobeArrive]

@[simp] theorem mems_fackSend (p : Nat) (src : BitVec 16) (s : Mach) : (still (fackSend p src s)).mems = (still s).mems := by
  unfold fackSend
  split <;> simp

@[simp] theorem mems_takeFack (p : Nat) (m : BitVec 128) (s : Mach) : (still (takeFack p m s)).mems = (still s).mems := by
  unfold takeFack
  dsimp only
  repeat' split
  all_goals simp

@[simp] theorem mems_fackArrive (p : Nat) (m : BitVec 128) (s : Mach) : (still (fackArrive p m s)).mems = (still s).mems := by
  simp [fackArrive]

@[simp] theorem mems_dropLate (m : RWriteMsg) (s : Mach) : (still (dropLate m s)).mems = (still s).mems := by
  unfold dropLate
  dsimp only
  repeat' split
  all_goals simp

@[simp] theorem mems_lateWriteScan (p : Nat) (s : Mach) : (still (lateWriteScan p s)).mems = (still s).mems := by
  simp [lateWriteScan]

@[simp] theorem mems_updateTwin (s : Mach) : (still (updateTwin s)).mems = (still s).mems := by
  unfold updateTwin
  dsimp only
  repeat' split
  all_goals simp

@[simp] theorem mems_sysTwin (v : Word) (s : Mach) : (still (sysTwin v s)).mems = (still s).mems := by
  unfold sysTwin
  dsimp only
  repeat' split
  all_goals simp

@[simp] theorem mems_resentEntry (p : Nat) (s : Mach) : (still (resentEntry p s)).mems = (still s).mems := by
  unfold resentEntry
  dsimp only
  repeat' split
  all_goals simp

@[simp] theorem mems_clearStrag (e : Ptn) (s : Mach) : (still (clearStrag e s)).mems = (still s).mems := by
  unfold clearStrag
  split <;> simp

@[simp] theorem mems_partnerLoss (p : Nat) (s : Mach) : (still (partnerLoss p s)).mems = (still s).mems := by
  unfold partnerLoss
  dsimp only
  repeat' split
  all_goals simp

@[simp] theorem mems_applyPartner (d : Desc) (o : Owed) (s : Mach) : (still (applyPartner d o s)).mems = (still s).mems := by
  unfold applyPartner
  dsimp only
  repeat' split
  all_goals simp

@[simp] theorem mems_partnerCmd (mine : Nat → Bool) (q : Nat) (d : Desc) (s : Mach) :
    (still (partnerCmd mine q d s)).mems = (still s).mems := by
  unfold partnerCmd
  refine mems_startCmd fun _ _ => ?_
  dsimp only
  repeat' split
  all_goals simp

@[simp] theorem mems_windowCmd (open_ : Bool) (q : Nat) (d : Desc) (s : Mach) :
    (still (windowCmd open_ q d s)).mems = (still s).mems := by
  unfold windowCmd
  refine mems_startCmd fun _ _ => ?_
  dsimp only
  repeat' split
  all_goals simp

@[simp] theorem mems_applyChange (s : Mach) (a0 : Change) : (still (applyChange s a0)).mems = (still s).mems := by
  unfold applyChange
  split <;> simp

@[simp] theorem mems_applyChanges (s : Mach) : (still (applyChanges s)).mems = (still s).mems := by
  unfold applyChanges
  dsimp only
  repeat' split
  all_goals simp

@[simp] theorem mems_ptnSel (v : Word) (s : Mach) : (still (ptnSel v s)).mems = (still s).mems := by rfl

@[simp] theorem mems_winSel (v : Word) (s : Mach) : (still (winSel v s)).mems = (still s).mems := by rfl

@[simp] theorem mems_fenceModule (q : Nat) (d : Desc) (s : Mach) : (still (fenceModule q d s)).mems = (still s).mems := by
  unfold fenceModule
  refine mems_startCmd fun _ _ => ?_
  simp

@[simp] theorem mems_fenceSystem (q : Nat) (d : Desc) (s : Mach) : (still (fenceSystem q d s)).mems = (still s).mems := by
  unfold fenceSystem
  refine mems_startCmd fun _ _ => ?_
  repeat' split
  all_goals simp

/-! ### The operations of Machine/Lockstep -/

@[simp] theorem mems_lockstepDigest (p : Nat) (r : Word) (dig : BitVec 64) (s : Mach) :
    (still (lockstepDigest p r dig s)).mems = (still s).mems := by
  unfold lockstepDigest
  repeat' split
  all_goals simp

@[simp] theorem mems_lockstepMissing (s : Mach) : (still (lockstepMissing s)).mems = (still s).mems := by
  unfold lockstepMissing
  split <;> simp

@[simp] theorem mems_lsCtrl (v : Word) (s : Mach) : (still (lsCtrl v s)).mems = (still s).mems := by rfl

end Sys2Proof.Spec
end

section
/-! PROOFS. The memories that checkpoints, power and the ledger leave as they are. -/

namespace Sys2Proof.Spec

open Sys2Proof.Machine

/-! ### The operations of Machine/Keep -/

@[simp] theorem mems_loadSlots (s : Mach) : (still (loadSlots s)).mems = (still s).mems := by rfl

@[simp] theorem mems_keepWrite (id : BitVec 16) (dir slot : Bool) (stack off : Nat) (bs : List Byte) (s : Mach) :
    (still (keepWrite id dir slot stack off bs s)).mems = (still s).mems := by
  simp [keepWrite]

@[simp] theorem mems_keepAnswer (m : RReadMsg) (status : Nat) (data : List Byte) (s : Mach) :
    (still (keepAnswer m status data s)).mems = (still s).mems := by
  simp [keepAnswer]

@[simp] theorem mems_keepTransit (m : Msg) (s : Mach) : (still (keepTransit m s)).mems = (still s).mems := by
  unfold keepTransit
  repeat' split
  all_goals simp

@[simp] theorem mems_endKeeping (st : Nat) (s : Mach) : (still (endKeeping st s)).mems = (still s).mems := by
  unfold endKeeping
  split <;> simp

@[simp] theorem mems_restRecord (step : Word) (keeper : BitVec 16) (s : Mach) :
    (still (restRecord step keeper s)).mems = (still s).mems := by rfl

@[simp] theorem mems_endRestore (st : Nat) (s : Mach) : (still (endRestore st s)).mems = (still s).mems := by
  unfold endRestore
  split <;> simp

@[simp] theorem mems_endServe (st : Nat) (s : Mach) : (still (endServe st s)).mems = (still s).mems := by
  unfold endServe
  split <;> simp

@[simp] theorem mems_stopExports (hit : Export → Bool) (s : Mach) : (still (stopExports hit s)).mems = (still s).mems := by
  simp [stopExports]

@[simp] theorem mems_sealCmd (q : Nat) (d : Desc) (s : Mach) : (still (sealCmd q d s)).mems = (still s).mems := by
  unfold sealCmd
  refine mems_startCmd fun _ _ => ?_
  dsimp only
  repeat' split
  all_goals simp

@[simp] theorem mems_sendExtent (x : Seal) (base : Nat) (e : Nat × Nat) (t : Tbl (BitVec 64)) (s : Mach) :
    (still ((sendExtent x base e t s).2)).mems = (still s).mems := by
  unfold sendExtent
  dsimp only
  repeat' split
  all_goals simp

@[simp] theorem mems_sendStack (x : Seal) : ∀ (es : List (Nat × Nat)) (base : Nat) (t : Tbl (BitVec 64)) (s : Mach),
    (still (sendStack x es base t s).2).mems = (still s).mems
  | [], _, _, _ => rfl
  | e :: es, base, t, s => by
    unfold sendStack
    have hs := mems_sendExtent x base e t s
    generalize sendExtent x base e t s = y at hs ⊢
    obtain ⟨_ | u, s1⟩ := y
    · exact hs
    · exact (mems_sendStack x es _ u s1).trans hs

@[simp] theorem mems_sendStacks (x : Seal) (es : List (Nat × Nat)) (s : Mach) :
    (still (sendStacks x es s).2).mems = (still s).mems := by
  have hfold : ∀ (l : List Nat) (a : Option (Tbl (BitVec 64)) × Mach), (still (l.foldl (fun a st =>
      match a.1 with
      | some t => sendStack x (es.filter (fun e => stackOf e.1 == st)) (extentBase st) t a.2
      | none => a) a).2).mems = (still a.2).mems := by
    intro l
    induction l with
    | nil => exact fun _ => rfl
    | cons st l ih =>
      rintro ⟨_ | t, u⟩
      · exact ih _
      · exact (ih _).trans (mems_sendStack x _ _ t u)
  exact hfold _ _

@[simp] theorem mems_sealSendAll (x : Seal) (s : Mach) : (still (sealSendAll x s)).mems = (still s).mems := by
  unfold sealSendAll
  dsimp only
  repeat' split
  all_goals simp

@[simp] theorem mems_askOther (x : Seal) (s : Mach) : (still (askOther x s)).mems = (still s).mems := by
  simp [askOther]

@[simp] theorem mems_sealAdvance (x : Seal) (status : Nat) (data : List Byte) (s : Mach) :
    (still (sealAdvance x status data s)).mems = (still s).mems := by
  unfold sealAdvance
  repeat' split
  all_goals simp

@[simp] theorem mems_slotHeader (slot : Bool) (s : Mach) : (still ((slotHeader slot s).2)).mems = (still s).mems := by
  simp [slotHeader]

@[simp] theorem mems_modKeeping (f : Keeping → Keeping) (s : Mach) : (still (modKeeping f s)).mems = (still s).mems := by rfl

@[simp] theorem mems_answerSlot (g : Keeping) (m : RReadMsg) (s : Mach) : (still (answerSlot g m s)).mems = (still s).mems := by
  unfold answerSlot
  dsimp only
  repeat' split
  all_goals simp

@[simp] theorem mems_slotRecorded (d : List Byte) (s : Mach) : (still (slotRecorded d s)).mems = (still s).mems := by
  unfold slotRecorded
  dsimp only
  repeat' split
  all_goals simp

@[simp] theorem mems_restoreCmd (q : Nat) (d : Desc) (s : Mach) : (still (restoreCmd q d s)).mems = (still s).mems := by
  unfold restoreCmd
  refine mems_startCmd fun _ _ => ?_
  repeat' split
  all_goals simp

@[simp] theorem mems_restoreFinish (h : List Byte) (t : Tbl (BitVec 64)) (s : Mach) :
    (still (restoreFinish h t s)).mems = (still s).mems := by
  unfold restoreFinish
  split <;> simp

@[simp] theorem mems_targetRead (x : Restore) (m : RReadMsg) (s : Mach) : (still (targetRead x m s)).mems = (still s).mems := by
  unfold targetRead
  dsimp only
  repeat' split
  all_goals simp

@[simp] theorem mems_serveCmd (q : Nat) (d : Desc) (s : Mach) : (still (serveCmd q d s)).mems = (still s).mems := by
  unfold serveCmd
  refine mems_startCmd fun o u => ?_
  dsimp only
  split
  · simp
  · split
    · simp
    · split
      · simp
      · generalize hv : modKeep _ u = v
        have hvu : (still v).mems = (still u).mems := hv ▸ rfl
        generalize (!_) = slot
        have hx : (still (if stackOut u 0 = true then (none, v) else slotHeader slot v).2).mems = (still v).mems := by
          split <;> simp
        generalize (if stackOut u 0 = true then (none, v) else slotHeader slot v) = y at hx ⊢
        obtain ⟨_ | h, w⟩ := y
        · simpa [hvu] using hx
        · simpa [hvu] using hx

@[simp] theorem mems_serveExtents (x : Serve) : ∀ (es : List ((Nat × Nat) × Nat)) (s : Mach),
    (still (serveExtents x es s).2).mems = (still s).mems
  | [], _ => rfl
  | e :: es, s => by
    unfold serveExtents
    dsimp only
    split
    · simp
    · exact (mems_serveExtents x es _).trans (by simp)

@[simp] theorem mems_serveAdvance (x : Serve) (status : Nat) (s : Mach) :
    (still (serveAdvance x status s)).mems = (still s).mems := by
  unfold serveAdvance
  split
  · simp
  · have hs := mems_slotHeader x.slot s
    generalize slotHeader x.slot s = y at hs ⊢
    obtain ⟨_ | h, u⟩ := y
    · simpa using hs
    · simpa using hs

@[simp] theorem mems_keepArrive {p : Nat} {m : Msg} {own : Mach → Mach}
    {s : Mach} (hown : (still (own s)).mems = (still s).mems) :
    (still (keepArrive p m own s)).mems = (still s).mems := by
  unfold keepArrive
  exact mems_ite rfl (mems_ite hown (mems_keepTransit m s))

@[simp] theorem mems_keepTakeData (m : RDataMsg) (s : Mach) : (still (keepTakeData m s)).mems = (still s).mems := by
  unfold keepTakeData
  repeat' split
  all_goals simp

@[simp] theorem mems_keepRdataArrive (p : Nat) (m : RDataMsg) (s : Mach) :
    (still (keepRdataArrive p m s)).mems = (still s).mems := by
  simp [keepRdataArrive]

@[simp] theorem mems_sealSessionTimeout (s : Mach) : (still (sealSessionTimeout s)).mems = (still s).mems := by
  unfold sealSessionTimeout
  dsimp only
  repeat' split
  all_goals simp

@[simp] theorem mems_dropSlotWrites (s : Mach) : (still (dropSlotWrites s)).mems = (still s).mems := by
  unfold dropSlotWrites
  split <;> simp

@[simp] theorem mems_sealEnergyTimeout (s : Mach) : (still (sealEnergyTimeout s)).mems = (still s).mems := by
  unfold sealEnergyTimeout
  dsimp only
  repeat' split
  all_goals simp

@[simp] theorem mems_keepLoss (p : Nat) (s : Mach) : (still (keepLoss p s)).mems = (still s).mems := by
  unfold keepLoss
  dsimp only
  repeat' split
  all_goals simp

@[simp] theorem mems_endSessions (s : Mach) : (still (endSessions s)).mems = (still s).mems := by
  simp [endSessions]

@[simp] theorem mems_ckptExport (q : Nat) (d : Desc) (hostOk : Bool) (s : Mach) :
    (still (ckptExport q d hostOk s)).mems = (still s).mems := by
  unfold ckptExport
  refine mems_startCmd fun o u => ?_
  dsimp only
  split
  · simp
  · split
    · simp
    · have hx : (still (if stackOut u 0 = true then (none, u) else slotHeader (cB d 8 1 % 2 == 1) u).2).mems =
          (still u).mems := by
        split <;> simp
      generalize (if stackOut u 0 = true then (none, u) else slotHeader (cB d 8 1 % 2 == 1) u) = y at hx ⊢
      obtain ⟨_ | h, v⟩ := y
      · simpa using hx
      · dsimp only
        split <;> simpa using hx

@[simp] theorem mems_ckptImport (q : Nat) (d : Desc) (data : Option (List Byte)) (s : Mach) :
    (still (ckptImport q d data s)).mems = (still s).mems := by
  unfold ckptImport
  refine mems_startCmd fun _ _ => ?_
  dsimp only
  repeat' split
  all_goals simp

/-! ### The operations of Machine/Power -/

@[simp] theorem mems_pwrEvt (b : Nat) (s : Mach) : (still (pwrEvt b s)).mems = (still s).mems := by
  simp [pwrEvt]

@[simp] theorem mems_powerRecord (flags : Nat) (s : Mach) : (still (powerRecord flags s)).mems = (still s).mems := by rfl

@[simp] theorem mems_powerEvent (b : Nat) (unc : Bool) (s : Mach) : (still (powerEvent b unc s)).mems = (still s).mems := by
  unfold powerEvent
  split <;> simp

@[simp] theorem mems_dieOff (d : Nat) (s : Mach) : (still (dieOff d s)).mems = (still s).mems := by
  simp [dieOff]

@[simp] theorem mems_emergencyDown (s : Mach) : (still (emergencyDown s)).mems = (still s).mems := by
  simp [emergencyDown]

@[simp] theorem mems_feedLost (b : Bool) (s : Mach) : (still (feedLost b s)).mems = (still s).mems := by
  unfold feedLost
  repeat' split
  all_goals simp

@[simp] theorem mems_feedTaken (b : Bool) (s : Mach) : (still (feedTaken b s)).mems = (still s).mems := by
  unfold feedTaken
  repeat' split
  all_goals simp

@[simp] theorem mems_inputLoss (s : Mach) : (still (inputLoss s)).mems = (still s).mems := by
  unfold inputLoss
  split <;> simp

@[simp] theorem mems_bankExhausted (s : Mach) : (still (bankExhausted s)).mems = (still s).mems := by
  unfold bankExhausted
  split <;> simp

@[simp] theorem mems_domainFault (i : DomInst) (s : Mach) : (still (domainFault i s)).mems = (still s).mems := by
  simp [domainFault]

@[simp] theorem mems_domainFaultOff (i : DomInst) (s : Mach) : (still (domainFaultOff i s)).mems = (still s).mems := by
  unfold domainFaultOff
  repeat' split
  all_goals simp

@[simp] theorem mems_brakeOn (s : Mach) : (still (brakeOn s)).mems = (still s).mems := by
  simp [brakeOn]

@[simp] theorem mems_feedSample (s : Mach) : (still (feedSample s)).mems = (still s).mems := by rfl

@[simp] theorem mems_powerSample (p : BitVec 16) (over5ms : Bool) (s0 : Mach) :
    (still (powerSample p over5ms s0)).mems = (still s0).mems := by
  unfold powerSample
  dsimp only
  repeat' split
  all_goals simp

@[simp] theorem mems_capUnmet (avg : BitVec 16) (s : Mach) : (still (capUnmet avg s)).mems = (still s).mems := by
  unfold capUnmet
  split <;> simp

@[simp] theorem mems_capBoundary (t : Nat) (s : Mach) : (still (capBoundary t s)).mems = (still s).mems := by rfl

@[simp] theorem mems_droopTrip (d : Nat) (sensor : BitVec 5) (s : Mach) :
    (still (droopTrip d sensor s)).mems = (still s).mems := by
  unfold droopTrip
  split <;> simp

@[simp] theorem mems_stretchEnd (d n : Nat) (s : Mach) : (still (stretchEnd d n s)).mems = (still s).mems := by
  unfold stretchEnd
  split <;> simp

@[simp] theorem mems_refuseVcmd (d reason : Nat) (s : Mach) : (still (refuseVcmd d reason s)).mems = (still s).mems := by rfl

@[simp] theorem mems_refloor (d : Nat) (s : Mach) : (still (refloor d s)).mems = (still s).mems := by rfl

@[simp] theorem mems_dieVcmd (d : Nat) (v : Word) (s : Mach) : (still (dieVcmd d v s)).mems = (still s).mems := by
  unfold dieVcmd
  dsimp only
  repeat' split
  all_goals simp

@[simp] theorem mems_vcmdTakeEffect (d : Nat) (varr : Bool) (s : Mach) :
    (still (vcmdTakeEffect d varr s)).mems = (still s).mems := by
  unfold vcmdTakeEffect
  dsimp only
  repeat' split
  all_goals simp

@[simp] theorem mems_slewReached (d : Nat) (varr : Bool) (s : Mach) : (still (slewReached d varr s)).mems = (still s).mems := by
  unfold slewReached
  dsimp only
  repeat' split
  all_goals simp

@[simp] theorem mems_settledTimer (d : Nat) (varr : Bool) (s : Mach) :
    (still (settledTimer d varr s)).mems = (still s).mems := by
  unfold settledTimer
  dsimp only
  repeat' split
  all_goals simp

@[simp] theorem mems_thermTrip (s : Mach) : (still (thermTrip s)).mems = (still s).mems := by
  unfold thermTrip
  split <;> simp

@[simp] theorem mems_storeTemp (src : ThermSrc) (temp : Byte) (s : Mach) :
    (still (storeTemp src temp s)).mems = (still s).mems := by
  unfold storeTemp
  split <;> simp

@[simp] theorem mems_thermalSample (src : ThermSrc) (temp : Byte) (s : Mach) :
    (still (thermalSample src temp s)).mems = (still s).mems := by
  unfold thermalSample
  dsimp only
  repeat' split
  all_goals simp

@[simp] theorem mems_coolantSample (inlet outlet : Byte) (flow : BitVec 16) (held : Bool) (s : Mach) :
    (still (coolantSample inlet outlet flow held s)).mems = (still s).mems := by
  unfold coolantSample
  dsimp only
  repeat' split
  all_goals simp

@[simp] theorem mems_noteVmin (key : Nat) (f : Option VRec → Option VRec) (s : Mach) :
    (still (noteVmin key f s)).mems = (still s).mems := by rfl

@[simp] theorem mems_vminSample (i : DomInst) (v : BitVec 11) (s : Mach) :
    (still (vminSample i v s)).mems = (still s).mems := by
  unfold vminSample
  repeat' split
  all_goals simp

@[simp] theorem mems_vminSel (d : Nat) (v : Word) (s : Mach) : (still (vminSel d v s)).mems = (still s).mems := by rfl

@[simp] theorem mems_pwrVminSel (v : Word) (s : Mach) : (still (pwrVminSel v s)).mems = (still s).mems := by rfl

@[simp] theorem mems_logVmin (s : Mach) : (still (logVmin s)).mems = (still s).mems := by
  simp [logVmin]

@[simp] theorem mems_recalibrate (e : BitVec 16) (s : Mach) : (still (recalibrate e s)).mems = (still s).mems := by
  unfold recalibrate
  dsimp only
  repeat' split
  all_goals simp

@[simp] theorem mems_gaugeUpdate (coul model : BitVec 16) (s : Mach) :
    (still (gaugeUpdate coul model s)).mems = (still s).mems := by
  unfold gaugeUpdate
  dsimp only
  repeat' split
  all_goals simp

@[simp] theorem mems_raiseEpoch (s : Mach) : (still (raiseEpoch s)).mems = (still s).mems := by rfl

@[simp] theorem mems_bankFull (e : BitVec 16) (s : Mach) : (still (bankFull e s)).mems = (still s).mems := by
  unfold bankFull
  repeat' split
  all_goals simp

/-! ### The operations of Machine/Ledger -/

@[simp] theorem mems_sendCper (r : LedRec) (s : Mach) : (still (sendCper r s)).mems = (still s).mems := by
  unfold sendCper
  split <;> simp

@[simp] theorem mems_announce (r : LedRec) (s : Mach) : (still (announce r s)).mems = (still s).mems := by
  simp [announce]

@[simp] theorem mems_seqBegins (w : WSeq) (s : Mach) : (still (seqBegins w s)).mems = (still s).mems := by
  unfold seqBegins
  split <;> simp

@[simp] theorem mems_startSeq (w : WSeq) (s : Mach) : (still (startSeq w s)).mems = (still s).mems := by
  simp [startSeq]

@[simp] theorem mems_requestSeq (w : WSeq) (s : Mach) : (still (requestSeq w s)).mems = (still s).mems := by
  unfold requestSeq
  split <;> simp

@[simp] theorem mems_writeSequenceStart (s : Mach) : (still (writeSequenceStart s)).mems = (still s).mems := by
  unfold writeSequenceStart
  repeat' split
  all_goals simp

@[simp] theorem mems_recordWrite (s : Mach) : (still (recordWrite s)).mems = (still s).mems := by
  unfold recordWrite
  repeat' split
  all_goals simp

@[simp] theorem mems_endCommands (s : Mach) : (still (endCommands s)).mems = (still s).mems := by
  simp [endCommands]

@[simp] theorem mems_beginDown (after : AfterDown) (s : Mach) : (still (beginDown after s)).mems = (still s).mems := by
  unfold beginDown
  split <;> simp

@[simp] theorem mems_afterFinal (s : Mach) : (still (afterFinal s)).mems = (still s).mems := by
  simp [afterFinal]

@[simp] theorem mems_epochCommitted (r : LedRec) (s : Mach) : (still (epochCommitted r s)).mems = (still s).mems := by
  unfold epochCommitted
  split <;> simp

@[simp] theorem mems_committed (r : LedRec) (s0 : Mach) : (still (committed r s0)).mems = (still s0).mems := by
  unfold committed
  dsimp only
  repeat' split
  all_goals simp

@[simp] theorem mems_recordCommitted (s : Mach) : (still (recordCommitted s)).mems = (still s).mems := by
  unfold recordCommitted
  dsimp only
  repeat' split
  all_goals simp

@[simp] theorem mems_lastGasp (s : Mach) : (still (lastGasp s)).mems = (still s).mems := by
  unfold lastGasp
  split <;> simp

@[simp] theorem mems_logRepair (s0 : Mach) : (still (logRepair s0)).mems = (still s0).mems := by
  simp [logRepair]

@[simp] theorem mems_calSet (sec : BitVec 48) (s : Mach) : (still (calSet sec s)).mems = (still s).mems := by rfl

@[simp] theorem mems_calSetHi (v : Word) (s : Mach) : (still (calSetHi v s)).mems = (still s).mems := by
  unfold calSetHi
  split <;> simp

@[simp] theorem mems_calRead (s : Mach) : (still (calRead s)).mems = (still s).mems := by rfl

@[simp] theorem mems_clockStop (s : Mach) : (still (clockStop s)).mems = (still s).mems := by
  unfold clockStop
  split <;> simp

@[simp] theorem mems_clockStart (s : Mach) : (still (clockStart s)).mems = (still s).mems := by
  unfold clockStart
  split <;> simp

end Sys2Proof.Spec
end

section
/-! PROOFS. The memories that ports and rounds leave as they are. -/

namespace Sys2Proof.Spec

open Sys2Proof.Machine

/-! ### The operations of Machine/PortOps -/

@[simp] theorem mems_countRetrain (p lane : Nat) (s : Mach) : (still (countRetrain p lane s)).mems = (still s).mems := by
  unfold countRetrain
  split <;> simp

@[simp] theorem mems_queueLane (p lane : Nat) (s : Mach) : (still (queueLane p lane s)).mems = (still s).mems := by
  simp [queueLane]

@[simp] theorem mems_queueWalk (p : Nat) (s : Mach) : (still (queueWalk p s)).mems = (still s).mems := by
  simp [queueWalk]

/-! ### The operations of Machine/Rounds -/

@[simp] theorem mems_forwardMarker (p : Nat) (m : BitVec 192) (rem : Int) (s : Mach) :
    (still (forwardMarker p m rem s)).mems = (still s).mems := by
  unfold forwardMarker
  split <;> simp

@[simp] theorem mems_markerFault (b : Nat) (s : Mach) : (still (markerFault b s)).mems = (still s).mems := by
  simp [markerFault]

@[simp] theorem mems_noteCopy (p : Nat) (m : BitVec 192) (s : Mach) : (still (noteCopy p m s)).mems = (still s).mems := by rfl

@[simp] theorem mems_acceptMarker (p : Nat) (m : BitVec 192) (s : Mach) :
    (still (acceptMarker p m s)).mems = (still s).mems := by
  unfold acceptMarker
  dsimp only
  repeat' split
  all_goals simp

@[simp] theorem mems_lateCopy (p : Nat) (m : BitVec 192) (s : Mach) : (still (lateCopy p m s)).mems = (still s).mems := by
  unfold lateCopy
  split <;> simp

@[simp] theorem mems_passMarker (p : Nat) (m : BitVec 192) (s : Mach) : (still (passMarker p m s)).mems = (still s).mems := by
  unfold passMarker
  split <;> simp

@[simp] theorem mems_roundMarker (p : Nat) (m : BitVec 192) (s : Mach) : (still (roundMarker p m s)).mems = (still s).mems := by
  unfold roundMarker
  dsimp only
  repeat' split
  all_goals simp

@[simp] theorem mems_markerEmit (s : Mach) : (still (markerEmit s)).mems = (still s).mems := by
  unfold markerEmit
  dsimp only
  repeat' split
  all_goals simp

@[simp] theorem mems_straggler (id : BitVec 16) (s : Mach) : (still (straggler id s)).mems = (still s).mems := by
  simp [straggler]

@[simp] theorem mems_takeStretch (m : BitVec 128) (s : Mach) : (still (takeStretch m s)).mems = (still s).mems := by
  unfold takeStretch
  dsimp only
  repeat' split
  all_goals simp

@[simp] theorem mems_stretchRequest (port : Option Nat) (m : BitVec 128) (s : Mach) :
    (still (stretchRequest port m s)).mems = (still s).mems := by
  unfold stretchRequest
  repeat' split
  all_goals simp

@[simp] theorem mems_sendStretch (prev : Round) (margin : Int) (late : Bool) (s : Mach) :
    (still (sendStretch prev margin late s)).mems = (still s).mems := by
  unfold sendStretch
  dsimp only
  repeat' split
  all_goals simp

@[simp] theorem mems_closeRound (prev : Round) (late : Option Nat) (s0 : Mach) :
    (still (closeRound prev late s0)).mems = (still s0).mems := by
  unfold closeRound
  dsimp only
  repeat' split
  all_goals simp

@[simp] theorem mems_firstRound (s : Mach) : (still (firstRound s)).mems = (still s).mems := by
  simp [firstRound]

@[simp] theorem mems_rndCtrl (v : Word) (s : Mach) : (still (rndCtrl v s)).mems = (still s).mems := by
  unfold rndCtrl
  dsimp only
  repeat' split
  all_goals simp

@[simp] theorem mems_rndSreq (v : Word) (s : Mach) : (still (rndSreq v s)).mems = (still s).mems := by rfl

@[simp] theorem mems_rndMport (hi : Bool) (v : Word) (s : Mach) : (still (rndMport hi v s)).mems = (still s).mems := by rfl

@[simp] theorem mems_rndWrite (off : Nat) (v : Word) (s : Mach) : (still (rndWrite off v s)).mems = (still s).mems := by
  unfold rndWrite
  dsimp only
  repeat' split
  all_goals simp

@[simp] theorem mems_roundSet (q : Nat) (d : Desc) (s : Mach) : (still (roundSet q d s)).mems = (still s).mems := by
  unfold roundSet
  refine mems_startCmd fun _ _ => ?_
  repeat' split
  all_goals simp

@[simp] theorem mems_applySets (m : BitVec 48) (s : Mach) : (still (applySets m s)).mems = (still s).mems := by
  simp [applySets]

@[simp] theorem mems_openRound (r : Round) (s : Mach) : (still (openRound r s)).mems = (still s).mems := by
  unfold openRound
  split <;> simp

@[simp] theorem mems_beginRound (r : Round) (late : Option Nat) (s : Mach) :
    (still (beginRound r late s)).mems = (still s).mems := by
  unfold beginRound
  dsimp only
  repeat' split
  all_goals simp

@[simp] theorem mems_stopCores (s : Mach) : (still (stopCores s)).mems = (still s).mems := by rfl

@[simp] theorem mems_latchLate (s : Mach) : (still (latchLate s)).mems = (still s).mems := by
  unfold latchLate
  repeat' split
  all_goals simp

@[simp] theorem mems_lateFaultNow (s : Mach) : (still (lateFaultNow s)).mems = (still s).mems := by
  simp [lateFaultNow]

@[simp] theorem mems_dueRound (r : Round) (s : Mach) : (still (dueRound r s)).mems = (still s).mems := by
  unfold dueRound
  repeat' split
  all_goals simp

@[simp] theorem mems_roundStart (s : Mach) : (still (roundStart s)).mems = (still s).mems := by
  unfold roundStart
  dsimp only
  repeat' split
  all_goals simp

@[simp] theorem mems_delayedRoundStart (s : Mach) : (still (delayedRoundStart s)).mems = (still s).mems := by
  unfold delayedRoundStart
  repeat' split
  all_goals simp

@[simp] theorem mems_lateFault (s : Mach) : (still (lateFault s)).mems = (still s).mems := by
  unfold lateFault
  split <;> simp

@[simp] theorem mems_missedMarker (s : Mach) : (still (missedMarker s)).mems = (still s).mems := by
  unfold missedMarker
  dsimp only
  repeat' split
  all_goals simp

@[simp] theorem mems_restartHold (q : Nat) (d : Desc) (s : Mach) : (still (restartHold q d s)).mems = (still s).mems := by
  unfold restartHold
  refine mems_startCmd fun _ _ => ?_
  repeat' split
  all_goals simp

@[simp] theorem mems_dropAccess (s : Mach) : (still (dropAccess s)).mems = (still s).mems := by rfl

@[simp] theorem mems_revokeAbove (b : Bool) (step : Nat) (s : Mach) : (still (revokeAbove b step s)).mems = (still s).mems := by
  unfold revokeAbove
  split <;> simp

@[simp] theorem mems_armModule (h : List Byte) (s : Mach) : (still (armModule h s)).mems = (still s).mems := by
  have hend : ∀ (l : List Nat) (u : Mach),
      (still (l.foldl (fun s k => if Machine.running (coreAt s k) then endProgram false k s else s) u)).mems = (still u).mems :=
    fun l u => mems_foldl fun t k => mems_ite (congrArg Still.mems (still_endProgram false k t)) rfl
  unfold armModule
  simp [hend]

@[simp] theorem mems_restartArm (q : Nat) (d : Desc) (s : Mach) : (still (restartArm q d s)).mems = (still s).mems := by
  unfold restartArm
  refine mems_startCmd fun _ _ => ?_
  dsimp only
  repeat' split
  all_goals simp

@[simp] theorem mems_resumeCmd (q : Nat) (d : Desc) (s : Mach) : (still (resumeCmd q d s)).mems = (still s).mems := by
  unfold resumeCmd
  refine mems_startCmd fun _ _ => ?_
  dsimp only
  repeat' split
  all_goals simp

/-! ### The operations of Machine/Ports -/

@[simp] theorem mems_lightPort (p : Nat) (s : Mach) : (still (lightPort p s)).mems = (still s).mems := by rfl

@[simp] theorem mems_endLanes (p : Nat) (s : Mach) : (still (endLanes p s)).mems = (still s).mems := by
  simp [endLanes]

@[simp] theorem mems_dropLink (p cause : Nat) (s : Mach) : (still (dropLink p cause s)).mems = (still s).mems := by
  simp [dropLink]

@[simp] theorem mems_linkDown (p cause : Nat) (s : Mach) : (still (Machine.linkDown p cause s)).mems = (still s).mems := by
  unfold Machine.linkDown
  simp

@[simp] theorem mems_excludeLanes (p : Nat) (l : BitVec 16) (s : Mach) :
    (still (excludeLanes p l s)).mems = (still s).mems := by
  unfold excludeLanes
  dsimp only
  repeat' split
  all_goals simp

@[simp] theorem mems_lightDetect (p : Nat) (s : Mach) : (still (lightDetect p s)).mems = (still s).mems := by
  unfold lightDetect
  dsimp only
  repeat' split
  all_goals simp

@[simp] theorem mems_eqComplete (p : Nat) (failed : BitVec 16) (s : Mach) :
    (still (eqComplete p failed s)).mems = (still s).mems := by
  unfold eqComplete
  split <;> simp

@[simp] theorem mems_goActive (p g : Nat) (s : Mach) : (still (goActive p g s)).mems = (still s).mems := by rfl

@[simp] theorem mems_alignComplete (p : Nat) (swapped : Bool) (s : Mach) :
    (still (alignComplete p swapped s)).mems = (still s).mems := by
  unfold alignComplete
  dsimp only
  repeat' split
  all_goals simp

@[simp] theorem mems_speedComplete (p : Nat) (failed : BitVec 16) (s : Mach) :
    (still (speedComplete p failed s)).mems = (still s).mems := by
  unfold speedComplete
  dsimp only
  repeat' split
  all_goals simp

@[simp] theorem mems_linkLost (p : Nat) (lost : BitVec 16) (s : Mach) : (still (linkLost p lost s)).mems = (still s).mems := by
  unfold linkLost
  dsimp only
  repeat' split
  all_goals simp

@[simp] theorem mems_retryExpiry (p : Nat) (s : Mach) : (still (retryExpiry p s)).mems = (still s).mems := by
  unfold retryExpiry
  dsimp only
  repeat' split
  all_goals simp

@[simp] theorem mems_echoSend (p : Nat) (s : Mach) : (still (echoSend p s)).mems = (still s).mems := by
  unfold echoSend
  dsimp only
  repeat' split
  all_goals simp

@[simp] theorem mems_tryUp (p : Nat) (s : Mach) : (still (tryUp p s)).mems = (still s).mems := by
  unfold tryUp
  dsimp only
  repeat' split
  all_goals simp

@[simp] theorem mems_echoArrive (p : Nat) (m : BitVec 128) (s : Mach) : (still (echoArrive p m s)).mems = (still s).mems := by
  unfold echoArrive
  dsimp only
  repeat' split
  all_goals simp

@[simp] theorem mems_newPartner (p : Nat) (m : BitVec 256) (s : Mach) : (still (newPartner p m s)).mems = (still s).mems := by
  simp [newPartner]

@[simp] theorem mems_takePartner (p : Nat) (m : BitVec 256) (s : Mach) : (still (takePartner p m s)).mems = (still s).mems := by
  unfold takePartner
  dsimp only
  repeat' split
  all_goals simp

@[simp] theorem mems_identityArrive (p : Nat) (m : BitVec 256) (s : Mach) :
    (still (identityArrive p m s)).mems = (still s).mems := by
  unfold identityArrive
  dsimp only
  repeat' split
  all_goals simp

@[simp] theorem mems_identityResend (p : Nat) (s : Mach) : (still (identityResend p s)).mems = (still s).mems := by
  unfold identityResend
  dsimp only
  repeat' split
  all_goals simp

@[simp] theorem mems_prtCfg (p : Nat) (v : Word) (s : Mach) : (still (prtCfg p v s)).mems = (still s).mems := by
  unfold prtCfg
  dsimp only
  repeat' split
  all_goals simp

@[simp] theorem mems_retrainTrigger (p : Nat) (t : RtTrigger) (s : Mach) :
    (still (retrainTrigger p t s)).mems = (still s).mems := by
  unfold retrainTrigger
  dsimp only
  repeat' split
  all_goals simp

@[simp] theorem mems_grantLane (p lane : Nat) (s : Mach) : (still (grantLane p lane s)).mems = (still s).mems := by
  simp [grantLane]

@[simp] theorem mems_retrainRequest (p : Nat) (m : BitVec 64) (s : Mach) :
    (still (retrainRequest p m s)).mems = (still s).mems := by
  unfold retrainRequest
  dsimp only
  repeat' split
  all_goals simp

@[simp] theorem mems_retrainGrant (p : Nat) (m : BitVec 64) (s : Mach) :
    (still (retrainGrant p m s)).mems = (still s).mems := by
  unfold retrainGrant
  split <;> simp

@[simp] theorem mems_laneDone (p lane : Nat) (s : Mach) : (still (laneDone p lane s)).mems = (still s).mems := by
  unfold laneDone
  dsimp only
  repeat' split
  all_goals simp

@[simp] theorem mems_peerDone (p : Nat) (s : Mach) : (still (peerDone p s)).mems = (still s).mems := by
  simp [peerDone]

@[simp] theorem mems_laneComplete (p : Nat) (ok : Bool) (s : Mach) : (still (laneComplete p ok s)).mems = (still s).mems := by
  unfold laneComplete
  repeat' split
  all_goals simp

@[simp] theorem mems_retrainDone (p : Nat) (m : BitVec 64) (s : Mach) : (still (retrainDone p m s)).mems = (still s).mems := by
  unfold retrainDone
  split <;> simp

@[simp] theorem mems_idleFlitTimer (p : Nat) (s : Mach) : (still (idleFlitTimer p s)).mems = (still s).mems := by
  unfold idleFlitTimer
  split <;> simp

@[simp] theorem mems_replayTimeout (p : Nat) (s : Mach) : (still (replayTimeout p s)).mems = (still s).mems := by
  unfold replayTimeout
  split <;> simp

@[simp] theorem mems_badMsg (p : Nat) (s : Mach) : (still (badMsg p s)).mems = (still s).mems := by
  simp [badMsg]

end Sys2Proof.Spec
end

section
/-! PROOFS. The memories that maps, rings and registers leave as they are. -/

namespace Sys2Proof.Spec

open Sys2Proof.Machine

/-! ### The operations of Machine/Flash -/

@[simp] theorem mems_licRecord (l : List Byte) (flags : Nat) (s : Mach) :
    (still (licRecord l flags s)).mems = (still s).mems := by rfl

@[simp] theorem mems_storeFirst (i : Nat) (l : List Byte) (s : Mach) :
    (still (storeFirst i l s)).mems = (still s).mems := by rfl

@[simp] theorem mems_storeSecond (i : Nat) (l : List Byte) (s : Mach) :
    (still (storeSecond i l s)).mems = (still s).mems := by rfl

@[simp] theorem mems_licenceStored (l : List Byte) (o : Owed) (s : Mach) :
    (still (licenceStored l o s)).mems = (still s).mems := by
  unfold licenceStored
  split <;> simp

@[simp] theorem mems_storeImage (slot : Bool) (u : List Byte) (s : Mach) :
    (still (storeImage slot u s)).mems = (still s).mems := by rfl

@[simp] theorem mems_blowFuse (r : List Byte) (s : Mach) : (still (blowFuse r s)).mems = (still s).mems := by
  unfold blowFuse
  split <;> simp

@[simp] theorem mems_sayUpdate (command code : Nat) (s : Mach) :
    (still (sayUpdate command code s)).mems = (still s).mems := by rfl

@[simp] theorem mems_imageBlock (slot : Bool) (u : List Byte) (left : Nat) (o : Option Owed) (s : Mach) :
    (still (imageBlock slot u left o s)).mems = (still s).mems := by
  unfold imageBlock
  repeat' split
  all_goals simp

@[simp] theorem mems_imageStored (slot : Bool) (u : List Byte) (o : Option Owed) (s : Mach) :
    (still (imageStored slot u o s)).mems = (still s).mems := by
  unfold imageStored
  dsimp only
  repeat' split
  all_goals simp

@[simp] theorem mems_seqResult (k : WKind) (s : Mach) : (still (seqResult k s)).mems = (still s).mems := by
  unfold seqResult
  split <;> simp

@[simp] theorem mems_writeAgain (r : LedRec) (s : Mach) : (still (writeAgain r s)).mems = (still s).mems := by
  simp [writeAgain]

@[simp] theorem mems_startFail (code : Nat) (state : BitVec 4) (s : Mach) :
    (still (startFail code state s)).mems = (still s).mems := by
  simp [startFail]

@[simp] theorem mems_epochFail (s : Mach) : (still (epochFail s)).mems = (still s).mems := by
  simp [epochFail]

@[simp] theorem mems_seqEnded (w : WSeq) (s : Mach) : (still (seqEnded w s)).mems = (still s).mems := by
  unfold seqEnded
  repeat' split
  all_goals simp

@[simp] theorem mems_writeSequenceEnd (s : Mach) : (still (writeSequenceEnd s)).mems = (still s).mems := by
  unfold writeSequenceEnd
  dsimp only
  repeat' split
  all_goals simp

@[simp] theorem mems_licenceInstall (q : Nat) (d : Desc) (data : Option (List Byte)) (s : Mach) :
    (still (licenceInstall q d data s)).mems = (still s).mems := by
  unfold licenceInstall
  refine mems_startCmd fun _ _ => ?_
  repeat' split
  all_goals simp

@[simp] theorem mems_keyFuse (q : Nat) (d : Desc) (data : Option (List Byte)) (mine : Bool) (s : Mach) :
    (still (keyFuse q d data mine s)).mems = (still s).mems := by
  unfold keyFuse
  refine mems_startCmd fun _ _ => ?_
  repeat' split
  all_goals simp

@[simp] theorem mems_fwUpdate (q : Nat) (d : Desc) (data : Option (List Byte)) (s : Mach) :
    (still (fwUpdate q d data s)).mems = (still s).mems := by
  unfold fwUpdate
  refine mems_startCmd fun _ _ => ?_
  dsimp only
  repeat' split
  all_goals simp

/-! ### The operations of Machine/Maps -/

@[simp] theorem mems_rebuildMap (die : Nat) (s : Mach) : (still (rebuildMap die s)).mems = (still s).mems := by
  unfold rebuildMap
  split <;> simp

@[simp] theorem mems_markDead (k : Nat) (s : Mach) : (still (markDead k s)).mems = (still s).mems := by rfl

@[simp] theorem mems_useSpare (die : Nat) (x : Suspect) (s : Mach) : (still (useSpare die x s)).mems = (still s).mems := by
  unfold useSpare
  split <;> simp

@[simp] theorem mems_applySuspects (die : Nat) (s : Mach) : (still (applySuspects die s)).mems = (still s).mems := by
  unfold applySuspects
  dsimp only
  repeat' split
  all_goals simp

@[simp] theorem mems_measureMap (s : Mach) : (still (measureMap s)).mems = (still s).mems := by
  simp [measureMap]

@[simp] theorem mems_rebuildAll (katFail : List Nat) (s : Mach) : (still (rebuildAll katFail s)).mems = (still s).mems := by
  simp [rebuildAll]

/-! ### The operations of Machine/Protect -/

@[simp] theorem mems_scrubRead (k i : Nat) (s : Mach) : (still (scrubRead k i s)).mems = (still s).mems := by
  unfold scrubRead
  split <;> simp

@[simp] theorem mems_scrubWriteback (k i : Nat) (s : Mach) : (still (scrubWriteback k i s)).mems = (still s).mems := by
  unfold scrubWriteback
  repeat' split
  all_goals simp

@[simp] theorem mems_protCtrl (die : Nat) (v : Word) (s : Mach) : (still (protCtrl die v s)).mems = (still s).mems := by rfl

@[simp] theorem mems_modProt (die : Nat) (f : Prot → Prot) (s : Mach) :
    (still (modProt die f s)).mems = (still s).mems := by rfl

@[simp] theorem mems_coreChk {die : Nat} {v : Word} {op : Nat → Nat → Nat → Mach → Mach} {s : Mach}
    (hop : ∀ k arr w s, (still (op k arr w s)).mems = (still s).mems) :
    (still (coreChk die v op s)).mems = (still s).mems := by
  unfold coreChk
  dsimp only
  repeat' split
  · rw [hop]
    rfl
  all_goals simp

@[simp] theorem mems_chkRawWrite (die : Nat) (v : Word) (s : Mach) : (still (chkRawWrite die v s)).mems = (still s).mems := by
  unfold chkRawWrite
  refine mems_coreChk fun _ _ _ _ => ?_
  dsimp only
  repeat' split
  all_goals simp

@[simp] theorem mems_chkRawRead (die : Nat) (v : Word) (s : Mach) : (still (chkRawRead die v s)).mems = (still s).mems := by
  simp [chkRawRead]

@[simp] theorem mems_chkCheckedRead (die : Nat) (v : Word) (s : Mach) :
    (still (chkCheckedRead die v s)).mems = (still s).mems := by
  simp [chkCheckedRead]

@[simp] theorem mems_modCsl (die : Nat) (f : Csl → Csl) (s : Mach) : (still (modCsl die f s)).mems = (still s).mems := by rfl

@[simp] theorem mems_cslCtrl (die : Nat) (v : Word) (s : Mach) : (still (cslCtrl die v s)).mems = (still s).mems := by
  unfold cslCtrl
  repeat' split
  all_goals simp

@[simp] theorem mems_katComplete (die : Nat) (ok : Bool) (s : Mach) : (still (katComplete die ok s)).mems = (still s).mems := by
  unfold katComplete
  dsimp only
  repeat' split
  all_goals simp

/-! ### The operations of Machine/Rings -/

@[simp] theorem mems_stopRing (q : Nat) (err : Nat) (s : Mach) : (still (stopRing q err s)).mems = (still s).mems := by
  simp [stopRing]

@[simp] theorem mems_ringWrite (q : Nat) (f : Ring → Ring) (s : Mach) : (still (ringWrite q f s)).mems = (still s).mems := by
  unfold ringWrite
  split <;> simp

@[simp] theorem mems_cqCfg (q : Nat) (v : Word) (s : Mach) : (still (cqCfg q v s)).mems = (still s).mems := by
  unfold cqCfg
  dsimp only
  repeat' split
  all_goals simp

@[simp] theorem mems_ringReg (q off : Nat) (v : Word) (s : Mach) : (still (ringReg q off v s)).mems = (still s).mems := by
  unfold ringReg
  split <;> simp

@[simp] theorem mems_cqTail (q : Nat) (v : Word) (s : Mach) : (still (cqTail q v s)).mems = (still s).mems := by
  unfold cqTail
  dsimp only
  repeat' split
  all_goals simp

@[simp] theorem mems_cpHead (q : Nat) (v : Word) (s : Mach) : (still (cpHead q v s)).mems = (still s).mems := by
  unfold cpHead
  dsimp only
  repeat' split
  all_goals simp

@[simp] theorem mems_endUnknown (q : Nat) (s : Mach) : (still (endUnknown q s)).mems = (still s).mems := by
  unfold endUnknown
  repeat' split
  all_goals simp

@[simp] theorem mems_settleUnknown (q : Nat) (s : Mach) : (still (settleUnknown q s)).mems = (still s).mems := by
  simp [settleUnknown]

@[simp] theorem mems_acceptCmd (q : Nat) (d : Desc) (s : Mach) : (still (acceptCmd q d s)).mems = (still s).mems := by
  unfold acceptCmd
  rw [mems_settleUnknown]
  rfl

@[simp] theorem mems_ringIrq (q : Nat) (s : Mach) : (still (ringIrq q s)).mems = (still s).mems := by
  unfold ringIrq
  dsimp only
  repeat' split
  all_goals simp

@[simp] theorem mems_completionWrite (q : Nat) (ok : Bool) (s0 : Mach) :
    (still (completionWrite q ok s0)).mems = (still s0).mems := by
  unfold completionWrite
  dsimp only
  repeat' split
  all_goals simp

@[simp] theorem mems_coalesceTimer (q : Nat) (s : Mach) : (still (coalesceTimer q s)).mems = (still s).mems := by
  unfold coalesceTimer
  split <;> simp

@[simp] theorem mems_irqCauseWrite (v : Word) (s : Mach) : (still (irqCauseWrite v s)).mems = (still s).mems := by
  unfold irqCauseWrite
  refine mems_iter fun _ _ => ?_
  repeat' split
  all_goals simp

@[simp] theorem mems_perstRelease (gen width : BitVec 5) (flitMode : Bool) (s : Mach) :
    (still (perstRelease gen width flitMode s)).mems = (still s).mems := by
  have htrain : ∀ h : HostBlk, (trainLink h).qmem = h.qmem := fun _ => rfl
  unfold perstRelease
  exact mems_ite rfl (congrArg (Prod.mk _) (htrain _))

@[simp] theorem mems_bar2Read (off len : Nat) (s : Mach) : (still (bar2Read off len s)).mems = (still s).mems := by
  unfold bar2Read
  repeat' split
  all_goals simp

@[simp] theorem mems_apertureRead (off : BitVec 36) (len : Nat) (s : Mach) :
    (still (apertureRead off len s)).mems = (still s).mems := by
  unfold apertureRead
  dsimp only
  repeat' split
  all_goals simp

@[simp] theorem mems_memRead (a : BarAddr) (len : Nat) (s : Mach) : (still (memRead a len s)).mems = (still s).mems := by
  unfold memRead
  split <;> simp

@[simp] theorem mems_nop (q : Nat) (d : Desc) (s : Mach) : (still (nop q d s)).mems = (still s).mems := by
  simp [nop]

/-! ### The operations of Machine/Regs -/

@[simp] theorem mems_dieClear (be : BitVec 4) (d off : Nat) (s0 s : Mach) :
    (still (dieClear be d off s0 s)).mems = (still s).mems := by
  unfold dieClear
  repeat' split
  all_goals simp

@[simp] theorem mems_readClears (be : BitVec 4) (a : Nat) (s0 s : Mach) :
    (still (readClears be a s0 s)).mems = (still s).mems := by
  unfold readClears
  repeat' split
  all_goals simp

/-! ### The operations of Machine/RegWrite -/

@[simp] theorem mems_telMsel (v : Word) (s : Mach) : (still (telMsel v s)).mems = (still s).mems := by rfl

@[simp] theorem mems_mgmtWrite (off : Nat) (v : Word) (s : Mach) : (still (mgmtWrite off v s)).mems = (still s).mems := by
  unfold mgmtWrite
  split <;> simp

@[simp] theorem mems_powerWrite (off : Nat) (v : Word) (s : Mach) : (still (powerWrite off v s)).mems = (still s).mems := by
  unfold powerWrite
  split <;> simp

@[simp] theorem mems_sysWrite (off : Nat) (v : Word) (s : Mach) : (still (sysWrite off v s)).mems = (still s).mems := by
  unfold sysWrite
  split <;> simp

@[simp] theorem mems_msixWrite (i : Nat) (v : Word) (s : Mach) : (still (msixWrite i v s)).mems = (still s).mems := by
  unfold msixWrite
  dsimp only
  split <;> rfl

@[simp] theorem mems_hostBlkWrite (off : Nat) (v : Word) (s : Mach) : (still (hostBlkWrite off v s)).mems = (still s).mems := by
  unfold hostBlkWrite
  repeat' split
  all_goals simp

@[simp] theorem mems_trnWrite (off : Nat) (v : Word) (s : Mach) : (still (trnWrite off v s)).mems = (still s).mems := by
  unfold trnWrite
  repeat' split
  all_goals simp

@[simp] theorem mems_prtWrite (off : Nat) (v : Word) (s : Mach) : (still (prtWrite off v s)).mems = (still s).mems := by
  unfold prtWrite
  repeat' split
  all_goals simp

@[simp] theorem mems_rmtWrite (off : Nat) (v : Word) (s : Mach) : (still (rmtWrite off v s)).mems = (still s).mems := by
  unfold rmtWrite
  split <;> simp

@[simp] theorem mems_keepRegWrite (off : Nat) (v : Word) (s : Mach) : (still (keepRegWrite off v s)).mems = (still s).mems := by
  unfold keepRegWrite
  split <;> simp

@[simp] theorem mems_chkCtrl (d : Nat) (v : Word) (s : Mach) : (still (chkCtrl d v s)).mems = (still s).mems := by
  unfold chkCtrl
  split <;> simp

@[simp] theorem mems_dieWrite (d off : Nat) (v : Word) (s : Mach) : (still (dieWrite d off v s)).mems = (still s).mems := by
  unfold dieWrite
  repeat' split
  all_goals simp

/-! ### The operations of Machine/Start -/

@[simp] theorem mems_finishSeqs (s : Mach) : (still (finishSeqs s)).mems = (still s).mems := by
  unfold finishSeqs
  split <;> simp

@[simp] theorem mems_resetEvent (scope : Nat) (cause : BitVec 4) (absorbed : Bool) (round : BitVec 48) (s : Mach) :
    (still (resetEvent scope cause absorbed round s)).mems = (still s).mems := by rfl

@[simp] theorem mems_useImage (slot : Bool) (u : Upsett) (key : Nat) (s : Mach) :
    (still (useImage slot u key s)).mems = (still s).mems := by rfl

@[simp] theorem mems_useLicences (s : Mach) : (still (useLicences s)).mems = (still s).mems := by
  simp [useLicences]

@[simp] theorem mems_startNote  (s : Mach) : (still (startNote s)).mems = (still s).mems := by rfl

@[simp] theorem mems_rampFail (s : Mach) (i : DomInst) : (still (rampFail s i)).mems = (still s).mems := by
  unfold rampFail
  split <;> simp

@[simp] theorem mems_dieGroupOn (k : Nat) (s : Mach) : (still (dieGroupOn k s)).mems = (still s).mems := by
  unfold dieGroupOn
  refine mems_iter fun i t => ?_
  dsimp only
  split <;> rfl

@[simp] theorem mems_trainStack (st : Nat) (s : Mach) : (still (trainStack st s)).mems = (still s).mems := by rfl

@[simp] theorem mems_trainFinds (e : Nat × Nat) (s : Mach) : (still (trainFinds e s)).mems = (still s).mems := by
  unfold trainFinds
  split <;> simp

@[simp] theorem mems_trainAll (bad : List (Nat × Nat)) (s : Mach) : (still (trainAll bad s)).mems = (still s).mems := by
  simp [trainAll]

@[simp] theorem mems_powerSequenceStep (failed : List DomInst) (dies : List (Nat × Nat)) (s : Mach) :
    (still (powerSequenceStep failed dies s)).mems = (still s).mems := by
  unfold powerSequenceStep
  dsimp only
  repeat' split
  all_goals simp

@[simp] theorem mems_startCoolantTimeout (s : Mach) : (still (startCoolantTimeout s)).mems = (still s).mems := by
  unfold startCoolantTimeout
  split <;> simp

@[simp] theorem mems_floorDie (notClean : List Nat) (d : Nat) (s : Mach) :
    (still (floorDie notClean d s)).mems = (still s).mems := by
  unfold floorDie
  dsimp only
  repeat' split
  all_goals simp

@[simp] theorem mems_runPoints (d : Nat) (s : Mach) : (still (runPoints d s)).mems = (still s).mems := by
  unfold runPoints
  dsimp only
  repeat' split
  all_goals simp

@[simp] theorem mems_pass (ms : Nat) (s : Mach) : (still (Machine.pass ms s)).mems = (still s).mems := by
  unfold Machine.pass
  rw [mems_mk, mems_fold]

@[simp] theorem mems_fuseMaps (s : Mach) : (still (fuseMaps s)).mems = (still s).mems := by
  simp [fuseMaps]

@[simp] theorem mems_fixMeasures (s : Mach) : (still (fixMeasures s)).mems = (still s).mems := by rfl

@[simp] theorem mems_ready (s : Mach) : (still (ready s)).mems = (still s).mems := by
  unfold ready
  dsimp only
  repeat' split
  all_goals simp

@[simp] theorem mems_portOff (p : Nat) (s : Mach) : (still (portOff p s)).mems = (still s).mems := by rfl

end Sys2Proof.Spec
end

section
/-! PROOFS. The memories that resets, the weft, the cradle and scalar instructions leave as they are. -/

namespace Sys2Proof.Spec

open Sys2Proof.Machine

/-! ### The operations of Machine/Resets -/

@[simp] theorem mems_coldCores (s : Mach) : (still (coldCores s)).mems = (still s).mems := by rfl

@[simp] theorem mems_dropCoreSide (s : Mach) : (still (dropCoreSide s)).mems = (still s).mems := by
  simp [dropCoreSide]

@[simp] theorem mems_endWaiting (mine : Desc → Bool) (s : Mach) : (still (endWaiting mine s)).mems = (still s).mems := by
  simp [endWaiting]

@[simp] theorem mems_coldWarp (s : Mach) : (still (coldWarp s)).mems = (still s).mems := by
  simp [coldWarp]

@[simp] theorem mems_resetCause (scope : BitVec 2) (cause : BitVec 4) (s : Mach) :
    (still (resetCause scope cause s)).mems = (still s).mems := by rfl

@[simp] theorem mems_warpBegin (cause : BitVec 4) (s : Mach) : (still (warpBegin cause s)).mems = (still s).mems := by
  simp [warpBegin]

@[simp] theorem mems_endOwed (s : Mach) : (still (endOwed s)).mems = (still s).mems := by
  simp [endOwed]

@[simp] theorem mems_warpEnd (katFail : List Nat) (s : Mach) : (still (warpEnd katFail s)).mems = (still s).mems := by
  simp [warpEnd]

@[simp] theorem mems_warpResetDone (katFail : List Nat) (s : Mach) :
    (still (warpResetDone katFail s)).mems = (still s).mems := by
  unfold warpResetDone
  split <;> simp

@[simp] theorem mems_endRimCmds (s : Mach) : (still (endRimCmds s)).mems = (still s).mems := by
  simp [endRimCmds]

@[simp] theorem mems_rimResetDone (bad : List (Nat × Nat)) (katFail : List Nat) (s : Mach) :
    (still (rimResetDone bad katFail s)).mems = (still s).mems := by
  unfold rimResetDone
  split <;> simp

@[simp] theorem mems_forgetLists (s : Mach) : (still (forgetLists s)).mems = (still s).mems := by
  simp [forgetLists]

@[simp] theorem mems_moduleAccept (cause : BitVec 4) (s : Mach) : (still (moduleAccept cause s)).mems = (still s).mems := by
  simp [moduleAccept]

@[simp] theorem mems_owedSummary (s : Mach) : (still (owedSummary s)).mems = (still s).mems := by rfl

@[simp] theorem mems_coreMarkedDead (k : Nat) (s : Mach) : (still (coreMarkedDead k s)).mems = (still s).mems := by
  unfold coreMarkedDead
  dsimp only
  repeat' split
  all_goals simp

@[simp] theorem mems_maintCmd {mine : Nat → Bool} {go : Owed → Mach → Mach} {q : Nat} {d : Desc} {s : Mach}
    (hgo : ∀ o s, (still (go o s)).mems = (still s).mems) : (still (maintCmd mine go q d s)).mems = (still s).mems :=
  mems_startCmd hgo

@[simp] theorem mems_maintEdgeCheckerBegin (q : Nat) (d : Desc) (s : Mach) :
    (still (maintEdgeCheckerBegin q d s)).mems = (still s).mems := by
  unfold maintEdgeCheckerBegin
  refine mems_maintCmd fun _ _ => ?_
  repeat' split
  all_goals simp

@[simp] theorem mems_maintScratchpadCheckerBegin (q : Nat) (d : Desc) (s : Mach) :
    (still (maintScratchpadCheckerBegin q d s)).mems = (still s).mems := by
  unfold maintScratchpadCheckerBegin
  refine mems_maintCmd fun _ _ => ?_
  repeat' split
  all_goals simp

@[simp] theorem mems_maintEndActivity (q : Nat) (d : Desc) (s : Mach) :
    (still (maintEndActivity q d s)).mems = (still s).mems := by
  unfold maintEndActivity
  refine mems_maintCmd fun _ _ => ?_
  dsimp only
  repeat' split
  all_goals simp

@[simp] theorem mems_powerOff (q : Nat) (d : Desc) (s : Mach) : (still (powerOff q d s)).mems = (still s).mems := by
  unfold powerOff
  refine mems_startCmd fun _ _ => ?_
  repeat' split
  all_goals simp

/-! ### The operations of Machine/Weft -/

@[simp] theorem mems_weftRingBreak (r d : Nat) (s : Mach) : (still (weftRingBreak r d s)).mems = (still s).mems := by
  have hcut : ∀ (lo hi : Nat) (u : Mach), (still (iter 144 (fun i s => if ringOf i = r ∧ lo < i ∧ i ≤ hi then
      modDie i (fun x => { x with stw := { x.stw with reachable := false } }) s else s) u)).mems = (still u).mems :=
    fun lo hi u => mems_iter fun _ _ => mems_ite rfl rfl
  unfold weftRingBreak
  dsimp only
  have hbroken : ∀ u, (still (modWeftRing r (fun x => { x with state := 2 }) u)).mems = (still u).mems := fun _ => rfl
  split
  · rfl
  · split
    · simp
    · split
      · rfl
      · split
        · rw [mems_weftRecord, hcut, hbroken]
        · rw [hcut, hbroken]

@[simp] theorem mems_readReg (a : Nat) (be : BitVec 4) (s0 s : Mach) : (still (readReg a be s0 s)).mems = (still s).mems := by
  unfold readReg
  repeat' split
  all_goals simp

@[simp] theorem mems_awaitResponse (f : Frame) (s : Mach) : (still (awaitResponse f s)).mems = (still s).mems := by rfl

@[simp] theorem mems_respond (f : Frame) (data : Word) (status : Nat) (s : Mach) :
    (still (respond f data status s)).mems = (still s).mems := by rfl

@[simp] theorem mems_dieEvent (d : Nat) (s : Mach) : (still (dieEvent d s)).mems = (still s).mems := by
  unfold dieEvent
  split <;> simp

@[simp] theorem mems_ringEvents (r : Nat) (s : Mach) : (still (ringEvents r s)).mems = (still s).mems := by
  unfold ringEvents
  refine mems_iter fun _ _ => ?_
  repeat' split
  all_goals simp

@[simp] theorem mems_carryRequest {f : Frame} {typ : Nat} {serve : Mach → Mach} {s : Mach}
    (hserve : ∀ s, (still (serve s)).mems = (still s).mems) : (still (carryRequest f typ serve s)).mems = (still s).mems := by
  unfold carryRequest
  dsimp only
  repeat' split
  all_goals simp [hserve]

@[simp] theorem mems_weftRead (f : Frame) (s0 s : Mach) : (still (weftRead f s0 s)).mems = (still s).mems := by
  unfold weftRead
  dsimp only
  repeat' split
  all_goals simp

@[simp] theorem mems_readEnds (f : Frame) (v : Word) (s : Mach) : (still (readEnds f v s)).mems = (still s).mems := by
  unfold readEnds
  split <;> simp

@[simp] theorem mems_weftResponse (f : Frame) (s : Mach) : (still (weftResponse f s)).mems = (still s).mems := by
  unfold weftResponse
  repeat' split
  all_goals simp

@[simp] theorem mems_weftResendTimer (tag : Nat) (s : Mach) : (still (weftResendTimer tag s)).mems = (still s).mems := by
  unfold weftResendTimer
  repeat' split
  all_goals simp

@[simp] theorem mems_weftEvent (f : Frame) (s : Mach) : (still (weftEvent f s)).mems = (still s).mems := by
  unfold weftEvent
  dsimp only
  repeat' split
  all_goals simp

@[simp] theorem mems_weftTelemetry (f : Frame) (s : Mach) : (still (weftTelemetry f s)).mems = (still s).mems := by
  unfold weftTelemetry
  dsimp only
  repeat' split
  all_goals simp

@[simp] theorem mems_telemetrySample (s : Mach) : (still (telemetrySample s)).mems = (still s).mems := by
  have hevents : ∀ u, (still (iter 4 ringEvents u)).mems = (still u).mems := fun _ => mems_iter fun _ _ => mems_ringEvents ..
  have hclear : ∀ u, (still (iter 144 (fun d s => if answers s d then
      modDie d (fun x => { x with stw := { x.stw with shCe := 0, shUe := 0, shStr := 0, shTrips := 0 } }) s else s) u)).mems =
      (still u).mems := fun u => mems_iter fun _ _ => mems_ite rfl rfl
  have hweft : ∀ (f : Weft → Weft) (u : Mach), (still (modWeft f u)).mems = (still u).mems := fun _ _ => rfl
  unfold telemetrySample
  dsimp only
  split
  · rfl
  · rw [hweft, hclear, mems_mk, mems_fold]
    exact hevents s

/-! ### The operations of Machine/Cradle -/

@[simp] theorem mems_reply (group command code : Nat) (data : List Byte) (s : Mach) :
    (still (reply group command code data s)).mems = (still s).mems := by rfl

@[simp] theorem mems_onBus {f : Mach → Mach} {s : Mach} (hf : (still (f s)).mems = (still s).mems) :
    (still (onBus f s)).mems = (still s).mems := mems_ite rfl hf

@[simp] theorem mems_mctp (command : Nat) (data : List Byte) (s : Mach) :
    (still (mctp command data s)).mems = (still s).mems := by rfl

@[simp] theorem mems_pldm (typ command code : Nat) (data : List Byte) (s : Mach) :
    (still (pldm typ command code data s)).mems = (still s).mems := by rfl

@[simp] theorem mems_getPldmCommands (typ : Nat) (s : Mach) : (still (getPldmCommands typ s)).mems = (still s).mems := by
  unfold getPldmCommands
  split <;> simp

@[simp] theorem mems_getPdr (handle : Nat) (s : Mach) : (still (getPdr handle s)).mems = (still s).mems := by
  unfold getPdr
  split <;> simp

@[simp] theorem mems_sensorReply (command : Nat) (x : Option (List Byte)) (s : Mach) :
    (still (sensorReply command x s)).mems = (still s).mems := by
  unfold sensorReply
  split <;> simp

@[simp] theorem mems_pollEvent (s : Mach) : (still (pollEvent s)).mems = (still s).mems := by
  unfold pollEvent
  split <;> simp

@[simp] theorem mems_modUpd (f : Upd → Upd) (s : Mach) : (still (modUpd f s)).mems = (still s).mems := by rfl

@[simp] theorem mems_requestUpdate (s : Mach) : (still (requestUpdate s)).mems = (still s).mems := by
  unfold requestUpdate
  split <;> simp

@[simp] theorem mems_updCmd {command : Nat} {ok : UpdStage → Bool} {go : Upd → Mach → Mach} {s : Mach}
    (hgo : ∀ x s, (still (go x s)).mems = (still s).mems) : (still (updCmd command ok go s)).mems = (still s).mems := by
  unfold updCmd
  repeat' split
  · simp
  · simp
  · exact hgo _ s
  · simp

@[simp] theorem mems_askData (off : Nat) (s : Mach) : (still (askData off s)).mems = (still s).mems := by rfl

@[simp] theorem mems_updateComponent (n : Nat) (s : Mach) : (still (updateComponent n s)).mems = (still s).mems := by
  unfold updateComponent
  refine mems_updCmd fun _ _ => ?_
  repeat' split
  all_goals simp

@[simp] theorem mems_firmwareData (off : Nat) (data : List Byte) (s : Mach) :
    (still (firmwareData off data s)).mems = (still s).mems := by
  unfold firmwareData
  dsimp only
  repeat' split
  all_goals simp

@[simp] theorem mems_cancelUpdate  (s : Mach) : (still (cancelUpdate s)).mems = (still s).mems := by
  simp [cancelUpdate]

@[simp] theorem mems_spdm (code err : Nat) (data : List Byte) (s : Mach) :
    (still (spdm code err data s)).mems = (still s).mems := by rfl

@[simp] theorem mems_spdmCmd {stage : Nat} {go : Mach → Mach} {s : Mach} (hgo : (still (go s)).mems = (still s).mems) :
    (still (spdmCmd stage go s)).mems = (still s).mems := by
  unfold spdmCmd
  exact mems_ite rfl (mems_ite (by simp) hgo)

@[simp] theorem mems_setSpdm (n : Nat) (s : Mach) : (still (setSpdm n s)).mems = (still s).mems := by rfl

@[simp] theorem mems_getCertificate (slot off n : Nat) (s : Mach) :
    (still (getCertificate slot off n s)).mems = (still s).mems := by
  unfold getCertificate
  split <;> simp

@[simp] theorem mems_challenge (slot : Nat) (nonce : BitVec 256) (s : Mach) :
    (still (challenge slot nonce s)).mems = (still s).mems := by
  unfold challenge
  split <;> simp

@[simp] theorem mems_getMeasurements (r : MeasRequest) (s : Mach) : (still (getMeasurements r s)).mems = (still s).mems := by
  unfold getMeasurements
  repeat' split
  all_goals simp

@[simp] theorem mems_doeDiscovery (i : Nat) (s : Mach) : (still (doeDiscovery i s)).mems = (still s).mems := by
  unfold doeDiscovery
  split <;> simp

/-! ### The operations of Machine/Scalar -/

@[simp] theorem mems_goto (k : Nat) (pc : Word) (t : Int) (s : Mach) : (still (goto k pc t s)).mems = (still s).mems := by
  unfold goto
  split <;> simp

@[simp] theorem mems_instr {k : Nat} {is : Word → Bool} {f : Core → Word → Mach → Mach} {s : Mach}
    (hf : ∀ c pc s, (still (f c pc s)).mems = (still s).mems) : (still (instr k is f s)).mems = (still s).mems := by
  unfold instr
  dsimp only
  repeat' split
  · simp
  · simp [hf]
  · rfl
  · rfl

@[simp] theorem mems_scalarSlot (k : Nat) (s : Mach) : (still (scalarSlot k s)).mems = (still s).mems := by
  unfold scalarSlot
  split <;> simp

@[simp] theorem mems_aluStep (id : CoreId) (is : Word → Bool) (d : Fin 32) (v : Core → Word) (s : Mach) :
    (still (aluStep id is d v s)).mems = (still s).mems := by
  simp [aluStep]

@[simp] theorem mems_aluA (id : CoreId) (fn : Nat) (d a b : Fin 32) (f : Word → Word → Word) (s : Mach) :
    (still (aluA id fn d a b f s)).mems = (still s).mems := by
  simp [aluA]

@[simp] theorem mems_aluI (id : CoreId) (op : Nat) (d a : Fin 32) (imm : BitVec 16) (f : Word → Word) (s : Mach) :
    (still (aluI id op d a imm f s)).mems = (still s).mems := by
  simp [aluI]

@[simp] theorem mems_access {k n addr : Nat} {pc : Word} {go : Mach → Mach} {s : Mach}
    (hgo : (still (go s)).mems = (still s).mems) : (still (access k n addr pc go s)).mems = (still s).mems := by
  unfold access
  exact mems_ite (by simp) (mems_ite (by simp) hgo)

@[simp] theorem mems_slotted (id : CoreId) (s : Mach) : (still (slotted id s)).mems = (still s).mems :=
  scalarSlot_eq_slotted id s ▸ mems_scalarSlot id.key s

@[simp] theorem mems_loadStep (id : CoreId) (op n : Nat) (d a : Fin 32) (imm : BitVec 16) (put : Nat → Core → Core)
    (s : Mach) : (still (loadStep id op n d a imm put s)).mems = (still s).mems := by
  refine mems_instr fun c pc u => ?_
  refine mems_access ?_
  dsimp only
  split <;> simp

@[simp] theorem mems_storeStep (id : CoreId) (op n : Nat) (d a : Fin 32) (imm : BitVec 16) (v : Core → Nat) (s : Mach) :
    (still (storeStep id op n d a imm v s)).mems = (still s).mems := by
  simp [storeStep]

@[simp] theorem mems_pairStep {id : CoreId} {op : Nat} {d a : Fin 32} {imm : BitVec 16} {f : Mach → Mach} {s : Mach}
    (hf : (still (f s)).mems = (still s).mems) : (still (pairStep id op d a imm f s)).mems = (still s).mems :=
  mems_ite hf (mems_instr fun _ _ _ => by simp)

@[simp] theorem mems_branchStep (id : CoreId) (op : Nat) (d a : Fin 32) (imm : BitVec 16) (cond : Word → Word → Bool)
    (s : Mach) :
    (still (branchStep id op d a imm cond s)).mems = (still s).mems := by
  simp [branchStep]

end Sys2Proof.Spec
end

section
/-! PROOFS. The memories that lanes, host resets and reset requests leave as they are. -/

namespace Sys2Proof.Spec

open Sys2Proof.Machine

/-! ### The operations of Machine/Keep -/

@[simp] theorem mems_exportNext (x : Export) (s : Mach) : (still ((exportNext x s).2)).mems = (still s).mems := by
  unfold exportNext
  dsimp only
  repeat' split
  all_goals simp

@[simp] theorem mems_exportsCycle (s : Mach) : (still (exportsCycle s)).mems = (still s).mems := by
  simp [exportsCycle]

/-! ### The operations of Machine/Ports -/

@[simp] theorem mems_laneTakes (p lane : Nat) (f : Flit) (s : Mach) : (still (laneTakes p lane f s)).mems = (still s).mems := by
  unfold laneTakes
  dsimp only
  repeat' split
  all_goals simp

@[simp] theorem mems_sendFlit (p lane kind seq : Nat) (ms : List Msg) (s : Mach) :
    (still (sendFlit p lane kind seq ms s)).mems = (still s).mems := by
  simp [sendFlit]

@[simp] theorem mems_sendReplay (p lane i : Nat) (f : SentFlit) (s : Mach) :
    (still (sendReplay p lane i f s)).mems = (still s).mems := by
  unfold sendReplay
  split <;> simp

@[simp] theorem mems_sendNew (p lane : Nat) (s : Mach) : (still (sendNew p lane s)).mems = (still s).mems := by
  simp [sendNew]

@[simp] theorem mems_laneFree (p lane : Nat) (s : Mach) : (still (laneFree p lane s)).mems = (still s).mems := by
  unfold laneFree
  dsimp only
  repeat' split
  all_goals simp

/-! ### The operations of Machine/Rings -/

@[simp] theorem mems_hostReset (s : Mach) : (still (hostReset s)).mems = (still s).mems := by rfl

@[simp] theorem mems_functionLevelReset (s : Mach) : (still (functionLevelReset s)).mems = (still s).mems := by rfl

@[simp] theorem mems_perstAssert (s : Mach) : (still (perstAssert s)).mems = (still s).mems := by
  unfold perstAssert
  split <;> simp

@[simp] theorem mems_copyToHost (q : Nat) (d : Desc) (hostOk : Bool) (s : Mach) :
    (still (copyToHost q d hostOk s)).mems = (still s).mems := by
  unfold copyToHost
  refine mems_startCmd fun _ _ => ?_
  dsimp only
  repeat' split
  all_goals simp

/-! ### The operations of Machine/Resets -/

@[simp] theorem mems_coldRim (s : Mach) : (still (coldRim s)).mems = (still s).mems := by
  simp [coldRim]

@[simp] theorem mems_rimBegin (cause : BitVec 4) (s : Mach) : (still (rimBegin cause s)).mems = (still s).mems := by
  unfold rimBegin
  split <;> simp

@[simp] theorem mems_requestReset (scope : Nat) (cause : BitVec 4) (owed : Option Owed) (s : Mach) :
    (still (requestReset scope cause owed s)).mems = (still s).mems := by
  unfold requestReset
  dsimp only
  repeat' split
  all_goals simp

@[simp] theorem mems_agentRequest (scope : Nat) (by_ : ResetAgent) (s : Mach) :
    (still (agentRequest scope by_ s)).mems = (still s).mems := by
  unfold agentRequest
  repeat' split
  all_goals simp

@[simp] theorem mems_rstReq (v : Word) (s : Mach) : (still (rstReq v s)).mems = (still s).mems := by
  unfold rstReq
  split <;> simp

@[simp] theorem mems_watchdogExpiry (s0 : Mach) : (still (watchdogExpiry s0)).mems = (still s0).mems := by
  unfold watchdogExpiry
  dsimp only
  repeat' split
  all_goals simp

@[simp] theorem mems_maintWarpReset (q : Nat) (d : Desc) (s : Mach) : (still (maintWarpReset q d s)).mems = (still s).mems := by
  unfold maintWarpReset
  refine mems_maintCmd fun _ _ => ?_
  repeat' split
  all_goals simp

@[simp] theorem mems_maintRimReset (q : Nat) (d : Desc) (s : Mach) : (still (maintRimReset q d s)).mems = (still s).mems := by
  simp [maintRimReset]

/-! ### The operations of Machine/Cradle -/

@[simp] theorem mems_setEffecter (effecter state : Nat) (s : Mach) :
    (still (setEffecter effecter state s)).mems = (still s).mems := by
  unfold setEffecter
  repeat' split
  all_goals simp

/-! ### The operations of Machine/LedgerRead -/

@[simp] theorem mems_ledgerRead (q : Nat) (d : Desc) (mine : Bool) (ok : Nat → Bool) (form : Mach → LedRec → List Byte)
    (hostOk : Bool) (s : Mach) :
    (still (ledgerRead q d mine ok form hostOk s)).mems = (still s).mems := by
  unfold ledgerRead
  refine mems_startCmd fun _ _ => ?_
  dsimp only
  repeat' split
  all_goals simp

end Sys2Proof.Spec
end

section
/-! PROOFS. The operations that write edge memory or queue memory keep the form of both. -/

namespace Sys2Proof.Spec

open Sys2Proof.Machine

/-! ### The form of the memories -/

/-- A pair of memories, each of its canonical form. -/
def MemsOk (p : Mem × Mem) : Prop := Memory.wf p.1 = true ∧ Memory.wf p.2 = true

theorem memoriesOk_iff (s : Mach) : MemoriesOk s ↔ MemsOk (still s).mems := Iff.rfl

/-- A change of edge memory that keeps its form. -/
theorem ok_modEdge {f : Edge → Edge} {s : Mach} (hf : Memory.wf s.edge.mem = true → Memory.wf (f s.edge).mem = true)
    (h : MemsOk (still s).mems) : MemsOk (still (modEdge f s)).mems := ⟨hf h.1, h.2⟩

/-- A change of queue memory that keeps its form. -/
theorem ok_modHost {f : HostBlk → HostBlk} {s : Mach} (hf : Memory.wf s.host.qmem = true → Memory.wf (f s.host).qmem = true)
    (h : MemsOk (still s).mems) : MemsOk (still (modHost f s)).mems := ⟨h.1, hf h.2⟩

@[simp] theorem ok_ite {p : Prop} [Decidable p] {t u : Mach} (ht : MemsOk (still t).mems) (hu : MemsOk (still u).mems) :
    MemsOk (still (if p then t else u)).mems := by
  split
  · exact ht
  · exact hu

theorem ok_foldl {α : Type} {f : Mach → α → Mach} (hf : ∀ s a, MemsOk (still s).mems → MemsOk (still (f s a)).mems) :
    ∀ (l : List α) (s : Mach), MemsOk (still s).mems → MemsOk (still (l.foldl f s)).mems
  | [], _, h => h
  | a :: l, s, h => ok_foldl hf l (f s a) (hf s a h)

@[simp] theorem ok_iter {n : Nat} {f : Nat → Mach → Mach} {s : Mach}
    (hf : ∀ i s, MemsOk (still s).mems → MemsOk (still (f i s)).mems)
    (h : MemsOk (still s).mems) : MemsOk (still (iter n f s)).mems := ok_foldl (fun t i => hf i t) _ s h

theorem ok_foldl_snd {α β : Type} {f : β × Mach → α → β × Mach}
    (hf : ∀ x a, MemsOk (still x.2).mems → MemsOk (still (f x a).2).mems) :
    ∀ (l : List α) (x : β × Mach), MemsOk (still x.2).mems → MemsOk (still (l.foldl f x).2).mems
  | [], _, h => h
  | a :: l, x, h => ok_foldl_snd hf l (f x a) (hf x a h)

theorem ok_edgeChk {v : Word} {op : Nat → Nat → Mach → Mach} {s : Mach}
    (hop : ∀ cw k s, MemsOk (still s).mems → MemsOk (still (op cw k s)).mems) (h : MemsOk (still s).mems) :
    MemsOk (still (edgeChk v op s)).mems := by
  unfold edgeChk
  dsimp only
  repeat' split
  · exact h
  · rw [still_useUnits]
    exact hop _ _ _ h
  · exact h
  · exact h

/-! ### The operations of Machine/EdgeOps -/

@[simp] theorem ok_writeCw (cw : Nat) (data : List Byte) (poison : Bool) {s : Mach} (h : MemsOk (still s).mems) :
    MemsOk (still (writeCw cw data poison s)).mems := by
  have hpoison : ∀ u, MemsOk (still u).mems →
      MemsOk (still (modEdge (fun e => { e with poison := tset 0 e.poison cw 0xFF }) u)).mems :=
    fun _ hu => hu
  have hstore : ∀ u, MemsOk (still u).mems → MemsOk (still (modEdge (storeCw cw data) u)).mems :=
    fun _ => ok_modEdge fun hm => wf_wrBytes data _ _ hm
  have hgroup : ∀ new u, MemsOk (still u).mems →
      MemsOk (still (modEdge (fun e => { storeSymbols cw new e with poison := tdel e.poison cw }) u)).mems :=
    fun new _ => ok_modEdge fun hm => wf_wrBytes (new.take 32) _ _ hm
  have h0 : MemsOk (still (dropEdgeWb cw s)).mems := by simpa using h
  unfold writeCw
  dsimp only
  rw [mems_countArrivals]
  refine (fun h2 => ok_ite (hpoison _ h2) h2) ?_
  refine ok_ite (ok_ite ?_ ?_) (hstore _ h0)
  · simpa using hgroup _ _ h0
  · simpa using hgroup _ _ h0

@[simp] theorem ok_writeCws : ∀ (cw : Nat) (bs : List Byte) (n : Nat) {s : Mach}, MemsOk (still s).mems →
    MemsOk (still (writeCws cw bs n s)).mems
  | _, _, 0, _, h => h
  | cw, bs, n + 1, _, h => ok_writeCws (cw + 1) (bs.drop 32) n (ok_writeCw cw (bs.take 32) false h)

@[simp] theorem ok_writeEdge (ea : Nat) (bs : List Byte) {s : Mach} (h : MemsOk (still s).mems) :
    MemsOk (still (writeEdge ea bs s)).mems := by
  simp [writeEdge, h]

/-! ### The operations of Machine/Edge -/

@[simp] theorem ok_writeRow (ea : Nat) (bs : List Byte) (poison : Bool) {s : Mach} (h : MemsOk (still s).mems) :
    MemsOk (still (writeRow ea bs poison s)).mems := ok_iter (fun _ _ hu => ok_writeCw _ _ _ hu) h

@[simp] theorem ok_writeDataRow (st link phase : Nat) (row : Row) (poison : Bool) {s : Mach} (h : MemsOk (still s).mems) :
    MemsOk (still (writeDataRow st link phase row poison s)).mems := by
  unfold writeDataRow
  dsimp only
  repeat' split
  all_goals simp [h]

@[simp] theorem ok_rewriteCw (cw : Nat) {s : Mach} (h : MemsOk (still s).mems) : MemsOk (still (rewriteCw cw s)).mems := by
  unfold rewriteCw
  split
  · exact h
  · rw [mems_countArrivals]
    exact ok_modEdge (fun hm => wf_wrBytes _ _ _ hm) h

@[simp] theorem ok_retrainRewrite (st : Nat) {s : Mach} (h : MemsOk (still s).mems) :
    MemsOk (still (retrainRewrite st s)).mems := by
  have hunits : ∀ cw0, MemsOk (still (iter 8 (fun i s => rewriteCw (cw0 + i) s) s)).mems := fun _ =>
    ok_iter (fun _ _ hu => ok_rewriteCw _ hu) h
  unfold retrainRewrite
  dsimp only
  repeat' split
  · exact h
  · exact h
  · simpa using hunits _

@[simp] theorem ok_edgeScrubRewrite (st : Nat) {s : Mach} (h : MemsOk (still s).mems) :
    MemsOk (still (edgeScrubRewrite st s)).mems := by
  unfold edgeScrubRewrite
  repeat' split
  all_goals simp [h]

@[simp] theorem ok_edgeRawWrite (v : Word) {s : Mach} (h : MemsOk (still s).mems) : MemsOk (still (edgeRawWrite v s)).mems := by
  have hsym : ∀ cw k sym u, MemsOk (still u).mems →
      MemsOk (still (modEdge (fun e => known cw k (storeSymbols cw sym e)) u)).mems := by
    intro cw k sym u
    refine ok_modEdge fun hm => ?_
    unfold known
    split <;> exact wf_wrBytes (sym.take 32) _ _ hm
  unfold edgeRawWrite
  exact ok_edgeChk (fun cw k u hu => hsym _ _ _ _ (by simpa using hu)) h

/-! ### The operations of Machine/Train -/

@[simp] theorem ok_reduceWrite (ea : Nat) (bs : List Byte) {s : Mach} (h : MemsOk (still s).mems) :
    MemsOk (still (reduceWrite ea bs s).2).mems := by
  unfold reduceWrite
  refine ok_foldl_snd (fun st i hu => ?_) _ _ h
  dsimp only
  split
  · simpa using hu
  · exact ok_writeCw _ _ _ (by simpa using hu)

@[simp] theorem ok_writeNarrow (j : Job) (done : Nat) (flush : Bool) (r : JobRun) {s : Mach} (h : MemsOk (still s).mems) :
    MemsOk (still (writeNarrow j done flush r s).2).mems := by
  have hrows : ∀ at_ k,
      MemsOk (still (iter k (fun i s => writeCw (at_ / 32 + i) ((r.narrow.drop (32 * i)).take 32) false s) s)).mems :=
    fun _ _ => ok_iter (fun _ _ hu => ok_writeCw _ _ _ hu) h
  unfold writeNarrow
  dsimp only
  split
  · refine ok_ite ?_ (ok_writeCw _ _ _ ?_) <;> simpa using hrows _ _
  · exact hrows _ _

@[simp] theorem ok_jobGroup (j : Job) (c : Scal) (g : Nat) (st : JobRun × Mach) (h : MemsOk (still st.2).mems) :
    MemsOk (still (jobGroup j c g st).2).mems := by
  obtain ⟨r, s⟩ := st
  unfold jobGroup
  dsimp only
  split
  · exact h
  · generalize h1 : readGroup true (jbG j) g s = y1
    obtain ⟨gs, ue1, s1⟩ := y1
    generalize h2 : readGroup true (jbW j) g s1 = y2
    obtain ⟨ws, ue2, s2⟩ := y2
    generalize h3 : readGroup (jbUsesM j) (jbM j) g s2 = y3
    obtain ⟨ms, ue3, s3⟩ := y3
    generalize h4 : readGroup (jbUsesV j) (jbV j) g s3 = y4
    obtain ⟨vs, ue4, s4⟩ := y4
    have hread : MemsOk (still s4).mems := by
      have e1 := mems_readGroup true (jbG j) g s
      have e2 := mems_readGroup true (jbW j) g s1
      have e3 := mems_readGroup (jbUsesM j) (jbM j) g s2
      have e4 := mems_readGroup (jbUsesV j) (jbV j) g s3
      rw [h1] at e1
      rw [h2] at e2
      rw [h3] at e3
      rw [h4] at e4
      exact (e4.trans (e3.trans (e2.trans e1))).symm ▸ h
    have hput : ∀ (b : Bool) cw bs u, MemsOk (still u).mems →
        MemsOk (still (if b then writeCw cw bs false u else u)).mems :=
      fun b cw bs u hu => ok_ite (ok_writeCw cw bs false hu) hu
    dsimp only
    split
    · exact hread
    · split
      · exact hread
      · split
        · exact ok_writeNarrow _ _ _ _ (hput _ _ _ _ (hput _ _ _ _ (ok_writeCw _ _ _ hread)))
        · exact hput _ _ _ _ (hput _ _ _ _ (ok_writeCw _ _ _ hread))

@[simp] theorem ok_jobRun (j : Job) (status : Nat) (dig : BitVec 64) {s : Mach} (h : MemsOk (still s).mems) :
    MemsOk (still (jobRun j status dig s).2).mems := by
  have hrun : MemsOk (still (iter (jbCount j / 8) (jobGroup j (scal j)) (JobRun.start status dig, s)).2).mems :=
    ok_foldl_snd (fun st g hu => ok_jobGroup j (scal j) g st hu) _ _ h
  unfold jobRun
  exact ok_writeNarrow _ _ _ _ hrun

@[simp] theorem ok_unitWrite (ea : Nat) (bs : List Byte) {s : Mach} (h : MemsOk (still s).mems) :
    MemsOk (still (unitWrite ea bs s)).mems := by
  simp [unitWrite, h]

@[simp] theorem ok_updateJobEnd (u : Nat) {s : Mach} (h : MemsOk (still s).mems) : MemsOk (still (updateJobEnd u s)).mems := by
  have hjob : ∀ (p : Prop) [Decidable p] (a : JobRun) (j : Job) (n : Nat) (dig : BitVec 64),
      MemsOk (still (if p then (a, s) else jobRun j n dig s).2).mems := by
    intro p _ a j n dig
    split
    · exact h
    · exact ok_jobRun j n dig h
  unfold updateJobEnd
  dsimp only
  split
  · exact h
  · next l _ =>
    generalize hy : (if l.desc.isEmpty = true then (JobRun.start 1 (unitAt s u).dig, s) else _) = y
    have hrun : MemsOk (still y.2).mems := hy ▸ hjob _ _ _ _ _
    obtain ⟨r, s1⟩ := y
    dsimp only at hrun ⊢
    have hput : ∀ {p : Prop} [Decidable p] ea bs {t : Mach}, MemsOk (still t).mems →
        MemsOk (still (if p then unitWrite ea bs t else t)).mems := fun ea bs _ ht => ok_ite (ok_unitWrite ea bs ht) ht
    have hunits : ∀ {p : Prop} [Decidable p] n m, MemsOk (still (if p then jobUnits l.desc n m s1 else s1)).mems := fun n m =>
      ok_ite (by simpa using hrun) hrun
    refine ok_ite ?_ (ok_ite ?_ ?_)
    all_goals
      simp only [still_nextList, still_endList, still_uuFault, still_startJob, still_modUnit]
      exact hput _ _ (hput _ _ (hunits _ _))

/-! ### The operations of Machine/Remote -/

@[simp] theorem ok_performWrite (m : RWriteMsg) {s : Mach} (h : MemsOk (still s).mems) :
    MemsOk (still ((performWrite m s).2)).mems := by
  unfold performWrite
  dsimp only
  repeat' split
  all_goals simp [h]

@[simp] theorem ok_takeWrite (p : Nat) (m : RWriteMsg) {s : Mach} (h : MemsOk (still s).mems) :
    MemsOk (still (takeWrite p m s)).mems := by
  unfold takeWrite
  dsimp only
  repeat' split
  all_goals simp [h]

@[simp] theorem ok_rwriteArrive (p : Nat) (m : RWriteMsg) {s : Mach} (h : MemsOk (still s).mems) :
    MemsOk (still (rwriteArrive p m s)).mems := by
  unfold rwriteArrive
  repeat' split
  all_goals simp [h]

/-! ### The operations of Machine/Keep -/

@[simp] theorem ok_writeKcrc (g : Keeping) {s : Mach} (h : MemsOk (still s).mems) :
    MemsOk (still ((writeKcrc g s).2)).mems := by
  unfold writeKcrc
  dsimp only
  repeat' split
  all_goals simp [h]

@[simp] theorem ok_answerCheck {s : Mach} (h : MemsOk (still s).mems) : MemsOk (still (answerCheck s)).mems := by
  unfold answerCheck
  dsimp only
  repeat' split
  all_goals simp [h]

@[simp] theorem ok_keeperRead (g : Keeping) (m : RReadMsg) {s : Mach} (h : MemsOk (still s).mems) :
    MemsOk (still (keeperRead g m s)).mems := by
  unfold keeperRead
  dsimp only
  split
  · simpa using h
  · have hs := mems_slotHeader g.slot s
    generalize slotHeader g.slot s = y at hs ⊢
    obtain ⟨_ | b, t⟩ := y
    · simpa [hs] using h
    · have ht : MemsOk (still t).mems := by simpa [hs] using h
      dsimp only
      split
      · simpa using ht
      · exact ok_answerCheck (by simpa using ht)

@[simp] theorem ok_keeperWrite (g : Keeping) (m : RWriteMsg) {s : Mach} (h : MemsOk (still s).mems) :
    MemsOk (still (keeperWrite g m s)).mems := by
  simp [keeperWrite, h]

@[simp] theorem ok_targetWrite (x : Restore) (m : RWriteMsg) {s : Mach} (h : MemsOk (still s).mems) :
    MemsOk (still ((targetWrite x m s).2)).mems := by
  unfold targetWrite
  dsimp only
  repeat' split
  all_goals simp [h]

@[simp] theorem ok_keepTakeWrite (p : Nat) (m : RWriteMsg) {s : Mach} (h : MemsOk (still s).mems) :
    MemsOk (still (keepTakeWrite p m s)).mems := by
  unfold keepTakeWrite
  dsimp only
  repeat' split
  all_goals simp [h]

@[simp] theorem ok_keepTakeRead (m : RReadMsg) {s : Mach} (h : MemsOk (still s).mems) :
    MemsOk (still (keepTakeRead m s)).mems := by
  unfold keepTakeRead
  dsimp only
  repeat' split
  all_goals simp [h]

theorem ok_keepArrive {p : Nat} {m : Msg} {own : Mach → Mach} {s : Mach} (hown : MemsOk (still (own s)).mems)
    (h : MemsOk (still s).mems) : MemsOk (still (keepArrive p m own s)).mems := by
  unfold keepArrive
  refine ok_ite h (ok_ite hown ?_)
  simpa using h

@[simp] theorem ok_keepRwriteArrive (p : Nat) (m : RWriteMsg) {s : Mach} (h : MemsOk (still s).mems) :
    MemsOk (still (keepRwriteArrive p m s)).mems := ok_keepArrive (ok_keepTakeWrite p m h) h

@[simp] theorem ok_keepRreadArrive (p : Nat) (m : RReadMsg) {s : Mach} (h : MemsOk (still s).mems) :
    MemsOk (still (keepRreadArrive p m s)).mems := ok_keepArrive (ok_keepTakeRead m h) h

@[simp] theorem ok_importCycle {s : Mach} (h : MemsOk (still s).mems) : MemsOk (still (importCycle s)).mems := by
  unfold importCycle
  repeat' split
  all_goals simp [h]

@[simp] theorem ok_copyCycle {s : Mach} (h : MemsOk (still s).mems) : MemsOk (still (copyCycle s)).mems := by
  simp [copyCycle, h]

/-! ### The operations of Machine/Ports -/

@[simp] theorem ok_dispatch (p : Nat) (bs : List Byte) {s : Mach} (h : MemsOk (still s).mems) :
    MemsOk (still (dispatch p bs s)).mems := by
  unfold dispatch
  dsimp only
  repeat' split
  all_goals simp [h]

@[simp] theorem ok_takePayload (p kind : Nat) : ∀ (n : Nat) (bs : List Byte) {s : Mach}, MemsOk (still s).mems →
    MemsOk (still (takePayload p kind n bs s)).mems
  | 0, _, _, h => h
  | n + 1, bs, s, h => by
    unfold takePayload
    repeat' split
    · exact h
    · simpa using h
    · exact ok_takePayload p kind n _ (ok_dispatch p _ h)
    · simpa using h

@[simp] theorem ok_vzlFlit (p : Nat) (f : Flit) (fec : FecSeen) {s0 : Mach} (h : MemsOk (still s0).mems) :
    MemsOk (still (vzlFlit p f fec s0)).mems := by
  unfold vzlFlit
  dsimp only
  repeat' split
  all_goals simp [h]

/-! ### The operations of Machine/Rings -/

@[simp] theorem ok_commandFetch (q : Nat) (d : Option Desc) {s : Mach} (h : MemsOk (still s).mems) :
    MemsOk (still (commandFetch q d s)).mems := by
  have hput : ∀ a bs, MemsOk (still (modHost (fun b => { b with qmem := wrBytes b.qmem a bs }) s)).mems := fun a bs =>
    ok_modHost (fun hm => wf_wrBytes bs _ a hm) h
  unfold commandFetch
  dsimp only
  repeat' split
  · exact h
  · simpa using h
  · simpa using hput _ _
  all_goals simpa using h

@[simp] theorem ok_bar2Write (off : Nat) (data : List Byte) {s : Mach} (h : MemsOk (still s).mems) :
    MemsOk (still (bar2Write off data s)).mems := by
  have hput : ∀ (l : List (Byte × Nat)) (m : Mem), Memory.wf m = true → Memory.wf (l.foldl (fun m e =>
      if 0x1000000 ≤ off + e.2 ∧ off + e.2 < 0x1400000 then wr m (off + e.2 - 0x1000000) e.1 else m) m) = true := by
    intro l
    induction l with
    | nil => exact fun _ hm => hm
    | cons e l ih =>
      intro m hm
      refine ih _ ?_
      dsimp only
      split
      · exact wf_wr m _ _ hm
      · exact hm
  unfold bar2Write
  repeat' split
  · exact h
  · simpa using h
  · simpa using h
  · exact h
  · exact ok_modHost (hput _ _) h

@[simp] theorem ok_apertureWrite (off : BitVec 36) (data : List Byte) {s : Mach} (h : MemsOk (still s).mems) :
    MemsOk (still (apertureWrite off data s)).mems := by
  unfold apertureWrite
  dsimp only
  repeat' split
  all_goals simp [h]

@[simp] theorem ok_memWrite (a : BarAddr) (data : List Byte) {s : Mach} (h : MemsOk (still s).mems) :
    MemsOk (still (memWrite a data s)).mems := by
  unfold memWrite
  repeat' split
  all_goals simp [h]

theorem ok_startCmd {q : Nat} {d : Desc} {mine : Bool} {named : List (Nat × Nat)} {go : Owed → Mach → Mach} {s : Mach}
    (hgo : ∀ o s, MemsOk (still s).mems → MemsOk (still (go o s)).mems) (h : MemsOk (still s).mems) :
    MemsOk (still (startCmd q d mine named go s)).mems := by
  unfold startCmd
  dsimp only
  repeat' split
  · exact h
  · exact h
  · simpa using h
  · simpa using h
  · exact hgo _ _ h

@[simp] theorem ok_copyToEdge (q : Nat) (d : Desc) (data : Option (List Byte)) {s : Mach} (h : MemsOk (still s).mems) :
    MemsOk (still (copyToEdge q d data s)).mems := by
  unfold copyToEdge
  refine ok_startCmd (fun o u hu => ?_) h
  repeat' split
  · simpa using hu
  · simpa using hu
  · simpa using hu
  · simpa using ok_writeEdge _ _ hu

/-! ### The operations of Machine/RegWrite -/

@[simp] theorem ok_edgeChkWrite (v : Word) {s : Mach} (h : MemsOk (still s).mems) : MemsOk (still (edgeChkWrite v s)).mems := by
  unfold edgeChkWrite
  split
  · exact ok_modEdge id h
  · exact ok_edgeRawWrite v h
  all_goals simpa using h

@[simp] theorem ok_emcWrite (off : Nat) (v : Word) {s : Mach} (h : MemsOk (still s).mems) :
    MemsOk (still (emcWrite off v s)).mems := by
  unfold emcWrite
  repeat' split
  all_goals simp [h]

@[simp] theorem ok_regWrite (a : Nat) (v : Word) {s : Mach} (h : MemsOk (still s).mems) :
    MemsOk (still (regWrite a v s)).mems := by
  unfold regWrite
  repeat' split
  all_goals simp [h]

@[simp] theorem ok_hostWrite (a : Nat) (v : Word) (s0 s : Mach) (h : MemsOk (still s).mems) :
    MemsOk (still (hostWrite a v s0 s)).mems := by
  simp [hostWrite, h]

@[simp] theorem ok_applySetting (e : Nat × Nat × Nat) {s : Mach} (h : MemsOk (still s).mems) :
    MemsOk (still (applySetting e s)).mems := by
  simp [applySetting, h]

/-! ### The operations of Machine/Start -/

/-- A start clears both memories. -/
theorem mems_restartMach (cold : Bool) (s : Mach) : (still (restartMach cold s)).mems = ([], []) := by
  have hhost : ∀ u, (retrained u).qmem = [] := by
    intro u
    unfold retrained
    dsimp only
    repeat' split
    all_goals rfl
  unfold restartMach
  dsimp only
  rw [mems_mk, hhost]
  rfl

@[simp] theorem ok_restartMach (cold : Bool) (s : Mach) : MemsOk (still (restartMach cold s)).mems := by
  rw [mems_restartMach]
  exact ⟨rfl, rfl⟩

@[simp] theorem ok_beginStart (cold : Bool) (cause : BitVec 4) (record : Bool) (s : Mach) :
    MemsOk (still (beginStart cold cause record s)).mems := by
  unfold beginStart
  dsimp only
  repeat' split
  all_goals simp

@[simp] theorem ok_coldStart {s : Mach} (h : MemsOk (still s).mems) : MemsOk (still (coldStart s)).mems := by
  simp [coldStart, h]

@[simp] theorem ok_applySettings {s : Mach} (h : MemsOk (still s).mems) : MemsOk (still (applySettings s)).mems :=
  ok_foldl (fun _ e hu => ok_applySetting e hu) _ _ h

@[simp] theorem ok_burnStep (b : BurnStep) {s : Mach} (h : MemsOk (still s).mems) : MemsOk (still (burnStep b s)).mems := by
  unfold burnStep
  dsimp only
  repeat' split
  all_goals simp [h]

@[simp] theorem ok_startAgain (cause : BitVec 4) {s : Mach} (h : MemsOk (still s).mems) :
    MemsOk (still (startAgain cause s)).mems := by
  simp [startAgain, h]

@[simp] theorem ok_stacksOff {s : Mach} (h : MemsOk (still s).mems) : MemsOk (still (stacksOff s)).mems :=
  ok_iter (fun _ _ hu => hu) (ok_modEdge (fun _ => rfl) h)

@[simp] theorem ok_powerDownStep {s : Mach} (h : MemsOk (still s).mems) : MemsOk (still (powerDownStep s)).mems := by
  unfold powerDownStep
  dsimp only
  repeat' split
  all_goals simp [h]

/-! ### The operations of Machine/Resets -/

@[simp] theorem ok_inputReturn {s : Mach} (h : MemsOk (still s).mems) : MemsOk (still (inputReturn s)).mems := by
  simp [inputReturn, h]

/-! ### The operations of Machine/Weft -/

theorem ok_hostAccess {a : Nat} {f : Mach → Mach} {s : Mach} (hf : MemsOk (still (f s)).mems) (h : MemsOk (still s).mems) :
    MemsOk (still (hostAccess a f s)).mems := by
  unfold hostAccess
  split
  · exact h
  · split
    · exact ok_ite hf (by simpa using h)
    · exact hf

@[simp] theorem ok_writeReg (a : Nat) (be : BitVec 4) (v : Word) (s0 : Mach) {s : Mach} (h : MemsOk (still s).mems) :
    MemsOk (still (writeReg a be v s0 s)).mems := by
  unfold writeReg
  exact ok_ite h (ok_ite (by simpa using h) (ok_hostAccess (ok_hostWrite a v s0 s h) h))

theorem ok_carryRequest {f : Frame} {typ : Nat} {serve : Mach → Mach} {s : Mach}
    (hserve : ∀ s, MemsOk (still s).mems → MemsOk (still (serve s)).mems) (h : MemsOk (still s).mems) :
    MemsOk (still (carryRequest f typ serve s)).mems := by
  unfold carryRequest
  dsimp only
  repeat' split
  · exact h
  · simpa using h
  · simpa using h
  · simpa using h
  · exact hserve _ (by simpa using h)

@[simp] theorem ok_weftWrite (f : Frame) (s0 : Mach) {s : Mach} (h : MemsOk (still s).mems) :
    MemsOk (still (weftWrite f s0 s)).mems := by
  unfold weftWrite
  refine ok_carryRequest (fun u hu => ?_) h
  dsimp only
  repeat' split
  · simpa using hu
  · exact ok_hostWrite _ _ s0 _ (by simpa using hu)
  · simpa using hu

@[simp] theorem ok_weftBroadcast (f : Frame) (s0 : Mach) {s : Mach} (h : MemsOk (still s).mems) :
    MemsOk (still (weftBroadcast f s0 s)).mems := by
  unfold weftBroadcast
  split
  · exact h
  · exact ok_iter (fun d u hu => ok_ite (ok_hostWrite _ _ s0 u hu) hu) h

end Sys2Proof.Spec
end

section
/-! PROOFS. Every command and every idle cycle keeps the form of the memories (log entry 9). -/

namespace Sys2Proof.Spec

open Sys2Proof.Machine

/-- Where an answer is a next state, its memories have their form. -/
def FormKept (r : Res) : Prop := ∀ t, r = .next t → MemoriesOk t.m

theorem memoriesOk_to {s : State} {m : Mach} (h : MemsOk (still m).mems) : MemoriesOk (s.to m).m := by
  unfold State.to
  split <;> exact h

theorem formKept_run {f : Mach → Mach} {s : State} (h : MemsOk (still (f s.m)).mems) : FormKept (run f s) := by
  rintro t ⟨⟩
  exact memoriesOk_to h

theorem formKept_runIf {ok : Bool} {f : Mach → Mach} {s : State} (h : MemsOk (still (f s.m)).mems) :
    FormKept (runIf ok f s) := by
  unfold runIf
  split
  · exact formKept_run h
  · exact fun _ => nofun

theorem formKept_runHost {f : Mach → Mach → Mach} {s : State} (h : MemsOk (still (f s.start s.m)).mems) :
    FormKept (runHost f s) := by
  rintro t ⟨⟩
  exact h

theorem formKept_runAccess {a : Nat} {f : Mach → Mach} {s : State} (h : MemsOk (still s.m).mems)
    (hf : MemsOk (still (f s.m)).mems) : FormKept (runAccess a f s) := formKept_runHost (ok_hostAccess hf h)

theorem formKept_runSelect {a : Nat} {f : Mach → Mach} {s : State} (h : MemsOk (still s.m).mems)
    (hf : MemsOk (still (f s.m)).mems) : FormKept (runSelect a f s) :=
  formKept_runHost (ok_hostAccess (by simpa using hf) h)

/-! ### Commands whose operation takes cases -/

theorem formKept_instr {k : Nat} {is : Word → Bool} {f : Core → Word → Mach → Mach} {s : State}
    (h : MemsOk (still s.m).mems)
    (hf : ∀ c pc u, (still (f c pc u)).mems = (still u).mems) : FormKept (run (instr k is f) s) :=
  formKept_run (by simpa [mems_instr hf] using h)

theorem formKept_issue (id : CoreId) (d a : Fin 32) (imm : BitVec 16) {s : State} (h : MemsOk (still s.m).mems) :
    FormKept (execIssue id d a imm s) := by
  refine formKept_instr h fun c pc u => ?_
  dsimp only
  repeat' split
  all_goals simp

theorem formKept_issueResume (id : CoreId) {s : State} (h : MemsOk (still s.m).mems) : FormKept (execIssueResume id s) := by
  refine formKept_run ?_
  dsimp only
  repeat' split
  all_goals simp [h]

theorem formKept_wait (id : CoreId) (d a : Fin 32) (imm : BitVec 16) {s : State} (h : MemsOk (still s.m).mems) :
    FormKept (execWait id d a imm s) := by
  refine formKept_instr h fun c pc u => ?_
  repeat' split
  all_goals simp

theorem formKept_waitRelease (id : CoreId) {s : State} (h : MemsOk (still s.m).mems) : FormKept (execWaitRelease id s) := by
  refine formKept_run ?_
  dsimp only
  repeat' split
  all_goals simp [h]

theorem formKept_csrr (id : CoreId) (d a : Fin 32) (imm : BitVec 16) {s : State} (h : MemsOk (still s.m).mems) :
    FormKept (execCsrr id d a imm s) := by
  refine formKept_instr h fun c pc u => ?_
  split <;> simp

theorem formKept_csrw (id : CoreId) (d a : Fin 32) (imm : BitVec 16) {s : State} (h : MemsOk (still s.m).mems) :
    FormKept (execCsrw id d a imm s) := by
  refine formKept_instr h fun c pc u => ?_
  split <;> simp

theorem formKept_done (id : CoreId) (off : BitVec 26) {s : State} (h : MemsOk (still s.m).mems) :
    FormKept (execDone id off s) := by
  refine formKept_instr h fun c pc u => ?_
  split <;> simp

theorem formKept_eret (id : CoreId) (off : BitVec 26) {s : State} (h : MemsOk (still s.m).mems) :
    FormKept (execEret id off s) := by
  refine formKept_instr h fun c pc u => ?_
  split <;> simp

theorem formKept_illegalInstruction (id : CoreId) (w : Word) {s : State} (h : MemsOk (still s.m).mems) :
    FormKept (execIllegalInstruction id w s) := by
  refine formKept_run (ok_ite h ?_)
  rw [mems_instr fun _ _ _ => by simp]
  exact h

theorem formKept_switchReadyGather {s : State} (h : MemsOk (still s.m).mems) : FormKept (execSwitchReadyGather s) := by
  refine formKept_run ?_
  rw [mems_switchReadyGather]
  exact ok_ite (by simpa using h) h

theorem formKept_sectionGo {s : State} (h : MemsOk (still s.m).mems) : FormKept (execSectionGo s) := by
  refine formKept_run ?_
  rw [mems_sectionGo]
  exact ok_ite (by simpa using h) h

theorem formKept_negotiateAlgorithms (hash sign : Bool) {s : State} (h : MemsOk (still s.m).mems) :
    FormKept (execNegotiateAlgorithms hash sign s) := by
  refine formKept_run ?_
  rw [mems_onBus]
  · exact h
  · refine mems_spdmCmd ?_
    split <;> simp

theorem formKept_hostIrqCauseWrite (v : Word) {s : State} (h : MemsOk (still s.m).mems) :
    FormKept (execHostIrqCauseWrite v s) := formKept_runHost (ok_hostAccess (by simpa using h) h)

/-! ### Every command and every step -/

theorem formKept_exec (i : Instr) {s : State} (h : MemsOk (still s.m).mems) : FormKept (exec i s) := by
  cases i with
  | issue k d a imm => exact formKept_issue k d a imm h
  | issueResume k => exact formKept_issueResume k h
  | wait k d a imm => exact formKept_wait k d a imm h
  | waitRelease k => exact formKept_waitRelease k h
  | csrr k d a imm => exact formKept_csrr k d a imm h
  | csrw k d a imm => exact formKept_csrw k d a imm h
  | done k off => exact formKept_done k off h
  | eret k off => exact formKept_eret k off h
  | illegalInstruction k w => exact formKept_illegalInstruction k w h
  | switchReadyGather => exact formKept_switchReadyGather h
  | sectionGo => exact formKept_sectionGo h
  | negotiateAlgorithms hash sign => exact formKept_negotiateAlgorithms hash sign h
  | hostIrqCauseWrite v => exact formKept_hostIrqCauseWrite v h
  | rndEnSet | rndSreqWrite | trkClrAll | emcSplitWrite | emcRimphWrite | uuStop | prtCfgEnWrite | prtRtreq
  | sysTwinWrite | logclr | chkRawWrite | chkRawRead | chkCheckedRead | edgeRawSymbolWrite | edgeRawSymbolRead
  | edgeCheckedRead | katRequest | lsCtrlClr | dieVcmd | calSetHiWrite | ringEnable | ringDisable
  | ringConfigViolation => exact formKept_runAccess h (by simp [h])
  | ptnSelWrite | winSelWrite | emsLogselWrite | emsLogClr | mntSelWrite | vminSelWrite | vminClr | pwrVminSelWrite
  | pwrVminClr | telMselWrite => exact formKept_runSelect h (by simp [h])
  | remoteWriteRequest | rwrite | rread | rdata | keepRwrite | keepRread | keepRdata | apertureRead | apertureWrite
  | hostCopyToEdge | ckptImport | licenceInstall | keyFuseProgram | keyFuseRevoke | fwUpdate =>
    exact formKept_runIf (by simp [h])
  | weftRead | weftWrite | weftBroadcast | calSecLoRead | rcFieldRead | registerWrite => exact formKept_runHost (by simp [h])
  | _ => exact formKept_run (by simp [h])

theorem formKept_step {s : State} (h : MemoriesOk s.m) : FormKept (step s) := by
  unfold step
  split
  · rintro t ⟨⟩
    exact memoriesOk_to (ok_copyCycle (by simpa using (memoriesOk_iff s.m).1 h))
  · exact formKept_exec _ h

/-- Settles O58: every step, of a command or of an idle cycle, keeps the form of both memories. -/
theorem memoriesKeepTheirForm : Obligations.MemoriesKeepTheirForm := fun _ t h hstep => formKept_step h t hstep

end Sys2Proof.Spec
end
